-- ==== Sys2Proof/Word.lean ====
section
/-! DEFINITION. The word types of the block: bytes, registers and memory keys. -/

namespace Sys2Proof

/-- One byte, the unit of every layout of the manual (R6). -/
abbrev Byte := BitVec 8
/-- A 16-bit field. -/
abbrev W16 := BitVec 16
/-- A 32-bit field, and the bit pattern of an FP32 value (R58). -/
abbrev W32 := BitVec 32
/-- A 64-bit field. -/
abbrev W64 := BitVec 64

end Sys2Proof
end

