-- ==== Sys2Proof/Syntax.lean ====
section
/-! DEFINITION. The commands the block takes: one constructor of `Instr` per row of spec/opcode_table.json,
with the operands the row's own rule gives it. Where a row is an event, its operands are what the event brings
from outside (a packet, a sensor reading, the bytes a DMA read returns). -/

namespace Sys2Proof

/-- The two PCIe ports (R14, R252). -/
inductive PPort where
  | a | b
deriving DecidableEq, Repr

/-- The levels of the fault collectors (R303, R359). -/
inductive Level where
  | cell | block | region | chip
deriving DecidableEq, Repr

/-- The vector opcodes of R152. -/
inductive VOp where
  | ld | st | ldg | add | sub | mul | fma | max | min | abs | neg | sel | cmplt | cmple | cmpeq
  | mand | mor | mnot | exp2 | log2 | rcp | rsqrt | tanh | erf | cvt | redsum | redmax | redmin | scan
  | azero | aadd | afold | around | ascan | ald | ast | lig | topkm
deriving DecidableEq, Repr

/-- The fields of a vector instruction behind its opcode (R151). -/
structure VFields where
  w : Nat
  vd : Nat
  va : Nat
  vb : Nat
  vc : Nat
  mask : Nat
  invert : Bool
  release : Bool
  zeroing : Bool
  addr : W32
  stride : W32
deriving DecidableEq, Repr

/-- One instruction of a vector item. -/
structure VInstr where
  op : VOp
  f : VFields
deriving DecidableEq, Repr

/-- A pass descriptor (R105). -/
structure PassDesc where
  streamFmt : Nat
  weightFmt : Nat
  zeroFill : Bool
  reuse : Bool
  inclBudget : Nat
  tensor : Nat
  kFirst : Nat
  weightAddr : Nat
  streamAddr : List Nat
  rows : List Nat
  accBase : Nat
  rowMaskAddr : Option Nat
  colMask : Nat
deriving DecidableEq, Repr

/-- A drain body (R237). `arrays` holds the four array bits; `outFmt` is none for 0xFF. -/
structure DrainDesc where
  arrays : Nat
  outFmt : Option Nat
  toGalley : Bool
  fusedAdd : Bool
  fusedMul : Bool
  topk : Bool
  compare : Bool
  final : Bool
  k : Nat
  tensor : Nat
  accFirst : Nat
  rows : Nat
  dst : Nat
  addend : Nat
  multiplicand : Nat
  topkDst : Nat
  addendFmt : Nat
  multFmt : Nat
  rowFirst : Nat
  colFirst : Nat
  stream : W32
deriving DecidableEq, Repr

/-- An endpoint (R192). -/
inductive Endpoint where
  | hbm (addr : Nat)
  | caseMem (cell off : Nat)
  | remote (chip : Nat) (addr : Nat)
  | host (binding off : Nat)
deriving DecidableEq, Repr

/-- Who issues a bezel operation (R190, R193). -/
inductive Issuer where
  | cell (i : Nat)
  | unit (k : Nat)
  | firmware (k : Nat)
deriving DecidableEq, Repr

/-- The fields of a bezel operation descriptor behind its opcode (R191). -/
structure BezelDesc where
  srcFmt : Nat
  dstFmt : Nat
  quant : Nat
  aux : Nat
  tensor : Nat
  src : Endpoint
  dst : Endpoint
  rowFirst : Nat
  colFirst : Nat
  rows : Nat
  cols : Nat
  srcCols : Nat
  dstCols : Nat
  stream : W32
  scales : Option Endpoint
deriving DecidableEq, Repr

/-- A transfer body (R236). -/
structure TransferDesc where
  src : Nat
  dstCell : Nat
  dst : Nat
  length : Nat
deriving DecidableEq, Repr

/-- What an item's ordered start waits for besides the galley (R198). -/
inductive ItemWait where
  | ready
  | banks
  | inbound (group : Nat) (missing : List Nat)
deriving DecidableEq, Repr

/-- The requesters of a bezel unit's operation slots, in the order of R190. -/
inductive ReqClass where
  | inbound | forme | host | firmware | migration | scrub
deriving DecidableEq, Repr

/-- A slot of a bezel unit's arbiter as it comes up: the frame position `pos` at which it comes (R199) and the requesters that wait for
it (R190). -/
structure SlotBids where
  pos : Nat
  classes : List ReqClass
deriving DecidableEq, Repr

/-- A word of HBM as the DRAM returns it: its physical page (stack * 2 ^ 20 + PPN), its word in the page and the error pattern over its
32 data bytes and 4 check bytes (R182); an empty pattern is a clean word. -/
structure HbmUpset where
  page : Nat
  word : Nat
  errors : List Byte
deriving DecidableEq, Repr

/-- A data packet's header (R321). `listed` names the 32-byte words of the payload that a COPY delivers as poison (R183); no field of R321
carries them (DEDUCED, log entry 20). -/
structure PktHdr where
  snapshot : Bool
  rounded : Bool
  last : Bool
  dst : Nat
  src : Nat
  flow : Nat
  endpoint : Endpoint
  frame : W32
  tensor : Nat
  group : Nat
  fmt : Nat
  op : Nat
  hops : Nat
  listed : List Nat := []
  served : Bool := false
deriving DecidableEq, Repr

/-- A posted BAR2 write (R260, R408): its bytes, and whether its entry of the port's FIFO still stands unread on the network side. -/
structure Posted where
  bytes : List Byte
  unread : Bool
deriving DecidableEq, Repr

/-- Who asks for a generation (R351): its address, its B, the shape of every optimizer tensor of its image, as tensor, rows and columns, and the
optimizer entries and tiles that its image owns, a list of fields each. -/
structure RestoreAsk where
  chip : Nat
  bytes : Nat
  shapes : List (Nat × Nat × Nat)
  owns : List (List Nat)
deriving DecidableEq, Repr

/-- What the FEC decoder found in a codeword (R311, R318, R370): whether it is uncorrectable, and else the symbols that it corrected on each
lane. -/
structure FecWord where
  bad : Bool
  symbols : List Nat
deriving DecidableEq, Repr

/-- What link training reports (R314, R318). -/
structure TrainReport where
  locked : Bool
  lanes : Byte
  neighbour : Nat
  nport : Nat
  naligned : Bool
  nuid : W64
  delayNs : Nat
  margin : Byte
deriving DecidableEq, Repr

/-- What a re-imposition is for (R248, R249). -/
inductive Reimp where
  | cells (region : Nat)
  | memory (stack : Nat)
deriving DecidableEq, Repr

/-- The issue counters of an interval, over the chip (R381): site-cycles by format class, case-memory bank accesses, accumulator row updates,
vector instructions, router flits, and the bytes of the bezel units, of HBM and of Clasp. -/
structure Activity where
  site : List Nat
  banks : Nat
  acc : Nat
  vector : Nat
  router : Nat
  bezel : Nat
  hbm : Nat
  clasp : Nat
deriving DecidableEq, Repr

/-- What one control step samples (R375, R381, R385, R402): each sensor's conversion in 1/16 °C (none: it did not convert), the counters of the
last step, the site-cycles that it issued of those that it could have issued, whether the compositor writes q_power in it, and the VDD_CORE
segments whose AVSBus command since the last step stayed without an acknowledgement twice (R460, R468). -/
structure CtlSample where
  readings : List (Option Int)
  act : Activity
  issued : Nat
  could : Nat
  written : Bool
  avsFailed : List Nat
deriving DecidableEq, Repr

/-- What the 1 ms telemetry returns (R379, R381, R455, R460, R468): the power of each of the 23 rails in mW (none: the read missed its slot), the
core regulators that report a fault and the counters of the millisecond. -/
structure Telemetry where
  railsMw : List (Option Nat)
  faulted : List Nat
  act : Activity
deriving DecidableEq, Repr

/-- The PLLs and references whose loss R411 gives an effect. -/
inductive Pll where
  | region (r : Nat)
  | system
  | hbm (stack : Nat)
  | serdes (port : Nat)
  | claspRef
  | pcie (p : PPort)
deriving DecidableEq, Repr

/-- The switched rail groups (R413, R455). -/
inductive RailGroup where
  | sram | core | hbm | serdes
deriving DecidableEq, Repr

/-- What start-up meets on its way (R415, R417): what the regions' controllers and the training of each pseudo-channel do, the flash reads
that the device reports as corrected, the banks with an uncorrectable read (R420), whether the certificate store reads, the soft repairs
(physical page, row) whose bank has no spare row left (R186), whether the slot behind the ring's last record is torn (R442), whether the
lifetime image behind the last one is (R449), whether a burn of the rollback fuses fails at READY (R426), and whether the power fails while the
boot ROM writes the flipped boot record (R436). -/
structure StartReport where
  silentRegions : List Nat
  failedPcs : List (Nat × Nat)
  flashCorrected : Nat
  badBanks : List Nat
  certReadable : Bool
  noSpareRows : List (Nat × Nat)
  tornSlot : Bool
  tornImage : Bool
  burnFails : Bool
  cutFlip : Bool
deriving DecidableEq, Repr

/-- The bytes of a FIRMWARE_STAGE, and the reads of the read-back that the flash reports as corrected and as uncorrectable (R420, R425). -/
structure FwBytes where
  bytes : List Byte
  corrected : Nat
  badReads : Nat
deriving DecidableEq, Repr

/-- A measurement request's selection (R433, R434): how many, all, or one index. -/
inductive MeasSel where
  | count | all | one (i : Nat)
deriving DecidableEq, Repr

/-- A tensor's statistics of a step (R138, R139): the record, its histogram and its column correction vector. -/
structure StatRec where
  maxAbs : W32
  elements : Nat
  underflow : Nat
  saturation : Nat
  inclusion : Nat
  promoted : Nat
  relead : Nat
  lost : Nat
  nonfinite : Nat
  belowWindow : Nat
  drainMax : W32
  leading : Option Int
  hist : List Nat
  cols : List (Nat × Byte)
deriving DecidableEq, Repr

/-- One tensor's comparison record (R147). -/
structure CmpRec where
  compared : Nat
  exact : Nat
  overs : Nat
  maxDev : Nat
deriving DecidableEq, Repr

/-- What one other member of the step group contributes to the step collective (R147, R209, R210, R356). A sum is its leading, its long
word, its poison and its below-window events; the largest square is `m * 2 ^ e`. -/
structure StepItems where
  vote : Bool
  normLeading : Int
  norm : Int
  normPoison : Bool
  normBelow : Nat
  maxSqM : Nat
  maxSqE : Int
  lossLeading : Int
  loss : Int
  lossPoison : Bool
  lossBelow : Nat
  differ : Bool
  absent : Bool
  present : Bool
  recordedSkip : Bool
  stats : List (Nat × StatRec)
  compares : List (Nat × CmpRec)
deriving DecidableEq, Repr

/-- The block's commands: the rows of spec/opcode_table.json in the table's order. -/
inductive Instr where
  | tick
  | cellStart (cell : Nat)
  | holdDeadline
  | lockUp
  | stuckForme
  | unaligned
  | realigned
  | heartbeat (region : Nat)
  | regionLost (region : Nat)
  | compositorHeartbeatLoss
  | formeItemStart (cell pos : Nat) (wait : ItemWait)
  | pass (cell : Nat) (d : PassDesc) (mismatches : List (Nat × Nat))
  | weightSwap (cell : Nat)
  | drain (cell : Nat) (d : DrainDesc)
  | galleySlotFree (cell : Nat)
  | droopTrip (block : Nat)
  | droopRestoreStep (block : Nat)
  | vectorItem (cell : Nat) (prog : List VInstr)
  | ld (cell : Nat) (f : VFields)
  | st (cell : Nat) (f : VFields)
  | ldg (cell : Nat) (f : VFields)
  | add (cell : Nat) (f : VFields)
  | sub (cell : Nat) (f : VFields)
  | mul (cell : Nat) (f : VFields)
  | fma (cell : Nat) (f : VFields)
  | max (cell : Nat) (f : VFields)
  | min (cell : Nat) (f : VFields)
  | abs (cell : Nat) (f : VFields)
  | neg (cell : Nat) (f : VFields)
  | sel (cell : Nat) (f : VFields)
  | cmplt (cell : Nat) (f : VFields)
  | cmple (cell : Nat) (f : VFields)
  | cmpeq (cell : Nat) (f : VFields)
  | mand (cell : Nat) (f : VFields)
  | mor (cell : Nat) (f : VFields)
  | mnot (cell : Nat) (f : VFields)
  | exp2 (cell : Nat) (f : VFields)
  | log2 (cell : Nat) (f : VFields)
  | rcp (cell : Nat) (f : VFields)
  | rsqrt (cell : Nat) (f : VFields)
  | tanh (cell : Nat) (f : VFields)
  | erf (cell : Nat) (f : VFields)
  | cvt (cell : Nat) (f : VFields)
  | redsum (cell : Nat) (f : VFields)
  | redmax (cell : Nat) (f : VFields)
  | redmin (cell : Nat) (f : VFields)
  | scan (cell : Nat) (f : VFields)
  | azero (cell : Nat) (f : VFields)
  | aadd (cell : Nat) (f : VFields)
  | afold (cell : Nat) (f : VFields)
  | around (cell : Nat) (f : VFields)
  | ascan (cell : Nat) (f : VFields)
  | ald (cell : Nat) (f : VFields)
  | ast (cell : Nat) (f : VFields)
  | lig (cell : Nat) (f : VFields)
  | topkm (cell : Nat) (f : VFields)
  | transfer (cell : Nat) (d : TransferDesc)
  | bezelSlotGrant (unit : Nat) (waiting : SlotBids) (reads : List HbmUpset)
  | copy (iss : Issuer) (d : BezelDesc)
  | reblock (iss : Issuer) (d : BezelDesc)
  | transpose (iss : Issuer) (d : BezelDesc)
  | quantize (iss : Issuer) (d : BezelDesc)
  | dequantize (iss : Issuer) (d : BezelDesc)
  | mxImport (iss : Issuer) (d : BezelDesc)
  | mxExport (iss : Issuer) (d : BezelDesc)
  | reduceInit (iss : Issuer) (d : BezelDesc)
  | reduceAdd (iss : Issuer) (d : BezelDesc)
  | reduceClose (iss : Issuer) (d : BezelDesc)
  | update (unit entry tileFirst tileCount : Nat)
  | snapshotCopy (unit offset length : Nat)
  | sequencerTimeout (cell : Nat)
  | arbiterTimeout (block : Nat)
  | scrub (unit : Nat) (reads : List HbmUpset)
  | migration (unit page : Nat)
  | pcRetirementDone (stack pc : Nat)
  | decision (lossAt : Option (Nat × Nat)) (others : List StepItems)
  | writePacket (port : Nat) (h : PktHdr) (payload : List Byte)
  | reduceWritePacket (port : Nat) (h : PktHdr) (payload : List Byte)
  | longPartialPacket (port : Nat) (h : PktHdr) (payload : List Byte)
  | snapshotTransferPacket (port : Nat) (h : PktHdr) (offset : Nat) (payload : List Byte)
  | tickMarker (port sender : Nat) (domainTick : W64) (offsetPs : Int)
  | holdPacket (port hops origin : Nat) (late : Bool) (frame : W64)
  | credit (port freed : Nat)
  | deliveryCredit (port dst src : Nat) (frame : W32) (packets : Nat)
  | flitReceived (port : Nat) (flit : List Byte) (fecBad : Bool) (fecWord : Option FecWord)
  | laneLoss (port lane : Nat)
  | linkDown (port : Nat)
  | linkTrainingDone (port : Nat) (r : TrainReport)
  | linkRetry (port : Nat)
  | groupTimeout (group : Nat)
  | spareLoad (cell : Nat)
  | reimposition (what : Reimp)
  | reimpositionTimeout
  | faultEvent (level : Level) (unit source : Nat) (early : Bool)
  | faultWindowStart (level : Level) (unit source : Nat)
  | controlStep (x : CtlSample)
  | thermalEmergencyEnd
  | pointDecision
  | powerSample (x : Telemetry)
  | regulatorFaultEnd (reg : Nat)
  | divergenceFallback
  | divergenceFallbackEnd
  | guardBandEnd
  | averagingWindowEnd
  | steadyWindowEnd
  | sensorLost (region spot which : Nat)
  | sensorRestored (region spot which : Nat)
  | sensorDisagreement (region spot : Nat)
  | firmwareAbsentFallback
  | thermalTrip (region spot : Nat)
  | pllLossOfLock (pll : Pll)
  | pwrgdFall (group : RailGroup)
  | ioRailFall
  | powerOn
  | perst (p : PPort) (asserted : Bool)
  | bothPerst
  | functionLevelReset (p : PPort)
  | pcieLinkDown (p : PPort)
  | powerStateChange (p : PPort) (d3hot : Bool)
  | busMasterEnable (p : PPort) (on : Bool)
  | coreReset
  | startUp (r : StartReport)
  | startupError (pwrgd : Bool)
  | readyReached
  | leaseExpiry
  | mbxStateWrite (p : PPort) (slot : Nat) (value : Byte)
  | mbxRingCtrlWrite (p : PPort) (value : W32)
  | mbxRingConsumedWrite (p : PPort) (value : W32)
  | completionRecordWrite (p : PPort)
  | devStickyWrite (p : PPort) (value : W32)
  | tickCountRead (p : PPort) (size : Nat)
  | registerWrite (p : PPort) (offset size : Nat) (value : W64)
  | bar2Read (p : PPort) (offset length : Nat) (reads : List HbmUpset)
  | bar2Write (p : PPort) (offset : Nat) (w : Posted)
  | bar4Access (p : PPort) (offset : Nat) (stopped : Bool)
  | hostTransferResume (binding : Nat)
  | identify
  | status
  | claimControl
  | renewLease
  | releaseControl
  | reset
  | setTime
  | setEnvironment
  | setPowerBudget
  | setOperatingPoints
  | setFabricAddress
  | loadRoutes (data : List Byte)
  | loadGroups (data : List Byte)
  | portControl
  | setTickDomain
  | loadImposition (data : List Byte)
  | imageLoadDone
  | unload
  | bindHostBuffers
  | runSteps
  | submitBatch (data : List Byte)
  | hold
  | resume
  | snapshot
  | snapshotStop
  | snapshotStopEnd
  | snapshotAbort
  | proofRecordWrite (acked : Bool)
  | setPartners
  | restore
  | restoreDone (data : List Byte)
  | proof
  | exportSnapshot
  | faultRead
  | faultConfig
  | faultForce
  | unfence
  | eventRead
  | lifetimeRead
  | statsRead
  | loupe
  | referenceMode
  | firmwareStage (data : FwBytes)
  | firmwareActivate
  | getVersion (p : PPort)
  | getCapabilities (p : PPort)
  | negotiateAlgorithms (p : PPort) (hash extAsym : Bool)
  | getDigests (p : PPort)
  | getCertificate (p : PPort) (slot offset length : Nat)
  | challenge (p : PPort) (slot : Nat) (nonce : List Byte)
  | getMeasurements (p : PPort) (sel : MeasSel) (signed : Bool) (nonce : List Byte)
  | unsupportedRequest (p : PPort) (code : Byte)
  | doeDiscovery (p : PPort) (index : Nat)
  | doeAbort (p : PPort)
  | eventRecordWrite
  | lifetimeWrite
  | unknownOpcode
  | pcieLinkUp (p : PPort) (width rate : Nat)
  | restoreRequest (ask : RestoreAsk) (identity generation : Nat) (mapped : Bool)
  | unloadDone
  | firmwareStageDone
  | loupeRunDone
  | hostBufferDeliveryDone (p : PPort)
  | voltageSlewEnd
  | hbmRetrainingDone (stack : Nat)
deriving DecidableEq, Repr

end Sys2Proof
end

