-- ==== Sys2Proof/Config.lean ====
section
/-! DEFINITION. The free values: what the manual leaves open. Each is a constant without a body, so that nothing
can be proved of its value (log entries 6 to 10, and those named below). -/

namespace Sys2Proof.Config

/-- Where the search for a free physical page starts (R172 and R175 name no order), for the n-th page taken. -/
opaque pageStart : Nat → Nat
/-- The rounded result of a function of R156 where the model's bounds do not decide it: function number, input. -/
opaque undecided : Nat → BitVec 32 → BitVec 32
/-- The random bytes of a hedged signature over a message (FIPS 205): the manual does not say where they come from. -/
opaque signRand : List (BitVec 8) → List (BitVec 8)
/-- The bytes of an SPDM message: its code and the fields that R433 and R434 fix. DSP0274 lays them out; the manual does not. -/
opaque spdmMessage : Nat → List (List (BitVec 8)) → List (BitVec 8)
/-- The words of custom update program i (R220): no section of the image holds them. -/
opaque customProgram : Nat → List (BitVec 32)
/-- The DER bytes of the certificate chain (R432), and the digest of the boot ROM mask (R434). -/
opaque certChain : List (BitVec 8)
opaque romDigest : List (BitVec 8)
/-- Which of the conversions of R155 that fit its width a CVT makes: R151 gives it one width and no source (w, vb, vc;
log entry 18). -/
opaque cvtPair : Nat → Nat → Nat → Nat
/-- A value for which the manual states no result, for the n-th such value. -/
opaque freeWord : Nat → BitVec 32

/-- The largest exponent that the other members of the step's group measured for a tensor in reference mode (R99; log entry 17): step,
tensor. -/
opaque groupTop : Nat → Nat → Int
/-- What the other chips that ran parts of a reduction brought to the reference element of a tensor (R99; log entry 17): step, tensor, row and
column give whether an operand of theirs was non-finite, and their products as segment, integer and exponent. -/
opaque refElsewhere : Nat → Nat → Nat → Nat → Bool × List (Nat × Int × Int)
/-- Where the loss lane partial of an image lies, as cell and offset, by the digest of the image (R209; log entry 21): none where the chip
computes none. -/
opaque lossPlace : List (BitVec 8) → Option (Nat × Nat)
/-- The optimizer entries and tiles that the image of an identity owned at the cut of a generation (R351; log entry 32), a list of fields each. -/
opaque genOwns : Nat → Nat → List (List Nat)
/-- The data packets of a member's own step items, or of the sum that it has made of them, for one stage of the exchange (R209, R321, R331; log
entry 34): packet type, address and payload of each, by stage, destination, the members whose parts they carry and a draw. -/
opaque stagePackets : Nat → Nat → List Nat → Nat → List (Nat × Nat × List (BitVec 8))
/-- How many items beyond one the contribution of another member to an exchange stage has (R209, R335; log entry 34): stage, member. -/
opaque contributionItems : Nat → Nat → Nat

end Sys2Proof.Config
end

