-- ==== Sys2Proof/Machine/Num.lean ====
section
/-! DEFINITION. Exact numbers: dyadics, roundings to the encodings of R58, FP32 and BF16 arithmetic under R154,
fractions for the power controller. Every value is exact until its one rounding. -/

namespace Sys2Proof.Machine
open Sys2Proof

/-! ### Integer helpers -/

/-- `2 ^ n`. -/
def p2 (n : Nat) : Nat := 1 <<< n

/-- `m * 2 ^ k` for any integer `k`, rounded toward zero when `k` is negative. -/
def shlTrunc (m : Int) (k : Int) : Int :=
  match k with
  | .ofNat n => m * (p2 n : Int)
  | .negSucc n => if m < 0 then -(((-m).toNat >>> (n + 1) : Nat) : Int) else ((m.toNat >>> (n + 1) : Nat) : Int)

/-- Round `n / d` to the nearest integer, ties to even. -/
def divRne (n d : Nat) : Nat :=
  let q := n / d
  let r := n % d
  if 2 * r > d then q + 1 else if 2 * r = d then q + q % 2 else q

/-- `⌈n / d⌉`. -/
def ceilDiv (n d : Nat) : Nat := (n + d - 1) / d

/-- Clamp an integer (R68, R219). -/
def clampI (lo hi x : Int) : Int := if x < lo then lo else if x > hi then hi else x

/-- Sign extension of an `n`-bit field. -/
def signExt (n v : Nat) : Int := if v % p2 n < p2 (n - 1) then (v % p2 n : Nat) else (v % p2 n : Nat) - (p2 n : Int)

/-- The low `n` bits of an integer in two's complement. -/
def lowBits (n : Nat) (x : Int) : Nat := (x % (p2 n : Int)).toNat

/-! ### Dyadics -/

/-- The exact value `m * 2 ^ e`. -/
structure Dy where
  m : Int
  e : Int
deriving DecidableEq, Repr

namespace DyOp

/-- The same value at a smaller exponent. -/
def down (x : Dy) (e : Int) : Int := x.m * (p2 (x.e - e).toNat : Int)

def add (x y : Dy) : Dy :=
  let e := if x.e ≤ y.e then x.e else y.e
  ⟨down x e + down y e, e⟩

def neg (x : Dy) : Dy := ⟨-x.m, x.e⟩

def sub (x y : Dy) : Dy := add x (neg y)

def mul (x y : Dy) : Dy := ⟨x.m * y.m, x.e + y.e⟩

def abs (x : Dy) : Dy := ⟨x.m.natAbs, x.e⟩

def lt (x y : Dy) : Bool := (sub x y).m < 0

def le (x y : Dy) : Bool := (sub x y).m ≤ 0

def eq (x y : Dy) : Bool := (sub x y).m = 0

/-- `x * 2 ^ k`. -/
def scale (x : Dy) (k : Int) : Dy := ⟨x.m, x.e + k⟩

/-- floor_log2 of the magnitude of a nonzero value (R68). -/
def flog2 (x : Dy) : Int := (x.m.natAbs.log2 : Int) + x.e

/-- ceil_log2 of the magnitude of a nonzero value. -/
def clog2 (x : Dy) : Int := if x.m.natAbs = p2 x.m.natAbs.log2 then flog2 x else flog2 x + 1

/-- ceil_log2 (|x| / f) for a positive natural `f`, exactly: the least `n` with `2 ^ n * f ≥ |x|` (R68). -/
def clog2Div (x : Dy) (f : Nat) : Int :=
  let n := flog2 x - (f.log2 : Int) - 1
  let ok := fun (k : Int) => le (abs x) ⟨f, k⟩
  if ok n then n else if ok (n + 1) then n + 1 else n + 2

/-- floor_log2 (f / |x|) for a positive natural `f`: the greatest `n` with `2 ^ n * |x| ≤ f` (R68). -/
def flog2Quot (f : Nat) (x : Dy) : Int :=
  let n := (f.log2 : Int) - flog2 x
  if le (scale (abs x) n) ⟨f, 0⟩ then n else n - 1

/-- The integer `x * 2 ^ (-u)` truncated toward zero, and whether a nonzero amount was dropped (R85). -/
def toUnits (x : Dy) (u : Int) : Int × Bool :=
  let t := shlTrunc x.m (x.e - u)
  (t, !(eq ⟨t, u⟩ x))

end DyOp

/-! ### Rounding to a binary encoding -/

/-- The magnitude code of `x` (nonzero) in an encoding with `mb` mantissa bits and least normal exponent `emin`,
round to nearest, ties to even; the carry into the exponent field is the encoding's own. -/
def roundCode (mb : Nat) (emin : Int) (x : Dy) : Nat :=
  let e := if DyOp.flog2 x < emin then emin else DyOp.flog2 x
  let q := e - mb
  let k := match x.e - q with
    | .ofNat s => x.m.natAbs * p2 s
    | .negSucc s => divRne x.m.natAbs (p2 (s + 1))
  ((e - emin).toNat <<< mb) + k

/-- The value of a finite magnitude code of that encoding. -/
def codeVal (mb : Nat) (emin : Int) (c : Nat) : Dy :=
  let ef := c >>> mb
  let f := c % p2 mb
  if ef = 0 then ⟨f, emin - mb⟩ else ⟨p2 mb + f, emin - mb + (ef - 1 : Int)⟩

/-- Round to FP32 (stage 3 of R94, R154); `negZero` gives the sign of a zero result. -/
def rneF32 (negZero : Bool) (x : Dy) : W32 :=
  if x.m = 0 then (if negZero then 0x80000000 else 0)
  else
    let c := roundCode 23 (-126) x
    let c := if c ≥ 0x7F800000 then 0x7F800000 else c
    BitVec.ofNat 32 (c + (if x.m < 0 then 0x80000000 else 0))

/-- Round to FP32 where the rule gives +0 for every result that rounds to zero (R74, stage 3 of R94). -/
def rneF32Pos (x : Dy) : W32 := let w := rneF32 false x; if w = 0x80000000 then 0 else w

/-- Round to BF16. -/
def rneBf16 (negZero : Bool) (x : Dy) : W16 :=
  if x.m = 0 then (if negZero then 0x8000 else 0)
  else
    let c := roundCode 7 (-126) x
    let c := if c ≥ 0x7F80 then 0x7F80 else c
    BitVec.ofNat 16 (c + (if x.m < 0 then 0x8000 else 0))

/-! ### FP32 -/

/-- Every NaN result (R154). -/
def f32NaN : W32 := 0x7FC00000
def f32Inf : W32 := 0x7F800000
def f32NegInf : W32 := 0xFF800000
def f32One : W32 := 0x3F800000
def f32NegZero : W32 := 0x80000000

def f32Neg (x : W32) : Bool := x.toNat ≥ p2 31
def f32Mag (x : W32) : Nat := x.toNat % p2 31
def f32IsNaN (x : W32) : Bool := f32Mag x > 0x7F800000
def f32IsInf (x : W32) : Bool := f32Mag x == 0x7F800000
def f32Finite (x : W32) : Bool := f32Mag x < 0x7F800000
def f32IsZero (x : W32) : Bool := f32Mag x == 0

/-- The exact value of a finite pattern. -/
def f32Val (x : W32) : Dy :=
  let d := codeVal 23 (-126) (f32Mag x)
  if f32Neg x then DyOp.neg d else d

/-- The magnitude of a pattern (ABS of R152). -/
def f32Abs (x : W32) : W32 := BitVec.ofNat 32 (f32Mag x)

/-- A pattern with its sign inverted (NEG of R152). -/
def f32Negate (x : W32) : W32 := x ^^^ 0x80000000

/-- BF16 as the FP32 with the same value. -/
def bf16ToF32 (x : W16) : W32 := BitVec.ofNat 32 (x.toNat <<< 16)

/-- FP32 rounded to BF16, a NaN to the BF16 NaN. -/
def f32ToBf16 (x : W32) : W16 :=
  if f32IsNaN x then 0x7FC0
  else if f32IsInf x then (if f32Neg x then 0xFF80 else 0x7F80)
  else rneBf16 (f32Neg x) (f32Val x)

/-- The sum of two FP32 values before its rounding: a special result, or the exact value and the sign of a zero. -/
def addExact (x y : W32) : W32 ⊕ (Bool × Dy) :=
  if f32IsNaN x || f32IsNaN y then .inl f32NaN
  else if f32IsInf x then (if f32IsInf y && f32Neg x != f32Neg y then .inl f32NaN else .inl x)
  else if f32IsInf y then .inl y
  else .inr (f32Neg x && f32Neg y, DyOp.add (f32Val x) (f32Val y))

/-- The product before its rounding. -/
def mulExact (x y : W32) : W32 ⊕ (Bool × Dy) :=
  let s := f32Neg x != f32Neg y
  if f32IsNaN x || f32IsNaN y then .inl f32NaN
  else if f32IsInf x || f32IsInf y then
    (if f32IsZero x || f32IsZero y then .inl f32NaN else .inl (if s then f32NegInf else f32Inf))
  else .inr (s, DyOp.mul (f32Val x) (f32Val y))

/-- `x * y + z` before its rounding. -/
def fmaExact (x y z : W32) : W32 ⊕ (Bool × Dy) :=
  match mulExact x y with
  | .inl p =>
    if f32IsNaN p || f32IsNaN z then .inl f32NaN
    else if f32IsInf z && f32Neg z != f32Neg p then .inl f32NaN else .inl p
  | .inr (s, p) =>
    if f32IsNaN z then .inl f32NaN
    else if f32IsInf z then .inl z
    else
      let r := DyOp.add p (f32Val z)
      .inr ((if p.m = 0 && f32IsZero z then s && f32Neg z else false), r)

/-- One rounding to FP32 (w = 0). -/
def toF32 : W32 ⊕ (Bool × Dy) → W32
  | .inl x => x
  | .inr (s, d) => rneF32 s d

/-- One rounding to BF16 (w = 1), as the FP32 with the same value. -/
def toBf : W32 ⊕ (Bool × Dy) → W16
  | .inl x => f32ToBf16 x
  | .inr (s, d) => rneBf16 s d

def f32Add (x y : W32) : W32 := toF32 (addExact x y)
def f32Sub (x y : W32) : W32 := f32Add x (if f32IsNaN y then y else f32Negate y)
def f32Mul (x y : W32) : W32 := toF32 (mulExact x y)
def f32Fma (x y z : W32) : W32 := toF32 (fmaExact x y z)

/-- Compare as numbers (R154): false with a NaN. -/
def f32Lt (x y : W32) : Bool :=
  if f32IsNaN x || f32IsNaN y then false
  else if f32IsZero x && f32IsZero y then false
  else
    let key := fun (v : W32) => if f32Neg v then -(f32Mag v : Int) else (f32Mag v : Int)
    key x < key y

def f32Eq (x y : W32) : Bool :=
  if f32IsNaN x || f32IsNaN y then false
  else x == y || (f32IsZero x && f32IsZero y)

def f32Le (x y : W32) : Bool := f32Lt x y || f32Eq x y

/-- The order that MAX and MIN use: −0 below +0 (R154). -/
def f32Key (x : W32) : Int := if f32Neg x then -(f32Mag x : Int) - 1 else (f32Mag x : Int)

def f32Max (x y : W32) : W32 :=
  if f32IsNaN x || f32IsNaN y then f32NaN else if f32Key x < f32Key y then y else x

def f32Min (x y : W32) : W32 :=
  if f32IsNaN x || f32IsNaN y then f32NaN else if f32Key y < f32Key x then y else x

/-- An unsigned integer rounded to FP32 (selectors 0x1C and 0x1D of R165, t of R221). -/
def f32OfNat (n : Nat) : W32 := rneF32 false ⟨n, 0⟩

/-- Round toward −∞ to an integer (FLOOR of R166). -/
def f32Floor (x : W32) : W32 :=
  if f32IsNaN x then f32NaN
  else if f32IsInf x || f32IsZero x then x
  else
    let d := f32Val x
    match d.e with
    | .ofNat _ => x
    | .negSucc n => rneF32 false ⟨Int.fdiv d.m (p2 (n + 1)), 0⟩

/-- Round to the nearest integer, ties to even (RINT of R166); a zero keeps the sign of its operand. -/
def f32Rint (x : W32) : W32 :=
  if f32IsNaN x then f32NaN
  else if f32IsInf x || f32IsZero x then x
  else
    let d := f32Val x
    match d.e with
    | .ofNat _ => x
    | .negSucc n =>
      let k := divRne d.m.natAbs (p2 (n + 1))
      rneF32 (f32Neg x) ⟨if f32Neg x then -(k : Int) else k, 0⟩

/-! ### Roots and reciprocals, correctly rounded -/

/-- `⌊√n⌋`, by bits from `2 ^ k` down. -/
def isqrtBits : Nat → Nat → Nat → Nat
  | 0, r, _ => r
  | k + 1, r, n => isqrtBits k (if (r + p2 k) * (r + p2 k) ≤ n then r + p2 k else r) n

/-- `⌊√n⌋`. -/
def isqrt (n : Nat) : Nat := isqrtBits (n.log2 / 2 + 1) 0 n

/-- A value known as `⌊·⌋` at unit `2 ^ e` with a sticky bit, as a dyadic that rounds as the exact value does. -/
def sticky (t : Nat) (exact : Bool) (e : Int) : Dy := if exact then ⟨t, e⟩ else ⟨2 * t + 1, e - 1⟩

/-- √x for a finite positive x. -/
def dySqrt (x : Dy) : Dy :=
  let odd := x.e % 2
  let m := x.m.natAbs * p2 (odd.toNat + 80)
  let e := (x.e - odd - 80) / 2
  let r := isqrt m
  sticky r (r * r = m) e

/-- 1 / x for a finite positive x. -/
def dyRcp (x : Dy) : Dy :=
  let m := x.m.natAbs
  let s := m.log2 + 40
  sticky (p2 s / m) (p2 s % m = 0) (-x.e - s)

/-- RCP of R156. -/
def f32Rcp (x : W32) : W32 :=
  if f32IsNaN x then f32NaN
  else if f32IsInf x then (if f32Neg x then f32NegZero else 0)
  else if f32IsZero x then (if f32Neg x then f32NegInf else f32Inf)
  else
    let d := dyRcp (DyOp.abs (f32Val x))
    rneF32 (f32Neg x) (if f32Neg x then DyOp.neg d else d)

/-- SQRT of R223, correctly rounded under IEEE 754. -/
def f32Sqrt (x : W32) : W32 :=
  if f32IsNaN x then f32NaN
  else if f32IsZero x then x
  else if f32Neg x then f32NaN
  else if f32IsInf x then x
  else rneF32 false (dySqrt (f32Val x))

/-- RSQRT of R156: `√(1 / x)` from a quotient with 128 spare bits, whose sticky bit keeps the rounding. -/
def f32Rsqrt (x : W32) : W32 :=
  if f32IsNaN x then f32NaN
  else if f32IsZero x then (if f32Neg x then f32NegInf else f32Inf)
  else if f32Neg x then f32NaN
  else if f32IsInf x then 0
  else
    let d := f32Val x
    let m := d.m.natAbs
    let s := m.log2 + 128
    let s := if (s : Int) % 2 = d.e % 2 then s else s + 1
    let quo := p2 s / m
    let r := isqrt quo
    rneF32 false (sticky r (p2 s % m = 0 && r * r = quo) ((-d.e - s) / 2))

/-! ### Fractions of the power controller -/

/-- A fraction in lowest terms, denominator positive. -/
structure Frac where
  num : Int
  den : Nat
deriving DecidableEq, Repr

namespace Frac

/-- Lowest terms. -/
def mk' (n : Int) (d : Nat) : Frac :=
  let g := Nat.gcd n.natAbs d
  if g = 0 then ⟨0, 1⟩ else ⟨n / (g : Int), d / g⟩

def ofNat (n : Nat) : Frac := ⟨n, 1⟩
def ofInt (n : Int) : Frac := ⟨n, 1⟩
def add (x y : Frac) : Frac := mk' (x.num * y.den + y.num * x.den) (x.den * y.den)
def sub (x y : Frac) : Frac := mk' (x.num * y.den - y.num * x.den) (x.den * y.den)
def mul (x y : Frac) : Frac := mk' (x.num * y.num) (x.den * y.den)
def div (x y : Frac) : Frac := mk' (x.num * y.den * (if y.num < 0 then -1 else 1)) (x.den * y.num.natAbs)
def le (x y : Frac) : Bool := x.num * y.den ≤ y.num * x.den
def lt (x y : Frac) : Bool := x.num * y.den < y.num * x.den
def max (x y : Frac) : Frac := if le x y then y else x
def min (x y : Frac) : Frac := if le x y then x else y
/-- Whole part, toward −∞. -/
def floor (x : Frac) : Int := Int.fdiv x.num x.den

end Frac

/-- `n` bytes of a value, lowest address least significant (R6). -/
def leBytes : Nat → Nat → List Byte
  | 0, _ => []
  | n + 1, v => BitVec.ofNat 8 v :: leBytes n (v / 256)

/-- `n` zero bytes. -/
def zeros (n : Nat) : List Byte := List.replicate n 0

/-- `⌊n ^ (1 / 5)⌋`, by bits from `2 ^ k` down. -/
def iroot5 : Nat → Nat → Nat → Nat
  | 0, r, _ => r
  | k + 1, r, n => iroot5 k (if (r + p2 k) ^ 5 ≤ n then r + p2 k else r) n

/-- The nominal junction-to-fluid resistance at a flow in 1/16 L/min (R394), in K/W:
0.016 × (12 / Q)^0.8, cut below at 2^−40 of the power (log entry 9). -/
def rthNom (flow : Nat) : Frac :=
  if flow = 0 then ⟨16, 1000⟩
  else Frac.mk' (16 * iroot5 48 0 (192 ^ 4 * p2 200 / flow ^ 4) : Nat) (1000 * p2 40)

end Sys2Proof.Machine
end

