-- ==== Sys2Proof/Machine/State.lean ====
section
/-! DEFINITION. The state of the block: plain data, holding every piece of state the manual gives the part, with
its reset value, and the reasons a command can stop. -/

namespace Sys2Proof.Machine
open Sys2Proof

/-- A sparse map: keys strictly rising; an unlisted key reads as the map's default. -/
abbrev SMap (β : Type) := List (Nat × β)

/-- Why a command stops with a fault. -/
inductive Fault where
  /-- Raised by a BAR0 access of a size or alignment that R257 does not accept. Safe: the manual gives it no effect. -/
  | bar0Access
  /-- Raised by a BAR2 access beyond the 1 GiB window of R256. Safe: no such address exists. -/
  | bar2Range
  /-- Raised by a BAR4 access beyond the 16 MiB of R256. Safe: no such address exists. -/
  | bar4Range
deriving DecidableEq, Repr

/-- Why a command is refused. -/
inductive Refusal where
  /-- Raised by the dispatcher for a command without a meaning yet. Safe. -/
  | notModelled (mnemonic : String)
  /-- Raised by a BAR4 access that reaches debug registers: their map is outside the manual (R262). Safe. -/
  | debugRegisterMap
deriving DecidableEq, Repr

/-- The device states (R271). -/
inductive DevState where
  | booting | ready | loaded | running | held | snapshotting | restoring | retireRequested | thermalOff | failed
deriving DecidableEq, Repr

/-- The tick rates (R30), codes 0, 1, 2 of TICK_CTRL. -/
inductive TickRate where
  | r5000 | r10000 | r20000
deriving DecidableEq, Repr

/-- The cell states of the cell map (R25). -/
inductive CellState where
  | active | spare | fenced | absent
deriving DecidableEq, Repr

/-- The states of a mailbox slot (R263). -/
inductive SlotState where
  | free | submitted | taken | accepted | done
deriving DecidableEq, Repr

/-- A role and rate that SET_TICK_DOMAIN puts in force at the next tick (R291). -/
structure NewDomain where
  source : Bool
  upstream : Nat
  rate : TickRate
deriving DecidableEq, Repr

/-- The tick generator and its alignment (R11, R30, R52 to R54, the tick block of R258). -/
structure TickSt where
  count : W64
  lastCommit : W64
  slips : W64
  domain : W64
  rate : TickRate
  source : Bool
  aligned : Bool
  firstAligned : Bool
  upstream : Nat
  newDomain : Option NewDomain
  realign : Option Bool
  markerSeen : Bool
  markerTick : W64
  markerGap : Nat
  offBad : Nat
  offGood : Nat
  offsetPs : Int
  corrPs : Int
  timeUs : Nat
deriving DecidableEq, Repr

/-- A hold (R41): originator, origin frame in domain tick numbers, late or early. -/
structure HoldRec where
  origin : Nat
  frame : W64
  late : Bool
deriving DecidableEq, Repr

/-- The frame in progress (R29 to R48, R198 to R200). -/
structure FrameSt where
  formeIdx : Nat
  pastDeadline : Bool
  lockUp : Bool
  doubt : Bool
  late : Bool
  known : List HoldRec
  forwarded : List HoldRec
  ownLate : Option W64
  ownEarly : Bool
  withheldAt : Option W64
  replaying : Bool
  slipRun : Nat
  stuck : Bool
  retry : Bool
  inStep : Bool
  doneMask : List (Nat × Nat)
  doneStaged : List (Nat × Nat)
  started : List (Nat × Nat)
  finished : List (Nat × Nat)
  running : List (Nat × Nat)
  cellStarted : List Nat
  stoppedCells : List Nat
deriving DecidableEq, Repr

/-- The step record (R205). -/
structure StepRec where
  applied : W64
  attempted : W64
  seed : W64
  skips : W32
  totalSkips : W32
  loss : W32
  gradNorm : W32
  clip : W32
  normLeading : Int
  outcome : Nat
  stalled : Bool
deriving DecidableEq, Repr

/-- A queued batch (R208, R296) with the port that submitted it. -/
structure Batch where
  port : PPort
  tag : W32
  appliedTag : W64
  attemptTag : W64
  binding : Nat
  offset : Nat
  length : Nat
deriving DecidableEq, Repr

/-- An entry of the format and leading table (R231) with its calm count (R142). -/
structure TabEntry where
  format : Nat
  leading : Int
  quant : Nat
  sensitive : Bool
  gradient : Bool
  rounded : Bool
  inclBudget : Nat
  lowest : Nat
  parts : Nat
  rows : Nat
  cols : Nat
  k : Nat
  declaredN : Nat
  calm : Nat
deriving DecidableEq, Repr

/-- The step constants of one optimizer entry (R221). -/
structure StepConst where
  eta : W32
  d1 : W32
  d2 : W32
  b1 : W32
  b2 : W32
  t : W32
deriving DecidableEq, Repr

/-- A generation header (R340). -/
structure GenHdr where
  identity : Nat
  generation : W64
  bytes : Nat
  tables : Nat
  complete : Bool
  exposed : Bool
  damaged : Bool
  failed : Bool
  cut : W64
  applied : W64
  attempted : W64
  latest : W64
deriving DecidableEq, Repr

/-- A proof in progress (R355, R356): the generation replayed, its record when present. -/
structure ProofSt where
  generation : W64
  recPresent : Bool
  recDigest : W64
  recLoss : W32
  recSkip : Bool
  sinceTick : W64
  rolledBack : Bool
  replaying : Bool
  combined : Option (Bool × Bool)
  exposed : Bool
  result : List Byte
  hdr : Option GenHdr
deriving DecidableEq, Repr

/-- A product of the reference buffer (R99): its segment under R87 and its exact value. -/
structure RefTerm where
  segment : Nat
  value : Dy
deriving DecidableEq, Repr

/-- The reference products of an output element whose reduction goes on past its drain: whether an operand was non-finite, the products,
and the K ranges that they come from (R99). -/
structure RefHeld where
  bad : Bool
  terms : List RefTerm
  ks : List (Nat × Nat)
deriving DecidableEq, Repr

/-- The settings that wrote a working-copy tile (R184, R206, R224): the random step index of its draws and the forecast entries of its
columns. -/
structure WorkSet where
  index : W64
  forecast : List Byte
deriving DecidableEq, Repr

/-- The training step (R196 to R228). `refTop` holds, for each tensor of reference mode, the largest product exponent that its passes have
measured, and `refHeld` the reference products of output elements whose reduction goes on past its drain, by tensor, row and column (R99).
`compares` holds this chip's comparison records of the running step, `cmpLast` those that the last exchange combined over the group,
`cmpBound` the bound of their step (R147), `sent` the items that this chip has contributed in the exchange formes (R209), `workSets` what
wrote each tile of the working copies (R184). -/
structure StepSt where
  record : StepRec
  recStaged : Option StepRec
  table : List TabEntry
  tableStaged : Option (List TabEntry)
  changed : List Nat
  consts : List StepConst
  constsStaged : Option (List StepConst)
  startAt : Bool
  resumeAt : Bool
  stepsLeft : Option Nat
  batches : List Batch
  accepted : Option Batch
  digest : W64
  digestStaged : W64
  regen : Bool
  refTensors : List Nat
  refBound : W32
  refNext : Option (List Nat × W32)
  refTop : SMap Int
  refTopStaged : SMap Int
  refHeld : SMap RefHeld
  refHeldStaged : SMap RefHeld
  workSets : SMap WorkSet
  workSetsStaged : SMap WorkSet
  compares : SMap CmpRec
  comparesStaged : SMap CmpRec
  cmpLast : SMap CmpRec
  cmpBound : W32
  cmpLastStaged : Option (SMap CmpRec)
  masterPoison : Bool
  lossPartial : W32
  lossHas : Bool
  sent : Option StepItems
  proof : Option ProofSt
deriving DecidableEq, Repr

/-- The image header's fields (R229). -/
structure ImgHdr where
  tickRate : Nat
  allowance : Nat
  maxOffset : Nat
  fit : List (Nat × Nat)
  fwd : Nat
  bwd : Nat
  opt : Nat
  exch : Nat
deriving DecidableEq, Repr

/-- A memory-plan record (R233). -/
structure MemRec where
  tensor : Nat
  role : Nat
  cls : Nat
  peer : Nat
  tileFirst : Nat
  tileCount : Nat
  place : Endpoint
deriving DecidableEq, Repr

/-- A case-memory contents record (R234). -/
structure CaseRec where
  cell : Nat
  off : Nat
  bytes : List Byte
deriving DecidableEq, Repr

/-- An item's body (R236). -/
inductive ItemBody where
  | pass (d : PassDesc)
  | drain (d : DrainDesc)
  | vector (prog : List VInstr)
  | bezel (op : Nat) (d : BezelDesc)
  | transfer (d : TransferDesc)
deriving DecidableEq, Repr

/-- A forme item (R236). -/
structure Item where
  deferrable : Bool
  runStart : Bool
  sends : Bool
  number : Nat
  earliest : Nat
  latest : Nat
  body : ItemBody
deriving DecidableEq, Repr

/-- A forme record (R235). -/
structure FormeRec where
  cell : Nat
  forme : Nat
  phase : Nat
  deadline : Nat
  items : List Item
deriving DecidableEq, Repr

/-- An optimizer-table entry (R220). -/
structure OptEntry where
  master : Nat
  work : Nat
  program : Nat
  clip : Bool
  lrScale : W32
  stream : W32
  k : List W32
deriving DecidableEq, Repr

/-- The policy section (R141, R230). -/
structure Policy where
  satMax : Nat
  vanMax : Nat
  leadMargin : Nat
  guard : Nat
deriving DecidableEq, Repr

/-- The snapshot reservation (R244). -/
structure SnapRes where
  own : Nat
  bytes0 : Nat
  bytes1 : Nat
  where0 : Nat
  where1 : Nat
deriving DecidableEq, Repr

/-- A contingency set (R247). -/
structure ContSet where
  region : Nat
  cases : List CaseRec
  formes : List FormeRec
deriving DecidableEq, Repr

/-- A parsed imposition image (R229 to R247). -/
structure Image where
  hdr : ImgHdr
  cellMap : List Byte
  table : List TabEntry
  plan : List MemRec
  cases : List CaseRec
  formes : List FormeRec
  groups : List Nat
  applied : W64
  attempted : W64
  seed : W64
  nNorm : Nat
  normLeading : Int
  clipNorm : W32
  points : List (W32 × W32)
  opt : List OptEntry
  policy : Policy
  energy : List W32
  snap : SnapRes
  sparePlan : List Byte
  cont : List ContSet
  digest : List Byte
deriving DecidableEq, Repr

/-- The loaded image, the bytes of an image whose checks and mapping run (R293), what re-imposition has done (R246 to R250; `decidedAt` is the tick
from which its 5 s count), and the weights of network classes 1 to 3 (R23). No field of R229 or R230 gives the weights of an image, so they stay at
their defaults (DEDUCED, log entry 35). -/
structure ImageSt where
  img : Option Image
  loading : Option (List Byte)
  installed : List Nat
  moves : SMap Nat
  unmoved : List Nat
  orphans : List Nat
  spareLoads : List Nat
  decidedAt : W64
  memReimp : List Nat
  weights : List Nat
deriving DecidableEq, Repr

/-- An operand value at a multiply site (R82): non-finite, or `m * 2 ^ e`. -/
inductive OpVal where
  | nonfinite
  | val (m e : Int)
deriving DecidableEq, Repr

/-- The state of one 128-row group of an accumulator store (R89, R93): its leading, and that a re-lead has raised it. -/
structure GroupSt where
  leading : Int
  releaded : Bool
deriving DecidableEq, Repr

/-- What an accumulator row has taken since it was cleared (R93, R97, R113): the K ranges of its passes and of the long partials loaded
into it, the columns that its passes held active, and the below-window events of its long words by 32-column block. -/
structure RowSt where
  ks : List (Nat × Nat)
  cols : Nat
  below : SMap Nat
deriving DecidableEq, Repr

/-- A weight tile in the site registers (R108, R109): where it came from, the format it is stored in (`own`, the wider one of a
promoted tile, R135), its active columns (R113), for each of its 128 K-rows the nonzero values by column, and the checksum unit's sum
w_c(k) with its exponent (R119). -/
structure WTile where
  fmt : Nat
  own : Nat
  addr : Nat
  kFirst : Nat
  colMask : Nat
  rows : List (List (Nat × OpVal))
  sums : List (Int × Int)
deriving DecidableEq, Repr

/-- A long-word register (R150, R159), with the segment and the element ranges of the partials that it combines (R91, R161). `loose` says
that a value has entered for which no rule names an element index. -/
structure LReg where
  leading : Int
  logN : Nat
  tensor : Nat
  poison : Bool
  below : Nat
  releaded : Bool
  segment : Nat
  ks : List (Nat × Nat)
  loose : Bool
  lanes : SMap Int
deriving DecidableEq, Repr

/-- The issue state of one array (R115, R116): the ramp step at which it stands, the cycles spent in it, and whether that step is one of a
planned ramp-down, which a run may begin before its last pass. -/
structure ArraySt where
  credit : Nat
  qRamp : Nat
  spent : Nat
  down : Bool
  stopped : Bool
deriving DecidableEq, Repr

/-- A pass that waits on some of a cell's arrays for a waiting drain to clear their rows (R123, R126): the mismatches that its rows meet,
the arrays, and the drains that wait behind it. -/
structure HeldPass where
  desc : PassDesc
  mismatches : List (Nat × Nat)
  arrays : List Nat
  drains : List DrainDesc
deriving DecidableEq, Repr

/-- A cell's engines: state transient to the frame (R33, R111, R150). `sums` holds the 129th long word of each accumulator row (R122),
`rows` the accumulator rows that a pass or a stored partial has entered since they were cleared, `cleared` the rows cleared since their
group's last reset (R89), `swapped` that a swap has brought the tile in use and no pass has run on it (R109), `held` a pass that waits for
a waiting drain to clear its rows (R126), and `refs`, `refRows`, `refCols`, `refSlabs` the reference buffer: products by long word, the rows
and columns with a non-finite operand, and the K ranges by row (R99). -/
structure CellEng where
  acc : SMap Int
  sums : SMap Int
  rowPoison : List Nat
  colPoison : List Nat
  groups : SMap GroupSt
  rows : SMap RowSt
  cleared : List Nat
  active : Option WTile
  next : Option WTile
  swapped : Bool
  held : Option HeldPass
  refs : SMap (List RefTerm)
  refRows : List Nat
  refCols : List Nat
  refSlabs : SMap (List (Nat × Nat))
  arrays : List ArraySt
  galley : List (SMap W32)
  waiting : List DrainDesc
  releases : List Nat
  vregs : SMap (BitVec 4096)
  mregs : SMap (BitVec 512)
  lregs : SMap LReg
deriving DecidableEq, Repr

/-- Case memory (R32, R34, R44): committed bytes at cell * 2 ^ 23 + offset, the staged copies' changed bytes, what inbound Clasp packets
wrote of them, what this chip's own sources wrote and what came from bound host buffers (R50), the shadow pages of the frame, and the
cells that needed one page too many. -/
structure CaseSt where
  mem : List Host.Cell
  staged : List Host.Cell
  inbound : List Host.Cell
  own : List Host.Cell
  host : List Host.Cell
  shadow : List Nat
  excess : List Nat
deriving DecidableEq, Repr

/-- Cells and their map (R25 to R27, R245, R372). `carry` lists the carry pages, `system` the first page of the SYSTEM pages of each cell: its
1 MiB carry area, where it has carry pages, and behind it the copy of its contents (R234, R245); `galleyWait` counts the galley-wait
cycles of each cell (R126). -/
structure CellsSt where
  eng : SMap CellEng
  map : List CellState
  forcedFence : List Nat
  carry : List Nat
  system : SMap Nat
  unchecked : SMap Nat
  galleyWait : SMap Nat
  unfenceAt : List Nat
deriving DecidableEq, Repr

/-- The statistics of each tensor: of the running step (committed, and the two staged parts of R36), and the records that
the last exchange combined (R215), with those that a decision frame has staged. `lastForm` holds the format and the leading that each
table entry had in that step (R138). -/
structure StatsSt where
  committed : SMap StatRec
  last : SMap StatRec
  lastForm : List (Nat × Int)
  lastStaged : Option (SMap StatRec)
  own : SMap StatRec
  inbound : SMap StatRec
deriving DecidableEq, Repr

/-- A page-map entry (R175). -/
structure PageEnt where
  ppn : Nat
  cls : Nat
  excluded : Bool
deriving DecidableEq, Repr

/-- A carried write in arrival order (R177): from the host (R50) or from the fabric. -/
structure CarW where
  host : Bool
  addr : Nat
  bytes : List Byte
deriving DecidableEq, Repr

/-- A 32 × 32 long tile (R93). `ks` lists the K ranges that it covers, first index and count; the header names the first index and the sum
of the counts. -/
structure LTile where
  leading : Int
  below : Bool
  releaded : Bool
  nonfinite : Bool
  segment : Nat
  ks : List (Nat × Nat)
  rounded : Bool
  belowCount : Nat
  rowPoison : W32
  colPoison : W32
  elems : SMap Int
deriving DecidableEq, Repr

/-- A bezel unit's grant state (R185, R187, R190): slots since the last scrub and since the last migration, and what has gathered towards the
next operation that a reduced admission lets in (R384). -/
structure UnitSt where
  sinceScrub : Nat
  sinceMig : Nat
  granted : Option ReqClass
  credit : Frac
deriving DecidableEq, Repr

/-- An inbound data packet that waits for a clock (R407): its port and type, whether it writes a snapshot slot, its header and its payload. -/
structure PktWait where
  port : Nat
  kind : Nat
  slot : Bool
  h : PktHdr
  payload : List Byte
deriving DecidableEq, Repr

/-- A BAR2 access that waits for the clock of its stack, or for the network side to read its entry (R407, R408, R411): its port, whether
it writes, its device address, the bytes to read or to write, and the upset words that it reads. -/
structure Bar2Wait where
  port : PPort
  write : Bool
  addr : Nat
  len : Nat
  bytes : List Byte
  reads : List HbmUpset
deriving DecidableEq, Repr

/-- HBM and its bezel units (R172 to R189). Page keys are stack * 2 ^ 20 + page; physical pages stack * 2 ^ 20 + PPN. A delta tile stands
with the tensor that its contributions name; `ranges` holds the K ranges that a committed buffer covers, by the key of its delta tile: its
header names only their first index and their count (R91, R93). `poisonStaged` and `poisonIn` hold the device words that a COPY of this frame lists when it
commits, from this chip and from another (R183); `fullStacks` the stacks that needed one staging page too many (R180). -/
structure HbmSt where
  mem : List Host.Cell
  map : SMap PageEnt
  taken : List Nat
  localB : List Host.Cell
  localPages : SMap Nat
  carried : List CarW
  carPages : SMap Nat
  deltaLocal : SMap (Nat × LTile)
  deltaIn : SMap (Nat × LTile)
  deltaPages : SMap Nat
  ranges : SMap (List (Nat × Nat))
  poison : List (Nat × Nat)
  poisonStaged : List Nat
  poisonIn : List Nat
  fullStacks : List Nat
  failedOnce : List (Nat × Nat)
  corrected : List (Nat × Nat)
  weak : List (Nat × Nat)
  migrated : List Nat
  excluded : List Nat
  retiring : List (Nat × Nat)
  retired : List (Nat × Nat)
  usable : List Nat
  units : SMap UnitSt
  regenWords : List (Nat × Nat)
  training : List Nat
  bar2Waits : List Bar2Wait
  pktWaits : List PktWait
  pageIdx : Nat
deriving DecidableEq, Repr

/-- A mailbox slot (R263). -/
structure Slot where
  st : SlotState
  opcode : W16
  tag : W32
  argLen : W16
  status : W16
  resLen : W16
  reason : W16
  doneTick : W64
  payload : List Byte
deriving DecidableEq, Repr

/-- A completion record (R265). -/
structure ComplRec where
  kind : Nat
  opcode : W16
  tag : W32
  status : W16
  reason : W16
  slot : Nat
  tick : W64
  detail : W64
deriving DecidableEq, Repr

/-- A host-buffer binding (R266). -/
structure Bind where
  canRead : Bool
  canWrite : Bool
  address : W64
  length : Nat
deriving DecidableEq, Repr

/-- What the last read of a port returned (R258, R260): data, poisoned, aborted. -/
structure ReadRes where
  data : List Byte
  poisoned : Bool
  abort : Bool
deriving DecidableEq, Repr

/-- One PCIe port (R252 to R270). -/
structure PortSt where
  slots : SMap Slot
  ringBase : W64
  ringEnable : Bool
  ringSize : Nat
  written : W32
  consumed : W32
  waiting : List ComplRec
  window : Nat
  sticky : W32
  latch : W32
  binds : SMap Bind
  bme : Bool
  d3hot : Bool
  linkUp : Bool
  inReset : Bool
  width : Nat
  rate : Nat
  aerCorr : Bool
  aerUncorr : Bool
  lastRead : Option ReadRes
  fifoWr : Nat
  fifoRd : Nat
  resyncReq : Bool
  resyncAck : Bool
deriving DecidableEq, Repr

/-- A submitted slot in arrival order (R264), and whether its port held the lease when it arrived (R268). -/
structure Arrival where
  port : PPort
  slot : Nat
  alive : Bool
deriving DecidableEq, Repr

/-- An ACCEPTED long command (R277) with its arguments. -/
structure Acc where
  port : PPort
  slot : Nat
  opcode : Nat
  args : List Byte
deriving DecidableEq, Repr

/-- A transfer that waits for its binding (R267): the opcode of the accepted command that it belongs to, and its binding. -/
structure DmaWait where
  opcode : Nat
  binding : Nat
  write : Bool
  offset : Nat
  bytes : List Byte
deriving DecidableEq, Repr

/-- The mailbox beyond the ports' registers: arrival order, ACCEPTED commands, waiting DMA, host memory as DMA
leaves it (key: port B adds 2 ^ 64). -/
structure MbxSt where
  order : List Arrival
  accepted : List Acc
  dma : List DmaWait
  hostMem : List Host.Cell
  silenced : Bool
deriving DecidableEq, Repr

/-- The control lease (R268, the ownership block). -/
structure OwnSt where
  holder : Option PPort
  leaseLen : W32
  expiryUs : Nat
  generation : W32
  changeTick : W64
  lapsed : Option PPort
deriving DecidableEq, Repr

/-- Identity, status and boot registers (R258, R271, R416) and what waits for a barrier or a tick. `left` is the state a snapshot
left (R347); `goOn` marks a hold at the step barrier that ends by itself (R248, R370); `lostTick` that the chip committed a frame
which its domain discarded (R47); `attempts` counts the falls of a PWRGD in this start-up (R417, R458). -/
structure DevSt where
  state : DevState
  unaligned : Bool
  stalled : Bool
  uncontrolled : Bool
  reimposing : Bool
  fabric : Nat
  heartbeat : W32
  bootStage : Nat
  bootSlot : Nat
  bootError : Nat
  fw : W32
  uid : W64
  attempts : Nat
  left : Option DevState
  goOn : Bool
  retireAt : Bool
  leaseHold : Bool
  readyAt : Bool
  retrain : List Nat
  retraining : List Nat
  retrainTicks : Nat
  fenceAt : List Nat
  resetAt : Option Nat
  lostTick : Bool
deriving DecidableEq, Repr

/-- The environment registers and what waits for the next tick (R258, R285 to R287, R376). Budgets in mW. -/
structure EnvSt where
  inlet : Int
  flow : Nat
  feed : Nat
  offset : Nat
  inletNext : Option Int
  flowNext : Option Nat
  offsetNext : Option Nat
  budgetTarget : Nat
  budget : Nat
  windowMs : Nat
  windowNext : Option Nat
  average : Nat
  preferred : List Nat
deriving DecidableEq, Repr

/-- One temperature sensor (R391). -/
structure Sensor where
  last : Option Int
  lost : Bool
  silent : Nat
  good : Nat
deriving DecidableEq, Repr

/-- A block's droop state (R390). -/
structure Droop where
  q : Nat
  trip : Nat
deriving DecidableEq, Repr

/-- Power and thermal control (R375 to R402). Energies in mW·µs, powers in mW, temperatures in 1/16 °C. `winTicks` is 0 while no averaging
window runs (R403); `again` says that an emergency, a regulator fault or absent firmware has ended and the next point decision takes control
back (R398); `raiseB` is the budget in force at the decision of a raise in steps (R388); `wasHot` says that Tj_max was at 105 °C or above at
the last control step (R397). `aElapsed` sums B as R377 takes it, `bElapsed` as R378 does. `guardUs` is what was left of the guard band at the
tick. `steadyFrame` says that the frame in progress spoils no steady window. `steps` counts the frame's control steps, `writes` those in which
q_power was written (R402). `history` holds spot readings, newest first, with their times. `stepsNoQ` counts the control steps in a
row without a write of q_power, `ticksNoQ` the ticks (R402); `anew` says that the next point decision chooses anew. `steadyIn` is the inlet
temperature of the frame that the last tick ended, and `newFlow` says that a new flow took effect at that tick (R395). `setpointMv` is the
droop detectors' setpoint (R388), `segMv` the voltage of each VDD_CORE segment, 4 r + j for segment j of region r, and `avsFailed` the segments
whose regulator has not taken the last AVSBus command (R460, R468). -/
structure PowerSt where
  point : Nat
  nextPoint : Nat
  raiseTo : Option Nat
  q : Nat
  eUsed : Nat
  aElapsed : Nat
  bElapsed : Nat
  winTicks : Nat
  winElapsed : Nat
  sinceSample : Nat
  metered : Nat
  lastRails : List Nat
  missed : List Nat
  gain : Frac
  offset : Frac
  pairs : List (Frac × Nat)
  frozen : Bool
  fallback : Bool
  modelled : Bool
  modelWas : Bool
  guardUs : Nat
  divergeMs : Nat
  agreeMs : Nat
  estimate : Nat
  lastShares : List Frac
  lastIssued : Frac
  admitted : Frac
  droop : SMap Droop
  rth : Frac
  rthBefore : Frac
  steadyOk : Bool
  steadyFrame : Bool
  steadyIn : Int
  newFlow : Bool
  steadyMin : Nat
  steadyMax : Nat
  steadySum : Nat
  steadyN : Nat
  sensors : SMap Sensor
  history : List (Nat × List (Option Int))
  disagree : SMap Nat
  penal : List Nat
  tjMax : Int
  limit : Bool
  emergency : Bool
  quiet : Nat
  regFaults : SMap Nat
  noisy : Bool
  steps : Nat
  writes : Nat
  absent : Nat
  stepsNoQ : Nat
  ticksNoQ : Nat
  slewing : Bool
  slewMv : Nat
  railMv : Nat
  setpointMv : Nat
  segMv : List Nat
  avsFailed : List Nat
  lastPhase : Option Nat
  qBelow : Bool
  again : Bool
  anew : Bool
  raiseB : Nat
  wasHot : Bool
deriving DecidableEq, Repr

/-- The pins (R400, R413, R454, R457, R462): an enable or a signal is true while asserted. `flReset` is FL_RESET_N. -/
structure PinSt where
  vrSram : Bool
  vrCore : Bool
  vrHbm : Bool
  vrSerdes : Bool
  thermTrip : Bool
  perstA : Bool
  perstB : Bool
  ioUp : Bool
  flReset : Bool
deriving DecidableEq, Repr

/-- Clock and heartbeat state (R28, R29, R406, R411): ticks without a heartbeat, the lost regions, the watch of R29, the regions
whose clocks have stopped, and whether a region's PLL has lost lock since the last tick (R418). -/
structure ClockSt where
  silent : List Nat
  lost : List Nat
  beatArmed : Bool
  stopped : List Nat
  lockLost : Bool
  coreReset : Bool
deriving DecidableEq, Repr

/-- A fault source's settings: N, W and the action byte (R360, R365). -/
structure FCfg where
  n : Nat
  w : Nat
  action : Nat
deriving DecidableEq, Repr

/-- A window of a fault source that has just ended: the tick that ended it, the settings it ran under, its count, whether a real event
counted in it, and whether a FAULT_CONFIG cleared the flags at that tick. An event latched before the collector's count changes still
counts in it (R56, R361, R374). -/
structure OldWin where
  ended : W64
  cfg : FCfg
  count : Nat
  real : Bool
  cleared : Bool
deriving DecidableEq, Repr

/-- The state of one fault source (R360). `lastStamp` is the stamp of its latest event, which names the window that `count` belongs to (R361); `real`
says that a real event counted in that window (R371). `pending` is a FAULT_CONFIG that waits, with the tick that took it. -/
structure FSrc where
  sticky : Bool
  severe : Bool
  forced : Bool
  count : Nat
  lastStamp : W64
  real : Bool
  total : Nat
  cfg : FCfg
  pending : Option (FCfg × W64)
  old : Option OldWin
deriving DecidableEq, Repr

/-- The collectors (R359, R371): sources by key, the forced events that the next tick latches, and the severe actions that wait for the
end of a snapshot's stop, by source key and action byte (R370). -/
structure FaultSt where
  src : SMap FSrc
  forcedNext : List (Nat × Nat)
  waiting : List (Nat × Nat)
deriving DecidableEq, Repr

/-- What leaves the chip (R318, R320 to R324, R331, R347, R265), packet by packet: the model's own output log. `stepItems` names what the packets
of a stage carry: the chunk of a ring, and the members whose parts they carry, in the order in which these combine. -/
inductive OutMsg where
  | marker (port sender : Nat) (domainTick : W64)
  | hold (port hops : Nat) (h : HoldRec)
  | data (port : Option Nat) (kind : Nat) (h : PktHdr) (payload : List Byte)
  | linkCredit (port freed : Nat)
  | delivery (port : Option Nat) (dst src : Nat) (frame : W32) (packets : Nat)
  | nak (port : Nat) (ack : W16)
  | replay (port : Nat) (seqs : List W16)
  | training (port : Nat) (uid : W64) (address : Nat) (aligned : Bool)
  | stepItems (dst stage : Nat) (chunk : Option Nat) (parts : List Nat) (own : Option StepItems)
  | restoreAsk (dst identity generation : Nat) (ask : RestoreAsk)
  | restoreAnswer (dst status reason : Nat)
deriving DecidableEq, Repr

/-- A flit in the replay buffer (R312, R313). Its acknowledgement and its CRC are those of the moment at which it leaves. -/
structure Flit where
  seq : W16
  kind : Nat
  payload : List Byte
deriving DecidableEq, Repr

/-- A packet that waits at a port, cut into the payloads of its flits (R311, R321); `msg` is logged with its last flit. -/
structure Queued where
  msg : Option OutMsg
  parts : List (List Byte)
deriving DecidableEq, Repr

/-- A Clasp port's link record (R318) and its link layer (R312, R313, R316, R323). `rx` holds the payload bytes of the data flits received
whose packets have not arrived yet, `ctl` and `queue` the control and data packets that wait to leave. -/
structure Clasp where
  enabled : Bool
  state : Nat
  lanes : Byte
  neighbour : Nat
  nport : Nat
  naligned : Bool
  nuid : W64
  delay : Nat
  retries : Nat
  fecOk : Nat
  fecBad : Nat
  rxSeq : W16
  txSeq : W16
  ackSeq : W16
  replay : List Flit
  replays : Nat
  rx : List Byte
  credits : Nat
  ctl : List Queued
  queue : List Queued
  retriesLeft : Nat
  byItself : Bool
  laneFec : List Nat
  laneOld : List Nat
deriving DecidableEq, Repr

/-- A group of the group table (R329). -/
structure Group where
  index : Nat
  algorithm : Nat
  partials : Nat
  fanout : Nat
  step : Bool
  timeout : Nat
  members : List Nat
  schedule : List Nat
deriving DecidableEq, Repr

/-- A wait on a group (R333): since which own tick, the members whose contributions it misses and those whose delivery credits, and the cells
whose next item waits for such a contribution. -/
structure GWait where
  since : W64
  missing : List Nat
  unacked : List Nat
  cells : List Nat
deriving DecidableEq, Repr

/-- What the frame has sent to one destination for a group, and the running count that the destination has returned (R37, R324).
`xfer` marks snapshot transfers, which belong to no send item. -/
structure SendRec where
  dst : Nat
  group : Nat
  xfer : Bool
  sent : Nat
  acked : Nat
deriving DecidableEq, Repr

/-- The Clasp fabric (R311 to R337). `contrib` lists the members whose contribution to the exchange stage is committed; `contribStaged` counts
the items of each member that this frame has brought whole (R335). `outbox` holds the data packets that an operation has made and not yet
handed to the ports; `out` and `wire` log the packets and the flits that have left. -/
structure FabricSt where
  ports : SMap Clasp
  usable : List Nat
  routes : SMap Nat
  routeBytes : List Byte
  routesNext : Option (SMap Nat × List Byte)
  groups : List Group
  groupBytes : List Byte
  groupsNext : Option (List Group × List Byte)
  stalled : List Nat
  waits : SMap GWait
  sends : List SendRec
  recv : SMap Nat
  contrib : List Nat
  contribStaged : SMap Nat
  outbox : List (Nat × PktHdr × List Byte)
  out : List OutMsg
  wire : List (Nat × List Byte)
deriving DecidableEq, Repr

/-- A piece of a slot on its way to another chip (R347): offset within the slot, the bytes, the words of them that leave as poison (R183), and
whether a bezel unit copies it, and whether it belongs to a generation that another chip restores from. -/
structure SlotPiece where
  dst : Nat
  off : Nat
  bytes : List Byte
  bad : List Nat
  copy : Bool
  served : Bool
deriving DecidableEq, Repr

/-- A slot transfer (R347): the pieces that the frame has sent, those whose bytes go out again, the ranges that are acknowledged (chip, offset,
length), the frames in a row without an acknowledged byte, and whether the closing header has gone out. -/
structure Xfer where
  sent : List SlotPiece
  again : List SlotPiece
  done : List (Nat × Nat × Nat)
  noAck : Nat
  closing : Bool
deriving DecidableEq, Repr

/-- A running snapshot (R345 to R348): `due` marks the cut tick, `within` a SNAPSHOT that was taken in HELD within a step. -/
structure SnapRun where
  step : W64
  group : Bool
  within : Bool
  generation : W64
  due : Bool
  frames : Nat
  leftRunning : Bool
  xfer : Xfer
deriving DecidableEq, Repr

/-- A generation that this chip serves to a restoring chip (R352, R353). -/
structure ServeRun where
  requester : Nat
  identity : Nat
  slot : Nat
  mapped : Bool
  xfer : Xfer
deriving DecidableEq, Repr

/-- A running restore (R351, R352). `got` holds the pieces of the generation that have arrived, with their offsets. -/
structure RestRun where
  source : Nat
  identity : Nat
  previous : Bool
  map : List (Nat × Nat)
  proof : Bool
  got : List (Nat × List Byte)
deriving DecidableEq, Repr

/-- Snapshots (R338 to R357). `proofFor` is the generation whose following step has not closed; `proofRecs` are the proof records that wait to
be written, with the frames that have tried (R350). `tails` are the header updates that go on until they are acknowledged (R347, R356). -/
structure SnapSt where
  partnersSet : Bool
  even : Nat
  evenFeed : Nat
  odd : Nat
  oddFeed : Nat
  acked : Bool
  exposed : Bool
  proven : Bool
  nextGen : W64
  held0 : Option GenHdr
  held1 : Option GenHdr
  latestGen : Option W64
  run : Option SnapRun
  proofFor : Option W64
  proofRecs : List (List Byte × Nat)
  restore : Option RestRun
  serves : List ServeRun
  tails : List Xfer
deriving DecidableEq, Repr

/-- The DMTF types of the measurement blocks (R434). -/
inductive MeasType where
  | immutableRom | mutableFirmware | hardwareConfig | firmwareConfig | freeformManifest
deriving DecidableEq, Repr

/-- A measurement block (R434): its index and type, whether it is a raw bit stream in place of a digest, and its value. -/
structure Meas where
  index : Nat
  type : MeasType
  raw : Bool
  value : List Byte
deriving DecidableEq, Repr

/-- The capability flags of R433. -/
structure SpdmCaps where
  cert : Bool
  chal : Bool
  meas : Nat
  measFresh : Bool
  encrypt : Bool
  mac : Bool
  keyEx : Bool
  psk : Bool
  hbeat : Bool
  keyUpd : Bool
  chunk : Bool
  others : Bool
deriving DecidableEq, Repr

/-- The entry of ExtAsym (R433): registry, vendor and algorithm. -/
structure ExtAsym where
  registry : Nat
  vendor : Nat
  algorithm : Nat
deriving DecidableEq, Repr

/-- An SPDM response (R433, R434), by content. `algorithms` names the measurement hash, the base hash, the base asymmetric algorithm, if any,
and the external ones. -/
inductive Spdm where
  | version (major minor : Nat)
  | capabilities (caps : SpdmCaps) (ctExponent dataSize maxMessage : Nat)
  | algorithms (measHash baseHash : Nat) (baseAsym : Option Nat) (extAsym : List ExtAsym)
  | digests (list : List (List Byte))
  | certificate (bytes : List Byte) (remaining : Nat)
  | challengeAuth (certDigest measDigest : List Byte) (nonce signature : List Byte)
  | measurements (count : Nat) (blocks : List Meas) (signature : Option (List Byte))
  | error (code : Nat)
  | doe (vendor type next : Nat)
deriving DecidableEq, Repr

/-- One port's SPDM connection (R433). The transcripts that a signature covers hold the messages of the connection's start, of the
certificate requests, and of the measurement requests since the last signature (log entry 30). -/
structure SpdmConn where
  versionDone : Bool
  capsDone : Bool
  algsDone : Bool
  last : Option Spdm
  start : List Byte
  certs : List Byte
  meas : List Byte
deriving DecidableEq, Repr

/-- What the power_tables fuses hold (R381, R386, R419): the energy of one count in pJ at OP3, the fixed term in mW, and the leakage of each
point at 85 °C in mW. -/
structure PowerFuses where
  site : List Nat
  banks : Nat
  acc : Nat
  vector : Nat
  router : Nat
  bezel : Nat
  hbm : Nat
  clasp : Nat
  fixedMw : Nat
  leakMw : List Nat
deriving DecidableEq, Repr

/-- Identity (R419, R429 to R435): the fuses, the hallmark store, the assay log, the responders. `lifecycle` holds the code's four bits three
times over, and `power` the 2,048 bits of power_tables; `loaded` holds the sections that the boot ROM has put into compositor SRAM, by load
address (R422, R424). -/
structure IdentSt where
  deviceSecret : List Byte
  lifecycle : BitVec 12
  secretOpen : Bool
  keyHash : List Byte
  rollback : W64
  absent : List Nat
  power : BitVec 2048
  loaded : List (Nat × List Byte)
  burnFails : Bool
  hallmark : List Byte
  hallmarkKey : List Byte
  certOk : Bool
  manifest : List Byte
  chain : List Byte
  images : List (List Byte)
  spdmA : SpdmConn
  spdmB : SpdmConn
deriving DecidableEq, Repr

/-- A firmware bank (R422): the bytes from its offset 0, none where it is erased, and whether FIPS 205 accepts their signature, which the
model works out once, when it programs them (R423). -/
structure Bank where
  image : List Byte
  signed : Bool
deriving DecidableEq, Repr

/-- An event record (R437) before its CRC. -/
structure EventRec where
  sequence : W64
  hours : W32
  cycle : W32
  tick : W64
  type : Nat
  payload : List Byte
deriving DecidableEq, Repr

/-- A correlation record (R447). -/
structure CorrRec where
  sequence : W32
  hours : W32
  cycle : W32
  tick : W64
  utc : W64
deriving DecidableEq, Repr

/-- The lifetime counters of R446 as they stand in the compositor. `energy` in mW·µs. -/
structure Life where
  writeCount : W64
  hoursUs : Nat
  cycles : W32
  energy : Nat
  fences : W32
  unfences : W32
  corrected : W64
  uncorrectable : W64
  pprSoft : W16
  pprHard : W16
  excluded : W16
  retiredPc : Byte
  snapshots : W32
  restores : W32
  excursions : W32
  emergencies : W32
  margins : List Byte
  fenceHist : List Nat
  tjPeak : Int
  lastCorr : W32
deriving DecidableEq, Repr

/-- A boot record (R421). -/
structure BootRec where
  sequence : W32
  primary : Nat
  slotB : Nat
  swap : Bool
deriving DecidableEq, Repr

/-- A lifetime image (R445): its block, and the total of each fault source that has one, by source key. -/
structure LifeImage where
  life : Life
  totals : SMap Nat
deriving DecidableEq, Repr

/-- The boot flash (R420) and the queues of R441 and R447: the two copies of the boot record (none: its CRC fails), banks, event ring,
correlation records, the lifetime images by position, of which `nextImage` is written next, and the repair area. `torn` says that a core reset
cut the programming of a queued record (R442, R449). -/
structure FlashSt where
  copy0 : Option BootRec
  copy1 : Option BootRec
  bank0 : Bank
  bank1 : Bank
  ring : List EventRec
  queue : List EventRec
  nextSeq : W64
  lostFirst : W64
  lostCount : W32
  torn : Bool
  corr : List CorrRec
  corrQueue : List CorrRec
  nextCorr : W32
  images : SMap LifeImage
  nextImage : Nat
  excluded : List Nat
  retired : List (Nat × Nat)
  softRepairs : List (Nat × Nat)
  certPresent : Bool
deriving DecidableEq, Repr

/-- The recorder and counters in the compositor (R438, R445). -/
structure LifeSt where
  now : Life
  sinceWriteUs : Nat
  writeDue : Bool
deriving DecidableEq, Repr

/-- A FIRMWARE_STAGE in progress (R309, R425): the bank it programs and the status its verification will give, and the reads of the read-back
that the flash reports as corrected and as uncorrectable (R420). -/
structure StagingSt where
  stage : Option (Bank × Nat)
  corrected : Nat
  badReads : Nat
deriving DecidableEq, Repr

/-- The whole block. `freeIdx` is the model's own: the number of free values drawn so far. `pending` is the model's
own: the commands that wait, first in first out. -/
structure State where
  tick : TickSt
  frame : FrameSt
  step : StepSt
  image : ImageSt
  caseMem : CaseSt
  cells : CellsSt
  stats : StatsSt
  hbm : HbmSt
  portA : PortSt
  portB : PortSt
  mbx : MbxSt
  own : OwnSt
  dev : DevSt
  env : EnvSt
  power : PowerSt
  pins : PinSt
  clocks : ClockSt
  faults : FaultSt
  fabric : FabricSt
  snap : SnapSt
  ident : IdentSt
  flash : FlashSt
  life : LifeSt
  staging : StagingSt
  freeIdx : Nat
  pending : List Instr
deriving DecidableEq, Repr

/-! ### Reset values -/

/-- The tick generator after core reset (R11, R30, R258). -/
def TickSt.reset : TickSt where
  count := 0
  lastCommit := 0
  slips := 0
  domain := 0
  rate := .r5000
  source := false
  aligned := false
  firstAligned := false
  upstream := 0
  newDomain := none
  realign := none
  markerSeen := false
  markerTick := 0
  markerGap := 0
  offBad := 0
  offGood := 0
  offsetPs := 0
  corrPs := 0
  timeUs := 0

/-- No frame of work in progress. -/
def FrameSt.reset : FrameSt where
  formeIdx := 0
  pastDeadline := false
  lockUp := false
  doubt := false
  late := false
  known := []
  forwarded := []
  ownLate := none
  ownEarly := false
  withheldAt := none
  replaying := false
  slipRun := 0
  stuck := false
  retry := false
  inStep := false
  doneMask := []
  doneStaged := []
  started := []
  finished := []
  running := []
  cellStarted := []
  stoppedCells := []

/-- The step record before any load (DESIGN CHOICE, log entry 13: the manual states none). -/
def StepRec.reset : StepRec where
  applied := 0
  attempted := 0
  seed := 0
  skips := 0
  totalSkips := 0
  loss := 0
  gradNorm := 0
  clip := 0
  normLeading := 0
  outcome := 0
  stalled := false

def StepSt.reset : StepSt where
  record := StepRec.reset
  recStaged := none
  table := []
  tableStaged := none
  changed := []
  consts := []
  constsStaged := none
  startAt := false
  resumeAt := false
  stepsLeft := none
  batches := []
  accepted := none
  digest := 0
  digestStaged := 0
  regen := false
  refTensors := []
  refBound := 0
  refNext := none
  refTop := []
  refTopStaged := []
  refHeld := []
  refHeldStaged := []
  workSets := []
  workSetsStaged := []
  compares := []
  comparesStaged := []
  cmpLast := []
  cmpBound := 0
  cmpLastStaged := none
  masterPoison := false
  lossPartial := 0
  lossHas := false
  sent := none
  proof := none

def ImageSt.reset : ImageSt where
  img := none
  loading := none
  installed := []
  moves := []
  unmoved := []
  orphans := []
  spareLoads := []
  decidedAt := 0
  memReimp := []
  weights := [4, 4, 1]

/-- An array after the tick: stopped, no credit (R115). -/
def ArraySt.reset : ArraySt := { credit := 0, qRamp := 0, spent := 0, down := false, stopped := true }

/-- A cell's engines when the tick has emptied them (R33). -/
def CellEng.empty : CellEng where
  acc := []
  sums := []
  rowPoison := []
  colPoison := []
  groups := []
  rows := []
  cleared := []
  active := none
  next := none
  swapped := false
  held := none
  refs := []
  refRows := []
  refCols := []
  refSlabs := []
  arrays := [ArraySt.reset, ArraySt.reset, ArraySt.reset, ArraySt.reset]
  galley := []
  waiting := []
  releases := []
  vregs := []
  mregs := []
  lregs := []

def CaseSt.reset : CaseSt := { mem := [], staged := [], inbound := [], own := [], host := [], shadow := [], excess := [] }

/-- The cell states of one block as shipped without an ABSENT cell (R26): eight ACTIVE cells and the spare, cell 8. -/
def factoryBlock : List CellState :=
  [.active, .active, .active, .active, .active, .active, .active, .active, .spare]

/-- The factory map (R26, R413). DESIGN CHOICE (log entry 11): a part without ABSENT cells. -/
def factoryMap : List CellState := (List.replicate 32 factoryBlock).flatten

def CellsSt.reset : CellsSt where
  eng := []
  map := factoryMap
  forcedFence := []
  carry := []
  system := []
  unchecked := []
  galleyWait := []
  unfenceAt := []

def StatsSt.reset : StatsSt := { committed := [], last := [], lastForm := [], lastStaged := none, own := [], inbound := [] }

/-- HBM after core reset: no page mapped, every physical page free (R175); usable pages read 0 until training ends (R258). -/
def HbmSt.reset : HbmSt where
  mem := []
  map := []
  taken := []
  localB := []
  localPages := []
  carried := []
  carPages := []
  deltaLocal := []
  deltaIn := []
  deltaPages := []
  ranges := []
  poison := []
  poisonStaged := []
  poisonIn := []
  fullStacks := []
  failedOnce := []
  corrected := []
  weak := []
  migrated := []
  excluded := []
  retiring := []
  retired := []
  usable := [0, 0, 0, 0, 0, 0, 0, 0]
  units := []
  regenWords := []
  training := []
  bar2Waits := []
  pktWaits := []
  pageIdx := 0

/-- A FREE slot (R263, R270). -/
def Slot.reset : Slot where
  st := .free
  opcode := 0
  tag := 0
  argLen := 0
  status := 0
  resLen := 0
  reason := 0
  doneTick := 0
  payload := List.replicate 224 0

/-- A port in reset (R258, R270). -/
def PortSt.reset : PortSt where
  slots := []
  ringBase := 0
  ringEnable := false
  ringSize := 0
  written := 0
  consumed := 0
  waiting := []
  window := 0
  sticky := 0
  latch := 0
  binds := []
  bme := false
  d3hot := false
  linkUp := false
  inReset := true
  width := 0
  rate := 0
  aerCorr := false
  aerUncorr := false
  lastRead := none
  fifoWr := 0
  fifoRd := 0
  resyncReq := true
  resyncAck := false

def MbxSt.reset : MbxSt where
  order := []
  accepted := []
  dma := []
  hostMem := []
  silenced := false

/-- No holder; the lease length reads 3,000 ms (R258). -/
def OwnSt.reset : OwnSt where
  holder := none
  leaseLen := 3000
  expiryUs := 0
  generation := 0
  changeTick := 0
  lapsed := none

/-- BOOTING, unassigned (R258, R325, R416). The identifier and the lifecycle are fused (log entry 11). -/
def DevSt.reset : DevSt where
  state := .booting
  unaligned := false
  stalled := false
  uncontrolled := false
  reimposing := false
  fabric := 0xFFFF
  heartbeat := 0
  bootStage := 0
  bootSlot := 0
  bootError := 0
  fw := 0
  uid := 0
  attempts := 0
  left := none
  goOn := false
  retireAt := false
  leaseHold := false
  readyAt := false
  retrain := []
  retraining := []
  retrainTicks := 0
  fenceAt := []
  resetAt := none
  lostTick := false

/-- The environment registers (R258) and the default budget and window (R376). Preferred points: none (log entry 13). -/
def EnvSt.reset : EnvSt where
  inlet := 0x280
  flow := 0x80
  feed := 0xFFFF
  offset := 0
  inletNext := none
  flowNext := none
  offsetNext := none
  budgetTarget := 2500000
  budget := 2500000
  windowMs := 4000
  windowNext := none
  average := 0
  preferred := [0xFF, 0xFF, 0xFF, 0xFF, 0xFF, 0xFF]

/-- Control after core reset: OP0 (R414, R415), Rth at its nominal value (R394). -/
def PowerSt.reset : PowerSt where
  point := 0
  nextPoint := 0
  raiseTo := none
  q := 64
  eUsed := 0
  aElapsed := 0
  bElapsed := 0
  winTicks := 20000
  winElapsed := 0
  sinceSample := 0
  metered := 0
  lastRails := []
  missed := []
  gain := Frac.ofNat 1
  offset := Frac.ofNat 0
  pairs := []
  frozen := false
  fallback := false
  modelled := false
  modelWas := false
  guardUs := 1000000
  divergeMs := 0
  agreeMs := 0
  estimate := 0
  lastShares := []
  lastIssued := ⟨0, 1⟩
  admitted := Frac.ofNat 1
  droop := []
  rth := rthNom 0x80
  rthBefore := rthNom 0x80
  steadyOk := true
  steadyFrame := true
  steadyIn := 0x280
  newFlow := false
  steadyMin := 0
  steadyMax := 0
  steadySum := 0
  steadyN := 0
  sensors := []
  history := []
  disagree := []
  penal := []
  tjMax := 0
  limit := false
  emergency := false
  quiet := 0
  regFaults := []
  noisy := false
  steps := 0
  writes := 0
  absent := 0
  stepsNoQ := 0
  ticksNoQ := 0
  slewing := false
  slewMv := 500
  railMv := 500
  setpointMv := 500
  segMv := List.replicate 16 500
  avsFailed := []
  lastPhase := none
  qBelow := false
  again := false
  anew := false
  raiseB := 0
  wasHot := false

/-- The pins at power-on: rails valid, both PERST# asserted, every enable deasserted, THERM_TRIP_N released, FL_RESET_N asserted (R413, R414,
R462). -/
def PinSt.reset : PinSt where
  vrSram := false
  vrCore := false
  vrHbm := false
  vrSerdes := false
  thermTrip := false
  perstA := true
  perstB := true
  ioUp := true
  flReset := true

def ClockSt.reset : ClockSt where
  silent := [0, 0, 0, 0]
  lost := []
  beatArmed := false
  stopped := []
  lockLost := false
  coreReset := true

def FaultSt.reset : FaultSt := { src := [], forcedNext := [], waiting := [] }

/-- A Clasp port after core reset: enabled, its record DOWN with width 0 (R316), 2,048 credits (R323). -/
def Clasp.reset : Clasp where
  enabled := true
  state := 4
  lanes := 0
  neighbour := 0xFFFF
  nport := 0
  naligned := false
  nuid := 0
  delay := 0
  retries := 0
  fecOk := 0
  fecBad := 0
  rxSeq := 0
  txSeq := 0
  ackSeq := 0xFFFF
  replay := []
  replays := 0
  rx := []
  credits := 2048
  ctl := []
  queue := []
  retriesLeft := 3
  byItself := false
  laneFec := [0, 0, 0, 0, 0, 0, 0, 0]
  laneOld := [0, 0, 0, 0, 0, 0, 0, 0]

def FabricSt.reset : FabricSt where
  ports := []
  usable := []
  routes := []
  routeBytes := []
  routesNext := none
  groups := []
  groupBytes := []
  groupsNext := none
  stalled := []
  waits := []
  sends := []
  recv := []
  contrib := []
  contribStaged := []
  outbox := []
  out := []
  wire := []

def SnapSt.reset : SnapSt where
  partnersSet := false
  even := 0xFFFF
  evenFeed := 0xFFFF
  odd := 0xFFFF
  oddFeed := 0xFFFF
  acked := false
  exposed := false
  proven := false
  nextGen := 0
  held0 := none
  held1 := none
  latestGen := none
  run := none
  proofFor := none
  proofRecs := []
  serves := []
  tails := []
  restore := none

def SpdmConn.reset : SpdmConn := { versionDone := false, capsDone := false, algsDone := false, last := none, start := [], certs := [], meas := [] }

/-- The bits of power_tables as the model lays them out, in words of 32 bits (DESIGN CHOICE, log entry 11: the manual gives no layout): the
format classes at words 0 to 7, the other counters from word 8, the fixed term at word 15, and the leakage of the four points behind it. -/
def powerFuses (b : BitVec 2048) : PowerFuses :=
  let w := fun i => b.toNat / p2 (32 * i) % p2 32
  { site := (List.range 8).map w, banks := w 8, acc := w 9, vector := w 10, router := w 11, bezel := w 12, hbm := w 13, clasp := w 14,
    fixedMw := w 15, leakMw := [w 16, w 17, w 18, w 19] }

/-- Leakage as R386 calls it typical; the manual gives no energy coefficient, and they read 0 until a part's fuses say otherwise (DESIGN CHOICE,
log entry 11). -/
def powerTables : BitVec 2048 :=
  BitVec.ofNat 2048 (80000 * p2 512 + 100000 * p2 544 + 125000 * p2 576 + 150000 * p2 608)

/-- The hash of the signing key that a part's fuses name: SHA-256 of 32 zero bytes, for the key of the factory image (DESIGN CHOICE, log
entry 11). -/
def factoryKeyHash : List Byte :=
  [0x66, 0x68, 0x7A, 0xAD, 0xF8, 0x62, 0xBD, 0x77, 0x6C, 0x8F, 0xC1, 0x8B, 0x8E, 0x9F, 0x8E, 0x20,
   0x08, 0x97, 0x14, 0x85, 0x6E, 0xE2, 0x33, 0xB3, 0x90, 0x2A, 0x59, 0x1D, 0x0D, 0x5F, 0x29, 0x25]

/-- Identity after core reset: the chain is 32 zero bytes (R435), the hallmark store is clear (R429). -/
def IdentSt.reset : IdentSt where
  deviceSecret := List.replicate 32 0
  lifecycle := 0x555
  secretOpen := true
  keyHash := factoryKeyHash
  rollback := 0
  absent := []
  power := powerTables
  loaded := []
  burnFails := false
  hallmark := []
  hallmarkKey := []
  certOk := false
  manifest := []
  chain := List.replicate 32 0
  images := []
  spdmA := SpdmConn.reset
  spdmB := SpdmConn.reset

/-- An empty bank. -/
def Bank.empty : Bank := { image := [], signed := false }

/-- The image of a new part in the layout of R422: one section of 64 zero bytes, whose SHA-256 stands in its entry, and a signature block of
zeros (DESIGN CHOICE, log entry 11). -/
def factoryImage : List Byte :=
  leBytes 4 0x48574650 ++ leBytes 2 1 ++ leBytes 2 1 ++ leBytes 4 8128 ++ leBytes 4 0 ++ leBytes 4 0x01000000 ++ zeros 4 ++ leBytes 4 192
    ++ zeros 36 ++ leBytes 2 1 ++ zeros 2 ++ leBytes 4 128 ++ leBytes 4 64 ++ zeros 4
    ++ [0xF5, 0xA5, 0xFD, 0x42, 0xD1, 0x6A, 0x20, 0x30, 0x27, 0x98, 0xEF, 0x6E, 0xD3, 0x09, 0x97, 0x9B,
        0x43, 0x00, 0x3D, 0x23, 0x20, 0xD9, 0xF0, 0xE8, 0xEA, 0x98, 0x31, 0xA9, 0x27, 0x59, 0xFB, 0x4B]
    ++ zeros 16 ++ zeros 64 ++ zeros 7936

/-- Lifetime counters of a new part (R446): no margin measured, no fence, no correlation record. -/
def Life.new : Life where
  writeCount := 0
  hoursUs := 0
  cycles := 0
  energy := 0
  fences := 0
  unfences := 0
  corrected := 0
  uncorrectable := 0
  pprSoft := 0
  pprHard := 0
  excluded := 0
  retiredPc := 0
  snapshots := 0
  restores := 0
  excursions := 0
  emergencies := 0
  margins := List.replicate 20 0xFF
  fenceHist := List.replicate 8 0xFFFF
  tjPeak := 0
  lastCorr := 0xFFFFFFFF

/-- The flash of a new part (log entry 11): a verified image in bank 0, nothing recorded. -/
def FlashSt.new : FlashSt where
  copy0 := some { sequence := 0, primary := 0, slotB := 0, swap := false }
  copy1 := none
  bank0 := { image := factoryImage, signed := true }
  bank1 := Bank.empty
  ring := []
  queue := []
  nextSeq := 0
  lostFirst := 0
  lostCount := 0
  torn := false
  corr := []
  corrQueue := []
  nextCorr := 0
  images := []
  nextImage := 0
  excluded := []
  retired := []
  softRepairs := []
  certPresent := true

def LifeSt.reset : LifeSt := { now := Life.new, sinceWriteUs := 0, writeDue := false }

def StagingSt.reset : StagingSt := { stage := none, corrected := 0, badReads := 0 }

/-- The block right after power-on reset (R270, R413, R414): the core in reset, BOOTING, both ports in reset. -/
def State.reset : State where
  tick := TickSt.reset
  frame := FrameSt.reset
  step := StepSt.reset
  image := ImageSt.reset
  caseMem := CaseSt.reset
  cells := CellsSt.reset
  stats := StatsSt.reset
  hbm := HbmSt.reset
  portA := PortSt.reset
  portB := PortSt.reset
  mbx := MbxSt.reset
  own := OwnSt.reset
  dev := DevSt.reset
  env := EnvSt.reset
  power := PowerSt.reset
  pins := PinSt.reset
  clocks := ClockSt.reset
  faults := FaultSt.reset
  fabric := FabricSt.reset
  snap := SnapSt.reset
  ident := IdentSt.reset
  flash := FlashSt.new
  life := LifeSt.reset
  staging := StagingSt.reset
  freeIdx := 0
  pending := []

end Sys2Proof.Machine
end

