-- ==== Sys2Proof/Machine/Ops.lean ====
section
/-! DEFINITION. The named operations every meaning is built from: the outcome of a command, sparse maps, byte order,
memory in canonical form, and the small updates of State that several chapters share. -/

namespace Sys2Proof.Machine
open Sys2Proof

/-- The outcome of every command. -/
abbrev Out := Host.Outcome State Fault Refusal

/-- A command that completes: its effect on everything but the queue. -/
def effect (f : State → State) (s : State) : Out := .next { f s with pending := s.pending }

/-- Apply an update when a condition holds. -/
def onlyIf (c : Bool) (f : State → State) (s : State) : State := if c then f s else s

/-! ### Changing one component of the state -/

def onTick (f : TickSt → TickSt) (s : State) : State := { s with tick := f s.tick }
def onFrame (f : FrameSt → FrameSt) (s : State) : State := { s with frame := f s.frame }
def onStep (f : StepSt → StepSt) (s : State) : State := { s with step := f s.step }
def onImage (f : ImageSt → ImageSt) (s : State) : State := { s with image := f s.image }
def onCase (f : CaseSt → CaseSt) (s : State) : State := { s with caseMem := f s.caseMem }
def onCells (f : CellsSt → CellsSt) (s : State) : State := { s with cells := f s.cells }
def onStats (f : StatsSt → StatsSt) (s : State) : State := { s with stats := f s.stats }
def onHbm (f : HbmSt → HbmSt) (s : State) : State := { s with hbm := f s.hbm }
def onMbx (f : MbxSt → MbxSt) (s : State) : State := { s with mbx := f s.mbx }
def onOwn (f : OwnSt → OwnSt) (s : State) : State := { s with own := f s.own }
def onDev (f : DevSt → DevSt) (s : State) : State := { s with dev := f s.dev }
def onEnv (f : EnvSt → EnvSt) (s : State) : State := { s with env := f s.env }
def onPower (f : PowerSt → PowerSt) (s : State) : State := { s with power := f s.power }
def onPins (f : PinSt → PinSt) (s : State) : State := { s with pins := f s.pins }
def onClocks (f : ClockSt → ClockSt) (s : State) : State := { s with clocks := f s.clocks }
def onFaults (f : FaultSt → FaultSt) (s : State) : State := { s with faults := f s.faults }
def onFabric (f : FabricSt → FabricSt) (s : State) : State := { s with fabric := f s.fabric }
def onSnap (f : SnapSt → SnapSt) (s : State) : State := { s with snap := f s.snap }
def onIdent (f : IdentSt → IdentSt) (s : State) : State := { s with ident := f s.ident }
def onFlash (f : FlashSt → FlashSt) (s : State) : State := { s with flash := f s.flash }
def onStaging (f : StagingSt → StagingSt) (s : State) : State := { s with staging := f s.staging }

/-- What a frame keeps when the work in it is thrown away, as an UNLOAD, a load or a rollback does: its position, and the domain's holds
(R42, R43, R45). -/
def FrameSt.clearWork (f : FrameSt) : FrameSt := { FrameSt.reset with
  pastDeadline := f.pastDeadline
  lockUp := f.lockUp
  known := f.known
  forwarded := f.forwarded
  ownLate := f.ownLate
  ownEarly := f.ownEarly
  withheldAt := f.withheldAt }

/-! ### Sparse maps -/

/-- The value at a key, when listed. -/
def SMap.get? {β : Type} : SMap β → Nat → Option β
  | [], _ => none
  | (k, v) :: rest, a => if k = a then some v else if a < k then none else SMap.get? rest a

/-- The value at a key, or a default. -/
def SMap.getD {β : Type} (m : SMap β) (a : Nat) (d : β) : β :=
  match m.get? a with
  | some v => v
  | none => d

/-- Put a value at a key, keeping the keys rising. -/
def SMap.put {β : Type} : SMap β → Nat → β → SMap β
  | [], a, v => [(a, v)]
  | (k, w) :: rest, a, v =>
    if a = k then (k, v) :: rest
    else if a < k then (a, v) :: (k, w) :: rest
    else (k, w) :: SMap.put rest a v

/-- Remove a key. -/
def SMap.del {β : Type} (m : SMap β) (a : Nat) : SMap β := m.filter (fun p => p.1 != a)

/-- Change the value at a key, starting from a default. -/
def SMap.modify {β : Type} (m : SMap β) (a : Nat) (d : β) (f : β → β) : SMap β := m.put a (f (m.getD a d))

/-- Keep a default out of the map, so that equal maps are equal data. -/
def SMap.putD {β : Type} [DecidableEq β] (m : SMap β) (a : Nat) (d v : β) : SMap β :=
  if v = d then m.del a else m.put a v

/-- Add a number to a sorted list without repeats. -/
def insertNat : List Nat → Nat → List Nat
  | [], a => [a]
  | k :: rest, a => if a = k then k :: rest else if a < k then a :: k :: rest else k :: insertNat rest a

/-- Add a pair to a list of pairs once. -/
def insertPair (l : List (Nat × Nat)) (p : Nat × Nat) : List (Nat × Nat) := if l.contains p then l else l ++ [p]

/-! ### Memory in canonical form -/

/-- The byte at an address; an unlisted address reads 0 (R175; log entry 4). -/
def Memory.read : List Host.Cell → Nat → Byte
  | [], _ => 0
  | (k, v) :: rest, a => if k = a then v else if a < k then 0 else Memory.read rest a

/-- Write a byte; writing 0 removes the entry. -/
def Memory.write : List Host.Cell → Nat → Byte → List Host.Cell
  | [], a, b => if b = 0 then [] else [(a, b)]
  | (k, v) :: rest, a, b =>
    if a = k then (if b = 0 then rest else (k, b) :: rest)
    else if a < k then (if b = 0 then (k, v) :: rest else (a, b) :: (k, v) :: rest)
    else (k, v) :: Memory.write rest a b

/-- The canonical form: keys strictly rising from above `lo`, no listed byte 0. -/
def Memory.wfFrom : Nat → List Host.Cell → Bool
  | _, [] => true
  | lo, (k, v) :: rest => decide (lo ≤ k) && decide (v ≠ 0) && Memory.wfFrom (k + 1) rest

/-- The memory is in canonical form. -/
def Memory.wf (m : List Host.Cell) : Bool := Memory.wfFrom 0 m

/-- Read `n` bytes from an address. -/
def Memory.readN (m : List Host.Cell) (a n : Nat) : List Byte := (List.range n).map (fun i => Memory.read m (a + i))

/-- Write bytes from an address. -/
def Memory.writeN : List Host.Cell → Nat → List Byte → List Host.Cell
  | m, _, [] => m
  | m, a, b :: bs => Memory.writeN (Memory.write m a b) (a + 1) bs

/-- Clear every byte from `a` to `a + n - 1`. -/
def Memory.clear (m : List Host.Cell) (a n : Nat) : List Host.Cell := m.filter (fun p => p.1 < a || a + n ≤ p.1)

/-- Put bytes into an overlay, where a listed 0 is a byte too. -/
def overlayN : List Host.Cell → Nat → List Byte → List Host.Cell
  | m, _, [] => m
  | m, a, b :: bs => overlayN (SMap.put m a b) (a + 1) bs

/-- Fold an overlay into a memory. -/
def Memory.fold (m : List Host.Cell) (ov : List Host.Cell) : List Host.Cell :=
  ov.foldl (fun acc p => Memory.write acc p.1 p.2) m

/-! ### Little-endian fields (R6) -/

/-- The value of bytes, lowest address least significant. -/
def leNat : List Byte → Nat
  | [] => 0
  | b :: bs => b.toNat + 256 * leNat bs

/-- `n` bytes of a signed value in two's complement. -/
def leBytesI (n : Nat) (v : Int) : List Byte := leBytes n (lowBits (8 * n) v)

/-- The bytes from offset `a`, `n` of them, zero beyond the end. -/
def sliceB (l : List Byte) (a n : Nat) : List Byte :=
  let t := (l.drop a).take n
  t ++ List.replicate (n - t.length) 0

/-- A field of bytes. -/
def fieldN (l : List Byte) (a n : Nat) : Nat := leNat (sliceB l a n)

/-- A signed field of bytes. -/
def fieldI (l : List Byte) (a n : Nat) : Int := signExt (8 * n) (fieldN l a n)

/-- Every byte of a field is 0. -/
def zeroField (l : List Byte) (a n : Nat) : Bool := (sliceB l a n).all (· == 0)

/-- Bytes from 32-bit words. -/
def wordsBytes (l : List W32) : List Byte := (l.map (fun w => leBytes 4 w.toNat)).flatten

/-- Bit `i` of a number. -/
def bitOf (x i : Nat) : Bool := (x >>> i) % 2 == 1

/-- Bits [hi:lo] of a number. -/
def bitsOf (x hi lo : Nat) : Nat := (x >>> lo) % p2 (hi + 1 - lo)

/-- A bit at a place. -/
def bitAt (b : Bool) (i : Nat) : Nat := if b then p2 i else 0

/-- Set an element of a list. -/
def setAt {β : Type} : List β → Nat → β → List β
  | [], _, _ => []
  | _ :: xs, 0, v => v :: xs
  | x :: xs, n + 1, v => x :: setAt xs n v

/-- The next free value (log entry 6) and the state that has drawn it. -/
def drawFree (s : State) : W32 × State := (Config.freeWord s.freeIdx, { s with freeIdx := s.freeIdx + 1 })

/-- The network frame length in microseconds and the frame positions that depend on the rate (R31). -/
def frameUs : TickRate → Nat
  | .r5000 => 200
  | .r10000 => 100
  | .r20000 => 50

/-- Ticks per second (R30). -/
def rateHz : TickRate → Nat
  | .r5000 => 5000
  | .r10000 => 10000
  | .r20000 => 20000

/-- The code of a rate in TICK_CTRL and SET_TICK_DOMAIN (R258, R291). -/
def rateCode : TickRate → Nat
  | .r5000 => 0
  | .r10000 => 1
  | .r20000 => 2

/-- The tick-domain hop limit of R31. -/
def hopLimit : TickRate → Nat
  | .r5000 => 32
  | .r10000 => 16
  | .r20000 => 8

/-- The frequency of aclk at an operating point, in kHz (R13). -/
def aclkKhz (p : Nat) : Nat := if p = 0 then 800000 else if p = 1 then 1000000 else if p = 2 then 1200000 else 1400000

/-- The core voltage at an operating point, in mV. -/
def pointMv (p : Nat) : Nat := 500 + 50 * p

/-- aclk cycles of a frame (R13, R31). -/
def frameCycles (r : TickRate) (p : Nat) : Nat := aclkKhz p * frameUs r / 1000

/-- Firmware and the controllers run: the core is out of reset, its clocks run and its rails are up (R29, R264, R400). -/
def coreRuns (s : State) : Bool := !s.clocks.coreReset && !s.clocks.stopped.contains 0 && s.dev.state != .thermalOff && s.dev.state != .failed

/-- A re-imposition has something to do (R248, R249). -/
def reimpWork (s : State) : Bool := !s.image.orphans.isEmpty || !s.image.memReimp.isEmpty

/-- The region, the block and the place in the block of a cell (R14, R25). -/
def cellRegion (i : Nat) : Nat := i / 72
def cellBlock (i : Nat) : Nat := i / 9

end Sys2Proof.Machine
end

