-- ==== Sys2Proof/Machine/Hash.lean ====
section
/-! DEFINITION. The digests and codes the manual names: Philox-4x32-10 (R71), SHA-256, HMAC and HKDF (R429, R434),
CRC-32 (R311), CRC-32C (R437, R445), CRC-64 (R349) and the Reed-Solomon code of a word of HBM (R182). -/

namespace Sys2Proof.Machine
open Sys2Proof

/-! ### Philox-4x32-10 -/

/-- One round: four counter words and the round's two keys. -/
def philoxRound (c : Nat × Nat × Nat × Nat) (k0 k1 : Nat) : Nat × Nat × Nat × Nat :=
  let p0 := 0xD2511F53 * c.1
  let p1 := 0xCD9E8D57 * c.2.2.1
  ((p1 / p2 32) ^^^ c.2.1 ^^^ k0, p1 % p2 32, (p0 / p2 32) ^^^ c.2.2.2 ^^^ k1, p0 % p2 32)

/-- `n` rounds with the keys bumped between them. -/
def philoxRounds : Nat → Nat × Nat × Nat × Nat → Nat → Nat → Nat × Nat × Nat × Nat
  | 0, c, _, _ => c
  | n + 1, c, k0, k1 =>
    philoxRounds n (philoxRound c k0 k1) ((k0 + 0x9E3779B9) % p2 32) ((k1 + 0xBB67AE85) % p2 32)

/-- The draw u of R71 for element index `n`. -/
def philoxDraw (seed : W64) (step : W64) (stream : W32) (n : Nat) : Nat :=
  let q := n >>> 2
  let o := philoxRounds 10 (q % p2 32, (q >>> 32) % p2 32, step.toNat % p2 32, stream.toNat)
    (seed.toNat % p2 32) (seed.toNat >>> 32)
  match n % 4 with
  | 0 => o.1
  | 1 => o.2.1
  | 2 => o.2.2.1
  | _ => o.2.2.2

/-! ### SHA-256 -/

/-- The first `n` bits of the fractional part of √p and ∛p are the constants of FIPS 180-4. -/
def icbrtBits : Nat → Nat → Nat → Nat
  | 0, r, _ => r
  | k + 1, r, n => icbrtBits k (if (r + p2 k) ^ 3 ≤ n then r + p2 k else r) n

/-- The first 64 primes. -/
def primes64 : List Nat :=
  [2, 3, 5, 7, 11, 13, 17, 19, 23, 29, 31, 37, 41, 43, 47, 53, 59, 61, 67, 71, 73, 79, 83, 89, 97, 101, 103, 107,
   109, 113, 127, 131] ++
  [137, 139, 149, 151, 157, 163, 167, 173, 179, 181, 191, 193, 197, 199, 211, 223, 227, 229, 233, 239, 241, 251,
   257, 263, 269, 271, 277, 281, 283, 293, 307, 311]

/-- The round constants. -/
def shaK : List W32 := primes64.map (fun p => BitVec.ofNat 32 (icbrtBits 36 0 (p * p2 96)))

/-- The initial hash value. -/
def shaH0 : List W32 := (primes64.take 8).map (fun p => BitVec.ofNat 32 (isqrtBits 38 0 (p * p2 64)))

def rotr (x : W32) (n : Nat) : W32 := x.rotateRight n

/-- Extend a block's 16 words to 64: the list holds the newest word first. -/
def shaExtend : Nat → List W32 → List W32
  | 0, w => w
  | n + 1, w =>
    let a := w.getD 14 0
    let b := w.getD 1 0
    let s0 := rotr a 7 ^^^ rotr a 18 ^^^ (a >>> 3)
    let s1 := rotr b 17 ^^^ rotr b 19 ^^^ (b >>> 10)
    shaExtend n ((w.getD 15 0 + s0 + w.getD 6 0 + s1) :: w)

/-- The working variables. -/
structure ShaV where
  a : W32
  b : W32
  c : W32
  d : W32
  e : W32
  f : W32
  g : W32
  h : W32
deriving DecidableEq, Repr

/-- One round with its schedule word plus constant. -/
def shaRound (v : ShaV) (kw : W32) : ShaV :=
  let s1 := rotr v.e 6 ^^^ rotr v.e 11 ^^^ rotr v.e 25
  let ch := (v.e &&& v.f) ^^^ (~~~v.e &&& v.g)
  let t1 := v.h + s1 + ch + kw
  let s0 := rotr v.a 2 ^^^ rotr v.a 13 ^^^ rotr v.a 22
  let mj := (v.a &&& v.b) ^^^ (v.a &&& v.c) ^^^ (v.b &&& v.c)
  { a := t1 + (s0 + mj), b := v.a, c := v.b, d := v.c, e := v.d + t1, f := v.e, g := v.f, h := v.g }

/-- One block of 64 bytes. -/
def shaBlock (h : ShaV) (blk : List Byte) : ShaV :=
  let w := (List.range 16).map (fun i => BitVec.ofNat 32 (leNat (sliceB blk (4 * i) 4).reverse))
  let ws := (shaExtend 48 w.reverse).reverse
  let v := (List.zipWith (· + ·) ws shaK).foldl shaRound h
  { a := h.a + v.a, b := h.b + v.b, c := h.c + v.c, d := h.d + v.d, e := h.e + v.e, f := h.f + v.f,
    g := h.g + v.g, h := h.h + v.h }

/-- All whole blocks of a padded message. -/
def shaBlocks : Nat → ShaV → List Byte → ShaV
  | 0, h, _ => h
  | n + 1, h, m => shaBlocks n (shaBlock h (m.take 64)) (m.drop 64)

/-- SHA-256 (FIPS 180-4). -/
def sha256 (m : List Byte) : List Byte :=
  let n := m.length
  let pad := (119 - n % 64) % 64
  let full := m ++ [0x80] ++ zeros pad ++ (leBytes 8 (8 * n)).reverse
  let h0 : ShaV := { a := shaH0.getD 0 0, b := shaH0.getD 1 0, c := shaH0.getD 2 0, d := shaH0.getD 3 0,
                     e := shaH0.getD 4 0, f := shaH0.getD 5 0, g := shaH0.getD 6 0, h := shaH0.getD 7 0 }
  let r := shaBlocks (full.length / 64) h0 full
  ([r.a, r.b, r.c, r.d, r.e, r.f, r.g, r.h].map (fun w => (leBytes 4 w.toNat).reverse)).flatten

/-- HMAC-SHA-256 for a key of at most 64 bytes. -/
def hmac256 (key m : List Byte) : List Byte :=
  let k := sliceB key 0 64
  sha256 (k.map (· ^^^ 0x5C) ++ sha256 (k.map (· ^^^ 0x36) ++ m))

/-- HKDF-Expand rounds. -/
def hkdfRounds : Nat → Nat → List Byte → List Byte → List Byte → List Byte
  | 0, _, _, _, _ => []
  | n + 1, i, prk, prev, info =>
    let t := hmac256 prk (prev ++ info ++ [BitVec.ofNat 8 i])
    t ++ hkdfRounds n (i + 1) prk t info

/-- HKDF-Expand of RFC 5869 with HMAC-SHA-256, from a pseudorandom key (R431). -/
def hkdfExpand (prk info : List Byte) (n : Nat) : List Byte := (hkdfRounds (ceilDiv n 32) 1 prk [] info).take n

/-- The ASCII bytes of a text. -/
def ascii (t : String) : List Byte := t.toList.map (fun c => BitVec.ofNat 8 c.toNat)

/-! ### Cyclic codes -/

/-- `n` reflected steps of a 32-bit CRC. -/
def crcSteps (poly : Nat) : Nat → Nat → Nat
  | 0, c => c
  | n + 1, c => crcSteps poly n (if c % 2 = 1 then (c >>> 1) ^^^ poly else c >>> 1)

/-- A reflected CRC with all-ones start and final inversion of `w` bits. -/
def crcReflected (w poly : Nat) (m : List Byte) : Nat :=
  (m.foldl (fun c b => crcSteps poly 8 (c ^^^ b.toNat)) (p2 w - 1)) ^^^ (p2 w - 1)

/-- CRC-32 of IEEE 802.3. -/
def crc32 (m : List Byte) : W32 := BitVec.ofNat 32 (crcReflected 32 0xEDB88320 m)

/-- CRC-32C. -/
def crc32c (m : List Byte) : W32 := BitVec.ofNat 32 (crcReflected 32 0x82F63B78 m)

/-- `n` forward steps of a 64-bit CRC. -/
def crc64Steps : Nat → Nat → Nat
  | 0, c => c
  | n + 1, c => crc64Steps n (if c ≥ p2 63 then ((c * 2) % p2 64) ^^^ 0x42F0E1EBA9EA3693 else c * 2)

/-- CRC-64 of ECMA-182 from an initial value: forward, not reflected, no final inversion. -/
def crc64 (init : Nat) (m : List Byte) : Nat :=
  m.foldl (fun c b => crc64Steps 8 (c ^^^ (b.toNat <<< 56))) init

/-! ### The Reed-Solomon code of R182 -/

/-- Multiply by α = 0x02 in GF(2^8) with x^8 + x^4 + x^3 + x^2 + 1. -/
def gfDouble (a : Nat) : Nat := if a ≥ 128 then ((2 * a) % 256) ^^^ 0x1D else 2 * a

/-- `n` doublings. -/
def gfShift : Nat → Nat → Nat
  | 0, a => a
  | n + 1, a => gfShift n (gfDouble a)

/-- Multiply two field elements, bit by bit of the second. -/
def gfMul (a b : Nat) : Nat := (List.range 8).foldl (fun acc i => if bitOf b i then acc ^^^ gfShift i a else acc) 0

/-- The syndrome of α^j over 36 bytes; byte 0 stands at the highest power (log entry 14). -/
def rsSyndrome (j : Nat) (word : List Byte) : Nat :=
  word.foldl (fun acc b => gfShift j acc ^^^ b.toNat) 0

/-- What a read finds in an error pattern over 36 bytes: clean, one byte corrected (its place and value), or
uncorrectable. -/
inductive RsOutcome where
  | clean
  | corrected (byte : Nat) (value : Nat)
  | uncorrectable
deriving DecidableEq, Repr

/-- Decode an error pattern (R182): one wrong byte is corrected where some place explains all four syndromes. -/
def rsDecode (err : List Byte) : RsOutcome :=
  let s0 := rsSyndrome 0 err
  let s1 := rsSyndrome 1 err
  let s2 := rsSyndrome 2 err
  let s3 := rsSyndrome 3 err
  if s0 = 0 && s1 = 0 && s2 = 0 && s3 = 0 then .clean
  else
    match (List.range 36).find? (fun i =>
        s0 ≠ 0 && gfShift (35 - i) s0 = s1 && gfShift (2 * (35 - i)) s0 = s2 && gfShift (3 * (35 - i)) s0 = s3) with
    | some i => .corrected i s0
    | none => .uncorrectable

end Sys2Proof.Machine
end

