-- ==== Sys2Proof/Machine/Recorder.lean ====
section
/-! DEFINITION. The event recorder and the lifetime counters (R437 to R447), and the changes of device state and of
owner that write a record and set DEV_STICKY (R258, R272, R443). -/

namespace Sys2Proof.Machine
open Sys2Proof

/-- The lifecycle code: four fuses, each stored three times and read by majority (R419, R428). -/
def lifecycleCode (s : State) : Nat :=
  let b := fun (i : Nat) => (s.ident.lifecycle.toNat >>> i) % 2
  (List.range 4).foldl (fun a i => a + (b i + b (i + 4) + b (i + 8)) / 2 * p2 i) 0

/-- Operating hours, unsigned 24.8 fixed point (R437). -/
def hoursField (s : State) : W32 := BitVec.ofNat 32 (s.life.now.hoursUs / 14062500)

/-- Place a record in the queue of 512, or lose it and keep its number (R441). -/
def recordAt (tick : W64) (type : Nat) (payload : List Byte) (s : State) : State :=
  let n := s.flash.nextSeq
  let r : EventRec := { sequence := n, hours := hoursField s, cycle := s.life.now.cycles, tick := tick, type := type,
                        payload := sliceB payload 0 34 }
  if s.flash.queue.length < 512 then
    { s with flash := { s.flash with queue := s.flash.queue ++ [r], nextSeq := n + 1 } }
  else
    { s with flash := { s.flash with
        nextSeq := n + 1
        lostFirst := if s.flash.lostCount = 0 then n else s.flash.lostFirst
        lostCount := s.flash.lostCount + 1 } }

/-- A record made now (R437). -/
def recordEvent (type : Nat) (payload : List Byte) (s : State) : State := recordAt s.tick.count type payload s

/-- The 64 bytes of an event record (R437). -/
def EventRec.bytes (r : EventRec) : List Byte :=
  let body := leBytes 8 r.sequence.toNat ++ leBytes 4 r.hours.toNat ++ leBytes 4 r.cycle.toNat ++ leBytes 8 r.tick.toNat
    ++ leBytes 2 r.type ++ r.payload
  body ++ leBytes 4 (crc32c body).toNat

/-- The 64 bytes of a correlation record (R447). -/
def CorrRec.bytes (r : CorrRec) : List Byte :=
  let body := leBytes 4 r.sequence.toNat ++ leBytes 4 r.hours.toNat ++ leBytes 4 r.cycle.toNat ++ zeros 4
    ++ leBytes 8 r.tick.toNat ++ leBytes 8 r.utc.toNat ++ zeros 28
  body ++ leBytes 4 (crc32c body).toNat

/-- Lifetime energy in kWh, unsigned 48.16 fixed point, from mW·µs (R446). -/
def energyField (e : Nat) : Nat := e * 65536 / (1000 * 1000 * 3600 * 1000 * 1000)

/-- The 128 bytes of the lifetime block (R446). -/
def Life.bytes (l : Life) : List Byte :=
  let body := leBytes 8 l.writeCount.toNat ++ leBytes 4 (l.hoursUs / 14062500) ++ leBytes 4 l.cycles.toNat
    ++ leBytes 8 (energyField l.energy) ++ leBytes 4 l.fences.toNat ++ leBytes 4 l.unfences.toNat
    ++ leBytes 8 l.corrected.toNat ++ leBytes 8 l.uncorrectable.toNat ++ leBytes 2 l.pprSoft.toNat
    ++ leBytes 2 l.pprHard.toNat ++ leBytes 2 l.excluded.toNat ++ leBytes 1 l.retiredPc.toNat ++ zeros 1
    ++ leBytes 4 l.snapshots.toNat ++ leBytes 4 l.restores.toNat ++ leBytes 4 l.excursions.toNat
    ++ leBytes 4 l.emergencies.toNat ++ sliceB l.margins 0 20
    ++ ((List.range 8).map (fun i => leBytes 2 (l.fenceHist.getD i 0xFFFF))).flatten ++ leBytesI 2 l.tjPeak ++ zeros 2
    ++ leBytes 4 l.lastCorr.toNat ++ zeros 8
  body ++ leBytes 4 (crc32c body).toNat

/-- Change the lifetime counters. -/
def onLife (f : Life → Life) (s : State) : State := { s with life := { s.life with now := f s.life.now } }

/-- Both ports. -/
def onPorts (f : PortSt → PortSt) (s : State) : State := { s with portA := f s.portA, portB := f s.portB }

def getPPort (p : PPort) (s : State) : PortSt :=
  match p with
  | .a => s.portA
  | .b => s.portB

def setPPort (p : PPort) (x : PortSt) (s : State) : State :=
  match p with
  | .a => { s with portA := x }
  | .b => { s with portB := x }

/-- The region behind a port lives: port B needs region 2 (R28). -/
def portServed (p : PPort) (s : State) : Bool := !(p = .b && s.clocks.lost.contains 2)

/-- Change one port. -/
def onPort (p : PPort) (f : PortSt → PortSt) (s : State) : State := setPPort p (f (getPPort p s)) s

def otherPort : PPort → PPort
  | .a => .b
  | .b => .a

/-- Set a bit of DEV_STICKY in both ports' copies (R258). -/
def setSticky (i : Nat) (s : State) : State := onPorts (fun p => { p with sticky := p.sticky ||| BitVec.ofNat 32 (p2 i) }) s

/-- The code of a device state (R271). -/
def stateCode : DevState → Nat
  | .booting => 0
  | .ready => 1
  | .loaded => 2
  | .running => 3
  | .held => 4
  | .snapshotting => 5
  | .restoring => 6
  | .retireRequested => 7
  | .thermalOff => 8
  | .failed => 9

/-- Change the device state: DEV_STICKY state_change, a STATE_CHANGE record except on entry into THERMAL_OFF (R443) or FAILED (R458),
and a lifetime write within 1 s of entry into RETIRE_REQUESTED (R445). -/
def setState (d : DevState) (s : State) : State :=
  if s.dev.state = d then s
  else
    let old := s.dev.state
    let s := setSticky 4 { s with dev := { s.dev with state := d } }
    let s := if d = .thermalOff || d = .failed then s
      else recordEvent 0x000A [BitVec.ofNat 8 (stateCode old), BitVec.ofNat 8 (stateCode d)] s
    if d = .retireRequested then { s with life := { s.life with writeDue := true } } else s

/-- The code of OWN_HOLDER. -/
def holderCode : Option PPort → Nat
  | none => 0
  | some .a => 1
  | some .b => 2

/-- Change the holder of the lease: DEV_STICKY owner_change, the change tick and an OWNER_CHANGE record (R258, R443). -/
def setHolder (h : Option PPort) (s : State) : State :=
  if s.own.holder = h then s
  else
    let s := setSticky 5 { s with own := { s.own with holder := h, changeTick := s.tick.count } }
    recordEvent 0x0011 (leBytes 1 (holderCode h) ++ leBytes 4 s.own.generation.toNat) s

/-- A step runs while the chip is RUNNING, or SNAPSHOTTING after it left RUNNING (R370). -/
def stepRuns (s : State) : Bool :=
  s.dev.state = .running || (s.dev.state = .snapshotting && s.dev.left = some .running)

end Sys2Proof.Machine
end

