-- ==== Sys2Proof/Machine/Wire.lean ====
section
/-! DEFINITION. What the Clasp ports put on the wire (R192, R311 to R313, R320 to R323): packet and flit layouts, and which flit leaves next. -/

namespace Sys2Proof.Machine
open Sys2Proof

/-! ### Packets (R192, R321, R322) -/

/-- The value of an endpoint's 8 bytes (R192). -/
def endpointCode : Endpoint → Nat
  | .hbm a => a
  | .caseMem c o => p2 62 + c * p2 40 + o
  | .remote c a => 2 * p2 62 + c * p2 40 + a
  | .host b o => 3 * p2 62 + b * p2 40 + o

/-- The 32-byte header of a data packet with `n` payload bytes (R321). -/
def dataHeader (kind : Nat) (h : PktHdr) (n : Nat) : List Byte :=
  leBytes 1 kind ++ leBytes 1 (bitAt h.snapshot 0 + bitAt h.rounded 1 + bitAt h.last 2) ++ leBytes 2 h.dst ++ leBytes 2 h.src ++ leBytes 2 h.flow
    ++ leBytes 8 (endpointCode h.endpoint) ++ leBytes 4 h.frame.toNat ++ leBytes 2 h.tensor ++ leBytes 2 h.group ++ leBytes 1 h.fmt
    ++ leBytes 1 h.op ++ leBytes 1 h.hops ++ zeros 1 ++ leBytes 4 n

/-- A tick marker (R322). -/
def markerBytes (sender : Nat) (domainTick : W64) : List Byte :=
  leBytes 1 0x04 ++ zeros 1 ++ leBytes 2 sender ++ zeros 4 ++ leBytes 8 domainTick.toNat

/-- A hold (R322). -/
def holdBytes (hops : Nat) (h : HoldRec) : List Byte :=
  leBytes 1 0x05 ++ leBytes 1 hops ++ leBytes 2 h.origin ++ leBytes 1 (bitAt h.late 0) ++ zeros 3 ++ leBytes 8 h.frame.toNat

/-- A credit of subtype 0 (R322). -/
def creditBytes (freed : Nat) : List Byte := leBytes 1 0x06 ++ zeros 3 ++ leBytes 4 freed ++ zeros 8

/-- A credit of subtype 1 (R322). -/
def deliveryBytes (dst src : Nat) (frame : W32) (packets : Nat) : List Byte :=
  leBytes 1 0x06 ++ leBytes 1 1 ++ leBytes 2 dst ++ leBytes 2 src ++ zeros 2 ++ leBytes 4 frame.toNat ++ leBytes 4 packets

/-- Bytes cut into pieces of 244, the payload of one flit (R311). -/
def flitPieces (b : List Byte) : List (List Byte) := (List.range (ceilDiv b.length 244)).map (fun i => (b.drop (244 * i)).take 244)

/-- The flits of a data packet: its header and its payload, 244 bytes a flit (R311, R321). -/
def packetFlits (n : Nat) : Nat := (32 + n + 243) / 244

/-- A data packet in the queue of its port. -/
def queuedData (m : OutMsg) (kind : Nat) (h : PktHdr) (payload : List Byte) : List Queued :=
  [{ msg := some m, parts := flitPieces (dataHeader kind h payload.length ++ payload) }]

/-- A control packet in the queue of its port, `copies` times (R320, R328). -/
def queuedCtl (m : OutMsg) (copies : Nat) (b : List Byte) : List Queued :=
  { msg := some m, parts := [b] } :: List.replicate (copies - 1) { msg := none, parts := [b] }

/-- The control and data packets that a message puts on the wire (R320): a hold goes out in three control flits (R328). -/
def onWire (m : OutMsg) : List Queued × List Queued :=
  match m with
  | .data _ kind h b => ([], queuedData m kind h b)
  | .marker _ sender t => (queuedCtl m 1 (markerBytes sender t), [])
  | .hold _ hops h => (queuedCtl m 3 (holdBytes hops h), [])
  | .linkCredit _ n => (queuedCtl m 1 (creditBytes n), [])
  | .delivery _ dst src frame n => (queuedCtl m 1 (deliveryBytes dst src frame n), [])
  | _ => ([], [])

/-! ### Flits (R311 to R313) -/

/-- The 256 bytes of a flit (R311, R312): header, payload and CRC-32. `seq` is 0 in an idle flit. -/
def flitBytes (seq ack : W16) (kind : Nat) (nak : Bool) (payload : List Byte) : List Byte :=
  let body := leBytes 2 seq.toNat ++ leBytes 2 ack.toNat ++ leBytes 1 (kind + bitAt nak 2) ++ zeros 1 ++ leBytes 2 payload.length
    ++ payload ++ zeros (244 - payload.length)
  body ++ leBytes 4 (crc32 body).toNat

/-- A flit as it leaves a port: it acknowledges the last flit received intact (R312). -/
def Flit.leaves (c : Clasp) (f : Flit) : List Byte := flitBytes f.seq (c.rxSeq - 1) f.kind false f.payload

/-- The control packets of the next control flit, up to 15, and the rest: copies of one packet go in separate flits (R320, R328). -/
def ctlTake : Nat → List (List Byte) → List Queued → List Queued × List Queued
  | 0, _, q => ([], q)
  | _ + 1, _, [] => ([], [])
  | n + 1, seen, x :: q =>
    if x.parts.any seen.contains then ([], x :: q)
    else
      let r := ctlTake n (x.parts ++ seen) q
      (x :: r.1, r.2)

/-- What leaves a port at one flit boundary. -/
structure Leaving where
  port : Clasp
  flits : List (List Byte)
  msgs : List OutMsg

/-- A port with one more flit sent, which stays in the replay buffer. -/
def sendFlit (c : Clasp) (kind : Nat) (payload : List Byte) (msgs : List OutMsg) (rest : Clasp → Clasp) : Leaving :=
  let f : Flit := { seq := c.txSeq, kind := kind, payload := payload }
  { port := rest { c with txSeq := c.txSeq + 1, replay := c.replay ++ [f] }, flits := [f.leaves c], msgs := msgs }

/-- The flit that leaves at a flit boundary (R320, R323): control before data, a data flit for a link credit, and none while the replay
buffer of 2,048 flits is full, since it could not be replayed (R313; DEDUCED, log entry 27). -/
def nextFlit (c : Clasp) : Option Leaving :=
  if 2048 ≤ c.replay.length then none
  else
    match c.ctl, c.queue with
    | _ :: _, _ =>
      let t := ctlTake 15 [] c.ctl
      some (sendFlit c 2 (t.1.flatMap (fun x => x.parts.flatten)) (t.1.filterMap (·.msg)) (fun d => { d with ctl := t.2 }))
    | [], x :: rest =>
      if c.credits = 0 then none
      else
        let more := x.parts.drop 1
        some (sendFlit c 1 (x.parts.headD []) (if more.isEmpty then x.msg.toList else []) (fun d => { d with
          credits := d.credits - 1
          queue := if more.isEmpty then rest else { x with parts := more } :: rest }))
    | [], [] => none

/-- Up to `n` flits leave. -/
def leaveFlits : Nat → Clasp → Leaving
  | 0, c => { port := c, flits := [], msgs := [] }
  | n + 1, c =>
    match nextFlit c with
    | none => { port := c, flits := [], msgs := [] }
    | some x =>
      let r := leaveFlits n x.port
      { port := r.port, flits := x.flits ++ r.flits, msgs := x.msgs ++ r.msgs }

/-- The flits that wait at a port, at most. -/
def waitingFlits (c : Clasp) : Nat := c.ctl.length + (c.queue.map (fun x => x.parts.length + 1)).foldl (· + ·) 0

/-- Every flit that may leave a port leaves it. -/
def leaveAll (c : Clasp) : Leaving := leaveFlits (waitingFlits c) c

end Sys2Proof.Machine
end

