-- ==== Sys2Proof/Machine/Holds.lean ====
section
/-! DEFINITION. Holds (R41 to R47, R328), the ports of the fabric (R315, R316, R318) and what leaves through them
(R327). -/

namespace Sys2Proof.Machine
open Sys2Proof

/-- A Clasp port. -/
def claspOf (p : Nat) (s : State) : Clasp := SMap.getD s.fabric.ports p Clasp.reset

/-- Change a Clasp port. -/
def onClasp (p : Nat) (f : Clasp → Clasp) (s : State) : State :=
  { s with fabric := { s.fabric with ports := SMap.put s.fabric.ports p (f (claspOf p s)) } }

/-- The link carries data: UP or DEGRADED (R318). -/
def claspUp (c : Clasp) : Bool := c.enabled && (c.state == 2 || c.state == 3)

/-- Active lanes. -/
def laneCount (l : Byte) : Nat := ((List.range 8).filter (fun i => bitOf l.toNat i)).length

/-- Append to what leaves the chip (log entry 6). -/
def emit (m : List OutMsg) (s : State) : State := { s with fabric := { s.fabric with out := s.fabric.out ++ m } }

/-- Flits leave the chip through a port. -/
def emitFlits (p : Nat) (l : List (List Byte)) (s : State) : State :=
  { s with fabric := { s.fabric with wire := s.fabric.wire ++ l.map (fun b => (p, b)) } }

/-- The network of the region that a port lies on runs (R311, R406, R407). -/
def portLive (p : Nat) (s : State) : Bool := !s.clocks.stopped.contains (p / 5)

/-- Every flit that may leave a port leaves it (R313, R320, R323); what waits in a region whose clocks have stopped stays there (R407). -/
def drainPort (p : Nat) (s : State) : State :=
  if !portLive p s then s
  else
    let r := leaveAll (claspOf p s)
    emit r.msgs (emitFlits p r.flits (onClasp p (fun _ => r.port) s))

/-- A packet joins the queue of a port and leaves as the port's credits and replay buffer let it; a port of the usable set that has gone down
in the frame discards it (R313, R323, R327). -/
def sendOn (p : Nat) (m : OutMsg) (s : State) : State :=
  if claspUp (claspOf p s) then
    drainPort p (onClasp p (fun c => { c with ctl := c.ctl ++ (onWire m).1, queue := c.queue ++ (onWire m).2 }) s)
  else s

/-- Every flit of the replay buffer goes out again, in order (R313, R315). -/
def replayFlits (p : Nat) (s : State) : State :=
  let c := claspOf p s
  if c.replay.isEmpty then s else emit [.replay p (c.replay.map (·.seq))] (emitFlits p (c.replay.map (Flit.leaves c)) s)

/-- Send a hold in three control flits on every port of the usable set but one (R42, R328). -/
def floodHold (except : Option Nat) (hops : Nat) (h : HoldRec) (s : State) : State :=
  (s.fabric.usable.filter (fun p => some p != except)).foldl (fun s p => sendOn p (.hold p hops h) s) s

/-- The tick that a hold targets, in domain tick numbers (R41, R322). -/
def holdTarget (h : HoldRec) : W64 := h.frame + (if h.late then 2 else 1)

/-- The chip takes part in its domain: it is aligned, and nothing has made it stop (R47, R52, R54). -/
def takesPart (s : State) : Bool := s.tick.aligned && !s.dev.unaligned

/-- Raise a hold (R41): its position decides early or late; `early` marks the exception of R41 for an unacknowledged
data send. A chip that takes no part raises none (R54). Copies for one target coalesce (R46). -/
def sendHold (early : Bool) (s : State) : State :=
  if !takesPart s then s
  else
    let h : HoldRec := { origin := s.dev.fabric, frame := s.tick.domain, late := s.frame.pastDeadline && !early }
    if s.frame.known.contains h then s
    else
      floodHold none 0 h { s with frame := { s.frame with
        known := s.frame.known ++ [h]
        forwarded := s.frame.forwarded ++ [h]
        ownLate := if h.late then some h.frame else s.frame.ownLate
        ownEarly := s.frame.ownEarly || !h.late } }

/-- A frame raises a hold; a replay in doubt raises its new hold at the target tick (R44). -/
def raiseHold (early : Bool) (s : State) : State := if s.frame.replaying then s else sendHold early s

/-- A proof runs its regeneration frames and its replay, in HELD (R355). -/
def proofRuns (s : State) : Bool :=
  match s.step.proof with
  | some p => p.replaying
  | none => false

/-- A frame of work runs (R369). -/
def inFrame (s : State) : Bool :=
  s.dev.state = .running || s.dev.state = .snapshotting
    || (decide (s.dev.state = .held) && (s.frame.retry || (proofRuns s && !s.frame.stuck)))

/-- The frame is in doubt, and the chip raises a hold (R41). Outside frames of work nothing is in doubt (R369). -/
def inDoubt (s : State) : State :=
  if inFrame s then raiseHold false { s with frame := { s.frame with doubt := true } } else s

/-- A late hold whose origin frame's closing tick slipped is void (R45). -/
def holdVoid (s : State) (h : HoldRec) : Bool := h.late && s.frame.withheldAt == some (h.frame + 1)

/-- The chip is late (R39): it raises a hold unless a hold for this tick that R45 does not void has reached it (R46). -/
def chipLate (early : Bool) (s : State) : State :=
  let s := { s with frame := { s.frame with late := true } }
  if s.frame.known.any (fun h => holdTarget h == s.tick.domain + 1 && !holdVoid s h) then s else raiseHold early s

/-- A training attempt begins (R316, R318): the port carries nothing until it ends, and tells the other end who it is. -/
def beginTraining (p : Nat) (s : State) : State :=
  emit [.training p s.dev.uid s.dev.fabric (s.tick.aligned && !s.dev.unaligned)] (onClasp p (fun c => { c with state := 1, lanes := 0, ctl := [], queue := [] }) s)

/-- Start training a port (R316). -/
def trainPort (p : Nat) (s : State) : State :=
  beginTraining p (onClasp p (fun c => { c with enabled := true, byItself := false, retriesLeft := 3 }) s)

/-- A link goes down by itself (R316): it retries up to 3 times, and what is queued for it is discarded (R327). -/
def linkFalls (p : Nat) (s : State) : State :=
  onClasp p (fun c => if c.enabled then { c with state := 4, lanes := 0, byItself := true, retriesLeft := 3, ctl := [], queue := [] } else c) s

/-- Take a lane away (R315): what was in flight goes out again. Fewer than 4 lanes: the link goes down. -/
def removeLane (p lane : Nat) (s : State) : State :=
  let c := claspOf p s
  let l := c.lanes &&& ~~~(BitVec.ofNat 8 (p2 lane))
  if laneCount l < 4 then linkFalls p s
  else replayFlits p (onClasp p (fun c => { c with lanes := l, state := 3 }) s)

/-- A lane that a port is using. -/
def laneActive (p lane : Nat) (s : State) : Bool := claspUp (claspOf p s) && bitOf (claspOf p s).lanes.toNat lane

/-- The active lane that corrected the most symbols in the window, the lower lane on a tie (R370). -/
def worstLane (c : Clasp) (corrected : List Nat) : Nat :=
  (List.range 8).foldl (fun best i =>
    if bitOf c.lanes.toNat i && (!bitOf c.lanes.toNat best || corrected.getD i 0 > corrected.getD best 0) then i else best) 0

end Sys2Proof.Machine
end

