-- ==== Sys2Proof/Machine/Issue.lean ====
section
/-! DEFINITION. Issue on the arrays: the ceiling, the credit and the activity ramps (R115, R116, R390). -/

namespace Sys2Proof.Machine
open Sys2Proof

/-- A block's droop ceiling (R390). -/
def droopOf (s : State) (block : Nat) : Nat := (SMap.getD s.power.droop block { q := 64, trip := 64 }).q

/-- The ceiling of an array at full ramp (R115): the least of q_power, q_droop and q_mode. -/
def ceilingOf (mode : Nat) (s : State) (cell : Nat) : Nat := Nat.min mode (Nat.min s.power.q (droopOf s (cellBlock cell)))

/-- An array while it issues: its credit, the site-cycles left, the ramp step that it stands at with the cycles spent in it, and whether
that step is one of a ramp-down. -/
structure Issue where
  credit : Nat
  left : Nat
  ramp : Nat
  spent : Nat
  down : Bool
deriving DecidableEq, Repr

/-- Spend cycles at a ceiling (R115), and the step of the ramp that they reach: six cycles each, the last one of a ramp without an end. -/
def Issue.spend (q cycles : Nat) (x : Issue) : Issue :=
  let y := { x with credit := (x.credit + cycles * q) % 64, left := x.left - (x.credit + cycles * q) / 64 }
  if (x.down && x.ramp = 0) || (!x.down && x.ramp ≥ 64) then y
  else if x.spent + cycles < 6 then { y with spent := x.spent + cycles }
  else { y with ramp := if x.down then x.ramp - 8 else x.ramp + 8, spent := 0 }

/-- Issue until `floor` site-cycles are left or `budget` cycles have passed (R115, R116). `after` is the planned work of the run behind
them: a planned ramp-down begins when the work left in the run falls to 21 site-cycles, and what is left at its step 8 is finished at
q = 8. The fuel bounds the steps of the two ramps. -/
def Issue.go (ceil after floor : Nat) : Nat → Nat → Issue → Issue
  | 0, _, x => x
  | fuel + 1, budget, x =>
    if x.left ≤ floor || budget = 0 || ceil = 0 then x
    else if !x.down && x.left + after ≤ 21 then
      Issue.go ceil after floor fuel budget { x with down := true, ramp := x.ramp - 8, spent := 0 }
    else
      let goal := if x.down then floor else Nat.max floor (21 - after)
      let q := Nat.min (if x.ramp = 0 then 8 else x.ramp) ceil
      let need := ceilDiv (64 * (x.left - goal) - x.credit) q
      let room := if (x.down && x.ramp = 0) || (!x.down && x.ramp ≥ 64) then need else 6 - x.spent
      let c := Nat.min budget (Nat.min need room)
      Issue.go ceil after floor fuel (budget - c) (x.spend q c)

/-- The rest of a ramp-down, with filler (R116). -/
def Issue.filler (ceil : Nat) : Nat → Issue → Issue
  | 0, x => x
  | fuel + 1, x => if x.ramp = 0 then x else Issue.filler ceil fuel (x.spend (Nat.min x.ramp ceil) (6 - x.spent))

/-- An array as it starts `n` site-cycles: from step 1 of a ramp-up where it stood still (R116). -/
def ArraySt.start (n : Nat) (st : ArraySt) : Issue :=
  if st.stopped then { credit := st.credit, left := n, ramp := 8, spent := 0, down := false }
  else { credit := st.credit, left := n, ramp := st.qRamp, spent := st.spent, down := st.down }

/-- The array after cycles of issue. -/
def Issue.array (x : Issue) : ArraySt := { credit := x.credit, qRamp := x.ramp, spent := x.spent, down := x.down, stopped := false }

/-- An array stops with a filler ramp-down from the step that it has reached (R116, R128). -/
def ArraySt.stop (ceil : Nat) (a : ArraySt) : ArraySt :=
  if a.stopped then a
  else
    let x : Issue := if a.down then { credit := a.credit, left := 0, ramp := a.qRamp, spent := a.spent, down := true }
      else { credit := a.credit, left := 0, ramp := a.qRamp - 8, spent := 0, down := true }
    { credit := (x.filler ceil 9).credit, qRamp := 0, spent := 0, down := false, stopped := true }

/-- An array issues `n` site-cycles of a run with `after` planned behind them; `ends` says that its run ends with them (R115, R116).
DESIGN CHOICE (log entry 37): a run of 21 site-cycles or less on a stopped array stands in its ramp-down from the first cycle, so that it
takes no ramp-up step and issues all of them at q = 8. -/
def ArraySt.issue (ceil n after : Nat) (ends : Bool) (st : ArraySt) : ArraySt :=
  let t := if n = 0 then st else ((st.start n).go ceil (if ends then 0 else after) 0 32 (64 * n)).array
  if ends then t.stop ceil else t

/-- How the issue of an array ends with a pass (R116): its run goes on, it ramps down as planned, or it stops with filler. -/
inductive IssueEnd where
  | goesOn
  | ramps
  | filler
deriving DecidableEq, Repr

/-- An array issues `n` site-cycles with `after` planned behind them. -/
def ArraySt.issueTo (ceil n after : Nat) (fin : IssueEnd) (st : ArraySt) : ArraySt :=
  match fin with
  | .goesOn => st.issue ceil n after false
  | .ramps => st.issue ceil n after true
  | .filler => (st.issue ceil n after false).stop ceil

/-- An array that a mismatch of a row stops after `upTo` site-cycles of `n` (R121): the compare takes 104 cycles from the issue of the row
(R106), in which later rows issue, and then it stops with filler. -/
def ArraySt.fail (ceil n after upTo : Nat) (st : ArraySt) : ArraySt :=
  (((st.start n).go ceil after (n - upTo) 32 (64 * n)).go ceil after 0 32 104).array.stop ceil

end Sys2Proof.Machine
end

