-- ==== Sys2Proof/WellFormed.lean ====
section
/-! DEFINITION. Which commands name things the part has: cells, blocks, regions, units, stacks, ports, lanes, slots
(R14), vector registers (R150), formats and array bits (R105, R237). A command outside these ranges stands for no
event of the part. -/

namespace Sys2Proof

/-- The fields of a vector instruction lie in their widths (R151). -/
def VFields.wf (f : VFields) : Bool :=
  f.w < 3 && f.vd < 256 && f.va < 256 && f.vb < 256 && f.vc < 256 && f.mask < 8

/-- The widths that R152 gives an opcode; an opcode without widths takes any. -/
def VOp.widths : VOp → List Nat
  | .ld | .st | .add | .sub | .max | .min | .sel | .cmplt | .cmple | .cmpeq | .cvt => [0, 1, 2]
  | .mul | .fma | .abs | .neg => [0, 1]
  | .redmax | .redmin => [0, 2]
  | .ldg | .exp2 | .log2 | .rcp | .rsqrt | .tanh | .erf | .redsum | .scan | .aadd | .around | .ascan => [0]
  | .mand | .mor | .mnot | .azero | .afold | .ald | .ast | .lig | .topkm => [0, 1, 2]

/-- An opcode writes a mask register; m0 takes no write (R150, R152). -/
def VOp.toMask : VOp → Bool
  | .cmplt | .cmple | .cmpeq | .mand | .mor | .mnot => true
  | _ => false

/-- A vector instruction that is not reserved (R150 to R152). -/
def VInstr.legal (i : VInstr) : Bool := i.op.widths.contains i.f.w && (!i.op.toMask || (0 < i.f.vd && i.f.vd < 8))

/-- The fields of a pass descriptor lie in their widths (R105): four row counts of at most 512 rows each. -/
def PassDesc.wf (d : PassDesc) : Bool :=
  d.streamFmt < 256 && d.weightFmt < 256 && d.inclBudget < 65536 && d.tensor < 65536
    && d.streamAddr.length == 4 && d.rows.length == 4 && d.rows.all (· ≤ 512) && d.colMask < 2 ^ 128

/-- The fields of a drain body lie in their widths (R237). -/
def DrainDesc.wf (d : DrainDesc) : Bool :=
  d.arrays < 16 && d.tensor < 65536 && d.rows ≤ 512 && d.accFirst < 512

/-- An endpoint lies in its width (R192): 39 bits of HBM, 288 cells of 8 MiB, 16 bits of chip, 256 bindings. -/
def Endpoint.wf : Endpoint → Bool
  | .hbm a => a < 2 ^ 39
  | .caseMem c o => c < 288 && o < 2 ^ 23
  | .remote c a => c < 65536 && a < 2 ^ 39
  | .host b o => b < 256 && o < 2 ^ 40

/-- The issuer exists (R190). -/
def Issuer.wf : Issuer → Bool
  | .cell i => i < 288
  | .unit k => k < 8
  | .firmware k => k < 8

/-- The fields of a bezel descriptor lie in their widths (R191). -/
def BezelDesc.wf (d : BezelDesc) : Bool :=
  d.srcFmt < 256 && d.dstFmt < 256 && d.tensor < 65536 && d.src.wf && d.dst.wf
    && (match d.scales with | none => true | some e => e.wf)

/-- How many units a level of collectors has (R359, R366). -/
def Level.units : Level → Nat
  | .cell => 288
  | .block => 32
  | .region => 4
  | .chip => 1

/-- An upset names a word of a page: 2,048 words of 32 bytes, 36 bytes of error pattern (R182). -/
def HbmUpset.wf (u : HbmUpset) : Bool := u.word < 2048 && (u.errors.length == 0 || u.errors.length == 36)

/-- The command names things the part has. -/
def Instr.wellFormed : Instr → Bool
  | .cellStart c => c < 288
  | .heartbeat r | .regionLost r => r < 4
  | .formeItemStart c pos _ => c < 288 && pos < 65536
  | .pass c d mm => c < 288 && d.wf && mm.all (fun p => p.1 < 4 && p.2 < 512)
  | .weightSwap c | .galleySlotFree c | .sequencerTimeout c | .spareLoad c => c < 288
  | .drain c d => c < 288 && d.wf
  | .droopTrip b | .droopRestoreStep b | .arbiterTimeout b => b < 32
  | .vectorItem c prog => c < 288 && prog.all (fun v => v.f.wf)
  | .ld c f | .st c f | .ldg c f | .add c f | .sub c f | .mul c f | .fma c f | .max c f | .min c f | .abs c f
  | .neg c f | .sel c f | .cmplt c f | .cmple c f | .cmpeq c f | .mand c f | .mor c f | .mnot c f | .exp2 c f
  | .log2 c f | .rcp c f | .rsqrt c f | .tanh c f | .erf c f | .cvt c f | .redsum c f | .redmax c f | .redmin c f
  | .scan c f | .azero c f | .aadd c f | .afold c f | .around c f | .ascan c f | .ald c f | .ast c f | .lig c f
  | .topkm c f => c < 288 && f.wf
  | .transfer c d => c < 288 && d.dstCell < 288 && d.src < 2 ^ 23 && d.dst < 2 ^ 23
  | .bezelSlotGrant u w reads => u < 8 && w.pos < 65536 && reads.all HbmUpset.wf
  | .scrub u reads => u < 8 && reads.all HbmUpset.wf
  | .copy i d | .reblock i d | .transpose i d | .quantize i d | .dequantize i d | .mxImport i d | .mxExport i d
  | .reduceInit i d | .reduceAdd i d | .reduceClose i d => i.wf && d.wf
  | .update u _ _ _ | .snapshotCopy u _ _ | .migration u _ => u < 8
  | .pcRetirementDone k pc => k < 8 && pc < 32
  | .writePacket p _ _ | .reduceWritePacket p _ _ | .longPartialPacket p _ _ | .snapshotTransferPacket p _ _ _
  | .tickMarker p _ _ _ | .holdPacket p _ _ _ _ | .credit p _ | .deliveryCredit p _ _ _ _ | .flitReceived p _ _ _
  | .linkDown p | .linkTrainingDone p _ | .linkRetry p => p < 20
  | .laneLoss p l => p < 20 && l < 8
  | .groupTimeout g => g < 4096
  | .faultEvent l u _ _ | .faultWindowStart l u _ => u < l.units
  | .regulatorFaultEnd r => r < 64
  | .sensorLost r sp w | .sensorRestored r sp w => r < 4 && sp < 16 && w < 2
  | .sensorDisagreement r sp | .thermalTrip r sp => r < 4 && sp < 16
  | .mbxStateWrite _ slot _ => slot < 32
  | .tickCountRead _ size => size == 4 || size == 8
  | .registerWrite _ off size _ => off < 65536 && (size == 1 || size == 2 || size == 4 || size == 8) && off % size == 0
  | .bar2Read _ off len _ => off + len ≤ 2 ^ 30
  | .bar2Write _ off w => off + w.bytes.length ≤ 2 ^ 30
  | .bar4Access _ off _ => off < 2 ^ 24
  | .hostTransferResume b => b < 256
  | .getCertificate _ slot _ _ | .challenge _ slot _ => slot < 8
  | .hbmRetrainingDone k => k < 8
  | .tick | .holdDeadline | .lockUp | .stuckForme | .unaligned | .realigned | .compositorHeartbeatLoss
  | .decision _ _ | .reimposition _ | .reimpositionTimeout | .controlStep _ | .thermalEmergencyEnd
  | .pointDecision | .powerSample _ | .divergenceFallback | .divergenceFallbackEnd | .guardBandEnd
  | .averagingWindowEnd | .steadyWindowEnd | .firmwareAbsentFallback | .pllLossOfLock _ | .pwrgdFall _
  | .ioRailFall | .powerOn | .perst _ _ | .bothPerst | .functionLevelReset _ | .pcieLinkDown _
  | .powerStateChange _ _ | .busMasterEnable _ _ | .coreReset | .startUp _ | .startupError _ | .readyReached
  | .leaseExpiry | .mbxRingCtrlWrite _ _ | .mbxRingConsumedWrite _ _ | .completionRecordWrite _
  | .devStickyWrite _ _ | .identify | .status | .claimControl | .renewLease | .releaseControl
  | .reset | .setTime | .setEnvironment | .setPowerBudget | .setOperatingPoints | .setFabricAddress
  | .loadRoutes _ | .loadGroups _ | .portControl | .setTickDomain | .loadImposition _ | .imageLoadDone | .unload
  | .bindHostBuffers | .runSteps | .submitBatch _ | .hold | .resume | .snapshot | .snapshotStop
  | .snapshotStopEnd | .snapshotAbort | .proofRecordWrite _ | .setPartners | .restore | .restoreDone _ | .proof
  | .exportSnapshot | .faultRead | .faultConfig | .faultForce | .unfence | .eventRead | .lifetimeRead
  | .statsRead | .loupe | .referenceMode | .firmwareStage _ | .firmwareActivate | .getVersion _
  | .getCapabilities _ | .negotiateAlgorithms _ _ _ | .getDigests _ | .getMeasurements _ _ _ _
  | .unsupportedRequest _ _ | .doeDiscovery _ _ | .doeAbort _ | .eventRecordWrite | .lifetimeWrite
  | .unknownOpcode | .pcieLinkUp _ _ _ | .restoreRequest _ _ _ _ | .unloadDone | .firmwareStageDone
  | .loupeRunDone | .hostBufferDeliveryDone _ | .voltageSlewEnd => true

end Sys2Proof
end

