-- ==== Sys2Proof/Machine/Faults.lean ====
section
/-! DEFINITION. Fault collection (R359 to R374): the sources and their defaults, counting and severity, and the event
and severe actions as shared operations. -/

namespace Sys2Proof.Machine
open Sys2Proof

def levelCode : Level → Nat
  | .cell => 0
  | .block => 1
  | .region => 2
  | .chip => 3

def levelOf (n : Nat) : Option Level :=
  match n with
  | 0 => some .cell
  | 1 => some .block
  | 2 => some .region
  | 3 => some .chip
  | _ => none

/-- The key of a source in the collectors' map: level, unit, number. -/
def faultKey (l : Level) (unit source : Nat) : Nat := levelCode l * p2 32 + unit * p2 16 + source

/-- The action byte of an event action and a severe action (R365). -/
def actionByte (ev sev : Nat) : Nat := ev + 16 * sev

/-- A source of R366: its defaults and the allowed event and severe actions. -/
structure SrcInfo where
  cfg : FCfg
  events : List Nat
  severes : List Nat
deriving DecidableEq, Repr

def mkSrc (ev n w sev : Nat) (events severes : List Nat) : SrcInfo :=
  { cfg := { n := n, w := w, action := actionByte ev sev }, events := events, severes := severes }

/-- The sources of each level by number (R366). -/
def sourceInfo (l : Level) (n : Nat) : Option SrcInfo :=
  match l with
  | .cell =>
    if n = 0 then some (mkSrc 0 3 5000 1 [0, 1] [0, 1, 6])
    else if n = 1 then some (mkSrc 0 32 50000 1 [0] [0, 1, 6])
    else if n = 2 || n = 3 || n = 4 then some (mkSrc 1 2 65535 1 [1] [1, 6])
    else if n = 5 then some (mkSrc 1 2 65535 1 [0, 1] [0, 1, 6])
    else none
  | .block =>
    if n = 0 then some (mkSrc 0 64 5000 6 [0] [0, 6])
    else if n = 1 then some (mkSrc 1 3 65535 6 [1] [0, 6])
    else if n = 2 then some (mkSrc 0 4 5000 0 [0, 1] [0, 6])
    else if n = 3 then some (mkSrc 0 255 5000 0 [0] [0])
    else none
  | .region =>
    if n = 0 then some (mkSrc 0 255 5000 0 [0] [0, 6])
    else if n = 1 then some (mkSrc 1 3 65535 6 [1] [0, 6])
    else if 0x10 ≤ n && n < 0x20 then some (mkSrc 0 4 25000 5 [0] [5])
    else if 0x100 ≤ n && n < 0x140 then some (mkSrc 0 255 65535 0 [0] [0, 4])
    else if 0x140 ≤ n && n < 0x180 then some (mkSrc 1 4 65535 4 [1] [0, 4, 6])
    else none
  | .chip =>
    if n = 0 then some (mkSrc 0 3 65535 0 [0] [0, 6])
    else if n = 1 || n = 2 then some (mkSrc 0 255 5000 0 [0] [0])
    else if n = 3 || n = 4 then some (mkSrc 0 1 65535 0 [0] [0])
    else if n = 5 then some (mkSrc 0 16 65535 0 [0] [0, 6])
    else if n = 6 then some (mkSrc 0 2 65535 0 [0] [0, 6])
    else if n = 7 then some (mkSrc 0 1 5000 6 [0] [0, 6])
    else if n = 8 then some (mkSrc 0 3 65535 0 [0] [0, 6])
    else if 0x10 ≤ n && n < 0x24 then some (mkSrc 0 255 5000 2 [0] [0, 2, 3])
    else if 0x30 ≤ n && n < 0x44 then some (mkSrc 0 3 65535 3 [0] [0, 3])
    else none

/-- A source that has counted nothing, at its defaults (R364, R366). -/
def FSrc.fresh (cfg : FCfg) : FSrc where
  sticky := false
  severe := false
  forced := false
  count := 0
  lastStamp := 0
  real := false
  total := 0
  cfg := cfg
  pending := none
  old := none

/-- The state of a source: at its defaults until something changes it. -/
def faultSrc (l : Level) (unit source : Nat) (s : State) : FSrc :=
  SMap.getD s.faults.src (faultKey l unit source)
    (FSrc.fresh (match sourceInfo l source with
      | some i => i.cfg
      | none => { n := 0, w := 0, action := 0 }))

def setFaultSrc (l : Level) (unit source : Nat) (f : FSrc) (s : State) : State :=
  { s with faults := { s.faults with src := SMap.put s.faults.src (faultKey l unit source) f } }

/-- The window that a tick lies in (R361). -/
def windowOf (f : FSrc) (t : W64) : Nat := t.toNat / f.cfg.w

/-- The count of the window in force at a tick. -/
def windowCount (f : FSrc) (t : W64) : Nat := if windowOf f f.lastStamp = windowOf f t then f.count else 0

/-- Keep the window that ends at a tick for the events latched before it (R361). -/
def FSrc.keepWindow (f : FSrc) (t : W64) : FSrc := { f with
  old := some { ended := t, cfg := f.cfg, count := windowCount f (t - 1), real := f.real && decide (0 < windowCount f (t - 1)), cleared := false } }

/-- The same, once for a tick, when a window does end there. -/
def FSrc.endWindow (f : FSrc) (t : W64) : FSrc :=
  if windowOf f (t - 1) = windowOf f t || (f.old.map (·.ended)) = some t then f else f.keepWindow t

/-- The window kept by a tick, for an event latched before the collector's count changed. -/
def FSrc.oldAt (f : FSrc) (early : Bool) (t : W64) : Option OldWin :=
  match f.old with
  | some o => if early && o.ended = t then some o else none
  | none => none

/-- The stamp of an event (R56). -/
def stampAt (early : Bool) (t : W64) : W64 := if early then t - 1 else t

/-- What judges an event (R361, R374): the settings of the window that its stamp names, that window's count before it, and whether a real
event has counted there. -/
def FSrc.judge (f : FSrc) (early : Bool) (t : W64) : FCfg × Nat × Bool :=
  match f.oldAt early t with
  | some o => (o.cfg, o.count, o.real)
  | none => (f.cfg, windowCount f (stampAt early t), f.real && decide (0 < windowCount f (stampAt early t)))

/-- The count of the window with the event in it. -/
def FSrc.countWith (f : FSrc) (early : Bool) (t : W64) : Nat := Nat.min ((f.judge early t).2.1 + 1) 0xFFFF

/-- The event makes the source severe: it brings the count to N (R361). -/
def FSrc.turns (f : FSrc) (early : Bool) (t : W64) : Bool :=
  f.countWith early t == (f.judge early t).1.n && decide ((f.judge early t).2.1 < f.countWith early t)

/-- A real event counts in the window with this one (R371, R372). -/
def FSrc.realWith (f : FSrc) (forced early : Bool) (t : W64) : Bool := (f.judge early t).2.2 || !forced

/-- The sticky, severe and forced flags after an event; nothing here clears one (R364). -/
def FSrc.flag (f : FSrc) (severe forced : Bool) : FSrc :=
  { f with sticky := true, severe := f.severe || severe, forced := f.forced || (severe && forced) }

/-- A source with one event more (R360, R361). An event of a window that a FAULT_CONFIG has ended leaves the flags as the clearing left
them (R364). -/
def FSrc.add (f : FSrc) (forced early : Bool) (t : W64) : FSrc :=
  let real := f.realWith forced early t
  let sev := f.turns early t
  let cnt := f.countWith early t
  let f1 := { f with total := if forced then f.total else Nat.min (f.total + 1) (p2 64 - 1) }
  match f.oldAt early t with
  | some o =>
    let f2 := { f1 with old := some { o with count := cnt, real := real } }
    if o.cleared then f2 else f2.flag sev !real
  | none => { (if early then f1 else f1.endWindow t).flag sev !real with count := cnt, lastStamp := stampAt early t, real := real }

/-- The region a unit of a level lies in; the chip collector lies in none. -/
def unitRegion (l : Level) (unit : Nat) : Option Nat :=
  match l with
  | .cell => some (unit / 72)
  | .block => some (unit / 8)
  | .region => some unit
  | .chip => none

/-- The state of a cell in the map (R25). -/
def cellState (i : Nat) (s : State) : CellState := s.cells.map.getD i .absent

/-- A FENCED cell's collector counts nothing (R370), but for a cell whose UNFENCE waits for its tick (R310; DEDUCED, log entry 39). -/
def cellCounts (i : Nat) (s : State) : Bool :=
  match cellState i s with
  | .active | .spare => true
  | .fenced => s.cells.unfenceAt.contains i
  | .absent => false

/-- The collector counts: from step 9 of start-up on (R415), not for a FENCED or ABSENT cell (R370), nor in a region whose heartbeat has
stopped (R374). -/
def collects (l : Level) (unit source : Nat) (s : State) : Bool :=
  coreRuns s && decide (3 ≤ s.dev.bootStage) && (sourceInfo l source).isSome && decide (unit < l.units)
    && (match unitRegion l unit with
      | some r => !s.clocks.lost.contains r && !s.clocks.stopped.contains r
      | none => true)
    && (l != .cell || cellCounts unit s)

/-- Latch one event (R56, R360 to R362): the new state and whether the source made its severe transition. -/
def latchEvent (l : Level) (unit source : Nat) (forced early : Bool) (s : State) : State × Bool :=
  if !collects l unit source s then (s, false)
  else
    let f := faultSrc l unit source s
    let t := s.tick.count
    let s := setFaultSrc l unit source (f.add forced early t) s
    if f.turns early t then
      (recordAt (stampAt early t) 0x0003 (leBytes 1 (levelCode l) ++ leBytes 1 (if f.realWith forced early t then 0 else 1) ++ leBytes 2 unit
        ++ leBytes 2 source) (setSticky (levelCode l) s), true)
    else (s, false)

/-- A pseudo-channel starts to retire (R188), unless it is retiring or retired. -/
def retirePc (stack pc : Nat) (s : State) : State :=
  if s.hbm.retiring.contains (stack, pc) || s.hbm.retired.contains (stack, pc) then s
  else { s with hbm := { s.hbm with retiring := s.hbm.retiring ++ [(stack, pc)] } }

/-- Enter RETIRE_REQUESTED at the next step barrier, or at the next tick when no step runs (R370). -/
def askRetire (s : State) : State := { s with dev := { s.dev with retireAt := true } }

/-- Retrain a port at the next closing tick, or at once when no step runs (R370). -/
def askRetrain (p : Nat) (s : State) : State :=
  if s.dev.state = .snapshotting || stepRuns s then { s with dev := { s.dev with retrain := insertNat s.dev.retrain p } }
  else trainPort p s

/-- Every array of a cell stops (R116, R127). -/
def CellEng.stopArrays (ceil : Nat) (e : CellEng) : CellEng := { e with arrays := e.arrays.map (ArraySt.stop ceil) }

/-- A cell stops for the rest of the frame: its arrays ramp down with filler (R116, R127). -/
def stopCell (i : Nat) (s : State) : State :=
  { s with
    frame := { s.frame with stoppedCells := insertNat s.frame.stoppedCells i }
    cells := { s.cells with eng := s.cells.eng.map (fun p =>
      if p.1 = i then (p.1, p.2.stopArrays (ceilingOf 64 s i)) else p) } }

/-- The event action of a source (R365, R369). -/
def eventAction (l : Level) (unit action : Nat) (s : State) : State :=
  if action % 16 = 1 && inFrame s then
    inDoubt (if l = .cell then stopCell unit s else s)
  else s

/-- A severe action but for DROP_LANE (R370). The fence of a SPARE cell moves no forme and holds no frame. -/
def severeAction (unit source : Nat) (forced : Bool) (action : Nat) (s : State) : State :=
  match action / 16 with
  | 1 =>
    let s := { s with dev := { s.dev with fenceAt := s.dev.fenceAt ++ [2 * unit + (if forced then 1 else 0)] } }
    if stepRuns s && decide (cellState unit s = .active) then inDoubt (stopCell unit s) else stopCell unit s
  | 3 => askRetrain (if source ≥ 0x30 then source - 0x30 else source - 0x10) s
  | 4 =>
    let n := (if source ≥ 0x140 then source - 0x140 else source - 0x100)
    retirePc (2 * unit + n / 32) (n % 32) s
  | 5 => { s with power := { s.power with penal := insertNat s.power.penal (16 * unit + (source - 0x10)) } }
  | 6 => askRetire s
  | _ => s

/-- A severe action that falls due in SNAPSHOTTING waits until the stop ends (R370); a fence is taken at the tick all the same (R374), and
RETRAIN and RETIRE wait on lists of their own. -/
def severeNow (l : Level) (unit source : Nat) (forced : Bool) (action : Nat) (s : State) : State :=
  if s.dev.state = .snapshotting && (action / 16 = 2 || action / 16 = 4 || action / 16 = 5) then
    { s with faults := { s.faults with waiting := s.faults.waiting ++ [(faultKey l unit source, action)] } }
  else severeAction unit source forced action s

/-- Count an event whose severe action is not DROP_LANE: the collector, the event action, the severe action, all under the settings of
the window that the event counts in (R361, R374). -/
def countSimple (l : Level) (unit source : Nat) (forced early act : Bool) (s : State) : State :=
  let f := faultSrc l unit source s
  let action := (f.judge early s.tick.count).1.action
  let r := latchEvent l unit source forced early s
  let t := if act && collects l unit source s then eventAction l unit action r.1 else r.1
  if r.2 then severeNow l unit source (!f.realWith forced early s.tick.count) action t else t

/-- Drop a lane and count the lane loss (R315). -/
def loseLane (p lane : Nat) (s : State) : State :=
  if laneActive p lane s then countSimple .chip 0 (0x30 + p) false false true (removeLane p lane s) else s

/-- The severe action DROP_LANE (R370), by the symbols of the window in which its event counts: a port at 4 lanes takes RETRAIN; a port in
training takes none (R374). -/
def dropWorstLane (early : Bool) (p : Nat) (s : State) : State :=
  let c := claspOf p s
  let old := early && ((faultSrc .chip 0 (0x10 + p) s).oldAt early s.tick.count).isSome
  if !claspUp c then s
  else if laneCount c.lanes ≤ 4 then askRetrain p s
  else loseLane p (worstLane c (if old then c.laneOld else c.laneFec)) s

/-- A severe DROP_LANE of a port, which waits in SNAPSHOTTING (R370). -/
def dropNow (l : Level) (unit source action : Nat) (early : Bool) (s : State) : State :=
  if s.dev.state = .snapshotting then severeNow l unit source false action s else dropWorstLane early (source - 0x10) s

/-- A real fault of a cell in the frame of its UNFENCE: the fault stands, and the cell stays FENCED (R310). -/
def standFault (l : Level) (unit source : Nat) (forced : Bool) (s : State) : State :=
  if l = .cell && !forced && s.cells.unfenceAt.contains unit && collects l unit source s then
    { s with dev := { s.dev with fenceAt := s.dev.fenceAt ++ [2 * unit] } }
  else s

/-- Count an event with all its effects (R361 to R370). `act` is false for an uncorrectable BAR2 read (R260). -/
def countEventWith (l : Level) (unit source : Nat) (forced early act : Bool) (s : State) : State :=
  let action := ((faultSrc l unit source s).judge early s.tick.count).1.action
  if action / 16 = 2 then
    let r := latchEvent l unit source forced early s
    if r.2 then dropNow l unit source action early r.1 else r.1
  else countSimple l unit source forced early act (standFault l unit source forced s)

/-- A severe action whose wait is over. -/
def severeLate (s : State) (w : Nat × Nat) : State :=
  let source := w.1 % p2 16
  if w.2 / 16 = 2 then dropWorstLane false (source - 0x10) s else severeAction (w.1 / p2 16 % p2 16) source false w.2 s

/-- The severe actions that waited for the end of a snapshot's stop (R370). -/
def takeWaiting (s : State) : State :=
  if s.dev.state = .snapshotting then s
  else s.faults.waiting.foldl severeLate { s with faults := { s.faults with waiting := [] } }

/-- Count a real event latched now. -/
def countEvent (l : Level) (unit source : Nat) (s : State) : State := countEventWith l unit source false false true s

/-- Install a waiting FAULT_CONFIG of a source at the start of the first window of its new length, and clear what it clears
(R303, R364). The window that it ends still takes the events latched before this tick, under the old settings (R374). -/
def installCfg (l : Level) (unit source : Nat) (s : State) : State :=
  let f := faultSrc l unit source s
  match f.pending with
  | none => s
  | some (c, t) =>
    if s.tick.count.toNat % c.w = 0 && s.tick.count != t then
      let kept := if (f.old.map (·.ended)) = some s.tick.count then f else f.keepWindow s.tick.count
      setFaultSrc l unit source { FSrc.fresh c with
        lastStamp := s.tick.count, total := f.total, old := kept.old.map (fun o => { o with cleared := true }) } s
    else s

end Sys2Proof.Machine
end

