-- ==== Sys2Proof/Machine/Formats.lean ====
section
/-! DEFINITION. Element encodings, chase blocks, quantizing, dequantizing and Microscaling (R58 to R79), inclusions,
promotion and the counts of a quantizer (R130 to R139, R469). Blocks are read through a byte reader. -/

namespace Sys2Proof.Machine
open Sys2Proof

/-! ### Elements -/

/-- The element encodings of the narrow formats (R58). -/
inductive Elem where
  | e2m1 | e4m3 | e5m2 | int4 | int8
deriving DecidableEq, Repr

/-- The element encoding of a chase or integer format code (R61). -/
def fmtElem (f : Nat) : Option Elem :=
  match f with
  | 0 => some .e2m1
  | 1 => some .e4m3
  | 2 => some .e5m2
  | 3 => some .int4
  | 4 => some .int8
  | _ => none

/-- A code of R61 outside import and export. -/
def fmtLegal (f : Nat) : Bool := f ≤ 6

/-- A chase or integer format. -/
def fmtNarrow (f : Nat) : Bool := f ≤ 4

/-- Bytes of one stored block (R61). -/
def blockBytes (f : Nat) : Nat :=
  if f = 0 || f = 3 then 576 else if f ≤ 4 then 1088 else if f = 5 then 2048 else 4096

/-- Bits of one element. -/
def elemBits : Elem → Nat
  | .e2m1 | .int4 => 4
  | _ => 8

/-- F of R58. -/
def elemF : Elem → Nat
  | .e2m1 => 6
  | .e4m3 => 448
  | .e5m2 => 57344
  | .int4 => 7
  | .int8 => 127

/-- The code of magnitude F. -/
def elemFCode : Elem → Nat
  | .e2m1 => 7
  | .e4m3 => 0x7E
  | .e5m2 => 0x7B
  | .int4 => 7
  | .int8 => 127

/-- Mantissa bits and least normal exponent of a floating-point element. -/
def elemMant : Elem → Nat × Int
  | .e2m1 => (1, 0)
  | .e4m3 => (3, -6)
  | .e5m2 => (2, -14)
  | _ => (0, 0)

def elemIsInt : Elem → Bool
  | .int4 | .int8 => true
  | _ => false

/-- The value of an element code (R58, R59, R60). -/
def elemVal (k : Elem) (c : Nat) : OpVal :=
  let bits := elemBits k
  if elemIsInt k then .val (signExt bits c) 0
  else
    let m := c % p2 (bits - 1)
    let bad := match k with
      | .e4m3 => m == 0x7F
      | .e5m2 => m ≥ 0x7C
      | _ => false
    if bad then .nonfinite
    else
      let d := codeVal (elemMant k).1 (elemMant k).2 m
      .val (if bitOf c (bits - 1) then -d.m else d.m) d.e

/-- An element code with a sign; a zero magnitude is the all-zero code (R59). -/
def elemSigned (k : Elem) (neg : Bool) (m : Nat) : Nat :=
  if m = 0 then 0
  else if !neg then m
  else if elemIsInt k then p2 (elemBits k) - m else m + p2 (elemBits k - 1)

/-- The greatest magnitude code at or below `|y|`, and the fraction of the step above it in 2^−32 (R70, rule 3). -/
def elemFloor (k : Elem) (y : Dy) : Nat × Nat :=
  let e := if elemIsInt k then 0 else if DyOp.flog2 y < (elemMant k).2 then (elemMant k).2 else DyOp.flog2 y
  let q := e - ((elemMant k).1 : Int)
  let t := (shlTrunc y.m.natAbs (y.e - q + 32)).toNat
  let base := if elemIsInt k then 0 else (e - (elemMant k).2).toNat <<< (elemMant k).1
  (base + t / p2 32, t % p2 32)

/-- The nearest magnitude code, ties to the even code. -/
def elemNearest (k : Elem) (y : Dy) : Nat :=
  if elemIsInt k then
    match y.e with
    | .ofNat s => y.m.natAbs * p2 s
    | .negSucc s => divRne y.m.natAbs (p2 (s + 1))
  else roundCode (elemMant k).1 (elemMant k).2 y

/-- What rounding one element gives: its code, a saturation, an underflow. -/
structure RoundRes where
  code : Nat
  sat : Bool
  under : Bool
deriving DecidableEq, Repr

/-- round_element of R70; `draw` is the draw of R71 under stochastic rounding. -/
def roundElement (k : Elem) (draw : Option Nat) (y : Dy) : RoundRes :=
  if y.m = 0 then ⟨0, false, false⟩
  else if DyOp.lt ⟨elemF k, 0⟩ (DyOp.abs y) then ⟨elemSigned k (y.m < 0) (elemFCode k), true, false⟩
  else
    let m := match draw with
      | none => elemNearest k (DyOp.abs y)
      | some u =>
        let f := elemFloor k (DyOp.abs y)
        if u < f.2 then f.1 + 1 else f.1
    ⟨elemSigned k (y.m < 0) m, false, m == 0⟩

/-! ### Reading blocks -/

/-- The value that an exponent byte pair and an element value give (R63). -/
def chaseVal (rb cb : Nat) (e : OpVal) : OpVal :=
  if rb = 0xFF || cb = 0xFF then .nonfinite
  else if rb = 0xFE || cb = 0xFE then .val 0 0
  else
    match e with
    | .nonfinite => .nonfinite
    | .val m x => .val m (x + ((rb : Int) - 127) + ((cb : Int) - 127))

/-- Row and column exponent bytes of a stored chase block (R64). -/
def blockRowByte (f : Nat) (rd : Nat → Byte) (i : Nat) : Nat := (rd (if blockBytes f = 576 then 512 + i else 1024 + i)).toNat
def blockColByte (f : Nat) (rd : Nat → Byte) (j : Nat) : Nat := (rd (if blockBytes f = 576 then 544 + j else 1056 + j)).toNat

/-- The element code at (i, j) of a stored chase block (R64). -/
def blockCode (f : Nat) (rd : Nat → Byte) (i j : Nat) : Nat :=
  if blockBytes f = 576 then
    let b := (rd (16 * i + j / 2)).toNat
    if j % 2 = 0 then b % 16 else b / 16
  else (rd (32 * i + j)).toNat

/-- The FP32 pattern of element (i, j) of a plain tile (R65); the negative-zero code of BF16 reads as zero (R59). -/
def plainF32 (f : Nat) (rd : Nat → Byte) (i j : Nat) : W32 :=
  if f = 5 then
    let a := 2 * (32 * i + j)
    let c := (rd a).toNat + 256 * (rd (a + 1)).toNat
    if c = 0x8000 then 0 else bf16ToF32 (BitVec.ofNat 16 c)
  else
    let a := 4 * (32 * i + j)
    BitVec.ofNat 32 (leNat [rd a, rd (a + 1), rd (a + 2), rd (a + 3)])

/-- The exact value of an FP32 pattern as an operand. -/
def f32Op (x : W32) : OpVal := if f32Finite x then .val (f32Val x).m (f32Val x).e else .nonfinite

/-- The value of element (i, j) of a stored block of any format (R62, R63, R65). -/
def blockVal (f : Nat) (rd : Nat → Byte) (i j : Nat) : OpVal :=
  match fmtElem f with
  | some k => chaseVal (blockRowByte f rd i) (blockColByte f rd j) (elemVal k (blockCode f rd i j))
  | none => f32Op (plainF32 f rd i j)

/-- Dequantize a value to FP32 (R74). -/
def dequantF32 : OpVal → W32
  | .nonfinite => f32NaN
  | .val m e => rneF32Pos ⟨m, e⟩

/-- Dequantize a value to BF16 (R74). -/
def dequantBf16 : OpVal → W16
  | .nonfinite => 0x7FC0
  | .val m e => let w := rneBf16 false ⟨m, e⟩; if w = 0x8000 then 0 else w

/-- An operand value rounded to BF16 (R74, R99). -/
def bf16Op (v : OpVal) : OpVal := f32Op (bf16ToF32 (dequantBf16 v))

/-- Element (i, j) of a stored block as FP32: dequantized, or the plain tile's own pattern. -/
def blockF32 (f : Nat) (rd : Nat → Byte) (i j : Nat) : W32 :=
  if fmtNarrow f then dequantF32 (blockVal f rd i j) else plainF32 f rd i j

/-! ### Statistics (R138, R139, R469) -/

def StatRec.empty : StatRec where
  maxAbs := 0
  elements := 0
  underflow := 0
  saturation := 0
  inclusion := 0
  promoted := 0
  relead := 0
  lost := 0
  nonfinite := 0
  belowWindow := 0
  drainMax := 0
  leading := none
  hist := List.replicate 32 0
  cols := []

/-- A count of R138 holds at 0xFFFF_FFFF. -/
def hold32 (n : Nat) : Nat := Nat.min n 0xFFFFFFFF

def maxW (a b : W32) : W32 := if a.toNat < b.toNat then b else a

/-- The larger of two column bytes; 0xFE stands for a column that is zero in every block (log entry 15). -/
def maxCol (a b : Byte) : Byte := if a = 0xFE then b else if b = 0xFE then a else if a.toNat < b.toNat then b else a

/-- Merge two column vectors by column. -/
def mergeCols (a b : List (Nat × Byte)) : List (Nat × Byte) :=
  b.foldl (fun acc p => SMap.put acc p.1 (maxCol (SMap.getD acc p.1 0xFE) p.2)) a

def maxLead : Option Int → Option Int → Option Int
  | none, y => y
  | x, none => x
  | some x, some y => some (max x y)

/-- Combine two records of one tensor (R138 to R140): counts add, maxima combine. -/
def StatRec.add (x y : StatRec) : StatRec where
  maxAbs := maxW x.maxAbs y.maxAbs
  elements := hold32 (x.elements + y.elements)
  underflow := hold32 (x.underflow + y.underflow)
  saturation := hold32 (x.saturation + y.saturation)
  inclusion := hold32 (x.inclusion + y.inclusion)
  promoted := hold32 (x.promoted + y.promoted)
  relead := hold32 (x.relead + y.relead)
  lost := hold32 (x.lost + y.lost)
  nonfinite := hold32 (x.nonfinite + y.nonfinite)
  belowWindow := hold32 (x.belowWindow + y.belowWindow)
  drainMax := maxW x.drainMax y.drainMax
  leading := maxLead x.leading y.leading
  hist := List.zipWith (fun a b => hold32 (a + b)) x.hist y.hist
  cols := mergeCols x.cols y.cols

/-- The 256 bytes of a record (R138). -/
def StatRec.bytes (r : StatRec) (tensor fmt : Nat) (tableLead : Int) : List Byte :=
  leBytes 2 tensor ++ leBytes 1 fmt ++ leBytesI 1 (match r.leading with | none => tableLead | some l => max l tableLead)
    ++ leBytes 4 r.maxAbs.toNat ++ leBytes 8 r.elements ++ leBytes 4 r.underflow ++ leBytes 4 r.saturation
    ++ leBytes 4 r.inclusion ++ leBytes 4 r.promoted ++ leBytes 4 r.relead ++ leBytes 4 r.lost
    ++ leBytes 4 r.nonfinite ++ leBytes 4 r.belowWindow ++ leBytes 4 r.drainMax.toNat ++ zeros 12
    ++ (r.hist.map (leBytes 4)).flatten ++ zeros 64

/-- Add one to a histogram bin. -/
def bump (h : List Nat) (b : Nat) : List Nat := setAt h b (hold32 (h.getD b 0 + 1))

/-- A source value is finite. -/
def opFinite : OpVal → Bool
  | .nonfinite => false
  | .val _ _ => true

/-- The exact value of a source value; a non-finite one gives 0. -/
def opDy : OpVal → Dy
  | .nonfinite => ⟨0, 0⟩
  | .val m e => ⟨m, e⟩

/-- The largest finite magnitude of a row of source values. -/
def rowMax (xs : List OpVal) : Dy :=
  xs.foldl (fun a x => if DyOp.lt a (DyOp.abs (opDy x)) then DyOp.abs (opDy x) else a) ⟨0, 0⟩

/-- A magnitude as the FP32 pattern of a maximum: a value beyond the range holds at the largest finite pattern. -/
def maxPattern (d : Dy) : W32 :=
  let w := rneF32 false (DyOp.abs d)
  if w.toNat ≥ 0x7F800000 then 0x7F7FFFFF else w

/-- elements, max_abs, histogram and nonfinite of one 32-element block row (R138, R139, R72). The row maximum is
taken over the finite elements (log entry 15). -/
def countRow (r : StatRec) (xs : List OpVal) : StatRec :=
  let a := rowMax xs
  xs.foldl (fun r x =>
    if !opFinite x then { r with nonfinite := hold32 (r.nonfinite + 1) }
    else if (opDy x).m = 0 then r
    else { r with
      elements := hold32 (r.elements + 1)
      maxAbs := maxW r.maxAbs (maxPattern (opDy x))
      hist := bump r.hist (Nat.min 31 (DyOp.flog2 a - DyOp.flog2 (opDy x)).toNat) }) r

/-! ### Quantizing one block (R68 to R73) -/

/-- A row's exponent byte (R68). -/
def rowByteOf (f : Nat) (xs : List OpVal) : Nat :=
  if xs.any (fun x => !opFinite x) then 0xFF
  else
    let a := rowMax xs
    if a.m = 0 then 0xFE else (clampI (-127) 126 (DyOp.clog2Div a f) + 127).toNat

/-- The largest scaled magnitude of a column over the live rows (b of R68). -/
def colMaxOf (rows : List (List OpVal)) (rb : List Nat) (j : Nat) : Dy :=
  (List.zip rows rb).foldl (fun b p =>
    if p.2 ≥ 0xFE then b
    else
      let v := DyOp.scale (DyOp.abs (opDy (p.1.getD j (.val 0 0)))) (127 - (p.2 : Int))
      if DyOp.lt b v then v else b) ⟨0, 0⟩

/-- A column's measured exponent byte (R68). -/
def colByteOf (f : Nat) (b : Dy) : Nat :=
  if b.m = 0 then 0xFE else (clampI (-127) 126 (-(DyOp.flog2Quot f b)) + 127).toNat

/-- A column's predicted exponent byte (R69). -/
def colBytePred (forecast : Nat) (b : Dy) : Nat :=
  if b.m = 0 then 0xFE else if forecast ≥ 0xFE then 0x7F else forecast

/-- The 32 × 32 source values of a block; positions outside `nr` × `nc` lie beyond the tensor's edge (R66). -/
def blockRows (x : Nat → Nat → OpVal) (nr nc : Nat) : List (List OpVal) :=
  (List.range 32).map (fun i => (List.range 32).map (fun j => if i < nr && j < nc then x i j else .val 0 0))

/-- What quantizing one block gives. -/
structure BlockOut where
  bytes : List Byte
  counts : StatRec
  measCols : List Nat
  captures : List (Nat × Nat × W16)
  lost : Bool
deriving DecidableEq, Repr

/-- Pack element codes and exponent bytes (R64). -/
def packBlock (f : Nat) (codes : List (List Nat)) (rb cb : List Nat) : List Byte :=
  let row := fun (cs : List Nat) =>
    if blockBytes f = 576 then
      (List.range 16).map (fun k => BitVec.ofNat 8 (cs.getD (2 * k) 0 + 16 * cs.getD (2 * k + 1) 0))
    else cs.map (BitVec.ofNat 8)
  (codes.map row).flatten ++ rb.map (BitVec.ofNat 8) ++ cb.map (BitVec.ofNat 8)

/-- The residual of a saturated element (R130). -/
def residual (k : Elem) (x : Dy) (e : Int) : W16 :=
  rneBf16 false (DyOp.sub x ⟨if x.m < 0 then -(elemF k : Int) else elemF k, e⟩)

/-- Assemble a block's result from its rounded elements and exponent bytes: counts, captures, loss. -/
def blockResult (k : Elem) (f : Nat) (rows : List (List OpVal)) (res : List (List RoundRes)) (rb cb meas : List Nat) :
    BlockOut :=
  let flat := res.flatten
  let sats := (flat.filter (·.sat)).length
  let unders := (flat.filter (·.under)).length
  let cnt := rows.foldl countRow StatRec.empty
  let poisoned := rb.any (· == 0xFF) || cb.any (· == 0xFF)
  let caps := (((List.range 32).map (fun i => (List.range 32).filterMap (fun j =>
    if ((res.getD i []).getD j ⟨0, false, false⟩).sat then
      let w := residual k (opDy ((rows.getD i []).getD j (.val 0 0))) ((rb.getD i 0 : Int) + cb.getD j 0 - 254)
      if w = 0 || w = 0x8000 then none else some (i, j, w)
    else none))).flatten)
  { bytes := packBlock f (res.map (·.map (·.code))) rb cb
    counts := { cnt with underflow := unders, saturation := sats }
    measCols := meas
    captures := caps
    lost := !poisoned && cnt.elements > 0 && (flat.all (fun r => r.code == 0) || sats == cnt.elements) }

/-- Quantize one 32 × 32 block: `draw i j` is the draw of R71 under stochastic rounding, `forecast j` the entry of
R69 under predicted quantizing. -/
def quantBlock (k : Elem) (f : Nat) (draw : Option (Nat → Nat → Nat)) (forecast : Option (Nat → Nat))
    (x : Nat → Nat → OpVal) (nr nc : Nat) : BlockOut :=
  let rows := blockRows x nr nc
  let fm := elemF k
  let rb := rows.map (rowByteOf fm)
  let bs := (List.range 32).map (colMaxOf rows rb)
  let meas := bs.map (colByteOf fm)
  let cb := match forecast with
    | none => meas
    | some fc => (List.range 32).map (fun j => colBytePred (fc j) (bs.getD j ⟨0, 0⟩))
  let res := (List.range 32).map (fun i => (List.range 32).map (fun j =>
    let r := rb.getD i 0xFE
    let c := cb.getD j 0xFE
    if r ≥ 0xFE || c ≥ 0xFE then (⟨0, false, false⟩ : RoundRes)
    else roundElement k (draw.map (fun d => d i j))
      (DyOp.scale (opDy ((rows.getD i []).getD j (.val 0 0))) (254 - (r : Int) - c))))
  blockResult k f rows res rb cb meas

/-- The block with zero elements and 0xFE exponents. -/
def emptyBlock (f : Nat) : List Byte :=
  if fmtNarrow f then
    packBlock f (List.replicate 32 (List.replicate 32 0)) (List.replicate 32 0xFE) (List.replicate 32 0xFE)
  else zeros (blockBytes f)

/-- Stochastic rounding of a finite value to BF16 between the two adjacent magnitudes (R70, rule 3, R217). -/
def stochBf16 (u : Nat) (x : W32) : W16 :=
  if !f32Finite x then f32ToBf16 x
  else
    let m := f32Mag x
    let lo := m / p2 16
    let c := if u < (m % p2 16) * p2 16 then lo + 1 else lo
    BitVec.ofNat 16 (c + (if f32Neg x then 0x8000 else 0))

/-- Write a 32 × 32 plain tile (R65, R66); `draw` asks for stochastic rounding to BF16. -/
def plainBlock (f : Nat) (draw : Option (Nat → Nat → Nat)) (x : Nat → Nat → W32) (nr nc : Nat) : List Byte :=
  ((List.range 32).map (fun i => ((List.range 32).map (fun j =>
    let v := if i < nr && j < nc then x i j else 0
    if f = 5 then
      leBytes 2 (match draw with
        | none => f32ToBf16 v
        | some d => stochBf16 (d i j) v).toNat
    else leBytes 4 v.toNat)).flatten)).flatten

/-- A finite value as the plain tile stores it: BF16 to the nearest, or stochastically with its draw (R70, R217). -/
def bf16Stored (draw : Option Nat) (v : Dy) : W32 :=
  match draw with
  | none => bf16ToF32 (rneBf16 false v)
  | some u => bf16ToF32 (stochBf16 u (rneF32 false v))

/-- The counts of a plain-tile conversion (R469): underflow and saturation by the result that is stored. `narrow` is F of the
tensor's narrower rung, when it has one. -/
def plainCounts (f : Nat) (narrow : Option Nat) (draw : Option (Nat → Nat → Nat)) (x : Nat → Nat → OpVal) (nr nc : Nat) :
    StatRec × List Nat :=
  let rows := blockRows x nr nc
  let cnt := rows.foldl countRow StatRec.empty
  let all := (List.range 1024).map (fun k =>
    let v := (rows.getD (k / 32) []).getD (k % 32) (.val 0 0)
    (v, bf16Stored (draw.map (fun d => d (k / 32) (k % 32))) (opDy v)))
  let fin := all.filter (fun p => opFinite p.1 && (opDy p.1).m != 0)
  let under := if f = 5 then (fin.filter (fun p => f32IsZero p.2)).length else 0
  let sat := if f = 5 then (fin.filter (fun p => f32IsInf p.2)).length else 0
  let cols := match narrow with
    | none => []
    | some fm =>
      let rb := rows.map (rowByteOf fm)
      (List.range 32).map (fun j => colByteOf fm (colMaxOf rows rb j))
  ({ cnt with underflow := under, saturation := sat }, cols)

/-- The next wider format (R75, R143). -/
def nextWider (f : Nat) (gradient : Bool) : Option Nat :=
  match f with
  | 0 => some (if gradient then 2 else 1)
  | 1 => some 5
  | 2 => some 5
  | 3 => some 4
  | 4 => some 5
  | _ => none

/-- The ladder of an entry by its lowest rung and gradient flag (R143), narrowest first. -/
def ladder (lowest : Nat) (gradient : Bool) : List Nat :=
  if lowest = 3 || lowest = 4 then [3, 4, 5] else if gradient then [0, 2, 5] else [0, 1, 5]

/-- The rung after `f` in a list of rungs. -/
def rungAfter : List Nat → Nat → Option Nat
  | a :: b :: rest, f => if a = f then some b else rungAfter (b :: rest) f
  | _, _ => none

/-- An entry that moves on a ladder (R143). -/
def onLadder (t : TabEntry) : Bool := !t.sensitive && t.format != 6

def tabWider (t : TabEntry) : Option Nat := if onLadder t then rungAfter (ladder t.lowest t.gradient) t.format else none

/-- The next narrower rung, none below lowest (R142, R143). -/
def tabNarrower (t : TabEntry) : Option Nat :=
  if onLadder t && t.format != t.lowest then rungAfter (ladder t.lowest t.gradient).reverse t.format else none

/-! ### Quantizing one tile (R131 to R135, R470) -/

/-- What quantizing one 128 × 128 tile gives: its blocks by (p, q), the inclusion list unless promoted, the map
byte, the promotion slot's blocks and the counts. -/
structure TileOut where
  blocks : List ((Nat × Nat) × List Byte)
  inclusions : Option (List Byte)
  mapByte : Nat
  promo : Option (List ((Nat × Nat) × List Byte))
  counts : StatRec
deriving DecidableEq, Repr

/-- One inclusion list (R131): entries in row-major order, 16 slots. -/
def inclusionList (caps : List (Nat × Nat × W16)) : List Byte :=
  let e := caps.map (fun c => leBytes 4 (c.1 + 128 * c.2.1 + 65536 * c.2.2.toNat))
  sliceB e.flatten 0 64

/-- Insert a capture by row, then column. -/
def insertCap (c : Nat × Nat × W16) : List (Nat × Nat × W16) → List (Nat × Nat × W16)
  | [] => [c]
  | d :: rest => if c.1 < d.1 || (c.1 == d.1 && c.2.1 < d.2.1) then c :: d :: rest else d :: insertCap c rest

/-- The blocks (p, q) that a tile of `nr` × `nc` elements holds. -/
def tileCover (nr nc : Nat) : List (Nat × Nat) :=
  ((List.range (ceilDiv nr 32)).map (fun p => (List.range (ceilDiv nc 32)).map (fun q => (p, q)))).flatten

/-- The 16 blocks of a tile, which is stored whole: a block wholly beyond the tensor's edge holds a zero block (R174). -/
def wholeTile : List (Nat × Nat) := tileCover 128 128

/-- The blocks wholly beyond the tensor's edge in the tiles that a range of `nr` × `nc` from (r0, c0) ends in, by their place relative to
the range's first block (R174). -/
def edgeBlocks (t : TabEntry) (r0 c0 nr nc : Nat) : List (Nat × Nat) :=
  let p1 := ceilDiv nr 32
  let q1 := ceilDiv nc 32
  let pe := if t.rows ≤ r0 + nr then ceilDiv (r0 / 32 + p1) 4 * 4 - r0 / 32 else p1
  let qe := if t.cols ≤ c0 + nc then ceilDiv (c0 / 32 + q1) 4 * 4 - c0 / 32 else q1
  (tileCover (32 * pe) (32 * qe)).filter (fun b => decide (p1 ≤ b.1 ∨ q1 ≤ b.2))

/-- A zero block: zero elements, and exponent bytes 0xFE in a chase block (R174). -/
def zeroBlock (f : Nat) : List Byte :=
  if fmtNarrow f then packBlock f (List.replicate 32 (List.replicate 32 0)) (List.replicate 32 0xFE) (List.replicate 32 0xFE) else zeros (blockBytes f)

/-- The blocks of one tile quantized at one format. `nr` and `nc` are the tile's rows and columns inside the tensor. -/
def tileBlocks (k : Elem) (f : Nat) (draw : Option (Nat → Nat → Nat)) (forecast : Option (Nat → Nat))
    (x : Nat → Nat → OpVal) (nr nc : Nat) : List ((Nat × Nat) × BlockOut) :=
  wholeTile.map (fun b =>
    (b, quantBlock k f (draw.map (fun d i j => d (32 * b.1 + i) (32 * b.2 + j)))
      (forecast.map (fun fc j => fc (32 * b.2 + j))) (fun i j => x (32 * b.1 + i) (32 * b.2 + j))
      (nr - 32 * b.1) (nc - 32 * b.2)))

/-- The plain blocks of one tile. -/
def tilePlain (f : Nat) (draw : Option (Nat → Nat → Nat)) (x : Nat → Nat → W32) (nr nc : Nat) :
    List ((Nat × Nat) × List Byte) :=
  wholeTile.map (fun b =>
    (b, plainBlock f (draw.map (fun d i j => d (32 * b.1 + i) (32 * b.2 + j)))
      (fun i j => x (32 * b.1 + i) (32 * b.2 + j)) (nr - 32 * b.1) (nc - 32 * b.2)))

/-- Column vector entries of one block from its tensor column. -/
def colsFrom (c0 nc : Nat) (bytes : List Nat) : List (Nat × Byte) :=
  ((List.range (Nat.min 32 nc)).map (fun j => (c0 + j, BitVec.ofNat 8 (bytes.getD j 0xFE))))

/-- Decide one tile from its quantized blocks (R132, R134, R137): keep its list, or promote it from its source.
`w` is the source as FP32, for a promotion to BF16; `c0` the tile's first tensor column; `stoch` the tensor's
rounding bit. -/
def decideTile (t : TabEntry) (stoch : Bool) (f : Nat) (draw : Nat → Nat → Nat) (bs : List ((Nat × Nat) × BlockOut))
    (x : Nat → Nat → OpVal) (w : Nat → Nat → W32) (nr nc c0 : Nat) : TileOut :=
  let dr := if stoch then some draw else none
  let caps := if t.inclBudget = 0 then [] else
    (bs.map (fun b => b.2.captures.map (fun c => (32 * b.1.1 + c.1, 32 * b.1.2 + c.2.1, c.2.2)))).flatten
  let caps := caps.foldl (fun acc c => insertCap c acc) []
  let overCap := caps.length > t.inclBudget / 4
  let lost := bs.any (·.2.lost)
  let base := bs.foldl (fun acc b => StatRec.add acc
    { b.2.counts with cols := colsFrom (c0 + 32 * b.1.2) (nc - 32 * b.1.2) b.2.measCols }) StatRec.empty
  match (if lost || overCap then nextWider f t.gradient else none) with
  | none =>
    { blocks := bs.map (fun b => (b.1, b.2.bytes))
      inclusions := some (inclusionList caps)
      mapByte := f
      promo := none
      counts := { base with inclusion := caps.length, lost := if lost then 1 else 0 } }
  | some f2 =>
    let again := match fmtElem f2 with
      | some k2 => tileBlocks k2 f2 dr none x nr nc
      | none => []
    { blocks := bs.map (fun b => (b.1, b.2.bytes))
      inclusions := none
      mapByte := f2
      promo := some (if fmtNarrow f2 then again.map (fun b => (b.1, b.2.bytes)) else tilePlain f2 dr w nr nc)
      counts := { base with promoted := 1, lost := if lost || again.any (·.2.lost) then 1 else 0 } }

/-- Quantize one tile of a tensor under a quantize control (R68, R69). A promotion rounds by the tensor's own rounding bit (R134). -/
def quantTile (t : TabEntry) (ctl : Nat) (k : Elem) (f : Nat) (draw : Nat → Nat → Nat) (forecast : Nat → Nat)
    (w : Nat → Nat → W32) (nr nc c0 : Nat) : TileOut :=
  let x := fun r c => f32Op (w r c)
  let bs := tileBlocks k f (if bitOf ctl 1 then some draw else none) (if bitOf ctl 0 then some forecast else none) x nr nc
  decideTile t (bitOf t.quant 1) f draw bs x w nr nc c0

/-! ### Microscaling (R76 to R79) -/

/-- The chase format of an MX code, and back. -/
def mxToChase (f : Nat) : Option Nat := if f = 8 then some 0 else if f = 9 then some 1 else if f = 10 then some 2 else none

/-- The value of an MX element under its scale byte (R77). -/
def mxVal (k : Elem) (scale c : Nat) : OpVal :=
  if scale = 0xFF then .nonfinite
  else match elemVal k c with
    | .nonfinite => .nonfinite
    | .val m e => .val m (e + (scale : Int) - 127)

/-- Import one block (R77): `el i j` the element codes along (row, column), `scale n` the scale of MX block n across
the blocked axis, `byRows` the blocked axis, `nr` × `nc` the part inside the tensor; a block wholly beyond its edge is a zero block (R174). -/
def mxImportBlock (k : Elem) (f : Nat) (byRows : Bool) (el : Nat → Nat → Nat) (scale : Nat → Nat) (nr nc : Nat) :
    BlockOut :=
  let lines := if nr = 0 || nc = 0 then 0 else if byRows then nr else nc
  let code := fun (l p : Nat) => if byRows then el l p else el p l
  let line := fun (l : Nat) =>
    let cs := (List.range 32).map (code l)
    let zero : List RoundRes := List.replicate 32 ⟨0, false, false⟩
    if l ≥ lines then (0xFE, zero)
    else if scale l = 0xFF || cs.any (fun c => elemVal k c == .nonfinite) then (0xFF, zero)
    else if scale l = 0xFE then
      (0xFD, cs.map (fun c => roundElement k none (DyOp.scale (opDy (elemVal k c)) 1)))
    else (scale l, cs.map (fun c => ⟨c, false, false⟩))
  let ls := (List.range 32).map line
  let lb := ls.map (·.1)
  let ob := (List.range 32).map (fun p => if p < (if byRows then nc else nr) then 0x7F else 0xFE)
  let at' := fun (l p : Nat) => (((ls.getD l (0xFE, [])).2).getD p ⟨0, false, false⟩ : RoundRes)
  let res := (List.range 32).map (fun i => (List.range 32).map (fun j => if byRows then at' i j else at' j i))
  let rows := blockRows (fun i j => mxVal k (scale (if byRows then i else j)) (el i j)) nr nc
  let rb := rows.map (rowByteOf (elemF k))
  let meas := (List.range 32).map (fun j => colByteOf (elemF k) (colMaxOf rows rb j))
  blockResult k f rows res (if byRows then lb else ob) (if byRows then ob else lb) meas

/-- One MX block of an export (R78): its scale byte, its element codes, saturations and underflows. `lineByte` is
the exponent byte along the blocked axis, `crossBytes` the others; `wide` forces rule 4 (R471). -/
def mxExportLine (k : Elem) (wide : Bool) (vals : List OpVal) (codes : List Nat) (lineByte : Nat) (crossBytes : List Nat) :
    Nat × List Nat × Nat × Nat :=
  if vals.any (· == .nonfinite) then (0xFF, List.replicate 32 0, 0, 0)
  else
    let live := crossBytes.filter (· ≤ 0xFD)
    let c := live.headD 0
    let direct := !wide && lineByte ≤ 0xFD && !live.isEmpty && live.all (· == c)
      && -127 ≤ (lineByte : Int) + c - 254 && (lineByte : Int) + c - 254 ≤ 127
    if direct then
      (lineByte + c - 127, List.zipWith (fun e b => if b = 0xFE then 0 else e) codes crossBytes, 0, 0)
    else
      let dys := vals.map (fun v => match v with | .val m e => (⟨m, e⟩ : Dy) | .nonfinite => ⟨0, 0⟩)
      let a := dys.foldl (fun a v => if DyOp.lt a (DyOp.abs v) then DyOp.abs v else a) ⟨0, 0⟩
      if a.m = 0 then (0x7F, List.replicate 32 0, 0, 0)
      else
        let x := clampI (-127) 127 (DyOp.clog2Div a (elemF k))
        let rs := dys.map (fun v => roundElement k none (DyOp.scale v (-x)))
        ((x + 127).toNat, rs.map (·.code), (rs.filter (·.sat)).length, (rs.filter (·.under)).length)

end Sys2Proof.Machine
end

