-- ==== Sys2Proof/Machine/Memory.lean ====
section
/-! DEFINITION. Case memory and its staging (R32, R34, R245, R246), HBM with its page map, staging and poison table
(R172 to R184), long tiles (R91, R93) and host memory behind bindings (R266). -/

namespace Sys2Proof.Machine
open Sys2Proof

/-! ### Case memory -/

/-- The key of a byte of case memory: 8 MiB per cell. -/
def caseKey (cell off : Nat) : Nat := cell * p2 23 + off

/-- The cell that now runs a fenced cell's forme (R246). -/
def redirect (s : State) (cell : Nat) : Nat := SMap.getD s.image.moves cell cell

/-- A byte of case memory as a source of the frame reads it: the staged copy of a page that has one, else committed
state (R32). -/
def caseByte (s : State) (cell off : Nat) : Byte :=
  match SMap.get? s.caseMem.staged (caseKey cell off) with
  | some b => b
  | none => Memory.read s.caseMem.mem (caseKey cell off)

/-- `n` bytes of case memory. -/
def caseBytes (s : State) (cell off n : Nat) : List Byte := (List.range n).map (fun i => caseByte s cell (off + i))

/-- A little-endian word of case memory. -/
def caseWord (s : State) (cell off : Nat) : W32 := BitVec.ofNat 32 (leNat (caseBytes s cell off 4))

/-- The 4 KiB pages that a range touches. -/
def pagesOf (size a n : Nat) : List Nat := if n = 0 then [] else (List.range ((a + n - 1) / size - a / size + 1)).map (· + a / size)

/-- Shadow pages of a cell in the frame. -/
def shadowCount (s : State) (cell : Nat) : Nat := (s.caseMem.shadow.filter (fun k => k / 2048 = cell)).length

/-- Take a shadow page on the first write to a page; a cell that needs a 513th puts the frame in doubt and counts one event of
"sequencer timeout", once in the frame (R34). The answer says whether the write lands. -/
def takeShadow (cell page : Nat) (s : State) : State × Bool :=
  let k := cell * 2048 + page
  if s.caseMem.shadow.contains k then (s, true)
  else if s.caseMem.excess.contains cell then (s, false)
  else if shadowCount s cell ≥ 512 then
    (countEvent .cell cell 5 (inDoubt { s with caseMem := { s.caseMem with excess := insertNat s.caseMem.excess cell } }), false)
  else ({ s with caseMem := { s.caseMem with shadow := insertNat s.caseMem.shadow k } }, true)

/-- The bytes of a write that fall into one page. -/
def partIn (size a page : Nat) (bytes : List Byte) : Nat × List Byte :=
  let lo := Nat.max a (page * size)
  (lo, (bytes.drop (lo - a)).take ((page + 1) * size - lo))

/-! ### HBM: the page map -/

/-- The stack of a device address, of a page key or of a physical page (R173). -/
def addrStack (a : Nat) : Nat := a / p2 36

/-- The memory behind an endpoint has a running clock; an access to one whose clock has stopped waits (R406, R407). -/
def epRuns (s : State) : Endpoint → Bool
  | .hbm a => !s.hbm.training.contains (addrStack a) && !s.clocks.stopped.contains (addrStack a / 2)
  | .caseMem c _ => !s.clocks.stopped.contains (cellRegion c)
  | _ => true

def pageStack (k : Nat) : Nat := k / p2 20

/-- The page key of a device address: stack and page (R173). -/
def pageKey (a : Nat) : Nat := a / 65536

/-- The pseudo-channel of a physical page (R172). -/
def pagePc (ppn : Nat) : Nat := ppn % 32

def pageEnt (s : State) (k : Nat) : Option PageEnt := SMap.get? s.hbm.map k

/-- The class of a mapped page. -/
def pageClass (s : State) (k : Nat) : Option Nat := (pageEnt s k).map (·.cls)

/-- A private class (R176). -/
def classPrivate (c : Nat) : Bool := c = 4 || c = 5 || c = 8 || c = 9

/-- The physical page that holds a page as committed. -/
def physOf (s : State) (k : Nat) : Nat :=
  match pageEnt s k with
  | some e => pageStack k * p2 20 + e.ppn
  | none => 0

/-- A physical page the pool never gives: excluded, or of a retiring or retired pseudo-channel (R186, R188). -/
def pageBarred (s : State) (phys : Nat) : Bool :=
  s.hbm.excluded.contains phys || s.hbm.retiring.contains (pageStack phys, pagePc phys)
    || s.hbm.retired.contains (pageStack phys, pagePc phys)

/-- Free physical pages of a stack (R175, R189). -/
def freePages (s : State) (stack : Nat) : Nat :=
  let gone := ((s.hbm.retiring ++ s.hbm.retired).filter (fun p => p.1 = stack)).length
  let pcFree := fun (phys : Nat) => !(s.hbm.retiring ++ s.hbm.retired).contains (stack, pagePc phys)
  let excl := (s.hbm.excluded.filter (fun q => pageStack q = stack && pcFree q)).length
  let used := (s.hbm.taken.filter (fun q => pageStack q = stack && pcFree q && !s.hbm.excluded.contains q)).length
  32768 * (32 - gone) - excl - used

/-- The first free page from a start, in page order around the stack, outside a pseudo-channel if one is barred. -/
def findFree (s : State) (stack : Nat) (notPc : Option Nat) : Nat → Nat → Nat
  | 0, p => stack * p2 20 + p % p2 20
  | n + 1, p =>
    let phys := stack * p2 20 + p % p2 20
    if s.hbm.taken.contains phys || pageBarred s phys || notPc == some (pagePc phys) then findFree s stack notPc n (p + 1)
    else phys

/-- Take a free physical page of a stack (R175, R177); which one is a free value (log entry 7). -/
def takePage (stack : Nat) (notPc : Option Nat) (s : State) : State × Nat :=
  let phys := findFree s stack notPc (p2 20) (Config.pageStart s.hbm.pageIdx)
  ({ s with hbm := { s.hbm with taken := insertNat s.hbm.taken phys, pageIdx := s.hbm.pageIdx + 1 } }, phys)

/-- Return a physical page to the pool. -/
def releasePage (phys : Nat) (s : State) : State :=
  { s with hbm := { s.hbm with taken := s.hbm.taken.filter (· != phys) } }

/-- Staging and delta pages that a stack has taken in the frame (R180). -/
def stagingCount (s : State) (stack : Nat) : Nat :=
  ((s.hbm.localPages.filter (fun p => pageStack p.1 = stack)).length
    + (s.hbm.carPages.filter (fun p => pageStack p.1 = stack)).length)
    + (s.hbm.deltaPages.filter (fun p => pageStack (p.1 / 2) = stack)).length

/-- The effects of a stack that runs out of staging pages (R180), once in the frame. -/
def stagingOverflow (stack : Nat) (s : State) : State :=
  if s.hbm.fullStacks.contains stack then s
  else countEvent .region (stack / 2) 1 (inDoubt { s with hbm := { s.hbm with fullStacks := insertNat s.hbm.fullStacks stack } })

/-- A stack can give one more staging page (R180). -/
def canStage (s : State) (stack : Nat) : Bool := stagingCount s stack < 4096 && freePages s stack > 0

/-- The local copy of a page (R177): the new state, and whether a write lands. -/
def stageLocal (k : Nat) (s : State) : State × Bool :=
  if (SMap.get? s.hbm.localPages k).isSome then (s, true)
  else if canStage s (pageStack k) then
    let r := takePage (pageStack k) none s
    ({ r.1 with hbm := { r.1.hbm with localPages := SMap.put r.1.hbm.localPages k r.2 } }, true)
  else (stagingOverflow (pageStack k) s, false)

/-- The carried page of a page (R177). -/
def stageCarried (k : Nat) (s : State) : State × Bool :=
  if (SMap.get? s.hbm.carPages k).isSome then (s, true)
  else if canStage s (pageStack k) then
    let r := takePage (pageStack k) none s
    ({ r.1 with hbm := { r.1.hbm with carPages := SMap.put r.1.hbm.carPages k r.2 } }, true)
  else (stagingOverflow (pageStack k) s, false)

/-- A delta page of one kind (R177): 0 local, 1 inbound. -/
def stageDelta (kind k : Nat) (s : State) : State × Bool :=
  if (SMap.get? s.hbm.deltaPages (2 * k + kind)).isSome then (s, true)
  else if canStage s (pageStack k) then
    let r := takePage (pageStack k) none s
    ({ r.1 with hbm := { r.1.hbm with deltaPages := SMap.put r.1.hbm.deltaPages (2 * k + kind) r.2 } }, true)
  else (stagingOverflow (pageStack k) s, false)

/-! ### HBM: reads -/

/-- A committed byte of HBM (R177). -/
def hbmByte (s : State) (a : Nat) : Byte := Memory.read s.hbm.mem a

def hbmBytes (s : State) (a n : Nat) : List Byte := Memory.readN s.hbm.mem a n

/-- The poison-table name of the word at an address: physical page and word index (R183). -/
def wordName (s : State) (a : Nat) : Nat × Nat := (physOf s (pageKey a), a % 65536 / 32)

/-- The word at an address is listed in its bezel's poison table. -/
def wordPoisoned (s : State) (a : Nat) : Bool := (pageEnt s (pageKey a)).isSome && s.hbm.poison.contains (wordName s a)

/-- Some word of a range is listed. -/
def rangePoisoned (s : State) (a n : Nat) : Bool := (pagesOf 32 a n).any (fun w => wordPoisoned s (32 * w))

/-- A byte of a typed block read (R183): a chase block that overlaps a listed word has every exponent byte 0xFF; the
elements of a plain tile in a listed word are NaN. -/
def typedByte (s : State) (f base i : Nat) : Byte :=
  if fmtNarrow f then
    if i ≥ blockBytes f - 64 && rangePoisoned s base (blockBytes f) then 0xFF else hbmByte s (base + i)
  else if wordPoisoned s (base + i) then
    (if f = 5 then (if i % 2 = 0 then 0xC0 else 0x7F) else if i % 4 = 2 then 0xC0 else if i % 4 = 3 then 0x7F else 0)
  else hbmByte s (base + i)

/-! ### HBM: writes -/

/-- A write of `n` bytes from an address covers the whole 32-byte word w. -/
def coversWord (a n w : Nat) : Bool := decide (a ≤ 32 * w ∧ 32 * w + 32 ≤ a + n)

/-- A local write into staging (R177): by this chip's cells, bezel operations and firmware. Unmapped pages take none. A word that it writes
whole is no longer listed by an earlier COPY of the frame (R183). -/
def hbmWrite (a : Nat) (bytes : List Byte) (s : State) : State :=
  (pagesOf 65536 a bytes.length).foldl (fun s k =>
    if (pageEnt s k).isNone then s
    else
      match stageLocal k s with
      | (s, false) => s
      | (s, true) =>
        let p := partIn 65536 a k bytes
        { s with hbm := { s.hbm with
            localB := overlayN s.hbm.localB p.1 p.2
            poisonStaged := s.hbm.poisonStaged.filter (fun w => !coversWord p.1 p.2.length w) } }) s

/-- Who writes to case memory (R44, R50): this chip's own sources, an inbound Clasp packet, or a transfer from a bound host buffer. -/
inductive Writer where
  | own | inbound | host
deriving DecidableEq, Repr

/-- The device address of the mirror of a carry page, by its key: the page's place among its cell's carry pages in the cell's carry area
(R245, log entry 29). -/
def mirrorAt (s : State) (k : Nat) : Option Nat :=
  if s.cells.carry.contains k then
    (SMap.get? s.cells.system (k / 2048)).map (fun p => 65536 * p + 4096 * (s.cells.carry.filter (· / 2048 = k / 2048)).idxOf k)
  else none

/-- The sequencer mirrors a write to a carry page as a local write (R245). -/
def mirrorWrite (cell page off : Nat) (bytes : List Byte) (s : State) : State :=
  match mirrorAt s (cell * 2048 + page) with
  | some a => hbmWrite (a + off % 4096) bytes s
  | none => s

/-- Write bytes into one cell's staging (R32, R34), and into the mirror where there is one (R245). -/
def caseWrite (w : Writer) (cell off : Nat) (bytes : List Byte) (s : State) : State :=
  (pagesOf 4096 off bytes.length).foldl (fun s page =>
    match takeShadow cell page s with
    | (s, false) => s
    | (s, true) =>
      let p := partIn 4096 off page bytes
      mirrorWrite cell page p.1 p.2 { s with caseMem := { s.caseMem with
          staged := overlayN s.caseMem.staged (caseKey cell p.1) p.2
          inbound := if w = .inbound then overlayN s.caseMem.inbound (caseKey cell p.1) p.2 else s.caseMem.inbound
          own := if w = .own then overlayN s.caseMem.own (caseKey cell p.1) p.2 else s.caseMem.own
          host := if w = .host then overlayN s.caseMem.host (caseKey cell p.1) p.2 else s.caseMem.host } }) s

/-- A carried write into staging (R177): from the host, or from the fabric; as a local one it ends the listing of what it writes whole. -/
def hbmCarry (host : Bool) (a : Nat) (bytes : List Byte) (s : State) : State :=
  (pagesOf 65536 a bytes.length).foldl (fun s k =>
    if (pageEnt s k).isNone then s
    else
      match stageCarried k s with
      | (s, false) => s
      | (s, true) =>
        let p := partIn 65536 a k bytes
        { s with hbm := { s.hbm with
            carried := s.hbm.carried ++ [{ host := host, addr := p.1, bytes := p.2 }]
            poisonIn := s.hbm.poisonIn.filter (fun w => !coversWord p.1 p.2.length w) } }) s

/-- A write that goes straight into committed data: firmware at load, write-back, restore (R175, R182, R352). A word written whole leaves
the poison table (R183). -/
def hbmPut (a : Nat) (bytes : List Byte) (s : State) : State :=
  let whole := (pagesOf 32 a bytes.length).filter (coversWord a bytes.length)
  { s with hbm := { s.hbm with
      mem := Memory.writeN s.hbm.mem a bytes
      poison := s.hbm.poison.filter (fun p => !whole.any (fun w => (pageEnt s (pageKey (32 * w))).isSome && wordName s (32 * w) == p)) } }

/-- Map one page with a class and a zeroed physical page (R175). -/
def mapPage (cls k : Nat) (s : State) : State :=
  match pageEnt s k with
  | some e => { s with hbm := { s.hbm with map := SMap.put s.hbm.map k { e with cls := cls } } }
  | none =>
    let r := takePage (pageStack k) none s
    { r.1 with hbm := { r.1.hbm with
        map := SMap.put r.1.hbm.map k { ppn := r.2 % p2 20, cls := cls, excluded := false }
        mem := Memory.clear r.1.hbm.mem (k * 65536) 65536 } }

/-- Drop a physical page's listings from a poison table. -/
def dropPoison (phys : Nat) (s : State) : State :=
  { s with hbm := { s.hbm with poison := s.hbm.poison.filter (fun w => w.1 != phys) } }

/-! ### Long tiles (R91, R93) -/

/-- Bytes of a long tile, of a rounded tile and of a lane partial (R93, R161). -/
def longTileBytes : Nat := 12352
def roundedTileBytes : Nat := 4160
def lanePartialBytes : Nat := 1600

/-- Wrap into the 96-bit long word (R80). -/
def wrap96 (x : Int) : Int := signExt 96 (lowBits 96 x)

/-- Put a K range in its place. -/
def ksInsert : List (Nat × Nat) → Nat × Nat → List (Nat × Nat)
  | [], r => [r]
  | x :: rest, r => if r.1 < x.1 then r :: x :: rest else x :: ksInsert rest r

/-- The K range that a header names (R93). -/
def ksOf (first count : Nat) : List (Nat × Nat) := if count = 0 then [] else [(first, count)]

/-- The first index and the number of indices of the K ranges, as a header names them (R93). -/
def ksFirst (ks : List (Nat × Nat)) : Nat := (ks.head?.map (·.1)).getD 0
def ksCount (ks : List (Nat × Nat)) : Nat := (ks.map (·.2)).sum

/-- Two sets of K ranges share no index (R91). -/
def ksApart (xs ys : List (Nat × Nat)) : Bool := xs.all (fun x => ys.all (fun y => decide (x.1 + x.2 ≤ y.1 ∨ y.1 + y.2 ≤ x.1)))

/-- The union of two sets of K ranges (R91). -/
def ksUnion (xs ys : List (Nat × Nat)) : List (Nat × Nat) := ys.foldl ksInsert xs

def LTile.zero (leading : Int) : LTile where
  leading := leading
  below := false
  releaded := false
  nonfinite := false
  segment := 0
  ks := []
  rounded := false
  belowCount := 0
  rowPoison := 0
  colPoison := 0
  elems := []

/-- Element (i, j) of a long tile. -/
def LTile.elem (t : LTile) (i j : Nat) : Int := SMap.getD t.elems (32 * i + j) 0

/-- Read a long tile from bytes (R93). -/
def LTile.parse (rd : Nat → Byte) : LTile :=
  let n := fun (a k : Nat) => leNat ((List.range k).map (fun i => rd (a + i)))
  { leading := signExt 8 (n 0 1)
    below := bitOf (n 1 1) 1
    releaded := bitOf (n 1 1) 2
    nonfinite := bitOf (n 1 1) 0
    segment := n 2 2
    ks := ksOf (n 4 4) (n 8 4)
    rounded := bitOf (n 1 1) 3
    belowCount := n 12 4
    rowPoison := BitVec.ofNat 32 (n 16 4)
    colPoison := BitVec.ofNat 32 (n 20 4)
    elems := (List.range 1024).foldl (fun m e => SMap.putD m e 0 (signExt 96 (n (64 + 12 * e) 12))) [] }

/-- The 12,352 bytes of a long tile (R93). -/
def LTile.bytes (t : LTile) : List Byte :=
  leBytesI 1 t.leading ++ leBytes 1 (bitAt t.nonfinite 0 + bitAt t.below 1 + bitAt t.releaded 2 + bitAt t.rounded 3) ++ leBytes 2 t.segment
    ++ leBytes 4 (ksFirst t.ks) ++ leBytes 4 (ksCount t.ks) ++ leBytes 4 t.belowCount ++ leBytes 4 t.rowPoison.toNat
    ++ leBytes 4 t.colPoison.toNat ++ leBytes 1 0 ++ leBytes 1 1 ++ zeros 38
    ++ ((List.range 1024).map (fun e => leBytesI 12 (SMap.getD t.elems e 0))).flatten

/-- Shift a long word right, toward zero, and whether a nonzero bit was lost (R86, R91). -/
def shiftLong (n : Nat) (x : Int) : Int × Bool :=
  let y := shlTrunc x (-(n : Int))
  (y, decide (y * (p2 n : Int) ≠ x))

/-- Raise a long tile's leading, and how many words lost a bit (R91). -/
def LTile.raise (t : LTile) (lead : Int) : LTile × Nat :=
  if lead ≤ t.leading then (t, 0)
  else
    let n := (lead - t.leading).toNat
    let r := t.elems.map (fun p => (p.1, shiftLong n p.2))
    let lost := (r.filter (fun p => p.2.2)).length
    ({ t with
        leading := lead
        below := t.below || lost > 0
        belowCount := hold32 (t.belowCount + lost)
        elems := (r.map (fun p => (p.1, p.2.1))).filter (fun p => p.2 != 0) }, lost)

/-- Two long partials may lie in one sum (R87): one of them covers no range, or they lie in the same segment. -/
def LTile.meets (x y : LTile) : Bool := x.ks.isEmpty || y.ks.isEmpty || x.segment == y.segment

/-- Two long partials may combine (R91): the ranges that they cover lie in the same segment and are disjoint. -/
def LTile.joins (x y : LTile) : Bool := x.meets y && ksApart x.ks y.ks

/-- Combine two long partials (R91), and the below-window events that the combination counts. -/
def LTile.combine (x y : LTile) : LTile × Nat :=
  let lead := max x.leading y.leading
  let a := x.raise lead
  let b := y.raise lead
  ({ leading := lead
     below := a.1.below || b.1.below
     releaded := a.1.releaded || b.1.releaded
     nonfinite := a.1.nonfinite || b.1.nonfinite
     segment := if a.1.ks.isEmpty then b.1.segment else a.1.segment
     ks := ksUnion a.1.ks b.1.ks
     rounded := false
     belowCount := hold32 (a.1.belowCount + b.1.belowCount)
     rowPoison := a.1.rowPoison ||| b.1.rowPoison
     colPoison := a.1.colPoison ||| b.1.colPoison
     elems := b.1.elems.foldl (fun m p => SMap.putD m p.1 0 (wrap96 (SMap.getD m p.1 0 + p.2))) a.1.elems }, a.2 + b.2)

/-- The value of a long word under a leading (R80). -/
def longDy (lead x : Int) : Dy := ⟨x, lead - 75⟩

/-- A long word rounded to FP32 (R332); one beyond the FP32 range stays as it is, and rounds to infinity where it is read. -/
def roundWord (lead x : Int) : Int :=
  let r := rneF32Pos (longDy lead x)
  if f32Finite r then (DyOp.toUnits (f32Val r) (lead - 75)).1 else x

/-- The elements of a 32 × 32 tile whose sum rounds to an infinity. -/
def LTile.infinite (t : LTile) : List Nat :=
  (t.elems.filter (fun p => !f32Finite (rneF32Pos (longDy t.leading p.2)))).map (·.1)

/-- A tile whose elements are FP32 parts: each of its sums is rounded (R332). A sum that rounds to an infinity stays non-finite, as tree_sum
(R87) keeps it, and marks its row and column as R194 marks a non-finite part (DEDUCED, log entry 20). -/
def LTile.roundFp (t : LTile) : LTile := { t with
  rounded := true
  nonfinite := t.nonfinite || !t.infinite.isEmpty
  rowPoison := t.infinite.foldl (fun m e => m ||| BitVec.ofNat 32 (p2 (e / 32 % 32))) t.rowPoison
  colPoison := t.infinite.foldl (fun m e => m ||| BitVec.ofNat 32 (p2 (e % 32))) t.colPoison
  elems := (t.elems.map (fun p => (p.1, roundWord t.leading p.2))).filter (fun p => p.2 != 0) }

/-- The product limit P of R83 is the smaller of `2 ^ (E + 1)` and `2 ^ (E + 20) / n`: a magnitude lies below it. -/
def belowLimit (lead : Int) (n : Nat) (x : Dy) : Bool :=
  DyOp.lt (DyOp.abs x) ⟨1, lead + 1⟩ && DyOp.lt (DyOp.mul (DyOp.abs x) ⟨n, 0⟩) ⟨1, lead + 20⟩

/-- The least Δ ≥ 1 for which a magnitude lies below the limit at `lead + Δ` (R86). -/
def leastDelta (lead : Int) (n : Nat) (x : Dy) : Nat :=
  let a := DyOp.flog2 x - lead
  let b := DyOp.flog2 (DyOp.mul x ⟨n, 0⟩) - lead - 19
  Nat.max 1 (Nat.max a.toNat b.toNat)

/-! ### Host memory -/

/-- The port of a binding index (R266). -/
def bindPort (b : Nat) : PPort := if b < 128 then .a else .b

def bindOf (s : State) (b : Nat) : Option Bind := SMap.get? (getPPort (bindPort b) s).binds b

/-- The key of a bus address of a port (log entry 5). -/
def busKey (p : PPort) (a : Nat) : Nat :=
  match p with
  | .a => a % p2 64
  | .b => p2 64 + a % p2 64

/-- A transfer can run through its binding now (R255, R267). -/
def dmaReady (s : State) (write : Bool) (b : Nat) : Bool :=
  match bindOf s b with
  | none => false
  | some d =>
    let p := getPPort (bindPort b) s
    (if write then d.canWrite else d.canRead) && p.bme && !p.inReset && !p.d3hot && portServed (bindPort b) s

/-- A range lies inside its binding (R267). -/
def dmaFits (s : State) (b off n : Nat) : Bool :=
  match bindOf s b with
  | none => true
  | some d => off + n ≤ d.length

/-- A byte of host memory through a binding. -/
def hostByte (s : State) (b off : Nat) : Byte :=
  match bindOf s b with
  | none => 0
  | some d => Memory.read s.mbx.hostMem (busKey (bindPort b) (d.address.toNat + off))

/-- Write host memory through a binding. -/
def hostWrite (b off : Nat) (bytes : List Byte) (s : State) : State :=
  match bindOf s b with
  | none => s
  | some d =>
    { s with mbx := { s.mbx with
        hostMem := Memory.writeN s.mbx.hostMem (busKey (bindPort b) (d.address.toNat + off)) bytes } }

/-! ### Statistics (R36) -/

/-- Add to the own part of a tensor's staged statistics. -/
def statOwn (tensor : Nat) (r : StatRec) (s : State) : State :=
  { s with stats := { s.stats with own := SMap.modify s.stats.own tensor StatRec.empty (StatRec.add r) } }

/-- Add to the inbound part. -/
def statIn (tensor : Nat) (r : StatRec) (s : State) : State :=
  { s with stats := { s.stats with inbound := SMap.modify s.stats.inbound tensor StatRec.empty (StatRec.add r) } }

/-- One part or the other: 0 local, 1 inbound (R177, R194). -/
def statPart (kind tensor : Nat) (r : StatRec) (s : State) : State := if kind = 0 then statOwn tensor r s else statIn tensor r s

/-- The format and leading table entry of a tensor, as committed. -/
def tabEntry (s : State) (t : Nat) : Option TabEntry := s.step.table[t]?

/-- The table leading of a tensor. -/
def tabLeading (s : State) (t : Nat) : Int :=
  match tabEntry s t with
  | some e => e.leading
  | none => 0

end Sys2Proof.Machine
end

