-- ==== Sys2Proof/Machine/Route.lean ====
section
/-! DEFINITION. Sending data packets: routes, the usable set, groups and what the frame has sent (R37, R44, R320, R321,
R324 to R327, R329). -/

namespace Sys2Proof.Machine
open Sys2Proof

/-- A group of the installed table by its index. -/
def groupAt (s : State) (g : Nat) : Option Group := s.fabric.groups.find? (fun x => x.index = g)

/-- The groups that the image references, in its order (R230). -/
def referencedGroups (s : State) : List Group :=
  match s.image.img with
  | some i => i.groups.filterMap (groupAt s)
  | none => []

/-- The step group (R329). -/
def stepGroup (s : State) : Option Group := (referencedGroups s).find? (·.step)

/-- The group a send to a chip belongs to: the first referenced group that lists both (log entry 19). -/
def groupFor (s : State) (dst : Nat) : Nat :=
  match (referencedGroups s).find? (fun g => g.members.contains dst && g.members.contains s.dev.fabric) with
  | some g => g.index
  | none => 0xFFFF

/-- The exchange stage of the forme index, from 0 (R196, R331). -/
def exchangeStage (s : State) : Option Nat :=
  match s.image.img with
  | some i =>
    let b := i.hdr.fwd + i.hdr.bwd
    if b ≤ s.frame.formeIdx && decide (s.frame.formeIdx < b + i.hdr.exch) then some (s.frame.formeIdx - b) else none
  | none => none

/-- The port mask of a destination; the entry for the chip's own address is ignored (R326). -/
def routeMask (s : State) (dst : Nat) : Nat := if dst = s.dev.fabric then 0 else SMap.getD s.fabric.routes dst 0

/-- The port mask of a destination (R326), or the stage's mask of the group's schedule for an own send (R329). -/
def sendMask (s : State) (dst group : Nat) : Nat :=
  let table := routeMask s dst
  match exchangeStage s, groupAt s group with
  | some k, some g => if g.schedule.getD k 0 = 0 then table else g.schedule.getD k 0
  | _, _ => table

/-- The port that a packet leaves on (R327); none where the mask names no port of the usable set. -/
def pickPort (s : State) (mask src dst flow : Nat) : Option Nat :=
  let ports := s.fabric.usable.filter (bitOf mask)
  ports[(src ^^^ dst ^^^ flow) % ports.length]?

/-- The count of packets sent to a destination in the frame rises (R324). -/
def noteSend (xfer : Bool) (n dst group : Nat) : List SendRec → List SendRec
  | [] => [{ dst := dst, group := group, xfer := xfer, sent := n, acked := 0 }]
  | r :: rest =>
    if r.dst = dst && r.group = group && r.xfer == xfer then { r with sent := r.sent + n } :: rest else r :: noteSend xfer n dst group rest

/-- The first 32 bits of the domain tick number of the frame. -/
def frameNo (s : State) : W32 := BitVec.ofNat 32 s.tick.domain.toNat

/-- The chip sends data packets: it has an address (R325) and does not replay after a local withhold (R44). -/
def maySend (s : State) : Bool := s.dev.fabric != 0xFFFF && !s.frame.replaying

/-- Make one data packet (R321): it counts as sent to its destination in the frame (R324). -/
def sendData (kind : Nat) (h : PktHdr) (payload : List Byte) (s : State) : State :=
  if !maySend s then s
  else { s with fabric := { s.fabric with
      sends := noteSend h.snapshot 1 h.dst h.group s.fabric.sends
      outbox := s.fabric.outbox ++ [(kind, h, payload)] } }

/-- A header of this chip to an address (R321). -/
def ownHdr (s : State) (chip addr tensor fmt op : Nat) : PktHdr where
  snapshot := false
  rounded := false
  last := false
  dst := chip
  src := s.dev.fabric
  flow := addr / 65536 % 65536
  endpoint := .hbm addr
  frame := frameNo s
  tensor := tensor
  group := groupFor s chip
  fmt := fmt
  op := op
  hops := 64

/-- Send bytes as write packets of at most 16,384 bytes (R321); `bad` names the words that leave as poison (R183). -/
def sendWords (chip addr : Nat) (bytes : List Byte) (bad : List Nat) (s : State) : State :=
  (List.range ((bytes.length + 16383) / 16384)).foldl (fun s i =>
    let h := ownHdr s chip (addr + 16384 * i) 0xFFFF 0xFF 0
    sendData 1 { h with listed := (bad.filter (fun w => w / 512 = i)).map (· % 512) } ((bytes.drop (16384 * i)).take 16384) s) s

/-- Send raw bytes as write packets (R321). -/
def sendRaw (chip addr : Nat) (bytes : List Byte) (s : State) : State := sendWords chip addr bytes [] s

/-- The packets of an item, the last one to each destination with the last flag (R321). -/
def markLast : List (Nat × PktHdr × List Byte) → List (Nat × PktHdr × List Byte)
  | [] => []
  | x :: rest => (x.1, { x.2.1 with last := !rest.any (fun y => y.2.1.dst = x.2.1.dst) }, x.2.2) :: markLast rest

/-- A packet of this chip goes to the port that its route gives it; without one it is discarded (R327). -/
def routeOut (x : Nat × PktHdr × List Byte) (s : State) : State :=
  match pickPort s (sendMask s x.2.1.dst x.2.1.group) s.dev.fabric x.2.1.dst x.2.1.flow with
  | none => s
  | some p => sendOn p (.data (some p) x.1 x.2.1 x.2.2) s

/-- What an item has made goes to the ports (R321, R327). -/
def flushSends (s : State) : State :=
  (markLast s.fabric.outbox).foldl (fun t x => routeOut x t) { s with fabric := { s.fabric with outbox := [] } }

/-! ### Acknowledgement (R324) -/

/-- The packets sent to a destination in the frame. -/
def sentTo (l : List SendRec) (dst : Nat) : Nat := ((l.filter (fun r => r.dst = dst)).map (·.sent)).foldl (· + ·) 0

/-- The running count that a destination has returned. -/
def countFrom (l : List SendRec) (dst : Nat) : Nat := ((l.filter (fun r => r.dst = dst)).map (·.acked)).foldl Nat.max 0

/-- The destination's count has reached every packet sent there in the frame. -/
def ackedTo (l : List SendRec) (dst : Nat) : Bool := sentTo l dst ≤ countFrom l dst

/-- The destinations of a group that have not acknowledged what the frame sent them. -/
def unackedOf (s : State) (group : Nat) : List Nat :=
  (s.fabric.sends.filter (fun r => r.group = group && !r.xfer && !ackedTo s.fabric.sends r.dst)).foldl (fun l r => insertNat l r.dst) []

end Sys2Proof.Machine
end

