-- ==== Sys2Proof/Machine/Placement.lean ====
section
/-! DEFINITION. The memory plan as readers and quantizers use it (R233, R470, R471): which tensor and tile a stored
block belongs to, its tile format map, promotion slots, inclusion lists and forecast vectors. -/

namespace Sys2Proof.Machine
open Sys2Proof

/-- Where a lookup may land: one cell's case memory, one stack, or anywhere on the chip (R470, R471). -/
inductive Space where
  | cell (i : Nat)
  | stack (k : Nat)
  | chip
deriving DecidableEq, Repr

def planOf (s : State) : List MemRec :=
  match s.image.img with
  | some i => i.plan
  | none => []

/-- A placement lies in a space; a fenced cell's placements lie in the cell that runs its forme (R246). -/
def inSpace (s : State) (sp : Space) : Endpoint → Bool
  | .hbm a => match sp with
    | .stack k => addrStack a = k
    | .chip => true
    | .cell _ => false
  | .caseMem c _ => match sp with
    | .cell i => redirect s c = i
    | .chip => true
    | .stack _ => false
  | _ => false

/-- An endpoint moved by bytes. -/
def epAdd (e : Endpoint) (n : Nat) : Endpoint :=
  match e with
  | .hbm a => .hbm (a + n)
  | .caseMem c o => .caseMem c (o + n)
  | .remote c a => .remote c (a + n)
  | .host b o => .host b (o + n)

/-- The bytes from a placement's start to an endpoint of the same kind, when it lies at or behind it. -/
def epOffset (s : State) (base e : Endpoint) : Option Nat :=
  match base, e with
  | .hbm a, .hbm b => if a ≤ b then some (b - a) else none
  | .caseMem c o, .caseMem d q => if redirect s c = redirect s d && o ≤ q then some (q - o) else none
  | _, _ => none

/-- Bytes of one tile of stored blocks (R174). -/
def tileBytes (f : Nat) : Nat := 16 * blockBytes f

/-- The roles whose placements hold stored blocks of a tensor (R233). -/
def dataRole (r : Nat) : Bool := r = 0x00 || r = 0x09 || r = 0x0A || r = 0x0B

/-- The tensor, the tile and the block within the tile of a stored block of a chase or integer tensor (R471). -/
def findBlock (s : State) (e : Endpoint) : Option (Nat × Nat × Nat) :=
  (planOf s).findSome? (fun r =>
    if !dataRole r.role then none
    else
      match tabEntry s r.tensor, epOffset s r.place e with
      | some t, some off =>
        if fmtNarrow t.format && off < r.tileCount * tileBytes t.format then
          some (r.tensor, r.tileFirst + off / tileBytes t.format, off % tileBytes t.format / blockBytes t.format)
        else none
      | _, _ => none)

/-- The placement of a role that covers a tile of a tensor, within a space. Where several cover it, no rule says which one an operation
reads, or a quantizer writes: the model takes the first in plan order for both (DESIGN CHOICE, log entry 36). -/
def sidePlace (s : State) (role tensor tile : Nat) (sp : Space) : Option (Endpoint × Nat) :=
  (planOf s).findSome? (fun r =>
    if r.role = role && r.tensor = tensor && r.tileFirst ≤ tile && tile < r.tileFirst + r.tileCount && inSpace s sp r.place
    then some (r.place, tile - r.tileFirst) else none)

/-- Read a byte at an endpoint on this chip: HBM committed, case memory as the frame sees it, host memory. -/
def epByte (s : State) : Endpoint → Byte
  | .hbm a => hbmByte s a
  | .caseMem c o => caseByte s (redirect s c) o
  | .host b o => hostByte s b o
  | .remote _ _ => 0

def epBytes (s : State) (e : Endpoint) (n : Nat) : List Byte := (List.range n).map (fun i => epByte s (epAdd e i))

/-- Write bytes at an endpoint: on this chip as a local write; host memory takes them as DMA; remote HBM takes them as
write packets (R192). -/
def epWrite (e : Endpoint) (bytes : List Byte) (s : State) : State :=
  match e with
  | .hbm a => hbmWrite a bytes s
  | .caseMem c o => caseWrite .own (redirect s c) o bytes s
  | .host b o => hostWrite b o bytes s
  | .remote c a => sendRaw c a bytes s

/-- A write of an operation: what a host-buffer transfer (`h`) writes on this chip is a write of the host, which a withheld tick carries
forward (R50, R177); any other is the chip's own. -/
def epPut (h : Bool) (e : Endpoint) (bytes : List Byte) (s : State) : State :=
  match h, e with
  | true, .hbm a => hbmCarry true a bytes s
  | true, .caseMem c o => caseWrite .host (redirect s c) o bytes s
  | _, _ => epWrite e bytes s

/-- The byte of the tile format map for a tile (R135); none where no placement covers it. -/
def mapByteOf (s : State) (tensor tile : Nat) (sp : Space) : Option Nat :=
  (sidePlace s 0x03 tensor tile sp).map (fun p => (epByte s (epAdd p.1 p.2)).toNat)

/-- The promotion slot of a tile: sized for the next wider format (R134). -/
def slotOf (s : State) (tensor tile : Nat) (sp : Space) : Option Endpoint :=
  match tabEntry s tensor with
  | none => none
  | some t =>
    match nextWider t.format t.gradient with
    | none => none
    | some w => (sidePlace s 0x02 tensor tile sp).map (fun p => epAdd p.1 (p.2 * tileBytes w))

/-- The inclusion list of a tile (R131). -/
def listOf (s : State) (tensor tile : Nat) (sp : Space) : Option Endpoint :=
  (sidePlace s 0x01 tensor tile sp).map (fun p => epAdd p.1 (64 * p.2))

/-- An activation that forward formes stash: a data placement of the tensor lies in STASH pages (R197, R233). -/
def stashTensor (s : State) (tensor : Nat) : Bool := (planOf s).any (fun r => r.role = 0x00 && r.cls = 2 && r.tensor = tensor)

/-- The format in which a tensor is written: the one that the item names, but for a stashed activation the one that its table entry names,
which the policy may have changed since the image was made (R197; DEDUCED, log entry 36). -/
def outFormat (s : State) (tensor f : Nat) : Nat :=
  match stashTensor s tensor, tabEntry s tensor with
  | true, some t => t.format
  | _, _ => f

/-- Where a stored block that an item names at format `f` lies, and its format: as named, but a block of a stashed activation as its table
entry's format lays it out (R197). -/
def storedAt (s : State) (e : Endpoint) (f : Nat) : Nat × Endpoint :=
  ((planOf s).findSome? (fun r =>
    if r.role != 0x00 || !stashTensor s r.tensor then none
    else
      match tabEntry s r.tensor, epOffset s r.place e with
      | some t, some off =>
        if t.format != f && decide (off < r.tileCount * tileBytes f)
        then some (t.format, epAdd r.place (off / blockBytes f * blockBytes t.format)) else none
      | _, _ => none)).getD (f, e)

/-- Where a block of a tensor that an item names at format `f` goes, `place` being its place by block size: as its table entry's format lays
out the placement that holds it (R197), and outside any placement as the format that is written lies. -/
def writtenAt (s : State) (tensor f : Nat) (place : Nat → Endpoint) : Endpoint :=
  let x := storedAt s (place (blockBytes f)) f
  if x.1 != f then x.2 else place (blockBytes (outFormat s tensor f))

/-- Where a reader takes a stored block from (R471): its own place and format, or the promotion slot at the wider
format. The flag says that the tile is promoted. -/
def blockSource (s : State) (e : Endpoint) (f : Nat) (sp : Space) : Nat × Endpoint × Bool :=
  let x := storedAt s e f
  if !fmtNarrow x.1 then (x.1, x.2, false)
  else
    match findBlock s x.2 with
    | none => (x.1, x.2, false)
    | some (tensor, tile, b) =>
      match mapByteOf s tensor tile sp, slotOf s tensor tile sp, tabEntry s tensor with
      | some w, some slot, some te =>
        if nextWider te.format te.gradient = some w then (w, epAdd slot (b * blockBytes w), true) else (x.1, x.2, false)
      | _, _, _ => (x.1, x.2, false)

/-- The byte reader of a block at an endpoint: typed reads of HBM deliver poison (R183). -/
def blockReader (s : State) (e : Endpoint) (f : Nat) : Nat → Byte :=
  match e with
  | .hbm a => typedByte s f a
  | _ => fun i => epByte s (epAdd e i)

/-- The forecast entry of a tensor column (R69), from its forecast vector (role 0x05); 0xFE where it has none. -/
def forecastOf (s : State) (tensor col : Nat) : Nat :=
  match (planOf s).find? (fun r => r.role = 0x05 && r.tensor = tensor) with
  | some r => (epByte s (epAdd r.place col)).toNat
  | none => 0xFE

/-- A drain of the image fuses an addition into a tensor (R83, R95). -/
def fusesAdd (s : State) (tensor : Nat) : Bool :=
  match s.image.img with
  | some i => (i.formes ++ i.cont.flatMap (·.formes)).any (fun f => f.items.any (fun it => match it.body with
      | .drain d => d.tensor = tensor && d.fusedAdd
      | _ => false))
  | none => false

/-- The declared product count n of a tensor (R83). -/
def productCount (s : State) (tensor : Nat) : Nat :=
  match tabEntry s tensor with
  | none => 1
  | some t =>
    let kPad := ceilDiv t.k 32 * 32
    Nat.min kPad (p2 20) * (if t.inclBudget > 0 then 2 else 1) + (if fusesAdd s tensor then 1 else 0)

/-- The draw of R71 for an element of a tensor, under the step's seed and attempted count (R206). -/
def elementDraw (s : State) (stream : W32) (cols r c : Nat) : Nat :=
  philoxDraw s.step.record.seed s.step.record.attempted stream (r * cols + c)

/-- Write what quantizing one tile gave (R470): its blocks at `at'`, its list, map byte and slot where they lie. -/
def writeTile (h : Bool) (tensor tile : Nat) (t : TileOut) (at' : Nat → Nat → Endpoint) (sp : Space) (s : State) : State :=
  let s := t.blocks.foldl (fun s b => epPut h (at' b.1.1 b.1.2) b.2 s) s
  let s := match t.inclusions, listOf s tensor tile sp with
    | some l, some e => epPut h e l s
    | _, _ => s
  let s := match sidePlace s 0x03 tensor tile sp with
    | some p => epPut h (epAdd p.1 p.2) [BitVec.ofNat 8 t.mapByte] s
    | none => s
  match t.promo, slotOf s tensor tile sp with
  | some bs, some slot =>
    bs.foldl (fun s b => epPut h (epAdd slot ((4 * b.1.1 + b.1.2) * blockBytes t.mapByte)) b.2 s) s
  | _, _ => s

/-- The place of tensor block (p, q) of size `b` at an endpoint (R174, R192): `r0`, `c0`, `n` are the range's first row and
column and its columns, `cols` the tensor's column count. -/
def blockPlace (e : Endpoint) (b r0 c0 n cols p q : Nat) : Endpoint :=
  let inner := 4 * (p % 4) + q % 4
  match e with
  | .hbm _ | .remote _ _ => epAdd e (((p / 4 * ceilDiv cols 128 + q / 4) * 16 + inner) * b)
  | .caseMem _ _ | .host _ _ =>
    let wide := (c0 + n - 1) / 128 - c0 / 128 + 1
    epAdd e ((((p / 4 - r0 / 128) * wide + (q / 4 - c0 / 128)) * 16 + inner) * b)

def srcBlock (d : BezelDesc) (b p q : Nat) : Endpoint := blockPlace d.src b d.rowFirst d.colFirst d.cols d.srcCols p q

def dstBlock (d : BezelDesc) (b p q : Nat) : Endpoint := blockPlace d.dst b d.rowFirst d.colFirst d.cols d.dstCols p q

/-- A long tile, or the lane partial that `size` bytes hold, of committed HBM; a listed word poisons it (R161, R183). -/
def hbmLongTile (s : State) (a size : Nat) : LTile :=
  let t := LTile.parse (fun i => if i < size then hbmByte s (a + i) else 0)
  if rangePoisoned s a size then { t with nonfinite := true, rowPoison := 0xFFFFFFFF } else t

end Sys2Proof.Machine
end

