-- ==== Sys2Proof/Machine/Arrays.lean ====
section
/-! DEFINITION. The matrix arrays: passes, weight exchange and issue (R80 to R93, R101 to R128, R132, R133, R135). -/

namespace Sys2Proof.Machine
open Sys2Proof

/-! ### Cells and items -/

def engOf (s : State) (cell : Nat) : CellEng := SMap.getD s.cells.eng cell CellEng.empty

def setEng (cell : Nat) (e : CellEng) (s : State) : State :=
  { s with cells := { s.cells with eng := SMap.put s.cells.eng cell e } }

def onEng (cell : Nat) (f : CellEng → CellEng) (s : State) : State := setEng cell (f (engOf s cell)) s

/-- A cell has a forme to run: it is ACTIVE and nothing has stopped it in this frame (R25, R127). -/
def cellActive (s : State) (cell : Nat) : Bool :=
  decide (cell < 288) && decide (cellState cell s = .active) && !s.frame.stoppedCells.contains cell

/-- A cell works: it has a forme to run, and the core's and its region's clocks run (R28, R406). -/
def cellWorks (s : State) (cell : Nat) : Bool := coreRuns s && cellActive s cell && !s.clocks.stopped.contains (cellRegion cell)

/-- The records of a cell's forme as the cell runs them: moved formes run on the cell that took them (R246). A bezel unit's
own records stand under 0x0200 + k (R235). -/
def recordsOf (s : State) (cell : Nat) : List FormeRec :=
  match s.image.img with
  | some i => i.formes.filter (fun f => if f.cell < 288 then redirect s f.cell = cell else f.cell = cell)
  | none => []

/-- An item of a cell's step by number. -/
def itemOf (s : State) (cell n : Nat) : Option Item :=
  (recordsOf s cell).findSome? (fun f => f.items.find? (fun it => it.number = n))

/-- The item of a cell that runs with a body completes: a deferrable one sets its bit of the staged done mask (R200). A
command outside any running item completes none. -/
def finishItem (cell : Nat) (b : ItemBody) (s : State) : State :=
  match s.frame.running.find? (fun p => decide (p.1 = cell ∧ (itemOf s cell p.2).map (·.body) = some b)) with
  | none => s
  | some p =>
    let deferred := match itemOf s cell p.2 with
      | some it => it.deferrable
      | none => false
    { s with frame := { s.frame with
        running := s.frame.running.filter (· != p)
        finished := insertPair s.frame.finished p
        doneStaged := if deferred then insertPair s.frame.doneStaged p else s.frame.doneStaged } }

/-! ### Places of the step (R196) -/

/-- The first forme indices of the backward, barrier and optimizer phases, the decision forme and the count of formes. -/
structure StepShape where
  bwd : Nat
  bar : Nat
  dec : Nat
  opt : Nat
  total : Nat
deriving DecidableEq, Repr

def stepShape (s : State) : StepShape :=
  match s.image.img with
  | some i =>
    let b := i.hdr.fwd + i.hdr.bwd
    { bwd := i.hdr.fwd, bar := b, dec := b + i.hdr.exch, opt := b + i.hdr.exch + 1, total := b + i.hdr.exch + 1 + i.hdr.opt }
  | none => { bwd := 0, bar := 0, dec := 0, opt := 0, total := 0 }

/-- Bytes of one tile of a role that holds a working copy and what belongs to it (R131, R134, R135, R233). -/
def workTileBytes (te : TabEntry) (role : Nat) : Nat :=
  if role = 0x01 then 64 else if role = 0x03 then 1
  else if role = 0x02 then (match nextWider te.format te.gradient with
    | some w => tileBytes w
    | none => 0)
  else if role = 0x09 then tileBytes te.format else 0

/-- The working copy that a device address belongs to. -/
def workSource (s : State) (a : Nat) : Option Nat :=
  let works := match s.image.img with
    | some i => i.opt.map OptEntry.work
    | none => []
  (planOf s).findSome? (fun r =>
    match r.place, tabEntry s r.tensor with
    | .hbm b, some te =>
      if works.contains r.tensor && b ≤ a && a < b + r.tileCount * workTileBytes te r.role then some r.tensor else none
    | _, _ => none)

/-- The step is a skipped one, past its decision (R212). -/
def skippedStep (s : State) : Bool :=
  s.frame.inStep && !s.step.regen && decide ((stepShape s).opt ≤ s.frame.formeIdx) && decide (s.step.record.outcome = 2)

/-- An item that sends a working copy does not run in a skipped step, but for a tensor whose format the policy changed (R212, R227). -/
def itemIdle (s : State) (b : ItemBody) : Bool :=
  match b with
  | .bezel 0x01 d =>
    skippedStep s && (match d.src with
      | .hbm a => (match workSource s a with
        | some w => !s.step.changed.contains w
        | none => false)
      | _ => false)
  | _ => false

/-- The item has started in this frame, ran in committed history or earlier in the frame (R200), or does not run in this step (R212). -/
def itemGone (s : State) (cell : Nat) (it : Item) : Bool :=
  itemIdle s it.body || s.frame.started.contains (cell, it.number) || s.frame.doneMask.contains (cell, it.number)
    || s.frame.doneStaged.contains (cell, it.number)

/-- The items of the current forme index that a cell has not started, in forme order (R198). -/
def orderedLeft (s : State) (cell : Nat) : List Item :=
  ((recordsOf s cell).filter (fun r => r.forme = s.frame.formeIdx)).flatMap (fun r =>
    r.items.filter (fun it => !itemGone s cell it))

/-- The next item of an owner with a body: one of its current forme, or a deferrable one whose window is open (R198, R199). -/
def nextItem (s : State) (cell : Nat) (b : ItemBody) : Option Item :=
  let k := s.frame.formeIdx
  let late := (recordsOf s cell).flatMap (fun r => r.items.filter (fun it =>
    it.deferrable && decide (it.earliest ≤ k ∧ k ≤ it.latest) && !itemGone s cell it))
  (orderedLeft s cell ++ late).find? (fun it => it.body = b)

/-- An item that a cell runs has the body. -/
def itemRunning (s : State) (cell : Nat) (b : ItemBody) : Bool :=
  s.frame.running.any (fun p => decide (p.1 = cell ∧ (itemOf s cell p.2).map (·.body) = some b))

/-- An operation of a cell may run: the cell works, and in the lock-up the operation is an item that has started (R38, R127). -/
def mayRun (s : State) (cell : Nat) (b : ItemBody) : Bool := cellWorks s cell && (!s.frame.lockUp || itemRunning s cell b)

/-- The items of the forme records that a cell runs at the current forme index, in forme order. -/
def formeItems (s : State) (cell : Nat) : List Item :=
  ((recordsOf s cell).filter (fun r => r.forme = s.frame.formeIdx)).flatMap (·.items)

/-- An item of a bezel unit completes with its operation: the item that a grant has started, or the next one, which starts with it
(R190, R200). -/
def finishUnit (k : Nat) (b : ItemBody) (s : State) : State :=
  if itemRunning s (512 + k) b then finishItem (512 + k) b s else
  match nextItem s (512 + k) b with
  | none => s
  | some it =>
    let p := (512 + k, it.number)
    { s with frame := { s.frame with
        started := insertPair s.frame.started p
        finished := insertPair s.frame.finished p
        doneStaged := if it.deferrable then insertPair s.frame.doneStaged p else s.frame.doneStaged } }

/-! ### Weight tiles -/

/-- The active columns of a mask. -/
def maskCols (m : Nat) : List Nat := (List.range 128).filter (fun n => bitOf m n)

/-- K_pad of a tensor (R83). -/
def kPadOf (s : State) (tensor : Nat) : Nat :=
  match tabEntry s tensor with
  | some t => ceilDiv t.k 32 * 32
  | none => 0

/-- A value that is not zero: finite nonzero or non-finite. -/
def opLive : OpVal → Bool
  | .nonfinite => true
  | .val m _ => m != 0

/-- Where block (p, q) of a weight tile is read from: its format, its place, and whether its tile is promoted (R105, R135). -/
def weightSource (s : State) (cell : Nat) (d : PassDesc) (p q : Nat) : Nat × Endpoint × Bool :=
  blockSource s (.caseMem cell (d.weightAddr + (4 * p + q) * blockBytes d.weightFmt)) d.weightFmt (.cell cell)

/-- One K-row of a weight tile: K-block p, row i (R105, R114). -/
def weightRow (s : State) (cell : Nat) (d : PassDesc) (k : Nat) : List (Nat × OpVal) :=
  if d.kFirst + k ≥ kPadOf s d.tensor then []
  else
    (List.range 4).flatMap (fun q =>
      let src := weightSource s cell d (k / 32) q
      let rd := blockReader s src.2.1 src.1
      (List.range 32).filterMap (fun j =>
        if bitOf d.colMask (32 * q + j) then
          let v := blockVal src.1 rd (k % 32) j
          if opLive v then some (32 * q + j, v) else none
        else none))

/-- The exponent of a value's lowest set bit. -/
def lowBitExp (m : Nat) (e : Int) : Int := e + (((List.range (m.log2 + 1)).find? (fun i => bitOf m i)).getD 0 : Nat)

/-- w_c(k) of a K-row (R119): the exact sum of its finite values as a 72-bit integer at the least exponent of their lowest bits. -/
def rowSum (row : List (Nat × OpVal)) : Int × Int :=
  let ds := (row.map (fun p => opDy p.2)).filter (fun d => d.m != 0)
  match ds.map (fun d => lowBitExp d.m.natAbs d.e) with
  | [] => (0, 0)
  | x :: xs =>
    let e := xs.foldl min x
    (signExt 72 (lowBits 72 (ds.foldl (fun a d => a + shlTrunc d.m (d.e - e)) 0)), e)

/-- Load a weight tile from case memory (R108, R119); a promoted tile loads at its own format (R135). -/
def loadTile (s : State) (cell : Nat) (d : PassDesc) : WTile :=
  let rows := (List.range 128).map (weightRow s cell d)
  { fmt := d.weightFmt
    own := (weightSource s cell d 0 0).1
    addr := d.weightAddr
    kFirst := d.kFirst
    colMask := d.colMask
    rows := rows
    sums := rows.map rowSum }

/-- A tile is checkable (R119). -/
def tileCheckable (t : WTile) : Bool :=
  t.rows.all (fun row =>
    row.all (fun p => opFinite p.2)
      && (let tops := row.map (fun p => DyOp.flog2 (opDy p.2))
          let lows := row.map (fun p => lowBitExp (opDy p.2).m.natAbs (opDy p.2).e)
          tops.all (fun a => lows.all (fun b => a - b ≤ 63))))

/-! ### Products -/

/-- The exact product of two operand values (R82); the result is non-finite when either is (R89). -/
def opMul : OpVal → OpVal → OpVal
  | .val a x, .val b y => .val (a * b) (x + y)
  | _, _ => .nonfinite

/-- What one stream row, or one inclusion entry, brings to its output row: (column, product) pairs, and the checksum column's
increment (R120). -/
structure RowWork where
  row : Nat
  products : List (Nat × OpVal)
  check : Dy
  rowPoison : Bool
  colPoison : List Nat
  nonfinite : Nat
  entry : Bool
deriving DecidableEq, Repr

/-- Multiply stream values (by K-row) with a weight tile. Every column with a non-finite weight is poisoned, and each non-finite
product counts (R89). -/
def multiplyRow (t : WTile) (row : Nat) (vals : List (Nat × OpVal)) (entry : Bool) : RowWork :=
  let cols := (maskCols t.colMask).length
  let bad := (vals.filter (fun v => !opFinite v.2)).length
  let fin := vals.filter (fun v => opFinite v.2)
  -- an entry meets one K-row; a streamed row meets every K-row of the tile
  let ks := if entry then vals.map (·.1) else List.range 128
  let badCols := fun (k : Nat) => ((t.rows.getD k []).filter (fun p => !opFinite p.2)).map (·.1)
  { row := row
    products := fin.flatMap (fun v =>
      ((t.rows.getD v.1 []).filter (fun p => opFinite p.2)).map (fun p => (p.1, opMul v.2 p.2)))
    check := if entry then ⟨0, 0⟩ else fin.foldl (fun a v =>
      let w := t.sums.getD v.1 (0, 0)
      DyOp.add a (DyOp.mul (opDy v.2) ⟨w.1, w.2⟩)) ⟨0, 0⟩
    rowPoison := bad > 0
    colPoison := ks.flatMap badCols
    nonfinite := bad * cols
      + ((ks.filter (fun k => !vals.any (fun v => v.1 == k && !opFinite v.2))).flatMap badCols).length
    entry := entry }

/-- The largest magnitude of a row's products. -/
def largest (w : RowWork) : Dy :=
  w.products.foldl (fun a p => if DyOp.lt a (DyOp.abs (opDy p.2)) then DyOp.abs (opDy p.2) else a) ⟨0, 0⟩

/-! ### The accumulator store -/

/-- The state that a group has before its first pass. -/
def GroupSt.fresh (lead : Int) : GroupSt := { leading := lead, releaded := false }

/-- A fresh group takes its leading from the table (R89). -/
def groupOf (e : CellEng) (lead : Int) (k : Nat) : GroupSt := SMap.getD e.groups k (GroupSt.fresh lead)

/-- An accumulator row that nothing has entered. -/
def RowSt.empty : RowSt := { ks := [], cols := 0, below := [] }

/-- What an accumulator row has taken, under array * 512 + row. -/
def rowOf (e : CellEng) (k : Nat) : RowSt := SMap.getD e.rows k RowSt.empty

/-- The key of a long word: array, accumulator row, column. -/
def accKey (array row col : Nat) : Nat := (array * 512 + row) * 128 + col

/-- Count below-window events of an accumulator row in a block of 32 columns. -/
def CellEng.lose (k q n : Nat) (e : CellEng) : CellEng :=
  { e with rows := SMap.modify e.rows k RowSt.empty (fun r => { r with below := SMap.modify r.below q 0 (fun c => hold32 (c + n)) }) }

/-- A pass over a K range enters an accumulator row with its active columns. -/
def CellEng.enter (k : Nat) (ks : Nat × Nat) (cols : Nat) (e : CellEng) : CellEng :=
  let y := rowOf e k
  { e with rows := SMap.put e.rows k { y with ks := if ksApart y.ks [ks] then ksInsert y.ks ks else y.ks, cols := y.cols ||| cols } }

/-- Count one below-window event for each of the long words. -/
def CellEng.loseAll (keys : List Nat) (e : CellEng) : CellEng := keys.foldl (fun e k => e.lose (k / 128) (k % 128 / 32) 1) e

/-- Shift every long word of a group right by Δ (R86, part 2), and the long words that lost a bit. -/
def shiftGroup (e : CellEng) (g : Nat) (delta : Nat) : CellEng × List Nat :=
  let r := e.acc.map (fun p => if p.1 / (128 * 128) = g then (p.1, shiftLong delta p.2) else (p.1, (p.2, false)))
  let c := e.sums.map (fun p => if p.1 / 128 = g then (p.1, (shiftLong delta p.2).1) else p)
  let lost := (r.filter (fun p => p.2.2)).map (·.1)
  (({ e with
      acc := (r.map (fun p => (p.1, p.2.1))).filter (fun p => p.2 != 0)
      sums := c.filter (fun p => p.2 != 0) } : CellEng).loseAll lost, lost)

/-- Raise a group's leading by Δ, at most to 127 (R86). -/
def raiseGroup (e : CellEng) (lead0 : Int) (g : Nat) (delta : Nat) : CellEng × Nat :=
  let st := groupOf e lead0 g
  let new := clampI (-128) 127 (st.leading + delta)
  let r := shiftGroup e g (new - st.leading).toNat
  ({ r.1 with groups := SMap.put r.1.groups g { leading := new, releaded := true } }, r.2.length)

/-- Add one finite product into its long word, truncated onto the grid (R84, R85). A product at or above P is left out; at the
leading 127 of a re-lead it poisons its row (R86). The list holds the long words whose product was truncated. -/
def addProduct (array row : Nat) (lead : Int) (n : Nat) (relead : Bool) (acc : CellEng × List Nat) (p : Nat × OpVal) :
    CellEng × List Nat :=
  let e := acc.1
  let d := opDy p.2
  if !belowLimit lead n d then
    (if relead then { e with rowPoison := insertNat e.rowPoison (array * 512 + row) } else e, acc.2)
  else
    let u := DyOp.toUnits d (lead - 75)
    let k := accKey array row p.1
    ({ e with acc := SMap.putD e.acc k 0 (wrap96 (SMap.getD e.acc k 0 + u.1)) }, if u.2 then acc.2 ++ [k] else acc.2)

/-- One row's work added to its output row and to the row's 129th long word (log entry 37). -/
def addRow (array accBase : Nat) (lead0 : Int) (n : Nat) (relead : Bool) (x : CellEng × StatRec) (w : RowWork) : CellEng × StatRec :=
  let row := accBase + w.row
  let g := array * 4 + row / 128
  let lead := (groupOf x.1 lead0 g).leading
  let r := w.products.foldl (addProduct array row lead n relead) (x.1, [])
  let e := r.1
  let c := array * 512 + row
  let e := { e with
    sums := SMap.putD e.sums c 0 (wrap96 (SMap.getD e.sums c 0 + (DyOp.toUnits w.check (lead - 75)).1))
    rowPoison := if w.rowPoison then insertNat e.rowPoison c else e.rowPoison
    colPoison := w.colPoison.foldl (fun l c => insertNat l (g * 128 + c)) e.colPoison }
  (e.loseAll r.2, StatRec.add x.2 { StatRec.empty with belowWindow := r.2.length, nonfinite := w.nonfinite })

/-- A row that the checksum column does not compare at a leading (R120). -/
def rowUnchecked (checkable : Bool) (lead : Int) (n : Nat) (w : RowWork) : Bool :=
  !w.entry && (!checkable || w.rowPoison
    || w.products.any (fun p => (DyOp.toUnits (opDy p.2) (lead - 75)).2 || !belowLimit lead n (opDy p.2)))

/-- Clear one accumulator row (R112, R123): its long words and its row poison bit. A group whose every row has been
cleared resets (R89). -/
def clearRow (array row : Nat) (e : CellEng) : CellEng :=
  let r := array * 512 + row
  let g := array * 4 + row / 128
  let cleared := insertNat e.cleared r
  let e := { e with
    acc := e.acc.filter (fun p => p.1 / 128 != r)
    sums := e.sums.filter (fun p => p.1 != r)
    rowPoison := e.rowPoison.filter (· != r)
    rows := SMap.del e.rows r
    refs := e.refs.filter (fun p => p.1 / 128 != r)
    refRows := e.refRows.filter (· != r)
    refSlabs := SMap.del e.refSlabs r
    cleared := cleared }
  if (cleared.filter (fun q => q / 128 = g)).length < 128 then e
  else
    { e with
      cleared := cleared.filter (fun q => q / 128 != g)
      groups := SMap.del e.groups g
      refCols := e.refCols.filter (fun k => k / 128 != g)
      colPoison := e.colPoison.filter (fun k => k / 128 != g) }

/-! ### Long partials of an earlier frame (R89, R90, R93) -/

/-- The rows of an output strip (R237): array and accumulator row of each strip row. -/
def stripRows (d : DrainDesc) : List (Nat × Nat) :=
  ((List.range 4).filter (fun a => bitOf d.arrays a)).flatMap (fun a => (List.range d.rows).map (fun r => (a, d.accFirst + r)))

/-- The groups a strip drains. -/
def stripGroups (rows : List (Nat × Nat)) : List Nat := (rows.map (fun p => p.1 * 4 + p.2 / 128)).foldl insertNat []

/-- An accumulator row is among the rows that a drain reads. -/
def drainReads (d : DrainDesc) (array row : Nat) : Bool := bitOf d.arrays array && decide (d.accFirst ≤ row ∧ row < d.accFirst + d.rows)

/-- The strip row of an accumulator row that a drain reads. -/
def stripIndex (d : DrainDesc) (array row : Nat) : Nat :=
  ((List.range array).filter (fun a => bitOf d.arrays a)).length * d.rows + (row - d.accFirst)

/-- The drain that ends the accumulation of a pass on an accumulator row: the first one behind the pass in the forme that reads the row
for the pass's tensor. -/
def closingDrain (s : State) (cell : Nat) (d : PassDesc) (array row : Nat) : Option DrainDesc :=
  ((formeItems s cell).dropWhile (fun it => it.body != .pass d)).findSome? (fun it => match it.body with
    | .drain x => if x.tensor = d.tensor && drainReads x array row then some x else none
    | _ => none)

/-- The items of the formes before the one that runs, in forme order, each with the cell or unit that runs it (R246). -/
def earlierItems (s : State) : List (Nat × Item) :=
  match s.image.img with
  | none => []
  | some i => (List.range s.frame.formeIdx).flatMap (fun k =>
      (i.formes.filter (·.forme = k)).flatMap (fun f =>
        f.items.map (fun it => (if f.cell < 288 then redirect s f.cell else f.cell, it))))

/-- Where a stored partial of an output tile lies: in case memory, or in HBM. -/
inductive Left where
  | case (cell off : Nat)
  | hbm (addr : Nat)
deriving DecidableEq, Repr

/-- A 32 × 32 tile of an output tensor: the tensor, and its first row and column. -/
structure OutTile where
  tensor : Nat
  row : Nat
  col : Nat
deriving DecidableEq, Repr

/-- Where a drain that is not final stores an output tile, if its strip holds it (R237). -/
def drainTile (d : DrainDesc) (o : OutTile) : Option Nat :=
  if decide (d.tensor = o.tensor ∧ d.rowFirst ≤ o.row ∧ (o.row - d.rowFirst) % 32 = 0 ∧ o.row < d.rowFirst + (stripRows d).length
      ∧ d.colFirst ≤ o.col ∧ (o.col - d.colFirst) % 32 = 0 ∧ o.col < d.colFirst + 128) then
    some (d.dst + ((o.row - d.rowFirst) / 32 * 4 + (o.col - d.colFirst) / 32) * longTileBytes)
  else none

/-- An output tile lies in the range of a bezel operation. -/
def rangeHolds (d : BezelDesc) (o : OutTile) : Bool :=
  decide (d.rowFirst ≤ o.row ∧ o.row < d.rowFirst + d.rows ∧ d.colFirst ≤ o.col ∧ o.col < d.colFirst + d.cols)

/-- A stored partial behind an operation that adds it into a buffer (R194): the sum holds it, on this chip or on another one. -/
def Left.added (s : State) (d : BezelDesc) (o : OutTile) (p : Left) : Option Left :=
  let at' : Option Left := match srcBlock d longTileBytes (o.row / 32) (o.col / 32) with
    | .caseMem c a => some (.case (redirect s c) a)
    | .hbm a => some (.hbm a)
    | _ => none
  if !rangeHolds d o || at' != some p then some p
  else
    match dstBlock d longTileBytes (o.row / 32) (o.col / 32) with
    | .hbm a => some (.hbm a)
    | _ => none

/-- The stored partials of an output tile behind one more item (R33, R93): a drain of the tile that is not final leaves one, a final one
ends the reduction; a transfer moves one to another cell, a COPY lays another one in HBM, and a REDUCE_ADD brings it into a buffer (R194). -/
def leftBehind (s : State) (o : OutTile) (l : List Left) (x : Nat × Item) : List Left :=
  match x.2.body with
  | .drain d =>
    match drainTile d o with
    | none => l
    | some a => if d.final then [] else l.filter (· != .case x.1 a) ++ [.case x.1 a]
  | .transfer d => l.map (fun p => match p with
    | .case k a =>
      if k = x.1 && decide (d.src ≤ a ∧ a + longTileBytes ≤ d.src + d.length) then .case (redirect s d.dstCell) (d.dst + (a - d.src)) else p
    | .hbm _ => p)
  | .bezel 0x01 d => l ++ l.filterMap (fun p => match p, d.src, d.dst with
    | .hbm a, .hbm b, .hbm c => if decide (b ≤ a ∧ a + longTileBytes ≤ b + d.rows) then some (.hbm (c + (a - b))) else none
    | _, _, _ => none)
  | .bezel 0x09 d => if d.srcFmt = 0xFF then l.filterMap (Left.added s d o) else l
  | _ => l

/-- A REDUCE_CLOSE of the image ends the sum of a buffer (R193). -/
def bufferCloses (s : State) (o : OutTile) (a : Nat) : Bool :=
  match s.image.img with
  | none => false
  | some i => i.formes.any (fun f => f.items.any (fun it => match it.body with
      | .bezel 0x0A x => rangeHolds x o && srcBlock x longTileBytes (o.row / 32) (o.col / 32) == .hbm a
      | _ => false))

/-- The owned buffers of a tensor that hold an output tile (role 0x06 of R233): contributions of other chips arrive there by packets. -/
def ownBuffers (s : State) (o : OutTile) : List Left :=
  match tabEntry s o.tensor with
  | none => []
  | some t =>
    let n := o.row / 128 * ceilDiv t.cols 128 + o.col / 128
    (planOf s).filterMap (fun r => match r.place with
      | .hbm b =>
        if r.role = 0x06 && r.tensor = o.tensor && r.tileFirst ≤ n && n < r.tileFirst + r.tileCount then
          some (.hbm (b + ((n - r.tileFirst) * 16 + 4 * (o.row / 32 % 4) + o.col / 32 % 4) * longTileBytes))
        else none
      | _ => none)

/-- The stored partials that the accumulation of an output tile goes on from (R33, R93): those that lie in the cell's own case memory, and,
where the drain that ends it is the last of the reduction, those of buffers of this chip that nothing closes. Which partials of a tile a
pass goes on from is DEDUCED (log entry 37). -/
def leftFor (s : State) (cell : Nat) (c : DrainDesc) (o : OutTile) : List Left :=
  let items := (earlierItems s).foldl (leftBehind s o) []
  (items ++ (ownBuffers s o).filter (fun p => !items.contains p)).filter (fun p => match p with
    | .case k _ => k = cell
    | .hbm a => c.final && !bufferCloses s o a)

/-- A stored partial. -/
def Left.tile (s : State) : Left → LTile
  | .case k o => LTile.parse (fun i => caseByte s k (o + i))
  | .hbm a => hbmLongTile s a longTileBytes

/-- The K indices of a segment or part (R87, R92). -/
def partWidth (te : TabEntry) : Nat := if te.rounded then ceilDiv te.k 32 * 32 / Nat.max 1 te.parts else p2 20

/-- The segment or part that a K index belongs to (R87, R92). -/
def partOf (te : TabEntry) (k : Nat) : Nat := k / partWidth te

/-- K ranges cover every index from a to b - 1. -/
def ksCover (a b : Nat) (ks : List (Nat × Nat)) : Bool :=
  decide (b ≤ ks.foldl (fun n r => if r.1 ≤ n then Nat.max n (r.1 + r.2) else n) a)

/-- A stored long partial that a pass may go on from (R91): it is one, its elements are long words, it lies in the pass's segment or part,
and its K range does not hold the pass's slab. -/
def goesOnFrom (te : TabEntry) (t : LTile) (kFirst : Nat) : Bool :=
  !t.rounded && !t.ks.isEmpty && partOf te (ksFirst t.ks) == partOf te kFirst && ksApart t.ks [(kFirst, 1)]

/-- The stored partials of one tile combined, from the last one left (R91): one whose range another holds has gone into it. The events
that the combination counts stand beside it. -/
def combineLeft (te : TabEntry) (kFirst : Nat) (l : List LTile) : Option (LTile × Nat) :=
  (l.reverse.filter (goesOnFrom te · kFirst)).foldl (fun x t => match x with
    | none => some (t, 0)
    | some y => if y.1.joins t then (let z := LTile.combine y.1 t; some (z.1, y.2 + z.2)) else some y) none

/-- Put the elements and poison bits of a long tile into those of its accumulator rows that lie in a group. -/
def placeTile (rows : List (Nat × Nat)) (g q : Nat) (t : LTile) (e : CellEng) : CellEng :=
  (List.zip (List.range rows.length) rows).foldl (fun e x =>
    let p := x.2
    if p.1 * 4 + p.2 / 128 != g then e
    else
      { e with
        acc := (List.range 32).foldl (fun m j => SMap.putD m (accKey p.1 p.2 (32 * q + j)) 0 (t.elem x.1 j)) e.acc
        rowPoison := if t.rowPoison.getLsbD x.1 then insertNat e.rowPoison (p.1 * 512 + p.2) else e.rowPoison
        colPoison := (List.range 32).foldl (fun l j => if t.colPoison.getLsbD j then insertNat l (g * 128 + 32 * q + j) else l)
          e.colPoison }) e

/-- Load the combined partials of 32 rows into one group (R89, R91, R93): a fresh group takes their leading; one in use and they go to the
larger of their leadings. The events stand beside the engines. -/
def joinGroup (rows : List (Nat × Nat)) (tiles : List (Nat × LTile)) (x : CellEng × Nat) (g : Nat) : CellEng × Nat :=
  let top := tiles.foldl (fun m t => max m t.2.leading) (-128 : Int)
  let st := SMap.get? x.1.groups g
  let lead := match st with
    | some y => max y.leading top
    | none => top
  let r := match st with
    | some y => shiftGroup x.1 g (lead - y.leading).toNat
    | none => (x.1, [])
  let in' := fun (i : Nat) => decide ((rows[i]?).map (fun p => p.1 * 4 + p.2 / 128) = some g)
  let up := tiles.map (fun t => (t.1, LTile.raise { t.2 with elems := t.2.elems.filter (fun p => in' (p.1 / 32)) } lead))
  let first := ((rows.find? (fun p => p.1 * 4 + p.2 / 128 = g)).map (fun p => p.1 * 512 + p.2)).getD 0
  let e := up.foldl (fun e t => (placeTile rows g t.1 t.2.1 e).lose first t.1 t.2.2) r.1
  ({ e with groups := SMap.put e.groups g { leading := lead, releaded := st.any (·.releaded) || tiles.any (·.2.releaded) } },
    x.2 + r.2.length + (up.map (·.2.2)).sum)

/-- Load the partials that earlier frames left of the 32 rows of an output strip from strip row 32 r on, where they left any (R93). -/
def loadTiles (s : State) (cell kFirst : Nat) (te : TabEntry) (c : DrainDesc) (r : Nat) (x : CellEng × StatRec) : CellEng × StatRec :=
  let rows := ((stripRows c).drop (32 * r)).take 32
  let found := (List.range 4).filterMap (fun q =>
    let o : OutTile := { tensor := c.tensor, row := c.rowFirst + 32 * r, col := c.colFirst + 32 * q }
    (combineLeft te kFirst ((leftFor s cell c o).map (Left.tile s))).map (fun t => (q, t)))
  match found with
  | [] => x
  | t0 :: _ =>
    let y := (stripGroups rows).foldl (joinGroup rows (found.map (fun t => (t.1, t.2.1)))) (x.1, 0)
    let e := rows.foldl (fun (e : CellEng) p =>
      { e with rows := SMap.modify e.rows (p.1 * 512 + p.2) RowSt.empty (fun w => { w with ks := ksUnion w.ks t0.2.1.ks }) }) y.1
    let head := rows.head?.getD (0, 0)
    let e := found.foldl (fun e t => e.lose (head.1 * 512 + head.2) t.1 t.2.1.belowCount) e
    (e, StatRec.add x.2 { StatRec.empty with belowWindow := y.2 + (found.map (·.2.2)).sum })

/-- Load the long partials that earlier frames left of accumulator rows that nothing has entered since they were cleared, before the first
pass that adds to them (R89, R93). -/
def loadRows (s : State) (cell : Nat) (d : PassDesc) (array : Nat) (rows : List Nat) (x : CellEng × StatRec) : CellEng × StatRec :=
  match tabEntry s d.tensor with
  | none => x
  | some te =>
    let strips := rows.foldl (fun (l : List (DrainDesc × Nat)) r =>
      if (SMap.get? x.1.rows (array * 512 + r)).isSome then l
      else match closingDrain s cell d array r with
        | none => l
        | some c => (let p := (c, stripIndex c array r / 32); if l.contains p then l else l ++ [p])) []
    strips.foldl (fun x p => loadTiles s cell d.kFirst te p.1 p.2 x) x

/-! ### The stream -/

/-- Bit s of an array's row mask (R112); all rows are fed without one. -/
def rowFed (s : State) (cell : Nat) (d : PassDesc) (array row : Nat) : Bool :=
  match d.rowMaskAddr with
  | none => true
  | some a => bitOf (caseByte s cell (a + 64 * array + row / 8)).toNat (row % 8)

/-- The rows that an array feeds (R105, R112). -/
def fedRows (s : State) (cell : Nat) (d : PassDesc) (array : Nat) : List Nat :=
  (List.range (d.rows.getD array 0)).filter (rowFed s cell d array)

/-- The K-values of one streamed row that are not zero, and the wider format of a promoted tile (R105, R114, R135). -/
def streamRow (s : State) (cell : Nat) (d : PassDesc) (array row : Nat) : List (Nat × OpVal) × Option Nat :=
  let parts := (List.range 4).map (fun p =>
    if d.kFirst + 32 * p ≥ kPadOf s d.tensor then ([], none)
    else
      let e := Endpoint.caseMem cell (d.streamAddr.getD array 0 + (4 * (row / 32) + p) * blockBytes d.streamFmt)
      let src := blockSource s e d.streamFmt (.cell cell)
      let rd := blockReader s src.2.1 src.1
      ((List.range 32).filterMap (fun j =>
        let v := blockVal src.1 rd (row % 32) j
        if opLive v then some (32 * p + j, v) else none), if src.2.2 then some src.1 else none))
  (parts.flatMap (·.1), parts.findSome? (·.2))

/-- The inclusion entries that apply to one stream tile of an array (R133): (stream row, K-row in the slab, residual). -/
def tileEntries (s : State) (cell : Nat) (d : PassDesc) (array ti : Nat) : List (Nat × Nat × OpVal) :=
  let e := Endpoint.caseMem cell (d.streamAddr.getD array 0 + 16 * ti * blockBytes d.streamFmt)
  match findBlock s e with
  | none => []
  | some (tensor, tile, _) =>
    match tabEntry s tensor, listOf s tensor tile (.cell cell) with
    | some t, some l =>
      if t.inclBudget = 0 || (blockSource s e d.streamFmt (.cell cell)).2.2 then []
      else
        let c0 := tile % ceilDiv t.cols 128 * 128
        (List.range 16).filterMap (fun i =>
          let w := leNat (epBytes s (epAdd l (4 * i)) 4)
          let res := w / 65536
          let col := c0 + w / 128 % 128
          if res = 0 || col < d.kFirst || col ≥ d.kFirst + 128 then none
          else some (128 * ti + w % 128, col - d.kFirst, f32Op (bf16ToF32 (BitVec.ofNat 16 res))))
    | _, _ => []

/-! ### The reference buffer (R99, R308) -/

/-- Reference mode computes a tensor's output a second time. -/
def refMode (s : State) (tensor : Nat) : Bool := s.step.refTensors.contains tensor

/-- The products of one streamed row with operands rounded to BF16, by column (R99). -/
def refProducts (t : WTile) (vals : List (Nat × OpVal)) : List (Nat × Dy) :=
  vals.flatMap (fun v => match bf16Op v.2 with
    | .nonfinite => []
    | .val m e => (t.rows.getD v.1 []).filterMap (fun p => match bf16Op p.2 with
      | .val a b => if m * a = 0 then none else some (p.1, ⟨m * a, e + b⟩)
      | .nonfinite => none))

/-- Add a streamed row to the reference buffer. -/
def refRow (array accBase : Nat) (t : WTile) (row : Nat) (vals : List (Nat × OpVal)) (e : CellEng) : CellEng :=
  let r := accBase + row
  let bad := vals.any (fun v => bf16Op v.2 == .nonfinite)
  let cols := (t.rows.flatMap (fun w => (w.filter (fun p => bf16Op p.2 == .nonfinite)).map (·.1)))
  { e with
    refs := (refProducts t vals).foldl (fun m p =>
      SMap.modify m (accKey array r p.1) [] (fun l => l ++ [{ segment := t.kFirst / p2 20, value := p.2 }])) e.refs
    refRows := if bad then insertNat e.refRows (array * 512 + r) else e.refRows
    refCols := cols.foldl (fun l c => insertNat l ((array * 4 + r / 128) * 128 + c)) e.refCols }

/-- The reference products of a row now cover a slab of K. -/
def refSlab (array kFirst : Nat) (e : CellEng) (row : Nat) : CellEng :=
  { e with refSlabs := SMap.modify e.refSlabs (array * 512 + row) [] (fun l =>
      if l.contains (kFirst, 128) then l else ksInsert l (kFirst, 128)) }

/-- The largest product exponent in the reference buffer of a tensor's pass (R99). -/
def refMeasure (t : WTile) (rows : List (List (Nat × OpVal))) : Option Int :=
  (rows.flatMap (refProducts t)).foldl (fun m p => maxLead m (some (DyOp.flog2 p.2))) none

/-- Note a measured exponent of a tensor with the frame. -/
def noteTop (tensor : Nat) (m : Option Int) (s : State) : State :=
  match m with
  | none => s
  | some x =>
    let top := match SMap.get? s.step.refTopStaged tensor with
      | some y => max x y
      | none => x
    { s with step := { s.step with refTopStaged := SMap.put s.step.refTopStaged tensor top } }

/-! ### A pass on the arrays -/

/-- A stretch of site-cycles of an array (R103, R124, R125): rows of `c` cycles and the entries behind them, the rows that its run compares,
and whether the array has stopped before it. -/
structure IssueSlot where
  c : Nat
  fed : List Nat
  extra : Nat
  compared : List Nat
  cut : Bool
deriving DecidableEq, Repr

/-- The site-cycles of a stretch. -/
def IssueSlot.size (x : IssueSlot) : Nat := x.c * x.fed.length + x.extra

/-- What a pass gives: the engines, the tensor's counts, the rows that the checksum column left out, and the stretches that each array
has issued (R103, R120, R124, R125). -/
structure PassOut where
  eng : CellEng
  stat : StatRec
  unchecked : Nat
  slots : SMap (List IssueSlot)
deriving DecidableEq, Repr

/-- One run of passes of one array over its rows and entries (R86, R89, R124): find Δ, re-lead the groups it updates if a product reaches
P, add every product once, mark rows and groups, and count. The rows of the first run and of the negated run count as unchecked at the
leading before the raise, those of the repeat at the leading after it. A pass that stops has no close and so no re-lead (R121). Nothing
issues while a re-lead shifts, so its third run starts on a stopped array (R116, R124). DESIGN CHOICE (log entry 37): the first run and the
negated run issue without a stop between them, their truncations count no below-window event, and where the groups of a pass have different
leadings the largest Δ that any of its rows needs raises each of them. -/
def arrayPass (array accBase : Nat) (lead0 : Int) (n : Nat) (t : WTile) (kLen : Nat) (stops : Bool) (slot : IssueSlot) (work : List RowWork)
    (x : PassOut) : PassOut :=
  if work.isEmpty then x
  else
    let e := x.eng
    let gOf := fun (w : RowWork) => array * 4 + (accBase + w.row) / 128
    let groups := (work.map gOf).foldl insertNat []
    let leadOf := fun (e : CellEng) (w : RowWork) => (groupOf e lead0 (gOf w)).leading
    let delta := if stops then 0 else work.foldl (fun d w =>
      if belowLimit (leadOf e w) n (largest w) then d else Nat.max d (leastDelta (leadOf e w) n (largest w))) 0
    let skipped := fun (e : CellEng) => (work.filter (fun w => rowUnchecked (tileCheckable t) (leadOf e w) n w)).length
    let kept := fun (e : CellEng) => (work.filter (fun w => !w.entry && !rowUnchecked (tileCheckable t) (leadOf e w) n w)).map (·.row)
    -- part 2 of R86
    let r := if delta = 0 then (e, 0) else groups.foldl (fun x g => let y := raiseGroup x.1 lead0 g delta; (y.1, x.2 + y.2)) (e, 0)
    let top := groups.foldl (fun m g => max m (groupOf r.1 lead0 g).leading) (-128 : Int)
    let st0 := { StatRec.empty with
      belowWindow := r.2, relead := if delta = 0 then 0 else 1, leading := if delta = 0 then none else some top }
    -- the groups take their leading, the rows their K range and columns
    let e1 := groups.foldl (fun (e : CellEng) g => { e with groups := SMap.put e.groups g (groupOf e lead0 g) }) r.1
    let e2 := work.foldl (fun e w => e.enter (array * 512 + accBase + w.row) (t.kFirst, kLen) t.colMask) e1
    let out := work.foldl (addRow array accBase lead0 n (delta != 0)) (e2, st0)
    let first := { slot with compared := kept e }
    { eng := out.1
      stat := StatRec.add x.stat out.2
      unchecked := x.unchecked + (if delta = 0 then skipped e else 2 * skipped e + skipped r.1)
      slots := SMap.modify x.slots array [] (fun l =>
        l ++ (if delta = 0 then [first] else [first, first, { slot with compared := kept r.1, cut := true }])) }

/-- Nibbles of an operand (R103). -/
def nibbles (f : Nat) : Nat := if f = 4 || f = 5 then 2 else 1

/-- The cycles c of a streamed row (R103). -/
def rowCycles (streamFmt weightFmt : Nat) : Nat := nibbles streamFmt * nibbles weightFmt

/-- The inclusion entries that an array meets in a pass: those of its fed rows (R125, R133). -/
def passEntries (s : State) (cell : Nat) (d : PassDesc) (array : Nat) : List (Nat × Nat × OpVal) :=
  let fed := fedRows s cell d array
  ((List.range (ceilDiv (d.rows.getD array 0) 128)).flatMap (tileEntries s cell d array)).filter (fun en => fed.contains en.1)

/-- The stream tiles of rows, in ascending order: the rows of each. -/
def byTile {α : Type} (rows : List (Nat × α)) : List (List (Nat × α)) :=
  ((List.range 4).map (fun ti => rows.filter (fun r => r.1 / 128 = ti))).filter (fun l => !l.isEmpty)

/-- One array's part of a pass: zero-fill, the long partials it goes on from, the pass over its own rows and entries, then a tile repeat
for each promoted tile that it streams (R93, R112, R135). Under `limit` the array stops before that row (R121). DESIGN CHOICE (log entry
37): R112 has zero-fill clear rows during the pass; the model clears them before the pass's first update. -/
def runArray (s : State) (cell : Nat) (d : PassDesc) (t : WTile) (limit : Option Nat) (array : Nat) (x : PassOut) : PassOut :=
  let n := d.rows.getD array 0
  let fed := fedRows s cell d array
  let e0 := if d.zeroFill then
      ((List.range n).filter (fun r => !fed.contains r)).foldl (fun e r => clearRow array (d.accBase + r) e) x.eng
    else x.eng
  let l := loadRows s cell d array (fed.map (d.accBase + ·)) (e0, StatRec.empty)
  let rows := fed.map (fun r => (r, streamRow s cell d array r))
  let before := fun (r : Nat) => match limit with
    | none => true
    | some m => decide (r < m)
  let narrow := rows.filter (fun r => r.2.2.isNone)
  let stopsIn := fun (l : List (Nat × List (Nat × OpVal) × Option Nat)) => limit.any (fun m => l.any (fun r => r.1 = m))
  let entries := passEntries s cell d array
  let mul := fun (r : Nat × (List (Nat × OpVal) × Option Nat)) => multiplyRow t r.1 r.2.1 false
  let all := narrow.map mul ++ entries.map (fun en => multiplyRow t en.1 [(en.2.1, en.2.2)] true)
  let lead := tabLeading s d.tensor
  let np := productCount s d.tensor
  let k := match tabEntry s d.tensor with
    | some te => te.k
    | none => 0
  let kLen := Nat.min 128 (k - d.kFirst)
  let slot := fun (f : Nat) (l : List (Nat × List (Nat × OpVal) × Option Nat)) (extra : Nat) =>
    ({ c := rowCycles f t.own, fed := l.map (·.1), extra := extra, compared := [], cut := false } : IssueSlot)
  let pass := fun (l : List (Nat × List (Nat × OpVal) × Option Nat)) f extra work (x : PassOut) =>
    arrayPass array d.accBase lead np t kLen (stopsIn l) (slot f l extra) (if stopsIn l then work.filter (fun w => before w.row) else work) x
  let a := pass narrow d.streamFmt entries.length all { x with eng := l.1, stat := StatRec.add x.stat l.2 }
  let b := if stopsIn narrow then a
    else (byTile (rows.filter (fun r => r.2.2.isSome))).foldl (fun (x : PassOut) l =>
      pass l ((l.head?.bind (·.2.2)).getD d.streamFmt) 0 ((l.map mul).filter (fun w => before w.row)) x) a
  if refMode s d.tensor then
    let e := rows.foldl (fun e r => refRow array d.accBase t r.1 r.2.1 e) b.eng
    { b with eng := (List.range n).foldl (fun e r => refSlab array t.kFirst e (d.accBase + r)) e }
  else b

/-! ### Runs (R102, R110, R112, R116) -/

/-- Load cycles of a weight tile (R108, R114). -/
def loadCycles (f kb : Nat) : Nat := (if f = 4 || f = 5 then 1024 else 512) * kb / 4

/-- The K-blocks of a pass that hold K indices (R105, R114). -/
def passBlocks (t : State) (d : PassDesc) : Nat := Nat.min 4 (ceilDiv (kPadOf t d.tensor - d.kFirst) 32)

/-- The work of a pass: c × m, with m the largest fed-row count (R112, R238). -/
def passWork (m : Nat) (d : PassDesc) : Nat := rowCycles d.streamFmt d.weightFmt * m

/-- The rows that an array feeds in the pass itself: those of promoted tiles come behind it in tile repeats (R135). -/
def narrowRows (s : State) (cell : Nat) (d : PassDesc) (a : Nat) : List Nat :=
  (fedRows s cell d a).filter (fun r => (streamRow s cell d a r).2.isNone)

/-- The most fed rows of the four arrays (R102). -/
def mostFed (s : State) (cell : Nat) (d : PassDesc) : Nat :=
  ((List.range 4).map (fun a => (narrowRows s cell d a).length)).foldl Nat.max 0

/-- The format that the weight tile of a pass is stored in, behind a tile of format `own` (R109, R135). -/
def ownFormat (s : State) (cell own : Nat) (d : PassDesc) : Nat := if d.reuse then own else (weightSource s cell d 0 0).1

/-- The site-cycles that an array has planned in a pass on a tile of format `own` (R103, R125, R135). -/
def plannedWork (s : State) (cell own : Nat) (d : PassDesc) (a : Nat) : Nat :=
  ((fedRows s cell d a).map (fun r => rowCycles ((streamRow s cell d a r).2.getD d.streamFmt) own)).sum + (passEntries s cell d a).length

/-- The passes that chain to a pass of the forme (R106, R236). -/
def chained (s : State) (cell : Nat) (d : PassDesc) : List PassDesc :=
  ((((formeItems s cell).dropWhile (fun it => it.body != .pass d)).drop 1).filterMap (fun it => match it.body with
    | .pass p => some (it.runStart, p)
    | _ => none)).takeWhile (fun p => !p.1) |>.map (·.2)

/-- A weight wait that the descriptors show: the work of a pass is shorter than the load of the next tile (R110). -/
def plannedWait (s : State) (cell : Nat) (d next : PassDesc) : Bool :=
  !next.reuse && decide (passWork (mostFed s cell d) d < loadCycles next.weightFmt (passBlocks s next))

/-- A weight wait: a promoted tile runs and loads at its own format (R108, R110, R135). -/
def weightWaits (s : State) (cell own : Nat) (d next : PassDesc) : Bool :=
  !next.reuse && decide (rowCycles d.streamFmt own * mostFed s cell d < loadCycles (ownFormat s cell own next) (passBlocks s next))

/-- An array's run ends with a pass in front of the next one, as planned: its rows run out before the longest array's (R102), the next
pass feeds it none (R112), or a weight wait that the descriptors show follows (R110). -/
def runEnds (s : State) (cell a own : Nat) (d next : PassDesc) : Bool :=
  decide ((narrowRows s cell d a).length < mostFed s cell d) || (fedRows s cell next a).isEmpty
    || (plannedWait s cell d next && weightWaits s cell own d next)

/-- The site-cycles that an array's run has planned behind a pass. -/
def runBehind (s : State) (cell a : Nat) : Nat → PassDesc → List PassDesc → Nat
  | _, _, [] => 0
  | own, d, p :: rest =>
    if runEnds s cell a own d p then 0
    else
      let next := ownFormat s cell own p
      plannedWork s cell next p a + runBehind s cell a next p rest

/-- How the issue of an array ends with a pass on a tile of format `own` (R102, R110, R116, R128): a weight wait that no descriptor shows
stops it with filler, and so does the end of its rows while other arrays of the pass still wait (`held`). -/
def issueEnd (s : State) (cell a own : Nat) (d : PassDesc) (held : List Nat) : IssueEnd :=
  match chained s cell d with
  | [] => .ramps
  | p :: _ =>
    if runEnds s cell a own d p then .ramps
    else if !held.isEmpty || weightWaits s cell own d p then .filler else .goesOn

/-- How an array's rows mismatch in a pass: the failing rows in time order, each with the stretch of the pass that it fails in (its rows,
a tile repeat, or one of the three runs of a re-lead, R124, R135), and the row that stops the array. -/
structure Retry where
  events : List (Nat × Nat)
  stop : Option Nat
deriving DecidableEq, Repr

/-- One more mismatch of an array (R121): a row that is compared and has not been verified yet, in the first stretch that still compares
it. Rows before the failing row are not issued again in the same stretch, and a third mismatch of a row stops the array, behind which
nothing is compared. -/
def Retry.add (slots : List IssueSlot) (x : Retry) (row : Nat) : Retry :=
  let last := x.events.getLast?.getD (0, 0)
  let left := (List.zip (List.range slots.length) slots).find? (fun p =>
    p.2.compared.contains row && decide (last.1 < p.1 ∨ (last.1 = p.1 ∧ last.2 ≤ row)))
  match x.stop, left with
  | none, some p =>
    let ev := x.events ++ [(p.1, row)]
    { events := ev, stop := if (ev.filter (·.2 = row)).length ≥ 3 then some row else none }
  | _, _ => x

/-- What the mismatches of a pass come to on an array (R121). -/
def retryOf (r : PassOut) (mm : List (Nat × Nat)) (a : Nat) : Retry :=
  ((mm.filter (·.1 = a)).map (·.2)).foldl (Retry.add (SMap.getD r.slots a [])) { events := [], stop := none }

/-- An array through the stretches of its part of a pass, from stretch k on (R116, R121, R124): at each failing row it stops with filler and
issues again from that row, before a cut it ramps down, and its last stretch ends as `fin` says. -/
def issueSlots (ceil after : Nat) (fin : IssueEnd) (w : Retry) : Nat → List IssueSlot → ArraySt → ArraySt
  | _, [], st => st
  | k, x :: rest, st =>
    let behind := ((rest.takeWhile (fun y => !y.cut)).map IssueSlot.size).sum + (if rest.any (·.cut) || fin = .ramps then 0 else after)
    let r := (w.events.filter (·.1 = k)).foldl (fun (y : ArraySt × Nat) e =>
      let upTo := x.c * (x.fed.filter (· < e.2)).length
      (y.1.fail ceil (x.size - y.2) behind (upTo + x.c - y.2), upTo)) (st, 0)
    if w.stop.isSome && w.events.all (fun e => decide (e.1 ≤ k)) then r.1
    else
      let goesOn := match rest with
        | [] => fin
        | y :: _ => if y.cut then .ramps else .goesOn
      issueSlots ceil after fin w (k + 1) rest (r.1.issueTo ceil (x.size - r.2) behind goesOn)

/-- Arrays after a pass on them, on a tile of format `own`, while `held` still wait (R102, R112, R116). -/
def issuePass (s : State) (cell mode own : Nat) (d : PassDesc) (arrs held : List Nat) (retry : Nat → Retry) (slots : SMap (List IssueSlot))
    (e : CellEng) : CellEng :=
  { e with arrays := (List.range 4).map (fun a =>
      let st := e.arrays.getD a ArraySt.reset
      if !arrs.contains a then st
      else issueSlots (ceilingOf mode s cell) (runBehind s cell a own d (chained s cell d)) (issueEnd s cell a own d held) (retry a) 0
        (SMap.getD slots a []) st) }

/-! ### The commands -/

/-- A loaded tile is the one that a descriptor names. -/
def WTile.fits (t : WTile) (d : PassDesc) : Bool :=
  decide (t.fmt = d.weightFmt ∧ t.addr = d.weightAddr ∧ t.kFirst = d.kFirst ∧ t.colMask = d.colMask)

/-- The tile that a pass runs on: under reuse the one in use, else the one that a swap has brought in for it, else the one loaded behind
it, which its start swaps in, else one that it loads (R105, R109); a pass that goes on on held arrays keeps the tile in use. DESIGN CHOICE
(log entry 37): a reuse pass with no tile in use loads the tile that its descriptor names, whose column mask is 0. -/
def passTile (s : State) (cell : Nat) (d : PassDesc) : WTile :=
  let e := engOf s cell
  if d.reuse || e.held.isSome then e.active.getD (loadTile s cell d)
  else
    match e.active.filter (fun t => e.swapped && t.fits d), e.next.filter (·.fits d) with
    | some t, _ => t
    | none, some t => t
    | none, none => loadTile s cell d

/-- The descriptors of the passes of a cell that load a tile and have not started, in forme order (R105). -/
def passesLeft (s : State) (cell : Nat) : List PassDesc :=
  (orderedLeft s cell).filterMap (fun it => match it.body with
    | .pass d => if d.reuse then none else some d
    | _ => none)

/-- The load of the tile behind the one in use, which starts on the edge that swaps the latter in (R105, R109). -/
def followingTile (s : State) (cell : Nat) (now : Option WTile) : Option WTile :=
  let left := passesLeft s cell
  (match now, left with
    | some t, d :: rest => if t.fits d then rest else left
    | _, _ => left).head?.map (loadTile s cell)

/-- Mismatches that happen (R121): each counts one event of "array checksum". -/
def checksumEvents (cell : Nat) (arrs : List Nat) (retry : Nat → Retry) (s : State) : State :=
  arrs.foldl (fun s a => (retry a).events.foldl (fun s _ => countEvent .cell cell 0 s) s) s

/-- The arithmetic of a pass on arrays of a cell (R101 to R135), with the rows where arrays stop. The first arrays of a pass swap its tile
in, and the load of the one behind it starts. -/
def passArrays (limit : Nat → Option Nat) (arrs : List Nat) (s : State) (cell : Nat) (d : PassDesc) : PassOut :=
  let t := passTile s cell d
  let e := engOf s cell
  let fresh := !d.reuse && e.held.isNone && !(e.swapped && e.active.any (·.fits d))
  let e := { e with
    active := some t
    next := if fresh then followingTile s cell (some t) else e.next
    swapped := false }
  arrs.foldl (fun x a => runArray s cell d t (limit a) a x)
    ({ eng := e, stat := StatRec.empty, unchecked := 0, slots := [] } : PassOut)

/-- What the mismatches of a pass on arrays of a cell come to. -/
def passRetry (arrs : List Nat) (s : State) (cell : Nat) (d : PassDesc) (mm : List (Nat × Nat)) (a : Nat) : Retry :=
  retryOf (passArrays (fun _ => none) arrs s cell d) mm a

/-- A pass on arrays of a cell with its mismatches and their issue, while the arrays `held` wait. -/
def passResult (mode : Nat) (arrs held : List Nat) (s : State) (cell : Nat) (d : PassDesc) (mm : List (Nat × Nat)) : PassOut :=
  let retry := passRetry arrs s cell d mm
  let r := passArrays (fun a => (retry a).stop) arrs s cell d
  { r with eng := issuePass s cell mode (passTile s cell d).own d arrs held retry (passArrays (fun _ => none) arrs s cell d).slots r.eng }

/-- The rows of the reference pass of arrays, for its measurement (R99). -/
def passRows (arrs : List Nat) (s : State) (cell : Nat) (d : PassDesc) : List (List (Nat × OpVal)) :=
  arrs.flatMap (fun a => (fedRows s cell d a).map (fun r => (streamRow s cell d a r).1))

/-- A pass that waits for its rows, on the arrays `rest`, which stop with filler (R123, R126). -/
def holdPass (mode cell : Nat) (w : HeldPass) (s : State) : State :=
  onEng cell (fun e => { e with
    held := some w
    arrays := (List.range 4).map (fun a =>
      let st := e.arrays.getD a ArraySt.reset
      if w.arrays.contains a then st.stop (ceilingOf mode s cell) else st) }) s

/-- A pass runs on the arrays `arrs`, and waits on those of `w`: the mismatches of compared rows count and repeat; the tensor's counts go to
the staged statistics (R36, R120, R121). A third mismatch of a row stops its array, whose rows before it keep their updates, and puts the
frame in doubt. Its item completes with its last array. -/
def passNow (mode cell : Nat) (arrs : List Nat) (w : HeldPass) (s : State) : State :=
  let d := w.desc
  let r := passResult mode arrs w.arrays s cell d w.mismatches
  let retry := passRetry arrs s cell d w.mismatches
  let s1 := statOwn d.tensor r.stat (setEng cell { r.eng with held := none } s)
  let s2 := { s1 with cells := { s1.cells with unchecked := SMap.modify s1.cells.unchecked cell 0 (fun c => c + r.unchecked) } }
  let s3 := if refMode s d.tensor then noteTop d.tensor (refMeasure (passTile s cell d) (passRows arrs s cell d)) s2 else s2
  let s4 := checksumEvents cell arrs retry s3
  if arrs.any (fun a => (retry a).stop.isSome) then inDoubt s4
  else if w.arrays.isEmpty then finishItem cell (.pass d) s4
  else holdPass mode cell w s4

/-- The accumulator rows that a pass updates on an array: those it feeds, and those that its zero-fill clears (R112). -/
def updatedRows (s : State) (cell : Nat) (d : PassDesc) (a : Nat) : List Nat :=
  if d.zeroFill then List.range (d.rows.getD a 0) else fedRows s cell d a

/-- The arrays whose rows a waiting drain has not cleared (R123, R126). -/
def blockedArrays (s : State) (cell : Nat) (d : PassDesc) : List Nat :=
  (List.range 4).filter (fun a => (updatedRows s cell d a).any (fun r =>
    (engOf s cell).waiting.any (fun w => drainReads w a (d.accBase + r))))

/-- PASS (R106): a pass that may run, on arrays that may issue under q_mode `mode` (R115), and behind no pass that waits. It runs on the
arrays whose rows are clear and waits on the others (R126). -/
def runPassAt (mode cell : Nat) (d : PassDesc) (mm : List (Nat × Nat)) (s : State) : State :=
  if !mayRun s cell (.pass d) || ceilingOf mode s cell = 0 || (engOf s cell).held.isSome then s
  else
    let w := blockedArrays s cell d
    passNow mode cell ((List.range 4).filter (fun a => !w.contains a)) { desc := d, mismatches := mm, arrays := w, drains := [] } s

/-- A pass of a frame. -/
def runPass (cell : Nat) (d : PassDesc) (mm : List (Nat × Nat)) (s : State) : State := runPassAt 64 cell d mm s

def execPass (cell : Nat) (d : PassDesc) (mismatches : List (Nat × Nat)) (s : State) : Out :=
  effect (runPass cell d mismatches) s

/-- WEIGHT_SWAP (R109): the loaded tile replaces the tile in use, and the load of the following tile starts. A swap that falls due before
the load is complete is a weight wait that was not planned: the arrays stop with filler (R128). While a pass waits on some of its arrays
the swap waits for them (R102, R128). -/
def runWeightSwap (cell : Nat) (s : State) : State :=
  if (engOf s cell).held.isSome then s
  else match (engOf s cell).next with
  | some t => onEng cell (fun e => { e with active := some t, next := followingTile s cell (some t), swapped := true }) s
  | none => if (passesLeft s cell).isEmpty then s else onEng cell (CellEng.stopArrays (ceilingOf 64 s cell)) s

def execWeightSwap (cell : Nat) (s : State) : Out := effect (onlyIf (cellWorks s cell) (runWeightSwap cell)) s

end Sys2Proof.Machine
end

