-- ==== Sys2Proof/Machine/Drain.lean ====
section
/-! DEFINITION. The accumulator drain, its fused stages, and the galley (R87, R92 to R99, R122, R123, R126, R147 to
R149, R237). -/

namespace Sys2Proof.Machine
open Sys2Proof

/-- Neighbours added in pairs, an odd one left as it is. -/
def sumPairs : List W32 → List W32
  | a :: b :: rest => f32Add a b :: sumPairs rest
  | l => l

/-- tree_sum of R87, by halving: `n` rounds suffice for `2 ^ n` parts. -/
def treeSum : Nat → List W32 → W32
  | 0, l => l.headD 0
  | n + 1, l =>
    if l.length ≤ 1 then l.headD 0
    else
      treeSum n (sumPairs l)

/-- The value of a stored operand block element of a strip (R237). The reader table of R471 names no drain: the element of a promoted tile is
read as it is stored, without its map byte (DESIGN CHOICE, log entry 36). -/
def stripOperand (s : State) (cell base f t j : Nat) : OpVal :=
  let e := Endpoint.caseMem cell (base + (4 * (t / 32) + j / 32) * blockBytes f)
  blockVal f (blockReader s e f) (t % 32) (j % 32)

def stripOperandF32 (s : State) (cell base f t j : Nat) : W32 :=
  let e := Endpoint.caseMem cell (base + (4 * (t / 32) + j / 32) * blockBytes f)
  blockF32 f (blockReader s e f) (t % 32) (j % 32)

/-- How many segments or parts a tensor's reduction has (R87, R92). -/
def partCount (t : TabEntry) : Nat := if t.rounded then t.parts else Nat.max 1 (ceilDiv t.k (p2 20))

/-- Bytes of a stored segment or part (R92, R93): a rounded part is stored in FP32, but for part 0 of a tensor whose last drain adds an addend
into its long word before the single rounding (R95; log entry 16). -/
def partBytes (s : State) (te : TabEntry) (tensor part : Nat) : Nat :=
  if te.rounded && !(part = 0 && fusesAdd s tensor) then roundedTileBytes else longTileBytes

/-- The offset of the stored tile that holds an earlier segment's or part's strip element. The parts lie at `dst`, strip after strip, in
part order (log entry 16). -/
def partAt (s : State) (d : DrainDesc) (t : TabEntry) (nRows part row j : Nat) : Nat :=
  let tiles := ceilDiv nRows 32 * 4
  d.dst + ((List.range part).map (fun p => tiles * partBytes s t d.tensor p)).sum + (row / 32 * 4 + j / 32) * partBytes s t d.tensor part

/-- A field of a stored tile. -/
def partField (s : State) (cell at' a n : Nat) : Nat := leNat (caseBytes s cell (at' + a) n)

/-- The leading of a stored tile (R93). -/
def partLead (s : State) (cell at' : Nat) : Int := signExt 8 (partField s cell at' 0 1)

/-- A poison bit of an earlier segment or part covers a strip element (R89). -/
def partPoisoned (s : State) (cell : Nat) (d : DrainDesc) (t : TabEntry) (nRows part row j : Nat) : Bool :=
  let at' := partAt s d t nRows part row j
  bitOf (partField s cell at' 16 4) (row % 32) || bitOf (partField s cell at' 20 4) (j % 32)

/-- An earlier segment's or part's value of a strip element, with a fused addend in part 0 (R87, R92, R95): its word goes to the leading
`lead`, at which the addend enters. -/
def partValue (s : State) (cell : Nat) (d : DrainDesc) (t : TabEntry) (nRows part row j : Nat) (lead : Int) (addend : Option OpVal) :
    W32 :=
  let at' := partAt s d t nRows part row j
  let el := 32 * (row % 32) + j % 32
  let own := partLead s cell at'
  let e := max own lead
  let add := match addend with
    | some (.val m x) => (⟨(DyOp.toUnits ⟨m, x⟩ (e - 75)).1, e - 75⟩ : Dy)
    | _ => ⟨0, 0⟩
  if partPoisoned s cell d t nRows part row j || addend == some .nonfinite then f32NaN
  else if partBytes s t d.tensor part = roundedTileBytes then BitVec.ofNat 32 (partField s cell at' (64 + 4 * el) 4)
  else
    let w := (shiftLong (e - own).toNat (signExt 96 (partField s cell at' (64 + 12 * el) 12))).1
    rneF32Pos (DyOp.add (longDy e w) add)

/-- The K ranges that accumulator rows have taken, and the columns that their passes held active. -/
def rowsKs (e : CellEng) (rows : List (Nat × Nat)) : List (Nat × Nat) :=
  rows.foldl (fun l p => (rowOf e (p.1 * 512 + p.2)).ks.foldl (fun l k => if ksApart l [k] then ksInsert l k else l) l) []

def rowsCols (e : CellEng) (rows : List (Nat × Nat)) : Nat := rows.foldl (fun m p => m ||| (rowOf e (p.1 * 512 + p.2)).cols) 0

/-- The segment or part that the long words of a strip belong to: that of its first K index (R87, R92). -/
def ownPart (te : TabEntry) (e : CellEng) (rows : List (Nat × Nat)) : Nat := partOf te (ksFirst (rowsKs e rows))

/-- What the stages up to 4 give for one element. -/
structure DrainEl where
  stage3 : W32
  out : W32
  below : Bool
  nonfinite : Bool
deriving DecidableEq, Repr

/-- A strip element lies under a poison bit (R89). -/
def elPoisoned (e : CellEng) (array row j : Nat) : Bool :=
  e.rowPoison.contains (array * 512 + row) || e.colPoison.contains ((array * 4 + row / 128) * 128 + j)

/-- A strip element lies under a poison bit, of its long word or of a stored segment or part (R89): the fused stages pass it by (R94). -/
def sumPoisoned (s : State) (cell : Nat) (d : DrainDesc) (te : TabEntry) (e : CellEng) (nRows t array row j : Nat) : Bool :=
  elPoisoned e array row j
    || (let here := ownPart te e (stripRows d)
        (List.range (partCount te)).any (fun p => p != here && partPoisoned s cell d te nRows p t j))

/-- Stages 1 to 4 of R94 for the strip element (t, j). `lead0` is the leading of part 0, where a fused addend enters (R87). -/
def drainElement (s : State) (cell : Nat) (d : DrainDesc) (te : TabEntry) (e : CellEng) (lead0 : SMap Int) (nRows t array row j : Nat) :
    DrainEl :=
  let g := array * 4 + row / 128
  let st := groupOf e te.leading g
  let parts := partCount te
  let here := ownPart te e (stripRows d)
  let addend := if d.fusedAdd then some (stripOperand s cell d.addend d.addendFmt t j) else none
  if elPoisoned e array row j || (decide (1 < parts) && sumPoisoned s cell d te e nRows t array row j) then ⟨f32NaN, f32NaN, false, false⟩
  else
    let own := SMap.getD e.acc (accKey array row j) 0
    let first := SMap.getD lead0 g st.leading
    let u := match addend with
      | some (.val m x) => DyOp.toUnits ⟨m, x⟩ (first - 75)
      | _ => (0, false)
    let mine := rneF32Pos (longDy st.leading (wrap96 (own + (if here = 0 then u.1 else 0))))
    let v3 := match addend with
      | some .nonfinite => f32NaN
      | _ =>
        if parts ≤ 1 then mine
        else
          treeSum 24 ((List.range parts).map (fun p =>
            if p = here then mine
            else partValue s cell d te nRows p t j (if p = 0 then first else -128) (if p = 0 then addend else none)))
    let v4 := if d.fusedMul then f32Mul v3 (stripOperandF32 s cell d.multiplicand d.multFmt t j) else v3
    ⟨v3, v4, u.2, addend == some .nonfinite⟩

/-- The largest finite addend of a strip row. An element under a poison bit skips the fused addition (R94). -/
def rowAddend (s : State) (cell : Nat) (d : DrainDesc) (te : TabEntry) (e : CellEng) (nRows array row t : Nat) : Dy :=
  ((List.range 128).filter (fun j => !sumPoisoned s cell d te e nRows t array row j)).foldl (fun m j =>
    let a := DyOp.abs (opDy (stripOperand s cell d.addend d.addendFmt t j))
    if DyOp.lt m a then a else m) ⟨0, 0⟩

/-- What checking the addends of a strip gives: the engines, the counts, and the leading of part 0 by group. -/
structure AddendOut where
  eng : CellEng
  stat : StatRec
  lead0 : SMap Int
deriving DecidableEq, Repr

/-- Re-lead of the part that the addends enter, group by group, where one is at or above P; a row whose addend is at or above P(127) is
poisoned (R86, R95). In a segmented or rounded reduction that part is part 0 of R87 and R92: where it is a stored one, its tiles of the
group are raised together (log entry 16). -/
def addendRelead (s : State) (cell : Nat) (d : DrainDesc) (te : TabEntry) (rows : List (Nat × Nat)) (e : CellEng) : AddendOut :=
  if !d.fusedAdd then { eng := e, stat := StatRec.empty, lead0 := [] }
  else
    let n := productCount s d.tensor
    (stripGroups rows).foldl (fun x g =>
      let mine := (List.zip (List.range rows.length) rows).filter (fun p => p.2.1 * 4 + p.2.2 / 128 = g)
      let tiles := ((mine.map (fun p => p.1 / 32)).foldl insertNat []).flatMap (fun r => (List.range 4).map (fun q => (r, q)))
      let at' := fun (b : Nat × Nat) => partAt s d te rows.length 0 (32 * b.1) (32 * b.2)
      let st := groupOf x.eng te.leading g
      let held := ownPart te x.eng rows = 0
      let lead := if held then st.leading else tiles.foldl (fun m b => max m (partLead s cell (at' b))) (-128)
      let tops := mine.map (fun p => (p, rowAddend s cell d te x.eng rows.length p.2.1 p.2.2 p.1))
      let big := tops.foldl (fun m p => if DyOp.lt m p.2 then p.2 else m) (⟨0, 0⟩ : Dy)
      if belowLimit lead n big then { x with lead0 := SMap.put x.lead0 g lead }
      else
        let up := clampI (-128) 127 (lead + leastDelta lead n big)
        let r := if held then raiseGroup x.eng te.leading g (leastDelta lead n big)
          else (x.eng, tiles.foldl (fun c b => c + ((LTile.parse (fun i => caseByte s cell (at' b + i))).raise up).2) 0)
        let beyond := (tops.filter (fun p => !belowLimit up n p.2)).map (fun p => p.1.2.1 * 512 + p.1.2.2)
        { eng := { r.1 with rowPoison := beyond.foldl insertNat r.1.rowPoison }
          stat := StatRec.add x.stat { StatRec.empty with relead := 1, belowWindow := r.2, leading := some up }
          lead0 := SMap.put x.lead0 g up }) { eng := e, stat := StatRec.empty, lead0 := [] }

/-- Rank two top-k candidates (R97): the first goes before the second. -/
def ranksBefore (a b : Nat × W32) : Bool :=
  let na := f32IsNaN a.2
  let nb := f32IsNaN b.2
  if na && nb then a.1 < b.1
  else if na then false
  else if nb then true
  else if f32Lt b.2 a.2 then true
  else if f32Lt a.2 b.2 then false
  else a.1 < b.1

/-- Insert a candidate in rank order. -/
def rankInsert (x : Nat × W32) : List (Nat × W32) → List (Nat × W32)
  | [] => [x]
  | y :: rest => if ranksBefore x y then x :: y :: rest else y :: rankInsert x rest

/-- The 64-byte record of the k best candidates (R98). -/
def topkRecord (k : Nat) (cands : List (Nat × W32)) : List Byte :=
  let best := (cands.foldl (fun l c => rankInsert c l) []).take (Nat.min k 8)
  ((List.range 8).flatMap (fun i => leBytes 4 (match best[i]? with
    | some c => c.2.toNat
    | none => 0xFF800000)))
    ++ ((List.range 8).flatMap (fun i => leBytes 4 (match best[i]? with
    | some c => c.1
    | none => 0xFFFFFFFF)))

/-- The stored tile (r, q) of a strip that is not final, and the below-window events that it takes (R91, R93, R237). Rows that lie in groups
of different leadings go to the largest of them. A part of a rounded reduction whose K indices have all entered is rounded to FP32; before
that, and where an addend still enters it, it stays a tile of long words (R92, R95; log entry 16). -/
def partialTile (te : TabEntry) (e : CellEng) (keepsLong : Nat → Bool) (strip : List (Nat × Nat)) (r q : Nat) : List Byte × Nat :=
  let rows := (strip.drop (32 * r)).take 32
  let groups := stripGroups rows
  let at' := fun (i : Nat) => rows.getD i (4, 0)
  let leadOf := fun (p : Nat × Nat) => (groupOf e te.leading (p.1 * 4 + p.2 / 128)).leading
  let lead := rows.foldl (fun m p => max m (leadOf p)) (-128 : Int)
  let rowBits := (List.range 32).foldl (fun m i => m + bitAt (e.rowPoison.contains ((at' i).1 * 512 + (at' i).2)) i) 0
  let colBits := (List.range 32).foldl (fun m j => m + bitAt (groups.any (fun g => e.colPoison.contains (g * 128 + 32 * q + j))) j) 0
  let elem := fun (x : Nat) =>
    let p := at' (x / 32)
    shiftLong (lead - leadOf p).toNat (SMap.getD e.acc (accKey p.1 p.2 (32 * q + x % 32)) 0)
  let lost := ((List.range 1024).filter (fun x => (elem x).2)).length
  let below := lost + (rows.map (fun p => SMap.getD (rowOf e (p.1 * 512 + p.2)).below q 0)).sum
  let ks := rowsKs e strip
  let part := partOf te (ksFirst ks)
  let whole := te.rounded && !keepsLong part && ksCover (part * partWidth te) (Nat.min ((part + 1) * partWidth te) te.k) ks
  let t : LTile := {
    leading := lead
    below := decide (0 < below)
    releaded := groups.any (fun g => (groupOf e te.leading g).releaded)
    nonfinite := decide (0 < rowBits + colBits)
    segment := ksFirst ks / p2 20
    ks := ks
    rounded := whole
    belowCount := hold32 below
    rowPoison := BitVec.ofNat 32 rowBits
    colPoison := BitVec.ofNat 32 colBits
    elems := (List.range 1024).filterMap (fun x => if (elem x).1 = 0 then none else some (x, (elem x).1)) }
  let named := fun (l : List Byte) => if te.rounded then setAt (setAt l 24 (BitVec.ofNat 8 part)) 25 (BitVec.ofNat 8 te.parts) else l
  (if whole then named (t.bytes.take 64) ++ ((List.range 1024).flatMap (fun x => leBytes 4 (rneF32Pos (longDy lead (elem x).1)).toNat))
   else named t.bytes, lost)

/-- One element of a comparison (R147): the deviation in ulps of r, which the record holds as a whole number. The rule speaks of NaN alone:
an infinite w or r beside another value is over, with the largest deviation. The rule names no width for a fraction of an ulp, which a w in
a finer binade than r gives: the record keeps the whole part. R10 takes the ulp of an exact result, and r is a rounded one: the binade of the
ulp is that of r itself (DESIGN CHOICE, log entry 36). -/
def compareOne (bound : Nat) (c : CmpRec) (w r : W32) : CmpRec :=
  let c := { c with compared := c.compared + 1 }
  if w = r || (f32IsNaN w && f32IsNaN r) then { c with exact := c.exact + 1 }
  else if f32IsNaN w || f32IsNaN r || f32IsInf w || f32IsInf r then { c with overs := c.overs + 1, maxDev := 0xFFFFFFFF }
  else
    let e := if f32IsZero r then (-126 : Int) else if DyOp.flog2 (f32Val r) < -126 then -126 else DyOp.flog2 (f32Val r)
    let dev := DyOp.scale (DyOp.abs (DyOp.sub (f32Val w) (f32Val r))) (23 - e)
    { c with
      overs := if DyOp.lt ⟨bound, 0⟩ dev then c.overs + 1 else c.overs
      maxDev := Nat.max c.maxDev (hold32 (shlTrunc dev.m dev.e).toNat) }

/-- Change the comparison counts of the frame. -/
def onCompares (f : SMap CmpRec → SMap CmpRec) (s : State) : State :=
  { s with step := { s.step with comparesStaged := f s.step.comparesStaged } }

/-- The key of an output element among the held reference products. -/
def refKey (tensor row col : Nat) : Nat := (tensor * p2 32 + row) * p2 32 + col

/-- The reference buffer of one strip element: whether an operand was non-finite, its products, those of its drained parts first, and the
K ranges that they come from. -/
def refElement (s : State) (d : DrainDesc) (e : CellEng) (t array row j : Nat) : RefHeld :=
  let h := SMap.getD s.step.refHeldStaged (refKey d.tensor (d.rowFirst + t) (d.colFirst + j)) { bad := false, terms := [], ks := [] }
  let g := array * 4 + row / 128
  { bad := h.bad || e.refRows.contains (array * 512 + row) || e.refCols.contains (g * 128 + j)
    terms := h.terms ++ SMap.getD e.refs (accKey array row j) []
    ks := ksUnion h.ks (SMap.getD e.refSlabs (array * 512 + row) []) }

/-- The value of the addend in the reference model: its FP32 value, none where it is non-finite, 0 without one (R99). -/
def refAddend (s : State) (cell : Nat) (d : DrainDesc) (t j : Nat) : Option Dy :=
  if !d.fusedAdd then some ⟨0, 0⟩
  else
    let c := stripOperandF32 s cell d.addend d.addendFmt t j
    if f32Finite c then some (f32Val c) else none

/-- The largest exponent of the finite nonzero addends of a strip (R99). -/
def refAddends (s : State) (cell : Nat) (d : DrainDesc) : Option Int :=
  (List.range (stripRows d).length).foldl (fun m t => (List.range 128).foldl (fun m j => match refAddend s cell d t j with
    | some c => if c.m = 0 then m else maxLead m (some (DyOp.flog2 c))
    | none => m) m) none

/-- The largest addend exponent of a tensor: of its final drains on every cell of the chip, in every forme. -/
def refAddendTop (s : State) (tensor : Nat) : Option Int :=
  (List.range 288).foldl (fun m c => ((recordsOf s c).flatMap (·.items)).foldl (fun m it => match it.body with
    | .drain d => if d.tensor = tensor && d.final then maxLead m (refAddends s c d) else m
    | _ => m) m) none

/-- The largest product exponent of the passes of a tensor in the forme index that runs, on every cell of the chip, whether they have run or
not. A pass under reuse multiplies with the tile of the pass before it. -/
def refFormeTop (s : State) (tensor : Nat) : Option Int :=
  (List.range 288).foldl (fun m c => ((formeItems s c).foldl (fun (x : Option Int × Option WTile) it => match it.body with
    | .pass d =>
      let t := if d.reuse then x.2.getD (loadTile s c d) else loadTile s c d
      (if d.tensor = tensor then maxLead x.1 (refMeasure t (passRows [0, 1, 2, 3] s c d)) else x.1, some t)
    | _ => x) (m, none)).1) none

/-- The measured leading of R99: from the largest product exponent that the measuring passes found, the passes of the tensor in this forme
index, and its addends. Where the step's group has other members, the largest exponent that they measured is a free value (log entry 17). -/
def refLead (s : State) (tensor n : Nat) : Int :=
  let own := [SMap.get? s.step.refTop tensor, SMap.get? s.step.refTopStaged tensor, refFormeTop s tensor, refAddendTop s tensor].foldl maxLead none
  let top := if (stepGroup s).any (fun g => decide (1 < g.members.length)) then
      maxLead own (some (Config.groupTop s.step.record.attempted.toNat tensor))
    else own
  clampI (-128) 127 (top.getD 0 + max 0 (DyOp.clog2 ⟨n, 0⟩ - 19))

/-- The reference products of an element together with those of the parts that other chips ran, which no rule brings to this chip: free
values where the chip's own slabs leave K indices out (log entry 17). -/
def refWhole (s : State) (tensor k row col : Nat) (x : RefHeld) : RefHeld :=
  if ksCover 0 k x.ks then x
  else
    let y := Config.refElsewhere s.step.record.attempted.toNat tensor row col
    { x with bad := x.bad || y.1, terms := x.terms ++ y.2.map (fun t => { segment := t.1, value := ⟨t.2.1, t.2.2⟩ }) }

/-- reference_output of R99 for one element, from its products and its addend. -/
def referenceOutput (lead : Int) (n k : Nat) (x : RefHeld) (c : Option Dy) : W32 :=
  match c with
  | none => f32NaN
  | some c =>
    if x.bad || x.terms.any (fun t => !belowLimit lead n t.value) || !belowLimit lead n c then f32NaN
    else
      treeSum 24 ((List.range (Nat.max 1 (ceilDiv k (p2 20)))).map (fun j =>
        rneF32Pos (longDy lead ((x.terms.filter (fun t => t.segment = j)).foldl (fun l t => l + (DyOp.toUnits t.value (lead - 75)).1)
          (if j = 0 then (DyOp.toUnits c (lead - 75)).1 else 0)))))

/-- The reference comparison of a drain (R147), element by element inside the tensor. -/
def compareStrip (cell : Nat) (d : DrainDesc) (te : TabEntry) (e : CellEng) (nc : Nat) (els : List (List DrainEl)) (s : State) : State :=
  if !refMode s d.tensor then s
  else
    let rows := stripRows d
    let n := Nat.min (ceilDiv te.k 32 * 32) (p2 20) + (if d.fusedAdd then 1 else 0)
    let lead := refLead s d.tensor n
    (List.zip (List.range els.length) els).foldl (fun s row =>
      let p := rows.getD row.1 (0, 0)
      (List.zip (List.range nc) row.2).foldl (fun s x =>
        let h := refWhole s d.tensor te.k (d.rowFirst + row.1) (d.colFirst + x.1) (refElement s d e row.1 p.1 p.2 x.1)
        let r := referenceOutput lead n te.k h (refAddend s cell d row.1 x.1)
        onCompares (fun m => SMap.modify m d.tensor { compared := 0, exact := 0, overs := 0, maxDev := 0 }
          (fun c => compareOne s.step.refBound.toNat c x.2.stage3 r)) s) s) s

/-- A drain that is not final holds the reference products of its strip for the drain that goes on. -/
def holdReference (d : DrainDesc) (e : CellEng) (s : State) : State :=
  if !refMode s d.tensor then s
  else
    let rows := stripRows d
    (List.zip (List.range rows.length) rows).foldl (fun s p => (List.range 128).foldl (fun s j =>
      let k := refKey d.tensor (d.rowFirst + p.1) (d.colFirst + j)
      let x := refElement s d e p.1 p.2.1 p.2.2 j
      { s with step := { s.step with refHeldStaged := SMap.put s.step.refHeldStaged k x } }) s) s

/-- F of the narrower rung of a tensor's ladder (R469). -/
def narrowerF (t : TabEntry) : Option Nat :=
  match tabNarrower t with
  | none => none
  | some f => (fmtElem f).map elemF

/-- The counts of a range of plain tiles from tensor column c0 (R469). -/
def plainTally (t : TabEntry) (f : Nat) (draw : Option (Nat → Nat → Nat)) (x : Nat → Nat → OpVal) (rows cols c0 : Nat) : StatRec :=
  (tileCover rows cols).foldl (fun acc b =>
    let c := plainCounts f (narrowerF t) (draw.map (fun g i j => g (32 * b.1 + i) (32 * b.2 + j)))
      (fun i j => x (32 * b.1 + i) (32 * b.2 + j)) (rows - 32 * b.1) (cols - 32 * b.2)
    StatRec.add acc { c.1 with cols := if (narrowerF t).isSome then colsFrom (c0 + 32 * b.2) (cols - 32 * b.2) c.2 else [] }) StatRec.empty

/-- Write a strip or tile range from tensor row r0 and column c0 as plain tiles with its counts, and zero blocks beyond the tensor's edge
(R65, R174, R469). -/
def writePlain (t : TabEntry) (tensor f rows cols r0 c0 : Nat) (x : Nat → Nat → W32) (at' : Nat → Nat → Endpoint) (s : State) :
    State :=
  let blocks := (List.range (ceilDiv rows 32)).flatMap (fun r => (List.range (ceilDiv cols 32)).map (fun q => (r, q)))
  let s := blocks.foldl (fun s b =>
    epWrite (at' b.1 b.2) (plainBlock f none (fun i j => x (32 * b.1 + i) (32 * b.2 + j)) (rows - 32 * b.1) (cols - 32 * b.2)) s) s
  let s := (edgeBlocks t r0 c0 rows cols).foldl (fun s b => epWrite (at' b.1 b.2) (zeroBlock f) s) s
  statOwn tensor (plainTally t f none (fun r c => f32Op (x r c)) rows cols c0) s

/-- Quantize a range of whole tiles of a tensor and write them (R470). The range starts at (row0, col0); tile i of the
range, in row-major order, goes to `at' i p q`. `h` marks a host-buffer transfer. -/
def writeQuantized (h : Bool) (t : TabEntry) (tensor ctl f row0 col0 rows cols : Nat) (stream : W32) (tensorCols : Nat)
    (x : Nat → Nat → W32) (at' : Nat → Nat → Nat → Endpoint) (sp : Nat → Nat → Space) (s : State) : State :=
  match fmtElem f with
  | none => s
  | some k =>
    let wide := ceilDiv cols 128
    let tiles := (List.range (ceilDiv rows 128)).flatMap (fun u => (List.range wide).map (fun h => (u, h)))
    let per := ceilDiv tensorCols 128
    let outs := tiles.map (fun uh =>
      (uh, quantTile t ctl k f (fun r c => elementDraw s stream tensorCols (row0 + 128 * uh.1 + r) (col0 + 128 * uh.2 + c))
        (fun c => forecastOf s tensor (col0 + 128 * uh.2 + c)) (fun r c => x (128 * uh.1 + r) (128 * uh.2 + c))
        (Nat.min 128 (rows - 128 * uh.1)) (Nat.min 128 (cols - 128 * uh.2)) (col0 + 128 * uh.2)))
    outs.foldl (fun s o =>
      let u := o.1.1
      let v := o.1.2
      statOwn tensor o.2.counts
        (writeTile h tensor ((row0 / 128 + u) * per + col0 / 128 + v) o.2 (at' (u * wide + v)) (sp u v) s)) s

/-- Free galley slots of a cell (R148). -/
def galleyFree (e : CellEng) : Nat := 8 - e.galley.length

/-- The galley slots that a drain takes: one for each 128-row group of each array (R126). -/
def galleyNeed (d : DrainDesc) : Nat := if d.toGalley then (stripGroups (stripRows d)).length else 0

/-- Galley tiles of a strip (R149): the strip rows of each group, FP32 at key 128 i + j. -/
def galleyTiles (rows : List (Nat × Nat)) (vals : Nat → Nat → W32) : List (SMap W32) :=
  (stripGroups rows).map (fun g =>
    ((List.zip (List.range rows.length) rows).filter (fun p => p.2.1 * 4 + p.2.2 / 128 = g)).flatMap (fun p =>
      (List.range 128).filterMap (fun j =>
        let v := vals p.1 j
        if v = 0 then none else some (128 * (p.2.2 % 128) + j, v))))

/-- The candidates of a final drain's top-k record go to case memory (R169). -/
def drainTopk (cell : Nat) (d : DrainDesc) (rows : List (Nat × Nat)) (mask nc : Nat) (at' : Nat → Nat → W32) (s : State) : State :=
  (List.zip (List.range rows.length) rows).foldl (fun s p =>
    let cands := (List.range nc).filterMap (fun j => if bitOf mask j then some (d.colFirst + j, at' p.1 j) else none)
    caseWrite .own cell (d.topkDst + 64 * p.1) (topkRecord d.k cands) s) s

/-- The output of a final drain (R94, R237). -/
def drainOutput (cell : Nat) (d : DrainDesc) (te : TabEntry) (nr nc : Nat) (at' : Nat → Nat → W32) (s : State) : State :=
  match d.outFmt with
  | none => s
  | some f0 =>
    let f := outFormat s d.tensor f0
    let block := fun (n : Nat) => writtenAt s d.tensor f0 (fun b => .caseMem cell (d.dst + n * b))
    if fmtNarrow f then
      writeQuantized false te d.tensor te.quant f d.rowFirst d.colFirst nr nc d.stream te.cols at'
        (fun i p q => block (16 * i + 4 * p + q)) (fun _ _ => .cell cell) s
    else
      writePlain te d.tensor f nr nc d.rowFirst d.colFirst at' (fun r q => block (4 * r + q)) s

/-- A final drain: stages 2 to 6, the galley, top-k, the comparison and the output (R94, R237). -/
def drainFinal (cell : Nat) (d : DrainDesc) (te : TabEntry) (s : State) : State :=
  let rows := stripRows d
  let rl := addendRelead s cell d te rows (engOf s cell)
  let e := rl.eng
  let els := (List.zip (List.range rows.length) rows).map (fun p =>
    (List.range 128).map (fun j => drainElement s cell d te e rl.lead0 rows.length p.1 p.2.1 p.2.2 j))
  let vals := els.map (·.map (·.out))
  let at' := fun (t j : Nat) => (vals.getD t []).getD j 0
  let flat := els.flatten
  let cnt := { StatRec.empty with
    drainMax := flat.foldl (fun m x => if f32Finite x.stage3 then maxW m (f32Abs x.stage3) else m) 0
    belowWindow := (flat.filter (·.below)).length
    nonfinite := (flat.filter (·.nonfinite)).length }
  let nr := Nat.min rows.length (te.rows - d.rowFirst)
  let nc := Nat.min 128 (te.cols - d.colFirst)
  let s := statOwn d.tensor (StatRec.add rl.stat cnt) s
  let s := if d.compare then compareStrip cell d te e nc (els.take nr) s else s
  let e := if d.toGalley then { e with galley := e.galley ++ galleyTiles rows at' } else e
  let e := rows.foldl (fun e p => clearRow p.1 p.2 e) e
  let s := setEng cell e s
  let s := if d.topk then drainTopk cell d rows (rowsCols rl.eng rows) nc at' s else s
  drainOutput cell d te nr nc at' s

/-- A drain that is not final: long partials or rounded parts at dst (R93, R237). -/
def drainPartial (cell : Nat) (d : DrainDesc) (te : TabEntry) (s : State) : State :=
  let rows := stripRows d
  let e := engOf s cell
  let tiles := (List.range (ceilDiv rows.length 32)).flatMap (fun r => (List.range 4).map (fun q => (r, q)))
  let s1 := setEng cell (rows.foldl (fun e p => clearRow p.1 p.2 e) e) (holdReference d e s)
  tiles.foldl (fun s b =>
    let t := partialTile te e (fun p => p = 0 && fusesAdd s d.tensor) rows b.1 b.2
    statOwn d.tensor { StatRec.empty with belowWindow := t.2 }
      (caseWrite .own cell (d.dst + (4 * b.1 + b.2) * t.1.length) t.1 s)) s1

/-- Run a drain whose slots are free. -/
def drainNow (cell : Nat) (d : DrainDesc) (s : State) : State :=
  match tabEntry s d.tensor with
  | none => s
  | some te => if d.final then drainFinal cell d te s else drainPartial cell d te s

/-- A drain waits behind a pass that is held (R123): it reads a row that the pass updates, or it takes galley slots behind a drain that
does. -/
def behindHeld (s : State) (cell : Nat) (d : DrainDesc) : Bool :=
  match (engOf s cell).held with
  | none => false
  | some w =>
    w.arrays.any (fun a => (updatedRows s cell w.desc a).any (fun r => drainReads d a (w.desc.accBase + r)))
      || (galleyNeed d != 0 && !w.drains.isEmpty)

/-- A drain takes its galley slots, or waits for them behind those that wait (R126, R148). -/
def takeSlots (cell : Nat) (d : DrainDesc) (s : State) : State :=
  let e := engOf s cell
  if galleyNeed d = 0 || (e.waiting.isEmpty && decide (galleyNeed d ≤ galleyFree e)) then finishItem cell (.drain d) (drainNow cell d s)
  else onEng cell (fun e => { e with waiting := e.waiting ++ [d] }) s

/-- DRAIN (R94): a drain to the galley takes its slots in drain order, so it waits, its rows uncleared, behind one that waits and where
not all the slots that it needs are free (R126, R148). One that closes the accumulation of a held pass waits behind that pass (R123).
DESIGN CHOICE (log entry 37): a drain that needs several slots waits for all of them. -/
def runDrain (cell : Nat) (d : DrainDesc) (s : State) : State :=
  if !mayRun s cell (.drain d) then s
  else if behindHeld s cell d then
    onEng cell (fun e => { e with held := e.held.map (fun w => { w with drains := w.drains ++ [d] }) }) s
  else takeSlots cell d s

/-- Free the slots marked for release: the tiles behind them move up (R148). -/
def freeSlots (e : CellEng) : CellEng :=
  { e with
    galley := ((List.zip (List.range e.galley.length) e.galley).filter (fun p => !e.releases.contains p.1)).map (·.2)
    releases := [] }

/-- Count galley-wait cycles of a cell (R126). -/
def addWait (cell n : Nat) (s : State) : State :=
  { s with cells := { s.cells with galleyWait := SMap.modify s.cells.galleyWait cell 0 (· + n) } }

/-- The waiting drains take their slots in drain order as far as free slots go (R126, R148). The cycles that a drain has waited are a free
value: the model has no clock (log entry 37). -/
def wakeList (cell : Nat) : List DrainDesc → State → State
  | [], s => s
  | d :: rest, s =>
    if galleyNeed d ≤ galleyFree (engOf s cell) then
      let n := drawFree s
      wakeList cell rest (finishItem cell (.drain d) (drainNow cell d
        (addWait cell n.1.toNat (onEng cell (fun e => { e with waiting := rest }) n.2))))
    else s

/-- A pass that waited for its rows runs on the arrays whose rows have been cleared, which ramp up again (R126); behind the last of them the
drains that stood behind the pass take their slots, or wait for them from now on. -/
def wakePass (cell : Nat) (s : State) : State :=
  match (engOf s cell).held with
  | none => s
  | some w =>
    let left := w.arrays.filter ((blockedArrays s cell w.desc).contains ·)
    let free := w.arrays.filter (fun a => !left.contains a)
    if !cellWorks s cell || ceilingOf 64 s cell = 0 || free.isEmpty then s
    else
      let t := passNow 64 cell free { w with arrays := left } s
      if left.isEmpty then w.drains.foldl (fun s d => takeSlots cell d s) t else t

/-- What waits in a cell goes on: the drains in front of a held pass, the pass, and the drains behind it. -/
def wakeDrain (cell : Nat) (s : State) : State :=
  let s1 := wakePass cell (wakeList cell (engOf s cell).waiting s)
  wakeList cell (engOf s1 cell).waiting s1

/-- GALLEY_SLOT_FREE (R148): the marked slots are freed while the cell's clocks run (R406), and a waiting drain goes on. -/
def runGalleySlotFree (cell : Nat) (s : State) : State :=
  if !coreRuns s || s.clocks.stopped.contains (cellRegion cell) then s
  else onlyIf (cellActive s cell) (wakeDrain cell) (onEng cell freeSlots s)

def execDrain (cell : Nat) (d : DrainDesc) (s : State) : Out := effect (runDrain cell d) s

def execGalleySlotFree (cell : Nat) (s : State) : Out := effect (runGalleySlotFree cell) s

end Sys2Proof.Machine
end

