-- ==== Sys2Proof/Machine/Transc.lean ====
section
/-! DEFINITION. The functions of R156, correctly rounded: each is bounded between two dyadics at a unit of 2^−256 with
a slack far above the truncations of its series, and the result is the rounding on which both bounds agree. Where they
do not agree, the result is the free value `Config.undecided` (log entry 8). -/

namespace Sys2Proof.Machine
open Sys2Proof

/-- The unit of the fixed-point numbers below is `2 ^ (-fxBits)`. -/
def fxBits : Nat := 256

def fxOne : Nat := p2 fxBits

def fxMul (a b : Nat) : Nat := (a * b) >>> fxBits

/-- The slack that covers every truncation. -/
def fxSlack : Nat := p2 40

/-- `Σ z ^ (2k + 1) / (2k + 1)` for the next `n` terms. -/
def atanhTerms : Nat → Nat → Nat → Nat → Nat
  | 0, _, _, _ => 0
  | n + 1, zp, z2, d => zp / d + atanhTerms n (fxMul zp z2) z2 (d + 2)

/-- `ln ((1 + z) / (1 - z))` for `z ≤ 1 / 3`. -/
def fxLn (z : Nat) : Nat := 2 * atanhTerms 96 z (fxMul z z) 1

/-- `ln 2`. -/
def fxLn2 : Nat := fxLn (fxOne / 3)

/-- `Σ t ^ n / n!` from the term of index `k`. -/
def expTerms : Nat → Nat → Nat → Nat → Nat
  | 0, _, _, _ => 0
  | n + 1, term, t, k => term + expTerms n (fxMul term t / (k + 1)) t (k + 1)

/-- `e ^ t` for `t < 1`. -/
def fxExp (t : Nat) : Nat := expTerms 72 fxOne t 0

/-- A Machin term `atan (1 / q)`: alternating terms. -/
def atanInv : Nat → Nat → Nat → Nat → Bool → Int
  | 0, _, _, _, _ => 0
  | n + 1, p, q, d, neg => (if neg then -((p / d : Nat) : Int) else ((p / d : Nat) : Int)) + atanInv n (p / (q * q)) q (d + 2) (!neg)

/-- `π` by Machin's formula. -/
def fxPi : Nat := (16 * atanInv 64 (fxOne / 5) 5 1 false - 4 * atanInv 40 (fxOne / 239) 239 1 false).toNat

/-- `√π`. -/
def fxSqrtPi : Nat := isqrt (fxPi * fxOne)

/-- The rounding on which two bounds agree. -/
def agree (fn : Nat) (x : W32) (lo hi : Dy) : W32 :=
  if rneF32 false lo = rneF32 false hi then rneF32 false lo else Config.undecided fn x

/-- A value known within the slack, times `2 ^ e`, with a sign. -/
def agreeFx (fn : Nat) (x : W32) (neg : Bool) (v : Nat) (e : Int) : W32 :=
  let r := agree fn x ⟨(v : Int) - fxSlack, e - fxBits⟩ ⟨(v : Int) + fxSlack, e - fxBits⟩
  if neg then f32Negate r else r

/-- A dyadic as whole part and fraction at the unit. -/
def fxSplit (d : Dy) : Int × Nat :=
  let t := DyOp.down ⟨d.m, d.e⟩ (if d.e ≤ -(fxBits : Int) then d.e else -(fxBits : Int))
  let q := if d.e ≤ -(fxBits : Int) then (-d.e).toNat else fxBits
  let w := Int.fdiv t (p2 q)
  (w, ((t - w * p2 q).toNat * fxOne) / p2 q)

/-- EXP2. -/
def f32Exp2 (x : W32) : W32 :=
  if f32IsNaN x then f32NaN
  else if f32IsInf x then (if f32Neg x then 0 else f32Inf)
  else if f32IsZero x then f32One
  else
    let d := f32Val x
    if DyOp.le ⟨128, 0⟩ d then f32Inf
    else if DyOp.le d ⟨-150, 0⟩ then 0
    else
      let s := fxSplit d
      if DyOp.eq d ⟨s.1, 0⟩ then rneF32 false ⟨1, s.1⟩
      else agreeFx 0 x false (fxExp (fxMul s.2 fxLn2)) s.1

/-- LOG2. -/
def f32Log2 (x : W32) : W32 :=
  if f32IsNaN x then f32NaN
  else if f32IsZero x then f32NegInf
  else if f32Neg x then f32NaN
  else if f32IsInf x then f32Inf
  else
    let d := f32Val x
    let e := DyOp.flog2 d
    let m := d.m.natAbs
    if m = p2 m.log2 then rneF32 false ⟨e, 0⟩
    else
      -- x = 2^e * m / 2^log2 m, with the last factor in [1, 2)
      let one := p2 m.log2
      let l := fxLn ((m - one) * fxOne / (m + one)) * fxOne / fxLn2
      let v := e * (fxOne : Int) + l
      agreeFx 1 x (v < 0) v.natAbs 0

/-- TANH. Below 2^−13 the exact value lies within a quarter of an ulp of x, so it rounds to x. -/
def f32Tanh (x : W32) : W32 :=
  if f32IsNaN x then f32NaN
  else if f32IsInf x then (if f32Neg x then f32Negate f32One else f32One)
  else if f32IsZero x then x
  else
    let d := DyOp.abs (f32Val x)
    if DyOp.lt d ⟨1, -13⟩ then x
    else if DyOp.le ⟨10, 0⟩ d then (if f32Neg x then f32Negate f32One else f32One)
    else
      -- e^(2|x|) = 2^n * e^r
      let t := (DyOp.down ⟨2 * d.m, d.e⟩ (-(fxBits : Int))).toNat
      let n := t / fxLn2
      let y := fxExp (t - n * fxLn2) * p2 n
      agreeFx 2 x (f32Neg x) ((y - fxOne) * fxOne / (y + fxOne)) 0

/-- `Σ (-1)^n x2^n / (n! (2n + 1))` from the term of index `k`. -/
def erfTerms : Nat → Nat → Nat → Nat → Int
  | 0, _, _, _ => 0
  | n + 1, term, x2, k =>
    (if k % 2 = 0 then ((term / (2 * k + 1) : Nat) : Int) else -((term / (2 * k + 1) : Nat) : Int))
      + erfTerms n (fxMul term x2 / (k + 1)) x2 (k + 1)

/-- ERF: x times the even series, times 2 / √π. From 4 on, 1 − erf x lies below 2^−25. -/
def f32Erf (x : W32) : W32 :=
  if f32IsNaN x then f32NaN
  else if f32IsInf x then (if f32Neg x then f32Negate f32One else f32One)
  else if f32IsZero x then x
  else
    let d := DyOp.abs (f32Val x)
    if DyOp.le ⟨4, 0⟩ d then (if f32Neg x then f32Negate f32One else f32One)
    else
      let x2 := (shlTrunc (d.m * d.m) (2 * d.e + fxBits)).toNat
      let s := (erfTerms 200 fxOne x2 0).toNat * 2 * fxOne / fxSqrtPi
      let lo := DyOp.mul d ⟨(s : Int) - fxSlack, -(fxBits : Int)⟩
      let hi := DyOp.mul d ⟨(s : Int) + fxSlack, -(fxBits : Int)⟩
      let r := agree 3 x lo hi
      if f32Neg x then f32Negate r else r

end Sys2Proof.Machine
end

