-- ==== Sys2Proof/Machine/Operands.lean ====
section
/-! DEFINITION. The vector engine's registers, lanes and operands (R150, R151, R154, R155, R157, R158). -/

namespace Sys2Proof.Machine
open Sys2Proof

/-! ### Lanes -/

/-- Bits of a lane and lanes of a register at a width (R150). -/
def laneBits (w : Nat) : Nat := if w = 0 then 32 else if w = 1 then 16 else 8
def laneNum (w : Nat) : Nat := if w = 0 then 128 else if w = 1 then 256 else 512

/-- The lanes of a register, lane 0 lowest. -/
def lanesOf (w : Nat) (v : BitVec 4096) : List Nat :=
  (List.range (laneNum w)).map (fun l => (v.toNat >>> (laneBits w * l)) % p2 (laneBits w))

/-- A register from its lanes. -/
def packLanes (w : Nat) (l : List Nat) : BitVec 4096 :=
  BitVec.ofNat 4096 (l.foldr (fun x acc => acc * p2 (laneBits w) + x % p2 (laneBits w)) 0)

def vregOf (s : State) (cell r : Nat) : BitVec 4096 := SMap.getD (engOf s cell).vregs r 0

/-- A mask register; m0 reads as all ones (R150). -/
def mregOf (s : State) (cell m : Nat) : BitVec 512 :=
  if m = 0 then BitVec.allOnes 512 else SMap.getD (engOf s cell).mregs m 0

def setVreg (cell r : Nat) (v : BitVec 4096) (s : State) : State :=
  onEng cell (fun e => { e with vregs := SMap.putD e.vregs r 0 v }) s

def setMreg (cell m : Nat) (v : BitVec 512) (s : State) : State :=
  if m = 0 then s else onEng cell (fun e => { e with mregs := SMap.putD e.mregs m 0 v }) s

/-- Lane l is active under the governing mask (R151). -/
def laneOn (s : State) (cell : Nat) (f : VFields) (l : Nat) : Bool := (mregOf s cell f.mask).getLsbD l != f.invert

/-- Write lanes: an inactive lane keeps its value, or becomes +0 under zeroing (R151). -/
def writeLanes (cell : Nat) (f : VFields) (w : Nat) (vals : List Nat) (s : State) : State :=
  let old := lanesOf w (vregOf s cell f.vd)
  setVreg cell f.vd (packLanes w ((List.range (laneNum w)).map (fun l =>
    if laneOn s cell f l then vals.getD l 0 else if f.zeroing then 0 else old.getD l 0))) s

/-- Write the first `n` bits of a mask register under the governing mask. -/
def writeMask (cell : Nat) (f : VFields) (n : Nat) (bits : Nat → Bool) (s : State) : State :=
  let old := mregOf s cell f.vd
  setMreg cell f.vd (BitVec.ofNat 512 ((List.range 512).foldl (fun acc l =>
    let b := if n ≤ l then old.getLsbD l
      else if laneOn s cell f l then bits l else if f.zeroing then false else old.getLsbD l
    acc + bitAt b l) 0)) s

/-! ### Operands -/

/-- The lanes of a register as FP32 patterns, at widths 0 and 1. -/
def lanesF (w : Nat) (v : BitVec 4096) : List W32 :=
  (lanesOf w v).map (fun x => if w = 1 then bf16ToF32 (BitVec.ofNat 16 x) else BitVec.ofNat 32 x)

/-- The lanes of a register as INT8. -/
def lanesI (v : BitVec 4096) : List Int := (lanesOf 2 v).map (signExt 8)

/-- Operand vb: a register, or the addr field in every lane (R151). -/
def operandB (s : State) (cell : Nat) (f : VFields) : List W32 :=
  if f.vb = 0xFF then List.replicate (laneNum f.w) f.addr else lanesF f.w (vregOf s cell f.vb)

/-- Operand vb at width 2. What an FP32 broadcast holds as INT8 is not stated: a free value (log entry 18). -/
def operandB8 (s : State) (cell : Nat) (f : VFields) : List Int × State :=
  if f.vb = 0xFF then
    let r := drawFree s
    (List.replicate 512 (signExt 8 r.1.toNat), r.2)
  else (lanesI (vregOf s cell f.vb), s)

/-- One rounding at a width (R154): FP32, or BF16 as its 16 bits. -/
def roundAt (w : Nat) (x : W32 ⊕ (Bool × Dy)) : Nat := if w = 0 then (toF32 x).toNat else (toBf x).toNat

/-- A lane pattern that is copied, at widths 0 and 1, from its FP32 form. -/
def copyAt (w : Nat) (x : W32) : Nat := if w = 0 then x.toNat else x.toNat / 65536

/-- Element-wise operation of two operands at widths 0 and 1. -/
def mapLanes (g : W32 → W32 → W32 ⊕ (Bool × Dy)) (w : Nat) (a b : List W32) : List Nat :=
  List.zipWith (fun x y => roundAt w (g x y)) a b

/-- Run an element-wise operation: `g` at widths 0 and 1, `g8` at width 2. -/
def binaryOp (g : W32 → W32 → W32 ⊕ (Bool × Dy)) (g8 : Int → Int → Int) (cell : Nat) (f : VFields) (s : State) : State :=
  if f.w = 2 then
    let b := operandB8 s cell f
    writeLanes cell f 2 (List.zipWith (fun x y => lowBits 8 (g8 x y)) (lanesI (vregOf s cell f.va)) b.1) b.2
  else writeLanes cell f f.w (mapLanes g f.w (lanesF f.w (vregOf s cell f.va)) (operandB s cell f)) s

/-- Run a function of one operand. -/
def unaryOp (g : W32 → W32) (cell : Nat) (f : VFields) (s : State) : State :=
  writeLanes cell f f.w ((lanesF f.w (vregOf s cell f.va)).map (fun x => roundAt f.w (.inl (g x)))) s

/-- Run a compare into a mask register (R152, R154). -/
def compareOp (g : W32 → W32 → Bool) (g8 : Int → Int → Bool) (cell : Nat) (f : VFields) (s : State) : State :=
  if f.w = 2 then
    let b := operandB8 s cell f
    let r := List.zipWith g8 (lanesI (vregOf s cell f.va)) b.1
    writeMask cell f 512 (fun l => r.getD l false) b.2
  else
    let r := List.zipWith g (lanesF f.w (vregOf s cell f.va)) (operandB s cell f)
    writeMask cell f (laneNum f.w) (fun l => r.getD l false) s

/-- Run a logical operation of mask registers on all 512 bits. -/
def maskOp (g : Bool → Bool → Bool) (cell : Nat) (f : VFields) (s : State) : State :=
  let a := mregOf s cell f.va
  let b := mregOf s cell f.vb
  writeMask cell f 512 (fun l => g (a.getLsbD l) (b.getLsbD l)) s

/-! ### Sums of lanes -/

/-- The fixed pairwise tree of R157 over `2 ^ n` lanes. -/
def laneTree (op : W32 → W32 → W32) : Nat → List W32 → W32
  | 0, l => l.headD 0
  | n + 1, l => laneTree op n ((List.range (l.length / 2)).map (fun j => op (l.getD (2 * j) 0) (l.getD (2 * j + 1) 0)))

/-- Replace the inactive lanes by an identity. -/
def withIdentity (s : State) (cell : Nat) (f : VFields) (z : W32) (l : List W32) : List W32 :=
  (List.zip (List.range l.length) l).map (fun p => if laneOn s cell f p.1 then p.2 else z)

/-- Write a reduction: lane 0 of vd, +0 in the others, whatever the governing mask says: R157 gives every lane of vd, where R151 keeps inactive
lanes (DESIGN CHOICE, log entry 18). -/
def writeReduced (cell : Nat) (f : VFields) (w v : Nat) (s : State) : State :=
  setVreg cell f.vd (packLanes w (v :: List.replicate (laneNum w - 1) 0)) s

/-- Run a reduction of FP32 lanes. -/
def reduceOp (op : W32 → W32 → W32) (z : W32) (cell : Nat) (f : VFields) (s : State) : State :=
  writeReduced cell f 0 (laneTree op 7 (withIdentity s cell f z (lanesF 0 (vregOf s cell f.va)))).toNat s

/-- Run a maximum or a minimum of INT8 lanes. R157 names 128 lanes and identities of FP32: the model reduces the 512 lanes of w = 2, and
inactive ones enter as the least and the largest INT8 value (DESIGN CHOICE, log entry 18). -/
def reduceOp8 (op : Int → Int → Int) (z : Int) (cell : Nat) (f : VFields) (s : State) : State :=
  let l := lanesI (vregOf s cell f.va)
  let v := (List.zip (List.range 512) l).foldl (fun acc p => op acc (if laneOn s cell f p.1 then p.2 else z)) z
  writeReduced cell f 2 (lowBits 8 v) s

/-- One round of R158 at distance d. -/
def scanRound (d : Nat) (x : List W32 × List Bool) : List W32 × List Bool :=
  ((List.range 128).map (fun i =>
      if d ≤ i && !x.2.getD i false then f32Add (x.1.getD (i - d) 0) (x.1.getD i 0) else x.1.getD i 0),
   (List.range 128).map (fun i => x.2.getD i false || (decide (d ≤ i) && x.2.getD (i - d) false)))

/-- The scan of R158 with carry c. A lane that the scan copies keeps the payload of its NaN (DESIGN CHOICE, log entry 18). -/
def scanLanes (x : List W32) (f : List Bool) (c : W32) : List W32 :=
  let r := [1, 2, 4, 8, 16, 32, 64].foldl (fun y d => scanRound d y) (x, f)
  (List.range 128).map (fun i =>
    if (f.take (i + 1)).any id then r.1.getD i 0 else f32Add c (r.1.getD i 0))

/-- The segment starts named by mask register vc; 0 names none (R152, R158). -/
def segStarts (s : State) (cell : Nat) (f : VFields) : List Bool :=
  (List.range 128).map (fun i => f.vc != 0 && (mregOf s cell f.vc).getLsbD i)

/-! ### Conversions (R155) -/

/-- FP32 to INT8: nearest, ties to even, saturating to ±127; NaN gives 0. -/
def f32ToI8 (x : W32) : Int :=
  if f32IsNaN x then 0
  else if f32IsInf x then (if f32Neg x then -127 else 127)
  else
    let d := f32Val x
    let m := match d.e with
      | .ofNat n => d.m.natAbs * p2 n
      | .negSucc n => divRne d.m.natAbs (p2 (n + 1))
    clampI (-127) 127 (if f32Neg x then -(m : Int) else m)

/-- A NaN result is 0x7FC0_0000 (R154). -/
def quietNaN (x : W32) : W32 := if f32IsNaN x then f32NaN else x

/-- The four conversions of R155: 0 FP32 to BF16, 1 BF16 to FP32, 2 FP32 to INT8, 3 INT8 to FP32. Where vb is a source and holds 0xFF,
the addr field fills its lanes (R151). R155 speaks of register numbers and of counts within its ranges alone: a number beyond 31, as of va + 1
behind register 31, counts modulo 32, and a vc behind the last lanes of va gives +0 (DESIGN CHOICE, log entry 18). -/
def convertOp (pair : Nat) (cell : Nat) (f : VFields) (s : State) : State :=
  let v := fun (r : Nat) => vregOf s cell (r % 32)
  let b := if f.vb = 0xFF then List.replicate 128 f.addr else lanesF 0 (v f.vb)
  match pair with
  | 0 => writeLanes cell f 1 ((lanesF 0 (v f.va) ++ b).map (fun x => (f32ToBf16 x).toNat)) s
  | 1 => writeLanes cell f 0 (((lanesF 1 (v f.va)).drop (128 * f.vc)).map (fun x => (quietNaN x).toNat)) s
  | 2 => writeLanes cell f 2 ((lanesF 0 (v f.va) ++ b ++ lanesF 0 (v f.vc) ++ lanesF 0 (v (f.va + 1))).map
      (fun x => lowBits 8 (f32ToI8 x))) s
  | _ => writeLanes cell f 0 (((lanesI (v f.va)).drop (128 * f.vc)).map (fun x => (rneF32 false ⟨x, 0⟩).toNat)) s

/-- The conversion a CVT names (log entry 18): one that has its width on one side. -/
def cvtChoice (f : VFields) : Nat :=
  let k := Config.cvtPair f.w f.vb f.vc
  if f.w = 0 then k % 4 else if f.w = 1 then k % 2 else 2 + k % 2

end Sys2Proof.Machine
end

