-- ==== Sys2Proof/Machine/Vector.lean ====
section
/-! DEFINITION. The vector engine: its instructions (R151 to R161), the repeat of an item that re-leads a long-word
register (R162), and the merge of top-k lists (R169). -/

namespace Sys2Proof.Machine
open Sys2Proof

/-- A run of a vector item: the state, the long-word registers whose leading already holds the raise of this repeat, with the leading
that they then started from, the raises that the next repeat needs (register: Δ, tensor, new leading), and whether it can run at all. -/
structure VRun where
  s : State
  adj : SMap Int
  need : SMap (Nat × Nat × Int)
  ok : Bool
deriving DecidableEq, Repr

/-- Change the state of a run. -/
def VRun.on (f : State → State) (x : VRun) : VRun := { x with s := f x.s }

/-- An instruction that cannot run: it waits, or names what does not exist. -/
def VRun.stop (x : VRun) : VRun := { x with ok := false }

/-! ### Long-word registers (R150, R159) -/

def LReg.zero : LReg where
  leading := 0
  logN := 0
  tensor := 0
  poison := false
  below := 0
  releaded := false
  segment := 0
  ks := []
  loose := false
  lanes := []

def lregOf (s : State) (cell r : Nat) : LReg := SMap.getD (engOf s cell).lregs r LReg.zero

def setLreg (cell r : Nat) (v : LReg) (s : State) : State := onEng cell (fun e => { e with lregs := SMap.put e.lregs r v }) s

def statBelow (tensor n : Nat) (s : State) : State :=
  if n = 0 then s else statOwn tensor { StatRec.empty with belowWindow := n } s

def statNonfinite (tensor n : Nat) (s : State) : State :=
  if n = 0 then s else statOwn tensor { StatRec.empty with nonfinite := n } s

/-- Raise a register's leading, its words shifted right (R86, R91), and the words that lost a bit. -/
def LReg.raise (v : LReg) (lead : Int) : LReg × Nat :=
  if lead ≤ v.leading then (v, 0)
  else
    let r := v.lanes.map (fun p => (p.1, shiftLong (lead - v.leading).toNat p.2))
    let lost := (r.filter (fun p => p.2.2)).length
    ({ v with
        leading := lead
        below := v.below + lost
        lanes := (r.map (fun p => (p.1, p.2.1))).filter (fun p => p.2 != 0) }, lost)

/-- A register carried into the item takes the repeat's raise before the repeat first uses it (R162). -/
def touchLong (delta : SMap Nat) (cell r : Nat) (x : VRun) : VRun :=
  if (SMap.get? x.adj r).isSome then x
  else
    let d := SMap.getD delta r 0
    let v := lregOf x.s cell r
    let y := v.raise (clampI (-128) 127 (v.leading + d))
    let x := { x with adj := SMap.put x.adj r y.1.leading }
    if d = 0 then x
    else
      x.on (fun s => statBelow v.tensor y.2 (setLreg cell r { y.1 with releaded := true } s))

/-- The larger of two needs. -/
def worseNeed (a b : Nat × Nat × Int) : Nat × Nat × Int := if a.1 < b.1 then b else a

/-- Add one value to a lane of a long-word register (R159): a non-finite value poisons it, a value at or above P asks for a repeat with
the leading that the register starts from raised by the smallest Δ that puts the value below P (R162); at the leading 127 it poisons as
in R86. -/
def addLong (delta : SMap Nat) (cell r l : Nat) (w : W32) (x : VRun) : VRun :=
  let x := touchLong delta cell r x
  let v : LReg := { lregOf x.s cell r with loose := true }
  if !f32Finite w then x.on (fun s => statNonfinite v.tensor 1 (setLreg cell r { v with poison := true } s))
  else
    let d := f32Val w
    if belowLimit v.leading (p2 v.logN) d then
      let u := DyOp.toUnits d (v.leading - 75)
      let lost := if u.2 then 1 else 0
      x.on (fun s => statBelow v.tensor lost (setLreg cell r { v with
        below := v.below + lost
        lanes := SMap.putD v.lanes l 0 (wrap96 (SMap.getD v.lanes l 0 + u.1)) } s))
    else if 127 ≤ v.leading then x.on (setLreg cell r { v with poison := true })
    else
      let new := clampI (-128) 127 (v.leading + leastDelta v.leading (p2 v.logN) d)
      let n := (new - SMap.getD x.adj r v.leading).toNat
      { x with need := SMap.modify x.need r (0, 0, 0) (fun o => worseNeed o (n, v.tensor, new)) }

/-- A long word of a register under stage 3 of R94. -/
def roundLong (v : LReg) (l : Nat) : W32 :=
  if v.poison then f32NaN else rneF32Pos (longDy v.leading (SMap.getD v.lanes l 0))

/-! ### Loads and stores (R148, R149, R153) -/

/-- The case-memory offset of a lane. -/
def laneOffset (f : VFields) (l : Nat) : Int := (f.addr.toNat : Int) + l * f.stride.toInt * (laneBits f.w / 8 : Nat)

/-- Every offset lies in case memory on a multiple of the element size. -/
def offsetsFit (f : VFields) : Bool :=
  (List.range (laneNum f.w)).all (fun l =>
    let a := laneOffset f l
    decide (0 ≤ a ∧ a + (laneBits f.w / 8 : Nat) ≤ p2 23 ∧ a % (laneBits f.w / 8 : Nat) = 0))

def vLd (cell : Nat) (f : VFields) (x : VRun) : VRun :=
  if !offsetsFit f then x.stop
  else x.on (fun s => writeLanes cell f f.w ((List.range (laneNum f.w)).map (fun l =>
    leNat (caseBytes s cell (laneOffset f l).toNat (laneBits f.w / 8)))) s)

/-- ST: inactive lanes store nothing, or +0 under zeroing. Several lanes on one element (stride 0) leave a value that
the manual does not state: a free value (log entry 18). -/
def vSt (cell : Nat) (f : VFields) (x : VRun) : VRun :=
  if !offsetsFit f then x.stop
  else x.on (fun s =>
    let vals := lanesOf f.w (vregOf s cell f.va)
    let n := laneBits f.w / 8
    let live := (List.range (laneNum f.w)).filter (fun l => laneOn s cell f l || f.zeroing)
    if f.stride = 0 && live.length > 1 then
      let r := drawFree s
      caseWrite .own cell f.addr.toNat (leBytes n r.1.toNat) r.2
    else
      live.foldl (fun s' l => caseWrite .own cell (laneOffset f l).toNat
        (leBytes n (if laneOn s cell f l then vals.getD l 0 else 0)) s') s)

/-- Mark a galley slot for release (R148). -/
def markRelease (cell p : Nat) (s : State) : State := onEng cell (fun e => { e with releases := insertNat e.releases p }) s

def vLdg (cell : Nat) (f : VFields) (x : VRun) : VRun :=
  let p := f.addr.toNat % 8
  let row := bitsOf f.addr.toNat 14 8
  match (engOf x.s cell).galley[p]? with
  | none => x.stop
  | some t => x.on (fun s =>
      onlyIf f.release (markRelease cell p) (writeLanes cell f 0 ((List.range 128).map (fun j =>
        (SMap.getD t (128 * row + j) 0).toNat)) s))

/-! ### Element-wise instructions (R152, R154, R156) -/

def satI8 (x : Int) : Int := clampI (-128) 127 x

def vAdd (cell : Nat) (f : VFields) (x : VRun) : VRun := x.on (binaryOp addExact (fun a b => satI8 (a + b)) cell f)

def vSub (cell : Nat) (f : VFields) (x : VRun) : VRun :=
  x.on (binaryOp (fun a b => addExact a (if f32IsNaN b then b else f32Negate b)) (fun a b => satI8 (a - b)) cell f)

def vMul (cell : Nat) (f : VFields) (x : VRun) : VRun := x.on (binaryOp mulExact (fun a _ => a) cell f)

def vFma (cell : Nat) (f : VFields) (x : VRun) : VRun :=
  x.on (fun s =>
    let c := lanesF f.w (vregOf s cell f.vc)
    let ab := List.zip (lanesF f.w (vregOf s cell f.va)) (operandB s cell f)
    writeLanes cell f f.w (List.zipWith (fun p z => roundAt f.w (fmaExact p.1 p.2 z)) ab c) s)

def vMax (cell : Nat) (f : VFields) (x : VRun) : VRun :=
  x.on (binaryOp (fun a b => .inl (f32Max a b)) (fun a b => if a < b then b else a) cell f)

def vMin (cell : Nat) (f : VFields) (x : VRun) : VRun :=
  x.on (binaryOp (fun a b => .inl (f32Min a b)) (fun a b => if b < a then b else a) cell f)

def vAbs (cell : Nat) (f : VFields) (x : VRun) : VRun := x.on (unaryOp (fun a => quietNaN (f32Abs a)) cell f)

def vNeg (cell : Nat) (f : VFields) (x : VRun) : VRun := x.on (unaryOp (fun a => quietNaN (f32Negate a)) cell f)

/-- SEL copies the lane of va or of vb as it is. -/
def vSel (cell : Nat) (f : VFields) (x : VRun) : VRun :=
  x.on (fun s =>
    let m := mregOf s cell f.vc
    let a := lanesOf f.w (vregOf s cell f.va)
    let b : List Nat × State :=
      if f.w = 2 then
        let r := operandB8 s cell f
        (r.1.map (lowBits 8), r.2)
      else if f.vb = 0xFF then (List.replicate (laneNum f.w) (roundAt f.w (.inl f.addr)), s)
      else (lanesOf f.w (vregOf s cell f.vb), s)
    writeLanes cell f f.w ((List.range (laneNum f.w)).map (fun l =>
      if m.getLsbD l then a.getD l 0 else b.1.getD l 0)) b.2)

def vCmplt (cell : Nat) (f : VFields) (x : VRun) : VRun := x.on (compareOp f32Lt (fun a b => decide (a < b)) cell f)

def vCmple (cell : Nat) (f : VFields) (x : VRun) : VRun := x.on (compareOp f32Le (fun a b => decide (a ≤ b)) cell f)

def vCmpeq (cell : Nat) (f : VFields) (x : VRun) : VRun := x.on (compareOp f32Eq (fun a b => decide (a = b)) cell f)

def vMand (cell : Nat) (f : VFields) (x : VRun) : VRun := x.on (maskOp (fun a b => a && b) cell f)

def vMor (cell : Nat) (f : VFields) (x : VRun) : VRun := x.on (maskOp (fun a b => a || b) cell f)

def vMnot (cell : Nat) (f : VFields) (x : VRun) : VRun := x.on (maskOp (fun a _ => !a) cell f)

def vExp2 (cell : Nat) (f : VFields) (x : VRun) : VRun := x.on (unaryOp f32Exp2 cell f)

def vLog2 (cell : Nat) (f : VFields) (x : VRun) : VRun := x.on (unaryOp f32Log2 cell f)

def vRcp (cell : Nat) (f : VFields) (x : VRun) : VRun := x.on (unaryOp f32Rcp cell f)

def vRsqrt (cell : Nat) (f : VFields) (x : VRun) : VRun := x.on (unaryOp f32Rsqrt cell f)

def vTanh (cell : Nat) (f : VFields) (x : VRun) : VRun := x.on (unaryOp f32Tanh cell f)

def vErf (cell : Nat) (f : VFields) (x : VRun) : VRun := x.on (unaryOp f32Erf cell f)

def vCvt (cell : Nat) (f : VFields) (x : VRun) : VRun := x.on (convertOp (cvtChoice f) cell f)

/-! ### Reductions and scans (R157, R158) -/

def vRedsum (cell : Nat) (f : VFields) (x : VRun) : VRun := x.on (reduceOp f32Add f32NegZero cell f)

def vRedmax (cell : Nat) (f : VFields) (x : VRun) : VRun :=
  x.on (if f.w = 2 then reduceOp8 max (-128) cell f else reduceOp f32Max f32NegInf cell f)

def vRedmin (cell : Nat) (f : VFields) (x : VRun) : VRun :=
  x.on (if f.w = 2 then reduceOp8 min 127 cell f else reduceOp f32Min f32Inf cell f)

def vScan (cell : Nat) (f : VFields) (x : VRun) : VRun :=
  x.on (fun s =>
    let c := if f.vb = 0xFF then f32NegZero else (lanesF 0 (vregOf s cell f.vb)).getD 127 0
    let r := scanLanes (withIdentity s cell f f32NegZero (lanesF 0 (vregOf s cell f.va))) (segStarts s cell f) c
    writeLanes cell f 0 (r.map (·.toNat)) s)

/-! ### Exact mode (R159 to R161) -/

/-- AZERO clears its whole register: it names no lane, and the governing mask has no say in it (DESIGN CHOICE, log entry 18). -/
def vAzero (delta : SMap Nat) (cell : Nat) (f : VFields) (x : VRun) : VRun :=
  let a := f.addr.toNat
  let lead := clampI (-128) 127 (signExt 8 a + SMap.getD delta f.vd 0)
  let v : LReg := { LReg.zero with
    leading := lead
    logN := bitsOf a 12 8
    tensor := bitsOf a 31 16
    releaded := decide (0 < SMap.getD delta f.vd 0) }
  { x with s := setLreg cell f.vd v x.s, adj := SMap.put x.adj f.vd lead }

def vAadd (delta : SMap Nat) (cell : Nat) (f : VFields) (x : VRun) : VRun :=
  let a := lanesF 0 (vregOf x.s cell f.va)
  let on := (List.range 128).map (fun l => laneOn x.s cell f l)
  let x := if f.zeroing then (touchLong delta cell f.vd x).on (fun s =>
      let v := lregOf s cell f.vd
      setLreg cell f.vd { v with lanes := v.lanes.filter (fun p => on.getD p.1 true) } s)
    else x
  (List.range 128).foldl (fun x l => if on.getD l false then addLong delta cell f.vd l (a.getD l 0) x else x) x

def vAfold (delta : SMap Nat) (cell : Nat) (f : VFields) (x : VRun) : VRun :=
  (touchLong delta cell f.vd x).on (fun s =>
    let v := lregOf s cell f.vd
    let t := v.lanes.foldl (fun acc p => if laneOn s cell f p.1 then wrap96 (acc + p.2) else acc) 0
    setLreg cell f.vd { v with lanes := if t = 0 then [] else [(0, t)] } s)

/-- A value at or above P has reached a long-word register in this run: its later results are not written (R162). -/
def VRun.late (r : Nat) (x : VRun) : Bool := (SMap.get? x.need r).isSome

def vAround (delta : SMap Nat) (cell : Nat) (f : VFields) (x : VRun) : VRun :=
  if x.late f.va then x
  else (touchLong delta cell f.va x).on (fun s => writeLanes cell f 0 ((List.range 128).map (fun l => (roundLong (lregOf s cell f.va) l).toNat)) s)

/-- One lane of R160: a segment start resets the running total, an active lane adds, every lane gives the total, but for a register that
a value at or above P has reached (R162). -/
def scanLane (delta : SMap Nat) (cell : Nat) (f : VFields) (a : List W32) (on seg : List Bool)
    (x : VRun × List Nat) (l : Nat) : VRun × List Nat :=
  let y := if seg.getD l false then x.1.on (fun s =>
      let v := lregOf s cell f.vb
      setLreg cell f.vb { v with lanes := SMap.del v.lanes 0 } s)
    else x.1
  let y := if on.getD l false then addLong delta cell f.vb 0 (a.getD l 0) y else y
  (y, x.2 ++ [if y.late f.vb then (lanesOf 0 (vregOf y.s cell f.vd)).getD l 0 else (roundLong (lregOf y.s cell f.vb) 0).toNat])

def vAscan (delta : SMap Nat) (cell : Nat) (f : VFields) (x : VRun) : VRun :=
  let a := lanesF 0 (vregOf x.s cell f.va)
  let on := (List.range 128).map (fun l => laneOn x.s cell f l)
  let r := (List.range 128).foldl (scanLane delta cell f a on (segStarts x.s cell f)) (touchLong delta cell f.vb x, [])
  r.1.on (writeLanes cell f 0 r.2)

/-- A lane partial in case memory (R161). -/
def readPartial (s : State) (cell a : Nat) : LReg :=
  let n := fun (o k : Nat) => leNat (caseBytes s cell (a + o) k)
  let flags := n 1 1
  { LReg.zero with
    leading := signExt 8 (n 0 1)
    poison := bitOf flags 0
    below := n 12 4
    releaded := bitOf flags 2
    segment := n 2 2
    ks := ksOf (n 4 4) (n 8 4)
    lanes := (List.range 128).foldl (fun m l => SMap.putD m l 0 (signExt 96 (n (64 + 12 * l) 12))) [] }

/-- Two long-word registers may combine (R91): the ranges that they name lie in one segment and are disjoint. -/
def LReg.joins (x y : LReg) : Bool :=
  x.ks.isEmpty || y.ks.isEmpty || (x.segment == y.segment && ksApart x.ks y.ks)

/-- Combine a partial into a register under R91: the lower leading goes to the higher, the active long words add, poison and counts
join, and the range becomes the union. -/
def LReg.combine (on : Nat → Bool) (v p : LReg) : LReg × Nat :=
  let lead := max v.leading p.leading
  let a := v.raise lead
  let b := p.raise lead
  ({ a.1 with
      poison := v.poison || p.poison
      below := hold32 (a.1.below + b.1.below)
      releaded := v.releaded || p.releaded
      segment := if v.ks.isEmpty then p.segment else v.segment
      ks := ksUnion v.ks p.ks
      lanes := b.1.lanes.foldl (fun m q => if on q.1 then SMap.putD m q.1 0 (wrap96 (SMap.getD m q.1 0 + q.2)) else m) a.1.lanes },
    a.2 + b.2)

/-- ALD (R161): a lane partial is combined into register vd where R91 lets the two combine; where it does not, the register stays as it
is (log entry 18). Inactive lanes take no part, and become 0 under zeroing (R151). -/
def vAld (delta : SMap Nat) (cell : Nat) (f : VFields) (x : VRun) : VRun :=
  let x := touchLong delta cell f.vd x
  if f.addr.toNat + lanePartialBytes > p2 23 then x.stop
  else x.on (fun s =>
    let p := readPartial s cell f.addr.toNat
    let v := lregOf s cell f.vd
    let on := laneOn s cell f
    let v := if f.zeroing then { v with lanes := v.lanes.filter (fun q => on q.1) } else v
    if !v.joins p then setLreg cell f.vd v s
    else
      let r := v.combine on p
      statBelow v.tensor r.2 (setLreg cell f.vd r.1 s))

/-- AST (R161). For a register that values have entered by AADD, ASCAN or ACCR no rule says how the engine knows the element range:
k_first and k_count are free values then (log entry 18). Inactive lanes are not written, or written 0 under zeroing (R151). -/
def vAst (delta : SMap Nat) (cell : Nat) (f : VFields) (x : VRun) : VRun :=
  let x := touchLong delta cell f.va x
  if f.addr.toNat + lanePartialBytes > p2 23 then x.stop
  else if x.late f.va then x
  else x.on (fun s =>
    let v := lregOf s cell f.va
    let k0 := drawFree s
    let k1 := drawFree k0.2
    let s1 := if v.loose then k1.2 else s
    let first := if v.loose then k0.1.toNat else ksFirst v.ks
    let t : LTile := { LTile.zero v.leading with
      below := decide (0 < v.below)
      releaded := v.releaded
      nonfinite := v.poison
      segment := if v.loose then first / p2 20 else v.segment
      ks := ksOf first (if v.loose then k1.1.toNat else ksCount v.ks)
      belowCount := hold32 v.below }
    (List.range 128).foldl (fun s' l =>
      if laneOn s cell f l then caseWrite .own cell (f.addr.toNat + 64 + 12 * l) (leBytesI 12 (SMap.getD v.lanes l 0)) s'
      else if f.zeroing then caseWrite .own cell (f.addr.toNat + 64 + 12 * l) (zeros 12) s'
      else s') (caseWrite .own cell f.addr.toNat (t.bytes.take 64) s1))

/-! ### Top-k (R97, R98, R169) -/

/-- Where the byte at an endpoint of this chip came from, back through one item of a cell or unit (R237, R236, R193): the k of a drain whose
top-k records cover it, or the place that a transfer, a COPY or a REBLOCK moved it from. -/
def topkBack (s : State) (e : Endpoint) (x : Nat × Item) : Nat ⊕ Endpoint :=
  match x.2.body, e with
  | .drain d, .caseMem c a =>
    if d.topk && decide (c = x.1 ∧ d.topkDst ≤ a ∧ a < d.topkDst + 64 * (stripRows d).length) then .inl d.k else .inr e
  | .transfer d, .caseMem c a =>
    if decide (redirect s d.dstCell = c ∧ d.dst ≤ a ∧ a < d.dst + d.length) then .inr (.caseMem x.1 (d.src + (a - d.dst))) else .inr e
  | .bezel 0x01 d, .hbm _ => match epOffset s d.dst e with
    | some n => if n < d.rows then .inr (epAdd d.src n) else .inr e
    | none => .inr e
  | .bezel 0x02 d, _ =>
    let b := blockBytes d.srcFmt
    let from' := (List.range (ceilDiv d.rows 32)).findSome? (fun p => (List.range (ceilDiv d.cols 32)).findSome? (fun q =>
      let pq := (d.rowFirst / 32 + p, d.colFirst / 32 + q)
      match epOffset s (dstBlock d b pq.1 pq.2) e with
      | some n => if n < b then some (epAdd (srcBlock d b pq.1 pq.2) n) else none
      | none => none))
    .inr (match from'.getD e with
      | .caseMem c a => .caseMem (redirect s c) a
      | y => y)
  | _, _ => .inr e

/-- The k of the drain that made what stands at an endpoint, back through the items that have run, the last one first. -/
def topkFrom (s : State) : List (Nat × Item) → Endpoint → Option Nat
  | [], _ => none
  | x :: rest, e => match topkBack s e x with
    | .inl k => some k
    | .inr e2 => topkFrom s rest e2

/-- The items that have run, the last one first: those that have started in this frame, those of the formes before, and those of every
forme, which ran in an earlier step. -/
def itemsBack (s : State) : List (Nat × Item) :=
  let started := s.frame.started.filterMap (fun p => (itemOf s p.1 p.2).map (fun it => (p.1, it)))
  let behind := earlierItems { s with frame := { s.frame with formeIdx := (stepShape s).total } }
  started.reverse ++ (earlierItems s).reverse ++ behind.reverse

/-- The k of the drain that made the list at an offset (R169). -/
def topkMade (s : State) (cell addr : Nat) : Option Nat := topkFrom s (itemsBack s) (.caseMem cell addr)

/-- The entries of a top-k record that hold an index. -/
def topkEntries (s : State) (cell addr : Nat) : List (Nat × W32) :=
  (List.range 8).filterMap (fun i =>
    let ix := (caseWord s cell (addr + 32 + 4 * i)).toNat
    if ix = 0xFFFFFFFF then none else some (ix, caseWord s cell (addr + 4 * i)))

/-- TOPKM (R169) merges its lists whatever the governing mask (DESIGN CHOICE, log entry 18). For a list that no drain of this chip made, its k is a
free value (log entry 18). -/
def vTopkm (cell : Nat) (f : VFields) (x : VRun) : VRun :=
  if Nat.max f.addr.toNat f.stride.toNat + 64 * f.vc > p2 23 then x.stop
  else x.on (fun s =>
    let made := topkMade s cell f.addr.toNat
    let r := drawFree s
    let k := made.getD (r.1.toNat % 8 + 1)
    (List.range f.vc).foldl (fun s' i =>
      let a := f.addr.toNat + 64 * i
      caseWrite .own cell a (topkRecord k (topkEntries s' cell a ++ topkEntries s' cell (f.stride.toNat + 64 * i))) s')
      (if made.isSome then s else r.2))

end Sys2Proof.Machine
end

