-- ==== Sys2Proof/Machine/Ligature.lean ====
section
/-! DEFINITION. Ligatures (R163 to R167), vector items (R148, R162, R168), and one meaning per vector opcode. -/

namespace Sys2Proof.Machine
open Sys2Proof

/-- A ligature descriptor (R163). -/
structure LigDesc where
  count : Nat
  in0Src : Nat
  in0Fmt : Nat
  in1Fmt : Nat
  outFmt : List Nat
  quant : Nat
  release : Bool
  accExact : Bool
  rowReg : Nat
  colReg : Nat
  accReg : Nat
  rows : Nat
  outTensor : List Nat
  in0Addr : Nat
  in1Addr : Nat
  outAddr : List Nat
  rowFirst : Nat
  colFirst : Nat
  stream : W32
  colMask : Nat
  cols : Nat
  k : List W32
  program : List Nat
deriving DecidableEq, Repr

/-- Read a descriptor from case memory (R163). -/
def readLig (s : State) (cell a : Nat) : LigDesc :=
  let n := fun (o k : Nat) => leNat (caseBytes s cell (a + o) k)
  { count := n 0 1
    in0Src := n 1 1
    in0Fmt := n 2 1
    in1Fmt := n 3 1
    outFmt := [n 4 1, n 5 1]
    quant := n 6 1
    release := bitOf (n 7 1) 0
    accExact := bitOf (n 7 1) 1
    rowReg := n 8 1
    colReg := n 9 1
    accReg := n 10 1
    rows := n 11 1
    outTensor := [n 12 2, n 14 2]
    in0Addr := n 16 4
    in1Addr := n 20 4
    outAddr := [n 24 4, n 28 4]
    rowFirst := n 32 4
    colFirst := n 36 4
    stream := BitVec.ofNat 32 (n 40 4)
    colMask := n 44 1
    cols := n 48 4
    k := (List.range 8).map (fun i => BitVec.ofNat 32 (n (64 + 4 * i) 4))
    program := (List.range (n 0 1)).map (fun i => n (96 + 4 * i) 4) }

/-- Element (i, j) of an input tile in case memory: block (p, q) at the tile's offset + (4p + q) blocks; a promoted tile
is read from its slot (R163, R167). -/
def ligInput (s : State) (cell fmt addr i j : Nat) : W32 :=
  let src := blockSource s (.caseMem cell (addr + (4 * (i / 32) + j / 32) * blockBytes fmt)) fmt (.cell cell)
  blockF32 src.1 (blockReader s src.2.1 src.1) (i % 32) (j % 32)

/-- Element (i, j) of input 0. -/
def ligIn0 (s : State) (cell : Nat) (d : LigDesc) (i j : Nat) : W32 :=
  if d.in0Src = 0 then SMap.getD ((engOf s cell).galley.getD (d.in0Addr % 8) []) (128 * i + j) 0
  else ligInput s cell d.in0Fmt d.in0Addr i j

/-- The random operand: (u >> 8) × 2^−24 (R165). -/
def ligRandom (s : State) (d : LigDesc) (i j : Nat) : W32 :=
  rneF32 false ⟨elementDraw s d.stream d.cols (d.rowFirst + i) (d.colFirst + j) / 256, -24⟩

/-- A ligature in progress within one row: the run, the temporaries by lane, the outputs of the row. -/
structure LigRow where
  x : VRun
  t : SMap (List W32)
  o0 : List W32
  o1 : List W32

/-- The 128 lanes of an operand (R165). No rule speaks of selector 0x12, 0x13 or 0x11 in a descriptor whose row_reg, col_reg or in1_fmt is
0xFF: the loader accepts it, and the model reads vector register 255, which holds 0, or in1's blocks at the code 0xFF (DESIGN CHOICE, log
entry 18). -/
def ligOperand (cell : Nat) (d : LigDesc) (i : Nat) (r : LigRow) (sel : Nat) : List W32 :=
  let s := r.x.s
  let cols := List.range 128
  if sel < 0x10 then SMap.getD r.t sel []
  else if sel = 0x10 then cols.map (ligIn0 s cell d i)
  else if sel = 0x11 then cols.map (ligInput s cell d.in1Fmt d.in1Addr i)
  else if sel = 0x12 then List.replicate 128 ((lanesF 0 (vregOf s cell d.rowReg)).getD i 0)
  else if sel = 0x13 then lanesF 0 (vregOf s cell d.colReg)
  else if sel < 0x1C then List.replicate 128 (d.k.getD (sel - 0x14) 0)
  else if sel = 0x1C then List.replicate 128 (f32OfNat (d.rowFirst + i))
  else if sel = 0x1D then cols.map (fun j => f32OfNat (d.colFirst + j))
  else if sel = 0x1F then List.replicate 128 f32One
  else if sel = 0x20 then cols.map (ligRandom s d i)
  else List.replicate 128 0

/-- The condition of SEL (R166). -/
def ligCond (mod : Nat) (a : W32) : Bool :=
  if mod = 0 then f32Lt 0 a else if mod = 1 then f32Le 0 a else if mod = 2 then f32Eq a 0 else f32IsNaN a

def f32Bool (b : Bool) : W32 := if b then f32One else 0

/-- The lane result of an opcode that writes a temporary (R166). MOV and SEL copy a NaN as it is: R154 speaks of the NaN results of operations
(DESIGN CHOICE, log entry 18). -/
def ligLane (op mod : Nat) (a b c : W32) : W32 :=
  match op with
  | 0x01 => a
  | 0x02 => f32Add a b
  | 0x03 => f32Sub a b
  | 0x04 => f32Mul a b
  | 0x05 => f32Fma a b c
  | 0x06 => f32Max a b
  | 0x07 => f32Min a b
  | 0x08 => quietNaN (f32Abs a)
  | 0x09 => quietNaN (f32Negate a)
  | 0x0A => if ligCond mod a then b else c
  | 0x0B => f32Bool (f32Lt a b)
  | 0x0C => f32Bool (f32Le a b)
  | 0x0D => f32Bool (f32Eq a b)
  | 0x0E => f32Floor a
  | 0x0F => f32Rint a
  | 0x10 => f32Exp2 a
  | 0x11 => f32Log2 a
  | 0x12 => f32Rcp a
  | 0x13 => f32Rsqrt a
  | 0x14 => f32Tanh a
  | _ => f32Erf a

/-- ACCR (R166): an exact sum, a tree sum or a tree maximum into lane i of acc_reg. No rule speaks of a maximum under acc_exact, where R163
names a long-word register: the model writes the vector register of that number (DESIGN CHOICE, log entry 18). -/
def ligAccr (delta : SMap Nat) (cell : Nat) (d : LigDesc) (act : List Bool) (i mod : Nat) (a : List W32) (x : VRun) : VRun :=
  if mod % 2 = 0 && d.accExact then
    (List.range 128).foldl (fun x j =>
      if act.getD j false then addLong delta cell d.accReg i (a.getD j 0) x else x) x
  else
    let z := if mod % 2 = 0 then f32NegZero else f32NegInf
    let op := if mod % 2 = 0 then f32Add else f32Max
    let v := laneTree op 7 ((List.range 128).map (fun j => if act.getD j false then a.getD j 0 else z))
    x.on (fun s =>
      let old := lanesOf 0 (vregOf s cell d.accReg)
      setVreg cell d.accReg (packLanes 0 (setAt old i (op (BitVec.ofNat 32 (old.getD i 0)) v).toNat)) s)

/-- One ligature instruction on one row (R164). -/
def ligStep (delta : SMap Nat) (cell : Nat) (d : LigDesc) (act : List Bool) (i : Nat) (r : LigRow) (word : Nat) : LigRow :=
  let op := bitsOf word 31 26
  let a := ligOperand cell d i r (bitsOf word 21 16)
  let mod := bitsOf word 3 0
  if op = 0x20 then { r with x := ligAccr delta cell d act i mod a r.x }
  else if op = 0x21 then { r with o0 := a }
  else if op = 0x22 then { r with o1 := a }
  else
    let b := ligOperand cell d i r (bitsOf word 15 10)
    let c := ligOperand cell d i r (bitsOf word 9 4)
    let v := (List.range 128).map (fun j => ligLane op mod (a.getD j 0) (b.getD j 0) (c.getD j 0))
    { r with t := SMap.put r.t (bitsOf word 25 22) v }

/-- The rows of a ligature: the run and each row's outputs. -/
def ligRows (delta : SMap Nat) (cell : Nat) (d : LigDesc) (act : List Bool) (x : VRun) : VRun × List (List W32) × List (List W32) :=
  (List.range d.rows).foldl (fun acc i =>
    let r := d.program.foldl (ligStep delta cell d act i) { x := acc.1, t := [], o0 := [], o1 := [] }
    (r.x, acc.2.1 ++ [r.o0], acc.2.2 ++ [r.o1])) (x, [], [])

/-- A plain output: each block takes the active columns of the processed rows, and +0 beyond the tensor's edge (R65, R66, R174); its counts
are those of R469. -/
def ligPlain (cell : Nat) (te : TabEntry) (tensor fmt : Nat) (place : Nat → Nat) (d : LigDesc) (act : List Bool) (out : List (List W32))
    (s : State) : State :=
  let nr := te.rows - d.rowFirst
  let nc := te.cols - d.colFirst
  let live := fun (i j : Nat) => decide (i < d.rows) && act.getD j false
  let val := fun (i j : Nat) => (out.getD i []).getD j 0
  let size := if fmt = 5 then 2 else 4
  let blocks := ((List.range 4).flatMap (fun p => (List.range 4).map (fun q => (p, q)))).filter (fun b =>
    decide (32 * b.1 < d.rows ∧ 32 * b.1 < nr ∧ 32 * b.2 < nc) && (List.range 32).any (fun j => act.getD (32 * b.2 + j) false))
  let s := blocks.foldl (fun s b =>
    let base := place (4 * b.1 + b.2)
    let bytes := (List.range 1024).flatMap (fun e =>
      let i := 32 * b.1 + e / 32
      let j := 32 * b.2 + e % 32
      if nr ≤ i || nc ≤ j then zeros size
      else if live i j then
        (if fmt = 5 then leBytes 2 (f32ToBf16 (val i j)).toNat else leBytes 4 (val i j).toNat)
      else caseBytes s cell (base + size * e) size)
    caseWrite .own cell base bytes s) s
  let s := ((edgeBlocks te d.rowFirst d.colFirst (Nat.min d.rows nr) (Nat.min 128 nc)).filter (fun b => decide (b.1 < 4 ∧ b.2 < 4))).foldl
    (fun s b => caseWrite .own cell (place (4 * b.1 + b.2)) (zeroBlock fmt) s) s
  blocks.foldl (fun s b =>
    let c := plainCounts fmt (narrowerF te) none (fun i j =>
      if live (32 * b.1 + i) (32 * b.2 + j) then f32Op (val (32 * b.1 + i) (32 * b.2 + j)) else .val 0 0)
      (nr - 32 * b.1) (nc - 32 * b.2)
    statOwn tensor { c.1 with cols := if (narrowerF te).isSome then colsFrom (d.colFirst + 32 * b.2) (nc - 32 * b.2) c.2 else [] } s) s

/-- A chase or integer output: whole tiles under R470. What the quantizer sees in an inactive column inside the tensor
is not stated: a free value (log entry 18). -/
def ligChase (cell : Nat) (te : TabEntry) (tensor fmt : Nat) (place : Nat → Nat) (d : LigDesc) (act : List Bool) (out : List (List W32))
    (s : State) : State :=
  let nr := Nat.min d.rows (te.rows - d.rowFirst)
  let nc := Nat.min 128 (te.cols - d.colFirst)
  let holes := (List.range nc).any (fun j => !act.getD j false)
  let base := s.freeIdx
  let x := fun (i j : Nat) => if act.getD j false then (out.getD i []).getD j 0 else Config.freeWord (base + 128 * i + j)
  let s := if holes then { s with freeIdx := s.freeIdx + 16384 } else s
  writeQuantized false te tensor d.quant fmt d.rowFirst d.colFirst nr nc d.stream d.cols x
    (fun n p q => .caseMem cell (place (16 * n + 4 * p + q))) (fun _ _ => .cell cell) s

/-- Write one output of a ligature, when it has one. -/
def ligOutput (cell : Nat) (d : LigDesc) (act : List Bool) (n : Nat) (out : List (List W32)) (s : State) : State :=
  let fmt := d.outFmt.getD n 0xFF
  let tensor := d.outTensor.getD n 0
  if !fmtLegal fmt || !out.any (fun r => !r.isEmpty) then s
  else
    match tabEntry s tensor with
    | none => s
    | some te =>
      let f := outFormat s tensor fmt
      let place := fun (k : Nat) => match writtenAt s tensor fmt (fun b => .caseMem cell (d.outAddr.getD n 0 + k * b)) with
        | .caseMem _ o => o
        | _ => 0
      if fmtNarrow f then ligChase cell te tensor f place d act out s
      else ligPlain cell te tensor f place d act out s

/-- LIG (R163 to R167). Its active columns are those of col_mask: the governing mask of the instruction has no say in them (DESIGN CHOICE, log
entry 18). -/
def vLig (delta : SMap Nat) (cell : Nat) (f : VFields) (x : VRun) : VRun :=
  let d := readLig x.s cell f.addr.toNat
  if d.in0Src = 0 && decide ((engOf x.s cell).galley.length ≤ d.in0Addr % 8) then x.stop
  else
    let act := (List.range 128).map (fun j => (mregOf x.s cell d.colMask).getLsbD j)
    let r := ligRows delta cell d act x
    r.1.on (fun s =>
      onlyIf (d.in0Src = 0 && (d.release || f.release)) (markRelease cell (d.in0Addr % 8))
        (ligOutput cell d act 1 r.2.2 (ligOutput cell d act 0 r.2.1 s)))

/-! ### Items -/

/-- One instruction of an item. -/
def vStep (delta : SMap Nat) (cell : Nat) (x : VRun) (i : VInstr) : VRun :=
  if !x.ok || !i.legal then x.stop
  else
    match i.op with
    | .ld => vLd cell i.f x
    | .st => vSt cell i.f x
    | .ldg => vLdg cell i.f x
    | .add => vAdd cell i.f x
    | .sub => vSub cell i.f x
    | .mul => vMul cell i.f x
    | .fma => vFma cell i.f x
    | .max => vMax cell i.f x
    | .min => vMin cell i.f x
    | .abs => vAbs cell i.f x
    | .neg => vNeg cell i.f x
    | .sel => vSel cell i.f x
    | .cmplt => vCmplt cell i.f x
    | .cmple => vCmple cell i.f x
    | .cmpeq => vCmpeq cell i.f x
    | .mand => vMand cell i.f x
    | .mor => vMor cell i.f x
    | .mnot => vMnot cell i.f x
    | .exp2 => vExp2 cell i.f x
    | .log2 => vLog2 cell i.f x
    | .rcp => vRcp cell i.f x
    | .rsqrt => vRsqrt cell i.f x
    | .tanh => vTanh cell i.f x
    | .erf => vErf cell i.f x
    | .cvt => vCvt cell i.f x
    | .redsum => vRedsum cell i.f x
    | .redmax => vRedmax cell i.f x
    | .redmin => vRedmin cell i.f x
    | .scan => vScan cell i.f x
    | .azero => vAzero delta cell i.f x
    | .aadd => vAadd delta cell i.f x
    | .afold => vAfold delta cell i.f x
    | .around => vAround delta cell i.f x
    | .ascan => vAscan delta cell i.f x
    | .ald => vAld delta cell i.f x
    | .ast => vAst delta cell i.f x
    | .lig => vLig delta cell i.f x
    | .topkm => vTopkm cell i.f x

/-- Run a program from its first instruction, with repeats (R162): every repeat starts from the same state with the raises
found so far; `rel` lists the re-leads counted. The events and the output statistics of an aborted run go with its state (DESIGN CHOICE, log
entry 18: R162 does not say that they stand). A program that cannot run leaves the state as it is: `none`. -/
def runProgram (cell : Nat) (prog : List VInstr) (s : State) : Nat → SMap Nat → List (Nat × Int) → Option State
  | 0, _, _ => none
  | fuel + 1, delta, rel =>
    let x := prog.foldl (vStep delta cell) { s := s, adj := [], need := [], ok := true }
    if !x.ok then none
    else if x.need.isEmpty then
      some (rel.foldl (fun s r => statOwn r.1 { StatRec.empty with relead := 1, leading := some r.2 } s) x.s)
    else
      runProgram cell prog s fuel (x.need.foldl (fun d p => SMap.modify d p.1 0 (fun o => o + p.2.1)) delta)
        (rel ++ x.need.map (fun p => p.2.2))

/-- Run a program on a cell. The repeats end: every repeat raises one of 4 leadings, within −128 to 127. -/
def runVector (cell : Nat) (prog : List VInstr) (s : State) : Option State := runProgram cell prog s 1100 [] []

/-- The program of a vector item. -/
def progOf : ItemBody → List VInstr
  | .vector prog => prog
  | _ => []

/-- A vector instruction may run on a cell: in the lock-up only within a vector item that has started (R38). -/
def vectorRuns (s : State) (cell : Nat) (i : VInstr) : Bool :=
  cellWorks s cell && (!s.frame.lockUp || s.frame.running.any (fun p => p.1 = cell &&
    ((itemOf s cell p.2).map (fun it => (progOf it.body).contains i)).getD false))

/-- A vector instruction on its own: a vector item of one instruction, without the item's end. -/
def runOne (cell : Nat) (op : VOp) (f : VFields) (s : State) : State :=
  if vectorRuns s cell { op := op, f := f } then (runVector cell [{ op := op, f := f }] s).getD s else s

/-- VECTOR_ITEM (R148, R152, R162): at its end the marked galley slots are freed and a waiting drain goes on. -/
def runVectorItem (cell : Nat) (prog : List VInstr) (s : State) : State :=
  match (if mayRun s cell (.vector prog) then runVector cell prog s else none) with
  | none => s
  | some s' => wakeDrain cell (onEng cell freeSlots (finishItem cell (.vector prog) s'))

def execVectorItem (cell : Nat) (prog : List VInstr) (s : State) : Out := effect (runVectorItem cell prog) s

/-- LD (R152) on one cell. -/
def execLd (cell : Nat) (f : VFields) (s : State) : Out := effect (runOne cell .ld f) s

/-- ST (R152) on one cell. -/
def execSt (cell : Nat) (f : VFields) (s : State) : Out := effect (runOne cell .st f) s

/-- LDG (R152) on one cell. -/
def execLdg (cell : Nat) (f : VFields) (s : State) : Out := effect (runOne cell .ldg f) s

/-- ADD (R152) on one cell. -/
def execAdd (cell : Nat) (f : VFields) (s : State) : Out := effect (runOne cell .add f) s

/-- SUB (R152) on one cell. -/
def execSub (cell : Nat) (f : VFields) (s : State) : Out := effect (runOne cell .sub f) s

/-- MUL (R152) on one cell. -/
def execMul (cell : Nat) (f : VFields) (s : State) : Out := effect (runOne cell .mul f) s

/-- FMA (R152) on one cell. -/
def execFma (cell : Nat) (f : VFields) (s : State) : Out := effect (runOne cell .fma f) s

/-- MAX (R152) on one cell. -/
def execMax (cell : Nat) (f : VFields) (s : State) : Out := effect (runOne cell .max f) s

/-- MIN (R152) on one cell. -/
def execMin (cell : Nat) (f : VFields) (s : State) : Out := effect (runOne cell .min f) s

/-- ABS (R152) on one cell. -/
def execAbs (cell : Nat) (f : VFields) (s : State) : Out := effect (runOne cell .abs f) s

/-- NEG (R152) on one cell. -/
def execNeg (cell : Nat) (f : VFields) (s : State) : Out := effect (runOne cell .neg f) s

/-- SEL (R152) on one cell. -/
def execSel (cell : Nat) (f : VFields) (s : State) : Out := effect (runOne cell .sel f) s

/-- CMPLT (R152) on one cell. -/
def execCmplt (cell : Nat) (f : VFields) (s : State) : Out := effect (runOne cell .cmplt f) s

/-- CMPLE (R152) on one cell. -/
def execCmple (cell : Nat) (f : VFields) (s : State) : Out := effect (runOne cell .cmple f) s

/-- CMPEQ (R152) on one cell. -/
def execCmpeq (cell : Nat) (f : VFields) (s : State) : Out := effect (runOne cell .cmpeq f) s

/-- MAND (R152) on one cell. -/
def execMand (cell : Nat) (f : VFields) (s : State) : Out := effect (runOne cell .mand f) s

/-- MOR (R152) on one cell. -/
def execMor (cell : Nat) (f : VFields) (s : State) : Out := effect (runOne cell .mor f) s

/-- MNOT (R152) on one cell. -/
def execMnot (cell : Nat) (f : VFields) (s : State) : Out := effect (runOne cell .mnot f) s

/-- EXP2 (R152) on one cell. -/
def execExp2 (cell : Nat) (f : VFields) (s : State) : Out := effect (runOne cell .exp2 f) s

/-- LOG2 (R152) on one cell. -/
def execLog2 (cell : Nat) (f : VFields) (s : State) : Out := effect (runOne cell .log2 f) s

/-- RCP (R152) on one cell. -/
def execRcp (cell : Nat) (f : VFields) (s : State) : Out := effect (runOne cell .rcp f) s

/-- RSQRT (R152) on one cell. -/
def execRsqrt (cell : Nat) (f : VFields) (s : State) : Out := effect (runOne cell .rsqrt f) s

/-- TANH (R152) on one cell. -/
def execTanh (cell : Nat) (f : VFields) (s : State) : Out := effect (runOne cell .tanh f) s

/-- ERF (R152) on one cell. -/
def execErf (cell : Nat) (f : VFields) (s : State) : Out := effect (runOne cell .erf f) s

/-- CVT (R152) on one cell. -/
def execCvt (cell : Nat) (f : VFields) (s : State) : Out := effect (runOne cell .cvt f) s

/-- REDSUM (R152) on one cell. -/
def execRedsum (cell : Nat) (f : VFields) (s : State) : Out := effect (runOne cell .redsum f) s

/-- REDMAX (R152) on one cell. -/
def execRedmax (cell : Nat) (f : VFields) (s : State) : Out := effect (runOne cell .redmax f) s

/-- REDMIN (R152) on one cell. -/
def execRedmin (cell : Nat) (f : VFields) (s : State) : Out := effect (runOne cell .redmin f) s

/-- SCAN (R152) on one cell. -/
def execScan (cell : Nat) (f : VFields) (s : State) : Out := effect (runOne cell .scan f) s

/-- AZERO (R152) on one cell. -/
def execAzero (cell : Nat) (f : VFields) (s : State) : Out := effect (runOne cell .azero f) s

/-- AADD (R152) on one cell. -/
def execAadd (cell : Nat) (f : VFields) (s : State) : Out := effect (runOne cell .aadd f) s

/-- AFOLD (R152) on one cell. -/
def execAfold (cell : Nat) (f : VFields) (s : State) : Out := effect (runOne cell .afold f) s

/-- AROUND (R152) on one cell. -/
def execAround (cell : Nat) (f : VFields) (s : State) : Out := effect (runOne cell .around f) s

/-- ASCAN (R152) on one cell. -/
def execAscan (cell : Nat) (f : VFields) (s : State) : Out := effect (runOne cell .ascan f) s

/-- ALD (R152) on one cell. -/
def execAld (cell : Nat) (f : VFields) (s : State) : Out := effect (runOne cell .ald f) s

/-- AST (R152) on one cell. -/
def execAst (cell : Nat) (f : VFields) (s : State) : Out := effect (runOne cell .ast f) s

/-- LIG (R152) on one cell. -/
def execLig (cell : Nat) (f : VFields) (s : State) : Out := effect (runOne cell .lig f) s

/-- TOPKM (R152) on one cell. -/
def execTopkm (cell : Nat) (f : VFields) (s : State) : Out := effect (runOne cell .topkm f) s

end Sys2Proof.Machine
end

