-- ==== Sys2Proof/Machine/Sequencer.lean ====
section
/-! DEFINITION. The cell sequencers: when items start (R38, R117, R198 to R200), transfers through the block router
(R236, R246), and the timeouts of the arbiters (R21, R22). -/

namespace Sys2Proof.Machine
open Sys2Proof

/-- The chip runs formes: it is RUNNING inside a step, or runs its stuck forme index again (R48), and takes part in its
domain (R54, R272). -/
def formesRun (s : State) : Bool :=
  (decide (s.dev.state = .running) || s.frame.retry || proofRuns s) && s.frame.inStep && !s.frame.stuck && takesPart s

/-- Case-memory requests that waited 4,096 cycles (R21). -/
def execSequencerTimeout (cell : Nat) (s : State) : Out := effect (countEvent .cell cell 5) s

/-- A router request that waited 16,384 cycles (R22). -/
def execArbiterTimeout (block : Nat) (s : State) : Out := effect (countEvent .block block 2) s

/-- The bytes of a transfer move into the destination cell's staging; a fenced destination is redirected (R32, R236, R246), and one whose clock
has stopped makes it wait (R407). -/
def runTransfer (cell : Nat) (d : TransferDesc) (s : State) : State :=
  if !mayRun s cell (.transfer d) || !epRuns s (.caseMem (redirect s d.dstCell) d.dst) || d.dstCell ≥ 288 || d.src + d.length > p2 23 || d.dst + d.length > p2 23 then s
  else finishItem cell (.transfer d) (caseWrite .own (redirect s d.dstCell) d.dst (caseBytes s cell d.src d.length) s)

def execTransfer (cell : Nat) (d : TransferDesc) (s : State) : Out := effect (runTransfer cell d) s

/-! ### Item order -/

/-- An item goes before another as a deferrable choice: lower earliest index, then lower number (R198). -/
def deferBefore (a b : Item) : Bool := decide (a.earliest < b.earliest ∨ (a.earliest = b.earliest ∧ a.number < b.number))

/-- The galley positions that a program names are filled (R148). -/
def galleyFilled (s : State) (cell : Nat) (prog : List VInstr) : Bool :=
  prog.all (fun i => match i.op with
    | .ldg => decide (i.f.addr.toNat % 8 < (engOf s cell).galley.length)
    | .lig =>
      let d := readLig s cell i.f.addr.toNat
      d.in0Src != 0 || decide (d.in0Addr % 8 < (engOf s cell).galley.length)
    | _ => true)

/-- An item waits on nothing that the state shows. -/
def itemReady (s : State) (cell : Nat) (it : Item) : Bool :=
  match it.body with
  | .vector prog => galleyFilled s cell prog
  | _ => true

/-- A deferrable item that sends Clasp data starts only below 40 % of the frame (R199); `pos` in microseconds. -/
def sendWindow (s : State) (it : Item) (pos : Nat) : Bool :=
  !(it.deferrable && it.sends) || decide (5 * pos < 2 * frameUs s.tick.rate)

/-- The deferrable item that a cell would start in place of an ordered one (R198, R199); in its latest forme it is an ordered one itself. -/
def deferChoice (s : State) (cell pos : Nat) : Option Item :=
  let k := s.frame.formeIdx
  let all := (recordsOf s cell).flatMap (fun r => r.items.filter (fun it =>
    it.deferrable && decide (it.earliest ≤ k ∧ k < it.latest) && !itemGone s cell it && itemReady s cell it && sendWindow s it pos))
  all.foldl (fun best it => match best with
    | none => some it
    | some b => if deferBefore it b then some it else some b) none

/-- The item that an owner starts (R198): the next ordered one where `ready` and the state let it start, else a deferrable one. -/
def chooseItem (s : State) (owner pos : Nat) (ready : Bool) : Option Item :=
  match (orderedLeft s owner).head? with
  | some it => if ready && itemReady s owner it && sendWindow s it pos then some it else deferChoice s owner pos
  | none => deferChoice s owner pos

/-- An item starts: it is on its way, and a pass's weight tile begins to load (R108, R198). -/
def beginItem (cell : Nat) (it : Item) (s : State) : State :=
  let s1 := { s with frame := { s.frame with
    started := insertPair s.frame.started (cell, it.number)
    running := insertPair s.frame.running (cell, it.number) } }
  match it.body with
  | .pass d =>
    if d.reuse || (engOf s cell).next.isSome then s1
    else onEng cell (fun e => { e with next := some (loadTile s cell d) }) s1
  | _ => s1

/-- The lock-up begins while a cell's next item waits on the galley alone: the item counts as on its way and runs on (R38, R171). -/
def beginWaiting (cell : Nat) (s : State) : State :=
  match (orderedLeft s cell).head? with
  | some it => if s.frame.cellStarted.contains cell && !itemReady s cell it then beginItem cell it s else s
  | none => s

/-- Change the wait on a group; one that begins is timed from the opening tick of the frame (R333). -/
def onWait (group : Nat) (f : GWait → GWait) (s : State) : State :=
  let w := SMap.getD s.fabric.waits group { since := s.tick.count, missing := [], unacked := [], cells := [] }
  { s with fabric := { s.fabric with waits := SMap.put s.fabric.waits group (f w) } }

/-- A cell's next item waits for contributions of a group (R333). -/
def beginWait (cell group : Nat) (missing : List Nat) (s : State) : State :=
  onWait group (fun w => { w with missing := missing.foldl insertNat w.missing, cells := insertNat w.cells cell }) s

/-- FORME_ITEM_START (R198): the next ordered item, or a ready deferrable one when it cannot start. -/
def startItem (cell pos : Nat) (wait : ItemWait) (s : State) : State :=
  if !formesRun s || !cellWorks s cell || s.frame.lockUp || !s.frame.cellStarted.contains cell || s.image.spareLoads.contains cell then s
  else
    let s := match wait with
      | .inbound group missing => beginWait cell group missing s
      | _ => s
    match chooseItem s cell pos (decide (wait = .ready)) with
    | some it => beginItem cell it s
    | none => s

def execFormeItemStart (cell pos : Nat) (wait : ItemWait) (s : State) : Out := effect (startItem cell pos wait) s

/-- The weight tile of a cell's first pass begins to load (R108, R109). -/
def loadFirst (cell : Nat) (s : State) : State :=
  if (engOf s cell).next.isSome then s else onEng cell (fun e => { e with next := followingTile s cell e.active }) s

/-- CELL_START (R117, R118): the cell's start offset has passed, its first weight tile loads and its first forme item starts. -/
def startCell (cell : Nat) (s : State) : State :=
  if !formesRun s || !cellWorks s cell || s.frame.cellStarted.contains cell || s.image.spareLoads.contains cell then s
  else startItem cell (s.env.offset / 10) .ready
    (loadFirst cell { s with frame := { s.frame with cellStarted := insertNat s.frame.cellStarted cell } })

def execCellStart (cell : Nat) (s : State) : Out := effect (startCell cell) s

end Sys2Proof.Machine
end

