-- ==== Sys2Proof/Machine/Hbm.lean ====
section
/-! DEFINITION. HBM reads with their check bytes, the poison table, scrub, repair, migration and retirement (R182 to
R189), the commit of HBM staging (R177 to R179), and the grant of operation slots (R190). -/

namespace Sys2Proof.Machine
open Sys2Proof

/-! ### Pages by their physical page -/

/-- The device page that a physical page holds as committed. -/
def pageOfPhys (s : State) (phys : Nat) : Option Nat :=
  (s.hbm.map.find? (fun p => pageStack p.1 * p2 20 + p.2.ppn = phys)).map (·.1)

/-- A staging or delta page of the frame. -/
def stagingPhys (s : State) (phys : Nat) : Bool :=
  s.hbm.localPages.any (fun p => p.2 = phys) || s.hbm.carPages.any (fun p => p.2 = phys) || s.hbm.deltaPages.any (fun p => p.2 = phys)

/-- The source numbers of "HBM corrected" and "HBM uncorrectable" of a physical page's pseudo-channel (R366). -/
def hbmSource (base phys : Nat) : Nat := base + 32 * (pageStack phys % 2) + pagePc phys

/-! ### Weak rows (R185, R186) -/

/-- Soft post-package repair of a row (R186). -/
def repairRow (phys row : Nat) (s : State) : State :=
  let s1 := { s with
    hbm := { s.hbm with weak := s.hbm.weak.filter (· != (phys, row)), corrected := s.hbm.corrected.filter (· != (phys, row)) }
    flash := { s.flash with softRepairs := insertPair s.flash.softRepairs (phys, row) } }
  recordEvent 0x0006 (leBytes 1 (pageStack phys) ++ leBytes 1 0 ++ leBytes 4 (phys % p2 20))
    (onLife (fun l => { l with pprSoft := l.pprSoft + 1 }) s1)

/-- A row becomes weak; a row of a free page is repaired without a migration. -/
def weaken (phys row : Nat) (s : State) : State :=
  if s.hbm.weak.contains (phys, row) then s
  else if (pageOfPhys s phys).isNone && !s.hbm.taken.contains phys then repairRow phys row s
  else { s with hbm := { s.hbm with weak := s.hbm.weak ++ [(phys, row)] } }

/-- A physical page that goes back to the pool: its weak rows are repaired first (R186). -/
def freePhys (phys : Nat) (s : State) : State :=
  (s.hbm.weak.filter (fun r => r.1 = phys)).foldl (fun s r => repairRow r.1 r.2 s) (releasePage phys s)

/-- Unmap one page: its bytes read 0 again and its physical page is free (R181, R294). -/
def unmapPage (k : Nat) (s : State) : State :=
  match pageEnt s k with
  | none => s
  | some _ =>
    let phys := physOf s k
    dropPoison phys (freePhys phys { s with hbm := { s.hbm with
      map := SMap.del s.hbm.map k
      mem := Memory.clear s.hbm.mem (k * 65536) 65536 } })

/-- A scrub finds a corrected word: the second such finding in a row makes it weak (R185). -/
def scrubCorrected (phys row : Nat) (s : State) : State :=
  if s.hbm.corrected.contains (phys, row) then weaken phys row s
  else { s with hbm := { s.hbm with corrected := s.hbm.corrected ++ [(phys, row)] } }

/-! ### The poison table (R183, R184) -/

/-- Words that a bezel unit lists. -/
def poisonCount (s : State) (stack : Nat) : Nat := (s.hbm.poison.filter (fun w => pageStack w.1 = stack)).length

/-- The page key of slot page k of a snapshot slot (R339). -/
def slotPage (start k : Nat) : Nat := ((addrStack start + k) % 8) * p2 20 + start / 65536 % p2 20 + k / 8

/-- Pages of a slot of `bytes` (R244). -/
def slotPages (start bytes : Nat) : List Nat := (List.range (ceilDiv bytes 65536 + 256)).map (slotPage start)

/-- The parts of a slot that a generation takes up (R339): offset and length of its header, proof record, tables and data. -/
def GenHdr.parts (g : GenHdr) : List (Nat × Nat) := [(0, 64), (65536, 64), (131072, g.tables), (16777216, g.bytes)]

/-- A word of a page, by its offset there, belongs to the generation that a slot holds. -/
def genHolds (start bytes k off : Nat) (g : GenHdr) : Bool :=
  match (slotPages start bytes).findIdx? (· = k) with
  | some j => g.parts.any (fun p => decide (p.1 < 65536 * j + off + 32 ∧ 65536 * j + off < p.1 + p.2))
  | none => false

/-- Mark the generation that holds a word as damaged (R184, R344). -/
def damageSlot (k word : Nat) (s : State) : State :=
  match s.image.img with
  | none => s
  | some i =>
    let dmg := fun (start bytes : Nat) (h : Option GenHdr) =>
      h.map (fun g => { g with damaged := g.damaged || genHolds start bytes k (32 * word) g })
    { s with snap := { s.snap with
      held0 := dmg i.snap.where0 i.snap.bytes0 s.snap.held0
      held1 := dmg i.snap.where1 i.snap.bytes1 s.snap.held1 } }

/-- Set damaged in the header of the generation that a slot holds, while it is not set there (R340, R344): a local write of firmware. -/
def markHeader (start : Nat) (h : Option GenHdr) (s : State) : State :=
  let a := slotPage start 0 * 65536 + 28
  if h.any (·.damaged) && !(hbmByte s a).getLsbD 2 then hbmWrite a [hbmByte s a ||| 4] s else s

/-- The headers of the damaged generations are marked, in a frame that does not follow a withheld write of them (R177, R344). -/
def markDamaged (s : State) : State :=
  match s.image.img with
  | none => s
  | some i => markHeader i.snap.where1 s.snap.held1 (markHeader i.snap.where0 s.snap.held0 s)

/-- The action of a page class on a word that enters the table (R184). -/
def poisonAction (cls k word : Nat) (s : State) : State :=
  if cls = 1 then { s with hbm := { s.hbm with regenWords := insertPair s.hbm.regenWords (k, word) } }
  else if cls = 4 || cls = 5 then askRetire { s with step := { s.step with masterPoison := true } }
  else if cls = 8 then damageSlot k word s
  else if cls = 9 then askRetire s
  else s

/-- A word enters the poison table (R183, R184); a full table retires the chip. -/
def enterPoison (phys word : Nat) (s : State) : State :=
  match pageOfPhys s phys with
  | none => s
  | some k =>
    if s.hbm.poison.contains (phys, word) then s
    else if poisonCount s (pageStack phys) ≥ 1024 then askRetire s
    else poisonAction ((pageClass s k).getD 0) k word { s with hbm := { s.hbm with poison := s.hbm.poison ++ [(phys, word)] } }

/-! ### Reads (R182) -/

/-- Change committed bytes where the decoder's correction is itself wrong (log entry 14). -/
def xorWord (phys word : Nat) (diff : List Byte) (s : State) : State :=
  match pageOfPhys s phys with
  | none => s
  | some k =>
    let a := k * 65536 + 32 * word
    hbmPut a (List.zipWith (· ^^^ ·) (hbmBytes s a 32) (sliceB diff 0 32)) s

/-- One uncorrectable read: the first puts the frame in doubt, the second enters the word into the table (R182). -/
def uncorrectable (phys word : Nat) (confirmed : Bool) (s : State) : State :=
  let s := weaken phys (word / 32) (onLife (fun l => { l with uncorrectable := l.uncorrectable + 1 })
    (countEvent .region (pageStack phys / 2) (hbmSource 0x140 phys) s))
  if confirmed || s.hbm.failedOnce.contains (phys, word) then enterPoison phys word s
  else inDoubt { s with hbm := { s.hbm with failedOnce := s.hbm.failedOnce ++ [(phys, word)] } }

/-- HBM_READ (R182): what the decoder finds in a word. A listed word delivers no outcome (R183). -/
def readWord (u : HbmUpset) (s : State) : State :=
  if s.hbm.poison.contains (u.page, u.word) then s
  else
    match rsDecode u.errors with
    | .clean => s
    | .corrected b v =>
      let left := setAt u.errors b (u.errors.getD b 0 ^^^ BitVec.ofNat 8 v)
      xorWord u.page u.word left (onLife (fun l => { l with corrected := l.corrected + 1 })
        (countEvent .region (pageStack u.page / 2) (hbmSource 0x100 u.page) s))
    | .uncorrectable => uncorrectable u.page u.word false s

/-- A word that the scrub reads (R182, R185): an uncorrectable one counts once more when the re-read confirms it, and then
enters the table. `again` says that the re-read failed too. -/
def scrubWord (u : HbmUpset) (again : Bool) (s : State) : State :=
  if stagingPhys s u.page || s.hbm.poison.contains (u.page, u.word) then s
  else
    match rsDecode u.errors with
    | .clean => s
    | .corrected _ _ => scrubCorrected u.page (u.word / 32) (readWord u s)
    | .uncorrectable =>
      if again then uncorrectable u.page u.word true s
      else weaken u.page (u.word / 32) (onLife (fun l => { l with uncorrectable := l.uncorrectable + 1 })
        (countEvent .region (pageStack u.page / 2) (hbmSource 0x140 u.page) s))

/-- The words of a scrub in order; a word listed a second time is the re-read. -/
def scrubWords : List HbmUpset → List (Nat × Nat) → State → State
  | [], _, s => s
  | u :: rest, seen, s =>
    scrubWords rest ((u.page, u.word) :: seen) (scrubWord u (seen.contains (u.page, u.word)) s)

def unitOf (s : State) (unit : Nat) : UnitSt := SMap.getD s.hbm.units unit { sinceScrub := 0, sinceMig := 0, granted := none, credit := ⟨0, 1⟩ }

def setUnit (unit : Nat) (u : UnitSt) (s : State) : State := { s with hbm := { s.hbm with units := SMap.put s.hbm.units unit u } }

/-- A bezel unit runs: firmware and its region's clocks do (R28, R406). -/
def unitRuns (s : State) (unit : Nat) : Bool := coreRuns s && !s.clocks.stopped.contains (unit / 2)

/-- A bezel unit serves its stack: the PHY's clock runs too (R406, R407). -/
def stackRuns (s : State) (unit : Nat) : Bool := unitRuns s unit && !s.hbm.training.contains unit

/-- Reads that fail while a stack retrains: each counts "HBM uncorrectable" (R411). -/
def failedReads (unit : Nat) (reads : List HbmUpset) (s : State) : State :=
  (reads.filter (fun u => pageStack u.page = unit && decide (rsDecode u.errors = .uncorrectable))).foldl (fun s u =>
    onLife (fun l => { l with uncorrectable := l.uncorrectable + 1 }) (countEvent .region (pageStack u.page / 2) (hbmSource 0x140 u.page) s)) s

/-- A unit reads its stack: with the PHY's clock running it does its work; while the stack retrains only the reads under way end, failed
(R406, R411). -/
def onStack (unit : Nat) (reads : List HbmUpset) (f : State → State) (s : State) : State :=
  if stackRuns s unit then f s else if unitRuns s unit then failedReads unit reads s else s

/-- SCRUB (R185): the unit reads its pages; a slot of its own is spent. -/
def runScrub (unit : Nat) (reads : List HbmUpset) (s : State) : State :=
  if s.frame.lockUp then s
  else scrubWords (reads.filter (fun u => pageStack u.page = unit)) []
    (setUnit unit { unitOf s unit with sinceScrub := 0, granted := some .scrub } s)

def execScrub (unit : Nat) (reads : List HbmUpset) (s : State) : Out := effect (onStack unit reads (runScrub unit reads)) s

/-! ### Slot grant (R190) -/

/-- The fixed order of R190. -/
def grantOrder : List ReqClass := [.inbound, .forme, .host, .firmware, .migration, .scrub]

/-- Pages of a stack that migration has taken in the frame (R187). -/
def movedPages (s : State) (stack : Nat) : Nat := (s.hbm.migrated.filter (fun k => pageStack k = stack)).length

/-- The requester that takes the slot: the first in the order. Scrub keeps 1 of every 4,096 slots (R185), and migration its 64 pages a
frame (R187): a migration that waits takes every second slot until `moved` reaches 64 (DESIGN CHOICE, log entry 20). -/
def grantOf (u : UnitSt) (moved : Nat) (waiting : List ReqClass) : Option ReqClass :=
  if waiting.contains .scrub && decide (4095 ≤ u.sinceScrub) then some .scrub
  else if waiting.contains .migration && decide (1 ≤ u.sinceMig) && decide (moved < 64) then some .migration
  else grantOrder.find? (fun c => waiting.contains c)

/-- The classes that a reduced admission holds back (R384). -/
def throttled (c : ReqClass) : Bool := c = .forme || c = .host

/-- The requester that takes the slot under the admission of R384: forme and host operations take the fraction `admitted` of the slots that they
would take, and leave the others to the next in the order (DEDUCED, log entry 40). The second part is what stays gathered. -/
def admittedClass (u : UnitSt) (admitted : Frac) (moved : Nat) (waiting : List ReqClass) : Option ReqClass × Frac :=
  match grantOf u moved waiting with
  | some c =>
    let sum := Frac.add u.credit admitted
    if !throttled c then (some c, u.credit)
    else if Frac.le (Frac.ofNat 1) sum then (some c, Frac.sub sum (Frac.ofNat 1))
    else (grantOf u moved (waiting.filter (fun x => !throttled x)), sum)
  | none => (none, u.credit)

/-- The unit's own record starts its next item (R190, R198, R199, R235). -/
def startUnitItem (unit pos : Nat) (s : State) : State :=
  if !formesRun s then s
  else
    match chooseItem s (512 + unit) pos true with
    | some it => beginItem (512 + unit) it s
    | none => s

/-- BEZEL_SLOT_GRANT (R190): no operation starts in the lock-up (R38). `reads` are the upset words that the granted
operation reads. -/
def runGrant (unit : Nat) (waiting : SlotBids) (reads : List HbmUpset) (s : State) : State :=
  if s.frame.lockUp then s
  else
    let g := admittedClass (unitOf s unit) s.power.admitted (movedPages s unit) waiting.classes
    match g.1 with
    | none => if g.2 = (unitOf s unit).credit then s else setUnit unit { unitOf s unit with credit := g.2 } s
    | some c =>
      let n := if c = .scrub then 0 else (unitOf s unit).sinceScrub + 1
      let m := if c = .migration then 0 else (unitOf s unit).sinceMig + 1
      let s1 := setUnit unit { sinceScrub := n, sinceMig := m, granted := some c, credit := g.2 } s
      let mine := reads.filter (fun u => pageStack u.page = unit)
      match c with
      | .scrub => scrubWords mine [] s1
      | .forme => mine.foldl (fun s u => readWord u s) (startUnitItem unit waiting.pos s1)
      | _ => mine.foldl (fun s u => readWord u s) s1

def execBezelSlotGrant (unit : Nat) (waiting : SlotBids) (reads : List HbmUpset) (s : State) : Out :=
  effect (onStack unit reads (runGrant unit waiting reads)) s

/-! ### Migration and retirement (R187, R188) -/

/-- Why a page must leave its physical page: a weak row, or a retiring pseudo-channel. -/
def mustMove (s : State) (phys : Nat) : Bool :=
  s.hbm.weak.any (fun r => r.1 = phys) || s.hbm.retiring.contains (pageStack phys, pagePc phys)

/-- Free physical pages of a stack outside a pseudo-channel. -/
def freeElsewhere (s : State) (stack pc : Nat) : Nat :=
  let here := fun (q : Nat) => pageStack q = stack && pagePc q = pc
  if (s.hbm.retiring ++ s.hbm.retired).contains (stack, pc) then freePages s stack
  else freePages s stack - (32768 - (s.hbm.excluded.filter (fun q => here q)).length
    - (s.hbm.taken.filter (fun q => here q && !s.hbm.excluded.contains q)).length)

/-- The copy of a migrating page in another pseudo-channel; a copy of the frame in the same one gives way to it (R187). -/
def migrateCopy (unit page : Nat) (s : State) : State :=
  let pc := pagePc (physOf s page)
  let r := takePage unit (some pc) s
  let old := SMap.get? s.hbm.localPages page
  let s1 := { r.1 with hbm := { r.1.hbm with
    localPages := SMap.put r.1.hbm.localPages page r.2
    migrated := r.1.hbm.migrated ++ [page] } }
  match old with
  | some q => releasePage q s1
  | none => s1

/-- MIGRATION (R187): a local copy in another pseudo-channel; at most 64 pages a frame and stack. A copy that the frame's own writes have
made in another pseudo-channel serves both. -/
def runMigration (unit page : Nat) (s : State) : State :=
  match pageEnt s page with
  | none => s
  | some _ =>
    let phys := physOf s page
    if s.frame.lockUp || pageStack page != unit || !mustMove s phys || s.hbm.migrated.contains page
        || decide (64 ≤ movedPages s unit) then s
    else
      let copy := SMap.get? s.hbm.localPages page
      if copy.any (fun q => pagePc q != pagePc phys) then { s with hbm := { s.hbm with migrated := s.hbm.migrated ++ [page] } }
      else if (copy.isNone && !canStage s unit) || freePages s unit = 0 then stagingOverflow unit s
      else if freeElsewhere s unit (pagePc phys) = 0 then s
      else migrateCopy unit page s

def execMigration (unit page : Nat) (s : State) : Out := effect (onlyIf (stackRuns s unit) (runMigration unit page)) s

/-- Every page of a pseudo-channel has left it, and no local copy of the frame lies in it. -/
def pcEmpty (s : State) (stack pc : Nat) : Bool :=
  !s.hbm.map.any (fun p => pageStack p.1 = stack && pagePc p.2.ppn = pc)
    && !s.hbm.localPages.any (fun p => pageStack p.2 = stack && pagePc p.2 = pc)

/-- Usable physical pages lost with a pseudo-channel. -/
def pcPages (s : State) (stack pc : Nat) : Nat :=
  32768 - (s.hbm.excluded.filter (fun q => pageStack q = stack && pagePc q = pc)).length

/-- Pages that still lie in a pseudo-channel. -/
def pcUsed (s : State) (stack pc : Nat) : Nat := (s.hbm.map.filter (fun p => pageStack p.1 = stack && pagePc p.2.ppn = pc)).length

/-- Pages of a stack that its retiring pseudo-channels still hold. -/
def retiringUsed (s : State) (stack : Nat) : Nat :=
  (((s.hbm.retiring.filter (fun p => p.1 = stack)).map (fun p => pcUsed s p.1 p.2))).sum

/-- The free pool cannot take the pages of a retiring pseudo-channel and keep one frame's staging (R188, R189). -/
def poolShort (s : State) (stack : Nat) : Bool := decide (freePages s stack < retiringUsed s stack + 4096)

/-- PC_RETIREMENT_DONE (R188, R249): the retirement is recorded; a fifth in one stack retires the chip. -/
def runPcDone (stack pc : Nat) (s : State) : State :=
  if !s.hbm.retiring.contains (stack, pc) || !pcEmpty s stack pc then s
  else
    let s1 := { s with
      hbm := { s.hbm with
        retiring := s.hbm.retiring.filter (· != (stack, pc))
        retired := s.hbm.retired ++ [(stack, pc)]
        usable := setAt s.hbm.usable stack (s.hbm.usable.getD stack 0 - pcPages s stack pc) }
      flash := { s.flash with retired := insertPair s.flash.retired (stack, pc) }
      life := { s.life with writeDue := true } }
    let s2 := recordEvent 0x0007 (leBytes 1 stack ++ leBytes 1 pc) (onLife (fun l => { l with retiredPc := l.retiredPc + 1 }) s1)
    if (s2.hbm.retired.filter (fun p => p.1 = stack)).length ≥ 5 then askRetire s2 else s2

def execPcRetirementDone (stack pc : Nat) (s : State) : Out := effect (onlyIf (unitRuns s stack) (runPcDone stack pc)) s

/-! ### The commit of HBM staging (R178, R179) -/

/-- Every byte of the 32-byte word at device word w is in an overlay. -/
def wordWhole (ov : List Host.Cell) (w : Nat) : Bool := (List.range 32).all (fun i => (SMap.get? ov (32 * w + i)).isSome)

/-- One page takes its local copy: the map names the new physical page, listings move with the words that were not rewritten, what a COPY
has listed enters the table, and a weak row left behind is repaired (R178, R183, R184, R186). -/
def adoptLocal (s : State) (p : Nat × Nat) : State :=
  match pageEnt s p.1 with
  | none => releasePage p.2 s
  | some e =>
    let old := physOf s p.1
    let moved := s.hbm.poison.filterMap (fun w =>
      if w.1 = old then (if wordWhole s.hbm.localB (p.1 * 2048 + w.2) then none else some (p.2, w.2)) else some w)
    let s1 := freePhys old { s with hbm := { s.hbm with
      map := SMap.put s.hbm.map p.1 { e with ppn := p.2 % p2 20 }
      poison := moved } }
    (s.hbm.poisonStaged.filter (fun w => w / 2048 = p.1)).foldl (fun s w => enterPoison p.2 (w % 2048) s) s1

/-- The words of the carried writes of a frame: a partial word starts from the committed word (R177). -/
def carriedWords (s : State) (ws : List CarW) : List Host.Cell :=
  ws.foldl (fun ov w =>
    let words := pagesOf 32 w.addr w.bytes.length
    let filled := words.foldl (fun ov k =>
      if (SMap.get? ov (32 * k)).isSome then ov else overlayN ov (32 * k) (hbmBytes s (32 * k) 32)) ov
    overlayN filled w.addr w.bytes) []

/-- Bytes that carried writes cover. -/
def carriedCover (ws : List CarW) : List Host.Cell := ws.foldl (fun ov w => overlayN ov w.addr w.bytes) []

/-- Listings of words that carried writes rewrite whole are cleared (R183). -/
def clearCarried (cover : List Host.Cell) (s : State) : State :=
  { s with hbm := { s.hbm with poison := s.hbm.poison.filter (fun w =>
      match pageOfPhys s w.1 with
      | some k => !wordWhole cover (k * 2048 + w.2)
      | none => true) } }

/-- Add to the committed statistics of a tensor. -/
def statCommitted (tensor : Nat) (r : StatRec) (s : State) : State :=
  { s with stats := { s.stats with committed := SMap.modify s.stats.committed tensor StatRec.empty (StatRec.add r) } }

/-- Fold one delta tile into the committed buffer and count the events under the tensor of its contributions (R91, R178). A delta of rounded
parts rounds each sum to FP32 (R332; DEDUCED, log entry 20). The key is twice
the address, plus 1 for a lane partial. One that does not lie in the buffer's segment with K ranges apart from it does not combine. The
ranges of a buffer are those kept with it while its header agrees with them, else those of its header. -/
def foldDelta (s : State) (d : Nat × Nat × LTile) : State :=
  let a := d.1 / 2
  let size := if d.1 % 2 = 1 then lanePartialBytes else longTileBytes
  let old := hbmLongTile s a size
  let kept := SMap.getD s.hbm.ranges d.1 []
  let old := { old with ks := if ksFirst kept = ksFirst old.ks && ksCount kept = ksCount old.ks then kept else old.ks }
  if !old.joins d.2.2 then s
  else
    let r := LTile.combine old d.2.2
    let new := if d.2.2.rounded then { r.1.roundFp with rounded := false } else r.1
    statCommitted d.2.1 { StatRec.empty with belowWindow := r.2 }
      (onHbm (fun h => { h with ranges := SMap.put h.ranges d.1 new.ks }) (hbmPut a (new.bytes.take size) s))

/-- Return the physical pages of a staging map to the pool. -/
def releaseAll (m : SMap Nat) (s : State) : State := m.foldl (fun s p => releasePage p.2 s) s

/-- Forget the HBM staging of the frame, but for what `keep` keeps of the carried writes. -/
def clearStaging (keep : CarW → Bool) (s : State) : State :=
  let kept := s.hbm.carried.filter keep
  let pages := (kept.flatMap (fun w => pagesOf 65536 w.addr w.bytes.length))
  let gone := s.hbm.carPages.filter (fun p => !pages.contains p.1)
  releaseAll gone (releaseAll s.hbm.deltaPages { s with hbm := { s.hbm with
    localB := []
    localPages := []
    carried := kept
    carPages := s.hbm.carPages.filter (fun p => pages.contains p.1)
    deltaLocal := []
    deltaIn := []
    deltaPages := []
    poisonStaged := []
    poisonIn := []
    fullStacks := []
    migrated := [] } })

/-- The commit of R178; at a local withhold (R179) `own` is false and only the carried and inbound staging commits. `keep`
holds back carried writes of the fabric: false at the target tick of R44. -/
def hbmCommit (own inbound : Bool) (s : State) : State :=
  let ws := s.hbm.carried.filter (fun w => w.host || inbound)
  let words := carriedWords s ws
  let s1 := if own then
      let t := s.hbm.localPages.foldl adoptLocal s
      { t with hbm := { t.hbm with mem := Memory.fold t.hbm.mem s.hbm.localB, failedOnce := [] } }
    else releaseAll s.hbm.localPages s
  let s2 := clearCarried (carriedCover ws) { s1 with hbm := { s1.hbm with mem := Memory.fold s1.hbm.mem words } }
  let s2 := if inbound then s.hbm.poisonIn.foldl (fun t w => enterPoison (physOf t (w / 2048)) (w % 2048) t) s2 else s2
  let s3 := if own then s.hbm.deltaLocal.foldl foldDelta s2 else s2
  let s4 := if inbound then s.hbm.deltaIn.foldl foldDelta s3 else s3
  clearStaging (fun _ => false) s4

/-- A withheld tick (R43, R50, R179): everything is discarded but the host's carried writes. -/
def hbmWithhold (s : State) : State := clearStaging (fun w => w.host) (releaseAll s.hbm.localPages s)

end Sys2Proof.Machine
end

