-- ==== Sys2Proof/Machine/Mailbox.lean ====
section
/-! DEFINITION. The mailbox: slots, taking, the checks of every command, completion records (R259, R263 to R265,
R274 to R279), the control lease (R268, R269), and the writes of BAR0 registers (R257, R258). -/

namespace Sys2Proof.Machine
open Sys2Proof

/-! ### Status codes (R276) -/

def stDone : Nat := 0x0000
def stAccepted : Nat := 0x0001
def stBusy : Nat := 0x0101
def stNotOwner : Nat := 0x0102
def stBadOpcode : Nat := 0x0103
def stBadArgument : Nat := 0x0104
def stWrongState : Nat := 0x0105
def stRefusedFit : Nat := 0x0201
def stStepMismatch : Nat := 0x0202
def stFeedShared : Nat := 0x0203
def stNoSnapshot : Nat := 0x0204
def stProofFailed : Nat := 0x0205
def stUnproven : Nat := 0x0206
def stGroupStalled : Nat := 0x0207
def stSignatureInvalid : Nat := 0x0208
def stRollbackRefused : Nat := 0x0209
def stRetire : Nat := 0x020A

/-! ### Slots and the ring -/

def slotAt (p : PPort) (n : Nat) (s : State) : Slot := SMap.getD (getPPort p s).slots n Slot.reset

def setSlot (p : PPort) (n : Nat) (x : Slot) (s : State) : State :=
  onPort p (fun q => { q with slots := SMap.put q.slots n x }) s

/-- Records that the ring holds (R258). -/
def ringEntries (q : PortSt) : Nat := 64 * p2 q.ringSize

/-- The ring is full (R259). -/
def ringFull (q : PortSt) : Bool := q.ringEnable && decide ((q.written - q.consumed).toNat = ringEntries q)

/-- The 32 bytes of a completion record, written as record `w` (R265). -/
def ComplRec.bytes (r : ComplRec) (entries w : Nat) : List Byte :=
  leBytes 1 (bitAt (decide (w / entries % 2 = 0)) 0) ++ leBytes 1 r.kind ++ leBytes 2 r.opcode.toNat ++ leBytes 4 r.tag.toNat
    ++ leBytes 2 r.status.toNat ++ leBytes 2 r.reason.toNat ++ leBytes 1 r.slot ++ zeros 3 ++ leBytes 8 r.tick.toNat
    ++ leBytes 8 r.detail.toNat

/-- A record falls due at a port whose ring is enabled (R263, R265); behind a RESET none does (R283). -/
def dueRecord (p : PPort) (r : ComplRec) (s : State) : State :=
  if s.mbx.silenced then s else onPort p (fun q => if q.ringEnable && !q.inReset then { q with waiting := q.waiting ++ [r] } else q) s

/-- A slot becomes DONE (R263, R274). Behind a RESET an ACCEPTED command ends without completion (R273). A slot that a port reset
has freed stays FREE, and its record is discarded (R273). -/
def completeSlot (p : PPort) (n status reason : Nat) (result : List Byte) (s : State) : State :=
  let x := slotAt p n s
  if (x.st != .taken && x.st != .accepted) || (s.mbx.silenced && x.st = .accepted) then s
  else
  let y := { x with
    st := .done
    status := BitVec.ofNat 16 status
    resLen := BitVec.ofNat 16 result.length
    reason := BitVec.ofNat 16 reason
    doneTick := s.tick.count
    payload := result ++ x.payload.drop result.length }
  dueRecord p { kind := 1, opcode := x.opcode, tag := x.tag, status := y.status, reason := y.reason, slot := n,
                     tick := s.tick.count, detail := BitVec.ofNat 64 (fieldN result 0 8) } (setSlot p n y s)

/-- A batch's record (R208, R265). -/
def batchRecord (b : Batch) (status attempted : Nat) (s : State) : State :=
  dueRecord b.port { kind := 2, opcode := 0x0051, tag := b.tag, status := BitVec.ofNat 16 status, reason := 0, slot := 0xFF,
                     tick := s.tick.count, detail := BitVec.ofNat 64 attempted } s

/-- A taken command: its port, its slot, its argument bytes and whether its port held the lease when it arrived. -/
structure Cmd where
  port : PPort
  slot : Nat
  argLen : Nat
  args : List Byte
  alive : Bool
deriving DecidableEq, Repr

/-- The command completes. -/
def Cmd.finish (c : Cmd) (status : Nat) (result : List Byte) (s : State) : State := completeSlot c.port c.slot status 0 result s

/-- The command completes with REFUSED_FIT and a reason. -/
def Cmd.refuse (c : Cmd) (reason : Nat) (result : List Byte) (s : State) : State :=
  completeSlot c.port c.slot stRefusedFit reason result s

/-- The command passes to ACCEPTED (R263, R277). -/
def Cmd.accept (c : Cmd) (op : Nat) (result : List Byte) (s : State) : State :=
  let x := slotAt c.port c.slot s
  let s1 := setSlot c.port c.slot { x with
    st := .accepted
    status := BitVec.ofNat 16 stAccepted
    reason := 0
    resLen := BitVec.ofNat 16 result.length
    payload := result ++ x.payload.drop result.length } s
  { s1 with mbx := { s1.mbx with accepted := s1.mbx.accepted ++ [{ port := c.port, slot := c.slot, opcode := op, args := c.args }] } }

/-- An ACCEPTED command with an opcode. -/
def acceptedOp (s : State) (op : Nat) : Option Acc := s.mbx.accepted.find? (fun a => a.opcode = op)

/-- An ACCEPTED command finishes (R263, R268). -/
def finishAcc (a : Acc) (status reason : Nat) (result : List Byte) (s : State) : State :=
  completeSlot a.port a.slot status reason result { s with mbx := { s.mbx with accepted := s.mbx.accepted.filter (· != a) } }

/-- The ACCEPTED command of an opcode finishes, when there is one. -/
def finishCmd (op status reason : Nat) (result : List Byte) (s : State) : State :=
  match acceptedOp s op with
  | some a => finishAcc a status reason result s
  | none => s

/-! ### The command table (R278) -/

/-- Which hosts may issue a command, and in which states. -/
structure CmdInfo where
  anyHost : Bool
  states : List DevState
deriving DecidableEq, Repr

/-- The states in which firmware takes slots (R264). -/
def servedStates : List DevState := [.ready, .loaded, .running, .held, .snapshotting, .restoring, .retireRequested]

def everyState (anyHost : Bool) : Option CmdInfo := some { anyHost := anyHost, states := servedStates }
def holderIn (l : List DevState) : Option CmdInfo := some { anyHost := false, states := l }

def cmdInfo (op : Nat) : Option CmdInfo :=
  match op with
  | 0x0001 | 0x0002 | 0x0010 => everyState true
  | 0x0011 | 0x0012 | 0x0013 | 0x0020 | 0x0021 | 0x0022 | 0x0023 => everyState false
  | 0x0030 | 0x0034 | 0x0040 => holderIn [.ready]
  | 0x0031 | 0x0032 => holderIn [.ready, .loaded, .held]
  | 0x0033 => holderIn [.ready, .loaded, .running, .held, .retireRequested]
  | 0x0041 => holderIn [.loaded, .held]
  | 0x0042 => everyState true
  | 0x0050 => holderIn [.loaded]
  | 0x0051 => holderIn [.loaded, .running, .held, .snapshotting]
  | 0x0052 => holderIn [.running, .held, .snapshotting]
  | 0x0053 => holderIn [.held]
  | 0x0060 | 0x0061 => holderIn [.loaded, .running, .held]
  | 0x0062 => holderIn [.loaded]
  | 0x0063 => holderIn [.held]
  | 0x0064 => holderIn [.loaded, .running, .held, .retireRequested]
  | 0x0070 => everyState true
  | 0x0071 => everyState false
  | 0x0072 => holderIn [.ready, .loaded, .running, .held]
  | 0x0073 => holderIn [.ready, .loaded, .held]
  | 0x0080 | 0x0081 => everyState true
  | 0x0090 | 0x0091 => holderIn [.loaded, .held]
  | 0x00A0 | 0x00A1 => holderIn [.ready, .loaded, .held, .retireRequested]
  | 0x00B0 => some { anyHost := true, states := [.loaded, .running, .held, .snapshotting, .restoring, .retireRequested] }
  | _ => none

/-- The commands that exclude one another (R279, first row). -/
def exclusiveOps : List Nat := [0x40, 0x41, 0x31, 0x32, 0x60, 0x61, 0x62, 0x63, 0x90, 0x91]

/-- The commands that return bulk data (R279). -/
def bulkOps : List Nat := [0x64, 0x80, 0xB0]

/-- A conflicting command runs (R279), but for the two cases that depend on the arguments. -/
def conflicts (op : Nat) (p : PPort) (s : State) : Bool :=
  if exclusiveOps.contains op then s.dev.reimposing || s.mbx.accepted.any (fun a => exclusiveOps.contains a.opcode)
  else if op = 0x52 then (acceptedOp s 0x52).isSome
  else if op = 0x53 then (acceptedOp s 0x52).isSome || s.dev.reimposing
  else if op = 0xA0 || op = 0xA1 then (acceptedOp s 0xA0).isSome
  else if bulkOps.contains op then s.mbx.accepted.any (fun a => bulkOps.contains a.opcode && decide (a.port = p))
  else false

/-- The port may issue the command (R269). A renewal that arrived alive still counts after the expiry (R268). -/
def mayIssue (op : Nat) (c : Cmd) (s : State) : Bool :=
  (match cmdInfo op with
    | some i => i.anyHost
    | none => true)
  || decide (s.own.holder = some c.port)
  || (decide (op = 0x11 ∧ s.own.holder = none ∧ s.own.lapsed = some c.port) && c.alive)

/-- Firmware takes slots (R264). -/
def takesSlots (s : State) : Bool := servedStates.contains s.dev.state && !s.clocks.coreReset && !s.clocks.stopped.contains 0

/-- The slot that firmware takes next: the oldest of a port whose ring is not full (R259, R264). -/
def nextSlot (s : State) : Option Arrival :=
  if takesSlots s then s.mbx.order.find? (fun a => !ringFull (getPPort a.port s) && portServed a.port s) else none

/-- The first refusal that applies to a listed command (R275). -/
def refusalOf (op : Nat) (argsOk : Bool) (c : Cmd) (s : State) : Option Nat :=
  match cmdInfo op with
  | none => some stBadOpcode
  | some i =>
    if !mayIssue op c s then some stNotOwner
    else if !argsOk then some stBadArgument
    else if !i.states.contains s.dev.state then some (if s.dev.state = .retireRequested then stRetire else stWrongState)
    else if conflicts op c.port s then some stBusy
    else none

/-- The command in a slot. -/
def cmdOf (a : Arrival) (s : State) : Cmd :=
  let x := slotAt a.port a.slot s
  { port := a.port, slot := a.slot, argLen := x.argLen.toNat, args := x.payload.take x.argLen.toNat, alive := a.alive }

/-- The slot is TAKEN (R263). -/
def takeSlot (a : Arrival) (s : State) : State :=
  setSlot a.port a.slot { slotAt a.port a.slot s with st := .taken }
    { s with mbx := { s.mbx with order := s.mbx.order.filter (· != a) } }

/-- Firmware takes the next slot and finds this opcode in it (R275). A row whose opcode is not the next slot's stands
for no event (log entry 2). -/
def command (op : Nat) (argsOk : Cmd → State → Bool) (run : Cmd → State → State) (s : State) : State :=
  match nextSlot s with
  | none => s
  | some a =>
    if (slotAt a.port a.slot s).opcode.toNat = op then
      let c := cmdOf a s
      match refusalOf op (argsOk c s) c s with
      | some st => c.finish st [] (takeSlot a s)
      | none => run c (takeSlot a s)
    else s

/-- A command with a check of its own on what the chip holds, behind the state and the conflicts (check 6 of R275). -/
def checked (ok : Cmd → State → Bool) (run : Cmd → State → State) (c : Cmd) (s : State) : State :=
  if ok c s then run c s else c.finish stBadArgument [] s

/-- No arguments (R274). -/
def noArgs (c : Cmd) (_ : State) : Bool := c.argLen = 0

/-- A field of the arguments. -/
def Cmd.n (c : Cmd) (a k : Nat) : Nat := fieldN c.args a k

/-- Argument bytes that must be 0 (R7). -/
def Cmd.zero (c : Cmd) (a k : Nat) : Bool := zeroField c.args a k

/-- UNKNOWN_OPCODE (R275): the next slot's opcode is not listed. -/
def runUnknown (s : State) : State :=
  match nextSlot s with
  | none => s
  | some a =>
    if (cmdInfo (slotAt a.port a.slot s).opcode.toNat).isNone then (cmdOf a s).finish stBadOpcode [] (takeSlot a s) else s

def execUnknownOpcode (s : State) : Out := effect runUnknown s

/-! ### The lease (R268) -/

/-- Whole milliseconds left on the lease. -/
def leaseLeft (s : State) : Nat := if s.own.holder.isSome then (s.own.expiryUs - s.tick.timeUs) / 1000 else 0

/-- A renewal that arrived before the expiry waits to be taken. -/
def renewalWaits (s : State) : Bool :=
  s.mbx.order.any (fun a => a.alive && decide (s.own.lapsed = some a.port) && decide ((slotAt a.port a.slot s).opcode.toNat = 0x11))

/-- The effects of an ended lease on the running imposition (R268): a chip in HELD is uncontrolled at once, and the end of a
re-imposition or of a retraining does not resume it (R273), any other waits for its closing tick. -/
def leaseEffects (s : State) : State :=
  if s.dev.state = .held && !renewalWaits s then { s with dev := { s.dev with uncontrolled := true } }
  else if s.dev.state = .ready || s.dev.state = .loaded then s
  else { s with dev := { s.dev with leaseHold := true } }

/-- LEASE_EXPIRY: the moment lies in the frame in progress or behind it. -/
def expireLease (s : State) : State :=
  if s.own.holder.isSome && decide (s.own.expiryUs < s.tick.timeUs + frameUs s.tick.rate) then
    leaseEffects (setHolder none { s with own := { s.own with lapsed := s.own.holder } })
  else s

def execLeaseExpiry (s : State) : Out := effect (onlyIf (coreRuns s) expireLease) s

/-! ### BAR0 writes -/

/-- The port decodes its BARs (R253, R270). -/
def decodes (q : PortSt) : Bool := !q.inReset && q.linkUp && !q.d3hot

/-- A write to a slot's state byte (R263, R264). -/
def writeSlotState (p : PPort) (n : Nat) (v : Byte) (s : State) : State :=
  let x := slotAt p n s
  if 32 ≤ n then s
  else if x.st = .free && v = 1 then
    let s1 := setSlot p n { x with st := .submitted } s
    { s1 with mbx := { s1.mbx with
        order := s1.mbx.order ++ [{ port := p, slot := n, alive := decide (s.own.holder = some p) }] } }
  else if x.st = .done && v = 0 then setSlot p n { x with st := .free } s
  else s

def whenDecoding (p : PPort) (f : State → State) (s : State) : State := if decodes (getPPort p s) then f s else s

def execMbxStateWrite (p : PPort) (slot : Nat) (value : Byte) (s : State) : Out :=
  effect (whenDecoding p (writeSlotState p slot value)) s

/-- A write to MBX_RING_CTRL (R259). Records that are due while the host clears enable wait, and go to the ring that it enables next: R259 does
not say what becomes of them (DESIGN CHOICE, log entry 38). -/
def writeRingCtrl (p : PPort) (v : W32) (s : State) : State :=
  onPort p (fun q =>
    if q.ringEnable then (if bitOf v.toNat 0 then q else { q with ringEnable := false })
    else
      let size := bitsOf v.toNat 3 1
      if bitOf v.toNat 0 && decide (q.ringBase.toNat % 4096 = 0) && decide (size ≠ 7) then
        { q with ringSize := size, ringEnable := true, written := 0, consumed := 0 }
      else { q with ringSize := size }) s

def execMbxRingCtrlWrite (p : PPort) (value : W32) (s : State) : Out := effect (whenDecoding p (writeRingCtrl p value)) s

def writeConsumed (p : PPort) (v : W32) (s : State) : State := onPort p (fun q => { q with consumed := v }) s

def execMbxRingConsumedWrite (p : PPort) (value : W32) (s : State) : Out := effect (whenDecoding p (writeConsumed p value)) s

/-- Device-initiated writes can leave on a port (R255, R267). -/
def dmaOpen (q : PortSt) : Bool := q.bme && !q.inReset && !q.d3hot

/-- COMPLETION_RECORD_WRITE (R259, R265): the oldest due record, when the ring has space. -/
def writeRecord (p : PPort) (s : State) : State :=
  let q := getPPort p s
  match q.waiting with
  | [] => s
  | r :: rest =>
    if q.ringEnable && !ringFull q && dmaOpen q && portServed p s then
      let n := ringEntries q
      let w := q.written.toNat
      let s1 := setPPort p { q with waiting := rest, written := q.written + 1 } s
      { s1 with mbx := { s1.mbx with
          hostMem := Memory.writeN s1.mbx.hostMem (busKey p (q.ringBase.toNat + 32 * (w % n))) (r.bytes n w) } }
    else s

def execCompletionRecordWrite (p : PPort) (s : State) : Out := effect (onlyIf (coreRuns s) (writeRecord p)) s

/-- A write to DEV_STICKY clears the bits written as 1 in this port's copy (R258). -/
def writeSticky (p : PPort) (v : W32) (s : State) : State := onPort p (fun q => { q with sticky := q.sticky &&& ~~~v }) s

def execDevStickyWrite (p : PPort) (value : W32) (s : State) : Out := effect (whenDecoding p (writeSticky p value)) s

/-- Put a byte into a value. -/
def setByte (w i : Nat) (x : BitVec w) (b : Byte) : BitVec w :=
  BitVec.ofNat w (x.toNat - x.toNat / p2 (8 * i) % 256 * p2 (8 * i) + b.toNat * p2 (8 * i))

/-- One byte of a slot as the host writes it (R263): only the fields that the host chooses take it. -/
def Slot.put (x : Slot) (i : Nat) (b : Byte) : Slot :=
  if i = 2 || i = 3 then { x with opcode := setByte 16 (i - 2) x.opcode b }
  else if 4 ≤ i && i < 8 then { x with tag := setByte 32 (i - 4) x.tag b }
  else if i = 8 || i = 9 then { x with argLen := setByte 16 (i - 8) x.argLen b }
  else if 32 ≤ i && i < 256 then { x with payload := setAt x.payload (i - 32) b }
  else x

/-- The device discards every write to a slot that it holds (R263). -/
def slotOpen (x : Slot) : Bool := x.st = .free || x.st = .done

/-- One byte written at a BAR0 offset whose register has no behaviour of its own; other bytes are ignored. -/
def putByte (p : PPort) (off : Nat) (b : Byte) (s : State) : State :=
  if 0x500 ≤ off && off < 0x508 then
    onPort p (fun q => if q.ringEnable then q else { q with ringBase := setByte 64 (off - 0x500) q.ringBase b }) s
  else if off = 0x208 then onPort p (fun q => { q with window := q.window / 256 * 256 + b.toNat }) s
  else if off = 0x209 then onPort p (fun q => { q with window := q.window % 256 + b.toNat % 2 * 256 }) s
  else if 0x1000 ≤ off && off < 0x3000 then
    let x := slotAt p ((off - 0x1000) / 256) s
    if slotOpen x then setSlot p ((off - 0x1000) / 256) (x.put ((off - 0x1000) % 256) b) s else s
  else s

/-- A write that covers a whole register keeps the bytes that it does not name. -/
def mergeW32 (old : W32) (off size base : Nat) (v : W64) : W32 :=
  (List.range size).foldl (fun w i =>
    if base ≤ off + i && off + i < base + 4 then setByte 32 (off + i - base) w (BitVec.ofNat 8 (v.toNat / p2 (8 * i))) else w) old

def covers (off size base n : Nat) : Bool := decide (off < base + n ∧ base < off + size)

/-- MBX_RING_CTRL as it reads. -/
def ringCtrl (q : PortSt) : W32 := BitVec.ofNat 32 (bitAt q.ringEnable 0 + 2 * q.ringSize)

/-- REGISTER_WRITE (R9, R257, R258): a write of 1, 2, 4 or 8 bytes. The slot's state byte takes effect behind the other
bytes of one write. -/
def writeRegister (p : PPort) (off size : Nat) (v : W64) (s : State) : State :=
  let q := getPPort p s
  let s1 := (List.range size).foldl (fun s i => putByte p (off + i) (BitVec.ofNat 8 (v.toNat / p2 (8 * i))) s) s
  let s2 := if covers off size 0x508 4 then writeRingCtrl p (mergeW32 (ringCtrl q) off size 0x508 v) s1 else s1
  let s3 := if covers off size 0x514 4 then writeConsumed p (mergeW32 q.consumed off size 0x514 v) s2 else s2
  let s4 := if covers off size 0x20C 4 then writeSticky p (mergeW32 0 off size 0x20C v) s3 else s3
  if 0x1000 ≤ off && off < 0x3000 && off % 256 = 0 then writeSlotState p ((off - 0x1000) / 256) (BitVec.ofNat 8 v.toNat) s4 else s4

/-- A BAR0 access of a size and an offset that R257 accepts. -/
def bar0Ok (off size : Nat) : Bool :=
  (size = 1 || size = 2 || size = 4 || size = 8) && decide (off % size = 0) && decide (off + size ≤ 65536)

def execRegisterWrite (p : PPort) (offset size : Nat) (value : W64) (s : State) : Out :=
  if bar0Ok offset size then effect (whenDecoding p (writeRegister p offset size value)) s else .fault .bar0Access

end Sys2Proof.Machine
end

