-- ==== Sys2Proof/Machine/Bar.lean ====
section
/-! DEFINITION. What BAR0 reads (R25, R205, R258, R416), the BAR2 window (R260), BAR4 (R262), and the events of a PCIe
port (R252 to R255, R270, R412, R416). -/

namespace Sys2Proof.Machine
open Sys2Proof

/-! ### What the registers read -/

def cellCode : CellState → Nat
  | .active => 0
  | .spare => 1
  | .fenced => 2
  | .absent => 3

/-- The 72 bytes of the cell map (R25). -/
def cellMapBytes (s : State) : List Byte :=
  (List.range 72).map (fun k => BitVec.ofNat 8 ((List.range 4).foldl (fun b j => b + cellCode (cellState (4 * k + j) s) * p2 (2 * j)) 0))

/-- The 64 bytes of the step record (R205). -/
def StepRec.bytes (r : StepRec) : List Byte :=
  leBytes 8 r.applied.toNat ++ leBytes 8 r.attempted.toNat ++ leBytes 8 r.seed.toNat ++ leBytes 4 r.skips.toNat
    ++ leBytes 4 r.totalSkips.toNat ++ leBytes 4 r.loss.toNat ++ leBytes 4 r.gradNorm.toNat ++ leBytes 4 r.clip.toNat
    ++ leBytesI 1 r.normLeading ++ leBytes 1 r.outcome ++ leBytes 1 (bitAt r.stalled 0) ++ zeros 17

/-- Usable physical pages, 4 bytes each (R189). -/
def pagesBytes (s : State) : List Byte := ((List.range 8).map (fun k => leBytes 4 (s.hbm.usable.getD k 0))).flatten

/-- DEV_ID of a port (R258). -/
def devId (p : PPort) : Nat := 0x7200 + 0xB1 * p2 16 + (if p = .a then 0x0A else 0x0B) * p2 24

/-- DEV_STATE (R258). -/
def devStateWord (s : State) : Nat :=
  stateCode s.dev.state + bitAt s.dev.unaligned 4 + bitAt s.dev.stalled 5 + bitAt s.dev.uncontrolled 6
    + bitAt s.dev.reimposing 7 + s.dev.fabric % p2 16 * p2 16

/-- OWN_HOLDER as a port reads it. -/
def ownHolder (p : PPort) (s : State) : Nat := holderCode s.own.holder + bitAt (decide (s.own.holder = some p)) 2

/-- ENV_POWER: whole watts. -/
def envPower (s : State) : Nat := s.env.budget / 1000 % p2 16 + s.env.average / 1000 % p2 16 * p2 16

/-- ENV_TJ. -/
def envTj (s : State) : Nat := lowBits 16 s.power.tjMax

/-- TICK_DOMAIN: domain number minus own count; 0 until the first alignment (R53). -/
def tickDomain (s : State) : W64 := if s.tick.firstAligned then s.tick.domain - s.tick.count else 0

def tickCtrl (s : State) : Nat := rateCode s.tick.rate + bitAt s.tick.source 2 + bitAt s.tick.aligned 3

def devBoot (s : State) : Nat := s.dev.bootStage + s.dev.bootSlot * 16 + s.dev.bootError * 256

/-- The slot's state code (R263). -/
def slotCode : SlotState → Nat
  | .free => 0
  | .submitted => 1
  | .taken => 2
  | .accepted => 3
  | .done => 4

/-- The 256 bytes of a slot (R263). -/
def Slot.bytes (x : Slot) : List Byte :=
  leBytes 1 (slotCode x.st) ++ zeros 1 ++ leBytes 2 x.opcode.toNat ++ leBytes 4 x.tag.toNat ++ leBytes 2 x.argLen.toNat
    ++ leBytes 2 x.status.toNat ++ leBytes 2 x.resLen.toNat ++ leBytes 2 x.reason.toNat ++ leBytes 8 x.doneTick.toNat
    ++ zeros 8 ++ sliceB x.payload 0 224

/-- The registers of BAR0 in front of the slots: offset and bytes as a port reads them. -/
def bar0Regs (p : PPort) (s : State) : List (Nat × List Byte) :=
  let q := getPPort p s
  [(0x0000, leBytes 4 (devId p)), (0x0004, leBytes 4 s.dev.fw.toNat), (0x0008, leBytes 8 s.dev.uid.toNat),
   (0x0010, leBytes 4 (lifecycleCode s)), (0x0100, leBytes 8 s.tick.count.toNat), (0x0108, leBytes 4 q.latch.toNat),
   (0x0110, leBytes 8 s.tick.lastCommit.toNat), (0x0118, leBytes 8 s.tick.slips.toNat),
   (0x0120, leBytes 8 (tickDomain s).toNat), (0x0128, leBytes 4 (tickCtrl s)), (0x0200, leBytes 4 (devStateWord s)),
   (0x0204, leBytes 4 s.dev.heartbeat.toNat), (0x0208, leBytes 4 q.window), (0x020C, leBytes 4 q.sticky.toNat),
   (0x0210, leBytes 8 s.step.record.applied.toNat), (0x0218, leBytes 8 s.step.record.attempted.toNat),
   (0x0220, leBytes 4 (devBoot s)), (0x0240, cellMapBytes s), (0x0288, pagesBytes s), (0x0300, leBytes 4 (ownHolder p s)),
   (0x0304, leBytes 4 (leaseLeft s)), (0x0308, leBytes 4 s.own.leaseLen.toNat), (0x030C, leBytes 4 s.own.generation.toNat),
   (0x0310, leBytes 8 s.own.changeTick.toNat), (0x0400, leBytesI 2 s.env.inlet ++ leBytes 2 s.env.flow),
   (0x0404, leBytes 2 s.env.feed ++ leBytes 2 s.env.offset), (0x0408, leBytes 4 (envPower s)), (0x040C, leBytes 4 (envTj s)),
   (0x0500, leBytes 8 q.ringBase.toNat), (0x0508, leBytes 4 (ringCtrl q).toNat), (0x0510, leBytes 4 q.written.toNat),
   (0x0514, leBytes 4 q.consumed.toNat)]

/-- A byte of BAR0 as a port reads it; offsets without a register read 0 (R257). -/
def bar0Byte (p : PPort) (off : Nat) (s : State) : Byte :=
  if 0x1000 ≤ off && off < 0x3000 then ((slotAt p ((off - 0x1000) / 256) s).bytes).getD (off % 256) 0
  else
    match (bar0Regs p s).find? (fun r => r.1 ≤ off && off < r.1 + r.2.length) with
    | some r => r.2.getD (off - r.1) 0
    | none => 0

/-- What a port's last read returned. -/
def setRead (p : PPort) (r : ReadRes) (s : State) : State := onPort p (fun q => { q with lastRead := some r }) s

/-- TICK_COUNT_READ (R258): a 4-byte read of TICK_COUNT latches its upper half in this port. -/
def readTick (p : PPort) (size : Nat) (s : State) : State :=
  let s1 := setRead p { data := leBytes size s.tick.count.toNat, poisoned := false, abort := false } s
  if size = 4 then onPort p (fun q => { q with latch := BitVec.ofNat 32 (s.tick.count.toNat / p2 32) }) s1 else s1

def execTickCountRead (p : PPort) (size : Nat) (s : State) : Out :=
  if bar0Ok 0x0100 size then effect (whenDecoding p (readTick p size)) s else .fault .bar0Access

/-! ### Configuration space (R252, R253, R256) -/

/-- A base address register: its number, its size in bytes, 64-bit, prefetchable. -/
structure BarInfo where
  number : Nat
  bytes : Nat
  wide : Bool
  prefetchable : Bool
deriving DecidableEq, Repr

/-- The capabilities that R253 names: those that a function presents, and those that it does not have. -/
inductive Capability where
  | powerManagement | pciExpress | advancedErrorReporting | deviceSerialNumber | secondaryPciExpress | dataLinkFeature
  | physicalLayer16 | physicalLayer32 | physicalLayer64 | laneMargining | dataObjectExchange
  | msi | msiX | ats | pasid | resizableBar | ptm
deriving DecidableEq, Repr

/-- What a function presents in configuration space. Rates are the codes of R281; the completion timeout ranges A to D are bits 0 to 3. -/
structure CfgSpace where
  vendor : Nat
  device : Nat
  revision : Nat
  classCode : Nat
  subVendor : Nat
  subsystem : Nat
  interruptPin : Nat
  noSoftReset : Bool
  maxPayload : Nat
  maxReadRequest : Nat
  tenBitTags : Bool
  functionReset : Bool
  timeoutRanges : BitVec 4
  serial : W64
  capabilities : List Capability
  maxWidth : Nat
  maxRate : Nat
  bars : List BarInfo
deriving DecidableEq, Repr

/-- The debug lifecycle (R427). -/
def debugLife (s : State) : Bool := lifecycleCode s = 0x0 || lifecycleCode s = 0xA

/-- The header, the capabilities and the BARs of a port (R252, R253, R256). BAR4 has size 0 outside the debug lifecycle. -/
def cfgSpace (p : PPort) (s : State) : CfgSpace where
  vendor := 0x1E5B
  device := if p = .a then 0x7200 else 0x7201
  revision := 0xB1
  classCode := 0x120000
  subVendor := 0x1E5B
  subsystem := 0x0001
  interruptPin := 0
  noSoftReset := true
  maxPayload := 512
  maxReadRequest := 4096
  tenBitTags := true
  functionReset := true
  timeoutRanges := 0xF
  serial := s.dev.uid
  capabilities := [.powerManagement, .pciExpress, .advancedErrorReporting, .deviceSerialNumber, .secondaryPciExpress, .dataLinkFeature,
    .physicalLayer16, .physicalLayer32, .physicalLayer64, .laneMargining, .dataObjectExchange]
  maxWidth := 8
  maxRate := 6
  bars := [{ number := 0, bytes := p2 16, wide := true, prefetchable := false },
           { number := 2, bytes := p2 30, wide := true, prefetchable := true },
           { number := 4, bytes := if debugLife s then p2 24 else 0, wide := true, prefetchable := false }]

/-! ### BAR2 (R260, R181) -/

/-- BAR2 serves no access in these states. -/
def bar2Closed (s : State) : Bool := s.dev.state = .booting || s.dev.state = .thermalOff || s.dev.state = .failed

/-- The device address of a BAR2 offset. -/
def bar2Addr (p : PPort) (off : Nat) (s : State) : Nat := (getPPort p s).window * p2 30 + off

/-- The bezel unit of a stack answers a port: it stops only with its region, and a stopped region returns at a core reset only (R28, R407). -/
def unitAnswers (p : PPort) (s : State) (stack : Nat) : Bool :=
  !s.clocks.lost.contains (stack / 2) && !s.clocks.stopped.contains (stack / 2) && portServed p s && !(getPPort p s).resyncReq

/-- A byte of a word that BAR2 reads: an uncorrectable word comes as stored, with its error (R260). -/
def bar2Stored (s : State) (bad : List HbmUpset) (a : Nat) (b : Byte) : Byte :=
  match bad.find? (fun u => wordName s a == (u.page, u.word)) with
  | some u => b ^^^ u.errors.getD (a % 32) 0
  | none => b

/-- A byte of HBM as BAR2 reads it (R181). -/
def bar2Byte (s : State) (a : Nat) : Byte :=
  match pageClass s (pageKey a) with
  | none => 0
  | some c => if classPrivate c then 0xFF else hbmByte s a

/-- One word that a BAR2 read touches (R182, R260): a failing one counts, weakens its row and puts no frame in doubt. -/
def bar2Word (u : HbmUpset) (s : State) : State :=
  if s.hbm.poison.contains (u.page, u.word) then s
  else
    match rsDecode u.errors with
    | .uncorrectable =>
      weaken u.page (u.word / 32) (onLife (fun l => { l with uncorrectable := l.uncorrectable + 1 })
        (countEventWith .region (pageStack u.page / 2) (hbmSource 0x140 u.page) false false false s))
    | _ => readWord u s

/-- A listed word counts one event of "HBM uncorrectable" too (R260). -/
def countListed (phys : Nat) (s : State) : State :=
  onLife (fun l => { l with uncorrectable := l.uncorrectable + 1 })
    (countEventWith .region (pageStack phys / 2) (hbmSource 0x140 phys) false false false s)

/-- The listed words of a range that the host can see. -/
def listedIn (s : State) (a n : Nat) : List Nat :=
  (pagesOf 32 a n).filter (fun w => wordPoisoned s (32 * w) && !classPrivate ((pageClass s (pageKey (32 * w))).getD 0))

/-- The upset words of a range that the host can see. -/
def upsetsIn (s : State) (a n : Nat) (reads : List HbmUpset) : List HbmUpset :=
  reads.filter (fun u => (pagesOf 32 a n).any (fun w =>
    (pageEnt s (pageKey (32 * w))).isSome && !classPrivate ((pageClass s (pageKey (32 * w))).getD 0)
      && wordName s (32 * w) == (u.page, u.word)))

/-- The word cannot be corrected. -/
def isBad (u : HbmUpset) : Bool :=
  match rsDecode u.errors with
  | .uncorrectable => true
  | _ => false

/-- A BAR2 read at a device address, once its stack's clock runs. -/
def serveRead (p : PPort) (a len : Nat) (reads : List HbmUpset) (s : State) : State :=
  let listed := listedIn s a len
  let ups := upsetsIn s a len reads
  let s1 := ups.foldl (fun s u => bar2Word u s) (listed.foldl (fun s' w => countListed (physOf s (pageKey (32 * w))) s') s)
  setRead p { data := (List.range len).map (fun i => bar2Stored s (ups.filter isBad) (a + i) (bar2Byte s1 (a + i)))
              poisoned := !listed.isEmpty || ups.any isBad
              abort := false } s1

/-- The access waits for the clock of its stack, or a posted write for the network side (R407, R408): the write pointer of the port's FIFO
moves on. -/
def waitBar2 (w : Bar2Wait) (s : State) : State :=
  onPort w.port (fun q => { q with fifoWr := q.fifoWr + 1 }) (onHbm (fun h => { h with bar2Waits := h.bar2Waits ++ [w] }) s)

/-- A host write into staging: unmapped and private pages take none (R181). -/
def hostCarry (a : Nat) (bytes : List Byte) (s : State) : State :=
  (pagesOf 65536 a bytes.length).foldl (fun s k =>
    if classPrivate ((pageClass s k).getD 0) then s
    else
      let x := partIn 65536 a k bytes
      hbmCarry true x.1 x.2 s) s

/-- An access that waited goes on (R407, R408): the read pointer of the port's FIFO moves on. -/
def serveWait (w : Bar2Wait) (s : State) : State :=
  let s1 := onPort w.port (fun q => { q with fifoRd := q.fifoRd + 1 }) s
  if w.write then hostCarry w.addr w.bytes s1 else serveRead w.port w.addr w.len w.reads s1

/-- The accesses that `sel` names and whose stack's clock runs are served in their order (R407, R408, R411). -/
def serveWaits (sel : Bar2Wait → Bool) (s : State) : State :=
  let now := fun (w : Bar2Wait) => sel w && epRuns s (.hbm w.addr)
  (s.hbm.bar2Waits.filter now).foldl (fun t w => serveWait w t)
    (onHbm (fun h => { h with bar2Waits := h.bar2Waits.filter (fun w => !now w) }) s)

/-- A read pushes the port's posted writes in front of it. -/
def readBar2 (p : PPort) (off len : Nat) (reads : List HbmUpset) (s : State) : State :=
  if bar2Closed s then setRead p { data := [], poisoned := false, abort := true } s
  else
    let a := bar2Addr p off s
    if !unitAnswers p s (addrStack a) then s
    else
      let s1 := serveWaits (fun w => w.port = p) s
      if s.hbm.training.contains (addrStack a) then
        waitBar2 { port := p, write := false, addr := a, len := len, bytes := [], reads := reads } s1
      else serveRead p a len reads s1

def execBar2Read (p : PPort) (offset length : Nat) (reads : List HbmUpset) (s : State) : Out :=
  if offset + length ≤ p2 30 then effect (whenDecoding p (readBar2 p offset length reads)) s else .fault .bar2Range

/-- BAR2_WRITE: only the holder's writes land. An entry that the network side has not read waits for the port's next access or for the tick,
and a reset of the port discards it (R408). -/
def writeBar2 (p : PPort) (off : Nat) (x : Posted) (s : State) : State :=
  let a := bar2Addr p off s
  if bar2Closed s || s.own.holder != some p || !unitAnswers p s (addrStack a) then s
  else
    let s1 := waitBar2 { port := p, write := true, addr := a, len := 0, bytes := x.bytes, reads := [] } s
    if x.unread then s1 else serveWaits (fun w => w.port = p) s1

def execBar2Write (p : PPort) (offset : Nat) (w : Posted) (s : State) : Out :=
  if offset + w.bytes.length ≤ p2 30 then effect (whenDecoding p (writeBar2 p offset w)) s else .fault .bar2Range

/-! ### BAR4 (R262) -/

/-- BAR4_ACCESS: outside the debug lifecycle the BAR has size 0, and a stopped clock lets no access complete; what a
debug register does is outside the manual. -/
def execBar4Access (p : PPort) (offset : Nat) (stopped : Bool) (s : State) : Out :=
  if p2 24 ≤ offset then .fault .bar4Range
  else if debugLife s && decodes (getPPort p s) && !stopped then .refused .debugRegisterMap else effect id s

/-! ### Port events (R253, R255, R270, R412, R416) -/

/-- A port reset (R270): slots FREE, ring disabled, bindings unbound, due records discarded. Its commands that run lose
their slot (R273), its BAR2 accesses that wait are lost (R408), and its SPDM connection resets (R436). -/
def resetPort (p : PPort) (keepConfig : Bool) (s : State) : State :=
  let q := getPPort p s
  let fresh : PortSt := if keepConfig then
      { PortSt.reset with resyncReq := false, bme := q.bme, d3hot := q.d3hot, linkUp := q.linkUp, inReset := q.inReset, width := q.width, rate := q.rate,
                          aerCorr := q.aerCorr, aerUncorr := q.aerUncorr }
    else { PortSt.reset with inReset := q.inReset, resyncAck := coreRuns s }
  let s1 := onMbx (fun m => { m with
    order := m.order.filter (fun a => a.port != p)
    accepted := m.accepted.map (fun a => if a.port = p then { a with slot := 0xFF } else a) })
    (onHbm (fun h => { h with bar2Waits := h.bar2Waits.filter (fun w => w.port != p) }) (setPPort p fresh s))
  onIdent (fun i => match p with
    | .a => { i with spdmA := SpdmConn.reset }
    | .b => { i with spdmB := SpdmConn.reset }) s1

/-- The level of a port's PERST#. -/
def setPerst (p : PPort) (asserted : Bool) (s : State) : State :=
  match p with
  | .a => { s with pins := { s.pins with perstA := asserted } }
  | .b => { s with pins := { s.pins with perstB := asserted } }

def perstOf (p : PPort) (s : State) : Bool :=
  match p with
  | .a => s.pins.perstA
  | .b => s.pins.perstB

/-- The link of a port resets, and with it its side of the FIFOs (R408). -/
def dropLink (p : PPort) (s : State) : State :=
  onPort p (fun q => { q with resyncReq := true, resyncAck := coreRuns s, linkUp := false, width := PortSt.reset.width, rate := PortSt.reset.rate }) s

/-- FUNCTION_LEVEL_RESET: the controller and the link reset as at PERST#, and configuration space is kept (R270). -/
def execFunctionLevelReset (p : PPort) (s : State) : Out :=
  effect (onlyIf (!perstOf p s) (fun s => dropLink p (resetPort p true s))) s

/-- PCIE_LINK_DOWN resets the port as PERST# does (R270). -/
def execPcieLinkDown (p : PPort) (s : State) : Out := effect (resetPort p false) s

/-- The handshake of a port's FIFOs as a reset of one side ends (R408, R418): traffic resumes once both sides are out of reset; while the other
side is still in reset the request stands, acknowledged by the side that is out. -/
def resynced (otherUp : Bool) (q : PortSt) : PortSt := { q with resyncReq := !otherUp, resyncAck := !otherUp }

/-- PCIE_LINK_UP (R252, R408, R416): the negotiated width and rate; the port's side of its FIFOs is out of reset. -/
def execPcieLinkUp (p : PPort) (width rate : Nat) (s : State) : Out :=
  effect (onlyIf (!perstOf p s && s.pins.ioUp) (onPort p (fun q =>
    resynced (!s.clocks.coreReset) { q with inReset := false, linkUp := true, width := width, rate := rate }))) s

/-- POWER_STATE_CHANGE (R253): D0 or D3hot. -/
def execPowerStateChange (p : PPort) (d3hot : Bool) (s : State) : Out :=
  effect (onlyIf (!(getPPort p s).inReset) (onPort p (fun q => { q with d3hot := d3hot }))) s

/-- BUS_MASTER_ENABLE (R255). -/
def execBusMasterEnable (p : PPort) (on : Bool) (s : State) : Out :=
  effect (onlyIf (!(getPPort p s).inReset) (onPort p (fun q => { q with bme := on }))) s

end Sys2Proof.Machine
end

