-- ==== Sys2Proof/Machine/Bezel.lean ====
section
/-! DEFINITION. Bezel operations that formes, firmware and host transfers issue (R190 to R194, R67, R76 to R78, R174,
R202 to R204, R349). -/

namespace Sys2Proof.Machine
open Sys2Proof

/-! ### Ranges and places -/

/-- The tensor blocks (p, q) that a descriptor's range covers. -/
def rangeBlocks (d : BezelDesc) : List (Nat × Nat) :=
  (List.range (ceilDiv d.rows 32)).flatMap (fun p => (List.range (ceilDiv d.cols 32)).map (fun q => (d.rowFirst / 32 + p, d.colFirst / 32 + q)))

/-- Where the lists, map bytes and slots of a destination lie (R470). -/
def destSpace (s : State) : Endpoint → Space
  | .hbm a => .stack (addrStack a)
  | .caseMem c _ => .cell (redirect s c)
  | _ => .chip

/-- The bytes of a stored block as a bezel unit reads it: poison delivered (R183). -/
def storedBytes (s : State) (e : Endpoint) (f : Nat) : List Byte := (List.range (blockBytes f)).map (blockReader s e f)

/-- Element (r, c) of the source tensor as an exact value, promoted tiles from their slot (R471). -/
def srcVal (s : State) (d : BezelDesc) (r c : Nat) : OpVal :=
  let src := blockSource s (srcBlock d (blockBytes d.srcFmt) (r / 32) (c / 32)) d.srcFmt .chip
  blockVal src.1 (blockReader s src.2.1 src.1) (r % 32) (c % 32)

/-- Element (r, c) of the source tensor as FP32. -/
def srcF32 (s : State) (d : BezelDesc) (r c : Nat) : W32 :=
  let src := blockSource s (srcBlock d (blockBytes d.srcFmt) (r / 32) (c / 32)) d.srcFmt .chip
  blockF32 src.1 (blockReader s src.2.1 src.1) (r % 32) (c % 32)

/-! ### Who may do what (R181, R193) -/

/-- The pages of a range at an endpoint are mapped, and private ones are named by firmware only (R181). -/
def pagesFit (s : State) (iss : Issuer) (e : Endpoint) (n : Nat) : Bool :=
  match e with
  | .hbm a => (pagesOf 65536 a n).all (fun k => match pageClass s k with
    | none => false
    | some c => match iss with
      | .firmware _ => true
      | _ => !classPrivate c)
  | .caseMem c o => decide (c < 288) && decide (o + n ≤ p2 23)
  | .host b o => dmaFits s b o n
  | .remote _ _ => true

/-- A host endpoint can be reached now (R267). -/
def hostReady (s : State) (write : Bool) : Endpoint → Bool
  | .host b _ => dmaReady s write b
  | _ => true

/-- The operation is an item that has started. -/
def opStarted (s : State) (iss : Issuer) (op : Nat) (d : BezelDesc) : Bool :=
  match iss with
  | .cell i => itemRunning s i (.bezel op d)
  | .unit k => itemRunning s (512 + k) (.bezel op d)
  | .firmware _ => false

/-- A deferrable item that sends starts at a position of the frame only (R198, R199): its operation does not run before. -/
def awaitsStart (s : State) (owner op : Nat) (d : BezelDesc) : Bool :=
  let mine := ((recordsOf s owner).flatMap (·.items)).filter (fun it => it.body = .bezel op d)
  !mine.isEmpty && mine.all (fun it => it.deferrable && it.sends) && !itemRunning s owner (.bezel op d)

/-- The issuer may run an operation: none starts in the lock-up, but one that has started runs on (R38); a forme's only while formes
run; a working copy is not sent in a skipped step (R212). -/
def issuerRuns (s : State) (iss : Issuer) (op : Nat) (d : BezelDesc) : Bool :=
  (!s.frame.lockUp || opStarted s iss op d) && !itemIdle s (.bezel op d) && (match iss with
    | .cell i => cellWorks s i && formesRun s && !awaitsStart s i op d
    | .unit k => unitRuns s k && formesRun s && !awaitsStart s (512 + k) op d
    | .firmware k => unitRuns s k)

/-- The item behind an operation completes. -/
def finishOp (iss : Issuer) (op : Nat) (d : BezelDesc) (s : State) : State :=
  match iss with
  | .cell i => finishItem i (.bezel op d) s
  | .unit k => finishUnit k (.bezel op d) s
  | .firmware _ => s

/-- The kinds of an endpoint (R192). -/
def isHbm : Endpoint → Bool
  | .hbm _ => true
  | _ => false
def isRemote : Endpoint → Bool
  | .remote _ _ => true
  | _ => false
def isHost : Endpoint → Bool
  | .host _ _ => true
  | _ => false

/-- An operation that moves data through a host-buffer binding. -/
def hostSide (d : BezelDesc) : Bool := isHost d.src || isHost d.dst || d.scales.any isHost

/-- An operation whose bytes come from a host buffer: what it writes into HBM is carried (R177). -/
def fromHost (d : BezelDesc) : Bool := isHost d.src

/-- The state that an operation reads: what leaves the chip is read as committed (R37). -/
def sendView (d : BezelDesc) (s : State) : State :=
  if isRemote d.dst || d.scales.any isRemote then { s with caseMem := { s.caseMem with staged := [] } } else s

/-- The format pairs of R193, and what COPY moves. -/
def formatsFit (op : Nat) (d : BezelDesc) : Bool :=
  match op with
  | 0x02 | 0x03 => d.srcFmt = d.dstFmt && fmtLegal d.srcFmt
  | 0x04 => (d.srcFmt = 5 || d.srcFmt = 6) && d.dstFmt ≤ 5
  | 0x05 => d.srcFmt ≤ 5 && (d.dstFmt = 5 || d.dstFmt = 6)
  | 0x06 => mxToChase d.srcFmt = some d.dstFmt
  | 0x07 => mxToChase d.dstFmt = some d.srcFmt
  | 0x09 => fmtLegal d.srcFmt || d.srcFmt = 0xFF
  | 0x0A => fmtLegal d.dstFmt
  | 0x01 => isHbm d.src && (isHbm d.dst || isRemote d.dst)
  | _ => true

/-- Bytes from the first to the last byte that a side of an operation touches. -/
def sideBytes (e : Endpoint) (b r0 c0 n cols rows : Nat) : Nat :=
  match e with
  | .hbm _ | .remote _ _ => (((r0 + rows - 1) / 128 * ceilDiv cols 128 + (c0 + n - 1) / 128 + 1) * 16) * b
  | _ => (((r0 + rows - 1) / 128 - r0 / 128 + 1) * ((c0 + n - 1) / 128 - c0 / 128 + 1) * 16) * b

/-- The first byte of a side: an HBM endpoint names the tensor's base. -/
def sideFirst (e : Endpoint) (b r0 c0 cols : Nat) : Nat :=
  match e with
  | .hbm _ | .remote _ _ => ((r0 / 128 * ceilDiv cols 128 + c0 / 128) * 16) * b
  | _ => 0

/-- One side of an operation lies in pages it may use. -/
def sideFits (s : State) (iss : Issuer) (e : Endpoint) (b r0 c0 n cols rows : Nat) : Bool :=
  let f := sideFirst e b r0 c0 cols
  pagesFit s iss (epAdd e f) (sideBytes e b r0 c0 n cols rows - f)

/-- The operation's issuer runs, the clocks of the memories that it names do, and the bindings that it uses are ready; without them it waits
(R38, R267, R407). -/
def opReady (s : State) (iss : Issuer) (op : Nat) (d : BezelDesc) : Bool :=
  issuerRuns s iss op d && hostReady s false d.src && hostReady s true d.dst && epRuns s d.src && epRuns s d.dst
    && d.scales.all (fun e => hostReady s (op == 7) e && epRuns s e)

/-- The operation is one that R193 allows: its formats, and a range that covers something. -/
def opLegal (op : Nat) (d : BezelDesc) : Bool := formatsFit op d && decide (0 < d.rows) && (op = 1 || decide (0 < d.cols))

/-- An operation that is ready and legal. -/
def opRuns (s : State) (iss : Issuer) (op : Nat) (d : BezelDesc) : Bool := opReady s iss op d && opLegal op d

/-- Run an operation: its effect, the way of its packets to the ports, and the end of its item. One that R193 or R267 does not allow moves
nothing; the loader refuses it in an image, and a transfer of a host buffer, or a microscaling operation that breaks R76, completes with
BAD_ARGUMENT, which for an item is its end: no slot carries its status (log entry 20). -/
def runOp (iss : Issuer) (op : Nat) (d : BezelDesc) (fits : Bool) (f : State → State) (s : State) : State :=
  if !opReady s iss op d then s
  else if opLegal op d && fits then finishOp iss op d (flushSends (f s))
  else if hostSide d || op = 0x06 || op = 0x07 then finishOp iss op d s
  else s

/-! ### COPY, REBLOCK, TRANSPOSE -/

/-- COPY (R193): raw bytes; a listed source word lists its place in local or remote HBM when the frame commits (R183). -/
def copyBytes (d : BezelDesc) (s : State) : State :=
  match d.src with
  | .hbm a =>
    let bad := (List.range (d.rows / 32)).filter (fun i => wordPoisoned s (a + 32 * i))
    match d.dst with
    | .hbm b =>
      let s1 := hbmWrite b (hbmBytes s a d.rows) s
      { s1 with hbm := { s1.hbm with poisonStaged := bad.foldl (fun l i => insertNat l (b / 32 + i)) s1.hbm.poisonStaged } }
    | .remote c b => sendWords c b (hbmBytes s a d.rows) bad s
    | _ => s
  | _ => s

def execCopy (iss : Issuer) (d : BezelDesc) (s : State) : Out :=
  effect (runOp iss 0x01 d (pagesFit s iss d.src d.rows && pagesFit s iss d.dst d.rows) (copyBytes d)) s

/-- Where a block of a range lies at its source and at its destination: one of a stashed activation as its table entry lays it out (R197). -/
def srcAt (s : State) (d : BezelDesc) (p q : Nat) : Endpoint := writtenAt s d.tensor d.srcFmt (fun b => srcBlock d b p q)

def dstAt (s : State) (d : BezelDesc) (p q : Nat) : Endpoint := writtenAt s d.tensor d.dstFmt (fun b => dstBlock d b p q)

/-- The same for the destination of a transposed range. -/
def turnedAt (s : State) (d : BezelDesc) (p q : Nat) : Endpoint :=
  writtenAt s d.tensor d.dstFmt (fun b => blockPlace d.dst b d.colFirst d.rowFirst d.rows d.dstCols p q)

/-- A tile's wider copy moves with it (R471): `flip` transposes it; `v` is the state that the operation reads. A tile that is not promoted
leaves the map byte of its destination as it was (DESIGN CHOICE, log entry 36: the rule names no write of it). -/
def moveSlot (d : BezelDesc) (flip : Bool) (v : State) (s : State) (t : Nat × Nat) : State :=
  let e := srcAt v d (4 * t.1) (4 * t.2)
  let dp := if flip then turnedAt v d (4 * t.2) (4 * t.1) else dstAt v d (4 * t.1) (4 * t.2)
  match findBlock s e, findBlock s dp with
  | some (ts, is, _), some (td, id, _) =>
    match mapByteOf v ts is .chip, slotOf s ts is .chip, slotOf s td id (destSpace s d.dst), sidePlace s 0x03 td id (destSpace s d.dst) with
    | some w, some from', some to', some m =>
      if w = outFormat v d.tensor d.srcFmt || !fmtLegal w then s
      else
        let s1 := wholeTile.foldl (fun s' pq =>
          let src := epAdd from' ((4 * pq.1 + pq.2) * blockBytes w)
          let bytes := if flip then transposeBlock w (blockReader v src w) else storedBytes v src w
          epPut (fromHost d) (epAdd to' ((if flip then 4 * pq.2 + pq.1 else 4 * pq.1 + pq.2) * blockBytes w)) bytes s') s
        epPut (fromHost d) (epAdd m.1 m.2) [BitVec.ofNat 8 w] s1
    | _, _, _, _ => s
  | _, _ => s
where
  /-- A stored block with rows and columns swapped (R67). -/
  transposeBlock (f : Nat) (rd : Nat → Byte) : List Byte :=
    match fmtElem f with
    | some _ => packBlock f ((List.range 32).map (fun i => (List.range 32).map (fun j => blockCode f rd j i)))
        ((List.range 32).map (blockColByte f rd)) ((List.range 32).map (blockRowByte f rd))
    | none =>
      let n := if f = 5 then 2 else 4
      (List.range 1024).flatMap (fun e => (List.range n).map (fun k => rd (n * (32 * (e % 32) + e / 32) + k)))

/-- The tiles that a range covers. -/
def rangeTiles (d : BezelDesc) : List (Nat × Nat) := ((rangeBlocks d).map (fun b => (b.1 / 4, b.2 / 4))).foldl (fun l t => if l.contains t then l else l ++ [t]) []

/-- The blocks wholly beyond the tensor's edge in the tiles that an operation's range ends in (R174). -/
def rangeEdge (s : State) (d : BezelDesc) : List (Nat × Nat) :=
  match tabEntry s d.tensor with
  | some te => (edgeBlocks te d.rowFirst d.colFirst d.rows d.cols).map (fun b => (d.rowFirst / 32 + b.1, d.colFirst / 32 + b.2))
  | none => []

/-- REBLOCK (R193): stored blocks move unchanged between layouts, and zero blocks stand beyond the edge (R174). -/
def reblock (d : BezelDesc) (s : State) : State :=
  let v := sendView d s
  let f := outFormat s d.tensor d.srcFmt
  let s1 := (rangeBlocks d).foldl (fun s' pq => epPut (fromHost d) (dstAt v d pq.1 pq.2) (storedBytes v (srcAt v d pq.1 pq.2) f) s') s
  let s2 := (rangeEdge s d).foldl (fun s' pq => epPut (fromHost d) (dstAt v d pq.1 pq.2) (zeroBlock f) s') s1
  (rangeTiles d).foldl (moveSlot d false v) s2

/-- A move of a stashed activation names the format that its table entry names (R197). -/
def asStored (s : State) (d : BezelDesc) : BezelDesc :=
  { d with srcFmt := outFormat s d.tensor d.srcFmt, dstFmt := outFormat s d.tensor d.dstFmt }

/-- Both sides of a move of stored blocks lie where they may. -/
def moveFits (s : State) (iss : Issuer) (d : BezelDesc) (flip : Bool) : Bool :=
  let b := blockBytes d.srcFmt
  sideFits s iss d.src b d.rowFirst d.colFirst d.cols d.srcCols d.rows
    && (if flip then sideFits s iss d.dst b d.colFirst d.rowFirst d.rows d.dstCols d.cols
      else sideFits s iss d.dst b d.rowFirst d.colFirst d.cols d.dstCols d.rows)

def execReblock (iss : Issuer) (d : BezelDesc) (s : State) : Out := effect (runOp iss 0x02 d (moveFits s iss (asStored s d) false) (reblock d)) s

/-- The places of the blocks wholly beyond the destination's edge in the tiles that a transposed range ends in (R174). The tensor that the
descriptor names is the source where its columns are those of the source, and else the destination. -/
def turnedEdge (s : State) (d : BezelDesc) : List (Nat × Nat) :=
  match tabEntry s d.tensor with
  | some te =>
    if te.cols = d.srcCols then (rangeEdge s d).map (fun b => (b.2, b.1))
    else (edgeBlocks te d.colFirst d.rowFirst d.cols d.rows).map (fun b => (d.colFirst / 32 + b.1, d.rowFirst / 32 + b.2))
  | none => []

/-- TRANSPOSE (R193, R67): tile (u, h) arrives as tile (h, u), each block transposed. -/
def transpose (d : BezelDesc) (s : State) : State :=
  let v := sendView d s
  let f := outFormat s d.tensor d.srcFmt
  let s1 := (rangeBlocks d).foldl (fun s' pq =>
    epPut (fromHost d) (turnedAt v d pq.2 pq.1) (moveSlot.transposeBlock f (blockReader v (srcAt v d pq.1 pq.2) f)) s') s
  let s2 := (turnedEdge s d).foldl (fun s' pq => epPut (fromHost d) (turnedAt v d pq.1 pq.2) (zeroBlock f) s') s1
  (rangeTiles d).foldl (moveSlot d true v) s2

def execTranspose (iss : Issuer) (d : BezelDesc) (s : State) : Out := effect (runOp iss 0x03 d (moveFits s iss (asStored s d) true) (transpose d)) s

/-! ### QUANTIZE, DEQUANTIZE, REDUCE_CLOSE -/

/-- Write a range of FP32 values as the destination format, for a stashed activation that of its table entry (R68 to R70, R74, R174, R197,
R469, R470). `src` is the source value that enters the conversion. -/
def writeRange (d : BezelDesc) (x : Nat → Nat → W32) (src : Nat → Nat → OpVal) (s : State) : State :=
  match tabEntry s d.tensor with
  | none => s
  | some te =>
    let nr := Nat.min d.rows (te.rows - d.rowFirst)
    let nc := Nat.min d.cols (te.cols - d.colFirst)
    let f := outFormat s d.tensor d.dstFmt
    let p0 := d.rowFirst / 32
    let q0 := d.colFirst / 32
    if fmtNarrow f then
      let wide := ceilDiv nc 128
      writeQuantized (fromHost d) te d.tensor d.quant f d.rowFirst d.colFirst nr nc d.stream d.dstCols x
        (fun i p q => dstAt s d (p0 + 4 * (i / wide) + p) (q0 + 4 * (i % wide) + q))
        (fun u h => destSpace s (dstAt s d (p0 + 4 * u) (q0 + 4 * h))) s
    else
      let draw := if f = 5 && bitOf d.quant 1 then
          some (fun r c => elementDraw s d.stream d.dstCols (d.rowFirst + r) (d.colFirst + c)) else none
      let s1 := (tileCover nr nc).foldl (fun s' k =>
        epPut (fromHost d) (dstAt s d (p0 + k.1) (q0 + k.2)) (plainBlock f (draw.map (fun g i j => g (32 * k.1 + i) (32 * k.2 + j)))
          (fun i j => x (32 * k.1 + i) (32 * k.2 + j)) (nr - 32 * k.1) (nc - 32 * k.2)) s') s
      let s2 := (edgeBlocks te d.rowFirst d.colFirst nr nc).foldl (fun s' k =>
        epPut (fromHost d) (dstAt s d (p0 + k.1) (q0 + k.2)) (zeroBlock f) s') s1
      statOwn d.tensor (plainTally te f draw src nr nc d.colFirst) s2

/-- The values that QUANTIZE and DEQUANTIZE read, as FP32 and as stored (R74). -/
def rangeF32 (s : State) (d : BezelDesc) (r c : Nat) : W32 := srcF32 (sendView d s) d (d.rowFirst + r) (d.colFirst + c)
def rangeVal (s : State) (d : BezelDesc) (r c : Nat) : OpVal := srcVal (sendView d s) d (d.rowFirst + r) (d.colFirst + c)

/-- Both sides of a conversion lie where they may. -/
def convertFits (s : State) (iss : Issuer) (d : BezelDesc) (sb db : Nat) : Bool :=
  sideFits s iss d.src sb d.rowFirst d.colFirst d.cols d.srcCols d.rows
    && sideFits s iss d.dst db d.rowFirst d.colFirst d.cols d.dstCols d.rows

/-- The destination format of an operation that writes the tensor it names (R197). -/
def asWritten (s : State) (d : BezelDesc) : BezelDesc := { d with dstFmt := outFormat s d.tensor d.dstFmt }

def execQuantize (iss : Issuer) (d : BezelDesc) (s : State) : Out :=
  effect (runOp iss 0x04 d (convertFits s iss d (blockBytes d.srcFmt) (blockBytes (asWritten s d).dstFmt))
    (writeRange d (rangeF32 s d) (rangeVal s d))) s

/-- What DEQUANTIZE writes: to BF16, an element of a chase or integer block rounds once, and a value that rounds to zero gives +0 (R74). -/
def rangeDequant (s : State) (d : BezelDesc) (r c : Nat) : W32 :=
  let v := sendView d s
  let f := outFormat s d.tensor d.dstFmt
  let src := blockSource v (srcBlock d (blockBytes d.srcFmt) ((d.rowFirst + r) / 32) ((d.colFirst + c) / 32)) d.srcFmt .chip
  if f = 5 && fmtNarrow src.1 then bf16ToF32 (dequantBf16 (rangeVal s d r c)) else rangeF32 s d r c

def execDequantize (iss : Issuer) (d : BezelDesc) (s : State) : Out :=
  effect (runOp iss 0x05 d (convertFits s iss d (blockBytes d.srcFmt) (blockBytes (asWritten s d).dstFmt))
    (writeRange { d with quant := 0 } (rangeDequant s d) (rangeVal s d))) s

/-- Element (i, j) of a long tile under stage 3 of R94: poisoned rows and columns give NaN. -/
def longF32 (t : LTile) (i j : Nat) : W32 :=
  if t.rowPoison.getLsbD i || t.colPoison.getLsbD j then f32NaN else rneF32Pos (longDy t.leading (t.elem i j))

/-- What REDUCE_CLOSE reads: an element of the buffer under stage 3 of R94. -/
def closeF32 (s : State) (d : BezelDesc) (r c : Nat) : W32 :=
  let e := srcBlock d longTileBytes ((d.rowFirst + r) / 32) ((d.colFirst + c) / 32)
  match e with
  | .hbm a => longF32 (hbmLongTile s a longTileBytes) ((d.rowFirst + r) % 32) ((d.colFirst + c) % 32)
  | _ => longF32 (LTile.parse (fun i => epByte (sendView d s) (epAdd e i))) ((d.rowFirst + r) % 32) ((d.colFirst + c) % 32)

/-- REDUCE_CLOSE (R193): stages 3 and 6 of R94 on a committed buffer. Its stage 3 adds nothing to drain_max, which R138 gives to drains
(DESIGN CHOICE, log entry 36). -/
def reduceClose (d : BezelDesc) (s : State) : State := writeRange d (closeF32 s d) (fun r c => f32Op (closeF32 s d r c)) s

def execReduceClose (iss : Issuer) (d : BezelDesc) (s : State) : Out :=
  effect (runOp iss 0x0A d (convertFits s iss d longTileBytes (blockBytes (asWritten s d).dstFmt)) (reduceClose d)) s

/-! ### Microscaling (R76 to R78) -/

/-- The element code at index n of an MX array (R76). -/
def mxCode (s : State) (f : Nat) (e : Endpoint) (n : Nat) : Nat :=
  if f = 8 then
    let b := (epByte s (epAdd e (n / 2))).toNat
    if n % 2 = 0 then b % 16 else b / 16
  else (epByte s (epAdd e n)).toNat

/-- The index of the MX scale of element (r, c): row-major over the MX blocks. -/
def mxScaleIx (byRows : Bool) (cols r c : Nat) : Nat := if byRows then r * (cols / 32) + c / 32 else r / 32 * cols + c

/-- The tensor's length along the blocked axis is a multiple of 32 (R76). -/
def mxFits (byRows : Bool) (te : TabEntry) (cols : Nat) : Bool := if byRows then te.cols % 32 = 0 && cols % 32 = 0 else te.rows % 32 = 0

/-- MX_IMPORT (R77, R470). A stashed activation whose format the policy has changed is converted from the exact values of the array to the
format of its table entry (R197; DEDUCED, log entry 36). -/
def mxImport (d : BezelDesc) (s : State) : State :=
  match tabEntry s d.tensor, d.scales, fmtElem d.dstFmt with
  | some te, some sc, some k =>
    if outFormat s d.tensor d.dstFmt != d.dstFmt then
      let v := sendView d s
      let x := fun (r c : Nat) => mxVal k (epByte v (epAdd sc (mxScaleIx (d.aux % 2 = 0) d.srcCols (d.rowFirst + r) (d.colFirst + c)))).toNat
        (mxCode v d.srcFmt d.src ((d.rowFirst + r) * d.srcCols + (d.colFirst + c)))
      writeRange d (fun r c => dequantF32 (x r c)) x s
    else
    let byRows := d.aux % 2 = 0
    let nr := Nat.min d.rows (te.rows - d.rowFirst)
    let nc := Nat.min d.cols (te.cols - d.colFirst)
      let v := sendView d s
      let code := fun (r c : Nat) => mxCode v d.srcFmt d.src (r * d.srcCols + c)
      let scale := fun (r c : Nat) => (epByte v (epAdd sc (mxScaleIx byRows d.srcCols r c))).toNat
      let tiles := (List.range (ceilDiv nr 128)).flatMap (fun u => (List.range (ceilDiv nc 128)).map (fun h => (u, h)))
      let per := ceilDiv te.cols 128
      tiles.foldl (fun s' uh =>
        let r0 := d.rowFirst + 128 * uh.1
        let c0 := d.colFirst + 128 * uh.2
        let tr := Nat.min 128 (nr - 128 * uh.1)
        let tc := Nat.min 128 (nc - 128 * uh.2)
        let bs := wholeTile.map (fun b =>
          let rb := r0 + 32 * b.1
          let cb := c0 + 32 * b.2
          (b, mxImportBlock k d.dstFmt byRows (fun i j => code (rb + i) (cb + j))
            (fun n => if byRows then scale (rb + n) cb else scale rb (cb + n)) (tr - 32 * b.1) (tc - 32 * b.2)))
        let x := fun (r c : Nat) => mxVal k (scale (r0 + r) (c0 + c)) (code (r0 + r) (c0 + c))
        let draw := fun (r c : Nat) => elementDraw s d.stream d.dstCols (r0 + r) (c0 + c)
        let out := decideTile te (bitOf te.quant 1) d.dstFmt draw bs x (fun r c => dequantF32 (x r c)) tr tc c0
        let tile := (r0 / 128) * per + c0 / 128
        let db := blockBytes d.dstFmt
        statOwn d.tensor out.counts (writeTile (fromHost d) d.tensor tile out
          (fun p q => dstBlock d db (r0 / 32 + p) (c0 / 32 + q)) (destSpace s (dstBlock d db (r0 / 32) (c0 / 32))) s')) s
  | _, _, _ => s

/-- The microscaling side of a descriptor is whole: it names a scale array, its blocked length is a multiple of 32, and both arrays lie
where the issuer may go (R76, R181, R267). -/
def mxSideFits (s : State) (iss : Issuer) (d : BezelDesc) (f : Nat) (e : Endpoint) (cols : Nat) : Bool :=
  match tabEntry s d.tensor, d.scales with
  | some te, some sc =>
    let n := te.rows * cols
    mxFits (d.aux % 2 = 0) te cols && pagesFit s iss e (if f = 8 then ceilDiv n 2 else n) && pagesFit s iss sc (n / 32)
  | _, _ => false

def execMxImport (iss : Issuer) (d : BezelDesc) (s : State) : Out :=
  effect (runOp iss 0x06 d (mxSideFits s iss d d.srcFmt d.src d.srcCols
    && sideFits s iss d.dst (blockBytes (asWritten s d).dstFmt) d.rowFirst d.colFirst d.cols d.dstCols d.rows) (mxImport d)) s

/-- One MX block of an export: the range row or column that `l` names, through block (p, q). -/
def exportLine (s : State) (d : BezelDesc) (k : Elem) (byRows : Bool) (p q l : Nat) : Nat × List Nat × Nat × Nat :=
  let e := srcBlock d (blockBytes d.srcFmt) p q
  let src := blockSource s e d.srcFmt .chip
  let rd := blockReader s src.2.1 src.1
  let vals := (List.range 32).map (fun n => if byRows then blockVal src.1 rd l n else blockVal src.1 rd n l)
  let codes := (List.range 32).map (fun n => if byRows then blockCode src.1 rd l n else blockCode src.1 rd n l)
  let own := if byRows then blockRowByte src.1 rd l else blockColByte src.1 rd l
  let cross := (List.range 32).map (fun n => if byRows then blockColByte src.1 rd n else blockRowByte src.1 rd n)
  mxExportLine k src.2.2 vals codes own cross

/-- MX_EXPORT (R78): elements and scales at their places; the counts of rule 4. -/
def mxExport (d : BezelDesc) (s : State) : State :=
  match tabEntry s d.tensor, d.scales, fmtElem d.srcFmt with
  | some te, some sc, some k =>
    let byRows := d.aux % 2 = 0
    let nr := Nat.min d.rows (te.rows - d.rowFirst)
    let nc := Nat.min d.cols (te.cols - d.colFirst)
      let lines := (rangeBlocks d).flatMap (fun pq =>
        ((List.range 32).filter (fun l => if byRows then 32 * pq.1 + l < d.rowFirst + nr else 32 * pq.2 + l < d.colFirst + nc)).map
          (fun l => (pq, l, exportLine (sendView d s) d k byRows pq.1 pq.2 l)))
      let codeAt := fun (r c : Nat) =>
        match lines.find? (fun x => x.1 == (r / 32, c / 32) && x.2.1 == (if byRows then r % 32 else c % 32)) with
        | some x => x.2.2.2.1.getD (if byRows then c % 32 else r % 32) 0
        | none => 0
      let inRange := fun (n : Nat) =>
        let r := n / d.dstCols
        let c := n % d.dstCols
        decide (d.rowFirst ≤ r ∧ r < d.rowFirst + nr ∧ d.colFirst ≤ c ∧ c < d.colFirst + nc)
      let nib := fun (n : Nat) => if inRange n then codeAt (n / d.dstCols) (n % d.dstCols) else mxCode s 8 d.dst n
      let s1 := (List.range nr).foldl (fun s' i =>
        let n0 := (d.rowFirst + i) * d.dstCols + d.colFirst
        if d.dstFmt = 8 then
          let b0 := n0 / 2
          let b1 := (n0 + nc - 1) / 2
          epPut (fromHost d) (epAdd d.dst b0) ((List.range (b1 + 1 - b0)).map (fun k =>
            BitVec.ofNat 8 (nib (2 * (b0 + k)) + 16 * nib (2 * (b0 + k) + 1)))) s'
        else epPut (fromHost d) (epAdd d.dst n0) ((List.range nc).map (fun j => BitVec.ofNat 8 (codeAt (d.rowFirst + i) (d.colFirst + j)))) s') s
      let s2 := lines.foldl (fun s' x =>
        let r := 32 * x.1.1 + (if byRows then x.2.1 else 0)
        let c := 32 * x.1.2 + (if byRows then 0 else x.2.1)
        epPut (fromHost d) (epAdd sc (mxScaleIx byRows d.dstCols r c)) [BitVec.ofNat 8 x.2.2.1] s') s1
      statOwn d.tensor { StatRec.empty with
        saturation := lines.foldl (fun a x => a + x.2.2.2.2.1) 0
        underflow := lines.foldl (fun a x => a + x.2.2.2.2.2) 0 } s2
  | _, _, _ => s

def execMxExport (iss : Issuer) (d : BezelDesc) (s : State) : Out :=
  effect (runOp iss 0x07 d (mxSideFits s iss d d.dstFmt d.dst d.dstCols
    && sideFits s iss d.src (blockBytes d.srcFmt) d.rowFirst d.colFirst d.cols d.srcCols d.rows) (mxExport d)) s

/-! ### Reduce-on-write (R194, R202 to R204) -/

/-- Every page of a range is a REDUCE page (R193). -/
def reducePages (s : State) (a n : Nat) : Bool := (pagesOf 65536 a n).all (fun k => pageClass s k = some 3)

/-- REDUCE_INIT (R202): the buffer's long tiles become zero under the table's leading. -/
def reduceInit (d : BezelDesc) (s : State) : State :=
  (rangeBlocks d ++ rangeEdge s d).foldl (fun s pq =>
    match dstBlock d longTileBytes pq.1 pq.2 with
    | .hbm a => if reducePages s a longTileBytes then hbmWrite a (LTile.zero (tabLeading s d.tensor)).bytes s else s
    | _ => s) s

def execReduceInit (iss : Issuer) (d : BezelDesc) (s : State) : Out := effect (runOp iss 0x08 d true (reduceInit d)) s

/-- A kind's delta tiles: 0 local, 1 inbound (R177). -/
def deltaOf (kind : Nat) (s : State) : SMap (Nat × LTile) := if kind = 0 then s.hbm.deltaLocal else s.hbm.deltaIn

def setDelta (kind key : Nat) (t : Nat × LTile) (s : State) : State :=
  if kind = 0 then { s with hbm := { s.hbm with deltaLocal := SMap.put s.hbm.deltaLocal key t } }
  else { s with hbm := { s.hbm with deltaIn := SMap.put s.hbm.deltaIn key t } }

/-- The delta pages under a range land, or the frame is in doubt (R180). -/
def stageDeltas (kind a n : Nat) (s : State) : State × Bool :=
  (pagesOf 65536 a n).foldl (fun x k => if x.2 then stageDelta kind k x.1 else x) (s, true)

/-- The value with which an element of a contribution enters (R194): its exact value (R63, R84) in a sum, its FP32 value in a maximum or a
minimum. -/
def reduceVal (op : Nat) (x : W32) (v : OpVal) : OpVal := if op = 0 then v else f32Op x

/-- One element of a contribution into a delta tile (R194): exact sum, maximum, minimum or OR. `x` is the element as FP32, `v` the value
with which it enters. A maximum or a minimum keeps the value that wins as a long word; OR acts on the low 32 bits (log entry 20). -/
def reduceElem (op n i j : Nat) (x : W32) (v : OpVal) (t : LTile × StatRec) : LTile × StatRec :=
  let bad := { t.1 with
    nonfinite := true
    rowPoison := t.1.rowPoison ||| BitVec.ofNat 32 (p2 i)
    colPoison := t.1.colPoison ||| BitVec.ofNat 32 (p2 j) }
  let old := t.1.elem i j
  let put := fun (v : Int) (lost : Bool) =>
    ({ t.1 with
        elems := SMap.putD t.1.elems (32 * i + j) 0 v
        below := t.1.below || lost
        belowCount := hold32 (t.1.belowCount + (if lost then 1 else 0)) },
      if lost then { t.2 with belowWindow := hold32 (t.2.belowWindow + 1) } else t.2)
  if op = 3 then put ((lowBits 32 old ||| x.toNat : Nat) : Int) false
  else if !opFinite v then (bad, { t.2 with nonfinite := hold32 (t.2.nonfinite + 1) })
  else if !belowLimit t.1.leading n (opDy v) then ({ t.1 with nonfinite := true, rowPoison := t.1.rowPoison ||| BitVec.ofNat 32 (p2 i) }, t.2)
  else
    let u := DyOp.toUnits (opDy v) (t.1.leading - 75)
    if op = 0 then put (wrap96 (old + u.1)) u.2
    else
      let o := rneF32Pos (longDy t.1.leading old)
      if f32Key (if op = 1 then f32Max o x else f32Min o x) = f32Key o then t else put u.1 u.2

/-- A block of stored elements into a delta tile: the leading rises first when an element reaches P (R194). The rule does not say whether a
contribution is an element or a block: the block raises the leading once, for its largest element, and counts one re-lead (DESIGN CHOICE, log
entry 20). -/
def reduceBlock (op n : Nat) (x : Nat → Nat → W32) (v : Nat → Nat → OpVal) (t : LTile) : LTile × StatRec :=
  let cells := (List.range 1024).map (fun e => (e / 32, e % 32))
  let big := rowMax (cells.map (fun p => v p.1 p.2))
  let need := if op = 3 || belowLimit t.leading n big then 0 else leastDelta t.leading n big
  let new := clampI (-128) 127 (t.leading + need)
  let up := t.raise new
  let st := if need = 0 || new = t.leading then StatRec.empty
    else { StatRec.empty with relead := 1, leading := some new, belowWindow := up.2 }
  let t1 := if need = 0 || new = t.leading then t else { up.1 with releaded := true }
  cells.foldl (fun acc p => reduceElem op n p.1 p.2 (x p.1 p.2) (v p.1 p.2) acc) (t1, st)

/-- Add one stored block to the delta tile at an address (R194). -/
def addBlock (kind tensor op f a : Nat) (rd : Nat → Byte) (s : State) : State :=
  if !reducePages s a longTileBytes then s
  else
    match stageDeltas kind a longTileBytes s with
    | (s, false) => s
    | (s, true) =>
      let n := match tabEntry s tensor with
        | some te => Nat.max 1 te.declaredN
        | none => 1
      let t := SMap.getD (deltaOf kind s) (2 * a) (tensor, LTile.zero (tabLeading s tensor))
      let r := reduceBlock op n (fun i j => blockF32 f rd i j) (fun i j => reduceVal op (blockF32 f rd i j) (blockVal f rd i j)) t.2
      statPart kind tensor r.2 (setDelta kind (2 * a) (t.1, r.1) s)

/-- Combine one long tile or lane partial into the delta at an address (R91, R194). One that R91 does not let combine, of another segment
or of K indices that the delta covers already, adds nothing (log entry 20). -/
def addLongTile (kind tensor a : Nat) (lane : Bool) (t : LTile) (s : State) : State :=
  let size := if lane then lanePartialBytes else longTileBytes
  if !reducePages s a size then s
  else
    match stageDeltas kind a size s with
    | (s, false) => s
    | (s, true) =>
      let key := 2 * a + (if lane then 1 else 0)
      let old := SMap.getD (deltaOf kind s) key (tensor, LTile.zero (tabLeading s tensor))
      if !old.2.joins t then s
      else
        let r := LTile.combine old.2 t
        statPart kind tensor { StatRec.empty with belowWindow := r.2 } (setDelta kind key (old.1, r.1) s)

/-- Add one rounded tile: each FP32 part adds to what stands in the delta tile and the sum is rounded to FP32, as R87 and R332 add parts; its
masks OR in (DEDUCED, log entry 20). -/
def addRounded (kind tensor a : Nat) (rd : Nat → Byte) (s : State) : State :=
  let n := fun (o k : Nat) => BitVec.ofNat 32 (leNat ((List.range k).map (fun i => rd (o + i))))
  let s1 := addBlock kind tensor 0 6 a (fun i => rd (64 + i)) s
  match SMap.get? (deltaOf kind s1) (2 * a) with
  | none => s1
  | some (o, t) => setDelta kind (2 * a) (o, { t.roundFp with
      nonfinite := t.nonfinite || (rd 1).getLsbD 0
      rowPoison := t.rowPoison ||| n 16 4
      colPoison := t.colPoison ||| n 20 4 }) s1

/-- A contribution block adds its CRC to the staged digest (R349). -/
def digestBlock (d : BezelDesc) (p q : Nat) (bytes : List Byte) (s : State) : State :=
  match tabEntry s d.tensor with
  | none => s
  | some te =>
    if !te.gradient then s
    else
      let tile := p / 4 * ceilDiv te.cols 128 + q / 4
      let seq := leBytes 2 d.tensor ++ leBytes 4 tile ++ leBytes 1 (4 * (p % 4) + q % 4) ++ leBytes 2 (bitsOf d.stream.toNat 27 16) ++ bytes
      { s with step := { s.step with digestStaged := s.step.digestStaged + BitVec.ofNat 64 (crc64 0 seq) } }

/-- A rounded tile of committed HBM; a listed word poisons it as it does a long tile (R93, R183). -/
def roundedBytes (s : State) (a : Nat) : List Byte :=
  let b := hbmBytes s a roundedTileBytes
  if rangePoisoned s a roundedTileBytes then
    [b.getD 0 0, b.getD 1 0 ||| 1] ++ sliceB b 2 14 ++ leBytes 4 0xFFFFFFFF ++ b.drop 20
  else b

/-- The bytes of a long-form source at an endpoint. -/
def longBytes (s : State) (e : Endpoint) (n : Nat) : List Byte :=
  match e with
  | .hbm a => if n = roundedTileBytes then roundedBytes s a else (hbmLongTile s a n).bytes.take n
  | _ => epBytes s e n

/-- REDUCE_ADD of long-form sources: a lane partial where the range is one row, else long or rounded tiles by their
header (log entry 20). A row wider than 32 columns holds one lane partial for each 32 columns, in the place of its long tile (DESIGN CHOICE,
log entry 20). -/
def addLongForm (d : BezelDesc) (s : State) : State :=
  (rangeBlocks d).foldl (fun s pq =>
    let lane := d.rows = 1
    let e := srcBlock d longTileBytes pq.1 pq.2
    let v := sendView d s
    let rounded := !lane && (epByte v (epAdd e 1)).getLsbD 3
    let size := if lane then lanePartialBytes else if rounded then roundedTileBytes else longTileBytes
    let bytes := longBytes v e size
    let rd := fun (i : Nat) => bytes.getD i 0
    let s1 := digestBlock d pq.1 pq.2 bytes s
    match dstBlock d longTileBytes pq.1 pq.2 with
    | .remote c a => sendData 3 { ownHdr s1 c a d.tensor 0xFF 0 with rounded := rounded } bytes s1
    | .hbm a => if rounded then addRounded 0 d.tensor a rd s1 else addLongTile 0 d.tensor a lane (LTile.parse rd) s1
    | _ => s1) s

/-- REDUCE_ADD of stored blocks (R194): into the local delta, or out in reduce-write packets; a promoted tile's slot is
added (R471). -/
def addStored (d : BezelDesc) (s : State) : State :=
  (rangeBlocks d).foldl (fun s pq =>
    let v := sendView d s
    let src := blockSource v (srcBlock d (blockBytes d.srcFmt) pq.1 pq.2) d.srcFmt .chip
    let bytes := storedBytes v src.2.1 src.1
    let s1 := digestBlock d pq.1 pq.2 bytes s
    match dstBlock d longTileBytes pq.1 pq.2 with
    | .remote c a => sendData 2 (ownHdr s1 c a d.tensor src.1 d.aux) bytes s1
    | .hbm a => addBlock 0 d.tensor d.aux src.1 a (fun i => bytes.getD i 0) s1
    | _ => s1) s

def execReduceAdd (iss : Issuer) (d : BezelDesc) (s : State) : Out :=
  effect (runOp iss 0x09 d (sideFits s iss d.src (if d.srcFmt = 0xFF then longTileBytes else blockBytes d.srcFmt)
    d.rowFirst d.colFirst d.cols d.srcCols d.rows) (if d.srcFmt = 0xFF then addLongForm d else addStored d)) s

end Sys2Proof.Machine
end

