-- ==== Sys2Proof/Machine/Commands.lean ====
section
/-! DEFINITION. The mailbox commands of identity, ownership, time, environment, running, batches, faults, records and
statistics (R280 to R288, R291, R292, R295 to R297, R303 to R306, R308). -/

namespace Sys2Proof.Machine
open Sys2Proof

/-! ### Identity, status, ownership (R280 to R283) -/

/-- The anti-rollback counter: consecutive 1 bits from bit 0 (R426). -/
def rollbackValue (s : State) : Nat := ((List.range 64).takeWhile (fun i => bitOf s.ident.rollback.toNat i)).length

/-- The 168 bytes of IDENTIFY (R280). -/
def identifyBytes (p : PPort) (s : State) : List Byte :=
  leBytes 4 (devId p) ++ leBytes 4 s.dev.fw.toNat ++ leBytes 8 s.dev.uid.toNat ++ leBytes 4 (lifecycleCode s) ++ zeros 4
    ++ cellMapBytes s ++ pagesBytes s ++ sliceB s.ident.hallmarkKey 0 32 ++ leBytes 8 (rollbackValue s)

def execIdentify (s : State) : Out :=
  effect (command 0x0001 noArgs (fun c s => c.finish stDone (identifyBytes c.port s) s)) s

/-- A generation that the chip holds for others is damaged (R344). -/
def heldDamaged (s : State) : Bool := [s.snap.held0, s.snap.held1].any (fun h => match h with
  | some g => g.damaged
  | none => false)

/-- The lowest stalled group, 0xFFFF if none. -/
def firstStalled (s : State) : Nat := s.fabric.stalled.foldl Nat.min 0xFFFF

/-- The 224 bytes of STATUS (R281). -/
def statusBytes (p : PPort) (s : State) : List Byte :=
  let q := getPPort p s
  leBytes 4 (devStateWord s) ++ leBytes 4 (ownHolder p s) ++ leBytes 8 s.tick.count.toNat ++ leBytes 8 s.tick.lastCommit.toNat
    ++ leBytes 8 s.tick.slips.toNat ++ s.step.record.bytes ++ cellMapBytes s ++ leBytes 1 q.width ++ leBytes 1 q.rate
    ++ leBytes 1 (bitAt s.snap.exposed 0 + bitAt s.snap.proven 1 + bitAt (heldDamaged s) 2) ++ zeros 1
    ++ leBytes 4 (envPower s) ++ leBytes 4 (envTj s) ++ leBytes 4 s.dev.heartbeat.toNat
    ++ leBytes 2 s.fabric.stalled.length ++ leBytes 2 (firstStalled s) ++ zeros 4 ++ pagesBytes s

def execStatus (s : State) : Out := effect (command 0x0002 noArgs (fun c s => c.finish stDone (statusBytes c.port s) s)) s

/-- CLAIM_CONTROL's length argument is 0 or 1,000 to 30,000 ms (R268, R282). -/
def claimArgs (c : Cmd) (_ : State) : Bool := c.argLen = 4 && (c.n 0 4 = 0 || (1000 ≤ c.n 0 4 && c.n 0 4 ≤ 30000))

/-- CLAIM_CONTROL (R268). -/
def runClaim (c : Cmd) (s : State) : State :=
  if s.own.holder = some (otherPort c.port) then c.finish stNotOwner [] s
  else
    let ms := if c.n 0 4 = 0 then 3000 else c.n 0 4
    let s1 := setHolder (some c.port) (onOwn (fun o => { o with
      leaseLen := BitVec.ofNat 32 ms
      expiryUs := s.tick.timeUs + 1000 * ms
      generation := o.generation + 1
      lapsed := none }) s)
    c.finish stDone (leBytes 4 s1.own.generation.toNat ++ leBytes 4 s1.own.leaseLen.toNat) s1

def execClaimControl (s : State) : Out := effect (command 0x0010 claimArgs runClaim) s

/-- RENEW_LEASE (R268): a renewal after the expiry cancels the end of the lease. -/
def runRenew (c : Cmd) (s : State) : State :=
  let s1 := onlyIf s.own.holder.isNone (onDev (fun d => { d with leaseHold := false })) s
  let s2 := setHolder (some c.port) (onOwn (fun o => { o with
    expiryUs := s.tick.timeUs + 1000 * o.leaseLen.toNat
    lapsed := none }) s1)
  c.finish stDone (leBytes 4 (leaseLeft s2)) s2

def execRenewLease (s : State) : Out := effect (command 0x0011 noArgs runRenew) s

/-- RELEASE_CONTROL ends the lease at once (R268). -/
def runRelease (c : Cmd) (s : State) : State :=
  c.finish stDone [] (leaseEffects (setHolder none (onOwn (fun o => { o with lapsed := none }) s)))

def execReleaseControl (s : State) : Out := effect (command 0x0012 noArgs runRelease) s

/-- The command completes, and a core reset follows 1 ms later; no other record is written (R283, R425). -/
def finishAndReset (c : Cmd) (s : State) : State :=
  onDev (fun d => { d with resetAt := some (s.tick.timeUs + 1000) })
    (onMbx (fun m => { m with silenced := true }) (c.finish stDone [] (onPorts (fun q => { q with waiting := [] }) s)))

def execReset (s : State) : Out :=
  effect (command 0x0013 (fun c _ => c.argLen = 4 && c.n 0 4 = 0x72000013) finishAndReset) s

/-! ### Time, environment, power (R284 to R287) -/

/-- SET_TIME (R284, R447): the record joins the queue. -/
def runSetTime (c : Cmd) (s : State) : State :=
  let k := s.flash.nextCorr
  let utc := c.n 0 8
  let r : CorrRec := { sequence := k, hours := hoursField s, cycle := s.life.now.cycles, tick := s.tick.count, utc := BitVec.ofNat 64 utc }
  let s1 := onFlash (fun f => { f with corrQueue := f.corrQueue ++ [r], nextCorr := k + 1 }) s
  let s2 := recordEvent 0x000E (leBytes 4 k.toNat ++ zeros 4 ++ leBytes 8 utc) (onLife (fun l => { l with lastCorr := k }) s1)
  c.finish stDone (leBytes 4 k.toNat) s2

def execSetTime (s : State) : Out := effect (command 0x0020 (fun c _ => c.argLen = 8) runSetTime) s

/-- The largest chip offset of the loaded image (R118, R229). -/
def maxOffset (s : State) : Nat :=
  match s.image.img with
  | some i => i.hdr.maxOffset
  | none => 500

/-- SET_ENVIRONMENT's ranges (R118, R285); a field without its valid bit must be 0. -/
def envArgs (c : Cmd) (s : State) : Bool :=
  let v := c.n 0 1
  c.argLen = 12 && v < 16 && c.zero 1 1 && c.zero 10 2
    && (if bitOf v 0 then 320 ≤ c.n 2 2 && c.n 2 2 ≤ 720 else c.zero 2 2)
    && (if bitOf v 1 then 128 ≤ c.n 4 2 && c.n 4 2 ≤ 320 else c.zero 4 2)
    && (if bitOf v 2 then c.n 6 2 ≤ 0xFFFE else c.zero 6 2)
    && (if bitOf v 3 then c.n 8 2 ≤ 500 && c.n 8 2 ≤ maxOffset s else c.zero 8 2)

/-- A feed domain that a partner shares, an unset one included (R299). -/
def feedShared (feed even odd : Nat) : Bool := feed = 0xFFFF || even = feed || odd = feed

/-- SET_ENVIRONMENT (R285, R394). -/
def runSetEnvironment (c : Cmd) (s : State) : State :=
  let v := c.n 0 1
  let feed := if bitOf v 2 then c.n 6 2 else s.env.feed
  let clash := bitOf v 2 && s.snap.partnersSet && (s.snap.evenFeed = feed || s.snap.oddFeed = feed)
  if clash && !s.snap.acked then c.finish stFeedShared [] s
  else
    let s1 := onEnv (fun e => { e with
      inletNext := if bitOf v 0 then some (c.n 2 2 : Int) else e.inletNext
      flowNext := if bitOf v 1 then some (c.n 4 2) else e.flowNext
      feed := feed
      offsetNext := if bitOf v 3 then some (c.n 8 2) else e.offsetNext }) s
    let s2 := onSnap (fun x => { x with exposed := x.partnersSet && feedShared feed x.evenFeed x.oddFeed }) s1
    c.finish stDone [] s2

def execSetEnvironment (s : State) : Out := effect (command 0x0021 envArgs runSetEnvironment) s

def budgetArgs (c : Cmd) (_ : State) : Bool :=
  c.argLen = 8 && 400 ≤ c.n 0 2 && c.n 0 2 ≤ 2500 && (c.n 2 2 = 0 || (1000 ≤ c.n 2 2 && c.n 2 2 ≤ 10000)) && c.zero 4 4

/-- The rise of the budget at one tick, in mW: 250 W/ms over one frame (R376). -/
def budgetStep (r : TickRate) : Nat := 250 * frameUs r

/-- The own tick at which a new budget is fully in force (R286; log entry 24). -/
def budgetTick (target : Nat) (s : State) : W64 :=
  if target = s.env.budget then s.tick.count
  else if target < s.env.budget then s.tick.count + 1
  else s.tick.count + BitVec.ofNat 64 (ceilDiv (target - s.env.budget) (budgetStep s.tick.rate))

/-- SET_POWER_BUDGET (R286, R376). -/
def runSetBudget (c : Cmd) (s : State) : State :=
  let mw := 1000 * c.n 0 2
  c.finish stDone (leBytes 8 (budgetTick mw s).toNat) (onEnv (fun e => { e with
    budgetTarget := mw
    windowNext := if c.n 2 2 = 0 then e.windowNext else some (c.n 2 2) }) s)

def execSetPowerBudget (s : State) : Out := effect (command 0x0022 budgetArgs runSetBudget) s

def pointArgs (c : Cmd) (_ : State) : Bool :=
  c.argLen = 8 && (List.range 6).all (fun p => c.n p 1 ≤ 3 || c.n p 1 = 0xFF) && c.zero 6 2

/-- SET_OPERATING_POINTS (R287). -/
def execSetOperatingPoints (s : State) : Out :=
  effect (command 0x0023 pointArgs (fun c s =>
    c.finish stDone [] (onEnv (fun e => { e with preferred := (List.range 6).map (fun p => c.n p 1) }) s))) s

/-! ### Address and tick domain (R288, R291) -/

/-- SET_FABRIC_ADDRESS (R288). -/
def execSetFabricAddress (s : State) : Out :=
  effect (command 0x0030 (fun c s => c.argLen = 16 && c.n 0 8 = s.dev.uid.toNat && c.zero 10 6)
    (fun c s => c.finish stDone [] (onDev (fun d => { d with fabric := c.n 8 2 }) s))) s

/-- The rate of a code. -/
def rateOf (n : Nat) : TickRate := if n = 0 then .r5000 else if n = 1 then .r10000 else .r20000

def domainArgs (c : Cmd) (_ : State) : Bool :=
  c.argLen = 4 && c.n 0 1 ≤ 1 && c.n 1 1 < 20 && (c.n 0 1 = 1 || c.n 1 1 = 0) && c.n 2 1 ≤ 2 && c.zero 3 1

/-- SET_TICK_DOMAIN (R291). -/
def execSetTickDomain (s : State) : Out :=
  effect (command 0x0034 domainArgs (fun c s =>
    c.finish stDone [] (onTick (fun t => { t with
      newDomain := some { source := c.n 0 1 = 0, upstream := c.n 1 1, rate := rateOf (c.n 2 1) } }) s))) s

/-! ### Host buffers (R266, R292) -/

/-- The index of a binding lies on the port (R266). -/
def ownIndex (p : PPort) (b : Nat) : Bool := b < 256 && decide (bindPort b = p)

/-- The binding byte of an ACCEPTED command's arguments. -/
def accBinding (a : Acc) : Option Nat :=
  if a.opcode = 0x31 || a.opcode = 0x32 || a.opcode = 0x40 || a.opcode = 0xA0 then some (fieldN a.args 0 1)
  else if a.opcode = 0x64 || a.opcode = 0x90 then some (fieldN a.args 3 1)
  else if a.opcode = 0x80 then some (fieldN a.args 12 1)
  else if a.opcode = 0xB0 then some (fieldN a.args 5 1)
  else none

/-- An ACCEPTED command or a queued batch uses the index (R279). -/
def bindingBusy (b : Nat) (s : State) : Bool :=
  s.mbx.accepted.any (fun a => accBinding a == some b) || s.step.batches.any (fun x => x.binding = b)

/-- Descriptor `i` of BIND_HOST_BUFFERS is legal (R7, R266). -/
def bindOk (c : Cmd) (i : Nat) : Bool :=
  let o := 32 + 32 * i
  ownIndex c.port (c.n o 1) && c.n (o + 1) 1 < 8 && c.zero (o + 2) 6 && c.zero (o + 24) 8
    && (bitOf (c.n (o + 1) 1) 2 || (c.n (o + 8) 8 % 4096 = 0 && c.n (o + 16) 8 % 4096 = 0 && c.n (o + 16) 8 ≤ p2 40))

def bindArgs (c : Cmd) (_ : State) : Bool :=
  1 ≤ c.n 0 1 && c.n 0 1 ≤ 6 && c.argLen = 32 + 32 * c.n 0 1 && c.zero 1 31 && (List.range (c.n 0 1)).all (bindOk c)

/-- Apply descriptor `i`. -/
def applyBind (c : Cmd) (q : PortSt) (i : Nat) : PortSt :=
  let o := 32 + 32 * i
  let f := c.n (o + 1) 1
  if bitOf f 2 then { q with binds := SMap.del q.binds (c.n o 1) }
  else { q with binds := SMap.put q.binds (c.n o 1) { canRead := bitOf f 0, canWrite := bitOf f 1,
                                                      address := BitVec.ofNat 64 (c.n (o + 8) 8), length := c.n (o + 16) 8 } }

/-- Descriptor `i` unbinds its index, or binds one that is bound (R279). -/
def rebinds (c : Cmd) (i : Nat) (s : State) : Bool :=
  bitOf (c.n (33 + 32 * i) 1) 2 || (SMap.get? (getPPort c.port s).binds (c.n (32 + 32 * i) 1)).isSome

/-- BIND_HOST_BUFFERS (R292). -/
def runBind (c : Cmd) (s : State) : State :=
  if (List.range (c.n 0 1)).any (fun i => rebinds c i s && bindingBusy (c.n (32 + 32 * i) 1) s) then c.finish stBusy [] s
  else c.finish stDone [] (onPort c.port (fun q => (List.range (c.n 0 1)).foldl (applyBind c) q) s)

def execBindHostBuffers (s : State) : Out := effect (command 0x0042 bindArgs runBind) s

/-! ### Running (R295 to R297, R308) -/

/-- A group that the image references is stalled. -/
def referencedStalled (s : State) : Bool :=
  match s.image.img with
  | some i => i.groups.any (fun g => s.fabric.stalled.contains g)
  | none => false

/-- stalled and uncontrolled clear (R295, R297). -/
def clearFlags (s : State) : State :=
  onStep (fun t => { t with record := { t.record with stalled := false } })
    (onDev (fun d => { d with stalled := false, uncontrolled := false }) s)

/-- RUN_STEPS (R295, R472). -/
def runRunSteps (c : Cmd) (s : State) : State :=
  if referencedStalled s then c.finish stGroupStalled [] s
  else
    c.finish stDone (leBytes 8 s.step.record.attempted.toNat) (onStep (fun t => { t with
      startAt := true
      stepsLeft := if c.n 0 4 = 0xFFFFFFFF then none else some (c.n 0 4) }) (clearFlags s))

def execRunSteps (s : State) : Out := effect (command 0x0050 (fun c _ => c.argLen = 4 && c.n 0 4 != 0) runRunSteps) s

/-- Lengths and bindings of the 24-byte layout of R289 and its kin: a range inside the binding (R267). -/
def rangeOk (s : State) (p : PPort) (b off len : Nat) : Bool := ownIndex p b && dmaFits s b off len

def batchArgs (c : Cmd) (s : State) : Bool :=
  c.argLen = 48 && c.zero 4 4 && c.zero 25 7 && rangeOk s c.port (c.n 24 1) (c.n 32 8) (c.n 40 8)

def batchOf (c : Cmd) : Batch where
  port := c.port
  tag := BitVec.ofNat 32 (c.n 0 4)
  appliedTag := BitVec.ofNat 64 (c.n 8 8)
  attemptTag := BitVec.ofNat 64 (c.n 16 8)
  binding := c.n 24 1
  offset := c.n 32 8
  length := c.n 40 8

/-- SUBMIT_BATCH (R208, R296). `data` is what host memory holds in the batch's range (log entry 5). -/
def runBatch (data : List Byte) (c : Cmd) (s : State) : State :=
  let b := batchOf c
  let same := s.step.batches.filter (fun x => x.attemptTag = b.attemptTag)
  if same.isEmpty && decide (4 ≤ s.step.batches.length) then c.finish stBusy [] s
  else if b.attemptTag.toNat < s.step.record.attempted.toNat then c.finish stStepMismatch [] s
  else
    let s1 := same.foldl (fun s x => batchRecord x stStepMismatch x.attemptTag.toNat s) s
    let s2 := onStep (fun t => { t with batches :=
      if same.isEmpty then t.batches ++ [b] else t.batches.map (fun x => if x.attemptTag = b.attemptTag then b else x) }) s1
    c.finish stDone [] (hostWrite b.binding b.offset (data.take b.length) s2)

def execSubmitBatch (data : List Byte) (s : State) : Out := effect (command 0x0051 batchArgs (runBatch data)) s

/-- A proof whose replay is stuck ends with a HOLD (R48; log entry 33). -/
def dropStuckProof (s : State) : State :=
  if s.frame.stuck && s.step.proof.isSome then finishCmd 0x63 stWrongState 0 [] (onStep (fun t => { t with proof := none }) s) else s

/-- HOLD (R297, R48); one that is taken during the stop of a snapshot acts at the tick that ends it (R272, R358; DEDUCED, log entry 33).
In HELD it also ends what would resume the chip by itself behind a re-imposition or a retraining (DESIGN CHOICE, log entry 38). -/
def runHold (c : Cmd) (s : State) : State :=
  if s.dev.state = .held then
    c.finish stDone [] (onDev (fun d => { d with goOn := false })
      (onFrame (fun f => { f with stuck := false, retry := false }) (dropStuckProof s)))
  else c.accept 0x52 [] s

def execHold (s : State) : Out := effect (command 0x0052 noArgs runHold) s

/-- RESUME (R297): the chip resumes at the next tick. -/
def runResume (c : Cmd) (s : State) : State :=
  if s.dev.unaligned then c.finish stWrongState [] s
  else if referencedStalled s then c.finish stGroupStalled [] s
  else c.finish stDone [] (onStep (fun t => { t with resumeAt := true }) (clearFlags s))

def execResume (s : State) : Out := effect (command 0x0053 noArgs runResume) s

/-- The image compares the tensor with a reference (R99, R147): some drain of it carries the comparison flag. -/
def hasReference (s : State) (t : Nat) : Bool :=
  match s.image.img with
  | some i => i.formes.any (fun f => f.items.any (fun it => match it.body with
    | .drain d => d.tensor = t && d.compare
    | _ => false))
  | none => false

def referenceArgs (c : Cmd) (_ : State) : Bool :=
  c.n 0 1 ≤ 1 && c.n 1 1 ≤ 32 && c.argLen = 8 + 2 * c.n 1 1 && c.zero 2 2

/-- Every named tensor has a reference. -/
def referenceFits (c : Cmd) (s : State) : Bool := (List.range (c.n 1 1)).all (fun i => hasReference s (c.n (8 + 2 * i) 2))

/-- REFERENCE_MODE (R308): in force from the next step's opening tick. -/
def runReference (c : Cmd) (s : State) : State :=
  let named := (List.range (c.n 1 1)).map (fun i => c.n (8 + 2 * i) 2)
  let now := match s.step.refNext with
    | some r => r
    | none => (s.step.refTensors, s.step.refBound)
  let next := if c.n 0 1 = 1 then (named.foldl insertNat now.1, BitVec.ofNat 32 (c.n 4 4))
    else if named.isEmpty then ([], now.2)
    else (now.1.filter (fun t => !named.contains t), now.2)
  c.finish stDone [] (onStep (fun t => { t with refNext := some next }) s)

def execReferenceMode (s : State) : Out := effect (command 0x0091 referenceArgs (checked referenceFits runReference)) s

/-! ### Faults (R303, R364 to R368, R371, R372) -/

/-- The unit exists at its level. -/
def unitOk (l : Level) (u : Nat) : Bool := u < l.units

def levelArg (c : Cmd) : Level := (levelOf (c.n 0 1)).getD .chip

def faultReadArgs (c : Cmd) (_ : State) : Bool :=
  c.argLen = 8 && (levelOf (c.n 0 1)).isSome && c.zero 1 1 && unitOk (levelArg c) (c.n 2 2) && 1 ≤ c.n 6 2 && c.n 6 2 ≤ 13

/-- The window count that a source record shows: that of the window in force, but a FENCED cell's count stands (R303, R370). -/
def shownCount (l : Level) (u n : Nat) (s : State) : Nat :=
  let f := faultSrc l u n s
  if l = .cell && cellState u s = .fenced then f.count else windowCount f s.tick.count

/-- A 16-byte source record (R303); a number without a source reads 0 (R368). -/
def sourceRecord (l : Level) (u n : Nat) (s : State) : List Byte :=
  if (sourceInfo l n).isNone then leBytes 2 n ++ zeros 14
  else
    let f := faultSrc l u n s
    leBytes 2 n ++ leBytes 1 (bitAt f.sticky 0 + bitAt f.severe 1 + bitAt f.forced 2) ++ leBytes 1 f.cfg.n ++ leBytes 2 f.cfg.w
      ++ leBytes 2 (shownCount l u n s) ++ leBytes 8 f.total

def runFaultRead (c : Cmd) (s : State) : State :=
  let k := c.n 6 2
  c.finish stDone (leBytes 2 k ++ zeros 14
    ++ ((List.range k).map (fun i => sourceRecord (levelArg c) (c.n 2 2) (c.n 4 2 + i) s)).flatten) s

def execFaultRead (s : State) : Out := effect (command 0x0070 faultReadArgs runFaultRead) s

/-- A cell unit whose cell is ABSENT (R368). -/
def absentUnit (l : Level) (u : Nat) (s : State) : Bool := l = .cell && decide (cellState u s = .absent)

/-- REPLAY with FENCE accepts N from 1 to 4 and W from 8 only (R367). -/
def replayFenceOk (action n w : Nat) : Bool := !(action = actionByte 1 1) || (n ≤ 4 && 8 ≤ w)

def faultConfigArgs (c : Cmd) (s : State) : Bool :=
  let l := levelArg c
  let u := c.n 2 2
  c.argLen = 16 && (levelOf (c.n 0 1)).isSome && c.zero 1 1 && c.zero 10 6 && (u = 0xFFFF || (unitOk l u && !absentUnit l u s))
    && 1 ≤ c.n 6 1 && 1 ≤ c.n 8 2 && replayFenceOk (c.n 7 1) (c.n 6 1) (c.n 8 2)
    && (match sourceInfo l (c.n 4 2) with
      | some i => i.events.contains (c.n 7 1 % 16) && i.severes.contains (c.n 7 1 / 16)
      | none => false)

/-- One unit's FAULT_CONFIG waits for its window (R303). -/
def pendCfg (l : Level) (n : Nat) (cfg : FCfg) (s : State) (u : Nat) : State :=
  if absentUnit l u s then s else setFaultSrc l u n { faultSrc l u n s with pending := some (cfg, s.tick.count) } s

def runFaultConfig (c : Cmd) (s : State) : State :=
  let l := levelArg c
  let cfg : FCfg := { n := c.n 6 1, w := c.n 8 2, action := c.n 7 1 }
  let units := if c.n 2 2 = 0xFFFF then List.range l.units else [c.n 2 2]
  c.finish stDone [] (units.foldl (pendCfg l (c.n 4 2) cfg) s)

def execFaultConfig (s : State) : Out := effect (command 0x0071 faultConfigArgs runFaultConfig) s

def faultForceArgs (c : Cmd) (s : State) : Bool :=
  let l := levelArg c
  c.argLen = 8 && (levelOf (c.n 0 1)).isSome && c.zero 1 1 && c.zero 7 1 && unitOk l (c.n 2 2) && !absentUnit l (c.n 2 2) s
    && (sourceInfo l (c.n 4 2)).isSome && 1 ≤ c.n 6 1

/-- FAULT_FORCE (R371): the events wait for the next tick. -/
def runFaultForce (c : Cmd) (s : State) : State :=
  if levelArg c = .cell && cellState (c.n 2 2) s = .fenced then c.finish stWrongState [] s
  else c.finish stDone [] (onFaults (fun f => { f with
    forcedNext := f.forcedNext ++ [(faultKey (levelArg c) (c.n 2 2) (c.n 4 2), c.n 6 1)] }) s)

def execFaultForce (s : State) : Out := effect (command 0x0072 faultForceArgs runFaultForce) s

/-- UNFENCE (R303, R372): in effect at the next tick. -/
def runUnfence (c : Cmd) (s : State) : State :=
  if cellState (c.n 0 2) s = .fenced && s.cells.forcedFence.contains (c.n 0 2) then
    c.finish stDone [] (onCells (fun x => { x with unfenceAt := insertNat x.unfenceAt (c.n 0 2) }) s)
  else c.finish stWrongState [] s

def execUnfence (s : State) : Out :=
  effect (command 0x0073 (fun c _ => c.argLen = 4 && c.n 0 2 < 288 && c.zero 2 2) runUnfence) s

/-! ### Records and statistics (R304 to R306) -/

/-- The records that EVENT_READ delivers, oldest first (R444). Every record of the model stands whole in flash or in the queue, so the two reads
of its number agree and its CRC holds. -/
def eventsFrom (s : State) (first count : Nat) : List EventRec :=
  ((s.flash.ring ++ s.flash.queue).filter (fun r => first ≤ r.sequence.toNat)).take count

/-- Bytes that wait for their binding (R267, R277). -/
def deliver (op b off : Nat) (bytes : List Byte) (s : State) : State :=
  onMbx (fun m => { m with dma := m.dma ++ [{ opcode := op, binding := b, write := true, offset := off, bytes := bytes }] }) s

def eventArgs (c : Cmd) (s : State) : Bool :=
  let n := c.n 8 4
  c.argLen = 24 && c.zero 13 3
    && (if c.n 12 1 = 0xFF then 1 ≤ n && n ≤ 3
        else 1 ≤ n && n ≤ 65536 && rangeOk s c.port (c.n 12 1) (c.n 16 8) (64 * (eventsFrom s (c.n 0 8) n).length))

def runEventRead (c : Cmd) (s : State) : State :=
  let l := eventsFrom s (c.n 0 8) (c.n 8 4)
  let bytes := (l.map EventRec.bytes).flatten
  if c.n 12 1 = 0xFF then c.finish stDone (leBytes 4 l.length ++ zeros 4 ++ bytes) s
  else deliver 0x80 (c.n 12 1) (c.n 16 8) bytes (c.accept 0x80 [] s)

def execEventRead (s : State) : Out := effect (command 0x0080 eventArgs runEventRead) s

def execLifetimeRead (s : State) : Out := effect (command 0x0081 noArgs (fun c s => c.finish stDone s.life.now.bytes s)) s

/-- A column correction vector of C bytes, padded to a multiple of 64 (R306). -/
def colBytes (r : StatRec) (cols : Nat) : List Byte :=
  sliceB ((List.range cols).map (fun c => match r.cols.find? (fun x => x.1 = c) with
    | some x => x.2
    | none => 0xFE)) 0 (ceilDiv cols 64 * 64)

/-- A 64-byte comparison record (R147). -/
def CmpRec.bytes (r : CmpRec) (tensor : Nat) (bound : W32) : List Byte :=
  leBytes 2 tensor ++ zeros 2 ++ leBytes 4 bound.toNat ++ leBytes 8 r.compared ++ leBytes 8 r.exact ++ leBytes 8 r.overs
    ++ leBytes 4 r.maxDev ++ zeros 28

/-- What STATS_READ delivers for one tensor (R306). -/
def statBytes (s : State) (kind t : Nat) : List Byte :=
  if kind = 0 then
    let r := SMap.getD s.stats.last t StatRec.empty
    match tabEntry s t with
    | some e =>
      let f := s.stats.lastForm.getD t (e.format, e.leading)
      StatRec.bytes r t f.1 f.2 ++ colBytes r e.cols
    | none => []
  else
    match SMap.get? s.step.cmpLast t with
    | some r => CmpRec.bytes r t s.step.cmpBound
    | none => zeros 64

def statsWanted (c : Cmd) (s : State) : List Byte :=
  ((List.range (c.n 2 2)).map (fun i => statBytes s (c.n 4 1) (c.n 0 2 + i))).flatten

def statsArgs (c : Cmd) (s : State) : Bool :=
  c.argLen = 24 && 1 ≤ c.n 2 2 && c.n 2 2 ≤ 4096 && c.n 4 1 ≤ 1 && c.zero 6 2 && rangeOk s c.port (c.n 5 1) (c.n 8 8) (c.n 16 8)

/-- The table holds the tensors, and the range their records. -/
def statsFit (c : Cmd) (s : State) : Bool := c.n 0 2 + c.n 2 2 ≤ s.step.table.length && (statsWanted c s).length ≤ c.n 16 8

def execStatsRead (s : State) : Out :=
  effect (command 0x00B0 statsArgs (checked statsFit (fun c s =>
    deliver 0xB0 (c.n 5 1) (c.n 8 8) (statsWanted c s) (c.accept 0xB0 [] s)))) s

/-- The bytes of EVENT_READ as they are read: a record that has been erased since the command was accepted is skipped (R444, R449). -/
def heldEvents (s : State) : Nat → List Byte → List Byte
  | 0, _ => []
  | n + 1, b =>
    (if (s.flash.ring ++ s.flash.queue).any (fun r => r.sequence.toNat = fieldN b 0 8) then b.take 64 else []) ++ heldEvents s n (b.drop 64)

/-- What a delivery writes: the generation, the statistics, or the event records that still exist. -/
def deliveredBytes (s : State) (a : Acc) (d : DmaWait) : List Byte :=
  if a.opcode = 0x80 then heldEvents s (d.bytes.length / 64) d.bytes else d.bytes

/-- HOST_BUFFER_DELIVERY_DONE (R277): a port's bulk command has written all its bytes. A range past the end of a binding that was bound anew
completes with BAD_ARGUMENT and moves nothing (R267). -/
def runDelivery (p : PPort) (s : State) : State :=
  match s.mbx.accepted.find? (fun a => bulkOps.contains a.opcode && decide (a.port = p)),
      s.mbx.dma.find? (fun d => d.write && decide (bindPort d.binding = p)) with
  | some a, some d =>
    let s1 := onMbx (fun m => { m with dma := m.dma.filter (· != d) }) s
    if !dmaReady s true d.binding then s
    else if dmaFits s d.binding d.offset d.bytes.length then
      let bytes := deliveredBytes s a d
      finishAcc a stDone 0 (if a.opcode = 0x80 then leBytes 4 (bytes.length / 64) ++ zeros 4 else []) (hostWrite d.binding d.offset bytes s1)
    else finishAcc a stBadArgument 0 [] s1
  | _, _ => s

def execHostBufferDeliveryDone (p : PPort) (s : State) : Out := effect (onlyIf (coreRuns s) (runDelivery p)) s

end Sys2Proof.Machine
end

