-- ==== Sys2Proof/Machine/Update.lean ====
section
/-! DEFINITION. Update programs, moment encodings and working copies (R196, R216 to R227). -/

namespace Sys2Proof.Machine
open Sys2Proof

/-! ### Places of the step (R196) -/

/-- The frame in progress belongs to the optimizer phase. -/
def inOptimizer (s : State) : Bool := formesRun s && decide ((stepShape s).opt ≤ s.frame.formeIdx)

/-- The frame in progress is the decision frame. -/
def inDecision (s : State) : Bool := formesRun s && s.image.img.isSome && s.frame.formeIdx == (stepShape s).dec

/-! ### Moments (R217 to R219) -/

/-- A moment element under its scale: E4M3 for m (R218). -/
def momentM (scale c : Nat) : W32 := dequantF32 (mxVal .e4m3 scale c)

/-- A root element under its scale: unsigned E5M3 (R218). -/
def momentS (scale c : Nat) : W32 :=
  if scale = 0xFF then f32NaN
  else
    let d := codeVal 3 (-14) c
    rneF32 false (DyOp.scale d ((scale : Int) - 127))

/-- Encode a group of 32 (R219): its scale byte and its element bytes. What a negative root gives is not stated: a free
value (log entry 21). -/
def encodeGroup (f : Nat) (unsigned : Bool) (x : List W32) : Byte × List Byte :=
  if x.any (fun v => !f32Finite v) then (0xFF, List.replicate 32 0)
  else
    let a := x.foldl (fun m v => maxW m (f32Abs v)) 0
    if a = 0 then (0x7F, List.replicate 32 0)
    else
      let e := clampI (-127) 127 (DyOp.clog2Div (f32Val a) f)
      (BitVec.ofInt 8 (e + 127), x.map (fun v =>
        let y := DyOp.scale (f32Val v) (-e)
        if !unsigned then BitVec.ofNat 8 (roundElement .e4m3 none y).code
        else if y.m = 0 then 0
        else if y.m < 0 then (Config.undecided 5 v).setWidth 8
        else BitVec.ofNat 8 (roundCode 3 (-14) y)))

/-! ### Programs (R222, R223) -/

/-- What a program reads besides the element (R221, R223). -/
structure UpdEnv where
  eta : W32
  d1 : W32
  d2 : W32
  b1 : W32
  b2 : W32
  t : W32
  k : List W32
deriving DecidableEq, Repr

/-- One element: gradient, master, moment and root. -/
structure UpdEl where
  g : W32
  w : W32
  m : W32
  s : W32
deriving DecidableEq, Repr

/-- 1.0, −1.0, or +0 for a zero (R222); of a NaN, which the rule does not name, the NaN (DESIGN CHOICE, log entry 21). -/
def f32Sgn (x : W32) : W32 := if f32IsNaN x then f32NaN else if f32IsZero x then 0 else if f32Neg x then 0xBF800000 else f32One

def adamw (v : UpdEnv) (x : UpdEl) : UpdEl :=
  let k := fun (i : Nat) => v.k.getD i 0
  let m := f32Fma (k 0) x.m (f32Mul v.d1 x.g)
  let q := f32Fma (k 1) (f32Mul x.s x.s) (f32Mul v.d2 (f32Mul x.g x.g))
  let s := f32Sqrt q
  let u := f32Mul (f32Mul m v.b1) (f32Rcp (f32Fma s v.b2 (k 2)))
  { x with w := f32Sub x.w (f32Mul v.eta (f32Fma (k 3) x.w u)), m := m, s := s }

def lion (v : UpdEnv) (x : UpdEl) : UpdEl :=
  let k := fun (i : Nat) => v.k.getD i 0
  let c := f32Fma (k 0) x.m (f32Mul v.d1 x.g)
  { x with
    w := f32Sub x.w (f32Mul v.eta (f32Fma (k 2) x.w (f32Sgn c)))
    m := f32Fma (k 1) x.m (f32Mul v.d2 x.g)
    s := 0 }

def sgd (v : UpdEnv) (x : UpdEl) : UpdEl :=
  let k := fun (i : Nat) => v.k.getD i 0
  let m := f32Fma (k 0) x.m x.g
  { x with w := f32Sub x.w (f32Mul v.eta (f32Fma (k 1) x.w m)), m := m, s := 0 }

/-- An operand of a custom program (R223). -/
def customOperand (v : UpdEnv) (rnd : W32) (x : UpdEl) (t : SMap W32) (sel : Nat) : W32 :=
  if sel < 0x10 then SMap.getD t sel 0
  else if sel = 0x10 then x.g
  else if sel = 0x11 then x.w
  else if sel = 0x12 then x.m
  else if sel = 0x13 then x.s
  else if sel < 0x1C then v.k.getD (sel - 0x14) 0
  else if sel = 0x1C then v.eta
  else if sel = 0x1D then v.d1
  else if sel = 0x1F then f32One
  else if sel = 0x20 then rnd
  else if sel = 0x21 then v.d2
  else if sel = 0x22 then v.b1
  else if sel = 0x23 then v.b2
  else if sel = 0x24 then v.t
  else 0

/-- One word of a custom program: the temporaries and the outputs so far. -/
def customStep (v : UpdEnv) (rnd : W32) (x : UpdEl) (st : SMap W32 × UpdEl) (word : W32) : SMap W32 × UpdEl :=
  let w := word.toNat
  let op := bitsOf w 31 26
  let rd := customOperand v rnd x st.1
  let a := rd (bitsOf w 21 16)
  if op = 0x21 then (st.1, { st.2 with w := a })
  else if op = 0x22 then (st.1, { st.2 with m := a })
  else if op = 0x23 then (st.1, { st.2 with s := a })
  else
    let r := if op = 0x16 then f32Sqrt a else ligLane op (bitsOf w 3 0) a (rd (bitsOf w 15 10)) (rd (bitsOf w 9 4))
    (SMap.put st.1 (bitsOf w 25 22) r, st.2)

/-- Run an entry's program on one element (R220, R222, R223). -/
def runUpdate (program : Nat) (v : UpdEnv) (rnd : W32) (x : UpdEl) : UpdEl :=
  if program = 0 then adamw v x
  else if program = 1 then lion v x
  else if program = 2 then sgd v x
  else ((Config.customProgram (program - 0x80)).foldl (customStep v rnd x) ([], x)).2

/-! ### UPDATE -/

def optEntry (s : State) (e : Nat) : Option OptEntry :=
  match s.image.img with
  | some i => i.opt[e]?
  | none => none

/-- Bytes of a moment block (R217). -/
def momentBytes : Nat := 2112

/-- The environment of an entry's program. -/
def updEnv (s : State) (e : Nat) (o : OptEntry) : UpdEnv :=
  let c := s.step.consts.getD e { eta := 0, d1 := 0, d2 := 0, b1 := 0, b2 := 0, t := 0 }
  { eta := c.eta, d1 := c.d1, d2 := c.d2, b1 := c.b1, b2 := c.b2, t := c.t, k := o.k }

/-- The places of a tile of an optimizer entry at a unit: buffer, master, moments (R216). The buffer lies under the
master's tensor index (log entry 21). -/
def updPlaces (s : State) (unit : Nat) (o : OptEntry) (tile : Nat) : Option (Nat × Nat × Nat) :=
  match sidePlace s 0x06 o.master tile (.stack unit), sidePlace s 0x07 o.master tile (.stack unit),
      sidePlace s 0x08 o.master tile (.stack unit) with
  | some (.hbm b, i), some (.hbm m, j), some (.hbm v, k) => some (b + 16 * longTileBytes * i, m + 65536 * j, v + 16 * momentBytes * k)
  | _, _, _ => none

/-- Row i of block n of a tile: the new elements (R222). -/
def updRow (s : State) (o : OptEntry) (v : UpdEnv) (te : TabEntry) (tile : Nat) (at' : Nat × Nat × Nat) (n i : Nat) : List UpdEl :=
  let per := ceilDiv te.cols 128
  let r := 128 * (tile / per) + 32 * (n / 4) + i
  let t := hbmLongTile s (at'.1 + n * longTileBytes) longTileBytes
  let mo := at'.2.2 + n * momentBytes
  let rd := blockReader s (.hbm (at'.2.1 + 4096 * n)) 6
  (List.range 32).map (fun j =>
    let c := 128 * (tile % per) + 32 * (n % 4) + j
    if r < te.rows && c < te.cols then
      let g := longF32 t i j
      let x : UpdEl := {
        g := if o.clip then f32Mul g s.step.record.clip else g
        w := plainF32 6 rd i j
        m := momentM (hbmByte s (mo + 1024 + i)).toNat (hbmByte s (mo + 32 * i + j)).toNat
        s := momentS (hbmByte s (mo + 2080 + i)).toNat (hbmByte s (mo + 1056 + 32 * i + j)).toNat }
      runUpdate o.program v (rneF32 false ⟨elementDraw s o.stream te.cols r c / 256, -24⟩) x
    else { g := 0, w := 0, m := 0, s := 0 })

/-- A moment block from the 32 rows of new elements. -/
def momentBlock (rows : List (List UpdEl)) : List Byte :=
  let ms := rows.map (fun r => encodeGroup 448 false (r.map (·.m)))
  let ss := rows.map (fun r => encodeGroup 122880 true (r.map (·.s)))
  ms.flatMap (·.2) ++ ms.map (·.1) ++ ss.flatMap (·.2) ++ ss.map (·.1)

/-- The stream id of a working copy's quantizing: class 0x3, use 0 (R207; log entry 21). -/
def workStream (work : Nat) : W32 := BitVec.ofNat 32 (0x30000000 + work % 65536)

/-- The settings that quantize a working-copy tile at a random step index now. -/
def settingsNow (s : State) (work tile : Nat) (index : W64) : WorkSet :=
  let per := match tabEntry s work with
    | some te => ceilDiv te.cols 128
    | none => 1
  { index := index, forecast := (List.range 128).map (fun j => BitVec.ofNat 8 (forecastOf s work (128 * (tile % per) + j))) }

/-- The key of a working-copy tile. -/
def workKey (work tile : Nat) : Nat := work * p2 32 + tile

/-- Quantize one master tile into its working copy (R224): no inclusions; promotion under R134; a plain copy counts under R469. The draws and
the forecasts are those of `x`, which the tile keeps (R184, R206). -/
def writeWorking (unit work tile : Nat) (x : WorkSet) (w : Nat → Nat → W32) (s : State) : State :=
  match tabEntry s work, sidePlace s 0x09 work tile (.stack unit) with
  | some te, some (e, k) =>
    let per := ceilDiv te.cols 128
    let r0 := 128 * (tile / per)
    let c0 := 128 * (tile % per)
    let nr := Nat.min 128 (te.rows - r0)
    let nc := Nat.min 128 (te.cols - c0)
    let s := { s with step := { s.step with workSetsStaged := SMap.put s.step.workSetsStaged (workKey work tile) x } }
    let draw := fun (r c : Nat) => philoxDraw s.step.record.seed x.index (workStream work) ((r0 + r) * te.cols + (c0 + c))
    let base := epAdd e (k * tileBytes te.format)
    match fmtElem te.format with
    | some el =>
      let out := quantTile { te with inclBudget := 0 } te.quant el te.format draw (fun c => (x.forecast.getD c 0xFE).toNat) w nr nc c0
      statOwn work out.counts (writeTile false work tile out (fun p q => epAdd base ((4 * p + q) * blockBytes te.format)) (.stack unit) s)
    | none =>
      let dr := if bitOf te.quant 1 then some draw else none
      let s1 := (tilePlain te.format dr w nr nc).foldl (fun s b =>
        epWrite (epAdd base ((4 * b.1.1 + b.1.2) * blockBytes te.format)) b.2 s) s
      statOwn work (plainTally te te.format dr (fun r c => f32Op (w r c)) nr nc c0) s1
  | _, _ => s

/-- UPDATE on one tile of an applied step (R216, R222, R224); the masters that it writes add to their tensor's record (R217, R469). -/
def updateTile (unit e : Nat) (o : OptEntry) (s : State) (tile : Nat) : State :=
  match updPlaces s unit o tile, tabEntry s o.master with
  | some at', some te =>
    let v := updEnv s e o
    let blocks := (List.range 16).map (fun n => (List.range 32).map (updRow s o v te tile at' n))
    let s1 := (List.zip (List.range 16) blocks).foldl (fun s b =>
      hbmWrite (at'.2.2 + b.1 * momentBytes) (momentBlock b.2)
        (hbmWrite (at'.2.1 + 4096 * b.1) (b.2.flatMap (fun r => r.flatMap (fun x => leBytes 4 x.w.toNat))) s)) s
    let w := fun (r c : Nat) => (((blocks.getD (4 * (r / 32) + c / 32) []).getD (r % 32) []).getD (c % 32) { g := 0, w := 0, m := 0, s := 0 }).w
    let per := ceilDiv te.cols 128
    let nr := Nat.min 128 (te.rows - 128 * (tile / per))
    let nc := Nat.min 128 (te.cols - 128 * (tile % per))
    writeWorking unit o.work tile (settingsNow s o.work tile s.step.record.attempted) w
      (statOwn o.master (plainTally te 6 none (fun r c => f32Op (w r c)) nr nc (128 * (tile % per))) s1)
  | _, _ => s

/-- The random step index of the last applied step, which wrote the masters that stand (R206, R215). -/
def appliedIndex (r : StepRec) : W64 := BitVec.ofNat 64 (r.attempted.toNat - 1 - r.skips.toNat)

/-- A word to regenerate lies in a range (R184). -/
def regenIn (s : State) (a n : Nat) : Bool :=
  s.hbm.regenWords.any (fun w => decide (a < w.1 * 65536 + 32 * w.2 + 32 ∧ w.1 * 65536 + 32 * w.2 < a + n))

/-- A poisoned word lies in a tile of a working copy, or in the tile's promotion slot (R134, R184). -/
def tilePoisoned (s : State) (unit work tile : Nat) : Bool :=
  match tabEntry s work, sidePlace s 0x09 work tile (.stack unit) with
  | some te, some (.hbm a, k) =>
    regenIn s (a + k * tileBytes te.format) (tileBytes te.format)
      || (match slotOf s work tile (.stack unit), nextWider te.format te.gradient with
        | some (.hbm b), some w => regenIn s b (tileBytes w)
        | _, _ => false)
  | _, _ => false

/-- In a skipped step a tile of a working copy is quantized again from the unchanged master where the policy changed its format (R227) or
a word of it is poisoned (R184), in the latter case with the settings that wrote it; in a regeneration frame every tile is (R354). For a tile
that nothing has written since its image was loaded or restored, the draws are those of the step that wrote the masters (DEDUCED, log
entry 21). A poisoned word of a replica, whose masters lie on another chip, stays listed until the owner's next COPY writes it (DESIGN
CHOICE, log entry 21). -/
def requantTile (unit : Nat) (o : OptEntry) (s : State) (tile : Nat) : State :=
  let changed := !s.step.regen && s.step.changed.contains o.work
  if !s.step.regen && !changed && !tilePoisoned s unit o.work tile then s
  else
    match sidePlace s 0x07 o.master tile (.stack unit) with
    | some (.hbm m, j) =>
      let fresh := settingsNow s o.work tile (if changed then s.step.record.attempted else appliedIndex s.step.record)
      let x := if s.step.regen || changed then fresh else SMap.getD s.step.workSets (workKey o.work tile) fresh
      writeWorking unit o.work tile x (fun r c =>
        plainF32 6 (blockReader s (.hbm (m + 65536 * j + 4096 * (4 * (r / 32) + c / 32))) 6) (r % 32) (c % 32)) s
    | _ => s

/-- UPDATE (R216, R224): firmware runs it in the first optimizer frame of a step, and in the regeneration frames (R354). -/
def updateRange (unit entry tileFirst tileCount : Nat) (s : State) : State :=
  if !stackRuns s unit || !inOptimizer s || s.frame.lockUp then s
  else
    match optEntry s entry with
    | none => s
    | some o =>
      let tiles := (List.range tileCount).map (· + tileFirst)
      if s.step.regen then tiles.foldl (requantTile unit o) s
      else if s.frame.formeIdx != (stepShape s).opt then s
      else if s.step.record.outcome = 1 then tiles.foldl (updateTile unit entry o) s
      else if s.step.record.outcome = 2 then tiles.foldl (requantTile unit o) s
      else s

def execUpdate (unit entry tileFirst tileCount : Nat) (s : State) : Out := effect (updateRange unit entry tileFirst tileCount) s

end Sys2Proof.Machine
end

