-- ==== Sys2Proof/Machine/Decision.lean ====
section
/-! DEFINITION. The step collective, the decision, the step constants and the format policy (R140 to R146, R209 to R213,
R221, R356). -/

namespace Sys2Proof.Machine
open Sys2Proof

/-! ### This chip's items (R209) -/

/-- A long sum under its leading, with its poison and its below-window events (R91). -/
structure LongSum where
  leading : Int
  value : Int
  poison : Bool
  below : Nat
deriving DecidableEq, Repr

/-- Raise the leading of a sum (R91). -/
def LongSum.raise (x : LongSum) (lead : Int) : LongSum :=
  if lead ≤ x.leading then x
  else
    let r := shiftLong (lead - x.leading).toNat x.value
    { x with leading := lead, value := r.1, below := hold32 (x.below + (if r.2 then 1 else 0)) }

/-- Combine two sums (R91). -/
def LongSum.add (x y : LongSum) : LongSum :=
  let lead := max x.leading y.leading
  let a := x.raise lead
  let b := y.raise lead
  { leading := lead, value := wrap96 (a.value + b.value), poison := a.poison || b.poison, below := hold32 (a.below + b.below) }

/-- A square lies below the limit 2^(Λ + 20) / n of a norm sum (R209). -/
def squareFits (n : Nat) (lead : Int) (q : Dy) : Bool := DyOp.lt (DyOp.mul q ⟨n, 0⟩) ⟨1, lead + 20⟩

/-- Add a square (R85, R86, R209): one at or above the limit re-leads the sum, or poisons it where no leading admits it; bits below the
grid count one event. -/
def addSquare (n : Nat) (x : LongSum) (q : Dy) : LongSum :=
  let y := if squareFits n x.leading q then x else x.raise (clampI (-128) 127 (DyOp.flog2 (DyOp.mul q ⟨n, 0⟩) - 19))
  if !squareFits n y.leading q then { y with poison := true }
  else
    let u := DyOp.toUnits q (y.leading - 75)
    { y with value := wrap96 (y.value + u.1), below := hold32 (y.below + (if u.2 then 1 else 0)) }

/-- The larger of two nonnegative dyadics. -/
def dyMax (x y : Dy) : Dy := if DyOp.lt x y then y else x

/-- Add one element of a gradient buffer to the norm: a non-finite one poisons the sum (R86, R209). -/
def addElement (n : Nat) (x : LongSum × Dy) (g : W32) : LongSum × Dy :=
  if !f32Finite g then ({ x.1 with poison := true }, x.2)
  else
    let q := DyOp.mul (f32Val g) (f32Val g)
    if q.m = 0 then x else (addSquare n x.1 q, dyMax x.2 q)

/-- The owned buffer tiles: tensor, tile index and address (role 0x06). -/
def ownedTiles (s : State) : List (Nat × Nat × Nat) :=
  (planOf s).flatMap (fun r => match r.place with
    | .hbm a => if r.role = 0x06 then
        (List.range r.tileCount).map (fun k => (r.tensor, r.tileFirst + k, a + 16 * longTileBytes * k)) else []
    | _ => [])

/-- A tensor whose optimizer entry carries the clip flag (R220). -/
def clipTensor (s : State) (t : Nat) : Bool :=
  match s.image.img with
  | some i => i.opt.any (fun o => o.master = t && o.clip)
  | none => false

/-- The elements of an owned tile under stage 3 of R94, inside the tensor. -/
def ownedElements (s : State) (t tile a : Nat) : List W32 :=
  match tabEntry s t with
  | none => []
  | some te =>
    let per := ceilDiv te.cols 128
    (List.range 16).flatMap (fun n =>
      let l := hbmLongTile s (a + n * longTileBytes) longTileBytes
      (List.range 1024).filterMap (fun e =>
        let r := 128 * (tile / per) + 32 * (n / 4) + e / 32
        let c := 128 * (tile % per) + 32 * (n % 4) + e % 32
        if r < te.rows && c < te.cols then some (longF32 l (e / 32) (e % 32)) else none))

/-- The norm sum and the largest square of this chip. R209 does not say how many long words a chip forms it in or in which order its tiles
enter, on which the truncations of a re-lead depend: the model folds all owned tiles into one long word, in plan order (DESIGN CHOICE, log
entry 21). -/
def ownNorm (s : State) (n : Nat) : LongSum × Dy :=
  ((ownedTiles s).filter (fun t => clipTensor s t.1)).foldl (fun x t =>
    (ownedElements s t.1 t.2.1 t.2.2).foldl (addElement n) x)
    ({ leading := s.step.record.normLeading, value := 0, poison := false, below := 0 }, ⟨0, 0⟩)

/-- The loss lane partial of this chip: its lanes summed exactly, and its poison (R209, R350). -/
def ownLoss (s : State) (at' : Option (Nat × Nat)) : LongSum :=
  match at' with
  | none => { leading := -128, value := 0, poison := false, below := 0 }
  | some (cell, off) =>
    let b := fun (o n : Nat) => leNat ((List.range n).map (fun i => Memory.read s.caseMem.mem (caseKey (redirect s cell) (off + o + i))))
    { leading := signExt 8 (b 0 1)
      value := (List.range 128).foldl (fun a l => wrap96 (a + signExt 96 (b (64 + 12 * l) 12))) 0
      poison := bitOf (b 1 1) 0
      below := b 12 4 }

/-- A sum under stage 3 of R94. -/
def LongSum.round (x : LongSum) : W32 := if x.poison then f32NaN else rneF32Pos (longDy x.leading x.value)

/-- The vote bit of this chip (R209). -/
def ownVote (s : State) (lossPoison : Bool) : Bool :=
  lossPoison || s.step.masterPoison
    || (ownedTiles s).any (fun t => (List.range 16).any (fun n => (hbmLongTile s (t.2.2 + n * longTileBytes) longTileBytes).nonfinite))
    || s.stats.committed.any (fun p => (match tabEntry s p.1 with
      | some te => te.gradient
      | none => false) && decide (0 < p.2.nonfinite))

/-! ### The format policy (R141 to R146) -/

/-- A count passes a limit (R141). -/
def passes (c t elements : Nat) : Bool := c * 1048576 ≤ t * elements

/-- The first vanishing bin of a format (R142). -/
def spanOf (f : Nat) : Nat := if f = 0 then 4 else if f = 3 then 3 else if f = 1 then 18 else if f = 4 then 7 else 31

/-- policy_format of R142. -/
def policyFormat (p : Policy) (t : TabEntry) (r : StatRec) : TabEntry :=
  let uncovered := r.saturation - r.inclusion
  if decide (0 < r.lost) || decide (0 < r.promoted) || decide (0 < r.nonfinite) || !passes r.underflow p.vanMax r.elements
      || !passes uncovered p.satMax r.elements then
    match tabWider t with
    | some f => { t with format := f, calm := 0 }
    | none => { t with calm := 0 }
  else
    match tabNarrower t with
    | none => t
    | some n =>
      let predicted := (r.hist.drop (spanOf n)).foldl (· + ·) 0
      if passes predicted p.vanMax r.elements && passes uncovered p.satMax r.elements then
        if t.calm + 1 ≥ 4 then { t with format := n, calm := 0 } else { t with calm := t.calm + 1 }
      else { t with calm := 0 }

/-- Widen one rung (R146). -/
def widenOne (t : TabEntry) : TabEntry :=
  match tabWider t with
  | some f => { t with format := f, calm := 0 }
  | none => { t with calm := 0 }

/-- ceil_log2 of a positive number. -/
def clog2Nat (n : Nat) : Nat := if p2 n.log2 = n then n.log2 else n.log2 + 1

/-- policy_leading of R144; a drain maximum of zero gives the target −128. -/
def policyLeading (p : Policy) (n : Nat) (t : TabEntry) (r : StatRec) : TabEntry :=
  let target : Int := if f32IsZero r.drainMax then -128
    else DyOp.flog2 (f32Val r.drainMax) + p.leadMargin + max 0 ((clog2Nat n : Int) - 19)
  let own : Int := match r.leading with
    | some l => max l t.leading
    | none => t.leading
  let e := if 0 < r.relead then max target own else max target (t.leading - 1)
  { t with leading := clampI (-128) 127 e }

/-- One forecast byte (R145). -/
def forecastByte (guard : Nat) (c : Byte) : Byte :=
  if c = 0xFE then 0xFE else BitVec.ofInt 8 (clampI (-127) 0 (min 0 ((c.toNat : Int) - 127 + guard)) + 127)

/-- The policy over the whole table: the new entries from the combined records (R141, R146). -/
def policyTable (s : State) (p : Policy) (skip : Bool) (recs : SMap StatRec) : List TabEntry :=
  let anyBad := recs.any (fun r => decide (0 < r.2.nonfinite))
  (List.zip (List.range s.step.table.length) s.step.table).map (fun x =>
    let r := SMap.getD recs x.1 StatRec.empty
    let t := x.2
    let named := skip && !t.sensitive && (if anyBad then decide (0 < r.nonfinite) else t.gradient)
    let t1 := if t.sensitive then t else if named then widenOne t else policyFormat p t r
    policyLeading p (productCount s x.1) t1 r)

/-- The tensors that an item's quantize control names as predicted (R69, R233). -/
def itemPredicts (s : State) (cell : Nat) (it : Item) : List Nat :=
  match it.body with
  | .bezel 0x04 d | .bezel 0x0A d => if bitOf d.quant 0 then [d.tensor] else []
  | .vector prog => prog.flatMap (fun v =>
      if v.op = .lig then
        let d := readLig s (redirect s cell) v.f.addr.toNat
        if bitOf d.quant 0 then d.outTensor else []
      else [])
  | _ => []

/-- The tensors quantized under predicted scaling: their table entry or an item says so (R69). -/
def predictedTensors (s : State) : List Nat :=
  let byEntry := (List.range s.step.table.length).filter (fun t => (tabEntry s t).any (fun e => bitOf e.quant 0))
  match s.image.img with
  | some i => byEntry ++ (i.formes ++ i.cont.flatMap (·.formes)).flatMap (fun f => f.items.flatMap (itemPredicts s f.cell))
  | none => byEntry

/-- Write the forecast vectors into their placements, every one of a tensor's (R145, R233). -/
def writeForecasts (s : State) (p : Policy) (recs : SMap StatRec) : State :=
  let named := predictedTensors s
  (planOf s).foldl (fun s' r =>
    match tabEntry s r.tensor with
    | some te =>
      if r.role = 0x05 && named.contains r.tensor then
        epWrite r.place ((List.range te.cols).map (fun c =>
          forecastByte p.guard (SMap.getD (SMap.getD recs r.tensor StatRec.empty).cols c 0xFE))) s'
      else s'
    | none => s') s

/-! ### Step constants (R221) -/

/-- The learning-rate schedule. -/
def schedule (points : List (W32 × W32)) (t : W32) : W32 :=
  match points with
  | [] => 0
  | (s0, r0) :: _ =>
    if f32Le t s0 then r0
    else
      let last := points.getLastD (s0, r0)
      if f32Le last.1 t then last.2
      else
        match (List.zip points (points.drop 1)).find? (fun q => f32Le q.1.1 t && f32Lt t q.2.1) with
        | some (a, b) => f32Add a.2 (f32Mul (f32Sub t a.1) (f32Div (f32Sub b.2 a.2) (f32Sub b.1 a.1)))
        | none => last.2
where
  /-- A quotient rounded once (R154). -/
  f32Div (x y : W32) : W32 :=
    if f32IsNaN x || f32IsNaN y then f32NaN
    else
      let neg := f32Neg x != f32Neg y
      if f32IsInf x then (if f32IsInf y then f32NaN else if neg then f32NegInf else f32Inf)
      else if f32IsInf y then (if neg then f32NegZero else 0)
      else if f32IsZero y then (if f32IsZero x then f32NaN else if neg then f32NegInf else f32Inf)
      else if f32IsZero x then (if neg then f32NegZero else 0)
      else
        let a := f32Val x
        let b := f32Val y
        let n := p2 64 * a.m.natAbs
        let q := sticky (n / b.m.natAbs) (n % b.m.natAbs = 0) (a.e - b.e - 64)
        rneF32 neg (if neg then DyOp.neg q else q)

/-- The constants of one optimizer entry. -/
def stepConst (points : List (W32 × W32)) (t : W32) (o : OptEntry) : StepConst :=
  let k0 := o.k.getD 0 0
  let k1 := o.k.getD 1 0
  { eta := f32Mul (schedule points t) o.lrScale
    d1 := f32Sub f32One k0
    d2 := f32Sub f32One k1
    b1 := f32Rcp (f32Sub f32One (f32Exp2 (f32Mul t (f32Log2 k0))))
    b2 := f32Rsqrt (f32Sub f32One (f32Exp2 (f32Mul t (f32Log2 k1))))
    t := t }

/-! ### The decision (R211) -/

/-- The items of every member combined (R210). -/
structure Combined where
  vote : Bool
  norm : LongSum
  maxSq : Dy
  loss : LongSum
  differ : Bool
  absent : Bool
  present : Bool
  recordedSkip : Bool
  stats : SMap StatRec
  compares : SMap CmpRec
deriving DecidableEq, Repr

/-- Merge tensor records (R140). -/
def mergeStats (a b : SMap StatRec) : SMap StatRec := b.foldl (fun m p => SMap.modify m p.1 StatRec.empty (StatRec.add p.2)) a

/-- Add two comparison records of a tensor (R140, R147). -/
def CmpRec.add (a b : CmpRec) : CmpRec where
  compared := a.compared + b.compared
  exact := a.exact + b.exact
  overs := a.overs + b.overs
  maxDev := Nat.max a.maxDev b.maxDev

/-- Merge comparison records (R147). -/
def mergeCompares (a b : SMap CmpRec) : SMap CmpRec :=
  b.foldl (fun m p => SMap.modify m p.1 { compared := 0, exact := 0, overs := 0, maxDev := 0 } (CmpRec.add p.2)) a

/-- Combine with one other member. -/
def Combined.with (c : Combined) (o : StepItems) : Combined where
  vote := c.vote || o.vote
  norm := c.norm.add { leading := o.normLeading, value := o.norm, poison := o.normPoison, below := o.normBelow }
  maxSq := dyMax c.maxSq ⟨o.maxSqM, o.maxSqE⟩
  loss := c.loss.add { leading := o.lossLeading, value := o.loss, poison := o.lossPoison, below := o.lossBelow }
  differ := c.differ || o.differ
  absent := c.absent || o.absent
  present := c.present || o.present
  recordedSkip := c.recordedSkip || o.recordedSkip
  stats := mergeStats c.stats o.stats
  compares := mergeCompares c.compares o.compares

/-- The loss partial of this chip as FP32 (R350). -/
def lossWord (l : LongSum) (has : Bool) : W32 := if !has then 0 else l.round

/-- This chip's own items. -/
def ownItems (s : State) (i : Image) (lossAt : Option (Nat × Nat)) : Combined :=
  let n := ownNorm s i.nNorm
  let l := ownLoss s lossAt
  let here := match s.step.proof with
    | some p => p.recPresent
    | none => false
  let rep := match s.step.proof with
    | some p => p.replaying
    | none => false
  let differs := match s.step.proof with
    | some p => p.recPresent && (p.recDigest != s.step.digest || p.recLoss != lossWord l lossAt.isSome)
    | none => false
  { vote := ownVote s l.poison
    norm := n.1
    maxSq := n.2
    loss := l
    differ := rep && differs
    absent := rep && !here
    present := rep && here
    recordedSkip := rep && (match s.step.proof with
      | some p => p.recPresent && p.recSkip
      | none => false)
    stats := s.stats.committed
    compares := s.step.compares }

/-- What a chip contributes, as it goes to another member. -/
def Combined.items (c : Combined) : StepItems where
  vote := c.vote
  normLeading := c.norm.leading
  norm := c.norm.value
  normPoison := c.norm.poison
  normBelow := c.norm.below
  maxSqM := c.maxSq.m.natAbs
  maxSqE := c.maxSq.e
  lossLeading := c.loss.leading
  loss := c.loss.value
  lossPoison := c.loss.poison
  lossBelow := c.loss.below
  differ := c.differ
  absent := c.absent
  present := c.present
  recordedSkip := c.recordedSkip
  stats := c.stats
  compares := c.compares

/-- A contribution as the collective combines it. -/
def StepItems.combined (o : StepItems) : Combined where
  vote := o.vote
  norm := { leading := o.normLeading, value := o.norm, poison := o.normPoison, below := o.normBelow }
  maxSq := ⟨o.maxSqM, o.maxSqE⟩
  loss := { leading := o.lossLeading, value := o.loss, poison := o.lossPoison, below := o.lossBelow }
  differ := o.differ
  absent := o.absent
  present := o.present
  recordedSkip := o.recordedSkip
  stats := o.stats
  compares := o.compares

/-- A frame of the exchange opens: the items are read from committed state in its first forme, and the vote, which rides on the last stage,
in the last (R209, R210, R356). R209 names no place of the loss partial: it is a free value of the image (log entry 21). -/
def sampleItems (s : State) : State :=
  let k := s.frame.formeIdx
  match s.image.img with
  | none => s
  | some i =>
    if !formesRun s || k < (stepShape s).bar || (stepShape s).dec ≤ k then s
    else
      let c := (ownItems s i (Config.lossPlace i.digest)).items
      let first := if k = (stepShape s).bar then c else s.step.sent.getD c
      onStep (fun t => { t with sent := some (if k + 1 = (stepShape s).dec then { first with vote := ownVote s first.lossPoison } else first) }) s

/-- What this chip has contributed to the collective: what it sent in the exchange formes; all of it as committed where the step has sent
nothing (R209, R356). -/
def ownShare (s : State) (i : Image) (lossAt : Option (Nat × Nat)) : Combined :=
  match s.step.sent with
  | none => ownItems s i lossAt
  | some o => StepItems.combined o

/-- The place of the loss partial that a decision goes by: that of the exchange, or the one that the command names where nothing was sent. -/
def lossFrom (s : State) (i : Image) (lossAt : Option (Nat × Nat)) : Option (Nat × Nat) :=
  if s.step.sent.isSome then Config.lossPlace i.digest else lossAt

/-- The step record after the decision (R211). -/
def decideRecord (i : Image) (c : Combined) (r : StepRec) : StepRec :=
  let nrm2 := c.norm.round
  let r := { r with loss := c.loss.round, gradNorm := f32Sqrt nrm2 }
  let r := if c.vote || !f32Finite nrm2 then { r with outcome := 2 }
    else
      let clip := if f32Lt 0 i.clipNorm && f32Lt 0 nrm2 then f32Min f32One (f32Mul i.clipNorm (f32Rsqrt nrm2)) else f32One
      { r with outcome := 1, clip := clip }
  if c.maxSq.m = 0 then r
  else { r with normLeading := clampI (-128) 127 (DyOp.flog2 c.maxSq + clog2Nat i.nNorm - 18) }

/-- Every member of the step group has contributed (R335). -/
def allContribute (s : State) (others : List StepItems) : Bool :=
  match stepGroup s with
  | some g => others.length + 1 == g.members.length
  | none => others.isEmpty

/-- The stacks of the forecast vectors and of the owned buffers run (R407). -/
def decisionRuns (s : State) : Bool := (planOf s).all (fun r => !(r.role = 0x05 || r.role = 0x06) || epRuns s r.place)

/-- DECISION (R211): the results are staged and commit at the decision tick. Firmware waits for the clocks of what it reads and writes (R407). -/
def runDecision (lossAt : Option (Nat × Nat)) (others : List StepItems) (s : State) : State :=
  match s.image.img with
  | none => s
  | some i =>
    if !coreRuns s || !decisionRuns s || !inDecision s || s.frame.lockUp || !s.fabric.stalled.isEmpty || !allContribute s others then s
    else
      let c := others.foldl Combined.with (ownShare s i lossAt)
      let r := decideRecord i c s.step.record
      let skip := r.outcome == 2
      let consts := if skip then s.step.constsStaged
        else some (i.opt.map (stepConst i.points (f32OfNat (s.step.record.applied.toNat + 1))))
      let mismatch := c.differ || (c.present && c.recordedSkip != skip)
      let s1 := writeForecasts s i.policy c.stats
      { s1 with
        step := { s1.step with
          recStaged := some r
          tableStaged := some (policyTable s i.policy skip c.stats)
          constsStaged := consts
          cmpLastStaged := some c.compares
          lossPartial := lossWord (ownShare s i lossAt).loss (lossFrom s i lossAt).isSome
          lossHas := (lossFrom s i lossAt).isSome
          proof := s.step.proof.map (fun p => if p.replaying then { p with combined := some (mismatch, c.absent) } else p) }
        stats := { s1.stats with lastStaged := some c.stats } }

def execDecision (lossAt : Option (Nat × Nat)) (others : List StepItems) (s : State) : Out := effect (runDecision lossAt others) s

end Sys2Proof.Machine
end

