-- ==== Sys2Proof/Machine/Fabric.lean ====
section
/-! DEFINITION. Inbound packets of the Clasp fabric (R42, R47, R52, R181, R194, R320 to R328). -/

namespace Sys2Proof.Machine
open Sys2Proof

/-! ### Routing (R325 to R327) -/

/-- Forward a data packet under the route table (R321, R327). -/
def forwardPacket (kind : Nat) (h : PktHdr) (payload : List Byte) (s : State) : State :=
  if h.hops ≤ 1 then s
  else
    match pickPort s (routeMask s h.dst) h.src h.dst h.flow with
    | none => s
    | some p => sendOn p (.data (some p) kind { h with hops := h.hops - 1 } payload) s

/-- The packet is for this chip (R325). -/
def forMe (h : PktHdr) (s : State) : Bool := s.dev.fabric != 0xFFFF && h.dst = s.dev.fabric

/-- A landed packet counts, and the running count goes back to its source (R324, R327; log entry 25). -/
def countPacket (h : PktHdr) (s : State) : State :=
  let n := SMap.getD s.fabric.recv h.src 0 + 1
  let s1 := onFabric (fun f => { f with recv := SMap.put f.recv h.src n }) s
  match pickPort s (routeMask s h.src) s.dev.fabric h.src 0 with
  | none => s1
  | some p => sendOn p (.delivery (some p) h.src s.dev.fabric h.frame n) s1

/-- The last packet of an item of a member's contribution to the running exchange stage has landed (R321, R335; log entry 34). -/
def noteContribution (h : PktHdr) (s : State) : State :=
  match stepGroup s, exchangeStage s with
  | some g, some _ =>
    if h.last && h.group = g.index then
      onFabric (fun f => { f with contribStaged := SMap.put f.contribStaged h.src (SMap.getD f.contribStaged h.src 0 + 1) }) s
    else s
  | _, _ => s

/-- The flits of a packet that has arrived leave the port's buffer, and their link credits go back (R323). -/
def drainFlits (port n : Nat) (s : State) : State :=
  sendOn port (.linkCredit port (packetFlits n)) (onClasp port (fun c => { c with rx := c.rx.drop (32 + n) }) s)

/-- A packet for this chip is consumed: in its own frame it is counted when it lands (R324), and its flits return as a link credit (R323). -/
def takePacket (port : Nat) (h : PktHdr) (payload : List Byte) (land : State → State × Bool) (s : State) : State :=
  let s1 := drainFlits port payload.length s
  if h.frame != frameNo s then s1
  else
    match land s1 with
    | (t, true) => noteContribution h (countPacket h t)
    | (t, false) => t

/-- A data packet arrives on a port: it is forwarded, or consumed here; where the clock of its destination has stopped it waits (R407). The chip
that consumes a packet does not count a hop (R321; DEDUCED, log entry 25). One that arrives in a region whose clocks have stopped stays in its
port's buffer (R311, R406, R407). -/
def arrivePacket (port kind : Nat) (slot : Bool) (place : Endpoint) (h : PktHdr) (payload : List Byte) (land : State → State × Bool) (s : State) :
    State :=
  if !claspUp (claspOf port s) || !portLive port s then s
  else if !forMe h s then forwardPacket kind h payload (drainFlits port payload.length s)
  else if h.frame = frameNo s && !epRuns s place then
    onHbm (fun m => { m with pktWaits := m.pktWaits ++ [{ port := port, kind := kind, slot := slot, h := h, payload := payload }] }) s
  else takePacket port h payload land s

/-! ### Landing (R181, R321) -/

/-- What R181 says of an inbound range: unmapped pages put the frame in doubt and count one bezel parity event. -/
def inboundPages (a n : Nat) (s : State) : State × Bool :=
  let ks := pagesOf 65536 a n
  if ks.any (fun k => (pageEnt s k).isNone) then (countEvent .region (addrStack a / 2 % 4) 1 (inDoubt s), false)
  else (s, !ks.any (fun k => classPrivate ((pageClass s k).getD 0)))

/-- A case-memory endpoint that a packet can land at (R246, R321). -/
def caseOpen (s : State) (c o n : Nat) : Bool :=
  decide (c < 288) && decide (cellState (redirect s c) s = .active) && decide (o + n ≤ p2 23)

/-- Raw bytes land as a carried write, or in a cell's staging as inbound bytes. -/
def landRaw (e : Endpoint) (payload : List Byte) (s : State) : State × Bool :=
  match e with
  | .hbm a =>
    match inboundPages a payload.length s with
    | (t, false) => (t, false)
    | (t, true) =>
      let u := hbmCarry false a payload t
      (u, (pagesOf 65536 a payload.length).all (fun k => (SMap.get? u.hbm.carPages k).isSome))
  | .caseMem c o =>
    if !caseOpen s c o payload.length then (s, false)
    else
      let u := caseWrite .inbound (redirect s c) o payload s
      (u, (pagesOf 4096 o payload.length).all (fun k => u.caseMem.shadow.contains (redirect s c * 2048 + k)))
  | _ => (s, false)

/-- A payload length that R321 allows. -/
def payloadOk (payload : List Byte) : Bool :=
  64 ≤ payload.length && payload.length ≤ 16384 && payload.length % 64 = 0

/-- Words that a COPY of another chip delivers as poison enter the table when the frame commits (R183). -/
def stagePoison (h : PktHdr) (s : State) : State :=
  match h.endpoint with
  | .hbm a => onHbm (fun m => { m with poisonIn := h.listed.foldl (fun l w => insertNat l (a / 32 + w)) m.poisonIn }) s
  | _ => s

/-- A write packet lands (R321). -/
def landWrite (h : PktHdr) (payload : List Byte) (s : State) : State × Bool :=
  if !payloadOk payload then (s, false)
  else
    match landRaw h.endpoint payload s with
    | (t, true) => (stagePoison h t, true)
    | (t, false) => (t, false)

def execWritePacket (port : Nat) (h : PktHdr) (payload : List Byte) (s : State) : Out :=
  effect (arrivePacket port 1 false h.endpoint h payload (landWrite h payload)) s

/-- The delta pages of a range are taken (R177). -/
def deltasTaken (a n : Nat) (s : State) : Bool :=
  (pagesOf 65536 a n).all (fun k => (SMap.get? s.hbm.deltaPages (2 * k + 1)).isSome)

/-- The blocks of a reduce-write add into consecutive long tiles (R194, R321). -/
def landReduce (h : PktHdr) (payload : List Byte) (s : State) : State × Bool :=
  match h.endpoint with
  | .hbm a =>
    let b := blockBytes h.fmt
    let n := payload.length / b
    if !fmtLegal h.fmt || n * b != payload.length || !payloadOk payload then (s, false)
    else
      match inboundPages a (n * longTileBytes) s with
      | (t, false) => (t, false)
      | (t, true) =>
        if !reducePages t a (n * longTileBytes) then (t, false)
        else
          let u := (List.range n).foldl (fun s i =>
            addBlock 1 h.tensor h.op h.fmt (a + i * longTileBytes) (fun k => payload.getD (i * b + k) 0) s) t
          (u, deltasTaken a (n * longTileBytes) u)
  | _ => (s, false)

def execReduceWritePacket (port : Nat) (h : PktHdr) (payload : List Byte) (s : State) : Out :=
  effect (arrivePacket port 2 false h.endpoint h payload (landReduce h payload)) s

/-- A long partial combines into a REDUCE page, else lands as a carried write (R321). -/
def landPartial (h : PktHdr) (payload : List Byte) (s : State) : State × Bool :=
  let n := payload.length
  if n != longTileBytes && n != roundedTileBytes && n != lanePartialBytes then (s, false)
  else
    match h.endpoint with
    | .hbm a =>
      if reducePages s a n then
        let rd := fun (i : Nat) => payload.getD i 0
        let u := if h.rounded then addRounded 1 h.tensor a rd s
          else addLongTile 1 h.tensor a (n == lanePartialBytes) (LTile.parse rd) s
        (u, deltasTaken a n u)
      else landRaw h.endpoint payload s
    | e => landRaw e payload s

def execLongPartialPacket (port : Nat) (h : PktHdr) (payload : List Byte) (s : State) : Out :=
  effect (arrivePacket port 3 false h.endpoint h payload (landPartial h payload)) s

/-! ### Credits (R323, R324) -/

/-- CREDIT (R323): the flits that wait leave with what comes back. -/
def execCredit (port freed : Nat) (s : State) : Out :=
  effect (onlyIf (claspUp (claspOf port s))
    (fun s => drainPort port (onClasp port (fun c => { c with credits := Nat.min 2048 (c.credits + freed) }) s))) s

/-- A destination's running count (R324). -/
def ackSends (l : List SendRec) (dst n : Nat) : List SendRec := l.map (fun r => if r.dst = dst then { r with acked := Nat.max r.acked n } else r)

/-- DELIVERY_CREDIT: consumed by the source of the data, forwarded elsewhere with flow 0 (R324, R327). -/
def runDeliveryCredit (port dst src : Nat) (frame : W32) (packets : Nat) (s : State) : State :=
  if !claspUp (claspOf port s) || !portLive port s then s
  else if s.dev.fabric != 0xFFFF && dst = s.dev.fabric then
    if frame = frameNo s then onFabric (fun f => { f with sends := ackSends f.sends src packets }) s else s
  else
    match pickPort s (routeMask s dst) src dst 0 with
    | none => s
    | some p => sendOn p (.delivery (some p) dst src frame packets) s

def execDeliveryCredit (port dst src : Nat) (frame : W32) (packets : Nat) (s : State) : Out :=
  effect (runDeliveryCredit port dst src frame packets) s

/-- Every send item's data of the frame is acknowledged (R37, R324). -/
def allAcked (s : State) : Bool := s.fabric.sends.all (fun r => r.xfer || ackedTo s.fabric.sends r.dst)

/-! ### Markers and holds (R42, R46, R47, R52, R53, R328) -/

/-- TICK_MARKER: a follower hears its upstream port only. It corrects its next frame by at most 4 ns. -/
def runMarker (port : Nat) (domainTick : W64) (offsetPs : Int) (s : State) : State :=
  if s.tick.source || port != s.tick.upstream || !claspUp (claspOf port s) || !portLive port s then s
  else
    onTick (fun t => { t with
      markerSeen := true
      markerTick := domainTick
      offsetPs := offsetPs
      corrPs := clampI (-4000) 4000 (-offsetPs) }) s

def execTickMarker (port _sender : Nat) (domainTick : W64) (offsetPs : Int) (s : State) : Out :=
  effect (runMarker port domainTick offsetPs) s

/-- A hold whose target has passed (R47): the chip stops at once, unaligned until a restore. A hold for a tick that this chip
withheld too, or one that R45 voids, changes nothing. A chip without a frame of work keeps its device state; the stop of a snapshot completes, and
leaves HELD behind it (R272). -/
def lateArrival (h : HoldRec) (s : State) : State :=
  if s.frame.withheldAt = some (holdTarget h) || holdVoid s h then s
  else
    let s1 := countEvent .chip 0 0 (onDev (fun d => { d with unaligned := true, lostTick := true }) s)
    if s.dev.state = .snapshotting then onDev (fun d => { d with left := some .held }) s1
    else onlyIf (inFrame s) (fun s => setState .held (onFrame (fun f => { f with stuck := false, retry := false }) s)) s1

/-- The target of a hold is a tick that has not passed: the frame in progress is numbered by the tick that opened it. -/
def targetAhead (h : HoldRec) (s : State) : Bool := decide (0 < (holdTarget h - s.tick.domain).toInt)

/-- HOLD_PACKET (R42, R328): forwarded once, where the hop count leaves it, and acted on by a chip that takes part (R54) and whose firmware
runs (R29). -/
def runHoldPacket (port hops : Nat) (h : HoldRec) (s : State) : State :=
  if !claspUp (claspOf port s) || !portLive port s || s.frame.forwarded.contains h then s
  else
    let s2 := if hops + 1 < 64 then floodHold (some port) (hops + 1) h (onFrame (fun f => { f with forwarded := f.forwarded ++ [h] }) s) else s
    if !takesPart s || !coreRuns s then s2
    else if targetAhead h s then
      (if s.frame.known.contains h then s2 else onFrame (fun f => { f with known := f.known ++ [h] }) s2)
    else lateArrival h s2

def execHoldPacket (port hops origin : Nat) (late : Bool) (frame : W64) (s : State) : Out :=
  effect (runHoldPacket port hops { origin := origin, frame := frame, late := late }) s

end Sys2Proof.Machine
end

