-- ==== Sys2Proof/Machine/Links.lean ====
section
/-! DEFINITION. The Clasp links: flits and their replay, lanes, training and the link record (R290, R312 to R318). -/

namespace Sys2Proof.Machine
open Sys2Proof

/-! ### Flits (R311 to R313) -/

/-- CRC-32 of R311, reflected as the polynomial's usual form (log entry 27). -/
def flitCrcOk (flit : List Byte) : Bool := decide (crc32 (sliceB flit 0 252) = BitVec.ofNat 32 (fieldN flit 252 4))

/-- Flits acknowledged up to `ack` leave the replay buffer. -/
def dropAcked (ack : W16) (l : List Flit) : List Flit := l.filter (fun f => (ack - f.seq).toNat ≥ 0x8000)

/-- An ack: progress starts the replay count again, and what waited for room in the replay buffer may leave. -/
def takeAck (p : Nat) (ack : W16) (s : State) : State :=
  drainPort p (onClasp p (fun c => { c with
    replays := if (dropAcked ack c.replay).length < c.replay.length then 0 else c.replays
    replay := dropAcked ack c.replay
    ackSeq := ack }) s)

/-- A nak: one event of "Clasp retry", and every flit from ack + 1 goes out again; one that has been replayed 16 times without an intact
arrival takes the link down (R313). -/
def takeNak (p : Nat) (s : State) : State :=
  let s1 := countEvent .chip 0 (0x10 + p) (onClasp p (fun c => { c with retries := hold32 (c.retries + 1) }) s)
  let c := claspOf p s1
  if !claspUp c || c.replay.isEmpty then s1
  else if 16 ≤ c.replays then linkFalls p s1
  else replayFlits p (onClasp p (fun c => { c with replays := c.replays + 1 }) s1)

/-- A flit that fails its CRC or its FEC is dropped, and a nak goes out with the last good number, in an idle flit (R312, R313). -/
def dropFlit (p : Nat) (s : State) : State :=
  let last := (claspOf p s).rxSeq - 1
  emit [.nak p last] (emitFlits p [flitBytes 0 last 0 true []] s)

/-- An intact flit in sequence: the payload bytes of a data flit stay in the port's buffer until their packets arrive (R312, R323). -/
def takeFlit (p kind : Nat) (flit : List Byte) (s : State) : State :=
  onClasp p (fun c => { c with
    rxSeq := c.rxSeq + 1
    rx := if kind = 1 then c.rx ++ sliceB flit 8 (Nat.min 244 (fieldN flit 6 2)) else c.rx }) s

/-- The FEC decoder's count of a codeword, at the flit in which it ends (R311, R318, R370): one corrected or uncorrectable codeword, and the
symbols corrected on each lane. -/
def countFec (p : Nat) (word : Option FecWord) (s : State) : State :=
  match word with
  | none => s
  | some w => onClasp p (fun c =>
    if w.bad then { c with fecBad := hold32 (c.fecBad + 1) }
    else { c with
      fecOk := if w.symbols.all (· = 0) then c.fecOk else hold32 (c.fecOk + 1)
      laneFec := (List.range 8).map (fun l => c.laneFec.getD l 0 + w.symbols.getD l 0) }) s

/-- FLIT_RECEIVED (R312, R313). An idle flit carries no sequence number, and neither does one of the kind that R312 does not name (DESIGN
CHOICE, log entry 27). `bad` says that the flit lies in an uncorrectable codeword, and `word` is the codeword that ends in it. -/
def runFlit (p : Nat) (flit : List Byte) (bad : Bool) (word : Option FecWord) (s : State) : State :=
  if !claspUp (claspOf p s) then s
  else
    let s1 := countFec p word s
    if bad || !flitCrcOk flit then dropFlit p s1
    else
      let kind := fieldN flit 4 1
      let s2 := takeAck p (BitVec.ofNat 16 (fieldN flit 2 2)) s1
      let s3 := if bitOf kind 2 then takeNak p s2 else s2
      if kind % 4 = 0 || kind % 4 = 3 then s3
      else if fieldN flit 0 2 = (claspOf p s3).rxSeq.toNat then takeFlit p (kind % 4) flit s3
      else s3

def execFlitReceived (port : Nat) (flit : List Byte) (fecBad : Bool) (fecWord : Option FecWord) (s : State) : Out :=
  effect (runFlit port flit fecBad fecWord) s

/-! ### Lanes and links (R314 to R316, R318) -/

/-- LANE_LOSS (R315). -/
def execLaneLoss (port lane : Nat) (s : State) : Out := effect (loseLane port lane) s

/-- LINK_DOWN (R316). -/
def execLinkDown (port : Nat) (s : State) : Out :=
  effect (onlyIf (claspUp (claspOf port s)) (linkFalls port)) s

/-- A trained link starts with clear counters of the link layer (R312, R323, R374). -/
def trainedClasp (r : TrainReport) (c : Clasp) : Clasp := { c with
  state := if laneCount r.lanes = 8 then 2 else 3
  lanes := r.lanes
  neighbour := r.neighbour
  nport := r.nport
  naligned := r.naligned
  nuid := r.nuid
  delay := r.delayNs
  rxSeq := 0
  txSeq := 0
  ackSeq := 0xFFFF
  replay := []
  replays := 0
  rx := []
  credits := 2048
  ctl := []
  queue := []
  retriesLeft := 3
  byItself := false
  laneFec := [0, 0, 0, 0, 0, 0, 0, 0]
  laneOld := [0, 0, 0, 0, 0, 0, 0, 0] }

/-- The smallest eye margin seen at any training (R446). -/
def noteMargin (p : Nat) (m : Byte) (s : State) : State :=
  onLife (fun l => { l with margins := setAt l.margins p (if m.toNat < (l.margins.getD p 0xFF).toNat then m else l.margins.getD p 0xFF) }) s

/-- LINK_TRAINING_DONE (R314, R316, R318): a link above 1,000 ns is TOO_LONG; one that does not lock at least 4 lanes is
DOWN and retries. -/
def runTrained (p : Nat) (r : TrainReport) (s : State) : State :=
  if (claspOf p s).state != 1 then s
  else if !r.locked || laneCount r.lanes < 4 then onClasp p (fun c => { c with state := 4, lanes := 0, byItself := true }) s
  else if 1000 < r.delayNs then onClasp p (fun c => { c with state := 5, lanes := 0, delay := r.delayNs }) s
  else noteMargin p r.margin (onClasp p (trainedClasp r) s)

def execLinkTrainingDone (port : Nat) (r : TrainReport) (s : State) : Out := effect (runTrained port r) s

/-- LINK_RETRY (R316). -/
def runRetry (p : Nat) (s : State) : State :=
  let c := claspOf p s
  if c.enabled && c.state = 4 && c.byItself && 0 < c.retriesLeft then
    beginTraining p (onClasp p (fun c => { c with retriesLeft := c.retriesLeft - 1 }) s)
  else s

def execLinkRetry (port : Nat) (s : State) : Out := effect (runRetry port) s

/-- The 32-byte link record (R318). -/
def Clasp.record (p : Nat) (c : Clasp) : List Byte :=
  leBytes 1 p ++ leBytes 1 (if c.enabled then c.state else 0) ++ [c.lanes] ++ leBytes 1 (laneCount c.lanes) ++ leBytes 2 c.neighbour
    ++ leBytes 1 c.nport ++ leBytes 1 (if c.naligned then 1 else 0) ++ leBytes 8 c.nuid.toNat ++ leBytes 2 c.delay ++ zeros 2
    ++ leBytes 4 c.retries ++ leBytes 4 c.fecOk ++ leBytes 4 c.fecBad

def portArgs (c : Cmd) (_ : State) : Bool :=
  c.argLen = 4 && c.n 0 1 < 20 && c.n 1 1 ≤ 3 && c.zero 3 1 && (c.n 1 1 != 3 || 4 ≤ laneCount (BitVec.ofNat 8 (c.n 2 1)))

/-- PORT_CONTROL (R290, R315, R316). -/
def runPortControl (c : Cmd) (s : State) : State :=
  let p := c.n 0 1
  let s1 := match c.n 1 1 with
    | 0 => onClasp p (fun x => { x with enabled := false, state := 0, lanes := 0, byItself := false, ctl := [], queue := [] }) s
    | 1 => if (claspOf p s).enabled then s else trainPort p s
    | 2 => trainPort p s
    | _ => ((List.range 8).filter (fun l => !bitOf (c.n 2 1) l)).foldl (fun s l => loseLane p l s) s
  c.finish stDone ((claspOf p s1).record p) s1

def execPortControl (s : State) : Out := effect (command 0x0033 portArgs runPortControl) s

end Sys2Proof.Machine
end

