-- ==== Sys2Proof/Machine/Image.lean ====
section
/-! DEFINITION. The imposition image as bytes (R229 to R237, R244, R245, R247): its structure, with the place of the first
fault of structure, range or order (R243 reason 0x0101, R473). -/

namespace Sys2Proof.Machine
open Sys2Proof

/-- Where a check failed: cell, forme index, item number; 0xFFFF where it concerns none (R243). -/
abbrev Loc := Nat × Nat × Nat

def noLoc : Loc := (0xFFFF, 0xFFFF, 0xFFFF)

/-- A parse: a value or the place of the fault. -/
abbrev Parse (β : Type) := Except Loc β

/-- A condition of the layout. -/
def need (l : Loc) (c : Bool) : Parse Unit := if c then .ok () else .error l

/-- What the bytes of an image hold: the image, and the items with an opcode that no VOp names (reason 0x0206). -/
structure Parsed where
  image : Image
  bad : List Loc
deriving DecidableEq, Repr

/-! ### Directory (R229, R230) -/

/-- A directory entry. -/
structure Section where
  typ : Nat
  len : Nat
  off : Nat
deriving DecidableEq, Repr

def align (n k : Nat) : Nat := ceilDiv n k * k

def sectionAt (b : List Byte) (i : Nat) : Section :=
  let o := 64 + 16 * i
  { typ := fieldN b o 2, len := fieldN b (o + 4) 4, off := fieldN b (o + 8) 8 }

def sectionsOf (b : List Byte) : List Section := (List.range (fieldN b 6 2)).map (sectionAt b)

/-- The fit points and issue rates of the phases 0 to 5 (R229). -/
def fitOf (b : List Byte) : List (Nat × Nat) := (List.range 6).map (fun p => (fieldN b (20 + 2 * p) 1, fieldN b (21 + 2 * p) 1))

def headerOk (b : List Byte) : Bool :=
  64 ≤ b.length && fieldN b 0 4 = 0x464F494D && fieldN b 4 2 = 1 && 1 ≤ fieldN b 6 2 && fieldN b 6 2 ≤ 16
    && fieldN b 8 8 = b.length && b.length % 64 = 0 && 8 ≤ fieldN b 17 1 && fieldN b 17 1 ≤ 64
    && (fitOf b).all (fun f => f.1 ≤ 3 && 32 ≤ f.2 && f.2 ≤ 64)
    && 1 ≤ fieldN b 38 2 && fieldN b 38 2 ≤ 16382 && zeroField b 40 24

def directoryOk (b : List Byte) : Bool :=
  let l := sectionsOf b
  let first := align (64 + 16 * l.length) 64
  l.all (fun x => 1 ≤ x.typ && x.typ ≤ 13 && x.off % 64 = 0 && first ≤ x.off && x.off + x.len ≤ b.length)
    && (List.range l.length).all (fun i => zeroField b (66 + 16 * i) 2)
    && (List.range 12).all (fun t => l.any (fun x => x.typ = t + 1))
    && decide ((l.map (·.typ)).Nodup)
    && l.all (fun x => l.all (fun y => x.typ = y.typ || x.off + x.len ≤ y.off || y.off + y.len ≤ x.off))

def sectionBytes (b : List Byte) (t : Nat) : List Byte :=
  match (sectionsOf b).find? (fun x => x.typ = t) with
  | some x => sliceB b x.off x.len
  | none => []

def headerOf (b : List Byte) : ImgHdr where
  tickRate := fieldN b 16 1
  allowance := fieldN b 17 1
  maxOffset := fieldN b 18 2
  fit := fitOf b
  fwd := fieldN b 32 2
  bwd := fieldN b 34 2
  opt := fieldN b 36 2
  exch := fieldN b 38 2

/-! ### Tables -/

/-- Entry `i` of the format and leading table (R231). -/
def tableEntry (b : List Byte) (i : Nat) : TabEntry :=
  let o := 32 * i
  let fl := fieldN b (o + 3) 1
  { format := fieldN b o 1
    leading := fieldI b (o + 1) 1
    quant := fieldN b (o + 2) 1
    sensitive := bitOf fl 0
    gradient := bitOf fl 1
    rounded := bitOf fl 2
    inclBudget := fieldN b (o + 4) 1
    lowest := fieldN b (o + 5) 1
    parts := fieldN b (o + 6) 1
    rows := fieldN b (o + 8) 4
    cols := fieldN b (o + 12) 4
    k := fieldN b (o + 16) 4
    declaredN := fieldN b (o + 20) 4
    calm := 0 }

def tableOk (b : List Byte) : Bool :=
  b.length % 32 = 0 && b.length / 32 ≤ 65536
    && (List.range (b.length / 32)).all (fun i =>
      fieldN b (32 * i + 2) 1 < 4 && fieldN b (32 * i + 3) 1 < 8 && zeroField b (32 * i + 7) 1 && zeroField b (32 * i + 24) 8)

/-- An endpoint from its 8 bytes (R192); none where a bit that must be 0 is set or the kind does not fit. -/
def endpointOf (v : Nat) : Option Endpoint :=
  match v / p2 62 with
  | 0 => if v < p2 39 then some (.hbm v) else none
  | 1 =>
    let w := v - p2 62
    if w < p2 49 && w % p2 40 < p2 23 && w / p2 40 < 288 then some (.caseMem (w / p2 40) (w % p2 23)) else none
  | 2 =>
    let w := v - 2 * p2 62
    if w < p2 56 && w % p2 40 < p2 39 then some (.remote (w / p2 40) (w % p2 39)) else none
  | _ =>
    let w := v - 3 * p2 62
    if w < p2 48 then some (.host (w / p2 40) (w % p2 40)) else none

/-- The roles of R233 whose placements hold stored blocks or long tiles, aligned to 64 (R65, R174). -/
def blockRole (r : Nat) : Bool := r ≤ 2 || (6 ≤ r && r ≤ 0x0B)

/-- Memory-plan record `i` (R233). -/
def planRecord (tensors : Nat) (b : List Byte) (i : Nat) : Parse MemRec := do
  let o := 32 * i
  let role := fieldN b (o + 2) 1
  need noLoc (fieldN b o 2 < tensors && zeroField b (o + 6) 2 && zeroField b (o + 24) 8
    && (role = 0x09 || role = 0x0A || fieldN b (o + 4) 2 = 0xFFFF))
  match endpointOf (fieldN b (o + 16) 8) with
  | some (.hbm a) =>
    need noLoc (!blockRole role || a % 64 = 0)
    pure { tensor := fieldN b o 2, role := role, cls := fieldN b (o + 3) 1, peer := fieldN b (o + 4) 2,
           tileFirst := fieldN b (o + 8) 4, tileCount := fieldN b (o + 12) 4, place := .hbm a }
  | some (.caseMem c q) =>
    need noLoc (!blockRole role || q % 64 = 0)
    pure { tensor := fieldN b o 2, role := role, cls := fieldN b (o + 3) 1, peer := fieldN b (o + 4) 2,
           tileFirst := fieldN b (o + 8) 4, tileCount := fieldN b (o + 12) 4, place := .caseMem c q }
  | _ => .error noLoc

def planOfBytes (tensors : Nat) (b : List Byte) : Parse (List MemRec) := do
  need noLoc (b.length % 32 = 0)
  (List.range (b.length / 32)).mapM (planRecord tensors b)

/-! ### Case-memory contents (R234) -/

/-- One contents record at the head of the bytes, and what follows it; `cells` bounds the cell field. -/
def contentsRecord (cells : Nat) (b : List Byte) : Parse (CaseRec × List Byte) := do
  let n := fieldN b 8 4
  let whole := align (16 + n) 64
  need noLoc (whole ≤ b.length && fieldN b 0 2 < cells && zeroField b 2 2 && zeroField b 12 4 && zeroField b (16 + n) (whole - 16 - n))
  pure ({ cell := fieldN b 0 2, off := fieldN b 4 4, bytes := sliceB b 16 n }, b.drop whole)

/-- The records of the section; `fuel` bounds their number. -/
def contentsOf : Nat → List Byte → Parse (List CaseRec)
  | 0, b => if b.isEmpty then .ok [] else .error noLoc
  | fuel + 1, b =>
    if b.isEmpty then .ok []
    else do
      let r ← contentsRecord 288 b
      let rest ← contentsOf fuel r.2
      pure (r.1 :: rest)

/-! ### Items (R105, R151, R191, R235 to R237) -/

def passBody (tensors : Nat) (l : Loc) (b : List Byte) : Parse PassDesc := do
  let fl := fieldN b 2 1
  let addrs := (List.range 4).map (fun a => fieldN b (16 + 4 * a) 4)
  let rows := (List.range 4).map (fun a => fieldN b (32 + 2 * a) 2)
  let mask := fieldN b 44 4
  need l (b.length = 64 && fl < 4 && fieldN b 4 2 < tensors && zeroField b 6 2 && zeroField b 42 2
    && fieldN b 12 4 % 64 = 0 && addrs.all (· % 64 = 0)
    && (mask = 0xFFFFFFFF || mask % 64 = 0) && (!bitOf fl 1 || zeroField b 48 16))
  pure { streamFmt := fieldN b 0 1
         weightFmt := fieldN b 1 1
         zeroFill := bitOf fl 0
         reuse := bitOf fl 1
         inclBudget := fieldN b 3 1
         tensor := fieldN b 4 2
         kFirst := fieldN b 8 4
         weightAddr := fieldN b 12 4
         streamAddr := addrs
         rows := rows
         accBase := fieldN b 40 2
         rowMaskAddr := if mask = 0xFFFFFFFF then none else some mask
         colMask := fieldN b 48 16 }

def drainBody (tensors : Nat) (l : Loc) (b : List Byte) : Parse DrainDesc := do
  let fl := fieldN b 2 1
  need l (b.length = 48 && fieldN b 0 1 < 16 && fl < 64 && (!bitOf fl 3 || (1 ≤ fieldN b 3 1 && fieldN b 3 1 ≤ 8))
    && fieldN b 4 2 < tensors && 1 ≤ fieldN b 8 2 && zeroField b 10 2
    && (List.range 4).all (fun i => fieldN b (12 + 4 * i) 4 % 64 = 0) && zeroField b 30 2 && zeroField b 44 4)
  pure { arrays := fieldN b 0 1
         outFmt := if fieldN b 1 1 = 0xFF then none else some (fieldN b 1 1)
         toGalley := bitOf fl 0
         fusedAdd := bitOf fl 1
         fusedMul := bitOf fl 2
         topk := bitOf fl 3
         compare := bitOf fl 4
         final := bitOf fl 5
         k := fieldN b 3 1
         tensor := fieldN b 4 2
         accFirst := fieldN b 6 2
         rows := fieldN b 8 2
         dst := fieldN b 12 4
         addend := fieldN b 16 4
         multiplicand := fieldN b 20 4
         topkDst := fieldN b 24 4
         addendFmt := fieldN b 28 1
         multFmt := fieldN b 29 1
         rowFirst := fieldN b 32 4
         colFirst := fieldN b 36 4
         stream := BitVec.ofNat 32 (fieldN b 40 4) }

/-- The opcodes of R152. -/
def vopOf (c : Nat) : Option VOp :=
  match c with
  | 0x01 => some .ld
  | 0x02 => some .st
  | 0x03 => some .ldg
  | 0x10 => some .add
  | 0x11 => some .sub
  | 0x12 => some .mul
  | 0x13 => some .fma
  | 0x14 => some .max
  | 0x15 => some .min
  | 0x16 => some .abs
  | 0x17 => some .neg
  | 0x18 => some .sel
  | 0x19 => some .cmplt
  | 0x1A => some .cmple
  | 0x1B => some .cmpeq
  | 0x1C => some .mand
  | 0x1D => some .mor
  | 0x1E => some .mnot
  | 0x20 => some .exp2
  | 0x21 => some .log2
  | 0x22 => some .rcp
  | 0x23 => some .rsqrt
  | 0x24 => some .tanh
  | 0x25 => some .erf
  | 0x28 => some .cvt
  | 0x30 => some .redsum
  | 0x31 => some .redmax
  | 0x32 => some .redmin
  | 0x33 => some .scan
  | 0x38 => some .azero
  | 0x39 => some .aadd
  | 0x3A => some .afold
  | 0x3B => some .around
  | 0x3C => some .ascan
  | 0x3D => some .ald
  | 0x3E => some .ast
  | 0x40 => some .lig
  | 0x48 => some .topkm
  | _ => none

/-- One vector instruction (R151): its reserved bits are checked here, its opcode is none where it is reserved. -/
def vinstrOf (l : Loc) (b : List Byte) : Parse (Option VInstr) := do
  let op := fieldN b 0 1
  let m := fieldN b 6 1
  need l (m < 16 && fieldN b 7 1 < 4 && (op = 1 || op = 2 || op = 0x48 || zeroField b 12 4))
  pure ((vopOf op).map (fun o =>
    { op := o
      f := { w := fieldN b 1 1
             vd := fieldN b 2 1
             va := fieldN b 3 1
             vb := fieldN b 4 1
             vc := fieldN b 5 1
             mask := m % 8
             invert := bitOf m 3
             release := bitOf (fieldN b 7 1) 0
             zeroing := bitOf (fieldN b 7 1) 1
             addr := BitVec.ofNat 32 (fieldN b 8 4)
             stride := BitVec.ofNat 32 (fieldN b 12 4) } }))

/-- An endpoint lies on a 64-byte boundary, as every stored block and long tile does (R65, R174). -/
def epAligned : Endpoint → Bool
  | .hbm a | .caseMem _ a | .remote _ a | .host _ a => a % 64 == 0

/-- The opcodes of R193 whose source, and those whose destination, is stored blocks or long tiles. -/
def storedSource (op : Nat) : Bool := (2 ≤ op && op ≤ 5) || op = 7 || op = 9 || op = 0x0A
def storedDest (op : Nat) : Bool := (2 ≤ op && op ≤ 6) || (8 ≤ op && op ≤ 0x0A)

/-- A bezel body: its opcode and the fields behind it (R191). -/
def bezelBody (tensors : Nat) (l : Loc) (b : List Byte) : Parse (Nat × BezelDesc) := do
  need l (b.length = 64 && zeroField b 1 1 && fieldN b 4 1 < 4 && fieldN b 6 2 < tensors && zeroField b 52 4)
  let op := fieldN b 0 1
  let aux := fieldN b 5 1
  need l (if op = 6 || op = 7 then aux ≤ 1 else if op = 9 then aux ≤ 3 else aux = 0)
  match endpointOf (fieldN b 8 8), endpointOf (fieldN b 16 8), endpointOf (fieldN b 56 8) with
  | some x, some y, some z =>
    need l (op = 6 || op = 7 || zeroField b 56 8)
    need l (fieldN b 24 4 % 32 = 0 && fieldN b 28 4 % 32 = 0 && (op != 1 || fieldN b 32 4 % 64 = 0))
    need l ((!storedSource op || epAligned x) && (!storedDest op || epAligned y))
    pure (op, { srcFmt := fieldN b 2 1
                dstFmt := fieldN b 3 1
                quant := fieldN b 4 1
                aux := aux
                tensor := fieldN b 6 2
                src := x
                dst := y
                rowFirst := fieldN b 24 4
                colFirst := fieldN b 28 4
                rows := fieldN b 32 4
                cols := fieldN b 36 4
                srcCols := fieldN b 40 4
                dstCols := fieldN b 44 4
                stream := BitVec.ofNat 32 (fieldN b 48 4)
                scales := if op = 6 || op = 7 then some z else none })
  | _, _, _ => .error l

def transferBody (l : Loc) (b : List Byte) : Parse TransferDesc := do
  need l (b.length = 16 && fieldN b 4 2 < 288 && zeroField b 6 2 && fieldN b 12 4 % 64 = 0)
  pure { src := fieldN b 0 4, dstCell := fieldN b 4 2, dst := fieldN b 8 4, length := fieldN b 12 4 }

/-- An item's body by kind (R236); `false` where it holds a reserved vector opcode. -/
def itemBody (tensors kind : Nat) (l : Loc) (b : List Byte) : Parse (ItemBody × Bool) :=
  match kind with
  | 1 => do let d ← passBody tensors l b; pure (.pass d, true)
  | 2 => do let d ← drainBody tensors l b; pure (.drain d, true)
  | 3 => do
    need l (16 ≤ b.length && b.length ≤ 2048 && b.length % 16 = 0)
    let v ← (List.range (b.length / 16)).mapM (fun i => vinstrOf l (sliceB b (16 * i) 16))
    pure (.vector (v.filterMap id), v.all Option.isSome)
  | 4 => do let d ← bezelBody tensors l b; pure (.bezel d.1 d.2, true)
  | 5 => do let d ← transferBody l b; pure (.transfer d, true)
  | _ => .error l

/-- `n` items at the head of a record's bytes (R235, R236), with the places of reserved opcodes and what is left. -/
def itemsOf (tensors cell forme : Nat) : Nat → List Byte → Parse (List Item × List Loc × List Byte)
  | 0, b => .ok ([], [], b)
  | n + 1, b => do
    let l : Loc := (cell, forme, fieldN b 2 2)
    let fl := fieldN b 1 1
    let len := fieldN b 8 4
    need l (16 + len ≤ b.length && fl < 8 && zeroField b 12 4 && (bitOf fl 0 || zeroField b 4 4)
      && (cell < 0x200 || fieldN b 0 1 = 4))
    let body ← itemBody tensors (fieldN b 0 1) l (sliceB b 16 len)
    need l (!bitOf fl 1 || fieldN b 0 1 = 1)
    let rest ← itemsOf tensors cell forme n (b.drop (align (16 + len) 16))
    pure ({ deferrable := bitOf fl 0
            runStart := bitOf fl 1
            sends := bitOf fl 2
            number := fieldN b 2 2
            earliest := fieldN b 4 2
            latest := fieldN b 6 2
            body := body.1 } :: rest.1, (if body.2 then rest.2.1 else l :: rest.2.1), rest.2.2)

/-- One forme record at the head of the bytes (R235), and what follows it. -/
def formeRecord (tensors : Nat) (cellOk : Nat → Bool) (b : List Byte) : Parse (FormeRec × List Loc × List Byte) := do
  let cell := fieldN b 0 2
  let forme := fieldN b 2 2
  let l : Loc := (cell, forme, 0xFFFF)
  let len := fieldN b 12 4
  let n := fieldN b 6 2
  need l (cellOk cell && fieldN b 4 1 ≤ 5 && zeroField b 5 1 && 1 ≤ n && n ≤ 4095 && zeroField b 10 2
    && 64 ≤ len && len % 64 = 0 && len ≤ b.length)
  let its ← itemsOf tensors cell forme n ((b.take len).drop 16)
  need l (its.2.2.length < 64 && its.2.2.all (· == 0))
  pure ({ cell := cell, forme := forme, phase := fieldN b 4 1, deadline := fieldN b 8 2, items := its.1 }, its.2.1, b.drop len)

/-- A cell field of the image (R235). -/
def imageCell (c : Nat) : Bool := c < 288 || (0x200 ≤ c && c < 0x208)

def formesOf (tensors : Nat) (cellOk : Nat → Bool) : Nat → List Byte → Parse (List FormeRec × List Loc)
  | 0, b => if b.isEmpty then .ok ([], []) else .error noLoc
  | fuel + 1, b =>
    if b.isEmpty then .ok ([], [])
    else do
      let r ← formeRecord tensors cellOk b
      let rest ← formesOf tensors cellOk fuel r.2.2
      pure (r.1 :: rest.1, r.2.1 ++ rest.2)

/-- Records in strict (cell, forme) order: the place of the first that breaks it (R235, R473). -/
def orderFault : List FormeRec → Option Loc
  | a :: b :: rest =>
    if a.cell < b.cell || (a.cell = b.cell && a.forme < b.forme) then orderFault (b :: rest) else some (b.cell, b.forme, 0xFFFF)
  | _ => none

/-- An item number used twice in a cell's step (R236): the place of the second use. -/
def numberFault (l : List FormeRec) : Option Loc :=
  (l.foldl (fun (x : List (Nat × Nat) × Option Loc) r =>
    r.items.foldl (fun x it =>
      if x.1.contains (r.cell, it.number) then (x.1, if x.2.isSome then x.2 else some (r.cell, r.forme, it.number))
      else ((r.cell, it.number) :: x.1, x.2)) x) ([], none)).2

/-! ### The other sections -/

/-- Strictly ascending. -/
def ascending : List Nat → Bool
  | a :: b :: rest => decide (a < b) && ascending (b :: rest)
  | _ => true

/-- Breakpoints in ascending s_i (R220). -/
def pointsAscend : List (W32 × W32) → Bool
  | a :: b :: rest => f32Lt a.1 b.1 && pointsAscend (b :: rest)
  | _ => true

/-- Optimizer entry at an offset (R220). -/
def optEntryAt (b : List Byte) (o : Nat) : OptEntry where
  master := fieldN b o 2
  work := fieldN b (o + 2) 2
  program := fieldN b (o + 4) 1
  clip := bitOf (fieldN b (o + 5) 1) 0
  lrScale := BitVec.ofNat 32 (fieldN b (o + 8) 4)
  stream := BitVec.ofNat 32 (fieldN b (o + 12) 4)
  k := (List.range 8).map (fun i => BitVec.ofNat 32 (fieldN b (o + 16 + 4 * i) 4))

/-- The optimizer section (R220, R230): clip_norm, breakpoints and entries. -/
def optOf (tensors : Nat) (b : List Byte) : Parse (W32 × List (W32 × W32) × List OptEntry) := do
  let n := fieldN b 0 2
  let m := fieldN b 2 1
  let first := align (8 + 8 * m) 64
  let points := (List.range m).map (fun i => (BitVec.ofNat 32 (fieldN b (8 + 8 * i) 4), BitVec.ofNat 32 (fieldN b (12 + 8 * i) 4)))
  let es := (List.range n).map (fun i => optEntryAt b (first + 64 * i))
  need noLoc (1 ≤ m && m ≤ 64 && zeroField b 3 1 && b.length = first + 64 * n && zeroField b (8 + 8 * m) (first - 8 - 8 * m)
    && pointsAscend points
    && es.all (fun e => e.master < tensors && e.work < tensors)
    && (List.range n).all (fun i => fieldN b (first + 64 * i + 5) 1 < 2 && zeroField b (first + 64 * i + 6) 2 && zeroField b (first + 64 * i + 48) 16))
  pure (BitVec.ofNat 32 (fieldN b 4 4), points, es)

/-- The contingency section (R247). A record with a length, items and a zero reserved field is a forme record. Before the set's first forme
record, a record whose word at byte 12 is 0 is a contents record where the rest of the section can be read so. Anything else opens the next
set (log entry 28). -/
def contOf (tensors : Nat) : Nat → Option ContSet → List Byte → Parse (List ContSet × List Loc)
  | 0, _, b => if b.isEmpty then .ok ([], []) else .error noLoc
  | fuel + 1, cur, b =>
    let closed : List ContSet := match cur with
      | some c => [c]
      | none => []
    if b.isEmpty then .ok (closed, [])
    else
      let opened : Parse (List ContSet × List Loc) := do
        need noLoc (4 ≤ b.length && fieldN b 0 1 < 4 && zeroField b 1 3)
        let rest ← contOf tensors fuel (some { region := fieldN b 0 1, cases := [], formes := [] }) (b.drop 4)
        pure (closed ++ rest.1, rest.2)
      match cur with
      | some c =>
        if 16 ≤ b.length && !zeroField b 12 4 && !zeroField b 6 2 && zeroField b 10 2 then do
          let r ← formeRecord tensors (· < 63) b
          let rest ← contOf tensors fuel (some { c with formes := c.formes ++ [r.1] }) r.2.2
          pure (rest.1, r.2.1 ++ rest.2)
        else if zeroField b 12 4 && c.formes.isEmpty then
          match contentsRecord 63 b with
          | .ok r =>
            match contOf tensors fuel (some { c with cases := c.cases ++ [r.1] }) r.2 with
            | .ok x => .ok x
            | .error _ => opened
          | .error _ => opened
        else opened
      | none => opened

/-- A contingency set in order (R235), each region once (R247). -/
def contFault (l : List ContSet) : Option Loc :=
  if !decide ((l.map (·.region)).Nodup) then some noLoc
  else l.findSome? (fun c => match orderFault c.formes with
    | some x => some x
    | none => numberFault c.formes)

/-- Turn a found fault into the parse's error. -/
def noFault : Option Loc → Parse Unit
  | some l => .error l
  | none => .ok ()

/-- The whole image (R229, R230). -/
def parseImage (b : List Byte) : Parse Parsed := do
  need noLoc (headerOk b)
  need noLoc (directoryOk b)
  let sec := sectionBytes b
  need noLoc ((sec 1).length = 72 && tableOk (sec 2) && (sec 6).length % 2 = 0 && (sec 7).length = 64 && zeroField (sec 7) 33 31
    && (sec 9).length = 64 && fieldN (sec 9) 4 1 ≤ 8 && fieldN (sec 9) 5 1 ≤ 8 && zeroField (sec 9) 6 58 && (sec 10).length % 4 = 0 && (sec 11).length = 64 && zeroField (sec 11) 40 24
    && (sec 12).length = 256)
  let table := (List.range ((sec 2).length / 32)).map (tableEntry (sec 2))
  let n := table.length
  let plan ← planOfBytes n (sec 3)
  let cases ← contentsOf (sec 4).length (sec 4)
  let formes ← formesOf n imageCell (sec 5).length (sec 5)
  noFault (orderFault formes.1)
  noFault (numberFault formes.1)
  let groups := (List.range ((sec 6).length / 2)).map (fun i => fieldN (sec 6) (2 * i) 2)
  need noLoc (ascending groups)
  let opt ← optOf n (sec 8)
  let cont ← contOf n (sec 13).length none (sec 13)
  noFault (contFault cont.1)
  pure { bad := formes.2 ++ cont.2
         image := { hdr := headerOf b
                    cellMap := sec 1
                    table := table
                    plan := plan
                    cases := cases
                    formes := formes.1
                    groups := groups
                    applied := BitVec.ofNat 64 (fieldN (sec 7) 0 8)
                    attempted := BitVec.ofNat 64 (fieldN (sec 7) 8 8)
                    seed := BitVec.ofNat 64 (fieldN (sec 7) 16 8)
                    nNorm := fieldN (sec 7) 24 8
                    normLeading := fieldI (sec 7) 32 1
                    clipNorm := opt.1
                    points := opt.2.1
                    opt := opt.2.2
                    policy := { satMax := fieldN (sec 9) 0 2, vanMax := fieldN (sec 9) 2 2, leadMargin := fieldN (sec 9) 4 1,
                                guard := fieldN (sec 9) 5 1 }
                    energy := (List.range ((sec 10).length / 4)).map (fun i => BitVec.ofNat 32 (fieldN (sec 10) (4 * i) 4))
                    snap := { own := fieldN (sec 11) 0 8, bytes0 := fieldN (sec 11) 8 8, bytes1 := fieldN (sec 11) 16 8,
                              where0 := fieldN (sec 11) 24 8, where1 := fieldN (sec 11) 32 8 }
                    sparePlan := sec 12
                    cont := cont.1
                    digest := sha256 b } }

end Sys2Proof.Machine
end

