-- ==== Sys2Proof/Machine/Access.lean ====
section
/-! DEFINITION. What forme items read, write and quantize, and how long they take (R105, R108, R110, R152, R167, R190,
R237, R238), as the loader finds it from the item bodies. -/

namespace Sys2Proof.Machine
open Sys2Proof

/-- `n` bytes at an endpoint. -/
abbrev Rng := Endpoint × Nat

/-- Tiles of a tensor that rows `r0 ...` and columns `c0 ...` touch (R131, R174). -/
def coverTiles (te : TabEntry) (r0 nr c0 nc : Nat) : List Nat :=
  if nr = 0 || nc = 0 then []
  else
    (List.range ((r0 + nr - 1) / 128 - r0 / 128 + 1)).flatMap (fun u =>
      (List.range ((c0 + nc - 1) / 128 - c0 / 128 + 1)).map (fun h => (r0 / 128 + u) * ceilDiv te.cols 128 + c0 / 128 + h))

/-- The inclusion lists, map bytes and promotion slots of tiles in a space (R470). -/
def sideRanges (t : State) (tensor : Nat) (tiles : List Nat) (sp : Space) (slots : Bool) : List Rng :=
  tiles.flatMap (fun n =>
    (match listOf t tensor n sp with
      | some e => [(e, 64)]
      | none => [])
    ++ (match sidePlace t 0x03 tensor n sp with
      | some p => [(epAdd p.1 p.2, 1)]
      | none => [])
    ++ (match slots, slotOf t tensor n sp, tabEntry t tensor with
      | true, some e, some te => [(e, tileBytes ((nextWider te.format te.gradient).getD 5))]
      | _, _, _ => []))

/-- A quantizer of an item (R207, R470): where its draws and its counts belong. -/
structure Quant where
  tensor : Nat
  fmt : Nat
  ctl : Nat
  row0 : Nat
  rows : Nat
  col0 : Nat
  cols : Nat
  stream : W32
  space : Option Space
deriving DecidableEq, Repr

/-- The ligature descriptors that a program names inside case memory. -/
def ligsOf (t : State) (cell : Nat) (prog : List VInstr) : List LigDesc :=
  (prog.filter (fun i => decide (i.op = .lig) && decide (i.f.addr.toNat + 96 ≤ p2 23))).map (fun i => readLig t cell i.f.addr.toNat)

/-- The contents section goes into case memory (R234). -/
def writeContents (cs : List CaseRec) (s : State) : State :=
  onCase (fun m => { m with mem := cs.foldl (fun acc c => Memory.writeN acc (caseKey c.cell c.off) c.bytes) m.mem }) s

/-- The space whose placements a bezel destination's quantizer writes; none off the chip. -/
def quantSpace (t : State) (e : Endpoint) : Option Space :=
  match e with
  | .hbm _ | .caseMem _ _ => some (destSpace t e)
  | _ => none

/-- The quantizers of an item's body. REDUCE_CLOSE (R193) is none of those that R470 lists, and its destination is not checked for whole tiles
(DEDUCED, log entry 36). -/
def bodyQuants (t : State) (cell : Nat) (body : ItemBody) : List Quant :=
  match body with
  | .drain d =>
    match d.final, d.outFmt, tabEntry t d.tensor with
    | true, some f, some te =>
      [{ tensor := d.tensor, fmt := f, ctl := te.quant, row0 := d.rowFirst, rows := (stripRows d).length, col0 := d.colFirst,
         cols := 128, stream := d.stream, space := some (.cell cell) }]
    | _, _, _ => []
  | .vector prog => (ligsOf t cell prog).flatMap (fun l => (List.range 2).filterMap (fun n =>
      if l.outFmt.getD n 0xFF = 0xFF then none
      else some { tensor := l.outTensor.getD n 0, fmt := l.outFmt.getD n 0xFF, ctl := l.quant, row0 := l.rowFirst, rows := l.rows,
                  col0 := l.colFirst, cols := 128, stream := l.stream, space := some (.cell cell) }))
  | .bezel op d =>
    if op = 0x04 || op = 0x06 then
      [{ tensor := d.tensor, fmt := d.dstFmt, ctl := if op = 0x06 then 0 else d.quant, row0 := d.rowFirst, rows := d.rows,
         col0 := d.colFirst, cols := d.cols, stream := d.stream, space := quantSpace t d.dst }]
    else []
  | _ => []

/-- The quantizers of an item. R470 names no REDUCE_CLOSE among them: one with a chase or integer destination is not checked for whole tiles
or side placements at load (DESIGN CHOICE, log entry 36). -/
def itemQuants (t : State) (cell : Nat) (it : Item) : List Quant := bodyQuants t cell it.body

/-- The ranges beside its data that a quantizer writes. -/
def quantSides (t : State) (slots : Bool) (q : Quant) : List Rng :=
  match q.space, tabEntry t q.tensor with
  | some sp, some te => if fmtNarrow q.fmt then sideRanges t q.tensor (coverTiles te q.row0 q.rows q.col0 q.cols) sp slots else []
  | _, _ => []

/-! ### Blocks that readers of stored blocks name (R471) -/

/-- The stored blocks that a bezel operation reads under R471. -/
def bezelBlocks (op : Nat) (d : BezelDesc) : List (Endpoint × Nat × Space) :=
  if op = 0x02 || op = 0x03 || op = 0x04 || op = 0x05 || op = 0x07 || (op = 0x09 && d.srcFmt != 0xFF) then
    (rangeBlocks d).map (fun pq => (srcBlock d (blockBytes d.srcFmt) pq.1 pq.2, d.srcFmt, Space.chip))
  else []

/-- The stored blocks that an item reads under R471: endpoint, format, and where its map and slot lie. -/
def itemBlocks (t : State) (cell : Nat) (it : Item) : List (Endpoint × Nat × Space) :=
  let tile := fun (f a n : Nat) => (List.range n).map (fun i => (Endpoint.caseMem cell (a + i * blockBytes f), f, Space.cell cell))
  match it.body with
  | .pass d =>
    let kb := passBlocks t d
    (if d.reuse then [] else tile d.weightFmt d.weightAddr (4 * kb))
    ++ (List.range 4).flatMap (fun a => (List.range (ceilDiv (d.rows.getD a 0) 32)).flatMap (fun r =>
        tile d.streamFmt (d.streamAddr.getD a 0 + 4 * r * blockBytes d.streamFmt) kb))
  | .vector prog => (ligsOf t cell prog).flatMap (fun l =>
      (if l.in0Src = 1 then tile l.in0Fmt l.in0Addr (4 * ceilDiv l.rows 32) else [])
      ++ (if l.in1Fmt = 0xFF then [] else tile l.in1Fmt l.in1Addr (4 * ceilDiv l.rows 32)))
  | .bezel op d => bezelBlocks op d
  | _ => []

/-- The list, map byte and, if asked, slot beside a block that is read. -/
def blockSides (t : State) (slots : Bool) (x : Endpoint × Nat × Space) : List Rng :=
  if fmtNarrow x.2.1 then
    match findBlock t x.1 with
    | some (tensor, n, _) => sideRanges t tensor [n] x.2.2 slots
    | none => []
  else []

/-! ### Ranges -/

/-- Lanes of LD and ST as ranges (R153). -/
def laneRanges (cell : Nat) (f : VFields) : List Rng :=
  (List.range (laneNum f.w)).map (fun l => (.caseMem cell (laneOffset f l).toNat, laneBits f.w / 8))

/-- Data ranges of a bezel source or destination. -/
def sideData (e : Endpoint) (blocks : List Endpoint) (b : Nat) : List Rng :=
  match e with
  | .hbm _ | .caseMem _ _ | .remote _ _ | .host _ _ => blocks.map (fun x => (x, b))

def bezelReads (op : Nat) (d : BezelDesc) : List Rng :=
  if op = 0x01 then [(d.src, d.rows)]
  else if op = 0x08 then []
  else if op = 0x06 then
    [(d.src, ceilDiv (d.rows * d.cols) (if d.srcFmt = 8 then 2 else 1))]
      ++ (match d.scales with
        | some e => [(e, ceilDiv (d.rows * d.cols) 32)]
        | none => [])
  else
    let b := if d.srcFmt = 0xFF || op = 0x0A then longTileBytes else blockBytes d.srcFmt
    sideData d.src ((rangeBlocks d).map (fun pq => srcBlock d b pq.1 pq.2)) (if d.srcFmt = 0xFF && d.rows = 1 then lanePartialBytes else b)

/-- What an operation writes: data ranges, and for a remote endpoint the bytes that its packets carry (R240, R321). -/
def bezelWrites (op : Nat) (d : BezelDesc) : List Rng :=
  if op = 0x01 then [(d.dst, d.rows)]
  else if op = 0x07 then
    [(d.dst, ceilDiv (d.rows * d.cols) (if d.dstFmt = 8 then 2 else 1))]
      ++ (match d.scales with
        | some e => [(e, ceilDiv (d.rows * d.cols) 32)]
        | none => [])
  else
    let b := if op = 0x08 || op = 0x09 then longTileBytes else blockBytes d.dstFmt
    let blocks := if op = 0x03 then
        (rangeBlocks d).map (fun pq => blockPlace d.dst b d.colFirst d.rowFirst d.rows d.dstCols pq.2 pq.1)
      else (rangeBlocks d).map (fun pq => dstBlock d b pq.1 pq.2)
    sideData d.dst blocks (if op = 0x09 && d.srcFmt = 0xFF && d.rows = 1 then lanePartialBytes
      else if op = 0x09 && d.srcFmt != 0xFF && isRemote d.dst then blockBytes d.srcFmt
      else b)

/-- Bytes of a strip in a format (R237). -/
def stripBytes (d : DrainDesc) (b : Nat) : Nat := ceilDiv (stripRows d).length 32 * 4 * b

def vinstrReads (t : State) (cell : Nat) (i : VInstr) : List Rng :=
  match i.op with
  | .ld => laneRanges cell i.f
  | .ald => [(.caseMem cell i.f.addr.toNat, lanePartialBytes)]
  | .topkm => [(.caseMem cell i.f.addr.toNat, 64 * i.f.vc), (.caseMem cell i.f.stride.toNat, 64 * i.f.vc)]
  | .lig =>
    let l := readLig t cell i.f.addr.toNat
    [(.caseMem cell i.f.addr.toNat, 96 + 4 * l.count)]
    ++ (if l.in0Src = 1 then [(.caseMem cell l.in0Addr, 4 * ceilDiv l.rows 32 * blockBytes l.in0Fmt)] else [])
    ++ (if l.in1Fmt = 0xFF then [] else [(.caseMem cell l.in1Addr, 4 * ceilDiv l.rows 32 * blockBytes l.in1Fmt)])
  | _ => []

def vinstrWrites (t : State) (cell : Nat) (i : VInstr) : List Rng :=
  match i.op with
  | .st => laneRanges cell i.f
  | .ast => [(.caseMem cell i.f.addr.toNat, lanePartialBytes)]
  | .topkm => [(.caseMem cell i.f.addr.toNat, 64 * i.f.vc)]
  | .lig =>
    let l := readLig t cell i.f.addr.toNat
    (List.range 2).filterMap (fun n =>
      let f := l.outFmt.getD n 0xFF
      if f = 0xFF then none else some (.caseMem cell (l.outAddr.getD n 0), 4 * ceilDiv l.rows 32 * blockBytes f))
  | _ => []

/-- What an item reads; promotion slots only when asked, since only a promoted tile is read there (R471). -/
def itemReads (t : State) (slots : Bool) (cell : Nat) (it : Item) : List Rng :=
  ((itemBlocks t cell it).flatMap (blockSides t slots)) ++
  match it.body with
  | .pass d =>
    let kb := passBlocks t d
    (if d.reuse then [] else [(Endpoint.caseMem cell d.weightAddr, 4 * kb * blockBytes d.weightFmt)])
    ++ (List.range 4).filterMap (fun a =>
        if d.rows.getD a 0 = 0 then none
        else some (.caseMem cell (d.streamAddr.getD a 0), 4 * ceilDiv (d.rows.getD a 0) 32 * blockBytes d.streamFmt))
    ++ (match d.rowMaskAddr with
      | some a => [(.caseMem cell a, 256)]
      | none => [])
  | .drain d =>
    (if d.fusedAdd then [(.caseMem cell d.addend, stripBytes d (blockBytes d.addendFmt))] else [])
    ++ (if d.fusedMul then [(.caseMem cell d.multiplicand, stripBytes d (blockBytes d.multFmt))] else [])
  | .vector prog => prog.flatMap (vinstrReads t cell)
  | .bezel op d => bezelReads op d
  | .transfer d => [(.caseMem cell d.src, d.length)]

/-- A pass updates an accumulator row that a drain reads. -/
def passMeets (p : PassDesc) (d : DrainDesc) : Bool :=
  p.tensor = d.tensor && (List.range 4).any (fun a =>
    bitOf d.arrays a && decide (p.accBase < d.accFirst + d.rows ∧ d.accFirst < p.accBase + p.rows.getD a 0))

/-- Bytes of a tile that a drain that is not final stores: those of its part, where the passes before it in its forme record cover the part,
and else those of a long tile (R92, R93; log entry 16). -/
def storedTile (t : State) (it : Item) (d : DrainDesc) : Nat :=
  match t.image.img, tabEntry t d.tensor with
  | some i, some te =>
    let items := (((i.formes ++ i.cont.flatMap (·.formes)).find? (fun f => f.items.contains it)).map (·.items)).getD []
    let ks := (items.takeWhile (· != it)).foldl (fun l x => match x.body with
      | .pass p => if passMeets p d && ksApart l [(p.kFirst, 128)] then ksInsert l (p.kFirst, 128) else l
      | _ => l) []
    let part := partOf te (ksFirst ks)
    if te.rounded && ksCover (part * partWidth te) (Nat.min ((part + 1) * partWidth te) te.k) ks then partBytes t te d.tensor part
    else longTileBytes
  | _, _ => longTileBytes

def itemWrites (t : State) (cell : Nat) (it : Item) : List Rng :=
  ((itemQuants t cell it).flatMap (quantSides t true)) ++
  match it.body with
  | .pass _ => []
  | .drain d =>
    (if d.final then (match d.outFmt with
        | some f => [(.caseMem cell d.dst, stripBytes d (blockBytes f))]
        | none => [])
      else [(.caseMem cell d.dst, stripBytes d (storedTile t it d))])
    ++ (if d.topk then [(.caseMem cell d.topkDst, 64 * (stripRows d).length)] else [])
  | .vector prog => prog.flatMap (vinstrWrites t cell)
  | .bezel op d => bezelWrites op d
  | .transfer d => [(.caseMem d.dstCell d.dst, d.length)]

/-- The 4 KiB pages of one cell's case memory among ranges (R34); a fenced cell's ranges lie in the cell that runs its
forme (R246). -/
def casePages (t : State) (cell : Nat) (l : List Rng) : List Nat :=
  l.foldl (fun acc r => match r.1 with
    | .caseMem c o => if redirect t c = cell then (pagesOf 4096 o r.2).foldl insertNat acc else acc
    | _ => acc) []

/-- The 64 KiB pages of HBM among ranges. -/
def hbmPages (l : List Rng) : List Nat :=
  l.foldl (fun acc r => match r.1 with
    | .hbm a => (pagesOf 65536 a r.2).foldl insertNat acc
    | _ => acc) []

/-- Two ranges share a byte. -/
def rangesMeet (x y : Rng) : Bool :=
  match x.1, y.1 with
  | .hbm a, .hbm b => a < b + y.2 && b < a + x.2
  | .caseMem c a, .caseMem d b => c = d && a < b + y.2 && b < a + x.2
  | _, _ => false

/-! ### Durations (R238) -/

/-- The weight wait of R110 at a swap behind a pass with `work` cycles. -/
def weightWait (work load : Nat) : Nat := if work < load then load - work + 48 else 0

/-- A pass with `m` fed rows (R238); `prev` is the work of the pass before it, for which a swap may wait (R110). -/
def passCycles (t : State) (m q : Nat) (prev : Option Nat) (runStart : Bool) (d : PassDesc) : Nat :=
  ceilDiv ((passWork m d + d.inclBudget) * 64) q + (if runStart then 288 else 0)
    + (if d.reuse then 0 else match prev with
      | some w => weightWait w (loadCycles d.weightFmt (passBlocks t d))
      | none => 0)

/-- ⌈log2 n⌉. -/
def log2Up (n : Nat) : Nat := if n ≤ 1 then 0 else (n - 1).log2 + 1

/-- A drain (R238). -/
def drainCycles (t : State) (d : DrainDesc) : Nat :=
  let s := match tabEntry t d.tensor with
    | some te => partCount te
    | none => 1
  48 + d.rows + (if d.final then d.rows * log2Up s else 0) + (if d.topk then d.rows else 0)
    + (match d.final, d.outFmt with
      | true, some f => if fmtNarrow f then 160 else 0
      | _, _ => 0)

/-- Bank cycles of LD and ST (R153): the largest number of distinct 32-byte words in one of 32 banks. -/
def bankCycles (f : VFields) : Nat :=
  let words := (List.range (laneNum f.w)).foldl (fun l i => insertNat l ((laneOffset f i).toNat / 32)) []
  (List.range 32).foldl (fun m b => Nat.max m (words.filter (fun w => w % 32 = b)).length) 0

/-- The cost of a ligature instruction (R166). -/
def ligCost (d : LigDesc) (word : Nat) : Nat :=
  let op := word / p2 26
  if op = 0x20 then (if d.accExact && word % 2 = 0 then 4 else 1)
  else if 0x10 ≤ op && op ≤ 0x13 then 2
  else if op = 0x14 || op = 0x15 then 4
  else 1

/-- A LIG instruction (R167). -/
def ligCycles (d : LigDesc) : Nat :=
  16 + d.rows * (d.program.map (ligCost d)).sum + (if d.outFmt.any fmtNarrow then 160 else 0)

/-- One vector instruction (R152). -/
def vinstrCycles (t : State) (cell : Nat) (i : VInstr) : Nat :=
  match i.op with
  | .ld | .st => 8 + bankCycles i.f
  | .exp2 | .log2 | .rcp | .rsqrt => 10
  | .tanh | .erf | .aadd | .around | .ald | .ast => 12
  | .redsum | .redmax | .redmin | .scan | .afold | .ascan => 16
  | .lig => ligCycles (readLig t cell i.f.addr.toNat)
  | .topkm => 8 + 2 * i.f.vc
  | _ => 9

/-- The bytes of an HBM page that ranges cover. -/
def pageCover (l : List Rng) (k : Nat) : Nat :=
  (l.map (fun r => match r.1 with
    | .hbm a => Nat.min (a + r.2) (65536 * (k + 1)) - Nat.max a (65536 * k)
    | _ => 0)).sum

/-- What an operation writes: its data, and its quantizers' lists and map bytes (R470). -/
def opWrites (t : State) (cell op : Nat) (d : BezelDesc) : List Rng :=
  bezelWrites op d ++ (bodyQuants t cell (.bezel op d)).flatMap (quantSides t false)

/-- The bytes of tile format maps that an operation reads, one a tile (R471). Promotion slots and wider tiles are no load-time knowledge: the
repeat allowance covers them (R239). -/
def mapReads (t : State) (op : Nat) (d : BezelDesc) : Nat :=
  ((bezelBlocks op d).foldl (fun (l : List (Nat × Nat)) x =>
    if !fmtNarrow x.2.1 then l
    else match findBlock t x.1 with
      | some (tensor, n, _) => insertPair l (tensor, n)
      | none => l) []).length

/-- The HBM pages that an operation writes as local writes (R177): no additions into delta pages, and nothing that comes from a host buffer. -/
def localPagesOf (t : State) (cell op : Nat) (d : BezelDesc) : List Nat :=
  if op = 0x09 || fromHost d then [] else hbmPages (opWrites t cell op d)

/-- Bytes that an operation reads and writes (R190), with 2 × 65,536 for each HBM page it is the first to write in the frame as a local write
and does not cover (R177). -/
def bezelBytes (t : State) (cell : Nat) (seen : List Nat) (op : Nat) (d : BezelDesc) : Nat :=
  let w := opWrites t cell op d
  ((bezelReads op d ++ w).map (·.2)).sum + mapReads t op d
    + 131072 * ((localPagesOf t cell op d).filter (fun k => !seen.contains k && pageCover w k < 65536)).length

/-- t of R190 in units of 1 / 940,000 µs. -/
def bezelTime (bytes : Nat) : Nat := 94000 + bytes

/-- A time of R190 in aclk cycles of a point, rounded up. -/
def bezelCycles (point bytes : Nat) : Nat := ceilDiv (bezelTime bytes * aclkKhz point) 940000000

end Sys2Proof.Machine
end

