-- ==== Sys2Proof/Machine/Loader.lean ====
section
/-! DEFINITION. The loader (R238 to R247, R473): the checks of R243 in ascending order of reason code. -/

namespace Sys2Proof.Machine
open Sys2Proof

/-- What a check looks at: the image, the places of reserved vector opcodes, the chip before the load and the chip as it
would be with the image installed, and the regions whose formes are fitted at full issue (R247). -/
structure Load where
  img : Image
  bad : List Loc
  s : State
  t : State
  full : List Nat
deriving DecidableEq, Repr

/-- The place of the first item that a test finds wrong. -/
def badItem (L : Load) (p : FormeRec → Item → Bool) : Option Loc :=
  L.img.formes.findSome? (fun r => (r.items.find? (p r)).map (fun it => (r.cell, r.forme, it.number)))

/-- The place of the first record that a test finds wrong. -/
def badRecord (L : Load) (p : FormeRec → Bool) : Option Loc := (L.img.formes.find? p).map (fun r => (r.cell, r.forme, 0xFFFF))

/-- A fault that concerns no item. -/
def whole (bad : Bool) : Option Loc := if bad then some noLoc else none

/-- The vector programs of an image. -/
def badProgram (L : Load) (p : Nat → List VInstr → Bool) : Option Loc :=
  badItem L (fun r it => match it.body with
    | .vector prog => p r.cell prog
    | _ => false)

def tabOf (L : Load) (t : Nat) : Option TabEntry := L.img.table[t]?

/-! ### Contingency sets on cells (R247) -/

/-- Put a contingency set onto cells: slot s goes to the s-th of the list (R247). -/
def setRecords (cells : List Nat) (c : ContSet) : List CaseRec × List FormeRec :=
  (c.cases.filterMap (fun r => (cells[r.cell]?).map (fun i => { r with cell := i })),
   c.formes.filterMap (fun r => (cells[r.cell]?).map (fun i => { r with cell := i })))

/-- The image with a region's contents and formes replaced by its set on cells. -/
def withSet (img : Image) (cells : List Nat) (c : ContSet) : Image :=
  let r := setRecords cells c
  { img with
    cases := img.cases.filter (fun x => cellRegion x.cell != c.region) ++ r.1
    formes := img.formes.filter (fun x => !(x.cell < 288 && cellRegion x.cell = c.region)) ++ r.2 }

/-- ACTIVE cells of a region in ascending index. -/
def activeCells (s : State) (region : Nat) : List Nat :=
  ((List.range 72).map (fun c => 72 * region + c)).filter (fun i => decide (cellState i s = .active))

/-- The load with a set, its contents written, on the region's cells of a list. -/
def onSet (L : Load) (c : ContSet) (cells : List Nat) : Load :=
  let i := withSet L.img cells c
  { L with
    img := i
    t := writeContents (setRecords cells c).1 { L.t with image := { L.t.image with img := some i } }
    full := insertNat L.full c.region }

/-- Only the formes of a region's cells. -/
def onlyRegion (L : Load) (region : Nat) : Load :=
  { L with img := { L.img with formes := L.img.formes.filter (fun r => r.cell < 288 && cellRegion r.cell = region) } }

/-- A check of items over the image and over every contingency set, whose place names the slot (log entry 28). -/
def withSets (f : Load → Option Loc) (L : Load) : Option Loc :=
  (f L).orElse (fun _ => L.img.cont.findSome? (fun c =>
    let cells := activeCells L.s c.region
    (f (onlyRegion (onSet L c cells) c.region)).map (fun l => (if l.1 < 288 then cells.idxOf l.1 else l.1, l.2))))

/-! ### 0x01xx -/

/-- The fields of a ligature descriptor lie in their ranges (R163, R473). -/
def ligFieldsOk (L : Load) (cell a : Nat) : Bool :=
  let d := readLig L.t cell a
  let b := fun (o n : Nat) => (caseBytes L.t cell (a + o) n).all (· == 0)
  a % 64 = 0 && 1 ≤ d.count && d.count ≤ 32 && d.in0Src ≤ 1 && (caseByte L.t cell (a + 7)).toNat < 4 && d.quant < 4
    && 1 ≤ d.rows && d.rows ≤ 128 && d.colMask < 8 && b 45 3 && b 52 12
    && (d.in0Src = 0 || d.in0Addr % 64 = 0) && (d.in1Fmt = 0xFF || d.in1Addr % 64 = 0)
    && (List.range 2).all (fun n => d.outFmt.getD n 0xFF = 0xFF || (d.outAddr.getD n 0 % 64 = 0 && d.outTensor.getD n 0 < L.img.table.length))

/-- Fields of vector instructions that no later check names (R153, R159, R473). -/
def vectorFieldsBad (L : Load) (cell : Nat) (prog : List VInstr) : Bool :=
  prog.any (fun i => match i.op with
    | .lig => i.f.addr.toNat + 96 ≤ p2 23 && !ligFieldsOk L cell i.f.addr.toNat
    | .azero => i.f.addr.toNat / 8192 % 8 != 0 || i.f.addr.toNat / 65536 ≥ L.img.table.length
    | .topkm => i.f.vc = 0 || i.f.vc > 128
    | .ld | .st => (List.range (laneNum i.f.w)).any (fun l => laneOffset i.f l % (laneBits i.f.w / 8 : Nat) != 0)
    | _ => false)

/-- A range of a bezel operation that is no multiple of 32 and does not end at the tensor's edge, that runs beyond the tensor's blocks
(R191), or an MX axis whose length is no multiple of 32 (R76). A lane partial is one row (R161). -/
def rangeFieldBad (L : Load) (op : Nat) (d : BezelDesc) : Bool :=
  match tabOf L d.tensor with
  | none => true
  | some t =>
    let edge := fun (first n : Nat) (size : Nat) => (n % 32 = 0 || first + n = size) && first + n ≤ align size 32
    let fits := edge d.rowFirst d.rows t.rows && edge d.colFirst d.cols t.cols
    let turned := edge d.rowFirst d.rows t.cols && edge d.colFirst d.cols t.rows
    if op = 0x01 || (op = 0x09 && d.srcFmt = 0xFF && d.rows = 1) then false
    else if op = 0x03 then !fits && !turned
    else !fits || ((op = 0x06 || op = 0x07)
      && !mxFits (d.aux % 2 = 0) t (if op = 0x06 then d.srcCols else d.dstCols))

/-- Bytes of a placement (R131, R134, R135, R138, R174, R216 to R218, R233). -/
def placeBytes (L : Load) (r : MemRec) : Nat :=
  match tabOf L r.tensor with
  | none => 0
  | some t =>
    match r.role with
    | 0x01 => 64 * r.tileCount
    | 0x02 => match nextWider t.format t.gradient with
      | some w => tileBytes w * r.tileCount
      | none => 0
    | 0x03 => r.tileCount
    | 0x04 => 256 + align t.cols 64
    | 0x05 => align t.cols 64
    | 0x06 => 16 * longTileBytes * r.tileCount
    | 0x07 => 65536 * r.tileCount
    | 0x08 => 16 * 2112 * r.tileCount
    | _ => tileBytes t.format * r.tileCount

/-- A memory-plan record that covers tiles beyond its tensor, or runs beyond the HBM address space (R173, R233, R473). -/
def planBeyond (L : Load) (r : MemRec) : Bool :=
  (match tabOf L r.tensor with
    | some t => decide (ceilDiv t.rows 128 * ceilDiv t.cols 128 < r.tileFirst + r.tileCount)
    | none => true)
  || (match r.place with
    | .hbm a => decide (p2 39 < a + placeBytes L r)
    | _ => false)

/-- The faults that no later check names (R473). An acc_base beyond 511 is one where no row makes it a fault of the accumulator check (R105,
R243). -/
def checkHeader (L : Load) : Option Loc :=
  (whole (L.img.plan.any (planBeyond L))).orElse (fun _ =>
    (badProgram L (vectorFieldsBad L)).orElse (fun _ => badItem L (fun _ it => match it.body with
      | .bezel op d => 1 ≤ op && op ≤ 0x0A && rangeFieldBad L op d
      | .pass d => d.accBase = 512 && d.rows.all (· = 0)
      | _ => false)))

def checkMap (L : Load) : Option Loc := whole (L.img.cellMap != cellMapBytes L.s)

def checkRate (L : Load) : Option Loc :=
  whole (L.img.hdr.tickRate != rateCode L.s.tick.rate || L.img.hdr.maxOffset > 500 || L.s.env.offset > L.img.hdr.maxOffset)

/-! ### 0x02xx -/

/-- The lowest rung and the format at load of R143. -/
def ladderBad (t : TabEntry) : Bool :=
  if t.sensitive then false
  else if t.format = 6 then t.lowest != 6
  else
    let named := t.lowest = 3 || t.lowest = 4 || t.lowest = 0 || t.lowest = 5 || (t.lowest = 1 && !t.gradient)
      || (t.lowest = 2 && t.gradient)
    !named || !((ladder t.lowest t.gradient).dropWhile (· != t.lowest)).contains t.format

/-- A format code that its place does not allow (R61). -/
def codeBad (L : Load) (r : FormeRec) (it : Item) : Bool :=
  match it.body with
  | .pass d => d.streamFmt > 5 || d.weightFmt > 5
  | .drain d => (match d.outFmt with
      | some f => !fmtLegal f
      | none => false) || !fmtLegal d.addendFmt || !fmtLegal d.multFmt
  | .vector prog => (ligsOf L.t r.cell prog).any (fun l =>
      !fmtLegal l.in0Fmt || (l.in0Src = 0 && l.in0Fmt != 6) || !(fmtLegal l.in1Fmt || l.in1Fmt = 0xFF)
        || l.outFmt.any (fun f => !(fmtLegal f || f = 0xFF)))
  | .bezel op d =>
    let mx := op = 6 || op = 7
    let ok := fun (f : Nat) => fmtLegal f || (mx && 8 ≤ f && f ≤ 10)
    !(ok d.srcFmt || (op = 9 && d.srcFmt = 0xFF)) || !ok d.dstFmt
  | .transfer _ => false

def checkFormat (L : Load) : Option Loc :=
  (whole (L.img.table.any (fun t => !fmtLegal t.format || ladderBad t))).orElse (fun _ => badItem L (codeBad L))

/-- A chase format with an integer format (R103). -/
def checkPair (L : Load) : Option Loc :=
  badItem L (fun _ it => match it.body with
    | .pass d => (d.streamFmt ≤ 2 && (d.weightFmt = 3 || d.weightFmt = 4)) || ((d.streamFmt = 3 || d.streamFmt = 4) && d.weightFmt ≤ 2)
    | _ => false)

def checkSensitive (L : Load) : Option Loc :=
  whole (L.img.table.any (fun t => t.sensitive && (fmtNarrow t.format || t.inclBudget != 0)))

/-- Where an array of a pass streams a tensor: the tensor and its start row inside its tile (R132, R471). -/
def streamPlace (L : Load) (cell : Nat) (d : PassDesc) (a : Nat) : Option (Nat × Nat) :=
  if d.rows.getD a 0 = 0 then none
  else
    match findBlock L.t (.caseMem cell (d.streamAddr.getD a 0)) with
    | some (tensor, _, b) => some (tensor, b)
    | none => none

def checkInclusion (L : Load) : Option Loc :=
  (whole (L.img.table.any (fun t => t.inclBudget > 64))).orElse (fun _ =>
    badItem L (fun r it => match it.body with
      | .pass d => d.inclBudget > 64 || (List.range 4).any (fun a => match streamPlace L r.cell d a with
          | some (tensor, b) => match tabOf L tensor with
            | some t => t.inclBudget > 0 && (d.inclBudget != t.inclBudget || b / 4 != 0 || d.kFirst % 128 != 0)
            | none => false
          | none => false)
      | _ => false))

def splitBad (t : TabEntry) : Bool :=
  let kPad := ceilDiv t.k 32 * 32
  !(t.parts = 1 || t.parts = 2 || t.parts = 4 || t.parts = 8)
    || (t.rounded && t.k != 0 && (kPad % t.parts != 0 || kPad / t.parts % 32 != 0 || kPad / t.parts > p2 20))

def checkSplit (L : Load) : Option Loc :=
  (whole (L.img.table.any splitBad)).orElse (fun _ =>
    badItem L (fun _ it => match it.body with
      | .pass d => d.kFirst % 32 != 0 || d.kFirst / p2 20 != (d.kFirst + 127) / p2 20 || (match tabOf L d.tensor with
          | some t => t.k = 0
          | none => true)
      | _ => false))

/-- The vector registers that an instruction names exist (R150). -/
def registersOk (i : VInstr) : Bool :=
  let v := fun (n : Nat) => n < 32
  let f := i.f
  match i.op with
  | .ld | .ldg => v f.vd
  | .st => v f.va
  | .add | .sub | .mul | .max | .min => v f.vd && v f.va && (v f.vb || f.vb = 0xFF)
  | .fma => v f.vd && v f.va && (v f.vb || f.vb = 0xFF) && v f.vc
  | .abs | .neg | .exp2 | .log2 | .rcp | .rsqrt | .tanh | .erf | .cvt | .redsum | .redmax | .redmin => v f.vd && v f.va
  | .sel => v f.vd && v f.va && (v f.vb || f.vb = 0xFF) && f.vc < 8
  | .cmplt | .cmple | .cmpeq => v f.va && (v f.vb || f.vb = 0xFF)
  | .mand | .mor => f.va < 8 && f.vb < 8
  | .mnot => f.va < 8
  | .scan => v f.vd && v f.va && (v f.vb || f.vb = 0xFF) && f.vc < 8
  | .azero | .afold | .ald => f.vd < 4
  | .aadd => f.vd < 4 && v f.va
  | .around => v f.vd && f.va < 4
  | .ascan => v f.vd && v f.va && f.vb < 4 && f.vc < 8
  | .ast => f.va < 4
  | .lig | .topkm => true

/-- Operand counts of the opcodes of R166 and R223; none where the opcode is reserved. -/
def ligArity (op : Nat) : Option Nat :=
  if op = 0x01 || op = 0x08 || op = 0x09 || (0x0E ≤ op && op ≤ 0x16) || (0x20 ≤ op && op ≤ 0x23) then some 1
  else if op = 0x05 || op = 0x0A then some 3
  else if (0x02 ≤ op && op ≤ 0x07) || (0x0B ≤ op && op ≤ 0x0D) then some 2
  else none

/-- One word of a program is legal after temporaries `tmp` have been written: unused fields 0, selectors legal and written,
modifiers legal (R164 to R166). `top` is the last legal selector; `ops` says which opcodes the place allows. -/
def ligWordOk (top : Nat) (ops : Nat → Bool) (tmp : List Nat) (w : Nat) : Bool :=
  let op := w / p2 26
  let dst := bitsOf w 25 22
  let m := w % 16
  let sel := fun (x : Nat) => if x < 16 then tmp.contains x else x ≤ top
  match ligArity op with
  | none => false
  | some n => ops op && sel (bitsOf w 21 16) && (if 2 ≤ n then sel (bitsOf w 15 10) else bitsOf w 15 10 = 0)
      && (if 3 ≤ n then sel (bitsOf w 9 4) else bitsOf w 9 4 = 0)
      && (if op = 0x0A then m ≤ 3 else if op = 0x20 then m ≤ 1 else m = 0) && (op < 0x20 || dst = 0)

/-- A whole program: each word legal, each output and ACCR at most once. -/
def ligProgramOk (top : Nat) (ops : Nat → Bool) (prog : List Nat) : Bool :=
  (prog.foldl (fun (x : Bool × List Nat) w =>
    (x.1 && ligWordOk top ops x.2 w, if w / p2 26 < 0x20 then insertNat x.2 (bitsOf w 25 22) else x.2)) (true, [])).1
    && [0x20, 0x21, 0x22, 0x23].all (fun o => (prog.filter (fun w => w / p2 26 = o)).length ≤ 1)

def ligBad (d : LigDesc) : Bool :=
  !ligProgramOk 0x20 (fun o => o != 0x16 && o != 0x23) d.program || !(d.rowReg < 32 || d.rowReg = 0xFF) || !(d.colReg < 32 || d.colReg = 0xFF)
    || (if d.accExact then d.accReg ≥ 4 else d.accReg ≥ 32)

/-- The words of a custom update program (R223); no section of the image holds them (log entry 10). -/
def customOk (i : Nat) : Bool :=
  let w := (Config.customProgram i).map (·.toNat)
  1 ≤ w.length && w.length ≤ 32 && ligProgramOk 0x24 (fun o => o != 0x20) w

def checkOpcode (L : Load) : Option Loc :=
  (L.bad.head?).orElse (fun _ =>
    (badItem L (fun r it => match it.body with
      | .vector prog => prog.any (fun i => !i.legal || !registersOk i) || (ligsOf L.t r.cell prog).any ligBad
      | .bezel op d => !(1 ≤ op && op ≤ 0x0A) || !formatsFit op d
      | _ => false)).orElse (fun _ =>
        whole (L.img.opt.any (fun e => !(e.program ≤ 2 || (0x80 ≤ e.program && e.program < 0x90 && customOk (e.program - 0x80)))))))

/-- The values that can reach the long words of the registers of a cell, and of the lane partials that a forme has stored (R159): per
register its declared count and the count of each lane, and per stored partial the count of each lane by its place. -/
structure Terms where
  regs : SMap (Nat × List Nat)
  stored : SMap (List Nat)
  beyond : Bool
deriving DecidableEq, Repr

/-- Values reach the lanes of a register. -/
def Terms.add (r : Nat) (f : Nat → Nat) (x : Terms) : Terms :=
  let c := SMap.getD x.regs r (1, List.replicate 128 0)
  let n := (List.zip (List.range 128) c.2).map (fun p => p.2 + f p.1)
  { x with regs := SMap.put x.regs r (c.1, n), beyond := x.beyond || n.any (fun v => decide (c.1 < v)) }

/-- The key of a place on this chip that may hold a lane partial. -/
def termKey : Endpoint → Option Nat
  | .caseMem c o => some (caseKey c o)
  | .hbm a => some (p2 40 + a)
  | _ => none

/-- The stored partials inside a range of bytes also stand where the range goes. -/
def Terms.move (src dst : Endpoint) (n : Nat) (x : Terms) : Terms :=
  match termKey src, termKey dst with
  | some a, some b =>
    let moved := x.stored.filter (fun p => decide (a ≤ p.1 ∧ p.1 + lanePartialBytes ≤ a + n))
    { x with stored := moved.foldl (fun m p => SMap.put m (b + (p.1 - a)) p.2) x.stored }
  | _, _ => x

/-- A partial adds into a buffer (R194): its values reach what stands there. -/
def Terms.addInto (src dst : Endpoint) (x : Terms) : Terms :=
  match termKey src, termKey dst with
  | some a, some b =>
    let p := SMap.getD x.stored a (List.replicate 128 1)
    let q := SMap.getD x.stored b (List.replicate 128 0)
    { x with stored := SMap.put x.stored b (List.zipWith (· + ·) p q) }
  | _, _ => x

/-- The stored partials behind a bezel operation (R193): COPY and REBLOCK move bytes, REDUCE_INIT empties a buffer, and REDUCE_ADD of a row
adds lane partials. -/
def Terms.bezel (op : Nat) (d : BezelDesc) (x : Terms) : Terms :=
  match op with
  | 0x01 => x.move d.src d.dst d.rows
  | 0x02 => (rangeBlocks d).foldl (fun x pq =>
      x.move (srcBlock d (blockBytes d.srcFmt) pq.1 pq.2) (dstBlock d (blockBytes d.srcFmt) pq.1 pq.2) (blockBytes d.srcFmt)) x
  | 0x08 => (rangeBlocks d).foldl (fun (x : Terms) pq => match termKey (dstBlock d longTileBytes pq.1 pq.2) with
      | some b => { x with stored := SMap.put x.stored b (List.replicate 128 0) }
      | none => x) x
  | 0x09 => if d.srcFmt != 0xFF || d.rows != 1 then x
    else (rangeBlocks d).foldl (fun x pq => x.addInto (srcBlock d longTileBytes pq.1 pq.2) (dstBlock d longTileBytes pq.1 pq.2)) x
  | _ => x

/-- The values that reach the long-word registers after one more instruction (R159). A lane that a mask may leave out counts, since it can
be active; AFOLD brings the lanes of its register together; a partial that no AST of this image has stored counts one value a lane (DEDUCED,
log entry 28). -/
def countTerms (t : State) (cell : Nat) (x : Terms) (i : VInstr) : Terms :=
  match i.op with
  | .azero =>
    let n := i.f.addr.toNat / 256 % 32
    { x with regs := SMap.put x.regs i.f.vd (p2 n, List.replicate 128 0), beyond := x.beyond || decide (20 < n) }
  | .aadd => x.add i.f.vd (fun _ => 1)
  | .ald =>
    let p := SMap.getD x.stored (caseKey cell i.f.addr.toNat) (List.replicate 128 1)
    x.add i.f.vd (fun l => p.getD l 0)
  | .ast => { x with stored := SMap.put x.stored (caseKey cell i.f.addr.toNat) (SMap.getD x.regs i.f.va (1, List.replicate 128 0)).2 }
  | .ascan => x.add i.f.vb (fun l => if l = 0 then 128 else 0)
  | .afold =>
    let c := SMap.getD x.regs i.f.vd (1, List.replicate 128 0)
    ({ x with regs := SMap.put x.regs i.f.vd (c.1, List.replicate 128 0) } : Terms).add i.f.vd (fun l => if l = 0 then c.2.sum else 0)
  | .lig =>
    let d := readLig t cell i.f.addr.toNat
    if d.accExact && d.program.any (fun w => w / p2 26 = 0x20 && w % 2 = 0) then x.add d.accReg (fun l => if l < d.rows then 128 else 0) else x
  | _ => x

/-- The term counts behind one item of a record, and the place of the first item where they are too large. -/
def itemTerms (L : Load) (r : FormeRec) (x : Terms × Option Loc) (it : Item) : Terms × Option Loc :=
  match it.body with
  | .vector prog =>
    let y := prog.foldl (countTerms L.t r.cell) { x.1 with beyond := false }
    (y, if x.2.isSome then x.2 else if y.beyond then some (r.cell, r.forme, it.number) else none)
  | .transfer d => (x.1.move (.caseMem r.cell d.src) (.caseMem d.dstCell d.dst) d.length, x.2)
  | .bezel op d => (x.1.bezel op d, x.2)
  | _ => x

/-- The term counts behind one step: the records of an image in the order in which their formes run, each with empty registers (R33). -/
def stepTerms (L : Load) (x : Terms × Option Loc) : Terms × Option Loc :=
  let rs := (List.range (L.img.formes.foldl (fun m r => Nat.max m (r.forme + 1)) 0)).flatMap (fun k => L.img.formes.filter (·.forme = k))
  rs.foldl (fun x r => r.items.foldl (itemTerms L r) ({ x.1 with regs := [] }, x.2)) x

/-- So many steps, one behind the other. -/
def stepsTerms (L : Load) : Nat → Terms × Option Loc → Terms × Option Loc
  | 0, x => x
  | n + 1, x => stepsTerms L n (stepTerms L x)

/-- The first item whose terms are too many (R159). A partial that one step leaves for the next is followed over as many steps as there are
such places; one that still grows then grows with every step, beyond any count (DEDUCED, log entry 28). -/
def termsBad (L : Load) : Option Loc :=
  let x := stepTerms L ({ regs := [], stored := [], beyond := false }, none)
  let y := stepsTerms L (x.1.stored.length + 1) x
  let z := stepTerms L y
  let grown := z.1.stored.map (fun p => (p.1, if SMap.get? y.1.stored p.1 = some p.2 then p.2 else List.replicate 128 (p2 21)))
  (stepTerms L ({ z.1 with stored := grown }, z.2)).2

/-- An item with an AZERO writes a page that it reads (R162). -/
def rereads (L : Load) (r : FormeRec) (it : Item) : Bool :=
  match it.body with
  | .vector prog =>
    let w := casePages L.t r.cell (itemWrites L.t r.cell it)
    prog.any (fun i => decide (i.op = .azero)) && (casePages L.t r.cell (itemReads L.t true r.cell it)).any (fun k => w.contains k)
  | _ => false

def checkTerms (L : Load) : Option Loc := (termsBad L).orElse (fun _ => badItem L (rereads L))

/-- A use of a stream id: its item, the id, the classes its place allows, the tensor it names (none: any), its element range. -/
structure StreamUse where
  loc : Loc
  id : W32
  classes : List Nat
  tensor : Option Nat
  row0 : Nat
  rows : Nat
  col0 : Nat
  cols : Nat
deriving DecidableEq, Repr

/-- A ligature reads the random operand (R165). -/
def readsRandom (d : LigDesc) : Bool :=
  d.program.any (fun w => bitsOf w 21 16 = 0x20 || bitsOf w 15 10 = 0x20 || bitsOf w 9 4 = 0x20)

/-- The stream ids of an item (R207): its quantizers that round stochastically, and ligatures that read selector 0x20. A ligature names one
id, so it is one use, of class 0x1 where it reads the random operand and else of class 0x0; a drain's is of class 0x0 (R237), and a QUANTIZE
that rounds a gradient may name class 0x2 (DEDUCED, log entry 28). -/
def itemStreams (L : Load) (r : FormeRec) (it : Item) : List StreamUse :=
  let l : Loc := (r.cell, r.forme, it.number)
  match it.body with
  | .vector prog => (ligsOf L.t r.cell prog).filterMap (fun d =>
      let outs := (List.range 2).filter (fun n => let f := d.outFmt.getD n 0xFF; f != 0xFF && f != 6 && bitOf d.quant 1)
      if outs.isEmpty && !readsRandom d then none
      else some { loc := l, id := d.stream, classes := if readsRandom d then [1] else [0]
                  tensor := if readsRandom d then none else outs.head?.map (fun n => d.outTensor.getD n 0)
                  row0 := d.rowFirst, rows := d.rows, col0 := d.colFirst, cols := 128 })
  | _ => ((itemQuants L.t r.cell it).filter (fun q => bitOf q.ctl 1 && q.fmt != 6)).map (fun q =>
    { loc := l, id := q.stream, classes := match it.body, tabOf L q.tensor with
        | .bezel _ _, some t => if t.gradient then [0, 2] else [0]
        | _, _ => [0]
      tensor := some q.tensor, row0 := q.row0, rows := q.rows, col0 := q.col0, cols := q.cols })

/-- The ids of the optimizer entries (R220). -/
def optStreams (L : Load) : List StreamUse :=
  L.img.opt.map (fun e => { loc := noLoc, id := e.stream, classes := [4], tensor := some e.master, row0 := 0,
                            rows := ((tabOf L e.master).map (·.rows)).getD 0, col0 := 0, cols := ((tabOf L e.master).map (·.cols)).getD 0 })

def streamFieldBad (L : Load) (u : StreamUse) : Bool :=
  !u.classes.contains (u.id.toNat / p2 28) || (match u.tensor with
    | some t => u.id.toNat % 65536 != t
    | none => u.id.toNat % 65536 ≥ L.img.table.length)

/-- Two uses draw for one element under one id: uses of an id that divide a tensor among them are one use (DEDUCED, log entry 28). -/
def streamsClash (a b : StreamUse) : Bool :=
  a.id = b.id && a.row0 < b.row0 + b.rows && b.row0 < a.row0 + a.rows && a.col0 < b.col0 + b.cols && b.col0 < a.col0 + a.cols

def checkStreams (L : Load) : Option Loc :=
  let all := L.img.formes.flatMap (fun r => r.items.flatMap (itemStreams L r)) ++ optStreams L
  ((List.zip (List.range all.length) all).find? (fun x => streamFieldBad L x.2 || (all.take x.1).any (streamsClash x.2))).map (·.2.loc)

/-- A quantizer of a chase or integer tensor: whole tiles, and every placement it needs (R470). -/
def quantBad (L : Load) (q : Quant) : Bool :=
  match tabOf L q.tensor with
  | none => true
  | some te =>
    fmtNarrow q.fmt
      && (q.row0 % 128 != 0 || q.col0 % 128 != 0 || !(q.rows % 128 = 0 || te.rows ≤ q.row0 + q.rows)
        || !(q.cols % 128 = 0 || te.cols ≤ q.col0 + q.cols)
        || (match q.space with
          | none => true
          | some sp => (coverTiles te q.row0 q.rows q.col0 q.cols).any (fun n =>
              (mapByteOf L.t q.tensor n sp).isNone || (slotOf L.t q.tensor n sp).isNone
                || (te.inclBudget > 0 && (listOf L.t q.tensor n sp).isNone))))

/-- A stored block of a chase or integer tensor without its placements (R471). -/
def blockBad (L : Load) (x : Endpoint × Nat × Space) : Bool :=
  fmtNarrow x.2.1 && (match findBlock L.t x.1 with
    | none => true
    | some (tensor, n, _) => (mapByteOf L.t tensor n x.2.2).isNone || (slotOf L.t tensor n x.2.2).isNone)

def checkTiles (L : Load) : Option Loc :=
  badItem L (fun r it => (itemQuants L.t r.cell it).any (quantBad L) || (itemBlocks L.t r.cell it).any (blockBad L))

/-! ### 0x03xx -/

def rangeBeyond (x : Rng) : Bool :=
  match x.1 with
  | .caseMem _ o => o + x.2 > p2 23
  | _ => false

/-- LD and ST lanes below 0 or beyond case memory (R153). -/
def lanesBeyond (prog : List VInstr) : Bool := prog.any (fun i => (i.op = .ld || i.op = .st) && !offsetsFit i.f)

/-- A case-memory placement beyond 8 MiB. -/
def placedBeyond (L : Load) (r : MemRec) : Bool :=
  match r.place with
  | .caseMem _ o => o + placeBytes L r > p2 23
  | _ => false

def checkCase (L : Load) : Option Loc :=
  (whole (L.img.plan.any (placedBeyond L))).orElse (fun _ => ((L.img.cases.find? (fun c => c.off + c.bytes.length > p2 23)).map (fun c => ((c.cell, 0xFFFF, 0xFFFF) : Loc))).orElse (fun _ =>
    badItem L (fun r it => (itemReads L.t true r.cell it).any rangeBeyond || (itemWrites L.t r.cell it).any rangeBeyond
      || (match it.body with
        | .vector prog => lanesBeyond prog
        | _ => false))))

def checkAcc (L : Load) : Option Loc :=
  badItem L (fun _ it => match it.body with
    | .pass d => d.rows.any (fun n => d.accBase + n > 512)
    | .drain d => d.accFirst + d.rows > 512
    | _ => false)

/-- Galley positions that a program reads, and those it releases (R148). -/
def galleyUse (t : State) (cell : Nat) (prog : List VInstr) : List Nat × List Nat :=
  prog.foldl (fun (x : List Nat × List Nat) i => match i.op with
    | .ldg => let p := i.f.addr.toNat % 8; (insertNat x.1 p, if i.f.release then insertNat x.2 p else x.2)
    | .lig =>
      let d := readLig t cell i.f.addr.toNat
      if d.in0Src = 1 then x
      else let p := d.in0Addr % 8; (insertNat x.1 p, if d.release || i.f.release then insertNat x.2 p else x.2)
    | _ => x) ([], [])

/-- Tiles in the galley through a record, in forme order: the place where a position is unfilled or more than 8 wait. -/
def galleyBad (L : Load) (r : FormeRec) : Option Loc :=
  (r.items.foldl (fun (x : Nat × Option Loc) it =>
    let here : Loc := (r.cell, r.forme, it.number)
    match it.body with
    | .drain d =>
      let n := x.1 + galleyNeed d
      (n, if x.2.isSome then x.2 else if n > 8 then some here else none)
    | .vector prog =>
      let u := galleyUse L.t r.cell prog
      (x.1 - u.2.length, if x.2.isSome then x.2 else if u.1.any (fun p => x.1 ≤ p) then some here else none)
    | _ => x) (0, none)).2

def checkGalley (L : Load) : Option Loc := L.img.formes.findSome? (galleyBad L)

/-- The cells that the image's work touches. -/
def usedCells (L : Load) : List Nat :=
  let own := L.img.formes.foldl (fun l r => if r.cell < 288 then insertNat l r.cell else l) []
  L.img.formes.foldl (fun l r => r.items.foldl (fun l it =>
    (itemWrites L.t r.cell it).foldl (fun l x => match x.1 with
      | .caseMem c _ => insertNat l c
      | _ => l) l) l) (L.img.cases.foldl (fun l c => insertNat l c.cell) own)

/-- The cells whose case memory the image's work reads. -/
def readCells (L : Load) : List Nat :=
  L.img.formes.foldl (fun l r => r.items.foldl (fun l it =>
    (itemReads L.t false r.cell it).foldl (fun l x => match x.1 with
      | .caseMem c _ => if c < 288 then insertNat l (redirect L.t c) else l
      | _ => l) l) l) []

/-- Forme indices that have work. -/
def usedFormes (L : Load) : List Nat := L.img.formes.foldl (fun l r => insertNat l r.forme) []

/-- Pages of a cell that one frame writes, whoever writes them. -/
def pagesWritten (L : Load) (cell forme : Nat) : List Nat :=
  (L.img.formes.filter (fun r => r.forme = forme)).foldl (fun l r => r.items.foldl (fun l it =>
    (casePages L.t cell (itemWrites L.t r.cell it)).foldl insertNat l) l) []

/-- The byte ranges of one cell's case memory among ranges: first byte, and the byte behind the last. -/
def caseSpans (t : State) (cell : Nat) (l : List Rng) : List (Nat × Nat) :=
  l.filterMap (fun r => match r.1 with
    | .caseMem c o => if redirect t c = cell && 0 < r.2 then some (o, o + r.2) else none
    | _ => none)

/-- Add a span to spans that are sorted and lie apart. -/
def addSpan : List (Nat × Nat) → Nat × Nat → List (Nat × Nat)
  | [], x => [x]
  | y :: rest, x =>
    if x.2 < y.1 then x :: y :: rest
    else if y.2 < x.1 then y :: addSpan rest x
    else addSpan rest (Nat.min x.1 y.1, Nat.max x.2 y.2)

/-- The pages on which a span has a byte outside written spans. -/
def unwritten (done : List (Nat × Nat)) (x : Nat × Nat) : List Nat :=
  (pagesOf 4096 x.1 (x.2 - x.1)).filter (fun k =>
    !done.any (fun w => w.1 ≤ Nat.max x.1 (4096 * k) && Nat.min x.2 (4096 * (k + 1)) ≤ w.2))

/-- Pages of a cell of which a record reads a byte that it has not written before in the frame (R245). The order of two records' items in
one frame is not fixed, so each record counts by itself (DEDUCED, log entry 29). -/
def pagesReadFirst (L : Load) (slots : Bool) (cell : Nat) (r : FormeRec) : List Nat :=
  (r.items.foldl (fun (x : List Nat × List (Nat × Nat)) it =>
    (((caseSpans L.t cell (itemReads L.t slots r.cell it)).flatMap (unwritten x.2)).foldl insertNat x.1,
     (caseSpans L.t cell (itemWrites L.t r.cell it)).foldl addSpan x.2)) ([], [])).1

/-- The records that touch a cell's case memory: a bezel unit's, its own, and those of cells that read there. -/
def readsFirst (L : Load) (slots : Bool) (cell : Nat) : List Nat :=
  L.img.formes.foldl (fun l r => (pagesReadFirst L slots cell r).foldl insertNat l) []

/-- Pages of a cell that some forme writes. -/
def everWritten (L : Load) (cell : Nat) : List Nat :=
  (usedFormes L).foldl (fun l f => (pagesWritten L cell f).foldl insertNat l) []

/-- Pages of a cell that the contents section fills (R234). -/
def filledPages (L : Load) (cell : Nat) : List Nat :=
  L.img.cases.foldl (fun l c => if c.cell = cell then (pagesOf 4096 c.off c.bytes.length).foldl insertNat l else l) []

/-- The carry set of a cell (R245): written by a frame and read by a later one, the next step's included. -/
def carrySet (L : Load) (cell : Nat) : List Nat :=
  let w := everWritten L cell
  (readsFirst L true cell).filter (fun k => w.contains k)

/-- The case pages and carry sets of cells (R245). -/
def carryBad (L : Load) (cells : List Nat) : Option Loc :=
  (cells.findSome? (fun c =>
      let w := everWritten L c
      let fl := filledPages L c
      (badRecord L (fun r => (pagesReadFirst L false c r).any (fun k => !w.contains k && !fl.contains k))).map
        (fun l => ((c, l.2.1, 0xFFFF) : Loc)))).orElse (fun _ =>
    cells.findSome? (fun c =>
      let cs := carrySet L c
      if cs.length > 256 then some (c, 0xFFFF, 0xFFFF)
      else ((usedFormes L).find? (fun f => ((pagesWritten L c f).filter (fun k => cs.contains k)).length > 64)).map
        (fun f => ((c, f, 0xFFFF) : Loc))))

def checkReadSet (L : Load) : Option Loc := carryBad L ((readCells L).foldl insertNat (usedCells L))

def checkShadow (L : Load) : Option Loc :=
  (usedCells L).findSome? (fun c =>
    ((usedFormes L).find? (fun f => (pagesWritten L c f).length > 512)).map (fun f => ((c, f, 0xFFFF) : Loc)))

/-- The classes that a role allows (R233). -/
def roleClasses (r : Nat) : List Nat :=
  match r with
  | 0x00 => [0, 2]
  | 0x01 | 0x03 => [0]
  | 0x02 => [0, 1, 2]
  | 0x04 | 0x05 => [7]
  | 0x06 => [3]
  | 0x07 => [4]
  | 0x08 => [5]
  | 0x09 | 0x0A => [1]
  | 0x0B => [6]
  | _ => []

/-- The HBM pages of a placement. -/
def placePages (L : Load) (r : MemRec) : List Nat :=
  match r.place with
  | .hbm a => pagesOf 65536 a (placeBytes L r)
  | _ => []

def placementBad (L : Load) (r : MemRec) : Bool :=
  r.cls > 9 || !(roleClasses r.role).contains r.cls
    || (match r.place with
      | .caseMem _ _ => r.cls != 0
      | _ => false)
    || (placePages L r).any (fun k => L.img.plan.any (fun q => q.cls != r.cls && (placePages L q).contains k))

/-- The chip with the contents of a contingency set in its slots (R247). -/
def slotState (L : Load) (c : ContSet) : State :=
  writeContents c.cases { L.t with caseMem := CaseSt.reset, image := { L.t.image with moves := [] } }

/-- The tensors that the items of a record name as predicted. -/
def recordPredicts (t : State) (l : List Nat) (r : FormeRec) : List Nat :=
  r.items.foldl (fun l it =>
    let l := match it.body with
      | .bezel 0x0A d => if bitOf d.quant 0 then insertNat l d.tensor else l
      | _ => l
    (itemQuants t r.cell it).foldl (fun l q => if bitOf q.ctl 0 then insertNat l q.tensor else l) l) l

/-- Tensors that some quantize control of the image names as predicted (R69, R233): its table entry, or an item of a forme or of a
contingency set. REDUCE_CLOSE quantizes under its item's control too (R193). -/
def predicted (L : Load) : List Nat :=
  let byTable := (List.range L.img.table.length).filter (fun t => match tabOf L t with
    | some e => bitOf e.quant 0
    | none => false)
  L.img.cont.foldl (fun l c => c.formes.foldl (recordPredicts (slotState L c)) l) (L.img.formes.foldl (recordPredicts L.t) byTable)

/-- A page that a forme may not touch: unmapped or private (R181). -/
def pageShut (L : Load) (k : Nat) : Bool :=
  match pageClass L.t k with
  | none => true
  | some c => classPrivate c

/-- A reduce operation outside REDUCE pages or into case memory (R193, R321). -/
def reduceBad (L : Load) (op : Nat) (d : BezelDesc) : Bool :=
  (op = 0x08 || op = 0x09) && (match d.dst with
    | .hbm _ => (hbmPages (bezelWrites op d)).any (fun k => pageClass L.t k != some 3)
    | .remote _ _ => op = 0x08
    | _ => true)

def checkPages (L : Load) : Option Loc :=
  (whole (L.img.plan.any (placementBad L)
      || (predicted L).any (fun t => !L.img.plan.any (fun r => r.role = 0x05 && r.tensor = t)))).orElse (fun _ =>
    badItem L (fun r it => (hbmPages (itemReads L.t false r.cell it ++ itemWrites L.t r.cell it)).any (pageShut L)
      || (match it.body with
        | .bezel op d => reduceBad L op d
        | _ => false)))

/-- The stack of a cell's carry area (R245). -/
def carryStack (cell : Nat) : Nat := 2 * (cell / 72) + cell % 72 / 9 % 2

/-- The pages of both snapshot slots (R244). -/
def bothSlots (i : Image) : List Nat := slotPages i.snap.where0 i.snap.bytes0 ++ slotPages i.snap.where1 i.snap.bytes1

/-- Bytes of a cell's part of the contents section (R234). -/
def contentsBytes (i : Image) (cell : Nat) : Nat := ((i.cases.filter (fun c => c.cell = cell)).map (fun c => align (16 + c.bytes.length) 64)).sum

/-- The SYSTEM pages of a cell: the 1 MiB carry area of a cell with a carry set, and the copy of its contents (R234, R245; log entry 29). -/
def systemPages (L : Load) (cell : Nat) : Nat :=
  (if (carrySet L cell).isEmpty then 0 else 16) + ceilDiv (contentsBytes L.img cell) 65536

/-- Pages that the image maps on a stack (R244, R245). -/
def pagesNeeded (L : Load) (stack : Nat) : Nat :=
  let plan := L.img.plan.foldl (fun l r => (placePages L r).foldl insertNat l) []
  (plan.filter (fun k => pageStack k = stack)).length
    + (((usedCells L).filter (fun c => carryStack c = stack)).map (systemPages L)).sum
    + ((bothSlots L.img).filter (fun k => pageStack k = stack)).length

def checkCapacity (L : Load) : Option Loc :=
  whole ((List.range 8).any (fun k => freePages L.s k < 36864 + pagesNeeded L k))

/-- HBM pages that the items of a forme index write as local writes, and as delta pages (R177). -/
def framePages (L : Load) (forme : Nat) (delta : Bool) : List Nat :=
  (L.img.formes.filter (fun r => r.forme = forme)).foldl (fun l r => r.items.foldl (fun l it =>
    let isDelta := match it.body with
      | .bezel 0x09 _ => true
      | _ => false
    if isDelta = delta then (hbmPages (itemWrites L.t r.cell it)).foldl insertNat l else l) l) []

/-- Pages that a forme index initialises for a reduction. -/
def initPages (L : Load) (forme : Nat) : List Nat :=
  (L.img.formes.filter (fun r => r.forme = forme)).foldl (fun l r => r.items.foldl (fun l it => match it.body with
    | .bezel 0x08 d => (hbmPages (bezelWrites 0x08 d)).foldl insertNat l
    | _ => l) l) []

/-- The 64 KiB pages of a cell's carry area that a forme index's mirrors write (R245). -/
def carryPages (L : Load) (cell forme : Nat) : List Nat :=
  let cs := carrySet L cell
  ((pagesWritten L cell forme).filter (fun k => cs.contains k)).foldl (fun l k => insertNat l (cs.idxOf k / 16)) []

def stagingBad (L : Load) (forme : Nat) : Bool :=
  let loc := framePages L forme false
  let del := framePages L forme true
  let ini := initPages L forme
  del.any (fun k => ini.contains k)
    || (List.range 8).any (fun k =>
      let nDel := (del.filter (fun p => pageStack p = k)).length
      let nCarry := ((usedCells L).map (fun c => if carryStack c = k then (carryPages L c forme).length else 0)).sum
      nDel > 95 || (loc.filter (fun p => pageStack p = k)).length + nDel + nCarry > 4096)

def checkStaging (L : Load) : Option Loc := ((usedFormes L).find? (stagingBad L)).map (fun f => ((0xFFFF, f, 0xFFFF) : Loc))

/-! ### 0x04xx: timing (R238 to R241) -/

/-- The lanes of a record as its items run in forme order: when each is free, the previous pass's work, when each galley
position fills, HBM pages written, the start of each item and the longest item. -/
structure Lanes where
  array : Nat
  vector : Nat
  router : Nat
  bezel : Nat
  prev : Option Nat
  galley : List Nat
  seen : List Nat
  starts : List (Nat × Nat)
  longest : List (Nat × Nat)
deriving DecidableEq, Repr

/-- The fed rows of an array of a pass (R112): by the mask that the image holds, and all of them where a forme writes the mask (DEDUCED, log
entry 28). -/
def fedCount (L : Load) (cell : Nat) (d : PassDesc) (a : Nat) : Nat :=
  let n := d.rows.getD a 0
  match d.rowMaskAddr with
  | none => n
  | some m =>
    let w := everWritten L cell
    if (pagesOf 4096 m 256).any (fun k => w.contains k) then n
    else ((List.range n).filter (fun i => bitOf (caseByte L.t cell (m + 64 * a + i / 8)).toNat (i % 8))).length

/-- m of R238. -/
def fedMost (L : Load) (cell : Nat) (d : PassDesc) : Nat := ((List.range 4).map (fedCount L cell d)).foldl Nat.max 0

/-- One item on its lane (R238). -/
def laneItem (L : Load) (cell point q : Nat) (x : Lanes) (it : Item) : Lanes :=
  let t := L.t
  let note := fun (x : Lanes) (start dur : Nat) =>
    { x with starts := x.starts ++ [(it.number, start)], longest := x.longest ++ [(it.number, dur)] }
  match it.body with
  | .pass d =>
    let m := fedMost L cell d
    let c := passCycles t m q x.prev it.runStart d
    note { x with array := x.array + c, prev := some (passWork m d) } x.array c
  | .drain d =>
    let c := drainCycles t d
    note { x with
      array := x.array + c
      galley := x.galley ++ List.replicate (galleyNeed d) (x.array + c) } x.array c
  | .vector prog =>
    let c := 24 + (prog.map (vinstrCycles t cell)).sum
    let u := galleyUse t cell prog
    let start := u.1.foldl (fun m p => Nat.max m (x.galley.getD p 0)) x.vector
    note { x with
      vector := start + c
      galley := ((List.range x.galley.length).filter (fun i => !u.2.contains i)).map (fun i => x.galley.getD i 0) } start c
  | .transfer d =>
    let c := 16 + ceilDiv d.length 64
    note { x with router := x.router + c } x.router c
  | .bezel op d =>
    let c := bezelCycles point (bezelBytes t cell x.seen op d)
    note { x with bezel := x.bezel + c, seen := (localPagesOf t cell op d).foldl insertNat x.seen } x.bezel c

/-- The start offset of a cell in its frame (R117); a bezel unit has none. -/
def startOffset (cell : Nat) : Nat := if cell < 288 then 64 + 8 * (cell % 9) % 256 + 2 * (cell / 72) else 0

/-- The phase's fit point and issue rate (R229, R238). -/
def fitFor (i : Image) (phase : Nat) : Nat × Nat := i.hdr.fit.getD phase (0, 64)

/-- When the fit window opens, in aclk cycles of the point (R239). -/
def windowOpens (i : Image) (cell point : Nat) : Nat := startOffset cell + i.hdr.maxOffset * aclkKhz point / 10000

/-- Cycles at a position in microseconds. -/
def cyclesAt (point us : Nat) : Nat := aclkKhz point * us / 1000

/-- The start of the lock-up and the hold deadline in microseconds (R31). -/
def lockUpUs (r : TickRate) : Nat := frameUs r - 2
def deadlineUs (r : TickRate) : Nat := frameUs r * 3 / 5

/-- A record's lanes. -/
def runLanes (L : Load) (r : FormeRec) : Lanes :=
  let f := fitFor L.img r.phase
  let o := windowOpens L.img r.cell f.1
  r.items.foldl (laneItem L r.cell f.1 (if r.cell < 288 && L.full.contains (cellRegion r.cell) then 64 else f.2))
    { array := o, vector := o, router := o, bezel := o, prev := none, galley := [], seen := [], starts := [], longest := [] }

/-- A record does not fit its frame (R239): the number of the item that is too long, or 0xFFFF. -/
def timeBad (L : Load) (r : FormeRec) : Option Nat :=
  let point := (fitFor L.img r.phase).1
  let x := runLanes L r
  let o := windowOpens L.img r.cell point
  let w := cyclesAt point (lockUpUs L.s.tick.rate) - o
  let limit := o + w - ceilDiv (L.img.hdr.allowance * w) 256
  match x.longest.find? (fun p => p.2 > cyclesAt point 2) with
  | some p => some p.1
  | none => if x.array > limit || x.vector > limit || x.router > limit || x.bezel > limit then some 0xFFFF else none

def checkTime (L : Load) : Option Loc := L.img.formes.findSome? (fun r => (timeBad L r).map (fun n => ((r.cell, r.forme, n) : Loc)))

/-- The deadline item is missing, or starts at or behind the hold deadline (R39). -/
def lateDeadline (L : Load) (r : FormeRec) : Bool :=
  match (runLanes L r).starts.find? (fun p => p.1 = r.deadline) with
  | some p => cyclesAt (fitFor L.img r.phase).1 (deadlineUs L.s.tick.rate) ≤ p.2
  | none => true

def checkDeadline (L : Load) : Option Loc := (L.img.formes.find? (lateDeadline L)).map (fun r => ((r.cell, r.forme, r.deadline) : Loc))

/-- Remote bytes of an item: destination chip and length (R240). -/
def remoteBytes (L : Load) (r : FormeRec) (it : Item) : List (Nat × Nat) :=
  (itemWrites L.t r.cell it).filterMap (fun x => match x.1 with
    | .remote c _ => some (c, x.2)
    | _ => none)

/-- An item names a remote HBM endpoint. -/
def namesRemote (it : Item) : Bool :=
  match it.body with
  | .bezel _ d => [some d.src, some d.dst, d.scales].any (fun e => match e with
      | some (.remote _ _) => true
      | _ => false)
  | _ => false

/-- The ports of a mask. -/
def maskPorts (m : Nat) : List Nat := (List.range 20).filter (bitOf m)

/-- A common multiple of 1 to 20, for shares of bytes over ports. -/
def shareUnit : Nat := 232792560

/-- What one port carries in a set of records, in 1 / shareUnit bytes (R240). -/
def portLoad (L : Load) (rs : List FormeRec) (p : Nat) : Nat :=
  (rs.flatMap (fun r => (r.items.filter (·.sends)).flatMap (fun it => (remoteBytes L r it).map (fun x =>
    let ports := maskPorts (SMap.getD L.s.fabric.routes x.1 0)
    if ports.contains p then x.2 * (shareUnit / ports.length) else 0)))).sum

/-- What a port may carry in one frame, in the same unit, eight times over: 201 GB/s at 8 lanes (R240). -/
def portRoom (L : Load) (p : Nat) : Nat :=
  201 * laneCount (claspOf p L.s).lanes * (1000 * deadlineUs L.s.tick.rate - 100 * L.img.hdr.maxOffset) * shareUnit

def portsFull (L : Load) (forme : Nat) : Bool :=
  let rs := L.img.formes.filter (fun r => r.forme = forme)
  (List.range 20).any (fun p => 8 * portLoad L rs p > portRoom L p)

/-- A deferrable item that sends starts behind 40 % of the frame (R199). -/
def lateSend (L : Load) (r : FormeRec) : Option Loc :=
  let x := runLanes L r
  (r.items.find? (fun it => it.deferrable && it.sends && x.starts.any (fun p => p.1 = it.number
      && 5 * p.2 ≥ 2 * cyclesAt (fitFor L.img r.phase).1 (frameUs L.s.tick.rate)))).map (fun it => (r.cell, r.forme, it.number))

def checkClasp (L : Load) : Option Loc :=
  (badItem L (fun r it => it.sends != namesRemote it || (remoteBytes L r it).any (fun x =>
      !L.s.fabric.usable.any (bitOf (SMap.getD L.s.fabric.routes x.1 0))))).orElse (fun _ =>
    (((usedFormes L).find? (portsFull L)).map (fun f => ((0xFFFF, f, 0xFFFF) : Loc))).orElse (fun _ => L.img.formes.findSome? (lateSend L)))

/-- The bezel unit that runs an item. -/
def itemUnit (r : FormeRec) (it : Item) : Option Nat :=
  if r.cell ≥ 0x200 then some (r.cell - 0x200)
  else match it.body with
    | .bezel _ d => match d.dst, d.src with
      | .hbm a, _ => some (addrStack a)
      | _, .hbm a => some (addrStack a)
      | _, _ => none
    | _ => none

/-- The time of a unit's operations of a forme index, in the unit of bezelTime (R241). -/
def unitTime (L : Load) (unit forme : Nat) : Nat :=
  ((L.img.formes.filter (fun r => r.forme = forme)).foldl (fun (x : Nat × List Nat) r => r.items.foldl (fun x it =>
    if itemUnit r it = some unit then
      match it.body with
      | .bezel op d => (x.1 + bezelTime (bezelBytes L.t r.cell x.2 op d), (localPagesOf L.t r.cell op d).foldl insertNat x.2)
      | _ => x
    else x) x) (0, [])).1

/-- The carry mirrors of a forme index that land on a stack, timed as t (R241): each carry page once, and its 64 KiB page. -/
def carryTime (L : Load) (stack forme : Nat) : Nat :=
  ((usedCells L).map (fun c =>
    if carryStack c != stack then 0
    else
      let cs := carrySet L c
      let w := (pagesWritten L c forme).filter (fun k => cs.contains k)
      (w.length * bezelTime 4096) + 131072 * (carryPages L c forme).length)).sum

def checkBezel (L : Load) : Option Loc :=
  (List.range 8).findSome? (fun k => ((usedFormes L).find? (fun f =>
    unitTime L k f + carryTime L k f + 20 * 940000 > lockUpUs L.s.tick.rate * 940000)).map (fun f => ((0x200 + k, f, 0xFFFF) : Loc)))

/-! ### 0x05xx -/

/-- Forme indices of a step (R196). -/
def stepFormes (h : ImgHdr) : Nat := h.fwd + h.bwd + h.exch + 1 + h.opt

/-- The phase code fits the index's place (R196). -/
def phaseFits (h : ImgHdr) (r : FormeRec) : Bool :=
  if r.forme < h.fwd then r.phase = 0
  else if r.forme < h.fwd + h.bwd then r.phase = 1 || r.phase = 2
  else if r.forme < h.fwd + h.bwd + h.exch + 1 then r.phase = 5
  else r.phase = 3

/-- A deferrable item out of its place (R198). -/
def deferBad (h : ImgHdr) (r : FormeRec) (it : Item) : Bool :=
  it.deferrable && (it.latest != r.forme || it.latest < it.earliest || it.earliest < h.fwd || h.fwd + h.bwd ≤ it.latest)

/-- The first frame in which an item may run. -/
def firstFrame (r : FormeRec) (it : Item) : Nat := if it.deferrable then it.earliest else r.forme

/-- The last frame in which an item may run. -/
def lastFrame (r : FormeRec) (it : Item) : Nat := if it.deferrable then it.latest else r.forme

/-- An item reads a deferrable item's output before the tick that commits its latest forme (R201): in a frame in which that output may stand,
from the item's earliest forme on. -/
def readsEarly (L : Load) (r : FormeRec) (it : Item) : Bool :=
  let mine := itemReads L.t true r.cell it
  L.img.formes.any (fun q => q.items.any (fun w =>
    w.deferrable && decide (firstFrame r it ≤ w.latest ∧ w.earliest ≤ lastFrame r it) && !(q.cell = r.cell && w.number = it.number)
      && (itemWrites L.t q.cell w).any (fun x => mine.any (rangesMeet x))))

/-- What the replicas of the working copies take from one port over the optimizer frames behind the first, in which UPDATE writes them
(R225, R226). -/
def replicaLoad (L : Load) (p : Nat) : Nat :=
  ((L.img.plan.filter (fun r => r.role = 0x0A)).map (fun r =>
    let ports := maskPorts (SMap.getD L.s.fabric.routes r.peer 0)
    if ports.contains p then placeBytes L r * (shareUnit / ports.length) else 0)).sum

/-- How far ranges cover a range from a start. -/
def coverEnd (rs : List (Nat × Nat)) : Nat → Nat → Nat
  | 0, x => x
  | n + 1, x =>
    match rs.find? (fun r => decide (r.1 ≤ x ∧ x < r.1 + r.2)) with
    | some r => coverEnd rs n (r.1 + r.2)
    | none => x

/-- What COPY items of the optimizer frames behind the first send to a chip: source address and length (R225). -/
def replicaSends (L : Load) (peer : Nat) : List (Nat × Nat) :=
  let h := L.img.hdr
  (L.img.formes.filter (fun r => decide (h.fwd + h.bwd + h.exch + 2 ≤ r.forme))).flatMap (fun r => r.items.filterMap (fun it =>
    match it.body with
    | .bezel 0x01 d => (match d.src, d.dst with
      | .hbm a, .remote c _ => if c = peer then some (a, d.rows) else none
      | _, _ => none)
    | _ => none))

/-- A tile of a replica that no COPY of a later optimizer frame sends (R225, R226). -/
def replicaUnsent (L : Load) : Bool :=
  (L.img.plan.filter (fun r => r.role = 0x0A)).any (fun r =>
    let rs := replicaSends L r.peer
    match tabOf L r.tensor with
    | none => true
    | some te => (List.range r.tileCount).any (fun i =>
        match sidePlace L.t 0x09 r.tensor (r.tileFirst + i) .chip with
        | some (.hbm a, k) =>
          let b := a + k * tileBytes te.format
          decide (coverEnd rs rs.length b < b + tileBytes te.format)
        | _ => true))

def checkShape (L : Load) : Option Loc :=
  let h := L.img.hdr
  (whole (h.fwd = 0 || h.bwd = 0 || h.opt = 0 || stepFormes h > 65536
      || !L.img.plan.any (fun r => r.role = 0x06 && r.tileCount > 0) || L.img.energy.length != stepFormes h
      || (List.range 20).any (fun p => 8 * replicaLoad L p > (h.opt - 1) * portRoom L p) || replicaUnsent L)).orElse (fun _ =>
    (badRecord L (fun r => stepFormes h ≤ r.forme || !phaseFits h r
        || L.img.formes.any (fun q => q.forme = r.forme && q.phase != r.phase))).orElse (fun _ =>
      badItem L (fun r it => (r.cell < 288 && h.fwd + h.bwd ≤ r.forme) || deferBad h r it || readsEarly L r it)))

/-- ⌈log_f m⌉: levels of a tree of fanout f (R331). -/
def treeLevels (f m : Nat) : Nat := ((List.range 14).find? (fun l => m ≤ f ^ l)).getD 14

/-- Stages of a group's algorithm (R331). -/
def groupStages (g : Group) : Nat :=
  if g.algorithm = 0 then 1 else if g.algorithm = 1 then 2 * (g.members.length - 1) else 2 * treeLevels g.fanout g.members.length

/-- The checks of reason 0x0502 against a group table (R243, R289). -/
def groupsMissing (img : Image) (groups : List Group) (me : Nat) : Bool :=
  let found := img.groups.filterMap (fun i => groups.find? (fun g => g.index = i))
  found.length != img.groups.length || found.any (fun g => !g.members.contains me)
    || (match found.find? (·.step) with
      | some g => groupStages g != img.hdr.exch
      | none => true)

/-- The checks of reason 0x0503 (R203). -/
def groupsWrong (img : Image) (groups : List Group) : Bool :=
  img.table.any (fun t => t.gradient && t.rounded)
    || img.plan.any (fun r => r.role = 0x06 && (match img.table[r.tensor]? with
      | some t => t.rounded
      | none => false))
    || (img.groups.filterMap (fun i => groups.find? (fun g => g.index = i))).any (fun g => g.step && g.partials = 1)

def checkGroups (L : Load) : Option Loc := whole (groupsMissing L.img L.s.fabric.groups L.s.dev.fabric)

def checkAlgorithm (L : Load) : Option Loc := whole (groupsWrong L.img L.s.fabric.groups)

/-! ### 0x06xx, 0x07xx -/

/-- The bytes of the masters and moments placements (R244). -/
def ownBytes (L : Load) : Nat := ((L.img.plan.filter (fun r => r.role = 7 || r.role = 8)).map (placeBytes L)).sum

def checkSnapshot (L : Load) : Option Loc :=
  let n := L.img.snap
  let a := slotPages n.where0 n.bytes0
  let b := slotPages n.where1 n.bytes1
  let plan := L.img.plan.flatMap (placePages L)
  whole (n.own != ownBytes L || n.bytes0 = 0 || n.bytes1 = 0 || n.where0 % 65536 != 0 || n.where1 % 65536 != 0
    || n.where0 ≥ p2 39 || n.where1 ≥ p2 39
    || n.where0 / 65536 % p2 20 + (ceilDiv n.bytes0 65536 + 255) / 8 ≥ p2 20
    || n.where1 / 65536 % p2 20 + (ceilDiv n.bytes1 65536 + 255) / 8 ≥ p2 20
    || a.any (fun k => b.contains k) || (a ++ b).any (fun k => plan.contains k))

/-- The blocks, by number on the chip, that the spare plan lists for a block (R245). -/
def spareBlocks (plan : List Byte) (block : Nat) : List Nat :=
  ((sliceB plan (8 * block) 8).map (·.toNat)).takeWhile (· != 0xFF) |>.map (fun e => 8 * (block / 8) + e)

/-- The SPARE cell with the lowest index of a block. -/
def spareIn (s : State) (block : Nat) : Option Nat :=
  ((List.range 9).map (fun c => 9 * block + c)).find? (fun i => decide (cellState i s = .spare))

/-- The spares that a cell's forme may move to. -/
def sparesFor (L : Load) (cell : Nat) : List Nat :=
  let b := cell / 9
  (b :: spareBlocks L.img.sparePlan b).flatMap (fun k =>
    ((List.range 9).map (fun c => 9 * k + c)).filter (fun i => decide (cellState i L.s = .spare)))

/-- A record does not fit at another cell's start offset (R239, R245): it ends too late, or its deadline item starts too late. -/
def offBad (L : Load) (r : FormeRec) (cell : Nat) : Bool :=
  let point := (fitFor L.img r.phase).1
  let x := runLanes L r
  let o := windowOpens L.img r.cell point
  let o2 := windowOpens L.img cell point
  let w := cyclesAt point (lockUpUs L.s.tick.rate) - o2
  let limit := o2 + w - ceilDiv (L.img.hdr.allowance * w) 256
  let shift := fun (c : Nat) => c + o2 - o
  shift x.array > limit || shift x.vector > limit || shift x.router > limit || shift x.bezel > limit
    || x.starts.any (fun p => p.1 = r.deadline && cyclesAt point (deadlineUs L.s.tick.rate) ≤ shift p.2)

/-- A block holds a SPARE cell in the image's cell map (R25, R245). -/
def blockHasSpare (i : Image) (block : Nat) : Bool :=
  (List.range 9).any (fun c => ((i.cellMap.getD ((9 * block + c) / 4) 0).toNat / p2 (2 * ((9 * block + c) % 4))) % 4 == 1)

def checkSpares (L : Load) : Option Loc :=
  (whole ((List.range 32).any (fun b => ((sliceB L.img.sparePlan (8 * b) 8).map (·.toNat)).takeWhile (· != 0xFF) |>.any (fun e =>
      8 ≤ e || !blockHasSpare L.img (8 * (b / 8) + e))))).orElse (fun _ =>
    badRecord L (fun r => r.cell < 288 && (sparesFor L r.cell).any (offBad L r)))

/-- A set that does not fit, or breaks the carry limits, on the cells that its slots can go to (R247). What other records write into its
cells counts for the limits. -/
def setBad (L : Load) (c : ContSet) : Bool :=
  [0, 1].any (fun k =>
    let full := onSet L c ((activeCells L.s c.region).drop k)
    let mine := onlyRegion full c.region
    (checkTime mine).isSome || (checkDeadline mine).isSome || (carryBad full ((readCells mine).foldl insertNat (usedCells mine))).isSome)

def checkContingency (L : Load) : Option Loc := whole (L.img.cont.any (setBad L))

/-! ### All of them -/

/-- The checks of R243 in ascending order of reason. -/
def loaderChecks : List (Nat × (Load → Option Loc)) :=
  [(0x0101, withSets checkHeader), (0x0102, checkMap), (0x0103, checkRate), (0x0201, withSets checkFormat), (0x0202, withSets checkPair),
   (0x0203, checkSensitive), (0x0204, withSets checkInclusion), (0x0205, withSets checkSplit), (0x0206, withSets checkOpcode),
   (0x0207, withSets checkTerms), (0x0208, withSets checkStreams), (0x0209, withSets checkTiles), (0x0301, checkCase), (0x0302, checkAcc), (0x0303, checkGalley),
   (0x0304, checkReadSet), (0x0305, checkShadow), (0x0306, checkPages), (0x0307, checkCapacity), (0x0308, checkStaging),
   (0x0401, checkTime), (0x0402, checkDeadline), (0x0403, checkClasp), (0x0404, checkBezel), (0x0501, checkShape),
   (0x0502, checkGroups), (0x0503, checkAlgorithm), (0x0601, checkSnapshot), (0x0701, checkSpares), (0x0702, checkContingency)]

/-- The first check from a reason on that fails (R243): its reason and place. -/
def firstFailure (from' : Nat) (L : Load) : Option (Nat × Loc) :=
  loaderChecks.findSome? (fun c => if c.1 < from' then none else (c.2 L).map (fun l => (c.1, l)))

end Sys2Proof.Machine
end

