-- ==== Sys2Proof/Machine/Loading.lean ====
section
/-! DEFINITION. Loading and unloading images, routes and groups (R289, R293, R294, R326, R329, R330, R435). -/

namespace Sys2Proof.Machine
open Sys2Proof

/-! ### Mapping an image (R231, R234, R244, R245) -/

/-- The first place in a stack, from `t` on, where every page of a list finds an unmapped page at one distance (log entry 7). -/
def findRoom (used moved : List Nat) (low : Nat) : Nat → Nat → Nat
  | 0, t => t % p2 20
  | n + 1, t =>
    if moved.all (fun k => k - low + t % p2 20 < p2 20 && !used.contains (k - low + t % p2 20)) then t % p2 20
    else findRoom used moved low n (t + 1)

/-- The first of `n` unmapped pages of a stack that lie together (log entry 7). -/
def systemBase (stack n : Nat) (s : State) : Nat :=
  let used := (s.hbm.map.filter (fun p => pageStack p.1 = stack)).map (fun p => p.1 % p2 20)
  stack * p2 20 + findRoom used (List.range n) 0 (p2 20) (Config.pageStart s.hbm.pageIdx)

/-- Map `n` pages of class SYSTEM on a stack for firmware's own data (R176, R234, R245). -/
def mapSystem (stack n : Nat) (s : State) : State :=
  (List.range n).foldl (fun t k => mapPage 9 (systemBase stack n s + k) t) (onHbm (fun h => { h with pageIdx := h.pageIdx + 1 }) s)

/-- The chip with the image's tables, step record and contents, but no page mapped (R231, R232, R234). -/
def withImage (i : Image) (s : State) : State :=
  writeContents i.cases { s with
    image := { ImageSt.reset with img := some i }
    step := { StepSt.reset with
      table := i.table
      record := { StepRec.reset with applied := i.applied, attempted := i.attempted, seed := i.seed, normLeading := i.normLeading } }
    frame := s.frame.clearWork
    stats := StatsSt.reset }

def mkLoad (i : Image) (bad : List Loc) (s : State) : Load := { img := i, bad := bad, s := s, t := withImage i s, full := [] }

/-- Map the pages of the plan and of the snapshot slots (R175, R233, R244). -/
def mapPlan (L : Load) (s : State) : State :=
  (bothSlots L.img).foldl (fun s k => mapPage 8 k s)
    (L.img.plan.foldl (fun s r => (placePages L r).foldl (fun s k => mapPage r.cls k s) s) s)

/-- A cell's part of the contents section, as firmware copies it (R234). -/
def contentsCopy (i : Image) (cell : Nat) : List Byte :=
  (i.cases.filter (fun r => r.cell = cell)).flatMap (fun r =>
    leBytes 2 r.cell ++ leBytes 2 0 ++ leBytes 4 r.off ++ leBytes 4 r.bytes.length ++ leBytes 4 0
      ++ sliceB r.bytes 0 (align (16 + r.bytes.length) 64 - 16))

/-- The mirrors of a cell's carry pages start as the pages stand. -/
def fillMirrors (cell : Nat) (s : State) : State :=
  (s.cells.carry.filter (fun k => k / 2048 = cell)).foldl (fun t k => match mirrorAt t k with
    | some a => hbmPut a (Memory.readN t.caseMem.mem (k * 4096) 4096) t
    | none => t) s

/-- The carry set and the SYSTEM pages of one cell: its carry area and the copy of its contents, on the stack of R245 (log entry 29). -/
def mapCell (L : Load) (s : State) (c : Nat) : State :=
  let n := systemPages L c
  if n = 0 then s
  else
    let base := systemBase (carryStack c) n s
    let cs := carrySet L c
    let s1 := onCells (fun x => { x with
      carry := cs.foldl (fun l k => insertNat l (c * 2048 + k)) x.carry
      system := SMap.put x.system c base }) (mapSystem (carryStack c) n s)
    hbmPut (65536 * (base + if cs.isEmpty then 0 else 16)) (contentsCopy L.img c) (fillMirrors c s1)

/-- Carry sets, and the SYSTEM pages of their areas and of the copies of the contents. -/
def mapCarry (L : Load) (cells : List Nat) (s : State) : State := cells.foldl (mapCell L) s

/-- Every forecast vector reads 0xFE (R231). -/
def fillForecasts (L : Load) (s : State) : State :=
  L.img.plan.foldl (fun s r => match r.role, r.place with
    | 0x05, .hbm a => hbmPut a (List.replicate (placeBytes L r) 0xFE) s
    | _, _ => s) s

/-- The chip with the image mapped (R293). -/
def mapImage (L : Load) : State := fillForecasts L (mapCarry L (usedCells L) (mapPlan L L.t))

/-- The image enters the assay log (R435). -/
def assayImage (digest : List Byte) (s : State) : State :=
  onIdent (fun d => { d with
    chain := sha256 (d.chain ++ digest)
    images := (d.images ++ [digest]).drop (d.images.length + 1 - 64) }) s

/-- The 8 bytes of a REFUSED_FIT (R293). -/
def locBytes (l : Loc) : List Byte := leBytes 2 l.1 ++ leBytes 2 l.2.1 ++ leBytes 2 l.2.2 ++ zeros 2

/-- IMAGE_LOAD_DONE (R243, R293): the verdict, and the image mapped when it fits. -/
def runLoadDone (s : State) : State :=
  match s.image.loading with
  | none => s
  | some b =>
    let s0 := onImage (fun i => { i with loading := none }) s
    if s.dev.state != .ready then finishCmd 0x40 stRetire 0 [] s0
    else
      match parseImage b with
      | .error l => finishCmd 0x40 stRefusedFit 0x0101 (locBytes l) s0
      | .ok p =>
        let L := mkLoad p.image p.bad s0
        let M := { L with t := mapPlan L L.t }
        match firstFailure 0 M with
        | some (r, l) => finishCmd 0x40 stRefusedFit r (locBytes l) s0
        | none => finishCmd 0x40 stDone 0 p.image.digest (setState .loaded (assayImage p.image.digest (mapImage L)))

def execImageLoadDone (s : State) : Out := effect (onlyIf (coreRuns s) runLoadDone) s

/-! ### Tables (R326, R329, R330) -/

/-- A route table is well formed. -/
def routesOk (b : List Byte) : Bool :=
  b.length = 262208 && fieldN b 0 4 = 0x434C5254 && fieldN b 4 2 = 1 && zeroField b 6 58
    && (List.range 65536).all (fun a => fieldN b (64 + 4 * a) 4 < p2 20) && fieldN b (64 + 4 * 65535) 4 = 0

/-- Its entries that name a port. -/
def routesOf (b : List Byte) : SMap Nat :=
  (List.range 65536).filterMap (fun a => let m := fieldN b (64 + 4 * a) 4; if m = 0 then none else some (a, m))

/-- Entry `i` of a group table (R329). -/
def groupEntry (b : List Byte) (i : Nat) : Group :=
  let o := 64 + 32 * i
  let m := fieldN b (o + 6) 2
  let g : Group := {
    index := fieldN b o 2
    algorithm := fieldN b (o + 2) 1
    partials := fieldN b (o + 3) 1
    fanout := fieldN b (o + 4) 1
    step := bitOf (fieldN b (o + 5) 1) 0
    timeout := fieldN b (o + 8) 4
    members := (List.range m).map (fun j => fieldN b (fieldN b (o + 12) 4 + 2 * j) 2)
    schedule := [] }
  let sch := fieldN b (o + 16) 4
  { g with schedule := if sch = 0 then [] else (List.range (groupStages g)).map (fun k => fieldN b (sch + 4 * k) 4) }

/-- One entry is well formed for the chip at an address (R329, R330). -/
def groupOk (me : Nat) (b : List Byte) (i : Nat) : Bool :=
  let o := 64 + 32 * i
  let m := fieldN b (o + 6) 2
  let list := fieldN b (o + 12) 4
  let sch := fieldN b (o + 16) 4
  let g := groupEntry b i
  g.index < 1024 && g.algorithm ≤ 2 && g.partials ≤ 1
    && (if g.algorithm = 2 then 2 ≤ g.fanout && g.fanout ≤ 8 else g.fanout = 0)
    && fieldN b (o + 5) 1 < 2 && 2 ≤ m && m ≤ 8192 && 16 ≤ g.timeout && g.timeout ≤ 16777215 && zeroField b (o + 20) 12
    && list % 64 = 0 && list + align (2 * m) 64 ≤ b.length && zeroField b (list + 2 * m) (align (2 * m) 64 - 2 * m)
    && (sch = 0 || sch + 4 * groupStages g ≤ b.length) && g.schedule.all (· < p2 20)
    && decide g.members.Nodup && !g.members.contains 0xFFFF && g.members.contains me
    && !(g.algorithm = 0 && g.partials = 1) && !(g.algorithm = 2 && g.partials = 1 && g.fanout != 2)

def groupsOk (me : Nat) (b : List Byte) : Bool :=
  let n := fieldN b 6 2
  let l := (List.range n).map (groupEntry b)
  64 + 32 * n ≤ b.length && fieldN b 0 4 = 0x434C4752 && fieldN b 4 2 = 1 && 1 ≤ n && n ≤ 1024 && zeroField b 8 56
    && (List.range n).all (groupOk me b) && decide ((l.map (·.index)).Nodup) && (l.filter (·.step)).length ≤ 1

/-- A route table has arrived: it installs at the next tick, when the command completes (R289, R326). -/
def gotRoutes (b : List Byte) (s : State) : State :=
  if routesOk b then onFabric (fun f => { f with routesNext := some (routesOf b, b) }) s
  else finishCmd 0x31 stBadArgument 0 [] s

/-- A group table has arrived (R289, R330). -/
def gotGroups (b : List Byte) (s : State) : State :=
  if !groupsOk s.dev.fabric b then finishCmd 0x32 stBadArgument 0 [] s
  else
    let l := (List.range (fieldN b 6 2)).map (groupEntry b)
    match s.image.img with
    | some i =>
      if groupsMissing i l s.dev.fabric then finishCmd 0x32 stRefusedFit 0x0502 [] s
      else if groupsWrong i l then finishCmd 0x32 stRefusedFit 0x0503 [] s
      else onFabric (fun f => { f with groupsNext := some (l, b) }) s
    | none => onFabric (fun f => { f with groupsNext := some (l, b) }) s

/-! ### Commands that read host memory -/

/-- The 24-byte layout of R289: binding, offset and length. -/
def tableArgs (c : Cmd) (s : State) : Bool := c.argLen = 24 && c.zero 1 7 && rangeOk s c.port (c.n 0 1) (c.n 8 8) (c.n 16 8)

/-- Read a command's bytes through its binding now, or wait for it (R267). -/
def startRead (op : Nat) (got : List Byte → State → State) (data : List Byte) (c : Cmd) (s : State) : State :=
  let b := sliceB data 0 (c.n 16 8)
  let s1 := c.accept op [] s
  if dmaReady s (write := false) (c.n 0 1) then got b s1
  else onMbx (fun m => { m with dma := m.dma ++ [{ opcode := op, binding := c.n 0 1, write := false, offset := c.n 8 8, bytes := b }] }) s1

/-- LOAD_ROUTES (R289, R326). -/
def execLoadRoutes (data : List Byte) (s : State) : Out := effect (command 0x0031 tableArgs (startRead 0x31 gotRoutes data)) s

/-- LOAD_GROUPS (R289, R329, R330). -/
def execLoadGroups (data : List Byte) (s : State) : Out := effect (command 0x0032 tableArgs (startRead 0x32 gotGroups data)) s

/-- The bytes of an image wait for their checks (R293). -/
def gotImage (b : List Byte) (s : State) : State := onImage (fun i => { i with loading := some b }) s

/-- LOAD_IMPOSITION (R293). -/
def execLoadImposition (data : List Byte) (s : State) : Out := effect (command 0x0040 tableArgs (startRead 0x40 gotImage data)) s

/-! ### UNLOAD (R294) -/

/-- UNLOAD is ACCEPTED. -/
def execUnload (s : State) : Out := effect (command 0x0041 noArgs (fun c s => c.accept 0x41 [] s)) s

/-- Every page unmapped and the image gone (R294): the records of the batches not yet retired, the step's accepted one first, complete
with WRONG_STATE. The holds of the frame in progress stand (R43), and a chip that R47 stopped stays unaligned. No rule clears case memory:
its committed bytes stay (log entry 38). -/
def discardImage (s : State) : State :=
  let s0 := (s.step.accepted.toList ++ s.step.batches).foldl (fun s b => batchRecord b stWrongState b.attemptTag.toNat s) s
  let s1 := s0.hbm.weak.foldl (fun s r => repairRow r.1 r.2 s) s0
  { s1 with
    image := ImageSt.reset
    step := StepSt.reset
    frame := s1.frame.clearWork
    stats := StatsSt.reset
    fabric := { s1.fabric with waits := [], contrib := [], contribStaged := [] }
    caseMem := { CaseSt.reset with mem := s1.caseMem.mem }
    cells := { s1.cells with eng := [], carry := [], system := [], unchecked := [], galleyWait := [] }
    hbm := { s1.hbm with
      mem := []
      map := []
      taken := []
      localB := []
      localPages := []
      carried := []
      carPages := []
      deltaLocal := []
      deltaIn := []
      deltaPages := []
      ranges := []
      poison := []
      poisonStaged := []
      poisonIn := []
      fullStacks := []
      failedOnce := []
      migrated := []
      regenWords := [] }
    snap := { s1.snap with nextGen := 0, held0 := none, held1 := none, latestGen := none, proven := false, run := none, proofFor := none, proofRecs := [], serves := [], tails := [],
                             restore := none }
    dev := { s1.dev with unaligned := if s1.tick.aligned then s1.dev.lostTick else s1.dev.unaligned
                         stalled := false, uncontrolled := false, leaseHold := false } }

/-- UNLOAD_DONE (R294): READY with UNLOAD DONE. -/
def runUnloadDone (s : State) : State :=
  if (acceptedOp s 0x41).isSome && (s.dev.state = .loaded || s.dev.state = .held) then
    finishCmd 0x41 stDone 0 [] (setState .ready (discardImage s))
  else s

def execUnloadDone (s : State) : Out := effect (onlyIf (coreRuns s) runUnloadDone) s

end Sys2Proof.Machine
end

