-- ==== Sys2Proof/Machine/Snap.lean ====
section
/-! DEFINITION. Snapshots, partners, restore, proof and export (R298 to R302, R338 to R357). -/

namespace Sys2Proof.Machine
open Sys2Proof

/-! ### What a generation holds (R338, R339) -/

/-- Bytes of a moments tile (R217). -/
def momentTile : Nat := 16 * momentBytes

/-- The tiles of a tensor's placements of a role in row-major tile order: address of each tile. -/
def ownedAddrs (s : State) (role tensor bytes : Nat) : List Nat :=
  (((planOf s).filter (fun r => r.role = role && r.tensor = tensor)).foldl (fun (m : SMap Nat) r => match r.place with
    | .hbm a => (List.range r.tileCount).foldl (fun m i => SMap.put m (r.tileFirst + i) (a + bytes * i)) m
    | _ => m) []).map (·.2)

/-- The stream of masters and moments as pieces of HBM: address and length (R338). -/
def genPieces (s : State) : List (Nat × Nat) :=
  match s.image.img with
  | none => []
  | some i => i.opt.flatMap (fun e =>
      (ownedAddrs s 7 e.master 65536).map (fun a => (a, 65536)) ++ (ownedAddrs s 8 e.master momentTile).map (fun a => (a, momentTile)))

/-- B: the bytes of masters and moments. -/
def genBytes (s : State) : Nat := ((genPieces s).map (·.2)).sum

/-- A format and leading table entry as R231 lays it out. -/
def TabEntry.bytes (t : TabEntry) : List Byte :=
  leBytes 1 t.format ++ leBytesI 1 t.leading ++ leBytes 1 t.quant
    ++ leBytes 1 (bitAt t.sensitive 0 + bitAt t.gradient 1 + bitAt t.rounded 2) ++ leBytes 1 t.inclBudget ++ leBytes 1 t.lowest
    ++ leBytes 1 t.parts ++ zeros 1 ++ leBytes 4 t.rows ++ leBytes 4 t.cols ++ leBytes 4 t.k ++ leBytes 4 t.declaredN ++ zeros 8

/-- Padded to a multiple of 64. -/
def padded (b : List Byte) : List Byte := sliceB b 0 (align b.length 64)

/-- Where the forecast vector of a tensor lies: every placement holds all of it. -/
def forecastCopies (s : State) (t : Nat) : List Nat :=
  (planOf s).filterMap (fun r => match r.place with
    | .hbm a => if r.role = 0x05 && r.tensor = t then some a else none
    | _ => none)

/-- The forecast vectors in tensor order: the addresses of each, and its length. -/
def forecastPlaces (s : State) : List (List Nat × Nat) :=
  (List.range s.step.table.length).filterMap (fun t => match forecastCopies s t, tabEntry s t with
    | a :: rest, some e => some (a :: rest, e.cols)
    | _, _ => none)

/-- The tables area (R339): each part on a 64-byte boundary. -/
def genTables (s : State) : List Byte :=
  padded s.step.record.bytes ++ padded (s.step.table.map TabEntry.bytes).flatten
    ++ padded (s.step.table.map (fun t => BitVec.ofNat 8 t.calm))
    ++ padded ((forecastPlaces s).flatMap (fun p => hbmBytes s (p.1.headD 0) p.2)) ++ padded s.fabric.groupBytes ++ padded s.fabric.routeBytes

/-- The 64 bytes of a generation header (R340). -/
def GenHdr.image (g : GenHdr) : List Byte :=
  leBytes 4 0x47534E50 ++ leBytes 2 1 ++ leBytes 2 g.identity ++ leBytes 8 g.generation.toNat ++ leBytes 8 g.bytes ++ leBytes 4 g.tables
    ++ leBytes 1 (bitAt g.complete 0 + bitAt g.exposed 1 + bitAt g.damaged 2 + bitAt g.failed 3) ++ zeros 3
    ++ leBytes 8 g.cut.toNat ++ leBytes 8 g.applied.toNat ++ leBytes 8 g.attempted.toNat ++ leBytes 8 g.latest.toNat

/-- Read a header (R340). -/
def readHdr (b : List Byte) : Option GenHdr :=
  let f := fieldN b 28 1
  if 64 ≤ b.length && fieldN b 0 4 = 0x47534E50 && fieldN b 4 2 = 1 then
    some { identity := fieldN b 6 2
           generation := BitVec.ofNat 64 (fieldN b 8 8)
           bytes := fieldN b 16 8
           tables := fieldN b 24 4
           complete := bitOf f 0
           exposed := bitOf f 1
           damaged := bitOf f 2
           failed := bitOf f 3
           cut := BitVec.ofNat 64 (fieldN b 32 8)
           applied := BitVec.ofNat 64 (fieldN b 40 8)
           attempted := BitVec.ofNat 64 (fieldN b 48 8)
           latest := BitVec.ofNat 64 (fieldN b 56 8) }
  else none

/-- A usable generation (R340). -/
def GenHdr.usable (g : GenHdr) : Bool := g.complete && !g.damaged && !g.failed

/-- Where the parts of a slot begin (R339). -/
def recordOff : Nat := 65536
def tablesOff : Nat := 131072
def dataOff : Nat := 16777216

/-- The number of the slot bound to an identity. -/
def slotOfId (s : State) (id : Nat) : Option Nat :=
  if (s.snap.held0.map (·.identity)) = some id then some 0 else if (s.snap.held1.map (·.identity)) = some id then some 1 else none

def heldIn (s : State) (n : Nat) : Option GenHdr := if n = 0 then s.snap.held0 else s.snap.held1

def setHeld (n : Nat) (g : Option GenHdr) (s : State) : State :=
  onSnap (fun x => if n = 0 then { x with held0 := g } else { x with held1 := g }) s

/-- Where a slot starts, and its bytes (R244). -/
def slotBase (s : State) (n : Nat) : Option (Nat × Nat) :=
  s.image.img.map (fun i => if n = 0 then (i.snap.where0, i.snap.bytes0) else (i.snap.where1, i.snap.bytes1))

/-- The device address of a byte of a slot (R339). -/
def slotAddr (base off : Nat) : Nat := slotPage base (off / 65536) * 65536 + off % 65536

/-! ### Partners (R299, R341) -/

/-- The partner of a generation. -/
def partnerOf (s : State) (g : W64) : Nat := if g.toNat % 2 = 0 then s.snap.even else s.snap.odd

def partnerArgs (c : Cmd) (s : State) : Bool :=
  c.argLen = 12 && c.n 8 1 < 2 && c.zero 9 3
    && [c.n 0 2, c.n 4 2].all (fun a => a != s.dev.fabric && a != 0xFFFF) && c.n 0 2 != c.n 4 2

/-- SET_PARTNERS (R299). -/
def runPartners (c : Cmd) (s : State) : State :=
  let shared := s.env.feed = 0xFFFF || c.n 2 2 = s.env.feed || c.n 6 2 = s.env.feed
  let ack := bitOf (c.n 8 1) 0
  if shared && !ack then c.finish stFeedShared [] s
  else c.finish stDone [] (onSnap (fun x => { x with
    partnersSet := true, even := c.n 0 2, evenFeed := c.n 2 2, odd := c.n 4 2, oddFeed := c.n 6 2, acked := ack, exposed := shared }) s)

def execSetPartners (s : State) : Out := effect (command 0x0061 partnerArgs runPartners) s

/-! ### SNAPSHOT (R298, R345, R346) -/

/-- Stacks that hold MASTER or MOMENT pages. -/
def masterStacks (s : State) : Nat :=
  ((List.range 8).filter (fun k => s.hbm.map.any (fun p => pageStack p.1 = k && (p.2.cls = 4 || p.2.cls = 5)))).length

/-- The ports that reach a chip (R327). -/
def portsTo (s : State) (dst : Nat) : List Nat := s.fabric.usable.filter (bitOf (routeMask s dst))

/-- Eight times L of R346 in bytes per nanosecond. -/
def rateL8 (s : State) (dst : Nat) : Nat :=
  Nat.min 32000 (Nat.min (((portsTo s dst).map (fun p => 201 * laneCount (claspOf p s).lanes)).sum) (7520 * masterStacks s))

/-- The predicted stop in frames (R346). -/
def stopFrames (s : State) (dst : Nat) : Nat :=
  let l := rateL8 s dst
  if l = 0 then ceilDiv 1000000 (1000 * frameUs s.tick.rate)
  else ceilDiv (1000000 * l + 8 * genBytes s) (1000 * frameUs s.tick.rate * l)

/-- The group lists this chip. -/
def groupHere (s : State) (g : Nat) : Bool :=
  match groupAt s g with
  | some x => x.members.contains s.dev.fabric
  | none => false

def snapshotArgs (c : Cmd) (_ : State) : Bool :=
  c.argLen = 16 && c.n 0 1 < 2 && c.zero 1 1 && c.zero 4 4 && (if bitOf (c.n 0 1) 0 then c.n 8 8 != 0 else c.n 2 2 = 0)

/-- The group lists the chip, a step that the chip can still reach is named, and the tables fit their area (R298, R339). -/
def snapshotFits (c : Cmd) (s : State) : Bool :=
  (!bitOf (c.n 0 1) 0 || groupHere s (c.n 2 2))
    && (s.dev.state = .running || (s.dev.state = .held && s.frame.inStep) || c.n 8 8 = 0 || c.n 8 8 = s.step.record.applied.toNat)
    && (genTables s).length ≤ 16646144

/-- A slot transfer that has sent nothing. -/
def Xfer.new : Xfer where
  sent := []
  again := []
  done := []
  noAck := 0
  closing := false

/-- SNAPSHOT (R298, R345, R346). -/
def runSnapshot (c : Cmd) (s : State) : State :=
  let dst := partnerOf s s.snap.nextGen
  if !s.snap.partnersSet then c.finish stWrongState [] s
  else if (bitOf (c.n 0 1) 0 && s.fabric.stalled.contains (c.n 2 2)) || referencedStalled s then c.finish stGroupStalled [] s
  else if (portsTo s dst).isEmpty then c.finish stNoSnapshot [] s
  else c.accept 0x60 (leBytes 4 (stopFrames s dst)) (onSnap (fun x => { x with
    run := some { step := BitVec.ofNat 64 (c.n 8 8), group := bitOf (c.n 0 1) 0, within := decide (s.dev.state = .held) && s.frame.inStep,
                  generation := 0, due := false, frames := 0, leftRunning := false, xfer := Xfer.new } }) s)

def execSnapshot (s : State) : Out := effect (command 0x0060 snapshotArgs (checked snapshotFits runSnapshot)) s

/-! ### The stop (R347) -/

/-- The packets of a piece of a slot (R321, R347): its bytes in snapshot transfer packets, its poison words named in them. -/
def sendPiece (p : SlotPiece) (s : State) : State :=
  (List.range (ceilDiv p.bytes.length 16384)).foldl (fun s i =>
    sendData 1 { ownHdr s p.dst (p.off + 16384 * i) 0xFFFF 0xFF 0 with
      snapshot := true
      served := p.served
      listed := (p.bad.filter (fun w => w / 512 = i)).map (· % 512) } ((p.bytes.drop (16384 * i)).take 16384) s) s

/-- Pieces leave now, or in a later frame where the chip may send nothing yet. -/
def Xfer.send (ps : List SlotPiece) (now : Bool) (x : Xfer) : Xfer :=
  if now then { x with sent := x.sent ++ ps } else { x with again := x.again ++ ps }

/-- Send pieces of a slot. -/
def sendPieces (ps : List SlotPiece) (s : State) : State := flushSends (ps.foldl (fun t p => sendPiece p t) s)

/-- A piece that firmware sends: `bytes` at an offset of the slot. -/
def firmPiece (dst off : Nat) (bytes : List Byte) : SlotPiece := { dst := dst, off := off, bytes := bytes, bad := [], copy := false, served := false }

/-- The end of what ranges acknowledge from an offset on. -/
def ackedEnd (l : List (Nat × Nat × Nat)) (dst : Nat) : Nat → Nat → Nat
  | 0, at' => at'
  | n + 1, at' =>
    let next := (l.filter (fun r => r.1 = dst && r.2.1 ≤ at')).foldl (fun m r => Nat.max m (r.2.1 + r.2.2)) at'
    if next = at' then at' else ackedEnd l dst n next

/-- Every byte of a range of the slot is acknowledged. -/
def Xfer.has (x : Xfer) (dst off len : Nat) : Bool := off + len ≤ ackedEnd x.done dst x.done.length off

/-- The header, the tables and the data of a generation have been acknowledged by a chip (R347). -/
def Xfer.whole (x : Xfer) (dst tables bytes : Nat) : Bool := x.has dst 0 64 && x.has dst tablesOff tables && x.has dst dataOff bytes

/-- What the counts of the destinations acknowledge of the frame's pieces is done (R324, R347). -/
def Xfer.take (l : List SendRec) (x : Xfer) : Xfer := { x with
  sent := x.sent.filter (fun p => !ackedTo l p.dst)
  done := x.done ++ (x.sent.filter (fun p => ackedTo l p.dst)).map (fun p => (p.dst, p.off, p.bytes.length)) }

/-- A frame of a slot transfer ends (R347): what is not acknowledged goes out again. -/
def Xfer.settle (l : List SendRec) (paused : Bool) (x : Xfer) : Xfer :=
  let y := x.take l
  { y with
    sent := []
    again := y.again ++ y.sent
    noAck := if x.sent.any (fun p => decide (0 < countFrom l p.dst)) then 0 else if paused then x.noAck else x.noAck + 1 }

/-- The closing header has gone out and its chip has acknowledged it. -/
def Xfer.closed (dst : Nat) (x : Xfer) : Bool := x.closing && !(x.sent ++ x.again).any (fun p => p.dst = dst)

/-- The header of the generation in progress. -/
def runHdr (s : State) (r : SnapRun) (complete : Bool) : GenHdr where
  identity := s.dev.fabric
  generation := r.generation
  bytes := genBytes s
  tables := (genTables s).length
  complete := complete
  exposed := s.snap.exposed
  damaged := false
  failed := false
  cut := s.tick.domain - BitVec.ofNat 64 r.frames
  applied := s.step.record.applied
  attempted := s.step.record.attempted
  latest := if complete then r.generation else s.snap.latestGen.getD 0

/-- Change the running snapshot. -/
def onRun (f : SnapRun → SnapRun) (s : State) : State := onSnap (fun x => { x with run := x.run.map f }) s

/-- Pieces of the running snapshot leave. -/
def runPieces (ps : List SlotPiece) (s : State) : State :=
  let t := onRun (fun r => { r with xfer := r.xfer.send ps (maySend s) }) s
  if maySend s then sendPieces ps t else t

/-- SNAPSHOT_STOP (R341, R347): at the cut the chip enters SNAPSHOTTING; header and tables go to the partner. -/
def runStop (s : State) : State :=
  match s.snap.run with
  | some r =>
    if !r.due || !(s.dev.state = .running || s.dev.state = .held || s.dev.state = .loaded) then s
    else
      let r1 := { r with due := false, generation := s.snap.nextGen, leftRunning := decide (s.dev.state = .running) }
      let s1 := setState .snapshotting (onDev (fun d => { d with left := some d.state }) (onSnap (fun x => { x with
        run := some r1, nextGen := x.nextGen + 1 }) s))
      let dst := partnerOf s r1.generation
      runPieces [firmPiece dst 0 (runHdr s1 r1 false).image, firmPiece dst tablesOff (genTables s1)] s1
  | none => s

def execSnapshotStop (s : State) : Out := effect (onlyIf (coreRuns s) runStop) s

/-- Pieces of the stream that lie in a range: stream offset, address, length. -/
def piecesIn (off len : Nat) : Nat → List (Nat × Nat) → List (Nat × Nat × Nat)
  | _, [] => []
  | at', p :: rest =>
    let lo := Nat.max off at'
    let hi := Nat.min (off + len) (at' + p.2)
    let more := piecesIn off len (at' + p.2) rest
    if lo < hi then (lo, p.1 + (lo - at'), hi - lo) :: more else more

/-- Copies pause during a thermal emergency or a regulator fault (R347, R398, R399). -/
def copiesPause (s : State) : Bool := s.power.emergency || !s.power.regFaults.isEmpty

/-- The words of a range of HBM that are listed as poison, counted from its first byte. -/
def badWords (s : State) (a n : Nat) : List Nat := (List.range (n / 32)).filter (fun w => wordPoisoned s (a + 32 * w))

/-- The page pieces of a slot's data that lie in a range and on a stack: slot offset, address, length. -/
def slotPieces (base off len unit : Nat) : List (Nat × Nat × Nat) :=
  ((pagesOf 65536 (dataOff + off) len).map (fun k =>
    let lo := Nat.max (dataOff + off) (65536 * k)
    (lo, slotAddr base lo, Nat.min (dataOff + off + len) (65536 * (k + 1)) - lo))).filter (fun p => addrStack p.2.1 = unit)

/-- A range in whole 64-byte pieces, as R321 sends them. -/
def wholeUnits (off len : Nat) : Nat × Nat := (off / 64 * 64, align (off + len) 64 - off / 64 * 64)

/-- The first generation that this chip serves and whose closing header has not gone out. -/
def openServe (s : State) : Option ServeRun := s.snap.serves.find? (fun v => !v.xfer.closing)

/-- Change what is served to a chip. -/
def onServe (requester : Nat) (f : ServeRun → ServeRun) (s : State) : State :=
  onSnap (fun x => { x with serves := x.serves.map (fun v => if v.requester = requester then f v else v) }) s

/-- Pieces of a served generation leave. -/
def servePieces (requester : Nat) (ps : List SlotPiece) (s : State) : State :=
  let ps := ps.map (fun p => { p with served := true })
  let t := onServe requester (fun v => { v with xfer := v.xfer.send ps (maySend s) }) s
  if maySend s then sendPieces ps t else t

/-- A served generation's part (R352). -/
def serveCopy (unit off len : Nat) (v : Option ServeRun) (s : State) : State :=
  match v with
  | none => s
  | some v =>
    match slotBase s v.slot, heldIn s v.slot with
    | some (base, _), some g =>
      servePieces v.requester ((slotPieces base off (Nat.min len (g.bytes - off)) unit).map (fun p =>
        { dst := v.requester, off := p.1, bytes := hbmBytes s p.2.1 p.2.2, bad := badWords s p.2.1 p.2.2, copy := true, served := true })) s
    | _, _ => s

/-- SNAPSHOT_COPY (R193, R347, R352): a unit sends its part of the masters and moments, or of a generation that a restoring chip takes. -/
def runSnapCopy (unit off len : Nat) (s : State) : State :=
  let u := wholeUnits off len
  if s.frame.lockUp || copiesPause s then s
  else
    match s.snap.run, openServe s with
    | some r, v =>
      if s.dev.state = .snapshotting && !r.xfer.closing then
        runPieces (((piecesIn u.1 u.2 0 (genPieces s)).filter (fun p => addrStack p.2.1 = unit)).map (fun p =>
          { dst := partnerOf s r.generation, off := dataOff + p.1, bytes := hbmBytes s p.2.1 p.2.2, bad := badWords s p.2.1 p.2.2, copy := true,
            served := false })) s
      else serveCopy unit u.1 u.2 v s
    | none, v => serveCopy unit u.1 u.2 v s

def execSnapshotCopy (unit offset length : Nat) (s : State) : Out := effect (onlyIf (stackRuns s unit) (runSnapCopy unit offset length)) s

/-- SNAPSHOT_STOP_END (R347): every earlier byte is acknowledged, and the closing header and the other partner's latest go out; the chip leaves
SNAPSHOTTING at the tick behind their acknowledgement. The 8 bytes of that update fill up to the 64 of a packet with zeros, which fall in the
reserved rest of the slot's first page (R321, R339; DEDUCED, log entry 32). -/
def runStopEnd (s : State) : State :=
  match s.snap.run with
  | some r =>
    let dst := partnerOf s r.generation
    let x := r.xfer.take s.fabric.sends
    if s.dev.state != .snapshotting || x.closing || !x.whole dst (genTables s).length (genBytes s) then s
    else
      runPieces [firmPiece dst 0 (runHdr s r true).image, firmPiece (partnerOf s (r.generation + 1)) 56 (leBytes 8 r.generation.toNat ++ zeros 56)]
        (onRun (fun r => { r with xfer := { x with closing := true } }) s)
  | none => s

def execSnapshotStopEnd (s : State) : Out := effect (onlyIf (coreRuns s) runStopEnd) s

/-- The chip leaves SNAPSHOTTING for the state it left, or for HELD where a HOLD was taken during the stop (R272, R347, R358). -/
def leaveStop (s : State) : State :=
  match s.dev.left with
  | some d => setState (if (acceptedOp s 0x52).isSome then .held else d) (onDev (fun x => { x with left := none }) s)
  | none => s

/-- SNAPSHOT_ABORT (R347): no byte acknowledged for 16 frames. -/
def runAbort (s : State) : State :=
  match s.snap.run with
  | some r =>
    if s.dev.state = .snapshotting && decide (16 ≤ r.xfer.noAck) then
      finishCmd 0x60 stNoSnapshot 0 [] (leaveStop (onSnap (fun x => { x with run := none }) s))
    else s
  | none => s

def execSnapshotAbort (s : State) : Out := effect (onlyIf (coreRuns s) runAbort) s

/-! ### The proof record (R350) -/

/-- PROOF_RECORD_WRITE (R350): one frame's write of the oldest record that waits, to the partner of its generation; dropped after 16 frames
without an acknowledgement. -/
def runProofRecord (acked : Bool) (s : State) : State :=
  match s.snap.proofRecs with
  | [] => s
  | (b, n) :: rest =>
    onSnap (fun x => { x with proofRecs := if acked || decide (15 ≤ n) then rest else (b, n + 1) :: rest })
      (sendPieces [firmPiece (partnerOf s (BitVec.ofNat 64 (fieldN b 0 8))) recordOff b] s)

def execProofRecordWrite (acked : Bool) (s : State) : Out := effect (onlyIf (coreRuns s) (runProofRecord acked)) s

/-! ### Holding generations for others (R342 to R344, R347) -/

/-- Write bytes of one page in place (R347); words written whole leave the poison table (R183). -/
def putInPlace (a : Nat) (bytes : List Byte) (s : State) : State :=
  let s1 := hbmPut a bytes s
  onHbm (fun h => { h with poison := h.poison.filter (fun w =>
    !(w.1 = physOf s1 (pageKey a) && a % 65536 ≤ 32 * w.2 && 32 * w.2 + 32 ≤ a % 65536 + bytes.length)) }) s1

/-- Write bytes in place, page by page; `place` gives the address of each page's part by its offset. -/
def putParts (place : Nat → Nat) (off : Nat) (bytes : List Byte) (s : State) : State :=
  (pagesOf 65536 off bytes.length).foldl (fun s k => putInPlace (place (partIn 65536 off k bytes).1) (partIn 65536 off k bytes).2 s) s

/-- Write bytes of a slot in place (R347). -/
def putSlot (base off : Nat) (bytes : List Byte) (s : State) : State := putParts (slotAddr base) off bytes s

/-- Bytes of a held slot. -/
def slotBytes (s : State) (base off n : Nat) : List Byte := (List.range n).map (fun i => hbmByte s (slotAddr base (off + i)))

/-- The slot that a header of an identity binds (R342). -/
def bindSlot (s : State) (id bytes : Nat) : Option Nat :=
  match slotOfId s id with
  | some n => some n
  | none =>
    match s.image.img with
    | none => none
    | some i =>
      if s.snap.held0.isNone && decide (bytes ≤ i.snap.bytes0) then some 0
      else if s.snap.held1.isNone && decide (bytes ≤ i.snap.bytes1) then some 1
      else none

/-- The header of a slot as its bytes now give it, under the identity that is bound to it (R342). A generation stays damaged (R344) until
another takes its place: one of another number, or, behind an abort or a rollback, one of its number whose cut is another. -/
def takeHeader (src n base : Nat) (s : State) : State :=
  match readHdr (slotBytes s base 0 64) with
  | none => s
  | some g =>
    let keep := match heldIn s n with
      | some o => o.damaged && decide (o.generation = g.generation) && decide (o.cut = g.cut)
      | none => false
    setHeld n (some { g with identity := src, damaged := g.damaged || keep }) s

/-- Words of a transfer that left their source as poison enter the table where they land (R183). -/
def listSlot (base off : Nat) (listed : List Nat) (s : State) : State :=
  listed.foldl (fun t w =>
    let a := slotAddr base (off + 32 * w)
    enterPoison (physOf t (pageKey a)) (a % 65536 / 32) t) s

/-- A snapshot transfer lands (R342, R347): it binds a slot or uses the one its identity holds. -/
def landSnapshot (src off : Nat) (listed : List Nat) (payload : List Byte) (s : State) : State × Bool :=
  let isHdr := off = 0 && payload.length = 64
  let slot := if isHdr then (readHdr payload).bind (fun g => bindSlot s src g.bytes) else slotOfId s src
  match slot with
  | none => (s, false)
  | some n =>
    match slotBase s n with
    | none => (s, false)
    | some (base, size) =>
      if off + payload.length > dataOff + size then (s, false)
      else
        let t := listSlot base off listed (putSlot base off payload s)
        (if off < 64 then takeHeader src n base t else t, true)

/-- This chip restores from a source. -/
def restoredFrom (s : State) (src : Nat) : Bool := s.snap.restore.any (fun r => r.source = src)

/-- A word of a master or moment that a restore delivers as poison enters the table (R183, R358). The next step barrier votes non-finite for it
(R184); a chip that restores stands at none (DEDUCED, log entry 32). -/
def listRestored (phys word : Nat) (s : State) : State :=
  if s.hbm.poison.contains (phys, word) then s
  else if poisonCount s (pageStack phys) ≥ 1024 then askRetire s
  else onStep (fun t => { t with masterPoison := true }) (onHbm (fun h => { h with poison := h.poison ++ [(phys, word)] }) s)

/-- Bytes of the stream of masters and moments go into this chip's own placements (R352); listed words enter the poison table. -/
def putStream (off : Nat) (listed : List Nat) (bytes : List Byte) (s : State) : State :=
  let s1 := (piecesIn off bytes.length 0 (genPieces s)).foldl (fun t p => putParts id p.2.1 (sliceB (bytes.drop (p.1 - off)) 0 p.2.2) t) s
  listed.foldl (fun t w =>
    (piecesIn (off + 32 * w) 32 0 (genPieces s)).foldl (fun t p => listRestored (physOf t (pageKey p.2.1)) (p.2.1 % 65536 / 32) t) t) s1

/-- A packet of the generation that this chip restores lands (R352): masters and moments at their places, tile by tile; the rest is kept until
the transfer ends. -/
def landServed (off : Nat) (listed : List Nat) (payload : List Byte) (s : State) : State :=
  let s1 := onSnap (fun x => { x with restore := x.restore.map (fun r => { r with got := r.got ++ [(off, payload)] }) }) s
  if dataOff ≤ off then putStream (off - dataOff) listed payload s1 else s1

/-- A snapshot transfer packet at its offset of the slot (R321, R342, R347, R352). No field of R321 tells a served generation from a stop's
transfer of the same source; the model's packets carry it (DESIGN CHOICE, log entry 32). -/
def landTransfer (h : PktHdr) (off : Nat) (payload : List Byte) (s : State) : State × Bool :=
  if !payloadOk payload then (s, false)
  else if h.served then (if restoredFrom s h.src then (landServed off h.listed payload s, true) else (s, false))
  else landSnapshot h.src off h.listed payload s

/-- Where a transfer's bytes lie on this chip, if its source has a slot. -/
def slotPlace (s : State) (src off : Nat) : Endpoint :=
  match (slotOfId s src).bind (slotBase s) with
  | some (base, _) => .hbm (slotAddr base off)
  | none => .host 0 0

/-- Where a packet's bytes lie: those of a served generation at this chip's own placements, a place whose clock has stopped first (R352, R407);
those of a stop in the source's slot. -/
def transferPlace (s : State) (h : PktHdr) (off n : Nat) : Endpoint :=
  if !h.served then slotPlace s h.src off
  else if off < dataOff then .host 0 0
  else match ((piecesIn (off - dataOff) n 0 (genPieces s)).map (fun p => Endpoint.hbm p.2.1)).find? (fun e => !epRuns s e) with
    | some e => e
    | none => .host 0 0

/-- SNAPSHOT_TRANSFER_PACKET. -/
def execSnapshotTransferPacket (port : Nat) (h : PktHdr) (offset : Nat) (payload : List Byte) (s : State) : Out :=
  let x := { h with snapshot := true, endpoint := .hbm offset }
  effect (arrivePacket port 1 true (transferPlace s h offset payload.length) x payload (landTransfer x offset payload)) s

/-- What a waiting packet does once its clock runs (R407). -/
def landWaiting (w : PktWait) (s : State) : State × Bool :=
  match w.slot, w.h.endpoint, w.kind with
  | true, .hbm off, _ => landTransfer w.h off w.payload s
  | _, _, 1 => landWrite w.h w.payload s
  | _, _, 2 => landReduce w.h w.payload s
  | _, _, _ => landPartial w.h w.payload s

/-- The memory that a waiting packet waits for. -/
def waitPlace (s : State) (w : PktWait) : Endpoint :=
  match w.slot, w.h.endpoint with
  | true, .hbm off => transferPlace s w.h off w.payload.length
  | _, e => e

/-- The packets whose clocks run again are consumed in their order (R407). -/
def servePackets (s : State) : State :=
  (s.hbm.pktWaits.filter (fun w => epRuns s (waitPlace s w))).foldl (fun t w => takePacket w.port w.h w.payload (landWaiting w) t)
    (onHbm (fun m => { m with pktWaits := m.pktWaits.filter (fun w => !epRuns s (waitPlace s w)) }) s)

/-- The image of a held slot (R339, R357). -/
def slotImage (s : State) (n : Nat) : List Byte :=
  match heldIn s n, slotBase s n with
  | some g, some (base, _) => slotBytes s base 0 (dataOff + g.bytes)
  | _, _ => []

/-- The held generation is the one that a request names (R351). -/
def servable (g : GenHdr) (which : Nat) : Bool :=
  g.usable && decide (g.generation.toNat + which = g.latest.toNat)

/-- The shapes that an image gives the tensors of its optimizer. -/
def ownShapes (s : State) : List (Nat × Nat × Nat) :=
  match s.image.img with
  | some i => i.opt.filterMap (fun e => (tabEntry s e.master).map (fun y => (e.master, y.rows, y.cols)))
  | none => []

/-- The optimizer entries of this chip's image and the tiles of masters and moments that it owns (R351). -/
def ownOwns (s : State) : List (List Nat) :=
  match s.image.img with
  | some i => i.opt.map (fun e => [e.master, e.work, e.program, bitAt e.clip 0, e.lrScale.toNat, e.stream.toNat] ++ e.k.map (·.toNat))
      ++ ((planOf s).filter (fun r => r.role = 7 || r.role = 8)).map (fun r => [r.role, r.tensor, r.tileFirst, r.tileCount])
  | none => []

/-- A generation has the optimizer entries and tiles of the chip that asks (R351). It holds no list of them (R338 to R340): what its chip owned
at the cut is a free value (DESIGN CHOICE, log entry 32). -/
def sameOwns (g : GenHdr) (owns : List (List Nat)) : Bool := Config.genOwns g.identity g.generation.toNat == owns

/-- A generation's tables give every tensor of the optimizer the shape that the asking chip's image gives it (R351). -/
def sameShapes (g : GenHdr) (b : List Byte) (shapes : List (Nat × Nat × Nat)) : Bool :=
  let t := sliceB b tablesOff g.tables
  shapes.all (fun x =>
    let y := tableEntry (t.drop 64) x.1
    decide (y.rows = x.2.1 ∧ y.cols = x.2.2))

/-- The generation that a slot serves, with its bytes: B and the tensors are those of the chip that asks (R351). -/
def fits (s : State) (n : Nat) (g : GenHdr) (ask : RestoreAsk) : Bool :=
  g.bytes = ask.bytes && sameShapes g (slotImage s n) ask.shapes && sameOwns g ask.owns

/-- A served generation begins its way (R347, R352): the header, not complete yet, the proof record and the tables. -/
def beginServe (n : Nat) (g : GenHdr) (ask : RestoreAsk) (id : Nat) (mapped : Bool) (s : State) : State :=
  let b := slotImage s n
  let s1 := onSnap (fun x => { x with serves := x.serves.filter (fun v => v.requester != ask.chip) ++
    [{ requester := ask.chip, identity := id, slot := n, mapped := mapped, xfer := Xfer.new }] }) s
  servePieces ask.chip [firmPiece ask.chip 0 ({ g with complete := false } : GenHdr).image, firmPiece ask.chip recordOff (sliceB b recordOff 64),
    firmPiece ask.chip tablesOff (sliceB b tablesOff g.tables)] s1

/-- RESTORE_REQUEST (R351, R352): the generation asked for begins its way, or the answer is NO_SNAPSHOT or REFUSED_FIT. -/
def runRequest (ask : RestoreAsk) (id which : Nat) (mapped : Bool) (s : State) : State :=
  let none' := emit [.restoreAnswer ask.chip stNoSnapshot 0] s
  match slotOfId s id with
  | none => none'
  | some n =>
    match heldIn s n with
    | none => none'
    | some g =>
      if !servable g which then none'
      else if !fits s n g ask then emit [.restoreAnswer ask.chip stRefusedFit 0x0601] s
      else beginServe n g ask id mapped s

/-- The stacks of every page of a slot run (R407): a slot is striped over all eight (R339). -/
def slotsRun (s : State) : Bool := (List.range 8).all (fun k => epRuns s (.hbm (k * p2 36)))

/-- Firmware waits for the clocks of what it reads (R407). -/
def execRestoreRequest (ask : RestoreAsk) (identity generation : Nat) (mapped : Bool) (s : State) : Out :=
  effect (onlyIf (coreRuns s && slotsRun s) (runRequest ask identity generation mapped)) s

/-- A frame of a served transfer ends (R347, R352, R353, R358): behind the last acknowledged byte the closing header goes out; a generation that
has been damaged since ends it with NO_SNAPSHOT, 16 frames without an acknowledged byte end it, and its acknowledged end rebinds the slot of a
mapped restore. -/
def endServe (v : ServeRun) (s : State) : State :=
  let gone := onSnap (fun x => { x with serves := x.serves.filter (· != v) }) s
  match heldIn s v.slot with
  | none => gone
  | some g =>
    if !g.usable || g.identity != v.identity then emit [.restoreAnswer v.requester stNoSnapshot 0] gone
    else if 16 ≤ v.xfer.noAck then gone
    else if v.xfer.closed v.requester then (if v.mapped then setHeld v.slot (some { g with identity := v.requester }) gone else gone)
    else if !v.xfer.closing && v.xfer.whole v.requester g.tables g.bytes && v.xfer.has v.requester recordOff 64 then
      servePieces v.requester [firmPiece v.requester 0 g.image]
        (onServe v.requester (fun v => { v with xfer := { v.xfer with closing := true } }) s)
    else s

/-! ### RESTORE (R300, R351, R352) -/

/-- The substitution entries of the arguments. -/
def restoreMap (c : Cmd) : List (Nat × Nat) := (List.range (c.n 3 1)).map (fun i => (c.n (16 + 4 * i) 2, c.n (18 + 4 * i) 2))

def restoreArgs (c : Cmd) (_ : State) : Bool :=
  c.n 2 1 ≤ 1 && c.n 3 1 ≤ 52 && c.argLen = 16 + 4 * c.n 3 1 && c.zero 4 12

/-- What this chip says of itself when it asks for a generation (R351). -/
def ownAsk (s : State) : RestoreAsk where
  chip := s.dev.fabric
  bytes := genBytes s
  shapes := ownShapes s
  owns := ownOwns s

/-- RESTORE (R300, R351): the chip asks the source and enters RESTORING. -/
def runRestore (c : Cmd) (s : State) : State :=
  let m := restoreMap c
  let id := match m.find? (fun e => e.2 = s.dev.fabric) with
    | some e => e.1
    | none => s.dev.fabric
  let r : RestRun := { source := c.n 0 2, identity := id, previous := c.n 2 1 = 1, map := m, proof := false, got := [] }
  emit [.restoreAsk r.source id (c.n 2 1) (ownAsk s)] (setState .restoring (onSnap (fun x => { x with restore := some r }) (c.accept 0x62 [] s)))

def execRestore (s : State) : Out := effect (command 0x0062 restoreArgs runRestore) s

/-- An address through the map (R352). -/
def mapAddr (m : List (Nat × Nat)) (a : Nat) : Nat :=
  match m.find? (fun e => e.1 = a) with
  | some e => e.2
  | none => a

/-- Put bytes at a place of a list. -/
def putBytes (b : List Byte) (off : Nat) (v : List Byte) : List Byte := b.take off ++ v ++ b.drop (off + v.length)

/-- A group table with every address rewritten through the map (R352). -/
def mapGroups (m : List (Nat × Nat)) (b : List Byte) : List Byte :=
  (List.range (fieldN b 6 2)).foldl (fun b i =>
    let list := fieldN b (64 + 32 * i + 12) 4
    (List.range (fieldN b (64 + 32 * i + 6) 2)).foldl (fun b j =>
      putBytes b (list + 2 * j) (leBytes 2 (mapAddr m (fieldN b (list + 2 * j) 2)))) b) b

/-- A step record from its bytes (R205). -/
def readStepRec (b : List Byte) : StepRec where
  applied := BitVec.ofNat 64 (fieldN b 0 8)
  attempted := BitVec.ofNat 64 (fieldN b 8 8)
  seed := BitVec.ofNat 64 (fieldN b 16 8)
  skips := BitVec.ofNat 32 (fieldN b 24 4)
  totalSkips := BitVec.ofNat 32 (fieldN b 28 4)
  loss := BitVec.ofNat 32 (fieldN b 32 4)
  gradNorm := BitVec.ofNat 32 (fieldN b 36 4)
  clip := BitVec.ofNat 32 (fieldN b 40 4)
  normLeading := fieldI b 44 1
  outcome := fieldN b 45 1
  stalled := bitOf (fieldN b 46 1) 0

/-- The image of a generation with the pieces that have arrived in it. -/
def overlayImage (b : List Byte) (got : List (Nat × List Byte)) : List Byte :=
  got.foldl (fun b p => putBytes (sliceB b 0 (Nat.max b.length (p.1 + p.2.length))) p.1 p.2) b

/-- Forecast vectors written back in tensor order, each to all its places. -/
def putForecasts : List (List Nat × Nat) → List Byte → State → State
  | [], _, s => s
  | p :: rest, b, s => putForecasts rest (b.drop p.2) (p.1.foldl (fun t a => hbmPut a (sliceB b 0 p.2) t) s)

/-- The parts of the tables area behind the forecast vectors: group table and route table. -/
def splitTables (rest : List Byte) : List Byte × List Byte :=
  let n := rest.length - align 262208 64
  if align 262208 64 ≤ rest.length && fieldN (rest.drop n) 0 4 = 0x434C5254 then (rest.take n, sliceB rest n 262208) else (rest, [])

/-- Install a generation (R352): masters, moments, step record, format-policy state, group and route tables, the generation
count and the regeneration flag. The number of the latest complete generation is the one that the header reports (R340); a generation
whose following step had not closed stays without a record (R350). What the holds of the frame in progress do stands. -/
def installGen (m : List (Nat × Nat)) (g : GenHdr) (b : List Byte) (s : State) : State :=
  let n := s.step.table.length
  let t := sliceB b tablesOff g.tables
  let calmOff := 64 + align (32 * n) 64
  let foreOff := calmOff + align n 64
  let fp := forecastPlaces s
  let restOff := foreOff + align ((fp.map (·.2)).sum) 64
  let gr := splitTables (t.drop restOff)
  let groupB := mapGroups m gr.1
  let groups := (List.range (fieldN groupB 6 2)).map (groupEntry groupB)
  let table := (List.range n).map (fun i => { tableEntry (t.drop 64) i with calm := fieldN t (calmOff + i) 1 })
  let s1 := putForecasts fp (t.drop foreOff) (putStream 0 [] (sliceB b dataOff (genBytes s)) s)
  { s1 with
    step := { StepSt.reset with record := readStepRec t, table := table, batches := s1.step.batches, refTensors := s1.step.refTensors,
                                refBound := s1.step.refBound, refNext := s1.step.refNext, regen := true, proof := s1.step.proof }
    frame := s1.frame.clearWork
    stats := StatsSt.reset
    fabric := { s1.fabric with
      groups := if gr.1.isEmpty then [] else groups
      groupBytes := if gr.1.isEmpty then [] else groupB
      routes := if gr.2.isEmpty then [] else routesOf gr.2
      routeBytes := gr.2
      stalled := []
      waits := []
      contrib := []
      contribStaged := [] }
    snap := { s1.snap with
      nextGen := g.generation + 1
      latestGen := some g.latest
      restore := none
      proofFor := none }
    dev := { s1.dev with unaligned := if s1.tick.aligned then false else s1.dev.unaligned, lostTick := false } }

/-- The generation that a transfer brought, when it is the one asked for (R351); empty bytes stand for NO_SNAPSHOT. -/
def arrivedGen (r : RestRun) (b : List Byte) : Option GenHdr :=
  (readHdr b).bind (fun g => if servable g (if r.previous then 1 else 0) then some g else none)

/-- The generation has the optimizer entries, tiles and tensors of the loaded image (R351). -/
def sameTensors (g : GenHdr) (b : List Byte) (s : State) : Bool :=
  s.image.img.isSome && sameShapes g b (ownShapes s) && sameOwns g (ownOwns s)

/-- A RESTORE's transfer ends (R351, R352). -/
def endRestore (r : RestRun) (b : List Byte) (s : State) : State :=
  if s.dev.state != .restoring then s else
  let gone := onSnap (fun x => { x with restore := none }) s
  match arrivedGen r b with
  | none => finishCmd 0x62 stNoSnapshot 0 [] (setState .loaded gone)
  | some g =>
    if g.bytes != genBytes s || !sameTensors g b s then finishCmd 0x62 stRefusedFit 0x0601 [] (setState .loaded gone)
    else
      let t := installGen r.map g b gone
      finishCmd 0x62 stDone 0 (leBytes 8 t.step.record.applied.toNat)
        (setState .held (onLife (fun l => { l with restores := l.restores + 1 }) t))

/-- Ask the partner that holds a generation for it (R355). -/
def askProof (g : W64) (previous : Bool) (s : State) : State :=
  emit [.restoreAsk (partnerOf s g) s.dev.fabric (if previous then 1 else 0) (ownAsk s)] (onSnap (fun x => { x with
    restore := some { source := partnerOf s g, identity := s.dev.fabric, previous := previous, map := [], proof := true, got := [] } }) s)

/-- The proof record of a slot image goes into the running proof (R350, R355). -/
def withRecord (g : GenHdr) (b : List Byte) (p : ProofSt) : ProofSt :=
  let f := fieldN b (recordOff + 28) 1
  { p with
    generation := g.generation
    recPresent := bitOf f 0 && decide (fieldN b recordOff 8 = g.generation.toNat)
    recDigest := BitVec.ofNat 64 (fieldN b (recordOff + 16) 8)
    recLoss := BitVec.ofNat 32 (fieldN b (recordOff + 24) 4)
    recSkip := bitOf f 2
    exposed := g.exposed
    hdr := some g
    rolledBack := true }

/-- The rollback behind a failed proof ends (R356): PROOF_FAILED, on the generation before. -/
def endFailed (r : RestRun) (b : List Byte) (p : ProofSt) (s : State) : State :=
  let t := match arrivedGen r b with
    | some g => installGen [] g b s
    | none => onSnap (fun x => { x with restore := none }) s
  finishCmd 0x63 stProofFailed 0 p.result (onStep (fun x => { x with proof := none, regen := true }) t)

/-- A proof's rollback ends (R355): the latest usable generation, or the one before it, or NO_SNAPSHOT. -/
def endRollback (r : RestRun) (b : List Byte) (s : State) : State :=
  match s.step.proof with
  | none => onSnap (fun x => { x with restore := none }) s
  | some p =>
    if p.combined.isSome then endFailed r b p s
    else
      match arrivedGen r b with
      | some g =>
        -- a member restored since it last ran already stands on that generation and takes the record only
        let t := if s.step.regen && s.snap.nextGen = g.generation + 1 then onSnap (fun x => { x with restore := none }) s
          else installGen [] g b s
        onStep (fun x => { x with proof := some (withRecord g b p) }) t
      | none =>
        let latest := s.snap.latestGen.getD 0
        if !r.previous && decide (0 < latest.toNat) then askProof (latest - 1) true s
        else finishCmd 0x63 stNoSnapshot 0 [] (onStep (fun x => { x with proof := none }) (onSnap (fun x => { x with restore := none }) s))

/-- The bytes of a transfer that has ended: those that its packets brought, and the operand's for the rest; none where the source answered that
there is no generation. -/
def arrivedBytes (r : RestRun) (b : List Byte) : List Byte := if b.isEmpty then b else overlayImage b r.got

/-- RESTORE_DONE (R352, R355). -/
def runRestoreDone (b : List Byte) (s : State) : State :=
  match s.snap.restore with
  | none => s
  | some r => if r.proof then endRollback r (arrivedBytes r b) s else endRestore r (arrivedBytes r b) s

/-- The stacks that masters, moments and forecast vectors lie on are not training, and their regions' clocks run (R407). -/
def ownPlacesRun (s : State) : Bool :=
  (genPieces s).all (fun p => epRuns s (.hbm p.1)) && (forecastPlaces s).all (fun p => p.1.all (fun a => epRuns s (.hbm a)))

/-- Firmware waits for the clocks of what it writes (R407). -/
def execRestoreDone (data : List Byte) (s : State) : Out := effect (onlyIf (coreRuns s && ownPlacesRun s) (runRestoreDone data)) s

/-! ### PROOF (R301, R355) and EXPORT_SNAPSHOT (R302, R357) -/

def proofArgs (c : Cmd) (_ : State) : Bool := c.argLen = 4 && c.zero 2 2

/-- PROOF (R355): the member rolls back; the ticks do the rest. -/
def runProof (c : Cmd) (s : State) : State :=
  if !s.snap.partnersSet then c.finish stWrongState [] s
  else
    match s.snap.latestGen with
    | none => c.finish stNoSnapshot [] s
    | some g =>
      askProof g false (onStep (fun x => { x with proof := some {
        generation := g, recPresent := false, recDigest := 0, recLoss := 0, recSkip := false, sinceTick := s.tick.count, rolledBack := false,
        replaying := false, combined := none, exposed := false, result := [], hdr := none } }) (c.accept 0x63 [] s))

def execProof (s : State) : Out := effect (command 0x0063 proofArgs (checked (fun c s => groupHere s (c.n 0 2)) runProof)) s

/-- Bytes of an export (R357). -/
def exportBytes (g : GenHdr) : Nat := dataOff + g.bytes

def exportArgs (c : Cmd) (s : State) : Bool :=
  c.argLen = 24 && c.n 2 1 ≤ 1 && c.zero 4 4 && rangeOk s c.port (c.n 3 1) (c.n 8 8) (c.n 16 8)

/-- The range holds the generation, where there is one. -/
def exportFits (c : Cmd) (s : State) : Bool :=
  match heldIn s (c.n 2 1) with
  | some g => g.identity != c.n 0 2 || !g.usable || exportBytes g ≤ c.n 16 8
  | none => true

/-- EXPORT_SNAPSHOT (R302, R357). -/
def runExport (c : Cmd) (s : State) : State :=
  match heldIn s (c.n 2 1) with
  | some g =>
    if g.identity = c.n 0 2 && g.usable then deliver 0x64 (c.n 3 1) (c.n 8 8) (slotImage s (c.n 2 1)) (c.accept 0x64 [] s)
    else c.finish stNoSnapshot [] s
  | none => c.finish stNoSnapshot [] s

/-- A stack that trains, or whose region has stopped, keeps the command waiting in its slot (R407). -/
def execExportSnapshot (s : State) : Out := effect (onlyIf (slotsRun s) (command 0x0064 exportArgs (checked exportFits runExport))) s

end Sys2Proof.Machine
end

