-- ==== Sys2Proof/Machine/Power.lean ====
section
/-! DEFINITION. Power, thermal and cooling control (R375 to R402, R468). Powers in mW, energies in mW·µs, temperatures in
1/16 °C. -/

namespace Sys2Proof.Machine
open Sys2Proof

/-! ### Sensors and spots (R391, R392) -/

/-- The number of a sensor: region, spot, which of the two. -/
def sensorKey (region spot which : Nat) : Nat := (region * 16 + spot) * 2 + which

def sensorOf (s : State) (k : Nat) : Sensor := SMap.getD s.power.sensors k { last := none, lost := false, silent := 0, good := 0 }

/-- A reading inside −40 °C to 150 °C. -/
def readingOk (v : Int) : Bool := -640 ≤ v && v ≤ 2400

/-- One conversion of a sensor. -/
def feedSensor (r : Option Int) (x : Sensor) : Sensor :=
  match r with
  | some v => { x with last := some v, silent := 0, good := if readingOk v then x.good + 1 else 0 }
  | none => { x with silent := x.silent + 1, good := 0 }

/-- The condition of R391 for a loss. -/
def sensorBad (x : Sensor) : Bool :=
  (match x.last with
    | some v => !readingOk v
    | none => false) || decide (5 ≤ x.silent)

/-- A valid sensor's reading. -/
def validReading (s : State) (k : Nat) : Option Int :=
  let x := sensorOf s k
  if x.lost || sensorBad x then none else x.last

def higher (a b : Option Int) : Option Int :=
  match a, b with
  | some x, some y => some (max x y)
  | some x, none => some x
  | none, b => b

/-- A spot's higher valid reading. -/
def spotReading (s : State) (sp : Nat) : Option Int := higher (validReading s (2 * sp)) (validReading s (2 * sp + 1))

/-- The spots of the same region at adjacent grid positions. -/
def neighbours (sp : Nat) : List Nat :=
  let r := sp / 16
  let c := sp % 4
  let w := sp % 16 / 4
  (if 0 < c then [16 * r + 4 * w + c - 1] else []) ++ (if c < 3 then [16 * r + 4 * w + c + 1] else [])
    ++ (if 0 < w then [16 * r + 4 * (w - 1) + c] else []) ++ (if w < 3 then [16 * r + 4 * (w + 1) + c] else [])

def maxReading (l : List (Option Int)) : Option Int := l.foldl higher none

/-- The penalty of a severe disagreement (R370, R392). -/
def penalty (s : State) (sp : Nat) : Int := if s.power.penal.contains sp then 96 else 0

/-- A spot's temperature from its own valid sensors (R392). -/
def ownTemp (s : State) (sp : Nat) : Option Int := (spotReading s sp).map (· + penalty s sp)

/-- A spot's temperature from its own sensors, or from its neighbours that have a valid one (R392). -/
def nearTemp (s : State) (sp : Nat) : Option Int :=
  match ownTemp s sp with
  | some v => some v
  | none => (maxReading ((neighbours sp).map (ownTemp s))).map (fun v => v + 160 + penalty s sp)

/-- The hottest spot of a region by the first four rows of R392. -/
def regionHot (s : State) (r : Nat) : Option Int := maxReading ((List.range 16).map (fun i => nearTemp s (16 * r + i)))

/-- The hottest spot of the regions that live, but for one. -/
def otherHot (s : State) (r : Nat) : Option Int :=
  maxReading (((List.range 4).filter (fun q => q != r && !s.clocks.lost.contains q)).map (regionHot s))

/-- The treated temperature of a spot: the first row of R392 that gives one. -/
def spotTemp (s : State) (sp : Nat) : Option Int :=
  let r := sp / 16
  match nearTemp s sp, regionHot s r with
  | some v, _ => some v
  | none, some v => some (v + 160 + penalty s sp)
  | none, none => if s.clocks.lost.contains r then (otherHot s r).map (· + 160) else none

/-- Tj_max (R392); unchanged while no spot has a temperature. -/
def tjMaxOf (s : State) : Int := (maxReading ((List.range 64).map (spotTemp s))).getD s.power.tjMax

/-! ### The set point (R376, R377, R382, R396) -/

/-- Modelled mode's condition (R382). -/
def modelledCond (s : State) : Bool := decide (1600000 < s.env.budget) || s.env.feed != 0xFFFF

/-- What is left of the second of the guard band at the next control step (R382): control steps fall 20 µs apart from the tick on (R375). -/
def guardLeft (p : PowerSt) : Nat := p.guardUs - 20 * p.steps

/-- The guard band holds (R382). -/
def guarded (s : State) : Bool := s.power.fallback || decide (0 < guardLeft s.power)

/-- B as R377 takes it, in hundredths of a mW: 0.92 × B with a guard band (R382). -/
def guardedB (s : State) : Nat := s.env.budget * (if guarded s then 92 else 100)

def capped (s : State) : Frac := Frac.sub (Frac.div (Frac.mk' ((1600 - s.env.inlet) * 1000) 16) s.power.rth) (Frac.ofNat 50000)

/-- The position in the frame at which the controller computes, in µs: that of the control step in progress, or of the point decision (R375). -/
def controlPos (s : State) : Nat := Nat.min (20 * s.power.steps) (frameUs s.tick.rate - 10)

/-- P_set (R377). A window ends at the next multiple of its length, the short one behind a change of rate too (R57). -/
def setPoint (s : State) : Frac :=
  let f := frameUs s.tick.rate
  let b := Frac.mk' (guardedB s : Nat) 100
  let left := Nat.max f ((s.power.winTicks - s.tick.count.toNat % s.power.winTicks) * f - controlPos s)
  Frac.max (Frac.ofNat 0) (Frac.min (Frac.sub b (Frac.mk' (s.power.eUsed - s.power.aElapsed : Nat) left)) (capped s))

/-- V² × f of a point against OP3 (R386), whose table rounds it to three digits. -/
def pointFactor (p : Nat) : Frac := Frac.mk' (pointMv p * pointMv p * aclkKhz p : Nat) (pointMv 3 * pointMv 3 * aclkKhz 3)

/-- The fused leakage of a point in mW at 85 °C (R386). -/
def pointLeak (s : State) (p : Nat) : Nat := (powerFuses s.ident.power).leakMw.getD p 0

/-- Leakage of a point in mW at Tj_max (R386). -/
def leakAt (s : State) (p : Nat) : Frac :=
  Frac.add (Frac.ofNat (pointLeak s p)) (Frac.mk' (12 * pointLeak s p * (s.power.tjMax - 1360).toNat : Nat) 16000)

/-- The mean power in mW of an energy in pJ at OP3 over a time in µs: it scales with V² (R381). -/
def scaled (s : State) (pj us : Nat) : Frac := Frac.mk' (pj * s.power.railMv * s.power.railMv : Nat) (1000 * us * 650 * 650)

/-- The energy of the arrays' part of the activity: site-cycles, operand delivery, accumulators (R381, R385). -/
def computePj (f : PowerFuses) (a : Activity) : Nat :=
  ((List.range a.site.length).map (fun i => a.site.getD i 0 * f.site.getD i 0)).sum + a.banks * f.banks + a.acc * f.acc

/-- P_raw: the weighted counters and the fixed term (R381). -/
def rawPower (s : State) (a : Activity) (us : Nat) : Frac :=
  let f := powerFuses s.ident.power
  Frac.add (scaled s (computePj f a + a.vector * f.vector + a.router * f.router + a.bezel * f.bezel + a.hbm * f.hbm + a.clasp * f.clasp) us)
    (Frac.ofNat f.fixedMw)

/-- The gain and the offset that take P_raw of a step to the controller's estimate: g and o in modelled mode (R381), and in metered mode those
that make it the latest 1 ms reading (R382; DEDUCED, log entry 40). -/
def calibration (s : State) (live : Bool) (raw : Frac) : Frac × Frac :=
  if live then (s.power.gain, s.power.offset)
  else if Frac.le raw (Frac.ofNat 0) then (Frac.ofNat 1, Frac.ofNat s.power.metered)
  else (Frac.div (Frac.ofNat s.power.metered) raw, Frac.ofNat 0)

/-- The shares of a control step in the order link, vector, misc, leakage, memory, compute (R384, R385): each counter's power under the gain,
leakage as the fuses give it, and what is left of the estimate as miscellaneous (DEDUCED, log entry 40). -/
def sharesOf (s : State) (k : Frac × Frac) (a : Activity) (us : Nat) : List Frac :=
  let f := powerFuses s.ident.power
  let w := fun (pj : Nat) => Frac.mul k.1 (scaled s pj us)
  let rest := Frac.add (Frac.mul k.1 (Frac.add (scaled s (a.router * f.router) us) (Frac.ofNat f.fixedMw))) k.2
  [w (a.clasp * f.clasp), w (a.vector * f.vector), Frac.sub rest (leakAt s s.power.point),
    leakAt s s.power.point, w (a.bezel * f.bezel + a.hbm * f.hbm), w (computePj f a)]

/-- P_link, P_fix, P_mem and P_c64 of the last step (R384, R385). -/
def share (s : State) (i : Nat) : Frac := s.power.lastShares.getD i (Frac.ofNat 0)
def pLink (s : State) : Frac := Frac.mul (Frac.mk' 105 100) (share s 0)
def pMem (s : State) : Frac := Frac.mul (Frac.mk' 105 100) (share s 4)
def pFix (s : State) : Frac := Frac.add (Frac.add (share s 1) (share s 2)) (share s 3)
def pC64 (s : State) : Frac :=
  if Frac.le s.power.lastIssued (Frac.ofNat 0) then Frac.mul (Frac.ofNat 1400000) (pointFactor s.power.point)
  else Frac.div (Frac.mul (Frac.ofNat 64) (share s 5)) s.power.lastIssued

/-- q_power of a compute share (R385). -/
def ceilingFor (pComp c64 : Frac) : Nat :=
  if Frac.le c64 (Frac.ofNat 0) then 64
  else (clampI 4 64 (Frac.floor (Frac.div (Frac.mul (Frac.ofNat 64) pComp) c64))).toNat

/-- The admission of the bezel units (R384). -/
def admission (s : State) (pset : Frac) : Frac :=
  let room := Frac.sub (Frac.sub pset (pLink s)) (pFix s)
  if Frac.lt room (pMem s) then Frac.max (Frac.mk' 1 4) (Frac.div room (pMem s)) else Frac.ofNat 1

/-- An emergency or a regulator fault holds control (R398, R399), or the hardware stands in for firmware (R402). -/
def heldDown (s : State) : Bool := s.power.emergency || !s.power.regFaults.isEmpty || decide (2 ≤ s.power.absent)

/-! ### CONTROL_STEP (R375, R398) -/

/-- Every array of the chip stops with filler, and no cell starts an item in the frame (R127, R398, R400). The filler runs under the
ceiling that stood before q_power falls to 0. -/
def stopArrays (s : State) : State :=
  onFrame (fun f => { f with stoppedCells := List.range 288 })
    (onCells (fun c => { c with eng := c.eng.map (fun p => (p.1, p.2.stopArrays (ceilingOf 64 s p.1))) })
      (onPower (fun p => { p with q := 0 }) s))

/-- The response to an emergency (R398), without its record. -/
def emergencyStop (s : State) : State := inDoubt (stopArrays s)

/-- The device time of the control step in progress, in µs (R375). -/
def stepTime (s : State) : Nat := s.tick.timeUs + 20 * s.power.steps

/-- Each spot's rise over 10 ms (R398). -/
def riseOf (s : State) (sp : Nat) : Option Int :=
  match (s.power.history.find? (fun h => decide (h.1 + 10000 ≤ stepTime s))).bind (fun h => (h.2[sp]?).bind id), spotReading s sp with
  | some old, some now => some (now - old)
  | _, _ => none

/-- The resistance from before an emergency or a regulator fault, which one that joins another does not change (R398, R399). -/
def rthOf (s : State) : Frac := if s.power.emergency || !s.power.regFaults.isEmpty then s.power.rthBefore else s.power.rth

/-- Declare a thermal emergency at a spot (R398). The detector is hardware: without firmware the arrays stop, and nothing is counted or
recorded (R402). -/
def declare (sp : Nat) (rise : Int) (s : State) : State :=
  let s1 := onPower (fun p => { p with emergency := true, rthBefore := rthOf s, quiet := 0, steadyFrame := false }) s
  onlyIf (coreRuns s) (fun t =>
    countEvent .chip 0 8 (onLife (fun l => { l with emergencies := l.emergencies + 1 })
      (recordEvent 0x000C (leBytes 1 (sp / 16) ++ leBytes 1 (sp % 16) ++ leBytesI 2 rise) t))) (emergencyStop s1)

/-- The rate-of-rise detector (R398). -/
def detectRise (s : State) : State :=
  let rises := (List.range 64).filterMap (fun sp => (riseOf s sp).map (fun r => (sp, r)))
  let s1 := onPower (fun p => { p with noisy := p.noisy || rises.any (fun r => 16 < r.2) }) s
  if s.power.emergency then s1
  else
    match rises.find? (fun r => 80 < r.2) with
    | some r => declare r.1 r.2 s1
    | none => s1

/-- The pairs that differ by more than 6 °C (R393). An entry counts the ticks begun with the pair apart; 0 marks a tick begun
before. -/
def noteApart (s : State) : State :=
  let apart := fun (sp : Nat) => match validReading s (2 * sp), validReading s (2 * sp + 1) with
    | some a, some b => decide (96 < (a - b).natAbs)
    | _, _ => false
  onPower (fun p => { p with
    disagree := (List.range 64).foldl (fun m sp =>
      if apart sp then (if (SMap.get? m sp).isSome then m else SMap.put m sp (if p.steps = 0 then 1 else 0)) else SMap.del m sp) p.disagree }) s

/-- q_design and the fit point of a phase (R229); READY has no image (R387). -/
def phaseFit (s : State) (phase : Nat) : Nat × Nat :=
  match s.image.img with
  | some i => i.hdr.fit.getD phase (0, 64)
  | none => (0, 64)

/-- Sensors, history and the detector, and each rise of Tj_max to 105 °C (R397, R398). -/
def senseStep (x : CtlSample) (s : State) : State :=
  let s1 := onPower (fun p => { p with
    sensors := (List.range 128).foldl (fun m k => SMap.put m k (feedSensor (x.readings.getD k none) (sensorOf s k))) p.sensors }) s
  let s2 := noteApart (detectRise s1)
  let tj := tjMaxOf s2
  let hot := decide (1680 ≤ tj)
  onLife (fun l => { l with
      tjPeak := max l.tjPeak tj
      excursions := if hot && !s2.power.wasHot then l.excursions + 1 else l.excursions })
    (onPower (fun p => { p with
      tjMax := tj
      wasHot := hot
      limit := p.limit && decide (1648 ≤ tj)
      history := ((stepTime s2, (List.range 64).map (spotReading s2)) :: p.history).take 601 }) s2)

/-- The time that the last control step covers, in µs: the step that ends at position 0 lasts what the frame before left it (R375). -/
def stepUs (s : State) : Nat :=
  let f := frameUs s.tick.rate
  if s.power.steps = 0 then f - 20 * ((f - 1) / 20) else 20

/-- The compositor's part: the budget, the mode, the shares and q_power (R376, R382, R384, R385, R397, R402). -/
def writeCeiling (x : CtlSample) (s1 : State) : State :=
  let s2 := onEnv (fun e => { e with budget := Nat.min e.budget e.budgetTarget }) s1
  let cond := modelledCond s2
  let guard := if cond && !s2.power.modelWas then 1000000 + 20 * s2.power.steps else s2.power.guardUs
  let live := cond && !s2.power.fallback && decide (guard ≤ 20 * s2.power.steps)
  let raw := rawPower s2 x.act (stepUs s2)
  let k := calibration s2 live raw
  let s3 := onPower (fun p => { p with
    modelled := cond && !p.fallback
    modelWas := cond
    guardUs := guard
    lastShares := sharesOf s2 k x.act (stepUs s2)
    lastIssued := Frac.mk' (64 * x.issued : Nat) x.could
    estimate := (Frac.floor (Frac.add (Frac.mul k.1 raw) k.2)).toNat }) s2
  let pset := setPoint s3
  let q := ceilingFor (Frac.sub (Frac.sub (Frac.sub pset (pLink s3)) (pFix s3)) (pMem s3)) (pC64 s3)
  onPower (fun p => { p with
    admitted := admission s3 pset
    q := if heldDown s3 || p.again then p.q else if p.limit then Nat.min q 32 else q
    qBelow := p.qBelow && decide ((if p.limit then Nat.min q 32 else q) < (phaseFit s3 (p.lastPhase.getD 5)).2)
    writes := p.writes + 1
    ticksNoQ := 0
    absent := if p.absent = 1 then 0 else p.absent }) s3

/-- AVSBus commands that two attempts have not brought home: each counts one regulator fault, and its segment keeps its voltage (R468). -/
def failAvs (l : List Nat) (s : State) : State :=
  l.foldl (fun s _ => countEvent .chip 0 7 s) (onPower (fun p => { p with avsFailed := l.foldl insertNat p.avsFailed }) s)

/-- One control step: sensors and detector, and q_power where it is written; the steps without a write count (R402). -/
def controlStep (x : CtlSample) (s : State) : State :=
  let writes := x.written && coreRuns s
  let s1 := onlyIf (coreRuns s) (failAvs x.avsFailed) (senseStep x s)
  onPower (fun p => { p with steps := p.steps + 1, stepsNoQ := if writes then 0 else p.stepsNoQ + 1 }) (if writes then writeCeiling x s1 else s1)

/-- The power control hardware runs, with firmware or without it (R29, R402). -/
def hwRuns (s : State) : Bool := !s.clocks.coreReset && s.pins.ioUp && s.dev.state != .thermalOff

def execControlStep (x : CtlSample) (s : State) : Out := effect (onlyIf (hwRuns s) (controlStep x)) s

/-- THERMAL_EMERGENCY_END (R398): control returns at the next point decision. -/
def endEmergency (s : State) : State :=
  if s.power.emergency && decide (250 ≤ s.power.quiet) && decide (s.power.tjMax ≤ 1520) then
    onPower (fun p => { p with emergency := false, again := true, anew := true, rth := Frac.max p.rthBefore (rthNom s.env.flow) }) s
  else s

def execThermalEmergencyEnd (s : State) : Out := effect (onlyIf (coreRuns s) endEmergency) s

/-! ### POINT_DECISION (R387 to R389) -/

/-- The phase code of a forme index (R196). -/
def phaseOfForme (i : Image) (k : Nat) : Nat :=
  match i.formes.find? (fun r => r.forme = k) with
  | some r => r.phase
  | none => if k < i.hdr.fwd then 0 else if k < i.hdr.fwd + i.hdr.bwd then 1 else if k < i.hdr.fwd + i.hdr.bwd + i.hdr.exch + 1 then 5 else 3

/-- Forme indices of a step. -/
def formesOfStep (i : Image) : Nat := i.hdr.fwd + i.hdr.bwd + i.hdr.exch + 1 + i.hdr.opt

/-- The frame in progress is known to be withheld, so the next one runs its forme index again (R43, R44). -/
def willReplay (s : State) : Bool :=
  s.frame.known.any (fun h => holdTarget h == s.tick.domain + 1 && !holdVoid s h) || s.frame.ownLate == some s.tick.domain

/-- The forme index of the next frame: the one at which a chip that is HELD stopped (R297), the one in progress when it replays, the one
behind it, or the first of the next step, which regeneration frames precede (R354). -/
def nextForme (i : Image) (s : State) : Nat :=
  if s.frame.inStep && !formesRun s then s.frame.formeIdx
  else if !s.frame.inStep then (if s.step.regen then i.hdr.fwd + i.hdr.bwd + i.hdr.exch + 1 else 0)
  else if willReplay s then s.frame.formeIdx
  else if formesOfStep i ≤ s.frame.formeIdx + 1 then 0 else s.frame.formeIdx + 1

/-- The frame in progress closes its step, as far as the point decision can know. -/
def closesStep (s : State) : Bool :=
  match s.image.img with
  | some i => formesRun s && !s.step.regen && !willReplay s && decide (formesOfStep i ≤ s.frame.formeIdx + 1)
  | none => false

/-- The next tick is the cut of a snapshot that has been taken (R345). -/
def cutComing (s : State) : Bool :=
  match s.snap.run with
  | none => false
  | some r =>
    let closes := closesStep s
    let applied := s.step.record.applied.toNat + (if closes && s.step.record.outcome = 1 then 1 else 0)
    let still := (s.dev.state = .held || s.dev.state = .loaded) && !s.frame.inStep
    r.due || ((closes || still) && ((r.within && closes) || r.step = 0 || decide (r.step.toNat ≤ applied)))

/-- The stop of a snapshot ends at the next tick (R347). -/
def stopEnding (s : State) : Bool :=
  s.snap.run.any (fun r => (r.xfer.take s.fabric.sends).closed (partnerOf s r.generation))

/-- The repairs for which a chip left RUNNING have ended, or end with the tick, and it opens its next step (R248, R370, R389). -/
def repairEnding (s : State) : Bool :=
  s.dev.state = .held && s.dev.goOn && !s.dev.reimposing && !reimpWork s && s.dev.retrain.isEmpty && !s.own.holder.isNone && !s.dev.uncontrolled
    && !s.dev.retraining.any (fun p => decide ((claspOf p s).state = 1)
      && decide ((s.dev.retrainTicks + 1) * frameUs s.tick.rate < 50000))

/-- The state in the next frame, as far as the point decision can know: stop frames begin and end, RUN_STEPS and RESUME take effect, and a
step count, a HOLD, a stall or a retraining ends the run (R48, R214, R248, R272, R297, R345, R347, R370). -/
def nextState (s : State) : DevState :=
  let hold := (acceptedOp s 0x52).isSome
  let closes := closesStep s
  if s.dev.state = .snapshotting then
    (if stopEnding s then (if hold then .held else s.dev.left.getD .held) else .snapshotting)
  else if cutComing s then .snapshotting
  else if s.dev.state = .loaded && s.step.startAt then .running
  else if s.dev.state = .held && s.step.resumeAt && !s.frame.stuck && s.step.proof.isNone then .running
  else if s.dev.state = .held && s.frame.retry && !willReplay s then .running
  else if repairEnding s then .running
  else if s.dev.state != .running then s.dev.state
  else if closes && s.step.stepsLeft == some 1 then .loaded
  else if hold && (closes || !willReplay s) then .held
  else if closes && (s.dev.leaseHold || reimpWork s || !s.dev.retrain.isEmpty || (s.step.record.outcome != 1 && decide (2 ≤ s.step.record.skips.toNat))) then .held
  else .running

/-- The phase of the next frame (R387). -/
def nextPhase (s : State) : Nat :=
  match nextState s, s.image.img with
  | .snapshotting, _ => 4
  | .running, some i => phaseOfForme i (nextForme i s)
  | _, _ => 5

/-- An FP32 energy in joules as a fraction. -/
def joules (w : W32) : Frac :=
  if !f32Finite w then Frac.ofNat 0
  else
    let d := f32Val w
    match d.e with
    | .ofNat n => Frac.ofInt (d.m * (p2 n : Int))
    | .negSucc n => Frac.mk' d.m (p2 (n + 1))

/-- Energies of the phase run from a forme index, within 250 formes across step boundaries (R389). -/
def runEnergies (i : Image) (phase : Nat) : Nat → Nat → List Frac
  | 0, _ => []
  | n + 1, k =>
    if phaseOfForme i k = phase then joules (i.energy.getD k 0) :: runEnergies i phase n (if formesOfStep i ≤ k + 1 then 0 else k + 1)
    else []

/-- The mean forecast power of a phase run in mW (R389). -/
def runPower (s : State) (i : Image) (phase : Nat) : Frac :=
  let l := runEnergies i phase 250 (nextForme i s)
  Frac.div (Frac.mul (l.foldl Frac.add (Frac.ofNat 0)) (Frac.ofNat 1000000000)) (Frac.ofNat (Nat.max 1 l.length * frameUs s.tick.rate))

/-- P_c64 at the point in force for a decision: measured, or forecast when the frame opens a phase run (R389). -/
def decisionC64 (s : State) (phase : Nat) : Frac × Nat :=
  match s.image.img with
  | some i =>
    if nextState s = .running && s.power.lastPhase != some phase then
      let q := (phaseFit s phase).2
      (Frac.div (Frac.mul (Frac.sub (Frac.sub (Frac.sub (runPower s i phase) (pLink s)) (pFix s)) (pMem s)) (Frac.ofNat 64)) (Frac.ofNat q),
       (phaseFit s phase).1)
    else (pC64 s, s.power.point)
  | none => (pC64 s, s.power.point)

/-- q of R385 at a point; `c` is P_c64 and the point it was taken at (R386). -/
def qAtPoint (s : State) (pset : Frac) (c : Frac × Nat) (p : Nat) : Nat :=
  let fix := Frac.add (Frac.add (Frac.div (Frac.mul (share s 1) (pointFactor p)) (pointFactor s.power.point)) (share s 2)) (leakAt s p)
  let c64 := Frac.mul c.1 (Frac.div (pointFactor p) (pointFactor c.2))
  ceilingFor (Frac.sub (Frac.sub (Frac.sub pset (pLink s)) fix) (pMem s)) c64

def capacityAt (s : State) (pset : Frac) (c : Frac × Nat) (p : Nat) : Nat := aclkKhz p * qAtPoint s pset c p

/-- The point with the largest capacity, the lower on a tie. -/
def largestCap (cap : Nat → Nat) : List Nat → Nat
  | [] => 0
  | p :: rest => rest.foldl (fun b x => if cap b < cap x then x else b) p

/-- choose_point of R387. -/
def choosePoint (s : State) (phase : Nat) : Nat :=
  let pset := setPoint s
  let c := decisionC64 s phase
  let cap := capacityAt s pset c
  let fit := phaseFit s phase
  let p := s.env.preferred.getD phase 0xFF
  if p != 0xFF then
    if fit.2 ≤ qAtPoint s pset c p then p else largestCap cap (List.range (p + 1))
  else
    match (List.range 4).find? (fun k => decide (aclkKhz fit.1 * fit.2 ≤ cap k)) with
    | some k => k
    | none => largestCap cap [0, 1, 2, 3]

/-- The point chosen, with what overrides it: a phase run keeps its point (R389), a raise in steps is kept unless a lower budget calls for
a lower point (R388), the operating limit lowers it (R397), an emergency, a regulator fault or absent firmware takes OP0 (R398, R399,
R402), and the first decision behind one of these chooses anew. -/
def decidePoint (s : State) (phase : Nat) : Nat :=
  if heldDown s then 0
  else
    let fresh := choosePoint s phase
    let inRun := decide (nextState s = .running) && s.power.lastPhase == some phase && !s.power.qBelow && !s.power.anew
    let base := if inRun then s.power.raiseTo.getD s.power.nextPoint else fresh
    let kept := match s.power.raiseTo with
      | some t => if s.env.budget < s.power.raiseB && fresh < t then fresh else t
      | none => base
    if s.power.limit then Nat.min kept (s.power.point - 1) else kept

/-- POINT_DECISION: the next point, and the voltage of a raise; a raise of two or three points that has made its first step goes to its point
at the next tick (R388). -/
def pointDecision (s : State) : State :=
  let phase := nextPhase s
  let target := decidePoint s phase
  let cur := s.power.point
  let mid := s.power.raiseTo == some s.power.nextPoint
  let stepped := decide (cur + 1 < target) && !mid
  onPower (fun p => { p with
    lastPhase := some phase
    again := false
    anew := false
    raiseB := if p.raiseTo.isSome then p.raiseB else s.env.budget
    nextPoint := if stepped then cur + 1 else target
    raiseTo := if stepped then some target else none
    slewMv := if cur < target then pointMv target else p.slewMv
    setpointMv := if cur < target then Nat.min p.setpointMv (pointMv target) else p.setpointMv
    avsFailed := if cur < target && p.slewMv != pointMv target then [] else p.avsFailed
    slewing := p.slewing || decide (cur < target ∧ p.slewMv ≠ pointMv target) }) s

def execPointDecision (s : State) : Out := effect (onlyIf (coreRuns s) pointDecision) s

/-- VOLTAGE_SLEW_END (R388): the rail has settled, but for the segments whose regulator has not taken the command (R468); the detectors take the
new setpoint. -/
def endSlew (s : State) : State :=
  onPower (fun p => if p.slewing then
      { p with
        slewing := false
        railMv := p.slewMv
        setpointMv := p.slewMv
        segMv := (List.range 16).map (fun i => if p.avsFailed.contains i then p.segMv.getD i p.railMv else p.slewMv) }
    else p) s

def execVoltageSlewEnd (s : State) : Out := effect (onlyIf (coreRuns s) endSlew) s

/-! ### POWER_SAMPLE (R379 to R383, R399, R468) -/

/-- Least squares over the stored pairs, the gain held within 0.80 to 1.25 (R381). -/
def fitModel (pairs : List (Frac × Nat)) : Option (Frac × Frac) :=
  let n := Frac.ofNat pairs.length
  let sum := fun (f : Frac × Nat → Frac) => pairs.foldl (fun a p => Frac.add a (f p)) (Frac.ofNat 0)
  let sx := sum (·.1)
  let sy := sum (fun p => Frac.ofNat p.2)
  let d := Frac.sub (Frac.mul n (sum (fun p => Frac.mul p.1 p.1))) (Frac.mul sx sx)
  if Frac.le d (Frac.ofNat 0) then none
  else
    let g := Frac.div (Frac.sub (Frac.mul n (sum (fun p => Frac.mul p.1 (Frac.ofNat p.2)))) (Frac.mul sx sy)) d
    let g := Frac.max (Frac.mk' 4 5) (Frac.min (Frac.mk' 5 4) g)
    some (g, Frac.div (Frac.sub sy (Frac.mul g sx)) n)

/-- The calibrated estimate of a millisecond. -/
def calibrated (s : State) (raw : Frac) : Frac := Frac.add (Frac.mul s.power.gain raw) s.power.offset

/-- Two powers differ by more than a percentage of the metered one. -/
def apart (percent : Nat) (e : Frac) (metered : Nat) : Bool :=
  let d := Frac.sub e (Frac.ofNat metered)
  Frac.lt (Frac.mk' (percent * metered : Nat) 100) (Frac.max d (Frac.sub (Frac.ofNat 0) d))

/-- The rails of R455 on the buses of R460: the segments of VDD_CORE, 4 r + j for rail select j of bus r, then those of PMB4 and PMB5 in the
order of the table. The core regulators are the first 16. -/
def railCount : Nat := 23
def coreRegulators (x : Telemetry) : List Nat := x.faulted.filter (· < 16)

/-- The rails of a read: a missed rail keeps its value, and the second miss in a row counts one regulator fault (R468). -/
def readRails (x : Telemetry) (s : State) : State :=
  let n := railCount
  let vals := (List.range n).map (fun i => (x.railsMw.getD i none).getD (s.power.lastRails.getD i 0))
  let missed := (List.range n).filter (fun i => (x.railsMw.getD i none).isNone)
  let again := missed.filter (fun i => s.power.missed.contains i)
  let s1 := onPower (fun p => { p with lastRails := vals, metered := vals.sum, missed := missed.filter (fun i => !again.contains i) }) s
  again.foldl (fun s _ => countEvent .chip 0 7 s) s1

/-- Regulators that report a fault, and those that have not for another millisecond (R399). -/
def readStatus (x : Telemetry) (s : State) : State :=
  let s1 := onPower (fun p => { p with regFaults := p.regFaults.map (fun r => (r.1, if x.faulted.contains r.1 then 0 else r.2 + 1)) }) s
  (coreRegulators x).foldl (fun s r =>
    if (SMap.get? s.power.regFaults r).isSome then s
    else countEvent .chip 0 7 (emergencyStop (onPower (fun p => { p with regFaults := SMap.put p.regFaults r 0, rthBefore := rthOf s }) s))) s1

/-- POWER_SAMPLE. -/
def powerSample (x : Telemetry) (s : State) : State :=
  let s1 := readRails x s
  let m := s1.power.metered
  let raw := rawPower s1 x.act 1000
  let e := calibrated s1 raw
  let live := s1.power.modelled && !s1.power.fallback && guardLeft s1.power = 0
  let pairs := ((raw, m) :: s1.power.pairs).take 1000
  let s2 := onPower (fun p => { p with
    eUsed := if p.winTicks = 0 then 0 else p.eUsed + 1000 * m
    pairs := pairs
    gain := if p.frozen then p.gain else ((fitModel pairs).map (·.1)).getD p.gain
    offset := if p.frozen then p.offset else ((fitModel pairs).map (·.2)).getD p.offset
    divergeMs := if live && apart 12 e m then p.divergeMs + 1 else 0
    agreeMs := if p.fallback && !apart 6 e m then p.agreeMs + 1 else 0
    steadyMin := if p.steadyN = 0 then m else Nat.min p.steadyMin m
    steadyMax := Nat.max p.steadyMax m
    steadySum := p.steadySum + m
    steadyN := p.steadyN + 1 }) s1
  readStatus x (onLife (fun l => { l with energy := l.energy + 1000 * m }) s2)

def execPowerSample (x : Telemetry) (s : State) : Out := effect (onlyIf (coreRuns s) (powerSample x)) s

/-- REGULATOR_FAULT_END (R399): 1,000 milliseconds without a fault. -/
def endRegFault (reg : Nat) (s : State) : State :=
  if 1000 ≤ SMap.getD s.power.regFaults reg 0 then
    let s1 := onPower (fun p => { p with regFaults := SMap.del p.regFaults reg }) s
    if s1.power.regFaults.isEmpty && !s1.power.emergency then
      onPower (fun p => { p with again := true, anew := true, rth := Frac.max p.rthBefore (rthNom s.env.flow) }) s1
    else s1
  else s

def execRegulatorFaultEnd (reg : Nat) (s : State) : Out := effect (onlyIf (coreRuns s) (endRegFault reg)) s

/-- DIVERGENCE_FALLBACK (R383). -/
def divergence (s : State) : State :=
  if !s.power.fallback && decide (500 ≤ s.power.divergeMs) then
    countEvent .chip 0 6 (onPower (fun p => { p with fallback := true, frozen := true, modelled := false, divergeMs := 0, agreeMs := 0 }) s)
  else s

def execDivergenceFallback (s : State) : Out := effect (onlyIf (coreRuns s) divergence) s

/-- DIVERGENCE_FALLBACK_END (R383). -/
def divergenceEnd (s : State) : State :=
  if s.power.fallback && decide (10000 ≤ s.power.agreeMs) then
    onPower (fun p => { p with fallback := false, frozen := false, pairs := [], guardUs := 1000000 + 20 * p.steps, divergeMs := 0, agreeMs := 0,
                               modelled := modelledCond s }) s
  else s

def execDivergenceFallbackEnd (s : State) : Out := effect (onlyIf (coreRuns s) divergenceEnd) s

/-- GUARD_BAND_END (R382): the second has passed. -/
def guardEnd (s : State) : State := onPower (fun p => if guardLeft p = 0 then { p with guardUs := 0 } else p) s

def execGuardBandEnd (s : State) : Out := effect (onlyIf (coreRuns s) guardEnd) s

/-! ### Windows (R57, R376, R378, R395) -/

/-- A window in seconds as ticks (R57). -/
def windowTicks (r : TickRate) (ms : Nat) : Nat := ms * rateHz r / 1000

/-- The next averaging window opens: now when the tick is a multiple of its length, otherwise none runs until such a tick (R12, R286, R403). -/
def openWindow (s : State) : State :=
  let w := windowTicks s.tick.rate s.env.windowMs
  onPower (fun p => { p with eUsed := 0, aElapsed := 0, bElapsed := 0, winElapsed := 0, winTicks := if s.tick.count.toNat % w = 0 then w else 0 }) s

/-- Close the averaging window now (R378): the average over its actual length, and "budget unmet". -/
def closeWindow (s : State) : State :=
  let us := Nat.max 1 (s.power.winElapsed * frameUs s.tick.rate)
  let avg := s.power.eUsed / us
  let s1 := if s.power.bElapsed < s.power.eUsed then
      recordEvent 0x000D (leBytes 2 (s.env.budget / 1000) ++ leBytes 2 (avg / 1000) ++ leBytes 4 s.power.winElapsed) s
    else s
  let ms := s.env.windowNext.getD s.env.windowMs
  openWindow (onEnv (fun e => { e with average := avg, windowMs := ms, windowNext := none }) s1)

/-- AVERAGING_WINDOW_END: the window's last tick has passed. -/
def averagingEnd (s : State) : State :=
  if 0 < s.power.winElapsed && s.tick.count.toNat % s.power.winTicks = 0 then closeWindow s else s

def execAveragingWindowEnd (s : State) : Out := effect (onlyIf (coreRuns s) averagingEnd) s

/-- Open a new steady window. -/
def openSteady (s : State) : State :=
  onPower (fun p => { p with steadyOk := true, steadyMin := 0, steadyMax := 0, steadySum := 0, steadyN := 0 }) s

/-- Rth from one steady window (R395), at the inlet temperature that it had. A new flow that takes effect at the tick which ends the window sets
Rth anew (R394), and the window's sample changes it no more. -/
def steadySample (s : State) : State :=
  let p := s.power
  if p.steadyOk && !p.newFlow && decide (0 < p.steadySum) && decide (10 * (p.steadyMax - p.steadyMin) * p.steadyN ≤ p.steadySum) then
    let r := Frac.div (Frac.mk' ((p.tjMax - p.steadyIn) * 1000 * p.steadyN) 16) (Frac.ofNat p.steadySum)
    let new := Frac.div (Frac.add (Frac.mul (Frac.ofNat 3) p.rth) r) (Frac.ofNat 4)
    onPower (fun x => { x with rth := Frac.max new (Frac.div (rthNom s.env.flow) (Frac.ofNat 2)) }) s
  else s

/-- STEADY_WINDOW_END. -/
def steadyEnd (s : State) : State :=
  if 0 < s.power.steadyN && s.tick.count.toNat % rateHz s.tick.rate = 0 then openSteady (steadySample s) else s

def execSteadyWindowEnd (s : State) : Out := effect (onlyIf (coreRuns s) steadyEnd) s

/-! ### Sensors' events (R391, R393) -/

def sensorEvent (region spot : Nat) (s : State) : State := countEvent .region region (0x10 + spot) s

/-- SENSOR_LOST: it counts one event of sensor disagreement. -/
def loseSensor (region spot which : Nat) (s : State) : State :=
  let k := sensorKey region spot which
  let x := sensorOf s k
  if sensorBad x && !x.lost then
    sensorEvent region spot (onPower (fun p => { p with sensors := SMap.put p.sensors k { x with lost := true, good := 0 } }) s)
  else s

def execSensorLost (region spot which : Nat) (s : State) : Out := effect (onlyIf (coreRuns s) (loseSensor region spot which)) s

/-- SENSOR_RESTORED: after 1,000 consecutive valid steps. -/
def restoreSensor (region spot which : Nat) (s : State) : State :=
  let k := sensorKey region spot which
  let x := sensorOf s k
  if x.lost && decide (1000 ≤ x.good) then onPower (fun p => { p with sensors := SMap.put p.sensors k { x with lost := false } }) s else s

def execSensorRestored (region spot which : Nat) (s : State) : Out := effect (onlyIf (coreRuns s) (restoreSensor region spot which)) s

/-- SENSOR_DISAGREEMENT: 50 ticks apart; the run restarts. -/
def sensorApart (region spot : Nat) (s : State) : State :=
  let sp := 16 * region + spot
  if 51 ≤ SMap.getD s.power.disagree sp 0 then
    sensorEvent region spot (onPower (fun p => { p with disagree := SMap.put p.disagree sp 1 }) s)
  else s

def execSensorDisagreement (region spot : Nat) (s : State) : Out := effect (onlyIf (coreRuns s) (sensorApart region spot)) s

/-! ### Hardware (R390, R400, R402) -/

/-- FIRMWARE_ABSENT_FALLBACK (R402): five steps, or 16 ticks, without a write. Its hardware needs no firmware. -/
def firmwareAbsent (s : State) : State :=
  if 16 ≤ s.power.ticksNoQ then onPower (fun p => { p with absent := 2, nextPoint := 0, raiseTo := none }) s
  else if 5 ≤ s.power.stepsNoQ then onPower (fun p => { p with absent := Nat.max p.absent 1, q := Nat.min p.q 32 }) s
  else s

def execFirmwareAbsentFallback (s : State) : Out := effect (onlyIf (hwRuns s) firmwareAbsent) s

/-- A sensor reaches 110 °C while the switched rails are on: its comparator needs no firmware (R272, R400, R418). -/
def mayTrip (s : State) : Bool := !s.clocks.coreReset && s.pins.ioUp && s.dev.state != .thermalOff

/-- THERMAL_TRIP (R400): arrays stop, a hold goes out, from a replay too, the pins act, the links fall, THERMAL_OFF. HBM serves nothing
more. -/
def thermalTrip (s : State) : State :=
  let s1 := stopArrays (sendHold false s)
  let s2 := onPins (fun p => { p with thermTrip := true, vrSram := false, vrCore := false, vrHbm := false, vrSerdes := false }) s1
  let s3 := (List.range 20).foldl (fun s p => onClasp p (fun c => { c with state := 4, lanes := 0, byItself := false }) s) s2
  setState .thermalOff (onHbm (fun h => { h with training := List.range 8, bar2Waits := [], pktWaits := [] }) s3)

def execThermalTrip (_region _spot : Nat) (s : State) : Out := effect (onlyIf (mayTrip s) thermalTrip) s

/-- DROOP_TRIP (R390): half the value in force, at least 4. -/
def droopTrip (block : Nat) (s : State) : State :=
  let q := Nat.max 4 ((droopOf s block) / 2)
  onlyIf (coreRuns s) (countEvent .block block 3) (onPower (fun p => { p with droop := SMap.put p.droop block { q := q, trip := q } }) s)

/-- The detectors of a block run with its region's clocks, whatever has become of firmware (R390, R402). -/
def blockRuns (s : State) (block : Nat) : Bool := hwRuns s && !s.clocks.stopped.contains (block / 8)

def execDroopTrip (block : Nat) (s : State) : Out := effect (onlyIf (blockRuns s block) (droopTrip block)) s

/-- DROOP_RESTORE_STEP (R390): one eighth of what the trip took. -/
def droopRestore (block : Nat) (s : State) : State :=
  onPower (fun p => match SMap.get? p.droop block with
    | some d =>
      let q := Nat.min 64 (d.q + ceilDiv (64 - d.trip) 8)
      { p with droop := if q = 64 then SMap.del p.droop block else SMap.put p.droop block { d with q := q } }
    | none => p) s

def execDroopRestoreStep (block : Nat) (s : State) : Out := effect (onlyIf (blockRuns s block) (droopRestore block)) s

/-! ### What a tick does for power (R376, R388, R393, R397, R398, R402) -/

/-- The budget rises towards its target (R376). -/
def rampBudget (s : State) : State :=
  onEnv (fun e => { e with budget := if e.budget < e.budgetTarget then Nat.min e.budgetTarget (e.budget + 250 * frameUs s.tick.rate) else e.budget }) s

/-- Inlet and flow take effect (R285, R394, R395). -/
def applyCoolant (s : State) : State :=
  let flow := s.env.flowNext.getD s.env.flow
  let changed := s.env.inletNext.getD s.env.inlet != s.env.inlet || flow != s.env.flow
  let s1 := if flow != s.env.flow then onPower (fun p => { p with rth := rthNom flow }) s else s
  onPower (fun p => { p with steadyFrame := p.steadyFrame && !changed, steadyIn := s.env.inlet, newFlow := flow != s.env.flow }) (onEnv (fun e => { e with
    inlet := e.inletNext.getD e.inlet
    flow := e.flowNext.getD e.flow
    offset := e.offsetNext.getD e.offset
    inletNext := none
    flowNext := none
    offsetNext := none }) s1)

/-- The point of the new frame (R388): unless a raise goes on, the voltage is commanded now where it is not the point's, so behind a fall and
where an emergency or a lower budget abandons a raise (R403). A switch due at a tick before which a region's PLL lost lock is abandoned, that to
OP0 too, which then follows at the next tick (R418). -/
def takePoint (s : State) : State :=
  onClocks (fun c => { c with lockLost := false }) (onPower (fun p =>
    let n := if s.clocks.lockLost then p.point else if heldDown s then 0 else p.nextPoint
    let goal := if heldDown s || s.clocks.lockLost then n else p.raiseTo.getD n
    let mv := if n < goal then p.slewMv else pointMv n
    { p with
      point := n
      nextPoint := goal
      raiseTo := if n < goal then some goal else none
      steadyFrame := p.steadyFrame && decide (n = p.point) && !p.emergency
      slewMv := mv
      setpointMv := Nat.min p.setpointMv mv
      avsFailed := if p.slewMv = mv then p.avsFailed else []
      slewing := p.slewing || p.slewMv != mv }) s)

/-- The operating limit (R397). -/
def operatingLimit (s : State) : State :=
  let on := decide (1680 ≤ s.power.tjMax) || (s.power.limit && decide (1648 ≤ s.power.tjMax))
  onPower (fun p => { p with limit := on, q := if on then Nat.min p.q 32 else p.q }) s

/-- What the hardware does at a tick without firmware (R402): the ticks without a write count, and a thermal emergency or 16 such ticks take
the chip to OP0 and q_power 8. -/
def hardwareTick (s : State) : State :=
  let s1 := onPower (fun p => { p with
    quiet := if p.noisy then 0 else p.quiet + 1
    noisy := false
    ticksNoQ := p.ticksNoQ + 1
    steps := 0
    writes := 0 }) s
  if heldDown s1 then onPower (fun p => { p with q := 8 }) (takePoint s1) else s1

/-- All of it, at a tick; B × F joins the window's allowance for the frame that ends. -/
def powerTick (s : State) : State :=
  let f := frameUs s.tick.rate
  let s1 := onPower (fun p => { p with
    aElapsed := if p.winTicks = 0 then 0 else p.aElapsed + guardedB s * f / 100
    bElapsed := if p.winTicks = 0 then 0 else p.bElapsed + s.env.budget * f
    guardUs := p.guardUs - f
    steadyOk := p.steadyOk && p.steadyFrame
    steadyFrame := true
    winElapsed := if p.winTicks = 0 then 0 else p.winElapsed + 1
    quiet := if p.noisy then 0 else p.quiet + 1
    noisy := false
    disagree := p.disagree.map (fun d => (d.1, d.2 + 1))
    absent := if p.absent = 2 && decide (f ≤ 20 * p.writes) then 0 else p.absent
    anew := p.anew || (decide (p.absent = 2) && decide (f ≤ 20 * p.writes))
    ticksNoQ := if p.writes = 0 then p.ticksNoQ + 1 else 0
    steps := 0
    writes := 0
    qBelow := true }) s
  let s2 := takePoint (applyCoolant (rampBudget (if s1.power.winTicks = 0 then openWindow s1 else s1)))
  let s3 := if heldDown s2 then onPower (fun p => { p with q := 8 }) s2 else s2
  operatingLimit s3

end Sys2Proof.Machine
end

