-- ==== Sys2Proof/Machine/FaultRows.lean ====
section
/-! DEFINITION. The events of the fault collectors (R359 to R371). -/

namespace Sys2Proof.Machine
open Sys2Proof

/-- The collectors count: the core runs and start-up has passed step 9 (R415). -/
def collectorsRun (s : State) : Bool := coreRuns s && decide (3 ≤ s.dev.bootStage)

/-- A PCIe error is one that its port has logged in its AER registers (R254). -/
def logAer (level : Level) (source : Nat) (s : State) : State :=
  if level != .chip then s
  else if source = 1 || source = 2 then onPort (if source = 1 then .a else .b) (fun q => { q with aerCorr := true }) s
  else if source = 3 || source = 4 then onPort (if source = 3 then .a else .b) (fun q => { q with aerUncorr := true }) s
  else s

/-- FAULT_EVENT (R254, R361, R362, R369, R370). `early` marks an event latched before its collector's count changes (R56). -/
def execFaultEvent (level : Level) (unit source : Nat) (early : Bool) (s : State) : Out :=
  effect (fun s => onlyIf (collectorsRun s) (countEventWith level unit source false early true) (logAer level source s)) s

/-- The count of a window that has ended clears (R361); the counts of a FENCED cell stand (R370). -/
def clearOldWindow (l : Level) (unit source : Nat) (s : State) : State :=
  let f := faultSrc l unit source s
  if f.count != 0 && windowCount f s.tick.count = 0 && (l != .cell || cellState unit s != .fenced) then
    setFaultSrc l unit source { f.endWindow s.tick.count with count := 0, real := false, lastStamp := s.tick.count } s
  else s

/-- FAULT_WINDOW_START (R303, R361, R364): the old window's count clears, and a waiting FAULT_CONFIG is put in force. -/
def startWindow (l : Level) (unit source : Nat) (s : State) : State := installCfg l unit source (clearOldWindow l unit source s)

def execFaultWindowStart (level : Level) (unit source : Nat) (s : State) : Out :=
  effect (onlyIf (collectorsRun s) (startWindow level unit source)) s

end Sys2Proof.Machine
end

