-- ==== Sys2Proof/Machine/Slh.lean ====
section
/-! DEFINITION. SLH-DSA (FIPS 205) with SHA-256 and n = 16, which the hallmark and the firmware's signature use (R422, R430, R431). The manual
names the standard and does not repeat it (PRESUMED, log entry 30). -/

namespace Sys2Proof.Machine
open Sys2Proof

/-- A parameter set: the layers of the hypertree, the height of each tree in it, and the height and number of the FORS trees. -/
structure SlhParam where
  d : Nat
  hp : Nat
  a : Nat
  k : Nat
deriving DecidableEq, Repr

/-- SLH-DSA-SHA2-128s and SLH-DSA-SHA2-128f. -/
def slh128s : SlhParam := { d := 7, hp := 9, a := 12, k := 14 }
def slh128f : SlhParam := { d := 22, hp := 3, a := 6, k := 33 }

/-- Bytes of the n = 16 strings, and chains of a WOTS+ key. -/
def slhN : Nat := 16
def wotsLen : Nat := 35

/-- Bytes of a signature. -/
def SlhParam.sigLen (p : SlhParam) : Nat := (1 + p.k * (p.a + 1) + p.d * p.hp + p.d * wotsLen) * slhN

/-- A big-endian integer of n bytes, and the integer that bytes spell. -/
def beBytes (n v : Nat) : List Byte := (leBytes n v).reverse
def beNat (b : List Byte) : Nat := leNat b.reverse

/-- An address: its layer, tree and type, and the three words behind the type. -/
structure SlhAdrs where
  layer : Nat
  tree : Nat
  type : Nat
  w1 : Nat
  w2 : Nat
  w3 : Nat
deriving DecidableEq, Repr

/-- The compressed form of an address. -/
def SlhAdrs.bytes (x : SlhAdrs) : List Byte :=
  beBytes 1 x.layer ++ beBytes 8 x.tree ++ beBytes 1 x.type ++ beBytes 4 x.w1 ++ beBytes 4 x.w2 ++ beBytes 4 x.w3

/-- F, H, T and PRF: the message under a seed and an address. -/
def slhHash (seed : List Byte) (x : SlhAdrs) (m : List Byte) : List Byte := (sha256 (seed ++ zeros 48 ++ x.bytes ++ m)).take slhN

/-- MGF1 with SHA-256, from block i. -/
def mgf1 : Nat → Nat → List Byte → List Byte
  | 0, _, _ => []
  | n + 1, i, seed => sha256 (seed ++ beBytes 4 i) ++ mgf1 n (i + 1) seed

/-- The bytes of a message digest that name the FORS indices, the tree and the leaf. -/
def SlhParam.mdLen (p : SlhParam) : Nat := ceilDiv (p.k * p.a) 8
def SlhParam.treeLen (p : SlhParam) : Nat := ceilDiv ((p.d - 1) * p.hp) 8
def SlhParam.leafLen (p : SlhParam) : Nat := ceilDiv p.hp 8

/-- H_msg. -/
def slhDigest (p : SlhParam) (r seed root m : List Byte) : List Byte :=
  let n := p.mdLen + p.treeLen + p.leafLen
  (mgf1 (ceilDiv n 32) 0 (r ++ seed ++ sha256 (r ++ seed ++ root ++ m))).take n

/-- `n` digits of `b` bits, the first at the top of the bytes. -/
def slhDigits (x : List Byte) (b n : Nat) : List Nat :=
  let v := beNat x
  (List.range n).map (fun i => v / p2 (8 * x.length - b * (i + 1)) % p2 b)

/-! ### WOTS+ -/

/-- `s` steps of a chain from step i. -/
def wotsChain (seed : List Byte) (x : SlhAdrs) : Nat → Nat → List Byte → List Byte
  | 0, _, v => v
  | s + 1, i, v => wotsChain seed x s (i + 1) (slhHash seed { x with w3 := i } v)

/-- The 35 digits of a message with their checksum. -/
def wotsDigits (m : List Byte) : List Nat :=
  let l := slhDigits m 4 32
  l ++ slhDigits (beBytes 2 (l.foldl (fun c v => c + (15 - v)) 0 * 16)) 4 3

/-- The secret value of a chain. -/
def wotsSecret (sk seed : List Byte) (x : SlhAdrs) (i : Nat) : List Byte := slhHash seed { x with type := 5, w2 := i, w3 := 0 } sk

/-- The public key from the ends of the chains. -/
def wotsClose (seed : List Byte) (x : SlhAdrs) (ends : List (List Byte)) : List Byte :=
  slhHash seed { x with type := 1, w2 := 0, w3 := 0 } ends.flatten

/-- The public key of leaf x.w1. -/
def wotsKey (sk seed : List Byte) (x : SlhAdrs) : List Byte :=
  wotsClose seed x ((List.range wotsLen).map (fun i => wotsChain seed { x with w2 := i } 15 0 (wotsSecret sk seed x i)))

/-- A WOTS+ signature, and the public key that a signature leads to. -/
def wotsSign (sk seed : List Byte) (x : SlhAdrs) (m : List Byte) : List Byte :=
  ((wotsDigits m).zipIdx.map (fun v => wotsChain seed { x with w2 := v.2 } v.1 0 (wotsSecret sk seed x v.2))).flatten

def wotsFrom (seed : List Byte) (x : SlhAdrs) (m sig : List Byte) : List Byte :=
  wotsClose seed x ((wotsDigits m).zipIdx.map (fun v =>
    wotsChain seed { x with w2 := v.2 } (15 - v.1) v.1 (sliceB sig (slhN * v.2) slhN)))

/-! ### Trees -/

/-- A node at height z from what stands at height 0. -/
def slhNode (seed : List Byte) (x : SlhAdrs) (leaf : Nat → List Byte) : Nat → Nat → List Byte
  | 0, i => leaf i
  | z + 1, i => slhHash seed { x with w2 := z + 1, w3 := i } (slhNode seed x leaf z (2 * i) ++ slhNode seed x leaf z (2 * i + 1))

/-- The way up a tree: the siblings of a leaf, in `h` levels from level z. -/
def slhClimb (seed : List Byte) (x : SlhAdrs) (path : List Byte) : Nat → Nat → Nat → List Byte → List Byte
  | 0, _, _, v => v
  | h + 1, z, i, v =>
    let s := sliceB path (slhN * z) slhN
    slhClimb seed x path h (z + 1) (i / 2) (slhHash seed { x with w2 := z + 1, w3 := i / 2 } (if i % 2 = 0 then v ++ s else s ++ v))

/-- The other node below the same parent. -/
def sibling (i : Nat) : Nat := if i % 2 = 0 then i + 1 else i - 1

/-- A node of the XMSS tree of a layer. -/
def xmssNode (sk seed : List Byte) (x : SlhAdrs) : Nat → Nat → List Byte :=
  slhNode seed { x with type := 2, w1 := 0 } (fun i => wotsKey sk seed { x with type := 0, w1 := i, w2 := 0, w3 := 0 })

/-- The XMSS signature by a leaf, and the root that one leads to. -/
def xmssSign (p : SlhParam) (sk seed : List Byte) (x : SlhAdrs) (leaf : Nat) (m : List Byte) : List Byte :=
  wotsSign sk seed { x with type := 0, w1 := leaf } m
    ++ (List.range p.hp).flatMap (fun z => xmssNode sk seed x z (sibling (leaf / p2 z)))

def xmssFrom (p : SlhParam) (seed : List Byte) (x : SlhAdrs) (leaf : Nat) (m sig : List Byte) : List Byte :=
  slhClimb seed { x with type := 2, w1 := 0 } (sig.drop (slhN * wotsLen)) p.hp 0 leaf
    (wotsFrom seed { x with type := 0, w1 := leaf } m sig)

/-- The address of a tree in a layer. -/
def treeAdrs (layer tree : Nat) : SlhAdrs := { layer := layer, tree := tree, type := 0, w1 := 0, w2 := 0, w3 := 0 }

/-- Bytes of one layer's signature. -/
def SlhParam.xmssLen (p : SlhParam) : Nat := (wotsLen + p.hp) * slhN

/-- The hypertree's signature from a layer upwards, and the root that one leads to. -/
def htSign (p : SlhParam) (sk seed : List Byte) : Nat → Nat → Nat → Nat → List Byte → List Byte
  | 0, _, _, _, _ => []
  | n + 1, layer, tree, leaf, m =>
    let sig := xmssSign p sk seed (treeAdrs layer tree) leaf m
    sig ++ htSign p sk seed n (layer + 1) (tree / p2 p.hp) (tree % p2 p.hp) (xmssFrom p seed (treeAdrs layer tree) leaf m sig)

def htFrom (p : SlhParam) (seed sig : List Byte) : Nat → Nat → Nat → Nat → List Byte → List Byte
  | 0, _, _, _, m => m
  | n + 1, layer, tree, leaf, m =>
    htFrom p seed sig n (layer + 1) (tree / p2 p.hp) (tree % p2 p.hp)
      (xmssFrom p seed (treeAdrs layer tree) leaf m (sig.drop (p.xmssLen * layer)))

/-! ### FORS -/

/-- The secret value of a FORS leaf, and the node above it. -/
def forsSecret (sk seed : List Byte) (x : SlhAdrs) (i : Nat) : List Byte := slhHash seed { x with type := 6, w2 := 0, w3 := i } sk

def forsNode (sk seed : List Byte) (x : SlhAdrs) : Nat → Nat → List Byte :=
  slhNode seed x (fun i => slhHash seed { x with w2 := 0, w3 := i } (forsSecret sk seed x i))

/-- The FORS signature of the digest's indices, and the public key that one leads to. -/
def forsSign (p : SlhParam) (sk seed : List Byte) (x : SlhAdrs) (md : List Byte) : List Byte :=
  (slhDigits md p.a p.k).zipIdx.flatMap (fun v =>
    let i := v.2 * p2 p.a + v.1
    forsSecret sk seed x i ++ (List.range p.a).flatMap (fun z => forsNode sk seed x z (sibling (i / p2 z))))

def forsFrom (p : SlhParam) (seed : List Byte) (x : SlhAdrs) (md sig : List Byte) : List Byte :=
  slhHash seed { x with type := 4, w2 := 0, w3 := 0 } ((slhDigits md p.a p.k).zipIdx.flatMap (fun v =>
    let i := v.2 * p2 p.a + v.1
    let part := sig.drop (slhN * (p.a + 1) * v.2)
    slhClimb seed x (part.drop slhN) p.a 0 i (slhHash seed { x with w2 := 0, w3 := i } (part.take slhN))))

/-! ### Keys and signatures -/

/-- PK.root of the internal key generation. -/
def slhRoot (p : SlhParam) (skSeed pkSeed : List Byte) : List Byte := xmssNode skSeed pkSeed (treeAdrs (p.d - 1) 0) p.hp 0

/-- A message with its empty context string. -/
def slhMessage (m : List Byte) : List Byte := [0, 0] ++ m

/-- The digest of a message: the FORS indices, the tree and the leaf. -/
def slhSplit (p : SlhParam) (r pk m : List Byte) : List Byte × Nat × Nat :=
  let g := slhDigest p r (pk.take slhN) (pk.drop slhN) (slhMessage m)
  (g.take p.mdLen, beNat (sliceB g p.mdLen p.treeLen) % p2 ((p.d - 1) * p.hp), beNat (sliceB g (p.mdLen + p.treeLen) p.leafLen) % p2 p.hp)

/-- The address of the FORS key that a message's tree and leaf name. -/
def forsAdrs (tree leaf : Nat) : SlhAdrs := { treeAdrs 0 tree with type := 3, w1 := leaf }

/-- Sign a message: the secret seeds, the public key and the random bytes of a hedged signature. -/
def slhSign (p : SlhParam) (skSeed skPrf pk rand m : List Byte) : List Byte :=
  let seed := pk.take slhN
  let r := (hmac256 skPrf (rand ++ slhMessage m)).take slhN
  let x := slhSplit p r pk m
  let fs := forsSign p skSeed seed (forsAdrs x.2.1 x.2.2) x.1
  r ++ fs ++ htSign p skSeed seed p.d 0 x.2.1 x.2.2 (forsFrom p seed (forsAdrs x.2.1 x.2.2) x.1 fs)

/-- Verify a message's signature under a public key. -/
def slhVerify (p : SlhParam) (pk m sig : List Byte) : Bool :=
  let seed := pk.take slhN
  let x := slhSplit p (sig.take slhN) pk m
  let fs := sig.drop slhN
  sig.length = p.sigLen && pk.length = 2 * slhN
    && decide (htFrom p seed (fs.drop (slhN * (p.a + 1) * p.k)) p.d 0 x.2.1 x.2.2 (forsFrom p seed (forsAdrs x.2.1 x.2.2) x.1 fs) = pk.drop slhN)

end Sys2Proof.Machine
end

