-- ==== Sys2Proof/Machine/Firmware.lean ====
section
/-! DEFINITION. Firmware images and their staging (R309, R421 to R425), loupe runs (R100, R307), and transfers that go on
when their binding allows (R267). -/

namespace Sys2Proof.Machine
open Sys2Proof

/-! ### Images (R422, R423) -/

/-- Bytes of the signature block with its padding. -/
def sigBytes : Nat := 7936

/-- The first lines of R423: the header and every part. The signature block's padding counts as a part of the image that must be 0 (DEDUCED,
log entry 42). -/
def fwHeaderOk (b : List Byte) : Bool :=
  let n := fieldN b 6 2
  let len := fieldN b 8 4
  let sig := fieldN b 24 4
  64 ≤ b.length && fieldN b 0 4 = 0x48574650 && fieldN b 4 2 = 1 && 1 ≤ n && n ≤ 32 && len % 64 = 0 && len ≤ 29360128
    && len ≤ b.length && fieldN b 12 4 ≤ 64 && fieldN b 20 1 < 2 && zeroField b 21 3 && zeroField b 28 36
    && 64 + 48 * n ≤ len && sig % 64 = 0 && sig + sigBytes ≤ len
    && zeroField b (sig + 7888) 48
    && (List.range n).all (fun i =>
      let o := 64 + 48 * i
      zeroField b (o + 2) 2 && fieldN b (o + 4) 4 % 64 = 0 && fieldN b (o + 4) 4 + fieldN b (o + 8) 4 ≤ len)

def fwManifest (b : List Byte) : List Byte := sliceB b 0 (64 + 48 * fieldN b 6 2)

/-- The last lines of R423: each section's type and digest. -/
def fwSectionsOk (b : List Byte) : Bool :=
  (List.range (fieldN b 6 2)).all (fun i =>
    let o := 64 + 48 * i
    1 ≤ fieldN b o 2 && fieldN b o 2 ≤ 5 && decide (sha256 (sliceB b (fieldN b (o + 4) 4) (fieldN b (o + 8) 4)) = sliceB b (o + 16) 32))

/-- FIPS 205 accepts the image's signature over its manifest, with an empty context string (R422). -/
def fwSigned (b : List Byte) : Bool :=
  let sig := fieldN b 24 4
  slhVerify slh128s (sliceB b sig 32) (fwManifest b) (sliceB b (sig + 32) 7856)

/-- The outcome of verify under R423 and R425: DONE, SIGNATURE_INVALID or ROLLBACK_REFUSED. -/
def verifyFw (keyHash : List Byte) (counter : Nat) (x : Bank) : Nat :=
  let b := x.image
  if !fwHeaderOk b || sha256 (sliceB b (fieldN b 24 4) 32) != keyHash then stSignatureInvalid
  else if fieldN b 12 4 < counter then stRollbackRefused
  else if x.signed && fwSectionsOk b then stDone
  else stSignatureInvalid

/-- The sections that the boot ROM loads, by load address; a section at 0 stays in flash (R422, R424). -/
def fwLoaded (b : List Byte) : List (Nat × List Byte) :=
  (List.range (fieldN b 6 2)).filterMap (fun i =>
    let o := 64 + 48 * i
    if fieldN b (o + 12) 4 = 0 then none else some (fieldN b (o + 12) 4, sliceB b (fieldN b (o + 4) 4) (fieldN b (o + 8) 4)))

/-- The 64 bytes of a boot record (R421). -/
def BootRec.bytes (r : BootRec) : List Byte :=
  let body := leBytes 4 0x42524543 ++ leBytes 4 r.sequence.toNat ++ leBytes 1 r.primary ++ leBytes 1 r.slotB ++ leBytes 1 (bitAt r.swap 0) ++ zeros 49
  body ++ leBytes 4 (crc32c body).toNat

/-- The second copy is the one in force: its CRC is valid, and its sequence number higher where both are (R421). -/
def FlashSt.second (f : FlashSt) : Bool :=
  match f.copy0, f.copy1 with
  | some a, some b => a.sequence.toNat < b.sequence.toNat
  | none, some _ => true
  | _, none => false

/-- The boot record in force; without a valid copy, bank 0 is slot A and slot B is empty (R421). -/
def FlashSt.bootRec (f : FlashSt) : BootRec :=
  (if f.second then f.copy1 else f.copy0).getD { sequence := 0, primary := 0, slotB := 0, swap := false }

def FlashSt.primary (f : FlashSt) : Nat := f.bootRec.primary
def FlashSt.slotB (f : FlashSt) : Nat := f.bootRec.slotB
def FlashSt.swap (f : FlashSt) : Bool := f.bootRec.swap

/-- Put a copy in the place of the one that is not in force. -/
def FlashSt.overCopy (x : Option BootRec) (f : FlashSt) : FlashSt := if f.second then { f with copy0 := x } else { f with copy1 := x }

/-- Write a boot record over the other copy (R421). -/
def FlashSt.writeBoot (primary slotB : Nat) (swap : Bool) (f : FlashSt) : FlashSt :=
  f.overCopy (some { sequence := f.bootRec.sequence + 1, primary := primary, slotB := slotB, swap := swap })

/-- A power loss during such a write: the other copy's CRC fails, and the earlier record stays in force (R421, R436). -/
def FlashSt.tearBoot (f : FlashSt) : FlashSt := f.overCopy none

/-- What a bank holds after an image has been programmed into it. -/
def bankOf (b : List Byte) : Bank := { image := b, signed := fwSigned b }

def Bank.present (x : Bank) : Bool := !x.image.isEmpty
def Bank.svn (x : Bank) : Nat := fieldN x.image 12 4
def Bank.fw (x : Bank) : W32 := BitVec.ofNat 32 (fieldN x.image 16 4)
def Bank.commitSvn (x : Bank) : Bool := bitOf (fieldN x.image 20 1) 0
def Bank.manifest (x : Bank) : List Byte := fwManifest x.image

/-- Slot B takes a bank (R421). -/
def setSlotB (x : Bank) (f : FlashSt) : FlashSt := if f.primary = 0 then { f with bank1 := x } else { f with bank0 := x }

/-- The image's bytes have arrived (R425): the slot is erased, and programming begins. -/
def gotFirmware (b : List Byte) (s : State) : State :=
  let v := if b.length > 29360128 then stSignatureInvalid else verifyFw s.ident.keyHash (rollbackValue s) (bankOf b)
  onStaging (fun d => { d with stage := some (bankOf b, v) }) (onFlash (setSlotB Bank.empty) s)

/-- The first step of R425: slot_b = 1, and a requested swap is withdrawn. -/
def markStaging (s : State) : State := onFlash (fun f => f.writeBoot f.primary 1 false) s

def stageArgs (c : Cmd) (s : State) : Bool := tableArgs c s && c.n 16 8 ≤ 33554432

/-- FIRMWARE_STAGE (R309); what its read-back will meet stands beside it (R420). -/
def execFirmwareStage (data : FwBytes) (s : State) : Out :=
  effect (command 0x00A0 stageArgs (fun c s =>
    startRead 0xA0 gotFirmware data.bytes c
      (markStaging (onStaging (fun d => { d with corrected := data.corrected, badReads := data.badReads }) s)))) s

/-- The status that the read-back gives: an uncorrectable read fails the bank's verification (R420, R425). -/
def stageStatus (v : Nat) (s : State) : Nat := if v = stDone && s.staging.badReads != 0 then stSignatureInvalid else v

/-- FIRMWARE_STAGE_DONE (R425): a failed stage leaves the slot marked empty. Each read that the flash reports counts (R420). -/
def runStageDone (s : State) : State :=
  match s.staging.stage with
  | none => s
  | some (x, v) =>
    let w := stageStatus v s
    finishCmd 0xA0 w 0 [] (onStaging (fun _ => StagingSt.reset)
      (onFlash (fun f => (setSlotB x f).writeBoot f.primary (if w = stDone then 2 else 0) f.swap)
        ((List.range (s.staging.corrected + s.staging.badReads)).foldl (fun s _ => countEvent .chip 0 5 s) s)))

def execFirmwareStageDone (s : State) : Out := effect (onlyIf (coreRuns s) runStageDone) s

/-- FIRMWARE_ACTIVATE (R309, R425). -/
def runActivate (c : Cmd) (s : State) : State :=
  if s.flash.slotB != 2 then c.finish stWrongState [] s
  else
    let s1 := onFlash (fun f => f.writeBoot f.primary f.slotB true) s
    if bitOf (c.n 0 1) 0 then finishAndReset c s1 else c.finish stDone [] s1

def execFirmwareActivate (s : State) : Out :=
  effect (command 0x00A1 (fun c _ => c.argLen = 4 && c.n 0 1 < 2 && c.zero 1 3) runActivate) s

/-! ### The device certificate (R432) -/

/-- The first element of DER bytes: its tag, its contents, and what follows it. -/
def derHead : List Byte → Option (Nat × List Byte × List Byte)
  | t :: l :: rest =>
    if l.toNat < 0x80 then some (t.toNat, rest.take l.toNat, rest.drop l.toNat)
    else
      let k := l.toNat - 0x80
      let n := beNat (rest.take k)
      some (t.toNat, (rest.drop k).take n, rest.drop (k + n))
  | _ => none

/-- At most `n` elements in a row. -/
def derItems : Nat → List Byte → List (Nat × List Byte)
  | 0, _ => []
  | n + 1, b =>
    match derHead b with
    | none => []
    | some (t, c, rest) => (t, c) :: derItems n rest

/-- Element `i` of a sequence's contents. -/
def derAt (i : Nat) (b : List Byte) : List Byte := ((derItems (i + 1) b)[i]?.getD (0, [])).2

/-- The subject's public key of an X.509 v3 certificate: behind version, serial number, algorithm, issuer, validity and subject, the bit string
of the key information without its count of unused bits (PRESUMED, log entry 30). -/
def certKey (cert : List Byte) : List Byte := (derAt 1 (derAt 6 (derAt 0 cert))).drop 1

/-- The key of the device certificate, the third of the chain. -/
def deviceKey (chain : List Byte) : List Byte := certKey (derAt 2 chain)

/-! ### LOUPE (R100, R307) -/

/-- The record of a cell's forme as the cell runs it, and the pass that the arguments name. -/
def loupeRecord (a : List Byte) (s : State) : Option FormeRec := (recordsOf s (fieldN a 0 2)).find? (fun r => r.forme = fieldN a 4 2)

def loupePass (a : List Byte) (s : State) : Option PassDesc :=
  match (loupeRecord a s).bind (fun r => r.items.find? (fun it => it.number = fieldN a 6 2)) with
  | some { body := .pass d, .. } => some d
  | _ => none

/-- Bytes that a loupe returns: 4 long tiles per 32 rows. -/
def loupeBytes (a : List Byte) : Nat := fieldN a 10 2 / 32 * 4 * longTileBytes

def loupeArgs (c : Cmd) (s : State) : Bool :=
  c.argLen = 24 && c.n 0 2 < 288 && c.n 2 1 ≤ 3 && c.n 8 2 % 32 = 0 && c.n 10 2 % 32 = 0
    && 32 ≤ c.n 10 2 && c.n 10 2 ≤ 512 && c.n 8 2 + c.n 10 2 ≤ 512 && c.zero 12 4
    && rangeOk s c.port (c.n 3 1) (c.n 16 8) (loupeBytes c.args)

/-- The cell is ACTIVE, and the item is a pass of it. -/
def loupeFits (c : Cmd) (s : State) : Bool := decide (cellState (c.n 0 2) s = .active) && (loupePass c.args s).isSome

def execLoupe (s : State) : Out := effect (command 0x0090 loupeArgs (checked loupeFits (fun c s => c.accept 0x90 [] s))) s

/-- The state that an outcome leaves. -/
def outState (s : State) : Out → State
  | .next t => t
  | _ => s

/-- A bezel operation by opcode (R193). -/
def runBezel (iss : Issuer) (op : Nat) (d : BezelDesc) (s : State) : State :=
  match op with
  | 0x01 => outState s (execCopy iss d s)
  | 0x02 => outState s (execReblock iss d s)
  | 0x03 => outState s (execTranspose iss d s)
  | 0x04 => outState s (execQuantize iss d s)
  | 0x05 => outState s (execDequantize iss d s)
  | 0x06 => outState s (execMxImport iss d s)
  | 0x07 => outState s (execMxExport iss d s)
  | 0x08 => outState s (execReduceInit iss d s)
  | 0x09 => outState s (execReduceAdd iss d s)
  | 0x0A => outState s (execReduceClose iss d s)
  | _ => s

/-- One item of a forme, run at once in loupe mode, whose passes issue at 4/64 (R100, R115). -/
def runItem (cell : Nat) (it : Item) (s : State) : State :=
  let s1 := beginItem cell it s
  match it.body with
  | .pass d => runPassAt 4 cell d [] s1
  | .drain d => runDrain cell d s1
  | .vector prog => runVectorItem cell prog s1
  | .bezel op d => runBezel (if cell < 288 then .cell cell else .unit (cell - 512)) op d s1
  | .transfer d => runTransfer cell d s1

/-- The items up to and with a number. -/
def itemsUpTo (n : Nat) : List Item → List Item
  | [] => []
  | it :: rest => if it.number = n then [it] else it :: itemsUpTo n rest

/-- The chip as the isolated run sees it: committed state, a frame of work at the named index, the cell's engines empty. -/
def loupeStart (cell forme : Nat) (s : State) : State :=
  setEng cell CellEng.empty { s with
    frame := { FrameSt.reset with formeIdx := forme, inStep := true, cellStarted := [cell] }
    dev := { s.dev with state := .running, unaligned := false }
    caseMem := { CaseSt.reset with mem := s.caseMem.mem } }

/-- The named rows as long-partial tiles in row-major order (R93, R307), and the state that the run leaves behind it. -/
def loupeTiles (a : List Byte) (s : State) : List Byte × State :=
  let cell := fieldN a 0 2
  match loupeRecord a s, loupePass a s with
  | some r, some d =>
    let t := (itemsUpTo (fieldN a 6 2) r.items).foldl (fun s it => runItem cell it s) (loupeStart cell r.forme s)
    match tabEntry s d.tensor with
    | some te =>
      let rows := (List.range (fieldN a 10 2)).map (fun i => (fieldN a 2 1, fieldN a 8 2 + i))
      ((List.range (fieldN a 10 2 / 32)).flatMap (fun k => (List.range 4).flatMap (fun q =>
        (partialTile { te with rounded := false } (engOf t cell) (fun _ => false) rows k q).1)), t)
    | none => ([], s)
  | _, _ => ([], s)

/-- LOUPE_RUN_DONE (R100, R307): the tiles go to the binding; nothing of the run stays but the free values it drew. The arrays issue only under a
ceiling above 0 (R115) and while their region's clocks run (R407), and a range past the end of a binding that was bound anew completes with
BAD_ARGUMENT (R267). -/
def runLoupeDone (s : State) : State :=
  match acceptedOp s 0x90 with
  | none => s
  | some a =>
    let r := loupeTiles a.args s
    let b := fieldN a.args 3 1
    if !dmaReady s (write := true) b || ceilingOf 4 s (fieldN a.args 0 2) = 0 || s.clocks.stopped.contains (cellRegion (fieldN a.args 0 2)) then s
    else if dmaFits s b (fieldN a.args 16 8) r.1.length then
      finishAcc a stDone 0 [] (hostWrite b (fieldN a.args 16 8) r.1 { s with freeIdx := r.2.freeIdx })
    else finishAcc a stBadArgument 0 [] s

def execLoupeRunDone (s : State) : Out := effect (onlyIf (coreRuns s) runLoupeDone) s

/-! ### HOST_TRANSFER_RESUME (R267) -/

/-- A command's bytes have arrived. -/
def gotBytes (op : Nat) (b : List Byte) (s : State) : State :=
  match op with
  | 0x31 => gotRoutes b s
  | 0x32 => gotGroups b s
  | 0x40 => gotImage b s
  | 0xA0 => gotFirmware b s
  | _ => s

/-- The ACCEPTED command whose read waits. -/
def readerOf (w : DmaWait) (s : State) : Option Acc :=
  s.mbx.accepted.find? (fun a => decide (a.opcode = w.opcode)
    && decide (fieldN a.args 0 1 = w.binding) && decide (fieldN a.args 8 8 = w.offset))

/-- The first transfer that waits to read through a binding goes on once its cause has cleared; a range past the end of the
binding completes with BAD_ARGUMENT. -/
def runResumeTransfer (b : Nat) (s : State) : State :=
  match s.mbx.dma.find? (fun w => !w.write && decide (w.binding = b)) with
  | none => s
  | some w =>
    if !dmaReady s (write := false) b then s
    else
      let s1 := onMbx (fun m => { m with dma := m.dma.filter (· != w) }) s
      match readerOf w s with
      | none => s1
      | some a => if dmaFits s b w.offset w.bytes.length then gotBytes a.opcode w.bytes s1 else finishAcc a stBadArgument 0 [] s1

def execHostTransferResume (binding : Nat) (s : State) : Out := effect (onlyIf (coreRuns s) (runResumeTransfer binding)) s

end Sys2Proof.Machine
end

