-- ==== Sys2Proof/Machine/Log.lean ====
section
/-! DEFINITION. The boot flash as the recorder writes it: the event ring, lifetime images (R440 to R442, R445, R363). -/

namespace Sys2Proof.Machine
open Sys2Proof

/-! ### The ring (R440, R441) -/

/-- Records that stand when record `n` is written: the first record that firmware writes of sector k erases sector (k + 1) mod 64, whatever its
number, and a record takes its own place in the ring. -/
def eraseAhead (n : Nat) (l : List EventRec) : List EventRec :=
  let m := l.filter (fun r => r.sequence.toNat % 65536 != n % 65536)
  if l.any (fun r => r.sequence.toNat / 1024 = n / 1024) then m else m.filter (fun r => r.sequence.toNat / 1024 % 64 != (n / 1024 + 1) % 64)

/-- Correlation records that stand when record `k` is written: 16 sectors of 1,024, erased ahead in the same way (R440, R447). -/
def eraseAheadCorr (k : W32) (l : List CorrRec) : List CorrRec :=
  let m := l.filter (fun r => r.sequence.toNat % 16384 != k.toNat % 16384)
  if l.any (fun r => r.sequence.toNat / 1024 = k.toNat / 1024) then m
  else m.filter (fun r => r.sequence.toNat / 1024 % 16 != (k.toNat / 1024 + 1) % 16)

/-- The RECORDS_LOST record, once the queue has space (R441). -/
def reportLost (s : State) : State :=
  if s.flash.lostCount != 0 && decide (s.flash.queue.length < 512) then
    recordEvent 0x000F (leBytes 8 s.flash.lostFirst.toNat ++ leBytes 4 s.flash.lostCount.toNat)
      (onFlash (fun f => { f with lostFirst := 0, lostCount := 0 }) s)
  else s

/-- The oldest queued correlation record goes into its sectors (R447). -/
def writeCorr (s : State) : State :=
  match s.flash.corrQueue with
  | [] => s
  | r :: rest => onFlash (fun f => { f with corrQueue := rest, corr := eraseAheadCorr r.sequence f.corr ++ [r] }) s

/-- The oldest queued event record goes into the ring. -/
def writeEvent (s : State) : State :=
  match s.flash.queue with
  | [] => s
  | r :: rest => reportLost (onFlash (fun f => { f with queue := rest, ring := eraseAhead r.sequence.toNat f.ring ++ [r] }) s)

/-- EVENT_RECORD_WRITE: firmware programs the oldest record of each queue (R441, R447; log entry 42). -/
def execEventRecordWrite (s : State) : Out := effect (onlyIf (collectorsRun s) (fun s => writeEvent (writeCorr s))) s

/-- The next sequence number after start-up: the number after the highest record of the ring, or the one behind it where the slot of that
number is torn (R442). -/
def nextSequence (torn : Bool) (l : List EventRec) : W64 :=
  (match l.getLast? with
  | some r => r.sequence + 1
  | none => 0) + (if torn then 1 else 0)

/-- The next correlation number after start-up (R447). -/
def nextCorrelation (l : List CorrRec) : W32 :=
  match l.getLast? with
  | some r => r.sequence + 1
  | none => 0

/-! ### Lifetime images (R363, R445) -/

/-- 15 minutes. -/
def lifetimePeriodUs : Nat := 900000000

/-- Every fault source in the order of level, unit and source number (R363, R445). -/
def sourceKeys : List Nat :=
  ([(Level.cell, 288), (.block, 32), (.region, 4), (.chip, 1)] : List (Level × Nat)).flatMap (fun l =>
    (List.range l.2).flatMap (fun u => ((List.range 0x200).filter (fun n => (sourceInfo l.1 n).isSome)).map (faultKey l.1 u)))

/-- The 32 KiB of a lifetime image (R445): the block, the totals, and the CRC behind the padding. -/
def LifeImage.bytes (x : LifeImage) : List Byte :=
  let body := sliceB (x.life.bytes ++ sourceKeys.flatMap (fun k => leBytes 8 (SMap.getD x.totals k 0))) 0 32764
  body ++ leBytes 4 (crc32c body).toNat

/-- What the block's fixed-point fields keep of the hours and of the energy (R437, R446). -/
def Life.stored (l : Life) : Life :=
  { l with hoursUs := l.hoursUs / 14062500 * 14062500, energy := energyField l.energy * 54931640625000 }

/-- The images that stand when position `n` is about to be written: the first image of a sector erases it (R445). -/
def eraseImages (n : Nat) (m : SMap LifeImage) : SMap LifeImage := m.filter (fun p => p.1 != n && (n % 2 != 0 || p.1 != n + 1))

/-- Program a lifetime image into the next of the 32 positions. -/
def FlashSt.writeImage (x : LifeImage) (f : FlashSt) : FlashSt :=
  { f with images := SMap.put (eraseImages f.nextImage f.images) f.nextImage x, nextImage := (f.nextImage + 1) % 32 }

/-- A power loss has torn the image at the next position: its CRC fails, and the one before it stands (R449). -/
def FlashSt.tearImage (f : FlashSt) : FlashSt :=
  { f with images := eraseImages f.nextImage f.images, nextImage := (f.nextImage + 1) % 32 }

/-- The valid image with the highest write count (R445); a part without one has the counters of a new part. -/
def FlashSt.latest (f : FlashSt) : LifeImage :=
  f.images.foldl (fun b p => if b.life.writeCount.toNat < p.2.life.writeCount.toNat then p.2 else b) { life := Life.new, totals := [] }

/-- Write a lifetime image with every fault source's total. -/
def writeLifetime (s : State) : State :=
  let l := { s.life.now with writeCount := s.life.now.writeCount + 1 }
  onFlash (FlashSt.writeImage { life := l, totals := (s.faults.src.filter (fun p => p.2.total != 0)).map (fun p => (p.1, p.2.total)) })
    { s with life := { s.life with now := l, sinceWriteUs := 0, writeDue := false } }

/-- LIFETIME_WRITE: every 15 minutes of operating hours, or soon after a fence, a retirement or a RETIRE_REQUESTED. -/
def execLifetimeWrite (s : State) : Out :=
  effect (onlyIf (collectorsRun s && (s.life.writeDue || decide (lifetimePeriodUs ≤ s.life.sinceWriteUs))) writeLifetime) s

/-- The level of a key in the collectors' map, its unit and its number. -/
def keyLevel (k : Nat) : Level := (levelOf (k / p2 32)).getD .chip

/-- The collectors with the stored totals (R363): everything else is at its default. -/
def loadTotals (m : SMap Nat) : SMap FSrc :=
  m.map (fun p => (p.1, { FSrc.fresh (match sourceInfo (keyLevel p.1) (p.1 % p2 16) with
    | some i => i.cfg
    | none => { n := 0, w := 0, action := 0 }) with total := p.2 }))

end Sys2Proof.Machine
end

