-- ==== Sys2Proof/Machine/Reset.lean ====
section
/-! DEFINITION. Clocks, resets and start-up (R28, R29, R404 to R418, R424, R426, R438, R458, R468). -/

namespace Sys2Proof.Machine
open Sys2Proof

/-! ### Reset scopes (R270, R412, R413) -/

/-- The factory map of a part (R26): a block with an ABSENT cell has no spare; any other has its spare at its last place
(log entry 11). -/
def factoryMapOf (absent : List Nat) : List CellState :=
  (List.range 288).map (fun i =>
    if absent.contains i then .absent
    else if i % 9 = 8 && !absent.any (fun a => a / 9 = i / 9) then .spare
    else .active)

/-- A core reset (R413): only the boot flash and the fuses survive. The ports are the caller's; host memory is not the
chip's. Records that waited for the ring are lost, and the programming of the oldest is cut (R449; DEDUCED, log entry 42). The network side of
each port's FIFOs asks for a resynchronisation, which a port that is out of reset acknowledges (R408). -/
def resetCore (s : State) : State :=
  { State.reset with
    portA := { s.portA with resyncReq := true, resyncAck := s.portA.linkUp }
    portB := { s.portB with resyncReq := true, resyncAck := s.portB.linkUp }
    mbx := { MbxSt.reset with hostMem := s.mbx.hostMem }
    cells := { CellsSt.reset with map := factoryMapOf s.ident.absent }
    hbm := { HbmSt.reset with pageIdx := s.hbm.pageIdx }
    dev := { DevSt.reset with uid := s.dev.uid }
    pins := { PinSt.reset with perstA := s.pins.perstA, perstB := s.pins.perstB, ioUp := s.pins.ioUp }
    fabric := { FabricSt.reset with out := s.fabric.out, wire := s.fabric.wire }
    ident := { IdentSt.reset with
      deviceSecret := s.ident.deviceSecret
      lifecycle := s.ident.lifecycle
      keyHash := s.ident.keyHash
      rollback := s.ident.rollback
      absent := s.ident.absent
      power := s.ident.power }
    flash := { s.flash with queue := [], lostFirst := 0, lostCount := 0, torn := s.flash.torn || !s.flash.queue.isEmpty, corrQueue := [] }
    freeIdx := s.freeIdx
    pending := s.pending }

/-- Both ports reset and stay in reset. -/
def resetBoth (s : State) : State :=
  onPorts (fun q => { q with inReset := true }) (resetPort .b false (resetPort .a false s))

/-- The levels of both PERST# pins. -/
def assertBoth (s : State) : State := onPins (fun p => { p with perstA := true, perstB := true }) s

/-- BOTH_PERST (R270, R412): the core stays in reset while both are asserted. -/
def holdReset (s : State) : State := resetCore (resetBoth (assertBoth s))

def execBothPerst (s : State) : Out := effect (onlyIf s.pins.ioUp holdReset) s

/-- PERST#: asserted, the port resets and stays in reset, and the core with it when the other is asserted; deasserted, the
port's controller starts (R270, R416). -/
def runPerst (p : PPort) (asserted : Bool) (s : State) : State :=
  if !s.pins.ioUp then s
  else if asserted then
    if perstOf (otherPort p) s then holdReset s
    else onPort p (fun q => { q with inReset := true }) (resetPort p false (setPerst p true s))
  else onPort p (fun q => { q with inReset := false }) (setPerst p false s)

def execPerst (p : PPort) (asserted : Bool) (s : State) : Out := effect (runPerst p asserted) s

/-- POWER_ON (R412, R414): the I/O and PCIe rails are up, and both PERST# are still asserted. -/
def powerOn (s : State) : State := onPins (fun p => { p with ioUp := true }) (holdReset s)

def execPowerOn (s : State) : Out := effect powerOn s

/-- IO_RAIL_FALL (R468): every VR_EN_N is deasserted and the part is unpowered. -/
def ioFall (s : State) : State := onPins (fun p => { p with ioUp := false }) (resetCore (resetBoth s))

def execIoRailFall (s : State) : Out := effect ioFall s

/-- CORE_RESET (R270, R283, R412): 1 ms after a RESET, or a FIRMWARE_ACTIVATE with reset now; links and configuration space
stay. -/
def runCoreReset (s : State) : State :=
  match s.dev.resetAt with
  | none => s
  | some t =>
    if coreRuns s && decide (t < s.tick.timeUs + frameUs s.tick.rate) then resetCore (resetPort .b true (resetPort .a true s)) else s

def execCoreReset (s : State) : Out := effect runCoreReset s

/-! ### Boot (R424) -/

/-- The bank in slot A, and the bank in slot B (R421). -/
def slotA (f : FlashSt) : Bank := if f.primary = 0 then f.bank0 else f.bank1
def slotB (f : FlashSt) : Bank := if f.primary = 0 then f.bank1 else f.bank0

/-- The boot ROM reads the boot record: a requested swap makes the staged bank slot A. -/
def bootRecord (f : FlashSt) : FlashSt :=
  if f.swap then f.writeBoot (1 - f.primary) 3 false else f

/-- Bank n verifies (R423); an uncorrectable read inside it fails it (R420). -/
def bankPasses (r : StartReport) (s : State) (n : Nat) : Bool :=
  !r.badBanks.contains n
    && decide (verifyFw s.ident.keyHash (rollbackValue s) (if n = 0 then s.flash.bank0 else s.flash.bank1) = stDone)

/-- Slot B holds an image that the boot ROM may try (R425). -/
def slotBHeld (s : State) : Bool := s.flash.slotB = 2 || s.flash.slotB = 3

/-- The boot ROM's choice: 1 slot A, 2 slot B, none when both fail or the lifecycle code is invalid (R424, R428). An empty or
half-staged slot B holds no image (R425). -/
def bootChoice (r : StartReport) (s : State) : Option Nat :=
  if !(([0x0, 0x5, 0xA] : List Nat).contains (lifecycleCode s)) then none
  else if bankPasses r s s.flash.primary then some 1
  else if slotBHeld s && bankPasses r s (1 - s.flash.primary) then some 2
  else none

/-- The 48 seed bytes of the hallmark (R431): SK.seed, SK.prf and PK.seed. -/
def hallmarkSeeds (s : State) : List Byte :=
  hkdfExpand s.ident.deviceSecret (if debugLife s then ascii "HUSHA-HALLMARK-D" else ascii "HUSHA-HALLMARK-1") 48

/-- The hallmark store (R429, R430): the seeds, and PK.seed followed by PK.root. -/
def deriveHallmark (s : State) : State :=
  let seed := hallmarkSeeds s
  onIdent (fun i => { i with hallmark := seed, hallmarkKey := sliceB seed 32 16 ++ slhRoot slh128f (sliceB seed 0 16) (sliceB seed 32 16) }) s

/-- The error field keeps the first error; 0x03 gives way to any later one (R417). -/
def noteError (e : Nat) (s : State) : State :=
  onDev (fun d => if d.bootError = 0 || d.bootError = 3 then { d with bootError := e } else d) s

/-- Firmware that started from slot B makes its bank primary and the other empty (R424). -/
def fallBack (s : State) : State :=
  let failed := s.flash.primary
  let fw := s.dev.fw
  recordEvent 0x0002 (leBytes 1 failed ++ leBytes 4 fw.toNat) (onFlash (fun f =>
    setSlotB Bank.empty (f.writeBoot (1 - failed) 0 f.swap)) s)

/-- The bank that runs. -/
def bootedBank (s : State) : Nat := s.flash.primary

/-! ### Step 9 (R415, R424, R438, R442) -/

/-- The lifetime counters and totals come from the latest image, the counts of records that stand in flash from there (R446), and the power
cycle counts. -/
def loadLifetime (torn : Bool) (s : State) : State :=
  let x := s.flash.latest
  { s with
    life := { LifeSt.reset with now := { x.life.stored with
      cycles := x.life.cycles + 1
      excluded := BitVec.ofNat 16 s.flash.excluded.length
      retiredPc := BitVec.ofNat 8 s.flash.retired.length
      lastCorr := match s.flash.corr.getLast? with
        | some r => r.sequence
        | none => 0xFFFFFFFF } }
    faults := { src := loadTotals x.totals, forcedNext := [], waiting := [] }
    flash := { s.flash with
      torn := false
      nextSeq := nextSequence (torn || s.flash.torn) s.flash.ring
      nextCorr := nextCorrelation s.flash.corr } }

/-- The flash as start-up finds it: a lifetime image may be torn (R449). -/
def findFlash (r : StartReport) (s : State) : State := if r.tornImage then onFlash FlashSt.tearImage s else s

/-- The flash reads that the device has reported as corrected or uncorrectable by step 9 (R420): in the banks that the boot ROM has read, and in
the certificate store. -/
def flashErrors (slot : Nat) (r : StartReport) (f : FlashSt) : Nat :=
  r.flashCorrected + (r.badBanks.filter (fun n => n = f.primary || slot = 2)).length + (if r.certReadable then 0 else 1)

/-- Firmware starts from a bank: slot 1 is A, slot 2 is B. -/
def startFirmware (slot : Nat) (r : StartReport) (s : State) : State :=
  let b := if slot = 1 then slotA s.flash else slotB s.flash
  let s1 := onIdent (fun i => { i with secretOpen := false, burnFails := r.burnFails, manifest := b.manifest, loaded := fwLoaded b.image
                                       certOk := r.certReadable && s.flash.certPresent && lifecycleCode s = 5 && deviceKey Config.certChain == i.hallmarkKey })
    (onDev (fun d => { d with bootSlot := slot, bootStage := 3, fw := b.fw, bootError := if slot = 2 then 3 else 0 })
      (onClocks (fun c => { c with beatArmed := true }) (loadLifetime r.tornSlot (findFlash r s))))
  let s2 := recordEvent 0x0001 (leBytes 4 b.fw.toNat ++ leBytes 1 (if slot = 1 then s.flash.primary else 1 - s.flash.primary)
    ++ leBytes 1 s1.dev.bootError) s1
  let s3 := if slot = 2 then fallBack s2 else s2
  writeLifetime ((List.range (flashErrors slot r s.flash)).foldl (fun s _ => countEvent .chip 0 5 s) s3)

/-! ### HBM at start-up (R186, R188) -/

/-- One soft repair becomes hard, or its page joins the exclusion list (R186). -/
def hardenRepair (r : StartReport) (s : State) (x : Nat × Nat) : State :=
  let rec' := fun (kind : Nat) => recordEvent 0x0006 (leBytes 1 (pageStack x.1) ++ leBytes 1 kind ++ leBytes 4 (x.1 % p2 20))
  if r.noSpareRows.contains x then
    rec' 2 (onLife (fun l => { l with excluded := BitVec.ofNat 16 (insertNat s.flash.excluded x.1).length })
      (onFlash (fun f => { f with excluded := insertNat f.excluded x.1 }) s))
  else rec' 1 (onLife (fun l => { l with pprHard := l.pprHard + 1 }) s)

/-- A pseudo-channel retires at start-up, where no page is mapped. -/
def retireNow (s : State) (x : Nat × Nat) : State :=
  if s.flash.retired.contains x then s
  else recordEvent 0x0007 (leBytes 1 x.1 ++ leBytes 1 x.2) (onLife (fun l => { l with retiredPc := l.retiredPc + 1 })
    { s with flash := { s.flash with retired := s.flash.retired ++ [x] }, life := { s.life with writeDue := true }
             dev := { s.dev with retireAt := s.dev.retireAt || decide (4 ≤ (s.flash.retired.filter (fun y => y.1 = x.1)).length) } })

/-- Pseudo-channels with more than 64 excluded pages (R188). -/
def crowdedPcs (l : List Nat) : List (Nat × Nat) :=
  ((List.range 256).map (fun i => (i / 32, i % 32))).filter (fun x =>
    decide (65 ≤ (l.filter (fun q => pageStack q = x.1 && pagePc q = x.2)).length))

/-- Usable physical pages of a stack (R188, R189, R258). -/
def usablePages (f : FlashSt) (stack : Nat) : Nat :=
  32768 * (32 - (f.retired.filter (fun x => x.1 = stack)).length)
    - (f.excluded.filter (fun q => pageStack q = stack && !f.retired.contains (stack, pagePc q))).length

/-- Step 10 of R415. -/
def trainHbm (r : StartReport) (s : State) : State :=
  let s1 := onFlash (fun f => { f with softRepairs := [] }) (s.flash.softRepairs.foldl (hardenRepair r) s)
  let s2 := (r.failedPcs ++ crowdedPcs s1.flash.excluded).foldl retireNow s1
  let s3 := onHbm (fun h => { h with
    excluded := s2.flash.excluded
    retired := s2.flash.retired
    usable := (List.range 8).map (usablePages s2.flash) }) s2
  if (List.range 8).any (fun k => decide (5 ≤ (r.failedPcs.filter (fun x => x.1 = k)).length)) then noteError 6 s3 else s3

/-! ### START_UP (R415) -/

/-- Steps 1 to 6: rails and clocks, the end of core reset, with which the ports' FIFOs resynchronise (R408); the chip is a tick source without a
domain (R415; log entry 12). -/
def endReset (s : State) : State :=
  onTick (fun _ => { TickSt.reset with source := true, aligned := true, firstAligned := true })
    (onPins (fun p => { p with vrSram := true, vrCore := true, vrHbm := true, vrSerdes := true })
      (onPorts (fun q => resynced q.linkUp q) (onClocks (fun c => { c with coreReset := false }) s)))

/-- Regions 1 to 3 whose controllers do not answer (R417). -/
def silenceRegions (r : StartReport) (s : State) : State :=
  let silent := r.silentRegions.filter (fun k => 1 ≤ k && k ≤ 3)
  if silent.isEmpty then s else noteError 5 (onClocks (fun c => { c with stopped := silent }) s)

/-- Steps 9 to 11: firmware, the regions, the stacks and the ports. -/
def bootFirmware (slot : Nat) (r : StartReport) (s : State) : State :=
  let s1 := trainHbm r (silenceRegions r (startFirmware slot r s))
  onDev (fun d => { d with bootStage := 5 }) ((List.range 20).foldl (fun s p => trainPort p s) s1)

/-- Steps 7 to 11. FL_RESET_N is asserted until step 7 (R462). -/
def boot (r : StartReport) (s : State) : State :=
  let s1 := deriveHallmark (onFlash bootRecord (onPins (fun p => { p with flReset := false }) s))
  match bootChoice r s1 with
  | none => setState .failed (noteError 4 (onDev (fun d => { d with bootStage := 2 }) s1))
  | some slot => bootFirmware slot r s1

/-- Start-up can begin: the core is in reset, a PERST# is deasserted, and no start-up has given up (R415, R417). -/
def canStart (s : State) : Bool :=
  s.clocks.coreReset && s.pins.ioUp && !(s.pins.perstA && s.pins.perstB) && s.dev.bootError != 1 && s.dev.bootError != 2

/-- START_UP. A power loss while the boot ROM writes the flipped record leaves the earlier copy in force and the part unpowered (R436, R468). -/
def startUp (r : StartReport) (s : State) : State :=
  if r.cutFlip && s.flash.swap then ioFall (onFlash FlashSt.tearBoot s) else boot r (endReset s)

def execStartUp (r : StartReport) (s : State) : Out := effect (onlyIf (canStart s) (startUp r)) s

/-- STARTUP_ERROR (R417): a PWRGD (0x01) or a region-0 PLL (0x02) fails its third attempt; the rails are off. -/
def startupError (pwrgd : Bool) (s : State) : State :=
  onDev (fun d => { d with bootError := if pwrgd then 1 else 2, bootStage := if pwrgd then 0 else 1 }) s

def execStartupError (pwrgd : Bool) (s : State) : Out := effect (onlyIf (canStart s) (startupError pwrgd)) s

/-- READY_REACHED (R400, R415): the wait for 85 °C is over; the chip enters READY at the next tick. -/
def execReadyReached (s : State) : Out :=
  effect (onlyIf (coreRuns s && decide (s.dev.state = .booting) && s.dev.bootStage = 5 && decide (s.power.tjMax ≤ 1360))
    (onDev (fun d => { d with readyAt := true }))) s

/-! ### Entry into READY (R28, R417, R426) -/

/-- A region is lost (R28). -/
def loseRegion (r : Nat) (s : State) : State :=
  recordEvent 0x000B (leBytes 1 r) (onClocks (fun c => { c with lost := insertNat c.lost r, stopped := insertNat c.stopped r }) s)

/-- The rollback counter rises to the image's svn; a burn that fails leaves it (R426). -/
def advanceRollback (s : State) : State :=
  let b := slotA s.flash
  if s.dev.bootSlot = 1 && !s.ident.burnFails && b.commitSvn && decide (rollbackValue s < b.svn) then
    let s1 := recordEvent 0x0012 (leBytes 1 b.svn) (onIdent (fun i => { i with rollback := i.rollback ||| BitVec.ofNat 64 (p2 b.svn - 1) }) s)
    onFlash (fun f => if (slotB f).present && decide ((slotB f).svn < b.svn) then f.writeBoot f.primary 0 f.swap else f) s1
  else s

/-- Step 13 of R415, at the tick. -/
def enterReady (s : State) : State :=
  let s1 := advanceRollback (setState .ready (onDev (fun d => { d with readyAt := false, bootStage := 15 }) s))
  let silent := s1.clocks.stopped
  let s2 := silent.foldl (fun s r => loseRegion r s) s1
  if !silent.isEmpty || s2.dev.bootError = 6 || s2.dev.retireAt then
    setState .retireRequested (onDev (fun d => { d with retireAt := false }) s2)
  else s2

/-! ### Heartbeats and clocks (R28, R29, R411) -/

/-- HEARTBEAT: the control channel carries it while the region's clocks run. -/
def execHeartbeat (region : Nat) (s : State) : Out :=
  effect (onlyIf (collectorsRun s && !s.clocks.stopped.contains region)
    (onClocks (fun c => { c with silent := setAt c.silent region 0 }))) s

/-- REGION_LOST (R28): 16 ticks without a heartbeat of region 1, 2 or 3. -/
def execRegionLost (region : Nat) (s : State) : Out :=
  effect (onlyIf (collectorsRun s && decide (1 ≤ region ∧ region ≤ 3) && !s.clocks.lost.contains region
      && decide (16 ≤ s.clocks.silent.getD region 0) && s.dev.state != .booting)
    (fun s => askRetire (loseRegion region s))) s

/-- COMPOSITOR_HEARTBEAT_LOSS (R29): both ports report FAILED. The watch is armed at the first heartbeat (R415). -/
def execCompositorHeartbeatLoss (s : State) : Out :=
  effect (onlyIf (s.clocks.beatArmed && s.dev.state != .thermalOff) (setState .failed)) s

/-- A region's clocks stop. -/
def stopRegion (r : Nat) (s : State) : State := onClocks (fun c => { c with stopped := insertNat c.stopped r }) s

/-- PLL_LOSS_OF_LOCK (R411): a region falls silent, a stack retrains, a Clasp port or every port retrains, or a PCIe link goes
down. -/
def losePll (pll : Pll) (s : State) : State :=
  match pll with
  | .region r => onClocks (fun c => { c with lockLost := true }) (stopRegion r s)
  | .system => onClocks (fun c => { c with lockLost := true }) ((List.range 4).foldl (fun s r => stopRegion r s) s)
  | .hbm k => onHbm (fun h => { h with training := insertNat h.training k }) s
  | .serdes p => linkFalls p s
  | .claspRef => (List.range 20).foldl (fun s p => linkFalls p s) s
  | .pcie p => resetPort p false s

/-- The PLLs and references of the regions run while the core is out of reset, whatever has become of firmware; those of the stacks and of the
Clasp ports matter while firmware retrains what has lost its clock. -/
def execPllLossOfLock (pll : Pll) (s : State) : Out :=
  effect (onlyIf (match pll with
    | .pcie p => s.pins.ioUp && !perstOf p s
    | .region _ => hwRuns s
    | .system => hwRuns s
    | _ => coreRuns s) (losePll pll)) s

/-- The stack's PHY clock runs again, and the accesses that waited for it go on (R407, R411). -/
def endHbmTraining (stack : Nat) (s : State) : State :=
  servePackets (serveWaits (fun w => addrStack w.addr = stack) (onHbm (fun h => { h with training := h.training.filter (· != stack) }) s))

/-- HBM_RETRAINING_DONE (R411). -/
def execHbmRetrainingDone (stack : Nat) (s : State) : Out := effect (onlyIf (coreRuns s) (endHbmTraining stack)) s

/-- PWRGD_FALL (R458): every VR_EN_N is deasserted and the chip is FAILED, without a record. -/
def pwrgdFall (s : State) : State :=
  let s1 := onPins (fun p => { p with vrSram := false, vrCore := false, vrHbm := false, vrSerdes := false }) s
  let s2 := (List.range 20).foldl (fun s p => onClasp p (fun c => { c with state := 4, lanes := 0, byItself := false }) s) s1
  setState .failed (stopRegion 0 (onHbm (fun h => { h with training := List.range 8, bar2Waits := [], pktWaits := [] }) s2))

/-- A fall during start-up counts as an attempt under error 0x01: the third gives up (R417, R458). -/
def failedAttempt (s : State) : State :=
  let t := onDev (fun d => { d with attempts := d.attempts + 1 }) s
  if t.dev.attempts < 3 then t else startupError true t

def execPwrgdFall (_group : RailGroup) (s : State) : Out :=
  effect (fun s => if s.clocks.coreReset then onlyIf (canStart s) failedAttempt s
    else onlyIf (s.dev.state != .thermalOff) pwrgdFall s) s

end Sys2Proof.Machine
end

