-- ==== Sys2Proof/Machine/Identity.lean ====
section
/-! DEFINITION. SPDM over DOE (R433 to R436): each port's responder, the hallmark's signatures, the assay log. Error codes, the order of
requests, message codes and transcripts are those of SPDM 1.3 (log entry 30). -/

namespace Sys2Proof.Machine
open Sys2Proof

/-- The error codes of an ERROR response. -/
def errInvalid : Nat := 0x01
def errBusy : Nat := 0x03
def errUnexpected : Nat := 0x04
def errUnsupported : Nat := 0x07

def connOf (p : PPort) (s : State) : SpdmConn :=
  match p with
  | .a => s.ident.spdmA
  | .b => s.ident.spdmB

def setConn (p : PPort) (c : SpdmConn) (s : State) : State :=
  onIdent (fun i => match p with
    | .a => { i with spdmA := c }
    | .b => { i with spdmB := c }) s

/-- The DOE mailbox of a port answers: its link is up. -/
def doeUp (p : PPort) (s : State) : Bool := !(getPPort p s).inReset && (getPPort p s).linkUp

/-- The responder is dead: it answers Busy until core reset (R436). -/
def responderDead (s : State) : Bool := s.dev.state = .thermalOff || s.dev.state = .failed

/-- The responder runs from step 9 of R415 onward. -/
def responderRuns (s : State) : Bool := coreRuns s && decide (3 ≤ s.dev.bootStage)

/-- Answer a request: `f` gives the connection and the response. -/
def answer (p : PPort) (f : SpdmConn → State → (SpdmConn × Spdm) × State) (s : State) : State :=
  if !doeUp p s then s
  else if responderDead s then setConn p { connOf p s with last := some (.error errBusy) } s
  else if !responderRuns s then s
  else
    let r := f (connOf p s) s
    setConn p { r.1.1 with last := some r.1.2 } r.2

/-! ### Messages and signatures -/

/-- The bytes of a measurement block. -/
def Meas.bytes (b : Meas) : List Byte := leBytes 1 b.index ++ b.value

/-- The bytes of a response as it enters a transcript; a signature is no part of it. -/
def Spdm.bytes : Spdm → List Byte
  | .version a b => Config.spdmMessage 0x04 [leBytes 1 a, leBytes 1 b]
  | .capabilities c t d m => Config.spdmMessage 0x61 [leBytes 1 (bitAt c.cert 0 + bitAt c.chal 1), leBytes 1 c.meas, leBytes 1 t, leBytes 4 d, leBytes 4 m]
  | .algorithms mh bh _ l => Config.spdmMessage 0x63 (leBytes 4 mh :: leBytes 4 bh :: l.map (fun x => leBytes 1 x.registry ++ leBytes 2 x.vendor ++ leBytes 2 x.algorithm))
  | .digests l => Config.spdmMessage 0x01 l
  | .certificate b r => Config.spdmMessage 0x02 [b, leBytes 4 r]
  | .challengeAuth c m n _ => Config.spdmMessage 0x03 [c, m, n]
  | .measurements n l _ => Config.spdmMessage 0x60 (leBytes 1 n :: l.map Meas.bytes)
  | .error c => Config.spdmMessage 0x7F [leBytes 1 c]
  | .doe _ _ _ => []

/-- The prefix of a signed message: the version four times, and what is signed. -/
def spdmPrefix (what : String) : List Byte :=
  let v := ascii "dmtf-spdm-v1.3.*"
  let w := ascii what
  v ++ v ++ v ++ v ++ zeros (36 - w.length) ++ w

/-- The hallmark store signs a message (R429, R430). -/
def hallmarkSign (s : State) (m : List Byte) : List Byte :=
  slhSign slh128f (sliceB s.ident.hallmark 0 16) (sliceB s.ident.hallmark 16 16) s.ident.hallmarkKey (Config.signRand m) m

/-- A signature over a transcript. -/
def signTranscript (s : State) (what : String) (transcript : List Byte) : List Byte := hallmarkSign s (spdmPrefix what ++ sha256 transcript)

/-- A response that changes nothing but the transcripts: `f` takes the request's bytes and the response's into the connection. Any request but
GET_MEASUREMENTS ends the transcript of measurements, and an error enters none. -/
def reply (ok : SpdmConn → Bool) (note : SpdmConn → Spdm → SpdmConn) (f : State → Spdm) (c : SpdmConn) (s : State) : (SpdmConn × Spdm) × State :=
  if !ok c then ((c, .error errUnexpected), s)
  else
    match f s with
    | .error e => ((c, .error e), s)
    | r => ((note c r, r), s)

/-- The messages of the connection's start. -/
def noteStart (req : List Byte) (c : SpdmConn) (r : Spdm) : SpdmConn := { c with start := c.start ++ req ++ r.bytes, meas := [] }

/-- The certificate requests and their responses. -/
def noteCerts (req : List Byte) (c : SpdmConn) (r : Spdm) : SpdmConn := { c with certs := c.certs ++ req ++ r.bytes, meas := [] }

/-! ### Connection (R433) -/

/-- GET_VERSION starts the connection: version 1.3 only. -/
def execGetVersion (p : PPort) (s : State) : Out :=
  effect (answer p (fun _ s =>
    let r : Spdm := .version 1 3
    ((noteStart (Config.spdmMessage 0x84 []) { SpdmConn.reset with versionDone := true } r, r), s))) s

/-- The capabilities of R433: CERT_CAP, CHAL_CAP, MEAS_CAP = 2; every other flag is clear. -/
def responderCaps : SpdmCaps where
  cert := true
  chal := true
  meas := 2
  measFresh := false
  encrypt := false
  mac := false
  keyEx := false
  psk := false
  hbeat := false
  keyUpd := false
  chunk := false
  others := false

/-- GET_CAPABILITIES. -/
def execGetCapabilities (p : PPort) (s : State) : Out :=
  effect (answer p (fun c s =>
    let r : Spdm := .capabilities responderCaps 17 65536 65536
    if c.versionDone then ((noteStart (Config.spdmMessage 0xE1 []) { c with capsDone := true } r, r), s)
    else ((c, .error errUnexpected), s))) s

/-- The algorithms of R433: SHA-256 measurements, TPM_ALG_SHA_256, no BaseAsymAlgo, and SLH-DSA-SHA2-128f as the one entry of ExtAsym. -/
def responderAlgorithms : Spdm := .algorithms 0x02 0x01 none [{ registry := 0x03, vendor := 0x1E5B, algorithm := 0x0128 }]

/-- NEGOTIATE_ALGORITHMS: SHA-256 and SLH-DSA-SHA2-128f, or InvalidRequest. `hash` and `extAsym` say whether the request offers
them. -/
def execNegotiateAlgorithms (p : PPort) (hash extAsym : Bool) (s : State) : Out :=
  effect (answer p (fun c s =>
    if !c.capsDone then ((c, .error errUnexpected), s)
    else if hash && extAsym then
      ((noteStart (Config.spdmMessage 0xE3 [leBytes 1 (bitAt hash 0 + bitAt extAsym 1)]) { c with algsDone := true } responderAlgorithms,
        responderAlgorithms), s)
    else ((c, .error errInvalid), s))) s

/-! ### Certificates (R432, R433) -/

/-- Slot 0 holds the chain. -/
def slotPopulated (slot : Nat) (s : State) : Bool := slot = 0 && s.ident.certOk

def chainDigest : List Byte := sha256 Config.certChain

/-- GET_DIGESTS: the populated slots' digests. -/
def execGetDigests (p : PPort) (s : State) : Out :=
  effect (answer p (reply (·.algsDone) (noteCerts (Config.spdmMessage 0x81 [])) (fun s => .digests (if s.ident.certOk then [chainDigest] else [])))) s

/-- GET_CERTIFICATE: a portion of the chain and what remains behind it. -/
def certPortion (slot offset length : Nat) (s : State) : Spdm :=
  if !slotPopulated slot s || decide (Config.certChain.length ≤ offset) then .error errInvalid
  else
    let part := (Config.certChain.drop offset).take length
    .certificate part (Config.certChain.length - offset - part.length)

def execGetCertificate (p : PPort) (slot offset length : Nat) (s : State) : Out :=
  effect (answer p (reply (·.algsDone) (noteCerts (Config.spdmMessage 0x82 [leBytes 1 slot, leBytes 4 offset, leBytes 4 length]))
    (certPortion slot offset length))) s

/-! ### Measurements (R434, R435) -/

/-- The raw bytes of the image list. -/
def imageList (s : State) : List Byte := leBytes 4 s.ident.images.length ++ s.ident.images.flatten

/-- The hardware configuration that index 3 covers. -/
def hardwareBytes (s : State) : List Byte :=
  leBytes 1 (lifecycleCode s) ++ leBytes 1 (rollbackValue s) ++ leBytes 1 (bootedBank s) ++ zeros 13 ++ s.ident.keyHash

/-- A measurement block by index: digests of SHA-256 form, and the image list as a raw value. -/
def measurement (s : State) (i : Nat) : Option Meas :=
  let digest := fun (ty : MeasType) (d : List Byte) => some { index := i, type := ty, raw := false, value := d }
  match i with
  | 1 => digest .immutableRom Config.romDigest
  | 2 => digest .mutableFirmware (sha256 s.ident.manifest)
  | 3 => digest .hardwareConfig (sha256 (hardwareBytes s))
  | 4 => digest .firmwareConfig (sha256 (s.fabric.routeBytes ++ s.fabric.groupBytes))
  | 5 => digest .firmwareConfig (sha256 s.ident.chain)
  | 6 => some { index := i, type := .freeformManifest, raw := true, value := imageList s }
  | _ => none

/-- All blocks. -/
def allBlocks (s : State) : List Meas := [1, 2, 3, 4, 5, 6].filterMap (measurement s)

/-- The blocks that a request selects. -/
def selectBlocks (sel : MeasSel) (s : State) : Option (List Meas) :=
  match sel with
  | .count => some []
  | .all => some (allBlocks s)
  | .one i => (measurement s i).map (fun b => [b])

/-- The code of a selection: how many blocks, one of them, or all. -/
def selCode : MeasSel → Nat
  | .count => 0
  | .all => 0xFF
  | .one i => i

/-- The transcript of measurements with the request and the blocks of this response: what a signature over them covers. -/
def measTranscript (sel : MeasSel) (signed : Bool) (nonce : List Byte) (c : SpdmConn) (l : List Meas) : List Byte :=
  c.meas ++ Config.spdmMessage 0xE0 [leBytes 1 (selCode sel), leBytes 1 (bitAt signed 0), nonce] ++ Spdm.bytes (.measurements 6 l none)

/-- GET_MEASUREMENTS: the blocks, signed by the hallmark when asked; a signature ends the transcript. -/
def measure (sel : MeasSel) (signed : Bool) (nonce : List Byte) (c : SpdmConn) (s : State) : SpdmConn × Spdm :=
  if !c.algsDone then (c, .error errUnexpected)
  else
    match selectBlocks sel s with
    | none => (c, .error errInvalid)
    | some l =>
      let t := measTranscript sel signed nonce c l
      if signed then ({ c with meas := [] }, .measurements 6 l (some (signTranscript s "responder-measurements signing" (c.start ++ t))))
      else ({ c with meas := t }, .measurements 6 l none)

def execGetMeasurements (p : PPort) (sel : MeasSel) (signed : Bool) (nonce : List Byte) (s : State) : Out :=
  effect (answer p (fun c s => (measure sel signed nonce c s, s))) s

/-- Free words as bytes: the responder's own nonce. -/
def drawBytes : Nat → State → List Byte × State
  | 0, s => ([], s)
  | n + 1, s =>
    let r := drawFree s
    let t := drawBytes n r.2
    (leBytes 4 r.1.toNat ++ t.1, t.2)

/-- The digest of all measurements that CHALLENGE reports. -/
def measurementsDigest (s : State) : List Byte := sha256 ((allBlocks s).flatMap Meas.bytes)

/-- What the signature of a challenge covers: the start of the connection, the certificate requests, the request and the response. -/
def challengeTranscript (slot : Nat) (nonce : List Byte) (c : SpdmConn) (meas own : List Byte) : List Byte :=
  c.start ++ c.certs ++ Config.spdmMessage 0x83 [leBytes 1 slot, nonce] ++ Spdm.bytes (.challengeAuth chainDigest meas own [])

/-- CHALLENGE: the chain's digest and the measurements' digest under the hallmark's signature. -/
def challengeReply (slot : Nat) (nonce : List Byte) (c : SpdmConn) (s : State) : (SpdmConn × Spdm) × State :=
  if !c.algsDone then ((c, .error errUnexpected), s)
  else if !slotPopulated slot s then ((c, .error errInvalid), s)
  else
    let r := drawBytes 8 s
    let meas := measurementsDigest s
    (({ c with certs := [], meas := [] }, .challengeAuth chainDigest meas r.1
      (signTranscript s "responder-challenge_auth signing" (challengeTranscript slot nonce c meas r.1))), r.2)

def execChallenge (p : PPort) (slot : Nat) (nonce : List Byte) (s : State) : Out := effect (answer p (challengeReply slot nonce)) s

/-! ### The rest (R433) -/

/-- The request codes that the responder answers. -/
def listedRequests : List Nat := [0x81, 0x82, 0x83, 0x84, 0xE0, 0xE1, 0xE3]

/-- UNSUPPORTED_REQUEST. -/
def execUnsupportedRequest (p : PPort) (code : Byte) (s : State) : Out :=
  effect (onlyIf (!listedRequests.contains code.toNat) (answer p (fun c s => ((c, .error errUnsupported), s)))) s

/-- DOE_DISCOVERY: Discovery at index 0 and SPDM at index 1, both of the PCI-SIG. -/
def discovery (index : Nat) : Spdm :=
  match index with
  | 0 => .doe 0x0001 0x00 1
  | 1 => .doe 0x0001 0x01 0
  | _ => .doe 0xFFFF 0xFF 0

def execDoeDiscovery (p : PPort) (index : Nat) (s : State) : Out :=
  effect (onlyIf (doeUp p s) (setConn p { connOf p s with last := some (discovery index) })) s

/-- DOE_ABORT: the connection resets. -/
def execDoeAbort (p : PPort) (s : State) : Out := effect (onlyIf (doeUp p s) (setConn p SpdmConn.reset)) s

end Sys2Proof.Machine
end

