-- ==== Sys2Proof/Machine/Spares.lean ====
section
/-! DEFINITION. Fences and spares (R27, R245, R246, R370), the loading of a spare, and re-imposition (R248 to R251). -/

namespace Sys2Proof.Machine
open Sys2Proof

/-! ### Fences (R27, R246, R370) -/

/-- Set a cell's state in the map. -/
def setCell (i : Nat) (c : CellState) (s : State) : State := onCells (fun x => { x with map := setAt x.map i c }) s

/-- The SPARE cell with the lowest index of a region. -/
def regionSpare (s : State) (region : Nat) : Option Nat :=
  ((List.range 72).map (fun c => 72 * region + c)).find? (fun i => decide (cellState i s = .spare))

/-- The spare that takes a cell's place: its own block's, then the plan's blocks in order, or, with no image, the lowest of the
region (R27, R245). -/
def spareFor (s : State) (cell : Nat) : Option Nat :=
  (spareIn s (cell / 9)).orElse (fun _ => match s.image.img with
    | some i => (spareBlocks i.sparePlan (cell / 9)).findSome? (spareIn s)
    | none => regionSpare s (cellRegion cell))

/-- The cell of the image whose forme a cell runs. -/
def originOf (s : State) (cell : Nat) : Nat :=
  match s.image.moves.find? (fun p => p.2 = cell) with
  | some p => p.1
  | none => cell

/-- The carry pages, their mirrors and the copy of the contents of a cell pass to another. -/
def moveCarry (a b : Nat) (x : CellsSt) : CellsSt :=
  let rest := SMap.del (SMap.del x.system a) b
  { x with
    carry := (x.carry.filter (fun k => k / 2048 = a)).foldl (fun l k => insertNat l (b * 2048 + k % 2048))
      (x.carry.filter (fun k => k / 2048 != a && k / 2048 != b))
    system := match SMap.get? x.system a with
      | some p => SMap.put rest b p
      | none => rest }

/-- The committed done bits of a forme stay with it (R200). -/
def moveDone (a b : Nat) (f : FrameSt) : FrameSt :=
  { f with doneMask := f.doneMask.map (fun p => if p.1 = a then (b, p.2) else p) }

/-- The CELL_FENCED record (R443). -/
def fenceRecord (cell spare : Nat) (s : State) : State :=
  recordEvent 0x0004 (leBytes 2 cell ++ leBytes 2 spare ++ leBytes 1 (if s.cells.forcedFence.contains cell then 1 else 0)) s

/-- The place of a fenced ACTIVE cell passes to a spare, or its forme is orphaned (R27, R246, R248). The search follows the block for which
the image planned the forme, also when a spare that runs it is fenced in its turn (R251; DEDUCED, log entry 29). -/
def moveForme (cell : Nat) (s : State) : State :=
  match spareFor s (originOf s cell) with
  | some x =>
    let s1 := setCell x .active s
    let s2 := if s.image.img.isSome then
        onFrame (moveDone cell x) (onCells (moveCarry cell x) (onImage (fun m => { m with
          moves := SMap.put m.moves (originOf s cell) x
          spareLoads := insertNat (m.spareLoads.filter (· != cell)) x }) s1))
      else s1
    fenceRecord cell x s2
  | none =>
    let has := !(recordsOf s cell).isEmpty
    fenceRecord cell 0xFFFF (onImage (fun m => { m with
      orphans := if has then insertNat m.orphans cell else m.orphans
      spareLoads := m.spareLoads.filter (· != cell) }) s)

/-- The counts of a cell's sources stand as they are at its fence (R370). -/
def freezeCounts (cell : Nat) (s : State) : State :=
  (List.range 6).foldl (fun u n =>
    let f := faultSrc .cell cell n u
    setFaultSrc .cell cell n { f with count := windowCount f u.tick.count, lastStamp := u.tick.count } u) s

/-- A fence at its tick: the cell is FENCED and its engines are empty. The forme of an ACTIVE cell waits in `unmoved`. -/
def fenceCell (cell : Nat) (forced : Bool) (s : State) : State :=
  let old := cellState cell s
  if old != .active && old != .spare then s
  else
    let s1 := setCell cell .fenced (onCells (fun x => { x with
      eng := SMap.del x.eng cell
      forcedFence := if forced then insertNat x.forcedFence cell else x.forcedFence.filter (· != cell) }) s)
    let s2 := freezeCounts cell <| onLife (fun l => { l with
      fences := if forced then l.fences else l.fences + 1
      fenceHist := (cell :: l.fenceHist).take 8 }) { s1 with life := { s1.life with writeDue := true } }
    if old = .active then onImage (fun m => { m with unmoved := insertNat m.unmoved cell }) s2
    else fenceRecord cell 0xFFFF s2

/-- The fences that fell due, lower index first (R27): an entry is twice the cell, plus 1 for a forced fence. Two transitions of
one cell are one fence, not forced if either is not (R374). -/
def takeFences (s : State) : State :=
  let cells := s.dev.fenceAt.foldl (fun l x => insertNat l (x / 2)) []
  cells.foldl (fun t c => fenceCell c (!s.dev.fenceAt.contains (2 * c)) t) (onDev (fun d => { d with fenceAt := [] }) s)

/-- The formes of the fenced cells move; none moves during a snapshot's stop (R358). -/
def moveFormes (s : State) : State :=
  if s.dev.state = .snapshotting then s
  else s.image.unmoved.foldl (fun t c => moveForme c t) (onImage (fun m => { m with unmoved := [] }) s)

/-- A real fence of a cell that falls due at the tick of its UNFENCE stands, and the UNFENCE has no effect (R310). -/
def dropUnfences (s : State) : State :=
  let real := fun (c : Nat) => s.dev.fenceAt.contains (2 * c) && s.cells.unfenceAt.contains c
  onCells (fun x => { x with unfenceAt := x.unfenceAt.filter (!real ·), forcedFence := x.forcedFence.filter (!real ·) }) s

/-- The forced fences that a host cleared (R303, R372): SPARE again, with every source's flags and counts clear. -/
def takeUnfences (s : State) : State :=
  s.cells.unfenceAt.foldl (fun t c =>
    let t1 := setCell c .spare (onCells (fun x => { x with forcedFence := x.forcedFence.filter (· != c) }) t)
    let t2 := (List.range 6).foldl (fun u n =>
      let f := faultSrc .cell c n u
      setFaultSrc .cell c n { f with sticky := false, severe := false, forced := false, count := 0, real := false, old := none } u) t1
    recordEvent 0x0005 (leBytes 2 c) (onLife (fun l => { l with unfences := l.unfences + 1 }) t2)) (onCells (fun x => { x with unfenceAt := [] }) s)

/-! ### Poisoned stand-ins (R204, R248) -/

/-- A poisoned stored block: every chase exponent byte 0xFF, NaN elements of a plain format. -/
def poisonBlock (f : Nat) : List Byte :=
  if fmtNarrow f then zeros (blockBytes f - 64) ++ List.replicate 64 0xFF
  else (List.replicate 1024 (if f = 5 then ([0xC0, 0x7F] : List Byte) else [0, 0, 0xC0, 0x7F])).flatten

/-- A poisoned long tile, with flag [0] and all poison bits. -/
def poisonLong (leading : Int) : List Byte :=
  LTile.bytes { LTile.zero leading with nonfinite := true, rowPoison := 0xFFFFFFFF, colPoison := 0xFFFFFFFF }

/-- One planned send of an orphaned item goes out poisoned, at its planned length. -/
def standIn (op : Nat) (d : BezelDesc) (s : State) : State :=
  match d.dst with
  | .remote c a =>
    let s1 := if op = 0x01 then sendRaw c a (List.replicate d.rows 0xFF) s
      else if op = 0x09 then
        (rangeBlocks d).foldl (fun t pq => match dstBlock d longTileBytes pq.1 pq.2 with
          | .remote c' a' =>
            if d.srcFmt = 0xFF then
              let size := if d.rows = 1 then lanePartialBytes else longTileBytes
              sendData 3 (ownHdr t c' a' d.tensor 0xFF 0) ((poisonLong (tabLeading t d.tensor)).take size) t
            else sendData 2 (ownHdr t c' a' d.tensor d.srcFmt d.aux) (poisonBlock d.srcFmt) t
          | _ => t) s
      else (rangeBlocks d).foldl (fun t pq => match dstBlock d (blockBytes d.dstFmt) pq.1 pq.2 with
        | .remote c' a' => sendRaw c' a' (poisonBlock d.dstFmt) t
        | _ => t) s
    flushSends s1
  | _ => s

/-- The sends that the orphaned formes planned for the forme index: ordered items, and deferrable ones at their latest index that have not
run before (R200). -/
def orphanSends (s : State) : List (Nat × BezelDesc) :=
  let k := s.frame.formeIdx
  s.image.orphans.flatMap (fun c => (recordsOf s c).flatMap (fun r => r.items.filterMap (fun it =>
    if (if it.deferrable then it.latest = k && !s.frame.doneMask.contains (c, it.number) else r.forme = k) && it.sends then
      (match it.body with
        | .bezel op d => some (op, d)
        | _ => none)
    else none)))

/-- One owned buffer tile takes flag [0] through the local delta, so that the vote skips the step (R177, R204). -/
def flagBuffer (s : State) : State :=
  match (ownedTiles s).head? with
  | some t => addLongTile 0 t.1 t.2.2 false { LTile.zero (tabLeading s t.1) with nonfinite := true } s
  | none => s

/-- What an orphaned forme leaves in a frame of the forward and backward phases (R248). -/
def orphanFrame (s : State) : State :=
  match s.image.img with
  | some i =>
    if s.image.orphans.isEmpty || !formesRun s || decide (i.hdr.fwd + i.hdr.bwd ≤ s.frame.formeIdx) then s
    else (orphanSends s).foldl (fun t x => standIn x.1 x.2 t) (flagBuffer s)
  | none => s

/-! ### SPARE_LOAD (R246) -/

/-- Contents records for a cell, with their bytes as the SYSTEM copy from an address on holds them (R234). -/
def copiedCases (s : State) (cell : Nat) : Nat → List CaseRec → List CaseRec
  | _, [] => []
  | a, r :: rest =>
    { cell := cell, off := r.off, bytes := hbmBytes s (a + 16) r.bytes.length } :: copiedCases s cell (a + align (16 + r.bytes.length) 64) rest

/-- The spare takes the contents of its forme from the SYSTEM copy, and the carry pages as their mirrors are committed (R246). -/
def loadSpare (cell : Nat) (s : State) : State :=
  if !s.image.spareLoads.contains cell then s
  else
    let o := originOf s cell
    let pages := s.cells.carry.filter (fun k => k / 2048 = cell)
    let cases := match s.image.img, SMap.get? s.cells.system cell with
      | some i, some p => copiedCases s cell (65536 * (p + if pages.isEmpty then 0 else 16)) (i.cases.filter (fun r => r.cell = o))
      | _, _ => []
    let s1 := onCase (fun m => { m with
      mem := pages.foldl (fun acc k => match mirrorAt s k with
        | some a => Memory.writeN acc (k * 4096) (hbmBytes s a 4096)
        | none => acc) m.mem }) (writeContents cases s)
    onImage (fun m => { m with spareLoads := m.spareLoads.filter (· != cell) }) s1

/-- The clocks of a region and of its two stacks run (R406, R407). -/
def regionServes (s : State) (r : Nat) : Bool := epRuns s (.hbm (2 * r * p2 36)) && epRuns s (.hbm ((2 * r + 1) * p2 36))

/-- Firmware waits for the clocks of the region and of its stacks (R407). -/
def execSpareLoad (cell : Nat) (s : State) : Out := effect (onlyIf (coreRuns s && regionServes s (cellRegion cell)) (loadSpare cell)) s

/-! ### REIMPOSITION (R247 to R251) -/

/-- A re-imposition starts at the step barrier, or at once when no step runs. -/
def startReimp (s : State) : State :=
  if reimpWork s && !s.dev.reimposing then onDev (fun d => { d with reimposing := true }) s else s

/-- 5 s in ticks (R248). -/
def reimpLimit (s : State) : Nat := 5 * rateHz s.tick.rate

/-- The chip enters RETIRE_REQUESTED; the commands that it cuts off complete with it (R277, R310). -/
def enterRetire (s : State) : State :=
  let s1 := [0x41, 0x52, 0x60, 0x62, 0x63].foldl (fun s op => finishCmd op stRetire 0 [] s) s
  setState .retireRequested { s1 with
    dev := { s1.dev with retireAt := false, retrain := [], goOn := false, reimposing := false, leaseHold := false }
    step := { s1.step with proof := none, startAt := false, resumeAt := false }
    frame := { s1.frame with stuck := false, retry := false, replaying := false }
    snap := { s1.snap with run := none, restore := none } }

/-- A re-imposition that does not fit (R250): no more holds, RETIRE_REQUESTED. -/
def failReimp (region : Nat) (s : State) : State := enterRetire (recordEvent 0x0008 (leBytes 1 region ++ leBytes 1 1) s)

/-- A part of the re-imposition is installed; with the last it ends (R248, R251). -/
def endReimp (region : Nat) (s : State) : State :=
  let s1 := recordEvent 0x0008 (leBytes 1 region ++ leBytes 1 0) s
  if reimpWork s1 then s1 else onDev (fun d => { d with reimposing := false }) s1

/-- The slots that a set uses. -/
def setSlots (c : ContSet) : Nat := (c.formes.map (fun (r : FormeRec) => r.cell + 1) ++ c.cases.map (fun (r : CaseRec) => r.cell + 1)).foldl Nat.max 0

/-- The chip with a region's set on its surviving cells (R247): contents, formes and carry sets, in SYSTEM pages of their own. -/
def installSet (L : Load) (c : ContSet) (cells : List Nat) (s : State) : State :=
  let mine := fun (k : Nat) => cellRegion k = c.region
  let old := s.hbm.map.filter (fun p => p.2.cls = 9 && pageStack p.1 / 2 = c.region)
  let s0 := old.foldl (fun t p => unmapPage p.1 t) s
  let s1 := writeContents (setRecords cells c).1 { s0 with
    image := { s0.image with
      img := some L.img
      installed := insertNat s0.image.installed c.region
      orphans := s0.image.orphans.filter (fun k => !mine k)
      spareLoads := s0.image.spareLoads.filter (fun k => !mine k)
      moves := s0.image.moves.filter (fun p => !mine p.1) }
    cells := { s0.cells with
      carry := s0.cells.carry.filter (fun k => !mine (k / 2048))
      system := s0.cells.system.filter (fun p => !mine p.1) } }
  mapCarry L ((usedCells L).filter (fun k => k < 288 && mine k)) s1

/-- Install a region's contingency set and run the checks from 0x0301 to 0x0702 on the result (R248, R250). -/
def reimposeCells (region : Nat) (s : State) : State :=
  match s.image.img with
  | none => s
  | some i =>
    match i.cont.find? (fun c => c.region = region) with
    | none => failReimp region s
    | some c =>
      let cells := activeCells s region
      let clean : State := { s with hbm := { s.hbm with map := [], taken := [] } }
      let L := onSet { img := i, bad := [], s := clean, t := s, full := s.image.installed } c cells
      if s.image.installed.contains region || decide (cells.length < setSlots c) || (firstFailure 0x0301 L).isSome then failReimp region s
      else endReimp region (installSet L c cells s)

/-- A page of the classes that move (R249). -/
def pageMoves (stack : Nat) (p : Nat × PageEnt) : Bool := pageStack p.1 = stack && (p.2.cls = 0 || p.2.cls = 2 || p.2.cls = 7)

/-- An endpoint under a renaming of pages. -/
def renameEp (f : Nat → Nat) (e : Endpoint) : Endpoint :=
  match e with
  | .hbm a => .hbm (f (a / 65536) * 65536 + a % 65536)
  | _ => e

def renameItem (f : Nat → Nat) (it : Item) : Item :=
  match it.body with
  | .bezel op d => { it with body := .bezel op { d with src := renameEp f d.src, dst := renameEp f d.dst, scales := d.scales.map (renameEp f) } }
  | _ => it

def renameRecords (f : Nat → Nat) (l : List FormeRec) : List FormeRec := l.map (fun r => { r with items := r.items.map (renameItem f) })

/-- The image with every endpoint that names a moved page rewritten (R249). -/
def renameImage (f : Nat → Nat) (i : Image) : Image := { i with
  plan := i.plan.map (fun r => { r with place := renameEp f r.place })
  formes := renameRecords f i.formes
  cont := i.cont.map (fun c => { c with formes := renameRecords f c.formes }) }

/-- One page moves to a page of the other stack: its bytes, its class and its listings; its physical page goes back with its weak rows
repaired (R186). -/
def movePage (a b : Nat) (s : State) : State :=
  match pageEnt s a with
  | none => s
  | some e =>
    let old := physOf s a
    let r := takePage (pageStack b) none s
    let bytes := (s.hbm.mem.filter (fun p => p.1 / 65536 = a)).map (fun p => (b * 65536 + p.1 % 65536, p.2))
    freePhys old { r.1 with hbm := { r.1.hbm with
      map := SMap.put (SMap.del r.1.hbm.map a) b { e with ppn := r.2 % p2 20 }
      mem := Memory.fold (Memory.clear r.1.hbm.mem (a * 65536) 65536) bytes
      poison := r.1.hbm.poison.map (fun w => if w.1 = old then (r.2, w.2) else w) } }

/-- The GENERAL, STASH and STATS placements of a stack move to the other stack of its region; the re-imposition ends when the migration out
of the retiring pseudo-channels of the stack has completed too (R249). -/
def reimposeMemory (stack : Nat) (s : State) : State :=
  let dst' := if stack % 2 = 0 then stack + 1 else stack - 1
  let moved := (s.hbm.map.filter (pageMoves stack)).map (fun p => p.1 % p2 20)
  let used := (s.hbm.map.filter (fun p => pageStack p.1 = dst')).map (fun p => p.1 % p2 20)
  let low := moved.foldl Nat.min (p2 20)
  let base := findRoom used moved low (p2 20) (Config.pageStart s.hbm.pageIdx)
  let f := fun (k : Nat) => if pageStack k = stack && moved.contains (k % p2 20) then dst' * p2 20 + (k % p2 20 - low + base) else k
  if moved.isEmpty then
    if s.hbm.retiring.any (fun p => p.1 = stack) then s
    else if poolShort s stack || poolShort s dst' then failReimp 0xFF s
    else endReimp 0xFF (onImage (fun m => { m with memReimp := m.memReimp.filter (· != stack) }) s)
  else if freePages s dst' < moved.length + 4096 then failReimp 0xFF s
  else
    let s1 := moved.foldl (fun t k => movePage (stack * p2 20 + k) (f (stack * p2 20 + k)) t)
      (onHbm (fun h => { h with pageIdx := h.pageIdx + 1 }) s)
    let s2 := onImage (fun m => { m with img := m.img.map (renameImage f) }) s1
    if s2.hbm.retiring.any (fun p => p.1 = stack) then s2
    else if poolShort s2 stack then failReimp 0xFF s
    else endReimp 0xFF (onImage (fun m => { m with memReimp := m.memReimp.filter (· != stack) }) s2)

/-- REIMPOSITION: the chip stands at the step barrier, or no step runs. -/
def reimpose (what : Reimp) (s : State) : State :=
  if !s.dev.reimposing then s
  else
    match what with
    | .cells r => if s.image.orphans.any (fun k => cellRegion k = r) then reimposeCells r s else s
    | .memory k => if s.image.memReimp.contains k then reimposeMemory k s else s

/-- The region that a part of a re-imposition works in: its cells, or both stacks of it. -/
def Reimp.region : Reimp → Nat
  | .cells r => r
  | .memory k => k / 2

/-- Firmware waits for the clocks of the region and of its stacks (R407). -/
def execReimposition (what : Reimp) (s : State) : Out := effect (onlyIf (coreRuns s && regionServes s (Reimp.region what)) (reimpose what)) s

/-- REIMPOSITION_TIMEOUT (R248, R250): the 5 s from the decision tick have run out. -/
def reimpTimeout (s : State) : State :=
  if s.dev.reimposing && decide (reimpLimit s ≤ (s.tick.count - s.image.decidedAt).toNat) then
    failReimp (match s.image.orphans.head? with
      | some k => cellRegion k
      | none => 0xFF) s
  else s

def execReimpositionTimeout (s : State) : Out := effect (onlyIf (coreRuns s) reimpTimeout) s

end Sys2Proof.Machine
end

