-- ==== Sys2Proof/Machine/Ticks.lean ====
section
/-! DEFINITION. The tick and what belongs to it: commit, withhold and slip (R38 to R48, R178, R179), alignment (R52 to R54),
group timeouts (R333, R334), and the opening and closing of steps (R205, R208, R214, R215, R336, R345 to R348, R350,
R354 to R356, R472). -/

namespace Sys2Proof.Machine
open Sys2Proof

/-! ### Lateness (R39, R333) -/

/-- Who runs items: cells, and bezel units under 512 + k. -/
def owners : List Nat := List.range 288 ++ (List.range 8).map (· + 512)

/-- An owner that should run its forme: a unit, or an ACTIVE cell that nothing has stopped. -/
def ownerRuns (s : State) (o : Nat) : Bool := decide (512 ≤ o) || cellActive s o

/-- Some ordered item of the forme index has not started. -/
def unstarted (s : State) : Bool := owners.any (fun o => ownerRuns s o && !(orderedLeft s o).isEmpty)

/-- A record's deadline item has not started. -/
def deadlineMissed (s : State) : Bool :=
  owners.any (fun o => ownerRuns s o && (recordsOf s o).any (fun r =>
    r.forme = s.frame.formeIdx && r.items.any (fun it => it.number = r.deadline && !itemGone s o it)))

/-- A transfer of a started item waits for its binding (R267). -/
def transferWaits (s : State) : Bool :=
  s.frame.running.any (fun p => match itemOf s p.1 p.2 with
    | some { body := .bezel op d, .. } =>
      !hostReady s false d.src || !hostReady s true d.dst || d.scales.any (fun e => !hostReady s (op == 7) e)
    | _ => false)

/-- The groups to which some of the frame's sends stay unacknowledged. -/
def unackedGroups (s : State) : List Nat :=
  (s.fabric.sends.filter (fun r => r.group != 0xFFFF && !r.xfer && !ackedTo s.fabric.sends r.dst)).foldl (fun l r => insertNat l r.group) []

/-- The waits of this chip's unacknowledged sends, by group (R333). -/
def beginSendWaits (s : State) : State :=
  (unackedGroups s).foldl (fun t g => onWait g (fun w => { w with unacked := unackedOf s g }) t) s

/-- HOLD_DEADLINE (R37, R39, R41): unacknowledged sends hold early; a deadline item that has not started holds late. -/
def atDeadline (s : State) : State :=
  let s1 := onFrame (fun f => { f with pastDeadline := true }) s
  if !formesRun s then s1
  else
    let s2 := if allAcked s || s.frame.replaying then s1 else chipLate true (beginSendWaits s1)
    if deadlineMissed s then chipLate false s2 else s2

def execHoldDeadline (s : State) : Out := effect (onlyIf (coreRuns s && !s.frame.pastDeadline) atDeadline) s

/-- The level of a tree stage, and whether it goes down (R331): stages count from 0. -/
def treeLevel (g : Group) (stage : Nat) : Nat × Bool :=
  let l := treeLevels g.fanout g.members.length
  if stage < l then (stage + 1, false) else (2 * l - stage, true)

/-- The positions that member `q` sends to in a stage (R331). -/
def stageTargets (g : Group) (q stage : Nat) : List Nat :=
  let m := g.members.length
  if g.algorithm = 0 then (if stage = 0 then (List.range m).filter (· != q) else [])
  else if g.algorithm = 1 then [(q + 1) % m]
  else
    let t := treeLevel g stage
    let step := g.fanout ^ (t.1 - 1)
    if t.2 then
      (if q % (step * g.fanout) = 0 then ((List.range (g.fanout - 1)).map (fun j => q + (j + 1) * step)).filter (· < m) else [])
    else if q % step = 0 && q % (step * g.fanout) != 0 then [q - q % (step * g.fanout)]
    else []

/-- The members whose contributions a stage brings to this chip (R331). -/
def stageSources (g : Group) (me stage : Nat) : List Nat :=
  ((List.range g.members.length).filter (fun p => (stageTargets g p stage).contains (g.members.idxOf me))).map (fun p => g.members.getD p 0xFFFF)

/-- Every item of a member's contribution to a stage has come in the frame. How many items it has is a free value: R209 lists what chips
contribute, and no rule says which of it a member sends in a stage (DESIGN CHOICE, log entry 34). -/
def contributed (f : FabricSt) (stage m : Nat) : Bool := Config.contributionItems stage m < SMap.getD f.contribStaged m 0

/-- The members that the running exchange stage of the step group still misses (R335). `staged` counts what the frame has brought. -/
def stageMissing (staged : Bool) (s : State) : List Nat :=
  match stepGroup s, exchangeStage s with
  | some g, some k =>
    if g.members.contains s.dev.fabric then
      (stageSources g s.dev.fabric k).filter (fun m => !s.fabric.contrib.contains m && !(staged && contributed s.fabric k m))
    else []
  | _, _ => []

/-- The chip waits on its step group (R333). -/
def beginStageWait (s : State) : State :=
  match stepGroup s with
  | some g => if (stageMissing true s).isEmpty then s else onWait g.index (fun w => { w with missing := stageMissing true s }) s
  | none => s

/-- LOCK_UP (R38, R39): nothing starts any more; an item that has not started, a transfer that waits, or a contribution that is
missing makes the chip late. -/
def atLockUp (s : State) : State :=
  let s1 := onFrame (fun f => { f with pastDeadline := true, lockUp := true }) s
  if !formesRun s then s1
  else
    let s := s.frame.cellStarted.foldl (fun s c => if cellWorks s c then beginWaiting c s else s) s1
    let s2 := beginStageWait s
    if unstarted s || transferWaits s || !(stageMissing true s).isEmpty then chipLate false s2 else s2

def execLockUp (s : State) : Out := effect (onlyIf (coreRuns s && !s.frame.lockUp) atLockUp) s

/-- The chip stops replaying: HELD at its stuck forme index, with an early hold of every frame (R48). -/
def becomeStuck (s : State) : State :=
  raiseHold true (setState .held (onFrame (fun f => { f with stuck := true, retry := false, replaying := false }) s))

def execStuckForme (s : State) : Out :=
  effect (onlyIf (coreRuns s && formesRun s && decide (8 ≤ s.frame.slipRun)) becomeStuck) s

/-- UNALIGNED (R54): in effect when the frame in progress has ended. -/
def execUnaligned (s : State) : Out :=
  effect (onlyIf (coreRuns s && !s.tick.source && s.tick.aligned && (decide (8 ≤ s.tick.offBad) || decide (8 ≤ s.tick.markerGap)))
    (onTick (fun t => { t with realign := some false }))) s

/-- REALIGNED (R54): the chip resumes at the next tick; a follower first aligns in the same way (log entry 26). -/
def execRealigned (s : State) : Out :=
  effect (onlyIf (coreRuns s && !s.tick.source && !s.tick.aligned && decide (64 ≤ s.tick.offGood))
    (onTick (fun t => { t with realign := some true }))) s

/-! ### GROUP_TIMEOUT (R333, R334) -/

/-- The unreachable addresses of a wait: the members whose contribution or delivery credit is missing (R334). -/
def unreachable (w : GWait) : List Nat := w.unacked.foldl insertNat w.missing

/-- The records of a stalled group: 16 unreachable addresses each. -/
def stallRecords (group : Nat) (missing : List Nat) (s : State) : State :=
  (List.range (Nat.max 1 (ceilDiv missing.length 16))).foldl (fun s i =>
    recordEvent 0x0009 (leBytes 2 group ++ (List.range 16).flatMap (fun k => leBytes 2 (missing.getD (16 * i + k) 0xFFFF))) s) s

/-- A chip whose waits count: it is RUNNING or HELD (R333, R334). -/
def mayStall (s : State) : Bool := s.dev.state = .running || s.dev.state = .held

/-- A wait reaches its group's timeout: the group is stalled and the chip HELD. A running proof ends with it (log entry 32), and so does a
SNAPSHOT that waits for its barrier, with no generation (R298). -/
def stallGroup (g : Group) (w : GWait) (s : State) : State :=
  let s1 := stallRecords g.index (unreachable w) (onFabric (fun f => { f with stalled := insertNat f.stalled g.index, waits := SMap.del f.waits g.index }) s)
  let s2 := setState .held (onFrame (fun f => { f with stuck := false, retry := false, replaying := false }) s1)
  finishCmd 0x60 stGroupStalled 0 [] (finishCmd 0x63 stGroupStalled 0 []
    (onSnap (fun x => { x with run := none }) (onStep (fun t => { t with proof := none }) s2)))

def runGroupTimeout (group : Nat) (s : State) : State :=
  match groupAt s group, SMap.get? s.fabric.waits group with
  | some g, some w => if g.timeout ≤ (s.tick.count - w.since).toNat && mayStall s then stallGroup g w s else s
  | _, _ => s

def execGroupTimeout (group : Nat) (s : State) : Out := effect (onlyIf (coreRuns s) (runGroupTimeout group)) s

/-! ### What the tick does with the frame that ends (R40 to R47) -/

/-- The outcomes of a frame at its closing tick: a commit (R40), a chip that R47 stopped, the target tick of a local withhold
with its replay clean or in doubt (R44), a withhold (R43), and a local withhold (R44). -/
inductive FrameEnd where
  | commit | stopped | replay | replayFail | withhold | localHold
deriving DecidableEq, Repr

/-- The tick that closes the frame. -/
def closingTick (s : State) : W64 := s.tick.domain + 1

/-- A hold that stands targets the closing tick. -/
def targeted (s : State) : Bool := s.frame.known.any (fun h => holdTarget h == closingTick s && !holdVoid s h)

/-- One of this chip's own holds does. -/
def ownTargets (s : State) : Bool :=
  s.frame.known.any (fun h => h.origin == s.dev.fabric && holdTarget h == closingTick s && !holdVoid s h)

/-- What the tick does with the frame that ends. A chip that is not aligned free-runs and acts on no hold (R54); R54 does not say what its
own tick does with the inbound and host writes that are staged: it commits them (DESIGN CHOICE, log entry 35). -/
def frameEnd (s : State) : FrameEnd :=
  if !s.tick.aligned then .commit
  else if s.dev.unaligned then .stopped
  else if s.frame.replaying then (if s.frame.doubt || s.frame.late then .replayFail else .replay)
  else if targeted s then .withhold
  else if s.frame.ownLate == some s.tick.domain then .localHold
  else .commit

/-- The staging of this chip's own sources commits. -/
def ownCommits (k : FrameEnd) : Bool := k = .commit || k = .replay

/-- The inbound staging commits. A chip that R47 stopped commits its inbound and host staging at its next tick: R47 does not say
(DESIGN CHOICE, log entry 35). -/
def inboundCommits (k : FrameEnd) : Bool := k = .commit || k = .localHold || k = .stopped

/-- The domain slips this tick (R43). -/
def slips (k : FrameEnd) : Bool := k = .withhold || k = .replay || k = .replayFail

/-- An item still runs at the tick: the chip is late (R39). -/
def lateAtTick (s : State) : State :=
  let s1 := onFrame (fun f => { f with pastDeadline := true }) s
  if formesRun s && !s.frame.running.isEmpty then chipLate false s1 else s1

/-- A wait reaches its group's timeout at the tick that closes the frame: the timeout wins over what commits there (R334, R337). -/
def waitExpires (s : State) (g : Nat) (w : GWait) : Bool :=
  match groupAt s g with
  | some x => mayStall s && decide (x.timeout ≤ (s.tick.count + 1 - w.since).toNat)
  | none => false

/-- Some wait does. -/
def anyExpires (s : State) : Bool := s.fabric.waits.any (fun p => waitExpires s p.1 p.2)

/-- A wait as the frame ends (R333): the delivery credits that are still missing, the cells whose item has still not started, and, while one
of them waits or the group's stage does, the members whose contributions are. -/
def waitNow (s : State) (g : Nat) (w : GWait) : GWait :=
  let cells := w.cells.filter (fun c => !(orderedLeft s c).isEmpty)
  let stage := if (stepGroup s).any (fun x => x.index = g) then stageMissing true s else []
  { w with unacked := unackedOf s g, cells := cells, missing := if cells.isEmpty then stage else stage.foldl insertNat w.missing }

/-- The chip still waits on the group. -/
def stillWaits (w : GWait) : Bool := !w.unacked.isEmpty || !w.missing.isEmpty || !w.cells.isEmpty

/-- The waits at the end of a frame of work: those that have ended are over (R333). -/
def endWaits (s : State) : State :=
  if formesRun s then
    onFabric (fun f => { f with waits := f.waits.filterMap (fun p =>
      if waitExpires s p.1 p.2 then some p else if stillWaits (waitNow s p.1 p.2) then some (p.1, waitNow s p.1 p.2) else none) }) s
  else s

/-- The bytes of case-memory staging that become committed. -/
def caseLands (k : FrameEnd) (m : CaseSt) : List Host.Cell :=
  match k with
  | .commit => m.staged
  | .replay => m.own ++ m.host
  | .localHold | .stopped => m.inbound ++ m.host
  | .withhold | .replayFail => []

/-- The host's writes that a withheld tick carries forward, with their shadow pages (R50). -/
def caseCarries (k : FrameEnd) (m : CaseSt) : List Host.Cell :=
  match k with
  | .withhold | .replayFail => m.host
  | _ => []

/-- Case memory at the tick (R40). -/
def settleCase (k : FrameEnd) (s : State) : State :=
  onCase (fun m => { m with mem := Memory.fold m.mem (caseLands k m), staged := caseCarries k m, inbound := [], own := [], host := caseCarries k m,
                             shadow := (caseCarries k m).foldl (fun l p => insertNat l (p.1 / 4096)) [], excess := [] }) s

/-- What a withheld tick carries forward is mirrored in the new frame (R50, R245). -/
def mirrorCarried (s : State) : State :=
  s.caseMem.host.foldl (fun t p => mirrorWrite (p.1 / p2 23) (p.1 % p2 23 / 4096) (p.1 % p2 23) [p.2] t) s

/-- HBM at the tick (R178, R179). -/
def settleHbm (k : FrameEnd) (s : State) : State :=
  if ownCommits k || inboundCommits k then hbmCommit (ownCommits k) (inboundCommits k) s else hbmWithhold s

/-- Statistics at the tick (R36, R215): those of a step run from decision to decision (log entry 23). -/
def settleStats (k : FrameEnd) (table : List TabEntry) (x : StatsSt) : StatsSt :=
  let decided := ownCommits k && x.lastStaged.isSome
  let base := if decided then [] else x.committed
  let own := if ownCommits k then mergeStats base x.own else base
  { committed := if inboundCommits k then mergeStats own x.inbound else own
    last := if decided then x.lastStaged.getD x.last else x.last
    lastForm := if decided then table.map (fun t => (t.format, t.leading)) else x.lastForm
    lastStaged := none
    own := []
    inbound := [] }

/-- The tensors whose format the staged table changes. -/
def changedFormats (old new : List TabEntry) : List Nat :=
  ((List.zip (List.range old.length) (List.zip old new)).filter (fun x => x.2.1.format != x.2.2.format)).map (·.1)

/-- The step's staged state at the tick (R205, R211, R349). -/
def settleStep (own : Bool) (t : StepSt) : StepSt :=
  let t1 : StepSt := if own then { t with
      record := t.recStaged.getD t.record
      changed := match t.tableStaged with
        | some n => changedFormats t.table n
        | none => t.changed
      table := t.tableStaged.getD t.table
      consts := t.constsStaged.getD t.consts
      digest := t.digestStaged
      compares := if t.cmpLastStaged.isSome then [] else t.comparesStaged
      comparesStaged := if t.cmpLastStaged.isSome then [] else t.comparesStaged
      cmpLast := t.cmpLastStaged.getD t.cmpLast
      cmpBound := if t.cmpLastStaged.isSome then t.refBound else t.cmpBound
      refTop := t.refTopStaged
      refHeld := t.refHeldStaged
      workSets := t.workSetsStaged }
    else { t with
      digestStaged := t.digest
      comparesStaged := t.compares
      refTopStaged := t.refTop
      refHeldStaged := t.refHeld
      workSetsStaged := t.workSets }
  { t1 with recStaged := none, tableStaged := none, constsStaged := none, cmpLastStaged := none }

/-- The frame's own bookkeeping at the tick that closes it: done bits, slips, and what the next frame replays. `worked` says that
it was a frame of work. -/
def settleFrame (k : FrameEnd) (worked own : Bool) (t : W64) (f : FrameSt) : FrameSt := { f with
  doneMask := if ownCommits k then f.doneStaged.foldl insertPair f.doneMask else f.doneMask
  doneStaged := []
  withheldAt := if slips k then some t else f.withheldAt
  replaying := k = .localHold || k = .replayFail
  slipRun := if ownCommits k then 0
    else if k = .withhold || k = .replayFail then (if worked && own then f.slipRun + 1 else 0)
    else f.slipRun }

/-- The contributions that a frame brought, at its tick (R335). -/
def settleContrib (inbound : Bool) (stage : Option Nat) (f : FabricSt) : FabricSt :=
  let whole := match stage with
    | some k => (f.contribStaged.map (fun (p : Nat × Nat) => p.1)).filter (contributed f k)
    | none => []
  { f with contrib := if inbound then whole.foldl insertNat f.contrib else f.contrib, contribStaged := [] }

/-- The tensors whose statistics the tick changes. -/
def statsTouched (k : FrameEnd) (x : StatsSt) : List Nat :=
  let own := if ownCommits k then x.own else []
  let inb := if inboundCommits k then x.inbound else []
  let old := if ownCommits k && x.lastStaged.isSome then x.committed else []
  (own ++ inb ++ old).foldl (fun l p => insertNat l p.1) []

/-- The record and the column correction vector of a tensor go to its statistics area, the role 0x04 placement of the plan (R139, R193). It
holds the record of the running step (DEDUCED, log entry 23). -/
def writeStatArea (s : State) (t : Nat) : State :=
  match s.image.img, tabEntry s t with
  | some i, some e =>
    let r := SMap.getD s.stats.committed t StatRec.empty
    (i.plan.filter (fun m => m.role = 0x04 && m.tensor = t)).foldl (fun s m => match m.place with
      | .hbm a => hbmPut a (StatRec.bytes r t e.format e.leading ++ colBytes r e.cols) s
      | _ => s) s
  | _, _ => s

/-- Commit or withhold the frame's staging (R40, R43, R44). TICK_LAST_COMMIT follows the host's writes: R258 names a commit and a local withhold,
and at the target tick of R44 with a clean replay the carried host writes commit too, which moves it (DEDUCED, log entry 35). -/
def settle (k : FrameEnd) (s : State) : State :=
  let worked := formesRun s
  let own := ownTargets s || k = .replayFail
  let s1 := mirrorCarried (settleHbm k (settleCase k s))
  (statsTouched k s.stats).foldl writeStatArea <| onTick (fun t => { t with
      lastCommit := if ownCommits k || inboundCommits k then t.count + 1 else t.lastCommit
      slips := if slips k then t.slips + 1 else t.slips })
    (onFrame (settleFrame k worked own (closingTick s))
      (onStep (settleStep (ownCommits k)) (onStats (settleStats k s.step.table) (onFabric (settleContrib (inboundCommits k) (exchangeStage s)) s1))))

/-! ### Time (R11, R55) -/

/-- The marker of a follower's frame, seen or not (R52, R54): without one it runs uncorrected. R54 gives no offset for such a tick: it ends both
runs of offsets, the 8 beyond 50 ns and the 64 within 20 ns (DESIGN CHOICE, log entry 26). -/
def countMarkers (t : TickSt) : TickSt :=
  if t.source then { t with markerSeen := false }
  else if t.markerSeen then { t with
      markerSeen := false
      markerGap := 0
      offBad := if 50000 < t.offsetPs.natAbs then t.offBad + 1 else 0
      offGood := if t.offsetPs.natAbs ≤ 20000 then t.offGood + 1 else 0 }
  else { t with markerGap := t.markerGap + 1, offBad := 0, offGood := 0, corrPs := 0 }

/-- The tick counts, and the time of one frame passes. What the frame sent and received is over (R324). -/
def passTime (s : State) : State :=
  let us := frameUs s.tick.rate
  let s1 := onTick (fun t => countMarkers { t with count := t.count + 1, domain := t.domain + 1, markerTick := t.markerTick + 1, timeUs := t.timeUs + us }) s
  let s2 := onLife (fun l => { l with hoursUs := l.hoursUs + us }) { s1 with life := { s1.life with sinceWriteUs := s1.life.sinceWriteUs + us } }
  let s3 := onClocks (fun c => { c with silent := c.silent.map (fun n => Nat.min 16 (n + 1)) }) s2
  let s4 := onDev (fun d => { d with heartbeat := if 3 ≤ d.bootStage then d.heartbeat + 1 else d.heartbeat }) s3
  onFabric (fun f => { f with sends := [], recv := [] }) s4

/-- A new rate closes the windows stated in seconds and is recorded; a short window follows one that ran (R57, R443). -/
def changeRate (r : TickRate) (s : State) : State :=
  if r = s.tick.rate then s
  else
    let s1 := openSteady (steadySample (if 0 < s.power.winElapsed then closeWindow s else s))
    let s2 := recordEvent 0x0010 (leBytes 1 (rateCode s.tick.rate) ++ leBytes 1 (rateCode r)) s1
    onPower (fun p => { p with winTicks := if s.power.winTicks = 0 then 0 else windowTicks r s2.env.windowMs }) (onTick (fun t => { t with rate := r }) s2)

/-- SET_TICK_DOMAIN takes effect (R291): a source numbers its domain by its own count; a follower aligns anew. What becomes of the holds
that the chip knew under the old numbers is not stated: they stay known (DESIGN CHOICE, log entry 35). -/
def takeDomain (s : State) : State :=
  match s.tick.newDomain with
  | none => s
  | some n =>
    onDev (fun d => { d with unaligned := d.lostTick }) (onTick (fun t => { t with
      newDomain := none
      source := n.source
      upstream := n.upstream
      aligned := n.source
      firstAligned := n.source
      domain := t.count
      realign := none
      markerGap := 0
      offBad := 0
      offGood := 0 }) (changeRate n.rate s))

/-- A follower becomes unaligned, or aligned; the first alignment takes the domain's tick number (R53, R54). A chip that R47 stopped
stays unaligned until a restore. What becomes of the holds it knew before it aligns is not stated: it forgets them (DESIGN CHOICE,
log entry 35). -/
def takeAlignment (s : State) : State :=
  match s.tick.realign with
  | none => s
  | some false =>
    countEvent .chip 0 0 (onDev (fun d => { d with unaligned := true }) (onTick (fun t => { t with realign := none, aligned := false, offGood := 0 }) s))
  | some true =>
    onFrame (fun f => { f with known := [] }) (onDev (fun d => { d with unaligned := d.lostTick })
      (onTick (fun t => { t with
        realign := none
        aligned := true
        firstAligned := true
        domain := if t.firstAligned then t.domain else t.markerTick
        offBad := 0
        markerGap := 0 }) s))

/-! ### The forme index and the step (R48, R205, R215, R335, R350, R354 to R356) -/

/-- Every item of the forme index has completed. -/
def formeDone (s : State) : Bool :=
  owners.all (fun o => (decide (o < 512) && decide (cellState o s ≠ .active)) || (recordsOf s o).all (fun r =>
    r.forme != s.frame.formeIdx || r.items.all (fun it => itemIdle s it.body || s.frame.finished.contains (o, it.number)
      || s.frame.doneMask.contains (o, it.number) || s.frame.doneStaged.contains (o, it.number))))

/-- The frame that ends moves the forme index on (R335). `inbound` says that what it brought commits. -/
def advances (inbound : Bool) (s : State) : Bool :=
  let h := stepShape s
  formesRun s && (stageMissing inbound s).isEmpty && (decide (s.frame.formeIdx < h.bar) || (formeDone s && (s.frame.formeIdx != h.dec || s.step.recStaged.isSome)))

/-- The frame is the last of its step. -/
def lastForme (s : State) : Bool := decide ((stepShape s).total ≤ s.frame.formeIdx + 1)

/-- The 24 bytes of a PROOF (R301). -/
def proofResult (s : State) : List Byte :=
  leBytes 8 s.step.record.attempted.toNat ++ leBytes 4 s.step.lossPartial.toNat ++ zeros 4 ++ leBytes 8 s.step.digest.toNat

/-- Header updates that go out from the next frame on, until they are acknowledged (R347; DEDUCED, log entry 32). -/
def addTail (ps : List SlotPiece) (s : State) : State :=
  if ps.isEmpty then s else onSnap (fun x => { x with tails := x.tails ++ [{ Xfer.new with again := ps }] }) s

/-- The proof at the replay's decision tick (R356): on a mismatch the partner's header is marked failed and the member rolls
back once more (log entry 32). -/
def proofCheck (s : State) : State :=
  match s.step.proof with
  | none => s
  | some p =>
    if !p.replaying then s
    else
      match p.combined with
      | none => s
      | some (true, _) =>
        let bad := match p.hdr with
          | some g => addTail [firmPiece (partnerOf s p.generation) 0 ({ g with failed := true } : GenHdr).image] s
          | none => s
        askProof (p.generation - 1) true (onFrame (fun f => { f with inStep := false, formeIdx := 0 })
          (onStep (fun t => { t with proof := some { p with replaying := false, rolledBack := false, result := proofResult s } }) bad))
      | some (false, true) => finishCmd 0x63 stUnproven 0 (proofResult s) s
      | some (false, false) => onSnap (fun x => { x with proven := true }) (finishCmd 0x63 stDone 0 (proofResult s) s)

/-- The counters of a closing tick (R215). -/
def closeRecord (r : StepRec) : StepRec :=
  let r1 := { r with attempted := r.attempted + 1 }
  if r.outcome = 1 then { r1 with applied := r.applied + 1, skips := 0 }
  else { r1 with skips := r.skips + 1, totalSkips := if r.totalSkips = 0xFFFFFFFF then r.totalSkips else r.totalSkips + 1 }

/-- The proof record of a generation whose following step closes (R350). -/
def proofRecord (s : State) : State :=
  match s.snap.proofFor with
  | some g =>
    onSnap (fun x => { x with proofFor := none, proofRecs := x.proofRecs ++ [(leBytes 8 g.toNat ++ leBytes 8 s.step.record.attempted.toNat
      ++ leBytes 8 s.step.digest.toNat ++ leBytes 4 s.step.lossPartial.toNat
      ++ leBytes 1 (1 + bitAt s.step.lossHas 1 + bitAt (decide (s.step.record.outcome = 2)) 2) ++ zeros 35, 0)] }) s
  | none => s

/-- WORKING words that have been written anew, and so have left the poison table, need no regeneration; those that entered it later wait for
the next step barrier (R183, R184). -/
def clearRegenerated (s : State) : State :=
  onHbm (fun h => { h with regenWords := h.regenWords.filter (fun x => wordPoisoned s (65536 * x.1 + 32 * x.2)) }) s

/-- The step's batch retires (R208, R215). -/
def retireBatch (s : State) : State :=
  match s.step.accepted with
  | some b => onStep (fun t => { t with accepted := none }) (batchRecord b stDone b.attemptTag.toNat s)
  | none => s

/-- The closing tick of a step (R215). -/
def closeStep (s : State) : State :=
  let s1 := clearRegenerated (retireBatch (proofRecord s))
  onFrame (fun f => { f with inStep := false, formeIdx := 0, doneMask := [] }) (onStep (fun t => { t with
    record := closeRecord t.record
    stepsLeft := t.stepsLeft.map (· - 1) }) s1)

/-- The regeneration frames end (R354). -/
def endRegen (s : State) : State :=
  clearRegenerated (onFrame (fun f => { f with inStep := false, formeIdx := 0, doneMask := [] }) (onStep (fun t => { t with regen := false }) s))

/-- A stuck chip whose replayed frame commits returns to RUNNING (R48). -/
def unstick (s : State) : State :=
  if s.frame.retry then setState .running (onFrame (fun f => { f with retry := false }) s) else s

/-- The forme index after a frame that committed and moves on. -/
def moveOn (wasDecision : Bool) (s : State) : State :=
  let s1 := onFabric (fun f => { f with waits := [], contrib := [] }) s
  if lastForme s then (if s.step.regen then endRegen s1 else closeStep s1)
  else
    let s3 := onFrame (fun f => { f with formeIdx := f.formeIdx + 1 }) s1
    if wasDecision then proofCheck (onImage (fun m => { m with decidedAt := s.tick.count }) s3) else s3

/-! ### The step barrier (R184, R214, R248, R268, R297, R370, R472) -/

/-- No step runs, or it stands at a barrier; a stop comes first (R370). -/
def mayRetire (s : State) : Bool :=
  !(s.dev.state = .booting || s.dev.state = .snapshotting || s.dev.state = .retireRequested || s.dev.state = .thermalOff || s.dev.state = .failed)
    && !(s.dev.state = .running && s.frame.inStep)

/-- The third skip in a row (R214). -/
def skipsStall (s : State) : Bool := decide (3 ≤ s.step.record.skips.toNat)

/-- The lease has ended, and no renewal waits (R268). -/
def leaseEnds (s : State) : Bool := s.dev.leaseHold && !renewalWaits s

/-- The flags of the holds that fall on a barrier (R472). -/
def barrierFlags (closing : Bool) (s : State) : State :=
  let stall := closing && skipsStall s
  onStep (fun t => { t with record := { t.record with stalled := t.record.stalled || stall } })
    (onDev (fun d => { d with stalled := d.stalled || stall
                              uncontrolled := d.uncontrolled || leaseEnds s
                              leaseHold := d.leaseHold && !leaseEnds s }) s)

/-- A proof's replay has closed (R355). -/
def proofClosed (closing : Bool) (s : State) : Bool := closing && proofRuns s

/-- What holds a running chip at the barrier; the flag says that a hold ends only by a host (R214, R268, R297). -/
def barrierCause (closing : Bool) (s : State) : Option Bool :=
  if (closing && skipsStall s) || leaseEnds s || (acceptedOp s 0x52).isSome then some true
  else if reimpWork s || !s.dev.retrain.isEmpty then some false
  else none

/-- State changes at the tick, once the step has moved on. `committed` says that the chip's frame committed. -/
def barrier (closing committed : Bool) (s : State) : State :=
  if s.dev.retireAt && mayRetire s then enterRetire s
  else if proofClosed closing s then onStep (fun t => { t with proof := none }) (barrierFlags closing s)
  else if closing && s.step.stepsLeft == some 0 then
    finishCmd 0x52 stDone 0 [] (setState .loaded (barrierFlags closing s))
  else if s.dev.state = .running && !s.frame.inStep then
    match barrierCause closing s with
    | some host =>
      finishCmd 0x52 stDone 0 [] (setState .held (onDev (fun d => { d with goOn := !host }) (barrierFlags closing s)))
    | none => s
  else if s.dev.state = .running && committed && (acceptedOp s 0x52).isSome then
    finishCmd 0x52 stDone 0 [] (setState .held s)
  else if s.dev.state = .held then
    finishCmd 0x52 stDone 0 [] (barrierFlags false (onlyIf (acceptedOp s 0x52).isSome
      (onFrame (fun f => { f with stuck := false, retry := false })) s))
  else if s.dev.state = .loaded || s.dev.state = .ready then onDev (fun d => { d with leaseHold := false }) s
  else s

/-! ### Retraining and re-imposition at the barrier (R248, R249, R370) -/

/-- Nothing of a step runs and no stop does. -/
def standsStill (s : State) : Bool := s.dev.state != .snapshotting && !stepRuns s

/-- The ports of RETRAIN train (R370). -/
def startRetrain (s : State) : State :=
  if standsStill s && !s.dev.retrain.isEmpty then
    s.dev.retrain.foldl (fun s p => trainPort p s)
      (onDev (fun d => { d with retrain := [], retrainTicks := 0, retraining := if d.goOn then d.retrain.foldl insertNat d.retraining else d.retraining }) s)
  else s

/-- Training has ended, or the 50 ms have (R370). -/
def endRetrain (s : State) : State :=
  if s.dev.retraining.isEmpty then s
  else if s.dev.retraining.any (fun p => decide ((claspOf p s).state = 1)) && decide ((s.dev.retrainTicks + 1) * frameUs s.tick.rate < 50000) then
    onDev (fun d => { d with retrainTicks := d.retrainTicks + 1 }) s
  else onDev (fun d => { d with retraining := [], retrainTicks := 0 }) s

/-- The repairs for which a chip left RUNNING have ended: it opens its next step, unless its lease has ended, which leaves it uncontrolled in
HELD; while a renewal that arrived in time waits to be taken, so does the chip (R248, R251, R268, R273, R370). -/
def endRepair (s : State) : State :=
  if s.dev.state != .held || !s.dev.goOn || s.dev.reimposing || reimpWork s || !s.dev.retraining.isEmpty || !s.dev.retrain.isEmpty then s
  else if s.own.holder.isNone && renewalWaits s then s
  else
    let s1 := onDev (fun d => { d with goOn := false, uncontrolled := d.uncontrolled || s.own.holder.isNone }) s
    if s1.dev.uncontrolled then s1 else setState .running s1

/-- A retirement that its stack's free pages cannot take calls for a re-imposition (R188, R249). -/
def findShortPools (s : State) : State :=
  if s.image.img.isNone then s
  else onImage (fun m => { m with memReimp := (List.range 8).foldl (fun l k =>
    if s.hbm.retiring.any (fun p => p.1 = k) && poolShort s k then insertNat l k else l) m.memReimp }) s

/-- A decision tick of the running step is still to come, or has been. -/
def decisionDue (s : State) : Bool := stepRuns s && s.frame.inStep && !s.step.regen

/-- Work for a re-imposition that arises where no decision tick of a running step stands at its origin: its 5 s count from here (R248;
DEDUCED, log entry 29). -/
def openReimp (closing before : Bool) (s : State) : State :=
  if closing || before || !reimpWork s || decisionDue s then s else onImage (fun m => { m with decidedAt := s.tick.count }) s

/-- Fences, moves and re-imposition at the tick. -/
def tickCells (closing : Bool) (s : State) : State :=
  openReimp closing (reimpWork s) (findShortPools (takeUnfences (moveFormes (takeFences (dropUnfences s)))))

/-- Retraining and re-imposition start. -/
def tickRepairs (s : State) : State :=
  let s1 := endRetrain s
  let s2 := startRetrain s1
  endRepair (if standsStill s2 && (s2.dev.state = .held || s2.dev.state = .loaded) then startReimp s2 else s2)

/-! ### The stop of a snapshot (R345 to R348) -/

/-- The cut (R345): a step barrier at which the applied count has reached the step, or the closing tick of the step within which the chip was
HELD. -/
def cutSnapshot (closing : Bool) (s : State) : State :=
  match s.snap.run with
  | some r =>
    let still := (s.dev.state = .held || s.dev.state = .loaded) && !s.frame.inStep
    if s.dev.state != .snapshotting && (closing || still) && ((r.within && closing) || r.step = 0 || decide (r.step.toNat ≤ s.step.record.applied.toNat)) then
      onSnap (fun x => { x with run := some { r with due := true } }) s
    else s
  | none => s

/-- The slot transfers at the tick that ends a frame (R347, R352): what is acknowledged, and what goes out again. A header update behind a stop or
a proof is given up after 16 frames without an acknowledged byte, as the rest of a transfer is. -/
def settleXfers (s : State) : State :=
  let l := s.fabric.sends
  onSnap (fun x => { x with
    run := if s.dev.state = .snapshotting then
        x.run.map (fun r => { r with frames := r.frames + 1, xfer := r.xfer.settle l (copiesPause s) })
      else x.run
    serves := x.serves.map (fun v => { v with xfer := v.xfer.settle l (copiesPause s) })
    tails := (x.tails.map (fun t => t.settle l false)).filter (fun t => !t.again.isEmpty && decide (t.noAck < 16)) }) s

/-- The bytes of the frames before go out again, as a frame opens; what the bezel units copy waits while copies pause (R347). -/
def resendXfers (s : State) : State :=
  if !maySend s then s
  else
    let ready := fun (p : SlotPiece) => !p.copy || !copiesPause s
    let move := fun (x : Xfer) => { x with sent := x.sent ++ x.again.filter ready, again := x.again.filter (fun p => !ready p) }
    let all := (s.snap.run.map (·.xfer)).toList ++ s.snap.serves.map (·.xfer) ++ s.snap.tails
    sendPieces ((all.flatMap (·.again)).filter ready) (onSnap (fun x => { x with
      run := x.run.map (fun r => { r with xfer := move r.xfer })
      serves := x.serves.map (fun v => { v with xfer := move v.xfer })
      tails := x.tails.map move }) s)

/-- The generations that this chip serves, as a frame opens. -/
def tickServes (s : State) : State := s.snap.serves.foldl (fun t v => endServe v t) s

/-- The stop ends at the first tick behind the acknowledged complete header (R347, R298); the other partner's update goes on where that chip has
not acknowledged it. -/
def endStop (s : State) : State :=
  match s.snap.run with
  | some r =>
    if s.dev.state = .snapshotting && r.xfer.closed (partnerOf s r.generation) then
      finishCmd 0x60 stDone 0 (leBytes 8 r.generation.toNat ++ leBytes 4 r.frames ++ leBytes 1 (bitAt s.snap.exposed 0) ++ zeros 3)
        (leaveStop (onLife (fun l => { l with snapshots := l.snapshots + 1 }) (addTail (r.xfer.sent ++ r.xfer.again) (onSnap (fun x => { x with
          run := none, proven := false, latestGen := some r.generation, proofFor := some r.generation }) s))))
    else s
  | none => s

/-! ### The frame that opens (R33, R40, R208, R289, R327, R336) -/

/-- Tables that wait for a tick (R289); a group table clears the stalls and rewinds the interrupted step (R336). -/
def installTables (s : State) : State :=
  let s1 := match s.fabric.routesNext with
    | some (r, b) => finishCmd 0x31 stDone 0 [] (onFabric (fun f => { f with routes := r, routeBytes := b, routesNext := none }) s)
    | none => s
  match s1.fabric.groupsNext with
  | none => s1
  | some (g, b) =>
    let s2 := onFabric (fun f => { f with groups := g, groupBytes := b, groupsNext := none, stalled := [], waits := [], contrib := [] }) s1
    let s3 := if s1.fabric.stalled.isEmpty || !s1.frame.inStep then s2
      else onStats (fun x => { x with committed := [] }) (onStep (fun t => { t with digest := 0, digestStaged := 0, compares := [], comparesStaged := [], refTop := [],
                                                                                     refTopStaged := [], refHeld := [], refHeldStaged := [] })
        (onFrame (fun f => { f with formeIdx := 0, doneMask := [], inStep := !s1.step.regen }) s2))
    finishCmd 0x32 stDone 0 [] s3

/-- The frame's own fields, the engines, and the usable set (R33, R327). -/
def freshFrame (s : State) : State :=
  let t := s.tick.domain
  { s with
    frame := { s.frame with
      pastDeadline := false
      lockUp := false
      doubt := false
      late := false
      known := s.frame.known.filter (fun h => decide (0 < (holdTarget h - t).toInt) && !holdVoid s h)
      forwarded := s.frame.forwarded.filter (fun h => decide (0 < (holdTarget h - t).toInt))
      ownLate := none
      ownEarly := false
      started := []
      finished := []
      running := []
      cellStarted := []
      stoppedCells := [] }
    cells := { s.cells with eng := [] }
    fabric := { s.fabric with usable := (List.range 20).filter (fun p => claspUp (claspOf p s)) } }

/-- RUN_STEPS and RESUME take effect (R48, R295, R297). A RESUME of a stuck chip runs its forme index again; one during a proof's
own frames changes nothing. Where the lease has ended since, the step that opens is the last (R268). Where the other port
has claimed the lease between, the chip runs too, with uncontrolled set until a host clears it: no rule takes the DONE of a RESUME back (DEDUCED,
log entry 33). -/
def takeRun (s : State) : State :=
  let s1 := onDev (fun d => { d with leaseHold := d.leaseHold || ((s.step.startAt || s.step.resumeAt) && s.own.holder.isNone) })
    (onStep (fun t => { t with startAt := false, resumeAt := false }) s)
  if s.step.startAt && s.dev.state = .loaded then setState .running s1
  else if s.step.resumeAt && s.dev.state = .held then
    if s.frame.stuck then onFrame (fun f => { f with stuck := false, slipRun := 0, retry := s.step.proof.isNone }) s1
    else if s.step.proof.isSome then s1
    else setState .running (onFrame (fun f => { f with slipRun := 0 }) (onDev (fun d => { d with goOn := false }) s1))
  else s1

/-- A proof waits for its rollback and its 5,000 ticks (R355). -/
def proofWaits (s : State) : Bool :=
  match s.step.proof with
  | some p => s.dev.state = .held && !p.replaying && p.combined.isNone
  | none => false

/-- The wait is over: the regeneration frames open. -/
def startProof (s : State) : State :=
  match s.step.proof with
  | some p =>
    if proofWaits s && p.rolledBack && s.snap.restore.isNone && decide (5000 ≤ (s.tick.count - p.sinceTick).toNat) then
      onStep (fun t => { t with proof := some { p with replaying := true } }) s
    else s
  | none => s

/-- The batch of the step (R208). -/
def takeBatch (s : State) : State :=
  match s.step.batches.find? (fun b => b.attemptTag = s.step.record.attempted) with
  | none => s
  | some b =>
    let s1 := onStep (fun t => { t with batches := t.batches.filter (· != b) }) s
    if b.appliedTag = s.step.record.applied + 1 then onStep (fun t => { t with accepted := some b }) s1
    else batchRecord b stStepMismatch b.attemptTag.toNat s1

/-- A step may open: the chip is RUNNING, or its proof runs, at a barrier that nothing holds. -/
def mayOpen (s : State) : Bool :=
  (decide (s.dev.state = .running) || proofRuns s) && !s.frame.stuck && takesPart s && s.image.img.isSome && !s.frame.inStep
    && (match s.snap.run with
      | some r => !r.due
      | none => true)

/-- The opening tick of a step, or of the regeneration frames before it (R208, R308, R349, R354). -/
def openStep (s : State) : State :=
  if !mayOpen s then s
  else if s.step.regen then onFrame (fun f => { f with inStep := true, formeIdx := (stepShape s).opt, doneMask := [] }) s
  else
    let s1 := onFrame (fun f => { f with inStep := true, formeIdx := 0, doneMask := [] }) (onStep (fun t => { t with
      digest := 0
      digestStaged := 0
      masterPoison := false
      refTop := []
      refTopStaged := []
      refHeld := []
      refHeldStaged := []
      refTensors := (t.refNext.getD (t.refTensors, t.refBound)).1
      refBound := (t.refNext.getD (t.refTensors, t.refBound)).2
      refNext := none }) s)
    s1

/-- The first forward frame has no accepted batch. -/
def batchMissing (s : State) : Bool := formesRun s && s.frame.formeIdx = 0 && !s.step.regen && s.step.accepted.isNone

/-- The opening check of the batch, in every first frame that has none; a proof without one ends (R208, R355; log entry 31). -/
def checkBatch (s : State) : State :=
  let s1 := if batchMissing s then takeBatch s else s
  if batchMissing s1 && proofRuns s1 then
    finishCmd 0x63 stStepMismatch 0 [] (onFrame (fun f => { f with inStep := false }) (onStep (fun t => { t with proof := none }) s1))
  else s1

/-- What raises an early hold at frame position 0 (R48, R208, R248, R348, R355, R370). -/
def holdsAtZero (s : State) : Bool :=
  batchMissing s
    || (s.dev.state = .held && (s.frame.stuck || (s.dev.goOn && (s.dev.reimposing || !s.dev.retraining.isEmpty)) || proofWaits s))
    || (match s.snap.run with
      | some r => (s.dev.state = .snapshotting && r.leftRunning) || (s.dev.state = .running && r.due)
      | none => false)

/-- The new hold of a replay in doubt, against the next tick (R44). -/
def replayHold (s : State) : State :=
  let h : HoldRec := { origin := s.dev.fabric, frame := s.tick.domain, late := false }
  floodHold none 0 h (onFrame (fun f => { f with known := f.known ++ [h], forwarded := f.forwarded ++ [h], ownEarly := true }) s)

/-- The holds of position 0. -/
def openingHolds (k : FrameEnd) (s : State) : State :=
  if k = .replayFail then replayHold s else if holdsAtZero s then raiseHold true s else s

/-- Tick markers of an aligned chip (R52, R328). -/
def sendMarkers (s : State) : State :=
  if takesPart s then
    s.fabric.usable.foldl (fun s p => sendOn p (.marker p s.dev.fabric s.tick.domain) s) s
  else s

/-! ### Faults at the tick (R303, R364, R370, R371) -/

/-- Forced events are latched. -/
def tickForced (s : State) : State :=
  s.faults.forcedNext.foldl (fun s p =>
    (List.range p.2).foldl (fun s _ => countEventWith (keyLevel p.1) (p.1 / p2 16 % p2 16) (p.1 % p2 16) true false true s) s)
    (onFaults (fun f => { f with forcedNext := [] }) s)

/-! ### The step collective's sends (R209, R331) -/

/-- The chunk that a member sends in a stage of a ring (R331), stages counted from 0; none in the other algorithms. -/
def stageChunk (g : Group) (q stage : Nat) : Option Nat :=
  if g.algorithm = 1 then some ((q + 2 * g.members.length - stage) % g.members.length) else none

/-- The positions whose values member `q` of a tree has combined after `l` levels: its own first, then the received ones in ascending order
(R331). -/
def treeParts (f m : Nat) : Nat → Nat → List Nat
  | 0, q => [q]
  | l + 1, q => treeParts f m l q ++ (((List.range (f - 1)).map (fun j => q + (j + 1) * f ^ l)).filter (· < m)).flatMap (treeParts f m l)

/-- The positions whose parts member `q` sends in a stage, in the order in which they combine (R331). -/
def stageParts (g : Group) (q stage : Nat) : List Nat :=
  let m := g.members.length
  if g.algorithm = 0 then [q]
  else if g.algorithm = 1 then
    (List.range (Nat.min m (stage + 1))).map (fun i => ((stageChunk g q stage).getD 0 + i) % m)
  else
    let t := treeLevel g stage
    if t.2 then treeParts g.fanout m (treeLevels g.fanout m) 0 else treeParts g.fanout m (t.1 - 1) q

/-- A payload of a length that R321 allows. -/
def wholePayload (b : List Byte) : List Byte := sliceB b 0 (Nat.min 16384 (align (Nat.max 1 b.length) 64))

/-- The packets of a stage's send to a member (R321, R331), at least one. R209 gives the step items no packet layout, and so no place for what a
stage has received: type, address and payload are free values (DESIGN CHOICE, log entry 34). -/
def stagePackets (g : Group) (dst stage : Nat) (parts : List Nat) (draw : Nat) (s : State) : List (Nat × PktHdr × List Byte) :=
  let make := fun (p : Nat × Nat × List Byte) =>
    (1 + p.1 % 3, { ownHdr s dst p.2.1 0xFFFF 0xFF 0 with group := g.index }, wholePayload p.2.2)
  match Config.stagePackets stage dst parts draw with
  | [] => [make (0, 0, [])]
  | l => l.map make

/-- One stage's send to a member: its packets leave by the ports that the stage's mask or the route table gives them (R327, R329). -/
def sendStage (g : Group) (stage t : Nat) (s : State) : State :=
  let d := drawFree s
  let q := g.members.idxOf s.dev.fabric
  let dst := g.members.getD t 0xFFFF
  let parts := (stageParts g q stage).map (fun i => g.members.getD i 0xFFFF)
  flushSends ((stagePackets g dst stage parts d.1.toNat d.2).foldl (fun s x => sendData x.1 x.2.1 x.2.2 s)
    (emit [.stepItems dst stage (stageChunk g q stage) parts s.step.sent] d.2))

/-- The step items of an exchange frame leave as it opens (R209, R331, R336). -/
def sendStepItems (s : State) : State :=
  match stepGroup s, exchangeStage s with
  | some g, some k =>
    if !formesRun s || !maySend s || !g.members.contains s.dev.fabric then s
    else (stageTargets g (g.members.idxOf s.dev.fabric) k).foldl (fun s t => sendStage g k t s) s
  | _, _ => s

/-! ### TICK (R40) -/

/-- The frame ends: its outcome, its staging, time, and the forme index. The answer is the new state, its outcome, and whether
the tick closes a step. -/
def endFrame (s : State) : State × FrameEnd × Bool :=
  let s0 := endWaits (lateAtTick s)
  let k := frameEnd s0
  let moves := ownCommits k && advances (inboundCommits k) s0 && !anyExpires s0
  let closing := moves && lastForme s0 && !s0.step.regen
  let dec := decide (s0.frame.formeIdx = (stepShape s0).dec) && !s0.step.regen
  let s1 := onlyIf (ownCommits k && formesRun s0) unstick (passTime (settle k s0))
  (if moves then moveOn dec s1 else s1, k, closing)

/-- Waiting configurations whose window starts here. -/
def tickConfigs (s : State) : State :=
  (s.faults.src.filter (fun p => p.2.pending.isSome)).foldl (fun s p => installCfg (keyLevel p.1) (p.1 / p2 16 % p2 16) (p.1 % p2 16) s) s

/-- The FEC counts by lane run over the windows of "Clasp retry" (R370); those of the window that ends serve the events latched before the
tick (R361). -/
def tickLaneCounts (s : State) : State :=
  (List.range 20).foldl (fun s p =>
    let c := claspOf p s
    if s.tick.count.toNat % (faultSrc .chip 0 (0x10 + p) s).cfg.w = 0 && (c.laneFec ++ c.laneOld).any (· != 0) then
      onClasp p (fun c => { c with laneFec := [0, 0, 0, 0, 0, 0, 0, 0], laneOld := c.laneFec }) s
    else s) s

/-- What changes between two frames. A FAULT_CONFIG whose window starts at the tick is in force before any event of that tick counts (R361,
R374). -/
def betweenFrames (k : FrameEnd) (closing : Bool) (s : State) : State :=
  let s1 := takeAlignment (takeDomain (powerTick (tickLaneCounts (tickConfigs s))))
  let s2 := tickCells closing (takeWaiting (endStop s1))
  let s3 := onlyIf s2.dev.readyAt enterReady (cutSnapshot closing s2)
  tickRepairs (barrier closing (ownCommits k) s3)

/-- The next frame opens. -/
def openFrame (k : FrameEnd) (s : State) : State :=
  let s1 := openStep (startProof (takeRun (freshFrame (installTables s))))
  orphanFrame (tickServes (resendXfers (markDamaged (tickForced (sendStepItems (sampleItems (openingHolds k (checkBatch (sendMarkers s1)))))))))

/-- What stands before a tick ends the frame: the BAR2 writes that wait are in (R407, R408), and transfers stand (R347). -/
def beforeTick (s : State) : State := settleXfers (serveWaits (fun _ => true) s)

def runTick (s : State) : State :=
  let e := endFrame (beforeTick s)
  openFrame e.2.1 (betweenFrames e.2.1 e.2.2 e.1)

/-- The tick generator of a chip that is FAILED while region 0's clocks run: the count and the operating hours go on, and so does
the power control hardware; the heartbeat and the rest do not (R29, R258, R402, R438). -/
def failedTick (s : State) : State :=
  let us := frameUs s.tick.rate
  onlyIf (!s.clocks.coreReset && !s.clocks.stopped.contains 0 && decide (s.dev.state = .failed))
    (fun s => hardwareTick (onLife (fun l => { l with hoursUs := l.hoursUs + us })
      (onTick (fun t => { t with count := t.count + 1, domain := t.domain + 1, timeUs := t.timeUs + us }) s))) s

def execTick (s : State) : Out := effect (fun s => if coreRuns s then runTick s else failedTick s) s

end Sys2Proof.Machine
end

