-- ==== Sys2Proof/Machine/Dispatch.lean ====
section
/-! DEFINITION. Which meaning each command has: one arm per command, in the order of spec/opcode_table.json. -/

namespace Sys2Proof.Machine
open Sys2Proof

def exec (i : Instr) (s : State) : Host.Outcome State Fault Refusal :=
  match i with
  | .tick => Sys2Proof.Machine.execTick s
  | .cellStart cell => Sys2Proof.Machine.execCellStart cell s
  | .holdDeadline => Sys2Proof.Machine.execHoldDeadline s
  | .lockUp => Sys2Proof.Machine.execLockUp s
  | .stuckForme => Sys2Proof.Machine.execStuckForme s
  | .unaligned => Sys2Proof.Machine.execUnaligned s
  | .realigned => Sys2Proof.Machine.execRealigned s
  | .heartbeat region => Sys2Proof.Machine.execHeartbeat region s
  | .regionLost region => Sys2Proof.Machine.execRegionLost region s
  | .compositorHeartbeatLoss => Sys2Proof.Machine.execCompositorHeartbeatLoss s
  | .formeItemStart cell pos wait => Sys2Proof.Machine.execFormeItemStart cell pos wait s
  | .pass cell d mismatches => Sys2Proof.Machine.execPass cell d mismatches s
  | .weightSwap cell => Sys2Proof.Machine.execWeightSwap cell s
  | .drain cell d => Sys2Proof.Machine.execDrain cell d s
  | .galleySlotFree cell => Sys2Proof.Machine.execGalleySlotFree cell s
  | .droopTrip block => Sys2Proof.Machine.execDroopTrip block s
  | .droopRestoreStep block => Sys2Proof.Machine.execDroopRestoreStep block s
  | .vectorItem cell prog => Sys2Proof.Machine.execVectorItem cell prog s
  | .ld cell f => Sys2Proof.Machine.execLd cell f s
  | .st cell f => Sys2Proof.Machine.execSt cell f s
  | .ldg cell f => Sys2Proof.Machine.execLdg cell f s
  | .add cell f => Sys2Proof.Machine.execAdd cell f s
  | .sub cell f => Sys2Proof.Machine.execSub cell f s
  | .mul cell f => Sys2Proof.Machine.execMul cell f s
  | .fma cell f => Sys2Proof.Machine.execFma cell f s
  | .max cell f => Sys2Proof.Machine.execMax cell f s
  | .min cell f => Sys2Proof.Machine.execMin cell f s
  | .abs cell f => Sys2Proof.Machine.execAbs cell f s
  | .neg cell f => Sys2Proof.Machine.execNeg cell f s
  | .sel cell f => Sys2Proof.Machine.execSel cell f s
  | .cmplt cell f => Sys2Proof.Machine.execCmplt cell f s
  | .cmple cell f => Sys2Proof.Machine.execCmple cell f s
  | .cmpeq cell f => Sys2Proof.Machine.execCmpeq cell f s
  | .mand cell f => Sys2Proof.Machine.execMand cell f s
  | .mor cell f => Sys2Proof.Machine.execMor cell f s
  | .mnot cell f => Sys2Proof.Machine.execMnot cell f s
  | .exp2 cell f => Sys2Proof.Machine.execExp2 cell f s
  | .log2 cell f => Sys2Proof.Machine.execLog2 cell f s
  | .rcp cell f => Sys2Proof.Machine.execRcp cell f s
  | .rsqrt cell f => Sys2Proof.Machine.execRsqrt cell f s
  | .tanh cell f => Sys2Proof.Machine.execTanh cell f s
  | .erf cell f => Sys2Proof.Machine.execErf cell f s
  | .cvt cell f => Sys2Proof.Machine.execCvt cell f s
  | .redsum cell f => Sys2Proof.Machine.execRedsum cell f s
  | .redmax cell f => Sys2Proof.Machine.execRedmax cell f s
  | .redmin cell f => Sys2Proof.Machine.execRedmin cell f s
  | .scan cell f => Sys2Proof.Machine.execScan cell f s
  | .azero cell f => Sys2Proof.Machine.execAzero cell f s
  | .aadd cell f => Sys2Proof.Machine.execAadd cell f s
  | .afold cell f => Sys2Proof.Machine.execAfold cell f s
  | .around cell f => Sys2Proof.Machine.execAround cell f s
  | .ascan cell f => Sys2Proof.Machine.execAscan cell f s
  | .ald cell f => Sys2Proof.Machine.execAld cell f s
  | .ast cell f => Sys2Proof.Machine.execAst cell f s
  | .lig cell f => Sys2Proof.Machine.execLig cell f s
  | .topkm cell f => Sys2Proof.Machine.execTopkm cell f s
  | .transfer cell d => Sys2Proof.Machine.execTransfer cell d s
  | .bezelSlotGrant unit waiting reads => Sys2Proof.Machine.execBezelSlotGrant unit waiting reads s
  | .copy iss d => Sys2Proof.Machine.execCopy iss d s
  | .reblock iss d => Sys2Proof.Machine.execReblock iss d s
  | .transpose iss d => Sys2Proof.Machine.execTranspose iss d s
  | .quantize iss d => Sys2Proof.Machine.execQuantize iss d s
  | .dequantize iss d => Sys2Proof.Machine.execDequantize iss d s
  | .mxImport iss d => Sys2Proof.Machine.execMxImport iss d s
  | .mxExport iss d => Sys2Proof.Machine.execMxExport iss d s
  | .reduceInit iss d => Sys2Proof.Machine.execReduceInit iss d s
  | .reduceAdd iss d => Sys2Proof.Machine.execReduceAdd iss d s
  | .reduceClose iss d => Sys2Proof.Machine.execReduceClose iss d s
  | .update unit entry tileFirst tileCount => Sys2Proof.Machine.execUpdate unit entry tileFirst tileCount s
  | .snapshotCopy unit offset length => Sys2Proof.Machine.execSnapshotCopy unit offset length s
  | .sequencerTimeout cell => Sys2Proof.Machine.execSequencerTimeout cell s
  | .arbiterTimeout block => Sys2Proof.Machine.execArbiterTimeout block s
  | .scrub unit reads => Sys2Proof.Machine.execScrub unit reads s
  | .migration unit page => Sys2Proof.Machine.execMigration unit page s
  | .pcRetirementDone stack pc => Sys2Proof.Machine.execPcRetirementDone stack pc s
  | .decision lossAt others => Sys2Proof.Machine.execDecision lossAt others s
  | .writePacket port h payload => Sys2Proof.Machine.execWritePacket port h payload s
  | .reduceWritePacket port h payload => Sys2Proof.Machine.execReduceWritePacket port h payload s
  | .longPartialPacket port h payload => Sys2Proof.Machine.execLongPartialPacket port h payload s
  | .snapshotTransferPacket port h offset payload => Sys2Proof.Machine.execSnapshotTransferPacket port h offset payload s
  | .tickMarker port sender domainTick offsetPs => Sys2Proof.Machine.execTickMarker port sender domainTick offsetPs s
  | .holdPacket port hops origin late frame => Sys2Proof.Machine.execHoldPacket port hops origin late frame s
  | .credit port freed => Sys2Proof.Machine.execCredit port freed s
  | .deliveryCredit port dst src frame packets => Sys2Proof.Machine.execDeliveryCredit port dst src frame packets s
  | .flitReceived port flit fecBad fecWord => Sys2Proof.Machine.execFlitReceived port flit fecBad fecWord s
  | .laneLoss port lane => Sys2Proof.Machine.execLaneLoss port lane s
  | .linkDown port => Sys2Proof.Machine.execLinkDown port s
  | .linkTrainingDone port r => Sys2Proof.Machine.execLinkTrainingDone port r s
  | .linkRetry port => Sys2Proof.Machine.execLinkRetry port s
  | .groupTimeout group => Sys2Proof.Machine.execGroupTimeout group s
  | .spareLoad cell => Sys2Proof.Machine.execSpareLoad cell s
  | .reimposition what => Sys2Proof.Machine.execReimposition what s
  | .reimpositionTimeout => Sys2Proof.Machine.execReimpositionTimeout s
  | .faultEvent level unit source early => Sys2Proof.Machine.execFaultEvent level unit source early s
  | .faultWindowStart level unit source => Sys2Proof.Machine.execFaultWindowStart level unit source s
  | .controlStep x => Sys2Proof.Machine.execControlStep x s
  | .thermalEmergencyEnd => Sys2Proof.Machine.execThermalEmergencyEnd s
  | .pointDecision => Sys2Proof.Machine.execPointDecision s
  | .powerSample x => Sys2Proof.Machine.execPowerSample x s
  | .regulatorFaultEnd reg => Sys2Proof.Machine.execRegulatorFaultEnd reg s
  | .divergenceFallback => Sys2Proof.Machine.execDivergenceFallback s
  | .divergenceFallbackEnd => Sys2Proof.Machine.execDivergenceFallbackEnd s
  | .guardBandEnd => Sys2Proof.Machine.execGuardBandEnd s
  | .averagingWindowEnd => Sys2Proof.Machine.execAveragingWindowEnd s
  | .steadyWindowEnd => Sys2Proof.Machine.execSteadyWindowEnd s
  | .sensorLost region spot which => Sys2Proof.Machine.execSensorLost region spot which s
  | .sensorRestored region spot which => Sys2Proof.Machine.execSensorRestored region spot which s
  | .sensorDisagreement region spot => Sys2Proof.Machine.execSensorDisagreement region spot s
  | .firmwareAbsentFallback => Sys2Proof.Machine.execFirmwareAbsentFallback s
  | .thermalTrip region spot => Sys2Proof.Machine.execThermalTrip region spot s
  | .pllLossOfLock pll => Sys2Proof.Machine.execPllLossOfLock pll s
  | .pwrgdFall group => Sys2Proof.Machine.execPwrgdFall group s
  | .ioRailFall => Sys2Proof.Machine.execIoRailFall s
  | .powerOn => Sys2Proof.Machine.execPowerOn s
  | .perst p asserted => Sys2Proof.Machine.execPerst p asserted s
  | .bothPerst => Sys2Proof.Machine.execBothPerst s
  | .functionLevelReset p => Sys2Proof.Machine.execFunctionLevelReset p s
  | .pcieLinkDown p => Sys2Proof.Machine.execPcieLinkDown p s
  | .powerStateChange p d3hot => Sys2Proof.Machine.execPowerStateChange p d3hot s
  | .busMasterEnable p on => Sys2Proof.Machine.execBusMasterEnable p on s
  | .coreReset => Sys2Proof.Machine.execCoreReset s
  | .startUp r => Sys2Proof.Machine.execStartUp r s
  | .startupError pwrgd => Sys2Proof.Machine.execStartupError pwrgd s
  | .readyReached => Sys2Proof.Machine.execReadyReached s
  | .leaseExpiry => Sys2Proof.Machine.execLeaseExpiry s
  | .mbxStateWrite p slot value => Sys2Proof.Machine.execMbxStateWrite p slot value s
  | .mbxRingCtrlWrite p value => Sys2Proof.Machine.execMbxRingCtrlWrite p value s
  | .mbxRingConsumedWrite p value => Sys2Proof.Machine.execMbxRingConsumedWrite p value s
  | .completionRecordWrite p => Sys2Proof.Machine.execCompletionRecordWrite p s
  | .devStickyWrite p value => Sys2Proof.Machine.execDevStickyWrite p value s
  | .tickCountRead p size => Sys2Proof.Machine.execTickCountRead p size s
  | .registerWrite p offset size value => Sys2Proof.Machine.execRegisterWrite p offset size value s
  | .bar2Read p offset length reads => Sys2Proof.Machine.execBar2Read p offset length reads s
  | .bar2Write p offset w => Sys2Proof.Machine.execBar2Write p offset w s
  | .bar4Access p offset stopped => Sys2Proof.Machine.execBar4Access p offset stopped s
  | .hostTransferResume binding => Sys2Proof.Machine.execHostTransferResume binding s
  | .identify => Sys2Proof.Machine.execIdentify s
  | .status => Sys2Proof.Machine.execStatus s
  | .claimControl => Sys2Proof.Machine.execClaimControl s
  | .renewLease => Sys2Proof.Machine.execRenewLease s
  | .releaseControl => Sys2Proof.Machine.execReleaseControl s
  | .reset => Sys2Proof.Machine.execReset s
  | .setTime => Sys2Proof.Machine.execSetTime s
  | .setEnvironment => Sys2Proof.Machine.execSetEnvironment s
  | .setPowerBudget => Sys2Proof.Machine.execSetPowerBudget s
  | .setOperatingPoints => Sys2Proof.Machine.execSetOperatingPoints s
  | .setFabricAddress => Sys2Proof.Machine.execSetFabricAddress s
  | .loadRoutes data => Sys2Proof.Machine.execLoadRoutes data s
  | .loadGroups data => Sys2Proof.Machine.execLoadGroups data s
  | .portControl => Sys2Proof.Machine.execPortControl s
  | .setTickDomain => Sys2Proof.Machine.execSetTickDomain s
  | .loadImposition data => Sys2Proof.Machine.execLoadImposition data s
  | .imageLoadDone => Sys2Proof.Machine.execImageLoadDone s
  | .unload => Sys2Proof.Machine.execUnload s
  | .bindHostBuffers => Sys2Proof.Machine.execBindHostBuffers s
  | .runSteps => Sys2Proof.Machine.execRunSteps s
  | .submitBatch data => Sys2Proof.Machine.execSubmitBatch data s
  | .hold => Sys2Proof.Machine.execHold s
  | .resume => Sys2Proof.Machine.execResume s
  | .snapshot => Sys2Proof.Machine.execSnapshot s
  | .snapshotStop => Sys2Proof.Machine.execSnapshotStop s
  | .snapshotStopEnd => Sys2Proof.Machine.execSnapshotStopEnd s
  | .snapshotAbort => Sys2Proof.Machine.execSnapshotAbort s
  | .proofRecordWrite acked => Sys2Proof.Machine.execProofRecordWrite acked s
  | .setPartners => Sys2Proof.Machine.execSetPartners s
  | .restore => Sys2Proof.Machine.execRestore s
  | .restoreDone data => Sys2Proof.Machine.execRestoreDone data s
  | .proof => Sys2Proof.Machine.execProof s
  | .exportSnapshot => Sys2Proof.Machine.execExportSnapshot s
  | .faultRead => Sys2Proof.Machine.execFaultRead s
  | .faultConfig => Sys2Proof.Machine.execFaultConfig s
  | .faultForce => Sys2Proof.Machine.execFaultForce s
  | .unfence => Sys2Proof.Machine.execUnfence s
  | .eventRead => Sys2Proof.Machine.execEventRead s
  | .lifetimeRead => Sys2Proof.Machine.execLifetimeRead s
  | .statsRead => Sys2Proof.Machine.execStatsRead s
  | .loupe => Sys2Proof.Machine.execLoupe s
  | .referenceMode => Sys2Proof.Machine.execReferenceMode s
  | .firmwareStage data => Sys2Proof.Machine.execFirmwareStage data s
  | .firmwareActivate => Sys2Proof.Machine.execFirmwareActivate s
  | .getVersion p => Sys2Proof.Machine.execGetVersion p s
  | .getCapabilities p => Sys2Proof.Machine.execGetCapabilities p s
  | .negotiateAlgorithms p hash extAsym => Sys2Proof.Machine.execNegotiateAlgorithms p hash extAsym s
  | .getDigests p => Sys2Proof.Machine.execGetDigests p s
  | .getCertificate p slot offset length => Sys2Proof.Machine.execGetCertificate p slot offset length s
  | .challenge p slot nonce => Sys2Proof.Machine.execChallenge p slot nonce s
  | .getMeasurements p sel signed nonce => Sys2Proof.Machine.execGetMeasurements p sel signed nonce s
  | .unsupportedRequest p code => Sys2Proof.Machine.execUnsupportedRequest p code s
  | .doeDiscovery p index => Sys2Proof.Machine.execDoeDiscovery p index s
  | .doeAbort p => Sys2Proof.Machine.execDoeAbort p s
  | .eventRecordWrite => Sys2Proof.Machine.execEventRecordWrite s
  | .lifetimeWrite => Sys2Proof.Machine.execLifetimeWrite s
  | .unknownOpcode => Sys2Proof.Machine.execUnknownOpcode s
  | .pcieLinkUp p width rate => Sys2Proof.Machine.execPcieLinkUp p width rate s
  | .restoreRequest requester identity generation mapped => Sys2Proof.Machine.execRestoreRequest requester identity generation mapped s
  | .unloadDone => Sys2Proof.Machine.execUnloadDone s
  | .firmwareStageDone => Sys2Proof.Machine.execFirmwareStageDone s
  | .loupeRunDone => Sys2Proof.Machine.execLoupeRunDone s
  | .hostBufferDeliveryDone p => Sys2Proof.Machine.execHostBufferDeliveryDone p s
  | .voltageSlewEnd => Sys2Proof.Machine.execVoltageSlewEnd s
  | .hbmRetrainingDone stack => Sys2Proof.Machine.execHbmRetrainingDone stack s

end Sys2Proof.Machine
end

