-- ==== Sys2Proof/Safety.lean ====
section
/-! DEFINITION. What counts as a safe run, and the terms that claims are made in: which components of the state a command
changes, and the canonical form of the three memories. -/

namespace Sys2Proof.Machine
open Sys2Proof

/-- A step goes on: it neither faults nor is refused. -/
def goesOn (s : State) : Prop := ∃ t, step s = .next t

/-- A command stops from a state: its meaning faults or refuses. -/
def stops (c : Instr) (s : State) : Prop :=
  (∃ r, exec c s = .fault r) ∨ (∃ r, exec c s = .refused r)

/-- The states that n steps from `s` reach, all of them safe. -/
def safeRun : Nat → State → Prop
  | 0, _ => True
  | n + 1, s => ∃ t, step s = .next t ∧ safeRun n t

/-- A command completes from a state, and what it leaves satisfies `P`. -/
def completes (c : Instr) (s : State) (P : State → Prop) : Prop := ∃ t, exec c s = .next t ∧ P t

/-- The components of the state. -/
inductive Comp where
  | tick | frame | step | image | caseMem | cells | stats | hbm | portA | portB | mbx | own | dev | env | power | pins | clocks
  | faults | fabric | snap | ident | flash | life | staging | freeIdx | pending
deriving DecidableEq, Repr

/-- Two states agree on a component. -/
abbrev same (k : Comp) (s t : State) : Prop :=
  match k with
  | .tick => t.tick = s.tick
  | .frame => t.frame = s.frame
  | .step => t.step = s.step
  | .image => t.image = s.image
  | .caseMem => t.caseMem = s.caseMem
  | .cells => t.cells = s.cells
  | .stats => t.stats = s.stats
  | .hbm => t.hbm = s.hbm
  | .portA => t.portA = s.portA
  | .portB => t.portB = s.portB
  | .mbx => t.mbx = s.mbx
  | .own => t.own = s.own
  | .dev => t.dev = s.dev
  | .env => t.env = s.env
  | .power => t.power = s.power
  | .pins => t.pins = s.pins
  | .clocks => t.clocks = s.clocks
  | .faults => t.faults = s.faults
  | .fabric => t.fabric = s.fabric
  | .snap => t.snap = s.snap
  | .ident => t.ident = s.ident
  | .flash => t.flash = s.flash
  | .life => t.life = s.life
  | .staging => t.staging = s.staging
  | .freeIdx => t.freeIdx = s.freeIdx
  | .pending => t.pending = s.pending

/-- Every component outside the list is unchanged. -/
def onlyChanges (l : List Comp) (s t : State) : Prop := ∀ k, k ∈ l ∨ same k s t

/-- The keys of a map rise. -/
def keysRise {β : Type} (m : SMap β) : Prop := m.Pairwise (fun a b => a.1 < b.1)

/-- Case memory in canonical form: committed bytes with rising keys and no byte listed that reads as unlisted; staged bytes
with rising keys. -/
structure CaseOk (m : CaseSt) : Prop where
  mem : Memory.wf m.mem = true
  staged : keysRise m.staged
  inbound : keysRise m.inbound
  own : keysRise m.own
  host : keysRise m.host

/-- HBM in canonical form, in the same sense. -/
structure HbmOk (h : HbmSt) : Prop where
  mem : Memory.wf h.mem = true
  localB : keysRise h.localB

/-- Case memory, HBM and host memory are in canonical form. -/
structure MemoryOk (s : State) : Prop where
  cases : CaseOk s.caseMem
  hbm : HbmOk s.hbm
  host : Memory.wf s.mbx.hostMem = true

/-- The components that a command may change, as its rules give them (the queue is never one). -/
def touches : Instr → List Comp
  | .tick =>
      [.tick, .frame, .step, .image, .caseMem, .cells, .stats, .hbm, .portA, .portB, .mbx, .dev, .env, .power,
       .clocks, .faults, .fabric, .snap, .ident, .flash, .life, .freeIdx]
  | .cellStart _ | .lockUp | .formeItemStart _ _ _ =>
      [.frame, .cells, .fabric]
  | .holdDeadline =>
      [.frame, .fabric]
  | .stuckForme =>
      [.frame, .portA, .portB, .dev, .fabric, .flash, .life]
  | .unaligned | .realigned | .tickMarker _ _ _ _ =>
      [.tick]
  | .heartbeat _ =>
      [.clocks]
  | .regionLost _ =>
      [.dev, .clocks, .flash]
  | .compositorHeartbeatLoss =>
      [.portA, .portB, .dev, .flash, .life]
  | .pass _ _ _ =>
      [.frame, .step, .cells, .stats, .hbm, .portA, .portB, .dev, .power, .faults, .fabric, .flash]
  | .weightSwap _ | .ld _ _ | .ldg _ _ | .fma _ _ | .abs _ _ | .neg _ _ | .mand _ _ | .mor _ _ | .mnot _ _
    | .exp2 _ _ | .log2 _ _ | .rcp _ _ | .rsqrt _ _ | .tanh _ _ | .erf _ _ | .cvt _ _ | .redsum _ _ | .redmax _ _
    | .redmin _ _ | .scan _ _ | .azero _ _ =>
      [.cells]
  | .drain _ _ | .update _ _ _ _ | .decision _ _ =>
      [.frame, .step, .caseMem, .cells, .stats, .hbm, .portA, .portB, .mbx, .dev, .power, .faults, .fabric, .flash]
  | .galleySlotFree _ | .vectorItem _ _ =>
      [.frame, .step, .caseMem, .cells, .stats, .hbm, .portA, .portB, .mbx, .dev, .power, .faults, .fabric, .flash,
       .freeIdx]
  | .droopTrip _ | .copy _ _ | .reduceInit _ _ | .sequencerTimeout _ | .arbiterTimeout _ | .migration _ _
    | .flitReceived _ _ _ _ | .laneLoss _ _ | .faultEvent _ _ _ _ | .divergenceFallback | .sensorLost _ _ _
    | .sensorDisagreement _ _ =>
      [.frame, .cells, .hbm, .portA, .portB, .dev, .power, .faults, .fabric, .flash]
  | .droopRestoreStep _ | .thermalEmergencyEnd | .pointDecision | .regulatorFaultEnd _ | .divergenceFallbackEnd
    | .guardBandEnd | .steadyWindowEnd | .sensorRestored _ _ _ | .firmwareAbsentFallback | .voltageSlewEnd =>
      [.power]
  | .st _ _ | .topkm _ _ =>
      [.frame, .caseMem, .cells, .hbm, .portA, .portB, .dev, .power, .faults, .fabric, .flash, .freeIdx]
  | .add _ _ | .sub _ _ | .mul _ _ | .max _ _ | .min _ _ | .sel _ _ | .cmplt _ _ | .cmple _ _ | .cmpeq _ _ =>
      [.cells, .freeIdx]
  | .aadd _ _ | .afold _ _ | .around _ _ | .ascan _ _ | .ald _ _ =>
      [.cells, .stats]
  | .ast _ _ =>
      [.frame, .caseMem, .cells, .stats, .hbm, .portA, .portB, .dev, .power, .faults, .fabric, .flash, .freeIdx]
  | .lig _ _ =>
      [.frame, .caseMem, .cells, .stats, .hbm, .portA, .portB, .mbx, .dev, .power, .faults, .fabric, .flash,
       .freeIdx]
  | .transfer _ _ | .writePacket _ _ _ =>
      [.frame, .caseMem, .cells, .hbm, .portA, .portB, .dev, .power, .faults, .fabric, .flash]
  | .bezelSlotGrant _ _ _ | .scrub _ _ | .bar2Read _ _ _ _ | .bar2Write _ _ _ =>
      [.frame, .step, .cells, .hbm, .portA, .portB, .dev, .power, .faults, .fabric, .snap, .flash, .life]
  | .reblock _ _ | .transpose _ _ =>
      [.frame, .caseMem, .cells, .hbm, .portA, .portB, .mbx, .dev, .power, .faults, .fabric, .flash]
  | .quantize _ _ | .dequantize _ _ | .mxImport _ _ | .mxExport _ _ | .reduceClose _ _ =>
      [.frame, .caseMem, .cells, .stats, .hbm, .portA, .portB, .mbx, .dev, .power, .faults, .fabric, .flash]
  | .reduceAdd _ _ =>
      [.frame, .step, .caseMem, .cells, .stats, .hbm, .portA, .portB, .dev, .power, .faults, .fabric, .flash]
  | .snapshotCopy _ _ _ | .snapshotStopEnd | .proofRecordWrite _ | .restoreRequest _ _ _ _ =>
      [.fabric, .snap]
  | .pcRetirementDone _ _ =>
      [.hbm, .dev, .flash, .life]
  | .reduceWritePacket _ _ _ =>
      [.frame, .cells, .stats, .hbm, .portA, .portB, .dev, .power, .faults, .fabric, .flash]
  | .longPartialPacket _ _ _ =>
      [.frame, .caseMem, .cells, .stats, .hbm, .portA, .portB, .dev, .power, .faults, .fabric, .flash]
  | .snapshotTransferPacket _ _ _ _ =>
      [.step, .hbm, .dev, .fabric, .snap]
  | .holdPacket _ _ _ _ _ | .powerSample _ =>
      [.frame, .cells, .hbm, .portA, .portB, .dev, .power, .faults, .fabric, .flash, .life]
  | .credit _ _ | .deliveryCredit _ _ _ _ _ | .linkDown _ | .linkRetry _ =>
      [.fabric]
  | .linkTrainingDone _ _ =>
      [.fabric, .life]
  | .groupTimeout _ =>
      [.frame, .step, .portA, .portB, .mbx, .dev, .fabric, .snap, .flash, .life]
  | .spareLoad _ =>
      [.image, .caseMem]
  | .reimposition _ =>
      [.frame, .step, .image, .caseMem, .cells, .hbm, .portA, .portB, .mbx, .dev, .snap, .flash, .life]
  | .reimpositionTimeout =>
      [.frame, .step, .portA, .portB, .mbx, .dev, .snap, .flash, .life]
  | .faultWindowStart _ _ _ =>
      [.faults]
  | .controlStep _ =>
      [.frame, .cells, .hbm, .portA, .portB, .dev, .env, .power, .faults, .fabric, .flash, .life]
  | .averagingWindowEnd =>
      [.env, .power, .flash]
  | .thermalTrip _ _ =>
      [.frame, .cells, .hbm, .portA, .portB, .dev, .power, .pins, .fabric, .flash, .life]
  | .pllLossOfLock _ =>
      [.hbm, .portA, .portB, .mbx, .clocks, .fabric, .ident]
  | .pwrgdFall _ =>
      [.hbm, .portA, .portB, .dev, .pins, .clocks, .fabric, .flash, .life]
  | .ioRailFall | .powerOn | .perst _ _ | .bothPerst | .coreReset | .startUp _ =>
      [.tick, .frame, .step, .image, .caseMem, .cells, .stats, .hbm, .portA, .portB, .mbx, .own, .dev, .env, .power,
       .pins, .clocks, .faults, .fabric, .snap, .ident, .flash, .life, .staging]
  | .functionLevelReset _ | .pcieLinkDown _ =>
      [.hbm, .portA, .portB, .mbx, .ident]
  | .powerStateChange _ _ | .busMasterEnable _ _ | .mbxRingCtrlWrite _ _ | .mbxRingConsumedWrite _ _
    | .devStickyWrite _ _ | .tickCountRead _ _ | .pcieLinkUp _ _ _ =>
      [.portA, .portB]
  | .startupError _ | .readyReached =>
      [.dev]
  | .leaseExpiry =>
      [.portA, .portB, .own, .dev, .flash]
  | .mbxStateWrite _ _ _ | .completionRecordWrite _ | .registerWrite _ _ _ _ | .identify | .status | .unload
    | .bindHostBuffers | .exportSnapshot | .faultRead | .eventRead | .lifetimeRead | .statsRead | .loupe
    | .unknownOpcode | .hostBufferDeliveryDone _ =>
      [.portA, .portB, .mbx]
  | .bar4Access _ _ _ =>
      []
  | .hostTransferResume _ =>
      [.image, .portA, .portB, .mbx, .fabric, .flash, .staging]
  | .claimControl =>
      [.portA, .portB, .mbx, .own, .flash]
  | .renewLease | .releaseControl =>
      [.portA, .portB, .mbx, .own, .dev, .flash]
  | .reset | .setFabricAddress =>
      [.portA, .portB, .mbx, .dev]
  | .setTime =>
      [.portA, .portB, .mbx, .flash, .life]
  | .setEnvironment =>
      [.portA, .portB, .mbx, .env, .snap]
  | .setPowerBudget | .setOperatingPoints =>
      [.portA, .portB, .mbx, .env]
  | .loadRoutes _ | .loadGroups _ =>
      [.portA, .portB, .mbx, .fabric]
  | .portControl =>
      [.frame, .cells, .hbm, .portA, .portB, .mbx, .dev, .power, .faults, .fabric, .flash]
  | .setTickDomain =>
      [.tick, .portA, .portB, .mbx]
  | .loadImposition _ =>
      [.image, .portA, .portB, .mbx]
  | .imageLoadDone =>
      [.frame, .step, .image, .caseMem, .cells, .stats, .hbm, .portA, .portB, .mbx, .dev, .ident, .flash, .life]
  | .runSteps | .resume =>
      [.step, .portA, .portB, .mbx, .dev]
  | .submitBatch _ | .referenceMode =>
      [.step, .portA, .portB, .mbx]
  | .hold =>
      [.frame, .step, .portA, .portB, .mbx, .dev]
  | .snapshot | .setPartners =>
      [.portA, .portB, .mbx, .snap]
  | .snapshotStop =>
      [.portA, .portB, .dev, .fabric, .snap, .flash, .life]
  | .snapshotAbort =>
      [.portA, .portB, .mbx, .dev, .snap, .flash, .life]
  | .restore =>
      [.portA, .portB, .mbx, .dev, .fabric, .snap, .flash, .life]
  | .restoreDone _ =>
      [.frame, .step, .stats, .hbm, .portA, .portB, .mbx, .dev, .fabric, .snap, .flash, .life]
  | .proof =>
      [.step, .portA, .portB, .mbx, .fabric, .snap]
  | .faultConfig | .faultForce =>
      [.portA, .portB, .mbx, .faults]
  | .unfence =>
      [.cells, .portA, .portB, .mbx]
  | .firmwareStage _ =>
      [.portA, .portB, .mbx, .flash, .staging]
  | .firmwareActivate =>
      [.portA, .portB, .mbx, .dev, .flash]
  | .getVersion _ | .getCapabilities _ | .negotiateAlgorithms _ _ _ | .getDigests _ | .getCertificate _ _ _ _
    | .getMeasurements _ _ _ _ | .unsupportedRequest _ _ | .doeDiscovery _ _ | .doeAbort _ =>
      [.ident]
  | .challenge _ _ _ =>
      [.ident, .freeIdx]
  | .eventRecordWrite =>
      [.flash]
  | .lifetimeWrite =>
      [.flash, .life]
  | .unloadDone =>
      [.frame, .step, .image, .caseMem, .cells, .stats, .hbm, .portA, .portB, .mbx, .dev, .fabric, .snap, .flash,
       .life]
  | .firmwareStageDone =>
      [.frame, .cells, .hbm, .portA, .portB, .mbx, .dev, .power, .faults, .fabric, .flash, .staging]
  | .loupeRunDone =>
      [.portA, .portB, .mbx, .freeIdx]
  | .hbmRetrainingDone _ =>
      [.frame, .step, .caseMem, .cells, .stats, .hbm, .portA, .portB, .dev, .power, .faults, .fabric, .snap, .flash,
       .life]

/-! ### Lanes of vector registers (R150) -/

/-- The command that runs one vector opcode on a cell. -/
def vecCmd (op : VOp) (cell : Nat) (f : VFields) : Instr :=
  match op with
  | .ld => .ld cell f
  | .st => .st cell f
  | .ldg => .ldg cell f
  | .add => .add cell f
  | .sub => .sub cell f
  | .mul => .mul cell f
  | .fma => .fma cell f
  | .max => .max cell f
  | .min => .min cell f
  | .abs => .abs cell f
  | .neg => .neg cell f
  | .sel => .sel cell f
  | .cmplt => .cmplt cell f
  | .cmple => .cmple cell f
  | .cmpeq => .cmpeq cell f
  | .mand => .mand cell f
  | .mor => .mor cell f
  | .mnot => .mnot cell f
  | .exp2 => .exp2 cell f
  | .log2 => .log2 cell f
  | .rcp => .rcp cell f
  | .rsqrt => .rsqrt cell f
  | .tanh => .tanh cell f
  | .erf => .erf cell f
  | .cvt => .cvt cell f
  | .redsum => .redsum cell f
  | .redmax => .redmax cell f
  | .redmin => .redmin cell f
  | .scan => .scan cell f
  | .azero => .azero cell f
  | .aadd => .aadd cell f
  | .afold => .afold cell f
  | .around => .around cell f
  | .ascan => .ascan cell f
  | .ald => .ald cell f
  | .ast => .ast cell f
  | .lig => .lig cell f
  | .topkm => .topkm cell f

/-- Lane `l` of a register at width `w`: its bytes from l × 4, l × 2 or l (R150). -/
def lane (w : Nat) (v : BitVec 4096) (l : Nat) : Nat := (v.toNat >>> (laneBits w * l)) % p2 (laneBits w)

/-- The lane as an FP32 pattern, at widths 0 and 1. -/
def laneF (w : Nat) (v : BitVec 4096) (l : Nat) : W32 :=
  if w = 1 then bf16ToF32 (BitVec.ofNat 16 (lane 1 v l)) else BitVec.ofNat 32 (lane 0 v l)

/-- The lane as an INT8. -/
def laneI (v : BitVec 4096) (l : Nat) : Int := signExt 8 (lane 2 v l)

/-- A register whose active lanes hold results, and whose inactive lanes kept their value, or became +0 under zeroing (R151). -/
def lanesHold (s : State) (cell : Nat) (f : VFields) (w : Nat) (v : BitVec 4096) (res : Nat → Nat) : Prop :=
  ∀ l, l < laneNum w →
    lane w v l = if laneOn s cell f l then res l else if f.zeroing then 0 else lane w (vregOf s cell f.vd) l

/-- A mask register of which the first `n` bits hold results under the governing mask, the others their old value. -/
def bitsHold (s : State) (cell : Nat) (f : VFields) (n : Nat) (v : BitVec 512) (res : Nat → Bool) : Prop :=
  ∀ l, l < 512 →
    v.getLsbD l = if n ≤ l then (mregOf s cell f.vd).getLsbD l
      else if laneOn s cell f l then res l else if f.zeroing then false else (mregOf s cell f.vd).getLsbD l

/-- A vector command writes register vd alone: its active lanes hold the results. -/
def writesLanes (c : Instr) (s : State) (cell : Nat) (f : VFields) (w : Nat) (res : Nat → Nat) : Prop :=
  ∃ v, exec c s = .next (setVreg cell f.vd v s) ∧ lanesHold s cell f w v res

/-- A vector command writes mask register vd alone. -/
def writesBits (c : Instr) (s : State) (cell : Nat) (f : VFields) (n : Nat) (res : Nat → Bool) : Prop :=
  ∃ v, exec c s = .next (setMreg cell f.vd v s) ∧ bitsHold s cell f n v res

/-- Lane `l` of operand vb at widths 0 and 1: of the register, or the addr field (R151). -/
def opB (s : State) (cell : Nat) (f : VFields) (l : Nat) : W32 :=
  if f.vb = 0xFF then f.addr else laneF f.w (vregOf s cell f.vb) l

/-- Lane `l` of operand vb at width 2; what an FP32 broadcast holds as INT8 is a free value (log entry 18). -/
def opB8 (s : State) (cell : Nat) (f : VFields) (l : Nat) : Int :=
  if f.vb = 0xFF then signExt 8 (Config.freeWord s.freeIdx).toNat else laneI (vregOf s cell f.vb) l

/-- The state after operand vb is read at width 2: a broadcast has drawn its free value. -/
def afterB8 (s : State) (f : VFields) : State := if f.vb = 0xFF then { s with freeIdx := s.freeIdx + 1 } else s

/-- The pairwise tree of R157 over lanes: level 0 holds the lanes. -/
def treeOf (op : W32 → W32 → W32) (x : Nat → W32) : Nat → Nat → W32
  | 0, j => x j
  | n + 1, j => op (treeOf op x n (2 * j)) (treeOf op x n (2 * j + 1))

/-- The running total of R160 after lane `l`, from the carry in lane 0 of the register. -/
def runningTotal (lead : Int) (on seg : Nat → Bool) (x : Nat → W32) (carry : Int) : Nat → Int
  | 0 => let p := if seg 0 then 0 else carry
    if on 0 then wrap96 (p + (DyOp.toUnits (f32Val (x 0)) (lead - 75)).1) else p
  | l + 1 =>
    let p := if seg (l + 1) then 0 else runningTotal lead on seg x carry l
    if on (l + 1) then wrap96 (p + (DyOp.toUnits (f32Val (x (l + 1))) (lead - 75)).1) else p

/-- A long word under a higher leading (R91). -/
def alignedTo (lead own x : Int) : Int := if lead ≤ own then x else (shiftLong (lead - own).toNat x).1

/-- A cell can take `n` shadow pages more in the frame (R34). -/
def shadowRoom (s : State) (cell n : Nat) : Bool := !s.caseMem.excess.contains cell && decide (shadowCount s cell + n ≤ 512)

/-- The state a command leaves; a command that stops leaves the state as it was. -/
def after (c : Instr) (s : State) : State :=
  match exec c s with
  | .next t => t
  | _ => s

/-- After `n` rounds of R158, whether a segment start lies among the 2 ^ n lanes that end at lane `i`. -/
def scanStart (seg : Nat → Bool) : Nat → Nat → Bool
  | 0, i => seg i
  | n + 1, i => scanStart seg n i || (decide (2 ^ n ≤ i) && scanStart seg n (i - 2 ^ n))

/-- Lane `i` after `n` rounds of R158: a round at distance d adds the lane d below, unless a segment starts between. -/
def scanSum (seg : Nat → Bool) (x : Nat → W32) : Nat → Nat → W32
  | 0, i => x i
  | n + 1, i =>
    if 2 ^ n ≤ i ∧ scanStart seg n i = false then f32Add (scanSum seg x n (i - 2 ^ n)) (scanSum seg x n i) else scanSum seg x n i

/-- The raises with which the repeats of R162 end, and the re-leads that they count: a run that needs raises adds them to those found before,
and the next repeat runs with their sum. `run` is the run under given raises; one that stops ends the repeats. -/
def repeatsOf (run : SMap Nat → VRun) : Nat → SMap Nat → List (Nat × Int) → SMap Nat × List (Nat × Int)
  | 0, delta, rel => (delta, rel)
  | fuel + 1, delta, rel =>
    if (run delta).need = [] ∨ (run delta).ok = false then (delta, rel)
    else repeatsOf run fuel ((run delta).need.foldl (fun d p => SMap.modify d p.1 0 (fun o => o + p.2.1)) delta)
      (rel ++ (run delta).need.map (fun p => p.2.2))

/-- The statistics take one re-lead for each raise (R138, R162). -/
def countReleads (rel : List (Nat × Int)) (s : State) : State :=
  rel.foldl (fun s r => statOwn r.1 { StatRec.empty with relead := 1, leading := some r.2 } s) s

/-- A vector instruction runs on a state as it stands: its cell runs it, it stops on nothing, and no value reaches P (R162). -/
def runsClean (cell : Nat) (i : VInstr) (s : State) : Bool :=
  let x := vStep [] cell { s := s, adj := [], need := [], ok := true } i
  vectorRuns s cell i && x.ok && x.need.isEmpty

/-- Each instruction of a program does, at its turn. -/
def programClean (cell : Nat) : List VInstr → State → Bool
  | [], _ => true
  | i :: rest, s => runsClean cell i s && programClean cell rest (after (vecCmd i.op cell i.f) s)

/-! ### Mailbox commands (R263, R274, R275) -/

/-- The opcode of a mailbox command and the check of its arguments. -/
def mailboxRow : Instr → Option (Nat × (Cmd → State → Bool))
  | .identify => some (0x01, noArgs)
  | .status => some (0x02, noArgs)
  | .claimControl => some (0x10, claimArgs)
  | .renewLease => some (0x11, noArgs)
  | .releaseControl => some (0x12, noArgs)
  | .reset => some (0x13, fun c _ => c.argLen = 4 && c.n 0 4 = 0x72000013)
  | .setTime => some (0x20, fun c _ => c.argLen = 8)
  | .setEnvironment => some (0x21, envArgs)
  | .setPowerBudget => some (0x22, budgetArgs)
  | .setOperatingPoints => some (0x23, pointArgs)
  | .setFabricAddress => some (0x30, fun c s => c.argLen = 16 && c.n 0 8 = s.dev.uid.toNat && c.zero 10 6)
  | .loadRoutes _ => some (0x31, tableArgs)
  | .loadGroups _ => some (0x32, tableArgs)
  | .portControl => some (0x33, portArgs)
  | .setTickDomain => some (0x34, domainArgs)
  | .loadImposition _ => some (0x40, tableArgs)
  | .unload => some (0x41, noArgs)
  | .bindHostBuffers => some (0x42, bindArgs)
  | .runSteps => some (0x50, fun c _ => c.argLen = 4 && c.n 0 4 != 0)
  | .submitBatch _ => some (0x51, batchArgs)
  | .hold => some (0x52, noArgs)
  | .resume => some (0x53, noArgs)
  | .snapshot => some (0x60, snapshotArgs)
  | .setPartners => some (0x61, partnerArgs)
  | .restore => some (0x62, restoreArgs)
  | .proof => some (0x63, proofArgs)
  | .exportSnapshot => some (0x64, exportArgs)
  | .faultRead => some (0x70, faultReadArgs)
  | .faultConfig => some (0x71, faultConfigArgs)
  | .faultForce => some (0x72, faultForceArgs)
  | .unfence => some (0x73, fun c _ => c.argLen = 4 && c.n 0 2 < 288 && c.zero 2 2)
  | .eventRead => some (0x80, eventArgs)
  | .lifetimeRead => some (0x81, noArgs)
  | .loupe => some (0x90, loupeArgs)
  | .referenceMode => some (0x91, referenceArgs)
  | .firmwareStage _ => some (0xA0, stageArgs)
  | .firmwareActivate => some (0xA1, fun c _ => c.argLen = 4 && c.n 0 1 < 2 && c.zero 1 3)
  | .statsRead => some (0xB0, statsArgs)
  | _ => none

/-- Firmware takes the command from slot `a`, and no check of R275 refuses it. -/
def issued (c : Instr) (s : State) (a : Arrival) : Bool :=
  match mailboxRow c with
  | some (op, ok) => decide (nextSlot s = some a) && decide ((slotAt a.port a.slot s).opcode.toNat = op)
      && (refusalOf op (ok (cmdOf a s) s) (cmdOf a s) s).isNone
  | none => false

/-- Slot `a` is DONE with a status, a reason and a result, stamped with the tick count; opcode and tag are the host's. -/
def slotDone (a : Arrival) (status reason : Nat) (result : List Byte) (s t : State) : Prop :=
  let x := slotAt a.port a.slot t
  x.st = .done ∧ x.status = BitVec.ofNat 16 status ∧ x.reason = BitVec.ofNat 16 reason ∧ x.resLen = BitVec.ofNat 16 result.length
    ∧ x.payload.take result.length = result ∧ x.doneTick = s.tick.count
    ∧ x.opcode = (slotAt a.port a.slot s).opcode ∧ x.tag = (slotAt a.port a.slot s).tag

/-- Slot `a` is ACCEPTED with a result, and firmware holds the command. -/
def slotAccepted (a : Arrival) (op : Nat) (result : List Byte) (s t : State) : Prop :=
  let x := slotAt a.port a.slot t
  x.st = .accepted ∧ x.status = BitVec.ofNat 16 stAccepted ∧ x.payload.take result.length = result
    ∧ t.mbx.accepted = s.mbx.accepted ++ [{ port := a.port, slot := a.slot, opcode := op, args := (cmdOf a s).args }]

end Sys2Proof.Machine
end

