-- ==== Sys2Proof/Certificates/Slice0/Obligations.lean ====
section
/-! DEFINITION. The statements for the provers. Each docstring names the rules of spec/ that the statement formalises. Where a
value or a behaviour is the model's own choice, the docstring names the log entry. -/

open Sys2Proof Sys2Proof.Machine

/-! ### The block -/

/-- A step takes the command at the front of the queue and answers what that command answers with the queue's rest. On an empty
queue it idles (the model's choice, log entry 1). -/
def Obligations.StepRunsFrontCommand : Prop :=
  ∀ s : State, (∀ c rest, s.pending = c :: rest → step s = exec c { s with pending := rest }) ∧ (s.pending = [] → step s = .next s)

/-- Case memory, HBM and host memory are in canonical form after reset. -/
def Obligations.ResetMemoriesCanonical : Prop :=
  MemoryOk State.reset

/-- Every step keeps case memory, HBM and host memory in canonical form: keys rising, no byte listed that reads as unlisted. -/
def Obligations.StepKeepsMemoriesCanonical : Prop :=
  ∀ s t, MemoryOk s → step s = .next t → MemoryOk t

/-- Every command leaves every component of the state alone that its rules do not name, and the queue. -/
def Obligations.CommandsTouchOnlyTheirComponents : Prop :=
  ∀ c s t, exec c s = .next t → onlyChanges (touches c) s t

/-- The only commands that can stop: BAR0 accesses of a size or alignment outside R257, BAR2 and BAR4 accesses past the windows of
R256, and a BAR4 access that reaches the debug registers whose map is outside the manual (R262). Every other command answers a next
state from every state. -/
def Obligations.OnlyBarAccessesStop : Prop :=
  ∀ c s, stops c s → ∃ p, (∃ off size v, c = .registerWrite p off size v ∧ bar0Ok off size = false)
    ∨ (∃ size, c = .tickCountRead p size ∧ bar0Ok 0x0100 size = false)
    ∨ (∃ off len r, c = .bar2Read p off len r ∧ 2 ^ 30 < off + len)
    ∨ (∃ off b, c = .bar2Write p off b ∧ 2 ^ 30 < off + b.bytes.length)
    ∨ (∃ off st, c = .bar4Access p off st ∧ 2 ^ 24 ≤ off)
    ∨ (∃ off, c = .bar4Access p off false ∧ debugLife s = true ∧ decodes (getPPort p s) = true)

/-- What reset leaves where the manual gives the value: the tick count and the slip counter 0 (R11, R258), 5,000 ticks per second
(R30), no fabric address (R325), a lease length of 3,000 ms and no holder (R258, R268), BOOTING (R271), every slot FREE (R263), no
host buffer bound (R266), a budget of 2,500 W (R376) and operating point OP0 (R415). -/
def Obligations.ResetRegisterValues : Prop :=
  State.reset.tick.count = 0 ∧ State.reset.tick.slips = 0 ∧ State.reset.tick.rate = .r5000 ∧ State.reset.dev.fabric = 0xFFFF
    ∧ State.reset.own.leaseLen = 3000 ∧ State.reset.own.holder = none ∧ State.reset.dev.state = .booting
    ∧ (∀ p n, (slotAt p n State.reset).st = .free) ∧ (∀ b, bindOf State.reset b = none)
    ∧ State.reset.env.budget = 2500000 ∧ State.reset.power.point = 0

/-! ### Frames and time -/

/-- A tick of a chip whose core runs raises the chip's tick count by 1 (R11), passes the time of one frame at the rate in force
(R30), and empties every cell's engines (R33). On a FAILED chip whose region 0 keeps its clocks the count and the operating hours go on, and
of all else only the power control hardware does (R29, R258, R402, R438); in core reset, without the clocks of region 0, and in THERMAL_OFF
no tick comes. -/
def Obligations.TickCountsAndEmptiesEngines : Prop :=
  (∀ s, coreRuns s = true → completes .tick s (fun t =>
    t.tick.count = s.tick.count + 1 ∧ t.tick.timeUs = s.tick.timeUs + frameUs s.tick.rate ∧ t.cells.eng = []))
  ∧ (∀ s, s.clocks.coreReset = false → 0 ∉ s.clocks.stopped → s.dev.state = .failed → completes .tick s (fun t =>
    t = { s with tick := { s.tick with count := s.tick.count + 1, domain := s.tick.domain + 1, timeUs := s.tick.timeUs + frameUs s.tick.rate }
                 power := t.power, clocks := t.clocks
                 life := { s.life with now := { s.life.now with hoursUs := s.life.now.hoursUs + frameUs s.tick.rate } } } ∧ t.tick.count = s.tick.count + 1 ∧ t.tick.timeUs = s.tick.timeUs + frameUs s.tick.rate))
  ∧ (∀ s, (s.clocks.coreReset = true ∨ 0 ∈ s.clocks.stopped ∨ s.dev.state = .thermalOff) → exec .tick s = .next s)

/-- What a tick does with the frame that it ends: the one in which the BAR2 writes that wait are in (R407, R408) and the transfers that are due
stand (R347), `beforeTick`, and in which a running item makes the chip late (R39), `lateAtTick`. `targeted` says that a hold that stands
targets the tick. A tick that one or more holds target withholds commit: the slip counter and the tick count rise by 1, the last committed
tick and committed case memory stay, the forme index stays, and nothing stays staged by the frame but what the host wrote, which the next
tick commits (R43, R50). A tick that no hold targets, at the end of a frame that raised no late hold of its own, commits (R40):
TICK_LAST_COMMIT takes the tick's number, the slip counter stays, and a byte of case memory reads as it did from staging. A late frame
withheld on this chip alone keeps what came from other chips and the host, and the next frame replays it; the clean replay commits its own
writes and the host's at the target tick, and one in doubt or late is replayed again (R44). What an unaligned chip does with its staging is
the model's choice (log entry 35). -/
def Obligations.TicksWithholdOrCommit : Prop :=
  ∀ s, coreRuns s = true →
    let b := lateAtTick (beforeTick s)
    let e := endFrame (beforeTick s)
    let m := s.caseMem
    let ownLate := b.frame.ownLate = some b.tick.domain
    let left := fun (lands carries : List Host.Cell) => ({ m with
      mem := Memory.fold m.mem lands
      staged := carries, inbound := [], own := [], host := carries, excess := []
      shadow := carries.foldl (fun l p => insertNat l (p.1 / 4096)) [] } : CaseSt)
    let counts := fun (t : State) (slips : W64) (last : W64) =>
      t.tick.count = s.tick.count + 1 ∧ t.tick.slips = slips ∧ t.tick.lastCommit = last
    exec .tick s = .next (openFrame e.2.1 (betweenFrames e.2.1 e.2.2 e.1))
    ∧ (b.tick.aligned = true → b.dev.unaligned = false →
      (b.frame.replaying = false → targeted b = true → e.1.frame.formeIdx = b.frame.formeIdx ∧ completes .tick s (fun t =>
        counts t (s.tick.slips + 1) s.tick.lastCommit ∧ t.caseMem = left [] m.host
        ∧ (t.image.orphans = [] → t.stats.own = [] ∧ t.stats.inbound = []
          ∧ (s.fabric.groupsNext = none → t.stats.committed = s.stats.committed))))
      ∧ (b.frame.replaying = false → targeted b = false → ¬ ownLate → completes .tick s (fun t =>
        counts t s.tick.slips (s.tick.count + 1) ∧ t.caseMem = left m.staged []
        ∧ (MemoryOk s → keysRise m.staged → ∀ cell off, caseByte t cell off = caseByte s cell off)))
      ∧ (b.frame.replaying = false → targeted b = false → ownLate → e.1.frame.replaying = true ∧ completes .tick s (fun t =>
        counts t s.tick.slips (s.tick.count + 1) ∧ t.caseMem = left (m.inbound ++ m.host) []))
      ∧ (b.frame.replaying = true → b.frame.doubt = false → b.frame.late = false → e.1.frame.replaying = false ∧ completes .tick s (fun t =>
        counts t (s.tick.slips + 1) (s.tick.count + 1) ∧ t.caseMem = left (m.own ++ m.host) []))
      ∧ (b.frame.replaying = true → (b.frame.doubt = true ∨ b.frame.late = true) → e.1.frame.replaying = true ∧ completes .tick s (fun t =>
        counts t (s.tick.slips + 1) s.tick.lastCommit ∧ t.caseMem = left [] m.host)))
    ∧ (b.tick.aligned = true → b.dev.unaligned = true → completes .tick s (fun t =>
        counts t s.tick.slips (s.tick.count + 1) ∧ t.caseMem = left (m.inbound ++ m.host) []))
    ∧ (b.tick.aligned = false → completes .tick s (fun t =>
        counts t s.tick.slips (s.tick.count + 1) ∧ t.caseMem = left m.staged []))

/-- The positions of a frame. At the hold deadline a chip that runs formes, and whose deadline item has not started, is late (R39). At the lock-up
nothing starts any more, and a chip with an item that has not started is late (R38, R39); that an item which waits on the galley alone when the
lock-up begins counts as started is the model's reading of R38 and R171 beside R148 (log entry 35). A cell whose start offset has passed has started,
and its first item starts (R117). A chip whose own holds have slipped one forme index 8 times enters HELD at its stuck forme index (R48). A chip that
is late, has no hold known and does not replay raises a late hold that carries its address and the frame's number, and sends it with hop count 0 on
every port of the usable set that is up and whose region's network runs: at once where its queue of control packets is empty and its replay buffer has
room (R39, R41, R42, R313, R320, R407). One whose data sends are not all acknowledged at the hold deadline raises an early hold of the frame instead
(R41), and is late. Where a position has passed, or the chip runs no formes, nothing happens. -/
def Obligations.FramePositionsAndLateHolds : Prop :=
  ((∀ s, coreRuns s = true → s.frame.pastDeadline = false → completes .holdDeadline s (fun t =>
        t.frame.pastDeadline = true ∧ (formesRun s = true → deadlineMissed s = true → t.frame.late = true)))
      ∧ (∀ s, coreRuns s = true → s.frame.lockUp = false → completes .lockUp s (fun t =>
        let begun := s.frame.cellStarted.foldl (fun s c => if cellWorks s c then beginWaiting c s else s)
          (onFrame (fun f => { f with pastDeadline := true, lockUp := true }) s)
        t.frame.lockUp = true ∧ (formesRun s = true → unstarted begun = true → t.frame.late = true)))
      ∧ (∀ s cell, formesRun s = true → cellWorks s cell = true → s.frame.cellStarted.contains cell = false →
        s.image.spareLoads.contains cell = false → completes (.cellStart cell) s (fun t =>
          t.frame.cellStarted = insertNat s.frame.cellStarted cell
            ∧ (∀ it rest, s.frame.lockUp = false → orderedLeft s cell = it :: rest → itemReady s cell it = true →
                it.deferrable = false → (cell, it.number) ∈ t.frame.started)))
      ∧ (∀ s, coreRuns s = true → formesRun s = true → 8 ≤ s.frame.slipRun → completes .stuckForme s (fun t =>
        t.dev.state = .held ∧ t.frame.stuck = true ∧ t.frame.replaying = false))
      ∧ (∀ s, (coreRuns s = false ∨ s.frame.pastDeadline = true) → exec .holdDeadline s = .next s)
      ∧ (∀ s, (coreRuns s = false ∨ s.frame.lockUp = true) → exec .lockUp s = .next s)
      ∧ (∀ s cell, (formesRun s = false ∨ cellWorks s cell = false ∨ s.frame.cellStarted.contains cell = true
        ∨ s.image.spareLoads.contains cell = true) → exec (.cellStart cell) s = .next s)
      ∧ (∀ s, (coreRuns s = false ∨ formesRun s = false ∨ s.frame.slipRun < 8) → exec .stuckForme s = .next s))
  ∧ (∀ s, coreRuns s = true → formesRun s = true → s.frame.pastDeadline = false → s.frame.replaying = false →
      s.frame.known = [] → allAcked s = true → deadlineMissed s = true →
      completes .holdDeadline s (fun t =>
        t.frame.known = [{ origin := s.dev.fabric, frame := s.tick.domain, late := true }]
          ∧ t.frame.ownLate = some s.tick.domain
          ∧ t.fabric = (floodHold none 0 { origin := s.dev.fabric, frame := s.tick.domain, late := true } s).fabric
          ∧ ∀ p ∈ s.fabric.usable, claspUp (claspOf p s) = true → portLive p s = true → (claspOf p s).ctl = [] →
              (claspOf p s).replay.length < 2048 → .hold p 0 { origin := s.dev.fabric, frame := s.tick.domain, late := true } ∈ t.fabric.out))
  ∧ (∀ s, coreRuns s = true → formesRun s = true → s.frame.pastDeadline = false → s.frame.replaying = false →
      s.frame.known = [] → allAcked s = false →
      let h : HoldRec := { origin := s.dev.fabric, frame := s.tick.domain, late := false }
      completes .holdDeadline s (fun t =>
        t.frame.known = [h] ∧ holdTarget h = s.tick.domain + 1 ∧ t.frame.ownEarly = true ∧ t.frame.late = true
          ∧ t.frame.ownLate = s.frame.ownLate
          ∧ ∀ p ∈ s.fabric.usable, claspUp (claspOf p s) = true → portLive p s = true → (claspOf p s).ctl = [] →
              (claspOf p s).replay.length < 2048 → .hold p 0 h ∈ t.fabric.out))

/-- Alignment of a follower (R52, R54): 8 ticks in a row of bad offsets or of missing markers make it unaligned, 64 of good ones let it realign, each
in effect at the next tick. A marker from the upstream port sets the correction of the next frame, at most 4 ns either way; any other marker, and one
in a region whose clocks have stopped (R407), changes nothing. Heartbeats (R28, R29): one clears its region's count of silent ticks; 16 silent ticks
of region 1, 2 or 3 lose the region and ask for RETIRE_REQUESTED; a chip compositor without a heartbeat makes both ports report FAILED. -/
def Obligations.AlignmentAndHeartbeats : Prop :=
  ((∀ s, coreRuns s = true → s.tick.source = false → s.tick.aligned = true → (8 ≤ s.tick.offBad ∨ 8 ≤ s.tick.markerGap) →
        exec .unaligned s = .next { s with tick := { s.tick with realign := some false } })
      ∧ (∀ s, coreRuns s = true → s.tick.source = false → s.tick.aligned = false → 64 ≤ s.tick.offGood →
        exec .realigned s = .next { s with tick := { s.tick with realign := some true } })
      ∧ (∀ s port sender d off, s.tick.source = false → s.tick.upstream = port → claspUp (claspOf port s) = true → portLive port s = true →
        completes (.tickMarker port sender d off) s (fun t =>
          t.tick.markerSeen = true ∧ t.tick.markerTick = d ∧ t.tick.offsetPs = off
            ∧ -4000 ≤ t.tick.corrPs ∧ t.tick.corrPs ≤ 4000 ∧ (off.natAbs ≤ 4000 → t.tick.corrPs = -off)))
      ∧ (∀ s port sender d off, (s.tick.source = true ∨ s.tick.upstream ≠ port ∨ claspUp (claspOf port s) = false ∨ portLive port s = false) →
        exec (.tickMarker port sender d off) s = .next s)
      ∧ (∀ s, (s.tick.aligned = false ∨ s.tick.source = true ∨ (s.tick.offBad < 8 ∧ s.tick.markerGap < 8)) → exec .unaligned s = .next s)
      ∧ (∀ s, (s.tick.aligned = true ∨ s.tick.source = true ∨ s.tick.offGood < 64) → exec .realigned s = .next s))
  ∧ ((∀ s r, collectorsRun s = true → s.clocks.stopped.contains r = false → r < s.clocks.silent.length →
        completes (.heartbeat r) s (fun t => t.clocks.silent.getD r 1 = 0))
      ∧ (∀ s r, collectorsRun s = true → 1 ≤ r → r ≤ 3 → s.clocks.lost.contains r = false → 16 ≤ s.clocks.silent.getD r 0 →
        s.dev.state ≠ .booting → completes (.regionLost r) s (fun t =>
          t.clocks.lost = insertNat s.clocks.lost r ∧ t.dev.retireAt = true))
      ∧ (∀ s, s.clocks.beatArmed = true → s.dev.state ≠ .thermalOff → completes .compositorHeartbeatLoss s (fun t =>
        t.dev.state = .failed ∧ devStateWord t % 16 = 9))
      ∧ (∀ s r, (collectorsRun s = false ∨ s.clocks.stopped.contains r = true) → exec (.heartbeat r) s = .next s)
      ∧ (∀ s r, s.clocks.silent.getD r 0 < 16 → exec (.regionLost r) s = .next s)
      ∧ (∀ s, (s.clocks.beatArmed = false ∨ s.dev.state = .thermalOff) → exec .compositorHeartbeatLoss s = .next s))

/-! ### Vector registers, long-word registers, vector items -/

/-- Arithmetic on FP32 and BF16 lanes (R151, R152, R154, R156): each active lane of vd takes the exact result of its lanes,
rounded once at the width; an inactive lane keeps its value or becomes +0; nothing else changes. Arithmetic on INT8 lanes (R151,
R152, R154): ADD and SUB saturate to −128 and 127. A vector instruction that R150 to R152 reserve, and one on a cell that does not
run it (R28, R38), changes nothing. What an FP32 broadcast gives the lanes of width 2 (`opB8`, `afterB8`) is the model's free value (log entry
18), and a transcendental result that the manual's precision does not decide is one too (log entry 8). -/
def Obligations.VectorArithmetic : Prop :=
  (∀ s cell f, f.w < 2 →
      let runs := fun (op : VOp) => vectorRuns s cell { op := op, f := f } = true
      let a := fun l => laneF f.w (vregOf s cell f.va) l
      let b := fun l => opB s cell f l
      let c := fun l => laneF f.w (vregOf s cell f.vc) l
      let r := fun (g : Nat → W32 ⊕ (Bool × Dy)) (l : Nat) => roundAt f.w (g l)
      (runs .add → writesLanes (.add cell f) s cell f f.w (r (fun l => addExact (a l) (b l))))
      ∧ (runs .sub → writesLanes (.sub cell f) s cell f f.w (r (fun l => addExact (a l) (if f32IsNaN (b l) then b l else f32Negate (b l)))))
      ∧ (runs .mul → writesLanes (.mul cell f) s cell f f.w (r (fun l => mulExact (a l) (b l))))
      ∧ (runs .fma → writesLanes (.fma cell f) s cell f f.w (r (fun l => fmaExact (a l) (b l) (c l))))
      ∧ (runs .max → writesLanes (.max cell f) s cell f f.w (r (fun l => .inl (f32Max (a l) (b l)))))
      ∧ (runs .min → writesLanes (.min cell f) s cell f f.w (r (fun l => .inl (f32Min (a l) (b l)))))
      ∧ (runs .abs → writesLanes (.abs cell f) s cell f f.w (r (fun l => .inl (quietNaN (f32Abs (a l))))))
      ∧ (runs .neg → writesLanes (.neg cell f) s cell f f.w (r (fun l => .inl (quietNaN (f32Negate (a l))))))
      ∧ (f.w = 0 → (runs .exp2 → writesLanes (.exp2 cell f) s cell f 0 (r (fun l => .inl (f32Exp2 (a l)))))
        ∧ (runs .log2 → writesLanes (.log2 cell f) s cell f 0 (r (fun l => .inl (f32Log2 (a l)))))
        ∧ (runs .rcp → writesLanes (.rcp cell f) s cell f 0 (r (fun l => .inl (f32Rcp (a l)))))
        ∧ (runs .rsqrt → writesLanes (.rsqrt cell f) s cell f 0 (r (fun l => .inl (f32Rsqrt (a l)))))
        ∧ (runs .tanh → writesLanes (.tanh cell f) s cell f 0 (r (fun l => .inl (f32Tanh (a l)))))
        ∧ (runs .erf → writesLanes (.erf cell f) s cell f 0 (r (fun l => .inl (f32Erf (a l)))))))
  ∧ (∀ s cell f, f.w = 2 →
      let a := fun l => laneI (vregOf s cell f.va) l
      let b := fun l => opB8 s cell f l
      let w := fun (op : VOp) (res : Nat → Int) => vectorRuns s cell { op := op, f := f } = true →
        ∃ v, exec (vecCmd op cell f) s = .next (setVreg cell f.vd v (afterB8 s f)) ∧ lanesHold s cell f 2 v (fun l => lowBits 8 (res l))
      w .add (fun l => clampI (-128) 127 (a l + b l))
      ∧ w .sub (fun l => clampI (-128) 127 (a l - b l))
      ∧ w .max (fun l => max (a l) (b l))
      ∧ w .min (fun l => min (a l) (b l))
      ∧ w .sel (fun l => if (mregOf s cell f.vc).getLsbD l then a l else b l))
  ∧ (∀ op s cell f, (vectorRuns s cell { op := op, f := f } = false ∨ VInstr.legal { op := op, f := f } = false) →
      exec (vecCmd op cell f) s = .next s)

/-- Compares and mask logic (R151, R152, R154): bit l of mask register vd takes the compare of lanes l, which is false for a NaN;
MAND, MOR and MNOT act on all 512 bits; m0 reads as all ones. SEL and CVT (R151, R152, R155). Which of the conversions that fit
its width a CVT makes is the model's free value (log entry 18). -/
def Obligations.MasksSelectConvert : Prop :=
  (∀ s cell f, 0 < f.vd → f.vd < 8 →
      let runs := fun (op : VOp) => vectorRuns s cell { op := op, f := f } = true
      let a := fun l => laneF f.w (vregOf s cell f.va) l
      let ai := fun l => laneI (vregOf s cell f.va) l
      let w8 := fun (op : VOp) (res : Nat → Bool) => vectorRuns s cell { op := op, f := f } = true →
        ∃ v, exec (vecCmd op cell f) s = .next (setMreg cell f.vd v (afterB8 s f)) ∧ bitsHold s cell f 512 v res
      (f.w < 2 →
        (runs .cmplt → writesBits (.cmplt cell f) s cell f (laneNum f.w) (fun l => f32Lt (a l) (opB s cell f l)))
        ∧ (runs .cmple → writesBits (.cmple cell f) s cell f (laneNum f.w) (fun l => f32Le (a l) (opB s cell f l)))
        ∧ (runs .cmpeq → writesBits (.cmpeq cell f) s cell f (laneNum f.w) (fun l => f32Eq (a l) (opB s cell f l))))
      ∧ (f.w = 2 →
        w8 .cmplt (fun l => decide (ai l < opB8 s cell f l))
        ∧ w8 .cmple (fun l => decide (ai l ≤ opB8 s cell f l))
        ∧ w8 .cmpeq (fun l => decide (ai l = opB8 s cell f l)))
      ∧ (f.w < 3 →
        (runs .mand → writesBits (.mand cell f) s cell f 512 (fun l => (mregOf s cell f.va).getLsbD l && (mregOf s cell f.vb).getLsbD l))
        ∧ (runs .mor → writesBits (.mor cell f) s cell f 512 (fun l => (mregOf s cell f.va).getLsbD l || (mregOf s cell f.vb).getLsbD l))
        ∧ (runs .mnot → writesBits (.mnot cell f) s cell f 512 (fun l => !(mregOf s cell f.va).getLsbD l)))
      ∧ mregOf s cell 0 = BitVec.allOnes 512)
  ∧ (∀ s cell f,
      let runs := fun (op : VOp) => vectorRuns s cell { op := op, f := f } = true
      let x := fun (r l : Nat) => if r = 1 ∧ f.vb = 0xFF then f.addr
        else laneF 0 (vregOf s cell ((if r = 0 then f.va else if r = 1 then f.vb else if r = 2 then f.vc else f.va + 1) % 32)) l
      (f.w < 2 → runs .sel → writesLanes (.sel cell f) s cell f f.w (fun l =>
          if (mregOf s cell f.vc).getLsbD l then lane f.w (vregOf s cell f.va) l
          else if f.vb = 0xFF then roundAt f.w (.inl f.addr) else lane f.w (vregOf s cell f.vb) l))
      ∧ (f.w < 3 → runs .cvt → cvtChoice f < 4 ∧
        writesLanes (.cvt cell f) s cell f (if cvtChoice f = 0 then 1 else if cvtChoice f = 2 then 2 else 0) (fun l =>
          if cvtChoice f = 0 then (f32ToBf16 (x (l / 128) (l % 128))).toNat
          else if cvtChoice f = 1 then (quietNaN (laneF 1 (vregOf s cell (f.va % 32)) (128 * f.vc + l))).toNat
          else if cvtChoice f = 2 then lowBits 8 (f32ToI8 (x (l / 128) (l % 128)))
          else (rneF32 false ⟨laneI (vregOf s cell (f.va % 32)) (128 * f.vc + l), 0⟩).toNat)))

/-- Reductions (R157): lane 0 of vd takes the fixed pairwise tree of the lanes, an inactive lane entering as −0 for a sum, −∞ for
a maximum, +∞ for a minimum; every other lane of vd becomes +0. The INT8 reductions of 512 lanes, and the lanes that a reduction writes
whatever its mask says, are the model's choice (log entry 18). SCAN (R158): seven rounds at distances 1 to 64 over the lanes, inactive lanes
entering as −0, where a round adds the lane below to a lane that no segment start cuts off from it (`scanSum`); then the carry, lane 127 of
vb or −0, joins the lanes before the first segment start. -/
def Obligations.ReductionsAndScan : Prop :=
  (∀ s cell f,
      let x := fun (z : W32) (l : Nat) => if laneOn s cell f l then laneF 0 (vregOf s cell f.va) l else z
      let xi := fun (z : Int) (l : Nat) => if laneOn s cell f l then laneI (vregOf s cell f.va) l else z
      let w := fun (op : VOp) (n : Nat) (res : Nat) => vectorRuns s cell { op := op, f := f } = true →
        ∃ v, exec (vecCmd op cell f) s = .next (setVreg cell f.vd v s) ∧ lane n v 0 = res ∧ ∀ l, 0 < l → l < laneNum n → lane n v l = 0
      (f.w = 0 →
        w .redsum 0 (treeOf f32Add (x f32NegZero) 7 0).toNat
        ∧ w .redmax 0 (treeOf f32Max (x f32NegInf) 7 0).toNat
        ∧ w .redmin 0 (treeOf f32Min (x f32Inf) 7 0).toNat)
      ∧ (f.w = 2 →
        w .redmax 2 (lowBits 8 ((List.range 512).foldl (fun acc l => max acc (xi (-128) l)) (-128)))
        ∧ w .redmin 2 (lowBits 8 ((List.range 512).foldl (fun acc l => min acc (xi 127 l)) 127))))
  ∧ (∀ s cell f, vectorRuns s cell { op := .scan, f := f } = true → f.w = 0 →
      let x := fun (l : Nat) => if laneOn s cell f l then laneF 0 (vregOf s cell f.va) l else f32NegZero
      let seg := fun (l : Nat) => f.vc != 0 && (mregOf s cell f.vc).getLsbD l
      let carry := if f.vb = 0xFF then f32NegZero else laneF 0 (vregOf s cell f.vb) 127
      writesLanes (.scan cell f) s cell f 0 (fun l =>
        (if (List.range (l + 1)).any seg then scanSum seg x 7 l else f32Add carry (scanSum seg x 7 l)).toNat))

/-- Writing a vector register: it reads as written, every other register of every cell reads as before. -/
def Obligations.VectorRegisterReadBack : Prop :=
  ∀ s cell r v, vregOf (setVreg cell r v s) cell r = v
    ∧ (∀ c q, c ≠ cell → vregOf (setVreg cell r v s) c q = vregOf s c q)
    ∧ (keysRise (engOf s cell).vregs → keysRise (engOf (setVreg cell r v s) cell).vregs
      ∧ ∀ q, q ≠ r → vregOf (setVreg cell r v s) cell q = vregOf s cell q)
    ∧ (∀ c q, mregOf (setVreg cell r v s) c q = mregOf s c q ∧ lregOf (setVreg cell r v s) c q = lregOf s c q)

/-- Loads (R148, R153): a lane takes the element at addr + l × stride × (element bytes); LDG takes a row of the galley slot at a
position, and with the release flag marks that slot for release at the end of the item; offsets outside case memory or off the element's
alignment, and an empty position, load and store nothing. ST (R151, R153) with shadow pages to spare: every active lane stores its
element at addr + l × stride × (element bytes), an inactive lane under zeroing stores +0, every other byte of case memory reads as
before, and committed case memory keeps its contents. With a stride of 0 and several lanes that store, what lands is the model's free
value (log entry 18). -/
def Obligations.VectorLoadsAndStores : Prop :=
  (∀ s cell f,
      (f.w < 3 → vectorRuns s cell { op := .ld, f := f } = true → offsetsFit f = true → writesLanes (.ld cell f) s cell f f.w (fun l =>
          leNat (caseBytes s cell (laneOffset f l).toNat (laneBits f.w / 8))))
      ∧ (∀ t, f.w = 0 → vectorRuns s cell { op := .ldg, f := f } = true → (engOf s cell).galley[f.addr.toNat % 8]? = some t →
          ∃ v, exec (.ldg cell f) s = .next (onlyIf f.release (markRelease cell (f.addr.toNat % 8)) (setVreg cell f.vd v s))
            ∧ lanesHold s cell f 0 v (fun l => (SMap.getD t (128 * bitsOf f.addr.toNat 14 8 + l) 0).toNat))
      ∧ (offsetsFit f = false → exec (.ld cell f) s = .next s ∧ exec (.st cell f) s = .next s)
      ∧ ((engOf s cell).galley.length ≤ f.addr.toNat % 8 → exec (.ldg cell f) s = .next s))
  ∧ (∀ s cell f, vectorRuns s cell { op := .st, f := f } = true → f.w < 3 → offsetsFit f = true → shadowRoom s cell (laneNum f.w) = true →
      let n := laneBits f.w / 8
      let live := fun l => laneOn s cell f l || f.zeroing
      completes (.st cell f) s (fun t =>
        t.caseMem.mem = s.caseMem.mem
        ∧ ((f.stride ≠ 0 ∨ ∀ l k, l < laneNum f.w → k < laneNum f.w → live l = true → live k = true → l = k) → ∀ l i, l < laneNum f.w → live l = true → i < n →
            caseByte t cell ((laneOffset f l).toNat + i)
              = (leBytes n (if laneOn s cell f l then lane f.w (vregOf s cell f.va) l else 0)).getD i 0)
        ∧ (∀ c off, off < 2 ^ 23 →
            (c = cell ∧ ∃ l, l < laneNum f.w ∧ live l = true ∧ (laneOffset f l).toNat ≤ off ∧ off < (laneOffset f l).toNat + n)
              ∨ caseByte t c off = caseByte s c off)))

/-- AZERO, AFOLD and AROUND (R159, R94): AZERO clears register vd and takes leading, count and tensor from addr; AFOLD puts the exact
sum of the active lanes into lane 0 and clears the rest (whatever the mask says: the model's choice, log entry 18); AROUND writes each
lane's rounded long word, or the NaN of a poisoned register. AADD (R159) where every active lane's value is finite and below the product
limit, or not finite: each finite value enters its lane in units of 2 ^ (leading − 75), truncated toward zero; a value that is not
finite sets the poison bit and adds nothing. ASCAN (R160) where every active lane's value is finite and below the product limit: the
values add one lane at a time onto lane 0 of long-word register vb, a segment start first clears the total, each running total is
rounded into its lane of vd, and the total after lane 127 stays in lane 0 of vb. Where a finite value of AADD or ASCAN lies at or above the
limit (R162), the instruction runs again under the least leading that puts every value below it: the register's words are shifted there
first, it holds that leading and its re-lead bit, and the tensor counts one re-lead. -/
def Obligations.LongWordArithmetic : Prop :=
  (∀ s cell f,
      (f.w < 3 → vectorRuns s cell { op := .azero, f := f } = true → exec (.azero cell f) s = .next (setLreg cell f.vd { LReg.zero with
          leading := signExt 8 f.addr.toNat
          logN := bitsOf f.addr.toNat 12 8
          tensor := bitsOf f.addr.toNat 31 16 } s))
      ∧ (f.w < 3 → vectorRuns s cell { op := .afold, f := f } = true → completes (.afold cell f) s (fun t =>
          let v := lregOf s cell f.vd
          t = setLreg cell f.vd (lregOf t cell f.vd) s
          ∧ SMap.getD (lregOf t cell f.vd).lanes 0 0
              = v.lanes.foldl (fun acc p => if laneOn s cell f p.1 then wrap96 (acc + p.2) else acc) 0
          ∧ (∀ l, l ≠ 0 → SMap.getD (lregOf t cell f.vd).lanes l 0 = 0)
          ∧ (lregOf t cell f.vd).leading = v.leading ∧ (lregOf t cell f.vd).poison = v.poison))
      ∧ (f.w = 0 → vectorRuns s cell { op := .around, f := f } = true → writesLanes (.around cell f) s cell f 0 (fun l =>
          (if (lregOf s cell f.va).poison then f32NaN
           else rneF32Pos (longDy (lregOf s cell f.va).leading (SMap.getD (lregOf s cell f.va).lanes l 0))).toNat)))
  ∧ (∀ s cell f, vectorRuns s cell { op := .aadd, f := f } = true → f.w = 0 → keysRise (lregOf s cell f.vd).lanes →
      let v := lregOf s cell f.vd
      let a := fun l => laneF 0 (vregOf s cell f.va) l
      (∀ l, l < 128 → laneOn s cell f l = true → f32Finite (a l) = true → belowLimit v.leading (p2 v.logN) (f32Val (a l)) = true) →
      completes (.aadd cell f) s (fun t =>
        (lregOf t cell f.vd).leading = v.leading
        ∧ ((lregOf t cell f.vd).poison = true ↔
            (v.poison = true ∨ ∃ l, l < 128 ∧ laneOn s cell f l = true ∧ f32Finite (a l) = false))
        ∧ ∀ l, l < 128 → SMap.getD (lregOf t cell f.vd).lanes l 0 =
            if laneOn s cell f l then
              (if f32Finite (a l) then wrap96 (SMap.getD v.lanes l 0 + (DyOp.toUnits (f32Val (a l)) (v.leading - 75)).1)
               else SMap.getD v.lanes l 0)
            else if f.zeroing then 0 else SMap.getD v.lanes l 0))
  ∧ (∀ s cell f, vectorRuns s cell { op := .ascan, f := f } = true → f.w = 0 →
      let v := lregOf s cell f.vb
      let a := fun l => laneF 0 (vregOf s cell f.va) l
      let seg := fun l => f.vc != 0 && (mregOf s cell f.vc).getLsbD l
      let tot := runningTotal v.leading (laneOn s cell f) seg a (SMap.getD v.lanes 0 0)
      (∀ l, l < 128 → laneOn s cell f l = true →
        f32Finite (a l) = true ∧ belowLimit v.leading (p2 v.logN) (f32Val (a l)) = true) →
      completes (.ascan cell f) s (fun t =>
        SMap.getD (lregOf t cell f.vb).lanes 0 0 = tot 127
        ∧ (lregOf t cell f.vb).poison = v.poison
        ∧ lanesHold s cell f 0 (vregOf t cell f.vd) (fun l =>
            (if v.poison then f32NaN else rneF32Pos (longDy v.leading (tot l))).toNat)))
  ∧ (∀ s cell f L, f.w = 0 →
      let a := fun l => laneF 0 (vregOf s cell f.va) l
      let on := laneOn s cell f
      let rises := fun (v : LReg) => keysRise v.lanes ∧ -128 ≤ v.leading ∧ v.leading < L ∧ L ≤ 127
        ∧ (∀ l, l < 128 → on l = true → f32Finite (a l) = true ∧ belowLimit L (p2 v.logN) (f32Val (a l)) = true)
        ∧ (∃ l, l < 128 ∧ on l = true ∧ belowLimit (L - 1) (p2 v.logN) (f32Val (a l)) = false)
      let counts := fun (v : LReg) (t : State) => (SMap.getD t.stats.own v.tensor StatRec.empty).relead
        = hold32 ((SMap.getD s.stats.own v.tensor StatRec.empty).relead + 1)
      (vectorRuns s cell { op := .aadd, f := f } = true → rises (lregOf s cell f.vd) → completes (.aadd cell f) s (fun t =>
        let v := lregOf s cell f.vd
        let u := lregOf t cell f.vd
        u.leading = L ∧ u.releaded = true ∧ u.poison = v.poison ∧ counts v t
        ∧ ∀ l, l < 128 → SMap.getD u.lanes l 0 =
            if on l then wrap96 (alignedTo L v.leading (SMap.getD v.lanes l 0) + (DyOp.toUnits (f32Val (a l)) (L - 75)).1)
            else if f.zeroing then 0 else alignedTo L v.leading (SMap.getD v.lanes l 0)))
      ∧ (vectorRuns s cell { op := .ascan, f := f } = true → rises (lregOf s cell f.vb) → completes (.ascan cell f) s (fun t =>
        let v := lregOf s cell f.vb
        let u := lregOf t cell f.vb
        let seg := fun l => f.vc != 0 && (mregOf s cell f.vc).getLsbD l
        let tot := runningTotal L on seg a (alignedTo L v.leading (SMap.getD v.lanes 0 0))
        u.leading = L ∧ u.releaded = true ∧ u.poison = v.poison ∧ counts v t ∧ SMap.getD u.lanes 0 0 = tot 127
        ∧ lanesHold s cell f 0 (vregOf t cell f.vd) (fun l =>
            (if v.poison then f32NaN else rneF32Pos (longDy L (tot l))).toNat))))

/-- ALD and AST (R161, R91, R93): ALD combines the lane partial at addr into register vd where R91 lets the two combine: the side with
the lower leading is shifted, the active lanes add, poison and re-lead bits join, and the range becomes the union; a partial that does
not combine leaves the register (the model's choice, log entry 18). Inactive lanes stay, or become 0 under zeroing (R151). AST stores
register va: the leading in byte 0, the poison bit in flags [0], and an active lane l's long word at 64 + 12 l; an inactive lane stores
nothing, or 0 under zeroing. A partial past the end of case memory changes nothing. -/
def Obligations.LanePartials : Prop :=
  (∀ s cell f, (f.w < 3 → 2 ^ 23 < f.addr.toNat + 1600 → exec (.ald cell f) s = .next s ∧ exec (.ast cell f) s = .next s))
  ∧ ∀ s cell f, f.w < 3 → f.addr.toNat + 1600 ≤ 2 ^ 23 →
    (vectorRuns s cell { op := .ald, f := f } = true → keysRise (lregOf s cell f.vd).lanes →
      let v := lregOf s cell f.vd
      let p := readPartial s cell f.addr.toNat
      let n := fun (o k : Nat) => leNat (caseBytes s cell (f.addr.toNat + o) k)
      let pl := signExt 8 (n 0 1)
      let lead := max v.leading pl
      let own := fun (l : Nat) => if laneOn s cell f l || !f.zeroing then SMap.getD v.lanes l 0 else 0
      completes (.ald cell f) s (fun t =>
        (v.joins p = true →
          (lregOf t cell f.vd).leading = lead
          ∧ (lregOf t cell f.vd).poison = (v.poison || bitOf (n 1 1) 0)
          ∧ (lregOf t cell f.vd).releaded = (v.releaded || bitOf (n 1 1) 2)
          ∧ (lregOf t cell f.vd).ks = ksUnion v.ks (ksOf (n 4 4) (n 8 4))
          ∧ ∀ l, l < 128 →
              let old := alignedTo lead v.leading (own l)
              let add := alignedTo lead pl (signExt 96 (n (64 + 12 * l) 12))
              SMap.getD (lregOf t cell f.vd).lanes l 0 = if laneOn s cell f l && add != 0 then wrap96 (old + add) else old)
        ∧ (v.joins p = false →
          (lregOf t cell f.vd).leading = v.leading ∧ (lregOf t cell f.vd).poison = v.poison
          ∧ ∀ l, SMap.getD (lregOf t cell f.vd).lanes l 0 = own l)))
    ∧ (vectorRuns s cell { op := .ast, f := f } = true → shadowRoom s cell 2 = true →
      let v := lregOf s cell f.va
      let at' := f.addr.toNat
      completes (.ast cell f) s (fun t =>
        caseBytes t cell at' 1 = leBytesI 1 v.leading
        ∧ bitOf (caseByte t cell (at' + 1)).toNat 0 = v.poison
        ∧ (∀ l, l < 128 → caseBytes t cell (at' + 64 + 12 * l) 12
            = if laneOn s cell f l then leBytesI 12 (SMap.getD v.lanes l 0) else if f.zeroing then zeros 12
              else caseBytes s cell (at' + 64 + 12 * l) 12)
        ∧ (∀ c off, off < 2 ^ 23 → (c = cell ∧ at' ≤ off ∧ off < at' + 1600) ∨ caseByte t c off = caseByte s c off)
        ∧ t.caseMem.mem = s.caseMem.mem))

/-- TOPKM (R169) with shadow pages to spare and the two lists apart: every row's record at list A becomes the merged record of
both lists' entries, with k of the drain that made list A; the rest of case memory reads as before. For a list that no drain of this chip
made, k is a free value (log entry 18). Lists past the end of case memory merge nothing. -/
def Obligations.TopkMerge : Prop :=
  ∀ s cell f, f.w < 3 →
    let A := f.addr.toNat
    let B := f.stride.toNat
    (2 ^ 23 < Nat.max A B + 64 * f.vc → exec (.topkm cell f) s = .next s)
    ∧ (vectorRuns s cell { op := .topkm, f := f } = true → 1 ≤ f.vc → f.vc ≤ 128 → shadowRoom s cell 3 = true →
      A + 64 * f.vc ≤ 2 ^ 23 → B + 64 * f.vc ≤ 2 ^ 23 → (A + 64 * f.vc ≤ B ∨ B + 64 * f.vc ≤ A) →
      let k := (topkMade s cell A).getD ((Config.freeWord s.freeIdx).toNat % 8 + 1)
      completes (.topkm cell f) s (fun t =>
        (∀ r i, r < f.vc → i < 64 → caseByte t cell (A + 64 * r + i)
          = (topkRecord k (topkEntries s cell (A + 64 * r) ++ topkEntries s cell (B + 64 * r))).getD i 0)
        ∧ (∀ c off, off < 2 ^ 23 → (c = cell ∧ A ≤ off ∧ off < A + 64 * f.vc) ∨ caseByte t c off = caseByte s c off)
        ∧ t.caseMem.mem = s.caseMem.mem))

/-- LIG (R163 to R167): it runs the descriptor's program once a row, writes the two outputs, and marks the galley slot of its input for
release where the descriptor or the instruction says so. A ligature with no exact accumulation runs once; one whose accumulator must be
raised runs again from its first row with the raises found so far (R162, `repeatsOf`), and the run that needs none is the one that counts,
with one re-lead event for each raise. It comes to that run from every accumulator whose leading is at least −128. With its galley position
empty it changes nothing. -/
def Obligations.LigatureRun : Prop :=
  ∀ s cell f, vectorRuns s cell { op := .lig, f := f } = true → f.w < 3 →
    let d := readLig s cell f.addr.toNat
    let act := (List.range 128).map (fun j => (mregOf s cell d.colMask).getLsbD j)
    let run := fun (delta : SMap Nat) => ligRows delta cell d act { s := s, adj := [], need := [], ok := true }
    let done := fun (delta : SMap Nat) => onlyIf (d.in0Src = 0 && (d.release || f.release)) (markRelease cell (d.in0Addr % 8))
      (ligOutput cell d act 1 (run delta).2.2 (ligOutput cell d act 0 (run delta).2.1 (run delta).1.s))
    let r := repeatsOf (fun delta => (run delta).1) 1099 [] []
    (d.in0Src = 0 → (engOf s cell).galley.length ≤ d.in0Addr % 8 → exec (.lig cell f) s = .next s)
    ∧ ((d.in0Src = 0 → d.in0Addr % 8 < (engOf s cell).galley.length) →
      (d.accExact = false → exec (.lig cell f) s = .next (done []))
      ∧ ((run []).1.need = [] → exec (.lig cell f) s = .next (done []))
      ∧ (-128 ≤ (lregOf s cell d.accReg).leading →
        (run r.1).1.need = [] ∧ exec (.lig cell f) s = .next (countReleads r.2 (done r.1))))

/-- A vector item (R148, R152, R162) of any vector instructions, loads, stores, ligatures and long-word instructions among them, does what they
do one after another where each runs at its turn and no value reaches P; then its end frees the galley slots that it marked and lets a
waiting drain go on. Where a value does reach P, the item runs again from its first instruction with the raises found so far
(`repeatsOf`), and the run that needs none counts, with one re-lead for each raise. An item with an instruction that does not run, or that its
cell does not run (R38), changes nothing. -/
def Obligations.VectorItemRunsInOrder : Prop :=
  (∀ s cell prog, (mayRun s cell (.vector prog) = false ∨ runVector cell prog s = none) → exec (.vectorItem cell prog) s = .next s)
  ∧ ∀ s cell prog, mayRun s cell (.vector prog) = true →
    let run := fun (delta : SMap Nat) => prog.foldl (vStep delta cell) { s := s, adj := [], need := [], ok := true }
    let ends := fun (t : State) => wakeDrain cell (onEng cell freeSlots (finishItem cell (.vector prog) t))
    let r := repeatsOf run 1099 [] []
    (programClean cell prog s = true →
      exec (.vectorItem cell prog) s = .next (ends (prog.foldl (fun s i => after (vecCmd i.op cell i.f) s) s)))
    ∧ ((run r.1).ok = true → (run r.1).need = [] → exec (.vectorItem cell prog) s = .next (ends (countReleads r.2 (run r.1).s)))
    ∧ ((run []).ok = false → exec (.vectorItem cell prog) s = .next s)

/-! ### Arrays, galley, case memory, HBM, bezel units -/

/-- The start of a forme item (R198, R199): the next ordered item that is ready; while it waits, the ready deferrable item of the
lowest earliest index and number; an item that starts is listed as started. An item that waits for inbound data of its group begins
that wait (R333). On a cell that does not run formes, in the lock-up, and before the cell's start, nothing starts (R38, R117). -/
def Obligations.FormeItemStarts : Prop :=
  (∀ s cell pos wait, (formesRun s = false ∨ cellWorks s cell = false ∨ s.frame.lockUp = true ∨ s.frame.cellStarted.contains cell = false
      ∨ s.image.spareLoads.contains cell = true) → exec (.formeItemStart cell pos wait) s = .next s)
  ∧ ∀ s cell pos, formesRun s = true → cellWorks s cell = true → s.frame.lockUp = false →
    s.frame.cellStarted.contains cell = true → s.image.spareLoads.contains cell = false →
    (∀ it rest, orderedLeft s cell = it :: rest → itemReady s cell it = true → sendWindow s it pos = true →
      exec (.formeItemStart cell pos .ready) s = .next (beginItem cell it s))
    ∧ (∀ it, deferChoice s cell pos = some it →
      exec (.formeItemStart cell pos .banks) s = .next (beginItem cell it s))
    ∧ (deferChoice s cell pos = none → exec (.formeItemStart cell pos .banks) s = .next s)
    ∧ (∀ g missing, exec (.formeItemStart cell pos (.inbound g missing)) s
      = exec (.formeItemStart cell pos .banks) (beginWait cell g missing s))
    ∧ ∀ it, (cell, it.number) ∈ (beginItem cell it s).frame.started

/-- PASS (R36, R86, R102, R106, R121, R124): it runs on the arrays whose rows no waiting drain still has to clear, and is held for the others
alone (R123, R126 as the model reads them, log entry 37); the cell's engines take
what those arrays compute, every other cell's engines stay, the counts join the staged statistics of its tensor, and its unchecked rows are
counted. Where no array waits, its item completes; else the pass waits on the other arrays, which stop (R123, R126). A row that mismatches
three times stops its array, puts the frame in doubt and leaves the item unfinished, and the rows before it keep their updates (R121). A
pass that may not run, at an issue ceiling of 0, or behind a pass that waits, changes nothing (R38, R115, R127). -/
def Obligations.PassRunsOrStops : Prop :=
  (∀ s cell d mm, (mayRun s cell (.pass d) = false ∨ ceilingOf 64 s cell = 0 ∨ (engOf s cell).held.isSome = true) →
      exec (.pass cell d mm) s = .next s)
  ∧ ∀ s cell d, mayRun s cell (.pass d) = true → ceilingOf 64 s cell ≠ 0 → (engOf s cell).held = none →
    let w := blockedArrays s cell d
    let arrs := (List.range 4).filter (fun a => !w.contains a)
    (let r := passResult 64 arrs w s cell d []
     completes (.pass cell d []) s (fun t =>
      (∀ c, c ≠ cell → engOf t c = engOf s c)
      ∧ SMap.getD t.stats.own d.tensor StatRec.empty = StatRec.add r.stat (SMap.getD s.stats.own d.tensor StatRec.empty)
      ∧ SMap.getD t.cells.unchecked cell 0 = SMap.getD s.cells.unchecked cell 0 + r.unchecked
      ∧ (engOf t cell).acc = r.eng.acc
      ∧ (w = [] → engOf t cell = { r.eng with held := none } ∧ t.frame = (finishItem cell (.pass d) s).frame
        ∧ t.caseMem = s.caseMem ∧ t.hbm = s.hbm)
      ∧ (w ≠ [] → (engOf t cell).held = some { desc := d, mismatches := [], arrays := w, drains := [] } ∧ t.frame = s.frame
        ∧ ∀ a ∈ w, ((engOf t cell).arrays.getD a ArraySt.reset).stopped = true)))
    ∧ (∀ mm,
      let r := passResult 64 arrs w s cell d mm
      let stop := fun a => (passRetry arrs s cell d mm a).stop
      completes (.pass cell d mm) s (fun t =>
        (engOf t cell).acc = r.eng.acc
        ∧ SMap.getD t.stats.own d.tensor StatRec.empty = StatRec.add r.stat (SMap.getD s.stats.own d.tensor StatRec.empty)
        ∧ (w = [] → (∀ a ∈ arrs, stop a = none) → t.frame.running = (finishItem cell (.pass d) s).frame.running)
        ∧ ((∃ a ∈ arrs, (stop a).isSome = true) → t.frame.running = s.frame.running ∧ (inFrame s = true → t.frame.doubt = true)
          ∧ ∀ a ∈ arrs, (stop a).isSome = true → ((engOf t cell).arrays.getD a ArraySt.reset).stopped = true)))

/-- Exact accumulation (R80, R84, R85, R86): a product below the product limit adds into its long word in units of 2 ^ (leading −
75), truncated toward zero, modulo the long word; one at or above the limit is left out, and after a re-lead it poisons its row. Stage
3 of a drain (R87, R94): a reduction of one part without a fused stage rounds each long word once to FP32, a zero to +0; a poisoned row
or column gives NaN. One element of a reduction (R194): a finite contribution below the limit adds exactly into its place of the delta
tile; one that is not finite sets the poison bits of its row and column and the tile's flag, and counts one event. -/
def Obligations.ExactSums : Prop :=
  (∀ array row lead n relead (e : CellEng) lost col v,
      (belowLimit lead n (opDy v) = true →
        SMap.getD (addProduct array row lead n relead (e, lost) (col, v)).1.acc (accKey array row col) 0
          = wrap96 (SMap.getD e.acc (accKey array row col) 0 + (DyOp.toUnits (opDy v) (lead - 75)).1)
        ∧ (addProduct array row lead n relead (e, lost) (col, v)).1.rowPoison = e.rowPoison)
      ∧ (belowLimit lead n (opDy v) = false →
        (relead = true → (array * 512 + row) ∈ (addProduct array row lead n relead (e, lost) (col, v)).1.rowPoison)
        ∧ (addProduct array row lead n relead (e, lost) (col, v)).1.acc = e.acc))
  ∧ (∀ s cell d te (e : CellEng) lead0 nRows t array row j, d.fusedAdd = false → d.fusedMul = false → partCount te ≤ 1 →
      let g := array * 4 + row / 128
      let lead := (groupOf e te.leading g).leading
      let bad := e.rowPoison.contains (array * 512 + row) || e.colPoison.contains (g * 128 + j)
      (drainElement s cell d te e lead0 nRows t array row j).out =
        if bad then f32NaN else rneF32Pos (longDy lead (wrap96 (SMap.getD e.acc (accKey array row j) 0))))
  ∧ (∀ n i j x v (t : LTile) (st : StatRec), i < 32 → j < 32 →
      let r := reduceElem 0 n i j x v (t, st)
      (opFinite v = true → belowLimit t.leading n (opDy v) = true →
        r.1.elem i j = wrap96 (t.elem i j + (DyOp.toUnits (opDy v) (t.leading - 75)).1) ∧ r.1.rowPoison = t.rowPoison)
      ∧ (opFinite v = false →
        r.1.rowPoison.getLsbD i = true ∧ r.1.colPoison.getLsbD j = true ∧ r.1.nonfinite = true ∧ r.1.elems = t.elems
        ∧ r.2.nonfinite = hold32 (st.nonfinite + 1)))

/-- WEIGHT_SWAP (R109): the loaded tile becomes the tile in use, and the load of the tile behind it starts; without one the engines
stay where no pass is left that loads a tile, and else the arrays stop (R128), filler as the model reads it (log entry 37). While a pass is
held for arrays that wait, the tile that it uses stays (R102, R128). GALLEY_SLOT_FREE (R126, R148): the slots marked
for release are freed, the tiles behind them keep their order, no mark stays, and what waits in the cell goes on; where nothing waits, or
the first waiting drain still finds too few slots, nothing else changes: a drain that needs several slots waits for all of them (the model's
choice, log entry 37). Without the cell's clocks nothing happens (R28, R406); on a cell
that runs no formes the slots are freed and nothing goes on. -/
def Obligations.WeightsAndGalleySlots : Prop :=
  (∀ s cell, cellWorks s cell = true → (engOf s cell).held.isSome = true → exec (.weightSwap cell) s = .next s)
  ∧ (∀ s cell, cellWorks s cell = true → (engOf s cell).held = none → completes (.weightSwap cell) s (fun t =>
      (∀ w, (engOf s cell).next = some w →
        engOf t cell = { engOf s cell with active := some w, next := followingTile s cell (some w), swapped := true })
      ∧ ((engOf s cell).next = none →
        engOf t cell = if (passesLeft s cell).isEmpty then engOf s cell else (engOf s cell).stopArrays (ceilingOf 64 s cell))
      ∧ (∀ c, c ≠ cell → engOf t c = engOf s c)))
  ∧ (∀ s cell, cellWorks s cell = false → exec (.weightSwap cell) s = .next s)
  ∧ (∀ s cell, (coreRuns s = false ∨ cellRegion cell ∈ s.clocks.stopped) → exec (.galleySlotFree cell) s = .next s)
  ∧ (∀ s cell, coreRuns s = true → cellRegion cell ∉ s.clocks.stopped →
      (cellActive s cell = false → exec (.galleySlotFree cell) s = .next (onEng cell freeSlots s))
      ∧ (cellActive s cell = true → exec (.galleySlotFree cell) s = .next (wakeDrain cell (onEng cell freeSlots s)))
      ∧ ((engOf s cell).waiting = [] → (engOf s cell).held = none → completes (.galleySlotFree cell) s (fun t =>
          engOf t cell = freeSlots (engOf s cell) ∧ (engOf t cell).releases = []
          ∧ (engOf t cell).galley.length ≤ (engOf s cell).galley.length ∧ t.caseMem = s.caseMem))
      ∧ (∀ d rest, (engOf s cell).waiting = d :: rest → (engOf s cell).held = none → galleyFree (freeSlots (engOf s cell)) < galleyNeed d →
          exec (.galleySlotFree cell) s = .next (onEng cell freeSlots s)))

/-- DRAIN (R94, R122, R126, R148): one that finds its galley slots, behind no drain that waits, drains now; a final drain to the galley alone leaves
every drained long word 0 and its tiles behind the tiles of the galley; one that does not find them waits, its long words as they were; a drain that
needs several slots waits for all of them (the model's choice, log entry 37). One that closes the accumulation of a pass that waits, waits behind that
pass (R123). A drain that may not run changes nothing (R38). -/
def Obligations.DrainRuns : Prop :=
  (∀ s cell d, mayRun s cell (.drain d) = false → exec (.drain cell d) s = .next s)
  ∧ (∀ s cell d w, mayRun s cell (.drain d) = true → (engOf s cell).held = some w → behindHeld s cell d = true →
    completes (.drain cell d) s (fun t =>
      engOf t cell = { engOf s cell with held := some { w with drains := w.drains ++ [d] } }
      ∧ (∀ c, c ≠ cell → engOf t c = engOf s c)
      ∧ t.frame = s.frame ∧ t.caseMem = s.caseMem ∧ t.stats = s.stats))
  ∧ ∀ s cell d, mayRun s cell (.drain d) = true → behindHeld s cell d = false →
    let finds := galleyNeed d = 0 ∨ ((engOf s cell).waiting = [] ∧ galleyNeed d ≤ galleyFree (engOf s cell))
    (finds → exec (.drain cell d) s = .next (finishItem cell (.drain d) (drainNow cell d s)))
    ∧ (finds → (tabEntry s d.tensor).isSome = true → d.final = true → d.toGalley = true →
      d.outFmt = none → d.topk = false → d.compare = false → completes (.drain cell d) s (fun t =>
        (∀ a r j, (a, r) ∈ stripRows d → r < 512 → j < 128 → SMap.getD (engOf t cell).acc (accKey a r j) 0 = 0)
        ∧ (engOf t cell).galley.length = (engOf s cell).galley.length + galleyNeed d
        ∧ (engOf t cell).galley.take (engOf s cell).galley.length = (engOf s cell).galley))
    ∧ (¬ finds → completes (.drain cell d) s (fun t =>
        engOf t cell = { engOf s cell with waiting := (engOf s cell).waiting ++ [d] }
        ∧ (∀ c, c ≠ cell → engOf t c = engOf s c)
        ∧ t.frame = s.frame ∧ t.caseMem = s.caseMem ∧ t.stats = s.stats))

/-- TRANSFER (R32, R236, R246) with shadow pages to spare: the bytes arrive in the staging of the cell that now runs the
destination's forme; every other byte of case memory reads as before; committed case memory stays. One that may not run, whose
destination's clock has stopped (R407), or that leaves case memory, moves nothing. One to a page that would be the destination cell's 513th
of the frame stores nothing: the frame is in doubt, the cell counts one event of "sequencer timeout", and, as every item, it completes;
a cell that has counted its event in the frame counts no second one (R34). -/
def Obligations.TransferMovesBytes : Prop :=
  (∀ s cell d, (mayRun s cell (.transfer d) = false ∨ epRuns s (.caseMem (redirect s d.dstCell) d.dst) = false ∨ 288 ≤ d.dstCell ∨ 2 ^ 23 < d.src + d.length ∨ 2 ^ 23 < d.dst + d.length) →
    exec (.transfer cell d) s = .next s)
  ∧ ∀ s cell d, mayRun s cell (.transfer d) = true → epRuns s (.caseMem (redirect s d.dstCell) d.dst) = true → d.dstCell < 288 → d.src + d.length ≤ 2 ^ 23 → d.dst + d.length ≤ 2 ^ 23 →
    shadowRoom s (redirect s d.dstCell) (d.length / 4096 + 2) = true →
    completes (.transfer cell d) s (fun t =>
      caseBytes t (redirect s d.dstCell) d.dst d.length = caseBytes s cell d.src d.length
      ∧ (∀ c off, off < 2 ^ 23 →
          (c = redirect s d.dstCell ∧ d.dst ≤ off ∧ off < d.dst + d.length) ∨ caseByte t c off = caseByte s c off)
      ∧ t.caseMem.mem = s.caseMem.mem
      ∧ t.frame = (finishItem cell (.transfer d) s).frame)
  ∧ (∀ s cell d, mayRun s cell (.transfer d) = true → epRuns s (.caseMem (redirect s d.dstCell) d.dst) = true → d.dstCell < 288 → d.src + d.length ≤ 2 ^ 23 →
    d.dst % 4096 + d.length ≤ 4096 → 0 < d.length → d.dst + d.length ≤ 2 ^ 23 →
    let c := redirect s d.dstCell
    s.caseMem.shadow.contains (2048 * c + d.dst / 4096) = false → 512 ≤ shadowCount s c →
    (s.caseMem.excess.contains c = false →
      exec (.transfer cell d) s = .next (finishItem cell (.transfer d) (countEvent .cell c 5
        (inDoubt { s with caseMem := { s.caseMem with excess := insertNat s.caseMem.excess c } })))
      ∧ (inFrame s = true → completes (.transfer cell d) s (fun t => t.frame.doubt = true ∧ t.caseMem.staged = s.caseMem.staged
        ∧ t.caseMem.mem = s.caseMem.mem)))
    ∧ (s.caseMem.excess.contains c = true → exec (.transfer cell d) s = .next (finishItem cell (.transfer d) s)))

/-- BEZEL_SLOT_GRANT (R182, R185, R187, R190, R384): outside the lock-up the slot goes to the first requester in the fixed order, but scrub keeps 1
of every 4,096, and a migration that waits every second one up to its 64 pages (the share of migration is the model's choice, log entry
20); a forme or host operation takes it only where the admission in force lets it, by a count that gathers that fraction, and else it goes to
the next in the order (the model's reading, log entry 40). The unit holds the grant and counts its slots since the last scrub and the last
migration; a forme's grant starts the unit's next item, and the reads of the granted operation pass the decoder in their order, those of a
scrub as SCRUB's do. In the lock-up, without a requester, and while the unit's clocks stand, nothing happens (R28, R38); while its stack
retrains, the reads under way fail (R411). The timeouts of a cell's sequencer and of a block's arbiter (R21, R22) count one event each:
"sequencer timeout" is source 5 of a cell, "arbiter timeout" source 2 of a block. -/
def Obligations.SlotGrantsAndTimeouts : Prop :=
  (∀ s unit pos (classes : List ReqClass) reads, stackRuns s unit = true → s.frame.lockUp = false →
      let u := unitOf s unit
      let c := Instr.bezelSlotGrant unit { pos := pos, classes := classes } reads
      let scrub := classes.contains .scrub = true ∧ 4095 ≤ u.sinceScrub
      let move := classes.contains .migration = true ∧ 1 ≤ u.sinceMig ∧ movedPages s unit < 64
      let free := classes.filter (fun q => q ≠ .forme ∧ q ≠ .host)
      let picks := fun (l : List ReqClass) (q : ReqClass) => (scrub ∧ q = .scrub) ∨ (¬ scrub ∧ move ∧ q = .migration)
        ∨ (¬ scrub ∧ ¬ move ∧ [ReqClass.inbound, .forme, .host, .firmware, .migration, .scrub].find? (fun r => l.contains r) = some q)
      let sum := Frac.add u.credit s.power.admitted
      let mine := reads.filter (fun r => pageStack r.page = unit)
      let given := fun (q : ReqClass) (credit : Frac) =>
        let s1 := setUnit unit { sinceScrub := if q = .scrub then 0 else u.sinceScrub + 1
                                 sinceMig := if q = .migration then 0 else u.sinceMig + 1
                                 granted := some q, credit := credit } s
        if q = .scrub then scrubWords mine [] s1
        else mine.foldl (fun s r => readWord r s) (if q = .forme then startUnitItem unit pos s1 else s1)
      (∀ q, picks classes q → q ≠ .forme → q ≠ .host → exec c s = .next (given q u.credit))
      ∧ (∀ q, picks classes q → (q = .forme ∨ q = .host) →
        (Frac.le (Frac.ofNat 1) sum = true → exec c s = .next (given q (Frac.sub sum (Frac.ofNat 1))))
        ∧ (Frac.le (Frac.ofNat 1) sum = false → ∀ r, picks free r → exec c s = .next (given r sum))
        ∧ (Frac.le (Frac.ofNat 1) sum = false → free = [] →
          exec c s = .next (if sum = u.credit then s else setUnit unit { u with credit := sum } s)))
      ∧ (classes = [] → exec c s = .next s))
  ∧ (∀ s unit waiting reads, (unitRuns s unit = false ∨ (stackRuns s unit = true ∧ s.frame.lockUp = true)) →
      exec (.bezelSlotGrant unit waiting reads) s = .next s)
  ∧ (∀ s unit waiting reads, unitRuns s unit = true → unit ∈ s.hbm.training →
      exec (.bezelSlotGrant unit waiting reads) s = .next (failedReads unit reads s))
  ∧ (∀ s n, exec (.sequencerTimeout n) s = .next (countEvent .cell n 5 s) ∧ exec (.arbiterTimeout n) s = .next (countEvent .block n 2 s))

/-- The bezel operations that formes, units and firmware issue (R190 to R194): one that is ready and that R193 allows, in pages that its
issuer may use, has its effect, sends its packets, and completes its item; one that is not allowed moves nothing, and completes its item
where it uses a host buffer or imports or exports microscaling data (R267, log entry 20); a stashed activation takes its table entry's
format (R197, log entry 36); one that is not ready leaves the state as it is. COPY between two ranges of HBM (R177,
R182, R193) whose destination has its local copies: the bytes land in local staging, and committed HBM keeps its contents; a listed
source word lists its place at the commit (R183). -/
def Obligations.BezelOperations : Prop :=
  (∀ s iss d,
      let run := fun (op : Nat) (fits : Bool) (f : State → State) (c : Instr) =>
        (opReady s iss op d = false → exec c s = .next s)
        ∧ (opReady s iss op d = true → opLegal op d = true → fits = true →
            exec c s = .next (finishOp iss op d (flushSends (f s))))
        ∧ (opReady s iss op d = true → (opLegal op d = false ∨ fits = false) →
            exec c s = .next (if hostSide d = true ∨ op = 6 ∨ op = 7 then finishOp iss op d s else s))
      run 1 (pagesFit s iss d.src d.rows && pagesFit s iss d.dst d.rows) (copyBytes d) (.copy iss d)
      ∧ run 2 (moveFits s iss (asStored s d) false) (Sys2Proof.Machine.reblock d) (.reblock iss d)
      ∧ run 3 (moveFits s iss (asStored s d) true) (Sys2Proof.Machine.transpose d) (.transpose iss d)
      ∧ run 4 (convertFits s iss d (blockBytes d.srcFmt) (blockBytes (asWritten s d).dstFmt))
          (writeRange d (rangeF32 s d) (rangeVal s d)) (.quantize iss d)
      ∧ run 5 (convertFits s iss d (blockBytes d.srcFmt) (blockBytes (asWritten s d).dstFmt))
          (writeRange { d with quant := 0 } (rangeDequant s d) (rangeVal s d)) (.dequantize iss d)
      ∧ run 6 (mxSideFits s iss d d.srcFmt d.src d.srcCols
          && sideFits s iss d.dst (blockBytes (asWritten s d).dstFmt) d.rowFirst d.colFirst d.cols d.dstCols d.rows)
          (Sys2Proof.Machine.mxImport d) (.mxImport iss d)
      ∧ run 7 (mxSideFits s iss d d.dstFmt d.dst d.dstCols
          && sideFits s iss d.src (blockBytes d.srcFmt) d.rowFirst d.colFirst d.cols d.srcCols d.rows)
          (Sys2Proof.Machine.mxExport d) (.mxExport iss d)
      ∧ run 8 true (Sys2Proof.Machine.reduceInit d) (.reduceInit iss d)
      ∧ run 9 (sideFits s iss d.src (if d.srcFmt = 0xFF then longTileBytes else blockBytes d.srcFmt)
          d.rowFirst d.colFirst d.cols d.srcCols d.rows) (if d.srcFmt = 0xFF then addLongForm d else addStored d) (.reduceAdd iss d)
      ∧ run 10 (convertFits s iss d longTileBytes (blockBytes (asWritten s d).dstFmt)) (Sys2Proof.Machine.reduceClose d)
          (.reduceClose iss d))
  ∧ (∀ s iss d a b, d.src = .hbm a → d.dst = .hbm b → opRuns s iss 1 d = true →
      pagesFit s iss d.src d.rows = true → pagesFit s iss d.dst d.rows = true →
      (∀ k ∈ pagesOf 65536 b d.rows, (SMap.get? s.hbm.localPages k).isSome = true) →
      completes (.copy iss d) s (fun t =>
        (∀ i, i < d.rows → SMap.get? t.hbm.localB (b + i) = some (hbmByte s (a + i)))
        ∧ (∀ x, x < b ∨ b + d.rows ≤ x → SMap.get? t.hbm.localB x = SMap.get? s.hbm.localB x)
        ∧ t.hbm.mem = s.hbm.mem
        ∧ ∀ i, i < d.rows / 32 → wordPoisoned s (a + 32 * i) = true → (b / 32 + i) ∈ t.hbm.poisonStaged))

/-- SCRUB and the decoder (R182, R183, R185): outside the lock-up a scrub spends the unit's slot; a clean word changes nothing else; a
corrected word of a committed page counts one corrected word and lists its row; a row listed before becomes weak; a word that cannot be
corrected counts, and once the re-read fails too it enters the poison table (R182 to R184) while the table has room; a full table asks
for retirement; while the stack retrains, the reads under way fail (R411). MIGRATION and the end of a retirement (R180, R187, R188): a
page that must move and has no local copy in another pseudo-channel takes one and keeps its committed bytes, a copy of the frame in
another pseudo-channel serves, a stack without a staging page overflows, and more than 64 pages a frame do not move; a retiring
pseudo-channel that no page uses becomes retired, and the stack's usable pages fall; one that pages still use, or that does not retire,
stays. -/
def Obligations.HbmScrubAndRepair : Prop :=
  (∀ s unit reads, ((unitRuns s unit = false ∨ (stackRuns s unit = true ∧ s.frame.lockUp = true)) → exec (.scrub unit reads) s = .next s)
      ∧ (unitRuns s unit = true → unit ∈ s.hbm.training → exec (.scrub unit reads) s = .next (failedReads unit reads s)))
  ∧ (∀ s unit u, stackRuns s unit = true → s.frame.lockUp = false → pageStack u.page = unit →
      let spent := setUnit unit { unitOf s unit with sinceScrub := 0, granted := some .scrub } s
      let failed := weaken u.page (u.word / 32) (onLife (fun l => { l with uncorrectable := l.uncorrectable + 1 })
        (countEvent .region (pageStack u.page / 2) (hbmSource 0x140 u.page) spent))
      let live := stagingPhys s u.page = false ∧ s.hbm.poison.contains (u.page, u.word) = false
      (exec (.scrub unit []) s = .next spent)
      ∧ ((rsDecode u.errors = .clean ∨ ¬ live) → exec (.scrub unit [u]) s = .next spent)
      ∧ (∀ b v, rsDecode u.errors = .corrected b v → live →
        exec (.scrub unit [u]) s = .next (scrubCorrected u.page (u.word / 32) (readWord u spent)))
      ∧ (rsDecode u.errors = .uncorrectable → live → exec (.scrub unit [u]) s = .next failed
        ∧ exec (.scrub unit [u, u]) s = .next (uncorrectable u.page u.word true failed)))
  ∧ (∀ t phys row,
      (t.hbm.corrected.contains (phys, row) = false →
        (scrubCorrected phys row t).hbm.corrected = t.hbm.corrected ++ [(phys, row)])
      ∧ (t.hbm.corrected.contains (phys, row) = true → scrubCorrected phys row t = weaken phys row t))
  ∧ (∀ s phys word k, pageOfPhys s phys = some k → s.hbm.poison.contains (phys, word) = false →
      (poisonCount s (pageStack phys) < 1024 → (phys, word) ∈ (enterPoison phys word s).hbm.poison)
      ∧ (1024 ≤ poisonCount s (pageStack phys) → enterPoison phys word s = askRetire s))
  ∧ ((∀ s unit page e, stackRuns s unit = true → pageEnt s page = some e → s.frame.lockUp = false → pageStack page = unit →
        mustMove s (physOf s page) = true → s.hbm.migrated.contains page = false → movedPages s unit < 64 →
        let stays := ∀ q, SMap.get? s.hbm.localPages page = some q → pagePc q = pagePc (physOf s page)
        let room := freePages s unit ≠ 0 ∧ (SMap.get? s.hbm.localPages page = none → canStage s unit = true)
        (stays → room → freeElsewhere s unit (pagePc (physOf s page)) ≠ 0 →
          completes (.migration unit page) s (fun t =>
            (SMap.get? t.hbm.localPages page).isSome = true ∧ page ∈ t.hbm.migrated ∧ t.hbm.mem = s.hbm.mem ∧ t.hbm.map = s.hbm.map))
        ∧ (stays → room → freeElsewhere s unit (pagePc (physOf s page)) = 0 → exec (.migration unit page) s = .next s)
        ∧ (stays → ¬ room → exec (.migration unit page) s = .next (stagingOverflow unit s))
        ∧ (∀ q, SMap.get? s.hbm.localPages page = some q → pagePc q ≠ pagePc (physOf s page) →
          exec (.migration unit page) s = .next { s with hbm := { s.hbm with migrated := s.hbm.migrated ++ [page] } }))
      ∧ (∀ s unit page, (pageEnt s page = none ∨ pageStack page ≠ unit ∨ mustMove s (physOf s page) = false
          ∨ s.hbm.migrated.contains page = true ∨ 64 ≤ movedPages s unit ∨ s.frame.lockUp = true ∨ stackRuns s unit = false) →
        exec (.migration unit page) s = .next s)
      ∧ (∀ s stack pc, unitRuns s stack = true → s.hbm.retiring.contains (stack, pc) = true → pcEmpty s stack pc = true →
        completes (.pcRetirementDone stack pc) s (fun t =>
          (stack, pc) ∈ t.hbm.retired ∧ (stack, pc) ∉ t.hbm.retiring
          ∧ t.hbm.usable = setAt s.hbm.usable stack (s.hbm.usable.getD stack 0 - pcPages s stack pc)
          ∧ (stack, pc) ∈ t.flash.retired))
      ∧ (∀ s stack pc, (unitRuns s stack = false ∨ s.hbm.retiring.contains (stack, pc) = false ∨ pcEmpty s stack pc = false) →
        exec (.pcRetirementDone stack pc) s = .next s))

/-! ### The training step -/

/-- UPDATE (R216, R222, R224, R227, R354): in the first optimizer frame of an applied step it updates every tile of its range; in a
skipped step it quantizes the working copies again that changed or are poisoned, and in a regeneration frame all of them; in a later
optimizer frame, in a step without a decision, outside the optimizer phase, in the lock-up and without its stack's clocks it does
nothing. DECISION (R209, R211, R215, R221): with every member's items, and this chip's as the exchange formes have sent them, it stages
the new record, table and constants, and leaves the committed record as it is; the step is skipped when a member votes so or the
combined norm is not finite, and then the constants stay; else it is applied. Before every member has contributed, outside the decision
frame, with a stalled group (R335), and while the clock of a page that it reads or writes is stopped (R407), it stages nothing. That a chip's
share of the norm is one long word (`ownShare`) is the model's choice (log entry 21), as are the steps whose statistics the record takes
(log entry 23) and the count of a member's contributions (log entry 34). -/
def Obligations.TrainingStep : Prop :=
  (∀ s unit entry first count o, stackRuns s unit = true → inOptimizer s = true → s.frame.lockUp = false → optEntry s entry = some o →
      let tiles := (List.range count).map (· + first)
      let opens := s.frame.formeIdx = (stepShape s).opt
      (s.step.regen = true → exec (.update unit entry first count) s = .next (tiles.foldl (requantTile unit o) s))
      ∧ (s.step.regen = false → opens → s.step.record.outcome = 1 →
        exec (.update unit entry first count) s = .next (tiles.foldl (updateTile unit entry o) s))
      ∧ (s.step.regen = false → opens → s.step.record.outcome = 2 →
        exec (.update unit entry first count) s = .next (tiles.foldl (requantTile unit o) s))
      ∧ (s.step.regen = false → (¬ opens ∨ (s.step.record.outcome ≠ 1 ∧ s.step.record.outcome ≠ 2)) →
        exec (.update unit entry first count) s = .next s))
  ∧ (∀ s unit entry first count, (stackRuns s unit = false ∨ inOptimizer s = false ∨ s.frame.lockUp = true ∨ optEntry s entry = none) →
      exec (.update unit entry first count) s = .next s)
  ∧ (∀ s i lossAt others, coreRuns s = true → decisionRuns s = true → s.image.img = some i → inDecision s = true → s.frame.lockUp = false → s.fabric.stalled = [] →
      allContribute s others = true →
      let c := others.foldl Combined.with (ownShare s i lossAt)
      completes (.decision lossAt others) s (fun t =>
        t.step.record = s.step.record
        ∧ t.step.recStaged = some (decideRecord i c s.step.record)
        ∧ t.stats.lastStaged = some c.stats
        ∧ t.step.cmpLastStaged = some c.compares
        ∧ ((c.vote = true ∨ f32Finite c.norm.round = false) →
            (decideRecord i c s.step.record).outcome = 2 ∧ t.step.constsStaged = s.step.constsStaged)
        ∧ (c.vote = false → f32Finite c.norm.round = true →
            (decideRecord i c s.step.record).outcome = 1
            ∧ t.step.constsStaged = some (i.opt.map (stepConst i.points (f32OfNat (s.step.record.applied.toNat + 1)))))
        ∧ t.step.tableStaged = some (policyTable s i.policy ((decideRecord i c s.step.record).outcome == 2) c.stats)))
  ∧ (∀ s lossAt others, (coreRuns s = false ∨ decisionRuns s = false ∨ inDecision s = false ∨ s.frame.lockUp = true ∨ s.fabric.stalled ≠ []
      ∨ allContribute s others = false) → exec (.decision lossAt others) s = .next s)

/-! ### The Clasp fabric, spares, fault sources -/

/-- WRITE_PACKET for this chip and this frame (R32, R177, R181, R183, R246, R321, R324): whose range lies in one mapped page that is not
private and has its carried copy, the bytes join the carried writes, the words it names as poison wait for the commit and the words it
writes whole wait no more, committed HBM stays, and the running count of its source rises by 1; to a private page it stores nothing; to an
unmapped one it puts the frame in doubt and counts a parity event. To case memory, with shadow pages to spare, it lands in the staging of the
cell that now runs the destination's forme, as inbound bytes; one to a cell that is not ACTIVE, or past the end of case memory, is discarded
(R321). The four data packets (R318, R321, R323, R324, R325, R327, R407): the flits of
one that arrives leave the port's buffer and go back as a link credit; one that is not of this frame stores nothing; one whose destination's
clock has stopped waits; one for another chip goes on, with its hop count lowered, through the port that its route picks, at once where
nothing waits there and the port has the credits and the room, or is discarded at its last hop, without a usable port and on a port that is
down; on a link that carries nothing, and in a region whose clocks have stopped (R311), none changes the state. The table's entry for the
chip's own address is ignored (R326, `routeMask`). The words that a packet names as poison, `PktHdr.listed`, are the model's field (log entry
20); that the chip which consumes a packet does not count its hop, and that a credit follows every packet, is its reading (log entry 25), as is
the number of flits of a packet (log entry 27). -/
def Obligations.WritePackets : Prop :=
  (∀ s port h payload a, claspUp (claspOf port s) = true → portLive port s = true → forMe h s = true → h.frame = frameNo s → payloadOk payload = true →
      h.endpoint = .hbm a → epRuns s h.endpoint = true → a % 65536 + payload.length ≤ 65536 →
      let s1 := drainFlits port payload.length s
      (∀ k, pageClass s (a / 65536) = some k → classPrivate k = false → (SMap.get? s.hbm.carPages (a / 65536)).isSome = true →
        completes (.writePacket port h payload) s (fun t =>
          t.hbm.carried = s.hbm.carried ++ [{ host := false, addr := a, bytes := payload }]
          ∧ t.hbm.poisonIn = h.listed.foldl (fun l w => insertNat l (a / 32 + w))
              (s.hbm.poisonIn.filter (fun w => !coversWord a payload.length w))
          ∧ t.hbm.mem = s.hbm.mem
          ∧ SMap.getD t.fabric.recv h.src 0 = SMap.getD s.fabric.recv h.src 0 + 1))
      ∧ (∀ k, pageClass s (a / 65536) = some k → classPrivate k = true → exec (.writePacket port h payload) s = .next s1)
      ∧ (pageClass s (a / 65536) = none →
        exec (.writePacket port h payload) s = .next (countEvent .region (addrStack a / 2 % 4) 1 (inDoubt s1))))
  ∧ (∀ s port h payload c o, claspUp (claspOf port s) = true → portLive port s = true → forMe h s = true → h.frame = frameNo s → payloadOk payload = true →
      h.endpoint = .caseMem c o → epRuns s h.endpoint = true → caseOpen s c o payload.length = true →
      shadowRoom s (redirect s c) 6 = true →
      completes (.writePacket port h payload) s (fun t =>
        caseBytes t (redirect s c) o payload.length = payload
        ∧ (∀ i, i < payload.length → SMap.get? t.caseMem.inbound (caseKey (redirect s c) (o + i)) = some (payload.getD i 0))
        ∧ t.caseMem.mem = s.caseMem.mem
        ∧ SMap.getD t.fabric.recv h.src 0 = SMap.getD s.fabric.recv h.src 0 + 1))
  ∧ (∀ s port h payload c o, claspUp (claspOf port s) = true → portLive port s = true → forMe h s = true → h.frame = frameNo s →
      h.endpoint = .caseMem c o → epRuns s h.endpoint = true → caseOpen s c o payload.length = false →
      exec (.writePacket port h payload) s = .next (drainFlits port payload.length s))
  ∧ (∀ s port h off payload, ∀ x ∈ [((1, false, h.endpoint), h, Instr.writePacket port h payload),
        ((2, false, h.endpoint), h, .reduceWritePacket port h payload),
        ((3, false, h.endpoint), h, .longPartialPacket port h payload),
        ((1, true, transferPlace s h off payload.length), { h with snapshot := true, endpoint := .hbm off }, .snapshotTransferPacket port h off payload)],
      let s1 := drainFlits port payload.length s
      let way := pickPort s (routeMask s h.dst) h.src h.dst h.flow
      let goesOn := fun p => OutMsg.data (some p) x.1.1 { x.2.1 with hops := h.hops - 1 } payload
      ((claspUp (claspOf port s) = false ∨ portLive port s = false) → exec x.2.2 s = .next s)
      ∧ (claspUp (claspOf port s) = true → portLive port s = true → forMe h s = true → h.frame ≠ frameNo s → exec x.2.2 s = .next s1)
      ∧ (claspUp (claspOf port s) = true → portLive port s = true → forMe h s = true → h.frame = frameNo s → epRuns s x.1.2.2 = false →
        exec x.2.2 s = .next { s with hbm := { s.hbm with
          pktWaits := s.hbm.pktWaits ++ [{ port := port, kind := x.1.1, slot := x.1.2.1, h := x.2.1, payload := payload }] } })
      ∧ (claspUp (claspOf port s) = true → portLive port s = true → forMe h s = false → (h.hops ≤ 1 ∨ way = none) → exec x.2.2 s = .next s1)
      ∧ (∀ p, claspUp (claspOf port s) = true → portLive port s = true → forMe h s = false → 1 < h.hops → way = some p →
        exec x.2.2 s = .next (sendOn p (goesOn p) s1)
        ∧ (claspUp (claspOf p s) = false → sendOn p (goesOn p) s1 = s1)
        ∧ (claspUp (claspOf p s) = true → portLive p s = true → p ≠ port → (claspOf p s).ctl = [] → (claspOf p s).queue = [] →
          packetFlits payload.length ≤ (claspOf p s).credits → (claspOf p s).replay.length + packetFlits payload.length ≤ 2048 →
          goesOn p ∈ (sendOn p (goesOn p) s1).fabric.out)))

/-- REDUCE_WRITE_PACKET and LONG_PARTIAL_PACKET (R194, R321) into REDUCE pages that have their inbound delta pages: each block
adds into its delta tile, a long tile or a lane partial combines under R91, a rounded tile adds its FP32 elements, and the packet counts
as delivered. A long partial to one page of another class that is not private lands as bytes. A packet of a length that R321 does not
allow, a contribution to pages that are not REDUCE pages, one to case memory, and a long partial to a cell that is not ACTIVE store nothing;
one to an unmapped page puts the frame in doubt and counts a parity event (R181); a long partial to an ACTIVE cell lands in its staging. The
poison names that a packet carries, `PktHdr.listed`, and the forms of a delta tile under max, min and OR are the model's (log entry 20).
SNAPSHOT_TRANSFER_PACKET (R183, R342, R347): the first header of an identity binds a slot that is free and large
enough; then the bytes are written in place, the words that it names as poison are listed, the header is read again where the packet covers
it, and the packet counts as delivered; without a slot, or beyond its end, it stores nothing; one of a generation that this chip restores, which
the model's packets say of themselves (log entry 32), goes to this chip's own placements and is kept for the end of the restore (R352), and
counts; without a restore from its source it stores nothing. Packets to memory whose clock has stopped wait (R407),
as the statement of the write packets says. -/
def Obligations.ReduceAndSnapshotPackets : Prop :=
  (∀ s port h payload a, claspUp (claspOf port s) = true → portLive port s = true → forMe h s = true → h.frame = frameNo s → h.endpoint = .hbm a →
      epRuns s h.endpoint = true →
      let s1 := drainFlits port payload.length s
      let ready := fun (n : Nat) => ∀ k ∈ pagesOf 65536 a n,
        pageClass s k = some 3 ∧ (SMap.get? s.hbm.deltaPages (2 * k + 1)).isSome = true
      let n := payload.length
      let isPartial := n = longTileBytes ∨ n = roundedTileBytes ∨ n = lanePartialBytes
      (fmtLegal h.fmt = true → payloadOk payload = true → n / blockBytes h.fmt * blockBytes h.fmt = n →
        ready (n / blockBytes h.fmt * longTileBytes) →
        exec (.reduceWritePacket port h payload) s = .next (noteContribution h (countPacket h
          ((List.range (n / blockBytes h.fmt)).foldl (fun s i => addBlock 1 h.tensor h.op h.fmt (a + i * longTileBytes)
            (fun k => payload.getD (i * blockBytes h.fmt + k) 0) s) s1))))
      ∧ ((fmtLegal h.fmt = false ∨ payloadOk payload = false ∨ n / blockBytes h.fmt * blockBytes h.fmt ≠ n) →
        exec (.reduceWritePacket port h payload) s = .next s1)
      ∧ (isPartial → ready n →
        exec (.longPartialPacket port h payload) s = .next (noteContribution h (countPacket h
          (if h.rounded then addRounded 1 h.tensor a (fun i => payload.getD i 0) s1
           else addLongTile 1 h.tensor a (n == lanePartialBytes) (LTile.parse (fun i => payload.getD i 0)) s1))))
      ∧ (fmtLegal h.fmt = true → payloadOk payload = true → n / blockBytes h.fmt * blockBytes h.fmt = n →
        let ks := pagesOf 65536 a (n / blockBytes h.fmt * longTileBytes)
        ((∃ k ∈ ks, pageClass s k = none) → exec (.reduceWritePacket port h payload) s
          = .next (countEvent .region (addrStack a / 2 % 4) 1 (inDoubt s1)))
        ∧ ((∀ k ∈ ks, pageClass s k ≠ none) → (∃ k ∈ ks, pageClass s k ≠ some 3) → exec (.reduceWritePacket port h payload) s = .next s1))
      ∧ (isPartial → (∃ k ∈ pagesOf 65536 a n, pageClass s k = none) → exec (.longPartialPacket port h payload) s
          = .next (countEvent .region (addrStack a / 2 % 4) 1 (inDoubt s1)))
      ∧ (∀ c, isPartial → a % 65536 + n ≤ 65536 → pageClass s (a / 65536) = some c → c ≠ 3 → classPrivate c = false →
        (SMap.get? s.hbm.carPages (a / 65536)).isSome = true → completes (.longPartialPacket port h payload) s (fun t =>
          t.hbm.carried = s.hbm.carried ++ [{ host := false, addr := a, bytes := payload }] ∧ t.hbm.mem = s.hbm.mem
          ∧ SMap.getD t.fabric.recv h.src 0 = SMap.getD s.fabric.recv h.src 0 + 1))
      ∧ (¬ isPartial → exec (.longPartialPacket port h payload) s = .next s1))
  ∧ (∀ s port h payload c o, claspUp (claspOf port s) = true → portLive port s = true → forMe h s = true → h.frame = frameNo s →
      h.endpoint = .caseMem c o → epRuns s h.endpoint = true →
      let s1 := drainFlits port payload.length s
      let n := payload.length
      exec (.reduceWritePacket port h payload) s = .next s1
      ∧ (caseOpen s c o n = false → exec (.longPartialPacket port h payload) s = .next s1)
      ∧ ((n = longTileBytes ∨ n = roundedTileBytes ∨ n = lanePartialBytes) → caseOpen s c o n = true → shadowRoom s (redirect s c) 6 = true →
        completes (.longPartialPacket port h payload) s (fun t =>
          caseBytes t (redirect s c) o n = payload ∧ t.caseMem.mem = s.caseMem.mem
          ∧ SMap.getD t.fabric.recv h.src 0 = SMap.getD s.fabric.recv h.src 0 + 1)))
  ∧ (∀ s port h off payload, claspUp (claspOf port s) = true → portLive port s = true → forMe h s = true → h.frame = frameNo s →
      epRuns s (transferPlace s h off payload.length) = true →
      let s1 := drainFlits port payload.length s
      let h1 := { h with snapshot := true, endpoint := .hbm off }
      let slot := if off = 0 ∧ payload.length = 64 then (readHdr payload).bind (fun g => bindSlot s h.src g.bytes) else slotOfId s h.src
      (payloadOk payload = true → h.served = true → restoredFrom s h.src = true →
        exec (.snapshotTransferPacket port h off payload) s
          = .next (noteContribution h1 (countPacket h1 (landServed off h.listed payload s1))))
      ∧ (h.served = true → restoredFrom s h.src = false → exec (.snapshotTransferPacket port h off payload) s = .next s1)
      ∧ (∀ n base size, payloadOk payload = true → h.served = false → slot = some n → slotBase s n = some (base, size) →
        (off + payload.length ≤ dataOff + size →
          let put := listSlot base off h.listed (putSlot base off payload s1)
          exec (.snapshotTransferPacket port h off payload) s = .next (noteContribution h1 (countPacket h1
            (if off < 64 then takeHeader h.src n base put else put))))
        ∧ (dataOff + size < off + payload.length → exec (.snapshotTransferPacket port h off payload) s = .next s1))
      ∧ (payloadOk payload = false → exec (.snapshotTransferPacket port h off payload) s = .next s1)
      ∧ (h.served = false → slot = none → exec (.snapshotTransferPacket port h off payload) s = .next s1))

/-- HOLD_PACKET (R29, R42, R45 to R47, R54, R272, R328, R407): one forwarded before, on a link that carries nothing, or in a region whose clocks have
stopped, changes nothing; a new one goes out with its hop count raised, below 64, on every other port of the usable set that carries data, at once
where no control packet waits there and the replay buffer has room, and is kept among those forwarded. A chip whose core runs, that takes part and
whose target tick lies ahead, knows the hold from then on. One whose target tick has passed makes the chip unaligned until a restore, and a chip in a
frame of work HELD, one in SNAPSHOTTING behind its stop, unless it withheld that tick too or the hold is void. A chip that takes no part, and a FAILED
one, only forwards it. GROUP_TIMEOUT (R298, R333, R334): when a wait of a running or held chip reaches its group's timeout, the group is stalled, the
wait ends, the chip is HELD, and the PROOF and the SNAPSHOT under way end; before that nothing changes. That the PROOF ends with its group is the
model's reading (log entry 32). -/
def Obligations.HoldsAndStalls : Prop :=
  (∀ s port hops origin late frame,
      let h : HoldRec := { origin := origin, frame := frame, late := late }
      let keys := if hops + 1 < 64 then s.frame.forwarded ++ [h] else s.frame.forwarded
      let forwards := fun (t : State) => t.frame.forwarded = keys
        ∧ t.fabric = (if hops + 1 < 64 then floodHold (some port) (hops + 1) h s else s).fabric
        ∧ (hops + 1 < 64 → ∀ p ∈ s.fabric.usable, p ≠ port → claspUp (claspOf p s) = true → portLive p s = true → (claspOf p s).ctl = [] →
          (claspOf p s).replay.length < 2048 → .hold p (hops + 1) h ∈ t.fabric.out)
      ((claspUp (claspOf port s) = false ∨ portLive port s = false ∨ s.frame.forwarded.contains h = true) →
        exec (.holdPacket port hops origin late frame) s = .next s)
      ∧ (claspUp (claspOf port s) = true → portLive port s = true → s.frame.forwarded.contains h = false →
        (takesPart s = true → coreRuns s = true → targetAhead h s = true → completes (.holdPacket port hops origin late frame) s (fun t =>
          forwards t ∧ t.frame.known = (if s.frame.known.contains h then s.frame.known else s.frame.known ++ [h]) ∧ t.dev = s.dev))
        ∧ ((takesPart s = false ∨ coreRuns s = false
            ∨ (targetAhead h s = false ∧ (s.frame.withheldAt = some (holdTarget h) ∨ holdVoid s h = true))) →
          completes (.holdPacket port hops origin late frame) s (fun t =>
            forwards t ∧ t.frame.known = s.frame.known ∧ t.dev = s.dev))
        ∧ (takesPart s = true → coreRuns s = true → targetAhead h s = false → s.frame.withheldAt ≠ some (holdTarget h) →
          holdVoid s h = false → completes (.holdPacket port hops origin late frame) s (fun t =>
            t.frame.forwarded = keys ∧ t.frame.known = s.frame.known
            ∧ t.dev.unaligned = true ∧ t.dev.lostTick = true
            ∧ (s.dev.state = .snapshotting → t.dev.state = .snapshotting ∧ t.dev.left = some .held)
            ∧ (s.dev.state ≠ .snapshotting → t.dev.state = (if inFrame s then .held else s.dev.state))))))
  ∧ (∀ s g grp w, coreRuns s = true → groupAt s g = some grp → SMap.get? s.fabric.waits g = some w →
      grp.timeout ≤ (s.tick.count - w.since).toNat → (s.dev.state = .running ∨ s.dev.state = .held) →
      completes (.groupTimeout g) s (fun t =>
        g ∈ t.fabric.stalled ∧ t.dev.state = .held ∧ SMap.get? t.fabric.waits g = none ∧ t.step.proof = none ∧ t.snap.run = none
        ∧ t.frame.stuck = false))
  ∧ (∀ s g, (coreRuns s = false ∨ groupAt s g = none ∨ SMap.get? s.fabric.waits g = none
      ∨ (s.dev.state ≠ .running ∧ s.dev.state ≠ .held)
      ∨ (∃ grp w, groupAt s g = some grp ∧ SMap.get? s.fabric.waits g = some w ∧ (s.tick.count - w.since).toNat < grp.timeout)) →
      exec (.groupTimeout g) s = .next s)

/-- CREDIT (R312, R313, R320, R323): on a link that carries data the port's credits rise, up to 2,048, and the flits that wait leave:
each takes the next sequence number and stays in the replay buffer, a data flit takes a credit, and in the end nothing waits, or no
credit is left and no control packet waits, or the replay buffer is full (the model's reading, log entry 27); every other port stays.
DELIVERY_CREDIT (R324, R327): one of this frame for this chip raises what its source has counted of the frame's sends; one of another
frame changes nothing; one for another chip goes on through the port that its route picks and leaves the sends. FLIT_RECEIVED (R311, R312,
R313, R318, R370): the FEC counters take the codeword that ends in the flit, one corrected or uncorrectable, and the symbols corrected on each
lane; a flit that fails its CRC or its FEC is dropped and a nak names the last good number; a good
one acknowledges what was sent, a nak in it starts the replay, and a data or control flit with the awaited number advances it, a data
flit's payload joining the port's buffer. None of the three does anything on a link that carries nothing; in a region whose clocks have stopped
nothing leaves, and a delivery credit waits unread (R407). -/
def Obligations.CreditsAndFlits : Prop :=
  let only := fun (s t : State) => t = { s with fabric := { s.fabric with ports := t.fabric.ports, out := t.fabric.out, wire := t.fabric.wire } }
  ((∀ s port freed, claspUp (claspOf port s) = true → portLive port s = true → completes (.credit port freed) s (fun t =>
        let c := claspOf port s
        let d := claspOf port t
        (∃ new : List Flit, d.replay = c.replay ++ new
          ∧ t.fabric.wire = s.fabric.wire ++ new.map (fun f => (port, f.leaves c))
          ∧ new.map (·.seq) = (List.range new.length).map (fun i => c.txSeq + BitVec.ofNat 16 i)
          ∧ d.txSeq = c.txSeq + BitVec.ofNat 16 new.length
          ∧ d.credits + (new.filter (fun f => f.kind = 1)).length = Nat.min 2048 (c.credits + freed))
        ∧ ((d.ctl = [] ∧ (d.queue = [] ∨ d.credits = 0)) ∨ 2048 ≤ d.replay.length)
        ∧ (∀ p, p ≠ port → claspOf p t = claspOf p s)
        ∧ only s t))
      ∧ (∀ s port freed, claspUp (claspOf port s) = true → portLive port s = false → exec (.credit port freed) s
        = .next (onClasp port (fun c => { c with credits := Nat.min 2048 (c.credits + freed) }) s))
      ∧ (∀ s port src frame n, claspUp (claspOf port s) = true → portLive port s = true → s.dev.fabric ≠ 0xFFFF →
        (frame = frameNo s → exec (.deliveryCredit port s.dev.fabric src frame n) s
          = .next { s with fabric := { s.fabric with
              sends := s.fabric.sends.map (fun r => if r.dst = src then { r with acked := Nat.max r.acked n } else r) } })
        ∧ (frame ≠ frameNo s → exec (.deliveryCredit port s.dev.fabric src frame n) s = .next s))
      ∧ (∀ s port dst src frame n, claspUp (claspOf port s) = true → portLive port s = true → (dst ≠ s.dev.fabric ∨ s.dev.fabric = 0xFFFF) →
        let way := pickPort s (routeMask s dst) src dst 0
        (∀ p, way = some p → claspUp (claspOf p s) = true → completes (.deliveryCredit port dst src frame n) s (fun t =>
          t = sendOn p (.delivery (some p) dst src frame n) s ∧ t.fabric.sends = s.fabric.sends ∧ only s t
          ∧ (portLive p s = true → (claspOf p s).ctl = [] → (claspOf p s).replay.length < 2048 → .delivery (some p) dst src frame n ∈ t.fabric.out)))
        ∧ ((way = none ∨ ∃ p, way = some p ∧ claspUp (claspOf p s) = false) →
          exec (.deliveryCredit port dst src frame n) s = .next s))
      ∧ (∀ s port, claspUp (claspOf port s) = false → ∀ freed dst src frame n flit bad word,
        exec (.credit port freed) s = .next s ∧ exec (.deliveryCredit port dst src frame n) s = .next s
        ∧ exec (.flitReceived port flit bad word) s = .next s)
      ∧ (∀ s port dst src frame n, portLive port s = false → exec (.deliveryCredit port dst src frame n) s = .next s))
  ∧ (∀ s p flit bad word, claspUp (claspOf p s) = true →
      let c := claspOf p s
      let kind := fieldN flit 4 1
      let ack := BitVec.ofNat 16 (fieldN flit 2 2)
      let numbered := kind % 4 = 1 ∨ kind % 4 = 2
      let fecBad := match word with
        | some w => if w.bad then hold32 (c.fecBad + 1) else c.fecBad
        | none => c.fecBad
      let fecOk := match word with
        | some w => if w.bad = false ∧ ∃ k ∈ w.symbols, k ≠ 0 then hold32 (c.fecOk + 1) else c.fecOk
        | none => c.fecOk
      let lanes := match word with
        | some w => if w.bad then c.laneFec else (List.range 8).map (fun l => c.laneFec.getD l 0 + w.symbols.getD l 0)
        | none => c.laneFec
      ((bad = true ∨ flitCrcOk flit = false) → completes (.flitReceived p flit bad word) s (fun t =>
        t.fabric.out = s.fabric.out ++ [.nak p (c.rxSeq - 1)]
        ∧ t.fabric.wire = s.fabric.wire ++ [(p, flitBytes 0 (c.rxSeq - 1) 0 true [])]
        ∧ (claspOf p t).rxSeq = c.rxSeq ∧ (claspOf p t).replay = c.replay ∧ (claspOf p t).rx = c.rx
        ∧ (claspOf p t).fecBad = fecBad ∧ (claspOf p t).fecOk = fecOk ∧ (claspOf p t).laneFec = lanes))
      ∧ (bad = false → flitCrcOk flit = true → bitOf kind 2 = false → completes (.flitReceived p flit bad word) s (fun t =>
        let d := claspOf p t
        let taken := numbered ∧ fieldN flit 0 2 = c.rxSeq.toNat
        d.rxSeq = (if taken then c.rxSeq + 1 else c.rxSeq)
        ∧ d.rx = (if taken ∧ kind % 4 = 1 then c.rx ++ sliceB flit 8 (Nat.min 244 (fieldN flit 6 2)) else c.rx)
        ∧ (∃ new : List Flit, d.replay = c.replay.filter (fun f => 0x8000 ≤ (ack - f.seq).toNat) ++ new
          ∧ (c.ctl = [] → c.queue = [] → new = []))
        ∧ d.ackSeq = ack
        ∧ d.fecOk = fecOk ∧ d.fecBad = fecBad ∧ d.laneFec = lanes
        ∧ only s t))
      ∧ (bad = false → flitCrcOk flit = true → bitOf kind 2 = true →
        let x := takeNak p (takeAck p ack (countFec p word s))
        exec (.flitReceived p flit bad word) s = .next (if numbered ∧ fieldN flit 0 2 = (claspOf p x).rxSeq.toNat then
          takeFlit p (kind % 4) flit x else x)))
  ∧ (∀ s p,
      let x := countEvent .chip 0 (0x10 + p) (onClasp p (fun c => { c with retries := hold32 (c.retries + 1) }) s)
      let c := claspOf p x
      (claspUp c = true → c.replay ≠ [] → c.replays < 16 →
        (takeNak p s).fabric.out = x.fabric.out ++ [.replay p (c.replay.map (·.seq))]
        ∧ (claspOf p (takeNak p s)).replay = c.replay ∧ (claspOf p (takeNak p s)).replays = c.replays + 1)
      ∧ (claspUp c = true → c.replay ≠ [] → 16 ≤ c.replays → (claspOf p (takeNak p s)).state = 4))

/-- Lanes and links (R314 to R316, R318, R327): a link that falls is DOWN with no lane and three retries left, and its waiting packets
are gone; a retry trains it once more and tells the other end who the chip is; a training that locks at least 4 lanes within 1,000 ns
brings the link up, DEGRADED below 8 lanes, with clear counters; one above 1,000 ns is TOO_LONG; one that does not lock is DOWN; a lost
lane counts one event and leaves a link of 4 or more lanes DEGRADED, one of fewer DOWN. Each changes nothing where its port is not in
the state it needs. -/
def Obligations.LinksTrainAndFall : Prop :=
  (∀ s p, (claspUp (claspOf p s) = true → completes (.linkDown p) s (fun t =>
      (claspOf p t).state = 4 ∧ (claspOf p t).lanes = 0 ∧ (claspOf p t).retriesLeft = 3 ∧ (claspOf p t).byItself = true
      ∧ (claspOf p t).ctl = [] ∧ (claspOf p t).queue = [] ∧ (∀ q, q ≠ p → claspOf q t = claspOf q s) ∧ t.fabric.out = s.fabric.out))
    ∧ (claspUp (claspOf p s) = false → exec (.linkDown p) s = .next s))
    ∧ (∀ s p, let c := claspOf p s
      (c.enabled = true → c.state = 4 → c.byItself = true → 0 < c.retriesLeft → completes (.linkRetry p) s (fun t =>
        (claspOf p t).state = 1 ∧ (claspOf p t).retriesLeft = c.retriesLeft - 1 ∧ (∀ q, q ≠ p → claspOf q t = claspOf q s)
        ∧ t.fabric.out = s.fabric.out ++ [.training p s.dev.uid s.dev.fabric (s.tick.aligned && !s.dev.unaligned)]))
      ∧ ((c.enabled = false ∨ c.state ≠ 4 ∨ c.byItself = false ∨ c.retriesLeft = 0) → exec (.linkRetry p) s = .next s))
    ∧ (∀ s p r, ((claspOf p s).state = 1 → completes (.linkTrainingDone p r) s (fun t =>
      (∀ q, q ≠ p → claspOf q t = claspOf q s)
      ∧ (r.locked = true → 4 ≤ laneCount r.lanes → r.delayNs ≤ 1000 →
        (claspOf p t).lanes = r.lanes ∧ (claspOf p t).neighbour = r.neighbour ∧ (claspOf p t).nport = r.nport
          ∧ (claspOf p t).nuid = r.nuid ∧ (claspOf p t).delay = r.delayNs
          ∧ (claspOf p t).state = (if laneCount r.lanes = 8 then 2 else 3)
          ∧ (claspOf p t).naligned = r.naligned ∧ (claspOf p t).credits = 2048 ∧ (claspOf p t).ctl = [] ∧ (claspOf p t).queue = []
          ∧ (claspOf p t).txSeq = 0 ∧ (claspOf p t).rxSeq = 0 ∧ (claspOf p t).replay = [] ∧ (claspOf p t).rx = [])
      ∧ (r.locked = true → 4 ≤ laneCount r.lanes → 1000 < r.delayNs →
        (claspOf p t).state = 5 ∧ (claspOf p t).lanes = 0 ∧ (claspOf p t).delay = r.delayNs)
      ∧ ((r.locked = false ∨ laneCount r.lanes < 4) →
        (claspOf p t).state = 4 ∧ (claspOf p t).lanes = 0 ∧ (claspOf p t).byItself = true)))
      ∧ ((claspOf p s).state ≠ 1 → exec (.linkTrainingDone p r) s = .next s))
    ∧ (∀ s p lane, (laneActive p lane s = false → exec (.laneLoss p lane) s = .next s)
      ∧ (laneActive p lane s = true →
        let left := (claspOf p s).lanes &&& ~~~(BitVec.ofNat 8 (p2 lane))
        exec (.laneLoss p lane) s = .next (countSimple .chip 0 (0x30 + p) false false true (removeLane p lane s))
        ∧ (4 ≤ laneCount left → (claspOf p (removeLane p lane s)).state = 3 ∧ (claspOf p (removeLane p lane s)).lanes = left)
        ∧ (laneCount left < 4 → (claspOf p (removeLane p lane s)).state = 4 ∧ (claspOf p (removeLane p lane s)).retriesLeft = 3)))

/-- SPARE_LOAD and re-imposition (R246 to R251): a spare that waits for its contents takes its carry pages as their mirrors are
committed and stops waiting; a region whose set fits and passes the loader's checks runs on it, and with nothing left to do the
re-imposition ends; a set that is missing, is used up or does not fit, a stack whose neighbour has too few pages, and a time that has
run out fail: the chip is in RETIRE_REQUESTED and re-imposes no more. The placements of a stack move, and their part ends when its
retiring pseudo-channels are empty. Outside a re-imposition, for a region or a stack that needs none, and while a clock of the region or of its
stacks is stopped (R407), nothing changes. -/
def Obligations.SparesAndReimposition : Prop :=
  (∀ s cell, (coreRuns s = true → regionServes s (cellRegion cell) = true → s.image.spareLoads.contains cell = true → completes (.spareLoad cell) s (fun t =>
      t.image.spareLoads = s.image.spareLoads.filter (· != cell)
      ∧ (Memory.wf s.caseMem.mem = true → ∀ k ∈ s.cells.carry, k / 2048 = cell → ∀ a, mirrorAt s k = some a →
        Memory.readN t.caseMem.mem (k * 4096) 4096 = hbmBytes s a 4096)))
    ∧ ((coreRuns s = false ∨ regionServes s (cellRegion cell) = false ∨ s.image.spareLoads.contains cell = false) → exec (.spareLoad cell) s = .next s))
    ∧ (∀ s r i c, coreRuns s = true → regionServes s r = true → s.dev.reimposing = true → s.image.orphans.any (fun k => cellRegion k = r) = true →
      s.image.img = some i → i.cont.find? (fun c => c.region = r) = some c →
      let cells := activeCells s r
      let clean : State := { s with hbm := { s.hbm with map := [], taken := [] } }
      let L := onSet { img := i, bad := [], s := clean, t := s, full := s.image.installed } c cells
      (s.image.installed.contains r = false → setSlots c ≤ cells.length → firstFailure 0x0301 L = none →
        exec (.reimposition (.cells r)) s = .next (endReimp r (installSet L c cells s)))
      ∧ ((s.image.installed.contains r = true ∨ cells.length < setSlots c ∨ firstFailure 0x0301 L ≠ none) →
        completes (.reimposition (.cells r)) s (fun t => t.dev.state = .retireRequested ∧ t.dev.reimposing = false)))
    ∧ (∀ s r i, coreRuns s = true → regionServes s r = true → s.dev.reimposing = true → s.image.orphans.any (fun k => cellRegion k = r) = true →
      s.image.img = some i → i.cont.find? (fun c => c.region = r) = none →
      completes (.reimposition (.cells r)) s (fun t => t.dev.state = .retireRequested ∧ t.dev.reimposing = false))
    ∧ (∀ s k, coreRuns s = true → regionServes s (k / 2) = true → s.dev.reimposing = true → s.image.memReimp.contains k = true →
      let other := if k % 2 = 0 then k + 1 else k - 1
      let left := s.hbm.map.filter (pageMoves k)
      (left = [] → s.hbm.retiring.any (fun p => p.1 = k) = true → exec (.reimposition (.memory k)) s = .next s)
      ∧ (left = [] → s.hbm.retiring.any (fun p => p.1 = k) = false → poolShort s k = false → poolShort s other = false →
        completes (.reimposition (.memory k)) s (fun t => k ∉ t.image.memReimp))
      ∧ (left ≠ [] → freePages s other < left.length + 4096 →
        completes (.reimposition (.memory k)) s (fun t => t.dev.state = .retireRequested ∧ t.dev.reimposing = false))
      ∧ exec (.reimposition (.memory k)) s = .next (reimposeMemory k s))
    ∧ (∀ s what, (coreRuns s = false ∨ regionServes s (Reimp.region what) = false ∨ s.dev.reimposing = false
        ∨ (∃ r, what = .cells r ∧ s.image.orphans.any (fun k => cellRegion k = r) = false)
        ∨ (∃ k, what = .memory k ∧ s.image.memReimp.contains k = false)) → exec (.reimposition what) s = .next s)
    ∧ (∀ s r, reimpWork s = false → (endReimp r s).dev.reimposing = false)
    ∧ (∀ s, (coreRuns s = true → s.dev.reimposing = true → reimpLimit s ≤ (s.tick.count - s.image.decidedAt).toNat →
        completes .reimpositionTimeout s (fun t => t.dev.state = .retireRequested ∧ t.dev.reimposing = false))
      ∧ ((coreRuns s = false ∨ s.dev.reimposing = false ∨ (s.tick.count - s.image.decidedAt).toNat < reimpLimit s) → exec .reimpositionTimeout s = .next s))

/-- FAULT_EVENT (R254, R361, R362, R365, R415): a PCIe error is logged in its port's AER registers; an event of a counting source sets
its sticky flag and raises its window count and its lifetime total by 1; when the count reaches the configured number the severe flag is
set; a source of a unit that does not count stays; before step 9 of start-up no collector counts. An event latched before the count
changed, in the window that ended with it, joins that window under its settings, and flags that a FAULT_CONFIG cleared stay clear (R12,
R56, R374). FAULT_WINDOW_START (R303, R361, R364, R370): a count of an ended window clears, but for a FENCED cell; a configuration that
waits is in force from the first window of its new length, the flags and the count clear, and the lifetime total stays; otherwise
nothing changes. -/
def Obligations.FaultSourcesCount : Prop :=
  (∀ l unit src (s : State),
      (collects l unit src s = true →
        let f := faultSrc l unit src s
        let g := faultSrc l unit src (latchEvent l unit src false false s).1
        g.sticky = true ∧ g.count = Nat.min (windowCount f s.tick.count + 1) 0xFFFF ∧ g.total = Nat.min (f.total + 1) (2 ^ 64 - 1)
        ∧ ((latchEvent l unit src false false s).2 = true ↔ (g.count = f.cfg.n ∧ windowCount f s.tick.count < g.count))
        ∧ ((latchEvent l unit src false false s).2 = true → g.severe = true))
      ∧ (∀ o, collects l unit src s = true → (faultSrc l unit src s).old = some o → o.ended = s.tick.count →
        let f := faultSrc l unit src s
        let n := Nat.min (o.count + 1) 0xFFFF
        let g := faultSrc l unit src (latchEvent l unit src false true s).1
        g.count = f.count ∧ g.old.map (·.count) = some n ∧ g.total = Nat.min (f.total + 1) (2 ^ 64 - 1)
        ∧ ((latchEvent l unit src false true s).2 = true ↔ (n = o.cfg.n ∧ o.count < n))
        ∧ (o.cleared = true → g.sticky = f.sticky ∧ g.severe = f.severe)
        ∧ (o.cleared = false → g.sticky = true))
      ∧ (collects l unit src s = false → latchEvent l unit src false false s = (s, false))
      ∧ (∀ early, completes (.faultEvent l unit src early) s (fun t =>
          t = (if collectorsRun s then countEventWith l unit src false early true (logAer l src s) else logAer l src s)
          ∧ t.portA.aerCorr = (s.portA.aerCorr || decide (l = .chip ∧ src = 1))
          ∧ t.portB.aerCorr = (s.portB.aerCorr || decide (l = .chip ∧ src = 2))
          ∧ t.portA.aerUncorr = (s.portA.aerUncorr || decide (l = .chip ∧ src = 3))
          ∧ t.portB.aerUncorr = (s.portB.aerUncorr || decide (l = .chip ∧ src = 4)))))
  ∧ (∀ s l unit src,
      let f := faultSrc l unit src s
      let due := ∃ c k, f.pending = some (c, k) ∧ s.tick.count.toNat % c.w = 0 ∧ s.tick.count ≠ k
      let ended := f.count ≠ 0 ∧ windowCount f s.tick.count = 0 ∧ (l ≠ .cell ∨ cellState unit s ≠ .fenced)
      (collectorsRun s = true → ¬ due → ended → completes (.faultWindowStart l unit src) s (fun t =>
        (faultSrc l unit src t).count = 0 ∧ (faultSrc l unit src t).sticky = f.sticky ∧ (faultSrc l unit src t).severe = f.severe
        ∧ (faultSrc l unit src t).total = f.total ∧ (faultSrc l unit src t).pending = f.pending))
      ∧ (∀ c k, collectorsRun s = true → f.pending = some (c, k) → s.tick.count.toNat % c.w = 0 → s.tick.count ≠ k →
        completes (.faultWindowStart l unit src) s (fun t =>
          (faultSrc l unit src t).cfg = c ∧ (faultSrc l unit src t).count = 0 ∧ (faultSrc l unit src t).sticky = false
          ∧ (faultSrc l unit src t).severe = false
          ∧ (faultSrc l unit src t).total = f.total ∧ (faultSrc l unit src t).pending = none))
      ∧ ((collectorsRun s = false ∨ (¬ due ∧ ¬ ended)) → exec (.faultWindowStart l unit src) s = .next s))

/-! ### Power, heat, clocks -/

/-- DROOP_TRIP and DROOP_RESTORE_STEP (R390, R402): while the block's clocks run, with firmware or without, a trip halves the block's
ceiling, to no less than 4; each step gives back one eighth of what the trip took, up to 64. CONTROL_STEP (R375, R376, R381, R384, R385,
R397, R402): where firmware writes the ceiling it takes the step's shares and mean issue over the step's own length, lets the budget fall at
once to its target, and unless an emergency, a regulator fault, absent firmware or the wait for the next point decision holds control, sets
an issue ceiling from 4 to 64, at most 32 under the operating limit; a step without that write counts, and leaves the budget, the shares and
the count of ticks without a write. The sort of counters into shares and the gain that takes them to the controller's estimate (calibration,
R382) are the model's choice (log entry 40), and so is that q_power stays until the next point decision behind an emergency or a fault (log
entry 38). A declared thermal emergency stops the arrays (R398). POINT_DECISION (R387 to R389, R398): the next point is the decided one, but
a raise by more than one point first takes one step, and the voltage of its end is commanded before it; under an emergency, a regulator fault
or absent firmware the decided point is OP0. FIRMWARE_ABSENT_FALLBACK (R402): 16 ticks without a ceiling take OP0 as the next point, 5
control steps without one hold it at 32, and fewer change nothing. -/
def Obligations.PowerControl : Prop :=
  ((∀ s b, blockRuns s b = true → completes (.droopTrip b) s (fun t => droopOf t b = Nat.max 4 (droopOf s b / 2)))
      ∧ (∀ s b d, blockRuns s b = true → SMap.get? s.power.droop b = some d → completes (.droopRestoreStep b) s (fun t =>
        droopOf t b = Nat.min 64 (d.q + ceilDiv (64 - d.trip) 8) ∧ t.power.q = s.power.q))
      ∧ (∀ s b, SMap.get? s.power.droop b = none → exec (.droopRestoreStep b) s = .next s))
  ∧ ((∀ s x, coreRuns s = true → hwRuns s = true → x.written = true → completes (.controlStep x) s (fun t =>
        t.env.budget = Nat.min s.env.budget s.env.budgetTarget
        ∧ (let live := t.power.modelled && decide (t.power.guardUs ≤ 20 * s.power.steps)
          t.power.lastShares = sharesOf t (calibration t live (rawPower t x.act (stepUs s))) x.act (stepUs s))
        ∧ t.power.lastIssued = Frac.mk' (64 * x.issued : Nat) x.could
        ∧ t.power.steps = s.power.steps + 1 ∧ t.power.ticksNoQ = 0 ∧ t.power.stepsNoQ = 0
        ∧ (heldDown t = false → s.power.again = false → 4 ≤ t.power.q ∧ t.power.q ≤ 64)
        ∧ (heldDown t = false → s.power.again = false → t.power.limit = true → t.power.q ≤ 32)
        ∧ (s.power.emergency = true ∨ (heldDown t = false ∧ s.power.again = true) → t.power.q = s.power.q)))
      ∧ (∀ s x, hwRuns s = true → (coreRuns s = false ∨ x.written = false) → completes (.controlStep x) s (fun t =>
        t.env = s.env ∧ t.power.lastShares = s.power.lastShares ∧ t.power.steps = s.power.steps + 1
        ∧ t.power.ticksNoQ = s.power.ticksNoQ ∧ t.power.stepsNoQ = s.power.stepsNoQ + 1
        ∧ (s.power.emergency = true → t.power.q = s.power.q)))
      ∧ (∀ s sp rise, (declare sp rise s).power.emergency = true ∧ (declare sp rise s).power.q = 0))
  ∧ (∀ s, coreRuns s = true → completes .pointDecision s (fun t =>
      let target := decidePoint s (nextPhase s)
      let step := s.power.point + 1 < target ∧ s.power.raiseTo ≠ some s.power.nextPoint
      t.power.nextPoint = (if step then s.power.point + 1 else target)
      ∧ t.power.raiseTo = (if step then some target else none)
      ∧ t.power.point = s.power.point ∧ t.power.lastPhase = some (nextPhase s) ∧ t.power.again = false
      ∧ (s.power.point < target → t.power.slewMv = pointMv target)
      ∧ (heldDown s = true → target = 0)))
  ∧ (∀ s, hwRuns s = true → completes .firmwareAbsentFallback s (fun t =>
      (16 ≤ s.power.ticksNoQ → t.power.nextPoint = 0 ∧ t.power.raiseTo = none ∧ t.power.absent = 2 ∧ t.power.q = s.power.q)
      ∧ (s.power.ticksNoQ < 16 → 5 ≤ s.power.stepsNoQ →
        t.power.q = Nat.min s.power.q 32 ∧ 1 ≤ t.power.absent ∧ t.power.nextPoint = s.power.nextPoint)
      ∧ (s.power.ticksNoQ < 16 → s.power.stepsNoQ < 5 → t = s)))
  ∧ (∀ s, (∀ b, blockRuns s b = false → exec (.droopTrip b) s = .next s ∧ exec (.droopRestoreStep b) s = .next s)
      ∧ (hwRuns s = false → (∀ x, exec (.controlStep x) s = .next s) ∧ exec .firmwareAbsentFallback s = .next s)
      ∧ (coreRuns s = false → exec .pointDecision s = .next s))

/-- The ends of emergencies, faults and bands (R382, R388, R398, R399): each acts when its wait is over and changes nothing before; behind
an emergency and the last regulator fault control returns at the next point decision (behind a regulator fault the model's reading of R398,
log entry 38). Telemetry divergence (R383): 500 diverging
milliseconds bring the fallback, with the model frozen; 10,000 agreeing ones end it with an empty calibration and one second of
guard band. -/
def Obligations.PowerConditionsEnd : Prop :=
  ∀ s, (coreRuns s = true →
      (s.power.emergency = true → 250 ≤ s.power.quiet → s.power.tjMax ≤ 1520 → completes .thermalEmergencyEnd s (fun t =>
        t.power.emergency = false ∧ t.power.again = true ∧ t.power.rth = Frac.max s.power.rthBefore (rthNom s.env.flow)))
      ∧ (∀ r, 1000 ≤ SMap.getD s.power.regFaults r 0 → completes (.regulatorFaultEnd r) s (fun t =>
        t.power.regFaults = SMap.del s.power.regFaults r
        ∧ (t.power.regFaults = [] → s.power.emergency = false → t.power.again = true)))
      ∧ (s.power.guardUs ≤ 20 * s.power.steps → exec .guardBandEnd s = .next { s with power := { s.power with guardUs := 0 } })
      ∧ (s.power.slewing = true → exec .voltageSlewEnd s
          = .next { s with power := { s.power with
              slewing := false
              railMv := s.power.slewMv
              setpointMv := s.power.slewMv
              segMv := (List.range 16).map (fun i =>
                if s.power.avsFailed.contains i then s.power.segMv.getD i s.power.railMv else s.power.slewMv) } })
      ∧ (s.power.fallback = false → 500 ≤ s.power.divergeMs → completes .divergenceFallback s (fun t =>
        t.power.fallback = true ∧ t.power.frozen = true ∧ t.power.modelled = false))
      ∧ (s.power.fallback = true → 10000 ≤ s.power.agreeMs → completes .divergenceFallbackEnd s (fun t =>
        t.power.fallback = false ∧ t.power.frozen = false ∧ t.power.pairs = [] ∧ guardLeft t.power = 1000000
        ∧ t.power.modelled = modelledCond s)))
    ∧ ((coreRuns s = false ∨ s.power.emergency = false ∨ s.power.quiet < 250 ∨ 1520 < s.power.tjMax) →
      exec .thermalEmergencyEnd s = .next s)
    ∧ (∀ r, (coreRuns s = false ∨ SMap.getD s.power.regFaults r 0 < 1000) → exec (.regulatorFaultEnd r) s = .next s)
    ∧ ((coreRuns s = false ∨ 20 * s.power.steps < s.power.guardUs) → exec .guardBandEnd s = .next s)
    ∧ ((coreRuns s = false ∨ s.power.slewing = false) → exec .voltageSlewEnd s = .next s)
    ∧ ((coreRuns s = false ∨ s.power.fallback = true ∨ s.power.divergeMs < 500) → exec .divergenceFallback s = .next s)
    ∧ ((coreRuns s = false ∨ s.power.fallback = false ∨ s.power.agreeMs < 10000) → exec .divergenceFallbackEnd s = .next s)

/-- POWER_SAMPLE (R379 to R381, R399, R446, R460, R468): the metered power is the sum of the 23 rails of R455, a missed rail with its last value; with
the millisecond's raw estimate (its counters by log entry 40) it joins the last 1,000 pairs; its energy joins the lifetime's and, where an averaging
window runs, the window's; and every core regulator that reports a fault is held as faulted. Windows (R12, R57, R286, R378, R395, R403): the averaging
window that ends gives the average power over its length; the next one opens at the first tick that is a multiple of its length, and until then none
runs (the model's reading, log entry 38); the steady window that ends opens an empty one. Sensors (R391, R393): a bad sensor is lost and counts one
event; a lost one returns after 1,000 valid steps; a pair apart for 50 ticks counts one event and its run starts again. Each changes nothing before
its time. -/
def Obligations.TelemetryAndSensors : Prop :=
  (∀ s (x : Telemetry), coreRuns s = true → completes (.powerSample x) s (fun t =>
      let m := ((List.range 23).map (fun i => (x.railsMw.getD i none).getD (s.power.lastRails.getD i 0))).sum
      t.power.metered = m
      ∧ t.power.eUsed = (if s.power.winTicks = 0 then 0 else s.power.eUsed + 1000 * m)
      ∧ t.power.pairs = ((rawPower s x.act 1000, m) :: s.power.pairs).take 1000
      ∧ t.life.now.energy = s.life.now.energy + 1000 * m
      ∧ ∀ r ∈ x.faulted, r < 16 → (SMap.get? t.power.regFaults r).isSome = true))
  ∧ (∀ s, (coreRuns s = true → 0 < s.power.winElapsed → s.tick.count.toNat % s.power.winTicks = 0 → completes .averagingWindowEnd s (fun t =>
        let ms := s.env.windowNext.getD s.env.windowMs
        let w := windowTicks s.tick.rate ms
        t.env.average = s.power.eUsed / Nat.max 1 (s.power.winElapsed * frameUs s.tick.rate)
        ∧ t.env.windowMs = ms ∧ t.env.windowNext = none
        ∧ t.power.eUsed = 0 ∧ t.power.aElapsed = 0 ∧ t.power.winElapsed = 0
        ∧ t.power.winTicks = (if s.tick.count.toNat % w = 0 then w else 0)))
      ∧ ((coreRuns s = false ∨ s.power.winElapsed = 0 ∨ s.tick.count.toNat % s.power.winTicks ≠ 0) →
        exec .averagingWindowEnd s = .next s)
      ∧ (coreRuns s = true → 0 < s.power.steadyN → s.tick.count.toNat % rateHz s.tick.rate = 0 → completes .steadyWindowEnd s (fun t =>
        t.power.steadyOk = true ∧ t.power.steadyN = 0 ∧ t.power.steadySum = 0 ∧ t.power.rth = (steadySample s).power.rth))
      ∧ ((coreRuns s = false ∨ s.power.steadyN = 0 ∨ s.tick.count.toNat % rateHz s.tick.rate ≠ 0) →
        exec .steadyWindowEnd s = .next s))
  ∧ (∀ s r sp w, let k := sensorKey r sp w
      (coreRuns s = true → sensorBad (sensorOf s k) = true → (sensorOf s k).lost = false → completes (.sensorLost r sp w) s (fun t =>
          (sensorOf t k).lost = true ∧ validReading t k = none))
      ∧ ((coreRuns s = false ∨ sensorBad (sensorOf s k) = false ∨ (sensorOf s k).lost = true) → exec (.sensorLost r sp w) s = .next s)
      ∧ (coreRuns s = true → (sensorOf s k).lost = true → 1000 ≤ (sensorOf s k).good → completes (.sensorRestored r sp w) s (fun t =>
          (sensorOf t k).lost = false ∧ (sensorOf t k).last = (sensorOf s k).last))
      ∧ ((coreRuns s = false ∨ (sensorOf s k).lost = false ∨ (sensorOf s k).good < 1000) → exec (.sensorRestored r sp w) s = .next s))
  ∧ (∀ s r sp, (coreRuns s = true → 51 ≤ SMap.getD s.power.disagree (16 * r + sp) 0 →
        exec (.sensorDisagreement r sp) s = .next (countEvent .region r (0x10 + sp)
          { s with power := { s.power with disagree := SMap.put s.power.disagree (16 * r + sp) 1 } }))
      ∧ ((coreRuns s = false ∨ SMap.getD s.power.disagree (16 * r + sp) 0 < 51) → exec (.sensorDisagreement r sp) s = .next s))
  ∧ (∀ s x, coreRuns s = false → exec (.powerSample x) s = .next s)

/-- THERMAL_TRIP and PWRGD_FALL (R272, R327, R400, R418, R458) complete from every state with the core out of reset but THERMAL_OFF, the
trip while the I/O rail is up: every VR_EN_N is deasserted, every Clasp link is DOWN, no HBM stack serves and what waited for one is gone; the
trip stops the arrays, asserts THERM_TRIP_N and enters THERMAL_OFF; a lost power good enters FAILED, and one during start-up is a failed
attempt, of which the third is start-up error 0x01 (R417, R458). PLL_LOSS_OF_LOCK (R411): a region's clocks stop, with firmware running or
without; while the core runs a stack trains; an enabled Clasp port, or every enabled port with the fabric's reference, goes DOWN and
may retry 3 times; a PCIe reference resets its port, while the I/O rail is up and its PERST# deasserted. HBM_RETRAINING_DONE completes while
the core runs (R407, R411): the stack trains no more, its accesses that waited are served, and then the packets whose endpoints run again.
Each changes nothing where its conditions do not hold. -/
def Obligations.TripsAndClockLosses : Prop :=
  (∀ s, let dark := fun (t : State) => t.pins.vrSram = false ∧ t.pins.vrCore = false ∧ t.pins.vrHbm = false ∧ t.pins.vrSerdes = false
          ∧ (∀ p, p < 20 → (claspOf p t).state = 4) ∧ t.hbm.training = List.range 8 ∧ t.hbm.bar2Waits = [] ∧ t.hbm.pktWaits = []
          ∧ t.hbm.mem = s.hbm.mem
      (∀ r sp, s.clocks.coreReset = false → s.pins.ioUp = true → s.dev.state ≠ .thermalOff → completes (.thermalTrip r sp) s (fun t =>
        t.dev.state = .thermalOff ∧ t.pins.thermTrip = true ∧ dark t ∧ t.power.q = 0 ∧ t.frame.stoppedCells = List.range 288))
      ∧ (∀ r sp, (s.clocks.coreReset = true ∨ s.pins.ioUp = false ∨ s.dev.state = .thermalOff) → exec (.thermalTrip r sp) s = .next s)
      ∧ (∀ g, s.clocks.coreReset = false → s.dev.state ≠ .thermalOff → completes (.pwrgdFall g) s (fun t =>
        t.dev.state = .failed ∧ dark t ∧ 0 ∈ t.clocks.stopped))
      ∧ (∀ g, s.clocks.coreReset = true → canStart s = true → completes (.pwrgdFall g) s (fun t =>
        t.dev = { s.dev with
          attempts := s.dev.attempts + 1
          bootError := if s.dev.attempts < 2 then s.dev.bootError else 1
          bootStage := if s.dev.attempts < 2 then s.dev.bootStage else 0 }))
      ∧ (∀ g, ((s.clocks.coreReset = true ∧ canStart s = false) ∨ (s.clocks.coreReset = false ∧ s.dev.state = .thermalOff)) →
        exec (.pwrgdFall g) s = .next s))
  ∧ (∀ s, hwRuns s = true →
      (∀ r, completes (.pllLossOfLock (.region r)) s (fun t => r ∈ t.clocks.stopped ∧ t.clocks.lockLost = true))
      ∧ completes (.pllLossOfLock .system) s (fun t => (∀ r, r < 4 → r ∈ t.clocks.stopped) ∧ t.clocks.lockLost = true))
  ∧ (∀ s, coreRuns s = true →
      (∀ k, completes (.pllLossOfLock (.hbm k)) s (fun t => k ∈ t.hbm.training ∧ t.hbm.mem = s.hbm.mem))
      ∧ (∀ p, completes (.pllLossOfLock (.serdes p)) s (fun t =>
        ((claspOf p s).enabled = true → (claspOf p t).state = 4 ∧ (claspOf p t).retriesLeft = 3 ∧ (claspOf p t).queue = [])
        ∧ ((claspOf p s).enabled = false → claspOf p t = claspOf p s) ∧ (∀ q, q ≠ p → claspOf q t = claspOf q s)))
      ∧ completes (.pllLossOfLock .claspRef) s (fun t =>
        ∀ p, p < 20 → ((claspOf p s).enabled = true → (claspOf p t).state = 4) ∧ ((claspOf p s).enabled = false → claspOf p t = claspOf p s)))
  ∧ (∀ s k, coreRuns s = true →
      let s1 := { s with hbm := { s.hbm with training := s.hbm.training.filter (· != k) } }
      let s2 := serveWaits (fun w => addrStack w.addr = k) s1
      exec (.hbmRetrainingDone k) s = .next (servePackets s2)
      ∧ k ∉ s2.hbm.training
      ∧ (k / 2 ∉ s.clocks.stopped → ∀ w ∈ s2.hbm.bar2Waits, addrStack w.addr ≠ k)
      ∧ ((∀ w ∈ s.hbm.bar2Waits, addrStack w.addr ≠ k) → s2 = s1)
      ∧ (s.hbm.bar2Waits = [] → s.hbm.pktWaits = [] → exec (.hbmRetrainingDone k) s = .next s1))
  ∧ (∀ s, hwRuns s = false → ∀ r, exec (.pllLossOfLock (.region r)) s = .next s ∧ exec (.pllLossOfLock .system) s = .next s)
  ∧ (∀ s, coreRuns s = false → (∀ k p, exec (.pllLossOfLock (.hbm k)) s = .next s ∧ exec (.pllLossOfLock (.serdes p)) s = .next s
      ∧ exec (.pllLossOfLock .claspRef) s = .next s ∧ exec (.hbmRetrainingDone k) s = .next s))
  ∧ (∀ s p, (s.pins.ioUp = true → perstOf p s = false → exec (.pllLossOfLock (.pcie p)) s = .next (resetPort p false s))
      ∧ ((s.pins.ioUp = false ∨ perstOf p s = true) → exec (.pllLossOfLock (.pcie p)) s = .next s))

/-! ### Resets and start-up -/

/-- A port reset (R253, R270, R273, R408, R436): slots FREE, the ring disabled, nothing due, no binding, its waiting commands and BAR2 accesses gone,
its running commands without their slot, its SPDM connection reset, and the other port as it was. One that keeps configuration space keeps the link
with it; PERST# and a link that goes down keep neither, and the port's side of the FIFOs asks for a resynchronisation. FUNCTION_LEVEL_RESET keeps
configuration space, and its link resets as at PERST#. Port events (R252, R253, R255, R408, R416): a link comes up with its width and rate, and a
resynchronisation waits only while the core is in reset; the power state and bus mastering take the value written while the port is out of reset; each
leaves the other port alone, and changes nothing without power or in reset. -/
def Obligations.PortResetsAndEvents : Prop :=
  ((∀ s p keep, let t := resetPort p keep s
        let q := getPPort p t
        (∀ n, slotAt p n t = Slot.reset) ∧ q.ringEnable = false ∧ q.waiting = [] ∧ q.binds = [] ∧ (∀ a ∈ t.mbx.order, a.port ≠ p)
        ∧ (∀ a ∈ t.mbx.accepted, a.port = p → a.slot = 0xFF)
        ∧ (∀ w ∈ t.hbm.bar2Waits, w.port ≠ p) ∧ connOf p t = SpdmConn.reset ∧ q.fifoWr = 0 ∧ q.fifoRd = 0
        ∧ getPPort (otherPort p) t = getPPort (otherPort p) s
        ∧ q.inReset = (getPPort p s).inReset ∧ q.linkUp = (keep && (getPPort p s).linkUp)
        ∧ q.bme = (keep && (getPPort p s).bme) ∧ q.d3hot = (keep && (getPPort p s).d3hot)
        ∧ q.resyncReq = !keep ∧ (keep = false → q.resyncAck = coreRuns s))
      ∧ (∀ s p, (perstOf p s = false → exec (.functionLevelReset p) s = .next (setPPort p { getPPort p (resetPort p true s) with
            resyncReq := true, resyncAck := coreRuns (resetPort p true s), linkUp := false
            width := PortSt.reset.width, rate := PortSt.reset.rate } (resetPort p true s)))
        ∧ (perstOf p s = true → exec (.functionLevelReset p) s = .next s))
      ∧ (∀ s p, exec (.pcieLinkDown p) s = .next (resetPort p false s))
      ∧ (∀ s p, s.pins.ioUp = true → perstOf (otherPort p) s = false → completes (.perst p true) s (fun t =>
        perstOf p t = true ∧ (getPPort p t).inReset = true ∧ (getPPort p t).resyncReq = true
        ∧ getPPort (otherPort p) t = getPPort (otherPort p) s
        ∧ (∀ n, slotAt p n t = Slot.reset) ∧ t.dev = s.dev))
      ∧ (∀ s p, s.pins.ioUp = true → completes (.perst p false) s (fun t => perstOf p t = false ∧ (getPPort p t).inReset = false
        ∧ getPPort (otherPort p) t = getPPort (otherPort p) s))
      ∧ (∀ s p on, s.pins.ioUp = false → exec (.perst p on) s = .next s))
  ∧ (∀ s p, (perstOf p s = false → s.pins.ioUp = true → ∀ w r, exec (.pcieLinkUp p w r) s
        = .next (setPPort p { getPPort p s with inReset := false, resyncReq := s.clocks.coreReset, resyncAck := s.clocks.coreReset, linkUp := true
                                                width := w, rate := r } s))
      ∧ ((perstOf p s = true ∨ s.pins.ioUp = false) → ∀ w r, exec (.pcieLinkUp p w r) s = .next s)
      ∧ ((getPPort p s).inReset = false → ∀ on, exec (.powerStateChange p on) s
          = .next (setPPort p { getPPort p s with d3hot := on } s)
        ∧ exec (.busMasterEnable p on) s = .next (setPPort p { getPPort p s with bme := on } s))
      ∧ ((getPPort p s).inReset = true → ∀ on, exec (.powerStateChange p on) s = .next s ∧ exec (.busMasterEnable p on) s = .next s))

/-- Core reset (R270, R412 to R414, R449, R468): PERST# on both ports, power-on, a fall of the I/O rail and the reset that a command
asked for, when its time has come, put the core in reset; boot flash, the fuses (those of the power model too) and the identifier
survive, the tick count, the lease, the image, HBM contents, records that waited for flash and every rail enable do not; each port's FIFOs
ask for a resynchronisation (R408), which a port that stays up acknowledges. -/
def Obligations.CoreResets : Prop :=
  let cleared := fun (s t : State) =>
    t.clocks.coreReset = true ∧ t.dev.state = .booting ∧ t.tick = TickSt.reset ∧ t.own = OwnSt.reset ∧ t.image = ImageSt.reset
      ∧ t.hbm.mem = [] ∧ t.caseMem = CaseSt.reset ∧ t.pins.vrCore = false ∧ t.pins.vrHbm = false
      ∧ t.flash.ring = s.flash.ring ∧ t.flash.bank0 = s.flash.bank0 ∧ t.flash.bank1 = s.flash.bank1 ∧ t.flash.queue = []
      ∧ t.flash.corrQueue = [] ∧ t.ident.lifecycle = s.ident.lifecycle ∧ t.portA.resyncReq = true ∧ t.portB.resyncReq = true
      ∧ t.ident.deviceSecret = s.ident.deviceSecret ∧ t.ident.rollback = s.ident.rollback ∧ t.ident.power = s.ident.power ∧ t.dev.uid = s.dev.uid
      ∧ t.mbx.hostMem = s.mbx.hostMem
  (∀ s, (s.pins.ioUp = true → completes .bothPerst s (fun t => cleared s t ∧ t.pins.perstA = true ∧ t.pins.perstB = true))
      ∧ (s.pins.ioUp = false → exec .bothPerst s = .next s))
    ∧ (∀ s p, s.pins.ioUp = true → perstOf (otherPort p) s = true → completes (.perst p true) s (cleared s))
    ∧ (∀ s, completes .powerOn s (fun t => cleared s t ∧ t.pins.ioUp = true))
    ∧ (∀ s, completes .ioRailFall s (fun t => cleared s t ∧ t.pins.ioUp = false))
    ∧ (∀ s k, s.dev.resetAt = some k → coreRuns s = true → k < s.tick.timeUs + frameUs s.tick.rate →
      completes .coreReset s (fun t => cleared s t ∧ t.portA.linkUp = s.portA.linkUp ∧ t.portB.linkUp = s.portB.linkUp
        ∧ t.portA.bme = s.portA.bme ∧ t.portB.bme = s.portB.bme
        ∧ t.portA.resyncAck = s.portA.linkUp ∧ t.portB.resyncAck = s.portB.linkUp))
    ∧ (∀ s, (s.dev.resetAt = none ∨ coreRuns s = false ∨ ∃ k, s.dev.resetAt = some k ∧ s.tick.timeUs + frameUs s.tick.rate ≤ k) →
      exec .coreReset s = .next s)

/-- START_UP, STARTUP_ERROR and READY_REACHED (R415, R417, R420, R424, R430, R442, R462): a start-up with a bank that verifies and reads
ends core reset, deasserts the reset of the flash at step 7 and reaches stage 5 with the sections of that bank loaded, one more power cycle
than the latest lifetime image has (R445), and the compositor's watch armed; one that loses power while the boot record is flipped leaves the
part unpowered and the earlier record in force (R436); one without a bank that verifies ends FAILED with error 4; a failed power good or PLL leaves its
error; a chip cool enough goes to READY at the next tick. Each changes nothing where start-up cannot begin, or the wait does not run. -/
def Obligations.StartUpRuns : Prop :=
  let chosen := fun (s : State) (r : StartReport) =>
    bootChoice r (deriveHallmark (onFlash bootRecord (onPins (fun p => { p with flReset := false }) (endReset s))))
  let cut := fun (s : State) (r : StartReport) => r.cutFlip && s.flash.swap
  (∀ s r slot, canStart s = true → cut s r = false → chosen s r = some slot →
      completes (.startUp r) s (fun t =>
        t.clocks.coreReset = false ∧ t.dev.bootStage = 5 ∧ t.dev.bootSlot = slot ∧ t.clocks.beatArmed = true
        ∧ t.ident.secretOpen = false ∧ t.ident.burnFails = r.burnFails
        ∧ t.life.now.cycles = (if r.tornImage then s.flash.tearImage else s.flash).latest.life.cycles + 1
        ∧ t.ident.loaded = fwLoaded (if slot = 1 then slotA (bootRecord s.flash) else slotB (bootRecord s.flash)).image
        ∧ t.pins.vrCore = true ∧ t.pins.flReset = false ∧ ∀ p, p < 20 → (claspOf p t).state = 1))
    ∧ (∀ s r, canStart s = true → cut s r = true → completes (.startUp r) s (fun t =>
        t.pins.ioUp = false ∧ t.clocks.coreReset = true ∧ t.flash.bootRec = s.flash.bootRec))
    ∧ (∀ s r, canStart s = true → cut s r = false → chosen s r = none → completes (.startUp r) s (fun t =>
        t.clocks.coreReset = false ∧ t.pins.flReset = false ∧ t.dev.state = .failed ∧ t.dev.bootStage = 2
        ∧ t.dev.bootError = (if s.dev.bootError = 0 ∨ s.dev.bootError = 3 then 4 else s.dev.bootError)))
    ∧ (∀ s b, canStart s = true → exec (.startupError b) s
      = .next { s with dev := { s.dev with bootError := if b then 1 else 2, bootStage := if b then 0 else 1 } })
    ∧ (∀ s, canStart s = false → (∀ r, exec (.startUp r) s = .next s) ∧ (∀ b, exec (.startupError b) s = .next s))
    ∧ (∀ s, (coreRuns s = true → s.dev.state = .booting → s.dev.bootStage = 5 → s.power.tjMax ≤ 1360 →
        exec .readyReached s = .next { s with dev := { s.dev with readyAt := true } })
      ∧ ((coreRuns s = false ∨ s.dev.state ≠ .booting ∨ s.dev.bootStage ≠ 5 ∨ 1360 < s.power.tjMax) →
        exec .readyReached s = .next s))

/-! ### Registers and BARs -/

/-- Mailbox slots and the command ring (R259, R263, R264): writing 1 to a FREE slot's state submits it behind the slots that wait;
writing 0 to a DONE slot frees it; any other write of the state changes nothing. Enabling the ring with a base on a 4 KiB boundary
starts its counters at 0; without one, or with a reserved size, it stays disabled; an enabled ring takes only its disabling. The consumed
count takes what is written. COMPLETION_RECORD_WRITE (R259, R265, R267): with the ring enabled and not full and device-initiated writes
allowed, the oldest due record goes to the ring's next place in host memory, the written count rises by 1, and no other byte of host
memory changes; otherwise it waits. A port that does not decode discards its writes. -/
def Obligations.MailboxSlotsAndRecords : Prop :=
  ((∀ s p n, decodes (getPPort p s) = true → n < 32 → (slotAt p n s).st = .free → completes (.mbxStateWrite p n 1) s (fun t =>
        (slotAt p n t).st = .submitted
        ∧ t.mbx.order = s.mbx.order ++ [{ port := p, slot := n, alive := decide (s.own.holder = some p) }]
        ∧ getPPort (otherPort p) t = getPPort (otherPort p) s))
      ∧ (∀ s p n, decodes (getPPort p s) = true → n < 32 → (slotAt p n s).st = .done → completes (.mbxStateWrite p n 0) s (fun t =>
        (slotAt p n t).st = .free ∧ t.mbx.order = s.mbx.order))
      ∧ (∀ s p n v, (decodes (getPPort p s) = false ∨ 32 ≤ n ∨ (((slotAt p n s).st ≠ .free ∨ v ≠ 1) ∧ ((slotAt p n s).st ≠ .done ∨ v ≠ 0))) →
        exec (.mbxStateWrite p n v) s = .next s)
      ∧ (∀ s p v, decodes (getPPort p s) = true → completes (.mbxRingCtrlWrite p v) s (fun t =>
          let q := getPPort p s
          let u := getPPort p t
          let good := bitOf v.toNat 0 = true ∧ q.ringBase.toNat % 4096 = 0 ∧ bitsOf v.toNat 3 1 ≠ 7
          getPPort (otherPort p) t = getPPort (otherPort p) s ∧ u.ringBase = q.ringBase
          ∧ (q.ringEnable = false → good → u.ringEnable = true ∧ u.ringSize = bitsOf v.toNat 3 1 ∧ u.written = 0 ∧ u.consumed = 0)
          ∧ (q.ringEnable = false → ¬ good → u.ringEnable = false ∧ u.ringSize = bitsOf v.toNat 3 1 ∧ u.written = q.written)
          ∧ (q.ringEnable = true → u.ringEnable = bitOf v.toNat 0 ∧ u.ringSize = q.ringSize ∧ u.written = q.written)))
      ∧ (∀ s p v, decodes (getPPort p s) = true → exec (.mbxRingConsumedWrite p v) s
        = .next (setPPort p { getPPort p s with consumed := v } s))
      ∧ (∀ s p v, decodes (getPPort p s) = false → exec (.mbxRingCtrlWrite p v) s = .next s ∧ exec (.mbxRingConsumedWrite p v) s = .next s))
  ∧ (∀ s p r rest, Memory.wf s.mbx.hostMem = true → coreRuns s = true → (getPPort p s).waiting = r :: rest → (getPPort p s).ringEnable = true →
      ringFull (getPPort p s) = false → dmaOpen (getPPort p s) = true → portServed p s = true → completes (.completionRecordWrite p) s (fun t =>
        let q := getPPort p s
        let at' := busKey p (q.ringBase.toNat + 32 * (q.written.toNat % ringEntries q))
        (getPPort p t).waiting = rest ∧ (getPPort p t).written = q.written + 1
        ∧ Memory.readN t.mbx.hostMem at' 32 = r.bytes (ringEntries q) q.written.toNat
        ∧ ∀ a, (a < at' ∨ at' + 32 ≤ a) → Memory.read t.mbx.hostMem a = Memory.read s.mbx.hostMem a))
  ∧ (∀ s p, (coreRuns s = false ∨ (getPPort p s).waiting = [] ∨ (getPPort p s).ringEnable = false ∨ ringFull (getPPort p s) = true
      ∨ dmaOpen (getPPort p s) = false ∨ portServed p s = false) → exec (.completionRecordWrite p) s = .next s)

/-- DEV_STICKY and TICK_COUNT (R258): writing a 1 clears that bit in this port's copy alone; a read of the tick count returns it,
and a read of 4 bytes latches its upper half in this port. REGISTER_WRITE (R9, R257 to R260, R263): an access of 1, 2, 4 or 8 bytes
at its own alignment writes through this port's registers and slots: the sticky bits, the ring's control, base and consumed count, the
BAR2 window, and the bytes of a slot that the host holds; the other port, memory, and every register that the device owns stay. A port
that does not decode discards it. -/
def Obligations.Bar0Registers : Prop :=
  ((∀ s p v, decodes (getPPort p s) = true → exec (.devStickyWrite p v) s
        = .next (setPPort p { getPPort p s with sticky := (getPPort p s).sticky &&& ~~~v } s))
      ∧ (∀ s p size, bar0Ok 0x0100 size = true → decodes (getPPort p s) = true → completes (.tickCountRead p size) s (fun t =>
        (getPPort p t).lastRead = some { data := leBytes size s.tick.count.toNat, poisoned := false, abort := false }
        ∧ (getPPort p t).latch = (if size = 4 then BitVec.ofNat 32 (s.tick.count.toNat / 2 ^ 32) else (getPPort p s).latch)
        ∧ getPPort (otherPort p) t = getPPort (otherPort p) s))
      ∧ (∀ s p, decodes (getPPort p s) = false → (∀ v, exec (.devStickyWrite p v) s = .next s)
        ∧ (∀ size, bar0Ok 0x0100 size = true → exec (.tickCountRead p size) s = .next s)))
  ∧ (∀ s p off size v, bar0Ok off size = true →
      (decodes (getPPort p s) = true → completes (.registerWrite p off size v) s (fun t =>
        getPPort (otherPort p) t = getPPort (otherPort p) s
        ∧ (getPPort p t).bme = (getPPort p s).bme ∧ (getPPort p t).binds = (getPPort p s).binds
        ∧ t.mbx.hostMem = s.mbx.hostMem ∧ t.mbx.accepted = s.mbx.accepted
        ∧ (off = 0x208 → size = 2 → (getPPort p t).window = v.toNat % 512)
        ∧ (off = 0x500 → size = 8 → (getPPort p t).ringBase = (if (getPPort p s).ringEnable then (getPPort p s).ringBase else v))
        ∧ (∀ n i, n < 32 → i < 224 → off = 0x1000 + 256 * n + 32 + i → size = 1 → slotOpen (slotAt p n s) = true →
          (slotAt p n t).payload = setAt (slotAt p n s).payload i (BitVec.ofNat 8 v.toNat))))
      ∧ (decodes (getPPort p s) = false → exec (.registerWrite p off size v) s = .next s))
  ∧ (∀ s p (v : W64), exec (.registerWrite p 0x20C 4 v) s = exec (.devStickyWrite p (BitVec.ofNat 32 v.toNat)) s
      ∧ exec (.registerWrite p 0x508 4 v) s = exec (.mbxRingCtrlWrite p (BitVec.ofNat 32 v.toNat)) s
      ∧ exec (.registerWrite p 0x514 4 v) s = exec (.mbxRingConsumedWrite p (BitVec.ofNat 32 v.toNat)) s)

/-- BAR2_READ (R181, R260, R407, R408): a read in a closed state aborts; it pushes the port's waiting accesses in front of it, and one
to a stack that retrains waits; one that meets no listed and no upset word returns HBM's committed bytes, 0 for unmapped pages and 0xFF
for private ones, and is not poisoned; one that meets a listed or an uncorrectable word is poisoned. BAR2_WRITE (R50, R181, R260, R407,
R408): only the lease holder's writes land; each is an entry of its port's FIFO (the queue of waiting accesses is the model's choice,
log entry 38), and one whose entry the network side has not read, or whose stack retrains, stays there; otherwise, inside one mapped
page that is not private and has its carried copy, it joins the carried writes, and committed HBM stays until the tick; to a private or
an unmapped page it stores nothing. A port whose FIFOs wait for a resynchronisation, and a unit whose region's clocks have stopped,
answer nothing. BAR4_ACCESS (R256, R262): outside the debug lifecycle, on a port that does not decode, or with a stopped clock, it
changes nothing; the debug registers' map is outside the manual. Accesses outside what R256 and R257 give fault. -/
def Obligations.Bar2AndBar4 : Prop :=
  (∀ s p off len reads, off + len ≤ 2 ^ 30 →
      let a := bar2Addr p off s
      let s1 := serveWaits (fun w => w.port = p) s
      let ups := upsetsIn s1 a len reads
      (decodes (getPPort p s) = false → exec (.bar2Read p off len reads) s = .next s)
      ∧ (decodes (getPPort p s) = true →
        (bar2Closed s = true → exec (.bar2Read p off len reads) s
          = .next (setRead p { data := [], poisoned := false, abort := true } s))
        ∧ (bar2Closed s = false → unitAnswers p s (addrStack a) = false → exec (.bar2Read p off len reads) s = .next s)
        ∧ (bar2Closed s = false → unitAnswers p s (addrStack a) = true → s1.hbm.training.contains (addrStack a) = true →
          exec (.bar2Read p off len reads) s
            = .next (waitBar2 { port := p, write := false, addr := a, len := len, bytes := [], reads := reads } s1))
        ∧ (bar2Closed s = false → unitAnswers p s (addrStack a) = true → s1.hbm.training.contains (addrStack a) = false →
          (listedIn s1 a len = [] → ups = [] → exec (.bar2Read p off len reads) s
            = .next (setRead p { data := (List.range len).map (fun i => bar2Byte s1 (a + i)), poisoned := false, abort := false } s1))
          ∧ completes (.bar2Read p off len reads) s (fun t => ∃ r, (getPPort p t).lastRead = some r ∧ r.data.length = len
            ∧ r.abort = false ∧ (r.poisoned = true ↔ (listedIn s1 a len ≠ [] ∨ ∃ u ∈ ups, isBad u = true)))))
      ∧ ((∀ w ∈ s.hbm.bar2Waits, w.port ≠ p) → s1 = s))
  ∧ (∀ s p off (x : Posted), off + x.bytes.length ≤ 2 ^ 30 →
      let a := bar2Addr p off s
      let w : Bar2Wait := { port := p, write := true, addr := a, len := 0, bytes := x.bytes, reads := [] }
      ((decodes (getPPort p s) = false ∨ bar2Closed s = true ∨ s.own.holder ≠ some p ∨ unitAnswers p s (addrStack a) = false) →
        exec (.bar2Write p off x) s = .next s)
      ∧ (decodes (getPPort p s) = true → bar2Closed s = false → s.own.holder = some p → unitAnswers p s (addrStack a) = true →
        exec (.bar2Write p off x) s
          = .next (if x.unread then waitBar2 w s else serveWaits (fun v => v.port = p) (waitBar2 w s))
        ∧ (s.hbm.training.contains (addrStack a) = true → (∀ v ∈ s.hbm.bar2Waits, v.port ≠ p) →
          exec (.bar2Write p off x) s = .next (waitBar2 w s))
        ∧ (s.hbm.training.contains (addrStack a) = false → (∀ v ∈ s.hbm.bar2Waits, v.port ≠ p) → x.unread = false →
            0 < x.bytes.length → a % 65536 + x.bytes.length ≤ 65536 →
          (∀ k, pageClass s (a / 65536) = some k → classPrivate k = false → (SMap.get? s.hbm.carPages (a / 65536)).isSome = true →
            completes (.bar2Write p off x) s (fun t =>
              t.hbm.carried = s.hbm.carried ++ [{ host := true, addr := a, bytes := x.bytes }] ∧ t.hbm.mem = s.hbm.mem
              ∧ t.hbm.bar2Waits = s.hbm.bar2Waits ∧ (getPPort p t).fifoWr = (getPPort p s).fifoWr + 1
              ∧ (getPPort p t).fifoRd = (getPPort p s).fifoRd + 1))
          ∧ ((pageClass s (a / 65536) = none ∨ ∃ k, pageClass s (a / 65536) = some k ∧ classPrivate k = true) →
            completes (.bar2Write p off x) s (fun t => t.hbm = s.hbm)))))
  ∧ ((∀ s p off st, off < 2 ^ 24 →
        ((debugLife s = false ∨ decodes (getPPort p s) = false ∨ st = true) → exec (.bar4Access p off st) s = .next s)
        ∧ (debugLife s = true → decodes (getPPort p s) = true → exec (.bar4Access p off false) s = .refused .debugRegisterMap))
      ∧ (∀ s p off st, 2 ^ 24 ≤ off → exec (.bar4Access p off st) s = .fault .bar4Range)
      ∧ (∀ s p off size v, bar0Ok off size = false → exec (.registerWrite p off size v) s = .fault .bar0Access)
      ∧ (∀ s p size, bar0Ok 0x0100 size = false → exec (.tickCountRead p size) s = .fault .bar0Access)
      ∧ (∀ s p off len reads, 2 ^ 30 < off + len → exec (.bar2Read p off len reads) s = .fault .bar2Range)
      ∧ (∀ s p off (x : Posted), 2 ^ 30 < off + x.bytes.length → exec (.bar2Write p off x) s = .fault .bar2Range))

/-! ### Identity -/

/-- The responder (R433, R436): on a port whose DOE mailbox is up, with the firmware running, GET_VERSION starts the connection, the capabilities and
the algorithms follow in that order and enter the connection's transcript, a request out of order gives UnexpectedRequest, an unknown code
Unsupported, and DOE_ABORT resets the connection. Certificates, challenges and measurements on a connection with its algorithms negotiated (R432 to
R435): the digest of the chain of slot 0, a portion of the chain with what remains, the six measurements, signed where asked, and a challenge's
digests under the hallmark's signature over the transcript, with a nonce of the responder's own (free values, log entry 6). A responder that is dead
answers Busy; one that does not run, and a port whose link is down, answers nothing. The codes of the errors and of the algorithms, the messages and
what a transcript holds are those of SPDM 1.3 (log entry 30). -/
def Obligations.SpdmResponder : Prop :=
  (∀ s p, doeUp p s = true → responderDead s = false → responderRuns s = true →
      let c := connOf p s
      exec (.getVersion p) s = .next (setConn p { SpdmConn.reset with
          versionDone := true, last := some (.version 1 3),
          start := Config.spdmMessage 0x84 [] ++ Spdm.bytes (.version 1 3) } s)
      ∧ exec (.getCapabilities p) s = .next (setConn p (if c.versionDone then
          { c with capsDone := true, last := some (.capabilities responderCaps 17 65536 65536), meas := [],
                   start := c.start ++ Config.spdmMessage 0xE1 [] ++ Spdm.bytes (.capabilities responderCaps 17 65536 65536) }
          else { c with last := some (.error 4) }) s)
      ∧ (responderCaps.cert = true ∧ responderCaps.chal = true ∧ responderCaps.meas = 2 ∧ responderCaps.encrypt = false
        ∧ responderCaps.keyEx = false ∧ responderCaps.psk = false)
      ∧ (∀ h e, exec (.negotiateAlgorithms p h e) s = .next (setConn p (if c.capsDone then
          (if h && e then
            let r : Spdm := .algorithms 2 1 none [{ registry := 3, vendor := 0x1E5B, algorithm := 0x0128 }]
            { c with algsDone := true, last := some r, meas := [],
                     start := c.start ++ Config.spdmMessage 0xE3 [[BitVec.ofNat 8 3]] ++ r.bytes } else { c with last := some (.error 1) })
          else { c with last := some (.error 4) }) s))
      ∧ (∀ code : Byte, code.toNat ∉ [0x81, 0x82, 0x83, 0x84, 0xE0, 0xE1, 0xE3] →
        exec (.unsupportedRequest p code) s = .next (setConn p { c with last := some (.error 7) } s))
      ∧ (c.algsDone = false → ∀ slot off len sel signed nonce, ∀ x ∈ [Instr.getDigests p, .getCertificate p slot off len,
          .getMeasurements p sel signed nonce, .challenge p slot nonce],
        exec x s = .next (setConn p { c with last := some (.error 4) } s)))
  ∧ (∀ s p, (doeUp p s = true → exec (.doeAbort p) s = .next (setConn p SpdmConn.reset s)
        ∧ ∀ i, exec (.doeDiscovery p i) s = .next (setConn p { connOf p s with last := some (
          if i = 0 then .doe 1 0 1 else if i = 1 then .doe 1 1 0 else .doe 0xFFFF 0xFF 0) } s))
      ∧ (doeUp p s = false → exec (.doeAbort p) s = .next s ∧ ∀ i, exec (.doeDiscovery p i) s = .next s))
  ∧ (∀ s p slot off len sel signed nonce h e (code : Byte), code.toNat ∉ [0x81, 0x82, 0x83, 0x84, 0xE0, 0xE1, 0xE3] →
      ∀ x ∈ [Instr.getVersion p, .getCapabilities p, .negotiateAlgorithms p h e, .getDigests p, .getCertificate p slot off len,
          .getMeasurements p sel signed nonce, .challenge p slot nonce, .unsupportedRequest p code],
        ((doeUp p s = false ∨ (responderDead s = false ∧ responderRuns s = false)) → exec x s = .next s)
        ∧ (doeUp p s = true → responderDead s = true → exec x s = .next (setConn p { connOf p s with last := some (.error 3) } s)))
  ∧ (∀ s p, doeUp p s = true → responderDead s = false → responderRuns s = true → (connOf p s).algsDone = true →
      let c := connOf p s
      exec (.getDigests p) s
          = .next (setConn p (let r : Spdm := .digests (if s.ident.certOk then [sha256 Config.certChain] else [])
            { c with last := some r, meas := [], certs := c.certs ++ Config.spdmMessage 0x81 [] ++ r.bytes }) s)
      ∧ (∀ off len, s.ident.certOk = true → exec (.getCertificate p 0 off len) s
        = .next (setConn p (if Config.certChain.length ≤ off then { c with last := some (.error 1) }
            else
              let r : Spdm := .certificate ((Config.certChain.drop off).take len)
                (Config.certChain.length - off - ((Config.certChain.drop off).take len).length)
              { c with last := some r, meas := [],
                       certs := c.certs ++ Config.spdmMessage 0x82 [leBytes 1 0, leBytes 4 off, leBytes 4 len] ++ r.bytes }) s))
      ∧ (∀ slot, s.ident.certOk = false ∨ slot ≠ 0 → (∀ off len, exec (.getCertificate p slot off len) s
          = .next (setConn p { c with last := some (.error 1) } s))
        ∧ (∀ nonce, exec (.challenge p slot nonce) s = .next (setConn p { c with last := some (.error 1) } s)))
      ∧ (∀ sel signed nonce, exec (.getMeasurements p sel signed nonce) s = .next (setConn p (
          match selectBlocks sel s with
          | some l =>
            let m := measTranscript sel signed nonce c l
            { c with meas := if signed then [] else m,
                     last := some (.measurements 6 l (if signed then
                       some (signTranscript s "responder-measurements signing" (c.start ++ m)) else none)) }
          | none => { c with last := some (.error 1) }) s)
        ∧ selectBlocks .all s = some (allBlocks s) ∧ (allBlocks s).length = 6)
      ∧ (∀ nonce, s.ident.certOk = true → completes (.challenge p 0 nonce) s (fun t =>
          t.freeIdx = s.freeIdx + 8
          ∧ ∃ own, own.length = 32
            ∧ (connOf p t).last = some (.challengeAuth (sha256 Config.certChain) (sha256 ((allBlocks s).flatMap Meas.bytes)) own
              (signTranscript s "responder-challenge_auth signing" (c.start ++ c.certs ++ Config.spdmMessage 0x83 [leBytes 1 0, nonce]
                ++ Spdm.bytes (.challengeAuth (sha256 Config.certChain) (sha256 ((allBlocks s).flatMap Meas.bytes)) own []))))
            ∧ (connOf p t).certs = [] ∧ (connOf p t).meas = [])))

/-! ### Mailbox commands -/

/-- Refusals (R264, R269, R275, R276): a command that firmware takes and a check refuses completes with the first status in the
order of R275: opcode, ownership, arguments, device state, a running conflict. It changes nothing but its own port's slot and
record and the order of the slots. A row whose opcode is not that of the slot taken next stands for no event (the model's choice,
log entry 2). -/
def Obligations.CommandsRefused : Prop :=
  (∀ c op ok s, mailboxRow c = some (op, ok) →
      (nextSlot s = none → exec c s = .next s)
      ∧ (∀ a, nextSlot s = some a → (slotAt a.port a.slot s).opcode.toNat ≠ op → exec c s = .next s)
      ∧ (∀ a st, nextSlot s = some a → (slotAt a.port a.slot s).opcode.toNat = op →
          refusalOf op (ok (cmdOf a s) s) (cmdOf a s) s = some st → completes c s (fun t =>
            slotDone a st 0 [] s t ∧ t.mbx.order = s.mbx.order.filter (· != a) ∧ onlyChanges [.portA, .portB, .mbx] s t
            ∧ getPPort (otherPort a.port) t = getPPort (otherPort a.port) s)))
    ∧ (∀ op ok c s i, cmdInfo op = some i →
      (mayIssue op c s = false → refusalOf op ok c s = some stNotOwner)
      ∧ (mayIssue op c s = true → ok = false → refusalOf op ok c s = some stBadArgument)
      ∧ (mayIssue op c s = true → ok = true → s.dev.state ∉ i.states →
          refusalOf op ok c s = some (if s.dev.state = .retireRequested then stRetire else stWrongState))
      ∧ (mayIssue op c s = true → ok = true → s.dev.state ∈ i.states →
          refusalOf op ok c s = if conflicts op c.port s then some stBusy else none))
    ∧ (∀ s a, nextSlot s = some a → (cmdInfo (slotAt a.port a.slot s).opcode.toNat).isNone = true →
      completes .unknownOpcode s (fun t => slotDone a stBadOpcode 0 [] s t ∧ t.mbx.order = s.mbx.order.filter (· != a)
        ∧ onlyChanges [.portA, .portB, .mbx] s t))
    ∧ (∀ s, (nextSlot s = none ∨ ∃ a, nextSlot s = some a ∧ (cmdInfo (slotAt a.port a.slot s).opcode.toNat).isSome = true) →
      exec .unknownOpcode s = .next s)

/-- IDENTIFY, STATUS and the lease (R268, R280 to R283): the two reads deliver their bytes and change nothing else. A claim on a
lease that the other port holds is refused; any other claim makes its port the holder for the length asked for, 3,000 ms by
default, with a new generation. A renewal starts the lease again; a release and the moment of expiry end it. A RESET comes 1 ms
after its DONE; records that were due before it are gone, and none is written behind it. -/
def Obligations.IdentityAndOwnership : Prop :=
  (∀ s a, issued .identify s a = true → completes .identify s (fun t =>
      slotDone a stDone 0 (identifyBytes a.port s) s t ∧ onlyChanges [.portA, .portB, .mbx] s t))
    ∧ (∀ s a, issued .status s a = true → completes .status s (fun t =>
      slotDone a stDone 0 (statusBytes a.port s) s t ∧ onlyChanges [.portA, .portB, .mbx] s t))
    ∧ (∀ s a, issued .claimControl s a = true →
      (s.own.holder = some (otherPort a.port) → completes .claimControl s (fun t => slotDone a stNotOwner 0 [] s t ∧ t.own = s.own))
      ∧ (s.own.holder ≠ some (otherPort a.port) → completes .claimControl s (fun t =>
          let ms := if (cmdOf a s).n 0 4 = 0 then 3000 else (cmdOf a s).n 0 4
          t.own.holder = some a.port ∧ t.own.leaseLen = BitVec.ofNat 32 ms ∧ t.own.expiryUs = s.tick.timeUs + 1000 * ms
          ∧ t.own.generation = s.own.generation + 1
          ∧ slotDone a stDone 0 (leBytes 4 (s.own.generation + 1).toNat ++ leBytes 4 (BitVec.ofNat 32 ms).toNat) s t)))
    ∧ (∀ s a, issued .renewLease s a = true → completes .renewLease s (fun t =>
      t.own.holder = some a.port ∧ t.own.expiryUs = s.tick.timeUs + 1000 * s.own.leaseLen.toNat
      ∧ slotDone a stDone 0 (leBytes 4 s.own.leaseLen.toNat) s t))
    ∧ (∀ s a, issued .releaseControl s a = true → completes .releaseControl s (fun t =>
      t.own.holder = none ∧ slotDone a stDone 0 [] s t
      ∧ (s.dev.state = .held → t.dev.uncontrolled = true)
      ∧ (s.dev.state = .running → t.dev.leaseHold = true)
      ∧ (s.dev.state = .ready ∨ s.dev.state = .loaded → t.dev = s.dev)))
    ∧ (∀ s a, issued .reset s a = true → completes .reset s (fun t =>
      slotDone a stDone 0 [] s t ∧ t.mbx.silenced = true ∧ t.dev = { s.dev with resetAt := some (s.tick.timeUs + 1000) }
      ∧ (getPPort (otherPort a.port) t).waiting = [] ∧ (getPPort a.port t).waiting.length ≤ 1))
    ∧ (∀ s p, coreRuns s = true → s.own.holder = some p → s.own.expiryUs < s.tick.timeUs + frameUs s.tick.rate → completes .leaseExpiry s (fun t =>
      t.own.holder = none ∧ t.own.lapsed = some p ∧ (s.dev.state = .running → t.dev.leaseHold = true)
      ∧ (s.dev.state = .held → t.dev.uncontrolled = true ∨ t.dev.leaseHold = true)
      ∧ (s.dev.state = .ready ∨ s.dev.state = .loaded → t.dev = s.dev)))
    ∧ (∀ s, (coreRuns s = false ∨ s.own.holder = none ∨ s.tick.timeUs + frameUs s.tick.rate ≤ s.own.expiryUs) →
      exec .leaseExpiry s = .next s)

/-- Settings (R284 to R288, R290, R291, R308, R447): SET_TIME queues a correlation record, which firmware then programs; SET_ENVIRONMENT's valid
fields take effect later, a feed that a partner shares is refused unless acknowledged; a budget waits for its ticks; preferred points, the fabric
address and the tick domain are stored; PORT_CONTROL disables or trains a port or takes lanes away; REFERENCE_MODE waits for the next step. -/
def Obligations.SettingsTaken : Prop :=
  (∀ s a, issued .setTime s a = true → completes .setTime s (fun t =>
      slotDone a stDone 0 (leBytes 4 s.flash.nextCorr.toNat) s t ∧ t.flash.nextCorr = s.flash.nextCorr + 1
      ∧ t.life.now.lastCorr = s.flash.nextCorr
      ∧ ∃ r, t.flash.corrQueue = s.flash.corrQueue ++ [r] ∧ r.sequence = s.flash.nextCorr ∧ r.tick = s.tick.count
        ∧ r.hours = hoursField s ∧ r.cycle = s.life.now.cycles ∧ r.utc = BitVec.ofNat 64 ((cmdOf a s).n 0 8)))
    ∧ (∀ s r rest, collectorsRun s = true → s.flash.corrQueue = r :: rest → completes .eventRecordWrite s (fun t =>
      r ∈ t.flash.corr ∧ t.flash.corrQueue = rest))
    ∧ (∀ s a, issued .setEnvironment s a = true →
      let c := cmdOf a s
      let v := c.n 0 1
      let clash := bitOf v 2 && s.snap.partnersSet && (decide (s.snap.evenFeed = c.n 6 2) || decide (s.snap.oddFeed = c.n 6 2))
      (clash = true → s.snap.acked = false → completes .setEnvironment s (fun t =>
          slotDone a stFeedShared 0 [] s t ∧ t.env = s.env ∧ t.snap = s.snap))
      ∧ (clash = false ∨ s.snap.acked = true → completes .setEnvironment s (fun t =>
          slotDone a stDone 0 [] s t
          ∧ t.env.inletNext = (if bitOf v 0 then some (c.n 2 2 : Int) else s.env.inletNext)
          ∧ t.env.flowNext = (if bitOf v 1 then some (c.n 4 2) else s.env.flowNext)
          ∧ t.env.feed = (if bitOf v 2 then c.n 6 2 else s.env.feed)
          ∧ t.env.offsetNext = (if bitOf v 3 then some (c.n 8 2) else s.env.offsetNext)
          ∧ t.snap.exposed = (s.snap.partnersSet && feedShared t.env.feed s.snap.evenFeed s.snap.oddFeed))))
    ∧ (∀ s a, issued .setPowerBudget s a = true → completes .setPowerBudget s (fun t =>
      t.env.budgetTarget = 1000 * (cmdOf a s).n 0 2 ∧ t.env.budget = s.env.budget
      ∧ t.env.windowNext = (if (cmdOf a s).n 2 2 = 0 then s.env.windowNext else some ((cmdOf a s).n 2 2))
      ∧ slotDone a stDone 0 (leBytes 8 (budgetTick (1000 * (cmdOf a s).n 0 2) s).toNat) s t))
    ∧ (∀ s a, issued .setOperatingPoints s a = true → completes .setOperatingPoints s (fun t =>
      slotDone a stDone 0 [] s t ∧ t.env = { s.env with preferred := (List.range 6).map (fun p => (cmdOf a s).n p 1) }))
    ∧ (∀ s a, issued .setFabricAddress s a = true → completes .setFabricAddress s (fun t =>
      slotDone a stDone 0 [] s t ∧ t.dev = { s.dev with fabric := (cmdOf a s).n 8 2 }))
    ∧ (∀ s a, issued .setTickDomain s a = true → completes .setTickDomain s (fun t =>
      let c := cmdOf a s
      slotDone a stDone 0 [] s t ∧ t.tick = { s.tick with newDomain := some {
        source := decide (c.n 0 1 = 0)
        upstream := c.n 1 1
        rate := if c.n 2 1 = 0 then .r5000 else if c.n 2 1 = 1 then .r10000 else .r20000 } }))
    ∧ (∀ s a, issued .portControl s a = true →
      let p := (cmdOf a s).n 0 1
      let act := (cmdOf a s).n 1 1
      completes .portControl s (fun t =>
        slotDone a stDone 0 ((claspOf p t).record p) s t
        ∧ (act = 0 → (claspOf p t).enabled = false ∧ (claspOf p t).state = 0 ∧ (claspOf p t).lanes = 0)
        ∧ (act = 1 → (claspOf p s).enabled = true → claspOf p t = claspOf p s)
        ∧ (act = 2 ∨ (act = 1 ∧ (claspOf p s).enabled = false) →
            (claspOf p t).enabled = true ∧ (claspOf p t).state = 1 ∧ (claspOf p t).lanes = 0)
        ∧ (act = 3 → claspOf p t = claspOf p (((List.range 8).filter (fun l => !bitOf ((cmdOf a s).n 2 1) l)).foldl
            (fun s l => loseLane p l s) (takeSlot a s)))))
    ∧ (∀ s a, issued .referenceMode s a = true →
      let c := cmdOf a s
      (referenceFits c s = false → completes .referenceMode s (fun t => slotDone a stBadArgument 0 [] s t ∧ t.step = s.step))
      ∧ (referenceFits c s = true → completes .referenceMode s (fun t =>
          slotDone a stDone 0 [] s t
          ∧ t.step.refTensors = s.step.refTensors ∧ t.step.refBound = s.step.refBound
          ∧ (c.n 0 1 = 1 → ∃ r, t.step.refNext = some (r, BitVec.ofNat 32 (c.n 4 4)) ∧ ∀ i, i < c.n 1 1 → c.n (8 + 2 * i) 2 ∈ r)
          ∧ (c.n 0 1 = 0 → ∃ r b, t.step.refNext = some (r, b) ∧ ∀ i, i < c.n 1 1 → c.n (8 + 2 * i) 2 ∉ r)
          ∧ (c.n 0 1 = 0 → c.n 1 1 = 0 → ∃ b, t.step.refNext = some ([], b)))))

/-- Host buffers and the commands that read them (R266, R267, R277, R289, R292, R326, R330): BIND_HOST_BUFFERS sets and clears its
port's bindings, and is BUSY while one in use would change. LOAD_ROUTES, LOAD_GROUPS, LOAD_IMPOSITION and FIRMWARE_STAGE are
ACCEPTED and take the range's bytes when their binding allows, or wait and go on when its cause has cleared; FIRMWARE_STAGE first marks slot
B as being programmed (R425). -/
def Obligations.HostBuffersAndReads : Prop :=
  (∀ s a, issued .bindHostBuffers s a = true →
      let c := cmdOf a s
      let busy := (List.range (c.n 0 1)).any (fun i => rebinds c i s && bindingBusy (c.n (32 + 32 * i) 1) s)
      (busy = true → completes .bindHostBuffers s (fun t =>
          slotDone a stBusy 0 [] s t ∧ ∀ p, (getPPort p t).binds = (getPPort p s).binds))
      ∧ (busy = false → completes .bindHostBuffers s (fun t =>
          slotDone a stDone 0 [] s t ∧ getPPort (otherPort a.port) t = getPPort (otherPort a.port) s
          ∧ (getPPort a.port t).binds = ((List.range (c.n 0 1)).foldl (applyBind c) (getPPort a.port s)).binds
          ∧ (c.n 0 1 = 1 → bitOf (c.n 33 1) 2 = true → bindOf t (c.n 32 1) = none)
          ∧ (c.n 0 1 = 1 → bitOf (c.n 33 1) 2 = false → bindOf t (c.n 32 1) = some {
              canRead := bitOf (c.n 33 1) 0
              canWrite := bitOf (c.n 33 1) 1
              address := BitVec.ofNat 64 (c.n 40 8)
              length := c.n 48 8 }))))
    ∧ (∀ data, ∀ x ∈ [(Instr.loadRoutes data, 0x31, gotRoutes), (.loadGroups data, 0x32, gotGroups),
        (.loadImposition data, 0x40, gotImage)],
      ∀ s a, issued x.1 s a = true →
        let c := cmdOf a s
        let bytes := sliceB data 0 (c.n 16 8)
        let taken := c.accept x.2.1 [] (takeSlot a s)
        slotAccepted a x.2.1 [] s taken
        ∧ (dmaReady s false (c.n 0 1) = true → exec x.1 s = .next (x.2.2 bytes taken))
        ∧ (dmaReady s false (c.n 0 1) = false → completes x.1 s (fun t =>
            slotAccepted a x.2.1 [] s t
            ∧ t.mbx.dma = s.mbx.dma ++ [{ opcode := x.2.1, binding := c.n 0 1, write := false, offset := c.n 8 8, bytes := bytes }])))
    ∧ (∀ (data : FwBytes) s a, issued (.firmwareStage data) s a = true →
        let c := cmdOf a s
        let bytes := sliceB data.bytes 0 (c.n 16 8)
        let s1 := takeSlot a s
        let taken := c.accept 0xA0 []
          (markStaging { s1 with staging := { s1.staging with corrected := data.corrected, badReads := data.badReads } })
        slotAccepted a 0xA0 [] s taken
        ∧ (dmaReady s false (c.n 0 1) = true → exec (.firmwareStage data) s = .next (gotFirmware bytes taken))
        ∧ (dmaReady s false (c.n 0 1) = false → completes (.firmwareStage data) s (fun t =>
            slotAccepted a 0xA0 [] s t
            ∧ t.mbx.dma = s.mbx.dma ++ [{ opcode := 0xA0, binding := c.n 0 1, write := false, offset := c.n 8 8, bytes := bytes }])))
    ∧ (∀ s b, (coreRuns s = false ∨ s.mbx.dma.find? (fun w => !w.write && decide (w.binding = b)) = none ∨ dmaReady s false b = false) →
      exec (.hostTransferResume b) s = .next s)
    ∧ (∀ s b w, coreRuns s = true → s.mbx.dma.find? (fun w => !w.write && decide (w.binding = b)) = some w → dmaReady s false b = true →
      let s1 := { s with mbx := { s.mbx with dma := s.mbx.dma.filter (· != w) } }
      (readerOf w s = none → exec (.hostTransferResume b) s = .next s1)
      ∧ (∀ x, readerOf w s = some x →
        (dmaFits s b w.offset w.bytes.length = true → exec (.hostTransferResume b) s = .next (gotBytes x.opcode w.bytes s1))
        ∧ (dmaFits s b w.offset w.bytes.length = false →
            exec (.hostTransferResume b) s = .next (finishAcc x stBadArgument 0 [] s1))))

/-- What the bytes that were read do (R283, R293, R326, R330, R421, R425, R426): a well-formed route table and group table wait for the next
tick, a malformed one ends its command with BAD_ARGUMENT, and a group table that lacks a group of the image or differs from it is
refused; an image waits for its checks; a firmware image is verified, against the counter value of R426, and being programmed into slot B,
which is erased; the boot record has marked that slot and withdrawn a requested swap before. An
ACCEPTED command that ends is DONE, unless a RESET has silenced the chip. -/
def Obligations.TablesArrive : Prop :=
  ∀ s b,
    (routesOk b = true → gotRoutes b s = { s with fabric := { s.fabric with routesNext := some (routesOf b, b) } })
    ∧ (routesOk b = false → gotRoutes b s = finishCmd 0x31 stBadArgument 0 [] s)
    ∧ (groupsOk s.dev.fabric b = false → gotGroups b s = finishCmd 0x32 stBadArgument 0 [] s)
    ∧ (groupsOk s.dev.fabric b = true → s.image.img = none →
        gotGroups b s = { s with fabric := { s.fabric with
          groupsNext := some ((List.range (fieldN b 6 2)).map (groupEntry b), b) } })
    ∧ (∀ i, groupsOk s.dev.fabric b = true → s.image.img = some i →
        let l := (List.range (fieldN b 6 2)).map (groupEntry b)
        (groupsMissing i l s.dev.fabric = true → gotGroups b s = finishCmd 0x32 stRefusedFit 0x0502 [] s)
        ∧ (groupsMissing i l s.dev.fabric = false → groupsWrong i l = true → gotGroups b s = finishCmd 0x32 stRefusedFit 0x0503 [] s)
        ∧ (groupsMissing i l s.dev.fabric = false → groupsWrong i l = false →
          gotGroups b s = { s with fabric := { s.fabric with groupsNext := some (l, b) } }))
    ∧ gotImage b s = { s with image := { s.image with loading := some b } }
    ∧ (let v := if b.length > 29360128 then stSignatureInvalid else verifyFw s.ident.keyHash (rollbackValue s) (bankOf b)
       gotFirmware b s = { s with flash := setSlotB Bank.empty s.flash
                                  staging := { s.staging with stage := some (bankOf b, v) } })
    ∧ (s.flash.bootRec.sequence.toNat + 1 < 2 ^ 32 → (markStaging s).flash.bootRec
        = { sequence := s.flash.bootRec.sequence + 1, primary := s.flash.primary, slotB := 1, swap := false })
    ∧ (∀ op status reason result x, acceptedOp s op = some x → s.mbx.silenced = false → (slotAt x.port x.slot s).st = .accepted →
        slotDone { port := x.port, slot := x.slot, alive := true } status reason result s (finishCmd op status reason result s))

/-- Loading and unloading (R243, R293, R294): an image that arrived at a READY chip and passes every check becomes the imposition,
with its tables and step record, and the chip is LOADED; one that fails leaves the chip as it was and its command REFUSED_FIT with
the first reason. UNLOAD is ACCEPTED; when it is done the image, its pages, what the frame staged and the step are gone and the chip is
READY; the holds that the frame knows stand (R43); the committed bytes of case memory stay (the model's choice, log entry 38). -/
def Obligations.LoadingAndUnloading : Prop :=
  (∀ s, (coreRuns s = false ∨ s.image.loading = none) → exec .imageLoadDone s = .next s)
    ∧ (∀ s b, coreRuns s = true → s.image.loading = some b → s.dev.state = .ready →
      let s0 := { s with image := { s.image with loading := none } }
      completes .imageLoadDone s (fun t =>
        match parseImage b with
        | .error l => t = finishCmd 0x40 stRefusedFit 0x0101 (locBytes l) s0
        | .ok p =>
          let L := mkLoad p.image p.bad s0
          match firstFailure 0 { L with t := mapPlan L L.t } with
          | some (r, l) => t = finishCmd 0x40 stRefusedFit r (locBytes l) s0
          | none => t.dev.state = .loaded ∧ t.image.img = some p.image ∧ t.image.loading = none ∧ t.step.table = p.image.table
              ∧ t.step.record.applied = p.image.applied ∧ t.step.record.attempted = p.image.attempted
              ∧ t.ident.images.getLast? = some p.image.digest))
    ∧ (∀ s b, coreRuns s = true → s.image.loading = some b → s.dev.state ≠ .ready →
      exec .imageLoadDone s = .next (finishCmd 0x40 stRetire 0 [] { s with image := { s.image with loading := none } }))
    ∧ (∀ s a, issued .unload s a = true → completes .unload s (fun t => slotAccepted a 0x41 [] s t))
    ∧ (∀ s, coreRuns s = true → (acceptedOp s 0x41).isSome = true → (s.dev.state = .loaded ∨ s.dev.state = .held) → completes .unloadDone s (fun t =>
      t.dev.state = .ready ∧ t.image = ImageSt.reset ∧ t.hbm.map = [] ∧ t.hbm.mem = [] ∧ t.caseMem = { CaseSt.reset with mem := s.caseMem.mem }
      ∧ t.step = StepSt.reset ∧ t.frame = s.frame.clearWork ∧ t.stats = StatsSt.reset ∧ t.cells.eng = []
      ∧ t.fabric.routes = s.fabric.routes ∧ t.fabric.groups = s.fabric.groups))
    ∧ (∀ s, (coreRuns s = false ∨ acceptedOp s 0x41 = none ∨ (s.dev.state ≠ .loaded ∧ s.dev.state ≠ .held)) → exec .unloadDone s = .next s)

/-- RUN_STEPS, SUBMIT_BATCH, HOLD and RESUME (R208, R295 to R297): a stalled group of the image refuses a start and a resumption;
a start takes effect at the next tick with the steps asked for; a batch joins at most four, or replaces the one of its attempt,
and its bytes stand in its binding; a HOLD on a HELD chip is DONE, on a running chip ACCEPTED; an unaligned chip does not resume.
-/
def Obligations.RunningAndBatches : Prop :=
  (∀ s a, issued .runSteps s a = true →
      (referencedStalled s = true → completes .runSteps s (fun t => slotDone a stGroupStalled 0 [] s t ∧ t.step = s.step ∧ t.dev = s.dev))
      ∧ (referencedStalled s = false → completes .runSteps s (fun t =>
          slotDone a stDone 0 (leBytes 8 s.step.record.attempted.toNat) s t ∧ t.step.startAt = true
          ∧ t.step.stepsLeft = (if (cmdOf a s).n 0 4 = 0xFFFFFFFF then none else some ((cmdOf a s).n 0 4))
          ∧ t.step.record.stalled = false ∧ t.dev = { s.dev with stalled := false, uncontrolled := false })))
    ∧ (∀ s a data, issued (.submitBatch data) s a = true →
      let b := batchOf (cmdOf a s)
      let same := s.step.batches.filter (fun x => x.attemptTag = b.attemptTag)
      (same = [] → 4 ≤ s.step.batches.length → completes (.submitBatch data) s (fun t =>
          slotDone a stBusy 0 [] s t ∧ t.step = s.step))
      ∧ ((same ≠ [] ∨ s.step.batches.length < 4) → b.attemptTag.toNat < s.step.record.attempted.toNat →
          completes (.submitBatch data) s (fun t => slotDone a stStepMismatch 0 [] s t ∧ t.step = s.step))
      ∧ (s.step.record.attempted.toNat ≤ b.attemptTag.toNat → (same ≠ [] ∨ s.step.batches.length < 4) →
          completes (.submitBatch data) s (fun t =>
            slotDone a stDone 0 [] s t ∧ b ∈ t.step.batches
            ∧ (same = [] → t.step.batches = s.step.batches ++ [b])
            ∧ (same ≠ [] → t.step.batches.length = s.step.batches.length)
            ∧ t.mbx.hostMem = (hostWrite b.binding b.offset (data.take b.length) s).mbx.hostMem)))
    ∧ (∀ s a, issued .hold s a = true →
      (s.dev.state = .held → completes .hold s (fun t =>
          t.dev.goOn = false ∧ t.dev.state = .held ∧ t.frame.stuck = false ∧ t.frame.retry = false
          ∧ ((s.frame.stuck = false ∨ s.step.proof = none) → slotDone a stDone 0 [] s t ∧ t.step = s.step)
          ∧ (s.frame.stuck = true → t.step.proof = none)))
      ∧ (s.dev.state ≠ .held → completes .hold s (fun t => slotAccepted a 0x52 [] s t ∧ t.dev = s.dev)))
    ∧ (∀ s a, issued .resume s a = true →
      (s.dev.unaligned = true → completes .resume s (fun t => slotDone a stWrongState 0 [] s t ∧ t.step = s.step))
      ∧ (s.dev.unaligned = false → referencedStalled s = true → completes .resume s (fun t =>
          slotDone a stGroupStalled 0 [] s t ∧ t.step = s.step))
      ∧ (s.dev.unaligned = false → referencedStalled s = false → completes .resume s (fun t =>
          slotDone a stDone 0 [] s t ∧ t.step.resumeAt = true ∧ t.step.record.stalled = false
          ∧ t.dev = { s.dev with stalled := false, uncontrolled := false })))

/-- Partners and snapshots (R298, R299, R321, R341, R345 to R347, R350): partners on a shared feed need acknowledgement; a SNAPSHOT
without partners, with a stalled group or without a port to the partner is refused, else ACCEPTED with the predicted stop. At the cut
the chip is SNAPSHOTTING under the next generation's number, and its header, not complete yet, and its tables leave for the partner;
each copy leaves, its poison words named, and HBM stays as it was; once every byte is acknowledged the closing header and the other
partner's update leave (filled up to 64 bytes: the model's choice, log entry 32); 16 frames without an acknowledged byte end it, for the
state left, or for HELD where a HOLD was taken (R272); what may not leave in a frame leaves in a later one; a proof record goes to the
partner of its generation until it is acknowledged, or 16 times. -/
def Obligations.SnapshotsTaken : Prop :=
  (∀ s a, issued .setPartners s a = true →
      let c := cmdOf a s
      let shared := decide (s.env.feed = 0xFFFF) || decide (c.n 2 2 = s.env.feed) || decide (c.n 6 2 = s.env.feed)
      (shared = true → bitOf (c.n 8 1) 0 = false → completes .setPartners s (fun t =>
          slotDone a stFeedShared 0 [] s t ∧ t.snap = s.snap))
      ∧ (shared = false ∨ bitOf (c.n 8 1) 0 = true → completes .setPartners s (fun t =>
          slotDone a stDone 0 [] s t
          ∧ t.snap = { s.snap with partnersSet := true, even := c.n 0 2, evenFeed := c.n 2 2, odd := c.n 4 2, oddFeed := c.n 6 2,
                                   acked := bitOf (c.n 8 1) 0, exposed := shared })))
    ∧ (∀ s a, issued .snapshot s a = true →
      let c := cmdOf a s
      let dst := partnerOf s s.snap.nextGen
      let blocked := (bitOf (c.n 0 1) 0 && s.fabric.stalled.contains (c.n 2 2)) || referencedStalled s
      (snapshotFits c s = false → completes .snapshot s (fun t => slotDone a stBadArgument 0 [] s t ∧ t.snap = s.snap))
      ∧ (snapshotFits c s = true → s.snap.partnersSet = false → completes .snapshot s (fun t =>
          slotDone a stWrongState 0 [] s t ∧ t.snap = s.snap))
      ∧ (snapshotFits c s = true → s.snap.partnersSet = true → blocked = true → completes .snapshot s (fun t =>
          slotDone a stGroupStalled 0 [] s t ∧ t.snap = s.snap))
      ∧ (snapshotFits c s = true → s.snap.partnersSet = true → blocked = false → portsTo s dst = [] →
          completes .snapshot s (fun t => slotDone a stNoSnapshot 0 [] s t ∧ t.snap = s.snap))
      ∧ (snapshotFits c s = true → s.snap.partnersSet = true → blocked = false → portsTo s dst ≠ [] →
          completes .snapshot s (fun t =>
            slotAccepted a 0x60 (leBytes 4 (stopFrames s dst)) s t
            ∧ ∃ r, t.snap.run = some r ∧ r.step = BitVec.ofNat 64 (c.n 8 8) ∧ r.due = false ∧ r.xfer = Xfer.new
              ∧ r.within = (decide (s.dev.state = .held) && s.frame.inStep))))
    ∧ (∀ s r, coreRuns s = true → s.snap.run = some r → r.due = true →
      (s.dev.state = .running ∨ s.dev.state = .held ∨ s.dev.state = .loaded) → completes .snapshotStop s (fun t =>
      let dst := partnerOf s s.snap.nextGen
      let r1 := { r with due := false, generation := s.snap.nextGen, leftRunning := decide (s.dev.state = .running) }
      let ps := [firmPiece dst 0 (runHdr s r1 false).image, firmPiece dst tablesOff (genTables s)]
      t.dev.state = .snapshotting ∧ t.dev.left = some s.dev.state ∧ t.snap.nextGen = s.snap.nextGen + 1
      ∧ t.snap.run = some { r1 with xfer := r1.xfer.send ps (maySend s) }
      ∧ t.hbm = s.hbm))
    ∧ (∀ s, (coreRuns s = false ∨ s.snap.run = none ∨ (∃ r, s.snap.run = some r ∧ r.due = false)
        ∨ (s.dev.state ≠ .running ∧ s.dev.state ≠ .held ∧ s.dev.state ≠ .loaded)) → exec .snapshotStop s = .next s)
    ∧ (∀ s unit off len r, stackRuns s unit = true → s.snap.run = some r → s.dev.state = .snapshotting → r.xfer.closing = false →
      s.frame.lockUp = false → copiesPause s = false → completes (.snapshotCopy unit off len) s (fun t =>
        let u := wholeUnits off len
        let ps := ((piecesIn u.1 u.2 0 (genPieces s)).filter (fun p => addrStack p.2.1 = unit)).map (fun p =>
          ({ dst := partnerOf s r.generation, off := dataOff + p.1, bytes := hbmBytes s p.2.1 p.2.2, bad := badWords s p.2.1 p.2.2, copy := true,
             served := false } : SlotPiece))
        t.snap = { s.snap with run := some { r with xfer := r.xfer.send ps (maySend s) } } ∧ t.hbm = s.hbm
        ∧ (maySend s = true → t.fabric = (sendPieces ps s).fabric) ∧ (maySend s = false → t.fabric = s.fabric)))
    ∧ (∀ s unit off len, (stackRuns s unit = false ∨ s.frame.lockUp = true ∨ copiesPause s = true
        ∨ (openServe s = none ∧ (s.snap.run = none ∨ s.dev.state ≠ .snapshotting ∨ ∃ r, s.snap.run = some r ∧ r.xfer.closing = true))) →
      exec (.snapshotCopy unit off len) s = .next s)
    ∧ (∀ s r, s.snap.run = some r →
      let x := r.xfer.take s.fabric.sends
      let dst := partnerOf s r.generation
      let whole := x.whole dst (genTables s).length (genBytes s)
      (coreRuns s = true → s.dev.state = .snapshotting → r.xfer.closing = false → whole = true → completes .snapshotStopEnd s (fun t =>
        let ps := [firmPiece dst 0 (runHdr s r true).image,
          firmPiece (partnerOf s (r.generation + 1)) 56 (leBytes 8 r.generation.toNat ++ zeros 56)]
        t.snap = { s.snap with run := some { r with xfer := ({ x with closing := true } : Xfer).send ps (maySend s) } }
        ∧ t.hbm = s.hbm ∧ t.dev = s.dev))
      ∧ ((coreRuns s = false ∨ s.dev.state ≠ .snapshotting ∨ r.xfer.closing = true ∨ whole = false) →
        exec .snapshotStopEnd s = .next s))
    ∧ (∀ s, s.snap.run = none → exec .snapshotStopEnd s = .next s)
    ∧ (∀ s r d, coreRuns s = true → s.snap.run = some r → s.dev.state = .snapshotting → s.dev.left = some d → 16 ≤ r.xfer.noAck →
      completes .snapshotAbort s (fun t => t.snap = { s.snap with run := none } ∧ t.dev.left = none
        ∧ t.dev.state = (if (acceptedOp s 0x52).isSome then .held else d)))
    ∧ (∀ s, (coreRuns s = false ∨ s.snap.run = none ∨ s.dev.state ≠ .snapshotting
        ∨ ∃ r, s.snap.run = some r ∧ r.xfer.noAck < 16) → exec .snapshotAbort s = .next s)
    ∧ (∀ s acked, (coreRuns s = false ∨ s.snap.proofRecs = []) → exec (.proofRecordWrite acked) s = .next s)
    ∧ (∀ s acked b n rest, coreRuns s = true → s.snap.proofRecs = (b, n) :: rest → completes (.proofRecordWrite acked) s (fun t =>
      t.snap = { s.snap with proofRecs := if acked = true ∨ 15 ≤ n then rest else (b, n + 1) :: rest }
      ∧ t.fabric = (sendPieces [firmPiece (partnerOf s (BitVec.ofNat 64 (fieldN b 0 8))) recordOff b] s).fabric ∧ t.hbm = s.hbm))

/-- Restore, proof and export (R300 to R302, R340, R347, R351 to R353, R355 to R358): a RESTORE asks its source, saying what its image holds, and the
chip is RESTORING; a usable generation of the right size, shapes and owned tiles that arrives, in packets or in the command's bytes (log entry 32,
also for the owned tiles), leaves it HELD on that generation, to regenerate; none, or another, leaves it LOADED; nothing is read or written while a
clock of its stacks has stopped (R407). A PROOF asks the partner of the latest generation; the generation that arrives is the one the proof runs on,
without a latest one the member asks for the previous, and without both the proof ends; the rollback behind a failed proof ends it with PROOF_FAILED.
A source answers NO_SNAPSHOT for a generation that it does not hold usable and REFUSED_FIT for one that does not fit; any other begins its way in
pieces, header first, and its data follow by copies; one that has been damaged since, or whose chip acknowledges nothing for 16 frames, ends; the
acknowledged end of a mapped restore, and nothing before it, rebinds the slot. A held usable generation is exported; anything else is not. -/
def Obligations.RestoreAndProof : Prop :=
  (∀ s a, issued .restore s a = true → completes .restore s (fun t =>
      t.dev.state = .restoring ∧ slotAccepted a 0x62 [] s t
      ∧ ∃ r, t.snap.restore = some r ∧ r.source = (cmdOf a s).n 0 2 ∧ r.map = restoreMap (cmdOf a s) ∧ r.proof = false ∧ r.got = []
        ∧ r.previous = decide ((cmdOf a s).n 2 1 = 1)
        ∧ t.fabric.out = s.fabric.out ++ [.restoreAsk r.source r.identity ((cmdOf a s).n 2 1) (ownAsk s)]))
    ∧ (∀ s b, (coreRuns s = false ∨ ownPlacesRun s = false ∨ s.snap.restore = none
        ∨ ((∃ r, s.snap.restore = some r ∧ r.proof = false) ∧ s.dev.state ≠ .restoring)) → exec (.restoreDone b) s = .next s)
    ∧ (∀ s data r, coreRuns s = true → ownPlacesRun s = true → s.snap.restore = some r → r.proof = false → s.dev.state = .restoring →
      let b := arrivedBytes r data
      (arrivedGen r b = none → completes (.restoreDone data) s (fun t =>
          t.dev.state = .loaded ∧ t.snap = { s.snap with restore := none } ∧ t.hbm = s.hbm ∧ t.step = s.step))
      ∧ (∀ g, arrivedGen r b = some g → completes (.restoreDone data) s (fun t =>
          if g.bytes = genBytes s ∧ sameTensors g b s = true then
            t.dev.state = .held ∧ t.step.record = readStepRec (sliceB b tablesOff g.tables) ∧ t.step.regen = true
            ∧ t.snap.nextGen = g.generation + 1 ∧ t.snap.latestGen = some g.latest ∧ t.snap.restore = none
            ∧ t.fabric.stalled = [] ∧ t.life.now.restores = s.life.now.restores + 1
          else t.dev.state = .loaded ∧ t.snap = { s.snap with restore := none } ∧ t.hbm = s.hbm ∧ t.step = s.step)))
    ∧ (∀ s data r, coreRuns s = true → ownPlacesRun s = true → s.snap.restore = some r → r.proof = true →
      let b := arrivedBytes r data
      (s.step.proof = none → exec (.restoreDone data) s = .next { s with snap := { s.snap with restore := none } })
      ∧ (∀ p, s.step.proof = some p → p.combined.isSome = true → completes (.restoreDone data) s (fun t =>
          t.step.proof = none ∧ t.step.regen = true ∧ t.snap.restore = none))
      ∧ (∀ p g, s.step.proof = some p → p.combined = none → arrivedGen r b = some g → completes (.restoreDone data) s (fun t =>
          t.step.proof = some (withRecord g b p) ∧ t.snap.restore = none ∧ t.step.regen = true
          ∧ (s.step.regen = false → t.step.record = readStepRec (sliceB b tablesOff g.tables))))
      ∧ (∀ p, s.step.proof = some p → p.combined = none → arrivedGen r b = none →
          let latest := s.snap.latestGen.getD 0
          (r.previous = false → 0 < latest.toNat → exec (.restoreDone data) s = .next (askProof (latest - 1) true s))
          ∧ ((r.previous = true ∨ latest = 0) → completes (.restoreDone data) s (fun t => t.step.proof = none ∧ t.snap.restore = none))))
    ∧ (∀ s ask id which mapped, coreRuns s = true → slotsRun s = true →
      (slotOfId s id = none → exec (.restoreRequest ask id which mapped) s = .next (emit [.restoreAnswer ask.chip stNoSnapshot 0] s))
      ∧ (∀ n g, slotOfId s id = some n → heldIn s n = some g →
        (servable g which = false → exec (.restoreRequest ask id which mapped) s = .next (emit [.restoreAnswer ask.chip stNoSnapshot 0] s))
        ∧ (servable g which = true → completes (.restoreRequest ask id which mapped) s (fun t =>
          let b := slotImage s n
          let ps := [firmPiece ask.chip 0 ({ g with complete := false } : GenHdr).image, firmPiece ask.chip recordOff (sliceB b recordOff 64),
            firmPiece ask.chip tablesOff (sliceB b tablesOff g.tables)].map (fun p => { p with served := true })
          let v : ServeRun := { requester := ask.chip, identity := id, slot := n, mapped := mapped, xfer := Xfer.new.send ps (maySend s) }
          if fits s n g ask then t.hbm = s.hbm
            ∧ t.snap = { s.snap with serves := s.snap.serves.filter (fun v => v.requester != ask.chip) ++ [v] }
          else t = emit [.restoreAnswer ask.chip stRefusedFit 0x0601] s))))
    ∧ (∀ s ask id which mapped, (coreRuns s = false ∨ slotsRun s = false) → exec (.restoreRequest ask id which mapped) s = .next s)
    ∧ (∀ s unit off len v base size g, stackRuns s unit = true → s.frame.lockUp = false → copiesPause s = false →
      (s.snap.run = none ∨ s.dev.state ≠ .snapshotting) → openServe s = some v → slotBase s v.slot = some (base, size) →
      heldIn s v.slot = some g → completes (.snapshotCopy unit off len) s (fun t =>
        let u := wholeUnits off len
        let ps := (slotPieces base u.1 (Nat.min u.2 (g.bytes - u.1)) unit).map (fun p =>
          ({ dst := v.requester, off := p.1, bytes := hbmBytes s p.2.1 p.2.2, bad := badWords s p.2.1 p.2.2, copy := true,
             served := true } : SlotPiece))
        t = servePieces v.requester ps s
        ∧ t.hbm = s.hbm ∧ t.snap.held0 = s.snap.held0 ∧ t.snap.held1 = s.snap.held1))
    ∧ (∀ s v g, heldIn s v.slot = some g →
      let gone := { s with snap := { s.snap with serves := s.snap.serves.filter (· != v) } }
      ((g.usable = false ∨ g.identity ≠ v.identity) → endServe v s = emit [.restoreAnswer v.requester stNoSnapshot 0] gone)
      ∧ (g.usable = true → g.identity = v.identity → 16 ≤ v.xfer.noAck → endServe v s = gone)
      ∧ (g.usable = true → g.identity = v.identity → v.xfer.noAck < 16 → v.xfer.closed v.requester = true →
        endServe v s = (if v.mapped then setHeld v.slot (some { g with identity := v.requester }) gone else gone)))
    ∧ (∀ s a, issued .proof s a = true →
      let member := groupHere s ((cmdOf a s).n 0 2)
      (member = false → completes .proof s (fun t => slotDone a stBadArgument 0 [] s t ∧ t.step = s.step ∧ t.snap = s.snap))
      ∧ (member = true → s.snap.partnersSet = false → completes .proof s (fun t =>
          slotDone a stWrongState 0 [] s t ∧ t.step = s.step ∧ t.snap = s.snap))
      ∧ (member = true → s.snap.partnersSet = true → s.snap.latestGen = none → completes .proof s (fun t =>
          slotDone a stNoSnapshot 0 [] s t ∧ t.step = s.step ∧ t.snap = s.snap))
      ∧ (∀ g, member = true → s.snap.partnersSet = true → s.snap.latestGen = some g → completes .proof s (fun t =>
          slotAccepted a 0x63 [] s t
          ∧ (∃ p, t.step.proof = some p ∧ p.generation = g ∧ p.rolledBack = false)
          ∧ t.snap.restore = some { source := partnerOf s g, identity := s.dev.fabric, previous := false, map := [], proof := true,
                                     got := [] })))
    ∧ (∀ s, slotsRun s = false → exec .exportSnapshot s = .next s)
    ∧ (∀ s a, issued .exportSnapshot s a = true → slotsRun s = true →
      let c := cmdOf a s
      (exportFits c s = false → completes .exportSnapshot s (fun t => slotDone a stBadArgument 0 [] s t ∧ t.mbx.dma = s.mbx.dma))
      ∧ ((heldIn s (c.n 2 1) = none ∨ ∃ g, heldIn s (c.n 2 1) = some g ∧ (g.identity ≠ c.n 0 2 ∨ g.usable = false)) →
          completes .exportSnapshot s (fun t =>
          slotDone a stNoSnapshot 0 [] s t ∧ t.mbx.dma = s.mbx.dma))
      ∧ (∀ g, heldIn s (c.n 2 1) = some g → g.identity = c.n 0 2 → g.usable = true → exportFits c s = true →
          completes .exportSnapshot s (fun t =>
            slotAccepted a 0x64 [] s t ∧ t.mbx.dma = s.mbx.dma ++ [{
              opcode := 0x64
              binding := c.n 3 1
              write := true
              offset := c.n 8 8
              bytes := slotImage s (c.n 2 1) }])))

/-- The commands of fault sources (R303, R371, R372): FAULT_READ delivers its records and changes nothing else; FAULT_CONFIG waits
at every unit named that is not absent; forced events wait for the next tick, not on a fenced cell; UNFENCE waits for the next
tick on a cell that a forced event fenced. -/
def Obligations.FaultCommands : Prop :=
  (∀ s a, issued .faultRead s a = true →
      let c := cmdOf a s
      completes .faultRead s (fun t => onlyChanges [.portA, .portB, .mbx] s t
        ∧ slotDone a stDone 0 (leBytes 2 (c.n 6 2) ++ zeros 14
            ++ ((List.range (c.n 6 2)).map (fun i => sourceRecord (levelArg c) (c.n 2 2) (c.n 4 2 + i) s)).flatten) s t))
    ∧ (∀ s a, issued .faultConfig s a = true →
      let c := cmdOf a s
      completes .faultConfig s (fun t => slotDone a stDone 0 [] s t
        ∧ ∀ u, ((c.n 2 2 ≠ 0xFFFF ∧ u = c.n 2 2) ∨ (c.n 2 2 = 0xFFFF ∧ u < (levelArg c).units)) → absentUnit (levelArg c) u s = false →
            (faultSrc (levelArg c) u (c.n 4 2) t).pending
              = some ({ n := c.n 6 1, w := c.n 8 2, action := c.n 7 1 }, s.tick.count)))
    ∧ (∀ s a, issued .faultForce s a = true →
      let c := cmdOf a s
      let fenced := decide (levelArg c = .cell) && decide (cellState (c.n 2 2) s = .fenced)
      (fenced = true → completes .faultForce s (fun t => slotDone a stWrongState 0 [] s t ∧ t.faults = s.faults))
      ∧ (fenced = false → completes .faultForce s (fun t => slotDone a stDone 0 [] s t
          ∧ t.faults = { s.faults with forcedNext :=
              s.faults.forcedNext ++ [(faultKey (levelArg c) (c.n 2 2) (c.n 4 2), c.n 6 1)] })))
    ∧ (∀ s a, issued .unfence s a = true →
      let k := (cmdOf a s).n 0 2
      (cellState k s = .fenced → s.cells.forcedFence.contains k = true → completes .unfence s (fun t =>
          slotDone a stDone 0 [] s t ∧ t.cells = { s.cells with unfenceAt := insertNat s.cells.unfenceAt k }))
      ∧ ((cellState k s ≠ .fenced ∨ s.cells.forcedFence.contains k = false) → completes .unfence s (fun t =>
          slotDone a stWrongState 0 [] s t ∧ t.cells = s.cells)))

/-- Records and statistics (R304 to R306, R363, R440, R441, R444, R445, R447): EVENT_READ delivers at once up to 3 records, or through its binding
those that still exist when they are written; LIFETIME_READ delivers the counters; STATS_READ through its binding, when the tensors exist and the
records fit; a delivery that its binding allows lands in host memory and ends its command, one past the end of its binding moves nothing and ends it
with BAD_ARGUMENT (R267). The oldest waiting event goes into the ring, with a record of what was lost behind it; a lifetime image goes into the next
of its 32 positions when it is due. -/
def Obligations.RecordsAndStatistics : Prop :=
  (∀ s a, issued .eventRead s a = true →
      let c := cmdOf a s
      let l := eventsFrom s (c.n 0 8) (c.n 8 4)
      let bytes := (l.map EventRec.bytes).flatten
      (c.n 12 1 = 0xFF → completes .eventRead s (fun t =>
          slotDone a stDone 0 (leBytes 4 l.length ++ zeros 4 ++ bytes) s t ∧ onlyChanges [.portA, .portB, .mbx] s t))
      ∧ (c.n 12 1 ≠ 0xFF → completes .eventRead s (fun t => slotAccepted a 0x80 [] s t
          ∧ t.mbx.dma = s.mbx.dma ++ [{ opcode := 0x80, binding := c.n 12 1, write := true, offset := c.n 16 8, bytes := bytes }])))
    ∧ (∀ s a, issued .lifetimeRead s a = true → completes .lifetimeRead s (fun t =>
      slotDone a stDone 0 s.life.now.bytes s t ∧ onlyChanges [.portA, .portB, .mbx] s t))
    ∧ (∀ s a, issued .statsRead s a = true →
      let c := cmdOf a s
      (statsFit c s = false → completes .statsRead s (fun t => slotDone a stBadArgument 0 [] s t ∧ t.mbx.dma = s.mbx.dma))
      ∧ (statsFit c s = true → completes .statsRead s (fun t => slotAccepted a 0xB0 [] s t
          ∧ t.mbx.dma = s.mbx.dma ++ [{ opcode := 0xB0, binding := c.n 5 1, write := true, offset := c.n 8 8, bytes := statsWanted c s }])))
    ∧ (∀ s p, (coreRuns s = false ∨ s.mbx.accepted.find? (fun x => bulkOps.contains x.opcode && decide (x.port = p)) = none
        ∨ s.mbx.dma.find? (fun d => d.write && decide (bindPort d.binding = p)) = none) →
      exec (.hostBufferDeliveryDone p) s = .next s)
    ∧ (∀ s p x d, coreRuns s = true →
      s.mbx.accepted.find? (fun x => bulkOps.contains x.opcode && decide (x.port = p)) = some x →
      s.mbx.dma.find? (fun d => d.write && decide (bindPort d.binding = p)) = some d →
      (dmaReady s true d.binding = true → dmaFits s d.binding d.offset d.bytes.length = true → s.mbx.silenced = false →
        (slotAt x.port x.slot s).st = .accepted → completes (.hostBufferDeliveryDone p) s (fun t =>
          t.mbx.hostMem = (hostWrite d.binding d.offset (deliveredBytes s x d) s).mbx.hostMem
          ∧ (x.opcode ≠ 0x80 → deliveredBytes s x d = d.bytes)
          ∧ (x.opcode = 0x80 → (deliveredBytes s x d).length ≤ d.bytes.length)
          ∧ t.mbx.dma = s.mbx.dma.filter (· != d) ∧ t.mbx.accepted = s.mbx.accepted.filter (· != x)
          ∧ slotDone { port := x.port, slot := x.slot, alive := true } stDone 0
              (if x.opcode = 0x80 then leBytes 4 ((deliveredBytes s x d).length / 64) ++ zeros 4 else []) s t))
      ∧ (dmaReady s true d.binding = true → dmaFits s d.binding d.offset d.bytes.length = false →
          exec (.hostBufferDeliveryDone p) s
            = .next (finishAcc x stBadArgument 0 [] { s with mbx := { s.mbx with dma := s.mbx.dma.filter (· != d) } }))
      ∧ (dmaReady s true d.binding = false → exec (.hostBufferDeliveryDone p) s = .next s))
    ∧ (∀ s r rest, collectorsRun s = true → s.flash.queue = r :: rest → completes .eventRecordWrite s (fun t =>
      r ∈ t.flash.ring ∧ ((s.flash.lostCount = 0 ∨ 512 ≤ rest.length) → t.flash.queue = rest)
      ∧ (s.flash.lostCount ≠ 0 → rest.length < 512 →
        t.flash.lostCount = 0 ∧ ∃ x, t.flash.queue = rest ++ [x] ∧ x.type = 0x000F)))
    ∧ (∀ s, (collectorsRun s = false ∨ (s.flash.queue = [] ∧ s.flash.corrQueue = [])) → exec .eventRecordWrite s = .next s)
    ∧ (∀ s, collectorsRun s = true → (s.life.writeDue = true ∨ 900000000 ≤ s.life.sinceWriteUs) → completes .lifetimeWrite s (fun t =>
      t.life.now = { s.life.now with writeCount := s.life.now.writeCount + 1 }
      ∧ (∃ x, SMap.get? t.flash.images s.flash.nextImage = some x ∧ x.life = t.life.now)
      ∧ t.flash.nextImage = (s.flash.nextImage + 1) % 32
      ∧ t.life.writeDue = false ∧ t.life.sinceWriteUs = 0 ∧ t.flash.ring = s.flash.ring))
    ∧ (∀ s, (collectorsRun s = false ∨ (s.life.writeDue = false ∧ s.life.sinceWriteUs < 900000000)) → exec .lifetimeWrite s = .next s)

/-- LOUPE and firmware (R100, R307, R309, R420, R425): a LOUPE on a pass of an ACTIVE cell is ACCEPTED, any other refused; when it has run, its tiles
stand in host memory and nothing else of the run stays but the free values that it drew; it waits for an issue ceiling above 0 and for its region's
clocks, and a range past the end of its binding ends it with BAD_ARGUMENT. A staged bank verifies, its read-back included (R420), or leaves slot B
empty; only a staged image activates, at the next start-up or after a reset. -/
def Obligations.LoupeAndFirmware : Prop :=
  (∀ s a, issued .loupe s a = true →
      (loupeFits (cmdOf a s) s = true → completes .loupe s (fun t => slotAccepted a 0x90 [] s t))
      ∧ (loupeFits (cmdOf a s) s = false → completes .loupe s (fun t => slotDone a stBadArgument 0 [] s t)))
    ∧ (∀ s, (coreRuns s = false ∨ acceptedOp s 0x90 = none) → exec .loupeRunDone s = .next s)
    ∧ (∀ s x, coreRuns s = true → acceptedOp s 0x90 = some x →
      let r := loupeTiles x.args s
      let b := fieldN x.args 3 1
      let off := fieldN x.args 16 8
      let runs := dmaReady s true b = true ∧ ceilingOf 4 s (fieldN x.args 0 2) ≠ 0
        ∧ cellRegion (fieldN x.args 0 2) ∉ s.clocks.stopped
      (runs → dmaFits s b off r.1.length = true → s.mbx.silenced = false → (slotAt x.port x.slot s).st = .accepted →
          completes .loupeRunDone s (fun t =>
            t.mbx.hostMem = (hostWrite b off r.1 s).mbx.hostMem
            ∧ slotDone { port := x.port, slot := x.slot, alive := true } stDone 0 [] s t
            ∧ onlyChanges [.portA, .portB, .mbx, .freeIdx] s t))
      ∧ (runs → dmaFits s b off r.1.length = false → exec .loupeRunDone s = .next (finishAcc x stBadArgument 0 [] s))
      ∧ (¬ runs → exec .loupeRunDone s = .next s))
    ∧ (∀ s, (coreRuns s = false ∨ s.staging.stage = none) → exec .firmwareStageDone s = .next s)
    ∧ (∀ s x v, coreRuns s = true → s.staging.stage = some (x, v) → completes .firmwareStageDone s (fun t =>
      let w := stageStatus v s
      t.staging = StagingSt.reset
      ∧ (s.flash.bootRec.sequence.toNat + 1 < 2 ^ 32 → t.flash.bootRec = {
          sequence := s.flash.bootRec.sequence + 1, primary := s.flash.primary, slotB := if w = stDone then 2 else 0, swap := s.flash.swap })
      ∧ (s.flash.primary = 0 → t.flash.bank1 = x ∧ t.flash.bank0 = s.flash.bank0)
      ∧ (s.flash.primary ≠ 0 → t.flash.bank0 = x ∧ t.flash.bank1 = s.flash.bank1)))
    ∧ (∀ s a, issued .firmwareActivate s a = true →
      (s.flash.slotB ≠ 2 → completes .firmwareActivate s (fun t => slotDone a stWrongState 0 [] s t ∧ t.flash = s.flash ∧ t.dev = s.dev))
      ∧ (s.flash.slotB = 2 → completes .firmwareActivate s (fun t => slotDone a stDone 0 [] s t
          ∧ t.flash = s.flash.writeBoot s.flash.primary s.flash.slotB true
          ∧ (bitOf ((cmdOf a s).n 0 1) 0 = true → t.dev.resetAt = some (s.tick.timeUs + 1000))
          ∧ (bitOf ((cmdOf a s).n 0 1) 0 = false → t.dev = s.dev))))
end

