-- ==== Sys2Proof/Laws/Does.lean ====
section
/-! SUPPORT. What an operation can do, said once for each: the components it may change, and that the memories stay in
canonical form. The lemmas here compose; the files beside this one hold one lemma for each operation. -/

namespace Sys2Proof.Machine
open Sys2Proof

/-- An operation that leads from `s` to `t` changes only the listed components and keeps the memories canonical. -/
structure Does (l : List Comp) (s t : State) : Prop where
  only : onlyChanges l s t
  keeps : MemoryOk s → MemoryOk t

/-- One list of components lies in another. -/
def within (l m : List Comp) : Bool := l.all m.contains

theorem mem_of_within {l m : List Comp} (h : within l m = true) {k : Comp} (hk : k ∈ l) : k ∈ m := by
  have := List.all_eq_true.mp h k hk
  simpa using this

theorem same_refl (k : Comp) (s : State) : same k s s := by cases k <;> rfl

theorem same_trans {k : Comp} {s t u : State} (h : same k s t) (h' : same k t u) : same k s u := by
  cases k <;> exact Eq.trans h' h

theorem onlyChanges_refl (l : List Comp) (s : State) : onlyChanges l s s := fun k => .inr (same_refl k s)

theorem onlyChanges_trans {l : List Comp} {s t u : State} (h : onlyChanges l s t) (h' : onlyChanges l t u) :
    onlyChanges l s u := fun k =>
  match h k, h' k with
  | .inl a, _ => .inl a
  | _, .inl a => .inl a
  | .inr a, .inr b => .inr (same_trans a b)

theorem onlyChanges_mono {l m : List Comp} {s t : State} (hl : within l m = true) (h : onlyChanges l s t) :
    onlyChanges m s t := fun k => (h k).imp (mem_of_within hl) id

theorem does_refl (l : List Comp) (s : State) : Does l s s := ⟨onlyChanges_refl l s, id⟩

theorem does_mono {l m : List Comp} {s t : State} (h : Does l s t) (hl : within l m = true) : Does m s t :=
  ⟨onlyChanges_mono hl h.only, h.keeps⟩

theorem does_trans {l : List Comp} {s t u : State} (h : Does l s t) (h' : Does l t u) : Does l s u :=
  ⟨onlyChanges_trans h.only h'.only, fun x => h'.keeps (h.keeps x)⟩

/-- The last operation of a chain, with its own list. -/
theorem does_step {l m : List Comp} {s u t : State} (h : Does l u t) (hl : within l m = true) (h' : Does m s u) : Does m s t :=
  does_trans h' (does_mono h hl)

theorem does_ite {l : List Comp} {s a b : State} {c : Prop} [Decidable c] (ha : Does l s a) (hb : Does l s b) :
    Does l s (if c then a else b) := by split <;> assumption

theorem does_cond {l : List Comp} {s a b : State} {c : Bool} (ha : Does l s a) (hb : Does l s b) :
    Does l s (bif c then a else b) := by cases c <;> assumption

theorem does_onlyIf {l : List Comp} {s u : State} {c : Bool} {f : State → State} (h : Does l s u) (hf : ∀ x, Does l x (f x)) :
    Does l s (onlyIf c f u) := by
  unfold onlyIf
  split
  · exact does_trans h (hf u)
  · exact h

theorem does_foldl {β : Type} {l : List Comp} {s u : State} {f : State → β → State} (hf : ∀ x b, Does l x (f x b)) (xs : List β)
    (h : Does l s u) : Does l s (xs.foldl f u) := by
  induction xs generalizing u with
  | nil => exact h
  | cons b bs ih => exact ih (does_trans h (hf u b))

theorem does_of_fst {β : Type} {l : List Comp} {s t : State} {p : State × β} {b : β} (h : p = (t, b)) (hp : Does l s p.1) :
    Does l s t := by rw [h] at hp; exact hp

theorem does_of_snd {β : Type} {l : List Comp} {s t : State} {p : β × State} {b : β} (h : p = (b, t)) (hp : Does l s p.2) :
    Does l s t := by rw [h] at hp; exact hp

theorem does_foldl_fst {β γ : Type} {l : List Comp} {s : State} {f : State × γ → β → State × γ}
    (hf : ∀ x b, Does l x.1 (f x b).1) (xs : List β) {u : State × γ} (h : Does l s u.1) : Does l s (xs.foldl f u).1 := by
  induction xs generalizing u with
  | nil => exact h
  | cons b bs ih => exact ih (does_trans h (hf u b))

theorem does_foldl_snd {β γ : Type} {l : List Comp} {s : State} {f : γ × State → β → γ × State}
    (hf : ∀ x b, Does l x.2 (f x b).2) (xs : List β) {u : γ × State} (h : Does l s u.2) : Does l s (xs.foldl f u).2 := by
  induction xs generalizing u with
  | nil => exact h
  | cons b bs ih => exact ih (does_trans h (hf u b))

/-- A fold over records that hold a state. -/
theorem does_foldl_of {α β : Type} {l : List Comp} {s : State} (g : α → State) {f : α → β → α}
    (hf : ∀ x b, Does l (g x) (g (f x b))) (xs : List β) {u : α} (h : Does l s (g u)) : Does l s (g (xs.foldl f u)) := by
  induction xs generalizing u with
  | nil => exact h
  | cons b bs ih => exact ih (does_trans h (hf u b))

theorem does_fst_ite {β : Type} {l : List Comp} {s : State} {x y : State × β} {c : Prop} [Decidable c] (hx : Does l s x.1)
    (hy : Does l s y.1) : Does l s (if c then x else y).1 := by split <;> assumption

theorem does_snd_ite {β : Type} {l : List Comp} {s : State} {x y : β × State} {c : Prop} [Decidable c] (hx : Does l s x.2)
    (hy : Does l s y.2) : Does l s (if c then x else y).2 := by split <;> assumption

/-- Two case memories list the same bytes. -/
abbrev CaseSame (x y : CaseSt) : Prop := x.mem = y.mem ∧ x.staged = y.staged ∧ x.inbound = y.inbound ∧ x.own = y.own ∧ x.host = y.host

/-- Two HBMs list the same bytes. -/
abbrev HbmSame (x y : HbmSt) : Prop := x.mem = y.mem ∧ x.localB = y.localB

/-- A change of components that hold no memory. -/
theorem does_of_only {l : List Comp} {s t : State} (h : onlyChanges l s t) (hc : CaseSame t.caseMem s.caseMem)
    (hh : HbmSame t.hbm s.hbm) (hm : t.mbx.hostMem = s.mbx.hostMem) : Does l s t :=
  ⟨h, fun ⟨a, b, c⟩ => ⟨⟨hc.1 ▸ a.mem, hc.2.1 ▸ a.staged, hc.2.2.1 ▸ a.inbound, hc.2.2.2.1 ▸ a.own, hc.2.2.2.2 ▸ a.host⟩, ⟨hh.1 ▸ b.mem, hh.2 ▸ b.localB⟩, hm ▸ c⟩⟩

/-- A command's effect leaves the queue alone. -/
theorem does_effect {l : List Comp} {s : State} {f : State → State} (h : Does l s (f s)) :
    ∀ t, effect f s = .next t → Does l s t ∧ t.pending = s.pending := by
  intro t ht
  cases ht
  refine ⟨⟨fun k => ?_, fun m => ⟨(h.keeps m).cases, (h.keeps m).hbm, (h.keeps m).host⟩⟩, rfl⟩
  have := h.only k
  cases k <;> first | exact this | exact .inr rfl

theorem set_tick_does (s : State) (x) : Does [.tick] s { s with tick := x } :=
  does_of_only (fun k => by cases k <;> first | exact .inr rfl | exact .inl (by decide)) ⟨rfl, rfl, rfl, rfl, rfl⟩ ⟨rfl, rfl⟩ rfl

theorem onTick_does (f) (s : State) : Does [.tick] s (onTick f s) := set_tick_does s (f s.tick)

theorem set_frame_does (s : State) (x) : Does [.frame] s { s with frame := x } :=
  does_of_only (fun k => by cases k <;> first | exact .inr rfl | exact .inl (by decide)) ⟨rfl, rfl, rfl, rfl, rfl⟩ ⟨rfl, rfl⟩ rfl

theorem onFrame_does (f) (s : State) : Does [.frame] s (onFrame f s) := set_frame_does s (f s.frame)

theorem set_step_does (s : State) (x) : Does [.step] s { s with step := x } :=
  does_of_only (fun k => by cases k <;> first | exact .inr rfl | exact .inl (by decide)) ⟨rfl, rfl, rfl, rfl, rfl⟩ ⟨rfl, rfl⟩ rfl

theorem onStep_does (f) (s : State) : Does [.step] s (onStep f s) := set_step_does s (f s.step)

theorem set_image_does (s : State) (x) : Does [.image] s { s with image := x } :=
  does_of_only (fun k => by cases k <;> first | exact .inr rfl | exact .inl (by decide)) ⟨rfl, rfl, rfl, rfl, rfl⟩ ⟨rfl, rfl⟩ rfl

theorem onImage_does (f) (s : State) : Does [.image] s (onImage f s) := set_image_does s (f s.image)

theorem set_caseMem_does (s : State) (x) (h : CaseSame x s.caseMem) : Does [.caseMem] s { s with caseMem := x } :=
  does_of_only (fun k => by cases k <;> first | exact .inr rfl | exact .inl (by decide)) h ⟨rfl, rfl⟩ rfl

theorem set_caseMem_keeps (s : State) (x) (h : CaseOk s.caseMem → CaseOk x) : Does [.caseMem] s { s with caseMem := x } :=
  ⟨fun k => by cases k <;> first | exact .inr rfl | exact .inl (by decide), fun ⟨a, b, c⟩ => ⟨h a, b, c⟩⟩

theorem onCase_does (f) (s : State) (h : CaseSame (f s.caseMem) s.caseMem) : Does [.caseMem] s (onCase f s) := set_caseMem_does s (f s.caseMem) h

theorem onCase_keeps (f) (s : State) (h : CaseOk s.caseMem → CaseOk (f s.caseMem)) : Does [.caseMem] s (onCase f s) :=
  set_caseMem_keeps s (f s.caseMem) h

theorem set_cells_does (s : State) (x) : Does [.cells] s { s with cells := x } :=
  does_of_only (fun k => by cases k <;> first | exact .inr rfl | exact .inl (by decide)) ⟨rfl, rfl, rfl, rfl, rfl⟩ ⟨rfl, rfl⟩ rfl

theorem onCells_does (f) (s : State) : Does [.cells] s (onCells f s) := set_cells_does s (f s.cells)

theorem set_stats_does (s : State) (x) : Does [.stats] s { s with stats := x } :=
  does_of_only (fun k => by cases k <;> first | exact .inr rfl | exact .inl (by decide)) ⟨rfl, rfl, rfl, rfl, rfl⟩ ⟨rfl, rfl⟩ rfl

theorem onStats_does (f) (s : State) : Does [.stats] s (onStats f s) := set_stats_does s (f s.stats)

theorem set_hbm_does (s : State) (x) (h : HbmSame x s.hbm) : Does [.hbm] s { s with hbm := x } :=
  does_of_only (fun k => by cases k <;> first | exact .inr rfl | exact .inl (by decide)) ⟨rfl, rfl, rfl, rfl, rfl⟩ h rfl

theorem set_hbm_keeps (s : State) (x) (h : HbmOk s.hbm → HbmOk x) : Does [.hbm] s { s with hbm := x } :=
  ⟨fun k => by cases k <;> first | exact .inr rfl | exact .inl (by decide), fun ⟨a, b, c⟩ => ⟨a, h b, c⟩⟩

theorem onHbm_does (f) (s : State) (h : HbmSame (f s.hbm) s.hbm) : Does [.hbm] s (onHbm f s) := set_hbm_does s (f s.hbm) h

theorem onHbm_keeps (f) (s : State) (h : HbmOk s.hbm → HbmOk (f s.hbm)) : Does [.hbm] s (onHbm f s) :=
  set_hbm_keeps s (f s.hbm) h

theorem set_portA_does (s : State) (x) : Does [.portA] s { s with portA := x } :=
  does_of_only (fun k => by cases k <;> first | exact .inr rfl | exact .inl (by decide)) ⟨rfl, rfl, rfl, rfl, rfl⟩ ⟨rfl, rfl⟩ rfl

theorem set_portB_does (s : State) (x) : Does [.portB] s { s with portB := x } :=
  does_of_only (fun k => by cases k <;> first | exact .inr rfl | exact .inl (by decide)) ⟨rfl, rfl, rfl, rfl, rfl⟩ ⟨rfl, rfl⟩ rfl

theorem set_mbx_does (s : State) (x) (h : x.hostMem = s.mbx.hostMem) : Does [.mbx] s { s with mbx := x } :=
  does_of_only (fun k => by cases k <;> first | exact .inr rfl | exact .inl (by decide)) ⟨rfl, rfl, rfl, rfl, rfl⟩ ⟨rfl, rfl⟩ h

theorem set_mbx_keeps (s : State) (x) (h : Memory.wf s.mbx.hostMem = true → Memory.wf x.hostMem = true) : Does [.mbx] s { s with mbx := x } :=
  ⟨fun k => by cases k <;> first | exact .inr rfl | exact .inl (by decide), fun ⟨a, b, c⟩ => ⟨a, b, h c⟩⟩

theorem onMbx_does (f) (s : State) (h : (f s.mbx).hostMem = s.mbx.hostMem) : Does [.mbx] s (onMbx f s) := set_mbx_does s (f s.mbx) h

theorem onMbx_keeps (f) (s : State) (h : Memory.wf s.mbx.hostMem = true → Memory.wf (f s.mbx).hostMem = true) : Does [.mbx] s (onMbx f s) :=
  set_mbx_keeps s (f s.mbx) h

theorem set_own_does (s : State) (x) : Does [.own] s { s with own := x } :=
  does_of_only (fun k => by cases k <;> first | exact .inr rfl | exact .inl (by decide)) ⟨rfl, rfl, rfl, rfl, rfl⟩ ⟨rfl, rfl⟩ rfl

theorem onOwn_does (f) (s : State) : Does [.own] s (onOwn f s) := set_own_does s (f s.own)

theorem set_dev_does (s : State) (x) : Does [.dev] s { s with dev := x } :=
  does_of_only (fun k => by cases k <;> first | exact .inr rfl | exact .inl (by decide)) ⟨rfl, rfl, rfl, rfl, rfl⟩ ⟨rfl, rfl⟩ rfl

theorem onDev_does (f) (s : State) : Does [.dev] s (onDev f s) := set_dev_does s (f s.dev)

theorem set_env_does (s : State) (x) : Does [.env] s { s with env := x } :=
  does_of_only (fun k => by cases k <;> first | exact .inr rfl | exact .inl (by decide)) ⟨rfl, rfl, rfl, rfl, rfl⟩ ⟨rfl, rfl⟩ rfl

theorem onEnv_does (f) (s : State) : Does [.env] s (onEnv f s) := set_env_does s (f s.env)

theorem set_power_does (s : State) (x) : Does [.power] s { s with power := x } :=
  does_of_only (fun k => by cases k <;> first | exact .inr rfl | exact .inl (by decide)) ⟨rfl, rfl, rfl, rfl, rfl⟩ ⟨rfl, rfl⟩ rfl

theorem onPower_does (f) (s : State) : Does [.power] s (onPower f s) := set_power_does s (f s.power)

theorem set_pins_does (s : State) (x) : Does [.pins] s { s with pins := x } :=
  does_of_only (fun k => by cases k <;> first | exact .inr rfl | exact .inl (by decide)) ⟨rfl, rfl, rfl, rfl, rfl⟩ ⟨rfl, rfl⟩ rfl

theorem onPins_does (f) (s : State) : Does [.pins] s (onPins f s) := set_pins_does s (f s.pins)

theorem set_clocks_does (s : State) (x) : Does [.clocks] s { s with clocks := x } :=
  does_of_only (fun k => by cases k <;> first | exact .inr rfl | exact .inl (by decide)) ⟨rfl, rfl, rfl, rfl, rfl⟩ ⟨rfl, rfl⟩ rfl

theorem onClocks_does (f) (s : State) : Does [.clocks] s (onClocks f s) := set_clocks_does s (f s.clocks)

theorem set_faults_does (s : State) (x) : Does [.faults] s { s with faults := x } :=
  does_of_only (fun k => by cases k <;> first | exact .inr rfl | exact .inl (by decide)) ⟨rfl, rfl, rfl, rfl, rfl⟩ ⟨rfl, rfl⟩ rfl

theorem onFaults_does (f) (s : State) : Does [.faults] s (onFaults f s) := set_faults_does s (f s.faults)

theorem set_fabric_does (s : State) (x) : Does [.fabric] s { s with fabric := x } :=
  does_of_only (fun k => by cases k <;> first | exact .inr rfl | exact .inl (by decide)) ⟨rfl, rfl, rfl, rfl, rfl⟩ ⟨rfl, rfl⟩ rfl

theorem onFabric_does (f) (s : State) : Does [.fabric] s (onFabric f s) := set_fabric_does s (f s.fabric)

theorem set_snap_does (s : State) (x) : Does [.snap] s { s with snap := x } :=
  does_of_only (fun k => by cases k <;> first | exact .inr rfl | exact .inl (by decide)) ⟨rfl, rfl, rfl, rfl, rfl⟩ ⟨rfl, rfl⟩ rfl

theorem onSnap_does (f) (s : State) : Does [.snap] s (onSnap f s) := set_snap_does s (f s.snap)

theorem set_ident_does (s : State) (x) : Does [.ident] s { s with ident := x } :=
  does_of_only (fun k => by cases k <;> first | exact .inr rfl | exact .inl (by decide)) ⟨rfl, rfl, rfl, rfl, rfl⟩ ⟨rfl, rfl⟩ rfl

theorem onIdent_does (f) (s : State) : Does [.ident] s (onIdent f s) := set_ident_does s (f s.ident)

theorem set_flash_does (s : State) (x) : Does [.flash] s { s with flash := x } :=
  does_of_only (fun k => by cases k <;> first | exact .inr rfl | exact .inl (by decide)) ⟨rfl, rfl, rfl, rfl, rfl⟩ ⟨rfl, rfl⟩ rfl

theorem onFlash_does (f) (s : State) : Does [.flash] s (onFlash f s) := set_flash_does s (f s.flash)

theorem set_life_does (s : State) (x) : Does [.life] s { s with life := x } :=
  does_of_only (fun k => by cases k <;> first | exact .inr rfl | exact .inl (by decide)) ⟨rfl, rfl, rfl, rfl, rfl⟩ ⟨rfl, rfl⟩ rfl

theorem set_staging_does (s : State) (x) : Does [.staging] s { s with staging := x } :=
  does_of_only (fun k => by cases k <;> first | exact .inr rfl | exact .inl (by decide)) ⟨rfl, rfl, rfl, rfl, rfl⟩ ⟨rfl, rfl⟩ rfl

theorem onStaging_does (f) (s : State) : Does [.staging] s (onStaging f s) := set_staging_does s (f s.staging)

theorem set_freeIdx_does (s : State) (x) : Does [.freeIdx] s { s with freeIdx := x } :=
  does_of_only (fun k => by cases k <;> first | exact .inr rfl | exact .inl (by decide)) ⟨rfl, rfl, rfl, rfl, rfl⟩ ⟨rfl, rfl⟩ rfl

theorem set_pending_does (s : State) (x) : Does [.pending] s { s with pending := x } :=
  does_of_only (fun k => by cases k <;> first | exact .inr rfl | exact .inl (by decide)) ⟨rfl, rfl, rfl, rfl, rfl⟩ ⟨rfl, rfl⟩ rfl

end Sys2Proof.Machine
end

