-- ==== Sys2Proof/Laws/Maps.lean ====
section
/-! SUPPORT. Sparse maps: what a lookup gives after an update. -/

namespace Sys2Proof.Machine
open Sys2Proof

/-- A key put reads back, in any map. -/
theorem get?_put_same {β : Type} (a : Nat) (v : β) : ∀ m : SMap β, SMap.get? (SMap.put m a v) a = some v
  | [] => by simp [SMap.put, SMap.get?]
  | (k, w) :: rest => by
    unfold SMap.put
    split
    · rename_i h
      simp [SMap.get?, h]
    · split
      · simp [SMap.get?]
      · rename_i h h'
        rw [SMap.get?, if_neg (Ne.symm h), if_neg h', get?_put_same a v rest]

/-- A put leaves every other key alone, in any map. -/
theorem get?_put_ne {β : Type} {a c : Nat} (h : c ≠ a) (v : β) :
    ∀ m : SMap β, SMap.get? (SMap.put m a v) c = SMap.get? m c
  | [] => by simp [SMap.put, SMap.get?, h.symm]
  | (k, w) :: rest => by
    unfold SMap.put
    split
    · rename_i e
      subst e
      simp [SMap.get?, h.symm]
    · split
      · rename_i h1 h2
        conv_lhs => unfold SMap.get?
        rw [if_neg h.symm]
        split
        · unfold SMap.get?
          rw [if_neg (by omega), if_pos (by omega)]
        · rfl
      · unfold SMap.get?
        split
        · rfl
        · split
          · rfl
          · exact get?_put_ne h v rest

@[simp] theorem getD_put_same {β : Type} (m : SMap β) (a : Nat) (v d : β) : SMap.getD (SMap.put m a v) a d = v := by
  simp [SMap.getD, get?_put_same]

theorem getD_put_ne {β : Type} {a c : Nat} (h : c ≠ a) (m : SMap β) (v d : β) :
    SMap.getD (SMap.put m a v) c d = SMap.getD m c d := by simp [SMap.getD, get?_put_ne h]

/-- A deleted key reads as absent, in any map. -/
theorem get?_del_same {β : Type} (a : Nat) : ∀ m : SMap β, SMap.get? (SMap.del m a) a = none
  | [] => rfl
  | (k, w) :: rest => by
    simp only [SMap.del, List.filter_cons]
    split
    · rename_i h
      simp only [bne_iff_ne, ne_eq] at h
      rw [SMap.get?, if_neg h]
      split
      · rfl
      · exact get?_del_same a rest
    · exact get?_del_same a rest

@[simp] theorem getD_putD_same {β : Type} [DecidableEq β] (m : SMap β) (a : Nat) (d v : β) :
    SMap.getD (SMap.putD m a d v) a d = v := by
  unfold SMap.putD
  split
  · rename_i h
    simp [SMap.getD, get?_del_same, h]
  · exact getD_put_same m a v d

theorem get?_below {β : Type} {c : Nat} : ∀ {m : SMap β}, (∀ p ∈ m, c < p.1) → SMap.get? m c = none
  | [], _ => rfl
  | (k, w) :: rest, h => by
    have hk := h (k, w) (by simp)
    dsimp only at hk
    rw [SMap.get?, if_neg (by omega), if_pos hk]

/-- In a map whose keys rise, a deletion leaves every other key alone. -/
theorem get?_del_ne {β : Type} {a c : Nat} (h : c ≠ a) : ∀ {m : SMap β}, keysRise m → SMap.get? (SMap.del m a) c = SMap.get? m c
  | [], _ => rfl
  | (k, w) :: rest, hm => by
    have hm' := List.pairwise_cons.mp hm
    simp only [SMap.del, List.filter_cons]
    split
    · rw [SMap.get?, SMap.get?]
      split
      · rfl
      · split
        · rfl
        · exact get?_del_ne h hm'.2
    · rename_i hk
      simp only [bne_iff_ne, ne_eq, not_not] at hk
      subst hk
      conv_rhs => unfold SMap.get?
      rw [if_neg (Ne.symm h)]
      split
      · exact get?_below (fun p hp => by
          have h1 := hm'.1 p (List.mem_filter.mp hp).1
          dsimp only at h1
          omega)
      · exact get?_del_ne h hm'.2

theorem getD_putD_ne {β : Type} [DecidableEq β] {a c : Nat} (h : c ≠ a) {m : SMap β} (hm : keysRise m) (d v e : β) :
    SMap.getD (SMap.putD m a d v) c e = SMap.getD m c e := by
  unfold SMap.putD
  split
  · simp [SMap.getD, get?_del_ne h hm]
  · exact getD_put_ne h m v e

theorem mem_put {β : Type} {a : Nat} {v : β} {p : Nat × β} : ∀ {m : SMap β}, p ∈ SMap.put m a v → p = (a, v) ∨ p ∈ m
  | [], h => by simpa [SMap.put] using h
  | (k, w) :: rest, h => by
    unfold SMap.put at h
    split at h
    · rename_i e
      subst e
      rcases List.mem_cons.mp h with h | h
      · exact .inl h
      · exact .inr (List.mem_cons_of_mem _ h)
    · split at h
      · rcases List.mem_cons.mp h with h | h
        · exact .inl h
        · exact .inr h
      · rcases List.mem_cons.mp h with h | h
        · exact .inr (h ▸ List.mem_cons_self)
        · exact (mem_put h).imp id (List.mem_cons_of_mem _)

/-- A put keeps the keys rising. -/
theorem rise_put {β : Type} (a : Nat) (v : β) : ∀ {m : SMap β}, keysRise m → keysRise (SMap.put m a v)
  | [], _ => by simp [SMap.put, keysRise]
  | (k, w) :: rest, hm => by
    have hm' := List.pairwise_cons.mp hm
    unfold SMap.put
    split
    · rename_i e
      subst e
      exact List.pairwise_cons.mpr hm'
    · split
      · rename_i h1 h2
        refine List.pairwise_cons.mpr ⟨fun p hp => ?_, hm⟩
        rcases List.mem_cons.mp hp with hp | hp
        · subst hp
          exact h2
        · have := hm'.1 p hp
          dsimp only at this ⊢
          omega
      · rename_i h1 h2
        refine List.pairwise_cons.mpr ⟨fun p hp => ?_, rise_put a v hm'.2⟩
        rcases mem_put hp with hp | hp
        · subst hp
          dsimp only
          omega
        · exact hm'.1 p hp

theorem rise_del {β : Type} (a : Nat) {m : SMap β} (hm : keysRise m) : keysRise (SMap.del m a) := List.Pairwise.filter _ hm

theorem rise_putD {β : Type} [DecidableEq β] (a : Nat) (d v : β) {m : SMap β} (hm : keysRise m) : keysRise (SMap.putD m a d v) := by
  unfold SMap.putD
  split
  · exact rise_del a hm
  · exact rise_put a v hm

/-- An overlay keeps its keys rising. -/
theorem rise_overlayN : ∀ {bs : List Byte} {m : List Host.Cell} {a : Nat}, keysRise m → keysRise (overlayN m a bs)
  | [], _, _, h => h
  | _ :: bs, _, a, h => rise_overlayN (bs := bs) (rise_put a _ h)

theorem rise_ite {β : Type} {m n : SMap β} {c : Prop} [Decidable c] (hm : keysRise m) (hn : keysRise n) : keysRise (if c then m else n) := by
  split <;> assumption

theorem rise_nil {β : Type} : keysRise ([] : SMap β) := List.Pairwise.nil

theorem rise_filter {β : Type} {f : Nat × β → Bool} {m : SMap β} (h : keysRise m) : keysRise (List.filter f m) := List.Pairwise.filter _ h

end Sys2Proof.Machine
end

