-- ==== Sys2Proof/Laws/Memory.lean ====
section
/-! SUPPORT. Memory in canonical form: what reading, writing, clearing and folding do, and that each keeps the form. -/

namespace Sys2Proof.Machine
open Sys2Proof

theorem wfFrom_mono {lo lo' : Nat} (h : lo' ≤ lo) : ∀ {m : List Host.Cell}, Memory.wfFrom lo m = true → Memory.wfFrom lo' m = true
  | [], _ => rfl
  | (k, v) :: rest, hm => by
    simp only [Memory.wfFrom, Bool.and_eq_true, decide_eq_true_eq] at hm ⊢
    exact ⟨⟨Nat.le_trans h hm.1.1, hm.1.2⟩, hm.2⟩

theorem wf_nil : Memory.wf [] = true := rfl

theorem wfFrom_write {b : Byte} {a : Nat} : ∀ {m : List Host.Cell} {lo : Nat}, lo ≤ a → Memory.wfFrom lo m = true →
    Memory.wfFrom lo (Memory.write m a b) = true
  | [], lo, ha, _ => by
    unfold Memory.write
    split <;> simp_all [Memory.wfFrom]
  | (k, v) :: rest, lo, ha, hm => by
    simp only [Memory.wfFrom, Bool.and_eq_true, decide_eq_true_eq] at hm
    unfold Memory.write
    split
    · subst_vars
      split
      · exact wfFrom_mono (Nat.le_succ_of_le ha) hm.2
      · simp_all [Memory.wfFrom]
    · split
      · split
        · simp_all [Memory.wfFrom]
        · simp only [Memory.wfFrom, Bool.and_eq_true, decide_eq_true_eq]
          exact ⟨⟨ha, ‹_›⟩, ⟨by omega, hm.1.2⟩, hm.2⟩
      · simp only [Memory.wfFrom, Bool.and_eq_true, decide_eq_true_eq]
        exact ⟨hm.1, wfFrom_write (by omega) hm.2⟩

theorem wf_write {m : List Host.Cell} {a : Nat} {b : Byte} (h : Memory.wf m = true) : Memory.wf (Memory.write m a b) = true :=
  wfFrom_write (Nat.zero_le a) h

theorem wf_writeN {bs : List Byte} : ∀ {m : List Host.Cell} {a : Nat}, Memory.wf m = true → Memory.wf (Memory.writeN m a bs) = true := by
  induction bs with
  | nil => exact fun h => h
  | cons b bs ih => exact fun h => ih (wf_write h)

theorem wfFrom_filter {f : Host.Cell → Bool} : ∀ {m : List Host.Cell} {lo : Nat}, Memory.wfFrom lo m = true →
    Memory.wfFrom lo (m.filter f) = true
  | [], _, _ => rfl
  | (k, v) :: rest, lo, hm => by
    simp only [Memory.wfFrom, Bool.and_eq_true, decide_eq_true_eq] at hm
    rw [List.filter_cons]
    split
    · simp only [Memory.wfFrom, Bool.and_eq_true, decide_eq_true_eq]
      exact ⟨hm.1, wfFrom_filter hm.2⟩
    · exact wfFrom_filter (wfFrom_mono (by omega) hm.2)

theorem wf_filter {f : Host.Cell → Bool} {m : List Host.Cell} (h : Memory.wf m = true) : Memory.wf (m.filter f) = true :=
  wfFrom_filter h

theorem wf_clear {m : List Host.Cell} {a n : Nat} (h : Memory.wf m = true) : Memory.wf (Memory.clear m a n) = true := wf_filter h

theorem wf_foldl {β : Type} {f : List Host.Cell → β → List Host.Cell} (hf : ∀ m b, Memory.wf m = true → Memory.wf (f m b) = true) :
    ∀ (l : List β) {m : List Host.Cell}, Memory.wf m = true → Memory.wf (l.foldl f m) = true
  | [], _, h => h
  | b :: bs, _, h => wf_foldl hf bs (hf _ b h)

theorem wf_fold {m ov : List Host.Cell} (h : Memory.wf m = true) : Memory.wf (Memory.fold m ov) = true :=
  wf_foldl (fun _ _ h => wf_write h) ov h

theorem wf_ite {m n : List Host.Cell} {c : Prop} [Decidable c] (hm : Memory.wf m = true) (hn : Memory.wf n = true) :
    Memory.wf (if c then m else n) = true := by split <;> assumption

/-- Reading below every entry. -/
theorem read_below {a lo : Nat} (h : a < lo) : ∀ {m : List Host.Cell}, Memory.wfFrom lo m = true → Memory.read m a = 0
  | [], _ => rfl
  | (k, v) :: rest, hm => by
    simp only [Memory.wfFrom, Bool.and_eq_true, decide_eq_true_eq] at hm
    unfold Memory.read
    rw [if_neg (by omega), if_pos (by omega)]

/-- A byte written reads back. -/
theorem read_write_same {b : Byte} {a : Nat} : ∀ {m : List Host.Cell} {lo : Nat}, Memory.wfFrom lo m = true →
    Memory.read (Memory.write m a b) a = b
  | [], _, _ => by
    unfold Memory.write
    split <;> simp_all [Memory.read]
  | (k, v) :: rest, lo, hm => by
    simp only [Memory.wfFrom, Bool.and_eq_true, decide_eq_true_eq] at hm
    unfold Memory.write
    split
    · subst_vars
      split
      · rename_i hb
        rw [read_below (Nat.lt_succ_self _) hm.2, hb]
      · simp [Memory.read]
    · split
      · split
        · rename_i hb
          subst hb
          unfold Memory.read
          rw [if_neg (by omega), if_pos (by omega)]
        · simp [Memory.read]
      · unfold Memory.read
        rw [if_neg (by omega), if_neg (by omega)]
        exact read_write_same hm.2

/-- A write leaves every other byte alone. -/
theorem read_write_other {b : Byte} {a c : Nat} (hc : c ≠ a) : ∀ {m : List Host.Cell} {lo : Nat}, Memory.wfFrom lo m = true →
    Memory.read (Memory.write m a b) c = Memory.read m c
  | [], _, _ => by
    unfold Memory.write
    split
    · rfl
    · simp only [Memory.read]
      split
      · omega
      · split <;> rfl
  | (k, v) :: rest, lo, hm => by
    simp only [Memory.wfFrom, Bool.and_eq_true, decide_eq_true_eq] at hm
    unfold Memory.write
    split
    · subst_vars
      split
      · conv_rhs => unfold Memory.read
        rw [if_neg (by omega)]
        split
        · exact read_below (by omega) hm.2
        · rfl
      · simp only [Memory.read, if_neg hc.symm]
    · split
      · split
        · rfl
        · conv_lhs => unfold Memory.read
          split
          · omega
          · split
            · unfold Memory.read
              rw [if_neg (by omega), if_pos (by omega)]
            · rfl
      · unfold Memory.read
        split
        · rfl
        · split
          · rfl
          · exact read_write_other hc hm.2

end Sys2Proof.Machine
end

