-- ==== Sys2Proof/Laws/DoesOps.lean ====
section
/-! SUPPORT. What each operation can do, one lemma for each (Laws/Does.lean): the shared operations: events, ports, holds, faults, case memory, HBM, sends and the plan. -/

namespace Sys2Proof.Machine
open Sys2Proof

set_option Elab.async false

theorem effect_next {l : List Comp} {s : State} {f : State → State} (h : Does l s (f s)) :
    ∃ t, effect f s = .next t ∧ Does l s t ∧ t.pending = s.pending :=
  ⟨_, rfl, does_effect h _ rfl⟩

theorem does_step_fst {β : Type} {l m : List Comp} {s u t : State} {p : State × β} {b : β} (h : Does l u p.1) (hp : p = (t, b))
    (hl : within l m = true) (h' : Does m s u) : Does m s t := does_step (does_of_fst hp h) hl h'

theorem does_step_snd {β : Type} {l m : List Comp} {s u t : State} {p : β × State} {b : β} (h : Does l u p.2) (hp : p = (b, t))
    (hl : within l m = true) (h' : Does m s u) : Does m s t := does_step (does_of_snd hp h) hl h'

theorem does_by {l m : List Comp} {s u t : State} (h : Does l u t) (h' : Does m s u) (hl : within l m = true := by decide) : Does m s t :=
  does_step h hl h'

def DoesMk (l : List Comp) (s : State) (a0 : TickSt) (a1 : FrameSt) (a2 : StepSt) (a3 : ImageSt) (a4 : CaseSt) (a5 : CellsSt) (a6 : StatsSt) (a7 : HbmSt) (a8 : PortSt) (a9 : PortSt) (a10 : MbxSt) (a11 : OwnSt) (a12 : DevSt) (a13 : EnvSt) (a14 : PowerSt) (a15 : PinSt) (a16 : ClockSt) (a17 : FaultSt) (a18 : FabricSt) (a19 : SnapSt) (a20 : IdentSt) (a21 : FlashSt) (a22 : LifeSt) (a23 : StagingSt) (a24 : Nat) (a25 : (List Instr)) : Prop := Does l s (State.mk a0 a1 a2 a3 a4 a5 a6 a7 a8 a9 a10 a11 a12 a13 a14 a15 a16 a17 a18 a19 a20 a21 a22 a23 a24 a25)

theorem doesMk {l : List Comp} {s : State} {a0 : TickSt} {a1 : FrameSt} {a2 : StepSt} {a3 : ImageSt} {a4 : CaseSt} {a5 : CellsSt} {a6 : StatsSt} {a7 : HbmSt} {a8 : PortSt} {a9 : PortSt} {a10 : MbxSt} {a11 : OwnSt} {a12 : DevSt} {a13 : EnvSt} {a14 : PowerSt} {a15 : PinSt} {a16 : ClockSt} {a17 : FaultSt} {a18 : FabricSt} {a19 : SnapSt} {a20 : IdentSt} {a21 : FlashSt} {a22 : LifeSt} {a23 : StagingSt} {a24 : Nat} {a25 : List Instr} : Does l s (State.mk a0 a1 a2 a3 a4 a5 a6 a7 a8 a9 a10 a11 a12 a13 a14 a15 a16 a17 a18 a19 a20 a21 a22 a23 a24 a25) = DoesMk l s a0 a1 a2 a3 a4 a5 a6 a7 a8 a9 a10 a11 a12 a13 a14 a15 a16 a17 a18 a19 a20 a21 a22 a23 a24 a25 := rfl

theorem vrun_on_does {l : List Comp} {s : State} {f : State → State} {x : VRun} (h : Does l s x.s) (hf : ∀ u, Does l u (f u)) :
    Does l s (x.on f).s := does_trans h (hf _)

theorem vrun_stop_does {l : List Comp} {s : State} {x : VRun} (h : Does l s x.s) : Does l s x.stop.s := h

theorem does_vite {l : List Comp} {s : State} {c : Prop} [Decidable c] {x y : VRun} (hx : Does l s x.s) (hy : Does l s y.s) :
    Does l s (if c then x else y).s := by split <;> assumption

theorem does_rite {l : List Comp} {s : State} {c : Prop} [Decidable c] {x y : LigRow} (hx : Does l s x.x.s) (hy : Does l s y.x.s) :
    Does l s (if c then x else y).x.s := by split <;> assumption

theorem mk_caseMem_does {m : List Comp} {s u : State} {x0} (h0 : CaseSame x0 u.caseMem) (hl : within [.caseMem] m = true)
    (h : Does m s u) : DoesMk m s u.tick u.frame u.step u.image x0 u.cells u.stats u.hbm u.portA u.portB u.mbx u.own u.dev u.env u.power u.pins u.clocks u.faults u.fabric u.snap u.ident u.flash u.life u.staging u.freeIdx u.pending :=
  does_step (does_of_only (l := [.caseMem]) (s := u) (t := { u with caseMem := x0 }) (fun k => by cases k <;> first | exact .inr rfl | exact .inl (by decide)) h0 ⟨rfl, rfl⟩ rfl) hl h

theorem mk_caseMem_keeps {m : List Comp} {s u : State} {x0} (hk : CaseOk u.caseMem → CaseOk x0) (hl : within [.caseMem] m = true)
    (h : Does m s u) : DoesMk m s u.tick u.frame u.step u.image x0 u.cells u.stats u.hbm u.portA u.portB u.mbx u.own u.dev u.env u.power u.pins u.clocks u.faults u.fabric u.snap u.ident u.flash u.life u.staging u.freeIdx u.pending :=
  does_step (set_caseMem_keeps u x0 hk) hl h

theorem mk_cells_does {m : List Comp} {s u : State} {x0} (hl : within [.cells] m = true)
    (h : Does m s u) : DoesMk m s u.tick u.frame u.step u.image u.caseMem x0 u.stats u.hbm u.portA u.portB u.mbx u.own u.dev u.env u.power u.pins u.clocks u.faults u.fabric u.snap u.ident u.flash u.life u.staging u.freeIdx u.pending :=
  does_step (does_of_only (l := [.cells]) (s := u) (t := { u with cells := x0 }) (fun k => by cases k <;> first | exact .inr rfl | exact .inl (by decide)) ⟨rfl, rfl, rfl, rfl, rfl⟩ ⟨rfl, rfl⟩ rfl) hl h

theorem mk_clocks_does {m : List Comp} {s u : State} {x0} (hl : within [.clocks] m = true)
    (h : Does m s u) : DoesMk m s u.tick u.frame u.step u.image u.caseMem u.cells u.stats u.hbm u.portA u.portB u.mbx u.own u.dev u.env u.power u.pins x0 u.faults u.fabric u.snap u.ident u.flash u.life u.staging u.freeIdx u.pending :=
  does_step (does_of_only (l := [.clocks]) (s := u) (t := { u with clocks := x0 }) (fun k => by cases k <;> first | exact .inr rfl | exact .inl (by decide)) ⟨rfl, rfl, rfl, rfl, rfl⟩ ⟨rfl, rfl⟩ rfl) hl h

theorem mk_dev_does {m : List Comp} {s u : State} {x0} (hl : within [.dev] m = true)
    (h : Does m s u) : DoesMk m s u.tick u.frame u.step u.image u.caseMem u.cells u.stats u.hbm u.portA u.portB u.mbx u.own x0 u.env u.power u.pins u.clocks u.faults u.fabric u.snap u.ident u.flash u.life u.staging u.freeIdx u.pending :=
  does_step (does_of_only (l := [.dev]) (s := u) (t := { u with dev := x0 }) (fun k => by cases k <;> first | exact .inr rfl | exact .inl (by decide)) ⟨rfl, rfl, rfl, rfl, rfl⟩ ⟨rfl, rfl⟩ rfl) hl h

theorem mk_dev_step_frame_snap_does {m : List Comp} {s u : State} {x0 x1 x2 x3} (hl : within [.dev, .step, .frame, .snap] m = true)
    (h : Does m s u) : DoesMk m s u.tick x2 x1 u.image u.caseMem u.cells u.stats u.hbm u.portA u.portB u.mbx u.own x0 u.env u.power u.pins u.clocks u.faults u.fabric x3 u.ident u.flash u.life u.staging u.freeIdx u.pending :=
  does_step (does_of_only (l := [.dev, .step, .frame, .snap]) (s := u) (t := { u with dev := x0, step := x1, frame := x2, snap := x3 }) (fun k => by cases k <;> first | exact .inr rfl | exact .inl (by decide)) ⟨rfl, rfl, rfl, rfl, rfl⟩ ⟨rfl, rfl⟩ rfl) hl h

theorem mk_env_does {m : List Comp} {s u : State} {x0} (hl : within [.env] m = true)
    (h : Does m s u) : DoesMk m s u.tick u.frame u.step u.image u.caseMem u.cells u.stats u.hbm u.portA u.portB u.mbx u.own u.dev x0 u.power u.pins u.clocks u.faults u.fabric u.snap u.ident u.flash u.life u.staging u.freeIdx u.pending :=
  does_step (does_of_only (l := [.env]) (s := u) (t := { u with env := x0 }) (fun k => by cases k <;> first | exact .inr rfl | exact .inl (by decide)) ⟨rfl, rfl, rfl, rfl, rfl⟩ ⟨rfl, rfl⟩ rfl) hl h

theorem mk_fabric_does {m : List Comp} {s u : State} {x0} (hl : within [.fabric] m = true)
    (h : Does m s u) : DoesMk m s u.tick u.frame u.step u.image u.caseMem u.cells u.stats u.hbm u.portA u.portB u.mbx u.own u.dev u.env u.power u.pins u.clocks u.faults x0 u.snap u.ident u.flash u.life u.staging u.freeIdx u.pending :=
  does_step (does_of_only (l := [.fabric]) (s := u) (t := { u with fabric := x0 }) (fun k => by cases k <;> first | exact .inr rfl | exact .inl (by decide)) ⟨rfl, rfl, rfl, rfl, rfl⟩ ⟨rfl, rfl⟩ rfl) hl h

theorem mk_faults_does {m : List Comp} {s u : State} {x0} (hl : within [.faults] m = true)
    (h : Does m s u) : DoesMk m s u.tick u.frame u.step u.image u.caseMem u.cells u.stats u.hbm u.portA u.portB u.mbx u.own u.dev u.env u.power u.pins u.clocks x0 u.fabric u.snap u.ident u.flash u.life u.staging u.freeIdx u.pending :=
  does_step (does_of_only (l := [.faults]) (s := u) (t := { u with faults := x0 }) (fun k => by cases k <;> first | exact .inr rfl | exact .inl (by decide)) ⟨rfl, rfl, rfl, rfl, rfl⟩ ⟨rfl, rfl⟩ rfl) hl h

theorem mk_flash_does {m : List Comp} {s u : State} {x0} (hl : within [.flash] m = true)
    (h : Does m s u) : DoesMk m s u.tick u.frame u.step u.image u.caseMem u.cells u.stats u.hbm u.portA u.portB u.mbx u.own u.dev u.env u.power u.pins u.clocks u.faults u.fabric u.snap u.ident x0 u.life u.staging u.freeIdx u.pending :=
  does_step (does_of_only (l := [.flash]) (s := u) (t := { u with flash := x0 }) (fun k => by cases k <;> first | exact .inr rfl | exact .inl (by decide)) ⟨rfl, rfl, rfl, rfl, rfl⟩ ⟨rfl, rfl⟩ rfl) hl h

theorem mk_flash_life_dev_does {m : List Comp} {s u : State} {x0 x1 x2} (hl : within [.flash, .life, .dev] m = true)
    (h : Does m s u) : DoesMk m s u.tick u.frame u.step u.image u.caseMem u.cells u.stats u.hbm u.portA u.portB u.mbx u.own x2 u.env u.power u.pins u.clocks u.faults u.fabric u.snap u.ident x0 x1 u.staging u.freeIdx u.pending :=
  does_step (does_of_only (l := [.flash, .life, .dev]) (s := u) (t := { u with flash := x0, life := x1, dev := x2 }) (fun k => by cases k <;> first | exact .inr rfl | exact .inl (by decide)) ⟨rfl, rfl, rfl, rfl, rfl⟩ ⟨rfl, rfl⟩ rfl) hl h

theorem mk_frame_does {m : List Comp} {s u : State} {x0} (hl : within [.frame] m = true)
    (h : Does m s u) : DoesMk m s u.tick x0 u.step u.image u.caseMem u.cells u.stats u.hbm u.portA u.portB u.mbx u.own u.dev u.env u.power u.pins u.clocks u.faults u.fabric u.snap u.ident u.flash u.life u.staging u.freeIdx u.pending :=
  does_step (does_of_only (l := [.frame]) (s := u) (t := { u with frame := x0 }) (fun k => by cases k <;> first | exact .inr rfl | exact .inl (by decide)) ⟨rfl, rfl, rfl, rfl, rfl⟩ ⟨rfl, rfl⟩ rfl) hl h

theorem mk_frame_cells_does {m : List Comp} {s u : State} {x0 x1} (hl : within [.frame, .cells] m = true)
    (h : Does m s u) : DoesMk m s u.tick x0 u.step u.image u.caseMem x1 u.stats u.hbm u.portA u.portB u.mbx u.own u.dev u.env u.power u.pins u.clocks u.faults u.fabric u.snap u.ident u.flash u.life u.staging u.freeIdx u.pending :=
  does_step (does_of_only (l := [.frame, .cells]) (s := u) (t := { u with frame := x0, cells := x1 }) (fun k => by cases k <;> first | exact .inr rfl | exact .inl (by decide)) ⟨rfl, rfl, rfl, rfl, rfl⟩ ⟨rfl, rfl⟩ rfl) hl h

theorem mk_frame_cells_fabric_does {m : List Comp} {s u : State} {x0 x1 x2} (hl : within [.frame, .cells, .fabric] m = true)
    (h : Does m s u) : DoesMk m s u.tick x0 u.step u.image u.caseMem x1 u.stats u.hbm u.portA u.portB u.mbx u.own u.dev u.env u.power u.pins u.clocks u.faults x2 u.snap u.ident u.flash u.life u.staging u.freeIdx u.pending :=
  does_step (does_of_only (l := [.frame, .cells, .fabric]) (s := u) (t := { u with frame := x0, cells := x1, fabric := x2 }) (fun k => by cases k <;> first | exact .inr rfl | exact .inl (by decide)) ⟨rfl, rfl, rfl, rfl, rfl⟩ ⟨rfl, rfl⟩ rfl) hl h

theorem mk_frame_dev_caseMem_does {m : List Comp} {s u : State} {x0 x1 x2} (h2 : CaseSame x2 u.caseMem) (hl : within [.frame, .dev, .caseMem] m = true)
    (h : Does m s u) : DoesMk m s u.tick x0 u.step u.image x2 u.cells u.stats u.hbm u.portA u.portB u.mbx u.own x1 u.env u.power u.pins u.clocks u.faults u.fabric u.snap u.ident u.flash u.life u.staging u.freeIdx u.pending :=
  does_step (does_of_only (l := [.frame, .dev, .caseMem]) (s := u) (t := { u with frame := x0, dev := x1, caseMem := x2 }) (fun k => by cases k <;> first | exact .inr rfl | exact .inl (by decide)) h2 ⟨rfl, rfl⟩ rfl) hl h

theorem mk_freeIdx_does {m : List Comp} {s u : State} {x0} (hl : within [.freeIdx] m = true)
    (h : Does m s u) : DoesMk m s u.tick u.frame u.step u.image u.caseMem u.cells u.stats u.hbm u.portA u.portB u.mbx u.own u.dev u.env u.power u.pins u.clocks u.faults u.fabric u.snap u.ident u.flash u.life u.staging x0 u.pending :=
  does_step (does_of_only (l := [.freeIdx]) (s := u) (t := { u with freeIdx := x0 }) (fun k => by cases k <;> first | exact .inr rfl | exact .inl (by decide)) ⟨rfl, rfl, rfl, rfl, rfl⟩ ⟨rfl, rfl⟩ rfl) hl h

theorem mk_hbm_does {m : List Comp} {s u : State} {x0} (h0 : HbmSame x0 u.hbm) (hl : within [.hbm] m = true)
    (h : Does m s u) : DoesMk m s u.tick u.frame u.step u.image u.caseMem u.cells u.stats x0 u.portA u.portB u.mbx u.own u.dev u.env u.power u.pins u.clocks u.faults u.fabric u.snap u.ident u.flash u.life u.staging u.freeIdx u.pending :=
  does_step (does_of_only (l := [.hbm]) (s := u) (t := { u with hbm := x0 }) (fun k => by cases k <;> first | exact .inr rfl | exact .inl (by decide)) ⟨rfl, rfl, rfl, rfl, rfl⟩ h0 rfl) hl h

theorem mk_hbm_keeps {m : List Comp} {s u : State} {x0} (hk : HbmOk u.hbm → HbmOk x0) (hl : within [.hbm] m = true)
    (h : Does m s u) : DoesMk m s u.tick u.frame u.step u.image u.caseMem u.cells u.stats x0 u.portA u.portB u.mbx u.own u.dev u.env u.power u.pins u.clocks u.faults u.fabric u.snap u.ident u.flash u.life u.staging u.freeIdx u.pending :=
  does_step (set_hbm_keeps u x0 hk) hl h

theorem mk_hbm_flash_does {m : List Comp} {s u : State} {x0 x1} (h0 : HbmSame x0 u.hbm) (hl : within [.hbm, .flash] m = true)
    (h : Does m s u) : DoesMk m s u.tick u.frame u.step u.image u.caseMem u.cells u.stats x0 u.portA u.portB u.mbx u.own u.dev u.env u.power u.pins u.clocks u.faults u.fabric u.snap u.ident x1 u.life u.staging u.freeIdx u.pending :=
  does_step (does_of_only (l := [.hbm, .flash]) (s := u) (t := { u with hbm := x0, flash := x1 }) (fun k => by cases k <;> first | exact .inr rfl | exact .inl (by decide)) ⟨rfl, rfl, rfl, rfl, rfl⟩ h0 rfl) hl h

theorem mk_hbm_flash_life_does {m : List Comp} {s u : State} {x0 x1 x2} (h0 : HbmSame x0 u.hbm) (hl : within [.hbm, .flash, .life] m = true)
    (h : Does m s u) : DoesMk m s u.tick u.frame u.step u.image u.caseMem u.cells u.stats x0 u.portA u.portB u.mbx u.own u.dev u.env u.power u.pins u.clocks u.faults u.fabric u.snap u.ident x1 x2 u.staging u.freeIdx u.pending :=
  does_step (does_of_only (l := [.hbm, .flash, .life]) (s := u) (t := { u with hbm := x0, flash := x1, life := x2 }) (fun k => by cases k <;> first | exact .inr rfl | exact .inl (by decide)) ⟨rfl, rfl, rfl, rfl, rfl⟩ h0 rfl) hl h

theorem mk_ident_does {m : List Comp} {s u : State} {x0} (hl : within [.ident] m = true)
    (h : Does m s u) : DoesMk m s u.tick u.frame u.step u.image u.caseMem u.cells u.stats u.hbm u.portA u.portB u.mbx u.own u.dev u.env u.power u.pins u.clocks u.faults u.fabric u.snap x0 u.flash u.life u.staging u.freeIdx u.pending :=
  does_step (does_of_only (l := [.ident]) (s := u) (t := { u with ident := x0 }) (fun k => by cases k <;> first | exact .inr rfl | exact .inl (by decide)) ⟨rfl, rfl, rfl, rfl, rfl⟩ ⟨rfl, rfl⟩ rfl) hl h

theorem mk_image_does {m : List Comp} {s u : State} {x0} (hl : within [.image] m = true)
    (h : Does m s u) : DoesMk m s u.tick u.frame u.step x0 u.caseMem u.cells u.stats u.hbm u.portA u.portB u.mbx u.own u.dev u.env u.power u.pins u.clocks u.faults u.fabric u.snap u.ident u.flash u.life u.staging u.freeIdx u.pending :=
  does_step (does_of_only (l := [.image]) (s := u) (t := { u with image := x0 }) (fun k => by cases k <;> first | exact .inr rfl | exact .inl (by decide)) ⟨rfl, rfl, rfl, rfl, rfl⟩ ⟨rfl, rfl⟩ rfl) hl h

theorem mk_image_cells_does {m : List Comp} {s u : State} {x0 x1} (hl : within [.image, .cells] m = true)
    (h : Does m s u) : DoesMk m s u.tick u.frame u.step x0 u.caseMem x1 u.stats u.hbm u.portA u.portB u.mbx u.own u.dev u.env u.power u.pins u.clocks u.faults u.fabric u.snap u.ident u.flash u.life u.staging u.freeIdx u.pending :=
  does_step (does_of_only (l := [.image, .cells]) (s := u) (t := { u with image := x0, cells := x1 }) (fun k => by cases k <;> first | exact .inr rfl | exact .inl (by decide)) ⟨rfl, rfl, rfl, rfl, rfl⟩ ⟨rfl, rfl⟩ rfl) hl h

theorem mk_image_step_frame_stats_does {m : List Comp} {s u : State} {x0 x1 x2 x3} (hl : within [.image, .step, .frame, .stats] m = true)
    (h : Does m s u) : DoesMk m s u.tick x2 x1 x0 u.caseMem u.cells x3 u.hbm u.portA u.portB u.mbx u.own u.dev u.env u.power u.pins u.clocks u.faults u.fabric u.snap u.ident u.flash u.life u.staging u.freeIdx u.pending :=
  does_step (does_of_only (l := [.image, .step, .frame, .stats]) (s := u) (t := { u with image := x0, step := x1, frame := x2, stats := x3 }) (fun k => by cases k <;> first | exact .inr rfl | exact .inl (by decide)) ⟨rfl, rfl, rfl, rfl, rfl⟩ ⟨rfl, rfl⟩ rfl) hl h

theorem mk_image_step_frame_stats_fabric_caseMem_cells_hbm_snap_dev_does {m : List Comp} {s u : State} {x0 x1 x2 x3 x4 x5 x6 x7 x8 x9} (h5 : CaseSame x5 u.caseMem) (h7 : HbmSame x7 u.hbm) (hl : within [.image, .step, .frame, .stats, .fabric, .caseMem, .cells, .hbm, .snap, .dev] m = true)
    (h : Does m s u) : DoesMk m s u.tick x2 x1 x0 x5 x6 x3 x7 u.portA u.portB u.mbx u.own x9 u.env u.power u.pins u.clocks u.faults x4 x8 u.ident u.flash u.life u.staging u.freeIdx u.pending :=
  does_step (does_of_only (l := [.image, .step, .frame, .stats, .fabric, .caseMem, .cells, .hbm, .snap, .dev]) (s := u) (t := { u with image := x0, step := x1, frame := x2, stats := x3, fabric := x4, caseMem := x5, cells := x6, hbm := x7, snap := x8, dev := x9 }) (fun k => by cases k <;> first | exact .inr rfl | exact .inl (by decide)) h5 h7 rfl) hl h

theorem mk_life_does {m : List Comp} {s u : State} {x0} (hl : within [.life] m = true)
    (h : Does m s u) : DoesMk m s u.tick u.frame u.step u.image u.caseMem u.cells u.stats u.hbm u.portA u.portB u.mbx u.own u.dev u.env u.power u.pins u.clocks u.faults u.fabric u.snap u.ident u.flash x0 u.staging u.freeIdx u.pending :=
  does_step (does_of_only (l := [.life]) (s := u) (t := { u with life := x0 }) (fun k => by cases k <;> first | exact .inr rfl | exact .inl (by decide)) ⟨rfl, rfl, rfl, rfl, rfl⟩ ⟨rfl, rfl⟩ rfl) hl h

theorem mk_life_faults_flash_does {m : List Comp} {s u : State} {x0 x1 x2} (hl : within [.life, .faults, .flash] m = true)
    (h : Does m s u) : DoesMk m s u.tick u.frame u.step u.image u.caseMem u.cells u.stats u.hbm u.portA u.portB u.mbx u.own u.dev u.env u.power u.pins u.clocks x1 u.fabric u.snap u.ident x2 x0 u.staging u.freeIdx u.pending :=
  does_step (does_of_only (l := [.life, .faults, .flash]) (s := u) (t := { u with life := x0, faults := x1, flash := x2 }) (fun k => by cases k <;> first | exact .inr rfl | exact .inl (by decide)) ⟨rfl, rfl, rfl, rfl, rfl⟩ ⟨rfl, rfl⟩ rfl) hl h

theorem mk_mbx_does {m : List Comp} {s u : State} {x0} (h0 : x0.hostMem = u.mbx.hostMem) (hl : within [.mbx] m = true)
    (h : Does m s u) : DoesMk m s u.tick u.frame u.step u.image u.caseMem u.cells u.stats u.hbm u.portA u.portB x0 u.own u.dev u.env u.power u.pins u.clocks u.faults u.fabric u.snap u.ident u.flash u.life u.staging u.freeIdx u.pending :=
  does_step (does_of_only (l := [.mbx]) (s := u) (t := { u with mbx := x0 }) (fun k => by cases k <;> first | exact .inr rfl | exact .inl (by decide)) ⟨rfl, rfl, rfl, rfl, rfl⟩ ⟨rfl, rfl⟩ h0) hl h

theorem mk_mbx_keeps {m : List Comp} {s u : State} {x0} (hk : Memory.wf u.mbx.hostMem = true → Memory.wf x0.hostMem = true) (hl : within [.mbx] m = true)
    (h : Does m s u) : DoesMk m s u.tick u.frame u.step u.image u.caseMem u.cells u.stats u.hbm u.portA u.portB x0 u.own u.dev u.env u.power u.pins u.clocks u.faults u.fabric u.snap u.ident u.flash u.life u.staging u.freeIdx u.pending :=
  does_step (set_mbx_keeps u x0 hk) hl h

theorem mk_own_does {m : List Comp} {s u : State} {x0} (hl : within [.own] m = true)
    (h : Does m s u) : DoesMk m s u.tick u.frame u.step u.image u.caseMem u.cells u.stats u.hbm u.portA u.portB u.mbx x0 u.dev u.env u.power u.pins u.clocks u.faults u.fabric u.snap u.ident u.flash u.life u.staging u.freeIdx u.pending :=
  does_step (does_of_only (l := [.own]) (s := u) (t := { u with own := x0 }) (fun k => by cases k <;> first | exact .inr rfl | exact .inl (by decide)) ⟨rfl, rfl, rfl, rfl, rfl⟩ ⟨rfl, rfl⟩ rfl) hl h

theorem mk_pins_does {m : List Comp} {s u : State} {x0} (hl : within [.pins] m = true)
    (h : Does m s u) : DoesMk m s u.tick u.frame u.step u.image u.caseMem u.cells u.stats u.hbm u.portA u.portB u.mbx u.own u.dev u.env u.power x0 u.clocks u.faults u.fabric u.snap u.ident u.flash u.life u.staging u.freeIdx u.pending :=
  does_step (does_of_only (l := [.pins]) (s := u) (t := { u with pins := x0 }) (fun k => by cases k <;> first | exact .inr rfl | exact .inl (by decide)) ⟨rfl, rfl, rfl, rfl, rfl⟩ ⟨rfl, rfl⟩ rfl) hl h

theorem mk_portA_does {m : List Comp} {s u : State} {x0} (hl : within [.portA] m = true)
    (h : Does m s u) : DoesMk m s u.tick u.frame u.step u.image u.caseMem u.cells u.stats u.hbm x0 u.portB u.mbx u.own u.dev u.env u.power u.pins u.clocks u.faults u.fabric u.snap u.ident u.flash u.life u.staging u.freeIdx u.pending :=
  does_step (does_of_only (l := [.portA]) (s := u) (t := { u with portA := x0 }) (fun k => by cases k <;> first | exact .inr rfl | exact .inl (by decide)) ⟨rfl, rfl, rfl, rfl, rfl⟩ ⟨rfl, rfl⟩ rfl) hl h

theorem mk_portA_portB_does {m : List Comp} {s u : State} {x0 x1} (hl : within [.portA, .portB] m = true)
    (h : Does m s u) : DoesMk m s u.tick u.frame u.step u.image u.caseMem u.cells u.stats u.hbm x0 x1 u.mbx u.own u.dev u.env u.power u.pins u.clocks u.faults u.fabric u.snap u.ident u.flash u.life u.staging u.freeIdx u.pending :=
  does_step (does_of_only (l := [.portA, .portB]) (s := u) (t := { u with portA := x0, portB := x1 }) (fun k => by cases k <;> first | exact .inr rfl | exact .inl (by decide)) ⟨rfl, rfl, rfl, rfl, rfl⟩ ⟨rfl, rfl⟩ rfl) hl h

theorem mk_portB_does {m : List Comp} {s u : State} {x0} (hl : within [.portB] m = true)
    (h : Does m s u) : DoesMk m s u.tick u.frame u.step u.image u.caseMem u.cells u.stats u.hbm u.portA x0 u.mbx u.own u.dev u.env u.power u.pins u.clocks u.faults u.fabric u.snap u.ident u.flash u.life u.staging u.freeIdx u.pending :=
  does_step (does_of_only (l := [.portB]) (s := u) (t := { u with portB := x0 }) (fun k => by cases k <;> first | exact .inr rfl | exact .inl (by decide)) ⟨rfl, rfl, rfl, rfl, rfl⟩ ⟨rfl, rfl⟩ rfl) hl h

theorem mk_power_does {m : List Comp} {s u : State} {x0} (hl : within [.power] m = true)
    (h : Does m s u) : DoesMk m s u.tick u.frame u.step u.image u.caseMem u.cells u.stats u.hbm u.portA u.portB u.mbx u.own u.dev u.env x0 u.pins u.clocks u.faults u.fabric u.snap u.ident u.flash u.life u.staging u.freeIdx u.pending :=
  does_step (does_of_only (l := [.power]) (s := u) (t := { u with power := x0 }) (fun k => by cases k <;> first | exact .inr rfl | exact .inl (by decide)) ⟨rfl, rfl, rfl, rfl, rfl⟩ ⟨rfl, rfl⟩ rfl) hl h

theorem mk_snap_does {m : List Comp} {s u : State} {x0} (hl : within [.snap] m = true)
    (h : Does m s u) : DoesMk m s u.tick u.frame u.step u.image u.caseMem u.cells u.stats u.hbm u.portA u.portB u.mbx u.own u.dev u.env u.power u.pins u.clocks u.faults u.fabric x0 u.ident u.flash u.life u.staging u.freeIdx u.pending :=
  does_step (does_of_only (l := [.snap]) (s := u) (t := { u with snap := x0 }) (fun k => by cases k <;> first | exact .inr rfl | exact .inl (by decide)) ⟨rfl, rfl, rfl, rfl, rfl⟩ ⟨rfl, rfl⟩ rfl) hl h

theorem mk_staging_does {m : List Comp} {s u : State} {x0} (hl : within [.staging] m = true)
    (h : Does m s u) : DoesMk m s u.tick u.frame u.step u.image u.caseMem u.cells u.stats u.hbm u.portA u.portB u.mbx u.own u.dev u.env u.power u.pins u.clocks u.faults u.fabric u.snap u.ident u.flash u.life x0 u.freeIdx u.pending :=
  does_step (does_of_only (l := [.staging]) (s := u) (t := { u with staging := x0 }) (fun k => by cases k <;> first | exact .inr rfl | exact .inl (by decide)) ⟨rfl, rfl, rfl, rfl, rfl⟩ ⟨rfl, rfl⟩ rfl) hl h

theorem mk_stats_does {m : List Comp} {s u : State} {x0} (hl : within [.stats] m = true)
    (h : Does m s u) : DoesMk m s u.tick u.frame u.step u.image u.caseMem u.cells x0 u.hbm u.portA u.portB u.mbx u.own u.dev u.env u.power u.pins u.clocks u.faults u.fabric u.snap u.ident u.flash u.life u.staging u.freeIdx u.pending :=
  does_step (does_of_only (l := [.stats]) (s := u) (t := { u with stats := x0 }) (fun k => by cases k <;> first | exact .inr rfl | exact .inl (by decide)) ⟨rfl, rfl, rfl, rfl, rfl⟩ ⟨rfl, rfl⟩ rfl) hl h

theorem mk_step_does {m : List Comp} {s u : State} {x0} (hl : within [.step] m = true)
    (h : Does m s u) : DoesMk m s u.tick u.frame x0 u.image u.caseMem u.cells u.stats u.hbm u.portA u.portB u.mbx u.own u.dev u.env u.power u.pins u.clocks u.faults u.fabric u.snap u.ident u.flash u.life u.staging u.freeIdx u.pending :=
  does_step (does_of_only (l := [.step]) (s := u) (t := { u with step := x0 }) (fun k => by cases k <;> first | exact .inr rfl | exact .inl (by decide)) ⟨rfl, rfl, rfl, rfl, rfl⟩ ⟨rfl, rfl⟩ rfl) hl h

theorem mk_step_frame_stats_fabric_snap_dev_does {m : List Comp} {s u : State} {x0 x1 x2 x3 x4 x5} (hl : within [.step, .frame, .stats, .fabric, .snap, .dev] m = true)
    (h : Does m s u) : DoesMk m s u.tick x1 x0 u.image u.caseMem u.cells x2 u.hbm u.portA u.portB u.mbx u.own x5 u.env u.power u.pins u.clocks u.faults x3 x4 u.ident u.flash u.life u.staging u.freeIdx u.pending :=
  does_step (does_of_only (l := [.step, .frame, .stats, .fabric, .snap, .dev]) (s := u) (t := { u with step := x0, frame := x1, stats := x2, fabric := x3, snap := x4, dev := x5 }) (fun k => by cases k <;> first | exact .inr rfl | exact .inl (by decide)) ⟨rfl, rfl, rfl, rfl, rfl⟩ ⟨rfl, rfl⟩ rfl) hl h

theorem mk_step_stats_does {m : List Comp} {s u : State} {x0 x1} (hl : within [.step, .stats] m = true)
    (h : Does m s u) : DoesMk m s u.tick u.frame x0 u.image u.caseMem u.cells x1 u.hbm u.portA u.portB u.mbx u.own u.dev u.env u.power u.pins u.clocks u.faults u.fabric u.snap u.ident u.flash u.life u.staging u.freeIdx u.pending :=
  does_step (does_of_only (l := [.step, .stats]) (s := u) (t := { u with step := x0, stats := x1 }) (fun k => by cases k <;> first | exact .inr rfl | exact .inl (by decide)) ⟨rfl, rfl, rfl, rfl, rfl⟩ ⟨rfl, rfl⟩ rfl) hl h

theorem mk_tick_does {m : List Comp} {s u : State} {x0} (hl : within [.tick] m = true)
    (h : Does m s u) : DoesMk m s x0 u.frame u.step u.image u.caseMem u.cells u.stats u.hbm u.portA u.portB u.mbx u.own u.dev u.env u.power u.pins u.clocks u.faults u.fabric u.snap u.ident u.flash u.life u.staging u.freeIdx u.pending :=
  does_step (does_of_only (l := [.tick]) (s := u) (t := { u with tick := x0 }) (fun k => by cases k <;> first | exact .inr rfl | exact .inl (by decide)) ⟨rfl, rfl, rfl, rfl, rfl⟩ ⟨rfl, rfl⟩ rfl) hl h

theorem drawFree_does (s : State) : Does [.freeIdx] s (drawFree s).2 := by
  unfold drawFree
  try dsimp only
  simp only [doesMk]
  refine mk_freeIdx_does (by decide) ?_
  exact does_refl _ _

theorem recordAt_does (tick : W64) (type : Nat) (payload : List Byte) (s : State) : Does [.flash] s (recordAt tick type payload s) := by
  unfold recordAt
  try dsimp only
  refine does_ite ?_ ?_
  simp only [doesMk]
  refine mk_flash_does (by decide) ?_
  exact does_refl _ _
  simp only [doesMk]
  refine mk_flash_does (by decide) ?_
  exact does_refl _ _

theorem recordEvent_does (type : Nat) (payload : List Byte) (s : State) : Does [.flash] s (recordEvent type payload s) := by
  unfold recordEvent
  try dsimp only
  refine does_by (recordAt_does _ _ _ _) ?_
  exact does_refl _ _

theorem onLife_does (f : Life → Life) (s : State) : Does [.life] s (onLife f s) := by
  unfold onLife
  try dsimp only
  simp only [doesMk]
  refine mk_life_does (by decide) ?_
  exact does_refl _ _

theorem onPorts_does (f : PortSt → PortSt) (s : State) : Does [.portA, .portB] s (onPorts f s) := by
  unfold onPorts
  try dsimp only
  simp only [doesMk]
  refine mk_portA_portB_does  (by decide) ?_
  exact does_refl _ _

theorem setPPort_does (p : PPort) (x : PortSt) (s : State) : Does [.portA, .portB] s (setPPort p x s) := by
  unfold setPPort
  try dsimp only
  split
  simp only [doesMk]
  refine mk_portA_does (by decide) ?_
  exact does_refl _ _
  simp only [doesMk]
  refine mk_portB_does (by decide) ?_
  exact does_refl _ _

theorem onPort_does (p : PPort) (f : PortSt → PortSt) (s : State) : Does [.portA, .portB] s (onPort p f s) := by
  unfold onPort
  try dsimp only
  refine does_by (setPPort_does _ _ _) ?_
  exact does_refl _ _

theorem setSticky_does (i : Nat) (s : State) : Does [.portA, .portB] s (setSticky i s) := by
  unfold setSticky
  try dsimp only
  refine does_by (onPorts_does _ _) ?_
  exact does_refl _ _

theorem setState_does (d : DevState) (s : State) : Does [.portA, .portB, .dev, .flash, .life] s (setState d s) := by
  unfold setState
  try dsimp only
  refine does_ite ?_ ?_
  exact does_refl _ _
  refine does_ite ?_ ?_
  simp only [doesMk]
  refine mk_life_does (by decide) ?_
  refine does_ite ?_ ?_
  refine does_by (setSticky_does _ _) ?_
  simp only [doesMk]
  refine mk_dev_does (by decide) ?_
  exact does_refl _ _
  refine does_by (recordEvent_does _ _ _) ?_
  refine does_by (setSticky_does _ _) ?_
  simp only [doesMk]
  refine mk_dev_does (by decide) ?_
  exact does_refl _ _
  refine does_ite ?_ ?_
  refine does_by (setSticky_does _ _) ?_
  simp only [doesMk]
  refine mk_dev_does (by decide) ?_
  exact does_refl _ _
  refine does_by (recordEvent_does _ _ _) ?_
  refine does_by (setSticky_does _ _) ?_
  simp only [doesMk]
  refine mk_dev_does (by decide) ?_
  exact does_refl _ _

theorem setHolder_does (h : Option PPort) (s : State) : Does [.portA, .portB, .own, .flash] s (setHolder h s) := by
  unfold setHolder
  try dsimp only
  refine does_ite ?_ ?_
  exact does_refl _ _
  refine does_by (recordEvent_does _ _ _) ?_
  refine does_by (setSticky_does _ _) ?_
  simp only [doesMk]
  refine mk_own_does (by decide) ?_
  exact does_refl _ _

theorem onClasp_does (p : Nat) (f : Clasp → Clasp) (s : State) : Does [.fabric] s (onClasp p f s) := by
  unfold onClasp
  try dsimp only
  simp only [doesMk]
  refine mk_fabric_does (by decide) ?_
  exact does_refl _ _

theorem emit_does (m : List OutMsg) (s : State) : Does [.fabric] s (emit m s) := by
  unfold emit
  try dsimp only
  simp only [doesMk]
  refine mk_fabric_does (by decide) ?_
  exact does_refl _ _

theorem emitFlits_does (p : Nat) (l : List (List Byte)) (s : State) : Does [.fabric] s (emitFlits p l s) := by
  unfold emitFlits
  try dsimp only
  simp only [doesMk]
  refine mk_fabric_does (by decide) ?_
  exact does_refl _ _

theorem drainPort_does (p : Nat) (s : State) : Does [.fabric] s (drainPort p s) := by
  unfold drainPort
  try dsimp only
  refine does_ite ?_ ?_
  exact does_refl _ _
  refine does_by (emit_does _ _) ?_
  refine does_by (emitFlits_does _ _ _) ?_
  refine does_by (onClasp_does _ _ _) ?_
  exact does_refl _ _

theorem sendOn_does (p : Nat) (m : OutMsg) (s : State) : Does [.fabric] s (sendOn p m s) := by
  unfold sendOn
  try dsimp only
  refine does_ite ?_ ?_
  refine does_by (drainPort_does _ _) ?_
  refine does_by (onClasp_does _ _ _) ?_
  exact does_refl _ _
  exact does_refl _ _

theorem replayFlits_does (p : Nat) (s : State) : Does [.fabric] s (replayFlits p s) := by
  unfold replayFlits
  try dsimp only
  refine does_ite ?_ ?_
  exact does_refl _ _
  refine does_by (emit_does _ _) ?_
  refine does_by (emitFlits_does _ _ _) ?_
  exact does_refl _ _

theorem floodHold_does (except : Option Nat) (hops : Nat) (h : HoldRec) (s : State) : Does [.fabric] s (floodHold except hops h s) := by
  unfold floodHold
  try dsimp only
  refine does_foldl (fun _ _ => ?_) _ ?_
  refine does_by (sendOn_does _ _ _) ?_
  exact does_refl _ _
  exact does_refl _ _

theorem sendHold_does (early : Bool) (s : State) : Does [.frame, .fabric] s (sendHold early s) := by
  unfold sendHold
  try dsimp only
  refine does_ite ?_ ?_
  exact does_refl _ _
  refine does_ite ?_ ?_
  exact does_refl _ _
  refine does_by (floodHold_does _ _ _ _) ?_
  simp only [doesMk]
  refine mk_frame_does (by decide) ?_
  exact does_refl _ _

theorem raiseHold_does (early : Bool) (s : State) : Does [.frame, .fabric] s (raiseHold early s) := by
  unfold raiseHold
  try dsimp only
  refine does_ite ?_ ?_
  exact does_refl _ _
  refine does_by (sendHold_does _ _) ?_
  exact does_refl _ _

theorem inDoubt_does (s : State) : Does [.frame, .fabric] s (inDoubt s) := by
  unfold inDoubt
  try dsimp only
  refine does_ite ?_ ?_
  refine does_by (raiseHold_does _ _) ?_
  simp only [doesMk]
  refine mk_frame_does (by decide) ?_
  exact does_refl _ _
  exact does_refl _ _

theorem chipLate_does (early : Bool) (s : State) : Does [.frame, .fabric] s (chipLate early s) := by
  unfold chipLate
  try dsimp only
  refine does_ite ?_ ?_
  simp only [doesMk]
  refine mk_frame_does (by decide) ?_
  exact does_refl _ _
  refine does_by (raiseHold_does _ _) ?_
  simp only [doesMk]
  refine mk_frame_does (by decide) ?_
  exact does_refl _ _

theorem beginTraining_does (p : Nat) (s : State) : Does [.fabric] s (beginTraining p s) := by
  unfold beginTraining
  try dsimp only
  refine does_by (emit_does _ _) ?_
  refine does_by (onClasp_does _ _ _) ?_
  exact does_refl _ _

theorem trainPort_does (p : Nat) (s : State) : Does [.fabric] s (trainPort p s) := by
  unfold trainPort
  try dsimp only
  refine does_by (beginTraining_does _ _) ?_
  refine does_by (onClasp_does _ _ _) ?_
  exact does_refl _ _

theorem linkFalls_does (p : Nat) (s : State) : Does [.fabric] s (linkFalls p s) := by
  unfold linkFalls
  try dsimp only
  refine does_by (onClasp_does _ _ _) ?_
  exact does_refl _ _

theorem removeLane_does (p lane : Nat) (s : State) : Does [.fabric] s (removeLane p lane s) := by
  unfold removeLane
  try dsimp only
  refine does_ite ?_ ?_
  refine does_by (linkFalls_does _ _) ?_
  exact does_refl _ _
  refine does_by (replayFlits_does _ _) ?_
  refine does_by (onClasp_does _ _ _) ?_
  exact does_refl _ _

theorem setFaultSrc_does (l : Level) (unit source : Nat) (f : FSrc) (s : State) : Does [.faults] s (setFaultSrc l unit source f s) := by
  unfold setFaultSrc
  try dsimp only
  simp only [doesMk]
  refine mk_faults_does (by decide) ?_
  exact does_refl _ _

theorem latchEvent_does (l : Level) (unit source : Nat) (forced early : Bool) (s : State) : Does [.portA, .portB, .faults, .flash] s (latchEvent l unit source forced early s).1 := by
  unfold latchEvent
  try dsimp only
  refine does_fst_ite ?_ ?_
  exact does_refl _ _
  refine does_fst_ite ?_ ?_
  refine does_by (recordAt_does _ _ _ _) ?_
  refine does_by (setSticky_does _ _) ?_
  refine does_by (setFaultSrc_does _ _ _ _ _) ?_
  exact does_refl _ _
  refine does_by (setFaultSrc_does _ _ _ _ _) ?_
  exact does_refl _ _

theorem retirePc_does (stack pc : Nat) (s : State) : Does [.hbm] s (retirePc stack pc s) := by
  unfold retirePc
  try dsimp only
  refine does_ite ?_ ?_
  exact does_refl _ _
  simp only [doesMk]
  refine mk_hbm_does ⟨rfl, rfl⟩ (by decide) ?_
  exact does_refl _ _

theorem askRetire_does (s : State) : Does [.dev] s (askRetire s) := by
  unfold askRetire
  try dsimp only
  simp only [doesMk]
  refine mk_dev_does (by decide) ?_
  exact does_refl _ _

theorem askRetrain_does (p : Nat) (s : State) : Does [.dev, .fabric] s (askRetrain p s) := by
  unfold askRetrain
  try dsimp only
  refine does_ite ?_ ?_
  simp only [doesMk]
  refine mk_dev_does (by decide) ?_
  exact does_refl _ _
  refine does_by (trainPort_does _ _) ?_
  exact does_refl _ _

theorem stopCell_does (i : Nat) (s : State) : Does [.frame, .cells] s (stopCell i s) := by
  unfold stopCell
  try dsimp only
  simp only [doesMk]
  refine mk_frame_cells_does  (by decide) ?_
  exact does_refl _ _

theorem eventAction_does (l : Level) (unit action : Nat) (s : State) : Does [.frame, .cells, .fabric] s (eventAction l unit action s) := by
  unfold eventAction
  try dsimp only
  refine does_ite ?_ ?_
  refine does_by (inDoubt_does _) ?_
  refine does_ite ?_ ?_
  refine does_by (stopCell_does _ _) ?_
  exact does_refl _ _
  exact does_refl _ _
  exact does_refl _ _

theorem severeAction_does (unit source : Nat) (forced : Bool) (action : Nat) (s : State) : Does [.frame, .cells, .hbm, .dev, .power, .fabric] s (severeAction unit source forced action s) := by
  unfold severeAction
  try dsimp only
  split
  refine does_ite ?_ ?_
  refine does_by (inDoubt_does _) ?_
  refine does_by (stopCell_does _ _) ?_
  simp only [doesMk]
  refine mk_dev_does (by decide) ?_
  exact does_refl _ _
  refine does_by (stopCell_does _ _) ?_
  simp only [doesMk]
  refine mk_dev_does (by decide) ?_
  exact does_refl _ _
  refine does_by (askRetrain_does _ _) ?_
  exact does_refl _ _
  refine does_by (retirePc_does _ _ _) ?_
  exact does_refl _ _
  simp only [doesMk]
  refine mk_power_does (by decide) ?_
  exact does_refl _ _
  refine does_by (askRetire_does _) ?_
  exact does_refl _ _
  exact does_refl _ _

theorem severeNow_does (l : Level) (unit source : Nat) (forced : Bool) (action : Nat) (s : State) : Does [.frame, .cells, .hbm, .dev, .power, .faults, .fabric] s (severeNow l unit source forced action s) := by
  unfold severeNow
  try dsimp only
  refine does_ite ?_ ?_
  simp only [doesMk]
  refine mk_faults_does (by decide) ?_
  exact does_refl _ _
  refine does_by (severeAction_does _ _ _ _ _) ?_
  exact does_refl _ _

theorem countSimple_does (l : Level) (unit source : Nat) (forced early act : Bool) (s : State) : Does [.frame, .cells, .hbm, .portA, .portB, .dev, .power, .faults, .fabric, .flash] s (countSimple l unit source forced early act s) := by
  unfold countSimple
  try dsimp only
  refine does_ite ?_ ?_
  refine does_by (severeNow_does _ _ _ _ _ _) ?_
  refine does_ite ?_ ?_
  refine does_by (eventAction_does _ _ _ _) ?_
  refine does_by (latchEvent_does _ _ _ _ _ _) ?_
  exact does_refl _ _
  refine does_by (latchEvent_does _ _ _ _ _ _) ?_
  exact does_refl _ _
  refine does_ite ?_ ?_
  refine does_by (eventAction_does _ _ _ _) ?_
  refine does_by (latchEvent_does _ _ _ _ _ _) ?_
  exact does_refl _ _
  refine does_by (latchEvent_does _ _ _ _ _ _) ?_
  exact does_refl _ _

theorem loseLane_does (p lane : Nat) (s : State) : Does [.frame, .cells, .hbm, .portA, .portB, .dev, .power, .faults, .fabric, .flash] s (loseLane p lane s) := by
  unfold loseLane
  try dsimp only
  refine does_ite ?_ ?_
  refine does_by (countSimple_does _ _ _ _ _ _ _) ?_
  refine does_by (removeLane_does _ _ _) ?_
  exact does_refl _ _
  exact does_refl _ _

theorem dropWorstLane_does (early : Bool) (p : Nat) (s : State) : Does [.frame, .cells, .hbm, .portA, .portB, .dev, .power, .faults, .fabric, .flash] s (dropWorstLane early p s) := by
  unfold dropWorstLane
  try dsimp only
  refine does_ite ?_ ?_
  exact does_refl _ _
  refine does_ite ?_ ?_
  refine does_by (askRetrain_does _ _) ?_
  exact does_refl _ _
  refine does_by (loseLane_does _ _ _) ?_
  exact does_refl _ _

theorem dropNow_does (l : Level) (unit source action : Nat) (early : Bool) (s : State) : Does [.frame, .cells, .hbm, .portA, .portB, .dev, .power, .faults, .fabric, .flash] s (dropNow l unit source action early s) := by
  unfold dropNow
  try dsimp only
  refine does_ite ?_ ?_
  refine does_by (severeNow_does _ _ _ _ _ _) ?_
  exact does_refl _ _
  refine does_by (dropWorstLane_does _ _ _) ?_
  exact does_refl _ _

theorem standFault_does (l : Level) (unit source : Nat) (forced : Bool) (s : State) : Does [.dev] s (standFault l unit source forced s) := by
  unfold standFault
  try dsimp only
  refine does_ite ?_ ?_
  simp only [doesMk]
  refine mk_dev_does (by decide) ?_
  exact does_refl _ _
  exact does_refl _ _

theorem countEventWith_does (l : Level) (unit source : Nat) (forced early act : Bool) (s : State) : Does [.frame, .cells, .hbm, .portA, .portB, .dev, .power, .faults, .fabric, .flash] s (countEventWith l unit source forced early act s) := by
  unfold countEventWith
  try dsimp only
  refine does_ite ?_ ?_
  refine does_ite ?_ ?_
  refine does_by (dropNow_does _ _ _ _ _ _) ?_
  refine does_by (latchEvent_does _ _ _ _ _ _) ?_
  exact does_refl _ _
  refine does_by (latchEvent_does _ _ _ _ _ _) ?_
  exact does_refl _ _
  refine does_by (countSimple_does _ _ _ _ _ _ _) ?_
  refine does_by (standFault_does _ _ _ _ _) ?_
  exact does_refl _ _

theorem severeLate_does (s : State) (w : Nat × Nat) : Does [.frame, .cells, .hbm, .portA, .portB, .dev, .power, .faults, .fabric, .flash] s (severeLate s w) := by
  unfold severeLate
  try dsimp only
  refine does_ite ?_ ?_
  refine does_by (dropWorstLane_does _ _ _) ?_
  exact does_refl _ _
  refine does_by (severeAction_does _ _ _ _ _) ?_
  exact does_refl _ _

theorem takeWaiting_does (s : State) : Does [.frame, .cells, .hbm, .portA, .portB, .dev, .power, .faults, .fabric, .flash] s (takeWaiting s) := by
  unfold takeWaiting
  try dsimp only
  refine does_ite ?_ ?_
  exact does_refl _ _
  refine does_foldl (fun _ _ => ?_) _ ?_
  refine does_by (severeLate_does _ _) ?_
  exact does_refl _ _
  simp only [doesMk]
  refine mk_faults_does (by decide) ?_
  exact does_refl _ _

theorem countEvent_does (l : Level) (unit source : Nat) (s : State) : Does [.frame, .cells, .hbm, .portA, .portB, .dev, .power, .faults, .fabric, .flash] s (countEvent l unit source s) := by
  unfold countEvent
  try dsimp only
  refine does_by (countEventWith_does _ _ _ _ _ _ _) ?_
  exact does_refl _ _

theorem installCfg_does (l : Level) (unit source : Nat) (s : State) : Does [.faults] s (installCfg l unit source s) := by
  unfold installCfg
  try dsimp only
  split
  exact does_refl _ _
  refine does_ite ?_ ?_
  refine does_by (setFaultSrc_does _ _ _ _ _) ?_
  exact does_refl _ _
  exact does_refl _ _

theorem takeShadow_does (cell page : Nat) (s : State) : Does [.frame, .caseMem, .cells, .hbm, .portA, .portB, .dev, .power, .faults, .fabric, .flash] s (takeShadow cell page s).1 := by
  unfold takeShadow
  try dsimp only
  refine does_fst_ite ?_ ?_
  exact does_refl _ _
  refine does_fst_ite ?_ ?_
  exact does_refl _ _
  refine does_fst_ite ?_ ?_
  simp only [doesMk]
  refine does_by (countEvent_does _ _ _ _) ?_
  refine does_by (inDoubt_does _) ?_
  simp only [doesMk]
  refine mk_caseMem_does ⟨rfl, rfl, rfl, rfl, rfl⟩ (by decide) ?_
  exact does_refl _ _
  simp only [doesMk]
  refine mk_caseMem_does ⟨rfl, rfl, rfl, rfl, rfl⟩ (by decide) ?_
  exact does_refl _ _

theorem takePage_does (stack : Nat) (notPc : Option Nat) (s : State) : Does [.hbm] s (takePage stack notPc s).1 := by
  unfold takePage
  try dsimp only
  simp only [doesMk]
  refine mk_hbm_does ⟨rfl, rfl⟩ (by decide) ?_
  exact does_refl _ _

theorem releasePage_does (phys : Nat) (s : State) : Does [.hbm] s (releasePage phys s) := by
  unfold releasePage
  try dsimp only
  simp only [doesMk]
  refine mk_hbm_does ⟨rfl, rfl⟩ (by decide) ?_
  exact does_refl _ _

theorem stagingOverflow_does (stack : Nat) (s : State) : Does [.frame, .cells, .hbm, .portA, .portB, .dev, .power, .faults, .fabric, .flash] s (stagingOverflow stack s) := by
  unfold stagingOverflow
  try dsimp only
  refine does_ite ?_ ?_
  exact does_refl _ _
  refine does_by (countEvent_does _ _ _ _) ?_
  refine does_by (inDoubt_does _) ?_
  simp only [doesMk]
  refine mk_hbm_does ⟨rfl, rfl⟩ (by decide) ?_
  exact does_refl _ _

theorem stageLocal_does (k : Nat) (s : State) : Does [.frame, .cells, .hbm, .portA, .portB, .dev, .power, .faults, .fabric, .flash] s (stageLocal k s).1 := by
  unfold stageLocal
  try dsimp only
  refine does_fst_ite ?_ ?_
  exact does_refl _ _
  refine does_fst_ite ?_ ?_
  simp only [doesMk]
  refine mk_hbm_does ⟨rfl, rfl⟩ (by decide) ?_
  refine does_by (takePage_does _ _ _) ?_
  exact does_refl _ _
  simp only [doesMk]
  refine does_by (stagingOverflow_does _ _) ?_
  exact does_refl _ _

theorem stageCarried_does (k : Nat) (s : State) : Does [.frame, .cells, .hbm, .portA, .portB, .dev, .power, .faults, .fabric, .flash] s (stageCarried k s).1 := by
  unfold stageCarried
  try dsimp only
  refine does_fst_ite ?_ ?_
  exact does_refl _ _
  refine does_fst_ite ?_ ?_
  simp only [doesMk]
  refine mk_hbm_does ⟨rfl, rfl⟩ (by decide) ?_
  refine does_by (takePage_does _ _ _) ?_
  exact does_refl _ _
  simp only [doesMk]
  refine does_by (stagingOverflow_does _ _) ?_
  exact does_refl _ _

theorem stageDelta_does (kind k : Nat) (s : State) : Does [.frame, .cells, .hbm, .portA, .portB, .dev, .power, .faults, .fabric, .flash] s (stageDelta kind k s).1 := by
  unfold stageDelta
  try dsimp only
  refine does_fst_ite ?_ ?_
  exact does_refl _ _
  refine does_fst_ite ?_ ?_
  simp only [doesMk]
  refine mk_hbm_does ⟨rfl, rfl⟩ (by decide) ?_
  refine does_by (takePage_does _ _ _) ?_
  exact does_refl _ _
  simp only [doesMk]
  refine does_by (stagingOverflow_does _ _) ?_
  exact does_refl _ _

theorem hbmWrite_does (a : Nat) (bytes : List Byte) (s : State) : Does [.frame, .cells, .hbm, .portA, .portB, .dev, .power, .faults, .fabric, .flash] s (hbmWrite a bytes s) := by
  unfold hbmWrite
  try dsimp only
  refine does_foldl (fun _ _ => ?_) _ ?_
  refine does_ite ?_ ?_
  exact does_refl _ _
  split
  refine does_step_fst (stageLocal_does _ _) (by assumption) (by decide) ?_
  exact does_refl _ _
  simp only [doesMk]
  refine mk_hbm_keeps (by intro h; refine ⟨?_, ?_⟩ <;> first | with_reducible exact h.mem | with_reducible exact wf_writeN h.mem | with_reducible exact wf_clear h.mem | with_reducible exact wf_fold h.mem | with_reducible exact wf_filter h.mem | with_reducible exact wf_write h.mem | with_reducible exact rise_overlayN h.mem | with_reducible exact rise_filter h.mem | with_reducible exact h.localB | with_reducible exact wf_writeN h.localB | with_reducible exact wf_clear h.localB | with_reducible exact wf_fold h.localB | with_reducible exact wf_filter h.localB | with_reducible exact wf_write h.localB | with_reducible exact rise_overlayN h.localB | with_reducible exact rise_filter h.localB | with_reducible exact wf_nil | with_reducible exact rise_nil) (by decide) ?_
  refine does_step_fst (stageLocal_does _ _) (by assumption) (by decide) ?_
  exact does_refl _ _
  exact does_refl _ _

theorem mirrorWrite_does (cell page off : Nat) (bytes : List Byte) (s : State) : Does [.frame, .cells, .hbm, .portA, .portB, .dev, .power, .faults, .fabric, .flash] s (mirrorWrite cell page off bytes s) := by
  unfold mirrorWrite
  try dsimp only
  split
  refine does_by (hbmWrite_does _ _ _) ?_
  exact does_refl _ _
  exact does_refl _ _

theorem caseWrite_does (w : Writer) (cell off : Nat) (bytes : List Byte) (s : State) : Does [.frame, .caseMem, .cells, .hbm, .portA, .portB, .dev, .power, .faults, .fabric, .flash] s (caseWrite w cell off bytes s) := by
  unfold caseWrite
  refine does_foldl (fun x page => ?_) _ (does_refl _ _)
  split
  · rename_i t e
    exact does_of_fst e (does_mono (takeShadow_does _ _ _) (by decide))
  · rename_i t e
    refine does_step (mirrorWrite_does _ _ _ _ _) (by decide) (does_step (set_caseMem_keeps _ _ (fun h => ⟨h.mem, rise_overlayN h.staged, ?_, ?_, ?_⟩)) (by decide)
      (does_of_fst e (does_mono (takeShadow_does _ _ _) (by decide))))
    · exact rise_ite (rise_overlayN h.inbound) h.inbound
    · exact rise_ite (rise_overlayN h.own) h.own
    · exact rise_ite (rise_overlayN h.host) h.host

theorem hbmCarry_does (host : Bool) (a : Nat) (bytes : List Byte) (s : State) : Does [.frame, .cells, .hbm, .portA, .portB, .dev, .power, .faults, .fabric, .flash] s (hbmCarry host a bytes s) := by
  unfold hbmCarry
  try dsimp only
  refine does_foldl (fun _ _ => ?_) _ ?_
  refine does_ite ?_ ?_
  exact does_refl _ _
  split
  refine does_step_fst (stageCarried_does _ _) (by assumption) (by decide) ?_
  exact does_refl _ _
  simp only [doesMk]
  refine mk_hbm_does ⟨rfl, rfl⟩ (by decide) ?_
  refine does_step_fst (stageCarried_does _ _) (by assumption) (by decide) ?_
  exact does_refl _ _
  exact does_refl _ _

theorem hbmPut_does (a : Nat) (bytes : List Byte) (s : State) : Does [.hbm] s (hbmPut a bytes s) := by
  unfold hbmPut
  try dsimp only
  simp only [doesMk]
  refine mk_hbm_keeps (by intro h; refine ⟨?_, ?_⟩ <;> first | with_reducible exact h.mem | with_reducible exact wf_writeN h.mem | with_reducible exact wf_clear h.mem | with_reducible exact wf_fold h.mem | with_reducible exact wf_filter h.mem | with_reducible exact wf_write h.mem | with_reducible exact rise_overlayN h.mem | with_reducible exact rise_filter h.mem | with_reducible exact h.localB | with_reducible exact wf_writeN h.localB | with_reducible exact wf_clear h.localB | with_reducible exact wf_fold h.localB | with_reducible exact wf_filter h.localB | with_reducible exact wf_write h.localB | with_reducible exact rise_overlayN h.localB | with_reducible exact rise_filter h.localB | with_reducible exact wf_nil | with_reducible exact rise_nil) (by decide) ?_
  exact does_refl _ _

theorem mapPage_does (cls k : Nat) (s : State) : Does [.hbm] s (mapPage cls k s) := by
  unfold mapPage
  try dsimp only
  split
  simp only [doesMk]
  refine mk_hbm_keeps (by intro h; refine ⟨?_, ?_⟩ <;> first | with_reducible exact h.mem | with_reducible exact wf_writeN h.mem | with_reducible exact wf_clear h.mem | with_reducible exact wf_fold h.mem | with_reducible exact wf_filter h.mem | with_reducible exact wf_write h.mem | with_reducible exact rise_overlayN h.mem | with_reducible exact rise_filter h.mem | with_reducible exact h.localB | with_reducible exact wf_writeN h.localB | with_reducible exact wf_clear h.localB | with_reducible exact wf_fold h.localB | with_reducible exact wf_filter h.localB | with_reducible exact wf_write h.localB | with_reducible exact rise_overlayN h.localB | with_reducible exact rise_filter h.localB | with_reducible exact wf_nil | with_reducible exact rise_nil) (by decide) ?_
  exact does_refl _ _
  simp only [doesMk]
  refine mk_hbm_keeps (by intro h; refine ⟨?_, ?_⟩ <;> first | with_reducible exact h.mem | with_reducible exact wf_writeN h.mem | with_reducible exact wf_clear h.mem | with_reducible exact wf_fold h.mem | with_reducible exact wf_filter h.mem | with_reducible exact wf_write h.mem | with_reducible exact rise_overlayN h.mem | with_reducible exact rise_filter h.mem | with_reducible exact h.localB | with_reducible exact wf_writeN h.localB | with_reducible exact wf_clear h.localB | with_reducible exact wf_fold h.localB | with_reducible exact wf_filter h.localB | with_reducible exact wf_write h.localB | with_reducible exact rise_overlayN h.localB | with_reducible exact rise_filter h.localB | with_reducible exact wf_nil | with_reducible exact rise_nil) (by decide) ?_
  refine does_by (takePage_does _ _ _) ?_
  exact does_refl _ _

theorem dropPoison_does (phys : Nat) (s : State) : Does [.hbm] s (dropPoison phys s) := by
  unfold dropPoison
  try dsimp only
  simp only [doesMk]
  refine mk_hbm_does ⟨rfl, rfl⟩ (by decide) ?_
  exact does_refl _ _

theorem hostWrite_does (b off : Nat) (bytes : List Byte) (s : State) : Does [.mbx] s (hostWrite b off bytes s) := by
  unfold hostWrite
  try dsimp only
  split
  exact does_refl _ _
  simp only [doesMk]
  refine mk_mbx_keeps (by intro h; first | with_reducible exact wf_writeN h | with_reducible exact wf_clear h | with_reducible exact wf_fold h | with_reducible exact wf_filter h | with_reducible exact wf_write h | with_reducible exact wf_nil | with_reducible exact h) (by decide) ?_
  exact does_refl _ _

theorem statOwn_does (tensor : Nat) (r : StatRec) (s : State) : Does [.stats] s (statOwn tensor r s) := by
  unfold statOwn
  try dsimp only
  simp only [doesMk]
  refine mk_stats_does (by decide) ?_
  exact does_refl _ _

theorem statIn_does (tensor : Nat) (r : StatRec) (s : State) : Does [.stats] s (statIn tensor r s) := by
  unfold statIn
  try dsimp only
  simp only [doesMk]
  refine mk_stats_does (by decide) ?_
  exact does_refl _ _

theorem statPart_does (kind tensor : Nat) (r : StatRec) (s : State) : Does [.stats] s (statPart kind tensor r s) := by
  unfold statPart
  try dsimp only
  refine does_ite ?_ ?_
  refine does_by (statOwn_does _ _ _) ?_
  exact does_refl _ _
  refine does_by (statIn_does _ _ _) ?_
  exact does_refl _ _

theorem sendData_does (kind : Nat) (h : PktHdr) (payload : List Byte) (s : State) : Does [.fabric] s (sendData kind h payload s) := by
  unfold sendData
  try dsimp only
  refine does_ite ?_ ?_
  exact does_refl _ _
  simp only [doesMk]
  refine mk_fabric_does (by decide) ?_
  exact does_refl _ _

theorem sendWords_does (chip addr : Nat) (bytes : List Byte) (bad : List Nat) (s : State) : Does [.fabric] s (sendWords chip addr bytes bad s) := by
  unfold sendWords
  try dsimp only
  refine does_foldl (fun _ _ => ?_) _ ?_
  refine does_by (sendData_does _ _ _ _) ?_
  exact does_refl _ _
  exact does_refl _ _

theorem sendRaw_does (chip addr : Nat) (bytes : List Byte) (s : State) : Does [.fabric] s (sendRaw chip addr bytes s) := by
  unfold sendRaw
  try dsimp only
  refine does_by (sendWords_does _ _ _ _ _) ?_
  exact does_refl _ _

theorem routeOut_does (x : Nat × PktHdr × List Byte) (s : State) : Does [.fabric] s (routeOut x s) := by
  unfold routeOut
  try dsimp only
  split
  exact does_refl _ _
  refine does_by (sendOn_does _ _ _) ?_
  exact does_refl _ _

theorem flushSends_does (s : State) : Does [.fabric] s (flushSends s) := by
  unfold flushSends
  try dsimp only
  refine does_foldl (fun _ _ => ?_) _ ?_
  refine does_by (routeOut_does _ _) ?_
  exact does_refl _ _
  simp only [doesMk]
  refine mk_fabric_does (by decide) ?_
  exact does_refl _ _

theorem epWrite_does (e : Endpoint) (bytes : List Byte) (s : State) : Does [.frame, .caseMem, .cells, .hbm, .portA, .portB, .mbx, .dev, .power, .faults, .fabric, .flash] s (epWrite e bytes s) := by
  unfold epWrite
  try dsimp only
  split
  refine does_by (hbmWrite_does _ _ _) ?_
  exact does_refl _ _
  refine does_by (caseWrite_does _ _ _ _ _) ?_
  exact does_refl _ _
  refine does_by (hostWrite_does _ _ _ _) ?_
  exact does_refl _ _
  refine does_by (sendRaw_does _ _ _ _) ?_
  exact does_refl _ _

theorem epPut_does (h : Bool) (e : Endpoint) (bytes : List Byte) (s : State) : Does [.frame, .caseMem, .cells, .hbm, .portA, .portB, .mbx, .dev, .power, .faults, .fabric, .flash] s (epPut h e bytes s) := by
  unfold epPut
  try dsimp only
  split
  refine does_by (hbmCarry_does _ _ _ _) ?_
  exact does_refl _ _
  refine does_by (caseWrite_does _ _ _ _ _) ?_
  exact does_refl _ _
  refine does_by (epWrite_does _ _ _) ?_
  exact does_refl _ _

theorem writeTile_does (h : Bool) (tensor tile : Nat) (t : TileOut) (at' : Nat → Nat → Endpoint) (sp : Space) (s : State) : Does [.frame, .caseMem, .cells, .hbm, .portA, .portB, .mbx, .dev, .power, .faults, .fabric, .flash] s (writeTile h tensor tile t at' sp s) := by
  unfold writeTile
  try dsimp only
  split
  refine does_foldl (fun _ _ => ?_) _ ?_
  refine does_by (epPut_does _ _ _ _) ?_
  exact does_refl _ _
  split
  refine does_by (epPut_does _ _ _ _) ?_
  split
  refine does_by (epPut_does _ _ _ _) ?_
  refine does_foldl (fun _ _ => ?_) _ ?_
  refine does_by (epPut_does _ _ _ _) ?_
  exact does_refl _ _
  exact does_refl _ _
  refine does_foldl (fun _ _ => ?_) _ ?_
  refine does_by (epPut_does _ _ _ _) ?_
  exact does_refl _ _
  exact does_refl _ _
  split
  refine does_by (epPut_does _ _ _ _) ?_
  refine does_foldl (fun _ _ => ?_) _ ?_
  refine does_by (epPut_does _ _ _ _) ?_
  exact does_refl _ _
  exact does_refl _ _
  refine does_foldl (fun _ _ => ?_) _ ?_
  refine does_by (epPut_does _ _ _ _) ?_
  exact does_refl _ _
  exact does_refl _ _
  split
  refine does_by (epPut_does _ _ _ _) ?_
  split
  refine does_by (epPut_does _ _ _ _) ?_
  refine does_foldl (fun _ _ => ?_) _ ?_
  refine does_by (epPut_does _ _ _ _) ?_
  exact does_refl _ _
  exact does_refl _ _
  refine does_foldl (fun _ _ => ?_) _ ?_
  refine does_by (epPut_does _ _ _ _) ?_
  exact does_refl _ _
  exact does_refl _ _
  split
  refine does_by (epPut_does _ _ _ _) ?_
  refine does_foldl (fun _ _ => ?_) _ ?_
  refine does_by (epPut_does _ _ _ _) ?_
  exact does_refl _ _
  exact does_refl _ _
  refine does_foldl (fun _ _ => ?_) _ ?_
  refine does_by (epPut_does _ _ _ _) ?_
  exact does_refl _ _
  exact does_refl _ _

end Sys2Proof.Machine
end

