-- ==== Sys2Proof/Laws/DoesCells.lean ====
section
/-! SUPPORT. What each operation can do, one lemma for each (Laws/Does.lean): the arrays, the mailbox, the drain, the vector engine and the sequencers. -/

namespace Sys2Proof.Machine
open Sys2Proof

set_option Elab.async false

theorem setEng_does (cell : Nat) (e : CellEng) (s : State) : Does [.cells] s (setEng cell e s) := by
  unfold setEng
  try dsimp only
  simp only [doesMk]
  refine mk_cells_does (by decide) ?_
  exact does_refl _ _

theorem onEng_does (cell : Nat) (f : CellEng → CellEng) (s : State) : Does [.cells] s (onEng cell f s) := by
  unfold onEng
  try dsimp only
  refine does_by (setEng_does _ _ _) ?_
  exact does_refl _ _

theorem finishItem_does (cell : Nat) (b : ItemBody) (s : State) : Does [.frame] s (finishItem cell b s) := by
  unfold finishItem
  try dsimp only
  split
  exact does_refl _ _
  simp only [doesMk]
  refine mk_frame_does (by decide) ?_
  exact does_refl _ _

theorem finishUnit_does (k : Nat) (b : ItemBody) (s : State) : Does [.frame] s (finishUnit k b s) := by
  unfold finishUnit
  try dsimp only
  refine does_ite ?_ ?_
  refine does_by (finishItem_does _ _ _) ?_
  exact does_refl _ _
  split
  exact does_refl _ _
  simp only [doesMk]
  refine mk_frame_does (by decide) ?_
  exact does_refl _ _

theorem noteTop_does (tensor : Nat) (m : Option Int) (s : State) : Does [.step] s (noteTop tensor m s) := by
  unfold noteTop
  try dsimp only
  split
  exact does_refl _ _
  simp only [doesMk]
  refine mk_step_does (by decide) ?_
  exact does_refl _ _

theorem checksumEvents_does (cell : Nat) (arrs : List Nat) (retry : Nat → Retry) (s : State) : Does [.frame, .cells, .hbm, .portA, .portB, .dev, .power, .faults, .fabric, .flash] s (checksumEvents cell arrs retry s) := by
  unfold checksumEvents
  try dsimp only
  refine does_foldl (fun _ _ => ?_) _ ?_
  refine does_foldl (fun _ _ => ?_) _ ?_
  refine does_by (countEvent_does _ _ _ _) ?_
  exact does_refl _ _
  exact does_refl _ _
  exact does_refl _ _

theorem holdPass_does (mode cell : Nat) (w : HeldPass) (s : State) : Does [.cells] s (holdPass mode cell w s) := by
  unfold holdPass
  try dsimp only
  refine does_by (onEng_does _ _ _) ?_
  exact does_refl _ _

theorem passNow_does (mode cell : Nat) (arrs : List Nat) (w : HeldPass) (s : State) : Does [.frame, .step, .cells, .stats, .hbm, .portA, .portB, .dev, .power, .faults, .fabric, .flash] s (passNow mode cell arrs w s) := by
  unfold passNow
  try dsimp only
  refine does_ite ?_ ?_
  refine does_by (inDoubt_does _) ?_
  refine does_by (checksumEvents_does _ _ _ _) ?_
  refine does_ite ?_ ?_
  refine does_by (noteTop_does _ _ _) ?_
  simp only [doesMk]
  refine mk_cells_does (by decide) ?_
  refine does_by (statOwn_does _ _ _) ?_
  refine does_by (setEng_does _ _ _) ?_
  exact does_refl _ _
  simp only [doesMk]
  refine mk_cells_does (by decide) ?_
  refine does_by (statOwn_does _ _ _) ?_
  refine does_by (setEng_does _ _ _) ?_
  exact does_refl _ _
  refine does_ite ?_ ?_
  refine does_by (finishItem_does _ _ _) ?_
  refine does_by (checksumEvents_does _ _ _ _) ?_
  refine does_ite ?_ ?_
  refine does_by (noteTop_does _ _ _) ?_
  simp only [doesMk]
  refine mk_cells_does (by decide) ?_
  refine does_by (statOwn_does _ _ _) ?_
  refine does_by (setEng_does _ _ _) ?_
  exact does_refl _ _
  simp only [doesMk]
  refine mk_cells_does (by decide) ?_
  refine does_by (statOwn_does _ _ _) ?_
  refine does_by (setEng_does _ _ _) ?_
  exact does_refl _ _
  refine does_by (holdPass_does _ _ _ _) ?_
  refine does_by (checksumEvents_does _ _ _ _) ?_
  refine does_ite ?_ ?_
  refine does_by (noteTop_does _ _ _) ?_
  simp only [doesMk]
  refine mk_cells_does (by decide) ?_
  refine does_by (statOwn_does _ _ _) ?_
  refine does_by (setEng_does _ _ _) ?_
  exact does_refl _ _
  simp only [doesMk]
  refine mk_cells_does (by decide) ?_
  refine does_by (statOwn_does _ _ _) ?_
  refine does_by (setEng_does _ _ _) ?_
  exact does_refl _ _

theorem runPassAt_does (mode cell : Nat) (d : PassDesc) (mm : List (Nat × Nat)) (s : State) : Does [.frame, .step, .cells, .stats, .hbm, .portA, .portB, .dev, .power, .faults, .fabric, .flash] s (runPassAt mode cell d mm s) := by
  unfold runPassAt
  try dsimp only
  refine does_ite ?_ ?_
  exact does_refl _ _
  refine does_by (passNow_does _ _ _ _ _) ?_
  exact does_refl _ _

theorem runPass_does (cell : Nat) (d : PassDesc) (mm : List (Nat × Nat)) (s : State) : Does [.frame, .step, .cells, .stats, .hbm, .portA, .portB, .dev, .power, .faults, .fabric, .flash] s (runPass cell d mm s) := by
  unfold runPass
  try dsimp only
  refine does_by (runPassAt_does _ _ _ _ _) ?_
  exact does_refl _ _

theorem execPass_does (cell : Nat) (d : PassDesc) (mismatches : List (Nat × Nat)) (s : State) :
    ∃ t, execPass cell d mismatches s = .next t ∧ Does [.frame, .step, .cells, .stats, .hbm, .portA, .portB, .dev, .power, .faults, .fabric, .flash] s t ∧ t.pending = s.pending := by
  unfold execPass
  refine effect_next ?_
  try dsimp only
  refine does_by (runPass_does _ _ _ _) ?_
  exact does_refl _ _

theorem runWeightSwap_does (cell : Nat) (s : State) : Does [.cells] s (runWeightSwap cell s) := by
  unfold runWeightSwap
  try dsimp only
  refine does_ite ?_ ?_
  exact does_refl _ _
  split
  refine does_by (onEng_does _ _ _) ?_
  exact does_refl _ _
  refine does_ite ?_ ?_
  exact does_refl _ _
  refine does_by (onEng_does _ _ _) ?_
  exact does_refl _ _

theorem execWeightSwap_does (cell : Nat) (s : State) :
    ∃ t, execWeightSwap cell s = .next t ∧ Does [.cells] s t ∧ t.pending = s.pending := by
  unfold execWeightSwap
  refine effect_next ?_
  try dsimp only
  refine does_onlyIf ?_ (fun _ => ?_)
  exact does_refl _ _
  refine does_by (runWeightSwap_does _ _) ?_
  exact does_refl _ _

theorem setSlot_does (p : PPort) (n : Nat) (x : Slot) (s : State) : Does [.portA, .portB] s (setSlot p n x s) := by
  unfold setSlot
  try dsimp only
  refine does_by (onPort_does _ _ _) ?_
  exact does_refl _ _

theorem dueRecord_does (p : PPort) (r : ComplRec) (s : State) : Does [.portA, .portB] s (dueRecord p r s) := by
  unfold dueRecord
  try dsimp only
  refine does_ite ?_ ?_
  exact does_refl _ _
  refine does_by (onPort_does _ _ _) ?_
  exact does_refl _ _

theorem completeSlot_does (p : PPort) (n status reason : Nat) (result : List Byte) (s : State) : Does [.portA, .portB] s (completeSlot p n status reason result s) := by
  unfold completeSlot
  try dsimp only
  refine does_ite ?_ ?_
  exact does_refl _ _
  refine does_by (dueRecord_does _ _ _) ?_
  refine does_by (setSlot_does _ _ _ _) ?_
  exact does_refl _ _

theorem batchRecord_does (b : Batch) (status attempted : Nat) (s : State) : Does [.portA, .portB] s (batchRecord b status attempted s) := by
  unfold batchRecord
  try dsimp only
  refine does_by (dueRecord_does _ _ _) ?_
  exact does_refl _ _

theorem Cmd_finish_does (c : Cmd) (status : Nat) (result : List Byte) (s : State) : Does [.portA, .portB] s (Cmd.finish c status result s) := by
  unfold Cmd.finish
  try dsimp only
  refine does_by (completeSlot_does _ _ _ _ _ _) ?_
  exact does_refl _ _

theorem Cmd_refuse_does (c : Cmd) (reason : Nat) (result : List Byte) (s : State) : Does [.portA, .portB] s (Cmd.refuse c reason result s) := by
  unfold Cmd.refuse
  try dsimp only
  refine does_by (completeSlot_does _ _ _ _ _ _) ?_
  exact does_refl _ _

theorem Cmd_accept_does (c : Cmd) (op : Nat) (result : List Byte) (s : State) : Does [.portA, .portB, .mbx] s (Cmd.accept c op result s) := by
  unfold Cmd.accept
  try dsimp only
  simp only [doesMk]
  refine mk_mbx_does rfl (by decide) ?_
  refine does_by (setSlot_does _ _ _ _) ?_
  exact does_refl _ _

theorem finishAcc_does (a : Acc) (status reason : Nat) (result : List Byte) (s : State) : Does [.portA, .portB, .mbx] s (finishAcc a status reason result s) := by
  unfold finishAcc
  try dsimp only
  refine does_by (completeSlot_does _ _ _ _ _ _) ?_
  simp only [doesMk]
  refine mk_mbx_does rfl (by decide) ?_
  exact does_refl _ _

theorem finishCmd_does (op status reason : Nat) (result : List Byte) (s : State) : Does [.portA, .portB, .mbx] s (finishCmd op status reason result s) := by
  unfold finishCmd
  try dsimp only
  split
  refine does_by (finishAcc_does _ _ _ _ _) ?_
  exact does_refl _ _
  exact does_refl _ _

theorem takeSlot_does (a : Arrival) (s : State) : Does [.portA, .portB, .mbx] s (takeSlot a s) := by
  unfold takeSlot
  try dsimp only
  refine does_by (setSlot_does _ _ _ _) ?_
  simp only [doesMk]
  refine mk_mbx_does rfl (by decide) ?_
  exact does_refl _ _

theorem within_two {m : List Comp} (h : within [.portA, .portB, .mbx] m = true) : within [.portA, .portB] m = true := by
  simp only [within, List.all_cons, Bool.and_eq_true] at h ⊢
  exact ⟨h.1, h.2.1, rfl⟩

theorem command_does {m : List Comp} {op : Nat} {ok : Cmd → State → Bool} {run : Cmd → State → State} {s : State}
    (h : ∀ c u, Does m u (run c u)) (hm : within [.portA, .portB, .mbx] m = true) : Does m s (command op ok run s) := by
  have hm' := within_two hm
  unfold command
  split
  · exact does_refl _ _
  · split
    · dsimp only
      split
      · exact does_step (Cmd_finish_does _ _ _ _) hm' (does_mono (takeSlot_does _ _) hm)
      · exact does_trans (does_mono (takeSlot_does _ _) hm) (h _ _)
    · exact does_refl _ _

theorem checked_does {m : List Comp} {ok : Cmd → State → Bool} {run : Cmd → State → State} {c : Cmd} {s : State}
    (h : ∀ c u, Does m u (run c u)) (hm : within [.portA, .portB, .mbx] m = true) : Does m s (checked ok run c s) := by
  have hm' := within_two hm
  unfold checked
  split
  · exact h c s
  · exact does_mono (Cmd_finish_does _ _ _ _) hm'

theorem runUnknown_does (s : State) : Does [.portA, .portB, .mbx] s (runUnknown s) := by
  unfold runUnknown
  try dsimp only
  split
  exact does_refl _ _
  refine does_ite ?_ ?_
  refine does_by (Cmd_finish_does _ _ _ _) ?_
  refine does_by (takeSlot_does _ _) ?_
  exact does_refl _ _
  exact does_refl _ _

theorem execUnknownOpcode_does (s : State) :
    ∃ t, execUnknownOpcode s = .next t ∧ Does [.portA, .portB, .mbx] s t ∧ t.pending = s.pending := by
  unfold execUnknownOpcode
  refine effect_next ?_
  try dsimp only
  refine does_by (runUnknown_does _) ?_
  exact does_refl _ _

theorem leaseEffects_does (s : State) : Does [.dev] s (leaseEffects s) := by
  unfold leaseEffects
  try dsimp only
  refine does_ite ?_ ?_
  simp only [doesMk]
  refine mk_dev_does (by decide) ?_
  exact does_refl _ _
  refine does_ite ?_ ?_
  exact does_refl _ _
  simp only [doesMk]
  refine mk_dev_does (by decide) ?_
  exact does_refl _ _

theorem expireLease_does (s : State) : Does [.portA, .portB, .own, .dev, .flash] s (expireLease s) := by
  unfold expireLease
  try dsimp only
  refine does_ite ?_ ?_
  refine does_by (leaseEffects_does _) ?_
  refine does_by (setHolder_does _ _) ?_
  simp only [doesMk]
  refine mk_own_does (by decide) ?_
  exact does_refl _ _
  exact does_refl _ _

theorem execLeaseExpiry_does (s : State) :
    ∃ t, execLeaseExpiry s = .next t ∧ Does [.portA, .portB, .own, .dev, .flash] s t ∧ t.pending = s.pending := by
  unfold execLeaseExpiry
  refine effect_next ?_
  try dsimp only
  refine does_onlyIf ?_ (fun _ => ?_)
  exact does_refl _ _
  refine does_by (expireLease_does _) ?_
  exact does_refl _ _

theorem writeSlotState_does (p : PPort) (n : Nat) (v : Byte) (s : State) : Does [.portA, .portB, .mbx] s (writeSlotState p n v s) := by
  unfold writeSlotState
  try dsimp only
  refine does_ite ?_ ?_
  exact does_refl _ _
  refine does_ite ?_ ?_
  simp only [doesMk]
  refine mk_mbx_does rfl (by decide) ?_
  refine does_by (setSlot_does _ _ _ _) ?_
  exact does_refl _ _
  refine does_ite ?_ ?_
  refine does_by (setSlot_does _ _ _ _) ?_
  exact does_refl _ _
  exact does_refl _ _

theorem whenDecoding_does {m : List Comp} {p : PPort} {f : State → State} {s : State} (h : ∀ u, Does m u (f u)) :
    Does m s (whenDecoding p f s) := by
  unfold whenDecoding
  split
  · exact h s
  · exact does_refl _ _

theorem execMbxStateWrite_does (p : PPort) (slot : Nat) (value : Byte) (s : State) :
    ∃ t, execMbxStateWrite p slot value s = .next t ∧ Does [.portA, .portB, .mbx] s t ∧ t.pending = s.pending := by
  unfold execMbxStateWrite
  refine effect_next ?_
  try dsimp only
  refine whenDecoding_does (fun _ => ?_)
  refine does_by (writeSlotState_does _ _ _ _) ?_
  exact does_refl _ _

theorem writeRingCtrl_does (p : PPort) (v : W32) (s : State) : Does [.portA, .portB] s (writeRingCtrl p v s) := by
  unfold writeRingCtrl
  try dsimp only
  refine does_by (onPort_does _ _ _) ?_
  exact does_refl _ _

theorem execMbxRingCtrlWrite_does (p : PPort) (value : W32) (s : State) :
    ∃ t, execMbxRingCtrlWrite p value s = .next t ∧ Does [.portA, .portB] s t ∧ t.pending = s.pending := by
  unfold execMbxRingCtrlWrite
  refine effect_next ?_
  try dsimp only
  refine whenDecoding_does (fun _ => ?_)
  refine does_by (writeRingCtrl_does _ _ _) ?_
  exact does_refl _ _

theorem writeConsumed_does (p : PPort) (v : W32) (s : State) : Does [.portA, .portB] s (writeConsumed p v s) := by
  unfold writeConsumed
  try dsimp only
  refine does_by (onPort_does _ _ _) ?_
  exact does_refl _ _

theorem execMbxRingConsumedWrite_does (p : PPort) (value : W32) (s : State) :
    ∃ t, execMbxRingConsumedWrite p value s = .next t ∧ Does [.portA, .portB] s t ∧ t.pending = s.pending := by
  unfold execMbxRingConsumedWrite
  refine effect_next ?_
  try dsimp only
  refine whenDecoding_does (fun _ => ?_)
  refine does_by (writeConsumed_does _ _ _) ?_
  exact does_refl _ _

theorem writeRecord_does (p : PPort) (s : State) : Does [.portA, .portB, .mbx] s (writeRecord p s) := by
  unfold writeRecord
  try dsimp only
  split
  exact does_refl _ _
  refine does_ite ?_ ?_
  simp only [doesMk]
  refine mk_mbx_keeps (by intro h; first | with_reducible exact wf_writeN h | with_reducible exact wf_clear h | with_reducible exact wf_fold h | with_reducible exact wf_filter h | with_reducible exact wf_write h | with_reducible exact wf_nil | with_reducible exact h) (by decide) ?_
  refine does_by (setPPort_does _ _ _) ?_
  exact does_refl _ _
  exact does_refl _ _

theorem execCompletionRecordWrite_does (p : PPort) (s : State) :
    ∃ t, execCompletionRecordWrite p s = .next t ∧ Does [.portA, .portB, .mbx] s t ∧ t.pending = s.pending := by
  unfold execCompletionRecordWrite
  refine effect_next ?_
  try dsimp only
  refine does_onlyIf ?_ (fun _ => ?_)
  exact does_refl _ _
  refine does_by (writeRecord_does _ _) ?_
  exact does_refl _ _

theorem writeSticky_does (p : PPort) (v : W32) (s : State) : Does [.portA, .portB] s (writeSticky p v s) := by
  unfold writeSticky
  try dsimp only
  refine does_by (onPort_does _ _ _) ?_
  exact does_refl _ _

theorem execDevStickyWrite_does (p : PPort) (value : W32) (s : State) :
    ∃ t, execDevStickyWrite p value s = .next t ∧ Does [.portA, .portB] s t ∧ t.pending = s.pending := by
  unfold execDevStickyWrite
  refine effect_next ?_
  try dsimp only
  refine whenDecoding_does (fun _ => ?_)
  refine does_by (writeSticky_does _ _ _) ?_
  exact does_refl _ _

theorem putByte_does (p : PPort) (off : Nat) (b : Byte) (s : State) : Does [.portA, .portB] s (putByte p off b s) := by
  unfold putByte
  try dsimp only
  refine does_ite ?_ ?_
  refine does_by (onPort_does _ _ _) ?_
  exact does_refl _ _
  refine does_ite ?_ ?_
  refine does_by (onPort_does _ _ _) ?_
  exact does_refl _ _
  refine does_ite ?_ ?_
  refine does_by (onPort_does _ _ _) ?_
  exact does_refl _ _
  refine does_ite ?_ ?_
  refine does_ite ?_ ?_
  refine does_by (onPort_does _ _ _) ?_
  exact does_refl _ _
  exact does_refl _ _
  exact does_refl _ _

theorem writeRegister_does (p : PPort) (off size : Nat) (v : W64) (s : State) : Does [.portA, .portB, .mbx] s (writeRegister p off size v s) := by
  unfold writeRegister
  try dsimp only
  refine does_ite ?_ ?_
  refine does_by (writeSlotState_does _ _ _ _) ?_
  refine does_ite ?_ ?_
  refine does_by (writeSticky_does _ _ _) ?_
  refine does_ite ?_ ?_
  refine does_by (writeConsumed_does _ _ _) ?_
  refine does_ite ?_ ?_
  refine does_by (writeRingCtrl_does _ _ _) ?_
  refine does_foldl (fun _ _ => ?_) _ ?_
  refine does_by (putByte_does _ _ _ _) ?_
  exact does_refl _ _
  exact does_refl _ _
  refine does_foldl (fun _ _ => ?_) _ ?_
  refine does_by (putByte_does _ _ _ _) ?_
  exact does_refl _ _
  exact does_refl _ _
  refine does_ite ?_ ?_
  refine does_by (writeRingCtrl_does _ _ _) ?_
  refine does_foldl (fun _ _ => ?_) _ ?_
  refine does_by (putByte_does _ _ _ _) ?_
  exact does_refl _ _
  exact does_refl _ _
  refine does_foldl (fun _ _ => ?_) _ ?_
  refine does_by (putByte_does _ _ _ _) ?_
  exact does_refl _ _
  exact does_refl _ _
  refine does_ite ?_ ?_
  refine does_by (writeConsumed_does _ _ _) ?_
  refine does_ite ?_ ?_
  refine does_by (writeRingCtrl_does _ _ _) ?_
  refine does_foldl (fun _ _ => ?_) _ ?_
  refine does_by (putByte_does _ _ _ _) ?_
  exact does_refl _ _
  exact does_refl _ _
  refine does_foldl (fun _ _ => ?_) _ ?_
  refine does_by (putByte_does _ _ _ _) ?_
  exact does_refl _ _
  exact does_refl _ _
  refine does_ite ?_ ?_
  refine does_by (writeRingCtrl_does _ _ _) ?_
  refine does_foldl (fun _ _ => ?_) _ ?_
  refine does_by (putByte_does _ _ _ _) ?_
  exact does_refl _ _
  exact does_refl _ _
  refine does_foldl (fun _ _ => ?_) _ ?_
  refine does_by (putByte_does _ _ _ _) ?_
  exact does_refl _ _
  exact does_refl _ _
  refine does_ite ?_ ?_
  refine does_by (writeSticky_does _ _ _) ?_
  refine does_ite ?_ ?_
  refine does_by (writeConsumed_does _ _ _) ?_
  refine does_ite ?_ ?_
  refine does_by (writeRingCtrl_does _ _ _) ?_
  refine does_foldl (fun _ _ => ?_) _ ?_
  refine does_by (putByte_does _ _ _ _) ?_
  exact does_refl _ _
  exact does_refl _ _
  refine does_foldl (fun _ _ => ?_) _ ?_
  refine does_by (putByte_does _ _ _ _) ?_
  exact does_refl _ _
  exact does_refl _ _
  refine does_ite ?_ ?_
  refine does_by (writeRingCtrl_does _ _ _) ?_
  refine does_foldl (fun _ _ => ?_) _ ?_
  refine does_by (putByte_does _ _ _ _) ?_
  exact does_refl _ _
  exact does_refl _ _
  refine does_foldl (fun _ _ => ?_) _ ?_
  refine does_by (putByte_does _ _ _ _) ?_
  exact does_refl _ _
  exact does_refl _ _
  refine does_ite ?_ ?_
  refine does_by (writeConsumed_does _ _ _) ?_
  refine does_ite ?_ ?_
  refine does_by (writeRingCtrl_does _ _ _) ?_
  refine does_foldl (fun _ _ => ?_) _ ?_
  refine does_by (putByte_does _ _ _ _) ?_
  exact does_refl _ _
  exact does_refl _ _
  refine does_foldl (fun _ _ => ?_) _ ?_
  refine does_by (putByte_does _ _ _ _) ?_
  exact does_refl _ _
  exact does_refl _ _
  refine does_ite ?_ ?_
  refine does_by (writeRingCtrl_does _ _ _) ?_
  refine does_foldl (fun _ _ => ?_) _ ?_
  refine does_by (putByte_does _ _ _ _) ?_
  exact does_refl _ _
  exact does_refl _ _
  refine does_foldl (fun _ _ => ?_) _ ?_
  refine does_by (putByte_does _ _ _ _) ?_
  exact does_refl _ _
  exact does_refl _ _

theorem execRegisterWrite_does (p : PPort) (offset size : Nat) (value : W64) (s t : State)
    (h : execRegisterWrite p offset size value s = .next t) : Does [.portA, .portB, .mbx] s t ∧ t.pending = s.pending := by
  unfold execRegisterWrite at h
  split at h
  · exact does_effect (whenDecoding_does (fun _ => writeRegister_does _ _ _ _ _)) _ h
  · cases h

theorem onCompares_does (f : SMap CmpRec → SMap CmpRec) (s : State) : Does [.step] s (onCompares f s) := by
  unfold onCompares
  try dsimp only
  simp only [doesMk]
  refine mk_step_does (by decide) ?_
  exact does_refl _ _

theorem compareStrip_does (cell : Nat) (d : DrainDesc) (te : TabEntry) (e : CellEng) (nc : Nat) (els : List (List DrainEl)) (s : State) : Does [.step] s (compareStrip cell d te e nc els s) := by
  unfold compareStrip
  try dsimp only
  refine does_ite ?_ ?_
  exact does_refl _ _
  refine does_foldl (fun _ _ => ?_) _ ?_
  refine does_foldl (fun _ _ => ?_) _ ?_
  refine does_by (onCompares_does _ _) ?_
  exact does_refl _ _
  exact does_refl _ _
  exact does_refl _ _

theorem holdReference_does (d : DrainDesc) (e : CellEng) (s : State) : Does [.step] s (holdReference d e s) := by
  unfold holdReference
  try dsimp only
  refine does_ite ?_ ?_
  exact does_refl _ _
  refine does_foldl (fun _ _ => ?_) _ ?_
  refine does_foldl (fun _ _ => ?_) _ ?_
  simp only [doesMk]
  refine mk_step_does (by decide) ?_
  exact does_refl _ _
  exact does_refl _ _
  exact does_refl _ _

theorem writePlain_does (t : TabEntry) (tensor f rows cols r0 c0 : Nat) (x : Nat → Nat → W32) (at' : Nat → Nat → Endpoint) (s : State) : Does [.frame, .caseMem, .cells, .stats, .hbm, .portA, .portB, .mbx, .dev, .power, .faults, .fabric, .flash] s (writePlain t tensor f rows cols r0 c0 x at' s) := by
  unfold writePlain
  try dsimp only
  refine does_by (statOwn_does _ _ _) ?_
  refine does_foldl (fun _ _ => ?_) _ ?_
  refine does_by (epWrite_does _ _ _) ?_
  exact does_refl _ _
  refine does_foldl (fun _ _ => ?_) _ ?_
  refine does_by (epWrite_does _ _ _) ?_
  exact does_refl _ _
  exact does_refl _ _

theorem writeQuantized_does (h : Bool) (t : TabEntry) (tensor ctl f row0 col0 rows cols : Nat) (stream : W32) (tensorCols : Nat)
    (x : Nat → Nat → W32) (at' : Nat → Nat → Nat → Endpoint) (sp : Nat → Nat → Space) (s : State) : Does [.frame, .caseMem, .cells, .stats, .hbm, .portA, .portB, .mbx, .dev, .power, .faults, .fabric, .flash] s (writeQuantized h t tensor ctl f row0 col0 rows cols stream tensorCols x at' sp s) := by
  unfold writeQuantized
  try dsimp only
  split
  exact does_refl _ _
  refine does_foldl (fun _ _ => ?_) _ ?_
  refine does_by (statOwn_does _ _ _) ?_
  refine does_by (writeTile_does _ _ _ _ _ _ _) ?_
  exact does_refl _ _
  exact does_refl _ _

theorem drainTopk_does (cell : Nat) (d : DrainDesc) (rows : List (Nat × Nat)) (mask nc : Nat) (at' : Nat → Nat → W32) (s : State) : Does [.frame, .caseMem, .cells, .hbm, .portA, .portB, .dev, .power, .faults, .fabric, .flash] s (drainTopk cell d rows mask nc at' s) := by
  unfold drainTopk
  try dsimp only
  refine does_foldl (fun _ _ => ?_) _ ?_
  refine does_by (caseWrite_does _ _ _ _ _) ?_
  exact does_refl _ _
  exact does_refl _ _

theorem drainOutput_does (cell : Nat) (d : DrainDesc) (te : TabEntry) (nr nc : Nat) (at' : Nat → Nat → W32) (s : State) : Does [.frame, .caseMem, .cells, .stats, .hbm, .portA, .portB, .mbx, .dev, .power, .faults, .fabric, .flash] s (drainOutput cell d te nr nc at' s) := by
  unfold drainOutput
  try dsimp only
  split
  exact does_refl _ _
  refine does_ite ?_ ?_
  refine does_by (writeQuantized_does _ _ _ _ _ _ _ _ _ _ _ _ _ _ _) ?_
  exact does_refl _ _
  refine does_by (writePlain_does _ _ _ _ _ _ _ _ _ _) ?_
  exact does_refl _ _

theorem drainFinal_does (cell : Nat) (d : DrainDesc) (te : TabEntry) (s : State) : Does [.frame, .step, .caseMem, .cells, .stats, .hbm, .portA, .portB, .mbx, .dev, .power, .faults, .fabric, .flash] s (drainFinal cell d te s) := by
  unfold drainFinal
  try dsimp only
  refine does_by (drainOutput_does _ _ _ _ _ _ _) ?_
  refine does_ite ?_ ?_
  refine does_by (drainTopk_does _ _ _ _ _ _ _) ?_
  refine does_by (setEng_does _ _ _) ?_
  refine does_ite ?_ ?_
  refine does_by (compareStrip_does _ _ _ _ _ _ _) ?_
  refine does_by (statOwn_does _ _ _) ?_
  exact does_refl _ _
  refine does_by (statOwn_does _ _ _) ?_
  exact does_refl _ _
  refine does_by (setEng_does _ _ _) ?_
  refine does_ite ?_ ?_
  refine does_by (compareStrip_does _ _ _ _ _ _ _) ?_
  refine does_by (statOwn_does _ _ _) ?_
  exact does_refl _ _
  refine does_by (statOwn_does _ _ _) ?_
  exact does_refl _ _

theorem drainPartial_does (cell : Nat) (d : DrainDesc) (te : TabEntry) (s : State) : Does [.frame, .step, .caseMem, .cells, .stats, .hbm, .portA, .portB, .dev, .power, .faults, .fabric, .flash] s (drainPartial cell d te s) := by
  unfold drainPartial
  try dsimp only
  refine does_foldl (fun _ _ => ?_) _ ?_
  refine does_by (statOwn_does _ _ _) ?_
  refine does_by (caseWrite_does _ _ _ _ _) ?_
  exact does_refl _ _
  refine does_by (setEng_does _ _ _) ?_
  refine does_by (holdReference_does _ _ _) ?_
  exact does_refl _ _

theorem drainNow_does (cell : Nat) (d : DrainDesc) (s : State) : Does [.frame, .step, .caseMem, .cells, .stats, .hbm, .portA, .portB, .mbx, .dev, .power, .faults, .fabric, .flash] s (drainNow cell d s) := by
  unfold drainNow
  try dsimp only
  split
  exact does_refl _ _
  refine does_ite ?_ ?_
  refine does_by (drainFinal_does _ _ _ _) ?_
  exact does_refl _ _
  refine does_by (drainPartial_does _ _ _ _) ?_
  exact does_refl _ _

theorem takeSlots_does (cell : Nat) (d : DrainDesc) (s : State) : Does [.frame, .step, .caseMem, .cells, .stats, .hbm, .portA, .portB, .mbx, .dev, .power, .faults, .fabric, .flash] s (takeSlots cell d s) := by
  unfold takeSlots
  try dsimp only
  refine does_ite ?_ ?_
  refine does_by (finishItem_does _ _ _) ?_
  refine does_by (drainNow_does _ _ _) ?_
  exact does_refl _ _
  refine does_by (onEng_does _ _ _) ?_
  exact does_refl _ _

theorem runDrain_does (cell : Nat) (d : DrainDesc) (s : State) : Does [.frame, .step, .caseMem, .cells, .stats, .hbm, .portA, .portB, .mbx, .dev, .power, .faults, .fabric, .flash] s (runDrain cell d s) := by
  unfold runDrain
  try dsimp only
  refine does_ite ?_ ?_
  exact does_refl _ _
  refine does_ite ?_ ?_
  refine does_by (onEng_does _ _ _) ?_
  exact does_refl _ _
  refine does_by (takeSlots_does _ _ _) ?_
  exact does_refl _ _

theorem addWait_does (cell n : Nat) (s : State) : Does [.cells] s (addWait cell n s) := by
  unfold addWait
  try dsimp only
  simp only [doesMk]
  refine mk_cells_does (by decide) ?_
  exact does_refl _ _

theorem wakeList_does (cell : Nat) : ∀ (l : List DrainDesc) (s : State), Does [.frame, .step, .caseMem, .cells, .stats, .hbm, .portA, .portB, .mbx, .dev, .power, .faults, .fabric, .flash, .freeIdx] s (wakeList cell l s)
  | [], s => does_refl _ s
  | d :: rest, s => by
    unfold wakeList
    split
    · extract_lets n
      refine does_trans ?_ (wakeList_does cell rest _)
      refine does_step (finishItem_does _ _ _) (by decide) (does_step (drainNow_does _ _ _) (by decide) ?_)
      exact does_step (addWait_does _ _ _) (by decide) (does_step (onEng_does _ _ _) (by decide) (does_mono (drawFree_does _) (by decide)))
    · exact does_refl _ _

theorem wakePass_does (cell : Nat) (s : State) : Does [.frame, .step, .caseMem, .cells, .stats, .hbm, .portA, .portB, .mbx, .dev, .power, .faults, .fabric, .flash] s (wakePass cell s) := by
  unfold wakePass
  try dsimp only
  split
  exact does_refl _ _
  refine does_ite ?_ ?_
  exact does_refl _ _
  refine does_ite ?_ ?_
  refine does_foldl (fun _ _ => ?_) _ ?_
  refine does_by (takeSlots_does _ _ _) ?_
  exact does_refl _ _
  refine does_by (passNow_does _ _ _ _ _) ?_
  exact does_refl _ _
  refine does_by (passNow_does _ _ _ _ _) ?_
  exact does_refl _ _

theorem wakeDrain_does (cell : Nat) (s : State) : Does [.frame, .step, .caseMem, .cells, .stats, .hbm, .portA, .portB, .mbx, .dev, .power, .faults, .fabric, .flash, .freeIdx] s (wakeDrain cell s) := by
  unfold wakeDrain
  try dsimp only
  refine does_by (wakeList_does _ _ _) ?_
  refine does_by (wakePass_does _ _) ?_
  refine does_by (wakeList_does _ _ _) ?_
  exact does_refl _ _

theorem runGalleySlotFree_does (cell : Nat) (s : State) : Does [.frame, .step, .caseMem, .cells, .stats, .hbm, .portA, .portB, .mbx, .dev, .power, .faults, .fabric, .flash, .freeIdx] s (runGalleySlotFree cell s) := by
  unfold runGalleySlotFree
  try dsimp only
  refine does_ite ?_ ?_
  exact does_refl _ _
  refine does_onlyIf ?_ (fun _ => ?_)
  refine does_by (onEng_does _ _ _) ?_
  exact does_refl _ _
  refine does_by (wakeDrain_does _ _) ?_
  exact does_refl _ _

theorem execDrain_does (cell : Nat) (d : DrainDesc) (s : State) :
    ∃ t, execDrain cell d s = .next t ∧ Does [.frame, .step, .caseMem, .cells, .stats, .hbm, .portA, .portB, .mbx, .dev, .power, .faults, .fabric, .flash] s t ∧ t.pending = s.pending := by
  unfold execDrain
  refine effect_next ?_
  try dsimp only
  refine does_by (runDrain_does _ _ _) ?_
  exact does_refl _ _

theorem execGalleySlotFree_does (cell : Nat) (s : State) :
    ∃ t, execGalleySlotFree cell s = .next t ∧ Does [.frame, .step, .caseMem, .cells, .stats, .hbm, .portA, .portB, .mbx, .dev, .power, .faults, .fabric, .flash, .freeIdx] s t ∧ t.pending = s.pending := by
  unfold execGalleySlotFree
  refine effect_next ?_
  try dsimp only
  refine does_by (runGalleySlotFree_does _ _) ?_
  exact does_refl _ _

theorem setVreg_does (cell r : Nat) (v : BitVec 4096) (s : State) : Does [.cells] s (setVreg cell r v s) := by
  unfold setVreg
  try dsimp only
  refine does_by (onEng_does _ _ _) ?_
  exact does_refl _ _

theorem setMreg_does (cell m : Nat) (v : BitVec 512) (s : State) : Does [.cells] s (setMreg cell m v s) := by
  unfold setMreg
  try dsimp only
  refine does_ite ?_ ?_
  exact does_refl _ _
  refine does_by (onEng_does _ _ _) ?_
  exact does_refl _ _

theorem writeLanes_does (cell : Nat) (f : VFields) (w : Nat) (vals : List Nat) (s : State) : Does [.cells] s (writeLanes cell f w vals s) := by
  unfold writeLanes
  try dsimp only
  refine does_by (setVreg_does _ _ _ _) ?_
  exact does_refl _ _

theorem writeMask_does (cell : Nat) (f : VFields) (n : Nat) (bits : Nat → Bool) (s : State) : Does [.cells] s (writeMask cell f n bits s) := by
  unfold writeMask
  try dsimp only
  refine does_by (setMreg_does _ _ _ _) ?_
  exact does_refl _ _

theorem operandB8_does (s : State) (cell : Nat) (f : VFields) : Does [.freeIdx] s (operandB8 s cell f).2 := by
  unfold operandB8
  try dsimp only
  refine does_snd_ite ?_ ?_
  refine does_by (drawFree_does _) ?_
  exact does_refl _ _
  exact does_refl _ _

theorem binaryOp_does (g : W32 → W32 → W32 ⊕ (Bool × Dy)) (g8 : Int → Int → Int) (cell : Nat) (f : VFields) (s : State) : Does [.cells, .freeIdx] s (binaryOp g g8 cell f s) := by
  unfold binaryOp
  try dsimp only
  refine does_ite ?_ ?_
  refine does_by (writeLanes_does _ _ _ _ _) ?_
  refine does_by (operandB8_does _ _ _) ?_
  exact does_refl _ _
  refine does_by (writeLanes_does _ _ _ _ _) ?_
  exact does_refl _ _

theorem unaryOp_does (g : W32 → W32) (cell : Nat) (f : VFields) (s : State) : Does [.cells] s (unaryOp g cell f s) := by
  unfold unaryOp
  try dsimp only
  refine does_by (writeLanes_does _ _ _ _ _) ?_
  exact does_refl _ _

theorem compareOp_does (g : W32 → W32 → Bool) (g8 : Int → Int → Bool) (cell : Nat) (f : VFields) (s : State) : Does [.cells, .freeIdx] s (compareOp g g8 cell f s) := by
  unfold compareOp
  try dsimp only
  refine does_ite ?_ ?_
  refine does_by (writeMask_does _ _ _ _ _) ?_
  refine does_by (operandB8_does _ _ _) ?_
  exact does_refl _ _
  refine does_by (writeMask_does _ _ _ _ _) ?_
  exact does_refl _ _

theorem maskOp_does (g : Bool → Bool → Bool) (cell : Nat) (f : VFields) (s : State) : Does [.cells] s (maskOp g cell f s) := by
  unfold maskOp
  try dsimp only
  refine does_by (writeMask_does _ _ _ _ _) ?_
  exact does_refl _ _

theorem writeReduced_does (cell : Nat) (f : VFields) (w v : Nat) (s : State) : Does [.cells] s (writeReduced cell f w v s) := by
  unfold writeReduced
  try dsimp only
  refine does_by (setVreg_does _ _ _ _) ?_
  exact does_refl _ _

theorem reduceOp_does (op : W32 → W32 → W32) (z : W32) (cell : Nat) (f : VFields) (s : State) : Does [.cells] s (reduceOp op z cell f s) := by
  unfold reduceOp
  try dsimp only
  refine does_by (writeReduced_does _ _ _ _ _) ?_
  exact does_refl _ _

theorem reduceOp8_does (op : Int → Int → Int) (z : Int) (cell : Nat) (f : VFields) (s : State) : Does [.cells] s (reduceOp8 op z cell f s) := by
  unfold reduceOp8
  try dsimp only
  refine does_by (writeReduced_does _ _ _ _ _) ?_
  exact does_refl _ _

theorem convertOp_does (pair : Nat) (cell : Nat) (f : VFields) (s : State) : Does [.cells] s (convertOp pair cell f s) := by
  unfold convertOp
  try dsimp only
  split
  refine does_by (writeLanes_does _ _ _ _ _) ?_
  exact does_refl _ _
  refine does_by (writeLanes_does _ _ _ _ _) ?_
  exact does_refl _ _
  refine does_by (writeLanes_does _ _ _ _ _) ?_
  exact does_refl _ _
  refine does_by (writeLanes_does _ _ _ _ _) ?_
  exact does_refl _ _

theorem setLreg_does (cell r : Nat) (v : LReg) (s : State) : Does [.cells] s (setLreg cell r v s) := by
  unfold setLreg
  try dsimp only
  refine does_by (onEng_does _ _ _) ?_
  exact does_refl _ _

theorem statBelow_does (tensor n : Nat) (s : State) : Does [.stats] s (statBelow tensor n s) := by
  unfold statBelow
  try dsimp only
  refine does_ite ?_ ?_
  exact does_refl _ _
  refine does_by (statOwn_does _ _ _) ?_
  exact does_refl _ _

theorem statNonfinite_does (tensor n : Nat) (s : State) : Does [.stats] s (statNonfinite tensor n s) := by
  unfold statNonfinite
  try dsimp only
  refine does_ite ?_ ?_
  exact does_refl _ _
  refine does_by (statOwn_does _ _ _) ?_
  exact does_refl _ _

theorem touchLong_does (delta : SMap Nat) (cell r : Nat) (x : VRun) : Does [.cells, .stats] x.s (touchLong delta cell r x).s := by
  unfold touchLong
  try dsimp only
  refine does_vite ?_ ?_
  exact does_refl _ _
  refine does_vite ?_ ?_
  exact does_refl _ _
  refine vrun_on_does ?_ (fun _ => ?_)
  exact does_refl _ _
  refine does_by (statBelow_does _ _ _) ?_
  refine does_by (setLreg_does _ _ _ _) ?_
  exact does_refl _ _

theorem addLong_does (delta : SMap Nat) (cell r l : Nat) (w : W32) (x : VRun) : Does [.cells, .stats] x.s (addLong delta cell r l w x).s := by
  unfold addLong
  try dsimp only
  refine does_vite ?_ ?_
  refine vrun_on_does ?_ (fun _ => ?_)
  refine does_by (touchLong_does _ _ _ _) ?_
  exact does_refl _ _
  refine does_by (statNonfinite_does _ _ _) ?_
  refine does_by (setLreg_does _ _ _ _) ?_
  exact does_refl _ _
  refine does_vite ?_ ?_
  refine vrun_on_does ?_ (fun _ => ?_)
  refine does_by (touchLong_does _ _ _ _) ?_
  exact does_refl _ _
  refine does_by (statBelow_does _ _ _) ?_
  refine does_by (setLreg_does _ _ _ _) ?_
  exact does_refl _ _
  refine does_vite ?_ ?_
  refine vrun_on_does ?_ (fun _ => ?_)
  refine does_by (touchLong_does _ _ _ _) ?_
  exact does_refl _ _
  refine does_by (setLreg_does _ _ _ _) ?_
  exact does_refl _ _
  refine does_by (touchLong_does _ _ _ _) ?_
  exact does_refl _ _

theorem vLd_does (cell : Nat) (f : VFields) (x : VRun) : Does [.cells] x.s (vLd cell f x).s := by
  unfold vLd
  try dsimp only
  refine does_vite ?_ ?_
  refine vrun_stop_does ?_
  exact does_refl _ _
  refine vrun_on_does ?_ (fun _ => ?_)
  exact does_refl _ _
  refine does_by (writeLanes_does _ _ _ _ _) ?_
  exact does_refl _ _

theorem vSt_does (cell : Nat) (f : VFields) (x : VRun) : Does [.frame, .caseMem, .cells, .hbm, .portA, .portB, .dev, .power, .faults, .fabric, .flash, .freeIdx] x.s (vSt cell f x).s := by
  unfold vSt
  try dsimp only
  refine does_vite ?_ ?_
  refine vrun_stop_does ?_
  exact does_refl _ _
  refine vrun_on_does ?_ (fun _ => ?_)
  exact does_refl _ _
  refine does_ite ?_ ?_
  refine does_by (caseWrite_does _ _ _ _ _) ?_
  refine does_by (drawFree_does _) ?_
  exact does_refl _ _
  refine does_foldl (fun _ _ => ?_) _ ?_
  refine does_by (caseWrite_does _ _ _ _ _) ?_
  exact does_refl _ _
  exact does_refl _ _

theorem markRelease_does (cell p : Nat) (s : State) : Does [.cells] s (markRelease cell p s) := by
  unfold markRelease
  try dsimp only
  refine does_by (onEng_does _ _ _) ?_
  exact does_refl _ _

theorem vLdg_does (cell : Nat) (f : VFields) (x : VRun) : Does [.cells] x.s (vLdg cell f x).s := by
  unfold vLdg
  try dsimp only
  split
  refine vrun_stop_does ?_
  exact does_refl _ _
  refine vrun_on_does ?_ (fun _ => ?_)
  exact does_refl _ _
  refine does_onlyIf ?_ (fun _ => ?_)
  refine does_by (writeLanes_does _ _ _ _ _) ?_
  exact does_refl _ _
  refine does_by (markRelease_does _ _ _) ?_
  exact does_refl _ _

theorem vAdd_does (cell : Nat) (f : VFields) (x : VRun) : Does [.cells, .freeIdx] x.s (vAdd cell f x).s := by
  unfold vAdd
  try dsimp only
  refine vrun_on_does ?_ (fun _ => ?_)
  exact does_refl _ _
  refine does_by (binaryOp_does _ _ _ _ _) ?_
  exact does_refl _ _

theorem vSub_does (cell : Nat) (f : VFields) (x : VRun) : Does [.cells, .freeIdx] x.s (vSub cell f x).s := by
  unfold vSub
  try dsimp only
  refine vrun_on_does ?_ (fun _ => ?_)
  exact does_refl _ _
  refine does_by (binaryOp_does _ _ _ _ _) ?_
  exact does_refl _ _

theorem vMul_does (cell : Nat) (f : VFields) (x : VRun) : Does [.cells, .freeIdx] x.s (vMul cell f x).s := by
  unfold vMul
  try dsimp only
  refine vrun_on_does ?_ (fun _ => ?_)
  exact does_refl _ _
  refine does_by (binaryOp_does _ _ _ _ _) ?_
  exact does_refl _ _

theorem vFma_does (cell : Nat) (f : VFields) (x : VRun) : Does [.cells] x.s (vFma cell f x).s := by
  unfold vFma
  try dsimp only
  refine vrun_on_does ?_ (fun _ => ?_)
  exact does_refl _ _
  refine does_by (writeLanes_does _ _ _ _ _) ?_
  exact does_refl _ _

theorem vMax_does (cell : Nat) (f : VFields) (x : VRun) : Does [.cells, .freeIdx] x.s (vMax cell f x).s := by
  unfold vMax
  try dsimp only
  refine vrun_on_does ?_ (fun _ => ?_)
  exact does_refl _ _
  refine does_by (binaryOp_does _ _ _ _ _) ?_
  exact does_refl _ _

theorem vMin_does (cell : Nat) (f : VFields) (x : VRun) : Does [.cells, .freeIdx] x.s (vMin cell f x).s := by
  unfold vMin
  try dsimp only
  refine vrun_on_does ?_ (fun _ => ?_)
  exact does_refl _ _
  refine does_by (binaryOp_does _ _ _ _ _) ?_
  exact does_refl _ _

theorem vAbs_does (cell : Nat) (f : VFields) (x : VRun) : Does [.cells] x.s (vAbs cell f x).s := by
  unfold vAbs
  try dsimp only
  refine vrun_on_does ?_ (fun _ => ?_)
  exact does_refl _ _
  refine does_by (unaryOp_does _ _ _ _) ?_
  exact does_refl _ _

theorem vNeg_does (cell : Nat) (f : VFields) (x : VRun) : Does [.cells] x.s (vNeg cell f x).s := by
  unfold vNeg
  try dsimp only
  refine vrun_on_does ?_ (fun _ => ?_)
  exact does_refl _ _
  refine does_by (unaryOp_does _ _ _ _) ?_
  exact does_refl _ _

theorem vSel_does (cell : Nat) (f : VFields) (x : VRun) : Does [.cells, .freeIdx] x.s (vSel cell f x).s := by
  unfold vSel
  refine vrun_on_does (does_refl _ _) (fun u => ?_)
  dsimp only
  refine does_step (writeLanes_does _ _ _ _ _) (by decide) ?_
  split
  · exact does_mono (operandB8_does _ _ _) (by decide)
  · split <;> exact does_refl _ _

theorem vCmplt_does (cell : Nat) (f : VFields) (x : VRun) : Does [.cells, .freeIdx] x.s (vCmplt cell f x).s := by
  unfold vCmplt
  try dsimp only
  refine vrun_on_does ?_ (fun _ => ?_)
  exact does_refl _ _
  refine does_by (compareOp_does _ _ _ _ _) ?_
  exact does_refl _ _

theorem vCmple_does (cell : Nat) (f : VFields) (x : VRun) : Does [.cells, .freeIdx] x.s (vCmple cell f x).s := by
  unfold vCmple
  try dsimp only
  refine vrun_on_does ?_ (fun _ => ?_)
  exact does_refl _ _
  refine does_by (compareOp_does _ _ _ _ _) ?_
  exact does_refl _ _

theorem vCmpeq_does (cell : Nat) (f : VFields) (x : VRun) : Does [.cells, .freeIdx] x.s (vCmpeq cell f x).s := by
  unfold vCmpeq
  try dsimp only
  refine vrun_on_does ?_ (fun _ => ?_)
  exact does_refl _ _
  refine does_by (compareOp_does _ _ _ _ _) ?_
  exact does_refl _ _

theorem vMand_does (cell : Nat) (f : VFields) (x : VRun) : Does [.cells] x.s (vMand cell f x).s := by
  unfold vMand
  try dsimp only
  refine vrun_on_does ?_ (fun _ => ?_)
  exact does_refl _ _
  refine does_by (maskOp_does _ _ _ _) ?_
  exact does_refl _ _

theorem vMor_does (cell : Nat) (f : VFields) (x : VRun) : Does [.cells] x.s (vMor cell f x).s := by
  unfold vMor
  try dsimp only
  refine vrun_on_does ?_ (fun _ => ?_)
  exact does_refl _ _
  refine does_by (maskOp_does _ _ _ _) ?_
  exact does_refl _ _

theorem vMnot_does (cell : Nat) (f : VFields) (x : VRun) : Does [.cells] x.s (vMnot cell f x).s := by
  unfold vMnot
  try dsimp only
  refine vrun_on_does ?_ (fun _ => ?_)
  exact does_refl _ _
  refine does_by (maskOp_does _ _ _ _) ?_
  exact does_refl _ _

theorem vExp2_does (cell : Nat) (f : VFields) (x : VRun) : Does [.cells] x.s (vExp2 cell f x).s := by
  unfold vExp2
  try dsimp only
  refine vrun_on_does ?_ (fun _ => ?_)
  exact does_refl _ _
  refine does_by (unaryOp_does _ _ _ _) ?_
  exact does_refl _ _

theorem vLog2_does (cell : Nat) (f : VFields) (x : VRun) : Does [.cells] x.s (vLog2 cell f x).s := by
  unfold vLog2
  try dsimp only
  refine vrun_on_does ?_ (fun _ => ?_)
  exact does_refl _ _
  refine does_by (unaryOp_does _ _ _ _) ?_
  exact does_refl _ _

theorem vRcp_does (cell : Nat) (f : VFields) (x : VRun) : Does [.cells] x.s (vRcp cell f x).s := by
  unfold vRcp
  try dsimp only
  refine vrun_on_does ?_ (fun _ => ?_)
  exact does_refl _ _
  refine does_by (unaryOp_does _ _ _ _) ?_
  exact does_refl _ _

theorem vRsqrt_does (cell : Nat) (f : VFields) (x : VRun) : Does [.cells] x.s (vRsqrt cell f x).s := by
  unfold vRsqrt
  try dsimp only
  refine vrun_on_does ?_ (fun _ => ?_)
  exact does_refl _ _
  refine does_by (unaryOp_does _ _ _ _) ?_
  exact does_refl _ _

theorem vTanh_does (cell : Nat) (f : VFields) (x : VRun) : Does [.cells] x.s (vTanh cell f x).s := by
  unfold vTanh
  try dsimp only
  refine vrun_on_does ?_ (fun _ => ?_)
  exact does_refl _ _
  refine does_by (unaryOp_does _ _ _ _) ?_
  exact does_refl _ _

theorem vErf_does (cell : Nat) (f : VFields) (x : VRun) : Does [.cells] x.s (vErf cell f x).s := by
  unfold vErf
  try dsimp only
  refine vrun_on_does ?_ (fun _ => ?_)
  exact does_refl _ _
  refine does_by (unaryOp_does _ _ _ _) ?_
  exact does_refl _ _

theorem vCvt_does (cell : Nat) (f : VFields) (x : VRun) : Does [.cells] x.s (vCvt cell f x).s := by
  unfold vCvt
  try dsimp only
  refine vrun_on_does ?_ (fun _ => ?_)
  exact does_refl _ _
  refine does_by (convertOp_does _ _ _ _) ?_
  exact does_refl _ _

theorem vRedsum_does (cell : Nat) (f : VFields) (x : VRun) : Does [.cells] x.s (vRedsum cell f x).s := by
  unfold vRedsum
  try dsimp only
  refine vrun_on_does ?_ (fun _ => ?_)
  exact does_refl _ _
  refine does_by (reduceOp_does _ _ _ _ _) ?_
  exact does_refl _ _

theorem vRedmax_does (cell : Nat) (f : VFields) (x : VRun) : Does [.cells] x.s (vRedmax cell f x).s := by
  unfold vRedmax
  split
  · exact vrun_on_does (does_refl _ _) (fun u => reduceOp8_does _ _ _ _ u)
  · exact vrun_on_does (does_refl _ _) (fun u => reduceOp_does _ _ _ _ u)

theorem vRedmin_does (cell : Nat) (f : VFields) (x : VRun) : Does [.cells] x.s (vRedmin cell f x).s := by
  unfold vRedmin
  split
  · exact vrun_on_does (does_refl _ _) (fun u => reduceOp8_does _ _ _ _ u)
  · exact vrun_on_does (does_refl _ _) (fun u => reduceOp_does _ _ _ _ u)

theorem vScan_does (cell : Nat) (f : VFields) (x : VRun) : Does [.cells] x.s (vScan cell f x).s := by
  unfold vScan
  try dsimp only
  refine vrun_on_does ?_ (fun _ => ?_)
  exact does_refl _ _
  refine does_by (writeLanes_does _ _ _ _ _) ?_
  exact does_refl _ _

theorem vAzero_does (delta : SMap Nat) (cell : Nat) (f : VFields) (x : VRun) : Does [.cells] x.s (vAzero delta cell f x).s := by
  unfold vAzero
  try dsimp only
  refine does_by (setLreg_does _ _ _ _) ?_
  exact does_refl _ _

theorem vAadd_does (delta : SMap Nat) (cell : Nat) (f : VFields) (x : VRun) : Does [.cells, .stats] x.s (vAadd delta cell f x).s := by
  unfold vAadd
  try dsimp only
  refine does_foldl_of VRun.s (fun _ _ => ?_) _ ?_
  refine does_vite ?_ ?_
  refine does_by (addLong_does _ _ _ _ _ _) ?_
  exact does_refl _ _
  exact does_refl _ _
  refine does_vite ?_ ?_
  refine vrun_on_does ?_ (fun _ => ?_)
  refine does_by (touchLong_does _ _ _ _) ?_
  exact does_refl _ _
  refine does_by (setLreg_does _ _ _ _) ?_
  exact does_refl _ _
  exact does_refl _ _

theorem vAfold_does (delta : SMap Nat) (cell : Nat) (f : VFields) (x : VRun) : Does [.cells, .stats] x.s (vAfold delta cell f x).s := by
  unfold vAfold
  try dsimp only
  refine vrun_on_does ?_ (fun _ => ?_)
  refine does_by (touchLong_does _ _ _ _) ?_
  exact does_refl _ _
  refine does_by (setLreg_does _ _ _ _) ?_
  exact does_refl _ _

theorem vAround_does (delta : SMap Nat) (cell : Nat) (f : VFields) (x : VRun) : Does [.cells, .stats] x.s (vAround delta cell f x).s := by
  unfold vAround
  try dsimp only
  refine does_vite ?_ ?_
  exact does_refl _ _
  refine vrun_on_does ?_ (fun _ => ?_)
  refine does_by (touchLong_does _ _ _ _) ?_
  exact does_refl _ _
  refine does_by (writeLanes_does _ _ _ _ _) ?_
  exact does_refl _ _

theorem scanLane_does (delta : SMap Nat) (cell : Nat) (f : VFields) (a : List W32) (on seg : List Bool)
    (x : VRun × List Nat) (l : Nat) : Does [.cells, .stats] x.1.s (scanLane delta cell f a on seg x l).1.s := by
  unfold scanLane
  try dsimp only
  refine does_vite ?_ ?_
  refine does_by (addLong_does _ _ _ _ _ _) ?_
  refine does_vite ?_ ?_
  refine vrun_on_does ?_ (fun _ => ?_)
  exact does_refl _ _
  refine does_by (setLreg_does _ _ _ _) ?_
  exact does_refl _ _
  exact does_refl _ _
  refine does_vite ?_ ?_
  refine vrun_on_does ?_ (fun _ => ?_)
  exact does_refl _ _
  refine does_by (setLreg_does _ _ _ _) ?_
  exact does_refl _ _
  exact does_refl _ _

theorem vAscan_does (delta : SMap Nat) (cell : Nat) (f : VFields) (x : VRun) : Does [.cells, .stats] x.s (vAscan delta cell f x).s := by
  unfold vAscan
  refine vrun_on_does ?_ (fun u => does_mono (writeLanes_does _ _ _ _ u) (by decide))
  exact does_foldl_of (fun p : VRun × List Nat => p.1.s) (fun p l => scanLane_does _ _ _ _ _ _ p l) _ (touchLong_does _ _ _ _)

theorem vAld_does (delta : SMap Nat) (cell : Nat) (f : VFields) (x : VRun) : Does [.cells, .stats] x.s (vAld delta cell f x).s := by
  unfold vAld
  try dsimp only
  refine does_vite ?_ ?_
  refine vrun_stop_does ?_
  refine does_by (touchLong_does _ _ _ _) ?_
  exact does_refl _ _
  refine vrun_on_does ?_ (fun _ => ?_)
  refine does_by (touchLong_does _ _ _ _) ?_
  exact does_refl _ _
  refine does_ite ?_ ?_
  refine does_by (setLreg_does _ _ _ _) ?_
  exact does_refl _ _
  refine does_by (statBelow_does _ _ _) ?_
  refine does_by (setLreg_does _ _ _ _) ?_
  exact does_refl _ _

theorem vAst_does (delta : SMap Nat) (cell : Nat) (f : VFields) (x : VRun) : Does [.frame, .caseMem, .cells, .stats, .hbm, .portA, .portB, .dev, .power, .faults, .fabric, .flash, .freeIdx] x.s (vAst delta cell f x).s := by
  unfold vAst
  try dsimp only
  refine does_vite ?_ ?_
  refine vrun_stop_does ?_
  refine does_by (touchLong_does _ _ _ _) ?_
  exact does_refl _ _
  refine does_vite ?_ ?_
  refine does_by (touchLong_does _ _ _ _) ?_
  exact does_refl _ _
  refine vrun_on_does ?_ (fun _ => ?_)
  refine does_by (touchLong_does _ _ _ _) ?_
  exact does_refl _ _
  refine does_foldl (fun _ _ => ?_) _ ?_
  refine does_ite ?_ ?_
  refine does_by (caseWrite_does _ _ _ _ _) ?_
  exact does_refl _ _
  refine does_ite ?_ ?_
  refine does_by (caseWrite_does _ _ _ _ _) ?_
  exact does_refl _ _
  exact does_refl _ _
  refine does_by (caseWrite_does _ _ _ _ _) ?_
  refine does_ite ?_ ?_
  refine does_by (drawFree_does _) ?_
  refine does_by (drawFree_does _) ?_
  exact does_refl _ _
  exact does_refl _ _

theorem vTopkm_does (cell : Nat) (f : VFields) (x : VRun) : Does [.frame, .caseMem, .cells, .hbm, .portA, .portB, .dev, .power, .faults, .fabric, .flash, .freeIdx] x.s (vTopkm cell f x).s := by
  unfold vTopkm
  try dsimp only
  refine does_vite ?_ ?_
  refine vrun_stop_does ?_
  exact does_refl _ _
  refine vrun_on_does ?_ (fun _ => ?_)
  exact does_refl _ _
  refine does_foldl (fun _ _ => ?_) _ ?_
  refine does_by (caseWrite_does _ _ _ _ _) ?_
  exact does_refl _ _
  refine does_ite ?_ ?_
  exact does_refl _ _
  refine does_by (drawFree_does _) ?_
  exact does_refl _ _

theorem ligAccr_does (delta : SMap Nat) (cell : Nat) (d : LigDesc) (act : List Bool) (i mod : Nat) (a : List W32) (x : VRun) : Does [.cells, .stats] x.s (ligAccr delta cell d act i mod a x).s := by
  unfold ligAccr
  try dsimp only
  refine does_vite ?_ ?_
  refine does_foldl_of VRun.s (fun _ _ => ?_) _ ?_
  refine does_vite ?_ ?_
  refine does_by (addLong_does _ _ _ _ _ _) ?_
  exact does_refl _ _
  exact does_refl _ _
  exact does_refl _ _
  refine vrun_on_does ?_ (fun _ => ?_)
  exact does_refl _ _
  refine does_by (setVreg_does _ _ _ _) ?_
  exact does_refl _ _

theorem ligStep_does (delta : SMap Nat) (cell : Nat) (d : LigDesc) (act : List Bool) (i : Nat) (r : LigRow) (word : Nat) : Does [.cells, .stats] r.x.s (ligStep delta cell d act i r word).x.s := by
  unfold ligStep
  try dsimp only
  refine does_rite ?_ ?_
  refine does_by (ligAccr_does _ _ _ _ _ _ _ _) ?_
  exact does_refl _ _
  refine does_rite ?_ ?_
  exact does_refl _ _
  refine does_rite ?_ ?_
  exact does_refl _ _
  exact does_refl _ _

theorem ligRows_does (delta : SMap Nat) (cell : Nat) (d : LigDesc) (act : List Bool) (x : VRun) :
    Does [.cells, .stats] x.s (ligRows delta cell d act x).1.s := by
  unfold ligRows
  refine does_foldl_of (fun p : VRun × List (List W32) × List (List W32) => p.1.s) (fun p i => ?_) _ (does_refl _ _)
  exact does_foldl_of (fun r : LigRow => r.x.s) (fun r w => ligStep_does delta cell d act i r w) _ (does_refl _ _)

theorem ligPlain_does (cell : Nat) (te : TabEntry) (tensor fmt : Nat) (place : Nat → Nat) (d : LigDesc) (act : List Bool) (out : List (List W32))
    (s : State) : Does [.frame, .caseMem, .cells, .stats, .hbm, .portA, .portB, .dev, .power, .faults, .fabric, .flash] s (ligPlain cell te tensor fmt place d act out s) := by
  unfold ligPlain
  try dsimp only
  refine does_foldl (fun _ _ => ?_) _ ?_
  refine does_by (statOwn_does _ _ _) ?_
  exact does_refl _ _
  refine does_foldl (fun _ _ => ?_) _ ?_
  refine does_by (caseWrite_does _ _ _ _ _) ?_
  exact does_refl _ _
  refine does_foldl (fun _ _ => ?_) _ ?_
  refine does_by (caseWrite_does _ _ _ _ _) ?_
  exact does_refl _ _
  exact does_refl _ _

theorem ligChase_does (cell : Nat) (te : TabEntry) (tensor fmt : Nat) (place : Nat → Nat) (d : LigDesc) (act : List Bool) (out : List (List W32))
    (s : State) : Does [.frame, .caseMem, .cells, .stats, .hbm, .portA, .portB, .mbx, .dev, .power, .faults, .fabric, .flash, .freeIdx] s (ligChase cell te tensor fmt place d act out s) := by
  unfold ligChase
  try dsimp only
  refine does_by (writeQuantized_does _ _ _ _ _ _ _ _ _ _ _ _ _ _ _) ?_
  refine does_ite ?_ ?_
  simp only [doesMk]
  refine mk_freeIdx_does (by decide) ?_
  exact does_refl _ _
  exact does_refl _ _

theorem ligOutput_does (cell : Nat) (d : LigDesc) (act : List Bool) (n : Nat) (out : List (List W32)) (s : State) : Does [.frame, .caseMem, .cells, .stats, .hbm, .portA, .portB, .mbx, .dev, .power, .faults, .fabric, .flash, .freeIdx] s (ligOutput cell d act n out s) := by
  unfold ligOutput
  try dsimp only
  refine does_ite ?_ ?_
  exact does_refl _ _
  split
  exact does_refl _ _
  refine does_ite ?_ ?_
  refine does_by (ligChase_does _ _ _ _ _ _ _ _ _) ?_
  exact does_refl _ _
  refine does_by (ligPlain_does _ _ _ _ _ _ _ _ _) ?_
  exact does_refl _ _

theorem vLig_does (delta : SMap Nat) (cell : Nat) (f : VFields) (x : VRun) : Does [.frame, .caseMem, .cells, .stats, .hbm, .portA, .portB, .mbx, .dev, .power, .faults, .fabric, .flash, .freeIdx] x.s (vLig delta cell f x).s := by
  unfold vLig
  try dsimp only
  refine does_vite ?_ ?_
  refine vrun_stop_does ?_
  exact does_refl _ _
  refine vrun_on_does ?_ (fun _ => ?_)
  refine does_by (ligRows_does _ _ _ _ _) ?_
  exact does_refl _ _
  refine does_onlyIf ?_ (fun _ => ?_)
  refine does_by (ligOutput_does _ _ _ _ _ _) ?_
  refine does_by (ligOutput_does _ _ _ _ _ _) ?_
  exact does_refl _ _
  refine does_by (markRelease_does _ _ _) ?_
  exact does_refl _ _

theorem vStep_does (delta : SMap Nat) (cell : Nat) (x : VRun) (i : VInstr) : Does [.frame, .caseMem, .cells, .stats, .hbm, .portA, .portB, .mbx, .dev, .power, .faults, .fabric, .flash, .freeIdx] x.s (vStep delta cell x i).s := by
  unfold vStep
  split
  · exact vrun_stop_does (does_refl _ _)
  · split
    · exact does_mono (vLd_does _ _ _) (by decide)
    · exact does_mono (vSt_does _ _ _) (by decide)
    · exact does_mono (vLdg_does _ _ _) (by decide)
    · exact does_mono (vAdd_does _ _ _) (by decide)
    · exact does_mono (vSub_does _ _ _) (by decide)
    · exact does_mono (vMul_does _ _ _) (by decide)
    · exact does_mono (vFma_does _ _ _) (by decide)
    · exact does_mono (vMax_does _ _ _) (by decide)
    · exact does_mono (vMin_does _ _ _) (by decide)
    · exact does_mono (vAbs_does _ _ _) (by decide)
    · exact does_mono (vNeg_does _ _ _) (by decide)
    · exact does_mono (vSel_does _ _ _) (by decide)
    · exact does_mono (vCmplt_does _ _ _) (by decide)
    · exact does_mono (vCmple_does _ _ _) (by decide)
    · exact does_mono (vCmpeq_does _ _ _) (by decide)
    · exact does_mono (vMand_does _ _ _) (by decide)
    · exact does_mono (vMor_does _ _ _) (by decide)
    · exact does_mono (vMnot_does _ _ _) (by decide)
    · exact does_mono (vExp2_does _ _ _) (by decide)
    · exact does_mono (vLog2_does _ _ _) (by decide)
    · exact does_mono (vRcp_does _ _ _) (by decide)
    · exact does_mono (vRsqrt_does _ _ _) (by decide)
    · exact does_mono (vTanh_does _ _ _) (by decide)
    · exact does_mono (vErf_does _ _ _) (by decide)
    · exact does_mono (vCvt_does _ _ _) (by decide)
    · exact does_mono (vRedsum_does _ _ _) (by decide)
    · exact does_mono (vRedmax_does _ _ _) (by decide)
    · exact does_mono (vRedmin_does _ _ _) (by decide)
    · exact does_mono (vScan_does _ _ _) (by decide)
    · exact does_mono (vAzero_does _ _ _ _) (by decide)
    · exact does_mono (vAadd_does _ _ _ _) (by decide)
    · exact does_mono (vAfold_does _ _ _ _) (by decide)
    · exact does_mono (vAround_does _ _ _ _) (by decide)
    · exact does_mono (vAscan_does _ _ _ _) (by decide)
    · exact does_mono (vAld_does _ _ _ _) (by decide)
    · exact does_mono (vAst_does _ _ _ _) (by decide)
    · exact does_mono (vLig_does _ _ _ _) (by decide)
    · exact does_mono (vTopkm_does _ _ _) (by decide)

theorem runProgram_does (cell : Nat) (prog : List VInstr) (s : State) : ∀ (n : Nat) (delta : SMap Nat) (rel : List (Nat × Int))
    (t : State), runProgram cell prog s n delta rel = some t → Does [.frame, .caseMem, .cells, .stats, .hbm, .portA, .portB, .mbx, .dev, .power, .faults, .fabric, .flash, .freeIdx] s t
  | 0, _, _, _, h => by cases h
  | n + 1, delta, rel, t, h => by
    have hx : Does [.frame, .caseMem, .cells, .stats, .hbm, .portA, .portB, .mbx, .dev, .power, .faults, .fabric, .flash, .freeIdx] s (prog.foldl (vStep delta cell) { s := s, adj := [], need := [], ok := true }).s :=
      does_foldl_of VRun.s (fun x i => vStep_does delta cell x i) prog (does_refl _ s)
    rw [runProgram] at h
    dsimp only at h
    split at h
    · cases h
    · split at h
      · cases h
        exact does_foldl (fun x r => does_mono (statOwn_does _ _ x) (by decide)) rel hx
      · exact runProgram_does cell prog s n _ _ t h

theorem runVector_does (cell : Nat) (prog : List VInstr) (s t : State) (h : runVector cell prog s = some t) : Does [.frame, .caseMem, .cells, .stats, .hbm, .portA, .portB, .mbx, .dev, .power, .faults, .fabric, .flash, .freeIdx] s t :=
  runProgram_does _ _ _ _ _ _ _ h

theorem runOne_does (cell : Nat) (op : VOp) (f : VFields) (s : State) : Does [.frame, .caseMem, .cells, .stats, .hbm, .portA, .portB, .mbx, .dev, .power, .faults, .fabric, .flash, .freeIdx] s (runOne cell op f s) := by
  unfold runOne
  split
  · cases h : runVector cell [{ op := op, f := f }] s with
    | none => exact does_refl _ _
    | some t => exact runVector_does _ _ _ _ h
  · exact does_refl _ _

theorem runVectorItem_does (cell : Nat) (prog : List VInstr) (s : State) : Does [.frame, .step, .caseMem, .cells, .stats, .hbm, .portA, .portB, .mbx, .dev, .power, .faults, .fabric, .flash, .freeIdx] s (runVectorItem cell prog s) := by
  unfold runVectorItem
  split
  · exact does_refl _ _
  · rename_i t h
    split at h
    · have ht : Does [.frame, .step, .caseMem, .cells, .stats, .hbm, .portA, .portB, .mbx, .dev, .power, .faults, .fabric, .flash, .freeIdx] s t := does_mono (runVector_does _ _ _ _ h) (by decide)
      exact does_step (wakeDrain_does _ _) (by decide) (does_step (onEng_does _ _ _) (by decide) (does_step (finishItem_does _ _ _) (by decide) ht))
    · cases h

theorem execVectorItem_does (cell : Nat) (prog : List VInstr) (s : State) :
    ∃ t, execVectorItem cell prog s = .next t ∧ Does [.frame, .step, .caseMem, .cells, .stats, .hbm, .portA, .portB, .mbx, .dev, .power, .faults, .fabric, .flash, .freeIdx] s t ∧ t.pending = s.pending := by
  unfold execVectorItem
  refine effect_next ?_
  try dsimp only
  refine does_by (runVectorItem_does _ _ _) ?_
  exact does_refl _ _

theorem execLd_does (cell : Nat) (f : VFields) (s : State) :
    ∃ t, execLd cell f s = .next t ∧ Does [.frame, .caseMem, .cells, .stats, .hbm, .portA, .portB, .mbx, .dev, .power, .faults, .fabric, .flash, .freeIdx] s t ∧ t.pending = s.pending := by
  unfold execLd
  refine effect_next ?_
  try dsimp only
  refine does_by (runOne_does _ _ _ _) ?_
  exact does_refl _ _

theorem execSt_does (cell : Nat) (f : VFields) (s : State) :
    ∃ t, execSt cell f s = .next t ∧ Does [.frame, .caseMem, .cells, .stats, .hbm, .portA, .portB, .mbx, .dev, .power, .faults, .fabric, .flash, .freeIdx] s t ∧ t.pending = s.pending := by
  unfold execSt
  refine effect_next ?_
  try dsimp only
  refine does_by (runOne_does _ _ _ _) ?_
  exact does_refl _ _

theorem execLdg_does (cell : Nat) (f : VFields) (s : State) :
    ∃ t, execLdg cell f s = .next t ∧ Does [.frame, .caseMem, .cells, .stats, .hbm, .portA, .portB, .mbx, .dev, .power, .faults, .fabric, .flash, .freeIdx] s t ∧ t.pending = s.pending := by
  unfold execLdg
  refine effect_next ?_
  try dsimp only
  refine does_by (runOne_does _ _ _ _) ?_
  exact does_refl _ _

theorem execAdd_does (cell : Nat) (f : VFields) (s : State) :
    ∃ t, execAdd cell f s = .next t ∧ Does [.frame, .caseMem, .cells, .stats, .hbm, .portA, .portB, .mbx, .dev, .power, .faults, .fabric, .flash, .freeIdx] s t ∧ t.pending = s.pending := by
  unfold execAdd
  refine effect_next ?_
  try dsimp only
  refine does_by (runOne_does _ _ _ _) ?_
  exact does_refl _ _

theorem execSub_does (cell : Nat) (f : VFields) (s : State) :
    ∃ t, execSub cell f s = .next t ∧ Does [.frame, .caseMem, .cells, .stats, .hbm, .portA, .portB, .mbx, .dev, .power, .faults, .fabric, .flash, .freeIdx] s t ∧ t.pending = s.pending := by
  unfold execSub
  refine effect_next ?_
  try dsimp only
  refine does_by (runOne_does _ _ _ _) ?_
  exact does_refl _ _

theorem execMul_does (cell : Nat) (f : VFields) (s : State) :
    ∃ t, execMul cell f s = .next t ∧ Does [.frame, .caseMem, .cells, .stats, .hbm, .portA, .portB, .mbx, .dev, .power, .faults, .fabric, .flash, .freeIdx] s t ∧ t.pending = s.pending := by
  unfold execMul
  refine effect_next ?_
  try dsimp only
  refine does_by (runOne_does _ _ _ _) ?_
  exact does_refl _ _

theorem execFma_does (cell : Nat) (f : VFields) (s : State) :
    ∃ t, execFma cell f s = .next t ∧ Does [.frame, .caseMem, .cells, .stats, .hbm, .portA, .portB, .mbx, .dev, .power, .faults, .fabric, .flash, .freeIdx] s t ∧ t.pending = s.pending := by
  unfold execFma
  refine effect_next ?_
  try dsimp only
  refine does_by (runOne_does _ _ _ _) ?_
  exact does_refl _ _

theorem execMax_does (cell : Nat) (f : VFields) (s : State) :
    ∃ t, execMax cell f s = .next t ∧ Does [.frame, .caseMem, .cells, .stats, .hbm, .portA, .portB, .mbx, .dev, .power, .faults, .fabric, .flash, .freeIdx] s t ∧ t.pending = s.pending := by
  unfold execMax
  refine effect_next ?_
  try dsimp only
  refine does_by (runOne_does _ _ _ _) ?_
  exact does_refl _ _

theorem execMin_does (cell : Nat) (f : VFields) (s : State) :
    ∃ t, execMin cell f s = .next t ∧ Does [.frame, .caseMem, .cells, .stats, .hbm, .portA, .portB, .mbx, .dev, .power, .faults, .fabric, .flash, .freeIdx] s t ∧ t.pending = s.pending := by
  unfold execMin
  refine effect_next ?_
  try dsimp only
  refine does_by (runOne_does _ _ _ _) ?_
  exact does_refl _ _

theorem execAbs_does (cell : Nat) (f : VFields) (s : State) :
    ∃ t, execAbs cell f s = .next t ∧ Does [.frame, .caseMem, .cells, .stats, .hbm, .portA, .portB, .mbx, .dev, .power, .faults, .fabric, .flash, .freeIdx] s t ∧ t.pending = s.pending := by
  unfold execAbs
  refine effect_next ?_
  try dsimp only
  refine does_by (runOne_does _ _ _ _) ?_
  exact does_refl _ _

theorem execNeg_does (cell : Nat) (f : VFields) (s : State) :
    ∃ t, execNeg cell f s = .next t ∧ Does [.frame, .caseMem, .cells, .stats, .hbm, .portA, .portB, .mbx, .dev, .power, .faults, .fabric, .flash, .freeIdx] s t ∧ t.pending = s.pending := by
  unfold execNeg
  refine effect_next ?_
  try dsimp only
  refine does_by (runOne_does _ _ _ _) ?_
  exact does_refl _ _

theorem execSel_does (cell : Nat) (f : VFields) (s : State) :
    ∃ t, execSel cell f s = .next t ∧ Does [.frame, .caseMem, .cells, .stats, .hbm, .portA, .portB, .mbx, .dev, .power, .faults, .fabric, .flash, .freeIdx] s t ∧ t.pending = s.pending := by
  unfold execSel
  refine effect_next ?_
  try dsimp only
  refine does_by (runOne_does _ _ _ _) ?_
  exact does_refl _ _

theorem execCmplt_does (cell : Nat) (f : VFields) (s : State) :
    ∃ t, execCmplt cell f s = .next t ∧ Does [.frame, .caseMem, .cells, .stats, .hbm, .portA, .portB, .mbx, .dev, .power, .faults, .fabric, .flash, .freeIdx] s t ∧ t.pending = s.pending := by
  unfold execCmplt
  refine effect_next ?_
  try dsimp only
  refine does_by (runOne_does _ _ _ _) ?_
  exact does_refl _ _

theorem execCmple_does (cell : Nat) (f : VFields) (s : State) :
    ∃ t, execCmple cell f s = .next t ∧ Does [.frame, .caseMem, .cells, .stats, .hbm, .portA, .portB, .mbx, .dev, .power, .faults, .fabric, .flash, .freeIdx] s t ∧ t.pending = s.pending := by
  unfold execCmple
  refine effect_next ?_
  try dsimp only
  refine does_by (runOne_does _ _ _ _) ?_
  exact does_refl _ _

theorem execCmpeq_does (cell : Nat) (f : VFields) (s : State) :
    ∃ t, execCmpeq cell f s = .next t ∧ Does [.frame, .caseMem, .cells, .stats, .hbm, .portA, .portB, .mbx, .dev, .power, .faults, .fabric, .flash, .freeIdx] s t ∧ t.pending = s.pending := by
  unfold execCmpeq
  refine effect_next ?_
  try dsimp only
  refine does_by (runOne_does _ _ _ _) ?_
  exact does_refl _ _

theorem execMand_does (cell : Nat) (f : VFields) (s : State) :
    ∃ t, execMand cell f s = .next t ∧ Does [.frame, .caseMem, .cells, .stats, .hbm, .portA, .portB, .mbx, .dev, .power, .faults, .fabric, .flash, .freeIdx] s t ∧ t.pending = s.pending := by
  unfold execMand
  refine effect_next ?_
  try dsimp only
  refine does_by (runOne_does _ _ _ _) ?_
  exact does_refl _ _

theorem execMor_does (cell : Nat) (f : VFields) (s : State) :
    ∃ t, execMor cell f s = .next t ∧ Does [.frame, .caseMem, .cells, .stats, .hbm, .portA, .portB, .mbx, .dev, .power, .faults, .fabric, .flash, .freeIdx] s t ∧ t.pending = s.pending := by
  unfold execMor
  refine effect_next ?_
  try dsimp only
  refine does_by (runOne_does _ _ _ _) ?_
  exact does_refl _ _

theorem execMnot_does (cell : Nat) (f : VFields) (s : State) :
    ∃ t, execMnot cell f s = .next t ∧ Does [.frame, .caseMem, .cells, .stats, .hbm, .portA, .portB, .mbx, .dev, .power, .faults, .fabric, .flash, .freeIdx] s t ∧ t.pending = s.pending := by
  unfold execMnot
  refine effect_next ?_
  try dsimp only
  refine does_by (runOne_does _ _ _ _) ?_
  exact does_refl _ _

theorem execExp2_does (cell : Nat) (f : VFields) (s : State) :
    ∃ t, execExp2 cell f s = .next t ∧ Does [.frame, .caseMem, .cells, .stats, .hbm, .portA, .portB, .mbx, .dev, .power, .faults, .fabric, .flash, .freeIdx] s t ∧ t.pending = s.pending := by
  unfold execExp2
  refine effect_next ?_
  try dsimp only
  refine does_by (runOne_does _ _ _ _) ?_
  exact does_refl _ _

theorem execLog2_does (cell : Nat) (f : VFields) (s : State) :
    ∃ t, execLog2 cell f s = .next t ∧ Does [.frame, .caseMem, .cells, .stats, .hbm, .portA, .portB, .mbx, .dev, .power, .faults, .fabric, .flash, .freeIdx] s t ∧ t.pending = s.pending := by
  unfold execLog2
  refine effect_next ?_
  try dsimp only
  refine does_by (runOne_does _ _ _ _) ?_
  exact does_refl _ _

theorem execRcp_does (cell : Nat) (f : VFields) (s : State) :
    ∃ t, execRcp cell f s = .next t ∧ Does [.frame, .caseMem, .cells, .stats, .hbm, .portA, .portB, .mbx, .dev, .power, .faults, .fabric, .flash, .freeIdx] s t ∧ t.pending = s.pending := by
  unfold execRcp
  refine effect_next ?_
  try dsimp only
  refine does_by (runOne_does _ _ _ _) ?_
  exact does_refl _ _

theorem execRsqrt_does (cell : Nat) (f : VFields) (s : State) :
    ∃ t, execRsqrt cell f s = .next t ∧ Does [.frame, .caseMem, .cells, .stats, .hbm, .portA, .portB, .mbx, .dev, .power, .faults, .fabric, .flash, .freeIdx] s t ∧ t.pending = s.pending := by
  unfold execRsqrt
  refine effect_next ?_
  try dsimp only
  refine does_by (runOne_does _ _ _ _) ?_
  exact does_refl _ _

theorem execTanh_does (cell : Nat) (f : VFields) (s : State) :
    ∃ t, execTanh cell f s = .next t ∧ Does [.frame, .caseMem, .cells, .stats, .hbm, .portA, .portB, .mbx, .dev, .power, .faults, .fabric, .flash, .freeIdx] s t ∧ t.pending = s.pending := by
  unfold execTanh
  refine effect_next ?_
  try dsimp only
  refine does_by (runOne_does _ _ _ _) ?_
  exact does_refl _ _

theorem execErf_does (cell : Nat) (f : VFields) (s : State) :
    ∃ t, execErf cell f s = .next t ∧ Does [.frame, .caseMem, .cells, .stats, .hbm, .portA, .portB, .mbx, .dev, .power, .faults, .fabric, .flash, .freeIdx] s t ∧ t.pending = s.pending := by
  unfold execErf
  refine effect_next ?_
  try dsimp only
  refine does_by (runOne_does _ _ _ _) ?_
  exact does_refl _ _

theorem execCvt_does (cell : Nat) (f : VFields) (s : State) :
    ∃ t, execCvt cell f s = .next t ∧ Does [.frame, .caseMem, .cells, .stats, .hbm, .portA, .portB, .mbx, .dev, .power, .faults, .fabric, .flash, .freeIdx] s t ∧ t.pending = s.pending := by
  unfold execCvt
  refine effect_next ?_
  try dsimp only
  refine does_by (runOne_does _ _ _ _) ?_
  exact does_refl _ _

theorem execRedsum_does (cell : Nat) (f : VFields) (s : State) :
    ∃ t, execRedsum cell f s = .next t ∧ Does [.frame, .caseMem, .cells, .stats, .hbm, .portA, .portB, .mbx, .dev, .power, .faults, .fabric, .flash, .freeIdx] s t ∧ t.pending = s.pending := by
  unfold execRedsum
  refine effect_next ?_
  try dsimp only
  refine does_by (runOne_does _ _ _ _) ?_
  exact does_refl _ _

theorem execRedmax_does (cell : Nat) (f : VFields) (s : State) :
    ∃ t, execRedmax cell f s = .next t ∧ Does [.frame, .caseMem, .cells, .stats, .hbm, .portA, .portB, .mbx, .dev, .power, .faults, .fabric, .flash, .freeIdx] s t ∧ t.pending = s.pending := by
  unfold execRedmax
  refine effect_next ?_
  try dsimp only
  refine does_by (runOne_does _ _ _ _) ?_
  exact does_refl _ _

theorem execRedmin_does (cell : Nat) (f : VFields) (s : State) :
    ∃ t, execRedmin cell f s = .next t ∧ Does [.frame, .caseMem, .cells, .stats, .hbm, .portA, .portB, .mbx, .dev, .power, .faults, .fabric, .flash, .freeIdx] s t ∧ t.pending = s.pending := by
  unfold execRedmin
  refine effect_next ?_
  try dsimp only
  refine does_by (runOne_does _ _ _ _) ?_
  exact does_refl _ _

theorem execScan_does (cell : Nat) (f : VFields) (s : State) :
    ∃ t, execScan cell f s = .next t ∧ Does [.frame, .caseMem, .cells, .stats, .hbm, .portA, .portB, .mbx, .dev, .power, .faults, .fabric, .flash, .freeIdx] s t ∧ t.pending = s.pending := by
  unfold execScan
  refine effect_next ?_
  try dsimp only
  refine does_by (runOne_does _ _ _ _) ?_
  exact does_refl _ _

theorem execAzero_does (cell : Nat) (f : VFields) (s : State) :
    ∃ t, execAzero cell f s = .next t ∧ Does [.frame, .caseMem, .cells, .stats, .hbm, .portA, .portB, .mbx, .dev, .power, .faults, .fabric, .flash, .freeIdx] s t ∧ t.pending = s.pending := by
  unfold execAzero
  refine effect_next ?_
  try dsimp only
  refine does_by (runOne_does _ _ _ _) ?_
  exact does_refl _ _

theorem execAadd_does (cell : Nat) (f : VFields) (s : State) :
    ∃ t, execAadd cell f s = .next t ∧ Does [.frame, .caseMem, .cells, .stats, .hbm, .portA, .portB, .mbx, .dev, .power, .faults, .fabric, .flash, .freeIdx] s t ∧ t.pending = s.pending := by
  unfold execAadd
  refine effect_next ?_
  try dsimp only
  refine does_by (runOne_does _ _ _ _) ?_
  exact does_refl _ _

theorem execAfold_does (cell : Nat) (f : VFields) (s : State) :
    ∃ t, execAfold cell f s = .next t ∧ Does [.frame, .caseMem, .cells, .stats, .hbm, .portA, .portB, .mbx, .dev, .power, .faults, .fabric, .flash, .freeIdx] s t ∧ t.pending = s.pending := by
  unfold execAfold
  refine effect_next ?_
  try dsimp only
  refine does_by (runOne_does _ _ _ _) ?_
  exact does_refl _ _

theorem execAround_does (cell : Nat) (f : VFields) (s : State) :
    ∃ t, execAround cell f s = .next t ∧ Does [.frame, .caseMem, .cells, .stats, .hbm, .portA, .portB, .mbx, .dev, .power, .faults, .fabric, .flash, .freeIdx] s t ∧ t.pending = s.pending := by
  unfold execAround
  refine effect_next ?_
  try dsimp only
  refine does_by (runOne_does _ _ _ _) ?_
  exact does_refl _ _

theorem execAscan_does (cell : Nat) (f : VFields) (s : State) :
    ∃ t, execAscan cell f s = .next t ∧ Does [.frame, .caseMem, .cells, .stats, .hbm, .portA, .portB, .mbx, .dev, .power, .faults, .fabric, .flash, .freeIdx] s t ∧ t.pending = s.pending := by
  unfold execAscan
  refine effect_next ?_
  try dsimp only
  refine does_by (runOne_does _ _ _ _) ?_
  exact does_refl _ _

theorem execAld_does (cell : Nat) (f : VFields) (s : State) :
    ∃ t, execAld cell f s = .next t ∧ Does [.frame, .caseMem, .cells, .stats, .hbm, .portA, .portB, .mbx, .dev, .power, .faults, .fabric, .flash, .freeIdx] s t ∧ t.pending = s.pending := by
  unfold execAld
  refine effect_next ?_
  try dsimp only
  refine does_by (runOne_does _ _ _ _) ?_
  exact does_refl _ _

theorem execAst_does (cell : Nat) (f : VFields) (s : State) :
    ∃ t, execAst cell f s = .next t ∧ Does [.frame, .caseMem, .cells, .stats, .hbm, .portA, .portB, .mbx, .dev, .power, .faults, .fabric, .flash, .freeIdx] s t ∧ t.pending = s.pending := by
  unfold execAst
  refine effect_next ?_
  try dsimp only
  refine does_by (runOne_does _ _ _ _) ?_
  exact does_refl _ _

theorem execLig_does (cell : Nat) (f : VFields) (s : State) :
    ∃ t, execLig cell f s = .next t ∧ Does [.frame, .caseMem, .cells, .stats, .hbm, .portA, .portB, .mbx, .dev, .power, .faults, .fabric, .flash, .freeIdx] s t ∧ t.pending = s.pending := by
  unfold execLig
  refine effect_next ?_
  try dsimp only
  refine does_by (runOne_does _ _ _ _) ?_
  exact does_refl _ _

theorem execTopkm_does (cell : Nat) (f : VFields) (s : State) :
    ∃ t, execTopkm cell f s = .next t ∧ Does [.frame, .caseMem, .cells, .stats, .hbm, .portA, .portB, .mbx, .dev, .power, .faults, .fabric, .flash, .freeIdx] s t ∧ t.pending = s.pending := by
  unfold execTopkm
  refine effect_next ?_
  try dsimp only
  refine does_by (runOne_does _ _ _ _) ?_
  exact does_refl _ _

theorem execSequencerTimeout_does (cell : Nat) (s : State) :
    ∃ t, execSequencerTimeout cell s = .next t ∧ Does [.frame, .cells, .hbm, .portA, .portB, .dev, .power, .faults, .fabric, .flash] s t ∧ t.pending = s.pending := by
  unfold execSequencerTimeout
  refine effect_next ?_
  try dsimp only
  refine does_by (countEvent_does _ _ _ _) ?_
  exact does_refl _ _

theorem execArbiterTimeout_does (block : Nat) (s : State) :
    ∃ t, execArbiterTimeout block s = .next t ∧ Does [.frame, .cells, .hbm, .portA, .portB, .dev, .power, .faults, .fabric, .flash] s t ∧ t.pending = s.pending := by
  unfold execArbiterTimeout
  refine effect_next ?_
  try dsimp only
  refine does_by (countEvent_does _ _ _ _) ?_
  exact does_refl _ _

theorem runTransfer_does (cell : Nat) (d : TransferDesc) (s : State) : Does [.frame, .caseMem, .cells, .hbm, .portA, .portB, .dev, .power, .faults, .fabric, .flash] s (runTransfer cell d s) := by
  unfold runTransfer
  try dsimp only
  refine does_ite ?_ ?_
  exact does_refl _ _
  refine does_by (finishItem_does _ _ _) ?_
  refine does_by (caseWrite_does _ _ _ _ _) ?_
  exact does_refl _ _

theorem execTransfer_does (cell : Nat) (d : TransferDesc) (s : State) :
    ∃ t, execTransfer cell d s = .next t ∧ Does [.frame, .caseMem, .cells, .hbm, .portA, .portB, .dev, .power, .faults, .fabric, .flash] s t ∧ t.pending = s.pending := by
  unfold execTransfer
  refine effect_next ?_
  try dsimp only
  refine does_by (runTransfer_does _ _ _) ?_
  exact does_refl _ _

theorem beginItem_does (cell : Nat) (it : Item) (s : State) : Does [.frame, .cells] s (beginItem cell it s) := by
  unfold beginItem
  try dsimp only
  split
  refine does_ite ?_ ?_
  simp only [doesMk]
  refine mk_frame_does (by decide) ?_
  exact does_refl _ _
  refine does_by (onEng_does _ _ _) ?_
  simp only [doesMk]
  refine mk_frame_does (by decide) ?_
  exact does_refl _ _
  simp only [doesMk]
  refine mk_frame_does (by decide) ?_
  exact does_refl _ _

theorem beginWaiting_does (cell : Nat) (s : State) : Does [.frame, .cells] s (beginWaiting cell s) := by
  unfold beginWaiting
  try dsimp only
  split
  refine does_ite ?_ ?_
  refine does_by (beginItem_does _ _ _) ?_
  exact does_refl _ _
  exact does_refl _ _
  exact does_refl _ _

theorem onWait_does (group : Nat) (f : GWait → GWait) (s : State) : Does [.fabric] s (onWait group f s) := by
  unfold onWait
  try dsimp only
  simp only [doesMk]
  refine mk_fabric_does (by decide) ?_
  exact does_refl _ _

theorem beginWait_does (cell group : Nat) (missing : List Nat) (s : State) : Does [.fabric] s (beginWait cell group missing s) := by
  unfold beginWait
  try dsimp only
  refine does_by (onWait_does _ _ _) ?_
  exact does_refl _ _

theorem startItem_does (cell pos : Nat) (wait : ItemWait) (s : State) : Does [.frame, .cells, .fabric] s (startItem cell pos wait s) := by
  unfold startItem
  try dsimp only
  refine does_ite ?_ ?_
  exact does_refl _ _
  split
  refine does_by (beginItem_does _ _ _) ?_
  split
  refine does_by (beginWait_does _ _ _ _) ?_
  exact does_refl _ _
  exact does_refl _ _
  split
  refine does_by (beginWait_does _ _ _ _) ?_
  exact does_refl _ _
  exact does_refl _ _

theorem execFormeItemStart_does (cell pos : Nat) (wait : ItemWait) (s : State) :
    ∃ t, execFormeItemStart cell pos wait s = .next t ∧ Does [.frame, .cells, .fabric] s t ∧ t.pending = s.pending := by
  unfold execFormeItemStart
  refine effect_next ?_
  try dsimp only
  refine does_by (startItem_does _ _ _ _) ?_
  exact does_refl _ _

theorem loadFirst_does (cell : Nat) (s : State) : Does [.cells] s (loadFirst cell s) := by
  unfold loadFirst
  try dsimp only
  refine does_ite ?_ ?_
  exact does_refl _ _
  refine does_by (onEng_does _ _ _) ?_
  exact does_refl _ _

theorem startCell_does (cell : Nat) (s : State) : Does [.frame, .cells, .fabric] s (startCell cell s) := by
  unfold startCell
  try dsimp only
  refine does_ite ?_ ?_
  exact does_refl _ _
  refine does_by (startItem_does _ _ _ _) ?_
  refine does_by (loadFirst_does _ _) ?_
  simp only [doesMk]
  refine mk_frame_does (by decide) ?_
  exact does_refl _ _

theorem execCellStart_does (cell : Nat) (s : State) :
    ∃ t, execCellStart cell s = .next t ∧ Does [.frame, .cells, .fabric] s t ∧ t.pending = s.pending := by
  unfold execCellStart
  refine effect_next ?_
  try dsimp only
  refine does_by (startCell_does _ _) ?_
  exact does_refl _ _

end Sys2Proof.Machine
end

