-- ==== Sys2Proof/Laws/DoesBezel.lean ====
section
/-! SUPPORT. What each operation can do, one lemma for each (Laws/Does.lean): HBM, the BARs, the bezel units, the mailbox commands, the update and the decision. -/

namespace Sys2Proof.Machine
open Sys2Proof

set_option Elab.async false

theorem repairRow_does (phys row : Nat) (s : State) : Does [.hbm, .flash, .life] s (repairRow phys row s) := by
  unfold repairRow
  try dsimp only
  refine does_by (recordEvent_does _ _ _) ?_
  refine does_by (onLife_does _ _) ?_
  simp only [doesMk]
  refine mk_hbm_flash_does ⟨rfl, rfl⟩ (by decide) ?_
  exact does_refl _ _

theorem weaken_does (phys row : Nat) (s : State) : Does [.hbm, .flash, .life] s (weaken phys row s) := by
  unfold weaken
  try dsimp only
  refine does_ite ?_ ?_
  exact does_refl _ _
  refine does_ite ?_ ?_
  refine does_by (repairRow_does _ _ _) ?_
  exact does_refl _ _
  simp only [doesMk]
  refine mk_hbm_does ⟨rfl, rfl⟩ (by decide) ?_
  exact does_refl _ _

theorem freePhys_does (phys : Nat) (s : State) : Does [.hbm, .flash, .life] s (freePhys phys s) := by
  unfold freePhys
  try dsimp only
  refine does_foldl (fun _ _ => ?_) _ ?_
  refine does_by (repairRow_does _ _ _) ?_
  exact does_refl _ _
  refine does_by (releasePage_does _ _) ?_
  exact does_refl _ _

theorem unmapPage_does (k : Nat) (s : State) : Does [.hbm, .flash, .life] s (unmapPage k s) := by
  unfold unmapPage
  try dsimp only
  split
  exact does_refl _ _
  refine does_by (dropPoison_does _ _) ?_
  refine does_by (freePhys_does _ _) ?_
  simp only [doesMk]
  refine mk_hbm_keeps (by intro h; refine ⟨?_, ?_⟩ <;> first | with_reducible exact h.mem | with_reducible exact wf_writeN h.mem | with_reducible exact wf_clear h.mem | with_reducible exact wf_fold h.mem | with_reducible exact wf_filter h.mem | with_reducible exact wf_write h.mem | with_reducible exact rise_overlayN h.mem | with_reducible exact rise_filter h.mem | with_reducible exact h.localB | with_reducible exact wf_writeN h.localB | with_reducible exact wf_clear h.localB | with_reducible exact wf_fold h.localB | with_reducible exact wf_filter h.localB | with_reducible exact wf_write h.localB | with_reducible exact rise_overlayN h.localB | with_reducible exact rise_filter h.localB | with_reducible exact wf_nil | with_reducible exact rise_nil) (by decide) ?_
  exact does_refl _ _

theorem scrubCorrected_does (phys row : Nat) (s : State) : Does [.hbm, .flash, .life] s (scrubCorrected phys row s) := by
  unfold scrubCorrected
  try dsimp only
  refine does_ite ?_ ?_
  refine does_by (weaken_does _ _ _) ?_
  exact does_refl _ _
  simp only [doesMk]
  refine mk_hbm_does ⟨rfl, rfl⟩ (by decide) ?_
  exact does_refl _ _

theorem damageSlot_does (k word : Nat) (s : State) : Does [.snap] s (damageSlot k word s) := by
  unfold damageSlot
  try dsimp only
  split
  exact does_refl _ _
  simp only [doesMk]
  refine mk_snap_does (by decide) ?_
  exact does_refl _ _

theorem markHeader_does (start : Nat) (h : Option GenHdr) (s : State) : Does [.frame, .cells, .hbm, .portA, .portB, .dev, .power, .faults, .fabric, .flash] s (markHeader start h s) := by
  unfold markHeader
  try dsimp only
  refine does_ite ?_ ?_
  refine does_by (hbmWrite_does _ _ _) ?_
  exact does_refl _ _
  exact does_refl _ _

theorem markDamaged_does (s : State) : Does [.frame, .cells, .hbm, .portA, .portB, .dev, .power, .faults, .fabric, .flash] s (markDamaged s) := by
  unfold markDamaged
  try dsimp only
  split
  exact does_refl _ _
  refine does_by (markHeader_does _ _ _) ?_
  refine does_by (markHeader_does _ _ _) ?_
  exact does_refl _ _

theorem poisonAction_does (cls k word : Nat) (s : State) : Does [.step, .hbm, .dev, .snap] s (poisonAction cls k word s) := by
  unfold poisonAction
  try dsimp only
  refine does_ite ?_ ?_
  simp only [doesMk]
  refine mk_hbm_does ⟨rfl, rfl⟩ (by decide) ?_
  exact does_refl _ _
  refine does_ite ?_ ?_
  refine does_by (askRetire_does _) ?_
  simp only [doesMk]
  refine mk_step_does (by decide) ?_
  exact does_refl _ _
  refine does_ite ?_ ?_
  refine does_by (damageSlot_does _ _ _) ?_
  exact does_refl _ _
  refine does_ite ?_ ?_
  refine does_by (askRetire_does _) ?_
  exact does_refl _ _
  exact does_refl _ _

theorem enterPoison_does (phys word : Nat) (s : State) : Does [.step, .hbm, .dev, .snap] s (enterPoison phys word s) := by
  unfold enterPoison
  try dsimp only
  split
  exact does_refl _ _
  refine does_ite ?_ ?_
  exact does_refl _ _
  refine does_ite ?_ ?_
  refine does_by (askRetire_does _) ?_
  exact does_refl _ _
  refine does_by (poisonAction_does _ _ _ _) ?_
  simp only [doesMk]
  refine mk_hbm_does ⟨rfl, rfl⟩ (by decide) ?_
  exact does_refl _ _

theorem xorWord_does (phys word : Nat) (diff : List Byte) (s : State) : Does [.hbm] s (xorWord phys word diff s) := by
  unfold xorWord
  try dsimp only
  split
  exact does_refl _ _
  refine does_by (hbmPut_does _ _ _) ?_
  exact does_refl _ _

theorem uncorrectable_does (phys word : Nat) (confirmed : Bool) (s : State) : Does [.frame, .step, .cells, .hbm, .portA, .portB, .dev, .power, .faults, .fabric, .snap, .flash, .life] s (uncorrectable phys word confirmed s) := by
  unfold uncorrectable
  try dsimp only
  refine does_ite ?_ ?_
  refine does_by (enterPoison_does _ _ _) ?_
  refine does_by (weaken_does _ _ _) ?_
  refine does_by (onLife_does _ _) ?_
  refine does_by (countEvent_does _ _ _ _) ?_
  exact does_refl _ _
  refine does_by (inDoubt_does _) ?_
  simp only [doesMk]
  refine mk_hbm_does ⟨rfl, rfl⟩ (by decide) ?_
  refine does_by (weaken_does _ _ _) ?_
  refine does_by (onLife_does _ _) ?_
  refine does_by (countEvent_does _ _ _ _) ?_
  exact does_refl _ _

theorem readWord_does (u : HbmUpset) (s : State) : Does [.frame, .step, .cells, .hbm, .portA, .portB, .dev, .power, .faults, .fabric, .snap, .flash, .life] s (readWord u s) := by
  unfold readWord
  try dsimp only
  refine does_ite ?_ ?_
  exact does_refl _ _
  split
  exact does_refl _ _
  refine does_by (xorWord_does _ _ _ _) ?_
  refine does_by (onLife_does _ _) ?_
  refine does_by (countEvent_does _ _ _ _) ?_
  exact does_refl _ _
  refine does_by (uncorrectable_does _ _ _ _) ?_
  exact does_refl _ _

theorem scrubWord_does (u : HbmUpset) (again : Bool) (s : State) : Does [.frame, .step, .cells, .hbm, .portA, .portB, .dev, .power, .faults, .fabric, .snap, .flash, .life] s (scrubWord u again s) := by
  unfold scrubWord
  try dsimp only
  refine does_ite ?_ ?_
  exact does_refl _ _
  split
  exact does_refl _ _
  refine does_by (scrubCorrected_does _ _ _) ?_
  refine does_by (readWord_does _ _) ?_
  exact does_refl _ _
  refine does_ite ?_ ?_
  refine does_by (uncorrectable_does _ _ _ _) ?_
  exact does_refl _ _
  refine does_by (weaken_does _ _ _) ?_
  refine does_by (onLife_does _ _) ?_
  refine does_by (countEvent_does _ _ _ _) ?_
  exact does_refl _ _

theorem scrubWords_does : ∀ (l : List HbmUpset) (seen : List (Nat × Nat)) (s : State),
    Does [.frame, .step, .cells, .hbm, .portA, .portB, .dev, .power, .faults, .fabric, .snap, .flash, .life] s (scrubWords l seen s)
  | [], _, s => does_refl _ s
  | u :: rest, _, s => does_trans (scrubWord_does u _ s) (scrubWords_does rest _ _)

theorem setUnit_does (unit : Nat) (u : UnitSt) (s : State) : Does [.hbm] s (setUnit unit u s) := by
  unfold setUnit
  try dsimp only
  simp only [doesMk]
  refine mk_hbm_does ⟨rfl, rfl⟩ (by decide) ?_
  exact does_refl _ _

theorem failedReads_does (unit : Nat) (reads : List HbmUpset) (s : State) : Does [.frame, .cells, .hbm, .portA, .portB, .dev, .power, .faults, .fabric, .flash, .life] s (failedReads unit reads s) := by
  unfold failedReads
  try dsimp only
  refine does_foldl (fun _ _ => ?_) _ ?_
  refine does_by (onLife_does _ _) ?_
  refine does_by (countEvent_does _ _ _ _) ?_
  exact does_refl _ _
  exact does_refl _ _

theorem onStack_does {m : List Comp} {unit : Nat} {reads : List HbmUpset} {f : State → State} {s : State} (h : ∀ u, Does m u (f u))
    (hm : within [.frame, .cells, .hbm, .portA, .portB, .dev, .power, .faults, .fabric, .flash, .life] m = true) : Does m s (onStack unit reads f s) :=
  does_ite (h s) (does_ite (does_mono (failedReads_does _ _ _) hm) (does_refl _ _))

theorem runScrub_does (unit : Nat) (reads : List HbmUpset) (s : State) : Does [.frame, .step, .cells, .hbm, .portA, .portB, .dev, .power, .faults, .fabric, .snap, .flash, .life] s (runScrub unit reads s) := by
  unfold runScrub
  try dsimp only
  refine does_ite ?_ ?_
  exact does_refl _ _
  refine does_by (scrubWords_does _ _ _) ?_
  refine does_by (setUnit_does _ _ _) ?_
  exact does_refl _ _

theorem execScrub_does (unit : Nat) (reads : List HbmUpset) (s : State) :
    ∃ t, execScrub unit reads s = .next t ∧ Does [.frame, .step, .cells, .hbm, .portA, .portB, .dev, .power, .faults, .fabric, .snap, .flash, .life] s t ∧ t.pending = s.pending := by
  unfold execScrub
  refine effect_next ?_
  try dsimp only
  refine onStack_does (fun _ => ?_) (by decide)
  refine does_by (runScrub_does _ _ _) ?_
  exact does_refl _ _

theorem startUnitItem_does (unit pos : Nat) (s : State) : Does [.frame, .cells] s (startUnitItem unit pos s) := by
  unfold startUnitItem
  try dsimp only
  refine does_ite ?_ ?_
  exact does_refl _ _
  split
  refine does_by (beginItem_does _ _ _) ?_
  exact does_refl _ _
  exact does_refl _ _

theorem runGrant_does (unit : Nat) (waiting : SlotBids) (reads : List HbmUpset) (s : State) : Does [.frame, .step, .cells, .hbm, .portA, .portB, .dev, .power, .faults, .fabric, .snap, .flash, .life] s (runGrant unit waiting reads s) := by
  unfold runGrant
  try dsimp only
  refine does_ite ?_ ?_
  exact does_refl _ _
  split
  refine does_ite ?_ ?_
  exact does_refl _ _
  refine does_by (setUnit_does _ _ _) ?_
  exact does_refl _ _
  split
  refine does_by (scrubWords_does _ _ _) ?_
  refine does_by (setUnit_does _ _ _) ?_
  exact does_refl _ _
  refine does_foldl (fun _ _ => ?_) _ ?_
  refine does_by (readWord_does _ _) ?_
  exact does_refl _ _
  refine does_by (startUnitItem_does _ _ _) ?_
  refine does_by (setUnit_does _ _ _) ?_
  exact does_refl _ _
  refine does_foldl (fun _ _ => ?_) _ ?_
  refine does_by (readWord_does _ _) ?_
  exact does_refl _ _
  refine does_by (setUnit_does _ _ _) ?_
  exact does_refl _ _

theorem execBezelSlotGrant_does (unit : Nat) (waiting : SlotBids) (reads : List HbmUpset) (s : State) :
    ∃ t, execBezelSlotGrant unit waiting reads s = .next t ∧ Does [.frame, .step, .cells, .hbm, .portA, .portB, .dev, .power, .faults, .fabric, .snap, .flash, .life] s t ∧ t.pending = s.pending := by
  unfold execBezelSlotGrant
  refine effect_next ?_
  try dsimp only
  refine onStack_does (fun _ => ?_) (by decide)
  refine does_by (runGrant_does _ _ _ _) ?_
  exact does_refl _ _

theorem migrateCopy_does (unit page : Nat) (s : State) : Does [.hbm] s (migrateCopy unit page s) := by
  unfold migrateCopy
  try dsimp only
  split
  refine does_by (releasePage_does _ _) ?_
  simp only [doesMk]
  refine mk_hbm_does ⟨rfl, rfl⟩ (by decide) ?_
  refine does_by (takePage_does _ _ _) ?_
  exact does_refl _ _
  simp only [doesMk]
  refine mk_hbm_does ⟨rfl, rfl⟩ (by decide) ?_
  refine does_by (takePage_does _ _ _) ?_
  exact does_refl _ _

theorem runMigration_does (unit page : Nat) (s : State) : Does [.frame, .cells, .hbm, .portA, .portB, .dev, .power, .faults, .fabric, .flash] s (runMigration unit page s) := by
  unfold runMigration
  try dsimp only
  split
  exact does_refl _ _
  refine does_ite ?_ ?_
  exact does_refl _ _
  refine does_ite ?_ ?_
  simp only [doesMk]
  refine mk_hbm_does ⟨rfl, rfl⟩ (by decide) ?_
  exact does_refl _ _
  refine does_ite ?_ ?_
  refine does_by (stagingOverflow_does _ _) ?_
  exact does_refl _ _
  refine does_ite ?_ ?_
  exact does_refl _ _
  refine does_by (migrateCopy_does _ _ _) ?_
  exact does_refl _ _

theorem execMigration_does (unit page : Nat) (s : State) :
    ∃ t, execMigration unit page s = .next t ∧ Does [.frame, .cells, .hbm, .portA, .portB, .dev, .power, .faults, .fabric, .flash] s t ∧ t.pending = s.pending := by
  unfold execMigration
  refine effect_next ?_
  try dsimp only
  refine does_onlyIf ?_ (fun _ => ?_)
  exact does_refl _ _
  refine does_by (runMigration_does _ _ _) ?_
  exact does_refl _ _

theorem runPcDone_does (stack pc : Nat) (s : State) : Does [.hbm, .dev, .flash, .life] s (runPcDone stack pc s) := by
  unfold runPcDone
  try dsimp only
  refine does_ite ?_ ?_
  exact does_refl _ _
  refine does_ite ?_ ?_
  refine does_by (askRetire_does _) ?_
  refine does_by (recordEvent_does _ _ _) ?_
  refine does_by (onLife_does _ _) ?_
  simp only [doesMk]
  refine mk_hbm_flash_life_does ⟨rfl, rfl⟩ (by decide) ?_
  exact does_refl _ _
  refine does_by (recordEvent_does _ _ _) ?_
  refine does_by (onLife_does _ _) ?_
  simp only [doesMk]
  refine mk_hbm_flash_life_does ⟨rfl, rfl⟩ (by decide) ?_
  exact does_refl _ _

theorem execPcRetirementDone_does (stack pc : Nat) (s : State) :
    ∃ t, execPcRetirementDone stack pc s = .next t ∧ Does [.hbm, .dev, .flash, .life] s t ∧ t.pending = s.pending := by
  unfold execPcRetirementDone
  refine effect_next ?_
  try dsimp only
  refine does_onlyIf ?_ (fun _ => ?_)
  exact does_refl _ _
  refine does_by (runPcDone_does _ _ _) ?_
  exact does_refl _ _

theorem adoptLocal_does (s : State) (p : Nat × Nat) : Does [.step, .hbm, .dev, .snap, .flash, .life] s (adoptLocal s p) := by
  unfold adoptLocal
  try dsimp only
  split
  refine does_by (releasePage_does _ _) ?_
  exact does_refl _ _
  refine does_foldl (fun _ _ => ?_) _ ?_
  refine does_by (enterPoison_does _ _ _) ?_
  exact does_refl _ _
  refine does_by (freePhys_does _ _) ?_
  simp only [doesMk]
  refine mk_hbm_does ⟨rfl, rfl⟩ (by decide) ?_
  exact does_refl _ _

theorem clearCarried_does (cover : List Host.Cell) (s : State) : Does [.hbm] s (clearCarried cover s) := by
  unfold clearCarried
  try dsimp only
  simp only [doesMk]
  refine mk_hbm_does ⟨rfl, rfl⟩ (by decide) ?_
  exact does_refl _ _

theorem statCommitted_does (tensor : Nat) (r : StatRec) (s : State) : Does [.stats] s (statCommitted tensor r s) := by
  unfold statCommitted
  try dsimp only
  simp only [doesMk]
  refine mk_stats_does (by decide) ?_
  exact does_refl _ _

theorem foldDelta_does (s : State) (d : Nat × Nat × LTile) : Does [.stats, .hbm] s (foldDelta s d) := by
  unfold foldDelta
  try dsimp only
  refine does_ite ?_ ?_
  exact does_refl _ _
  refine does_by (statCommitted_does _ _ _) ?_
  refine does_by (onHbm_does _ _ ⟨rfl, rfl⟩) ?_
  refine does_by (hbmPut_does _ _ _) ?_
  exact does_refl _ _

theorem releaseAll_does (m : SMap Nat) (s : State) : Does [.hbm] s (releaseAll m s) := by
  unfold releaseAll
  try dsimp only
  refine does_foldl (fun _ _ => ?_) _ ?_
  refine does_by (releasePage_does _ _) ?_
  exact does_refl _ _
  exact does_refl _ _

theorem clearStaging_does (keep : CarW → Bool) (s : State) : Does [.hbm] s (clearStaging keep s) := by
  unfold clearStaging
  try dsimp only
  refine does_by (releaseAll_does _ _) ?_
  refine does_by (releaseAll_does _ _) ?_
  simp only [doesMk]
  refine mk_hbm_keeps (by intro h; refine ⟨?_, ?_⟩ <;> first | with_reducible exact h.mem | with_reducible exact wf_writeN h.mem | with_reducible exact wf_clear h.mem | with_reducible exact wf_fold h.mem | with_reducible exact wf_filter h.mem | with_reducible exact wf_write h.mem | with_reducible exact rise_overlayN h.mem | with_reducible exact rise_filter h.mem | with_reducible exact h.localB | with_reducible exact wf_writeN h.localB | with_reducible exact wf_clear h.localB | with_reducible exact wf_fold h.localB | with_reducible exact wf_filter h.localB | with_reducible exact wf_write h.localB | with_reducible exact rise_overlayN h.localB | with_reducible exact rise_filter h.localB | with_reducible exact wf_nil | with_reducible exact rise_nil) (by decide) ?_
  exact does_refl _ _

theorem hbmCommit_does (own inbound : Bool) (s : State) : Does [.step, .stats, .hbm, .dev, .snap, .flash, .life] s (hbmCommit own inbound s) := by
  unfold hbmCommit
  try dsimp only
  refine does_by (clearStaging_does _ _) ?_
  refine does_ite ?_ ?_
  refine does_foldl (fun _ _ => ?_) _ ?_
  refine does_by (foldDelta_does _ _) ?_
  exact does_refl _ _
  refine does_ite ?_ ?_
  refine does_foldl (fun _ _ => ?_) _ ?_
  refine does_by (foldDelta_does _ _) ?_
  exact does_refl _ _
  refine does_ite ?_ ?_
  refine does_foldl (fun _ _ => ?_) _ ?_
  refine does_by (enterPoison_does _ _ _) ?_
  exact does_refl _ _
  refine does_by (clearCarried_does _ _) ?_
  simp only [doesMk]
  refine mk_hbm_keeps (by intro h; refine ⟨?_, ?_⟩ <;> first | with_reducible exact h.mem | with_reducible exact wf_writeN h.mem | with_reducible exact wf_clear h.mem | with_reducible exact wf_fold h.mem | with_reducible exact wf_filter h.mem | with_reducible exact wf_write h.mem | with_reducible exact rise_overlayN h.mem | with_reducible exact rise_filter h.mem | with_reducible exact h.localB | with_reducible exact wf_writeN h.localB | with_reducible exact wf_clear h.localB | with_reducible exact wf_fold h.localB | with_reducible exact wf_filter h.localB | with_reducible exact wf_write h.localB | with_reducible exact rise_overlayN h.localB | with_reducible exact rise_filter h.localB | with_reducible exact wf_nil | with_reducible exact rise_nil) (by decide) ?_
  refine does_ite ?_ ?_
  simp only [doesMk]
  refine mk_hbm_keeps (by intro h; refine ⟨?_, ?_⟩ <;> first | with_reducible exact h.mem | with_reducible exact wf_writeN h.mem | with_reducible exact wf_clear h.mem | with_reducible exact wf_fold h.mem | with_reducible exact wf_filter h.mem | with_reducible exact wf_write h.mem | with_reducible exact rise_overlayN h.mem | with_reducible exact rise_filter h.mem | with_reducible exact h.localB | with_reducible exact wf_writeN h.localB | with_reducible exact wf_clear h.localB | with_reducible exact wf_fold h.localB | with_reducible exact wf_filter h.localB | with_reducible exact wf_write h.localB | with_reducible exact rise_overlayN h.localB | with_reducible exact rise_filter h.localB | with_reducible exact wf_nil | with_reducible exact rise_nil) (by decide) ?_
  refine does_foldl (fun _ _ => ?_) _ ?_
  refine does_by (adoptLocal_does _ _) ?_
  exact does_refl _ _
  exact does_refl _ _
  refine does_by (releaseAll_does _ _) ?_
  exact does_refl _ _
  refine does_by (clearCarried_does _ _) ?_
  simp only [doesMk]
  refine mk_hbm_keeps (by intro h; refine ⟨?_, ?_⟩ <;> first | with_reducible exact h.mem | with_reducible exact wf_writeN h.mem | with_reducible exact wf_clear h.mem | with_reducible exact wf_fold h.mem | with_reducible exact wf_filter h.mem | with_reducible exact wf_write h.mem | with_reducible exact rise_overlayN h.mem | with_reducible exact rise_filter h.mem | with_reducible exact h.localB | with_reducible exact wf_writeN h.localB | with_reducible exact wf_clear h.localB | with_reducible exact wf_fold h.localB | with_reducible exact wf_filter h.localB | with_reducible exact wf_write h.localB | with_reducible exact rise_overlayN h.localB | with_reducible exact rise_filter h.localB | with_reducible exact wf_nil | with_reducible exact rise_nil) (by decide) ?_
  refine does_ite ?_ ?_
  simp only [doesMk]
  refine mk_hbm_keeps (by intro h; refine ⟨?_, ?_⟩ <;> first | with_reducible exact h.mem | with_reducible exact wf_writeN h.mem | with_reducible exact wf_clear h.mem | with_reducible exact wf_fold h.mem | with_reducible exact wf_filter h.mem | with_reducible exact wf_write h.mem | with_reducible exact rise_overlayN h.mem | with_reducible exact rise_filter h.mem | with_reducible exact h.localB | with_reducible exact wf_writeN h.localB | with_reducible exact wf_clear h.localB | with_reducible exact wf_fold h.localB | with_reducible exact wf_filter h.localB | with_reducible exact wf_write h.localB | with_reducible exact rise_overlayN h.localB | with_reducible exact rise_filter h.localB | with_reducible exact wf_nil | with_reducible exact rise_nil) (by decide) ?_
  refine does_foldl (fun _ _ => ?_) _ ?_
  refine does_by (adoptLocal_does _ _) ?_
  exact does_refl _ _
  exact does_refl _ _
  refine does_by (releaseAll_does _ _) ?_
  exact does_refl _ _
  refine does_ite ?_ ?_
  refine does_foldl (fun _ _ => ?_) _ ?_
  refine does_by (enterPoison_does _ _ _) ?_
  exact does_refl _ _
  refine does_by (clearCarried_does _ _) ?_
  simp only [doesMk]
  refine mk_hbm_keeps (by intro h; refine ⟨?_, ?_⟩ <;> first | with_reducible exact h.mem | with_reducible exact wf_writeN h.mem | with_reducible exact wf_clear h.mem | with_reducible exact wf_fold h.mem | with_reducible exact wf_filter h.mem | with_reducible exact wf_write h.mem | with_reducible exact rise_overlayN h.mem | with_reducible exact rise_filter h.mem | with_reducible exact h.localB | with_reducible exact wf_writeN h.localB | with_reducible exact wf_clear h.localB | with_reducible exact wf_fold h.localB | with_reducible exact wf_filter h.localB | with_reducible exact wf_write h.localB | with_reducible exact rise_overlayN h.localB | with_reducible exact rise_filter h.localB | with_reducible exact wf_nil | with_reducible exact rise_nil) (by decide) ?_
  refine does_ite ?_ ?_
  simp only [doesMk]
  refine mk_hbm_keeps (by intro h; refine ⟨?_, ?_⟩ <;> first | with_reducible exact h.mem | with_reducible exact wf_writeN h.mem | with_reducible exact wf_clear h.mem | with_reducible exact wf_fold h.mem | with_reducible exact wf_filter h.mem | with_reducible exact wf_write h.mem | with_reducible exact rise_overlayN h.mem | with_reducible exact rise_filter h.mem | with_reducible exact h.localB | with_reducible exact wf_writeN h.localB | with_reducible exact wf_clear h.localB | with_reducible exact wf_fold h.localB | with_reducible exact wf_filter h.localB | with_reducible exact wf_write h.localB | with_reducible exact rise_overlayN h.localB | with_reducible exact rise_filter h.localB | with_reducible exact wf_nil | with_reducible exact rise_nil) (by decide) ?_
  refine does_foldl (fun _ _ => ?_) _ ?_
  refine does_by (adoptLocal_does _ _) ?_
  exact does_refl _ _
  exact does_refl _ _
  refine does_by (releaseAll_does _ _) ?_
  exact does_refl _ _
  refine does_by (clearCarried_does _ _) ?_
  simp only [doesMk]
  refine mk_hbm_keeps (by intro h; refine ⟨?_, ?_⟩ <;> first | with_reducible exact h.mem | with_reducible exact wf_writeN h.mem | with_reducible exact wf_clear h.mem | with_reducible exact wf_fold h.mem | with_reducible exact wf_filter h.mem | with_reducible exact wf_write h.mem | with_reducible exact rise_overlayN h.mem | with_reducible exact rise_filter h.mem | with_reducible exact h.localB | with_reducible exact wf_writeN h.localB | with_reducible exact wf_clear h.localB | with_reducible exact wf_fold h.localB | with_reducible exact wf_filter h.localB | with_reducible exact wf_write h.localB | with_reducible exact rise_overlayN h.localB | with_reducible exact rise_filter h.localB | with_reducible exact wf_nil | with_reducible exact rise_nil) (by decide) ?_
  refine does_ite ?_ ?_
  simp only [doesMk]
  refine mk_hbm_keeps (by intro h; refine ⟨?_, ?_⟩ <;> first | with_reducible exact h.mem | with_reducible exact wf_writeN h.mem | with_reducible exact wf_clear h.mem | with_reducible exact wf_fold h.mem | with_reducible exact wf_filter h.mem | with_reducible exact wf_write h.mem | with_reducible exact rise_overlayN h.mem | with_reducible exact rise_filter h.mem | with_reducible exact h.localB | with_reducible exact wf_writeN h.localB | with_reducible exact wf_clear h.localB | with_reducible exact wf_fold h.localB | with_reducible exact wf_filter h.localB | with_reducible exact wf_write h.localB | with_reducible exact rise_overlayN h.localB | with_reducible exact rise_filter h.localB | with_reducible exact wf_nil | with_reducible exact rise_nil) (by decide) ?_
  refine does_foldl (fun _ _ => ?_) _ ?_
  refine does_by (adoptLocal_does _ _) ?_
  exact does_refl _ _
  exact does_refl _ _
  refine does_by (releaseAll_does _ _) ?_
  exact does_refl _ _
  refine does_ite ?_ ?_
  refine does_foldl (fun _ _ => ?_) _ ?_
  refine does_by (foldDelta_does _ _) ?_
  exact does_refl _ _
  refine does_ite ?_ ?_
  refine does_foldl (fun _ _ => ?_) _ ?_
  refine does_by (enterPoison_does _ _ _) ?_
  exact does_refl _ _
  refine does_by (clearCarried_does _ _) ?_
  simp only [doesMk]
  refine mk_hbm_keeps (by intro h; refine ⟨?_, ?_⟩ <;> first | with_reducible exact h.mem | with_reducible exact wf_writeN h.mem | with_reducible exact wf_clear h.mem | with_reducible exact wf_fold h.mem | with_reducible exact wf_filter h.mem | with_reducible exact wf_write h.mem | with_reducible exact rise_overlayN h.mem | with_reducible exact rise_filter h.mem | with_reducible exact h.localB | with_reducible exact wf_writeN h.localB | with_reducible exact wf_clear h.localB | with_reducible exact wf_fold h.localB | with_reducible exact wf_filter h.localB | with_reducible exact wf_write h.localB | with_reducible exact rise_overlayN h.localB | with_reducible exact rise_filter h.localB | with_reducible exact wf_nil | with_reducible exact rise_nil) (by decide) ?_
  refine does_ite ?_ ?_
  simp only [doesMk]
  refine mk_hbm_keeps (by intro h; refine ⟨?_, ?_⟩ <;> first | with_reducible exact h.mem | with_reducible exact wf_writeN h.mem | with_reducible exact wf_clear h.mem | with_reducible exact wf_fold h.mem | with_reducible exact wf_filter h.mem | with_reducible exact wf_write h.mem | with_reducible exact rise_overlayN h.mem | with_reducible exact rise_filter h.mem | with_reducible exact h.localB | with_reducible exact wf_writeN h.localB | with_reducible exact wf_clear h.localB | with_reducible exact wf_fold h.localB | with_reducible exact wf_filter h.localB | with_reducible exact wf_write h.localB | with_reducible exact rise_overlayN h.localB | with_reducible exact rise_filter h.localB | with_reducible exact wf_nil | with_reducible exact rise_nil) (by decide) ?_
  refine does_foldl (fun _ _ => ?_) _ ?_
  refine does_by (adoptLocal_does _ _) ?_
  exact does_refl _ _
  exact does_refl _ _
  refine does_by (releaseAll_does _ _) ?_
  exact does_refl _ _
  refine does_by (clearCarried_does _ _) ?_
  simp only [doesMk]
  refine mk_hbm_keeps (by intro h; refine ⟨?_, ?_⟩ <;> first | with_reducible exact h.mem | with_reducible exact wf_writeN h.mem | with_reducible exact wf_clear h.mem | with_reducible exact wf_fold h.mem | with_reducible exact wf_filter h.mem | with_reducible exact wf_write h.mem | with_reducible exact rise_overlayN h.mem | with_reducible exact rise_filter h.mem | with_reducible exact h.localB | with_reducible exact wf_writeN h.localB | with_reducible exact wf_clear h.localB | with_reducible exact wf_fold h.localB | with_reducible exact wf_filter h.localB | with_reducible exact wf_write h.localB | with_reducible exact rise_overlayN h.localB | with_reducible exact rise_filter h.localB | with_reducible exact wf_nil | with_reducible exact rise_nil) (by decide) ?_
  refine does_ite ?_ ?_
  simp only [doesMk]
  refine mk_hbm_keeps (by intro h; refine ⟨?_, ?_⟩ <;> first | with_reducible exact h.mem | with_reducible exact wf_writeN h.mem | with_reducible exact wf_clear h.mem | with_reducible exact wf_fold h.mem | with_reducible exact wf_filter h.mem | with_reducible exact wf_write h.mem | with_reducible exact rise_overlayN h.mem | with_reducible exact rise_filter h.mem | with_reducible exact h.localB | with_reducible exact wf_writeN h.localB | with_reducible exact wf_clear h.localB | with_reducible exact wf_fold h.localB | with_reducible exact wf_filter h.localB | with_reducible exact wf_write h.localB | with_reducible exact rise_overlayN h.localB | with_reducible exact rise_filter h.localB | with_reducible exact wf_nil | with_reducible exact rise_nil) (by decide) ?_
  refine does_foldl (fun _ _ => ?_) _ ?_
  refine does_by (adoptLocal_does _ _) ?_
  exact does_refl _ _
  exact does_refl _ _
  refine does_by (releaseAll_does _ _) ?_
  exact does_refl _ _
  refine does_ite ?_ ?_
  refine does_foldl (fun _ _ => ?_) _ ?_
  refine does_by (enterPoison_does _ _ _) ?_
  exact does_refl _ _
  refine does_by (clearCarried_does _ _) ?_
  simp only [doesMk]
  refine mk_hbm_keeps (by intro h; refine ⟨?_, ?_⟩ <;> first | with_reducible exact h.mem | with_reducible exact wf_writeN h.mem | with_reducible exact wf_clear h.mem | with_reducible exact wf_fold h.mem | with_reducible exact wf_filter h.mem | with_reducible exact wf_write h.mem | with_reducible exact rise_overlayN h.mem | with_reducible exact rise_filter h.mem | with_reducible exact h.localB | with_reducible exact wf_writeN h.localB | with_reducible exact wf_clear h.localB | with_reducible exact wf_fold h.localB | with_reducible exact wf_filter h.localB | with_reducible exact wf_write h.localB | with_reducible exact rise_overlayN h.localB | with_reducible exact rise_filter h.localB | with_reducible exact wf_nil | with_reducible exact rise_nil) (by decide) ?_
  refine does_ite ?_ ?_
  simp only [doesMk]
  refine mk_hbm_keeps (by intro h; refine ⟨?_, ?_⟩ <;> first | with_reducible exact h.mem | with_reducible exact wf_writeN h.mem | with_reducible exact wf_clear h.mem | with_reducible exact wf_fold h.mem | with_reducible exact wf_filter h.mem | with_reducible exact wf_write h.mem | with_reducible exact rise_overlayN h.mem | with_reducible exact rise_filter h.mem | with_reducible exact h.localB | with_reducible exact wf_writeN h.localB | with_reducible exact wf_clear h.localB | with_reducible exact wf_fold h.localB | with_reducible exact wf_filter h.localB | with_reducible exact wf_write h.localB | with_reducible exact rise_overlayN h.localB | with_reducible exact rise_filter h.localB | with_reducible exact wf_nil | with_reducible exact rise_nil) (by decide) ?_
  refine does_foldl (fun _ _ => ?_) _ ?_
  refine does_by (adoptLocal_does _ _) ?_
  exact does_refl _ _
  exact does_refl _ _
  refine does_by (releaseAll_does _ _) ?_
  exact does_refl _ _
  refine does_by (clearCarried_does _ _) ?_
  simp only [doesMk]
  refine mk_hbm_keeps (by intro h; refine ⟨?_, ?_⟩ <;> first | with_reducible exact h.mem | with_reducible exact wf_writeN h.mem | with_reducible exact wf_clear h.mem | with_reducible exact wf_fold h.mem | with_reducible exact wf_filter h.mem | with_reducible exact wf_write h.mem | with_reducible exact rise_overlayN h.mem | with_reducible exact rise_filter h.mem | with_reducible exact h.localB | with_reducible exact wf_writeN h.localB | with_reducible exact wf_clear h.localB | with_reducible exact wf_fold h.localB | with_reducible exact wf_filter h.localB | with_reducible exact wf_write h.localB | with_reducible exact rise_overlayN h.localB | with_reducible exact rise_filter h.localB | with_reducible exact wf_nil | with_reducible exact rise_nil) (by decide) ?_
  refine does_ite ?_ ?_
  simp only [doesMk]
  refine mk_hbm_keeps (by intro h; refine ⟨?_, ?_⟩ <;> first | with_reducible exact h.mem | with_reducible exact wf_writeN h.mem | with_reducible exact wf_clear h.mem | with_reducible exact wf_fold h.mem | with_reducible exact wf_filter h.mem | with_reducible exact wf_write h.mem | with_reducible exact rise_overlayN h.mem | with_reducible exact rise_filter h.mem | with_reducible exact h.localB | with_reducible exact wf_writeN h.localB | with_reducible exact wf_clear h.localB | with_reducible exact wf_fold h.localB | with_reducible exact wf_filter h.localB | with_reducible exact wf_write h.localB | with_reducible exact rise_overlayN h.localB | with_reducible exact rise_filter h.localB | with_reducible exact wf_nil | with_reducible exact rise_nil) (by decide) ?_
  refine does_foldl (fun _ _ => ?_) _ ?_
  refine does_by (adoptLocal_does _ _) ?_
  exact does_refl _ _
  exact does_refl _ _
  refine does_by (releaseAll_does _ _) ?_
  exact does_refl _ _

theorem hbmWithhold_does (s : State) : Does [.hbm] s (hbmWithhold s) := by
  unfold hbmWithhold
  try dsimp only
  refine does_by (clearStaging_does _ _) ?_
  refine does_by (releaseAll_does _ _) ?_
  exact does_refl _ _

theorem setRead_does (p : PPort) (r : ReadRes) (s : State) : Does [.portA, .portB] s (setRead p r s) := by
  unfold setRead
  try dsimp only
  refine does_by (onPort_does _ _ _) ?_
  exact does_refl _ _

theorem readTick_does (p : PPort) (size : Nat) (s : State) : Does [.portA, .portB] s (readTick p size s) := by
  unfold readTick
  try dsimp only
  refine does_ite ?_ ?_
  refine does_by (onPort_does _ _ _) ?_
  refine does_by (onPort_does _ _ _) ?_
  exact does_refl _ _
  refine does_by (onPort_does _ _ _) ?_
  exact does_refl _ _

theorem execTickCountRead_does (p : PPort) (size : Nat) (s t : State) (h : execTickCountRead p size s = .next t) :
    Does [.portA, .portB] s t ∧ t.pending = s.pending := by
  unfold execTickCountRead at h
  split at h
  · exact does_effect (whenDecoding_does (fun _ => readTick_does _ _ _)) _ h
  · cases h

theorem bar2Word_does (u : HbmUpset) (s : State) : Does [.frame, .step, .cells, .hbm, .portA, .portB, .dev, .power, .faults, .fabric, .snap, .flash, .life] s (bar2Word u s) := by
  unfold bar2Word
  try dsimp only
  refine does_ite ?_ ?_
  exact does_refl _ _
  split
  refine does_by (weaken_does _ _ _) ?_
  refine does_by (onLife_does _ _) ?_
  refine does_by (countEventWith_does _ _ _ _ _ _ _) ?_
  exact does_refl _ _
  refine does_by (readWord_does _ _) ?_
  exact does_refl _ _

theorem countListed_does (phys : Nat) (s : State) : Does [.frame, .step, .cells, .hbm, .portA, .portB, .dev, .power, .faults, .fabric, .snap, .flash, .life] s (countListed phys s) := by
  unfold countListed
  try dsimp only
  refine does_by (onLife_does _ _) ?_
  refine does_by (countEventWith_does _ _ _ _ _ _ _) ?_
  exact does_refl _ _

theorem serveRead_does (p : PPort) (a len : Nat) (reads : List HbmUpset) (s : State) : Does [.frame, .step, .cells, .hbm, .portA, .portB, .dev, .power, .faults, .fabric, .snap, .flash, .life] s (serveRead p a len reads s) := by
  unfold serveRead
  try dsimp only
  refine does_by (setRead_does _ _ _) ?_
  refine does_foldl (fun _ _ => ?_) _ ?_
  refine does_by (bar2Word_does _ _) ?_
  exact does_refl _ _
  refine does_foldl (fun _ _ => ?_) _ ?_
  refine does_by (countListed_does _ _) ?_
  exact does_refl _ _
  exact does_refl _ _

theorem waitBar2_does (w : Bar2Wait) (s : State) : Does [.hbm, .portA, .portB] s (waitBar2 w s) := by
  unfold waitBar2
  try dsimp only
  refine does_by (onPort_does _ _ _) ?_
  refine does_by (onHbm_does _ _ ⟨rfl, rfl⟩) ?_
  exact does_refl _ _

theorem hostCarry_does (a : Nat) (bytes : List Byte) (s : State) : Does [.frame, .cells, .hbm, .portA, .portB, .dev, .power, .faults, .fabric, .flash] s (hostCarry a bytes s) := by
  unfold hostCarry
  try dsimp only
  refine does_foldl (fun _ _ => ?_) _ ?_
  refine does_ite ?_ ?_
  exact does_refl _ _
  refine does_by (hbmCarry_does _ _ _ _) ?_
  exact does_refl _ _
  exact does_refl _ _

theorem serveWait_does (w : Bar2Wait) (s : State) : Does [.frame, .step, .cells, .hbm, .portA, .portB, .dev, .power, .faults, .fabric, .snap, .flash, .life] s (serveWait w s) := by
  unfold serveWait
  try dsimp only
  refine does_ite ?_ ?_
  refine does_by (hostCarry_does _ _ _) ?_
  refine does_by (onPort_does _ _ _) ?_
  exact does_refl _ _
  refine does_by (serveRead_does _ _ _ _ _) ?_
  refine does_by (onPort_does _ _ _) ?_
  exact does_refl _ _

theorem serveWaits_does (sel : Bar2Wait → Bool) (s : State) : Does [.frame, .step, .cells, .hbm, .portA, .portB, .dev, .power, .faults, .fabric, .snap, .flash, .life] s (serveWaits sel s) := by
  unfold serveWaits
  try dsimp only
  refine does_foldl (fun _ _ => ?_) _ ?_
  refine does_by (serveWait_does _ _) ?_
  exact does_refl _ _
  refine does_by (onHbm_does _ _ ⟨rfl, rfl⟩) ?_
  exact does_refl _ _

theorem readBar2_does (p : PPort) (off len : Nat) (reads : List HbmUpset) (s : State) : Does [.frame, .step, .cells, .hbm, .portA, .portB, .dev, .power, .faults, .fabric, .snap, .flash, .life] s (readBar2 p off len reads s) := by
  unfold readBar2
  try dsimp only
  refine does_ite ?_ ?_
  refine does_by (setRead_does _ _ _) ?_
  exact does_refl _ _
  refine does_ite ?_ ?_
  exact does_refl _ _
  refine does_ite ?_ ?_
  refine does_by (waitBar2_does _ _) ?_
  refine does_by (serveWaits_does _ _) ?_
  exact does_refl _ _
  refine does_by (serveRead_does _ _ _ _ _) ?_
  refine does_by (serveWaits_does _ _) ?_
  exact does_refl _ _

theorem execBar2Read_does (p : PPort) (offset length : Nat) (reads : List HbmUpset) (s t : State)
    (h : execBar2Read p offset length reads s = .next t) : Does [.frame, .step, .cells, .hbm, .portA, .portB, .dev, .power, .faults, .fabric, .snap, .flash, .life] s t ∧ t.pending = s.pending := by
  unfold execBar2Read at h
  split at h
  · exact does_effect (whenDecoding_does (fun _ => readBar2_does _ _ _ _ _)) _ h
  · cases h

theorem writeBar2_does (p : PPort) (off : Nat) (x : Posted) (s : State) : Does [.frame, .step, .cells, .hbm, .portA, .portB, .dev, .power, .faults, .fabric, .snap, .flash, .life] s (writeBar2 p off x s) := by
  unfold writeBar2
  try dsimp only
  refine does_ite ?_ ?_
  exact does_refl _ _
  refine does_ite ?_ ?_
  refine does_by (waitBar2_does _ _) ?_
  exact does_refl _ _
  refine does_by (serveWaits_does _ _) ?_
  refine does_by (waitBar2_does _ _) ?_
  exact does_refl _ _

theorem execBar2Write_does (p : PPort) (offset : Nat) (x : Posted) (s t : State)
    (h : execBar2Write p offset x s = .next t) : Does [.frame, .step, .cells, .hbm, .portA, .portB, .dev, .power, .faults, .fabric, .snap, .flash, .life] s t ∧ t.pending = s.pending := by
  unfold execBar2Write at h
  split at h
  · exact does_effect (whenDecoding_does (fun _ => writeBar2_does _ _ _ _)) _ h
  · cases h

theorem execBar4Access_does (p : PPort) (offset : Nat) (stopped : Bool) (s t : State) (h : execBar4Access p offset stopped s = .next t) :
    Does [] s t ∧ t.pending = s.pending := by
  unfold execBar4Access at h
  split at h
  · cases h
  · split at h
    · cases h
    · exact does_effect (does_refl _ _) _ h

theorem resetPort_does (p : PPort) (keepConfig : Bool) (s : State) : Does [.hbm, .portA, .portB, .mbx, .ident] s (resetPort p keepConfig s) := by
  unfold resetPort
  try dsimp only
  refine does_by (onIdent_does _ _) ?_
  refine does_by (onMbx_does _ _ rfl) ?_
  refine does_by (onHbm_does _ _ ⟨rfl, rfl⟩) ?_
  refine does_by (setPPort_does _ _ _) ?_
  exact does_refl _ _

theorem setPerst_does (p : PPort) (asserted : Bool) (s : State) : Does [.pins] s (setPerst p asserted s) := by
  unfold setPerst
  try dsimp only
  split
  simp only [doesMk]
  refine mk_pins_does (by decide) ?_
  exact does_refl _ _
  simp only [doesMk]
  refine mk_pins_does (by decide) ?_
  exact does_refl _ _

theorem dropLink_does (p : PPort) (s : State) : Does [.portA, .portB] s (dropLink p s) := by
  unfold dropLink
  try dsimp only
  refine does_by (onPort_does _ _ _) ?_
  exact does_refl _ _

theorem execFunctionLevelReset_does (p : PPort) (s : State) :
    ∃ t, execFunctionLevelReset p s = .next t ∧ Does [.hbm, .portA, .portB, .mbx, .ident] s t ∧ t.pending = s.pending := by
  unfold execFunctionLevelReset
  refine effect_next ?_
  try dsimp only
  refine does_onlyIf ?_ (fun _ => ?_)
  exact does_refl _ _
  refine does_by (dropLink_does _ _) ?_
  refine does_by (resetPort_does _ _ _) ?_
  exact does_refl _ _

theorem execPcieLinkDown_does (p : PPort) (s : State) :
    ∃ t, execPcieLinkDown p s = .next t ∧ Does [.hbm, .portA, .portB, .mbx, .ident] s t ∧ t.pending = s.pending := by
  unfold execPcieLinkDown
  refine effect_next ?_
  try dsimp only
  refine does_by (resetPort_does _ _ _) ?_
  exact does_refl _ _

theorem execPcieLinkUp_does (p : PPort) (width rate : Nat) (s : State) :
    ∃ t, execPcieLinkUp p width rate s = .next t ∧ Does [.portA, .portB] s t ∧ t.pending = s.pending := by
  unfold execPcieLinkUp
  refine effect_next ?_
  try dsimp only
  refine does_onlyIf ?_ (fun _ => ?_)
  exact does_refl _ _
  refine does_by (onPort_does _ _ _) ?_
  exact does_refl _ _

theorem execPowerStateChange_does (p : PPort) (d3hot : Bool) (s : State) :
    ∃ t, execPowerStateChange p d3hot s = .next t ∧ Does [.portA, .portB] s t ∧ t.pending = s.pending := by
  unfold execPowerStateChange
  refine effect_next ?_
  try dsimp only
  refine does_onlyIf ?_ (fun _ => ?_)
  exact does_refl _ _
  refine does_by (onPort_does _ _ _) ?_
  exact does_refl _ _

theorem execBusMasterEnable_does (p : PPort) (on : Bool) (s : State) :
    ∃ t, execBusMasterEnable p on s = .next t ∧ Does [.portA, .portB] s t ∧ t.pending = s.pending := by
  unfold execBusMasterEnable
  refine effect_next ?_
  try dsimp only
  refine does_onlyIf ?_ (fun _ => ?_)
  exact does_refl _ _
  refine does_by (onPort_does _ _ _) ?_
  exact does_refl _ _

theorem finishOp_does (iss : Issuer) (op : Nat) (d : BezelDesc) (s : State) : Does [.frame] s (finishOp iss op d s) := by
  unfold finishOp
  try dsimp only
  split
  refine does_by (finishItem_does _ _ _) ?_
  exact does_refl _ _
  refine does_by (finishUnit_does _ _ _) ?_
  exact does_refl _ _
  exact does_refl _ _

theorem sendView_does (d : BezelDesc) (s : State) : Does [.caseMem] s (sendView d s) := by
  unfold sendView
  try dsimp only
  refine does_ite ?_ ?_
  simp only [doesMk]
  refine mk_caseMem_keeps (by intro h; refine ⟨?_, ?_, ?_, ?_, ?_⟩ <;> first | with_reducible exact h.mem | with_reducible exact wf_writeN h.mem | with_reducible exact wf_clear h.mem | with_reducible exact wf_fold h.mem | with_reducible exact wf_filter h.mem | with_reducible exact wf_write h.mem | with_reducible exact rise_overlayN h.mem | with_reducible exact rise_filter h.mem | with_reducible exact h.staged | with_reducible exact wf_writeN h.staged | with_reducible exact wf_clear h.staged | with_reducible exact wf_fold h.staged | with_reducible exact wf_filter h.staged | with_reducible exact wf_write h.staged | with_reducible exact rise_overlayN h.staged | with_reducible exact rise_filter h.staged | with_reducible exact h.inbound | with_reducible exact wf_writeN h.inbound | with_reducible exact wf_clear h.inbound | with_reducible exact wf_fold h.inbound | with_reducible exact wf_filter h.inbound | with_reducible exact wf_write h.inbound | with_reducible exact rise_overlayN h.inbound | with_reducible exact rise_filter h.inbound | with_reducible exact h.own | with_reducible exact wf_writeN h.own | with_reducible exact wf_clear h.own | with_reducible exact wf_fold h.own | with_reducible exact wf_filter h.own | with_reducible exact wf_write h.own | with_reducible exact rise_overlayN h.own | with_reducible exact rise_filter h.own | with_reducible exact h.host | with_reducible exact wf_writeN h.host | with_reducible exact wf_clear h.host | with_reducible exact wf_fold h.host | with_reducible exact wf_filter h.host | with_reducible exact wf_write h.host | with_reducible exact rise_overlayN h.host | with_reducible exact rise_filter h.host | with_reducible exact wf_nil | with_reducible exact rise_nil) (by decide) ?_
  exact does_refl _ _
  exact does_refl _ _

theorem runOp_does {m : List Comp} {iss : Issuer} {op : Nat} {d : BezelDesc} {fits : Bool} {f : State → State} {s : State}
    (h : ∀ u, Does m u (f u)) (hm : within [.frame, .fabric] m = true) : Does m s (runOp iss op d fits f s) := by
  unfold runOp
  split
  · exact does_refl _ _
  · split
    · exact does_trans (h s) (does_mono (does_step (m := [.frame, .fabric]) (finishOp_does _ _ _ _) (by decide) (does_mono (flushSends_does _) (by decide))) hm)
    · split
      · exact does_mono (does_mono (finishOp_does _ _ _ _) (by decide)) hm
      · exact does_refl _ _

theorem copyBytes_does (d : BezelDesc) (s : State) : Does [.frame, .cells, .hbm, .portA, .portB, .dev, .power, .faults, .fabric, .flash] s (copyBytes d s) := by
  unfold copyBytes
  try dsimp only
  split
  split
  simp only [doesMk]
  refine mk_hbm_does ⟨rfl, rfl⟩ (by decide) ?_
  refine does_by (hbmWrite_does _ _ _) ?_
  exact does_refl _ _
  refine does_by (sendWords_does _ _ _ _ _) ?_
  exact does_refl _ _
  exact does_refl _ _
  exact does_refl _ _

theorem execCopy_does (iss : Issuer) (d : BezelDesc) (s : State) :
    ∃ t, execCopy iss d s = .next t ∧ Does [.frame, .cells, .hbm, .portA, .portB, .dev, .power, .faults, .fabric, .flash] s t ∧ t.pending = s.pending := by
  unfold execCopy
  refine effect_next ?_
  try dsimp only
  refine runOp_does (fun _ => ?_) (by decide)
  refine does_by (copyBytes_does _ _) ?_
  exact does_refl _ _

theorem moveSlot_does (d : BezelDesc) (flip : Bool) (v : State) (s : State) (t : Nat × Nat) : Does [.frame, .caseMem, .cells, .hbm, .portA, .portB, .mbx, .dev, .power, .faults, .fabric, .flash] s (moveSlot d flip v s t) := by
  unfold moveSlot
  try dsimp only
  split
  split
  refine does_ite ?_ ?_
  exact does_refl _ _
  refine does_by (epPut_does _ _ _ _) ?_
  refine does_foldl (fun _ _ => ?_) _ ?_
  refine does_by (epPut_does _ _ _ _) ?_
  exact does_refl _ _
  exact does_refl _ _
  exact does_refl _ _
  exact does_refl _ _

theorem reblock_does (d : BezelDesc) (s : State) : Does [.frame, .caseMem, .cells, .hbm, .portA, .portB, .mbx, .dev, .power, .faults, .fabric, .flash] s (reblock d s) := by
  unfold reblock
  try dsimp only
  refine does_foldl (fun _ _ => ?_) _ ?_
  refine does_by (moveSlot_does _ _ _ _ _) ?_
  exact does_refl _ _
  refine does_foldl (fun _ _ => ?_) _ ?_
  refine does_by (epPut_does _ _ _ _) ?_
  exact does_refl _ _
  refine does_foldl (fun _ _ => ?_) _ ?_
  refine does_by (epPut_does _ _ _ _) ?_
  exact does_refl _ _
  exact does_refl _ _

theorem execReblock_does (iss : Issuer) (d : BezelDesc) (s : State) :
    ∃ t, execReblock iss d s = .next t ∧ Does [.frame, .caseMem, .cells, .hbm, .portA, .portB, .mbx, .dev, .power, .faults, .fabric, .flash] s t ∧ t.pending = s.pending := by
  unfold execReblock
  refine effect_next ?_
  try dsimp only
  refine runOp_does (fun _ => ?_) (by decide)
  refine does_by (reblock_does _ _) ?_
  exact does_refl _ _

theorem transpose_does (d : BezelDesc) (s : State) : Does [.frame, .caseMem, .cells, .hbm, .portA, .portB, .mbx, .dev, .power, .faults, .fabric, .flash] s (transpose d s) := by
  unfold transpose
  try dsimp only
  refine does_foldl (fun _ _ => ?_) _ ?_
  refine does_by (moveSlot_does _ _ _ _ _) ?_
  exact does_refl _ _
  refine does_foldl (fun _ _ => ?_) _ ?_
  refine does_by (epPut_does _ _ _ _) ?_
  exact does_refl _ _
  refine does_foldl (fun _ _ => ?_) _ ?_
  refine does_by (epPut_does _ _ _ _) ?_
  exact does_refl _ _
  exact does_refl _ _

theorem execTranspose_does (iss : Issuer) (d : BezelDesc) (s : State) :
    ∃ t, execTranspose iss d s = .next t ∧ Does [.frame, .caseMem, .cells, .hbm, .portA, .portB, .mbx, .dev, .power, .faults, .fabric, .flash] s t ∧ t.pending = s.pending := by
  unfold execTranspose
  refine effect_next ?_
  try dsimp only
  refine runOp_does (fun _ => ?_) (by decide)
  refine does_by (transpose_does _ _) ?_
  exact does_refl _ _

theorem writeRange_does (d : BezelDesc) (x : Nat → Nat → W32) (src : Nat → Nat → OpVal) (s : State) : Does [.frame, .caseMem, .cells, .stats, .hbm, .portA, .portB, .mbx, .dev, .power, .faults, .fabric, .flash] s (writeRange d x src s) := by
  unfold writeRange
  try dsimp only
  split
  exact does_refl _ _
  refine does_ite ?_ ?_
  refine does_by (writeQuantized_does _ _ _ _ _ _ _ _ _ _ _ _ _ _ _) ?_
  exact does_refl _ _
  refine does_by (statOwn_does _ _ _) ?_
  refine does_foldl (fun _ _ => ?_) _ ?_
  refine does_by (epPut_does _ _ _ _) ?_
  exact does_refl _ _
  refine does_foldl (fun _ _ => ?_) _ ?_
  refine does_by (epPut_does _ _ _ _) ?_
  exact does_refl _ _
  exact does_refl _ _

theorem execQuantize_does (iss : Issuer) (d : BezelDesc) (s : State) :
    ∃ t, execQuantize iss d s = .next t ∧ Does [.frame, .caseMem, .cells, .stats, .hbm, .portA, .portB, .mbx, .dev, .power, .faults, .fabric, .flash] s t ∧ t.pending = s.pending := by
  unfold execQuantize
  refine effect_next ?_
  try dsimp only
  refine runOp_does (fun _ => ?_) (by decide)
  refine does_by (writeRange_does _ _ _ _) ?_
  exact does_refl _ _

theorem execDequantize_does (iss : Issuer) (d : BezelDesc) (s : State) :
    ∃ t, execDequantize iss d s = .next t ∧ Does [.frame, .caseMem, .cells, .stats, .hbm, .portA, .portB, .mbx, .dev, .power, .faults, .fabric, .flash] s t ∧ t.pending = s.pending := by
  unfold execDequantize
  refine effect_next ?_
  try dsimp only
  refine runOp_does (fun _ => ?_) (by decide)
  refine does_by (writeRange_does _ _ _ _) ?_
  exact does_refl _ _

theorem reduceClose_does (d : BezelDesc) (s : State) : Does [.frame, .caseMem, .cells, .stats, .hbm, .portA, .portB, .mbx, .dev, .power, .faults, .fabric, .flash] s (reduceClose d s) := by
  unfold reduceClose
  try dsimp only
  refine does_by (writeRange_does _ _ _ _) ?_
  exact does_refl _ _

theorem execReduceClose_does (iss : Issuer) (d : BezelDesc) (s : State) :
    ∃ t, execReduceClose iss d s = .next t ∧ Does [.frame, .caseMem, .cells, .stats, .hbm, .portA, .portB, .mbx, .dev, .power, .faults, .fabric, .flash] s t ∧ t.pending = s.pending := by
  unfold execReduceClose
  refine effect_next ?_
  try dsimp only
  refine runOp_does (fun _ => ?_) (by decide)
  refine does_by (reduceClose_does _ _) ?_
  exact does_refl _ _

theorem mxImport_does (d : BezelDesc) (s : State) : Does [.frame, .caseMem, .cells, .stats, .hbm, .portA, .portB, .mbx, .dev, .power, .faults, .fabric, .flash] s (mxImport d s) := by
  unfold mxImport
  try dsimp only
  split
  refine does_ite ?_ ?_
  refine does_by (writeRange_does _ _ _ _) ?_
  exact does_refl _ _
  refine does_foldl (fun _ _ => ?_) _ ?_
  refine does_by (statOwn_does _ _ _) ?_
  refine does_by (writeTile_does _ _ _ _ _ _ _) ?_
  exact does_refl _ _
  exact does_refl _ _
  exact does_refl _ _

theorem execMxImport_does (iss : Issuer) (d : BezelDesc) (s : State) :
    ∃ t, execMxImport iss d s = .next t ∧ Does [.frame, .caseMem, .cells, .stats, .hbm, .portA, .portB, .mbx, .dev, .power, .faults, .fabric, .flash] s t ∧ t.pending = s.pending := by
  unfold execMxImport
  refine effect_next ?_
  try dsimp only
  refine runOp_does (fun _ => ?_) (by decide)
  refine does_by (mxImport_does _ _) ?_
  exact does_refl _ _

theorem mxExport_does (d : BezelDesc) (s : State) : Does [.frame, .caseMem, .cells, .stats, .hbm, .portA, .portB, .mbx, .dev, .power, .faults, .fabric, .flash] s (mxExport d s) := by
  unfold mxExport
  try dsimp only
  split
  refine does_by (statOwn_does _ _ _) ?_
  refine does_foldl (fun _ _ => ?_) _ ?_
  refine does_by (epPut_does _ _ _ _) ?_
  exact does_refl _ _
  refine does_foldl (fun _ _ => ?_) _ ?_
  refine does_ite ?_ ?_
  refine does_by (epPut_does _ _ _ _) ?_
  exact does_refl _ _
  refine does_by (epPut_does _ _ _ _) ?_
  exact does_refl _ _
  exact does_refl _ _
  exact does_refl _ _

theorem execMxExport_does (iss : Issuer) (d : BezelDesc) (s : State) :
    ∃ t, execMxExport iss d s = .next t ∧ Does [.frame, .caseMem, .cells, .stats, .hbm, .portA, .portB, .mbx, .dev, .power, .faults, .fabric, .flash] s t ∧ t.pending = s.pending := by
  unfold execMxExport
  refine effect_next ?_
  try dsimp only
  refine runOp_does (fun _ => ?_) (by decide)
  refine does_by (mxExport_does _ _) ?_
  exact does_refl _ _

theorem reduceInit_does (d : BezelDesc) (s : State) : Does [.frame, .cells, .hbm, .portA, .portB, .dev, .power, .faults, .fabric, .flash] s (reduceInit d s) := by
  unfold reduceInit
  try dsimp only
  refine does_foldl (fun _ _ => ?_) _ ?_
  split
  refine does_ite ?_ ?_
  refine does_by (hbmWrite_does _ _ _) ?_
  exact does_refl _ _
  exact does_refl _ _
  exact does_refl _ _
  exact does_refl _ _

theorem execReduceInit_does (iss : Issuer) (d : BezelDesc) (s : State) :
    ∃ t, execReduceInit iss d s = .next t ∧ Does [.frame, .cells, .hbm, .portA, .portB, .dev, .power, .faults, .fabric, .flash] s t ∧ t.pending = s.pending := by
  unfold execReduceInit
  refine effect_next ?_
  try dsimp only
  refine runOp_does (fun _ => ?_) (by decide)
  refine does_by (reduceInit_does _ _) ?_
  exact does_refl _ _

theorem setDelta_does (kind key : Nat) (t : Nat × LTile) (s : State) : Does [.hbm] s (setDelta kind key t s) := by
  unfold setDelta
  try dsimp only
  refine does_ite ?_ ?_
  simp only [doesMk]
  refine mk_hbm_does ⟨rfl, rfl⟩ (by decide) ?_
  exact does_refl _ _
  simp only [doesMk]
  refine mk_hbm_does ⟨rfl, rfl⟩ (by decide) ?_
  exact does_refl _ _

theorem stageDeltas_does (kind a n : Nat) (s : State) : Does [.frame, .cells, .hbm, .portA, .portB, .dev, .power, .faults, .fabric, .flash] s (stageDeltas kind a n s).1 := by
  unfold stageDeltas
  try dsimp only
  refine does_foldl_fst (fun _ _ => ?_) _ ?_
  refine does_fst_ite ?_ ?_
  refine does_by (stageDelta_does _ _ _) ?_
  exact does_refl _ _
  exact does_refl _ _
  exact does_refl _ _

theorem addBlock_does (kind tensor op f a : Nat) (rd : Nat → Byte) (s : State) : Does [.frame, .cells, .stats, .hbm, .portA, .portB, .dev, .power, .faults, .fabric, .flash] s (addBlock kind tensor op f a rd s) := by
  unfold addBlock
  try dsimp only
  refine does_ite ?_ ?_
  exact does_refl _ _
  split
  refine does_step_fst (stageDeltas_does _ _ _ _) (by assumption) (by decide) ?_
  exact does_refl _ _
  refine does_by (statPart_does _ _ _ _) ?_
  refine does_by (setDelta_does _ _ _ _) ?_
  refine does_step_fst (stageDeltas_does _ _ _ _) (by assumption) (by decide) ?_
  exact does_refl _ _

theorem addLongTile_does (kind tensor a : Nat) (lane : Bool) (t : LTile) (s : State) : Does [.frame, .cells, .stats, .hbm, .portA, .portB, .dev, .power, .faults, .fabric, .flash] s (addLongTile kind tensor a lane t s) := by
  unfold addLongTile
  try dsimp only
  refine does_ite ?_ ?_
  exact does_refl _ _
  split
  refine does_step_fst (stageDeltas_does _ _ _ _) (by assumption) (by decide) ?_
  exact does_refl _ _
  refine does_ite ?_ ?_
  refine does_step_fst (stageDeltas_does _ _ _ _) (by assumption) (by decide) ?_
  exact does_refl _ _
  refine does_by (statPart_does _ _ _ _) ?_
  refine does_by (setDelta_does _ _ _ _) ?_
  refine does_step_fst (stageDeltas_does _ _ _ _) (by assumption) (by decide) ?_
  exact does_refl _ _

theorem addRounded_does (kind tensor a : Nat) (rd : Nat → Byte) (s : State) : Does [.frame, .cells, .stats, .hbm, .portA, .portB, .dev, .power, .faults, .fabric, .flash] s (addRounded kind tensor a rd s) := by
  unfold addRounded
  try dsimp only
  split
  refine does_by (addBlock_does _ _ _ _ _ _ _) ?_
  exact does_refl _ _
  refine does_by (setDelta_does _ _ _ _) ?_
  refine does_by (addBlock_does _ _ _ _ _ _ _) ?_
  exact does_refl _ _

theorem digestBlock_does (d : BezelDesc) (p q : Nat) (bytes : List Byte) (s : State) : Does [.step] s (digestBlock d p q bytes s) := by
  unfold digestBlock
  try dsimp only
  split
  exact does_refl _ _
  refine does_ite ?_ ?_
  exact does_refl _ _
  simp only [doesMk]
  refine mk_step_does (by decide) ?_
  exact does_refl _ _

theorem addLongForm_does (d : BezelDesc) (s : State) : Does [.frame, .step, .caseMem, .cells, .stats, .hbm, .portA, .portB, .dev, .power, .faults, .fabric, .flash] s (addLongForm d s) := by
  unfold addLongForm
  try dsimp only
  refine does_foldl (fun _ _ => ?_) _ ?_
  split
  refine does_by (sendData_does _ _ _ _) ?_
  refine does_by (digestBlock_does _ _ _ _ _) ?_
  exact does_refl _ _
  refine does_ite ?_ ?_
  refine does_by (addRounded_does _ _ _ _ _) ?_
  refine does_by (digestBlock_does _ _ _ _ _) ?_
  exact does_refl _ _
  refine does_by (addLongTile_does _ _ _ _ _ _) ?_
  refine does_by (digestBlock_does _ _ _ _ _) ?_
  exact does_refl _ _
  refine does_by (digestBlock_does _ _ _ _ _) ?_
  exact does_refl _ _
  exact does_refl _ _

theorem addStored_does (d : BezelDesc) (s : State) : Does [.frame, .step, .caseMem, .cells, .stats, .hbm, .portA, .portB, .dev, .power, .faults, .fabric, .flash] s (addStored d s) := by
  unfold addStored
  try dsimp only
  refine does_foldl (fun _ _ => ?_) _ ?_
  split
  refine does_by (sendData_does _ _ _ _) ?_
  refine does_by (digestBlock_does _ _ _ _ _) ?_
  exact does_refl _ _
  refine does_by (addBlock_does _ _ _ _ _ _ _) ?_
  refine does_by (digestBlock_does _ _ _ _ _) ?_
  exact does_refl _ _
  refine does_by (digestBlock_does _ _ _ _ _) ?_
  exact does_refl _ _
  exact does_refl _ _

theorem execReduceAdd_does (iss : Issuer) (d : BezelDesc) (s : State) :
    ∃ t, execReduceAdd iss d s = .next t ∧ Does [.frame, .step, .caseMem, .cells, .stats, .hbm, .portA, .portB, .dev, .power, .faults, .fabric, .flash] s t ∧ t.pending = s.pending := by
  refine effect_next (runOp_does (fun u => ?_) (by decide))
  by_cases h : d.srcFmt = 0xFF
  · rw [if_pos h]
    exact does_mono (addLongForm_does _ _) (by decide)
  · rw [if_neg h]
    exact does_mono (addStored_does _ _) (by decide)

theorem execIdentify_does (s : State) :
    ∃ t, execIdentify s = .next t ∧ Does [.portA, .portB, .mbx] s t ∧ t.pending = s.pending := by
  unfold execIdentify
  refine effect_next ?_
  try dsimp only
  refine command_does (fun _ _ => ?_) (by decide)
  refine does_by (Cmd_finish_does _ _ _ _) ?_
  exact does_refl _ _

theorem execStatus_does (s : State) :
    ∃ t, execStatus s = .next t ∧ Does [.portA, .portB, .mbx] s t ∧ t.pending = s.pending := by
  unfold execStatus
  refine effect_next ?_
  try dsimp only
  refine command_does (fun _ _ => ?_) (by decide)
  refine does_by (Cmd_finish_does _ _ _ _) ?_
  exact does_refl _ _

theorem runClaim_does (c : Cmd) (s : State) : Does [.portA, .portB, .own, .flash] s (runClaim c s) := by
  unfold runClaim
  try dsimp only
  refine does_ite ?_ ?_
  refine does_by (Cmd_finish_does _ _ _ _) ?_
  exact does_refl _ _
  refine does_by (Cmd_finish_does _ _ _ _) ?_
  refine does_by (setHolder_does _ _) ?_
  refine does_by (onOwn_does _ _) ?_
  exact does_refl _ _

theorem execClaimControl_does (s : State) :
    ∃ t, execClaimControl s = .next t ∧ Does [.portA, .portB, .mbx, .own, .flash] s t ∧ t.pending = s.pending := by
  unfold execClaimControl
  refine effect_next ?_
  try dsimp only
  refine command_does (fun _ _ => ?_) (by decide)
  refine does_by (runClaim_does _ _) ?_
  exact does_refl _ _

theorem runRenew_does (c : Cmd) (s : State) : Does [.portA, .portB, .own, .dev, .flash] s (runRenew c s) := by
  unfold runRenew
  try dsimp only
  refine does_by (Cmd_finish_does _ _ _ _) ?_
  refine does_by (setHolder_does _ _) ?_
  refine does_by (onOwn_does _ _) ?_
  refine does_onlyIf ?_ (fun _ => ?_)
  exact does_refl _ _
  refine does_by (onDev_does _ _) ?_
  exact does_refl _ _

theorem execRenewLease_does (s : State) :
    ∃ t, execRenewLease s = .next t ∧ Does [.portA, .portB, .mbx, .own, .dev, .flash] s t ∧ t.pending = s.pending := by
  unfold execRenewLease
  refine effect_next ?_
  try dsimp only
  refine command_does (fun _ _ => ?_) (by decide)
  refine does_by (runRenew_does _ _) ?_
  exact does_refl _ _

theorem runRelease_does (c : Cmd) (s : State) : Does [.portA, .portB, .own, .dev, .flash] s (runRelease c s) := by
  unfold runRelease
  try dsimp only
  refine does_by (Cmd_finish_does _ _ _ _) ?_
  refine does_by (leaseEffects_does _) ?_
  refine does_by (setHolder_does _ _) ?_
  refine does_by (onOwn_does _ _) ?_
  exact does_refl _ _

theorem execReleaseControl_does (s : State) :
    ∃ t, execReleaseControl s = .next t ∧ Does [.portA, .portB, .mbx, .own, .dev, .flash] s t ∧ t.pending = s.pending := by
  unfold execReleaseControl
  refine effect_next ?_
  try dsimp only
  refine command_does (fun _ _ => ?_) (by decide)
  refine does_by (runRelease_does _ _) ?_
  exact does_refl _ _

theorem finishAndReset_does (c : Cmd) (s : State) : Does [.portA, .portB, .mbx, .dev] s (finishAndReset c s) := by
  unfold finishAndReset
  try dsimp only
  refine does_by (onDev_does _ _) ?_
  refine does_by (onMbx_does _ _ rfl) ?_
  refine does_by (Cmd_finish_does _ _ _ _) ?_
  refine does_by (onPorts_does _ _) ?_
  exact does_refl _ _

theorem execReset_does (s : State) :
    ∃ t, execReset s = .next t ∧ Does [.portA, .portB, .mbx, .dev] s t ∧ t.pending = s.pending := by
  unfold execReset
  refine effect_next ?_
  try dsimp only
  refine command_does (fun _ _ => ?_) (by decide)
  refine does_by (finishAndReset_does _ _) ?_
  exact does_refl _ _

theorem runSetTime_does (c : Cmd) (s : State) : Does [.portA, .portB, .flash, .life] s (runSetTime c s) := by
  unfold runSetTime
  try dsimp only
  refine does_by (Cmd_finish_does _ _ _ _) ?_
  refine does_by (recordEvent_does _ _ _) ?_
  refine does_by (onLife_does _ _) ?_
  refine does_by (onFlash_does _ _) ?_
  exact does_refl _ _

theorem execSetTime_does (s : State) :
    ∃ t, execSetTime s = .next t ∧ Does [.portA, .portB, .mbx, .flash, .life] s t ∧ t.pending = s.pending := by
  unfold execSetTime
  refine effect_next ?_
  try dsimp only
  refine command_does (fun _ _ => ?_) (by decide)
  refine does_by (runSetTime_does _ _) ?_
  exact does_refl _ _

theorem runSetEnvironment_does (c : Cmd) (s : State) : Does [.portA, .portB, .env, .snap] s (runSetEnvironment c s) := by
  unfold runSetEnvironment
  try dsimp only
  refine does_ite ?_ ?_
  refine does_by (Cmd_finish_does _ _ _ _) ?_
  exact does_refl _ _
  refine does_by (Cmd_finish_does _ _ _ _) ?_
  refine does_by (onSnap_does _ _) ?_
  refine does_by (onEnv_does _ _) ?_
  exact does_refl _ _

theorem execSetEnvironment_does (s : State) :
    ∃ t, execSetEnvironment s = .next t ∧ Does [.portA, .portB, .mbx, .env, .snap] s t ∧ t.pending = s.pending := by
  unfold execSetEnvironment
  refine effect_next ?_
  try dsimp only
  refine command_does (fun _ _ => ?_) (by decide)
  refine does_by (runSetEnvironment_does _ _) ?_
  exact does_refl _ _

theorem runSetBudget_does (c : Cmd) (s : State) : Does [.portA, .portB, .env] s (runSetBudget c s) := by
  unfold runSetBudget
  try dsimp only
  refine does_by (Cmd_finish_does _ _ _ _) ?_
  refine does_by (onEnv_does _ _) ?_
  exact does_refl _ _

theorem execSetPowerBudget_does (s : State) :
    ∃ t, execSetPowerBudget s = .next t ∧ Does [.portA, .portB, .mbx, .env] s t ∧ t.pending = s.pending := by
  unfold execSetPowerBudget
  refine effect_next ?_
  try dsimp only
  refine command_does (fun _ _ => ?_) (by decide)
  refine does_by (runSetBudget_does _ _) ?_
  exact does_refl _ _

theorem execSetOperatingPoints_does (s : State) :
    ∃ t, execSetOperatingPoints s = .next t ∧ Does [.portA, .portB, .mbx, .env] s t ∧ t.pending = s.pending := by
  unfold execSetOperatingPoints
  refine effect_next ?_
  try dsimp only
  refine command_does (fun _ _ => ?_) (by decide)
  refine does_by (Cmd_finish_does _ _ _ _) ?_
  refine does_by (onEnv_does _ _) ?_
  exact does_refl _ _

theorem execSetFabricAddress_does (s : State) :
    ∃ t, execSetFabricAddress s = .next t ∧ Does [.portA, .portB, .mbx, .dev] s t ∧ t.pending = s.pending := by
  unfold execSetFabricAddress
  refine effect_next ?_
  try dsimp only
  refine command_does (fun _ _ => ?_) (by decide)
  refine does_by (Cmd_finish_does _ _ _ _) ?_
  refine does_by (onDev_does _ _) ?_
  exact does_refl _ _

theorem execSetTickDomain_does (s : State) :
    ∃ t, execSetTickDomain s = .next t ∧ Does [.tick, .portA, .portB, .mbx] s t ∧ t.pending = s.pending := by
  unfold execSetTickDomain
  refine effect_next ?_
  try dsimp only
  refine command_does (fun _ _ => ?_) (by decide)
  refine does_by (Cmd_finish_does _ _ _ _) ?_
  refine does_by (onTick_does _ _) ?_
  exact does_refl _ _

theorem runBind_does (c : Cmd) (s : State) : Does [.portA, .portB] s (runBind c s) := by
  unfold runBind
  try dsimp only
  refine does_ite ?_ ?_
  refine does_by (Cmd_finish_does _ _ _ _) ?_
  exact does_refl _ _
  refine does_by (Cmd_finish_does _ _ _ _) ?_
  refine does_by (onPort_does _ _ _) ?_
  exact does_refl _ _

theorem execBindHostBuffers_does (s : State) :
    ∃ t, execBindHostBuffers s = .next t ∧ Does [.portA, .portB, .mbx] s t ∧ t.pending = s.pending := by
  unfold execBindHostBuffers
  refine effect_next ?_
  try dsimp only
  refine command_does (fun _ _ => ?_) (by decide)
  refine does_by (runBind_does _ _) ?_
  exact does_refl _ _

theorem clearFlags_does (s : State) : Does [.step, .dev] s (clearFlags s) := by
  unfold clearFlags
  try dsimp only
  refine does_by (onStep_does _ _) ?_
  refine does_by (onDev_does _ _) ?_
  exact does_refl _ _

theorem runRunSteps_does (c : Cmd) (s : State) : Does [.step, .portA, .portB, .dev] s (runRunSteps c s) := by
  unfold runRunSteps
  split
  · exact does_mono (Cmd_finish_does _ _ _ _) (by decide)
  · exact does_step (Cmd_finish_does _ _ _ _) (by decide) (does_step (onStep_does _ _) (by decide) (does_mono (clearFlags_does _) (by decide)))

theorem execRunSteps_does (s : State) :
    ∃ t, execRunSteps s = .next t ∧ Does [.step, .portA, .portB, .mbx, .dev] s t ∧ t.pending = s.pending := by
  unfold execRunSteps
  refine effect_next ?_
  try dsimp only
  refine command_does (fun _ _ => ?_) (by decide)
  refine does_by (runRunSteps_does _ _) ?_
  exact does_refl _ _

theorem runBatch_does (data : List Byte) (c : Cmd) (s : State) : Does [.step, .portA, .portB, .mbx] s (runBatch data c s) := by
  unfold runBatch
  try dsimp only
  refine does_ite ?_ ?_
  refine does_by (Cmd_finish_does _ _ _ _) ?_
  exact does_refl _ _
  refine does_ite ?_ ?_
  refine does_by (Cmd_finish_does _ _ _ _) ?_
  exact does_refl _ _
  refine does_by (Cmd_finish_does _ _ _ _) ?_
  refine does_by (hostWrite_does _ _ _ _) ?_
  refine does_by (onStep_does _ _) ?_
  refine does_foldl (fun _ _ => ?_) _ ?_
  refine does_by (batchRecord_does _ _ _ _) ?_
  exact does_refl _ _
  exact does_refl _ _

theorem execSubmitBatch_does (data : List Byte) (s : State) :
    ∃ t, execSubmitBatch data s = .next t ∧ Does [.step, .portA, .portB, .mbx] s t ∧ t.pending = s.pending := by
  unfold execSubmitBatch
  refine effect_next ?_
  try dsimp only
  refine command_does (fun _ _ => ?_) (by decide)
  refine does_by (runBatch_does _ _ _) ?_
  exact does_refl _ _

theorem dropStuckProof_does (s : State) : Does [.step, .portA, .portB, .mbx] s (dropStuckProof s) := by
  unfold dropStuckProof
  try dsimp only
  refine does_ite ?_ ?_
  refine does_by (finishCmd_does _ _ _ _ _) ?_
  refine does_by (onStep_does _ _) ?_
  exact does_refl _ _
  exact does_refl _ _

theorem runHold_does (c : Cmd) (s : State) : Does [.frame, .step, .portA, .portB, .mbx, .dev] s (runHold c s) := by
  unfold runHold
  try dsimp only
  refine does_ite ?_ ?_
  refine does_by (Cmd_finish_does _ _ _ _) ?_
  refine does_by (onDev_does _ _) ?_
  refine does_by (onFrame_does _ _) ?_
  refine does_by (dropStuckProof_does _) ?_
  exact does_refl _ _
  refine does_by (Cmd_accept_does _ _ _ _) ?_
  exact does_refl _ _

theorem execHold_does (s : State) :
    ∃ t, execHold s = .next t ∧ Does [.frame, .step, .portA, .portB, .mbx, .dev] s t ∧ t.pending = s.pending := by
  unfold execHold
  refine effect_next ?_
  try dsimp only
  refine command_does (fun _ _ => ?_) (by decide)
  refine does_by (runHold_does _ _) ?_
  exact does_refl _ _

theorem runResume_does (c : Cmd) (s : State) : Does [.step, .portA, .portB, .dev] s (runResume c s) := by
  unfold runResume
  split
  · exact does_mono (Cmd_finish_does _ _ _ _) (by decide)
  · split
    · exact does_mono (Cmd_finish_does _ _ _ _) (by decide)
    · exact does_step (Cmd_finish_does _ _ _ _) (by decide) (does_step (onStep_does _ _) (by decide) (does_mono (clearFlags_does _) (by decide)))

theorem execResume_does (s : State) :
    ∃ t, execResume s = .next t ∧ Does [.step, .portA, .portB, .mbx, .dev] s t ∧ t.pending = s.pending := by
  unfold execResume
  refine effect_next ?_
  try dsimp only
  refine command_does (fun _ _ => ?_) (by decide)
  refine does_by (runResume_does _ _) ?_
  exact does_refl _ _

theorem runReference_does (c : Cmd) (s : State) : Does [.step, .portA, .portB] s (runReference c s) := by
  unfold runReference
  try dsimp only
  refine does_by (Cmd_finish_does _ _ _ _) ?_
  refine does_by (onStep_does _ _) ?_
  exact does_refl _ _

theorem execReferenceMode_does (s : State) :
    ∃ t, execReferenceMode s = .next t ∧ Does [.step, .portA, .portB, .mbx] s t ∧ t.pending = s.pending := by
  unfold execReferenceMode
  refine effect_next ?_
  try dsimp only
  refine command_does (fun _ _ => ?_) (by decide)
  refine checked_does (fun _ _ => ?_) (by decide)
  refine does_by (runReference_does _ _) ?_
  exact does_refl _ _

theorem runFaultRead_does (c : Cmd) (s : State) : Does [.portA, .portB] s (runFaultRead c s) := by
  unfold runFaultRead
  try dsimp only
  refine does_by (Cmd_finish_does _ _ _ _) ?_
  exact does_refl _ _

theorem execFaultRead_does (s : State) :
    ∃ t, execFaultRead s = .next t ∧ Does [.portA, .portB, .mbx] s t ∧ t.pending = s.pending := by
  unfold execFaultRead
  refine effect_next ?_
  try dsimp only
  refine command_does (fun _ _ => ?_) (by decide)
  refine does_by (runFaultRead_does _ _) ?_
  exact does_refl _ _

theorem pendCfg_does (l : Level) (n : Nat) (cfg : FCfg) (s : State) (u : Nat) : Does [.faults] s (pendCfg l n cfg s u) := by
  unfold pendCfg
  try dsimp only
  refine does_ite ?_ ?_
  exact does_refl _ _
  refine does_by (setFaultSrc_does _ _ _ _ _) ?_
  exact does_refl _ _

theorem runFaultConfig_does (c : Cmd) (s : State) : Does [.portA, .portB, .faults] s (runFaultConfig c s) := by
  unfold runFaultConfig
  try dsimp only
  refine does_by (Cmd_finish_does _ _ _ _) ?_
  refine does_foldl (fun _ _ => ?_) _ ?_
  refine does_by (pendCfg_does _ _ _ _ _) ?_
  exact does_refl _ _
  exact does_refl _ _

theorem execFaultConfig_does (s : State) :
    ∃ t, execFaultConfig s = .next t ∧ Does [.portA, .portB, .mbx, .faults] s t ∧ t.pending = s.pending := by
  unfold execFaultConfig
  refine effect_next ?_
  try dsimp only
  refine command_does (fun _ _ => ?_) (by decide)
  refine does_by (runFaultConfig_does _ _) ?_
  exact does_refl _ _

theorem runFaultForce_does (c : Cmd) (s : State) : Does [.portA, .portB, .faults] s (runFaultForce c s) := by
  unfold runFaultForce
  try dsimp only
  refine does_ite ?_ ?_
  refine does_by (Cmd_finish_does _ _ _ _) ?_
  exact does_refl _ _
  refine does_by (Cmd_finish_does _ _ _ _) ?_
  refine does_by (onFaults_does _ _) ?_
  exact does_refl _ _

theorem execFaultForce_does (s : State) :
    ∃ t, execFaultForce s = .next t ∧ Does [.portA, .portB, .mbx, .faults] s t ∧ t.pending = s.pending := by
  unfold execFaultForce
  refine effect_next ?_
  try dsimp only
  refine command_does (fun _ _ => ?_) (by decide)
  refine does_by (runFaultForce_does _ _) ?_
  exact does_refl _ _

theorem runUnfence_does (c : Cmd) (s : State) : Does [.cells, .portA, .portB] s (runUnfence c s) := by
  unfold runUnfence
  try dsimp only
  refine does_ite ?_ ?_
  refine does_by (Cmd_finish_does _ _ _ _) ?_
  refine does_by (onCells_does _ _) ?_
  exact does_refl _ _
  refine does_by (Cmd_finish_does _ _ _ _) ?_
  exact does_refl _ _

theorem execUnfence_does (s : State) :
    ∃ t, execUnfence s = .next t ∧ Does [.cells, .portA, .portB, .mbx] s t ∧ t.pending = s.pending := by
  unfold execUnfence
  refine effect_next ?_
  try dsimp only
  refine command_does (fun _ _ => ?_) (by decide)
  refine does_by (runUnfence_does _ _) ?_
  exact does_refl _ _

theorem deliver_does (op b off : Nat) (bytes : List Byte) (s : State) : Does [.mbx] s (deliver op b off bytes s) := by
  unfold deliver
  try dsimp only
  refine does_by (onMbx_does _ _ rfl) ?_
  exact does_refl _ _

theorem runEventRead_does (c : Cmd) (s : State) : Does [.portA, .portB, .mbx] s (runEventRead c s) := by
  unfold runEventRead
  try dsimp only
  refine does_ite ?_ ?_
  refine does_by (Cmd_finish_does _ _ _ _) ?_
  exact does_refl _ _
  refine does_by (deliver_does _ _ _ _ _) ?_
  refine does_by (Cmd_accept_does _ _ _ _) ?_
  exact does_refl _ _

theorem execEventRead_does (s : State) :
    ∃ t, execEventRead s = .next t ∧ Does [.portA, .portB, .mbx] s t ∧ t.pending = s.pending := by
  unfold execEventRead
  refine effect_next ?_
  try dsimp only
  refine command_does (fun _ _ => ?_) (by decide)
  refine does_by (runEventRead_does _ _) ?_
  exact does_refl _ _

theorem execLifetimeRead_does (s : State) :
    ∃ t, execLifetimeRead s = .next t ∧ Does [.portA, .portB, .mbx] s t ∧ t.pending = s.pending := by
  unfold execLifetimeRead
  refine effect_next ?_
  try dsimp only
  refine command_does (fun _ _ => ?_) (by decide)
  refine does_by (Cmd_finish_does _ _ _ _) ?_
  exact does_refl _ _

theorem execStatsRead_does (s : State) :
    ∃ t, execStatsRead s = .next t ∧ Does [.portA, .portB, .mbx] s t ∧ t.pending = s.pending := by
  unfold execStatsRead
  refine effect_next ?_
  try dsimp only
  refine command_does (fun _ _ => ?_) (by decide)
  refine checked_does (fun _ _ => ?_) (by decide)
  refine does_by (deliver_does _ _ _ _ _) ?_
  refine does_by (Cmd_accept_does _ _ _ _) ?_
  exact does_refl _ _

theorem runDelivery_does (p : PPort) (s : State) : Does [.portA, .portB, .mbx] s (runDelivery p s) := by
  unfold runDelivery
  try dsimp only
  split
  refine does_ite ?_ ?_
  exact does_refl _ _
  refine does_ite ?_ ?_
  refine does_by (finishAcc_does _ _ _ _ _) ?_
  refine does_by (hostWrite_does _ _ _ _) ?_
  refine does_by (onMbx_does _ _ rfl) ?_
  exact does_refl _ _
  refine does_by (finishAcc_does _ _ _ _ _) ?_
  refine does_by (onMbx_does _ _ rfl) ?_
  exact does_refl _ _
  exact does_refl _ _

theorem execHostBufferDeliveryDone_does (p : PPort) (s : State) :
    ∃ t, execHostBufferDeliveryDone p s = .next t ∧ Does [.portA, .portB, .mbx] s t ∧ t.pending = s.pending := by
  unfold execHostBufferDeliveryDone
  refine effect_next ?_
  try dsimp only
  refine does_onlyIf ?_ (fun _ => ?_)
  exact does_refl _ _
  refine does_by (runDelivery_does _ _) ?_
  exact does_refl _ _

theorem writeWorking_does (unit work tile : Nat) (x : WorkSet) (w : Nat → Nat → W32) (s : State) : Does [.frame, .step, .caseMem, .cells, .stats, .hbm, .portA, .portB, .mbx, .dev, .power, .faults, .fabric, .flash] s (writeWorking unit work tile x w s) := by
  unfold writeWorking
  try dsimp only
  split
  split
  refine does_by (statOwn_does _ _ _) ?_
  refine does_by (writeTile_does _ _ _ _ _ _ _) ?_
  simp only [doesMk]
  refine mk_step_does (by decide) ?_
  exact does_refl _ _
  refine does_by (statOwn_does _ _ _) ?_
  refine does_foldl (fun _ _ => ?_) _ ?_
  refine does_by (epWrite_does _ _ _) ?_
  exact does_refl _ _
  simp only [doesMk]
  refine mk_step_does (by decide) ?_
  exact does_refl _ _
  exact does_refl _ _

theorem updateTile_does (unit e : Nat) (o : OptEntry) (s : State) (tile : Nat) : Does [.frame, .step, .caseMem, .cells, .stats, .hbm, .portA, .portB, .mbx, .dev, .power, .faults, .fabric, .flash] s (updateTile unit e o s tile) := by
  unfold updateTile
  split
  · extract_lets v blocks s1 w per nr nc
    refine does_step (writeWorking_does _ _ _ _ _ _) (by decide) (does_step (statOwn_does _ _ _) (by decide) ?_)
    exact does_foldl (fun x b => does_step (hbmWrite_does _ _ _) (by decide) (does_mono (hbmWrite_does _ _ _) (by decide))) _ (does_refl _ _)
  · exact does_refl _ _

theorem requantTile_does (unit : Nat) (o : OptEntry) (s : State) (tile : Nat) : Does [.frame, .step, .caseMem, .cells, .stats, .hbm, .portA, .portB, .mbx, .dev, .power, .faults, .fabric, .flash] s (requantTile unit o s tile) := by
  unfold requantTile
  try dsimp only
  refine does_ite ?_ ?_
  exact does_refl _ _
  split
  refine does_by (writeWorking_does _ _ _ _ _ _) ?_
  exact does_refl _ _
  exact does_refl _ _

theorem updateRange_does (unit entry tileFirst tileCount : Nat) (s : State) : Does [.frame, .step, .caseMem, .cells, .stats, .hbm, .portA, .portB, .mbx, .dev, .power, .faults, .fabric, .flash] s (updateRange unit entry tileFirst tileCount s) := by
  unfold updateRange
  try dsimp only
  refine does_ite ?_ ?_
  exact does_refl _ _
  split
  exact does_refl _ _
  refine does_ite ?_ ?_
  refine does_foldl (fun _ _ => ?_) _ ?_
  refine does_by (requantTile_does _ _ _ _) ?_
  exact does_refl _ _
  exact does_refl _ _
  refine does_ite ?_ ?_
  exact does_refl _ _
  refine does_ite ?_ ?_
  refine does_foldl (fun _ _ => ?_) _ ?_
  refine does_by (updateTile_does _ _ _ _ _) ?_
  exact does_refl _ _
  exact does_refl _ _
  refine does_ite ?_ ?_
  refine does_foldl (fun _ _ => ?_) _ ?_
  refine does_by (requantTile_does _ _ _ _) ?_
  exact does_refl _ _
  exact does_refl _ _
  exact does_refl _ _

theorem execUpdate_does (unit entry tileFirst tileCount : Nat) (s : State) :
    ∃ t, execUpdate unit entry tileFirst tileCount s = .next t ∧ Does [.frame, .step, .caseMem, .cells, .stats, .hbm, .portA, .portB, .mbx, .dev, .power, .faults, .fabric, .flash] s t ∧ t.pending = s.pending := by
  unfold execUpdate
  refine effect_next ?_
  try dsimp only
  refine does_by (updateRange_does _ _ _ _ _) ?_
  exact does_refl _ _

theorem writeForecasts_does (s : State) (p : Policy) (recs : SMap StatRec) : Does [.frame, .caseMem, .cells, .hbm, .portA, .portB, .mbx, .dev, .power, .faults, .fabric, .flash] s (writeForecasts s p recs) := by
  unfold writeForecasts
  try dsimp only
  refine does_foldl (fun _ _ => ?_) _ ?_
  split
  refine does_ite ?_ ?_
  refine does_by (epWrite_does _ _ _) ?_
  exact does_refl _ _
  exact does_refl _ _
  exact does_refl _ _
  exact does_refl _ _

theorem sampleItems_does (s : State) : Does [.step] s (sampleItems s) := by
  unfold sampleItems
  try dsimp only
  split
  exact does_refl _ _
  refine does_ite ?_ ?_
  exact does_refl _ _
  refine does_by (onStep_does _ _) ?_
  exact does_refl _ _

theorem runDecision_does (lossAt : Option (Nat × Nat)) (others : List StepItems) (s : State) : Does [.frame, .step, .caseMem, .cells, .stats, .hbm, .portA, .portB, .mbx, .dev, .power, .faults, .fabric, .flash] s (runDecision lossAt others s) := by
  unfold runDecision
  try dsimp only
  split
  exact does_refl _ _
  refine does_ite ?_ ?_
  exact does_refl _ _
  simp only [doesMk]
  refine mk_step_stats_does  (by decide) ?_
  refine does_by (writeForecasts_does _ _ _) ?_
  exact does_refl _ _

theorem execDecision_does (lossAt : Option (Nat × Nat)) (others : List StepItems) (s : State) :
    ∃ t, execDecision lossAt others s = .next t ∧ Does [.frame, .step, .caseMem, .cells, .stats, .hbm, .portA, .portB, .mbx, .dev, .power, .faults, .fabric, .flash] s t ∧ t.pending = s.pending := by
  unfold execDecision
  refine effect_next ?_
  try dsimp only
  refine does_by (runDecision_does _ _ _) ?_
  exact does_refl _ _

end Sys2Proof.Machine
end

