-- ==== Sys2Proof/Laws/DoesFabric.lean ====
section
/-! SUPPORT. What each operation can do, one lemma for each (Laws/Does.lean): the fabric, the links, power and the fault rows. -/

namespace Sys2Proof.Machine
open Sys2Proof

set_option Elab.async false

theorem forwardPacket_does (kind : Nat) (h : PktHdr) (payload : List Byte) (s : State) : Does [.fabric] s (forwardPacket kind h payload s) := by
  unfold forwardPacket
  try dsimp only
  refine does_ite ?_ ?_
  exact does_refl _ _
  split
  exact does_refl _ _
  refine does_by (sendOn_does _ _ _) ?_
  exact does_refl _ _

theorem countPacket_does (h : PktHdr) (s : State) : Does [.fabric] s (countPacket h s) := by
  unfold countPacket
  try dsimp only
  split
  refine does_by (onFabric_does _ _) ?_
  exact does_refl _ _
  refine does_by (sendOn_does _ _ _) ?_
  refine does_by (onFabric_does _ _) ?_
  exact does_refl _ _

theorem noteContribution_does (h : PktHdr) (s : State) : Does [.fabric] s (noteContribution h s) := by
  unfold noteContribution
  try dsimp only
  split
  refine does_ite ?_ ?_
  refine does_by (onFabric_does _ _) ?_
  exact does_refl _ _
  exact does_refl _ _
  exact does_refl _ _

theorem drainFlits_does (port n : Nat) (s : State) : Does [.fabric] s (drainFlits port n s) := by
  unfold drainFlits
  try dsimp only
  refine does_by (sendOn_does _ _ _) ?_
  refine does_by (onClasp_does _ _ _) ?_
  exact does_refl _ _

theorem takePacket_does {m : List Comp} {port : Nat} {h : PktHdr} {payload : List Byte} {land : State → State × Bool} {s u : State}
    (hl : ∀ u, Does m u (land u).1) (hm : within [.hbm, .fabric] m = true) (hu : Does m s u) : Does m s (takePacket port h payload land u) := by
  unfold takePacket
  dsimp only
  have hs : Does m s (drainFlits port payload.length u) := does_trans hu (does_mono (does_mono (drainFlits_does _ _ _) (by decide)) hm)
  split
  · exact hs
  · split
    · rename_i t e
      exact does_trans (does_trans hs (does_of_fst e (hl _)))
        (does_mono (does_step (m := [.hbm, .fabric]) (noteContribution_does _ _) (by decide) (does_mono (countPacket_does _ _) (by decide))) hm)
    · rename_i t e
      exact does_trans hs (does_of_fst e (hl _))

theorem arrivePacket_does {m : List Comp} {port kind : Nat} {slot : Bool} {place : Endpoint} {h : PktHdr} {payload : List Byte}
    {land : State → State × Bool} {s : State} (hl : ∀ u, Does m u (land u).1) (hm : within [.hbm, .fabric] m = true) :
    Does m s (arrivePacket port kind slot place h payload land s) := by
  unfold arrivePacket
  split
  · exact does_refl _ _
  · split
    · exact does_mono (does_step (m := [.hbm, .fabric]) (forwardPacket_does _ _ _ _) (by decide) (does_mono (drainFlits_does _ _ _) (by decide))) hm
    · split
      · exact does_mono (does_mono (onHbm_does _ _ ⟨rfl, rfl⟩) (by decide)) hm
      · exact takePacket_does hl hm (does_refl _ _)

theorem inboundPages_does (a n : Nat) (s : State) : Does [.frame, .cells, .hbm, .portA, .portB, .dev, .power, .faults, .fabric, .flash] s (inboundPages a n s).1 := by
  unfold inboundPages
  try dsimp only
  refine does_fst_ite ?_ ?_
  refine does_by (countEvent_does _ _ _ _) ?_
  refine does_by (inDoubt_does _) ?_
  exact does_refl _ _
  exact does_refl _ _

theorem landRaw_does (e : Endpoint) (payload : List Byte) (s : State) : Does [.frame, .caseMem, .cells, .hbm, .portA, .portB, .dev, .power, .faults, .fabric, .flash] s (landRaw e payload s).1 := by
  unfold landRaw
  try dsimp only
  split
  split
  refine does_step_fst (inboundPages_does _ _ _) (by assumption) (by decide) ?_
  exact does_refl _ _
  refine does_by (hbmCarry_does _ _ _ _) ?_
  refine does_step_fst (inboundPages_does _ _ _) (by assumption) (by decide) ?_
  exact does_refl _ _
  refine does_fst_ite ?_ ?_
  exact does_refl _ _
  refine does_by (caseWrite_does _ _ _ _ _) ?_
  exact does_refl _ _
  exact does_refl _ _

theorem stagePoison_does (h : PktHdr) (s : State) : Does [.hbm] s (stagePoison h s) := by
  unfold stagePoison
  try dsimp only
  split
  refine does_by (onHbm_does _ _ ⟨rfl, rfl⟩) ?_
  exact does_refl _ _
  exact does_refl _ _

theorem landWrite_does (h : PktHdr) (payload : List Byte) (s : State) : Does [.frame, .caseMem, .cells, .hbm, .portA, .portB, .dev, .power, .faults, .fabric, .flash] s (landWrite h payload s).1 := by
  unfold landWrite
  try dsimp only
  refine does_fst_ite ?_ ?_
  exact does_refl _ _
  split
  refine does_by (stagePoison_does _ _) ?_
  refine does_step_fst (landRaw_does _ _ _) (by assumption) (by decide) ?_
  exact does_refl _ _
  refine does_step_fst (landRaw_does _ _ _) (by assumption) (by decide) ?_
  exact does_refl _ _

theorem execWritePacket_does (port : Nat) (h : PktHdr) (payload : List Byte) (s : State) :
    ∃ t, execWritePacket port h payload s = .next t ∧ Does [.frame, .caseMem, .cells, .hbm, .portA, .portB, .dev, .power, .faults, .fabric, .flash] s t ∧ t.pending = s.pending := by
  unfold execWritePacket
  refine effect_next ?_
  try dsimp only
  refine arrivePacket_does (fun _ => ?_) (by decide)
  refine does_by (landWrite_does _ _ _) ?_
  exact does_refl _ _

theorem landReduce_does (h : PktHdr) (payload : List Byte) (s : State) : Does [.frame, .cells, .stats, .hbm, .portA, .portB, .dev, .power, .faults, .fabric, .flash] s (landReduce h payload s).1 := by
  unfold landReduce
  try dsimp only
  split
  refine does_fst_ite ?_ ?_
  exact does_refl _ _
  split
  refine does_step_fst (inboundPages_does _ _ _) (by assumption) (by decide) ?_
  exact does_refl _ _
  refine does_fst_ite ?_ ?_
  refine does_step_fst (inboundPages_does _ _ _) (by assumption) (by decide) ?_
  exact does_refl _ _
  refine does_foldl (fun _ _ => ?_) _ ?_
  refine does_by (addBlock_does _ _ _ _ _ _ _) ?_
  exact does_refl _ _
  refine does_step_fst (inboundPages_does _ _ _) (by assumption) (by decide) ?_
  exact does_refl _ _
  exact does_refl _ _

theorem execReduceWritePacket_does (port : Nat) (h : PktHdr) (payload : List Byte) (s : State) :
    ∃ t, execReduceWritePacket port h payload s = .next t ∧ Does [.frame, .cells, .stats, .hbm, .portA, .portB, .dev, .power, .faults, .fabric, .flash] s t ∧ t.pending = s.pending := by
  unfold execReduceWritePacket
  refine effect_next ?_
  try dsimp only
  refine arrivePacket_does (fun _ => ?_) (by decide)
  refine does_by (landReduce_does _ _ _) ?_
  exact does_refl _ _

theorem landPartial_does (h : PktHdr) (payload : List Byte) (s : State) : Does [.frame, .caseMem, .cells, .stats, .hbm, .portA, .portB, .dev, .power, .faults, .fabric, .flash] s (landPartial h payload s).1 := by
  unfold landPartial
  try dsimp only
  refine does_fst_ite ?_ ?_
  exact does_refl _ _
  split
  refine does_fst_ite ?_ ?_
  refine does_ite ?_ ?_
  refine does_by (addRounded_does _ _ _ _ _) ?_
  exact does_refl _ _
  refine does_by (addLongTile_does _ _ _ _ _ _) ?_
  exact does_refl _ _
  refine does_by (landRaw_does _ _ _) ?_
  exact does_refl _ _
  refine does_by (landRaw_does _ _ _) ?_
  exact does_refl _ _

theorem execLongPartialPacket_does (port : Nat) (h : PktHdr) (payload : List Byte) (s : State) :
    ∃ t, execLongPartialPacket port h payload s = .next t ∧ Does [.frame, .caseMem, .cells, .stats, .hbm, .portA, .portB, .dev, .power, .faults, .fabric, .flash] s t ∧ t.pending = s.pending := by
  unfold execLongPartialPacket
  refine effect_next ?_
  try dsimp only
  refine arrivePacket_does (fun _ => ?_) (by decide)
  refine does_by (landPartial_does _ _ _) ?_
  exact does_refl _ _

theorem execCredit_does (port freed : Nat) (s : State) :
    ∃ t, execCredit port freed s = .next t ∧ Does [.fabric] s t ∧ t.pending = s.pending := by
  unfold execCredit
  refine effect_next ?_
  try dsimp only
  refine does_onlyIf ?_ (fun _ => ?_)
  exact does_refl _ _
  refine does_by (drainPort_does _ _) ?_
  refine does_by (onClasp_does _ _ _) ?_
  exact does_refl _ _

theorem runDeliveryCredit_does (port dst src : Nat) (frame : W32) (packets : Nat) (s : State) : Does [.fabric] s (runDeliveryCredit port dst src frame packets s) := by
  unfold runDeliveryCredit
  try dsimp only
  refine does_ite ?_ ?_
  exact does_refl _ _
  refine does_ite ?_ ?_
  refine does_ite ?_ ?_
  refine does_by (onFabric_does _ _) ?_
  exact does_refl _ _
  exact does_refl _ _
  split
  exact does_refl _ _
  refine does_by (sendOn_does _ _ _) ?_
  exact does_refl _ _

theorem execDeliveryCredit_does (port dst src : Nat) (frame : W32) (packets : Nat) (s : State) :
    ∃ t, execDeliveryCredit port dst src frame packets s = .next t ∧ Does [.fabric] s t ∧ t.pending = s.pending := by
  unfold execDeliveryCredit
  refine effect_next ?_
  try dsimp only
  refine does_by (runDeliveryCredit_does _ _ _ _ _ _) ?_
  exact does_refl _ _

theorem runMarker_does (port : Nat) (domainTick : W64) (offsetPs : Int) (s : State) : Does [.tick] s (runMarker port domainTick offsetPs s) := by
  unfold runMarker
  try dsimp only
  refine does_ite ?_ ?_
  exact does_refl _ _
  refine does_by (onTick_does _ _) ?_
  exact does_refl _ _

theorem execTickMarker_does (port _sender : Nat) (domainTick : W64) (offsetPs : Int) (s : State) :
    ∃ t, execTickMarker port _sender domainTick offsetPs s = .next t ∧ Does [.tick] s t ∧ t.pending = s.pending := by
  unfold execTickMarker
  refine effect_next ?_
  try dsimp only
  refine does_by (runMarker_does _ _ _ _) ?_
  exact does_refl _ _

theorem lateArrival_does (h : HoldRec) (s : State) : Does [.frame, .cells, .hbm, .portA, .portB, .dev, .power, .faults, .fabric, .flash, .life] s (lateArrival h s) := by
  unfold lateArrival
  try dsimp only
  refine does_ite ?_ ?_
  exact does_refl _ _
  refine does_ite ?_ ?_
  refine does_by (onDev_does _ _) ?_
  refine does_by (countEvent_does _ _ _ _) ?_
  refine does_by (onDev_does _ _) ?_
  exact does_refl _ _
  refine does_onlyIf ?_ (fun _ => ?_)
  refine does_by (countEvent_does _ _ _ _) ?_
  refine does_by (onDev_does _ _) ?_
  exact does_refl _ _
  refine does_by (setState_does _ _) ?_
  refine does_by (onFrame_does _ _) ?_
  exact does_refl _ _

theorem runHoldPacket_does (port hops : Nat) (h : HoldRec) (s : State) : Does [.frame, .cells, .hbm, .portA, .portB, .dev, .power, .faults, .fabric, .flash, .life] s (runHoldPacket port hops h s) := by
  unfold runHoldPacket
  try dsimp only
  refine does_ite ?_ ?_
  exact does_refl _ _
  refine does_ite ?_ ?_
  refine does_ite ?_ ?_
  refine does_by (floodHold_does _ _ _ _) ?_
  refine does_by (onFrame_does _ _) ?_
  exact does_refl _ _
  exact does_refl _ _
  refine does_ite ?_ ?_
  refine does_ite ?_ ?_
  refine does_ite ?_ ?_
  refine does_by (floodHold_does _ _ _ _) ?_
  refine does_by (onFrame_does _ _) ?_
  exact does_refl _ _
  exact does_refl _ _
  refine does_by (onFrame_does _ _) ?_
  refine does_ite ?_ ?_
  refine does_by (floodHold_does _ _ _ _) ?_
  refine does_by (onFrame_does _ _) ?_
  exact does_refl _ _
  exact does_refl _ _
  refine does_by (lateArrival_does _ _) ?_
  refine does_ite ?_ ?_
  refine does_by (floodHold_does _ _ _ _) ?_
  refine does_by (onFrame_does _ _) ?_
  exact does_refl _ _
  exact does_refl _ _

theorem execHoldPacket_does (port hops origin : Nat) (late : Bool) (frame : W64) (s : State) :
    ∃ t, execHoldPacket port hops origin late frame s = .next t ∧ Does [.frame, .cells, .hbm, .portA, .portB, .dev, .power, .faults, .fabric, .flash, .life] s t ∧ t.pending = s.pending := by
  unfold execHoldPacket
  refine effect_next ?_
  try dsimp only
  refine does_by (runHoldPacket_does _ _ _ _) ?_
  exact does_refl _ _

theorem takeAck_does (p : Nat) (ack : W16) (s : State) : Does [.fabric] s (takeAck p ack s) := by
  unfold takeAck
  try dsimp only
  refine does_by (drainPort_does _ _) ?_
  refine does_by (onClasp_does _ _ _) ?_
  exact does_refl _ _

theorem takeNak_does (p : Nat) (s : State) : Does [.frame, .cells, .hbm, .portA, .portB, .dev, .power, .faults, .fabric, .flash] s (takeNak p s) := by
  unfold takeNak
  try dsimp only
  refine does_ite ?_ ?_
  refine does_by (countEvent_does _ _ _ _) ?_
  refine does_by (onClasp_does _ _ _) ?_
  exact does_refl _ _
  refine does_ite ?_ ?_
  refine does_by (linkFalls_does _ _) ?_
  refine does_by (countEvent_does _ _ _ _) ?_
  refine does_by (onClasp_does _ _ _) ?_
  exact does_refl _ _
  refine does_by (replayFlits_does _ _) ?_
  refine does_by (onClasp_does _ _ _) ?_
  refine does_by (countEvent_does _ _ _ _) ?_
  refine does_by (onClasp_does _ _ _) ?_
  exact does_refl _ _

theorem dropFlit_does (p : Nat) (s : State) : Does [.fabric] s (dropFlit p s) := by
  unfold dropFlit
  try dsimp only
  refine does_by (emit_does _ _) ?_
  refine does_by (emitFlits_does _ _ _) ?_
  exact does_refl _ _

theorem takeFlit_does (p kind : Nat) (flit : List Byte) (s : State) : Does [.fabric] s (takeFlit p kind flit s) := by
  unfold takeFlit
  try dsimp only
  refine does_by (onClasp_does _ _ _) ?_
  exact does_refl _ _

theorem countFec_does (p : Nat) (word : Option FecWord) (s : State) : Does [.fabric] s (countFec p word s) := by
  unfold countFec
  try dsimp only
  split
  exact does_refl _ _
  refine does_by (onClasp_does _ _ _) ?_
  exact does_refl _ _

theorem runFlit_does (p : Nat) (flit : List Byte) (bad : Bool) (word : Option FecWord) (s : State) : Does [.frame, .cells, .hbm, .portA, .portB, .dev, .power, .faults, .fabric, .flash] s (runFlit p flit bad word s) := by
  unfold runFlit
  split
  · exact does_refl _ _
  · extract_lets s1
    have h1 : Does [.frame, .cells, .hbm, .portA, .portB, .dev, .power, .faults, .fabric, .flash] s s1 := does_mono (countFec_does _ _ _) (by decide)
    split
    · exact does_step (dropFlit_does _ _) (by decide) h1
    · rename_i kind s2 s3 _
      have h2 : Does [.frame, .cells, .hbm, .portA, .portB, .dev, .power, .faults, .fabric, .flash] s s2 := does_step (takeAck_does _ _ _) (by decide) h1
      have h3 : Does [.frame, .cells, .hbm, .portA, .portB, .dev, .power, .faults, .fabric, .flash] s s3 := does_ite (does_step (takeNak_does _ _) (by decide) h2) h2
      exact does_ite h3 (does_ite (does_step (takeFlit_does _ _ _ _) (by decide) h3) h3)

theorem execFlitReceived_does (port : Nat) (flit : List Byte) (fecBad : Bool) (fecWord : Option FecWord) (s : State) :
    ∃ t, execFlitReceived port flit fecBad fecWord s = .next t ∧ Does [.frame, .cells, .hbm, .portA, .portB, .dev, .power, .faults, .fabric, .flash] s t ∧ t.pending = s.pending := by
  unfold execFlitReceived
  refine effect_next ?_
  try dsimp only
  refine does_by (runFlit_does _ _ _ _ _) ?_
  exact does_refl _ _

theorem execLaneLoss_does (port lane : Nat) (s : State) :
    ∃ t, execLaneLoss port lane s = .next t ∧ Does [.frame, .cells, .hbm, .portA, .portB, .dev, .power, .faults, .fabric, .flash] s t ∧ t.pending = s.pending := by
  unfold execLaneLoss
  refine effect_next ?_
  try dsimp only
  refine does_by (loseLane_does _ _ _) ?_
  exact does_refl _ _

theorem execLinkDown_does (port : Nat) (s : State) :
    ∃ t, execLinkDown port s = .next t ∧ Does [.fabric] s t ∧ t.pending = s.pending := by
  unfold execLinkDown
  refine effect_next ?_
  try dsimp only
  refine does_onlyIf ?_ (fun _ => ?_)
  exact does_refl _ _
  refine does_by (linkFalls_does _ _) ?_
  exact does_refl _ _

theorem noteMargin_does (p : Nat) (m : Byte) (s : State) : Does [.life] s (noteMargin p m s) := by
  unfold noteMargin
  try dsimp only
  refine does_by (onLife_does _ _) ?_
  exact does_refl _ _

theorem runTrained_does (p : Nat) (r : TrainReport) (s : State) : Does [.fabric, .life] s (runTrained p r s) := by
  unfold runTrained
  try dsimp only
  refine does_ite ?_ ?_
  exact does_refl _ _
  refine does_ite ?_ ?_
  refine does_by (onClasp_does _ _ _) ?_
  exact does_refl _ _
  refine does_ite ?_ ?_
  refine does_by (onClasp_does _ _ _) ?_
  exact does_refl _ _
  refine does_by (noteMargin_does _ _ _) ?_
  refine does_by (onClasp_does _ _ _) ?_
  exact does_refl _ _

theorem execLinkTrainingDone_does (port : Nat) (r : TrainReport) (s : State) :
    ∃ t, execLinkTrainingDone port r s = .next t ∧ Does [.fabric, .life] s t ∧ t.pending = s.pending := by
  unfold execLinkTrainingDone
  refine effect_next ?_
  try dsimp only
  refine does_by (runTrained_does _ _ _) ?_
  exact does_refl _ _

theorem runRetry_does (p : Nat) (s : State) : Does [.fabric] s (runRetry p s) := by
  unfold runRetry
  try dsimp only
  refine does_ite ?_ ?_
  refine does_by (beginTraining_does _ _) ?_
  refine does_by (onClasp_does _ _ _) ?_
  exact does_refl _ _
  exact does_refl _ _

theorem execLinkRetry_does (port : Nat) (s : State) :
    ∃ t, execLinkRetry port s = .next t ∧ Does [.fabric] s t ∧ t.pending = s.pending := by
  unfold execLinkRetry
  refine effect_next ?_
  try dsimp only
  refine does_by (runRetry_does _ _) ?_
  exact does_refl _ _

theorem runPortControl_does (c : Cmd) (s : State) : Does [.frame, .cells, .hbm, .portA, .portB, .dev, .power, .faults, .fabric, .flash] s (runPortControl c s) := by
  unfold runPortControl
  extract_lets p s1
  refine does_step (Cmd_finish_does _ _ _ _) (by decide) ?_
  dsimp only [s1]
  split
  · exact does_mono (onClasp_does _ _ _) (by decide)
  · exact does_ite (does_refl _ _) (does_mono (trainPort_does _ _) (by decide))
  · exact does_mono (trainPort_does _ _) (by decide)
  · exact does_foldl (fun x l => does_mono (loseLane_does _ _ _) (by decide)) _ (does_refl _ _)

theorem execPortControl_does (s : State) :
    ∃ t, execPortControl s = .next t ∧ Does [.frame, .cells, .hbm, .portA, .portB, .mbx, .dev, .power, .faults, .fabric, .flash] s t ∧ t.pending = s.pending := by
  unfold execPortControl
  refine effect_next ?_
  try dsimp only
  refine command_does (fun _ _ => ?_) (by decide)
  refine does_by (runPortControl_does _ _) ?_
  exact does_refl _ _

theorem stopArrays_does (s : State) : Does [.frame, .cells, .power] s (stopArrays s) := by
  unfold stopArrays
  try dsimp only
  refine does_by (onFrame_does _ _) ?_
  refine does_by (onCells_does _ _) ?_
  refine does_by (onPower_does _ _) ?_
  exact does_refl _ _

theorem emergencyStop_does (s : State) : Does [.frame, .cells, .power, .fabric] s (emergencyStop s) := by
  unfold emergencyStop
  try dsimp only
  refine does_by (inDoubt_does _) ?_
  refine does_by (stopArrays_does _) ?_
  exact does_refl _ _

theorem declare_does (sp : Nat) (rise : Int) (s : State) : Does [.frame, .cells, .hbm, .portA, .portB, .dev, .power, .faults, .fabric, .flash, .life] s (declare sp rise s) := by
  unfold declare
  try dsimp only
  refine does_onlyIf ?_ (fun _ => ?_)
  refine does_by (emergencyStop_does _) ?_
  refine does_by (onPower_does _ _) ?_
  exact does_refl _ _
  refine does_by (countEvent_does _ _ _ _) ?_
  refine does_by (onLife_does _ _) ?_
  refine does_by (recordEvent_does _ _ _) ?_
  exact does_refl _ _

theorem detectRise_does (s : State) : Does [.frame, .cells, .hbm, .portA, .portB, .dev, .power, .faults, .fabric, .flash, .life] s (detectRise s) := by
  unfold detectRise
  try dsimp only
  refine does_ite ?_ ?_
  refine does_by (onPower_does _ _) ?_
  exact does_refl _ _
  split
  refine does_by (declare_does _ _ _) ?_
  refine does_by (onPower_does _ _) ?_
  exact does_refl _ _
  refine does_by (onPower_does _ _) ?_
  exact does_refl _ _

theorem noteApart_does (s : State) : Does [.power] s (noteApart s) := by
  unfold noteApart
  try dsimp only
  refine does_by (onPower_does _ _) ?_
  exact does_refl _ _

theorem senseStep_does (x : CtlSample) (s : State) : Does [.frame, .cells, .hbm, .portA, .portB, .dev, .power, .faults, .fabric, .flash, .life] s (senseStep x s) := by
  unfold senseStep
  extract_lets s1 s2 tj hot
  refine does_step (onLife_does _ _) (by decide) (does_step (onPower_does _ _) (by decide) ?_)
  refine does_step (noteApart_does _) (by decide) (does_step (detectRise_does _) (by decide) ?_)
  exact does_mono (onPower_does _ _) (by decide)

theorem writeCeiling_does (x : CtlSample) (s1 : State) : Does [.env, .power] s1 (writeCeiling x s1) := by
  unfold writeCeiling
  try dsimp only
  refine does_by (onPower_does _ _) ?_
  refine does_by (onPower_does _ _) ?_
  refine does_by (onEnv_does _ _) ?_
  exact does_refl _ _

theorem failAvs_does (l : List Nat) (s : State) : Does [.frame, .cells, .hbm, .portA, .portB, .dev, .power, .faults, .fabric, .flash] s (failAvs l s) := by
  unfold failAvs
  try dsimp only
  refine does_foldl (fun _ _ => ?_) _ ?_
  refine does_by (countEvent_does _ _ _ _) ?_
  exact does_refl _ _
  refine does_by (onPower_does _ _) ?_
  exact does_refl _ _

theorem controlStep_does (x : CtlSample) (s : State) : Does [.frame, .cells, .hbm, .portA, .portB, .dev, .env, .power, .faults, .fabric, .flash, .life] s (controlStep x s) := by
  unfold controlStep
  extract_lets writes s1
  have h0 : Does [.frame, .cells, .hbm, .portA, .portB, .dev, .env, .power, .faults, .fabric, .flash, .life] s (senseStep x s) := does_mono (senseStep_does _ _) (by decide)
  have h1 : Does [.frame, .cells, .hbm, .portA, .portB, .dev, .env, .power, .faults, .fabric, .flash, .life] s s1 := by
    dsimp only [s1]
    unfold onlyIf
    exact does_ite (does_step (failAvs_does _ _) (by decide) h0) h0
  exact does_step (onPower_does _ _) (by decide) (does_ite (does_step (writeCeiling_does _ _) (by decide) h1) h1)

theorem execControlStep_does (x : CtlSample) (s : State) :
    ∃ t, execControlStep x s = .next t ∧ Does [.frame, .cells, .hbm, .portA, .portB, .dev, .env, .power, .faults, .fabric, .flash, .life] s t ∧ t.pending = s.pending := by
  unfold execControlStep
  refine effect_next ?_
  try dsimp only
  refine does_onlyIf ?_ (fun _ => ?_)
  exact does_refl _ _
  refine does_by (controlStep_does _ _) ?_
  exact does_refl _ _

theorem endEmergency_does (s : State) : Does [.power] s (endEmergency s) := by
  unfold endEmergency
  try dsimp only
  refine does_ite ?_ ?_
  refine does_by (onPower_does _ _) ?_
  exact does_refl _ _
  exact does_refl _ _

theorem execThermalEmergencyEnd_does (s : State) :
    ∃ t, execThermalEmergencyEnd s = .next t ∧ Does [.power] s t ∧ t.pending = s.pending := by
  unfold execThermalEmergencyEnd
  refine effect_next ?_
  try dsimp only
  refine does_onlyIf ?_ (fun _ => ?_)
  exact does_refl _ _
  refine does_by (endEmergency_does _) ?_
  exact does_refl _ _

theorem pointDecision_does (s : State) : Does [.power] s (pointDecision s) := by
  unfold pointDecision
  try dsimp only
  refine does_by (onPower_does _ _) ?_
  exact does_refl _ _

theorem execPointDecision_does (s : State) :
    ∃ t, execPointDecision s = .next t ∧ Does [.power] s t ∧ t.pending = s.pending := by
  unfold execPointDecision
  refine effect_next ?_
  try dsimp only
  refine does_onlyIf ?_ (fun _ => ?_)
  exact does_refl _ _
  refine does_by (pointDecision_does _) ?_
  exact does_refl _ _

theorem endSlew_does (s : State) : Does [.power] s (endSlew s) := by
  unfold endSlew
  try dsimp only
  refine does_by (onPower_does _ _) ?_
  exact does_refl _ _

theorem execVoltageSlewEnd_does (s : State) :
    ∃ t, execVoltageSlewEnd s = .next t ∧ Does [.power] s t ∧ t.pending = s.pending := by
  unfold execVoltageSlewEnd
  refine effect_next ?_
  try dsimp only
  refine does_onlyIf ?_ (fun _ => ?_)
  exact does_refl _ _
  refine does_by (endSlew_does _) ?_
  exact does_refl _ _

theorem readRails_does (x : Telemetry) (s : State) : Does [.frame, .cells, .hbm, .portA, .portB, .dev, .power, .faults, .fabric, .flash] s (readRails x s) := by
  unfold readRails
  try dsimp only
  refine does_foldl (fun _ _ => ?_) _ ?_
  refine does_by (countEvent_does _ _ _ _) ?_
  exact does_refl _ _
  refine does_by (onPower_does _ _) ?_
  exact does_refl _ _

theorem readStatus_does (x : Telemetry) (s : State) : Does [.frame, .cells, .hbm, .portA, .portB, .dev, .power, .faults, .fabric, .flash] s (readStatus x s) := by
  unfold readStatus
  try dsimp only
  refine does_foldl (fun _ _ => ?_) _ ?_
  refine does_ite ?_ ?_
  exact does_refl _ _
  refine does_by (countEvent_does _ _ _ _) ?_
  refine does_by (emergencyStop_does _) ?_
  refine does_by (onPower_does _ _) ?_
  exact does_refl _ _
  refine does_by (onPower_does _ _) ?_
  exact does_refl _ _

theorem powerSample_does (x : Telemetry) (s : State) : Does [.frame, .cells, .hbm, .portA, .portB, .dev, .power, .faults, .fabric, .flash, .life] s (powerSample x s) := by
  unfold powerSample
  try dsimp only
  refine does_by (readStatus_does _ _) ?_
  refine does_by (onLife_does _ _) ?_
  refine does_by (onPower_does _ _) ?_
  refine does_by (readRails_does _ _) ?_
  exact does_refl _ _

theorem execPowerSample_does (x : Telemetry) (s : State) :
    ∃ t, execPowerSample x s = .next t ∧ Does [.frame, .cells, .hbm, .portA, .portB, .dev, .power, .faults, .fabric, .flash, .life] s t ∧ t.pending = s.pending := by
  unfold execPowerSample
  refine effect_next ?_
  try dsimp only
  refine does_onlyIf ?_ (fun _ => ?_)
  exact does_refl _ _
  refine does_by (powerSample_does _ _) ?_
  exact does_refl _ _

theorem endRegFault_does (reg : Nat) (s : State) : Does [.power] s (endRegFault reg s) := by
  unfold endRegFault
  try dsimp only
  refine does_ite ?_ ?_
  refine does_ite ?_ ?_
  refine does_by (onPower_does _ _) ?_
  refine does_by (onPower_does _ _) ?_
  exact does_refl _ _
  refine does_by (onPower_does _ _) ?_
  exact does_refl _ _
  exact does_refl _ _

theorem execRegulatorFaultEnd_does (reg : Nat) (s : State) :
    ∃ t, execRegulatorFaultEnd reg s = .next t ∧ Does [.power] s t ∧ t.pending = s.pending := by
  unfold execRegulatorFaultEnd
  refine effect_next ?_
  try dsimp only
  refine does_onlyIf ?_ (fun _ => ?_)
  exact does_refl _ _
  refine does_by (endRegFault_does _ _) ?_
  exact does_refl _ _

theorem divergence_does (s : State) : Does [.frame, .cells, .hbm, .portA, .portB, .dev, .power, .faults, .fabric, .flash] s (divergence s) := by
  unfold divergence
  try dsimp only
  refine does_ite ?_ ?_
  refine does_by (countEvent_does _ _ _ _) ?_
  refine does_by (onPower_does _ _) ?_
  exact does_refl _ _
  exact does_refl _ _

theorem execDivergenceFallback_does (s : State) :
    ∃ t, execDivergenceFallback s = .next t ∧ Does [.frame, .cells, .hbm, .portA, .portB, .dev, .power, .faults, .fabric, .flash] s t ∧ t.pending = s.pending := by
  unfold execDivergenceFallback
  refine effect_next ?_
  try dsimp only
  refine does_onlyIf ?_ (fun _ => ?_)
  exact does_refl _ _
  refine does_by (divergence_does _) ?_
  exact does_refl _ _

theorem divergenceEnd_does (s : State) : Does [.power] s (divergenceEnd s) := by
  unfold divergenceEnd
  try dsimp only
  refine does_ite ?_ ?_
  refine does_by (onPower_does _ _) ?_
  exact does_refl _ _
  exact does_refl _ _

theorem execDivergenceFallbackEnd_does (s : State) :
    ∃ t, execDivergenceFallbackEnd s = .next t ∧ Does [.power] s t ∧ t.pending = s.pending := by
  unfold execDivergenceFallbackEnd
  refine effect_next ?_
  try dsimp only
  refine does_onlyIf ?_ (fun _ => ?_)
  exact does_refl _ _
  refine does_by (divergenceEnd_does _) ?_
  exact does_refl _ _

theorem guardEnd_does (s : State) : Does [.power] s (guardEnd s) := by
  unfold guardEnd
  try dsimp only
  refine does_by (onPower_does _ _) ?_
  exact does_refl _ _

theorem execGuardBandEnd_does (s : State) :
    ∃ t, execGuardBandEnd s = .next t ∧ Does [.power] s t ∧ t.pending = s.pending := by
  unfold execGuardBandEnd
  refine effect_next ?_
  try dsimp only
  refine does_onlyIf ?_ (fun _ => ?_)
  exact does_refl _ _
  refine does_by (guardEnd_does _) ?_
  exact does_refl _ _

theorem openWindow_does (s : State) : Does [.power] s (openWindow s) := by
  unfold openWindow
  try dsimp only
  refine does_by (onPower_does _ _) ?_
  exact does_refl _ _

theorem closeWindow_does (s : State) : Does [.env, .power, .flash] s (closeWindow s) := by
  unfold closeWindow
  try dsimp only
  refine does_by (openWindow_does _) ?_
  refine does_by (onEnv_does _ _) ?_
  refine does_ite ?_ ?_
  refine does_by (recordEvent_does _ _ _) ?_
  exact does_refl _ _
  exact does_refl _ _

theorem averagingEnd_does (s : State) : Does [.env, .power, .flash] s (averagingEnd s) := by
  unfold averagingEnd
  try dsimp only
  refine does_ite ?_ ?_
  refine does_by (closeWindow_does _) ?_
  exact does_refl _ _
  exact does_refl _ _

theorem execAveragingWindowEnd_does (s : State) :
    ∃ t, execAveragingWindowEnd s = .next t ∧ Does [.env, .power, .flash] s t ∧ t.pending = s.pending := by
  unfold execAveragingWindowEnd
  refine effect_next ?_
  try dsimp only
  refine does_onlyIf ?_ (fun _ => ?_)
  exact does_refl _ _
  refine does_by (averagingEnd_does _) ?_
  exact does_refl _ _

theorem openSteady_does (s : State) : Does [.power] s (openSteady s) := by
  unfold openSteady
  try dsimp only
  refine does_by (onPower_does _ _) ?_
  exact does_refl _ _

theorem steadySample_does (s : State) : Does [.power] s (steadySample s) := by
  unfold steadySample
  try dsimp only
  refine does_ite ?_ ?_
  refine does_by (onPower_does _ _) ?_
  exact does_refl _ _
  exact does_refl _ _

theorem steadyEnd_does (s : State) : Does [.power] s (steadyEnd s) := by
  unfold steadyEnd
  try dsimp only
  refine does_ite ?_ ?_
  refine does_by (openSteady_does _) ?_
  refine does_by (steadySample_does _) ?_
  exact does_refl _ _
  exact does_refl _ _

theorem execSteadyWindowEnd_does (s : State) :
    ∃ t, execSteadyWindowEnd s = .next t ∧ Does [.power] s t ∧ t.pending = s.pending := by
  unfold execSteadyWindowEnd
  refine effect_next ?_
  try dsimp only
  refine does_onlyIf ?_ (fun _ => ?_)
  exact does_refl _ _
  refine does_by (steadyEnd_does _) ?_
  exact does_refl _ _

theorem sensorEvent_does (region spot : Nat) (s : State) : Does [.frame, .cells, .hbm, .portA, .portB, .dev, .power, .faults, .fabric, .flash] s (sensorEvent region spot s) := by
  unfold sensorEvent
  try dsimp only
  refine does_by (countEvent_does _ _ _ _) ?_
  exact does_refl _ _

theorem loseSensor_does (region spot which : Nat) (s : State) : Does [.frame, .cells, .hbm, .portA, .portB, .dev, .power, .faults, .fabric, .flash] s (loseSensor region spot which s) := by
  unfold loseSensor
  try dsimp only
  refine does_ite ?_ ?_
  refine does_by (sensorEvent_does _ _ _) ?_
  refine does_by (onPower_does _ _) ?_
  exact does_refl _ _
  exact does_refl _ _

theorem execSensorLost_does (region spot which : Nat) (s : State) :
    ∃ t, execSensorLost region spot which s = .next t ∧ Does [.frame, .cells, .hbm, .portA, .portB, .dev, .power, .faults, .fabric, .flash] s t ∧ t.pending = s.pending := by
  unfold execSensorLost
  refine effect_next ?_
  try dsimp only
  refine does_onlyIf ?_ (fun _ => ?_)
  exact does_refl _ _
  refine does_by (loseSensor_does _ _ _ _) ?_
  exact does_refl _ _

theorem restoreSensor_does (region spot which : Nat) (s : State) : Does [.power] s (restoreSensor region spot which s) := by
  unfold restoreSensor
  try dsimp only
  refine does_ite ?_ ?_
  refine does_by (onPower_does _ _) ?_
  exact does_refl _ _
  exact does_refl _ _

theorem execSensorRestored_does (region spot which : Nat) (s : State) :
    ∃ t, execSensorRestored region spot which s = .next t ∧ Does [.power] s t ∧ t.pending = s.pending := by
  unfold execSensorRestored
  refine effect_next ?_
  try dsimp only
  refine does_onlyIf ?_ (fun _ => ?_)
  exact does_refl _ _
  refine does_by (restoreSensor_does _ _ _ _) ?_
  exact does_refl _ _

theorem sensorApart_does (region spot : Nat) (s : State) : Does [.frame, .cells, .hbm, .portA, .portB, .dev, .power, .faults, .fabric, .flash] s (sensorApart region spot s) := by
  unfold sensorApart
  try dsimp only
  refine does_ite ?_ ?_
  refine does_by (sensorEvent_does _ _ _) ?_
  refine does_by (onPower_does _ _) ?_
  exact does_refl _ _
  exact does_refl _ _

theorem execSensorDisagreement_does (region spot : Nat) (s : State) :
    ∃ t, execSensorDisagreement region spot s = .next t ∧ Does [.frame, .cells, .hbm, .portA, .portB, .dev, .power, .faults, .fabric, .flash] s t ∧ t.pending = s.pending := by
  unfold execSensorDisagreement
  refine effect_next ?_
  try dsimp only
  refine does_onlyIf ?_ (fun _ => ?_)
  exact does_refl _ _
  refine does_by (sensorApart_does _ _ _) ?_
  exact does_refl _ _

theorem firmwareAbsent_does (s : State) : Does [.power] s (firmwareAbsent s) := by
  unfold firmwareAbsent
  try dsimp only
  refine does_ite ?_ ?_
  refine does_by (onPower_does _ _) ?_
  exact does_refl _ _
  refine does_ite ?_ ?_
  refine does_by (onPower_does _ _) ?_
  exact does_refl _ _
  exact does_refl _ _

theorem execFirmwareAbsentFallback_does (s : State) :
    ∃ t, execFirmwareAbsentFallback s = .next t ∧ Does [.power] s t ∧ t.pending = s.pending := by
  unfold execFirmwareAbsentFallback
  refine effect_next ?_
  try dsimp only
  refine does_onlyIf ?_ (fun _ => ?_)
  exact does_refl _ _
  refine does_by (firmwareAbsent_does _) ?_
  exact does_refl _ _

theorem thermalTrip_does (s : State) : Does [.frame, .cells, .hbm, .portA, .portB, .dev, .power, .pins, .fabric, .flash, .life] s (thermalTrip s) := by
  unfold thermalTrip
  try dsimp only
  refine does_by (setState_does _ _) ?_
  refine does_by (onHbm_does _ _ ⟨rfl, rfl⟩) ?_
  refine does_foldl (fun _ _ => ?_) _ ?_
  refine does_by (onClasp_does _ _ _) ?_
  exact does_refl _ _
  refine does_by (onPins_does _ _) ?_
  refine does_by (stopArrays_does _) ?_
  refine does_by (sendHold_does _ _) ?_
  exact does_refl _ _

theorem execThermalTrip_does (_region _spot : Nat) (s : State) :
    ∃ t, execThermalTrip _region _spot s = .next t ∧ Does [.frame, .cells, .hbm, .portA, .portB, .dev, .power, .pins, .fabric, .flash, .life] s t ∧ t.pending = s.pending := by
  unfold execThermalTrip
  refine effect_next ?_
  try dsimp only
  refine does_onlyIf ?_ (fun _ => ?_)
  exact does_refl _ _
  refine does_by (thermalTrip_does _) ?_
  exact does_refl _ _

theorem droopTrip_does (block : Nat) (s : State) : Does [.frame, .cells, .hbm, .portA, .portB, .dev, .power, .faults, .fabric, .flash] s (droopTrip block s) := by
  unfold droopTrip
  try dsimp only
  refine does_onlyIf ?_ (fun _ => ?_)
  refine does_by (onPower_does _ _) ?_
  exact does_refl _ _
  refine does_by (countEvent_does _ _ _ _) ?_
  exact does_refl _ _

theorem execDroopTrip_does (block : Nat) (s : State) :
    ∃ t, execDroopTrip block s = .next t ∧ Does [.frame, .cells, .hbm, .portA, .portB, .dev, .power, .faults, .fabric, .flash] s t ∧ t.pending = s.pending := by
  unfold execDroopTrip
  refine effect_next ?_
  try dsimp only
  refine does_onlyIf ?_ (fun _ => ?_)
  exact does_refl _ _
  refine does_by (droopTrip_does _ _) ?_
  exact does_refl _ _

theorem droopRestore_does (block : Nat) (s : State) : Does [.power] s (droopRestore block s) := by
  unfold droopRestore
  try dsimp only
  refine does_by (onPower_does _ _) ?_
  exact does_refl _ _

theorem execDroopRestoreStep_does (block : Nat) (s : State) :
    ∃ t, execDroopRestoreStep block s = .next t ∧ Does [.power] s t ∧ t.pending = s.pending := by
  unfold execDroopRestoreStep
  refine effect_next ?_
  try dsimp only
  refine does_onlyIf ?_ (fun _ => ?_)
  exact does_refl _ _
  refine does_by (droopRestore_does _ _) ?_
  exact does_refl _ _

theorem rampBudget_does (s : State) : Does [.env] s (rampBudget s) := by
  unfold rampBudget
  try dsimp only
  refine does_by (onEnv_does _ _) ?_
  exact does_refl _ _

theorem applyCoolant_does (s : State) : Does [.env, .power] s (applyCoolant s) := by
  unfold applyCoolant
  try dsimp only
  refine does_by (onPower_does _ _) ?_
  refine does_by (onEnv_does _ _) ?_
  refine does_ite ?_ ?_
  refine does_by (onPower_does _ _) ?_
  exact does_refl _ _
  exact does_refl _ _

theorem takePoint_does (s : State) : Does [.power, .clocks] s (takePoint s) := by
  unfold takePoint
  try dsimp only
  refine does_by (onClocks_does _ _) ?_
  refine does_by (onPower_does _ _) ?_
  exact does_refl _ _

theorem operatingLimit_does (s : State) : Does [.power] s (operatingLimit s) := by
  unfold operatingLimit
  try dsimp only
  refine does_by (onPower_does _ _) ?_
  exact does_refl _ _

theorem hardwareTick_does (s : State) : Does [.power, .clocks] s (hardwareTick s) := by
  unfold hardwareTick
  try dsimp only
  refine does_ite ?_ ?_
  refine does_by (onPower_does _ _) ?_
  refine does_by (takePoint_does _) ?_
  refine does_by (onPower_does _ _) ?_
  exact does_refl _ _
  refine does_by (onPower_does _ _) ?_
  exact does_refl _ _

theorem powerTick_does (s : State) : Does [.env, .power, .clocks] s (powerTick s) := by
  unfold powerTick
  extract_lets f s1 s2 s3
  have h1 : Does [.env, .power, .clocks] s s1 := does_mono (onPower_does _ _) (by decide)
  have h2 : Does [.env, .power, .clocks] s s2 := does_step (takePoint_does _) (by decide) (does_step (applyCoolant_does _) (by decide)
    (does_step (rampBudget_does _) (by decide) (does_ite (does_step (openWindow_does _) (by decide) h1) h1)))
  exact does_step (operatingLimit_does _) (by decide) (does_ite (does_step (onPower_does _ _) (by decide) h2) h2)

theorem logAer_does (level : Level) (source : Nat) (s : State) : Does [.portA, .portB] s (logAer level source s) := by
  unfold logAer
  try dsimp only
  refine does_ite ?_ ?_
  exact does_refl _ _
  refine does_ite ?_ ?_
  refine does_by (onPort_does _ _ _) ?_
  exact does_refl _ _
  refine does_ite ?_ ?_
  refine does_by (onPort_does _ _ _) ?_
  exact does_refl _ _
  exact does_refl _ _

theorem execFaultEvent_does (level : Level) (unit source : Nat) (early : Bool) (s : State) :
    ∃ t, execFaultEvent level unit source early s = .next t ∧ Does [.frame, .cells, .hbm, .portA, .portB, .dev, .power, .faults, .fabric, .flash] s t ∧ t.pending = s.pending := by
  unfold execFaultEvent
  refine effect_next ?_
  try dsimp only
  refine does_onlyIf ?_ (fun _ => ?_)
  refine does_by (logAer_does _ _ _) ?_
  exact does_refl _ _
  refine does_by (countEventWith_does _ _ _ _ _ _ _) ?_
  exact does_refl _ _

theorem clearOldWindow_does (l : Level) (unit source : Nat) (s : State) : Does [.faults] s (clearOldWindow l unit source s) := by
  unfold clearOldWindow
  try dsimp only
  refine does_ite ?_ ?_
  refine does_by (setFaultSrc_does _ _ _ _ _) ?_
  exact does_refl _ _
  exact does_refl _ _

theorem startWindow_does (l : Level) (unit source : Nat) (s : State) : Does [.faults] s (startWindow l unit source s) := by
  unfold startWindow
  try dsimp only
  refine does_by (installCfg_does _ _ _ _) ?_
  refine does_by (clearOldWindow_does _ _ _ _) ?_
  exact does_refl _ _

theorem execFaultWindowStart_does (level : Level) (unit source : Nat) (s : State) :
    ∃ t, execFaultWindowStart level unit source s = .next t ∧ Does [.faults] s t ∧ t.pending = s.pending := by
  unfold execFaultWindowStart
  refine effect_next ?_
  try dsimp only
  refine does_onlyIf ?_ (fun _ => ?_)
  exact does_refl _ _
  refine does_by (startWindow_does _ _ _ _) ?_
  exact does_refl _ _

theorem writeContents_does (cs : List CaseRec) (s : State) : Does [.caseMem] s (writeContents cs s) :=
  onCase_keeps _ _ (fun h => ⟨wf_foldl (fun _ _ h => wf_writeN h) cs h.mem, h.staged, h.inbound, h.own, h.host⟩)

end Sys2Proof.Machine
end

