-- ==== Sys2Proof/Laws/DoesHost.lean ====
section
/-! SUPPORT. What each operation can do, one lemma for each (Laws/Does.lean): loading, firmware, the recorder, resets, identity, snapshots and spares. -/

namespace Sys2Proof.Machine
open Sys2Proof

set_option Elab.async false

theorem mapSystem_does (stack n : Nat) (s : State) : Does [.hbm] s (mapSystem stack n s) := by
  unfold mapSystem
  try dsimp only
  refine does_foldl (fun _ _ => ?_) _ ?_
  refine does_by (mapPage_does _ _ _) ?_
  exact does_refl _ _
  refine does_by (onHbm_does _ _ ⟨rfl, rfl⟩) ?_
  exact does_refl _ _

theorem withImage_does (i : Image) (s : State) : Does [.frame, .step, .image, .caseMem, .stats] s (withImage i s) := by
  unfold withImage
  try dsimp only
  refine does_by (writeContents_does _ _) ?_
  simp only [doesMk]
  refine mk_image_step_frame_stats_does  (by decide) ?_
  exact does_refl _ _

theorem mapPlan_does (L : Load) (s : State) : Does [.hbm] s (mapPlan L s) := by
  unfold mapPlan
  try dsimp only
  refine does_foldl (fun _ _ => ?_) _ ?_
  refine does_by (mapPage_does _ _ _) ?_
  exact does_refl _ _
  refine does_foldl (fun _ _ => ?_) _ ?_
  refine does_foldl (fun _ _ => ?_) _ ?_
  refine does_by (mapPage_does _ _ _) ?_
  exact does_refl _ _
  exact does_refl _ _
  exact does_refl _ _

theorem fillMirrors_does (cell : Nat) (s : State) : Does [.hbm] s (fillMirrors cell s) := by
  unfold fillMirrors
  try dsimp only
  refine does_foldl (fun _ _ => ?_) _ ?_
  split
  refine does_by (hbmPut_does _ _ _) ?_
  exact does_refl _ _
  exact does_refl _ _
  exact does_refl _ _

theorem mapCell_does (L : Load) (s : State) (c : Nat) : Does [.cells, .hbm] s (mapCell L s c) := by
  unfold mapCell
  try dsimp only
  refine does_ite ?_ ?_
  exact does_refl _ _
  refine does_by (hbmPut_does _ _ _) ?_
  refine does_by (fillMirrors_does _ _) ?_
  refine does_by (onCells_does _ _) ?_
  refine does_by (mapSystem_does _ _ _) ?_
  exact does_refl _ _

theorem mapCarry_does (L : Load) (cells : List Nat) (s : State) : Does [.cells, .hbm] s (mapCarry L cells s) := by
  unfold mapCarry
  try dsimp only
  refine does_foldl (fun _ _ => ?_) _ ?_
  refine does_by (mapCell_does _ _ _) ?_
  exact does_refl _ _
  exact does_refl _ _

theorem fillForecasts_does (L : Load) (s : State) : Does [.hbm] s (fillForecasts L s) := by
  unfold fillForecasts
  try dsimp only
  refine does_foldl (fun _ _ => ?_) _ ?_
  split
  refine does_by (hbmPut_does _ _ _) ?_
  exact does_refl _ _
  exact does_refl _ _
  exact does_refl _ _

theorem mapImage_does (L : Load) : Does [.cells, .hbm] L.t (mapImage L) :=
  does_step (fillForecasts_does _ _) (by decide) (does_step (mapCarry_does _ _ _) (by decide) (does_mono (mapPlan_does _ _) (by decide)))

theorem assayImage_does (digest : List Byte) (s : State) : Does [.ident] s (assayImage digest s) := by
  unfold assayImage
  try dsimp only
  refine does_by (onIdent_does _ _) ?_
  exact does_refl _ _

theorem runLoadDone_does (s : State) : Does [.frame, .step, .image, .caseMem, .cells, .stats, .hbm, .portA, .portB, .mbx, .dev, .ident, .flash, .life] s (runLoadDone s) := by
  unfold runLoadDone
  split
  · exact does_refl _ _
  · extract_lets s0
    have h0 : Does [.frame, .step, .image, .caseMem, .cells, .stats, .hbm, .portA, .portB, .mbx, .dev, .ident, .flash, .life] s s0 := does_mono (onImage_does _ _) (by decide)
    split
    · exact does_step (finishCmd_does _ _ _ _ _) (by decide) h0
    · split
      · exact does_step (finishCmd_does _ _ _ _ _) (by decide) h0
      · rename_i p _
        extract_lets L M
        split
        · exact does_step (finishCmd_does _ _ _ _ _) (by decide) h0
        · refine does_step (finishCmd_does _ _ _ _ _) (by decide) (does_step (setState_does _ _) (by decide) (does_step (assayImage_does _ _) (by decide) ?_))
          exact does_step (mapImage_does L) (by decide) (does_step (u := s0) (withImage_does _ _) (by decide) h0)

theorem execImageLoadDone_does (s : State) :
    ∃ t, execImageLoadDone s = .next t ∧ Does [.frame, .step, .image, .caseMem, .cells, .stats, .hbm, .portA, .portB, .mbx, .dev, .ident, .flash, .life] s t ∧ t.pending = s.pending := by
  unfold execImageLoadDone
  refine effect_next ?_
  try dsimp only
  refine does_onlyIf ?_ (fun _ => ?_)
  exact does_refl _ _
  refine does_by (runLoadDone_does _) ?_
  exact does_refl _ _

theorem gotRoutes_does (b : List Byte) (s : State) : Does [.portA, .portB, .mbx, .fabric] s (gotRoutes b s) := by
  unfold gotRoutes
  try dsimp only
  refine does_ite ?_ ?_
  refine does_by (onFabric_does _ _) ?_
  exact does_refl _ _
  refine does_by (finishCmd_does _ _ _ _ _) ?_
  exact does_refl _ _

theorem gotGroups_does (b : List Byte) (s : State) : Does [.portA, .portB, .mbx, .fabric] s (gotGroups b s) := by
  unfold gotGroups
  try dsimp only
  refine does_ite ?_ ?_
  refine does_by (finishCmd_does _ _ _ _ _) ?_
  exact does_refl _ _
  split
  refine does_ite ?_ ?_
  refine does_by (finishCmd_does _ _ _ _ _) ?_
  exact does_refl _ _
  refine does_ite ?_ ?_
  refine does_by (finishCmd_does _ _ _ _ _) ?_
  exact does_refl _ _
  refine does_by (onFabric_does _ _) ?_
  exact does_refl _ _
  refine does_by (onFabric_does _ _) ?_
  exact does_refl _ _

theorem startRead_does {m : List Comp} {op : Nat} {got : List Byte → State → State} {data : List Byte} {c : Cmd} {s u : State}
    (h : ∀ b u, Does m u (got b u)) (hm : within [.portA, .portB, .mbx] m = true) (hu : Does m s u) : Does m s (startRead op got data c u) := by
  unfold startRead
  dsimp only
  split
  · exact does_trans (does_trans hu (does_mono (Cmd_accept_does _ _ _ _) hm)) (h _ _)
  · exact does_trans hu (does_mono (does_step (onMbx_does _ _ rfl) (by decide) (Cmd_accept_does _ _ _ _)) hm)

theorem execLoadRoutes_does (data : List Byte) (s : State) :
    ∃ t, execLoadRoutes data s = .next t ∧ Does [.portA, .portB, .mbx, .fabric] s t ∧ t.pending = s.pending := by
  unfold execLoadRoutes
  refine effect_next ?_
  try dsimp only
  refine command_does (fun _ _ => ?_) (by decide)
  refine startRead_does (fun _ _ => ?_) (by decide) ?_
  refine does_by (gotRoutes_does _ _) ?_
  exact does_refl _ _
  exact does_refl _ _

theorem execLoadGroups_does (data : List Byte) (s : State) :
    ∃ t, execLoadGroups data s = .next t ∧ Does [.portA, .portB, .mbx, .fabric] s t ∧ t.pending = s.pending := by
  unfold execLoadGroups
  refine effect_next ?_
  try dsimp only
  refine command_does (fun _ _ => ?_) (by decide)
  refine startRead_does (fun _ _ => ?_) (by decide) ?_
  refine does_by (gotGroups_does _ _) ?_
  exact does_refl _ _
  exact does_refl _ _

theorem gotImage_does (b : List Byte) (s : State) : Does [.image] s (gotImage b s) := by
  unfold gotImage
  try dsimp only
  refine does_by (onImage_does _ _) ?_
  exact does_refl _ _

theorem execLoadImposition_does (data : List Byte) (s : State) :
    ∃ t, execLoadImposition data s = .next t ∧ Does [.image, .portA, .portB, .mbx] s t ∧ t.pending = s.pending := by
  unfold execLoadImposition
  refine effect_next ?_
  try dsimp only
  refine command_does (fun _ _ => ?_) (by decide)
  refine startRead_does (fun _ _ => ?_) (by decide) ?_
  refine does_by (gotImage_does _ _) ?_
  exact does_refl _ _
  exact does_refl _ _

theorem execUnload_does (s : State) :
    ∃ t, execUnload s = .next t ∧ Does [.portA, .portB, .mbx] s t ∧ t.pending = s.pending := by
  unfold execUnload
  refine effect_next ?_
  try dsimp only
  refine command_does (fun _ _ => ?_) (by decide)
  refine does_by (Cmd_accept_does _ _ _ _) ?_
  exact does_refl _ _

theorem discardImage_does (s : State) : Does [.frame, .step, .image, .caseMem, .cells, .stats, .hbm, .portA, .portB, .dev, .fabric, .snap, .flash, .life] s (discardImage s) := by
  unfold discardImage
  extract_lets s0 s1
  have h0 : Does [.frame, .step, .image, .caseMem, .cells, .stats, .hbm, .portA, .portB, .dev, .fabric, .snap, .flash, .life] s s0 := does_foldl (fun x b => does_mono (batchRecord_does _ _ _ x) (by decide)) _ (does_refl _ _)
  have h : Does [.frame, .step, .image, .caseMem, .cells, .stats, .hbm, .portA, .portB, .dev, .fabric, .snap, .flash, .life] s s1 := does_foldl (fun x r => does_mono (repairRow_does _ _ x) (by decide)) _ h0
  exact does_trans h ⟨fun k => by cases k <;> first | exact .inr rfl | exact .inl (by decide), fun ⟨a, _, c⟩ => ⟨⟨a.mem, rise_nil, rise_nil, rise_nil, rise_nil⟩, ⟨wf_nil, rise_nil⟩, c⟩⟩

theorem runUnloadDone_does (s : State) : Does [.frame, .step, .image, .caseMem, .cells, .stats, .hbm, .portA, .portB, .mbx, .dev, .fabric, .snap, .flash, .life] s (runUnloadDone s) := by
  unfold runUnloadDone
  try dsimp only
  refine does_ite ?_ ?_
  refine does_by (finishCmd_does _ _ _ _ _) ?_
  refine does_by (setState_does _ _) ?_
  refine does_by (discardImage_does _) ?_
  exact does_refl _ _
  exact does_refl _ _

theorem execUnloadDone_does (s : State) :
    ∃ t, execUnloadDone s = .next t ∧ Does [.frame, .step, .image, .caseMem, .cells, .stats, .hbm, .portA, .portB, .mbx, .dev, .fabric, .snap, .flash, .life] s t ∧ t.pending = s.pending := by
  unfold execUnloadDone
  refine effect_next ?_
  try dsimp only
  refine does_onlyIf ?_ (fun _ => ?_)
  exact does_refl _ _
  refine does_by (runUnloadDone_does _) ?_
  exact does_refl _ _

theorem gotFirmware_does (b : List Byte) (s : State) : Does [.flash, .staging] s (gotFirmware b s) := by
  unfold gotFirmware
  try dsimp only
  refine does_by (onStaging_does _ _) ?_
  refine does_by (onFlash_does _ _) ?_
  exact does_refl _ _

theorem markStaging_does (s : State) : Does [.flash] s (markStaging s) := by
  unfold markStaging
  try dsimp only
  refine does_by (onFlash_does _ _) ?_
  exact does_refl _ _

theorem execFirmwareStage_does (data : FwBytes) (s : State) :
    ∃ t, execFirmwareStage data s = .next t ∧ Does [.portA, .portB, .mbx, .flash, .staging] s t ∧ t.pending = s.pending := by
  unfold execFirmwareStage
  refine effect_next ?_
  try dsimp only
  refine command_does (fun _ _ => ?_) (by decide)
  refine startRead_does (fun _ _ => ?_) (by decide) ?_
  refine does_by (gotFirmware_does _ _) ?_
  exact does_refl _ _
  refine does_by (markStaging_does _) ?_
  refine does_by (onStaging_does _ _) ?_
  exact does_refl _ _

theorem runStageDone_does (s : State) : Does [.frame, .cells, .hbm, .portA, .portB, .mbx, .dev, .power, .faults, .fabric, .flash, .staging] s (runStageDone s) := by
  unfold runStageDone
  try dsimp only
  split
  exact does_refl _ _
  refine does_by (finishCmd_does _ _ _ _ _) ?_
  refine does_by (onStaging_does _ _) ?_
  refine does_by (onFlash_does _ _) ?_
  refine does_foldl (fun _ _ => ?_) _ ?_
  refine does_by (countEvent_does _ _ _ _) ?_
  exact does_refl _ _
  exact does_refl _ _

theorem execFirmwareStageDone_does (s : State) :
    ∃ t, execFirmwareStageDone s = .next t ∧ Does [.frame, .cells, .hbm, .portA, .portB, .mbx, .dev, .power, .faults, .fabric, .flash, .staging] s t ∧ t.pending = s.pending := by
  unfold execFirmwareStageDone
  refine effect_next ?_
  try dsimp only
  refine does_onlyIf ?_ (fun _ => ?_)
  exact does_refl _ _
  refine does_by (runStageDone_does _) ?_
  exact does_refl _ _

theorem runActivate_does (c : Cmd) (s : State) : Does [.portA, .portB, .mbx, .dev, .flash] s (runActivate c s) := by
  unfold runActivate
  try dsimp only
  refine does_ite ?_ ?_
  refine does_by (Cmd_finish_does _ _ _ _) ?_
  exact does_refl _ _
  refine does_ite ?_ ?_
  refine does_by (finishAndReset_does _ _) ?_
  refine does_by (onFlash_does _ _) ?_
  exact does_refl _ _
  refine does_by (Cmd_finish_does _ _ _ _) ?_
  refine does_by (onFlash_does _ _) ?_
  exact does_refl _ _

theorem execFirmwareActivate_does (s : State) :
    ∃ t, execFirmwareActivate s = .next t ∧ Does [.portA, .portB, .mbx, .dev, .flash] s t ∧ t.pending = s.pending := by
  unfold execFirmwareActivate
  refine effect_next ?_
  try dsimp only
  refine command_does (fun _ _ => ?_) (by decide)
  refine does_by (runActivate_does _ _) ?_
  exact does_refl _ _

theorem execLoupe_does (s : State) :
    ∃ t, execLoupe s = .next t ∧ Does [.portA, .portB, .mbx] s t ∧ t.pending = s.pending := by
  unfold execLoupe
  refine effect_next ?_
  try dsimp only
  refine command_does (fun _ _ => ?_) (by decide)
  refine checked_does (fun _ _ => ?_) (by decide)
  refine does_by (Cmd_accept_does _ _ _ _) ?_
  exact does_refl _ _

theorem outState_does {l m : List Comp} {s : State} {o : Out} (h : ∃ t, o = .next t ∧ Does l s t ∧ t.pending = s.pending) (hl : within l m = true) :
    Does m s (outState s o) := by
  obtain ⟨t, rfl, ht, _⟩ := h
  exact does_mono ht hl

theorem runBezel_does (iss : Issuer) (op : Nat) (d : BezelDesc) (s : State) : Does [.frame, .step, .caseMem, .cells, .stats, .hbm, .portA, .portB, .mbx, .dev, .power, .faults, .fabric, .flash] s (runBezel iss op d s) := by
  unfold runBezel
  split
  · exact outState_does (execCopy_does _ _ _) (by decide)
  · exact outState_does (execReblock_does _ _ _) (by decide)
  · exact outState_does (execTranspose_does _ _ _) (by decide)
  · exact outState_does (execQuantize_does _ _ _) (by decide)
  · exact outState_does (execDequantize_does _ _ _) (by decide)
  · exact outState_does (execMxImport_does _ _ _) (by decide)
  · exact outState_does (execMxExport_does _ _ _) (by decide)
  · exact outState_does (execReduceInit_does _ _ _) (by decide)
  · exact outState_does (execReduceAdd_does _ _ _) (by decide)
  · exact outState_does (execReduceClose_does _ _ _) (by decide)
  · exact does_refl _ _

theorem runItem_does (cell : Nat) (it : Item) (s : State) : Does [.frame, .step, .caseMem, .cells, .stats, .hbm, .portA, .portB, .mbx, .dev, .power, .faults, .fabric, .flash, .freeIdx] s (runItem cell it s) := by
  unfold runItem
  try dsimp only
  split
  refine does_by (runPassAt_does _ _ _ _ _) ?_
  refine does_by (beginItem_does _ _ _) ?_
  exact does_refl _ _
  refine does_by (runDrain_does _ _ _) ?_
  refine does_by (beginItem_does _ _ _) ?_
  exact does_refl _ _
  refine does_by (runVectorItem_does _ _ _) ?_
  refine does_by (beginItem_does _ _ _) ?_
  exact does_refl _ _
  refine does_by (runBezel_does _ _ _ _) ?_
  refine does_by (beginItem_does _ _ _) ?_
  exact does_refl _ _
  refine does_by (runTransfer_does _ _ _) ?_
  refine does_by (beginItem_does _ _ _) ?_
  exact does_refl _ _

theorem runLoupeDone_does (s : State) : Does [.portA, .portB, .mbx, .freeIdx] s (runLoupeDone s) := by
  unfold runLoupeDone
  try dsimp only
  split
  exact does_refl _ _
  refine does_ite ?_ ?_
  exact does_refl _ _
  refine does_ite ?_ ?_
  refine does_by (finishAcc_does _ _ _ _ _) ?_
  refine does_by (hostWrite_does _ _ _ _) ?_
  simp only [doesMk]
  refine mk_freeIdx_does (by decide) ?_
  exact does_refl _ _
  refine does_by (finishAcc_does _ _ _ _ _) ?_
  exact does_refl _ _

theorem execLoupeRunDone_does (s : State) :
    ∃ t, execLoupeRunDone s = .next t ∧ Does [.portA, .portB, .mbx, .freeIdx] s t ∧ t.pending = s.pending := by
  unfold execLoupeRunDone
  refine effect_next ?_
  try dsimp only
  refine does_onlyIf ?_ (fun _ => ?_)
  exact does_refl _ _
  refine does_by (runLoupeDone_does _) ?_
  exact does_refl _ _

theorem gotBytes_does (op : Nat) (b : List Byte) (s : State) : Does [.image, .portA, .portB, .mbx, .fabric, .flash, .staging] s (gotBytes op b s) := by
  unfold gotBytes
  try dsimp only
  split
  refine does_by (gotRoutes_does _ _) ?_
  exact does_refl _ _
  refine does_by (gotGroups_does _ _) ?_
  exact does_refl _ _
  refine does_by (gotImage_does _ _) ?_
  exact does_refl _ _
  refine does_by (gotFirmware_does _ _) ?_
  exact does_refl _ _
  exact does_refl _ _

theorem runResumeTransfer_does (b : Nat) (s : State) : Does [.image, .portA, .portB, .mbx, .fabric, .flash, .staging] s (runResumeTransfer b s) := by
  unfold runResumeTransfer
  try dsimp only
  split
  exact does_refl _ _
  refine does_ite ?_ ?_
  exact does_refl _ _
  split
  refine does_by (onMbx_does _ _ rfl) ?_
  exact does_refl _ _
  refine does_ite ?_ ?_
  refine does_by (gotBytes_does _ _ _) ?_
  refine does_by (onMbx_does _ _ rfl) ?_
  exact does_refl _ _
  refine does_by (finishAcc_does _ _ _ _ _) ?_
  refine does_by (onMbx_does _ _ rfl) ?_
  exact does_refl _ _

theorem execHostTransferResume_does (binding : Nat) (s : State) :
    ∃ t, execHostTransferResume binding s = .next t ∧ Does [.image, .portA, .portB, .mbx, .fabric, .flash, .staging] s t ∧ t.pending = s.pending := by
  unfold execHostTransferResume
  refine effect_next ?_
  try dsimp only
  refine does_onlyIf ?_ (fun _ => ?_)
  exact does_refl _ _
  refine does_by (runResumeTransfer_does _ _) ?_
  exact does_refl _ _

theorem reportLost_does (s : State) : Does [.flash] s (reportLost s) := by
  unfold reportLost
  try dsimp only
  refine does_ite ?_ ?_
  refine does_by (recordEvent_does _ _ _) ?_
  refine does_by (onFlash_does _ _) ?_
  exact does_refl _ _
  exact does_refl _ _

theorem writeCorr_does (s : State) : Does [.flash] s (writeCorr s) := by
  unfold writeCorr
  try dsimp only
  split
  exact does_refl _ _
  refine does_by (onFlash_does _ _) ?_
  exact does_refl _ _

theorem writeEvent_does (s : State) : Does [.flash] s (writeEvent s) := by
  unfold writeEvent
  try dsimp only
  split
  exact does_refl _ _
  refine does_by (reportLost_does _) ?_
  refine does_by (onFlash_does _ _) ?_
  exact does_refl _ _

theorem execEventRecordWrite_does (s : State) :
    ∃ t, execEventRecordWrite s = .next t ∧ Does [.flash] s t ∧ t.pending = s.pending := by
  unfold execEventRecordWrite
  refine effect_next ?_
  try dsimp only
  refine does_onlyIf ?_ (fun _ => ?_)
  exact does_refl _ _
  refine does_by (writeEvent_does _) ?_
  refine does_by (writeCorr_does _) ?_
  exact does_refl _ _

theorem writeLifetime_does (s : State) : Does [.flash, .life] s (writeLifetime s) := by
  unfold writeLifetime
  try dsimp only
  refine does_by (onFlash_does _ _) ?_
  simp only [doesMk]
  refine mk_life_does (by decide) ?_
  exact does_refl _ _

theorem execLifetimeWrite_does (s : State) :
    ∃ t, execLifetimeWrite s = .next t ∧ Does [.flash, .life] s t ∧ t.pending = s.pending := by
  unfold execLifetimeWrite
  refine effect_next ?_
  try dsimp only
  refine does_onlyIf ?_ (fun _ => ?_)
  exact does_refl _ _
  refine does_by (writeLifetime_does _) ?_
  exact does_refl _ _

theorem setHeld_does (n : Nat) (g : Option GenHdr) (s : State) : Does [.snap] s (setHeld n g s) := by
  unfold setHeld
  try dsimp only
  refine does_by (onSnap_does _ _) ?_
  exact does_refl _ _

theorem runPartners_does (c : Cmd) (s : State) : Does [.portA, .portB, .snap] s (runPartners c s) := by
  unfold runPartners
  try dsimp only
  refine does_ite ?_ ?_
  refine does_by (Cmd_finish_does _ _ _ _) ?_
  exact does_refl _ _
  refine does_by (Cmd_finish_does _ _ _ _) ?_
  refine does_by (onSnap_does _ _) ?_
  exact does_refl _ _

theorem execSetPartners_does (s : State) :
    ∃ t, execSetPartners s = .next t ∧ Does [.portA, .portB, .mbx, .snap] s t ∧ t.pending = s.pending := by
  unfold execSetPartners
  refine effect_next ?_
  try dsimp only
  refine command_does (fun _ _ => ?_) (by decide)
  refine does_by (runPartners_does _ _) ?_
  exact does_refl _ _

theorem runSnapshot_does (c : Cmd) (s : State) : Does [.portA, .portB, .mbx, .snap] s (runSnapshot c s) := by
  unfold runSnapshot
  try dsimp only
  refine does_ite ?_ ?_
  refine does_by (Cmd_finish_does _ _ _ _) ?_
  exact does_refl _ _
  refine does_ite ?_ ?_
  refine does_by (Cmd_finish_does _ _ _ _) ?_
  exact does_refl _ _
  refine does_ite ?_ ?_
  refine does_by (Cmd_finish_does _ _ _ _) ?_
  exact does_refl _ _
  refine does_by (Cmd_accept_does _ _ _ _) ?_
  refine does_by (onSnap_does _ _) ?_
  exact does_refl _ _

theorem execSnapshot_does (s : State) :
    ∃ t, execSnapshot s = .next t ∧ Does [.portA, .portB, .mbx, .snap] s t ∧ t.pending = s.pending := by
  unfold execSnapshot
  refine effect_next ?_
  try dsimp only
  refine command_does (fun _ _ => ?_) (by decide)
  refine checked_does (fun _ _ => ?_) (by decide)
  refine does_by (runSnapshot_does _ _) ?_
  exact does_refl _ _

theorem sendPiece_does (p : SlotPiece) (s : State) : Does [.fabric] s (sendPiece p s) := by
  unfold sendPiece
  try dsimp only
  refine does_foldl (fun _ _ => ?_) _ ?_
  refine does_by (sendData_does _ _ _ _) ?_
  exact does_refl _ _
  exact does_refl _ _

theorem sendPieces_does (ps : List SlotPiece) (s : State) : Does [.fabric] s (sendPieces ps s) := by
  unfold sendPieces
  try dsimp only
  refine does_by (flushSends_does _) ?_
  refine does_foldl (fun _ _ => ?_) _ ?_
  refine does_by (sendPiece_does _ _) ?_
  exact does_refl _ _
  exact does_refl _ _

theorem onRun_does (f : SnapRun → SnapRun) (s : State) : Does [.snap] s (onRun f s) := by
  unfold onRun
  try dsimp only
  refine does_by (onSnap_does _ _) ?_
  exact does_refl _ _

theorem runPieces_does (ps : List SlotPiece) (s : State) : Does [.fabric, .snap] s (runPieces ps s) := by
  unfold runPieces
  try dsimp only
  refine does_ite ?_ ?_
  refine does_by (sendPieces_does _ _) ?_
  refine does_by (onRun_does _ _) ?_
  exact does_refl _ _
  refine does_by (onRun_does _ _) ?_
  exact does_refl _ _

theorem runStop_does (s : State) : Does [.portA, .portB, .dev, .fabric, .snap, .flash, .life] s (runStop s) := by
  unfold runStop
  try dsimp only
  split
  refine does_ite ?_ ?_
  exact does_refl _ _
  refine does_by (runPieces_does _ _) ?_
  refine does_by (setState_does _ _) ?_
  refine does_by (onDev_does _ _) ?_
  refine does_by (onSnap_does _ _) ?_
  exact does_refl _ _
  exact does_refl _ _

theorem execSnapshotStop_does (s : State) :
    ∃ t, execSnapshotStop s = .next t ∧ Does [.portA, .portB, .dev, .fabric, .snap, .flash, .life] s t ∧ t.pending = s.pending := by
  unfold execSnapshotStop
  refine effect_next ?_
  try dsimp only
  refine does_onlyIf ?_ (fun _ => ?_)
  exact does_refl _ _
  refine does_by (runStop_does _) ?_
  exact does_refl _ _

theorem onServe_does (requester : Nat) (f : ServeRun → ServeRun) (s : State) : Does [.snap] s (onServe requester f s) := by
  unfold onServe
  try dsimp only
  refine does_by (onSnap_does _ _) ?_
  exact does_refl _ _

theorem servePieces_does (requester : Nat) (ps : List SlotPiece) (s : State) : Does [.fabric, .snap] s (servePieces requester ps s) := by
  unfold servePieces
  try dsimp only
  refine does_ite ?_ ?_
  refine does_by (sendPieces_does _ _) ?_
  refine does_by (onServe_does _ _ _) ?_
  exact does_refl _ _
  refine does_by (onServe_does _ _ _) ?_
  exact does_refl _ _

theorem serveCopy_does (unit off len : Nat) (v : Option ServeRun) (s : State) : Does [.fabric, .snap] s (serveCopy unit off len v s) := by
  unfold serveCopy
  try dsimp only
  split
  exact does_refl _ _
  split
  refine does_by (servePieces_does _ _ _) ?_
  exact does_refl _ _
  exact does_refl _ _

theorem runSnapCopy_does (unit off len : Nat) (s : State) : Does [.fabric, .snap] s (runSnapCopy unit off len s) := by
  unfold runSnapCopy
  try dsimp only
  refine does_ite ?_ ?_
  exact does_refl _ _
  split
  refine does_ite ?_ ?_
  refine does_by (runPieces_does _ _) ?_
  exact does_refl _ _
  refine does_by (serveCopy_does _ _ _ _ _) ?_
  exact does_refl _ _
  refine does_by (serveCopy_does _ _ _ _ _) ?_
  exact does_refl _ _

theorem execSnapshotCopy_does (unit offset length : Nat) (s : State) :
    ∃ t, execSnapshotCopy unit offset length s = .next t ∧ Does [.fabric, .snap] s t ∧ t.pending = s.pending := by
  unfold execSnapshotCopy
  refine effect_next ?_
  try dsimp only
  refine does_onlyIf ?_ (fun _ => ?_)
  exact does_refl _ _
  refine does_by (runSnapCopy_does _ _ _ _) ?_
  exact does_refl _ _

theorem runStopEnd_does (s : State) : Does [.fabric, .snap] s (runStopEnd s) := by
  unfold runStopEnd
  try dsimp only
  split
  refine does_ite ?_ ?_
  exact does_refl _ _
  refine does_by (runPieces_does _ _) ?_
  refine does_by (onRun_does _ _) ?_
  exact does_refl _ _
  exact does_refl _ _

theorem execSnapshotStopEnd_does (s : State) :
    ∃ t, execSnapshotStopEnd s = .next t ∧ Does [.fabric, .snap] s t ∧ t.pending = s.pending := by
  unfold execSnapshotStopEnd
  refine effect_next ?_
  try dsimp only
  refine does_onlyIf ?_ (fun _ => ?_)
  exact does_refl _ _
  refine does_by (runStopEnd_does _) ?_
  exact does_refl _ _

theorem leaveStop_does (s : State) : Does [.portA, .portB, .dev, .flash, .life] s (leaveStop s) := by
  unfold leaveStop
  try dsimp only
  split
  refine does_by (setState_does _ _) ?_
  refine does_by (onDev_does _ _) ?_
  exact does_refl _ _
  exact does_refl _ _

theorem runAbort_does (s : State) : Does [.portA, .portB, .mbx, .dev, .snap, .flash, .life] s (runAbort s) := by
  unfold runAbort
  try dsimp only
  split
  refine does_ite ?_ ?_
  refine does_by (finishCmd_does _ _ _ _ _) ?_
  refine does_by (leaveStop_does _) ?_
  refine does_by (onSnap_does _ _) ?_
  exact does_refl _ _
  exact does_refl _ _
  exact does_refl _ _

theorem execSnapshotAbort_does (s : State) :
    ∃ t, execSnapshotAbort s = .next t ∧ Does [.portA, .portB, .mbx, .dev, .snap, .flash, .life] s t ∧ t.pending = s.pending := by
  unfold execSnapshotAbort
  refine effect_next ?_
  try dsimp only
  refine does_onlyIf ?_ (fun _ => ?_)
  exact does_refl _ _
  refine does_by (runAbort_does _) ?_
  exact does_refl _ _

theorem runProofRecord_does (acked : Bool) (s : State) : Does [.fabric, .snap] s (runProofRecord acked s) := by
  unfold runProofRecord
  try dsimp only
  split
  exact does_refl _ _
  refine does_by (onSnap_does _ _) ?_
  refine does_by (sendPieces_does _ _) ?_
  exact does_refl _ _

theorem execProofRecordWrite_does (acked : Bool) (s : State) :
    ∃ t, execProofRecordWrite acked s = .next t ∧ Does [.fabric, .snap] s t ∧ t.pending = s.pending := by
  unfold execProofRecordWrite
  refine effect_next ?_
  try dsimp only
  refine does_onlyIf ?_ (fun _ => ?_)
  exact does_refl _ _
  refine does_by (runProofRecord_does _ _) ?_
  exact does_refl _ _

theorem putInPlace_does (a : Nat) (bytes : List Byte) (s : State) : Does [.hbm] s (putInPlace a bytes s) := by
  unfold putInPlace
  try dsimp only
  refine does_by (onHbm_does _ _ ⟨rfl, rfl⟩) ?_
  refine does_by (hbmPut_does _ _ _) ?_
  exact does_refl _ _

theorem putParts_does (place : Nat → Nat) (off : Nat) (bytes : List Byte) (s : State) : Does [.hbm] s (putParts place off bytes s) := by
  unfold putParts
  try dsimp only
  refine does_foldl (fun _ _ => ?_) _ ?_
  refine does_by (putInPlace_does _ _ _) ?_
  exact does_refl _ _
  exact does_refl _ _

theorem putSlot_does (base off : Nat) (bytes : List Byte) (s : State) : Does [.hbm] s (putSlot base off bytes s) := by
  unfold putSlot
  try dsimp only
  refine does_by (putParts_does _ _ _ _) ?_
  exact does_refl _ _

theorem takeHeader_does (src n base : Nat) (s : State) : Does [.snap] s (takeHeader src n base s) := by
  unfold takeHeader
  split
  · exact does_refl _ _
  · exact does_mono (setHeld_does _ _ _) (by decide)

theorem listSlot_does (base off : Nat) (listed : List Nat) (s : State) : Does [.step, .hbm, .dev, .snap] s (listSlot base off listed s) := by
  unfold listSlot
  try dsimp only
  refine does_foldl (fun _ _ => ?_) _ ?_
  refine does_by (enterPoison_does _ _ _) ?_
  exact does_refl _ _
  exact does_refl _ _

theorem landSnapshot_does (src off : Nat) (listed : List Nat) (payload : List Byte) (s : State) :
    Does [.step, .hbm, .dev, .snap] s (landSnapshot src off listed payload s).1 := by
  unfold landSnapshot
  extract_lets isHdr slot
  clear_value slot
  split
  · exact does_refl _ _
  · split
    · exact does_refl _ _
    · refine does_fst_ite (does_refl _ _) ?_
      have h : ∀ b, Does [.step, .hbm, .dev, .snap] s (listSlot b off listed (putSlot b off payload s)) := fun b =>
        does_step (listSlot_does _ _ _ _) (by decide) (does_mono (putSlot_does _ _ _ _) (by decide))
      exact does_ite (does_step (takeHeader_does _ _ _ _) (by decide) (h _)) (h _)

theorem listRestored_does (phys word : Nat) (s : State) : Does [.step, .hbm, .dev] s (listRestored phys word s) := by
  unfold listRestored
  try dsimp only
  refine does_ite ?_ ?_
  exact does_refl _ _
  refine does_ite ?_ ?_
  refine does_by (askRetire_does _) ?_
  exact does_refl _ _
  refine does_by (onStep_does _ _) ?_
  refine does_by (onHbm_does _ _ ⟨rfl, rfl⟩) ?_
  exact does_refl _ _

theorem putStream_does (off : Nat) (listed : List Nat) (bytes : List Byte) (s : State) : Does [.step, .hbm, .dev] s (putStream off listed bytes s) := by
  unfold putStream
  try dsimp only
  refine does_foldl (fun _ _ => ?_) _ ?_
  refine does_foldl (fun _ _ => ?_) _ ?_
  refine does_by (listRestored_does _ _ _) ?_
  exact does_refl _ _
  exact does_refl _ _
  refine does_foldl (fun _ _ => ?_) _ ?_
  refine does_by (putParts_does _ _ _ _) ?_
  exact does_refl _ _
  exact does_refl _ _

theorem landServed_does (off : Nat) (listed : List Nat) (payload : List Byte) (s : State) : Does [.step, .hbm, .dev, .snap] s (landServed off listed payload s) := by
  unfold landServed
  try dsimp only
  refine does_ite ?_ ?_
  refine does_by (putStream_does _ _ _ _) ?_
  refine does_by (onSnap_does _ _) ?_
  exact does_refl _ _
  refine does_by (onSnap_does _ _) ?_
  exact does_refl _ _

theorem landTransfer_does (h : PktHdr) (off : Nat) (payload : List Byte) (s : State) : Does [.step, .hbm, .dev, .snap] s (landTransfer h off payload s).1 := by
  unfold landTransfer
  try dsimp only
  refine does_fst_ite ?_ ?_
  exact does_refl _ _
  refine does_fst_ite ?_ ?_
  refine does_fst_ite ?_ ?_
  refine does_by (landServed_does _ _ _ _) ?_
  exact does_refl _ _
  exact does_refl _ _
  refine does_by (landSnapshot_does _ _ _ _ _) ?_
  exact does_refl _ _

theorem execSnapshotTransferPacket_does (port : Nat) (h : PktHdr) (offset : Nat) (payload : List Byte) (s : State) :
    ∃ t, execSnapshotTransferPacket port h offset payload s = .next t ∧ Does [.step, .hbm, .dev, .fabric, .snap] s t ∧ t.pending = s.pending := by
  unfold execSnapshotTransferPacket
  refine effect_next ?_
  try dsimp only
  refine arrivePacket_does (fun _ => ?_) (by decide)
  refine does_by (landTransfer_does _ _ _ _) ?_
  exact does_refl _ _

theorem landWaiting_does (w : PktWait) (s : State) : Does [.frame, .step, .caseMem, .cells, .stats, .hbm, .portA, .portB, .dev, .power, .faults, .fabric, .snap, .flash] s (landWaiting w s).1 := by
  unfold landWaiting
  try dsimp only
  split
  refine does_by (landTransfer_does _ _ _ _) ?_
  exact does_refl _ _
  refine does_by (landWrite_does _ _ _) ?_
  exact does_refl _ _
  refine does_by (landReduce_does _ _ _) ?_
  exact does_refl _ _
  refine does_by (landPartial_does _ _ _) ?_
  exact does_refl _ _

theorem servePackets_does (s : State) : Does [.frame, .step, .caseMem, .cells, .stats, .hbm, .portA, .portB, .dev, .power, .faults, .fabric, .snap, .flash] s (servePackets s) := by
  unfold servePackets
  try dsimp only
  refine does_foldl (fun _ _ => ?_) _ ?_
  refine takePacket_does (fun _ => ?_) (by decide) ?_
  refine does_by (landWaiting_does _ _) ?_
  exact does_refl _ _
  exact does_refl _ _
  refine does_by (onHbm_does _ _ ⟨rfl, rfl⟩) ?_
  exact does_refl _ _

theorem beginServe_does (n : Nat) (g : GenHdr) (ask : RestoreAsk) (id : Nat) (mapped : Bool) (s : State) : Does [.fabric, .snap] s (beginServe n g ask id mapped s) := by
  unfold beginServe
  try dsimp only
  refine does_by (servePieces_does _ _ _) ?_
  refine does_by (onSnap_does _ _) ?_
  exact does_refl _ _

theorem runRequest_does (ask : RestoreAsk) (id which : Nat) (mapped : Bool) (s : State) : Does [.fabric, .snap] s (runRequest ask id which mapped s) := by
  unfold runRequest
  try dsimp only
  split
  refine does_by (emit_does _ _) ?_
  exact does_refl _ _
  split
  refine does_by (emit_does _ _) ?_
  exact does_refl _ _
  refine does_ite ?_ ?_
  refine does_by (emit_does _ _) ?_
  exact does_refl _ _
  refine does_ite ?_ ?_
  refine does_by (emit_does _ _) ?_
  exact does_refl _ _
  refine does_by (beginServe_does _ _ _ _ _ _) ?_
  exact does_refl _ _

theorem execRestoreRequest_does (ask : RestoreAsk) (identity generation : Nat) (mapped : Bool) (s : State) :
    ∃ t, execRestoreRequest ask identity generation mapped s = .next t ∧ Does [.fabric, .snap] s t ∧ t.pending = s.pending := by
  unfold execRestoreRequest
  refine effect_next ?_
  try dsimp only
  refine does_onlyIf ?_ (fun _ => ?_)
  exact does_refl _ _
  refine does_by (runRequest_does _ _ _ _ _) ?_
  exact does_refl _ _

theorem endServe_does (v : ServeRun) (s : State) : Does [.fabric, .snap] s (endServe v s) := by
  unfold endServe
  try dsimp only
  split
  refine does_by (onSnap_does _ _) ?_
  exact does_refl _ _
  refine does_ite ?_ ?_
  refine does_by (emit_does _ _) ?_
  refine does_by (onSnap_does _ _) ?_
  exact does_refl _ _
  refine does_ite ?_ ?_
  refine does_by (onSnap_does _ _) ?_
  exact does_refl _ _
  refine does_ite ?_ ?_
  refine does_ite ?_ ?_
  refine does_by (onSnap_does _ _) ?_
  refine does_by (onSnap_does _ _) ?_
  exact does_refl _ _
  refine does_by (onSnap_does _ _) ?_
  exact does_refl _ _
  refine does_ite ?_ ?_
  refine does_by (servePieces_does _ _ _) ?_
  refine does_by (onSnap_does _ _) ?_
  exact does_refl _ _
  exact does_refl _ _

theorem runRestore_does (c : Cmd) (s : State) : Does [.portA, .portB, .mbx, .dev, .fabric, .snap, .flash, .life] s (runRestore c s) := by
  unfold runRestore
  try dsimp only
  refine does_by (emit_does _ _) ?_
  refine does_by (setState_does _ _) ?_
  refine does_by (onSnap_does _ _) ?_
  refine does_by (Cmd_accept_does _ _ _ _) ?_
  exact does_refl _ _

theorem execRestore_does (s : State) :
    ∃ t, execRestore s = .next t ∧ Does [.portA, .portB, .mbx, .dev, .fabric, .snap, .flash, .life] s t ∧ t.pending = s.pending := by
  unfold execRestore
  refine effect_next ?_
  try dsimp only
  refine command_does (fun _ _ => ?_) (by decide)
  refine does_by (runRestore_does _ _) ?_
  exact does_refl _ _

theorem putForecasts_does : ∀ (l : List (List Nat × Nat)) (b : List Byte) (s : State), Does [.hbm] s (putForecasts l b s)
  | [], _, s => does_refl _ s
  | _ :: rest, b, _ => does_trans (does_foldl (fun x _ => hbmPut_does _ _ x) _ (does_refl _ _)) (putForecasts_does rest _ _)

theorem installGen_does (m : List (Nat × Nat)) (g : GenHdr) (b : List Byte) (s : State) : Does [.frame, .step, .stats, .hbm, .dev, .fabric, .snap] s (installGen m g b s) := by
  unfold installGen
  try dsimp only
  simp only [doesMk]
  refine mk_step_frame_stats_fabric_snap_dev_does  (by decide) ?_
  refine does_by (putForecasts_does _ _ _) ?_
  refine does_by (putStream_does _ _ _ _) ?_
  exact does_refl _ _

theorem endRestore_does (r : RestRun) (b : List Byte) (s : State) : Does [.frame, .step, .stats, .hbm, .portA, .portB, .mbx, .dev, .fabric, .snap, .flash, .life] s (endRestore r b s) := by
  unfold endRestore
  try dsimp only
  refine does_ite ?_ ?_
  exact does_refl _ _
  split
  refine does_by (finishCmd_does _ _ _ _ _) ?_
  refine does_by (setState_does _ _) ?_
  refine does_by (onSnap_does _ _) ?_
  exact does_refl _ _
  refine does_ite ?_ ?_
  refine does_by (finishCmd_does _ _ _ _ _) ?_
  refine does_by (setState_does _ _) ?_
  refine does_by (onSnap_does _ _) ?_
  exact does_refl _ _
  refine does_by (finishCmd_does _ _ _ _ _) ?_
  refine does_by (setState_does _ _) ?_
  refine does_by (onLife_does _ _) ?_
  refine does_by (installGen_does _ _ _ _) ?_
  refine does_by (onSnap_does _ _) ?_
  exact does_refl _ _

theorem askProof_does (g : W64) (previous : Bool) (s : State) : Does [.fabric, .snap] s (askProof g previous s) := by
  unfold askProof
  try dsimp only
  refine does_by (emit_does _ _) ?_
  refine does_by (onSnap_does _ _) ?_
  exact does_refl _ _

theorem endFailed_does (r : RestRun) (b : List Byte) (p : ProofSt) (s : State) : Does [.frame, .step, .stats, .hbm, .portA, .portB, .mbx, .dev, .fabric, .snap] s (endFailed r b p s) := by
  unfold endFailed
  try dsimp only
  refine does_by (finishCmd_does _ _ _ _ _) ?_
  refine does_by (onStep_does _ _) ?_
  split
  refine does_by (installGen_does _ _ _ _) ?_
  exact does_refl _ _
  refine does_by (onSnap_does _ _) ?_
  exact does_refl _ _

theorem endRollback_does (r : RestRun) (b : List Byte) (s : State) : Does [.frame, .step, .stats, .hbm, .portA, .portB, .mbx, .dev, .fabric, .snap] s (endRollback r b s) := by
  unfold endRollback
  try dsimp only
  split
  refine does_by (onSnap_does _ _) ?_
  exact does_refl _ _
  refine does_ite ?_ ?_
  refine does_by (endFailed_does _ _ _ _) ?_
  exact does_refl _ _
  split
  refine does_by (onStep_does _ _) ?_
  refine does_ite ?_ ?_
  refine does_by (onSnap_does _ _) ?_
  exact does_refl _ _
  refine does_by (installGen_does _ _ _ _) ?_
  exact does_refl _ _
  refine does_ite ?_ ?_
  refine does_by (askProof_does _ _ _) ?_
  exact does_refl _ _
  refine does_by (finishCmd_does _ _ _ _ _) ?_
  refine does_by (onStep_does _ _) ?_
  refine does_by (onSnap_does _ _) ?_
  exact does_refl _ _

theorem runRestoreDone_does (b : List Byte) (s : State) : Does [.frame, .step, .stats, .hbm, .portA, .portB, .mbx, .dev, .fabric, .snap, .flash, .life] s (runRestoreDone b s) := by
  unfold runRestoreDone
  try dsimp only
  split
  exact does_refl _ _
  refine does_ite ?_ ?_
  refine does_by (endRollback_does _ _ _) ?_
  exact does_refl _ _
  refine does_by (endRestore_does _ _ _) ?_
  exact does_refl _ _

theorem execRestoreDone_does (data : List Byte) (s : State) :
    ∃ t, execRestoreDone data s = .next t ∧ Does [.frame, .step, .stats, .hbm, .portA, .portB, .mbx, .dev, .fabric, .snap, .flash, .life] s t ∧ t.pending = s.pending := by
  unfold execRestoreDone
  refine effect_next ?_
  try dsimp only
  refine does_onlyIf ?_ (fun _ => ?_)
  exact does_refl _ _
  refine does_by (runRestoreDone_does _ _) ?_
  exact does_refl _ _

theorem runProof_does (c : Cmd) (s : State) : Does [.step, .portA, .portB, .mbx, .fabric, .snap] s (runProof c s) := by
  unfold runProof
  try dsimp only
  refine does_ite ?_ ?_
  refine does_by (Cmd_finish_does _ _ _ _) ?_
  exact does_refl _ _
  split
  refine does_by (Cmd_finish_does _ _ _ _) ?_
  exact does_refl _ _
  refine does_by (askProof_does _ _ _) ?_
  refine does_by (onStep_does _ _) ?_
  refine does_by (Cmd_accept_does _ _ _ _) ?_
  exact does_refl _ _

theorem execProof_does (s : State) :
    ∃ t, execProof s = .next t ∧ Does [.step, .portA, .portB, .mbx, .fabric, .snap] s t ∧ t.pending = s.pending := by
  unfold execProof
  refine effect_next ?_
  try dsimp only
  refine command_does (fun _ _ => ?_) (by decide)
  refine checked_does (fun _ _ => ?_) (by decide)
  refine does_by (runProof_does _ _) ?_
  exact does_refl _ _

theorem runExport_does (c : Cmd) (s : State) : Does [.portA, .portB, .mbx] s (runExport c s) := by
  unfold runExport
  try dsimp only
  split
  refine does_ite ?_ ?_
  refine does_by (deliver_does _ _ _ _ _) ?_
  refine does_by (Cmd_accept_does _ _ _ _) ?_
  exact does_refl _ _
  refine does_by (Cmd_finish_does _ _ _ _) ?_
  exact does_refl _ _
  refine does_by (Cmd_finish_does _ _ _ _) ?_
  exact does_refl _ _

theorem execExportSnapshot_does (s : State) :
    ∃ t, execExportSnapshot s = .next t ∧ Does [.portA, .portB, .mbx] s t ∧ t.pending = s.pending := by
  unfold execExportSnapshot
  refine effect_next ?_
  try dsimp only
  refine does_onlyIf ?_ (fun _ => ?_)
  exact does_refl _ _
  refine command_does (fun _ _ => ?_) (by decide)
  refine checked_does (fun _ _ => ?_) (by decide)
  refine does_by (runExport_does _ _) ?_
  exact does_refl _ _

theorem resetCore_does (s : State) : Does [.tick, .frame, .step, .image, .caseMem, .cells, .stats, .hbm, .portA, .portB, .mbx, .own, .dev, .env, .power, .pins, .clocks, .faults, .fabric, .snap, .ident, .flash, .life, .staging] s (resetCore s) :=
  ⟨fun k => by cases k <;> first | exact .inr rfl | exact .inl (by decide), fun h => ⟨⟨wf_nil, rise_nil, rise_nil, rise_nil, rise_nil⟩, ⟨wf_nil, rise_nil⟩, h.host⟩⟩

theorem resetBoth_does (s : State) : Does [.hbm, .portA, .portB, .mbx, .ident] s (resetBoth s) := by
  unfold resetBoth
  try dsimp only
  refine does_by (onPorts_does _ _) ?_
  refine does_by (resetPort_does _ _ _) ?_
  refine does_by (resetPort_does _ _ _) ?_
  exact does_refl _ _

theorem assertBoth_does (s : State) : Does [.pins] s (assertBoth s) := by
  unfold assertBoth
  try dsimp only
  refine does_by (onPins_does _ _) ?_
  exact does_refl _ _

theorem holdReset_does (s : State) : Does [.tick, .frame, .step, .image, .caseMem, .cells, .stats, .hbm, .portA, .portB, .mbx, .own, .dev, .env, .power, .pins, .clocks, .faults, .fabric, .snap, .ident, .flash, .life, .staging] s (holdReset s) := by
  unfold holdReset
  try dsimp only
  refine does_by (resetCore_does _) ?_
  refine does_by (resetBoth_does _) ?_
  refine does_by (assertBoth_does _) ?_
  exact does_refl _ _

theorem execBothPerst_does (s : State) :
    ∃ t, execBothPerst s = .next t ∧ Does [.tick, .frame, .step, .image, .caseMem, .cells, .stats, .hbm, .portA, .portB, .mbx, .own, .dev, .env, .power, .pins, .clocks, .faults, .fabric, .snap, .ident, .flash, .life, .staging] s t ∧ t.pending = s.pending := by
  unfold execBothPerst
  refine effect_next ?_
  try dsimp only
  refine does_onlyIf ?_ (fun _ => ?_)
  exact does_refl _ _
  refine does_by (holdReset_does _) ?_
  exact does_refl _ _

theorem runPerst_does (p : PPort) (asserted : Bool) (s : State) : Does [.tick, .frame, .step, .image, .caseMem, .cells, .stats, .hbm, .portA, .portB, .mbx, .own, .dev, .env, .power, .pins, .clocks, .faults, .fabric, .snap, .ident, .flash, .life, .staging] s (runPerst p asserted s) := by
  unfold runPerst
  try dsimp only
  refine does_ite ?_ ?_
  exact does_refl _ _
  refine does_ite ?_ ?_
  refine does_ite ?_ ?_
  refine does_by (holdReset_does _) ?_
  exact does_refl _ _
  refine does_by (onPort_does _ _ _) ?_
  refine does_by (resetPort_does _ _ _) ?_
  refine does_by (setPerst_does _ _ _) ?_
  exact does_refl _ _
  refine does_by (onPort_does _ _ _) ?_
  refine does_by (setPerst_does _ _ _) ?_
  exact does_refl _ _

theorem execPerst_does (p : PPort) (asserted : Bool) (s : State) :
    ∃ t, execPerst p asserted s = .next t ∧ Does [.tick, .frame, .step, .image, .caseMem, .cells, .stats, .hbm, .portA, .portB, .mbx, .own, .dev, .env, .power, .pins, .clocks, .faults, .fabric, .snap, .ident, .flash, .life, .staging] s t ∧ t.pending = s.pending := by
  unfold execPerst
  refine effect_next ?_
  try dsimp only
  refine does_by (runPerst_does _ _ _) ?_
  exact does_refl _ _

theorem powerOn_does (s : State) : Does [.tick, .frame, .step, .image, .caseMem, .cells, .stats, .hbm, .portA, .portB, .mbx, .own, .dev, .env, .power, .pins, .clocks, .faults, .fabric, .snap, .ident, .flash, .life, .staging] s (powerOn s) := by
  unfold powerOn
  try dsimp only
  refine does_by (onPins_does _ _) ?_
  refine does_by (holdReset_does _) ?_
  exact does_refl _ _

theorem execPowerOn_does (s : State) :
    ∃ t, execPowerOn s = .next t ∧ Does [.tick, .frame, .step, .image, .caseMem, .cells, .stats, .hbm, .portA, .portB, .mbx, .own, .dev, .env, .power, .pins, .clocks, .faults, .fabric, .snap, .ident, .flash, .life, .staging] s t ∧ t.pending = s.pending := by
  unfold execPowerOn
  refine effect_next ?_
  try dsimp only
  refine does_by (powerOn_does _) ?_
  exact does_refl _ _

theorem ioFall_does (s : State) : Does [.tick, .frame, .step, .image, .caseMem, .cells, .stats, .hbm, .portA, .portB, .mbx, .own, .dev, .env, .power, .pins, .clocks, .faults, .fabric, .snap, .ident, .flash, .life, .staging] s (ioFall s) := by
  unfold ioFall
  try dsimp only
  refine does_by (onPins_does _ _) ?_
  refine does_by (resetCore_does _) ?_
  refine does_by (resetBoth_does _) ?_
  exact does_refl _ _

theorem execIoRailFall_does (s : State) :
    ∃ t, execIoRailFall s = .next t ∧ Does [.tick, .frame, .step, .image, .caseMem, .cells, .stats, .hbm, .portA, .portB, .mbx, .own, .dev, .env, .power, .pins, .clocks, .faults, .fabric, .snap, .ident, .flash, .life, .staging] s t ∧ t.pending = s.pending := by
  unfold execIoRailFall
  refine effect_next ?_
  try dsimp only
  refine does_by (ioFall_does _) ?_
  exact does_refl _ _

theorem runCoreReset_does (s : State) : Does [.tick, .frame, .step, .image, .caseMem, .cells, .stats, .hbm, .portA, .portB, .mbx, .own, .dev, .env, .power, .pins, .clocks, .faults, .fabric, .snap, .ident, .flash, .life, .staging] s (runCoreReset s) := by
  unfold runCoreReset
  try dsimp only
  split
  exact does_refl _ _
  refine does_ite ?_ ?_
  refine does_by (resetCore_does _) ?_
  refine does_by (resetPort_does _ _ _) ?_
  refine does_by (resetPort_does _ _ _) ?_
  exact does_refl _ _
  exact does_refl _ _

theorem execCoreReset_does (s : State) :
    ∃ t, execCoreReset s = .next t ∧ Does [.tick, .frame, .step, .image, .caseMem, .cells, .stats, .hbm, .portA, .portB, .mbx, .own, .dev, .env, .power, .pins, .clocks, .faults, .fabric, .snap, .ident, .flash, .life, .staging] s t ∧ t.pending = s.pending := by
  unfold execCoreReset
  refine effect_next ?_
  try dsimp only
  refine does_by (runCoreReset_does _) ?_
  exact does_refl _ _

theorem deriveHallmark_does (s : State) : Does [.ident] s (deriveHallmark s) := by
  unfold deriveHallmark
  try dsimp only
  refine does_by (onIdent_does _ _) ?_
  exact does_refl _ _

theorem noteError_does (e : Nat) (s : State) : Does [.dev] s (noteError e s) := by
  unfold noteError
  try dsimp only
  refine does_by (onDev_does _ _) ?_
  exact does_refl _ _

theorem fallBack_does (s : State) : Does [.flash] s (fallBack s) := by
  unfold fallBack
  try dsimp only
  refine does_by (recordEvent_does _ _ _) ?_
  refine does_by (onFlash_does _ _) ?_
  exact does_refl _ _

theorem loadLifetime_does (torn : Bool) (s : State) : Does [.faults, .flash, .life] s (loadLifetime torn s) := by
  unfold loadLifetime
  try dsimp only
  simp only [doesMk]
  refine mk_life_faults_flash_does  (by decide) ?_
  exact does_refl _ _

theorem findFlash_does (r : StartReport) (s : State) : Does [.flash] s (findFlash r s) := by
  unfold findFlash
  try dsimp only
  refine does_ite ?_ ?_
  refine does_by (onFlash_does _ _) ?_
  exact does_refl _ _
  exact does_refl _ _

theorem startFirmware_does (slot : Nat) (r : StartReport) (s : State) : Does [.frame, .cells, .hbm, .portA, .portB, .dev, .power, .clocks, .faults, .fabric, .ident, .flash, .life] s (startFirmware slot r s) := by
  unfold startFirmware
  try dsimp only
  refine does_by (writeLifetime_does _) ?_
  refine does_foldl (fun _ _ => ?_) _ ?_
  refine does_by (countEvent_does _ _ _ _) ?_
  exact does_refl _ _
  refine does_ite ?_ ?_
  refine does_by (fallBack_does _) ?_
  refine does_by (recordEvent_does _ _ _) ?_
  refine does_by (onIdent_does _ _) ?_
  refine does_by (onDev_does _ _) ?_
  refine does_by (onClocks_does _ _) ?_
  refine does_by (loadLifetime_does _ _) ?_
  refine does_by (findFlash_does _ _) ?_
  exact does_refl _ _
  refine does_by (recordEvent_does _ _ _) ?_
  refine does_by (onIdent_does _ _) ?_
  refine does_by (onDev_does _ _) ?_
  refine does_by (onClocks_does _ _) ?_
  refine does_by (loadLifetime_does _ _) ?_
  refine does_by (findFlash_does _ _) ?_
  exact does_refl _ _

theorem hardenRepair_does (r : StartReport) (s : State) (x : Nat × Nat) : Does [.flash, .life] s (hardenRepair r s x) := by
  unfold hardenRepair
  try dsimp only
  refine does_ite ?_ ?_
  refine does_by (recordEvent_does _ _ _) ?_
  refine does_by (onLife_does _ _) ?_
  refine does_by (onFlash_does _ _) ?_
  exact does_refl _ _
  refine does_by (recordEvent_does _ _ _) ?_
  refine does_by (onLife_does _ _) ?_
  exact does_refl _ _

theorem retireNow_does (s : State) (x : Nat × Nat) : Does [.dev, .flash, .life] s (retireNow s x) := by
  unfold retireNow
  try dsimp only
  refine does_ite ?_ ?_
  exact does_refl _ _
  refine does_by (recordEvent_does _ _ _) ?_
  refine does_by (onLife_does _ _) ?_
  simp only [doesMk]
  refine mk_flash_life_dev_does  (by decide) ?_
  exact does_refl _ _

theorem trainHbm_does (r : StartReport) (s : State) : Does [.hbm, .dev, .flash, .life] s (trainHbm r s) := by
  unfold trainHbm
  try dsimp only
  refine does_ite ?_ ?_
  refine does_by (noteError_does _ _) ?_
  refine does_by (onHbm_does _ _ ⟨rfl, rfl⟩) ?_
  refine does_foldl (fun _ _ => ?_) _ ?_
  refine does_by (retireNow_does _ _) ?_
  exact does_refl _ _
  refine does_by (onFlash_does _ _) ?_
  refine does_foldl (fun _ _ => ?_) _ ?_
  refine does_by (hardenRepair_does _ _ _) ?_
  exact does_refl _ _
  exact does_refl _ _
  refine does_by (onHbm_does _ _ ⟨rfl, rfl⟩) ?_
  refine does_foldl (fun _ _ => ?_) _ ?_
  refine does_by (retireNow_does _ _) ?_
  exact does_refl _ _
  refine does_by (onFlash_does _ _) ?_
  refine does_foldl (fun _ _ => ?_) _ ?_
  refine does_by (hardenRepair_does _ _ _) ?_
  exact does_refl _ _
  exact does_refl _ _

theorem endReset_does (s : State) : Does [.tick, .portA, .portB, .pins, .clocks] s (endReset s) := by
  unfold endReset
  try dsimp only
  refine does_by (onTick_does _ _) ?_
  refine does_by (onPins_does _ _) ?_
  refine does_by (onPorts_does _ _) ?_
  refine does_by (onClocks_does _ _) ?_
  exact does_refl _ _

theorem silenceRegions_does (r : StartReport) (s : State) : Does [.dev, .clocks] s (silenceRegions r s) := by
  unfold silenceRegions
  try dsimp only
  refine does_ite ?_ ?_
  exact does_refl _ _
  refine does_by (noteError_does _ _) ?_
  refine does_by (onClocks_does _ _) ?_
  exact does_refl _ _

theorem bootFirmware_does (slot : Nat) (r : StartReport) (s : State) : Does [.frame, .cells, .hbm, .portA, .portB, .dev, .power, .clocks, .faults, .fabric, .ident, .flash, .life] s (bootFirmware slot r s) := by
  unfold bootFirmware
  try dsimp only
  refine does_by (onDev_does _ _) ?_
  refine does_foldl (fun _ _ => ?_) _ ?_
  refine does_by (trainPort_does _ _) ?_
  exact does_refl _ _
  refine does_by (trainHbm_does _ _) ?_
  refine does_by (silenceRegions_does _ _) ?_
  refine does_by (startFirmware_does _ _ _) ?_
  exact does_refl _ _

theorem boot_does (r : StartReport) (s : State) : Does [.frame, .cells, .hbm, .portA, .portB, .dev, .power, .pins, .clocks, .faults, .fabric, .ident, .flash, .life] s (boot r s) := by
  unfold boot
  extract_lets s1
  have h1 : Does [.frame, .cells, .hbm, .portA, .portB, .dev, .power, .pins, .clocks, .faults, .fabric, .ident, .flash, .life] s s1 := does_step (deriveHallmark_does _) (by decide) (does_step (onFlash_does _ _) (by decide)
    (does_mono (onPins_does _ _) (by decide)))
  clear_value s1
  split
  · exact does_step (setState_does _ _) (by decide) (does_step (noteError_does _ _) (by decide) (does_step (onDev_does _ _) (by decide) h1))
  · exact does_step (bootFirmware_does _ _ _) (by decide) h1

theorem startUp_does (r : StartReport) (s : State) : Does [.tick, .frame, .step, .image, .caseMem, .cells, .stats, .hbm, .portA, .portB, .mbx, .own, .dev, .env, .power, .pins, .clocks, .faults, .fabric, .snap, .ident, .flash, .life, .staging] s (startUp r s) := by
  unfold startUp
  try dsimp only
  refine does_ite ?_ ?_
  refine does_by (ioFall_does _) ?_
  refine does_by (onFlash_does _ _) ?_
  exact does_refl _ _
  refine does_by (boot_does _ _) ?_
  refine does_by (endReset_does _) ?_
  exact does_refl _ _

theorem execStartUp_does (r : StartReport) (s : State) :
    ∃ t, execStartUp r s = .next t ∧ Does [.tick, .frame, .step, .image, .caseMem, .cells, .stats, .hbm, .portA, .portB, .mbx, .own, .dev, .env, .power, .pins, .clocks, .faults, .fabric, .snap, .ident, .flash, .life, .staging] s t ∧ t.pending = s.pending := by
  unfold execStartUp
  refine effect_next ?_
  try dsimp only
  refine does_onlyIf ?_ (fun _ => ?_)
  exact does_refl _ _
  refine does_by (startUp_does _ _) ?_
  exact does_refl _ _

theorem startupError_does (pwrgd : Bool) (s : State) : Does [.dev] s (startupError pwrgd s) := by
  unfold startupError
  try dsimp only
  refine does_by (onDev_does _ _) ?_
  exact does_refl _ _

theorem execStartupError_does (pwrgd : Bool) (s : State) :
    ∃ t, execStartupError pwrgd s = .next t ∧ Does [.dev] s t ∧ t.pending = s.pending := by
  unfold execStartupError
  refine effect_next ?_
  try dsimp only
  refine does_onlyIf ?_ (fun _ => ?_)
  exact does_refl _ _
  refine does_by (startupError_does _ _) ?_
  exact does_refl _ _

theorem execReadyReached_does (s : State) :
    ∃ t, execReadyReached s = .next t ∧ Does [.dev] s t ∧ t.pending = s.pending := by
  unfold execReadyReached
  refine effect_next ?_
  try dsimp only
  refine does_onlyIf ?_ (fun _ => ?_)
  exact does_refl _ _
  refine does_by (onDev_does _ _) ?_
  exact does_refl _ _

theorem loseRegion_does (r : Nat) (s : State) : Does [.clocks, .flash] s (loseRegion r s) := by
  unfold loseRegion
  try dsimp only
  refine does_by (recordEvent_does _ _ _) ?_
  refine does_by (onClocks_does _ _) ?_
  exact does_refl _ _

theorem advanceRollback_does (s : State) : Does [.ident, .flash] s (advanceRollback s) := by
  unfold advanceRollback
  try dsimp only
  refine does_ite ?_ ?_
  refine does_by (onFlash_does _ _) ?_
  refine does_by (recordEvent_does _ _ _) ?_
  refine does_by (onIdent_does _ _) ?_
  exact does_refl _ _
  exact does_refl _ _

theorem enterReady_does (s : State) : Does [.portA, .portB, .dev, .clocks, .ident, .flash, .life] s (enterReady s) := by
  unfold enterReady
  try dsimp only
  refine does_ite ?_ ?_
  refine does_by (setState_does _ _) ?_
  refine does_by (onDev_does _ _) ?_
  refine does_foldl (fun _ _ => ?_) _ ?_
  refine does_by (loseRegion_does _ _) ?_
  exact does_refl _ _
  refine does_by (advanceRollback_does _) ?_
  refine does_by (setState_does _ _) ?_
  refine does_by (onDev_does _ _) ?_
  exact does_refl _ _
  refine does_foldl (fun _ _ => ?_) _ ?_
  refine does_by (loseRegion_does _ _) ?_
  exact does_refl _ _
  refine does_by (advanceRollback_does _) ?_
  refine does_by (setState_does _ _) ?_
  refine does_by (onDev_does _ _) ?_
  exact does_refl _ _

theorem execHeartbeat_does (region : Nat) (s : State) :
    ∃ t, execHeartbeat region s = .next t ∧ Does [.clocks] s t ∧ t.pending = s.pending := by
  unfold execHeartbeat
  refine effect_next ?_
  try dsimp only
  refine does_onlyIf ?_ (fun _ => ?_)
  exact does_refl _ _
  refine does_by (onClocks_does _ _) ?_
  exact does_refl _ _

theorem execRegionLost_does (region : Nat) (s : State) :
    ∃ t, execRegionLost region s = .next t ∧ Does [.dev, .clocks, .flash] s t ∧ t.pending = s.pending := by
  unfold execRegionLost
  refine effect_next ?_
  try dsimp only
  refine does_onlyIf ?_ (fun _ => ?_)
  exact does_refl _ _
  refine does_by (askRetire_does _) ?_
  refine does_by (loseRegion_does _ _) ?_
  exact does_refl _ _

theorem execCompositorHeartbeatLoss_does (s : State) :
    ∃ t, execCompositorHeartbeatLoss s = .next t ∧ Does [.portA, .portB, .dev, .flash, .life] s t ∧ t.pending = s.pending := by
  unfold execCompositorHeartbeatLoss
  refine effect_next ?_
  try dsimp only
  refine does_onlyIf ?_ (fun _ => ?_)
  exact does_refl _ _
  refine does_by (setState_does _ _) ?_
  exact does_refl _ _

theorem stopRegion_does (r : Nat) (s : State) : Does [.clocks] s (stopRegion r s) := by
  unfold stopRegion
  try dsimp only
  refine does_by (onClocks_does _ _) ?_
  exact does_refl _ _

theorem losePll_does (pll : Pll) (s : State) : Does [.hbm, .portA, .portB, .mbx, .clocks, .fabric, .ident] s (losePll pll s) := by
  unfold losePll
  try dsimp only
  split
  refine does_by (onClocks_does _ _) ?_
  refine does_by (onClocks_does _ _) ?_
  exact does_refl _ _
  refine does_by (onClocks_does _ _) ?_
  refine does_foldl (fun _ _ => ?_) _ ?_
  refine does_by (onClocks_does _ _) ?_
  exact does_refl _ _
  exact does_refl _ _
  refine does_by (onHbm_does _ _ ⟨rfl, rfl⟩) ?_
  exact does_refl _ _
  refine does_by (linkFalls_does _ _) ?_
  exact does_refl _ _
  refine does_foldl (fun _ _ => ?_) _ ?_
  refine does_by (linkFalls_does _ _) ?_
  exact does_refl _ _
  exact does_refl _ _
  refine does_by (resetPort_does _ _ _) ?_
  exact does_refl _ _

theorem execPllLossOfLock_does (pll : Pll) (s : State) :
    ∃ t, execPllLossOfLock pll s = .next t ∧ Does [.hbm, .portA, .portB, .mbx, .clocks, .fabric, .ident] s t ∧ t.pending = s.pending := by
  unfold execPllLossOfLock
  refine effect_next ?_
  try dsimp only
  refine does_onlyIf ?_ (fun _ => ?_)
  exact does_refl _ _
  refine does_by (losePll_does _ _) ?_
  exact does_refl _ _

theorem endHbmTraining_does (stack : Nat) (s : State) : Does [.frame, .step, .caseMem, .cells, .stats, .hbm, .portA, .portB, .dev, .power, .faults, .fabric, .snap, .flash, .life] s (endHbmTraining stack s) := by
  unfold endHbmTraining
  try dsimp only
  refine does_by (servePackets_does _) ?_
  refine does_by (serveWaits_does _ _) ?_
  refine does_by (onHbm_does _ _ ⟨rfl, rfl⟩) ?_
  exact does_refl _ _

theorem execHbmRetrainingDone_does (stack : Nat) (s : State) :
    ∃ t, execHbmRetrainingDone stack s = .next t ∧ Does [.frame, .step, .caseMem, .cells, .stats, .hbm, .portA, .portB, .dev, .power, .faults, .fabric, .snap, .flash, .life] s t ∧ t.pending = s.pending := by
  unfold execHbmRetrainingDone
  refine effect_next ?_
  try dsimp only
  refine does_onlyIf ?_ (fun _ => ?_)
  exact does_refl _ _
  refine does_by (endHbmTraining_does _ _) ?_
  exact does_refl _ _

theorem pwrgdFall_does (s : State) : Does [.hbm, .portA, .portB, .dev, .pins, .clocks, .fabric, .flash, .life] s (pwrgdFall s) := by
  unfold pwrgdFall
  extract_lets s1 s2
  refine does_step (setState_does _ _) (by decide) (does_step (stopRegion_does _ _) (by decide) (does_step (onHbm_does _ _ ⟨rfl, rfl⟩) (by decide) ?_))
  exact does_foldl (fun x p => does_mono (onClasp_does _ _ x) (by decide)) _ (does_mono (onPins_does _ _) (by decide))

theorem failedAttempt_does (s : State) : Does [.dev] s (failedAttempt s) := by
  unfold failedAttempt
  try dsimp only
  refine does_ite ?_ ?_
  refine does_by (onDev_does _ _) ?_
  exact does_refl _ _
  refine does_by (onDev_does _ _) ?_
  refine does_by (onDev_does _ _) ?_
  exact does_refl _ _

theorem execPwrgdFall_does (_group : RailGroup) (s : State) :
    ∃ t, execPwrgdFall _group s = .next t ∧ Does [.hbm, .portA, .portB, .dev, .pins, .clocks, .fabric, .flash, .life] s t ∧ t.pending = s.pending := by
  unfold execPwrgdFall
  refine effect_next ?_
  try dsimp only
  refine does_ite ?_ ?_
  refine does_onlyIf ?_ (fun _ => ?_)
  exact does_refl _ _
  refine does_by (failedAttempt_does _) ?_
  exact does_refl _ _
  refine does_onlyIf ?_ (fun _ => ?_)
  exact does_refl _ _
  refine does_by (pwrgdFall_does _) ?_
  exact does_refl _ _

theorem setConn_does (p : PPort) (c : SpdmConn) (s : State) : Does [.ident] s (setConn p c s) := by
  unfold setConn
  try dsimp only
  refine does_by (onIdent_does _ _) ?_
  exact does_refl _ _

theorem answer_does {m : List Comp} {p : PPort} {f : SpdmConn → State → (SpdmConn × Spdm) × State} {s : State}
    (h : ∀ c u, Does m u (f c u).2) (hm : within [.ident] m = true) : Does m s (answer p f s) := by
  unfold answer
  split
  · exact does_refl _ _
  · split
    · exact does_mono (setConn_does _ _ _) hm
    · split
      · exact does_refl _ _
      · exact does_step (setConn_does _ _ _) hm (h _ _)

theorem reply_does (ok : SpdmConn → Bool) (note : SpdmConn → Spdm → SpdmConn) (f : State → Spdm) (c : SpdmConn) (s : State) (m : List Comp) :
    Does m s (reply ok note f c s).2 := by
  unfold reply
  split
  · exact does_refl _ _
  · split <;> exact does_refl _ _

theorem execGetVersion_does (p : PPort) (s : State) :
    ∃ t, execGetVersion p s = .next t ∧ Does [.ident] s t ∧ t.pending = s.pending := by
  unfold execGetVersion
  refine effect_next ?_
  try dsimp only
  refine answer_does (fun _ _ => ?_) (by decide)
  exact does_refl _ _

theorem execGetCapabilities_does (p : PPort) (s : State) :
    ∃ t, execGetCapabilities p s = .next t ∧ Does [.ident] s t ∧ t.pending = s.pending := by
  unfold execGetCapabilities
  refine effect_next ?_
  try dsimp only
  refine answer_does (fun _ _ => ?_) (by decide)
  split
  exact does_refl _ _
  exact does_refl _ _

theorem execNegotiateAlgorithms_does (p : PPort) (hash extAsym : Bool) (s : State) :
    ∃ t, execNegotiateAlgorithms p hash extAsym s = .next t ∧ Does [.ident] s t ∧ t.pending = s.pending := by
  unfold execNegotiateAlgorithms
  refine effect_next ?_
  try dsimp only
  refine answer_does (fun _ _ => ?_) (by decide)
  split
  exact does_refl _ _
  split
  exact does_refl _ _
  exact does_refl _ _

theorem execGetDigests_does (p : PPort) (s : State) :
    ∃ t, execGetDigests p s = .next t ∧ Does [.ident] s t ∧ t.pending = s.pending := by
  unfold execGetDigests
  refine effect_next ?_
  try dsimp only
  refine answer_does (fun _ _ => ?_) (by decide)
  refine reply_does _ _ _ _ _ _

theorem execGetCertificate_does (p : PPort) (slot offset length : Nat) (s : State) :
    ∃ t, execGetCertificate p slot offset length s = .next t ∧ Does [.ident] s t ∧ t.pending = s.pending := by
  unfold execGetCertificate
  refine effect_next ?_
  try dsimp only
  refine answer_does (fun _ _ => ?_) (by decide)
  refine reply_does _ _ _ _ _ _

theorem execGetMeasurements_does (p : PPort) (sel : MeasSel) (signed : Bool) (nonce : List Byte) (s : State) :
    ∃ t, execGetMeasurements p sel signed nonce s = .next t ∧ Does [.ident] s t ∧ t.pending = s.pending := by
  unfold execGetMeasurements
  refine effect_next ?_
  try dsimp only
  refine answer_does (fun _ _ => ?_) (by decide)
  exact does_refl _ _

theorem drawBytes_does : ∀ (n : Nat) (s : State), Does [.freeIdx] s (drawBytes n s).2
  | 0, s => does_refl _ s
  | n + 1, s => does_trans (drawFree_does s) (drawBytes_does n _)

theorem challengeReply_does (slot : Nat) (nonce : List Byte) (c : SpdmConn) (s : State) : Does [.freeIdx] s (challengeReply slot nonce c s).2 := by
  unfold challengeReply
  try dsimp only
  refine does_snd_ite ?_ ?_
  exact does_refl _ _
  refine does_snd_ite ?_ ?_
  exact does_refl _ _
  refine does_by (drawBytes_does _ _) ?_
  exact does_refl _ _

theorem execChallenge_does (p : PPort) (slot : Nat) (nonce : List Byte) (s : State) :
    ∃ t, execChallenge p slot nonce s = .next t ∧ Does [.ident, .freeIdx] s t ∧ t.pending = s.pending := by
  unfold execChallenge
  refine effect_next ?_
  try dsimp only
  refine answer_does (fun _ _ => ?_) (by decide)
  refine does_by (challengeReply_does _ _ _ _) ?_
  exact does_refl _ _

theorem execUnsupportedRequest_does (p : PPort) (code : Byte) (s : State) :
    ∃ t, execUnsupportedRequest p code s = .next t ∧ Does [.ident] s t ∧ t.pending = s.pending := by
  unfold execUnsupportedRequest
  refine effect_next ?_
  try dsimp only
  refine does_onlyIf ?_ (fun _ => ?_)
  exact does_refl _ _
  refine answer_does (fun _ _ => ?_) (by decide)
  exact does_refl _ _

theorem execDoeDiscovery_does (p : PPort) (index : Nat) (s : State) :
    ∃ t, execDoeDiscovery p index s = .next t ∧ Does [.ident] s t ∧ t.pending = s.pending := by
  unfold execDoeDiscovery
  refine effect_next ?_
  try dsimp only
  refine does_onlyIf ?_ (fun _ => ?_)
  exact does_refl _ _
  refine does_by (setConn_does _ _ _) ?_
  exact does_refl _ _

theorem execDoeAbort_does (p : PPort) (s : State) :
    ∃ t, execDoeAbort p s = .next t ∧ Does [.ident] s t ∧ t.pending = s.pending := by
  unfold execDoeAbort
  refine effect_next ?_
  try dsimp only
  refine does_onlyIf ?_ (fun _ => ?_)
  exact does_refl _ _
  refine does_by (setConn_does _ _ _) ?_
  exact does_refl _ _

theorem setCell_does (i : Nat) (c : CellState) (s : State) : Does [.cells] s (setCell i c s) := by
  unfold setCell
  try dsimp only
  refine does_by (onCells_does _ _) ?_
  exact does_refl _ _

theorem fenceRecord_does (cell spare : Nat) (s : State) : Does [.flash] s (fenceRecord cell spare s) := by
  unfold fenceRecord
  try dsimp only
  refine does_by (recordEvent_does _ _ _) ?_
  exact does_refl _ _

theorem moveForme_does (cell : Nat) (s : State) : Does [.frame, .image, .cells, .flash] s (moveForme cell s) := by
  unfold moveForme
  try dsimp only
  split
  refine does_by (fenceRecord_does _ _ _) ?_
  refine does_ite ?_ ?_
  refine does_by (onFrame_does _ _) ?_
  refine does_by (onCells_does _ _) ?_
  refine does_by (onImage_does _ _) ?_
  refine does_by (onCells_does _ _) ?_
  exact does_refl _ _
  refine does_by (onCells_does _ _) ?_
  exact does_refl _ _
  refine does_by (fenceRecord_does _ _ _) ?_
  refine does_by (onImage_does _ _) ?_
  exact does_refl _ _

theorem freezeCounts_does (cell : Nat) (s : State) : Does [.faults] s (freezeCounts cell s) := by
  unfold freezeCounts
  try dsimp only
  refine does_foldl (fun _ _ => ?_) _ ?_
  refine does_by (setFaultSrc_does _ _ _ _ _) ?_
  exact does_refl _ _
  exact does_refl _ _

theorem fenceCell_does (cell : Nat) (forced : Bool) (s : State) : Does [.image, .cells, .faults, .flash, .life] s (fenceCell cell forced s) := by
  unfold fenceCell
  extract_lets old
  split
  · exact does_refl _ _
  · rename_i s1 _ s2 _
    have h1 : Does [.image, .cells, .faults, .flash, .life] s s1 := does_step (setCell_does _ _ _) (by decide) (does_mono (onCells_does _ _) (by decide))
    have h2 : Does [.image, .cells, .faults, .flash, .life] s s2 := does_step (freezeCounts_does _ _) (by decide) (does_step (onLife_does _ _) (by decide)
      (does_trans h1 ⟨fun k => by cases k <;> first | exact .inr rfl | exact .inl (by decide), fun ⟨a, b, c⟩ => ⟨a, b, c⟩⟩))
    exact does_ite (does_step (onImage_does _ _) (by decide) h2) (does_step (fenceRecord_does _ _ _) (by decide) h2)

theorem takeFences_does (s : State) : Does [.image, .cells, .dev, .faults, .flash, .life] s (takeFences s) := by
  unfold takeFences
  try dsimp only
  refine does_foldl (fun _ _ => ?_) _ ?_
  refine does_by (fenceCell_does _ _ _) ?_
  exact does_refl _ _
  refine does_by (onDev_does _ _) ?_
  exact does_refl _ _

theorem moveFormes_does (s : State) : Does [.frame, .image, .cells, .flash] s (moveFormes s) := by
  unfold moveFormes
  try dsimp only
  refine does_ite ?_ ?_
  exact does_refl _ _
  refine does_foldl (fun _ _ => ?_) _ ?_
  refine does_by (moveForme_does _ _) ?_
  exact does_refl _ _
  refine does_by (onImage_does _ _) ?_
  exact does_refl _ _

theorem dropUnfences_does (s : State) : Does [.cells] s (dropUnfences s) := by
  unfold dropUnfences
  try dsimp only
  refine does_by (onCells_does _ _) ?_
  exact does_refl _ _

theorem takeUnfences_does (s : State) : Does [.cells, .faults, .flash, .life] s (takeUnfences s) := by
  unfold takeUnfences
  try dsimp only
  refine does_foldl (fun _ _ => ?_) _ ?_
  refine does_by (recordEvent_does _ _ _) ?_
  refine does_by (onLife_does _ _) ?_
  refine does_foldl (fun _ _ => ?_) _ ?_
  refine does_by (setFaultSrc_does _ _ _ _ _) ?_
  exact does_refl _ _
  refine does_by (onCells_does _ _) ?_
  refine does_by (onCells_does _ _) ?_
  exact does_refl _ _
  refine does_by (onCells_does _ _) ?_
  exact does_refl _ _

theorem standIn_does (op : Nat) (d : BezelDesc) (s : State) : Does [.fabric] s (standIn op d s) := by
  unfold standIn
  try dsimp only
  split
  refine does_by (flushSends_does _) ?_
  refine does_ite ?_ ?_
  refine does_by (sendRaw_does _ _ _ _) ?_
  exact does_refl _ _
  refine does_ite ?_ ?_
  refine does_foldl (fun _ _ => ?_) _ ?_
  split
  refine does_ite ?_ ?_
  refine does_by (sendData_does _ _ _ _) ?_
  exact does_refl _ _
  refine does_by (sendData_does _ _ _ _) ?_
  exact does_refl _ _
  exact does_refl _ _
  exact does_refl _ _
  refine does_foldl (fun _ _ => ?_) _ ?_
  split
  refine does_by (sendRaw_does _ _ _ _) ?_
  exact does_refl _ _
  exact does_refl _ _
  exact does_refl _ _
  exact does_refl _ _

theorem flagBuffer_does (s : State) : Does [.frame, .cells, .stats, .hbm, .portA, .portB, .dev, .power, .faults, .fabric, .flash] s (flagBuffer s) := by
  unfold flagBuffer
  try dsimp only
  split
  refine does_by (addLongTile_does _ _ _ _ _ _) ?_
  exact does_refl _ _
  exact does_refl _ _

theorem orphanFrame_does (s : State) : Does [.frame, .cells, .stats, .hbm, .portA, .portB, .dev, .power, .faults, .fabric, .flash] s (orphanFrame s) := by
  unfold orphanFrame
  try dsimp only
  split
  refine does_ite ?_ ?_
  exact does_refl _ _
  refine does_foldl (fun _ _ => ?_) _ ?_
  refine does_by (standIn_does _ _ _) ?_
  exact does_refl _ _
  refine does_by (flagBuffer_does _) ?_
  exact does_refl _ _
  exact does_refl _ _

theorem loadSpare_does (cell : Nat) (s : State) : Does [.image, .caseMem] s (loadSpare cell s) := by
  unfold loadSpare
  split
  · exact does_refl _ _
  · extract_lets o pages cases s1
    refine does_step (onImage_does _ _) (by decide) (does_step (onCase_keeps _ _ ?_) (by decide) (does_mono (writeContents_does _ _) (by decide)))
    refine fun h => ⟨wf_foldl (fun _ _ h => ?_) _ h.mem, h.staged, h.inbound, h.own, h.host⟩
    split
    · exact wf_writeN h
    · exact h

theorem execSpareLoad_does (cell : Nat) (s : State) :
    ∃ t, execSpareLoad cell s = .next t ∧ Does [.image, .caseMem] s t ∧ t.pending = s.pending := by
  unfold execSpareLoad
  refine effect_next ?_
  try dsimp only
  refine does_onlyIf ?_ (fun _ => ?_)
  exact does_refl _ _
  refine does_by (loadSpare_does _ _) ?_
  exact does_refl _ _

theorem startReimp_does (s : State) : Does [.dev] s (startReimp s) := by
  unfold startReimp
  try dsimp only
  refine does_ite ?_ ?_
  refine does_by (onDev_does _ _) ?_
  exact does_refl _ _
  exact does_refl _ _

theorem enterRetire_does (s : State) : Does [.frame, .step, .portA, .portB, .mbx, .dev, .snap, .flash, .life] s (enterRetire s) := by
  unfold enterRetire
  try dsimp only
  refine does_by (setState_does _ _) ?_
  simp only [doesMk]
  refine mk_dev_step_frame_snap_does  (by decide) ?_
  refine does_foldl (fun _ _ => ?_) _ ?_
  refine does_by (finishCmd_does _ _ _ _ _) ?_
  exact does_refl _ _
  exact does_refl _ _

theorem failReimp_does (region : Nat) (s : State) : Does [.frame, .step, .portA, .portB, .mbx, .dev, .snap, .flash, .life] s (failReimp region s) := by
  unfold failReimp
  try dsimp only
  refine does_by (enterRetire_does _) ?_
  refine does_by (recordEvent_does _ _ _) ?_
  exact does_refl _ _

theorem endReimp_does (region : Nat) (s : State) : Does [.dev, .flash] s (endReimp region s) := by
  unfold endReimp
  try dsimp only
  refine does_ite ?_ ?_
  refine does_by (recordEvent_does _ _ _) ?_
  exact does_refl _ _
  refine does_by (onDev_does _ _) ?_
  refine does_by (recordEvent_does _ _ _) ?_
  exact does_refl _ _

theorem installSet_does (L : Load) (c : ContSet) (cells : List Nat) (s : State) : Does [.image, .caseMem, .cells, .hbm, .flash, .life] s (installSet L c cells s) := by
  unfold installSet
  try dsimp only
  refine does_by (mapCarry_does _ _ _) ?_
  refine does_by (writeContents_does _ _) ?_
  simp only [doesMk]
  refine mk_image_cells_does  (by decide) ?_
  refine does_foldl (fun _ _ => ?_) _ ?_
  refine does_by (unmapPage_does _ _) ?_
  exact does_refl _ _
  exact does_refl _ _

theorem reimposeCells_does (region : Nat) (s : State) : Does [.frame, .step, .image, .caseMem, .cells, .hbm, .portA, .portB, .mbx, .dev, .snap, .flash, .life] s (reimposeCells region s) := by
  unfold reimposeCells
  split
  · exact does_refl _ _
  · split
    · exact does_mono (failReimp_does _ _) (by decide)
    · extract_lets cells clean L
      exact does_ite (does_mono (failReimp_does _ _) (by decide))
        (does_step (endReimp_does _ _) (by decide) (does_mono (installSet_does _ _ _ _) (by decide)))

theorem movePage_does (a b : Nat) (s : State) : Does [.hbm, .flash, .life] s (movePage a b s) := by
  unfold movePage
  split
  · exact does_refl _ _
  · extract_lets old r bytes
    exact does_step (freePhys_does _ _) (by decide) (does_step (set_hbm_keeps _ _ (fun h => ⟨wf_fold (wf_clear h.mem), h.localB⟩)) (by decide)
      (does_mono (takePage_does _ _ _) (by decide)))

theorem reimposeMemory_does (stack : Nat) (s : State) : Does [.frame, .step, .image, .hbm, .portA, .portB, .mbx, .dev, .snap, .flash, .life] s (reimposeMemory stack s) := by
  unfold reimposeMemory
  extract_lets dst' moved used low base f
  split
  · refine does_ite (does_refl _ _) (does_ite (does_mono (failReimp_does _ _) (by decide)) ?_)
    exact does_step (endReimp_does _ _) (by decide) (does_mono (onImage_does _ _) (by decide))
  · split
    · exact does_mono (failReimp_does _ _) (by decide)
    · rename_i s1 s2 _ _
      have h1 : Does [.frame, .step, .image, .hbm, .portA, .portB, .mbx, .dev, .snap, .flash, .life] s s1 := does_foldl (fun x k => (does_mono (movePage_does _ _ _) (by decide) : Does [.frame, .step, .image, .hbm, .portA, .portB, .mbx, .dev, .snap, .flash, .life] x _)) _
        (does_mono (onHbm_does _ _ ⟨rfl, rfl⟩) (by decide))
      have h2 : Does [.frame, .step, .image, .hbm, .portA, .portB, .mbx, .dev, .snap, .flash, .life] s s2 := does_step (onImage_does _ _) (by decide) h1
      refine does_ite h2 (does_ite (does_mono (failReimp_does _ _) (by decide)) ?_)
      exact does_step (endReimp_does _ _) (by decide) (does_step (onImage_does _ _) (by decide) h2)

theorem reimpose_does (what : Reimp) (s : State) : Does [.frame, .step, .image, .caseMem, .cells, .hbm, .portA, .portB, .mbx, .dev, .snap, .flash, .life] s (reimpose what s) := by
  unfold reimpose
  try dsimp only
  refine does_ite ?_ ?_
  exact does_refl _ _
  split
  refine does_ite ?_ ?_
  refine does_by (reimposeCells_does _ _) ?_
  exact does_refl _ _
  exact does_refl _ _
  refine does_ite ?_ ?_
  refine does_by (reimposeMemory_does _ _) ?_
  exact does_refl _ _
  exact does_refl _ _

theorem execReimposition_does (what : Reimp) (s : State) :
    ∃ t, execReimposition what s = .next t ∧ Does [.frame, .step, .image, .caseMem, .cells, .hbm, .portA, .portB, .mbx, .dev, .snap, .flash, .life] s t ∧ t.pending = s.pending := by
  unfold execReimposition
  refine effect_next ?_
  try dsimp only
  refine does_onlyIf ?_ (fun _ => ?_)
  exact does_refl _ _
  refine does_by (reimpose_does _ _) ?_
  exact does_refl _ _

theorem reimpTimeout_does (s : State) : Does [.frame, .step, .portA, .portB, .mbx, .dev, .snap, .flash, .life] s (reimpTimeout s) := by
  unfold reimpTimeout
  try dsimp only
  refine does_ite ?_ ?_
  refine does_by (failReimp_does _ _) ?_
  exact does_refl _ _
  exact does_refl _ _

theorem execReimpositionTimeout_does (s : State) :
    ∃ t, execReimpositionTimeout s = .next t ∧ Does [.frame, .step, .portA, .portB, .mbx, .dev, .snap, .flash, .life] s t ∧ t.pending = s.pending := by
  unfold execReimpositionTimeout
  refine effect_next ?_
  try dsimp only
  refine does_onlyIf ?_ (fun _ => ?_)
  exact does_refl _ _
  refine does_by (reimpTimeout_does _) ?_
  exact does_refl _ _

end Sys2Proof.Machine
end

