-- ==== Sys2Proof/Laws/DoesTicks.lean ====
section
/-! SUPPORT. What each operation can do, one lemma for each (Laws/Does.lean): the tick. -/

namespace Sys2Proof.Machine
open Sys2Proof

set_option Elab.async false

theorem beginSendWaits_does (s : State) : Does [.fabric] s (beginSendWaits s) := by
  unfold beginSendWaits
  try dsimp only
  refine does_foldl (fun _ _ => ?_) _ ?_
  refine does_by (onWait_does _ _ _) ?_
  exact does_refl _ _
  exact does_refl _ _

theorem atDeadline_does (s : State) : Does [.frame, .fabric] s (atDeadline s) := by
  unfold atDeadline
  try dsimp only
  refine does_ite ?_ ?_
  refine does_by (onFrame_does _ _) ?_
  exact does_refl _ _
  refine does_ite ?_ ?_
  refine does_by (chipLate_does _ _) ?_
  refine does_ite ?_ ?_
  refine does_by (onFrame_does _ _) ?_
  exact does_refl _ _
  refine does_by (chipLate_does _ _) ?_
  refine does_by (beginSendWaits_does _) ?_
  refine does_by (onFrame_does _ _) ?_
  exact does_refl _ _
  refine does_ite ?_ ?_
  refine does_by (onFrame_does _ _) ?_
  exact does_refl _ _
  refine does_by (chipLate_does _ _) ?_
  refine does_by (beginSendWaits_does _) ?_
  refine does_by (onFrame_does _ _) ?_
  exact does_refl _ _

theorem execHoldDeadline_does (s : State) :
    ∃ t, execHoldDeadline s = .next t ∧ Does [.frame, .fabric] s t ∧ t.pending = s.pending := by
  unfold execHoldDeadline
  refine effect_next ?_
  try dsimp only
  refine does_onlyIf ?_ (fun _ => ?_)
  exact does_refl _ _
  refine does_by (atDeadline_does _) ?_
  exact does_refl _ _

theorem beginStageWait_does (s : State) : Does [.fabric] s (beginStageWait s) := by
  unfold beginStageWait
  try dsimp only
  split
  refine does_ite ?_ ?_
  exact does_refl _ _
  refine does_by (onWait_does _ _ _) ?_
  exact does_refl _ _
  exact does_refl _ _

theorem atLockUp_does (s : State) : Does [.frame, .cells, .fabric] s (atLockUp s) := by
  unfold atLockUp
  try dsimp only
  refine does_ite ?_ ?_
  refine does_by (onFrame_does _ _) ?_
  exact does_refl _ _
  refine does_ite ?_ ?_
  refine does_by (chipLate_does _ _) ?_
  refine does_by (beginStageWait_does _) ?_
  refine does_foldl (fun _ _ => ?_) _ ?_
  refine does_ite ?_ ?_
  refine does_by (beginWaiting_does _ _) ?_
  exact does_refl _ _
  exact does_refl _ _
  refine does_by (onFrame_does _ _) ?_
  exact does_refl _ _
  refine does_by (beginStageWait_does _) ?_
  refine does_foldl (fun _ _ => ?_) _ ?_
  refine does_ite ?_ ?_
  refine does_by (beginWaiting_does _ _) ?_
  exact does_refl _ _
  exact does_refl _ _
  refine does_by (onFrame_does _ _) ?_
  exact does_refl _ _

theorem execLockUp_does (s : State) :
    ∃ t, execLockUp s = .next t ∧ Does [.frame, .cells, .fabric] s t ∧ t.pending = s.pending := by
  unfold execLockUp
  refine effect_next ?_
  try dsimp only
  refine does_onlyIf ?_ (fun _ => ?_)
  exact does_refl _ _
  refine does_by (atLockUp_does _) ?_
  exact does_refl _ _

theorem becomeStuck_does (s : State) : Does [.frame, .portA, .portB, .dev, .fabric, .flash, .life] s (becomeStuck s) := by
  unfold becomeStuck
  try dsimp only
  refine does_by (raiseHold_does _ _) ?_
  refine does_by (setState_does _ _) ?_
  refine does_by (onFrame_does _ _) ?_
  exact does_refl _ _

theorem execStuckForme_does (s : State) :
    ∃ t, execStuckForme s = .next t ∧ Does [.frame, .portA, .portB, .dev, .fabric, .flash, .life] s t ∧ t.pending = s.pending := by
  unfold execStuckForme
  refine effect_next ?_
  try dsimp only
  refine does_onlyIf ?_ (fun _ => ?_)
  exact does_refl _ _
  refine does_by (becomeStuck_does _) ?_
  exact does_refl _ _

theorem execUnaligned_does (s : State) :
    ∃ t, execUnaligned s = .next t ∧ Does [.tick] s t ∧ t.pending = s.pending := by
  unfold execUnaligned
  refine effect_next ?_
  try dsimp only
  refine does_onlyIf ?_ (fun _ => ?_)
  exact does_refl _ _
  refine does_by (onTick_does _ _) ?_
  exact does_refl _ _

theorem execRealigned_does (s : State) :
    ∃ t, execRealigned s = .next t ∧ Does [.tick] s t ∧ t.pending = s.pending := by
  unfold execRealigned
  refine effect_next ?_
  try dsimp only
  refine does_onlyIf ?_ (fun _ => ?_)
  exact does_refl _ _
  refine does_by (onTick_does _ _) ?_
  exact does_refl _ _

theorem stallRecords_does (group : Nat) (missing : List Nat) (s : State) : Does [.flash] s (stallRecords group missing s) := by
  unfold stallRecords
  try dsimp only
  refine does_foldl (fun _ _ => ?_) _ ?_
  refine does_by (recordEvent_does _ _ _) ?_
  exact does_refl _ _
  exact does_refl _ _

theorem stallGroup_does (g : Group) (w : GWait) (s : State) : Does [.frame, .step, .portA, .portB, .mbx, .dev, .fabric, .snap, .flash, .life] s (stallGroup g w s) := by
  unfold stallGroup
  try dsimp only
  refine does_by (finishCmd_does _ _ _ _ _) ?_
  refine does_by (finishCmd_does _ _ _ _ _) ?_
  refine does_by (onSnap_does _ _) ?_
  refine does_by (onStep_does _ _) ?_
  refine does_by (setState_does _ _) ?_
  refine does_by (onFrame_does _ _) ?_
  refine does_by (stallRecords_does _ _ _) ?_
  refine does_by (onFabric_does _ _) ?_
  exact does_refl _ _

theorem runGroupTimeout_does (group : Nat) (s : State) : Does [.frame, .step, .portA, .portB, .mbx, .dev, .fabric, .snap, .flash, .life] s (runGroupTimeout group s) := by
  unfold runGroupTimeout
  try dsimp only
  split
  refine does_ite ?_ ?_
  refine does_by (stallGroup_does _ _ _) ?_
  exact does_refl _ _
  exact does_refl _ _
  exact does_refl _ _

theorem execGroupTimeout_does (group : Nat) (s : State) :
    ∃ t, execGroupTimeout group s = .next t ∧ Does [.frame, .step, .portA, .portB, .mbx, .dev, .fabric, .snap, .flash, .life] s t ∧ t.pending = s.pending := by
  unfold execGroupTimeout
  refine effect_next ?_
  try dsimp only
  refine does_onlyIf ?_ (fun _ => ?_)
  exact does_refl _ _
  refine does_by (runGroupTimeout_does _ _) ?_
  exact does_refl _ _

theorem lateAtTick_does (s : State) : Does [.frame, .fabric] s (lateAtTick s) := by
  unfold lateAtTick
  try dsimp only
  refine does_ite ?_ ?_
  refine does_by (chipLate_does _ _) ?_
  refine does_by (onFrame_does _ _) ?_
  exact does_refl _ _
  refine does_by (onFrame_does _ _) ?_
  exact does_refl _ _

theorem endWaits_does (s : State) : Does [.fabric] s (endWaits s) := by
  unfold endWaits
  try dsimp only
  refine does_ite ?_ ?_
  refine does_by (onFabric_does _ _) ?_
  exact does_refl _ _
  exact does_refl _ _

theorem rise_caseCarries {k : FrameEnd} {m : CaseSt} (h : CaseOk m) : keysRise (caseCarries k m) := by
  unfold caseCarries
  split
  · exact h.host
  · exact h.host
  · exact rise_nil

theorem settleCase_does (k : FrameEnd) (s : State) : Does [.caseMem] s (settleCase k s) :=
  onCase_keeps _ _ (fun h => ⟨wf_fold h.mem, rise_caseCarries h, rise_nil, rise_nil, rise_caseCarries h⟩)

theorem mirrorCarried_does (s : State) : Does [.frame, .cells, .hbm, .portA, .portB, .dev, .power, .faults, .fabric, .flash] s (mirrorCarried s) := by
  unfold mirrorCarried
  try dsimp only
  refine does_foldl (fun _ _ => ?_) _ ?_
  refine does_by (mirrorWrite_does _ _ _ _ _) ?_
  exact does_refl _ _
  exact does_refl _ _

theorem settleHbm_does (k : FrameEnd) (s : State) : Does [.step, .stats, .hbm, .dev, .snap, .flash, .life] s (settleHbm k s) := by
  unfold settleHbm
  try dsimp only
  refine does_ite ?_ ?_
  refine does_by (hbmCommit_does _ _ _) ?_
  exact does_refl _ _
  refine does_by (hbmWithhold_does _) ?_
  exact does_refl _ _

theorem writeStatArea_does (s : State) (t : Nat) : Does [.hbm] s (writeStatArea s t) := by
  unfold writeStatArea
  try dsimp only
  split
  refine does_foldl (fun _ _ => ?_) _ ?_
  split
  refine does_by (hbmPut_does _ _ _) ?_
  exact does_refl _ _
  exact does_refl _ _
  exact does_refl _ _
  exact does_refl _ _

theorem settle_does (k : FrameEnd) (s : State) : Does [.tick, .frame, .step, .caseMem, .cells, .stats, .hbm, .portA, .portB, .dev, .power, .faults, .fabric, .snap, .flash, .life] s (settle k s) := by
  unfold settle
  try dsimp only
  refine does_foldl (fun _ _ => ?_) _ ?_
  refine does_by (writeStatArea_does _ _) ?_
  exact does_refl _ _
  refine does_by (onTick_does _ _) ?_
  refine does_by (onFrame_does _ _) ?_
  refine does_by (onStep_does _ _) ?_
  refine does_by (onStats_does _ _) ?_
  refine does_by (onFabric_does _ _) ?_
  refine does_by (mirrorCarried_does _) ?_
  refine does_by (settleHbm_does _ _) ?_
  refine does_by (settleCase_does _ _) ?_
  exact does_refl _ _

theorem passTime_does (s : State) : Does [.tick, .dev, .clocks, .fabric, .life] s (passTime s) := by
  unfold passTime
  try dsimp only
  refine does_by (onFabric_does _ _) ?_
  refine does_by (onDev_does _ _) ?_
  refine does_by (onClocks_does _ _) ?_
  refine does_by (onLife_does _ _) ?_
  simp only [doesMk]
  refine mk_life_does (by decide) ?_
  refine does_by (onTick_does _ _) ?_
  exact does_refl _ _

theorem changeRate_does (r : TickRate) (s : State) : Does [.tick, .env, .power, .flash] s (changeRate r s) := by
  unfold changeRate
  try dsimp only
  refine does_ite ?_ ?_
  exact does_refl _ _
  refine does_by (onPower_does _ _) ?_
  refine does_by (onTick_does _ _) ?_
  refine does_by (recordEvent_does _ _ _) ?_
  refine does_by (onPower_does _ _) ?_
  refine does_by (steadySample_does _) ?_
  refine does_ite ?_ ?_
  refine does_by (closeWindow_does _) ?_
  exact does_refl _ _
  exact does_refl _ _

theorem takeDomain_does (s : State) : Does [.tick, .dev, .env, .power, .flash] s (takeDomain s) := by
  unfold takeDomain
  try dsimp only
  split
  exact does_refl _ _
  refine does_by (onDev_does _ _) ?_
  refine does_by (onTick_does _ _) ?_
  refine does_by (changeRate_does _ _) ?_
  exact does_refl _ _

theorem takeAlignment_does (s : State) : Does [.tick, .frame, .cells, .hbm, .portA, .portB, .dev, .power, .faults, .fabric, .flash] s (takeAlignment s) := by
  unfold takeAlignment
  try dsimp only
  split
  exact does_refl _ _
  refine does_by (countEvent_does _ _ _ _) ?_
  refine does_by (onDev_does _ _) ?_
  refine does_by (onTick_does _ _) ?_
  exact does_refl _ _
  refine does_by (onFrame_does _ _) ?_
  refine does_by (onDev_does _ _) ?_
  refine does_by (onTick_does _ _) ?_
  exact does_refl _ _

theorem addTail_does (ps : List SlotPiece) (s : State) : Does [.snap] s (addTail ps s) := by
  unfold addTail
  try dsimp only
  refine does_ite ?_ ?_
  exact does_refl _ _
  refine does_by (onSnap_does _ _) ?_
  exact does_refl _ _

theorem proofCheck_does (s : State) : Does [.frame, .step, .portA, .portB, .mbx, .fabric, .snap] s (proofCheck s) := by
  unfold proofCheck
  try dsimp only
  split
  exact does_refl _ _
  refine does_ite ?_ ?_
  exact does_refl _ _
  split
  exact does_refl _ _
  refine does_by (askProof_does _ _ _) ?_
  refine does_by (onFrame_does _ _) ?_
  refine does_by (onStep_does _ _) ?_
  split
  refine does_by (addTail_does _ _) ?_
  exact does_refl _ _
  exact does_refl _ _
  refine does_by (finishCmd_does _ _ _ _ _) ?_
  exact does_refl _ _
  refine does_by (onSnap_does _ _) ?_
  refine does_by (finishCmd_does _ _ _ _ _) ?_
  exact does_refl _ _

theorem proofRecord_does (s : State) : Does [.snap] s (proofRecord s) := by
  unfold proofRecord
  try dsimp only
  split
  refine does_by (onSnap_does _ _) ?_
  exact does_refl _ _
  exact does_refl _ _

theorem clearRegenerated_does (s : State) : Does [.hbm] s (clearRegenerated s) := by
  unfold clearRegenerated
  try dsimp only
  refine does_by (onHbm_does _ _ ⟨rfl, rfl⟩) ?_
  exact does_refl _ _

theorem retireBatch_does (s : State) : Does [.step, .portA, .portB] s (retireBatch s) := by
  unfold retireBatch
  try dsimp only
  split
  refine does_by (onStep_does _ _) ?_
  refine does_by (batchRecord_does _ _ _ _) ?_
  exact does_refl _ _
  exact does_refl _ _

theorem closeStep_does (s : State) : Does [.frame, .step, .hbm, .portA, .portB, .snap] s (closeStep s) := by
  unfold closeStep
  try dsimp only
  refine does_by (onFrame_does _ _) ?_
  refine does_by (onStep_does _ _) ?_
  refine does_by (clearRegenerated_does _) ?_
  refine does_by (retireBatch_does _) ?_
  refine does_by (proofRecord_does _) ?_
  exact does_refl _ _

theorem endRegen_does (s : State) : Does [.frame, .step, .hbm] s (endRegen s) := by
  unfold endRegen
  try dsimp only
  refine does_by (clearRegenerated_does _) ?_
  refine does_by (onFrame_does _ _) ?_
  refine does_by (onStep_does _ _) ?_
  exact does_refl _ _

theorem unstick_does (s : State) : Does [.frame, .portA, .portB, .dev, .flash, .life] s (unstick s) := by
  unfold unstick
  try dsimp only
  refine does_ite ?_ ?_
  refine does_by (setState_does _ _) ?_
  refine does_by (onFrame_does _ _) ?_
  exact does_refl _ _
  exact does_refl _ _

theorem moveOn_does (wasDecision : Bool) (s : State) : Does [.frame, .step, .image, .hbm, .portA, .portB, .mbx, .fabric, .snap] s (moveOn wasDecision s) := by
  unfold moveOn
  try dsimp only
  refine does_ite ?_ ?_
  refine does_ite ?_ ?_
  refine does_by (endRegen_does _) ?_
  refine does_by (onFabric_does _ _) ?_
  exact does_refl _ _
  refine does_by (closeStep_does _) ?_
  refine does_by (onFabric_does _ _) ?_
  exact does_refl _ _
  refine does_ite ?_ ?_
  refine does_by (proofCheck_does _) ?_
  refine does_by (onImage_does _ _) ?_
  refine does_by (onFrame_does _ _) ?_
  refine does_by (onFabric_does _ _) ?_
  exact does_refl _ _
  refine does_by (onFrame_does _ _) ?_
  refine does_by (onFabric_does _ _) ?_
  exact does_refl _ _

theorem barrierFlags_does (closing : Bool) (s : State) : Does [.step, .dev] s (barrierFlags closing s) := by
  unfold barrierFlags
  try dsimp only
  refine does_by (onStep_does _ _) ?_
  refine does_by (onDev_does _ _) ?_
  exact does_refl _ _

theorem barrier_does (closing committed : Bool) (s : State) : Does [.frame, .step, .portA, .portB, .mbx, .dev, .snap, .flash, .life] s (barrier closing committed s) := by
  unfold barrier
  refine does_ite (does_mono (enterRetire_does _) (by decide)) ?_
  refine does_ite (does_step (onStep_does _ _) (by decide) (does_mono (barrierFlags_does _ _) (by decide))) ?_
  refine does_ite (does_step (finishCmd_does _ _ _ _ _) (by decide) (does_step (setState_does _ _) (by decide) (does_mono (barrierFlags_does _ _) (by decide)))) ?_
  refine does_ite ?_ ?_
  · split
    · exact does_step (finishCmd_does _ _ _ _ _) (by decide) (does_step (setState_does _ _) (by decide)
        (does_step (onDev_does _ _) (by decide) (does_mono (barrierFlags_does _ _) (by decide))))
    · exact does_refl _ _
  refine does_ite (does_step (finishCmd_does _ _ _ _ _) (by decide) (does_mono (setState_does _ _) (by decide))) ?_
  refine does_ite ?_ (does_ite (does_mono (onDev_does _ _) (by decide)) (does_refl _ _))
  exact does_step (finishCmd_does _ _ _ _ _) (by decide) (does_step (barrierFlags_does _ _) (by decide)
    (does_onlyIf (does_refl _ _) (fun x => does_mono (onFrame_does _ x) (by decide))))

theorem startRetrain_does (s : State) : Does [.dev, .fabric] s (startRetrain s) := by
  unfold startRetrain
  try dsimp only
  refine does_ite ?_ ?_
  refine does_foldl (fun _ _ => ?_) _ ?_
  refine does_by (trainPort_does _ _) ?_
  exact does_refl _ _
  refine does_by (onDev_does _ _) ?_
  exact does_refl _ _
  exact does_refl _ _

theorem endRetrain_does (s : State) : Does [.dev] s (endRetrain s) := by
  unfold endRetrain
  try dsimp only
  refine does_ite ?_ ?_
  exact does_refl _ _
  refine does_ite ?_ ?_
  refine does_by (onDev_does _ _) ?_
  exact does_refl _ _
  refine does_by (onDev_does _ _) ?_
  exact does_refl _ _

theorem endRepair_does (s : State) : Does [.portA, .portB, .dev, .flash, .life] s (endRepair s) := by
  unfold endRepair
  try dsimp only
  refine does_ite ?_ ?_
  exact does_refl _ _
  refine does_ite ?_ ?_
  exact does_refl _ _
  refine does_ite ?_ ?_
  refine does_by (onDev_does _ _) ?_
  exact does_refl _ _
  refine does_by (setState_does _ _) ?_
  refine does_by (onDev_does _ _) ?_
  exact does_refl _ _

theorem findShortPools_does (s : State) : Does [.image] s (findShortPools s) := by
  unfold findShortPools
  try dsimp only
  refine does_ite ?_ ?_
  exact does_refl _ _
  refine does_by (onImage_does _ _) ?_
  exact does_refl _ _

theorem openReimp_does (closing before : Bool) (s : State) : Does [.image] s (openReimp closing before s) := by
  unfold openReimp
  try dsimp only
  refine does_ite ?_ ?_
  exact does_refl _ _
  refine does_by (onImage_does _ _) ?_
  exact does_refl _ _

theorem tickCells_does (closing : Bool) (s : State) : Does [.frame, .image, .cells, .dev, .faults, .flash, .life] s (tickCells closing s) := by
  unfold tickCells
  try dsimp only
  refine does_by (openReimp_does _ _ _) ?_
  refine does_by (findShortPools_does _) ?_
  refine does_by (takeUnfences_does _) ?_
  refine does_by (moveFormes_does _) ?_
  refine does_by (takeFences_does _) ?_
  refine does_by (dropUnfences_does _) ?_
  exact does_refl _ _

theorem tickRepairs_does (s : State) : Does [.portA, .portB, .dev, .fabric, .flash, .life] s (tickRepairs s) := by
  unfold tickRepairs
  try dsimp only
  refine does_by (endRepair_does _) ?_
  refine does_ite ?_ ?_
  refine does_by (startReimp_does _) ?_
  refine does_by (startRetrain_does _) ?_
  refine does_by (endRetrain_does _) ?_
  exact does_refl _ _
  refine does_by (startRetrain_does _) ?_
  refine does_by (endRetrain_does _) ?_
  exact does_refl _ _

theorem cutSnapshot_does (closing : Bool) (s : State) : Does [.snap] s (cutSnapshot closing s) := by
  unfold cutSnapshot
  try dsimp only
  split
  refine does_ite ?_ ?_
  refine does_by (onSnap_does _ _) ?_
  exact does_refl _ _
  exact does_refl _ _
  exact does_refl _ _

theorem settleXfers_does (s : State) : Does [.snap] s (settleXfers s) := by
  unfold settleXfers
  try dsimp only
  refine does_by (onSnap_does _ _) ?_
  exact does_refl _ _

theorem resendXfers_does (s : State) : Does [.fabric, .snap] s (resendXfers s) := by
  unfold resendXfers
  try dsimp only
  refine does_ite ?_ ?_
  exact does_refl _ _
  refine does_by (sendPieces_does _ _) ?_
  refine does_by (onSnap_does _ _) ?_
  exact does_refl _ _

theorem tickServes_does (s : State) : Does [.fabric, .snap] s (tickServes s) := by
  unfold tickServes
  try dsimp only
  refine does_foldl (fun _ _ => ?_) _ ?_
  refine does_by (endServe_does _ _) ?_
  exact does_refl _ _
  exact does_refl _ _

theorem endStop_does (s : State) : Does [.portA, .portB, .mbx, .dev, .snap, .flash, .life] s (endStop s) := by
  unfold endStop
  try dsimp only
  split
  refine does_ite ?_ ?_
  refine does_by (finishCmd_does _ _ _ _ _) ?_
  refine does_by (leaveStop_does _) ?_
  refine does_by (onLife_does _ _) ?_
  refine does_by (addTail_does _ _) ?_
  refine does_by (onSnap_does _ _) ?_
  exact does_refl _ _
  exact does_refl _ _
  exact does_refl _ _

theorem installTables_does (s : State) : Does [.frame, .step, .stats, .portA, .portB, .mbx, .fabric] s (installTables s) := by
  unfold installTables
  try dsimp only
  split
  split
  refine does_by (finishCmd_does _ _ _ _ _) ?_
  refine does_by (onFabric_does _ _) ?_
  exact does_refl _ _
  exact does_refl _ _
  refine does_by (finishCmd_does _ _ _ _ _) ?_
  refine does_ite ?_ ?_
  refine does_by (onFabric_does _ _) ?_
  split
  refine does_by (finishCmd_does _ _ _ _ _) ?_
  refine does_by (onFabric_does _ _) ?_
  exact does_refl _ _
  exact does_refl _ _
  refine does_by (onStats_does _ _) ?_
  refine does_by (onStep_does _ _) ?_
  refine does_by (onFrame_does _ _) ?_
  refine does_by (onFabric_does _ _) ?_
  split
  refine does_by (finishCmd_does _ _ _ _ _) ?_
  refine does_by (onFabric_does _ _) ?_
  exact does_refl _ _
  exact does_refl _ _

theorem freshFrame_does (s : State) : Does [.frame, .cells, .fabric] s (freshFrame s) := by
  unfold freshFrame
  try dsimp only
  simp only [doesMk]
  refine mk_frame_cells_fabric_does  (by decide) ?_
  exact does_refl _ _

theorem takeRun_does (s : State) : Does [.frame, .step, .portA, .portB, .dev, .flash, .life] s (takeRun s) := by
  unfold takeRun
  try dsimp only
  refine does_ite ?_ ?_
  refine does_by (setState_does _ _) ?_
  refine does_by (onDev_does _ _) ?_
  refine does_by (onStep_does _ _) ?_
  exact does_refl _ _
  refine does_ite ?_ ?_
  refine does_ite ?_ ?_
  refine does_by (onFrame_does _ _) ?_
  refine does_by (onDev_does _ _) ?_
  refine does_by (onStep_does _ _) ?_
  exact does_refl _ _
  refine does_ite ?_ ?_
  refine does_by (onDev_does _ _) ?_
  refine does_by (onStep_does _ _) ?_
  exact does_refl _ _
  refine does_by (setState_does _ _) ?_
  refine does_by (onFrame_does _ _) ?_
  refine does_by (onDev_does _ _) ?_
  refine does_by (onDev_does _ _) ?_
  refine does_by (onStep_does _ _) ?_
  exact does_refl _ _
  refine does_by (onDev_does _ _) ?_
  refine does_by (onStep_does _ _) ?_
  exact does_refl _ _

theorem startProof_does (s : State) : Does [.step] s (startProof s) := by
  unfold startProof
  try dsimp only
  split
  refine does_ite ?_ ?_
  refine does_by (onStep_does _ _) ?_
  exact does_refl _ _
  exact does_refl _ _
  exact does_refl _ _

theorem takeBatch_does (s : State) : Does [.step, .portA, .portB] s (takeBatch s) := by
  unfold takeBatch
  try dsimp only
  split
  exact does_refl _ _
  refine does_ite ?_ ?_
  refine does_by (onStep_does _ _) ?_
  refine does_by (onStep_does _ _) ?_
  exact does_refl _ _
  refine does_by (batchRecord_does _ _ _ _) ?_
  refine does_by (onStep_does _ _) ?_
  exact does_refl _ _

theorem openStep_does (s : State) : Does [.frame, .step] s (openStep s) := by
  unfold openStep
  try dsimp only
  refine does_ite ?_ ?_
  exact does_refl _ _
  refine does_ite ?_ ?_
  refine does_by (onFrame_does _ _) ?_
  exact does_refl _ _
  refine does_by (onFrame_does _ _) ?_
  refine does_by (onStep_does _ _) ?_
  exact does_refl _ _

theorem checkBatch_does (s : State) : Does [.frame, .step, .portA, .portB, .mbx] s (checkBatch s) := by
  unfold checkBatch
  try dsimp only
  refine does_ite ?_ ?_
  refine does_by (finishCmd_does _ _ _ _ _) ?_
  refine does_by (onFrame_does _ _) ?_
  refine does_by (onStep_does _ _) ?_
  refine does_ite ?_ ?_
  refine does_by (takeBatch_does _) ?_
  exact does_refl _ _
  exact does_refl _ _
  refine does_ite ?_ ?_
  refine does_by (takeBatch_does _) ?_
  exact does_refl _ _
  exact does_refl _ _

theorem replayHold_does (s : State) : Does [.frame, .fabric] s (replayHold s) := by
  unfold replayHold
  try dsimp only
  refine does_by (floodHold_does _ _ _ _) ?_
  refine does_by (onFrame_does _ _) ?_
  exact does_refl _ _

theorem openingHolds_does (k : FrameEnd) (s : State) : Does [.frame, .fabric] s (openingHolds k s) := by
  unfold openingHolds
  try dsimp only
  refine does_ite ?_ ?_
  refine does_by (replayHold_does _) ?_
  exact does_refl _ _
  refine does_ite ?_ ?_
  refine does_by (raiseHold_does _ _) ?_
  exact does_refl _ _
  exact does_refl _ _

theorem sendMarkers_does (s : State) : Does [.fabric] s (sendMarkers s) := by
  unfold sendMarkers
  try dsimp only
  refine does_ite ?_ ?_
  refine does_foldl (fun _ _ => ?_) _ ?_
  refine does_by (sendOn_does _ _ _) ?_
  exact does_refl _ _
  exact does_refl _ _
  exact does_refl _ _

theorem tickForced_does (s : State) : Does [.frame, .cells, .hbm, .portA, .portB, .dev, .power, .faults, .fabric, .flash] s (tickForced s) := by
  unfold tickForced
  try dsimp only
  refine does_foldl (fun _ _ => ?_) _ ?_
  refine does_foldl (fun _ _ => ?_) _ ?_
  refine does_by (countEventWith_does _ _ _ _ _ _ _) ?_
  exact does_refl _ _
  exact does_refl _ _
  refine does_by (onFaults_does _ _) ?_
  exact does_refl _ _

theorem sendStage_does (g : Group) (stage t : Nat) (s : State) : Does [.fabric, .freeIdx] s (sendStage g stage t s) := by
  unfold sendStage
  try dsimp only
  refine does_by (flushSends_does _) ?_
  refine does_foldl (fun _ _ => ?_) _ ?_
  refine does_by (sendData_does _ _ _ _) ?_
  exact does_refl _ _
  refine does_by (emit_does _ _) ?_
  refine does_by (drawFree_does _) ?_
  exact does_refl _ _

theorem sendStepItems_does (s : State) : Does [.fabric, .freeIdx] s (sendStepItems s) := by
  unfold sendStepItems
  try dsimp only
  split
  refine does_ite ?_ ?_
  exact does_refl _ _
  refine does_foldl (fun _ _ => ?_) _ ?_
  refine does_by (sendStage_does _ _ _ _) ?_
  exact does_refl _ _
  exact does_refl _ _
  exact does_refl _ _

theorem endFrame_does (s : State) : Does [.tick, .frame, .step, .image, .caseMem, .cells, .stats, .hbm, .portA, .portB, .mbx, .dev, .power, .clocks, .faults, .fabric, .snap, .flash, .life] s (endFrame s).1 := by
  unfold endFrame
  extract_lets s0 k moves closing dec s1
  have h0 : Does [.tick, .frame, .step, .image, .caseMem, .cells, .stats, .hbm, .portA, .portB, .mbx, .dev, .power, .clocks, .faults, .fabric, .snap, .flash, .life] s s0 := does_step (endWaits_does _) (by decide) (does_mono (lateAtTick_does _) (by decide))
  have h1 : Does [.tick, .frame, .step, .image, .caseMem, .cells, .stats, .hbm, .portA, .portB, .mbx, .dev, .power, .clocks, .faults, .fabric, .snap, .flash, .life] s s1 := does_onlyIf (does_step (passTime_does _) (by decide) (does_step (settle_does _ _) (by decide) h0))
    (fun x => does_mono (unstick_does x) (by decide))
  exact does_ite (does_step (moveOn_does _ _) (by decide) h1) h1

theorem tickConfigs_does (s : State) : Does [.faults] s (tickConfigs s) := by
  unfold tickConfigs
  try dsimp only
  refine does_foldl (fun _ _ => ?_) _ ?_
  refine does_by (installCfg_does _ _ _ _) ?_
  exact does_refl _ _
  exact does_refl _ _

theorem tickLaneCounts_does (s : State) : Does [.fabric] s (tickLaneCounts s) := by
  unfold tickLaneCounts
  try dsimp only
  refine does_foldl (fun _ _ => ?_) _ ?_
  refine does_ite ?_ ?_
  refine does_by (onClasp_does _ _ _) ?_
  exact does_refl _ _
  exact does_refl _ _
  exact does_refl _ _

theorem betweenFrames_does (k : FrameEnd) (closing : Bool) (s : State) : Does [.tick, .frame, .step, .image, .cells, .hbm, .portA, .portB, .mbx, .dev, .env, .power, .clocks, .faults, .fabric, .snap, .ident, .flash, .life] s (betweenFrames k closing s) := by
  unfold betweenFrames
  extract_lets s1 s2 s3
  refine does_step (tickRepairs_does _) (by decide) (does_step (barrier_does _ _ _) (by decide) ?_)
  refine does_onlyIf (does_step (cutSnapshot_does _ _) (by decide) ?_) (fun x => does_mono (enterReady_does x) (by decide))
  refine does_step (tickCells_does _ _) (by decide) (does_step (takeWaiting_does _) (by decide) (does_step (endStop_does _) (by decide) ?_))
  exact does_step (takeAlignment_does _) (by decide) (does_step (takeDomain_does _) (by decide) (does_step (powerTick_does _) (by decide)
    (does_step (tickLaneCounts_does _) (by decide) (does_mono (tickConfigs_does _) (by decide)))))

theorem openFrame_does (k : FrameEnd) (s : State) : Does [.frame, .step, .cells, .stats, .hbm, .portA, .portB, .mbx, .dev, .power, .faults, .fabric, .snap, .flash, .life, .freeIdx] s (openFrame k s) := by
  unfold openFrame
  extract_lets s1
  refine does_step (orphanFrame_does _) (by decide) (does_step (tickServes_does _) (by decide) (does_step (resendXfers_does _) (by decide) ?_))
  refine does_step (markDamaged_does _) (by decide) (does_step (tickForced_does _) (by decide) ?_)
  refine does_step (sendStepItems_does _) (by decide) (does_step (sampleItems_does _) (by decide) ?_)
  refine does_step (openingHolds_does _ _) (by decide) (does_step (checkBatch_does _) (by decide) (does_step (sendMarkers_does _) (by decide) ?_))
  refine does_step (openStep_does _) (by decide) (does_step (startProof_does _) (by decide) (does_step (takeRun_does _) (by decide) ?_))
  exact does_step (freshFrame_does _) (by decide) (does_mono (installTables_does _) (by decide))

theorem beforeTick_does (s : State) : Does [.frame, .step, .cells, .hbm, .portA, .portB, .dev, .power, .faults, .fabric, .snap, .flash, .life] s (beforeTick s) := by
  unfold beforeTick
  try dsimp only
  refine does_by (settleXfers_does _) ?_
  refine does_by (serveWaits_does _ _) ?_
  exact does_refl _ _

theorem runTick_does (s : State) : Does [.tick, .frame, .step, .image, .caseMem, .cells, .stats, .hbm, .portA, .portB, .mbx, .dev, .env, .power, .clocks, .faults, .fabric, .snap, .ident, .flash, .life, .freeIdx] s (runTick s) := by
  unfold runTick
  extract_lets e
  refine does_step (openFrame_does _ _) (by decide) (does_step (betweenFrames_does _ _ _) (by decide) (does_step (endFrame_does _) (by decide) ?_))
  exact does_mono (beforeTick_does _) (by decide)

theorem failedTick_does (s : State) : Does [.tick, .power, .clocks, .life] s (failedTick s) := by
  unfold failedTick
  try dsimp only
  refine does_onlyIf ?_ (fun _ => ?_)
  exact does_refl _ _
  refine does_by (hardwareTick_does _) ?_
  refine does_by (onLife_does _ _) ?_
  refine does_by (onTick_does _ _) ?_
  exact does_refl _ _

theorem execTick_does (s : State) : ∃ t, execTick s = .next t ∧ Does [.tick, .frame, .step, .image, .caseMem, .cells, .stats, .hbm, .portA, .portB, .mbx, .dev, .env, .power, .clocks, .faults, .fabric, .snap, .ident, .flash, .life, .freeIdx] s t ∧ t.pending = s.pending :=
  effect_next (does_ite (does_mono (runTick_does _) (by decide)) (does_mono (failedTick_does _) (by decide)))

end Sys2Proof.Machine
end

