-- ==== Sys2Proof/Laws/Lanes.lean ====
section
/-! SUPPORT. Lanes of vector registers: what packing and masked writing leave in each lane, and the outcome of an instruction
that changes one register. -/

namespace Sys2Proof.Machine
open Sys2Proof

theorem p2_eq (n : Nat) : p2 n = 2 ^ n := by simp [p2, Nat.shiftLeft_eq]

/-- Numbers packed as digits of `b` bits, the first lowest. -/
def digits (b : Nat) (l : List Nat) : Nat := l.foldr (fun x acc => acc * p2 b + x % p2 b) 0

theorem digits_lt (b : Nat) : ∀ l : List Nat, digits b l < 2 ^ (b * l.length)
  | [] => by simp [digits]
  | x :: xs => by
    have h := digits_lt b xs
    have hx : x % 2 ^ b < 2 ^ b := Nat.mod_lt _ (Nat.two_pow_pos b)
    have e : digits b (x :: xs) = digits b xs * 2 ^ b + x % 2 ^ b := by simp [digits, p2_eq]
    rw [e, List.length_cons, Nat.mul_succ, Nat.pow_add]
    calc digits b xs * 2 ^ b + x % 2 ^ b < digits b xs * 2 ^ b + 2 ^ b := by omega
      _ = (digits b xs + 1) * 2 ^ b := by rw [Nat.succ_mul]
      _ ≤ 2 ^ (b * xs.length) * 2 ^ b := Nat.mul_le_mul_right _ h

theorem digit (b : Nat) : ∀ (l : List Nat) (i : Nat), i < l.length → (digits b l >>> (b * i)) % p2 b = l.getD i 0 % p2 b
  | x :: xs, 0, _ => by
    simp [digits, p2_eq, Nat.mul_add_mod_self_right]
  | x :: xs, i + 1, h => by
    have e : digits b (x :: xs) = digits b xs * 2 ^ b + x % 2 ^ b := by simp [digits, p2_eq]
    have hd : (digits b xs * 2 ^ b + x % 2 ^ b) / 2 ^ b = digits b xs := by
      rw [Nat.mul_comm, Nat.mul_add_div (Nat.two_pow_pos b), Nat.div_eq_of_lt (Nat.mod_lt _ (Nat.two_pow_pos b)), Nat.add_zero]
    have ih := digit b xs i (by simpa using h)
    rw [e, Nat.mul_succ, Nat.add_comm (b * i) b, Nat.shiftRight_add, Nat.shiftRight_eq_div_pow _ b, hd, ih]
    simp

theorem laneBits_mul (w : Nat) : laneBits w * laneNum w = 4096 := by
  unfold laneBits laneNum
  split
  · rfl
  · split <;> rfl

/-- Each lane of a packed register. -/
theorem lane_pack (w : Nat) (l : List Nat) (hl : l.length = laneNum w) (i : Nat) (hi : i < laneNum w) :
    lane w (packLanes w l) i = l.getD i 0 % p2 (laneBits w) := by
  have hlt := digits_lt (laneBits w) l
  rw [hl, laneBits_mul] at hlt
  have e : (packLanes w l).toNat = digits (laneBits w) l := by
    unfold packLanes
    rw [BitVec.toNat_ofNat]
    exact Nat.mod_eq_of_lt hlt
  unfold lane
  rw [e]
  exact digit _ _ _ (hl ▸ hi)

@[simp] theorem getD_lanesOf (w : Nat) (v : BitVec 4096) (i : Nat) (hi : i < laneNum w) : (lanesOf w v).getD i 0 = lane w v i := by
  simp [lanesOf, lane, List.getD_eq_getElem?_getD, hi]

theorem lane_lt (w : Nat) (v : BitVec 4096) (i : Nat) : lane w v i < p2 (laneBits w) :=
  Nat.mod_lt _ (by rw [p2_eq]; exact Nat.two_pow_pos _)

theorem vregOf_setVreg (s : State) (cell r : Nat) (v : BitVec 4096) : vregOf (setVreg cell r v s) cell r = v := by
  simp [vregOf, setVreg, onEng, setEng, engOf]

/-- Masked writing, as one register update whose lanes are known. -/
theorem writeLanes_eq (cell : Nat) (f : VFields) (w : Nat) (vals : List Nat) (s : State)
    (hv : ∀ l, l < laneNum w → vals.getD l 0 < p2 (laneBits w)) :
    ∃ v, writeLanes cell f w vals s = setVreg cell f.vd v s ∧ lanesHold s cell f w v (fun l => vals.getD l 0) := by
  refine ⟨_, rfl, fun l hl => ?_⟩
  rw [lane_pack _ _ (by simp) _ hl]
  rw [List.getD_eq_getElem?_getD, List.getElem?_map, List.getElem?_range hl]
  simp only [Option.map_some, Option.getD_some]
  split
  · exact Nat.mod_eq_of_lt (hv l hl)
  · split
    · simp
    · rw [getD_lanesOf _ _ _ hl]
      exact Nat.mod_eq_of_lt (lane_lt _ _ _)

theorem bits_sum (f : Nat → Bool) (n : Nat) :
    (List.range n).foldl (fun acc l => acc + bitAt (f l) l) 0 < 2 ^ n ∧
      ∀ l, l < n → Nat.testBit ((List.range n).foldl (fun acc l => acc + bitAt (f l) l) 0) l = f l := by
  induction n with
  | zero => simp
  | succ n ih =>
    obtain ⟨hlt, hb⟩ := ih
    rw [List.range_succ, List.foldl_append, List.foldl_cons, List.foldl_nil]
    generalize (List.range n).foldl (fun acc l => acc + bitAt (f l) l) 0 = x at hlt hb ⊢
    have hx : bitAt (f n) n = if f n then 2 ^ n else 0 := by simp [bitAt, p2_eq]
    rw [hx]
    cases hf : f n with
    | false =>
      simp only [Bool.false_eq_true, if_false, Nat.add_zero]
      refine ⟨by rw [Nat.pow_succ]; omega, fun l hl => ?_⟩
      rcases Nat.lt_succ_iff_lt_or_eq.mp hl with h | h
      · exact hb l h
      · subst h
        rw [hf]
        exact Nat.testBit_lt_two_pow hlt
    | true =>
      simp only [if_true]
      refine ⟨by rw [Nat.pow_succ]; omega, fun l hl => ?_⟩
      rcases Nat.lt_succ_iff_lt_or_eq.mp hl with h | h
      · rw [Nat.add_comm, Nat.testBit_two_pow_add_gt h]
        exact hb l h
      · subst h
        rw [Nat.add_comm, Nat.testBit_two_pow_add_eq, Nat.testBit_lt_two_pow hlt, hf]
        rfl

/-- Masked writing of a mask register, as one register update whose bits are known. -/
theorem writeMask_eq (cell : Nat) (f : VFields) (n : Nat) (bits : Nat → Bool) (s : State) :
    ∃ v, writeMask cell f n bits s = setMreg cell f.vd v s ∧ bitsHold s cell f n v bits := by
  refine ⟨_, rfl, fun l hl => ?_⟩
  have h := bits_sum (fun l => if n ≤ l then (mregOf s cell f.vd).getLsbD l
    else if laneOn s cell f l then bits l else if f.zeroing then false else (mregOf s cell f.vd).getLsbD l) 512
  rw [BitVec.getLsbD_ofNat, h.2 l hl]
  simp [hl]

/-- A program of one instruction that asks for no repeat runs once. -/
theorem runOne_eq (cell : Nat) (op : VOp) (f : VFields) (s : State) (hc : vectorRuns s cell { op := op, f := f } = true)
    (hx : (vStep [] cell { s := s, adj := [], need := [], ok := true } { op := op, f := f }).ok = true)
    (hn : (vStep [] cell { s := s, adj := [], need := [], ok := true } { op := op, f := f }).need = []) :
    runOne cell op f s = (vStep [] cell { s := s, adj := [], need := [], ok := true } { op := op, f := f }).s := by
  unfold runOne runVector
  rw [if_pos hc]
  rw [show (1100 : Nat) = 1099 + 1 from rfl, runProgram]
  simp only [List.foldl_cons, List.foldl_nil, hx, hn]
  rfl

end Sys2Proof.Machine
end

