-- ==== Sys2Proof/Laws/PerInstr.lean ====
section
/-! SUPPORT. Statements made per command. Family Queue: the queue of waiting commands is no component that a command changes; only
step takes from it. -/

set_option Elab.async false

namespace Sys2Proof.Laws.Queue
open Sys2Proof Sys2Proof.Machine

/-- The queue is not among a command's components. -/
def Statement (i : Instr) : Prop := Comp.pending ∉ touches i

theorem tick : Statement .tick := by simp [Statement, touches]
theorem cellStart (x0) : Statement (.cellStart x0) := by simp [Statement, touches]
theorem holdDeadline : Statement .holdDeadline := by simp [Statement, touches]
theorem lockUp : Statement .lockUp := by simp [Statement, touches]
theorem stuckForme : Statement .stuckForme := by simp [Statement, touches]
theorem unaligned : Statement .unaligned := by simp [Statement, touches]
theorem realigned : Statement .realigned := by simp [Statement, touches]
theorem heartbeat (x0) : Statement (.heartbeat x0) := by simp [Statement, touches]
theorem regionLost (x0) : Statement (.regionLost x0) := by simp [Statement, touches]
theorem compositorHeartbeatLoss : Statement .compositorHeartbeatLoss := by simp [Statement, touches]
theorem formeItemStart (x0 x1 x2) : Statement (.formeItemStart x0 x1 x2) := by simp [Statement, touches]
theorem pass (x0 x1 x2) : Statement (.pass x0 x1 x2) := by simp [Statement, touches]
theorem weightSwap (x0) : Statement (.weightSwap x0) := by simp [Statement, touches]
theorem drain (x0 x1) : Statement (.drain x0 x1) := by simp [Statement, touches]
theorem galleySlotFree (x0) : Statement (.galleySlotFree x0) := by simp [Statement, touches]
theorem droopTrip (x0) : Statement (.droopTrip x0) := by simp [Statement, touches]
theorem droopRestoreStep (x0) : Statement (.droopRestoreStep x0) := by simp [Statement, touches]
theorem vectorItem (x0 x1) : Statement (.vectorItem x0 x1) := by simp [Statement, touches]
theorem ld (x0 x1) : Statement (.ld x0 x1) := by simp [Statement, touches]
theorem st (x0 x1) : Statement (.st x0 x1) := by simp [Statement, touches]
theorem ldg (x0 x1) : Statement (.ldg x0 x1) := by simp [Statement, touches]
theorem add (x0 x1) : Statement (.add x0 x1) := by simp [Statement, touches]
theorem sub (x0 x1) : Statement (.sub x0 x1) := by simp [Statement, touches]
theorem mul (x0 x1) : Statement (.mul x0 x1) := by simp [Statement, touches]
theorem fma (x0 x1) : Statement (.fma x0 x1) := by simp [Statement, touches]
theorem max (x0 x1) : Statement (.max x0 x1) := by simp [Statement, touches]
theorem min (x0 x1) : Statement (.min x0 x1) := by simp [Statement, touches]
theorem abs (x0 x1) : Statement (.abs x0 x1) := by simp [Statement, touches]
theorem neg (x0 x1) : Statement (.neg x0 x1) := by simp [Statement, touches]
theorem sel (x0 x1) : Statement (.sel x0 x1) := by simp [Statement, touches]
theorem cmplt (x0 x1) : Statement (.cmplt x0 x1) := by simp [Statement, touches]
theorem cmple (x0 x1) : Statement (.cmple x0 x1) := by simp [Statement, touches]
theorem cmpeq (x0 x1) : Statement (.cmpeq x0 x1) := by simp [Statement, touches]
theorem mand (x0 x1) : Statement (.mand x0 x1) := by simp [Statement, touches]
theorem mor (x0 x1) : Statement (.mor x0 x1) := by simp [Statement, touches]
theorem mnot (x0 x1) : Statement (.mnot x0 x1) := by simp [Statement, touches]
theorem exp2 (x0 x1) : Statement (.exp2 x0 x1) := by simp [Statement, touches]
theorem log2 (x0 x1) : Statement (.log2 x0 x1) := by simp [Statement, touches]
theorem rcp (x0 x1) : Statement (.rcp x0 x1) := by simp [Statement, touches]
theorem rsqrt (x0 x1) : Statement (.rsqrt x0 x1) := by simp [Statement, touches]
theorem tanh (x0 x1) : Statement (.tanh x0 x1) := by simp [Statement, touches]
theorem erf (x0 x1) : Statement (.erf x0 x1) := by simp [Statement, touches]
theorem cvt (x0 x1) : Statement (.cvt x0 x1) := by simp [Statement, touches]
theorem redsum (x0 x1) : Statement (.redsum x0 x1) := by simp [Statement, touches]
theorem redmax (x0 x1) : Statement (.redmax x0 x1) := by simp [Statement, touches]
theorem redmin (x0 x1) : Statement (.redmin x0 x1) := by simp [Statement, touches]
theorem scan (x0 x1) : Statement (.scan x0 x1) := by simp [Statement, touches]
theorem azero (x0 x1) : Statement (.azero x0 x1) := by simp [Statement, touches]
theorem aadd (x0 x1) : Statement (.aadd x0 x1) := by simp [Statement, touches]
theorem afold (x0 x1) : Statement (.afold x0 x1) := by simp [Statement, touches]
theorem around (x0 x1) : Statement (.around x0 x1) := by simp [Statement, touches]
theorem ascan (x0 x1) : Statement (.ascan x0 x1) := by simp [Statement, touches]
theorem ald (x0 x1) : Statement (.ald x0 x1) := by simp [Statement, touches]
theorem ast (x0 x1) : Statement (.ast x0 x1) := by simp [Statement, touches]
theorem lig (x0 x1) : Statement (.lig x0 x1) := by simp [Statement, touches]
theorem topkm (x0 x1) : Statement (.topkm x0 x1) := by simp [Statement, touches]
theorem transfer (x0 x1) : Statement (.transfer x0 x1) := by simp [Statement, touches]
theorem bezelSlotGrant (x0 x1 x2) : Statement (.bezelSlotGrant x0 x1 x2) := by simp [Statement, touches]
theorem copy (x0 x1) : Statement (.copy x0 x1) := by simp [Statement, touches]
theorem reblock (x0 x1) : Statement (.reblock x0 x1) := by simp [Statement, touches]
theorem transpose (x0 x1) : Statement (.transpose x0 x1) := by simp [Statement, touches]
theorem quantize (x0 x1) : Statement (.quantize x0 x1) := by simp [Statement, touches]
theorem dequantize (x0 x1) : Statement (.dequantize x0 x1) := by simp [Statement, touches]
theorem mxImport (x0 x1) : Statement (.mxImport x0 x1) := by simp [Statement, touches]
theorem mxExport (x0 x1) : Statement (.mxExport x0 x1) := by simp [Statement, touches]
theorem reduceInit (x0 x1) : Statement (.reduceInit x0 x1) := by simp [Statement, touches]
theorem reduceAdd (x0 x1) : Statement (.reduceAdd x0 x1) := by simp [Statement, touches]
theorem reduceClose (x0 x1) : Statement (.reduceClose x0 x1) := by simp [Statement, touches]
theorem update (x0 x1 x2 x3) : Statement (.update x0 x1 x2 x3) := by simp [Statement, touches]
theorem snapshotCopy (x0 x1 x2) : Statement (.snapshotCopy x0 x1 x2) := by simp [Statement, touches]
theorem sequencerTimeout (x0) : Statement (.sequencerTimeout x0) := by simp [Statement, touches]
theorem arbiterTimeout (x0) : Statement (.arbiterTimeout x0) := by simp [Statement, touches]
theorem scrub (x0 x1) : Statement (.scrub x0 x1) := by simp [Statement, touches]
theorem migration (x0 x1) : Statement (.migration x0 x1) := by simp [Statement, touches]
theorem pcRetirementDone (x0 x1) : Statement (.pcRetirementDone x0 x1) := by simp [Statement, touches]
theorem decision (x0 x1) : Statement (.decision x0 x1) := by simp [Statement, touches]
theorem writePacket (x0 x1 x2) : Statement (.writePacket x0 x1 x2) := by simp [Statement, touches]
theorem reduceWritePacket (x0 x1 x2) : Statement (.reduceWritePacket x0 x1 x2) := by simp [Statement, touches]
theorem longPartialPacket (x0 x1 x2) : Statement (.longPartialPacket x0 x1 x2) := by simp [Statement, touches]
theorem snapshotTransferPacket (x0 x1 x2 x3) : Statement (.snapshotTransferPacket x0 x1 x2 x3) := by simp [Statement, touches]
theorem tickMarker (x0 x1 x2 x3) : Statement (.tickMarker x0 x1 x2 x3) := by simp [Statement, touches]
theorem holdPacket (x0 x1 x2 x3 x4) : Statement (.holdPacket x0 x1 x2 x3 x4) := by simp [Statement, touches]
theorem credit (x0 x1) : Statement (.credit x0 x1) := by simp [Statement, touches]
theorem deliveryCredit (x0 x1 x2 x3 x4) : Statement (.deliveryCredit x0 x1 x2 x3 x4) := by simp [Statement, touches]
theorem flitReceived (x0 x1 x2 x3) : Statement (.flitReceived x0 x1 x2 x3) := by simp [Statement, touches]
theorem laneLoss (x0 x1) : Statement (.laneLoss x0 x1) := by simp [Statement, touches]
theorem linkDown (x0) : Statement (.linkDown x0) := by simp [Statement, touches]
theorem linkTrainingDone (x0 x1) : Statement (.linkTrainingDone x0 x1) := by simp [Statement, touches]
theorem linkRetry (x0) : Statement (.linkRetry x0) := by simp [Statement, touches]
theorem groupTimeout (x0) : Statement (.groupTimeout x0) := by simp [Statement, touches]
theorem spareLoad (x0) : Statement (.spareLoad x0) := by simp [Statement, touches]
theorem reimposition (x0) : Statement (.reimposition x0) := by simp [Statement, touches]
theorem reimpositionTimeout : Statement .reimpositionTimeout := by simp [Statement, touches]
theorem faultEvent (x0 x1 x2 x3) : Statement (.faultEvent x0 x1 x2 x3) := by simp [Statement, touches]
theorem faultWindowStart (x0 x1 x2) : Statement (.faultWindowStart x0 x1 x2) := by simp [Statement, touches]
theorem controlStep (x0) : Statement (.controlStep x0) := by simp [Statement, touches]
theorem thermalEmergencyEnd : Statement .thermalEmergencyEnd := by simp [Statement, touches]
theorem pointDecision : Statement .pointDecision := by simp [Statement, touches]
theorem powerSample (x0) : Statement (.powerSample x0) := by simp [Statement, touches]
theorem regulatorFaultEnd (x0) : Statement (.regulatorFaultEnd x0) := by simp [Statement, touches]
theorem divergenceFallback : Statement .divergenceFallback := by simp [Statement, touches]
theorem divergenceFallbackEnd : Statement .divergenceFallbackEnd := by simp [Statement, touches]
theorem guardBandEnd : Statement .guardBandEnd := by simp [Statement, touches]
theorem averagingWindowEnd : Statement .averagingWindowEnd := by simp [Statement, touches]
theorem steadyWindowEnd : Statement .steadyWindowEnd := by simp [Statement, touches]
theorem sensorLost (x0 x1 x2) : Statement (.sensorLost x0 x1 x2) := by simp [Statement, touches]
theorem sensorRestored (x0 x1 x2) : Statement (.sensorRestored x0 x1 x2) := by simp [Statement, touches]
theorem sensorDisagreement (x0 x1) : Statement (.sensorDisagreement x0 x1) := by simp [Statement, touches]
theorem firmwareAbsentFallback : Statement .firmwareAbsentFallback := by simp [Statement, touches]
theorem thermalTrip (x0 x1) : Statement (.thermalTrip x0 x1) := by simp [Statement, touches]
theorem pllLossOfLock (x0) : Statement (.pllLossOfLock x0) := by simp [Statement, touches]
theorem pwrgdFall (x0) : Statement (.pwrgdFall x0) := by simp [Statement, touches]
theorem ioRailFall : Statement .ioRailFall := by simp [Statement, touches]
theorem powerOn : Statement .powerOn := by simp [Statement, touches]
theorem perst (x0 x1) : Statement (.perst x0 x1) := by simp [Statement, touches]
theorem bothPerst : Statement .bothPerst := by simp [Statement, touches]
theorem functionLevelReset (x0) : Statement (.functionLevelReset x0) := by simp [Statement, touches]
theorem pcieLinkDown (x0) : Statement (.pcieLinkDown x0) := by simp [Statement, touches]
theorem powerStateChange (x0 x1) : Statement (.powerStateChange x0 x1) := by simp [Statement, touches]
theorem busMasterEnable (x0 x1) : Statement (.busMasterEnable x0 x1) := by simp [Statement, touches]
theorem coreReset : Statement .coreReset := by simp [Statement, touches]
theorem startUp (x0) : Statement (.startUp x0) := by simp [Statement, touches]
theorem startupError (x0) : Statement (.startupError x0) := by simp [Statement, touches]
theorem readyReached : Statement .readyReached := by simp [Statement, touches]
theorem leaseExpiry : Statement .leaseExpiry := by simp [Statement, touches]
theorem mbxStateWrite (x0 x1 x2) : Statement (.mbxStateWrite x0 x1 x2) := by simp [Statement, touches]
theorem mbxRingCtrlWrite (x0 x1) : Statement (.mbxRingCtrlWrite x0 x1) := by simp [Statement, touches]
theorem mbxRingConsumedWrite (x0 x1) : Statement (.mbxRingConsumedWrite x0 x1) := by simp [Statement, touches]
theorem completionRecordWrite (x0) : Statement (.completionRecordWrite x0) := by simp [Statement, touches]
theorem devStickyWrite (x0 x1) : Statement (.devStickyWrite x0 x1) := by simp [Statement, touches]
theorem tickCountRead (x0 x1) : Statement (.tickCountRead x0 x1) := by simp [Statement, touches]
theorem registerWrite (x0 x1 x2 x3) : Statement (.registerWrite x0 x1 x2 x3) := by simp [Statement, touches]
theorem bar2Read (x0 x1 x2 x3) : Statement (.bar2Read x0 x1 x2 x3) := by simp [Statement, touches]
theorem bar2Write (x0 x1 x2) : Statement (.bar2Write x0 x1 x2) := by simp [Statement, touches]
theorem bar4Access (x0 x1 x2) : Statement (.bar4Access x0 x1 x2) := by simp [Statement, touches]
theorem hostTransferResume (x0) : Statement (.hostTransferResume x0) := by simp [Statement, touches]
theorem identify : Statement .identify := by simp [Statement, touches]
theorem status : Statement .status := by simp [Statement, touches]
theorem claimControl : Statement .claimControl := by simp [Statement, touches]
theorem renewLease : Statement .renewLease := by simp [Statement, touches]
theorem releaseControl : Statement .releaseControl := by simp [Statement, touches]
theorem reset : Statement .reset := by simp [Statement, touches]
theorem setTime : Statement .setTime := by simp [Statement, touches]
theorem setEnvironment : Statement .setEnvironment := by simp [Statement, touches]
theorem setPowerBudget : Statement .setPowerBudget := by simp [Statement, touches]
theorem setOperatingPoints : Statement .setOperatingPoints := by simp [Statement, touches]
theorem setFabricAddress : Statement .setFabricAddress := by simp [Statement, touches]
theorem loadRoutes (x0) : Statement (.loadRoutes x0) := by simp [Statement, touches]
theorem loadGroups (x0) : Statement (.loadGroups x0) := by simp [Statement, touches]
theorem portControl : Statement .portControl := by simp [Statement, touches]
theorem setTickDomain : Statement .setTickDomain := by simp [Statement, touches]
theorem loadImposition (x0) : Statement (.loadImposition x0) := by simp [Statement, touches]
theorem imageLoadDone : Statement .imageLoadDone := by simp [Statement, touches]
theorem unload : Statement .unload := by simp [Statement, touches]
theorem bindHostBuffers : Statement .bindHostBuffers := by simp [Statement, touches]
theorem runSteps : Statement .runSteps := by simp [Statement, touches]
theorem submitBatch (x0) : Statement (.submitBatch x0) := by simp [Statement, touches]
theorem hold : Statement .hold := by simp [Statement, touches]
theorem resume : Statement .resume := by simp [Statement, touches]
theorem snapshot : Statement .snapshot := by simp [Statement, touches]
theorem snapshotStop : Statement .snapshotStop := by simp [Statement, touches]
theorem snapshotStopEnd : Statement .snapshotStopEnd := by simp [Statement, touches]
theorem snapshotAbort : Statement .snapshotAbort := by simp [Statement, touches]
theorem proofRecordWrite (x0) : Statement (.proofRecordWrite x0) := by simp [Statement, touches]
theorem setPartners : Statement .setPartners := by simp [Statement, touches]
theorem restore : Statement .restore := by simp [Statement, touches]
theorem restoreDone (x0) : Statement (.restoreDone x0) := by simp [Statement, touches]
theorem proof : Statement .proof := by simp [Statement, touches]
theorem exportSnapshot : Statement .exportSnapshot := by simp [Statement, touches]
theorem faultRead : Statement .faultRead := by simp [Statement, touches]
theorem faultConfig : Statement .faultConfig := by simp [Statement, touches]
theorem faultForce : Statement .faultForce := by simp [Statement, touches]
theorem unfence : Statement .unfence := by simp [Statement, touches]
theorem eventRead : Statement .eventRead := by simp [Statement, touches]
theorem lifetimeRead : Statement .lifetimeRead := by simp [Statement, touches]
theorem statsRead : Statement .statsRead := by simp [Statement, touches]
theorem loupe : Statement .loupe := by simp [Statement, touches]
theorem referenceMode : Statement .referenceMode := by simp [Statement, touches]
theorem firmwareStage (x0) : Statement (.firmwareStage x0) := by simp [Statement, touches]
theorem firmwareActivate : Statement .firmwareActivate := by simp [Statement, touches]
theorem getVersion (x0) : Statement (.getVersion x0) := by simp [Statement, touches]
theorem getCapabilities (x0) : Statement (.getCapabilities x0) := by simp [Statement, touches]
theorem negotiateAlgorithms (x0 x1 x2) : Statement (.negotiateAlgorithms x0 x1 x2) := by simp [Statement, touches]
theorem getDigests (x0) : Statement (.getDigests x0) := by simp [Statement, touches]
theorem getCertificate (x0 x1 x2 x3) : Statement (.getCertificate x0 x1 x2 x3) := by simp [Statement, touches]
theorem challenge (x0 x1 x2) : Statement (.challenge x0 x1 x2) := by simp [Statement, touches]
theorem getMeasurements (x0 x1 x2 x3) : Statement (.getMeasurements x0 x1 x2 x3) := by simp [Statement, touches]
theorem unsupportedRequest (x0 x1) : Statement (.unsupportedRequest x0 x1) := by simp [Statement, touches]
theorem doeDiscovery (x0 x1) : Statement (.doeDiscovery x0 x1) := by simp [Statement, touches]
theorem doeAbort (x0) : Statement (.doeAbort x0) := by simp [Statement, touches]
theorem eventRecordWrite : Statement .eventRecordWrite := by simp [Statement, touches]
theorem lifetimeWrite : Statement .lifetimeWrite := by simp [Statement, touches]
theorem unknownOpcode : Statement .unknownOpcode := by simp [Statement, touches]
theorem pcieLinkUp (x0 x1 x2) : Statement (.pcieLinkUp x0 x1 x2) := by simp [Statement, touches]
theorem restoreRequest (x0 x1 x2 x3) : Statement (.restoreRequest x0 x1 x2 x3) := by simp [Statement, touches]
theorem unloadDone : Statement .unloadDone := by simp [Statement, touches]
theorem firmwareStageDone : Statement .firmwareStageDone := by simp [Statement, touches]
theorem loupeRunDone : Statement .loupeRunDone := by simp [Statement, touches]
theorem hostBufferDeliveryDone (x0) : Statement (.hostBufferDeliveryDone x0) := by simp [Statement, touches]
theorem voltageSlewEnd : Statement .voltageSlewEnd := by simp [Statement, touches]
theorem hbmRetrainingDone (x0) : Statement (.hbmRetrainingDone x0) := by simp [Statement, touches]

end Sys2Proof.Laws.Queue
end

