-- ==== Sys2Proof/Laws/State.lean ====
section
/-! SUPPORT. What each component of the state is after an update: one lemma for each update and component, true by rfl. -/

namespace Sys2Proof.Machine
open Sys2Proof

set_option Elab.async false

/-! ### onTick -/

@[simp] theorem onTick_tick (f) (s : State) : (onTick f s).tick = f s.tick := rfl
@[simp] theorem onTick_frame (f) (s : State) : (onTick f s).frame = s.frame := rfl
@[simp] theorem onTick_step (f) (s : State) : (onTick f s).step = s.step := rfl
@[simp] theorem onTick_image (f) (s : State) : (onTick f s).image = s.image := rfl
@[simp] theorem onTick_caseMem (f) (s : State) : (onTick f s).caseMem = s.caseMem := rfl
@[simp] theorem onTick_cells (f) (s : State) : (onTick f s).cells = s.cells := rfl
@[simp] theorem onTick_stats (f) (s : State) : (onTick f s).stats = s.stats := rfl
@[simp] theorem onTick_hbm (f) (s : State) : (onTick f s).hbm = s.hbm := rfl
@[simp] theorem onTick_portA (f) (s : State) : (onTick f s).portA = s.portA := rfl
@[simp] theorem onTick_portB (f) (s : State) : (onTick f s).portB = s.portB := rfl
@[simp] theorem onTick_mbx (f) (s : State) : (onTick f s).mbx = s.mbx := rfl
@[simp] theorem onTick_own (f) (s : State) : (onTick f s).own = s.own := rfl
@[simp] theorem onTick_dev (f) (s : State) : (onTick f s).dev = s.dev := rfl
@[simp] theorem onTick_env (f) (s : State) : (onTick f s).env = s.env := rfl
@[simp] theorem onTick_power (f) (s : State) : (onTick f s).power = s.power := rfl
@[simp] theorem onTick_pins (f) (s : State) : (onTick f s).pins = s.pins := rfl
@[simp] theorem onTick_clocks (f) (s : State) : (onTick f s).clocks = s.clocks := rfl
@[simp] theorem onTick_faults (f) (s : State) : (onTick f s).faults = s.faults := rfl
@[simp] theorem onTick_fabric (f) (s : State) : (onTick f s).fabric = s.fabric := rfl
@[simp] theorem onTick_snap (f) (s : State) : (onTick f s).snap = s.snap := rfl
@[simp] theorem onTick_ident (f) (s : State) : (onTick f s).ident = s.ident := rfl
@[simp] theorem onTick_flash (f) (s : State) : (onTick f s).flash = s.flash := rfl
@[simp] theorem onTick_life (f) (s : State) : (onTick f s).life = s.life := rfl
@[simp] theorem onTick_staging (f) (s : State) : (onTick f s).staging = s.staging := rfl
@[simp] theorem onTick_freeIdx (f) (s : State) : (onTick f s).freeIdx = s.freeIdx := rfl
@[simp] theorem onTick_pending (f) (s : State) : (onTick f s).pending = s.pending := rfl

/-! ### onFrame -/

@[simp] theorem onFrame_tick (f) (s : State) : (onFrame f s).tick = s.tick := rfl
@[simp] theorem onFrame_frame (f) (s : State) : (onFrame f s).frame = f s.frame := rfl
@[simp] theorem onFrame_step (f) (s : State) : (onFrame f s).step = s.step := rfl
@[simp] theorem onFrame_image (f) (s : State) : (onFrame f s).image = s.image := rfl
@[simp] theorem onFrame_caseMem (f) (s : State) : (onFrame f s).caseMem = s.caseMem := rfl
@[simp] theorem onFrame_cells (f) (s : State) : (onFrame f s).cells = s.cells := rfl
@[simp] theorem onFrame_stats (f) (s : State) : (onFrame f s).stats = s.stats := rfl
@[simp] theorem onFrame_hbm (f) (s : State) : (onFrame f s).hbm = s.hbm := rfl
@[simp] theorem onFrame_portA (f) (s : State) : (onFrame f s).portA = s.portA := rfl
@[simp] theorem onFrame_portB (f) (s : State) : (onFrame f s).portB = s.portB := rfl
@[simp] theorem onFrame_mbx (f) (s : State) : (onFrame f s).mbx = s.mbx := rfl
@[simp] theorem onFrame_own (f) (s : State) : (onFrame f s).own = s.own := rfl
@[simp] theorem onFrame_dev (f) (s : State) : (onFrame f s).dev = s.dev := rfl
@[simp] theorem onFrame_env (f) (s : State) : (onFrame f s).env = s.env := rfl
@[simp] theorem onFrame_power (f) (s : State) : (onFrame f s).power = s.power := rfl
@[simp] theorem onFrame_pins (f) (s : State) : (onFrame f s).pins = s.pins := rfl
@[simp] theorem onFrame_clocks (f) (s : State) : (onFrame f s).clocks = s.clocks := rfl
@[simp] theorem onFrame_faults (f) (s : State) : (onFrame f s).faults = s.faults := rfl
@[simp] theorem onFrame_fabric (f) (s : State) : (onFrame f s).fabric = s.fabric := rfl
@[simp] theorem onFrame_snap (f) (s : State) : (onFrame f s).snap = s.snap := rfl
@[simp] theorem onFrame_ident (f) (s : State) : (onFrame f s).ident = s.ident := rfl
@[simp] theorem onFrame_flash (f) (s : State) : (onFrame f s).flash = s.flash := rfl
@[simp] theorem onFrame_life (f) (s : State) : (onFrame f s).life = s.life := rfl
@[simp] theorem onFrame_staging (f) (s : State) : (onFrame f s).staging = s.staging := rfl
@[simp] theorem onFrame_freeIdx (f) (s : State) : (onFrame f s).freeIdx = s.freeIdx := rfl
@[simp] theorem onFrame_pending (f) (s : State) : (onFrame f s).pending = s.pending := rfl

/-! ### onStep -/

@[simp] theorem onStep_tick (f) (s : State) : (onStep f s).tick = s.tick := rfl
@[simp] theorem onStep_frame (f) (s : State) : (onStep f s).frame = s.frame := rfl
@[simp] theorem onStep_step (f) (s : State) : (onStep f s).step = f s.step := rfl
@[simp] theorem onStep_image (f) (s : State) : (onStep f s).image = s.image := rfl
@[simp] theorem onStep_caseMem (f) (s : State) : (onStep f s).caseMem = s.caseMem := rfl
@[simp] theorem onStep_cells (f) (s : State) : (onStep f s).cells = s.cells := rfl
@[simp] theorem onStep_stats (f) (s : State) : (onStep f s).stats = s.stats := rfl
@[simp] theorem onStep_hbm (f) (s : State) : (onStep f s).hbm = s.hbm := rfl
@[simp] theorem onStep_portA (f) (s : State) : (onStep f s).portA = s.portA := rfl
@[simp] theorem onStep_portB (f) (s : State) : (onStep f s).portB = s.portB := rfl
@[simp] theorem onStep_mbx (f) (s : State) : (onStep f s).mbx = s.mbx := rfl
@[simp] theorem onStep_own (f) (s : State) : (onStep f s).own = s.own := rfl
@[simp] theorem onStep_dev (f) (s : State) : (onStep f s).dev = s.dev := rfl
@[simp] theorem onStep_env (f) (s : State) : (onStep f s).env = s.env := rfl
@[simp] theorem onStep_power (f) (s : State) : (onStep f s).power = s.power := rfl
@[simp] theorem onStep_pins (f) (s : State) : (onStep f s).pins = s.pins := rfl
@[simp] theorem onStep_clocks (f) (s : State) : (onStep f s).clocks = s.clocks := rfl
@[simp] theorem onStep_faults (f) (s : State) : (onStep f s).faults = s.faults := rfl
@[simp] theorem onStep_fabric (f) (s : State) : (onStep f s).fabric = s.fabric := rfl
@[simp] theorem onStep_snap (f) (s : State) : (onStep f s).snap = s.snap := rfl
@[simp] theorem onStep_ident (f) (s : State) : (onStep f s).ident = s.ident := rfl
@[simp] theorem onStep_flash (f) (s : State) : (onStep f s).flash = s.flash := rfl
@[simp] theorem onStep_life (f) (s : State) : (onStep f s).life = s.life := rfl
@[simp] theorem onStep_staging (f) (s : State) : (onStep f s).staging = s.staging := rfl
@[simp] theorem onStep_freeIdx (f) (s : State) : (onStep f s).freeIdx = s.freeIdx := rfl
@[simp] theorem onStep_pending (f) (s : State) : (onStep f s).pending = s.pending := rfl

/-! ### onImage -/

@[simp] theorem onImage_tick (f) (s : State) : (onImage f s).tick = s.tick := rfl
@[simp] theorem onImage_frame (f) (s : State) : (onImage f s).frame = s.frame := rfl
@[simp] theorem onImage_step (f) (s : State) : (onImage f s).step = s.step := rfl
@[simp] theorem onImage_image (f) (s : State) : (onImage f s).image = f s.image := rfl
@[simp] theorem onImage_caseMem (f) (s : State) : (onImage f s).caseMem = s.caseMem := rfl
@[simp] theorem onImage_cells (f) (s : State) : (onImage f s).cells = s.cells := rfl
@[simp] theorem onImage_stats (f) (s : State) : (onImage f s).stats = s.stats := rfl
@[simp] theorem onImage_hbm (f) (s : State) : (onImage f s).hbm = s.hbm := rfl
@[simp] theorem onImage_portA (f) (s : State) : (onImage f s).portA = s.portA := rfl
@[simp] theorem onImage_portB (f) (s : State) : (onImage f s).portB = s.portB := rfl
@[simp] theorem onImage_mbx (f) (s : State) : (onImage f s).mbx = s.mbx := rfl
@[simp] theorem onImage_own (f) (s : State) : (onImage f s).own = s.own := rfl
@[simp] theorem onImage_dev (f) (s : State) : (onImage f s).dev = s.dev := rfl
@[simp] theorem onImage_env (f) (s : State) : (onImage f s).env = s.env := rfl
@[simp] theorem onImage_power (f) (s : State) : (onImage f s).power = s.power := rfl
@[simp] theorem onImage_pins (f) (s : State) : (onImage f s).pins = s.pins := rfl
@[simp] theorem onImage_clocks (f) (s : State) : (onImage f s).clocks = s.clocks := rfl
@[simp] theorem onImage_faults (f) (s : State) : (onImage f s).faults = s.faults := rfl
@[simp] theorem onImage_fabric (f) (s : State) : (onImage f s).fabric = s.fabric := rfl
@[simp] theorem onImage_snap (f) (s : State) : (onImage f s).snap = s.snap := rfl
@[simp] theorem onImage_ident (f) (s : State) : (onImage f s).ident = s.ident := rfl
@[simp] theorem onImage_flash (f) (s : State) : (onImage f s).flash = s.flash := rfl
@[simp] theorem onImage_life (f) (s : State) : (onImage f s).life = s.life := rfl
@[simp] theorem onImage_staging (f) (s : State) : (onImage f s).staging = s.staging := rfl
@[simp] theorem onImage_freeIdx (f) (s : State) : (onImage f s).freeIdx = s.freeIdx := rfl
@[simp] theorem onImage_pending (f) (s : State) : (onImage f s).pending = s.pending := rfl

/-! ### onCase -/

@[simp] theorem onCase_tick (f) (s : State) : (onCase f s).tick = s.tick := rfl
@[simp] theorem onCase_frame (f) (s : State) : (onCase f s).frame = s.frame := rfl
@[simp] theorem onCase_step (f) (s : State) : (onCase f s).step = s.step := rfl
@[simp] theorem onCase_image (f) (s : State) : (onCase f s).image = s.image := rfl
@[simp] theorem onCase_caseMem (f) (s : State) : (onCase f s).caseMem = f s.caseMem := rfl
@[simp] theorem onCase_cells (f) (s : State) : (onCase f s).cells = s.cells := rfl
@[simp] theorem onCase_stats (f) (s : State) : (onCase f s).stats = s.stats := rfl
@[simp] theorem onCase_hbm (f) (s : State) : (onCase f s).hbm = s.hbm := rfl
@[simp] theorem onCase_portA (f) (s : State) : (onCase f s).portA = s.portA := rfl
@[simp] theorem onCase_portB (f) (s : State) : (onCase f s).portB = s.portB := rfl
@[simp] theorem onCase_mbx (f) (s : State) : (onCase f s).mbx = s.mbx := rfl
@[simp] theorem onCase_own (f) (s : State) : (onCase f s).own = s.own := rfl
@[simp] theorem onCase_dev (f) (s : State) : (onCase f s).dev = s.dev := rfl
@[simp] theorem onCase_env (f) (s : State) : (onCase f s).env = s.env := rfl
@[simp] theorem onCase_power (f) (s : State) : (onCase f s).power = s.power := rfl
@[simp] theorem onCase_pins (f) (s : State) : (onCase f s).pins = s.pins := rfl
@[simp] theorem onCase_clocks (f) (s : State) : (onCase f s).clocks = s.clocks := rfl
@[simp] theorem onCase_faults (f) (s : State) : (onCase f s).faults = s.faults := rfl
@[simp] theorem onCase_fabric (f) (s : State) : (onCase f s).fabric = s.fabric := rfl
@[simp] theorem onCase_snap (f) (s : State) : (onCase f s).snap = s.snap := rfl
@[simp] theorem onCase_ident (f) (s : State) : (onCase f s).ident = s.ident := rfl
@[simp] theorem onCase_flash (f) (s : State) : (onCase f s).flash = s.flash := rfl
@[simp] theorem onCase_life (f) (s : State) : (onCase f s).life = s.life := rfl
@[simp] theorem onCase_staging (f) (s : State) : (onCase f s).staging = s.staging := rfl
@[simp] theorem onCase_freeIdx (f) (s : State) : (onCase f s).freeIdx = s.freeIdx := rfl
@[simp] theorem onCase_pending (f) (s : State) : (onCase f s).pending = s.pending := rfl

/-! ### onCells -/

@[simp] theorem onCells_tick (f) (s : State) : (onCells f s).tick = s.tick := rfl
@[simp] theorem onCells_frame (f) (s : State) : (onCells f s).frame = s.frame := rfl
@[simp] theorem onCells_step (f) (s : State) : (onCells f s).step = s.step := rfl
@[simp] theorem onCells_image (f) (s : State) : (onCells f s).image = s.image := rfl
@[simp] theorem onCells_caseMem (f) (s : State) : (onCells f s).caseMem = s.caseMem := rfl
@[simp] theorem onCells_cells (f) (s : State) : (onCells f s).cells = f s.cells := rfl
@[simp] theorem onCells_stats (f) (s : State) : (onCells f s).stats = s.stats := rfl
@[simp] theorem onCells_hbm (f) (s : State) : (onCells f s).hbm = s.hbm := rfl
@[simp] theorem onCells_portA (f) (s : State) : (onCells f s).portA = s.portA := rfl
@[simp] theorem onCells_portB (f) (s : State) : (onCells f s).portB = s.portB := rfl
@[simp] theorem onCells_mbx (f) (s : State) : (onCells f s).mbx = s.mbx := rfl
@[simp] theorem onCells_own (f) (s : State) : (onCells f s).own = s.own := rfl
@[simp] theorem onCells_dev (f) (s : State) : (onCells f s).dev = s.dev := rfl
@[simp] theorem onCells_env (f) (s : State) : (onCells f s).env = s.env := rfl
@[simp] theorem onCells_power (f) (s : State) : (onCells f s).power = s.power := rfl
@[simp] theorem onCells_pins (f) (s : State) : (onCells f s).pins = s.pins := rfl
@[simp] theorem onCells_clocks (f) (s : State) : (onCells f s).clocks = s.clocks := rfl
@[simp] theorem onCells_faults (f) (s : State) : (onCells f s).faults = s.faults := rfl
@[simp] theorem onCells_fabric (f) (s : State) : (onCells f s).fabric = s.fabric := rfl
@[simp] theorem onCells_snap (f) (s : State) : (onCells f s).snap = s.snap := rfl
@[simp] theorem onCells_ident (f) (s : State) : (onCells f s).ident = s.ident := rfl
@[simp] theorem onCells_flash (f) (s : State) : (onCells f s).flash = s.flash := rfl
@[simp] theorem onCells_life (f) (s : State) : (onCells f s).life = s.life := rfl
@[simp] theorem onCells_staging (f) (s : State) : (onCells f s).staging = s.staging := rfl
@[simp] theorem onCells_freeIdx (f) (s : State) : (onCells f s).freeIdx = s.freeIdx := rfl
@[simp] theorem onCells_pending (f) (s : State) : (onCells f s).pending = s.pending := rfl

/-! ### onStats -/

@[simp] theorem onStats_tick (f) (s : State) : (onStats f s).tick = s.tick := rfl
@[simp] theorem onStats_frame (f) (s : State) : (onStats f s).frame = s.frame := rfl
@[simp] theorem onStats_step (f) (s : State) : (onStats f s).step = s.step := rfl
@[simp] theorem onStats_image (f) (s : State) : (onStats f s).image = s.image := rfl
@[simp] theorem onStats_caseMem (f) (s : State) : (onStats f s).caseMem = s.caseMem := rfl
@[simp] theorem onStats_cells (f) (s : State) : (onStats f s).cells = s.cells := rfl
@[simp] theorem onStats_stats (f) (s : State) : (onStats f s).stats = f s.stats := rfl
@[simp] theorem onStats_hbm (f) (s : State) : (onStats f s).hbm = s.hbm := rfl
@[simp] theorem onStats_portA (f) (s : State) : (onStats f s).portA = s.portA := rfl
@[simp] theorem onStats_portB (f) (s : State) : (onStats f s).portB = s.portB := rfl
@[simp] theorem onStats_mbx (f) (s : State) : (onStats f s).mbx = s.mbx := rfl
@[simp] theorem onStats_own (f) (s : State) : (onStats f s).own = s.own := rfl
@[simp] theorem onStats_dev (f) (s : State) : (onStats f s).dev = s.dev := rfl
@[simp] theorem onStats_env (f) (s : State) : (onStats f s).env = s.env := rfl
@[simp] theorem onStats_power (f) (s : State) : (onStats f s).power = s.power := rfl
@[simp] theorem onStats_pins (f) (s : State) : (onStats f s).pins = s.pins := rfl
@[simp] theorem onStats_clocks (f) (s : State) : (onStats f s).clocks = s.clocks := rfl
@[simp] theorem onStats_faults (f) (s : State) : (onStats f s).faults = s.faults := rfl
@[simp] theorem onStats_fabric (f) (s : State) : (onStats f s).fabric = s.fabric := rfl
@[simp] theorem onStats_snap (f) (s : State) : (onStats f s).snap = s.snap := rfl
@[simp] theorem onStats_ident (f) (s : State) : (onStats f s).ident = s.ident := rfl
@[simp] theorem onStats_flash (f) (s : State) : (onStats f s).flash = s.flash := rfl
@[simp] theorem onStats_life (f) (s : State) : (onStats f s).life = s.life := rfl
@[simp] theorem onStats_staging (f) (s : State) : (onStats f s).staging = s.staging := rfl
@[simp] theorem onStats_freeIdx (f) (s : State) : (onStats f s).freeIdx = s.freeIdx := rfl
@[simp] theorem onStats_pending (f) (s : State) : (onStats f s).pending = s.pending := rfl

/-! ### onHbm -/

@[simp] theorem onHbm_tick (f) (s : State) : (onHbm f s).tick = s.tick := rfl
@[simp] theorem onHbm_frame (f) (s : State) : (onHbm f s).frame = s.frame := rfl
@[simp] theorem onHbm_step (f) (s : State) : (onHbm f s).step = s.step := rfl
@[simp] theorem onHbm_image (f) (s : State) : (onHbm f s).image = s.image := rfl
@[simp] theorem onHbm_caseMem (f) (s : State) : (onHbm f s).caseMem = s.caseMem := rfl
@[simp] theorem onHbm_cells (f) (s : State) : (onHbm f s).cells = s.cells := rfl
@[simp] theorem onHbm_stats (f) (s : State) : (onHbm f s).stats = s.stats := rfl
@[simp] theorem onHbm_hbm (f) (s : State) : (onHbm f s).hbm = f s.hbm := rfl
@[simp] theorem onHbm_portA (f) (s : State) : (onHbm f s).portA = s.portA := rfl
@[simp] theorem onHbm_portB (f) (s : State) : (onHbm f s).portB = s.portB := rfl
@[simp] theorem onHbm_mbx (f) (s : State) : (onHbm f s).mbx = s.mbx := rfl
@[simp] theorem onHbm_own (f) (s : State) : (onHbm f s).own = s.own := rfl
@[simp] theorem onHbm_dev (f) (s : State) : (onHbm f s).dev = s.dev := rfl
@[simp] theorem onHbm_env (f) (s : State) : (onHbm f s).env = s.env := rfl
@[simp] theorem onHbm_power (f) (s : State) : (onHbm f s).power = s.power := rfl
@[simp] theorem onHbm_pins (f) (s : State) : (onHbm f s).pins = s.pins := rfl
@[simp] theorem onHbm_clocks (f) (s : State) : (onHbm f s).clocks = s.clocks := rfl
@[simp] theorem onHbm_faults (f) (s : State) : (onHbm f s).faults = s.faults := rfl
@[simp] theorem onHbm_fabric (f) (s : State) : (onHbm f s).fabric = s.fabric := rfl
@[simp] theorem onHbm_snap (f) (s : State) : (onHbm f s).snap = s.snap := rfl
@[simp] theorem onHbm_ident (f) (s : State) : (onHbm f s).ident = s.ident := rfl
@[simp] theorem onHbm_flash (f) (s : State) : (onHbm f s).flash = s.flash := rfl
@[simp] theorem onHbm_life (f) (s : State) : (onHbm f s).life = s.life := rfl
@[simp] theorem onHbm_staging (f) (s : State) : (onHbm f s).staging = s.staging := rfl
@[simp] theorem onHbm_freeIdx (f) (s : State) : (onHbm f s).freeIdx = s.freeIdx := rfl
@[simp] theorem onHbm_pending (f) (s : State) : (onHbm f s).pending = s.pending := rfl

/-! ### onMbx -/

@[simp] theorem onMbx_tick (f) (s : State) : (onMbx f s).tick = s.tick := rfl
@[simp] theorem onMbx_frame (f) (s : State) : (onMbx f s).frame = s.frame := rfl
@[simp] theorem onMbx_step (f) (s : State) : (onMbx f s).step = s.step := rfl
@[simp] theorem onMbx_image (f) (s : State) : (onMbx f s).image = s.image := rfl
@[simp] theorem onMbx_caseMem (f) (s : State) : (onMbx f s).caseMem = s.caseMem := rfl
@[simp] theorem onMbx_cells (f) (s : State) : (onMbx f s).cells = s.cells := rfl
@[simp] theorem onMbx_stats (f) (s : State) : (onMbx f s).stats = s.stats := rfl
@[simp] theorem onMbx_hbm (f) (s : State) : (onMbx f s).hbm = s.hbm := rfl
@[simp] theorem onMbx_portA (f) (s : State) : (onMbx f s).portA = s.portA := rfl
@[simp] theorem onMbx_portB (f) (s : State) : (onMbx f s).portB = s.portB := rfl
@[simp] theorem onMbx_mbx (f) (s : State) : (onMbx f s).mbx = f s.mbx := rfl
@[simp] theorem onMbx_own (f) (s : State) : (onMbx f s).own = s.own := rfl
@[simp] theorem onMbx_dev (f) (s : State) : (onMbx f s).dev = s.dev := rfl
@[simp] theorem onMbx_env (f) (s : State) : (onMbx f s).env = s.env := rfl
@[simp] theorem onMbx_power (f) (s : State) : (onMbx f s).power = s.power := rfl
@[simp] theorem onMbx_pins (f) (s : State) : (onMbx f s).pins = s.pins := rfl
@[simp] theorem onMbx_clocks (f) (s : State) : (onMbx f s).clocks = s.clocks := rfl
@[simp] theorem onMbx_faults (f) (s : State) : (onMbx f s).faults = s.faults := rfl
@[simp] theorem onMbx_fabric (f) (s : State) : (onMbx f s).fabric = s.fabric := rfl
@[simp] theorem onMbx_snap (f) (s : State) : (onMbx f s).snap = s.snap := rfl
@[simp] theorem onMbx_ident (f) (s : State) : (onMbx f s).ident = s.ident := rfl
@[simp] theorem onMbx_flash (f) (s : State) : (onMbx f s).flash = s.flash := rfl
@[simp] theorem onMbx_life (f) (s : State) : (onMbx f s).life = s.life := rfl
@[simp] theorem onMbx_staging (f) (s : State) : (onMbx f s).staging = s.staging := rfl
@[simp] theorem onMbx_freeIdx (f) (s : State) : (onMbx f s).freeIdx = s.freeIdx := rfl
@[simp] theorem onMbx_pending (f) (s : State) : (onMbx f s).pending = s.pending := rfl

/-! ### onOwn -/

@[simp] theorem onOwn_tick (f) (s : State) : (onOwn f s).tick = s.tick := rfl
@[simp] theorem onOwn_frame (f) (s : State) : (onOwn f s).frame = s.frame := rfl
@[simp] theorem onOwn_step (f) (s : State) : (onOwn f s).step = s.step := rfl
@[simp] theorem onOwn_image (f) (s : State) : (onOwn f s).image = s.image := rfl
@[simp] theorem onOwn_caseMem (f) (s : State) : (onOwn f s).caseMem = s.caseMem := rfl
@[simp] theorem onOwn_cells (f) (s : State) : (onOwn f s).cells = s.cells := rfl
@[simp] theorem onOwn_stats (f) (s : State) : (onOwn f s).stats = s.stats := rfl
@[simp] theorem onOwn_hbm (f) (s : State) : (onOwn f s).hbm = s.hbm := rfl
@[simp] theorem onOwn_portA (f) (s : State) : (onOwn f s).portA = s.portA := rfl
@[simp] theorem onOwn_portB (f) (s : State) : (onOwn f s).portB = s.portB := rfl
@[simp] theorem onOwn_mbx (f) (s : State) : (onOwn f s).mbx = s.mbx := rfl
@[simp] theorem onOwn_own (f) (s : State) : (onOwn f s).own = f s.own := rfl
@[simp] theorem onOwn_dev (f) (s : State) : (onOwn f s).dev = s.dev := rfl
@[simp] theorem onOwn_env (f) (s : State) : (onOwn f s).env = s.env := rfl
@[simp] theorem onOwn_power (f) (s : State) : (onOwn f s).power = s.power := rfl
@[simp] theorem onOwn_pins (f) (s : State) : (onOwn f s).pins = s.pins := rfl
@[simp] theorem onOwn_clocks (f) (s : State) : (onOwn f s).clocks = s.clocks := rfl
@[simp] theorem onOwn_faults (f) (s : State) : (onOwn f s).faults = s.faults := rfl
@[simp] theorem onOwn_fabric (f) (s : State) : (onOwn f s).fabric = s.fabric := rfl
@[simp] theorem onOwn_snap (f) (s : State) : (onOwn f s).snap = s.snap := rfl
@[simp] theorem onOwn_ident (f) (s : State) : (onOwn f s).ident = s.ident := rfl
@[simp] theorem onOwn_flash (f) (s : State) : (onOwn f s).flash = s.flash := rfl
@[simp] theorem onOwn_life (f) (s : State) : (onOwn f s).life = s.life := rfl
@[simp] theorem onOwn_staging (f) (s : State) : (onOwn f s).staging = s.staging := rfl
@[simp] theorem onOwn_freeIdx (f) (s : State) : (onOwn f s).freeIdx = s.freeIdx := rfl
@[simp] theorem onOwn_pending (f) (s : State) : (onOwn f s).pending = s.pending := rfl

/-! ### onDev -/

@[simp] theorem onDev_tick (f) (s : State) : (onDev f s).tick = s.tick := rfl
@[simp] theorem onDev_frame (f) (s : State) : (onDev f s).frame = s.frame := rfl
@[simp] theorem onDev_step (f) (s : State) : (onDev f s).step = s.step := rfl
@[simp] theorem onDev_image (f) (s : State) : (onDev f s).image = s.image := rfl
@[simp] theorem onDev_caseMem (f) (s : State) : (onDev f s).caseMem = s.caseMem := rfl
@[simp] theorem onDev_cells (f) (s : State) : (onDev f s).cells = s.cells := rfl
@[simp] theorem onDev_stats (f) (s : State) : (onDev f s).stats = s.stats := rfl
@[simp] theorem onDev_hbm (f) (s : State) : (onDev f s).hbm = s.hbm := rfl
@[simp] theorem onDev_portA (f) (s : State) : (onDev f s).portA = s.portA := rfl
@[simp] theorem onDev_portB (f) (s : State) : (onDev f s).portB = s.portB := rfl
@[simp] theorem onDev_mbx (f) (s : State) : (onDev f s).mbx = s.mbx := rfl
@[simp] theorem onDev_own (f) (s : State) : (onDev f s).own = s.own := rfl
@[simp] theorem onDev_dev (f) (s : State) : (onDev f s).dev = f s.dev := rfl
@[simp] theorem onDev_env (f) (s : State) : (onDev f s).env = s.env := rfl
@[simp] theorem onDev_power (f) (s : State) : (onDev f s).power = s.power := rfl
@[simp] theorem onDev_pins (f) (s : State) : (onDev f s).pins = s.pins := rfl
@[simp] theorem onDev_clocks (f) (s : State) : (onDev f s).clocks = s.clocks := rfl
@[simp] theorem onDev_faults (f) (s : State) : (onDev f s).faults = s.faults := rfl
@[simp] theorem onDev_fabric (f) (s : State) : (onDev f s).fabric = s.fabric := rfl
@[simp] theorem onDev_snap (f) (s : State) : (onDev f s).snap = s.snap := rfl
@[simp] theorem onDev_ident (f) (s : State) : (onDev f s).ident = s.ident := rfl
@[simp] theorem onDev_flash (f) (s : State) : (onDev f s).flash = s.flash := rfl
@[simp] theorem onDev_life (f) (s : State) : (onDev f s).life = s.life := rfl
@[simp] theorem onDev_staging (f) (s : State) : (onDev f s).staging = s.staging := rfl
@[simp] theorem onDev_freeIdx (f) (s : State) : (onDev f s).freeIdx = s.freeIdx := rfl
@[simp] theorem onDev_pending (f) (s : State) : (onDev f s).pending = s.pending := rfl

/-! ### onEnv -/

@[simp] theorem onEnv_tick (f) (s : State) : (onEnv f s).tick = s.tick := rfl
@[simp] theorem onEnv_frame (f) (s : State) : (onEnv f s).frame = s.frame := rfl
@[simp] theorem onEnv_step (f) (s : State) : (onEnv f s).step = s.step := rfl
@[simp] theorem onEnv_image (f) (s : State) : (onEnv f s).image = s.image := rfl
@[simp] theorem onEnv_caseMem (f) (s : State) : (onEnv f s).caseMem = s.caseMem := rfl
@[simp] theorem onEnv_cells (f) (s : State) : (onEnv f s).cells = s.cells := rfl
@[simp] theorem onEnv_stats (f) (s : State) : (onEnv f s).stats = s.stats := rfl
@[simp] theorem onEnv_hbm (f) (s : State) : (onEnv f s).hbm = s.hbm := rfl
@[simp] theorem onEnv_portA (f) (s : State) : (onEnv f s).portA = s.portA := rfl
@[simp] theorem onEnv_portB (f) (s : State) : (onEnv f s).portB = s.portB := rfl
@[simp] theorem onEnv_mbx (f) (s : State) : (onEnv f s).mbx = s.mbx := rfl
@[simp] theorem onEnv_own (f) (s : State) : (onEnv f s).own = s.own := rfl
@[simp] theorem onEnv_dev (f) (s : State) : (onEnv f s).dev = s.dev := rfl
@[simp] theorem onEnv_env (f) (s : State) : (onEnv f s).env = f s.env := rfl
@[simp] theorem onEnv_power (f) (s : State) : (onEnv f s).power = s.power := rfl
@[simp] theorem onEnv_pins (f) (s : State) : (onEnv f s).pins = s.pins := rfl
@[simp] theorem onEnv_clocks (f) (s : State) : (onEnv f s).clocks = s.clocks := rfl
@[simp] theorem onEnv_faults (f) (s : State) : (onEnv f s).faults = s.faults := rfl
@[simp] theorem onEnv_fabric (f) (s : State) : (onEnv f s).fabric = s.fabric := rfl
@[simp] theorem onEnv_snap (f) (s : State) : (onEnv f s).snap = s.snap := rfl
@[simp] theorem onEnv_ident (f) (s : State) : (onEnv f s).ident = s.ident := rfl
@[simp] theorem onEnv_flash (f) (s : State) : (onEnv f s).flash = s.flash := rfl
@[simp] theorem onEnv_life (f) (s : State) : (onEnv f s).life = s.life := rfl
@[simp] theorem onEnv_staging (f) (s : State) : (onEnv f s).staging = s.staging := rfl
@[simp] theorem onEnv_freeIdx (f) (s : State) : (onEnv f s).freeIdx = s.freeIdx := rfl
@[simp] theorem onEnv_pending (f) (s : State) : (onEnv f s).pending = s.pending := rfl

/-! ### onPower -/

@[simp] theorem onPower_tick (f) (s : State) : (onPower f s).tick = s.tick := rfl
@[simp] theorem onPower_frame (f) (s : State) : (onPower f s).frame = s.frame := rfl
@[simp] theorem onPower_step (f) (s : State) : (onPower f s).step = s.step := rfl
@[simp] theorem onPower_image (f) (s : State) : (onPower f s).image = s.image := rfl
@[simp] theorem onPower_caseMem (f) (s : State) : (onPower f s).caseMem = s.caseMem := rfl
@[simp] theorem onPower_cells (f) (s : State) : (onPower f s).cells = s.cells := rfl
@[simp] theorem onPower_stats (f) (s : State) : (onPower f s).stats = s.stats := rfl
@[simp] theorem onPower_hbm (f) (s : State) : (onPower f s).hbm = s.hbm := rfl
@[simp] theorem onPower_portA (f) (s : State) : (onPower f s).portA = s.portA := rfl
@[simp] theorem onPower_portB (f) (s : State) : (onPower f s).portB = s.portB := rfl
@[simp] theorem onPower_mbx (f) (s : State) : (onPower f s).mbx = s.mbx := rfl
@[simp] theorem onPower_own (f) (s : State) : (onPower f s).own = s.own := rfl
@[simp] theorem onPower_dev (f) (s : State) : (onPower f s).dev = s.dev := rfl
@[simp] theorem onPower_env (f) (s : State) : (onPower f s).env = s.env := rfl
@[simp] theorem onPower_power (f) (s : State) : (onPower f s).power = f s.power := rfl
@[simp] theorem onPower_pins (f) (s : State) : (onPower f s).pins = s.pins := rfl
@[simp] theorem onPower_clocks (f) (s : State) : (onPower f s).clocks = s.clocks := rfl
@[simp] theorem onPower_faults (f) (s : State) : (onPower f s).faults = s.faults := rfl
@[simp] theorem onPower_fabric (f) (s : State) : (onPower f s).fabric = s.fabric := rfl
@[simp] theorem onPower_snap (f) (s : State) : (onPower f s).snap = s.snap := rfl
@[simp] theorem onPower_ident (f) (s : State) : (onPower f s).ident = s.ident := rfl
@[simp] theorem onPower_flash (f) (s : State) : (onPower f s).flash = s.flash := rfl
@[simp] theorem onPower_life (f) (s : State) : (onPower f s).life = s.life := rfl
@[simp] theorem onPower_staging (f) (s : State) : (onPower f s).staging = s.staging := rfl
@[simp] theorem onPower_freeIdx (f) (s : State) : (onPower f s).freeIdx = s.freeIdx := rfl
@[simp] theorem onPower_pending (f) (s : State) : (onPower f s).pending = s.pending := rfl

/-! ### onPins -/

@[simp] theorem onPins_tick (f) (s : State) : (onPins f s).tick = s.tick := rfl
@[simp] theorem onPins_frame (f) (s : State) : (onPins f s).frame = s.frame := rfl
@[simp] theorem onPins_step (f) (s : State) : (onPins f s).step = s.step := rfl
@[simp] theorem onPins_image (f) (s : State) : (onPins f s).image = s.image := rfl
@[simp] theorem onPins_caseMem (f) (s : State) : (onPins f s).caseMem = s.caseMem := rfl
@[simp] theorem onPins_cells (f) (s : State) : (onPins f s).cells = s.cells := rfl
@[simp] theorem onPins_stats (f) (s : State) : (onPins f s).stats = s.stats := rfl
@[simp] theorem onPins_hbm (f) (s : State) : (onPins f s).hbm = s.hbm := rfl
@[simp] theorem onPins_portA (f) (s : State) : (onPins f s).portA = s.portA := rfl
@[simp] theorem onPins_portB (f) (s : State) : (onPins f s).portB = s.portB := rfl
@[simp] theorem onPins_mbx (f) (s : State) : (onPins f s).mbx = s.mbx := rfl
@[simp] theorem onPins_own (f) (s : State) : (onPins f s).own = s.own := rfl
@[simp] theorem onPins_dev (f) (s : State) : (onPins f s).dev = s.dev := rfl
@[simp] theorem onPins_env (f) (s : State) : (onPins f s).env = s.env := rfl
@[simp] theorem onPins_power (f) (s : State) : (onPins f s).power = s.power := rfl
@[simp] theorem onPins_pins (f) (s : State) : (onPins f s).pins = f s.pins := rfl
@[simp] theorem onPins_clocks (f) (s : State) : (onPins f s).clocks = s.clocks := rfl
@[simp] theorem onPins_faults (f) (s : State) : (onPins f s).faults = s.faults := rfl
@[simp] theorem onPins_fabric (f) (s : State) : (onPins f s).fabric = s.fabric := rfl
@[simp] theorem onPins_snap (f) (s : State) : (onPins f s).snap = s.snap := rfl
@[simp] theorem onPins_ident (f) (s : State) : (onPins f s).ident = s.ident := rfl
@[simp] theorem onPins_flash (f) (s : State) : (onPins f s).flash = s.flash := rfl
@[simp] theorem onPins_life (f) (s : State) : (onPins f s).life = s.life := rfl
@[simp] theorem onPins_staging (f) (s : State) : (onPins f s).staging = s.staging := rfl
@[simp] theorem onPins_freeIdx (f) (s : State) : (onPins f s).freeIdx = s.freeIdx := rfl
@[simp] theorem onPins_pending (f) (s : State) : (onPins f s).pending = s.pending := rfl

/-! ### onClocks -/

@[simp] theorem onClocks_tick (f) (s : State) : (onClocks f s).tick = s.tick := rfl
@[simp] theorem onClocks_frame (f) (s : State) : (onClocks f s).frame = s.frame := rfl
@[simp] theorem onClocks_step (f) (s : State) : (onClocks f s).step = s.step := rfl
@[simp] theorem onClocks_image (f) (s : State) : (onClocks f s).image = s.image := rfl
@[simp] theorem onClocks_caseMem (f) (s : State) : (onClocks f s).caseMem = s.caseMem := rfl
@[simp] theorem onClocks_cells (f) (s : State) : (onClocks f s).cells = s.cells := rfl
@[simp] theorem onClocks_stats (f) (s : State) : (onClocks f s).stats = s.stats := rfl
@[simp] theorem onClocks_hbm (f) (s : State) : (onClocks f s).hbm = s.hbm := rfl
@[simp] theorem onClocks_portA (f) (s : State) : (onClocks f s).portA = s.portA := rfl
@[simp] theorem onClocks_portB (f) (s : State) : (onClocks f s).portB = s.portB := rfl
@[simp] theorem onClocks_mbx (f) (s : State) : (onClocks f s).mbx = s.mbx := rfl
@[simp] theorem onClocks_own (f) (s : State) : (onClocks f s).own = s.own := rfl
@[simp] theorem onClocks_dev (f) (s : State) : (onClocks f s).dev = s.dev := rfl
@[simp] theorem onClocks_env (f) (s : State) : (onClocks f s).env = s.env := rfl
@[simp] theorem onClocks_power (f) (s : State) : (onClocks f s).power = s.power := rfl
@[simp] theorem onClocks_pins (f) (s : State) : (onClocks f s).pins = s.pins := rfl
@[simp] theorem onClocks_clocks (f) (s : State) : (onClocks f s).clocks = f s.clocks := rfl
@[simp] theorem onClocks_faults (f) (s : State) : (onClocks f s).faults = s.faults := rfl
@[simp] theorem onClocks_fabric (f) (s : State) : (onClocks f s).fabric = s.fabric := rfl
@[simp] theorem onClocks_snap (f) (s : State) : (onClocks f s).snap = s.snap := rfl
@[simp] theorem onClocks_ident (f) (s : State) : (onClocks f s).ident = s.ident := rfl
@[simp] theorem onClocks_flash (f) (s : State) : (onClocks f s).flash = s.flash := rfl
@[simp] theorem onClocks_life (f) (s : State) : (onClocks f s).life = s.life := rfl
@[simp] theorem onClocks_staging (f) (s : State) : (onClocks f s).staging = s.staging := rfl
@[simp] theorem onClocks_freeIdx (f) (s : State) : (onClocks f s).freeIdx = s.freeIdx := rfl
@[simp] theorem onClocks_pending (f) (s : State) : (onClocks f s).pending = s.pending := rfl

/-! ### onFaults -/

@[simp] theorem onFaults_tick (f) (s : State) : (onFaults f s).tick = s.tick := rfl
@[simp] theorem onFaults_frame (f) (s : State) : (onFaults f s).frame = s.frame := rfl
@[simp] theorem onFaults_step (f) (s : State) : (onFaults f s).step = s.step := rfl
@[simp] theorem onFaults_image (f) (s : State) : (onFaults f s).image = s.image := rfl
@[simp] theorem onFaults_caseMem (f) (s : State) : (onFaults f s).caseMem = s.caseMem := rfl
@[simp] theorem onFaults_cells (f) (s : State) : (onFaults f s).cells = s.cells := rfl
@[simp] theorem onFaults_stats (f) (s : State) : (onFaults f s).stats = s.stats := rfl
@[simp] theorem onFaults_hbm (f) (s : State) : (onFaults f s).hbm = s.hbm := rfl
@[simp] theorem onFaults_portA (f) (s : State) : (onFaults f s).portA = s.portA := rfl
@[simp] theorem onFaults_portB (f) (s : State) : (onFaults f s).portB = s.portB := rfl
@[simp] theorem onFaults_mbx (f) (s : State) : (onFaults f s).mbx = s.mbx := rfl
@[simp] theorem onFaults_own (f) (s : State) : (onFaults f s).own = s.own := rfl
@[simp] theorem onFaults_dev (f) (s : State) : (onFaults f s).dev = s.dev := rfl
@[simp] theorem onFaults_env (f) (s : State) : (onFaults f s).env = s.env := rfl
@[simp] theorem onFaults_power (f) (s : State) : (onFaults f s).power = s.power := rfl
@[simp] theorem onFaults_pins (f) (s : State) : (onFaults f s).pins = s.pins := rfl
@[simp] theorem onFaults_clocks (f) (s : State) : (onFaults f s).clocks = s.clocks := rfl
@[simp] theorem onFaults_faults (f) (s : State) : (onFaults f s).faults = f s.faults := rfl
@[simp] theorem onFaults_fabric (f) (s : State) : (onFaults f s).fabric = s.fabric := rfl
@[simp] theorem onFaults_snap (f) (s : State) : (onFaults f s).snap = s.snap := rfl
@[simp] theorem onFaults_ident (f) (s : State) : (onFaults f s).ident = s.ident := rfl
@[simp] theorem onFaults_flash (f) (s : State) : (onFaults f s).flash = s.flash := rfl
@[simp] theorem onFaults_life (f) (s : State) : (onFaults f s).life = s.life := rfl
@[simp] theorem onFaults_staging (f) (s : State) : (onFaults f s).staging = s.staging := rfl
@[simp] theorem onFaults_freeIdx (f) (s : State) : (onFaults f s).freeIdx = s.freeIdx := rfl
@[simp] theorem onFaults_pending (f) (s : State) : (onFaults f s).pending = s.pending := rfl

/-! ### onFabric -/

@[simp] theorem onFabric_tick (f) (s : State) : (onFabric f s).tick = s.tick := rfl
@[simp] theorem onFabric_frame (f) (s : State) : (onFabric f s).frame = s.frame := rfl
@[simp] theorem onFabric_step (f) (s : State) : (onFabric f s).step = s.step := rfl
@[simp] theorem onFabric_image (f) (s : State) : (onFabric f s).image = s.image := rfl
@[simp] theorem onFabric_caseMem (f) (s : State) : (onFabric f s).caseMem = s.caseMem := rfl
@[simp] theorem onFabric_cells (f) (s : State) : (onFabric f s).cells = s.cells := rfl
@[simp] theorem onFabric_stats (f) (s : State) : (onFabric f s).stats = s.stats := rfl
@[simp] theorem onFabric_hbm (f) (s : State) : (onFabric f s).hbm = s.hbm := rfl
@[simp] theorem onFabric_portA (f) (s : State) : (onFabric f s).portA = s.portA := rfl
@[simp] theorem onFabric_portB (f) (s : State) : (onFabric f s).portB = s.portB := rfl
@[simp] theorem onFabric_mbx (f) (s : State) : (onFabric f s).mbx = s.mbx := rfl
@[simp] theorem onFabric_own (f) (s : State) : (onFabric f s).own = s.own := rfl
@[simp] theorem onFabric_dev (f) (s : State) : (onFabric f s).dev = s.dev := rfl
@[simp] theorem onFabric_env (f) (s : State) : (onFabric f s).env = s.env := rfl
@[simp] theorem onFabric_power (f) (s : State) : (onFabric f s).power = s.power := rfl
@[simp] theorem onFabric_pins (f) (s : State) : (onFabric f s).pins = s.pins := rfl
@[simp] theorem onFabric_clocks (f) (s : State) : (onFabric f s).clocks = s.clocks := rfl
@[simp] theorem onFabric_faults (f) (s : State) : (onFabric f s).faults = s.faults := rfl
@[simp] theorem onFabric_fabric (f) (s : State) : (onFabric f s).fabric = f s.fabric := rfl
@[simp] theorem onFabric_snap (f) (s : State) : (onFabric f s).snap = s.snap := rfl
@[simp] theorem onFabric_ident (f) (s : State) : (onFabric f s).ident = s.ident := rfl
@[simp] theorem onFabric_flash (f) (s : State) : (onFabric f s).flash = s.flash := rfl
@[simp] theorem onFabric_life (f) (s : State) : (onFabric f s).life = s.life := rfl
@[simp] theorem onFabric_staging (f) (s : State) : (onFabric f s).staging = s.staging := rfl
@[simp] theorem onFabric_freeIdx (f) (s : State) : (onFabric f s).freeIdx = s.freeIdx := rfl
@[simp] theorem onFabric_pending (f) (s : State) : (onFabric f s).pending = s.pending := rfl

/-! ### onSnap -/

@[simp] theorem onSnap_tick (f) (s : State) : (onSnap f s).tick = s.tick := rfl
@[simp] theorem onSnap_frame (f) (s : State) : (onSnap f s).frame = s.frame := rfl
@[simp] theorem onSnap_step (f) (s : State) : (onSnap f s).step = s.step := rfl
@[simp] theorem onSnap_image (f) (s : State) : (onSnap f s).image = s.image := rfl
@[simp] theorem onSnap_caseMem (f) (s : State) : (onSnap f s).caseMem = s.caseMem := rfl
@[simp] theorem onSnap_cells (f) (s : State) : (onSnap f s).cells = s.cells := rfl
@[simp] theorem onSnap_stats (f) (s : State) : (onSnap f s).stats = s.stats := rfl
@[simp] theorem onSnap_hbm (f) (s : State) : (onSnap f s).hbm = s.hbm := rfl
@[simp] theorem onSnap_portA (f) (s : State) : (onSnap f s).portA = s.portA := rfl
@[simp] theorem onSnap_portB (f) (s : State) : (onSnap f s).portB = s.portB := rfl
@[simp] theorem onSnap_mbx (f) (s : State) : (onSnap f s).mbx = s.mbx := rfl
@[simp] theorem onSnap_own (f) (s : State) : (onSnap f s).own = s.own := rfl
@[simp] theorem onSnap_dev (f) (s : State) : (onSnap f s).dev = s.dev := rfl
@[simp] theorem onSnap_env (f) (s : State) : (onSnap f s).env = s.env := rfl
@[simp] theorem onSnap_power (f) (s : State) : (onSnap f s).power = s.power := rfl
@[simp] theorem onSnap_pins (f) (s : State) : (onSnap f s).pins = s.pins := rfl
@[simp] theorem onSnap_clocks (f) (s : State) : (onSnap f s).clocks = s.clocks := rfl
@[simp] theorem onSnap_faults (f) (s : State) : (onSnap f s).faults = s.faults := rfl
@[simp] theorem onSnap_fabric (f) (s : State) : (onSnap f s).fabric = s.fabric := rfl
@[simp] theorem onSnap_snap (f) (s : State) : (onSnap f s).snap = f s.snap := rfl
@[simp] theorem onSnap_ident (f) (s : State) : (onSnap f s).ident = s.ident := rfl
@[simp] theorem onSnap_flash (f) (s : State) : (onSnap f s).flash = s.flash := rfl
@[simp] theorem onSnap_life (f) (s : State) : (onSnap f s).life = s.life := rfl
@[simp] theorem onSnap_staging (f) (s : State) : (onSnap f s).staging = s.staging := rfl
@[simp] theorem onSnap_freeIdx (f) (s : State) : (onSnap f s).freeIdx = s.freeIdx := rfl
@[simp] theorem onSnap_pending (f) (s : State) : (onSnap f s).pending = s.pending := rfl

/-! ### onIdent -/

@[simp] theorem onIdent_tick (f) (s : State) : (onIdent f s).tick = s.tick := rfl
@[simp] theorem onIdent_frame (f) (s : State) : (onIdent f s).frame = s.frame := rfl
@[simp] theorem onIdent_step (f) (s : State) : (onIdent f s).step = s.step := rfl
@[simp] theorem onIdent_image (f) (s : State) : (onIdent f s).image = s.image := rfl
@[simp] theorem onIdent_caseMem (f) (s : State) : (onIdent f s).caseMem = s.caseMem := rfl
@[simp] theorem onIdent_cells (f) (s : State) : (onIdent f s).cells = s.cells := rfl
@[simp] theorem onIdent_stats (f) (s : State) : (onIdent f s).stats = s.stats := rfl
@[simp] theorem onIdent_hbm (f) (s : State) : (onIdent f s).hbm = s.hbm := rfl
@[simp] theorem onIdent_portA (f) (s : State) : (onIdent f s).portA = s.portA := rfl
@[simp] theorem onIdent_portB (f) (s : State) : (onIdent f s).portB = s.portB := rfl
@[simp] theorem onIdent_mbx (f) (s : State) : (onIdent f s).mbx = s.mbx := rfl
@[simp] theorem onIdent_own (f) (s : State) : (onIdent f s).own = s.own := rfl
@[simp] theorem onIdent_dev (f) (s : State) : (onIdent f s).dev = s.dev := rfl
@[simp] theorem onIdent_env (f) (s : State) : (onIdent f s).env = s.env := rfl
@[simp] theorem onIdent_power (f) (s : State) : (onIdent f s).power = s.power := rfl
@[simp] theorem onIdent_pins (f) (s : State) : (onIdent f s).pins = s.pins := rfl
@[simp] theorem onIdent_clocks (f) (s : State) : (onIdent f s).clocks = s.clocks := rfl
@[simp] theorem onIdent_faults (f) (s : State) : (onIdent f s).faults = s.faults := rfl
@[simp] theorem onIdent_fabric (f) (s : State) : (onIdent f s).fabric = s.fabric := rfl
@[simp] theorem onIdent_snap (f) (s : State) : (onIdent f s).snap = s.snap := rfl
@[simp] theorem onIdent_ident (f) (s : State) : (onIdent f s).ident = f s.ident := rfl
@[simp] theorem onIdent_flash (f) (s : State) : (onIdent f s).flash = s.flash := rfl
@[simp] theorem onIdent_life (f) (s : State) : (onIdent f s).life = s.life := rfl
@[simp] theorem onIdent_staging (f) (s : State) : (onIdent f s).staging = s.staging := rfl
@[simp] theorem onIdent_freeIdx (f) (s : State) : (onIdent f s).freeIdx = s.freeIdx := rfl
@[simp] theorem onIdent_pending (f) (s : State) : (onIdent f s).pending = s.pending := rfl

/-! ### onFlash -/

@[simp] theorem onFlash_tick (f) (s : State) : (onFlash f s).tick = s.tick := rfl
@[simp] theorem onFlash_frame (f) (s : State) : (onFlash f s).frame = s.frame := rfl
@[simp] theorem onFlash_step (f) (s : State) : (onFlash f s).step = s.step := rfl
@[simp] theorem onFlash_image (f) (s : State) : (onFlash f s).image = s.image := rfl
@[simp] theorem onFlash_caseMem (f) (s : State) : (onFlash f s).caseMem = s.caseMem := rfl
@[simp] theorem onFlash_cells (f) (s : State) : (onFlash f s).cells = s.cells := rfl
@[simp] theorem onFlash_stats (f) (s : State) : (onFlash f s).stats = s.stats := rfl
@[simp] theorem onFlash_hbm (f) (s : State) : (onFlash f s).hbm = s.hbm := rfl
@[simp] theorem onFlash_portA (f) (s : State) : (onFlash f s).portA = s.portA := rfl
@[simp] theorem onFlash_portB (f) (s : State) : (onFlash f s).portB = s.portB := rfl
@[simp] theorem onFlash_mbx (f) (s : State) : (onFlash f s).mbx = s.mbx := rfl
@[simp] theorem onFlash_own (f) (s : State) : (onFlash f s).own = s.own := rfl
@[simp] theorem onFlash_dev (f) (s : State) : (onFlash f s).dev = s.dev := rfl
@[simp] theorem onFlash_env (f) (s : State) : (onFlash f s).env = s.env := rfl
@[simp] theorem onFlash_power (f) (s : State) : (onFlash f s).power = s.power := rfl
@[simp] theorem onFlash_pins (f) (s : State) : (onFlash f s).pins = s.pins := rfl
@[simp] theorem onFlash_clocks (f) (s : State) : (onFlash f s).clocks = s.clocks := rfl
@[simp] theorem onFlash_faults (f) (s : State) : (onFlash f s).faults = s.faults := rfl
@[simp] theorem onFlash_fabric (f) (s : State) : (onFlash f s).fabric = s.fabric := rfl
@[simp] theorem onFlash_snap (f) (s : State) : (onFlash f s).snap = s.snap := rfl
@[simp] theorem onFlash_ident (f) (s : State) : (onFlash f s).ident = s.ident := rfl
@[simp] theorem onFlash_flash (f) (s : State) : (onFlash f s).flash = f s.flash := rfl
@[simp] theorem onFlash_life (f) (s : State) : (onFlash f s).life = s.life := rfl
@[simp] theorem onFlash_staging (f) (s : State) : (onFlash f s).staging = s.staging := rfl
@[simp] theorem onFlash_freeIdx (f) (s : State) : (onFlash f s).freeIdx = s.freeIdx := rfl
@[simp] theorem onFlash_pending (f) (s : State) : (onFlash f s).pending = s.pending := rfl

/-! ### onStaging -/

@[simp] theorem onStaging_tick (f) (s : State) : (onStaging f s).tick = s.tick := rfl
@[simp] theorem onStaging_frame (f) (s : State) : (onStaging f s).frame = s.frame := rfl
@[simp] theorem onStaging_step (f) (s : State) : (onStaging f s).step = s.step := rfl
@[simp] theorem onStaging_image (f) (s : State) : (onStaging f s).image = s.image := rfl
@[simp] theorem onStaging_caseMem (f) (s : State) : (onStaging f s).caseMem = s.caseMem := rfl
@[simp] theorem onStaging_cells (f) (s : State) : (onStaging f s).cells = s.cells := rfl
@[simp] theorem onStaging_stats (f) (s : State) : (onStaging f s).stats = s.stats := rfl
@[simp] theorem onStaging_hbm (f) (s : State) : (onStaging f s).hbm = s.hbm := rfl
@[simp] theorem onStaging_portA (f) (s : State) : (onStaging f s).portA = s.portA := rfl
@[simp] theorem onStaging_portB (f) (s : State) : (onStaging f s).portB = s.portB := rfl
@[simp] theorem onStaging_mbx (f) (s : State) : (onStaging f s).mbx = s.mbx := rfl
@[simp] theorem onStaging_own (f) (s : State) : (onStaging f s).own = s.own := rfl
@[simp] theorem onStaging_dev (f) (s : State) : (onStaging f s).dev = s.dev := rfl
@[simp] theorem onStaging_env (f) (s : State) : (onStaging f s).env = s.env := rfl
@[simp] theorem onStaging_power (f) (s : State) : (onStaging f s).power = s.power := rfl
@[simp] theorem onStaging_pins (f) (s : State) : (onStaging f s).pins = s.pins := rfl
@[simp] theorem onStaging_clocks (f) (s : State) : (onStaging f s).clocks = s.clocks := rfl
@[simp] theorem onStaging_faults (f) (s : State) : (onStaging f s).faults = s.faults := rfl
@[simp] theorem onStaging_fabric (f) (s : State) : (onStaging f s).fabric = s.fabric := rfl
@[simp] theorem onStaging_snap (f) (s : State) : (onStaging f s).snap = s.snap := rfl
@[simp] theorem onStaging_ident (f) (s : State) : (onStaging f s).ident = s.ident := rfl
@[simp] theorem onStaging_flash (f) (s : State) : (onStaging f s).flash = s.flash := rfl
@[simp] theorem onStaging_life (f) (s : State) : (onStaging f s).life = s.life := rfl
@[simp] theorem onStaging_staging (f) (s : State) : (onStaging f s).staging = f s.staging := rfl
@[simp] theorem onStaging_freeIdx (f) (s : State) : (onStaging f s).freeIdx = s.freeIdx := rfl
@[simp] theorem onStaging_pending (f) (s : State) : (onStaging f s).pending = s.pending := rfl

/-! ### onLife, onPorts -/

@[simp] theorem onLife_now (f : Life → Life) (s : State) : (onLife f s).life.now = f s.life.now := rfl
@[simp] theorem onLife_writeDue (f : Life → Life) (s : State) : (onLife f s).life.writeDue = s.life.writeDue := rfl
@[simp] theorem onLife_tick (f : Life → Life) (s : State) : (onLife f s).tick = s.tick := rfl
@[simp] theorem onLife_frame (f : Life → Life) (s : State) : (onLife f s).frame = s.frame := rfl
@[simp] theorem onLife_step (f : Life → Life) (s : State) : (onLife f s).step = s.step := rfl
@[simp] theorem onLife_image (f : Life → Life) (s : State) : (onLife f s).image = s.image := rfl
@[simp] theorem onLife_caseMem (f : Life → Life) (s : State) : (onLife f s).caseMem = s.caseMem := rfl
@[simp] theorem onLife_cells (f : Life → Life) (s : State) : (onLife f s).cells = s.cells := rfl
@[simp] theorem onLife_stats (f : Life → Life) (s : State) : (onLife f s).stats = s.stats := rfl
@[simp] theorem onLife_hbm (f : Life → Life) (s : State) : (onLife f s).hbm = s.hbm := rfl
@[simp] theorem onLife_portA (f : Life → Life) (s : State) : (onLife f s).portA = s.portA := rfl
@[simp] theorem onLife_portB (f : Life → Life) (s : State) : (onLife f s).portB = s.portB := rfl
@[simp] theorem onLife_mbx (f : Life → Life) (s : State) : (onLife f s).mbx = s.mbx := rfl
@[simp] theorem onLife_own (f : Life → Life) (s : State) : (onLife f s).own = s.own := rfl
@[simp] theorem onLife_dev (f : Life → Life) (s : State) : (onLife f s).dev = s.dev := rfl
@[simp] theorem onLife_env (f : Life → Life) (s : State) : (onLife f s).env = s.env := rfl
@[simp] theorem onLife_power (f : Life → Life) (s : State) : (onLife f s).power = s.power := rfl
@[simp] theorem onLife_pins (f : Life → Life) (s : State) : (onLife f s).pins = s.pins := rfl
@[simp] theorem onLife_clocks (f : Life → Life) (s : State) : (onLife f s).clocks = s.clocks := rfl
@[simp] theorem onLife_faults (f : Life → Life) (s : State) : (onLife f s).faults = s.faults := rfl
@[simp] theorem onLife_fabric (f : Life → Life) (s : State) : (onLife f s).fabric = s.fabric := rfl
@[simp] theorem onLife_snap (f : Life → Life) (s : State) : (onLife f s).snap = s.snap := rfl
@[simp] theorem onLife_ident (f : Life → Life) (s : State) : (onLife f s).ident = s.ident := rfl
@[simp] theorem onLife_flash (f : Life → Life) (s : State) : (onLife f s).flash = s.flash := rfl
@[simp] theorem onLife_staging (f : Life → Life) (s : State) : (onLife f s).staging = s.staging := rfl
@[simp] theorem onLife_freeIdx (f : Life → Life) (s : State) : (onLife f s).freeIdx = s.freeIdx := rfl
@[simp] theorem onLife_pending (f : Life → Life) (s : State) : (onLife f s).pending = s.pending := rfl
@[simp] theorem onPorts_tick (f : PortSt → PortSt) (s : State) : (onPorts f s).tick = s.tick := rfl
@[simp] theorem onPorts_frame (f : PortSt → PortSt) (s : State) : (onPorts f s).frame = s.frame := rfl
@[simp] theorem onPorts_step (f : PortSt → PortSt) (s : State) : (onPorts f s).step = s.step := rfl
@[simp] theorem onPorts_image (f : PortSt → PortSt) (s : State) : (onPorts f s).image = s.image := rfl
@[simp] theorem onPorts_caseMem (f : PortSt → PortSt) (s : State) : (onPorts f s).caseMem = s.caseMem := rfl
@[simp] theorem onPorts_cells (f : PortSt → PortSt) (s : State) : (onPorts f s).cells = s.cells := rfl
@[simp] theorem onPorts_stats (f : PortSt → PortSt) (s : State) : (onPorts f s).stats = s.stats := rfl
@[simp] theorem onPorts_hbm (f : PortSt → PortSt) (s : State) : (onPorts f s).hbm = s.hbm := rfl
@[simp] theorem onPorts_portA (f : PortSt → PortSt) (s : State) : (onPorts f s).portA = f s.portA := rfl
@[simp] theorem onPorts_portB (f : PortSt → PortSt) (s : State) : (onPorts f s).portB = f s.portB := rfl
@[simp] theorem onPorts_mbx (f : PortSt → PortSt) (s : State) : (onPorts f s).mbx = s.mbx := rfl
@[simp] theorem onPorts_own (f : PortSt → PortSt) (s : State) : (onPorts f s).own = s.own := rfl
@[simp] theorem onPorts_dev (f : PortSt → PortSt) (s : State) : (onPorts f s).dev = s.dev := rfl
@[simp] theorem onPorts_env (f : PortSt → PortSt) (s : State) : (onPorts f s).env = s.env := rfl
@[simp] theorem onPorts_power (f : PortSt → PortSt) (s : State) : (onPorts f s).power = s.power := rfl
@[simp] theorem onPorts_pins (f : PortSt → PortSt) (s : State) : (onPorts f s).pins = s.pins := rfl
@[simp] theorem onPorts_clocks (f : PortSt → PortSt) (s : State) : (onPorts f s).clocks = s.clocks := rfl
@[simp] theorem onPorts_faults (f : PortSt → PortSt) (s : State) : (onPorts f s).faults = s.faults := rfl
@[simp] theorem onPorts_fabric (f : PortSt → PortSt) (s : State) : (onPorts f s).fabric = s.fabric := rfl
@[simp] theorem onPorts_snap (f : PortSt → PortSt) (s : State) : (onPorts f s).snap = s.snap := rfl
@[simp] theorem onPorts_ident (f : PortSt → PortSt) (s : State) : (onPorts f s).ident = s.ident := rfl
@[simp] theorem onPorts_flash (f : PortSt → PortSt) (s : State) : (onPorts f s).flash = s.flash := rfl
@[simp] theorem onPorts_life (f : PortSt → PortSt) (s : State) : (onPorts f s).life = s.life := rfl
@[simp] theorem onPorts_staging (f : PortSt → PortSt) (s : State) : (onPorts f s).staging = s.staging := rfl
@[simp] theorem onPorts_freeIdx (f : PortSt → PortSt) (s : State) : (onPorts f s).freeIdx = s.freeIdx := rfl
@[simp] theorem onPorts_pending (f : PortSt → PortSt) (s : State) : (onPorts f s).pending = s.pending := rfl

/-! ### One port -/

@[simp] theorem getPPort_setPPort (p : PPort) (x : PortSt) (s : State) : getPPort p (setPPort p x s) = x := by cases p <;> rfl
@[simp] theorem getPPort_setPPort_other (p : PPort) (x : PortSt) (s : State) :
    getPPort (otherPort p) (setPPort p x s) = getPPort (otherPort p) s := by cases p <;> rfl
@[simp] theorem setPPort_tick (p : PPort) (x : PortSt) (s : State) : (setPPort p x s).tick = s.tick := by cases p <;> rfl
@[simp] theorem setPPort_frame (p : PPort) (x : PortSt) (s : State) : (setPPort p x s).frame = s.frame := by cases p <;> rfl
@[simp] theorem setPPort_step (p : PPort) (x : PortSt) (s : State) : (setPPort p x s).step = s.step := by cases p <;> rfl
@[simp] theorem setPPort_image (p : PPort) (x : PortSt) (s : State) : (setPPort p x s).image = s.image := by cases p <;> rfl
@[simp] theorem setPPort_caseMem (p : PPort) (x : PortSt) (s : State) : (setPPort p x s).caseMem = s.caseMem := by cases p <;> rfl
@[simp] theorem setPPort_cells (p : PPort) (x : PortSt) (s : State) : (setPPort p x s).cells = s.cells := by cases p <;> rfl
@[simp] theorem setPPort_stats (p : PPort) (x : PortSt) (s : State) : (setPPort p x s).stats = s.stats := by cases p <;> rfl
@[simp] theorem setPPort_hbm (p : PPort) (x : PortSt) (s : State) : (setPPort p x s).hbm = s.hbm := by cases p <;> rfl
@[simp] theorem setPPort_mbx (p : PPort) (x : PortSt) (s : State) : (setPPort p x s).mbx = s.mbx := by cases p <;> rfl
@[simp] theorem setPPort_own (p : PPort) (x : PortSt) (s : State) : (setPPort p x s).own = s.own := by cases p <;> rfl
@[simp] theorem setPPort_dev (p : PPort) (x : PortSt) (s : State) : (setPPort p x s).dev = s.dev := by cases p <;> rfl
@[simp] theorem setPPort_env (p : PPort) (x : PortSt) (s : State) : (setPPort p x s).env = s.env := by cases p <;> rfl
@[simp] theorem setPPort_power (p : PPort) (x : PortSt) (s : State) : (setPPort p x s).power = s.power := by cases p <;> rfl
@[simp] theorem setPPort_pins (p : PPort) (x : PortSt) (s : State) : (setPPort p x s).pins = s.pins := by cases p <;> rfl
@[simp] theorem setPPort_clocks (p : PPort) (x : PortSt) (s : State) : (setPPort p x s).clocks = s.clocks := by cases p <;> rfl
@[simp] theorem setPPort_faults (p : PPort) (x : PortSt) (s : State) : (setPPort p x s).faults = s.faults := by cases p <;> rfl
@[simp] theorem setPPort_fabric (p : PPort) (x : PortSt) (s : State) : (setPPort p x s).fabric = s.fabric := by cases p <;> rfl
@[simp] theorem setPPort_snap (p : PPort) (x : PortSt) (s : State) : (setPPort p x s).snap = s.snap := by cases p <;> rfl
@[simp] theorem setPPort_ident (p : PPort) (x : PortSt) (s : State) : (setPPort p x s).ident = s.ident := by cases p <;> rfl
@[simp] theorem setPPort_flash (p : PPort) (x : PortSt) (s : State) : (setPPort p x s).flash = s.flash := by cases p <;> rfl
@[simp] theorem setPPort_life (p : PPort) (x : PortSt) (s : State) : (setPPort p x s).life = s.life := by cases p <;> rfl
@[simp] theorem setPPort_staging (p : PPort) (x : PortSt) (s : State) : (setPPort p x s).staging = s.staging := by cases p <;> rfl
@[simp] theorem setPPort_freeIdx (p : PPort) (x : PortSt) (s : State) : (setPPort p x s).freeIdx = s.freeIdx := by cases p <;> rfl
@[simp] theorem setPPort_pending (p : PPort) (x : PortSt) (s : State) : (setPPort p x s).pending = s.pending := by cases p <;> rfl
@[simp] theorem onPort_tick (p : PPort) (f : PortSt → PortSt) (s : State) : (onPort p f s).tick = s.tick := by cases p <;> rfl
@[simp] theorem onPort_frame (p : PPort) (f : PortSt → PortSt) (s : State) : (onPort p f s).frame = s.frame := by cases p <;> rfl
@[simp] theorem onPort_step (p : PPort) (f : PortSt → PortSt) (s : State) : (onPort p f s).step = s.step := by cases p <;> rfl
@[simp] theorem onPort_image (p : PPort) (f : PortSt → PortSt) (s : State) : (onPort p f s).image = s.image := by cases p <;> rfl
@[simp] theorem onPort_caseMem (p : PPort) (f : PortSt → PortSt) (s : State) : (onPort p f s).caseMem = s.caseMem := by cases p <;> rfl
@[simp] theorem onPort_cells (p : PPort) (f : PortSt → PortSt) (s : State) : (onPort p f s).cells = s.cells := by cases p <;> rfl
@[simp] theorem onPort_stats (p : PPort) (f : PortSt → PortSt) (s : State) : (onPort p f s).stats = s.stats := by cases p <;> rfl
@[simp] theorem onPort_hbm (p : PPort) (f : PortSt → PortSt) (s : State) : (onPort p f s).hbm = s.hbm := by cases p <;> rfl
@[simp] theorem onPort_mbx (p : PPort) (f : PortSt → PortSt) (s : State) : (onPort p f s).mbx = s.mbx := by cases p <;> rfl
@[simp] theorem onPort_own (p : PPort) (f : PortSt → PortSt) (s : State) : (onPort p f s).own = s.own := by cases p <;> rfl
@[simp] theorem onPort_dev (p : PPort) (f : PortSt → PortSt) (s : State) : (onPort p f s).dev = s.dev := by cases p <;> rfl
@[simp] theorem onPort_env (p : PPort) (f : PortSt → PortSt) (s : State) : (onPort p f s).env = s.env := by cases p <;> rfl
@[simp] theorem onPort_power (p : PPort) (f : PortSt → PortSt) (s : State) : (onPort p f s).power = s.power := by cases p <;> rfl
@[simp] theorem onPort_pins (p : PPort) (f : PortSt → PortSt) (s : State) : (onPort p f s).pins = s.pins := by cases p <;> rfl
@[simp] theorem onPort_clocks (p : PPort) (f : PortSt → PortSt) (s : State) : (onPort p f s).clocks = s.clocks := by cases p <;> rfl
@[simp] theorem onPort_faults (p : PPort) (f : PortSt → PortSt) (s : State) : (onPort p f s).faults = s.faults := by cases p <;> rfl
@[simp] theorem onPort_fabric (p : PPort) (f : PortSt → PortSt) (s : State) : (onPort p f s).fabric = s.fabric := by cases p <;> rfl
@[simp] theorem onPort_snap (p : PPort) (f : PortSt → PortSt) (s : State) : (onPort p f s).snap = s.snap := by cases p <;> rfl
@[simp] theorem onPort_ident (p : PPort) (f : PortSt → PortSt) (s : State) : (onPort p f s).ident = s.ident := by cases p <;> rfl
@[simp] theorem onPort_flash (p : PPort) (f : PortSt → PortSt) (s : State) : (onPort p f s).flash = s.flash := by cases p <;> rfl
@[simp] theorem onPort_life (p : PPort) (f : PortSt → PortSt) (s : State) : (onPort p f s).life = s.life := by cases p <;> rfl
@[simp] theorem onPort_staging (p : PPort) (f : PortSt → PortSt) (s : State) : (onPort p f s).staging = s.staging := by cases p <;> rfl
@[simp] theorem onPort_freeIdx (p : PPort) (f : PortSt → PortSt) (s : State) : (onPort p f s).freeIdx = s.freeIdx := by cases p <;> rfl
@[simp] theorem onPort_pending (p : PPort) (f : PortSt → PortSt) (s : State) : (onPort p f s).pending = s.pending := by cases p <;> rfl
@[simp] theorem getPPort_onPort (p : PPort) (f : PortSt → PortSt) (s : State) : getPPort p (onPort p f s) = f (getPPort p s) := by cases p <;> rfl
@[simp] theorem getPPort_onPort_other (p : PPort) (f : PortSt → PortSt) (s : State) :
    getPPort (otherPort p) (onPort p f s) = getPPort (otherPort p) s := by cases p <;> rfl

end Sys2Proof.Machine
end

