-- ==== Sys2Proof/Tests/Slice0.lean ====
section
/-! SUPPORT. The author's own tests: ill-formed commands that the checks refuse, single steps on small states, and for each
statement that has hypotheses a state and operands that meet them. -/

namespace Sys2Proof.Tests
open Sys2Proof Sys2Proof.Machine

set_option Elab.async false

/-! ### Small states -/

/-- A port that decodes. -/
def port : PortSt := { PortSt.reset with inReset := false, linkUp := true, bme := true, resyncReq := false }

/-- A chip that runs, a tick source, with both ports up. -/
def up : State := { State.reset with
  tick := { TickSt.reset with source := true, aligned := true, firstAligned := true }
  clocks := { ClockSt.reset with coreReset := false, beatArmed := true }
  pins := { PinSt.reset with perstA := false, perstB := false }
  portA := port
  portB := port
  dev := { DevSt.reset with state := .running, bootStage := 15, fabric := 7 } }

/-- The chip in a device state. -/
def inState (d : DevState) : State := { up with dev := { up.dev with state := d } }

/-- A transfer of 64 bytes from cell 0 to cell 1. -/
def move : TransferDesc := { src := 0, dstCell := 1, dst := 64, length := 64 }

/-- A forme item with a number. -/
def item (n : Nat) (deferrable : Bool) : Item :=
  { deferrable := deferrable, runStart := false, sends := false, number := n, earliest := 0, latest := 0, body := .transfer move }

/-- An image with one forme of one cell. -/
def imageOf (items : List Item) : Image where
  hdr := { tickRate := 0, allowance := 0, maxOffset := 0, fit := [], fwd := 1, bwd := 0, opt := 1, exch := 0 }
  cellMap := []
  table := []
  plan := []
  cases := []
  formes := [{ cell := 0, forme := 0, phase := 0, deadline := 0, items := items }]
  groups := []
  applied := 0
  attempted := 0
  seed := 0
  nNorm := 0
  normLeading := 0
  clipNorm := 0
  points := []
  opt := []
  policy := { satMax := 0, vanMax := 0, leadMargin := 0, guard := 0 }
  energy := []
  snap := { own := 0, bytes0 := 0, bytes1 := 0, where0 := 0, where1 := 0 }
  sparePlan := []
  cont := []
  digest := []

/-- The chip in a frame of work of that image. -/
def work (items : List Item) : State := { up with
  frame := { FrameSt.reset with inStep := true }
  image := { ImageSt.reset with img := some (imageOf items) } }

/-- The chip with a Clasp link up on port 3. -/
def linked (s : State) : State := { s with
  fabric := { s.fabric with ports := [(3, { Clasp.reset with state := 2, lanes := 0xFF })], usable := [3, 4] } }

/-- The chip with a command submitted in slot 0 of port A by the holder. -/
def sub (op : Nat) (args : List Byte) (s : State) : State := { s with
  portA := { s.portA with slots := [(0, { Slot.reset with
    st := .submitted
    opcode := BitVec.ofNat 16 op
    argLen := BitVec.ofNat 16 args.length
    payload := args ++ List.replicate (224 - args.length) 0 })] }
  mbx := { s.mbx with order := [{ port := .a, slot := 0, alive := true }] }
  own := { s.own with holder := some .a } }

/-- That slot's arrival. -/
def first : Arrival := { port := .a, slot := 0, alive := true }

/-- A vector instruction's fields at a width. -/
def vf (w : Nat) : VFields :=
  { w := w, vd := 1, va := 2, vb := 3, vc := 0, mask := 0, invert := false, release := false, zeroing := false, addr := 0, stride := 1 }

/-- The chip with a host buffer bound on port A, 1 MiB for reads and writes. -/
def bound (s : State) : State := { s with
  portA := { s.portA with binds := [(1, { canRead := true, canWrite := true, address := 4096, length := 1048576 })] } }

/-! ### Ill-formed commands -/

theorem test_ill_cells : (Instr.cellStart 288).wellFormed = false ∧ (Instr.formeItemStart 288 0 .ready).wellFormed = false
    ∧ (Instr.formeItemStart 0 65536 .ready).wellFormed = false ∧ (Instr.weightSwap 288).wellFormed = false
    ∧ (Instr.galleySlotFree 288).wellFormed = false ∧ (Instr.sequencerTimeout 288).wellFormed = false
    ∧ (Instr.spareLoad 288).wellFormed = false := by decide +kernel
theorem test_ill_regions : (Instr.heartbeat 4).wellFormed = false ∧ (Instr.regionLost 4).wellFormed = false := by decide +kernel
theorem test_ill_blocks : (Instr.droopTrip 32).wellFormed = false ∧ (Instr.droopRestoreStep 32).wellFormed = false
    ∧ (Instr.arbiterTimeout 32).wellFormed = false := by decide +kernel

/-- A pass that is well formed. -/
def pass0 : PassDesc where
  streamFmt := 0
  weightFmt := 0
  zeroFill := false
  reuse := false
  inclBudget := 0
  tensor := 0
  kFirst := 0
  weightAddr := 0
  streamAddr := [0, 0, 0, 0]
  rows := [0, 0, 0, 0]
  accBase := 0
  rowMaskAddr := none
  colMask := 0

/-- A drain that is well formed: 32 rows of array 0 to the galley. -/
def drain0 : DrainDesc where
  arrays := 1
  outFmt := none
  toGalley := true
  fusedAdd := false
  fusedMul := false
  topk := false
  compare := false
  final := true
  k := 0
  tensor := 0
  accFirst := 0
  rows := 32
  dst := 0
  addend := 0
  multiplicand := 0
  topkDst := 0
  addendFmt := 0
  multFmt := 0
  rowFirst := 0
  colFirst := 0
  stream := 0

theorem test_well_pass_drain : (Instr.pass 0 pass0 []).wellFormed = true ∧ (Instr.drain 0 drain0).wellFormed = true := by decide +kernel
theorem test_ill_pass : (Instr.pass 288 pass0 []).wellFormed = false
    ∧ (Instr.pass 0 { pass0 with streamFmt := 256 } []).wellFormed = false
    ∧ (Instr.pass 0 { pass0 with weightFmt := 256 } []).wellFormed = false
    ∧ (Instr.pass 0 { pass0 with inclBudget := 65536 } []).wellFormed = false
    ∧ (Instr.pass 0 { pass0 with tensor := 65536 } []).wellFormed = false
    ∧ (Instr.pass 0 { pass0 with streamAddr := [] } []).wellFormed = false
    ∧ (Instr.pass 0 { pass0 with rows := [0] } []).wellFormed = false
    ∧ (Instr.pass 0 { pass0 with rows := [513, 0, 0, 0] } []).wellFormed = false
    ∧ (Instr.pass 0 { pass0 with colMask := 2 ^ 128 } []).wellFormed = false
    ∧ (Instr.pass 0 pass0 [(4, 0)]).wellFormed = false ∧ (Instr.pass 0 pass0 [(0, 512)]).wellFormed = false := by decide +kernel
theorem test_ill_drain : (Instr.drain 288 drain0).wellFormed = false ∧ (Instr.drain 0 { drain0 with arrays := 16 }).wellFormed = false
    ∧ (Instr.drain 0 { drain0 with tensor := 65536 }).wellFormed = false ∧ (Instr.drain 0 { drain0 with rows := 513 }).wellFormed = false
    ∧ (Instr.drain 0 { drain0 with accFirst := 512 }).wellFormed = false := by decide +kernel
theorem test_ill_vector : (Instr.add 288 (vf 0)).wellFormed = false ∧ (Instr.add 0 (vf 3)).wellFormed = false
    ∧ (Instr.add 0 { vf 0 with vd := 256 }).wellFormed = false ∧ (Instr.add 0 { vf 0 with va := 256 }).wellFormed = false
    ∧ (Instr.add 0 { vf 0 with vb := 256 }).wellFormed = false ∧ (Instr.add 0 { vf 0 with vc := 256 }).wellFormed = false
    ∧ (Instr.add 0 { vf 0 with mask := 8 }).wellFormed = false ∧ (Instr.vectorItem 288 []).wellFormed = false
    ∧ (Instr.vectorItem 0 [{ op := .add, f := vf 3 }]).wellFormed = false := by decide +kernel
theorem test_ill_vector_width : VInstr.legal { op := .mul, f := vf 2 } = false ∧ VInstr.legal { op := .cmplt, f := { vf 0 with vd := 0 } } = false
    ∧ VInstr.legal { op := .cmplt, f := { vf 0 with vd := 8 } } = false := by decide +kernel
theorem test_ill_transfer : (Instr.transfer 288 move).wellFormed = false ∧ (Instr.transfer 0 { move with dstCell := 288 }).wellFormed = false
    ∧ (Instr.transfer 0 { move with src := 2 ^ 23 }).wellFormed = false
    ∧ (Instr.transfer 0 { move with dst := 2 ^ 23 }).wellFormed = false := by decide +kernel
theorem test_ill_units : (Instr.bezelSlotGrant 8 (.mk 0 []) []).wellFormed = false ∧ (Instr.scrub 8 []).wellFormed = false
    ∧ (Instr.scrub 0 [{ page := 0, word := 2048, errors := [] }]).wellFormed = false
    ∧ (Instr.scrub 0 [{ page := 0, word := 0, errors := [0] }]).wellFormed = false
    ∧ (Instr.update 8 0 0 0).wellFormed = false ∧ (Instr.snapshotCopy 8 0 0).wellFormed = false
    ∧ (Instr.migration 8 0).wellFormed = false ∧ (Instr.pcRetirementDone 8 0).wellFormed = false
    ∧ (Instr.pcRetirementDone 0 32).wellFormed = false ∧ (Instr.hbmRetrainingDone 8).wellFormed = false := by decide +kernel

/-- A COPY of 64 bytes within HBM. -/
def bez : BezelDesc where
  srcFmt := 0
  dstFmt := 0
  quant := 0
  aux := 0
  tensor := 0
  src := .hbm 0
  dst := .hbm 65536
  rowFirst := 0
  colFirst := 0
  rows := 64
  cols := 0
  srcCols := 0
  dstCols := 0
  stream := 0
  scales := none

theorem test_ill_bezel : (Instr.copy (.cell 0) bez).wellFormed = true ∧ (Instr.copy (.cell 288) bez).wellFormed = false
    ∧ (Instr.copy (.unit 8) bez).wellFormed = false ∧ (Instr.copy (.firmware 8) bez).wellFormed = false
    ∧ (Instr.copy (.cell 0) { bez with srcFmt := 256 }).wellFormed = false
    ∧ (Instr.copy (.cell 0) { bez with dstFmt := 256 }).wellFormed = false
    ∧ (Instr.copy (.cell 0) { bez with tensor := 65536 }).wellFormed = false
    ∧ (Instr.copy (.cell 0) { bez with src := .hbm (2 ^ 39) }).wellFormed = false
    ∧ (Instr.copy (.cell 0) { bez with dst := .caseMem 288 0 }).wellFormed = false
    ∧ (Instr.copy (.cell 0) { bez with dst := .caseMem 0 (2 ^ 23) }).wellFormed = false
    ∧ (Instr.copy (.cell 0) { bez with dst := .remote 65536 0 }).wellFormed = false
    ∧ (Instr.copy (.cell 0) { bez with dst := .host 256 0 }).wellFormed = false
    ∧ (Instr.copy (.cell 0) { bez with scales := some (.host 0 (2 ^ 40)) }).wellFormed = false := by decide +kernel
theorem test_ill_ports : (Instr.tickMarker 20 0 0 0).wellFormed = false ∧ (Instr.credit 20 0).wellFormed = false
    ∧ (Instr.deliveryCredit 20 0 0 0 0).wellFormed = false ∧ (Instr.holdPacket 20 0 0 false 0).wellFormed = false
    ∧ (Instr.linkDown 20).wellFormed = false ∧ (Instr.linkRetry 20).wellFormed = false
    ∧ (Instr.laneLoss 20 0).wellFormed = false ∧ (Instr.laneLoss 0 8).wellFormed = false
    ∧ (Instr.groupTimeout 4096).wellFormed = false := by decide +kernel
theorem test_ill_levels : (Instr.faultEvent .cell 288 0 false).wellFormed = false ∧ (Instr.faultWindowStart .block 32 0).wellFormed = false
    ∧ (Instr.faultEvent .region 4 0 false).wellFormed = false ∧ (Instr.faultEvent .chip 1 0 false).wellFormed = false := by decide +kernel
theorem test_ill_sensors : (Instr.sensorLost 4 0 0).wellFormed = false ∧ (Instr.sensorRestored 0 16 0).wellFormed = false
    ∧ (Instr.sensorLost 0 0 2).wellFormed = false ∧ (Instr.sensorDisagreement 4 0).wellFormed = false
    ∧ (Instr.thermalTrip 0 16).wellFormed = false ∧ (Instr.regulatorFaultEnd 64).wellFormed = false := by decide +kernel
theorem test_ill_bars : (Instr.mbxStateWrite .a 32 1).wellFormed = false ∧ (Instr.tickCountRead .a 2).wellFormed = false
    ∧ (Instr.registerWrite .a 65536 4 0).wellFormed = false ∧ (Instr.registerWrite .a 0 3 0).wellFormed = false
    ∧ (Instr.registerWrite .a 2 4 0).wellFormed = false ∧ (Instr.bar2Read .a (2 ^ 30) 1 []).wellFormed = false
    ∧ (Instr.bar2Write .a (2 ^ 30) { bytes := [0], unread := false }).wellFormed = false ∧ (Instr.hostTransferResume 256).wellFormed = false
    ∧ (Instr.getCertificate .a 8 0 0).wellFormed = false ∧ (Instr.challenge .a 8 []).wellFormed = false := by decide +kernel

/-! ### The block and its frames -/

theorem witness_queue : ∃ s : State, ∃ c rest, s.pending = c :: rest := ⟨{ up with pending := [.tick] }, .tick, [], rfl⟩
theorem witness_idle : up.pending = [] := rfl
theorem witness_memoryOk : MemoryOk State.reset :=
  ⟨⟨by decide +kernel, List.Pairwise.nil, List.Pairwise.nil, List.Pairwise.nil, List.Pairwise.nil⟩, ⟨by decide +kernel, List.Pairwise.nil⟩, by decide +kernel⟩
theorem witness_step : ∃ s t, MemoryOk s ∧ step s = .next t := ⟨State.reset, State.reset, witness_memoryOk, rfl⟩
theorem witness_exec : ∃ t, exec .voltageSlewEnd up = .next t := ⟨_, rfl⟩
theorem witness_stops : stops (.registerWrite .a 1 4 0) up := Or.inl ⟨.bar0Access, rfl⟩
theorem witness_stops_tickCount : stops (.tickCountRead .a 3) up := Or.inl ⟨.bar0Access, rfl⟩
theorem witness_stops_bar2Read : stops (.bar2Read .a (2 ^ 30) 1 []) up := Or.inl ⟨.bar2Range, rfl⟩
theorem witness_stops_bar2Write : stops (.bar2Write .a (2 ^ 30) { bytes := [0], unread := false }) up := Or.inl ⟨.bar2Range, rfl⟩
theorem witness_stops_bar4Range : stops (.bar4Access .a (2 ^ 24) true) up := Or.inl ⟨.bar4Range, rfl⟩
theorem witness_stops_bar4 : stops (.bar4Access .a 0 false) { up with ident := { up.ident with lifecycle := 0 } } :=
  Or.inr ⟨.debugRegisterMap, rfl⟩
theorem witness_coreRuns : coreRuns up = true := by decide +kernel

/-- The states in which no core runs: core reset, region 0 without clocks, and FAILED with clocks. -/
def stillCore : State := { up with clocks := { up.clocks with coreReset := true } }
def stillRegion : State := { up with clocks := { up.clocks with stopped := [0] } }

theorem witness_tick_failed : (inState .failed).clocks.coreReset = false ∧ 0 ∉ (inState .failed).clocks.stopped
    ∧ (inState .failed).dev.state = .failed := by decide +kernel
theorem witness_tick_none : stillCore.clocks.coreReset = true ∧ 0 ∈ stillRegion.clocks.stopped ∧ (inState .thermalOff).dev.state = .thermalOff
    ∧ coreRuns stillCore = false ∧ coreRuns stillRegion = false ∧ coreRuns (inState .failed) = false := by decide +kernel

/-- A late hold of this chip for the frame in progress, raised in the frame before. -/
def held : State := { up with frame := { FrameSt.reset with known := [{ origin := 9, frame := 0, late := false }] } }

/-- The frame that a tick ends. -/
def ending (s : State) : State := lateAtTick (beforeTick s)

/-- A frame of the chip in one way or another. -/
def framed (f : FrameSt) : State := { up with frame := f }

theorem witness_targeted : (ending held).tick.aligned = true ∧ (ending held).dev.unaligned = false ∧ (ending held).frame.replaying = false
    ∧ targeted (ending held) = true ∧ coreRuns held = true ∧ held.fabric.groupsNext = none := by decide +kernel
theorem witness_commits : (ending up).tick.aligned = true ∧ (ending up).dev.unaligned = false ∧ (ending up).frame.replaying = false
    ∧ targeted (ending up) = false ∧ (ending up).frame.ownLate ≠ some (ending up).tick.domain ∧ coreRuns up = true := by decide +kernel
theorem witness_localHold : ∃ s, coreRuns s = true ∧ (ending s).tick.aligned = true ∧ (ending s).dev.unaligned = false
    ∧ (ending s).frame.replaying = false ∧ targeted (ending s) = false ∧ (ending s).frame.ownLate = some (ending s).tick.domain :=
  ⟨framed { FrameSt.reset with ownLate := some 0, known := [{ origin := 7, frame := 0, late := true }] }, by decide +kernel⟩
theorem witness_replay : ∃ s, coreRuns s = true ∧ (ending s).tick.aligned = true ∧ (ending s).dev.unaligned = false
    ∧ (ending s).frame.replaying = true ∧ (ending s).frame.doubt = false ∧ (ending s).frame.late = false :=
  ⟨framed { FrameSt.reset with replaying := true }, by decide +kernel⟩
theorem witness_replay_again : ∃ s, coreRuns s = true ∧ (ending s).tick.aligned = true ∧ (ending s).dev.unaligned = false
    ∧ (ending s).frame.replaying = true ∧ (ending s).frame.doubt = true :=
  ⟨framed { FrameSt.reset with replaying := true, doubt := true }, by decide +kernel⟩
theorem witness_stopped : ∃ s, coreRuns s = true ∧ (ending s).tick.aligned = true ∧ (ending s).dev.unaligned = true :=
  ⟨{ up with dev := { up.dev with unaligned := true } }, by decide +kernel⟩
theorem witness_offTick : ∃ s, coreRuns s = true ∧ (ending s).tick.aligned = false :=
  ⟨{ up with tick := { up.tick with aligned := false } }, by decide +kernel⟩
theorem witness_staged : MemoryOk up ∧ keysRise up.caseMem.staged :=
  ⟨⟨witness_memoryOk.cases, witness_memoryOk.hbm, witness_memoryOk.host⟩, List.Pairwise.nil⟩
theorem witness_holdDeadline : coreRuns (work [item 0 false]) = true ∧ (work [item 0 false]).frame.pastDeadline = false
    ∧ formesRun (work [item 0 false]) = true ∧ deadlineMissed (work [item 0 false]) = true
    ∧ (work [item 0 false]).frame.replaying = false ∧ (work [item 0 false]).frame.known = []
    ∧ allAcked (work [item 0 false]) = true := by decide +kernel
theorem witness_holdDeadline_sends : 3 ∈ (linked (work [item 0 false])).fabric.usable ∧ claspUp (claspOf 3 (linked (work [item 0 false]))) = true
    ∧ (claspOf 3 (linked (work [item 0 false]))).ctl = [] ∧ (claspOf 3 (linked (work [item 0 false]))).replay.length < 2048
    ∧ coreRuns (linked (work [item 0 false])) = true ∧ deadlineMissed (linked (work [item 0 false])) = true
    ∧ allAcked (linked (work [item 0 false])) = true ∧ portLive 3 (linked (work [item 0 false])) = true := by decide +kernel
theorem witness_holdDeadline_unacked : ∃ s, coreRuns s = true ∧ formesRun s = true ∧ s.frame.pastDeadline = false ∧ s.frame.replaying = false
    ∧ s.frame.known = [] ∧ allAcked s = false ∧ 3 ∈ s.fabric.usable ∧ claspUp (claspOf 3 s) = true ∧ portLive 3 s = true
    ∧ (claspOf 3 s).ctl = [] :=
  ⟨let s := linked (work [item 0 false])
   { s with fabric := { s.fabric with sends := [{ dst := 9, group := 0xFFFF, xfer := false, sent := 1, acked := 0 }] } }, by decide +kernel⟩
theorem witness_lockUp : (work [item 0 false]).frame.lockUp = false ∧ unstarted (let s := onFrame (fun f => { f with pastDeadline := true, lockUp := true }) (work [item 0 false])
      (work [item 0 false]).frame.cellStarted.foldl (fun s c => if cellWorks s c then beginWaiting c s else s) s) = true
    ∧ (work [item 0 false]).frame.cellStarted = [] := by decide +kernel

/-- A frame whose hold deadline and lock-up have passed. -/
def locked (s : State) : State := { s with frame := { s.frame with pastDeadline := true, lockUp := true } }

theorem witness_positions_passed : (locked up).frame.pastDeadline = true ∧ (locked up).frame.lockUp = true ∧ formesRun up = false
    ∧ up.frame.slipRun < 8 := by decide +kernel
theorem witness_cellStart : cellWorks (work [item 0 false]) 0 = true ∧ (work [item 0 false]).frame.cellStarted.contains 0 = false
    ∧ (work [item 0 false]).image.spareLoads.contains 0 = false ∧ orderedLeft (work [item 0 false]) 0 = [item 0 false]
    ∧ itemReady (work [item 0 false]) 0 (item 0 false) = true ∧ (item 0 false).deferrable = false := by decide +kernel

/-- Eight slips of one forme index. -/
def slipped : State := { work [] with frame := { (work []).frame with slipRun := 8 } }

theorem witness_stuckForme : coreRuns slipped = true ∧ formesRun slipped = true ∧ 8 ≤ slipped.frame.slipRun := by decide +kernel

/-- A follower. -/
def follower (t : TickSt) : State := linked { up with tick := { t with source := false, upstream := 3 } }

theorem witness_unaligned : ∃ s, coreRuns s = true ∧ s.tick.source = false ∧ s.tick.aligned = true ∧ 8 ≤ s.tick.offBad :=
  ⟨follower { up.tick with offBad := 8 }, by decide +kernel⟩
theorem witness_unaligned_gap : ∃ s, coreRuns s = true ∧ s.tick.source = false ∧ s.tick.aligned = true ∧ 8 ≤ s.tick.markerGap :=
  ⟨follower { up.tick with markerGap := 8 }, by decide +kernel⟩
theorem witness_realigned : ∃ s, coreRuns s = true ∧ s.tick.source = false ∧ s.tick.aligned = false ∧ 64 ≤ s.tick.offGood :=
  ⟨follower { up.tick with aligned := false, offGood := 64 }, by decide +kernel⟩
theorem witness_tickMarker : ∃ s, s.tick.source = false ∧ s.tick.upstream = 3 ∧ claspUp (claspOf 3 s) = true
    ∧ portLive 3 s = true ∧ s.tick.upstream ≠ 4 ∧ (4000 : Int).natAbs ≤ 4000 ∧ s.tick.offBad < 8 ∧ s.tick.markerGap < 8 ∧ s.tick.offGood < 64 :=
  ⟨follower up.tick, by decide +kernel⟩
theorem witness_port_still : portLive 3 stillRegion = false ∧ portLive 19 { up with clocks := { up.clocks with stopped := [3] } } = false := by decide +kernel
theorem witness_heartbeat : collectorsRun up = true ∧ up.clocks.stopped.contains 3 = false ∧ 3 < up.clocks.silent.length := by decide +kernel
theorem witness_regionLost : ∃ s, collectorsRun s = true ∧ s.clocks.lost.contains 1 = false ∧ 16 ≤ s.clocks.silent.getD 1 0
    ∧ s.dev.state ≠ .booting := ⟨{ up with clocks := { up.clocks with silent := [0, 16, 0, 0] } }, by decide +kernel⟩
theorem witness_beatLoss : up.clocks.beatArmed = true ∧ up.dev.state ≠ .thermalOff := by decide +kernel
theorem witness_beats_none : collectorsRun State.reset = false ∧ State.reset.clocks.beatArmed = false
    ∧ stillRegion.clocks.stopped.contains 0 = true ∧ up.clocks.silent.getD 1 0 < 16 := by decide +kernel

/-! ### The vector engine -/

theorem witness_lanes : (vf 0).w = 0 ∧ (vf 1).w < 2 ∧ (vf 2).w = 2 ∧ 0 < (vf 0).vd ∧ (vf 0).vd < 8
    ∧ ∀ w ∈ [0, 1, 2], ∀ op : VOp, vectorRuns up 0 { op := op, f := vf w } = true := by
  refine ⟨rfl, by decide +kernel, rfl, by decide +kernel, by decide +kernel, ?_⟩
  intro w hw op
  have h : cellWorks up 0 = true := by decide +kernel
  have hl : up.frame.lockUp = false := rfl
  simp [vectorRuns, h, hl]
theorem witness_lanes_none : vectorRuns stillCore 0 { op := .add, f := vf 0 } = false
    ∧ VInstr.legal { op := .exp2, f := vf 1 } = false ∧ vectorRuns (locked up) 0 { op := .add, f := vf 0 } = false := by decide +kernel
theorem witness_loads : offsetsFit (vf 0) = true ∧ offsetsFit (vf 1) = true ∧ offsetsFit (vf 2) = true := by decide +kernel
theorem witness_loads_top : offsetsFit { vf 0 with addr := 0x7FFFFC, stride := 0 } = true := by decide +kernel

/-- A cell 0 whose galley holds one empty tile. -/
def tiled : State := { up with cells := { up.cells with eng := [(0, { CellEng.empty with galley := [[]] })] } }

theorem witness_ldg : ∃ t, (engOf tiled 0).galley[(vf 0).addr.toNat % 8]? = some t
    ∧ vectorRuns tiled 0 { op := .ldg, f := vf 0 } = true := ⟨[], by decide +kernel⟩
theorem witness_loads_none : offsetsFit { vf 0 with addr := 0x7FFFFC } = false ∧ offsetsFit { vf 0 with addr := 2 } = false
    ∧ (engOf up 0).galley.length ≤ (vf 0).addr.toNat % 8 := by decide +kernel
theorem witness_stores : shadowRoom up 0 (laneNum 0) = true ∧ shadowRoom up 0 (laneNum 2) = true ∧ shadowRoom up 0 512 = true
    ∧ (vf 0).stride ≠ 0 := by decide +kernel

/-- A cell 0 whose mask register 1 governs lane 5 alone. -/
def oneLane : State := { up with cells := { up.cells with eng := [(0, { CellEng.empty with mregs := [(1, 32)] })] } }

theorem witness_store_stride0 : ∃ f : VFields, f.w = 0 ∧ f.stride = 0 ∧ offsetsFit f = true ∧ vectorRuns oneLane 0 { op := .st, f := f } = true
    ∧ ∀ l, l < laneNum f.w → ∀ k, k < laneNum f.w → (laneOn oneLane 0 f l || f.zeroing) = true →
        (laneOn oneLane 0 f k || f.zeroing) = true → l = k :=
  ⟨{ vf 0 with mask := 1, stride := 0 }, by decide +kernel⟩
theorem witness_exactLanes : keysRise (lregOf up 0 1).lanes ∧ ∀ l, l < 128 → laneOn up 0 (vf 0) l = true →
    f32Finite (laneF 0 (vregOf up 0 2) l) = true
    ∧ belowLimit (lregOf up 0 1).leading (p2 (lregOf up 0 1).logN) (f32Val (laneF 0 (vregOf up 0 2) l)) = true :=
  ⟨List.Pairwise.nil, by decide +kernel⟩

/-- Lane 0 of register 2 infinite. -/
def infLane : State := { up with cells := { up.cells with eng := [(0, { CellEng.empty with vregs := [(2, 0x7F800000)] })] } }

theorem witness_exactLanes_poison : laneOn infLane 0 (vf 0) 0 = true ∧ f32Finite (laneF 0 (vregOf infLane 0 2) 0) = false := by decide +kernel
theorem witness_exactScan : ∀ l, l < 128 → laneOn up 0 { vf 0 with vb := 4 } l = true → f32Finite (laneF 0 (vregOf up 0 2) l) = true
    ∧ belowLimit (lregOf up 0 4).leading (p2 (lregOf up 0 4).logN) (f32Val (laneF 0 (vregOf up 0 2) l)) = true := by decide +kernel
/-- Lane 0 of register 2 is 2 ^ 60, which a leading of 60 takes and one of 59 does not. -/
def highLane : State := { up with cells := { up.cells with eng := [(0, { CellEng.empty with vregs := [(2, 0x5D800000)], mregs := [(1, 1)] })] } }

theorem witness_raises : ∀ r ∈ [1, 4], keysRise (lregOf highLane 0 r).lanes ∧ -128 ≤ (lregOf highLane 0 r).leading
    ∧ (lregOf highLane 0 r).leading < 60
    ∧ (∀ l, l < 128 → laneOn highLane 0 (vf 0) l = true → f32Finite (laneF 0 (vregOf highLane 0 2) l) = true
      ∧ belowLimit 60 (p2 (lregOf highLane 0 r).logN) (f32Val (laneF 0 (vregOf highLane 0 2) l)) = true)
    ∧ ∃ l, l < 128 ∧ laneOn highLane 0 (vf 0) l = true
      ∧ belowLimit (60 - 1) (p2 (lregOf highLane 0 r).logN) (f32Val (laneF 0 (vregOf highLane 0 2) l)) = false := by
  intro r hr
  have h : lregOf highLane 0 r = LReg.zero := by
    rcases List.mem_cons.1 hr with rfl | hr
    · rfl
    · rw [List.mem_singleton.1 hr]; rfl
  rw [h]
  exact ⟨List.Pairwise.nil, by decide +kernel, by decide +kernel, by decide +kernel, 0, by decide +kernel⟩
theorem witness_raises_runs : vectorRuns highLane 0 { op := .aadd, f := vf 0 } = true
    ∧ vectorRuns highLane 0 { op := .ascan, f := { vf 0 with vb := 4 } } = true := by decide +kernel
theorem witness_lanePartials : ∃ f : VFields, f.w < 3 ∧ f.addr.toNat + 1600 = 2 ^ 23 ∧ shadowRoom up 0 2 = true
    ∧ vectorRuns up 0 { op := .ald, f := f } = true ∧ vectorRuns up 0 { op := .ast, f := f } = true
    ∧ (lregOf up 0 f.vd).joins (readPartial up 0 f.addr.toNat) = true ∧ 2 ^ 23 < f.addr.toNat + 1 + 1600 :=
  ⟨{ vf 0 with addr := 0x7FF9C0 }, by decide +kernel⟩
theorem witness_lanePartials_keys : keysRise (lregOf up 0 1).lanes := List.Pairwise.nil

/-- Register 1 covers the same K range as the partial at address 0. -/
def covered : State := { up with
  caseMem := { CaseSt.reset with mem := [(8, 32)] }
  cells := { up.cells with eng := [(0, { CellEng.empty with lregs := [(1, { LReg.zero with ks := [(0, 32)] })] })] } }

theorem witness_lanePartials_apart : keysRise (lregOf covered 0 1).lanes ∧ (lregOf covered 0 1).joins (readPartial covered 0 0) = false
    ∧ vectorRuns covered 0 { op := .ald, f := vf 0 } = true := ⟨List.Pairwise.nil, by decide +kernel⟩
theorem witness_topkm : ∃ f : VFields, f.w < 3 ∧ f.vc = 128 ∧ shadowRoom up 0 3 = true ∧ vectorRuns up 0 { op := .topkm, f := f } = true ∧ f.addr.toNat + 64 * f.vc ≤ 2 ^ 23
    ∧ f.stride.toNat + 64 * f.vc ≤ 2 ^ 23 ∧ f.addr.toNat + 64 * f.vc ≤ f.stride.toNat :=
  ⟨{ vf 0 with vc := 128, stride := 8192 }, by decide +kernel⟩
theorem witness_topkm_below : ∃ f : VFields, f.w < 3 ∧ f.vc = 1 ∧ f.addr.toNat + 64 * f.vc ≤ 2 ^ 23 ∧ f.stride.toNat + 64 * f.vc ≤ f.addr.toNat :=
  ⟨{ vf 0 with vc := 1, addr := 64, stride := 0 }, by decide +kernel⟩
theorem witness_lig : vectorRuns tiled 0 { op := .lig, f := vf 0 } = true
    ∧ let d := readLig tiled 0 0
      let act := (List.range 128).map (fun j => (mregOf tiled 0 d.colMask).getLsbD j)
      let r := ligRows [] 0 d act { s := tiled, adj := [], need := [], ok := true }
      d.in0Src = 0 ∧ d.in0Addr % 8 < (engOf tiled 0).galley.length ∧ d.accExact = false ∧ r.1.need = []
        ∧ -128 ≤ (lregOf tiled 0 d.accReg).leading := by decide +kernel
theorem witness_lig_exact : ∃ s, vectorRuns s 0 { op := .lig, f := vf 0 } = true ∧ (readLig s 0 0).accExact = true
    ∧ (readLig s 0 0).in0Addr % 8 < (engOf s 0).galley.length ∧ -128 ≤ (lregOf s 0 (readLig s 0 0).accReg).leading :=
  ⟨{ tiled with caseMem := { CaseSt.reset with mem := [(7, 2)] } }, by decide +kernel⟩
theorem witness_lig_empty : (readLig up 0 0).in0Src = 0 ∧ (engOf up 0).galley.length ≤ (readLig up 0 0).in0Addr % 8 := by decide +kernel
theorem witness_vectorItem : ∃ prog : List VInstr, prog.length = 4 ∧ mayRun up 0 (.vector prog) = true ∧ programClean 0 prog up = true :=
  ⟨[{ op := .ld, f := vf 0 }, { op := .aadd, f := vf 0 }, { op := .redsum, f := vf 0 }, { op := .st, f := vf 0 }], by decide +kernel⟩
/-- The item that adds lane 0, 2 ^ 60, into register 1, under raises. -/
def addHigh (delta : SMap Nat) : VRun :=
  [({ op := .aadd, f := { vf 0 with mask := 1 } } : VInstr)].foldl (vStep delta 0) { s := highLane, adj := [], need := [], ok := true }

/-- It is repeated once. -/
theorem addHigh_repeats : repeatsOf addHigh 1099 [] [] = repeatsOf addHigh 2 [] [] := by
  have h : ∀ n, repeatsOf addHigh (n + 2) [] [] = repeatsOf addHigh 2 [] [] := by
    intro n
    have h1 : ¬ ((addHigh []).need = [] ∨ (addHigh []).ok = false) := by decide +kernel
    have h2 : (addHigh ((addHigh []).need.foldl (fun d p => SMap.modify d p.1 0 (fun o => o + p.2.1)) [])).need = [] := by decide +kernel
    simp only [repeatsOf, if_neg h1, h2, true_or, if_true]
  exact h 1097
theorem witness_vectorItem_raises : (addHigh (repeatsOf addHigh 1099 [] []).1).ok = true ∧ (addHigh (repeatsOf addHigh 1099 [] []).1).need = []
    ∧ (repeatsOf addHigh 1099 [] []).1 ≠ []
    ∧ mayRun highLane 0 (.vector [{ op := .aadd, f := { vf 0 with mask := 1 } }]) = true := by
  rw [addHigh_repeats]
  decide +kernel
theorem witness_vectorItem_stops :
    ([({ op := .ldg, f := vf 0 } : VInstr)].foldl (vStep [] 0) { s := up, adj := [], need := [], ok := true }).ok = false
    ∧ mayRun up 0 (.vector [{ op := .ldg, f := vf 0 }]) = true := by decide +kernel
theorem witness_vectorItem_none : mayRun stillCore 0 (.vector []) = false ∧ runVector 0 [{ op := .ldg, f := vf 0 }] up = none
    ∧ mayRun (locked up) 0 (.vector []) = false := by decide +kernel

/-! ### Arrays, galley, case memory -/

/-- Cell 0 of the chip has started. -/
def begun (items : List Item) : State := { work items with frame := { (work items).frame with cellStarted := [0] } }

theorem witness_itemStart : formesRun (begun [item 0 false]) = true ∧ cellWorks (begun [item 0 false]) 0 = true
    ∧ (begun [item 0 false]).frame.lockUp = false ∧ (begun [item 0 false]).frame.cellStarted.contains 0 = true
    ∧ (begun [item 0 false]).image.spareLoads.contains 0 = false ∧ orderedLeft (begun [item 0 false]) 0 = [item 0 false]
    ∧ itemReady (begun [item 0 false]) 0 (item 0 false) = true ∧ sendWindow (begun [item 0 false]) (item 0 false) 65535 = true := by
  decide +kernel
theorem witness_itemStart_deferrable : deferChoice (begun [item 0 false, { item 1 true with latest := 1 }]) 0 0 = some { item 1 true with latest := 1 }
    ∧ deferChoice (begun [item 0 false, item 1 true]) 0 0 = none := by decide +kernel
theorem witness_itemStart_none : deferChoice (begun [item 0 false]) 0 0 = none := by decide +kernel
theorem witness_itemStart_not : formesRun up = false ∧ (locked up).frame.lockUp = true
    ∧ (work []).frame.cellStarted.contains 0 = false := by decide +kernel

/-- Cell 0 of the chip with an engine state. -/
def engine (e : CellEng) : State := { up with cells := { up.cells with eng := [(0, e)] } }

/-- A pass of 32 rows of array 0. -/
def pass32 : PassDesc := { pass0 with rows := [32, 0, 0, 0] }

/-- A pass that waits on array 0. -/
def held0 : HeldPass := { desc := pass32, mismatches := [], arrays := [0], drains := [] }

theorem witness_pass : mayRun up 0 (.pass pass0) = true ∧ ceilingOf 64 up 0 ≠ 0 ∧ (engOf up 0).held = none
    ∧ blockedArrays up 0 pass0 = [] ∧ blockedArrays up 0 pass32 = [] := by decide +kernel
theorem witness_pass_not : mayRun (locked up) 0 (.pass pass0) = false ∧ (engOf (engine { CellEng.empty with held := some held0 }) 0).held.isSome = true
    ∧ ceilingOf 64 { up with power := { up.power with q := 0 } } 0 = 0 := by decide +kernel
theorem witness_pass_blocked : let s := engine { CellEng.empty with waiting := [{ drain0 with accFirst := 31, rows := 1 }] }
    mayRun s 0 (.pass pass32) = true ∧ ceilingOf 64 s 0 ≠ 0 ∧ (engOf s 0).held = none ∧ blockedArrays s 0 pass32 = [0] := by decide +kernel

/-- A format and leading table entry of an FP32 tensor that is not cut into parts. -/
def entry : TabEntry where
  format := 0xFF
  leading := 0
  quant := 0
  sensitive := false
  gradient := false
  rounded := false
  inclBudget := 0
  lowest := 0
  parts := 1
  rows := 32
  cols := 32
  k := 32
  declaredN := 32
  calm := 0

/-- The chip with that table. -/
def tabled (s : State) : State := { s with step := { s.step with table := [entry] } }

/-- A weight tile without a row. -/
def tile0 : WTile := { fmt := 0, own := 0, addr := 0, kFirst := 0, colMask := 0, rows := [], sums := [] }

theorem witness_mismatch : ∃ s d, ∃ mm : List (Nat × Nat), mayRun s 0 (.pass d) = true ∧ ceilingOf 64 s 0 ≠ 0 ∧ (engOf s 0).held = none ∧ blockedArrays s 0 d = []
    ∧ (passRetry [0, 1, 2, 3] s 0 d mm 0).stop.isSome = true ∧ inFrame (work []) = true :=
  ⟨tabled (engine { CellEng.empty with active := some tile0 }), { pass32 with reuse := true }, [(0, 31), (0, 31), (0, 31)], by decide +kernel⟩
theorem witness_mismatch_twice : (passRetry [0, 1, 2, 3] (tabled (engine { CellEng.empty with active := some tile0 })) 0 { pass32 with reuse := true }
    [(0, 0), (0, 0)] 0).stop = none := by decide +kernel
theorem witness_product : belowLimit 0 1 (opDy (.val 1 0)) = true ∧ belowLimit 0 1 (opDy (.val 1 100)) = false := by decide +kernel
theorem witness_drainRound : drain0.fusedAdd = false ∧ drain0.fusedMul = false ∧ partCount entry ≤ 1 := by decide +kernel
theorem witness_reduceElem : opFinite (.val 1 0) = true ∧ belowLimit 0 1 (opDy (.val 1 0)) = true ∧ opFinite .nonfinite = false := by decide +kernel
theorem witness_weightSwap : ∃ s w, cellWorks s 0 = true ∧ (engOf s 0).next = some w :=
  ⟨engine { CellEng.empty with next := some tile0 }, tile0, by decide +kernel⟩
theorem witness_weightSwap_held : cellWorks (engine { CellEng.empty with held := some held0 }) 0 = true
    ∧ (engOf (engine { CellEng.empty with held := some held0 }) 0).held.isSome = true := by decide +kernel
theorem witness_weightSwap_none : (engOf up 0).next = none ∧ cellWorks stillCore 0 = false ∧ (engOf up 0).waiting = []
    ∧ (engOf up 0).held = none ∧ passesLeft up 0 = [] ∧ passesLeft (begun [{ item 0 false with body := .pass pass32 }]) 0 = [pass32] := by
  decide +kernel
theorem witness_galleySlotFree : cellRegion 287 = 3 ∧ 3 ∉ up.clocks.stopped ∧ cellActive up 286 = true ∧ cellActive up 8 = false := by decide +kernel
theorem witness_drain_behind : ∃ s, mayRun s 0 (.drain { drain0 with accFirst := 31, rows := 1 }) = true ∧ (engOf s 0).held = some held0
    ∧ behindHeld s 0 { drain0 with accFirst := 31, rows := 1 } = true ∧ behindHeld s 0 { drain0 with accFirst := 32, rows := 1 } = false :=
  ⟨engine { CellEng.empty with held := some held0 }, by decide +kernel⟩
theorem witness_drain : mayRun (tabled up) 0 (.drain drain0) = true ∧ behindHeld (tabled up) 0 drain0 = false ∧ (engOf (tabled up) 0).waiting = []
    ∧ galleyNeed drain0 ≤ galleyFree (engOf (tabled up) 0) ∧ mayRun (locked up) 0 (.drain drain0) = false
    ∧ (tabEntry (tabled up) drain0.tensor).isSome = true ∧ drain0.final = true ∧ drain0.toGalley = true ∧ drain0.outFmt = none
    ∧ drain0.topk = false ∧ drain0.compare = false := by decide +kernel
theorem witness_drain_row : (0, 31) ∈ stripRows drain0 := by decide +kernel

/-- Cell 0 with a full galley and a waiting drain. -/
def fullGalley : State := engine { CellEng.empty with galley := List.replicate 8 [], waiting := [drain0] }

theorem witness_drain_waits : mayRun fullGalley 0 (.drain drain0) = true ∧ galleyFree (engOf fullGalley 0) < galleyNeed drain0
    ∧ ¬ (galleyNeed drain0 = 0 ∨ ((engOf fullGalley 0).waiting = [] ∧ galleyNeed drain0 ≤ galleyFree (engOf fullGalley 0)))
    ∧ galleyFree (freeSlots (engOf fullGalley 0)) < galleyNeed drain0 ∧ (engOf fullGalley 0).held = none := by decide +kernel
theorem witness_transfer : mayRun up 0 (.transfer move) = true ∧ move.dstCell < 288 ∧ move.src + move.length ≤ 2 ^ 23
    ∧ move.dst + move.length ≤ 2 ^ 23 ∧ shadowRoom up (redirect up move.dstCell) (move.length / 4096 + 2) = true
    ∧ mayRun (locked up) 0 (.transfer move) = false ∧ epRuns up (.caseMem (redirect up move.dstCell) move.dst) = true := by decide +kernel
theorem witness_transfer_stopped : epRuns { up with clocks := { up.clocks with stopped := [3] } } (.caseMem 287 0) = false := by decide +kernel

/-- The chip in a frame of work in which cell 1 has its 512 shadow pages. -/
def shadowed (excess : List Nat) : State := { begun [] with
  caseMem := { CaseSt.reset with shadow := (List.range 512).map (· + 2048), excess := excess } }

theorem witness_transfer_513th : let d := { move with dst := 600 * 4096 }
    mayRun (shadowed []) 0 (.transfer d) = true ∧ epRuns (shadowed []) (.caseMem (redirect (shadowed []) d.dstCell) d.dst) = true
    ∧ d.dst % 4096 + d.length ≤ 4096 ∧ d.dst + d.length ≤ 2 ^ 23 ∧ redirect (shadowed []) d.dstCell = 1
    ∧ (shadowed []).caseMem.shadow.contains (2048 * 1 + d.dst / 4096) = false ∧ 512 ≤ shadowCount (shadowed []) 1
    ∧ (shadowed []).caseMem.excess.contains 1 = false ∧ (shadowed [1]).caseMem.excess.contains 1 = true ∧ inFrame (shadowed []) = true := by
  decide +kernel

/-- Unit 0 of the chip in a state. -/
def unit0 (u : UnitSt) : State := { up with hbm := { up.hbm with units := [(0, u)] } }

theorem witness_slot_first : stackRuns up 0 = true ∧ up.frame.lockUp = false
    ∧ [ReqClass.inbound, .forme, .host, .firmware, .migration, .scrub].find? (fun q => [ReqClass.scrub, .host].contains q) = some .host
    ∧ [ReqClass.inbound, .forme, .host, .firmware, .migration, .scrub].find? (fun q => [ReqClass.forme].contains q) = some .forme
    ∧ ¬ ([ReqClass.scrub, .host].contains .scrub = true ∧ 4095 ≤ (unitOf up 0).sinceScrub)
    ∧ ¬ ([ReqClass.scrub, .host].contains .migration = true ∧ 1 ≤ (unitOf up 0).sinceMig ∧ movedPages up 0 < 64) := by decide +kernel
theorem witness_slot_scrub : ∃ s, stackRuns s 0 = true ∧ s.frame.lockUp = false ∧ 4095 ≤ (unitOf s 0).sinceScrub :=
  ⟨unit0 { sinceScrub := 4095, sinceMig := 0, granted := none, credit := Frac.ofNat 0 }, by decide +kernel⟩
theorem witness_slot_migration : ∃ s, stackRuns s 0 = true ∧ s.frame.lockUp = false ∧ (unitOf s 0).sinceScrub < 4095
    ∧ 1 ≤ (unitOf s 0).sinceMig ∧ movedPages s 0 < 64 :=
  ⟨unit0 { sinceScrub := 4094, sinceMig := 1, granted := none, credit := Frac.ofNat 0 }, by decide +kernel⟩

/-- The chip with half the admission. -/
def halved : State := { up with power := { up.power with admitted := Frac.mk' 1 2 } }

theorem witness_slot_admitted : Frac.le (Frac.ofNat 1) (Frac.add (unitOf up 0).credit up.power.admitted) = true := by decide +kernel
theorem witness_slot_turned : Frac.le (Frac.ofNat 1) (Frac.add (unitOf halved 0).credit halved.power.admitted) = false
    ∧ Frac.add (unitOf halved 0).credit halved.power.admitted ≠ (unitOf halved 0).credit ∧ stackRuns halved 0 = true
    ∧ [ReqClass.forme, .inbound].filter (fun q => q ≠ .forme ∧ q ≠ .host) = [.inbound]
    ∧ [ReqClass.forme].filter (fun q => q ≠ .forme ∧ q ≠ .host) = [] := by decide +kernel
theorem witness_slot_none : (locked up).frame.lockUp = true ∧ stackRuns (locked up) 0 = true ∧ unitRuns { up with clocks := { up.clocks with stopped := [3] } } 7 = false := by
  decide +kernel

/-- The chip with stack 0 in training. -/
def training0 : State := { up with hbm := { up.hbm with training := [0] } }

theorem witness_training_stack : unitRuns training0 0 = true ∧ 0 ∈ training0.hbm.training ∧ stackRuns training0 0 = false := by decide +kernel

/-! ### HBM and bezel units -/

/-- Two mapped pages of stack 0 and, of page 1, its local copy; cell 0 in a frame. -/
def mapped : State := { begun [] with hbm := { HbmSt.reset with
  map := [(0, { ppn := 0, cls := 0, excluded := false }), (1, { ppn := 1, cls := 0, excluded := false })]
  taken := [0, 1, 2]
  usable := [100, 0, 0, 0, 0, 0, 0, 0]
  localPages := [(1, 2)] } }

theorem witness_copy : opRuns mapped (.cell 0) 1 bez = true ∧ pagesFit mapped (.cell 0) bez.src bez.rows = true
    ∧ pagesFit mapped (.cell 0) bez.dst bez.rows = true
    ∧ ∀ k ∈ pagesOf 65536 65536 bez.rows, (SMap.get? mapped.hbm.localPages k).isSome = true := by decide +kernel
theorem witness_copy_top : pagesFit mapped (.cell 0) (.hbm 131008) 64 = true ∧ pagesFit mapped (.cell 0) (.hbm 131008) 65 = false := by decide +kernel
theorem witness_copy_listed : ∃ s, opRuns s (.cell 0) 1 bez = true ∧ wordPoisoned s 32 = true :=
  ⟨{ mapped with hbm := { mapped.hbm with poison := [(0, 1)] } }, by decide +kernel⟩
theorem witness_op_waits : opReady (locked up) (.firmware 0) 1 bez = false ∧ opReady up (.firmware 0) 4 { bez with src := .host 1 0 } = false := by
  decide +kernel
theorem witness_op_illegal : opReady up (.firmware 0) 1 bez = true ∧ opLegal 1 { bez with rows := 0 } = false
    ∧ pagesFit up (.firmware 0) bez.src bez.rows = false := by decide +kernel

theorem witness_op_ends : opReady (bound up) (.firmware 0) 4 { bez with src := .host 1 0 } = true
    ∧ opLegal 4 { bez with src := .host 1 0 } = false ∧ hostSide { bez with src := .host 1 0 } = true := by decide +kernel

/-- One block of 32 columns and rows between the two pages. -/
def blk (sf df : Nat) : BezelDesc :=
  { bez with srcFmt := sf, dstFmt := df, rows := 32, cols := 32, srcCols := 32, dstCols := 32 }

/-- Pages 0 to 31 of stack 0 mapped for activations. -/
def pages (cls : Nat) (s : State) : State := { s with hbm := { s.hbm with
  map := (List.range 32).map (fun k => (k, { ppn := k, cls := cls, excluded := false }))
  taken := List.range 32
  usable := [100, 0, 0, 0, 0, 0, 0, 0] } }

/-- The same tile place in page 16 on. -/
def far (d : BezelDesc) : BezelDesc := { d with dst := .hbm (16 * 65536) }

theorem witness_moves : (opRuns (pages 0 (begun [])) (.cell 0) 2 (far (blk 5 5)) && moveFits (pages 0 (begun [])) (.cell 0) (far (blk 5 5)) false
    && opRuns (pages 0 (begun [])) (.unit 0) 3 (far (blk 0 0)) && moveFits (pages 0 (begun [])) (.unit 0) (far (blk 0 0)) true) = true := by
  decide +kernel
theorem witness_converts : (opRuns (pages 0 up) (.firmware 0) 4 (far (blk 5 0))
    && convertFits (pages 0 up) (.firmware 0) (far (blk 5 0)) (blockBytes 5) (blockBytes 0)
    && opRuns (pages 0 up) (.firmware 0) 5 (far (blk 0 6))
    && convertFits (pages 0 up) (.firmware 0) (far (blk 0 6)) (blockBytes 0) (blockBytes 6)) = true := by decide +kernel
theorem witness_microscaling : ∃ sf df, mxToChase sf = some df
    ∧ (let s := tabled (pages 0 up)
       let d := far { blk sf df with scales := some (.hbm 524288) }
       let x := far { blk df sf with scales := some (.hbm 524288) }
       opRuns s (.firmware 0) 6 d && mxSideFits s (.firmware 0) d d.srcFmt d.src d.srcCols
      && sideFits s (.firmware 0) d.dst (blockBytes df) 0 0 32 32 32
      && opRuns s (.firmware 0) 7 x && mxSideFits s (.firmware 0) x x.dstFmt x.dst x.dstCols
      && sideFits s (.firmware 0) x.src (blockBytes df) 0 0 32 32 32) = true :=
  ⟨8, 0, by decide +kernel⟩
theorem witness_reduces : (opRuns (pages 3 up) (.firmware 0) 8 (far (blk 0xFF 0xFF))
    && opRuns (pages 3 up) (.firmware 0) 9 (far (blk 0xFF 0xFF))
    && sideFits (pages 3 up) (.firmware 0) (.hbm 0) longTileBytes 0 0 32 32 32
    && opRuns (pages 3 up) (.firmware 0) 9 (far (blk 5 0xFF))
    && sideFits (pages 3 up) (.firmware 0) (.hbm 0) (blockBytes 5) 0 0 32 32 32
    && opRuns (pages 3 up) (.firmware 0) 10 (far (blk 0xFF 5))
    && convertFits (pages 3 up) (.firmware 0) (far (blk 0xFF 5)) longTileBytes (blockBytes 5)) = true := by decide +kernel

theorem witness_microscaling_ends : ∃ sf df, (let d := far { blk sf df with scales := none }
    opReady (tabled (pages 0 up)) (.firmware 0) 6 d && !mxSideFits (tabled (pages 0 up)) (.firmware 0) d d.srcFmt d.src d.srcCols
      && opReady (tabled (pages 0 up)) (.firmware 0) 7 d) = true := ⟨8, 0, by decide +kernel⟩

/-- One byte of word 3 of page 0 upset. -/
def upset : HbmUpset := { page := 0, word := 3, errors := 1 :: List.replicate 35 0 }

theorem witness_scrub_clean : stackRuns mapped 0 = true ∧ mapped.frame.lockUp = false ∧ rsDecode [] = .clean ∧ pageStack upset.page = 0 := by
  decide +kernel
theorem witness_scrub_corrected : ∃ b v, rsDecode upset.errors = .corrected b v := ⟨0, 1, by decide +kernel⟩
theorem witness_scrub_committed : stagingPhys mapped upset.page = false ∧ mapped.hbm.poison.contains (upset.page, upset.word) = false
    ∧ mapped.hbm.corrected.contains (upset.page, upset.word / 32) = false := by decide +kernel
theorem witness_scrub_uncorrectable : rsDecode (1 :: 2 :: 3 :: List.replicate 33 0) = .uncorrectable := by decide +kernel
theorem witness_scrub_again : ∃ s : State, s.hbm.corrected.contains (upset.page, upset.word / 32) = true :=
  ⟨{ mapped with hbm := { mapped.hbm with corrected := [(0, 0)] } }, by decide +kernel⟩
theorem witness_poison : pageOfPhys mapped 0 = some 0 ∧ mapped.hbm.poison.contains (0, 3) = false ∧ poisonCount mapped 0 < 1024 := by
  decide +kernel
theorem witness_poison_full : ∃ s : State, pageOfPhys s 0 = some 0 ∧ s.hbm.poison.contains (0, 0) = false ∧ poisonCount s 0 = 1024 :=
  ⟨{ mapped with hbm := { mapped.hbm with poison := (List.range 1024).map (fun i => (0, i + 1)) } }, by decide +kernel⟩
theorem witness_migration : ∃ s e, stackRuns s 0 = true ∧ pageEnt s 0 = some e ∧ s.frame.lockUp = false ∧ pageStack 0 = 0
    ∧ mustMove s (physOf s 0) = true ∧ s.hbm.migrated.contains 0 = false ∧ movedPages s 0 < 64
    ∧ SMap.get? s.hbm.localPages 0 = none ∧ canStage s 0 = true ∧ freePages s 0 ≠ 0 ∧ freeElsewhere s 0 (pagePc (physOf s 0)) ≠ 0 :=
  ⟨{ mapped with hbm := { mapped.hbm with weak := [(0, 3)] } }, { ppn := 0, cls := 0, excluded := false }, by decide +kernel⟩
theorem witness_migration_copy : ∃ s, (pageEnt s 1).isSome = true ∧ mustMove s (physOf s 1) = true ∧ SMap.get? s.hbm.localPages 1 = some 2
    ∧ pagePc 2 ≠ pagePc (physOf s 1) ∧ mapped.hbm.migrated.contains 1 = false ∧ mustMove mapped (physOf mapped 1) = false :=
  ⟨{ mapped with hbm := { mapped.hbm with weak := [(1, 3)] } }, by decide +kernel⟩
theorem witness_migration_full : ∃ s, mustMove s (physOf s 0) = true ∧ SMap.get? s.hbm.localPages 0 = none ∧ canStage s 0 = false :=
  ⟨{ mapped with hbm := { mapped.hbm with weak := [(0, 3)], retired := (List.range 32).map (fun k => (0, k)) } }, by decide +kernel⟩
theorem witness_migration_alone : ∃ s, freeElsewhere s 0 (pagePc (physOf s 0)) = 0 ∧ mustMove s (physOf s 0) = true ∧ canStage s 0 = true :=
  ⟨{ mapped with hbm := { mapped.hbm with weak := [(0, 3)], retired := ((List.range 32).filter (· != pagePc (physOf mapped 0))).map (fun k => (0, k)) } },
    by decide +kernel⟩
theorem witness_migration_limit : ∃ s, 64 ≤ movedPages s 0 :=
  ⟨{ mapped with hbm := { mapped.hbm with migrated := List.range 64 } }, by decide +kernel⟩
theorem witness_retirement : ∃ s, unitRuns s 0 = true ∧ s.hbm.retiring.contains (0, 31) = true ∧ pcEmpty s 0 31 = true :=
  ⟨{ mapped with hbm := { mapped.hbm with retiring := [(0, 31)] } }, by decide +kernel⟩
theorem witness_retirement_none : mapped.hbm.retiring.contains (0, 31) = false ∧ pcEmpty mapped 0 0 = false := by decide +kernel

/-! ### The training step -/

/-- An optimizer entry. -/
def opt0 : OptEntry := { master := 0, work := 0, program := 0, clip := false, lrScale := 0, stream := 0, k := [] }

/-- A chip at a forme index of a step, with an outcome of the last decision. -/
def stepAt (k outcome : Nat) (regen : Bool) : State := { up with
  frame := { FrameSt.reset with inStep := true, formeIdx := k }
  image := { ImageSt.reset with img := some { imageOf [] with opt := [opt0] } }
  step := { StepSt.reset with regen := regen, record := { StepRec.reset with outcome := outcome } } }

theorem witness_update : stackRuns (stepAt 2 1 false) 0 = true ∧ inOptimizer (stepAt 2 1 false) = true
    ∧ (stepAt 2 1 false).frame.lockUp = false ∧ (stepAt 2 1 false).frame.formeIdx = (stepShape (stepAt 2 1 false)).opt
    ∧ optEntry (stepAt 2 1 false) 0 = some opt0 ∧ (stepAt 2 1 false).step.regen = false
    ∧ (stepAt 2 1 false).step.record.outcome = 1 := by decide +kernel
theorem witness_update_skipped : inOptimizer (stepAt 2 2 false) = true ∧ (stepAt 2 2 false).step.record.outcome = 2
    ∧ inOptimizer (stepAt 2 0 true) = true ∧ (stepAt 2 0 true).step.regen = true := by decide +kernel
theorem witness_update_undecided : (stepAt 2 0 false).step.regen = false ∧ (stepAt 2 0 false).step.record.outcome ≠ 1
    ∧ (stepAt 2 0 false).step.record.outcome ≠ 2 := by decide +kernel
theorem witness_update_later : ∃ s, inOptimizer s = true ∧ s.step.regen = false ∧ s.frame.formeIdx ≠ (stepShape s).opt
    ∧ (optEntry s 0).isSome = true ∧ optEntry s 1 = none ∧ inOptimizer (stepAt 1 1 false) = false :=
  ⟨{ stepAt 3 1 false with image := { ImageSt.reset with img := some { imageOf [] with
      opt := [opt0], hdr := { (imageOf []).hdr with opt := 2 } } } }, by decide +kernel⟩
theorem witness_decision_not : inDecision (stepAt 2 0 false) = false ∧ (locked (stepAt 1 0 false)).frame.lockUp = true := by decide +kernel
theorem witness_decision : coreRuns (stepAt 1 0 false) = true ∧ inDecision (stepAt 1 0 false) = true ∧ (stepAt 1 0 false).frame.lockUp = false
    ∧ (stepAt 1 0 false).fabric.stalled = [] ∧ allContribute (stepAt 1 0 false) [] = true ∧ decisionRuns (stepAt 1 0 false) = true := by
  decide +kernel
theorem witness_decision_applies : (ownShare (stepAt 1 0 false) { imageOf [] with opt := [opt0] } none).vote = false
    ∧ f32Finite (ownShare (stepAt 1 0 false) { imageOf [] with opt := [opt0] } none).norm.round = true := by decide +kernel
theorem witness_decision_votes : ∃ s, inDecision s = true ∧ (ownShare s (imageOf []) none).vote = true :=
  ⟨{ stepAt 1 0 false with step := { (stepAt 1 0 false).step with masterPoison := true } }, by decide +kernel⟩

/-! ### The Clasp fabric -/

/-- A packet header from chip 9 to this chip for frame 0. -/
def hdr (e : Endpoint) (fmt : Nat) : PktHdr where
  snapshot := false
  rounded := false
  last := true
  dst := 7
  src := 9
  flow := 0
  endpoint := e
  frame := 0
  tensor := 0
  group := 0xFFFF
  fmt := fmt
  op := 0
  hops := 0

/-- Pages of a class with their carried copies and delta pages, and a link. -/
def inbox (cls : Nat) : State :=
  let s := linked (pages cls up)
  { s with hbm := { s.hbm with carPages := [(0, 40), (1, 41)], deltaPages := (List.range 8).map (fun k => (2 * k + 1, 50 + k)) } }

theorem witness_writePacket : claspUp (claspOf 3 (inbox 0)) = true ∧ forMe (hdr (.hbm 65472) 5) (inbox 0) = true
    ∧ (hdr (.hbm 65472) 5).frame = frameNo (inbox 0) ∧ payloadOk (List.replicate 64 1) = true ∧ 65472 % 65536 + 64 ≤ 65536
    ∧ pageClass (inbox 0) (65472 / 65536) = some 0 ∧ classPrivate 0 = false
    ∧ (SMap.get? (inbox 0).hbm.carPages (65472 / 65536)).isSome = true := by decide +kernel
theorem witness_writePacket_case : forMe (hdr (.caseMem 0 64) 5) (inbox 0) = true ∧ caseOpen (inbox 0) 0 64 64 = true
    ∧ shadowRoom (inbox 0) (redirect (inbox 0) 0) 6 = true := by decide +kernel
theorem witness_writePacket_closed : caseOpen (inbox 0) 8 64 64 = false ∧ caseOpen (inbox 0) 0 (2 ^ 23 - 64) 65 = false
    ∧ caseOpen (inbox 0) 0 (2 ^ 23 - 64) 64 = true ∧ epRuns (inbox 0) (.caseMem 8 64) = true ∧ epRuns (inbox 0) (.caseMem 0 64) = true
    ∧ (hdr (.caseMem 0 64) 5).frame = frameNo (inbox 0) ∧ payloadOk (List.replicate 64 1) = true
    ∧ forMe (hdr (.caseMem 8 64) 5) (inbox 0) = true := by decide +kernel
theorem witness_packet_live : portLive 3 (inbox 0) = true ∧ portLive 3 (inbox 3) = true ∧ portLive 3 (linked up) = true
    ∧ epRuns (inbox 0) (.hbm 65472) = true ∧ epRuns (inbox 3) (.hbm 0) = true := by decide +kernel
theorem witness_packet_still : claspUp (claspOf 3 (linked stillRegion)) = true ∧ portLive 3 (linked stillRegion) = false := by decide +kernel
theorem witness_packet_down : claspUp (claspOf 5 (inbox 0)) = false := by decide +kernel
theorem witness_packet_private : pageClass (inbox 4) (65472 / 65536) = some 4 ∧ classPrivate 4 = true
    ∧ pageClass (inbox 0) (32 * 65536 / 65536) = none ∧ payloadOk (List.replicate 64 1) = true := by decide +kernel
theorem witness_packet_elsewhere : forMe { hdr (.hbm 0) 5 with dst := 8 } (inbox 0) = false
    ∧ { hdr (.hbm 0) 5 with frame := 1 }.frame ≠ frameNo (inbox 0)
    ∧ pickPort (inbox 0) (routeMask (inbox 0) 8) 9 8 0 = none ∧ (hdr (.hbm 0) 5).hops ≤ 1 := by decide +kernel

/-- A chip with a route to chip 8 through ports 3 and 4, of which 3 is up. -/
def relay (ports : List Nat) : State :=
  let s := inbox 0
  { s with fabric := { s.fabric with routes := [(8, 24)], usable := ports } }

theorem witness_packet_on : pickPort (relay [3]) (routeMask (relay [3]) 8) 9 8 0 = some 3 ∧ portLive 3 (relay [3]) = true
    ∧ claspUp (claspOf 3 (relay [3])) = true ∧ pickPort (relay [4]) (routeMask (relay [4]) 8) 9 8 0 = some 4
    ∧ claspUp (claspOf 4 (relay [4])) = false ∧ 1 < { hdr (.hbm 0) 5 with dst := 8, hops := 2 }.hops
    ∧ forMe { hdr (.hbm 0) 5 with dst := 8, hops := 2 } (relay [3]) = false := by decide +kernel
theorem witness_packet_at_once : let s := linked (relay [4])
    let t : State := { s with fabric := { s.fabric with ports := s.fabric.ports ++ [(4, { Clasp.reset with state := 2, lanes := 0xFF, credits := 2048 })] } }
    claspUp (claspOf 4 t) = true ∧ portLive 4 t = true ∧ (4 : Nat) ≠ 3 ∧ (claspOf 4 t).ctl = [] ∧ (claspOf 4 t).queue = [] ∧ packetFlits 64 ≤ (claspOf 4 t).credits
    ∧ (claspOf 4 t).replay.length + packetFlits 64 ≤ 2048 := by decide +kernel
theorem witness_reducePacket : fmtLegal (hdr (.hbm 0) 0).fmt = true ∧ payloadOk (List.replicate 576 1) = true
    ∧ 576 / blockBytes 0 * blockBytes 0 = 576
    ∧ ∀ k ∈ pagesOf 65536 0 (576 / blockBytes 0 * longTileBytes),
        pageClass (inbox 3) k = some 3 ∧ (SMap.get? (inbox 3).hbm.deltaPages (2 * k + 1)).isSome = true := by decide +kernel
theorem witness_longPartial : (List.replicate longTileBytes (0 : Byte)).length = longTileBytes ∧ (hdr (.hbm 0) 0).rounded = false
    ∧ ∀ k ∈ pagesOf 65536 0 longTileBytes,
        pageClass (inbox 3) k = some 3 ∧ (SMap.get? (inbox 3).hbm.deltaPages (2 * k + 1)).isSome = true := by decide +kernel

theorem witness_longPartial_rounded : (List.replicate roundedTileBytes (0 : Byte)).length = roundedTileBytes
    ∧ { hdr (.hbm 0) 0 with rounded := true }.rounded = true ∧ (List.replicate lanePartialBytes (0 : Byte)).length = lanePartialBytes := by decide +kernel
theorem witness_reducePacket_page : (∀ k ∈ pagesOf 65536 0 (576 / blockBytes 0 * longTileBytes), pageClass (inbox 0) k ≠ none)
    ∧ (∃ k ∈ pagesOf 65536 0 (576 / blockBytes 0 * longTileBytes), pageClass (inbox 0) k ≠ some 3)
    ∧ (∃ k ∈ pagesOf 65536 (32 * 65536) (576 / blockBytes 0 * longTileBytes), pageClass (inbox 3) k = none)
    ∧ (∃ k ∈ pagesOf 65536 (32 * 65536) longTileBytes, pageClass (inbox 3) k = none)
    ∧ epRuns (inbox 3) (.hbm (32 * 65536)) = true ∧ forMe (hdr (.hbm (32 * 65536)) 0) (inbox 3) = true := by decide +kernel
theorem witness_longPartial_case : forMe (hdr (.caseMem 0 64) 0) (inbox 3) = true ∧ epRuns (inbox 3) (.caseMem 0 64) = true
    ∧ caseOpen (inbox 3) 0 64 longTileBytes = true ∧ caseOpen (inbox 3) 8 64 longTileBytes = false
    ∧ epRuns (inbox 3) (.caseMem 8 64) = true ∧ shadowRoom (inbox 3) (redirect (inbox 3) 0) 6 = true := by decide +kernel
theorem witness_longPartial_bytes : pageClass (inbox 0) (0 / 65536) = some 0 ∧ 0 ≠ 3 ∧ classPrivate 0 = false
    ∧ 0 % 65536 + lanePartialBytes ≤ 65536 ∧ (SMap.get? (inbox 0).hbm.carPages (0 / 65536)).isSome = true
    ∧ ¬ (1601 = longTileBytes ∨ 1601 = roundedTileBytes ∨ 1601 = lanePartialBytes) := by decide +kernel
theorem witness_reducePacket_bad : payloadOk [0] = false ∧ fmtLegal 7 = false ∧ 64 / blockBytes 0 * blockBytes 0 ≠ 64 := by decide +kernel

/-- A generation of chip 9. -/
def gen9 : GenHdr where
  identity := 9
  generation := 4
  bytes := 0
  tables := 0
  complete := true
  exposed := false
  damaged := false
  failed := false
  cut := 0
  applied := 0
  attempted := 0
  latest := 4

/-- A chip that holds that generation in slot 0. -/
def holder9 : State := linked { inState .loaded with
  image := { ImageSt.reset with img := some (imageOf []) }
  snap := { SnapSt.reset with held0 := some gen9 } }

theorem witness_snapshotPacket : claspUp (claspOf 3 holder9) = true ∧ forMe (hdr (.hbm 64) 5) holder9 = true
    ∧ (hdr (.hbm 64) 5).frame = frameNo holder9 ∧ payloadOk (List.replicate 64 0) = true ∧ restoredFrom holder9 9 = false
    ∧ epRuns holder9 (transferPlace holder9 (hdr (.hbm 64) 5) 64 64) = true ∧ portLive 3 holder9 = true ∧ (hdr (.hbm 64) 5).served = false
    ∧ slotOfId holder9 9 = some 0
    ∧ slotBase holder9 0 = some (0, 0) ∧ 64 + 64 ≤ dataOff + 0 := by decide +kernel
theorem witness_snapshotPacket_bind : (readHdr (gen9.image)).bind (fun g => bindSlot holder9 9 g.bytes) = some 0
    ∧ (gen9.image).length = 64 ∧ payloadOk (gen9.image) = true ∧ slotOfId holder9 8 = none ∧ payloadOk [0] = false := by
  decide +kernel
theorem witness_snapshotPacket_restored : ∃ s, let h := { hdr (.hbm 64) 5 with served := true }
    claspUp (claspOf 3 s) = true ∧ portLive 3 s = true ∧ restoredFrom s 9 = true ∧ forMe h s = true
    ∧ h.frame = frameNo s ∧ epRuns s (transferPlace s h 64 64) = true ∧ epRuns holder9 (transferPlace holder9 h 64 64) = true :=
  ⟨linked { inState .restoring with snap := { SnapSt.reset with
      restore := some { source := 9, identity := 7, previous := false, map := [], proof := false, got := [] } } }, by decide +kernel⟩
theorem witness_packet_waits : ∃ s, claspUp (claspOf 3 s) = true ∧ forMe (hdr (.hbm 65472) 5) s = true
    ∧ (hdr (.hbm 65472) 5).frame = frameNo s ∧ epRuns s (.hbm 65472) = false :=
  ⟨{ inbox 0 with hbm := { (inbox 0).hbm with training := [0] } }, by decide +kernel⟩
theorem witness_hold_again : ∃ s, claspUp (claspOf 3 s) = true ∧ s.frame.forwarded.contains { origin := 9, frame := 0, late := false } = true :=
  ⟨linked { up with frame := { up.frame with forwarded := [{ origin := 9, frame := 0, late := false }] } }, by decide +kernel⟩
theorem witness_hold_new : (linked up).frame.forwarded.contains { origin := 9, frame := 0, late := false } = false
    ∧ takesPart (linked up) = true ∧ targetAhead { origin := 9, frame := 0, late := false } (linked up) = true
    ∧ (linked up).frame.known.contains { origin := 9, frame := 0, late := false } = false ∧ 62 + 1 < 64 ∧ 64 ≤ 63 + 1
    ∧ claspUp (claspOf 3 (linked up)) = true ∧ portLive 3 (linked up) = true ∧ coreRuns (linked up) = true := by decide +kernel
theorem witness_hold_sent : 3 ∈ (linked up).fabric.usable ∧ (3 : Nat) ≠ 4 ∧ (claspOf 3 (linked up)).ctl = [] ∧ (claspOf 3 (linked up)).replay.length < 2048 := by
  decide +kernel

/-- A linked chip that has gone past tick 1, and knows a tick that it withheld. -/
def past (w : Option W64) (x : Bool) : State := linked { up with
  tick := { up.tick with domain := 2, aligned := x }
  frame := { up.frame with withheldAt := w } }

theorem witness_hold_late : takesPart (past none true) = true ∧ targetAhead { origin := 9, frame := 0, late := false } (past none true) = false
    ∧ (past none true).frame.withheldAt ≠ some (holdTarget { origin := 9, frame := 0, late := false })
    ∧ holdVoid (past none true) { origin := 9, frame := 0, late := false } = false
    ∧ (past none true).frame.forwarded.contains { origin := 9, frame := 0, late := false } = false
    ∧ portLive 3 (past none true) = true := by decide +kernel
theorem witness_hold_late_stop : ∃ s, takesPart s = true ∧ coreRuns s = true ∧ s.dev.state = .snapshotting
    ∧ targetAhead { origin := 9, frame := 0, late := false } s = false ∧ s.frame.withheldAt = none ∧ claspUp (claspOf 3 s) = true
    ∧ portLive 3 s = true ∧ holdVoid s { origin := 9, frame := 0, late := false } = false :=
  ⟨{ past none true with dev := { up.dev with state := .snapshotting, left := some .running } }, by decide +kernel⟩
theorem witness_hold_forwards : takesPart (past none false) = false ∧ coreRuns (linked (inState .failed)) = false
    ∧ (past (some 1) true).frame.withheldAt = some (holdTarget { origin := 9, frame := 0, late := false })
    ∧ holdVoid (past (some 1) true) { origin := 9, frame := 0, late := true } = true
    ∧ targetAhead { origin := 9, frame := 0, late := true } (past (some 1) true) = false := by decide +kernel

/-- A group of two members with a timeout of 16 ticks. -/
def pair : Group where
  index := 5
  algorithm := 0
  partials := 0
  fanout := 0
  step := true
  timeout := 16
  members := [7, 9]
  schedule := []

theorem witness_groupTimeout : ∃ s, coreRuns s = true ∧ groupAt s 5 = some pair ∧ pair.index = 5
    ∧ SMap.get? s.fabric.waits 5 = some { since := 0, missing := [9], unacked := [], cells := [] } ∧ pair.timeout ≤ (s.tick.count - 0).toNat
    ∧ s.dev.state = .running :=
  ⟨{ up with tick := { up.tick with count := 16 }
             fabric := { up.fabric with groups := [pair], waits := [(5, { since := 0, missing := [9], unacked := [], cells := [] })] } }, by decide +kernel⟩
theorem witness_groupTimeout_not : ∃ s, coreRuns s = true ∧ groupAt s 5 = some pair ∧ SMap.get? s.fabric.waits 5 = some { since := 0, missing := [9], unacked := [], cells := [] }
    ∧ (s.tick.count - 0).toNat < pair.timeout ∧ groupAt s 6 = none ∧ SMap.get? s.fabric.waits 6 = none ∧ (inState .loaded).dev.state ≠ .held :=
  ⟨{ up with tick := { up.tick with count := 15 }
             fabric := { up.fabric with groups := [pair], waits := [(5, { since := 0, missing := [9], unacked := [], cells := [] })] } }, by decide +kernel⟩
theorem witness_delivery_on : pickPort (relay [3]) (routeMask (relay [3]) 8) 9 8 0 = some 3 ∧ portLive 3 (relay [3]) = true
    ∧ pickPort (relay [4]) (routeMask (relay [4]) 8) 9 8 0 = some 4 ∧ claspUp (claspOf 4 (relay [4])) = false ∧ 8 ≠ (relay [3]).dev.fabric
    ∧ claspUp (claspOf 3 (relay [3])) = true ∧ pickPort (inbox 0) (routeMask (inbox 0) 8) 9 8 0 = none ∧ 1 ≠ frameNo (relay [3])
    ∧ claspUp (claspOf 5 up) = false := by decide +kernel
theorem witness_credit_waits : ∃ s, claspUp (claspOf 3 s) = true ∧ (claspOf 3 s).queue ≠ [] ∧ (claspOf 3 s).credits = 0 :=
  ⟨{ up with fabric := { up.fabric with ports := [(3, { Clasp.reset with state := 2, credits := 0, queue := [{ msg := none, parts := [[]] }] })] } },
    by decide +kernel⟩
theorem witness_credit : claspUp (claspOf 3 (linked up)) = true ∧ (linked up).dev.fabric ≠ 0xFFFF ∧ frameNo (linked up) = 0
    ∧ 8 ≠ (linked up).dev.fabric := by decide +kernel

/-- A data flit numbered 0, with its CRC. -/
def flit : List Byte :=
  let b := [0, 0, 0xFF, 0xFF, 1] ++ List.replicate 247 0
  b ++ leBytes 4 (crc32 b).toNat

theorem witness_flit : claspUp (claspOf 3 (linked up)) = true ∧ flitCrcOk flit = true ∧ bitOf (fieldN flit 4 1) 2 = false
    ∧ fieldN flit 4 1 % 4 ≠ 0 ∧ fieldN flit 0 2 = (claspOf 3 (linked up)).rxSeq.toNat := by decide +kernel
/-- A codeword with three symbols corrected on lane 7, and one that is uncorrectable. -/
def codeword (bad : Bool) : FecWord := { bad := bad, symbols := [0, 0, 0, 0, 0, 0, 0, 3] }

theorem witness_flit_fec : (codeword false).bad = false ∧ (codeword true).bad = true ∧ (∃ k ∈ (codeword false).symbols, k ≠ 0)
    ∧ (codeword false).symbols.getD 7 0 = 3 := by decide +kernel
theorem witness_flit_bad : flitCrcOk (List.replicate 256 0) = false := by decide +kernel

/-- A flit of a kind: 2 with the nak bit, and 0, an idle one. -/
def flitOf (kind : Byte) : List Byte :=
  let b := [0, 0, 0xFF, 0xFF, kind] ++ List.replicate 247 0
  b ++ leBytes 4 (crc32 b).toNat

theorem witness_flit_nak : flitCrcOk (flitOf 6) = true ∧ bitOf (fieldN (flitOf 6) 4 1) 2 = true ∧ fieldN (flitOf 6) 4 1 % 4 = 2 := by decide +kernel

/-- A linked chip with a flit in the replay buffer and some replays behind it. -/
def replays (n : Nat) : State := { linked up with fabric := { (linked up).fabric with
  ports := [(3, { Clasp.reset with state := 2, lanes := 0xFF, replay := [{ seq := 0, kind := 2, payload := [] }], replays := n })] } }

theorem witness_flit_replays : let x := fun n => countEvent .chip 0 0x13 (onClasp 3 (fun c => { c with retries := hold32 (c.retries + 1) }) (replays n))
    claspUp (claspOf 3 (x 15)) = true ∧ (claspOf 3 (x 15)).replay ≠ [] ∧ (claspOf 3 (x 15)).replays < 16 ∧ 16 ≤ (claspOf 3 (x 16)).replays := by
  decide +kernel
theorem witness_flit_idle : flitCrcOk (flitOf 0) = true ∧ bitOf (fieldN (flitOf 0) 4 1) 2 = false ∧ fieldN (flitOf 0) 4 1 % 4 = 0 := by decide +kernel

/-- The chip with one port's link. -/
def link (c : Clasp) : State := { up with fabric := { up.fabric with ports := [(19, c)] } }

theorem witness_linkRetry : ∃ s, (claspOf 19 s).enabled = true ∧ (claspOf 19 s).state = 4 ∧ (claspOf 19 s).byItself = true
    ∧ 0 < (claspOf 19 s).retriesLeft := ⟨link { Clasp.reset with byItself := true }, by decide +kernel⟩

/-- What a training finds. -/
def trained (locked : Bool) (lanes : Byte) (ns : Nat) : TrainReport where
  locked := locked
  lanes := lanes
  neighbour := 9
  nport := 0
  naligned := true
  nuid := 1
  delayNs := ns
  margin := 9

theorem witness_training : (claspOf 19 (link { Clasp.reset with state := 1 })).state = 1
    ∧ (trained true 0xF0 1000).locked = true ∧ 4 ≤ laneCount (trained true 0xF0 1000).lanes ∧ (trained true 0xF0 1000).delayNs ≤ 1000
    ∧ laneCount (trained true 0xFF 1).lanes = 8 := by decide +kernel
theorem witness_training_fails : 1000 < (trained true 0xF0 1001).delayNs ∧ (trained false 0xFF 1).locked = false
    ∧ laneCount (trained true 0x07 1).lanes < 4 := by decide +kernel
theorem witness_links_none : claspUp (claspOf 19 up) = false ∧ (claspOf 19 up).state ≠ 1
    ∧ (claspOf 19 (link { Clasp.reset with enabled := false })).enabled = false ∧ laneActive 19 0 up = false := by decide +kernel
theorem witness_laneLoss_down : ∃ s, laneActive 3 7 s = true ∧ laneCount ((claspOf 3 s).lanes &&& ~~~(BitVec.ofNat 8 (p2 7))) = 3 :=
  ⟨{ up with fabric := { up.fabric with ports := [(3, { Clasp.reset with state := 3, lanes := 0xF0 })] } }, by decide +kernel⟩
theorem witness_laneLoss : laneActive 3 0 (linked up) = true
    ∧ 4 ≤ laneCount ((claspOf 3 (linked up)).lanes &&& ~~~(BitVec.ofNat 8 (p2 0))) := by decide +kernel

/-! ### Spares and fault sources -/

theorem witness_regionServes : regionServes up 0 = true ∧ regionServes up 3 = true
    ∧ regionServes { up with clocks := { up.clocks with stopped := [3] } } 3 = false
    ∧ regionServes { up with hbm := { up.hbm with training := [1] } } 0 = false := by decide +kernel
theorem witness_spareLoad : ∃ s, coreRuns s = true ∧ regionServes s (cellRegion 8) = true ∧ s.image.spareLoads.contains 8 = true :=
  ⟨{ up with image := { up.image with spareLoads := [8] } }, by decide +kernel⟩
theorem witness_spareLoad_mirror : ∃ s, Memory.wf s.caseMem.mem = true ∧ 8 * 2048 ∈ s.cells.carry ∧ mirrorAt s (8 * 2048) = some 65536 :=
  ⟨{ up with cells := { up.cells with carry := [8 * 2048], system := [(8, 1)] } }, by decide +kernel⟩

/-- A chip that re-imposes region 0. -/
def reimposing (cont : List ContSet) : State := { up with
  dev := { up.dev with reimposing := true }
  image := { ImageSt.reset with img := some { imageOf [] with cont := cont }, orphans := [0] }
  tick := { up.tick with count := 25000 } }

/-- A set without contents or formes. -/
def set0 : ContSet := { region := 0, cases := [], formes := [] }

/-- An image that passes every check from 0x0301 on, with that set. -/
def fitting : Image := { imageOf [] with
  hdr := { tickRate := 0, allowance := 0, maxOffset := 0, fit := [], fwd := 1, bwd := 1, opt := 1, exch := 1 }
  plan := [{ tensor := 0, role := 0x06, cls := 3, peer := 0, tileFirst := 0, tileCount := 1, place := .hbm 0 }]
  formes := []
  groups := [5]
  energy := [0, 0, 0, 0, 0]
  snap := { own := 0, bytes0 := 65536, bytes1 := 65536, where0 := 2 ^ 30, where1 := 2 ^ 31 }
  sparePlan := List.replicate 256 0xFF
  cont := [set0] }

/-- The same chip with that image. -/
def fits : State := { reimposing [] with
  image := { (reimposing []).image with img := some fitting }
  fabric := { up.fabric with groups := [pair] } }

theorem witness_reimposition_fits : coreRuns fits = true ∧ regionServes fits 0 = true ∧ fits.image.img = some fitting ∧ fitting.cont.find? (fun c => c.region = 0) = some set0
    ∧ fits.image.orphans.any (fun k => cellRegion k = 0) = true ∧ fits.image.installed.contains 0 = false
    ∧ setSlots set0 ≤ (activeCells fits 0).length
    ∧ firstFailure 0x0301 (onSet { img := fitting, bad := [], s := { fits with hbm := { fits.hbm with map := [], taken := [] } }, t := fits,
                                   full := fits.image.installed } set0 (activeCells fits 0)) = none := by decide +kernel
theorem witness_reimposition_used : ∃ s : State, s.image.installed.contains 0 = true ∧ s.dev.reimposing = true :=
  ⟨{ fits with image := { fits.image with installed := [0] } }, by decide +kernel⟩

/-- The placements of stack 0 move to stack 1. -/
def moving (s : State) : State := { s with
  dev := { s.dev with reimposing := true }
  image := { s.image with memReimp := [0] } }

theorem witness_memory : coreRuns (moving (pages 0 up)) = true ∧ regionServes (moving (pages 0 up)) (0 / 2) = true ∧ (moving (pages 0 up)).image.memReimp.contains 0 = true
    ∧ (pages 0 up).hbm.map.filter (pageMoves 0) ≠ [] ∧ (moving up).hbm.map.filter (pageMoves 0) = []
    ∧ (moving up).hbm.retiring.any (fun p => p.1 = 0) = false ∧ poolShort (moving up) 0 = false ∧ poolShort (moving up) 1 = false := by
  decide +kernel
theorem witness_memory_waits : ∃ s : State, s.hbm.map.filter (pageMoves 0) = [] ∧ s.hbm.retiring.any (fun p => p.1 = 0) = true
    ∧ s.image.memReimp.contains 0 = true :=
  ⟨moving { up with hbm := { up.hbm with retiring := [(0, 31)] } }, by decide +kernel⟩
theorem witness_memory_short : ∃ s : State, s.hbm.map.filter (pageMoves 0) ≠ [] ∧ freePages s 1 < (s.hbm.map.filter (pageMoves 0)).length + 4096
    ∧ s.image.memReimp.contains 0 = true :=
  ⟨moving { pages 0 up with hbm := { (pages 0 up).hbm with retired := (List.range 32).map (fun k => (1, k)) } }, by decide +kernel⟩
theorem witness_reimposition_none : up.dev.reimposing = false ∧ up.image.spareLoads.contains 8 = false
    ∧ (moving up).image.orphans.any (fun k => cellRegion k = 0) = false ∧ fits.image.memReimp.contains 0 = false
    ∧ ((moving up).tick.count - (moving up).image.decidedAt).toNat < reimpLimit (moving up) := by decide +kernel
theorem witness_reimposition_missing : coreRuns (reimposing []) = true ∧ regionServes (reimposing []) 0 = true ∧ ([] : List ContSet).find? (fun c => c.region = 0) = none
    ∧ reimpLimit (reimposing []) ≤ ((reimposing []).tick.count - (reimposing []).image.decidedAt).toNat := by decide +kernel
theorem witness_reimposition_done : reimpWork up = false ∧ reimpWork fits = true := by decide +kernel
theorem witness_faultEvent : collects .cell 0 5 up = true ∧ collects .chip 0 0 up = true ∧ collects .cell 8 99 up = false
    ∧ collectorsRun up = true := by decide +kernel

/-- A chip in tick 100,000 with one source's state. -/
def counted (f : FSrc) : State := { up with
  tick := { up.tick with count := 100000 }
  faults := { src := [(faultKey .cell 0 0, f)], forcedNext := [], waiting := [] } }

theorem witness_faultWindow : ∃ f, (faultSrc .cell 0 0 (counted f)).pending = none ∧ (faultSrc .cell 0 0 (counted f)).count ≠ 0
    ∧ windowCount (faultSrc .cell 0 0 (counted f)) (counted f).tick.count = 0 ∧ collectorsRun (counted f) = true :=
  ⟨{ FSrc.fresh { n := 3, w := 5000, action := 0 } with count := 2 }, by decide +kernel⟩
theorem witness_faultWindow_config : ∃ f, (faultSrc .cell 0 0 (counted f)).pending = some ({ n := 1, w := 1000, action := 0 }, 7)
    ∧ (counted f).tick.count.toNat % 1000 = 0 ∧ (counted f).tick.count ≠ 7 :=
  ⟨{ FSrc.fresh { n := 3, w := 5000, action := 0 } with pending := some ({ n := 1, w := 1000, action := 0 }, 7) }, by decide +kernel⟩

theorem witness_faultEvent_old : ∃ f o, collects .cell 0 0 (counted f) = true ∧ (faultSrc .cell 0 0 (counted f)).old = some o
    ∧ o.ended = (counted f).tick.count ∧ o.cleared = true :=
  ⟨{ FSrc.fresh { n := 3, w := 5000, action := 0 } with
      old := some { ended := 100000, cfg := { n := 3, w := 1000, action := 0 }, count := 2, real := true, cleared := true } }, _, by decide +kernel, rfl, by decide +kernel⟩
theorem witness_faultEvent_old_stands : ∃ f o, (faultSrc .cell 0 0 (counted f)).old = some o ∧ o.ended = (counted f).tick.count
    ∧ o.cleared = false ∧ Nat.min (o.count + 1) 0xFFFF = o.cfg.n :=
  ⟨{ FSrc.fresh { n := 3, w := 1000, action := 0 } with
      old := some { ended := 100000, cfg := { n := 3, w := 1000, action := 0 }, count := 2, real := true, cleared := false } }, _, rfl, by decide +kernel⟩
theorem witness_faultWindow_fenced : cellState 0 up ≠ .fenced ∧ Level.chip ≠ Level.cell := by decide +kernel
theorem witness_faultWindow_none : ∃ f, (faultSrc .cell 0 0 (counted f)).pending = none ∧ (faultSrc .cell 0 0 (counted f)).count = 0 :=
  ⟨FSrc.fresh { n := 3, w := 5000, action := 0 }, by decide +kernel⟩

/-! ### Power, heat, clocks -/

/-- The chip with its power state. -/
def powered (p : PowerSt) : State := { up with power := p }

/-- The part without its I/O rail. -/
def dark : State := { up with pins := { up.pins with ioUp := false } }

theorem witness_droop : blockRuns up 31 = true ∧ blockRuns (inState .failed) 31 = true
    ∧ SMap.get? (powered { up.power with droop := [(31, { q := 4, trip := 4 })] }).power.droop 31 = some { q := 4, trip := 4 }
    ∧ blockRuns { up with clocks := { up.clocks with stopped := [3] } } 31 = false ∧ SMap.get? up.power.droop 31 = none := by decide +kernel

/-- Nothing issued and nothing moved. -/
def idle : Activity :=
  { site := [0, 0, 0, 0], banks := 0, acc := 0, vector := 0, router := 0, bezel := 0, hbm := 0, clasp := 0 }

/-- A sample with nothing read, in a step that writes the ceiling. -/
def still : CtlSample := { readings := [], act := idle, issued := 64, could := 64, written := true, avsFailed := [] }

theorem witness_control : coreRuns up = true ∧ hwRuns up = true ∧ still.written = true ∧ heldDown (after (.controlStep still) up) = false
    ∧ up.power.again = false ∧ (powered { up.power with limit := true }).power.limit = true := by decide +kernel
theorem witness_control_unwritten : hwRuns (inState .failed) = true ∧ coreRuns (inState .failed) = false
    ∧ { still with written := false }.written = false ∧ (powered { up.power with emergency := true }).power.emergency = true
    ∧ hwRuns dark = false := by decide +kernel
theorem witness_point : decidePoint up (nextPhase up) = decidePoint up 5 ∧ heldDown (powered { up.power with emergency := true }) = true := by
  decide +kernel
theorem witness_point_raise : ∃ s, coreRuns s = true ∧ s.power.point < decidePoint s (nextPhase s) :=
  ⟨{ up with dev := { up.dev with state := .held }, env := { up.env with preferred := [3, 3, 3, 3, 3, 3] } }, by decide +kernel⟩
theorem witness_power_none : coreRuns stillCore = false ∧ SMap.get? up.power.droop 0 = none ∧ heldDown up = false ∧ up.power.again = false
    ∧ (powered { up.power with again := true }).power.again = true := by decide +kernel
theorem witness_absent : 16 ≤ (powered { up.power with ticksNoQ := 16 }).power.ticksNoQ ∧ up.power.ticksNoQ < 16
    ∧ 5 ≤ (powered { up.power with stepsNoQ := 5 }).power.stepsNoQ ∧ (powered { up.power with stepsNoQ := 5 }).power.ticksNoQ < 16
    ∧ up.power.stepsNoQ < 5 := by decide +kernel
theorem witness_emergencyEnd : ∃ s : State, s.power.emergency = true ∧ 250 ≤ s.power.quiet ∧ s.power.tjMax ≤ 1520 :=
  ⟨powered { up.power with emergency := true, quiet := 250, tjMax := 1520 }, by decide +kernel⟩
theorem witness_emergency_stays : up.power.emergency = false ∧ 249 < 250 ∧ 1520 < (powered { up.power with tjMax := 1521 }).power.tjMax := by
  decide +kernel
theorem witness_regulator : 1000 ≤ SMap.getD (powered { up.power with regFaults := [(2, 1000)] }).power.regFaults 2 0
    ∧ SMap.getD (powered { up.power with regFaults := [(2, 999)] }).power.regFaults 2 0 < 1000 := by decide +kernel
theorem witness_guard_slew : (powered { up.power with guardUs := 20, steps := 1 }).power.guardUs ≤ 20 * (powered { up.power with guardUs := 20, steps := 1 }).power.steps
    ∧ (powered { up.power with slewing := true }).power.slewing = true := by decide +kernel
theorem witness_divergence : ∃ s : State, s.power.fallback = false ∧ 500 ≤ s.power.divergeMs :=
  ⟨powered { up.power with divergeMs := 500 }, by decide +kernel⟩
theorem witness_divergence_end : ∃ s : State, s.power.fallback = true ∧ 10000 ≤ s.power.agreeMs :=
  ⟨powered { up.power with fallback := true, agreeMs := 10000 }, by decide +kernel⟩
theorem witness_divergence_not : up.power.fallback = false ∧ up.power.divergeMs < 500 ∧ up.power.agreeMs < 10000
    ∧ 20 * up.power.steps < (powered { up.power with guardUs := 21 }).power.guardUs ∧ up.power.slewing = false := by decide +kernel
theorem witness_sample : ∃ x : Telemetry, x.railsMw.length = 23 ∧ none ∈ x.railsMw ∧ 15 ∈ x.faulted ∧ 15 < 16 :=
  ⟨{ railsMw := none :: List.replicate 22 (some 5), faulted := [15], act := idle }, by decide +kernel⟩
theorem witness_average : ∃ s : State, 0 < s.power.winElapsed ∧ s.tick.count.toNat % s.power.winTicks = 0
    ∧ s.tick.count.toNat % windowTicks s.tick.rate (s.env.windowNext.getD s.env.windowMs) ≠ 0 ∧ s.power.winTicks ≠ 0 :=
  ⟨{ powered { up.power with winElapsed := 1, winTicks := 20000 } with
      tick := { up.tick with count := 20000 }, env := { up.env with windowNext := some 7000 } }, by decide +kernel⟩
theorem witness_windows_not : up.power.winElapsed = 0 ∧ up.power.steadyN = 0
    ∧ { up.tick with count := 1 }.count.toNat % rateHz up.tick.rate ≠ 0 := by decide +kernel
theorem witness_steady : ∃ s : State, 0 < s.power.steadyN ∧ s.tick.count.toNat % rateHz s.tick.rate = 0 :=
  ⟨{ powered { up.power with steadyN := 1 } with tick := { up.tick with count := 5000 } }, by decide +kernel⟩

/-- The chip with one sensor's state. -/
def sensed (x : Sensor) : State := powered { up.power with sensors := [(sensorKey 3 15 1, x)] }

theorem witness_sensorLost : ∃ s, sensorBad (sensorOf s (sensorKey 3 15 1)) = true ∧ (sensorOf s (sensorKey 3 15 1)).lost = false :=
  ⟨sensed { last := some 400, lost := false, silent := 5, good := 0 }, by decide +kernel⟩
theorem witness_sensorRestored : ∃ s, (sensorOf s (sensorKey 3 15 1)).lost = true ∧ 1000 ≤ (sensorOf s (sensorKey 3 15 1)).good :=
  ⟨sensed { last := some 400, lost := true, silent := 0, good := 1000 }, by decide +kernel⟩
theorem witness_sensor_not : sensorBad (sensorOf (sensed { last := some 400, lost := true, silent := 4, good := 999 }) (sensorKey 3 15 1)) = false
    ∧ SMap.getD up.power.disagree 63 0 < 51 := by decide +kernel
theorem witness_sensorApart : ∃ s : State, 51 ≤ SMap.getD s.power.disagree (16 * 3 + 15) 0 :=
  ⟨powered { up.power with disagree := [(63, 51)] }, by decide +kernel⟩
theorem witness_trip : up.pins.ioUp = true ∧ up.clocks.coreReset = false ∧ up.dev.state ≠ .thermalOff
    ∧ (inState .failed).dev.state ≠ .thermalOff ∧ stillCore.clocks.coreReset = true := by decide +kernel

theorem witness_dark : dark.pins.ioUp = false ∧ (∀ w ∈ up.hbm.bar2Waits, addrStack w.addr ≠ 0) := by decide +kernel
theorem witness_retrained : up.hbm.bar2Waits = [] ∧ up.hbm.pktWaits = [] ∧ 7 / 2 ∉ up.clocks.stopped ∧ coreRuns training0 = true
    ∧ 0 ∈ training0.hbm.training := by decide +kernel
theorem witness_pll : hwRuns up = true ∧ hwRuns (inState .failed) = true ∧ hwRuns dark = false ∧ (claspOf 19 up).enabled = true ∧ (claspOf 19 (link { Clasp.reset with enabled := false })).enabled = false ∧ up.pins.ioUp = true ∧ perstOf .a up = false ∧ perstOf .b up = false := by decide +kernel

/-! ### Resets and start-up -/

theorem witness_perst : up.pins.ioUp = true ∧ perstOf (otherPort .a) up = false
    ∧ perstOf (otherPort .a) { up with pins := { up.pins with perstB := true } } = true ∧ perstOf .a State.reset = true
    ∧ (getPPort .a State.reset).inReset = true := by decide +kernel
theorem witness_portEvents : perstOf .b up = false ∧ up.pins.ioUp = true ∧ (getPPort .b up).inReset = false := by decide +kernel
theorem witness_coreReset : ∃ s, s.dev.resetAt = some 199 ∧ coreRuns s = true ∧ 199 < s.tick.timeUs + frameUs s.tick.rate :=
  ⟨{ up with dev := { up.dev with resetAt := some 199 } }, by decide +kernel⟩
theorem witness_coreReset_not : ∃ s : State, s.dev.resetAt = some 200 ∧ s.tick.timeUs + frameUs s.tick.rate ≤ 200 ∧ up.dev.resetAt = none :=
  ⟨{ up with dev := { up.dev with resetAt := some 200 } }, by decide +kernel⟩

/-- The part with a PERST# released, still in core reset. -/
def starting : State := { State.reset with pins := { PinSt.reset with perstA := false } }

/-- Power good falls a third time before a start-up ends. -/
theorem witness_pwrgd_starting : starting.clocks.coreReset = true ∧ canStart starting = true ∧ starting.dev.attempts < 2
    ∧ ∃ s : State, canStart s = true ∧ s.clocks.coreReset = true ∧ s.dev.attempts = 2 :=
  ⟨by decide +kernel, by decide +kernel, by decide +kernel,
    { starting with dev := { starting.dev with attempts := 2 } }, by decide +kernel⟩
theorem witness_pwrgd_not : State.reset.clocks.coreReset = true ∧ canStart State.reset = false := by decide +kernel

/-- A start-up that meets nothing amiss, but for reads of banks. -/
def report (badBanks : List Nat) : StartReport where
  silentRegions := []
  failedPcs := []
  flashCorrected := 0
  badBanks := badBanks
  certReadable := true
  noSpareRows := []
  tornSlot := false
  tornImage := false
  burnFails := false
  cutFlip := false

/-- The bank that a start-up takes. -/
def chosen (s : State) (bad : List Nat) : Option Nat :=
  bootChoice (report bad) (deriveHallmark (onFlash bootRecord (onPins (fun p => { p with flReset := false }) (endReset s))))

theorem witness_startUp : canStart starting = true ∧ chosen starting [] = some 1 ∧ ((report []).cutFlip && starting.flash.swap) = false := by
  decide +kernel
theorem witness_startUp_fails : canStart starting = true ∧ chosen starting [0, 1] = none ∧ starting.dev.bootError = 0 := by decide +kernel

/-- A boot record in copy 0 that names a primary bank, slot B's state and a requested swap. -/
def recorded (primary slotB : Nat) (swap : Bool) : FlashSt :=
  { FlashSt.new with copy0 := some { sequence := 0, primary := primary, slotB := slotB, swap := swap } }

theorem witness_startUp_cut : ∃ s, canStart s = true ∧ ({ report [] with cutFlip := true }.cutFlip && s.flash.swap) = true :=
  ⟨{ starting with flash := recorded 0 2 true }, by decide +kernel⟩
theorem witness_startUp_not : canStart up = false ∧ coreRuns State.reset = false ∧ up.dev.state ≠ .booting
    ∧ 1360 < (powered { up.power with tjMax := 1361 }).power.tjMax := by decide +kernel
theorem witness_ready : ∃ s, coreRuns s = true ∧ s.dev.state = .booting ∧ s.dev.bootStage = 5 ∧ s.power.tjMax ≤ 1360 :=
  ⟨{ inState .booting with dev := { (inState .booting).dev with bootStage := 5 } }, by decide +kernel⟩

/-! ### Registers and BARs -/

/-- Port A with slot 31 in a state. -/
def slot31 (st : SlotState) : State := { up with portA := { port with slots := [(31, { Slot.reset with st := st })] } }

theorem witness_slots : decodes (getPPort .a up) = true ∧ (slotAt .a 31 up).st = .free ∧ (slotAt .a 31 (slot31 .done)).st = .done
    ∧ (slotAt .a 31 (slot31 .taken)).st = .taken ∧ (slotAt .a 31 (slot31 .accepted)).st = .accepted
    ∧ (slotAt .a 31 (slot31 .submitted)).st = .submitted := by decide +kernel
theorem witness_slots_not : decodes (getPPort .a State.reset) = false ∧ (slotAt .a 31 (slot31 .done)).st ≠ .free
    ∧ (2 : W32) ≠ 1 ∧ (2 : W32) ≠ 0 := by decide +kernel
theorem witness_ring_bad : bitsOf (0xF : W32).toNat 3 1 = 7 ∧ ∃ q : PortSt, q.ringBase.toNat % 4096 ≠ 0 ∧ q.ringEnable = true :=
  ⟨by decide +kernel, { port with ringBase := 64, ringEnable := true }, by decide +kernel⟩
theorem witness_ring : (getPPort .a up).ringEnable = false ∧ (getPPort .a up).ringBase.toNat % 4096 = 0 ∧ bitOf (0xD : W32).toNat 0 = true
    ∧ bitsOf (0xD : W32).toNat 3 1 ≠ 7 := by decide +kernel

/-- A due record. -/
def due : ComplRec :=
  { kind := 1, opcode := 1, tag := 0, status := 0, reason := 0, slot := 0, tick := 0, detail := 0 }

theorem witness_record_not : (getPPort .a up).waiting = [] ∧ (getPPort .a up).ringEnable = false ∧ dmaOpen (getPPort .a State.reset) = false
    ∧ ringFull { port with ringEnable := true, written := 64 } = true
    ∧ portServed .b { up with clocks := { up.clocks with lost := [2] } } = false := by decide +kernel
theorem witness_record : ∃ s, Memory.wf s.mbx.hostMem = true ∧ (getPPort .a s).waiting = [due] ∧ (getPPort .a s).ringEnable = true
    ∧ ringFull (getPPort .a s) = false ∧ dmaOpen (getPPort .a s) = true ∧ portServed .a s = true :=
  ⟨{ up with portA := { port with waiting := [due], ringEnable := true } }, by decide +kernel⟩
theorem witness_registers_slot : bar0Ok 0x208 2 = true ∧ bar0Ok 0x500 8 = true ∧ bar0Ok (0x1000 + 256 * 31 + 32 + 223) 1 = true
    ∧ slotOpen (slotAt .a 31 up) = true ∧ slotOpen (slotAt .a 31 (slot31 .done)) = true := by decide +kernel
theorem witness_registers : decodes (getPPort .a up) = true ∧ bar0Ok 0x20C 4 = true ∧ bar0Ok 0x514 4 = true ∧ bar0Ok 0xFFF8 8 = true
    ∧ bar0Ok 1 4 = false ∧ bar0Ok 65536 1 = false ∧ decodes (getPPort .a State.reset) = false := by decide +kernel
theorem witness_bar2 : decodes (getPPort .a (pages 0 up)) = true ∧ bar2Closed (pages 0 up) = false
    ∧ bar2Closed (inState .thermalOff) = true ∧ unitAnswers .a (pages 0 up) (addrStack (bar2Addr .a 0 (pages 0 up))) = true
    ∧ (pages 0 up).hbm.training.contains (addrStack (bar2Addr .a 0 (pages 0 up))) = false
    ∧ listedIn (pages 0 up) (bar2Addr .a 0 (pages 0 up)) 64 = [] ∧ upsetsIn (pages 0 up) (bar2Addr .a 0 (pages 0 up)) 64 [] = [] := by decide +kernel

/-- A word with three upset bytes, and the chip with stack 0 in training or with a word listed. -/
def upset3 : HbmUpset := { page := 0, word := 0, errors := 1 :: 2 :: 3 :: List.replicate 33 0 }
def hbmOf (training : List Nat) (poison : List (Nat × Nat)) : State := { pages 0 up with
  hbm := { (pages 0 up).hbm with training := training, poison := poison }
  own := { OwnSt.reset with holder := some .a } }

/-- A posted write of one byte. -/
def posted (unread : Bool) : Posted := { bytes := [1], unread := unread }

theorem witness_bar2_calm : (∀ w ∈ (hbmOf [0] []).hbm.bar2Waits, w.port ≠ .a) ∧ 0 < (posted false).bytes.length ∧ (posted false).unread = false
    ∧ (posted true).unread = true ∧ (bar2Addr .a 131071 up) % 65536 + (posted false).bytes.length ≤ 65536
    ∧ (bar2Addr .a 131071 up) % 65536 + 2 > 65536 := by decide +kernel
theorem witness_bar2_resync : ∃ s, (getPPort .a s).resyncReq = true ∧ unitAnswers .a s 0 = false ∧ decodes (getPPort .a s) = true
    ∧ bar2Closed s = false :=
  ⟨{ pages 0 up with portA := { port with resyncReq := true } }, by decide +kernel⟩
theorem witness_bar2_poisoned : listedIn (hbmOf [] [(0, 0)]) (bar2Addr .a 0 (hbmOf [] [(0, 0)])) 64 ≠ []
    ∧ upsetsIn (hbmOf [] []) (bar2Addr .a 0 (hbmOf [] [])) 64 [upset3] = [upset3] ∧ isBad upset3 = true := by decide +kernel
theorem witness_bar2_waits : (hbmOf [0] []).hbm.training.contains (addrStack (bar2Addr .a 0 (hbmOf [0] []))) = true
    ∧ unitAnswers .a (hbmOf [0] []) 0 = true ∧ (hbmOf [0] []).own.holder = some .a
    ∧ unitAnswers .a { up with clocks := { up.clocks with lost := [1] } } 2 = false := by decide +kernel
theorem witness_bar2_write : up.own.holder ≠ some .a ∧ ∃ s, s.own.holder = some .a ∧ bar2Closed s = false
    ∧ unitAnswers .a s (addrStack (bar2Addr .a 131008 s)) = true ∧ s.hbm.training.contains (addrStack (bar2Addr .a 131008 s)) = false
    ∧ decodes (getPPort .a s) = true
    ∧ bar2Addr .a 131008 s % 65536 + 64 ≤ 65536 ∧ pageClass s (bar2Addr .a 131008 s / 65536) = some 0 ∧ classPrivate 0 = false
    ∧ (SMap.get? s.hbm.carPages (bar2Addr .a 131008 s / 65536)).isSome = true :=
  ⟨by decide +kernel, { inbox 0 with own := { OwnSt.reset with holder := some .a } }, by decide +kernel⟩
theorem witness_bar2_write_none : pageClass (pages 4 up) (bar2Addr .a 0 (pages 4 up) / 65536) = some 4 ∧ classPrivate 4 = true
    ∧ pageClass up (bar2Addr .a 0 up / 65536) = none ∧ bar2Addr .a 65472 up % 65536 + 64 ≤ 65536 := by decide +kernel
theorem witness_bar4_debug : ∃ s, debugLife s = true ∧ decodes (getPPort .a s) = true ∧ 2 ^ 24 - 1 < 2 ^ 24 :=
  ⟨{ up with ident := { up.ident with lifecycle := 0xAAA } }, by decide +kernel⟩
theorem witness_bar4 : debugLife up = false ∧ decodes (getPPort .a State.reset) = false := by decide +kernel

/-! ### Identity -/

/-- A chip whose chain is readable and whose connection on port A has its algorithms. -/
def spdm : State := { up with ident := { up.ident with certOk := true, spdmA := { SpdmConn.reset with algsDone := true } } }

theorem witness_spdm : doeUp .a spdm = true ∧ responderDead spdm = false ∧ responderRuns spdm = true ∧ (connOf .a spdm).algsDone = true
    ∧ spdm.ident.certOk = true ∧ up.ident.certOk = false ∧ (0x85 : Byte).toNat ∉ [0x81, 0x82, 0x83, 0x84, 0xE0, 0xE1, 0xE3] := by
  decide +kernel

theorem witness_spdm_not : responderDead (inState .failed) = true ∧ responderRuns State.reset = false ∧ doeUp .a State.reset = false
    ∧ doeUp .a (inState .failed) = true ∧ (connOf .a up).algsDone = false ∧ (1 : Nat) ≠ 0 := by decide +kernel

/-! ### Mailbox commands -/

/-- 24 bytes that name binding 1, offset 0 and a length. -/
def range1 (n : Nat) : List Byte := leBytes 8 1 ++ leBytes 8 0 ++ leBytes 8 n

theorem witness_refused : mailboxRow .identify = some (0x01, noArgs) ∧ nextSlot up = none
    ∧ nextSlot (sub 1 [0] up) = some first ∧ (slotAt .a 0 (sub 1 [0] up)).opcode.toNat = 1
    ∧ refusalOf 1 (noArgs (cmdOf first (sub 1 [0] up)) (sub 1 [0] up)) (cmdOf first (sub 1 [0] up)) (sub 1 [0] up) = some stBadArgument
    ∧ (slotAt .a 0 (sub 2 [] up)).opcode.toNat ≠ 1 := by
  refine ⟨rfl, ?_⟩
  decide +kernel
theorem witness_checks : ∃ i, cmdInfo 0x53 = some i ∧ mayIssue 0x53 (cmdOf first (sub 0x53 [] up)) (sub 0x53 [] up) = true
    ∧ mayIssue 0x53 { (cmdOf first (sub 0x53 [] up)) with port := .b } (sub 0x53 [] up) = false
    ∧ up.dev.state ∉ i.states ∧ (inState .held).dev.state ∈ i.states := ⟨_, rfl, by decide +kernel⟩
theorem witness_unknown : nextSlot (sub 0x99 [] up) = some first
    ∧ (cmdInfo (slotAt .a 0 (sub 0x99 [] up)).opcode.toNat).isNone = true
    ∧ (cmdInfo (slotAt .a 0 (sub 0x01 [] up)).opcode.toNat).isSome = true := by decide +kernel
theorem witness_ownership : issued .identify (sub 0x01 [] up) first = true ∧ issued .status (sub 0x02 [] up) first = true
    ∧ issued .claimControl (sub 0x10 (leBytes 4 30000) up) first = true ∧ issued .renewLease (sub 0x11 [] up) first = true
    ∧ issued .releaseControl (sub 0x12 [] up) first = true ∧ issued .releaseControl (sub 0x12 [] (inState .held)) first = true
    ∧ issued .releaseControl (sub 0x12 [] (inState .loaded)) first = true
    ∧ issued .reset (sub 0x13 (leBytes 4 0x72000013) up) first = true := by decide +kernel
theorem witness_claim_other : ∃ s, issued .claimControl s first = true ∧ s.own.holder = some (otherPort first.port) :=
  ⟨{ sub 0x10 (leBytes 4 0) up with own := { OwnSt.reset with holder := some .b } }, by decide +kernel⟩
theorem witness_expiry : ∃ s : State, coreRuns s = true ∧ s.own.holder = some .a ∧ s.own.expiryUs < s.tick.timeUs + frameUs s.tick.rate :=
  ⟨{ up with own := { OwnSt.reset with holder := some .a, expiryUs := 199 } }, by decide +kernel⟩
theorem witness_expiry_none : up.own.holder = none
    ∧ up.tick.timeUs + frameUs up.tick.rate ≤ { OwnSt.reset with holder := some PPort.a, expiryUs := 200 }.expiryUs := by decide +kernel
theorem witness_settings : issued .setTime (sub 0x20 (leBytes 8 5) up) first = true
    ∧ issued .setEnvironment (sub 0x21 (leBytes 2 7 ++ leBytes 2 320 ++ leBytes 2 128 ++ leBytes 2 3 ++ leBytes 2 0 ++ leBytes 2 0) up) first = true
    ∧ issued .setPowerBudget (sub 0x22 (leBytes 2 400 ++ leBytes 2 1000 ++ leBytes 4 0) up) first = true
    ∧ issued .setOperatingPoints (sub 0x23 [0, 1, 2, 3, 0xFF, 0xFF, 0, 0] up) first = true
    ∧ issued .setFabricAddress (sub 0x30 (leBytes 8 0 ++ leBytes 8 12) (inState .ready)) first = true
    ∧ issued .setTickDomain (sub 0x34 [1, 19, 2, 0] (inState .ready)) first = true
    ∧ issued .portControl (sub 0x33 [19, 0, 0, 0] up) first = true ∧ issued .portControl (sub 0x33 [0, 1, 0, 0] up) first = true
    ∧ issued .portControl (sub 0x33 [0, 2, 0, 0] up) first = true ∧ issued .portControl (sub 0x33 [3, 3, 0xF0, 0] (linked up)) first = true := by
  decide +kernel

/-- SET_ENVIRONMENT of a feed that the partner of even generations shares. -/
def feed3 (acked : Bool) : State :=
  sub 0x21 (leBytes 2 4 ++ leBytes 4 0 ++ leBytes 2 3 ++ leBytes 4 0) { up with
    snap := { SnapSt.reset with partnersSet := true, evenFeed := 3, acked := acked } }

theorem witness_feed : issued .setEnvironment (feed3 false) first = true ∧ issued .setEnvironment (feed3 true) first = true
    ∧ (let c := cmdOf first (feed3 false)
       bitOf (c.n 0 1) 2 && (feed3 false).snap.partnersSet && decide ((feed3 false).snap.evenFeed = c.n 6 2)) = true := by decide +kernel
theorem witness_correlation : ∃ s r, collectorsRun s = true ∧ s.flash.corrQueue = [r] ∧ up.flash.corrQueue = [] :=
  ⟨{ up with flash := { FlashSt.new with corrQueue := [{ sequence := 1, hours := 0, cycle := 0, tick := 0, utc := 5 }] } }, _,
    by decide +kernel, rfl, rfl⟩
theorem witness_portControl_enabled : (claspOf 0 up).enabled = true
    ∧ (claspOf 19 (link { Clasp.reset with enabled := false })).enabled = false
    ∧ issued .portControl (sub 0x33 [19, 1, 0, 0] (link { Clasp.reset with enabled := false })) first = true := by decide +kernel

/-- A LOADED chip whose image compares tensor 3 with a reference. -/
def compared : State := { inState .loaded with
  image := { ImageSt.reset with img := some (imageOf [{ item 0 false with body := .drain { drain0 with tensor := 3, compare := true } }]) } }

theorem witness_reference : issued .referenceMode (sub 0x91 ([1, 1] ++ zeros 2 ++ leBytes 4 9 ++ leBytes 2 3) compared) first = true
    ∧ referenceFits (cmdOf first (sub 0x91 ([1, 1] ++ zeros 2 ++ leBytes 4 9 ++ leBytes 2 3) compared)) compared = true
    ∧ referenceFits (cmdOf first (sub 0x91 ([1, 1] ++ zeros 2 ++ leBytes 4 9 ++ leBytes 2 4) compared)) compared = false
    ∧ issued .referenceMode (sub 0x91 ([1, 1] ++ zeros 2 ++ leBytes 4 9 ++ leBytes 2 4) compared) first = true
    ∧ issued .referenceMode (sub 0x91 (zeros 8) compared) first = true := by decide +kernel

/-- BIND_HOST_BUFFERS of index 1 with flags. -/
def bind1 (f : Nat) : List Byte :=
  [1] ++ zeros 31 ++ leBytes 1 1 ++ leBytes 1 f ++ zeros 6 ++ leBytes 8 8192 ++ leBytes 8 4096 ++ zeros 8

/-- A chip with a batch that waits in binding 1. -/
def batched (tags : List Nat) (s : State) : State := { s with step := { s.step with batches := tags.map (fun t =>
  { port := .a, tag := 0, appliedTag := 0, attemptTag := BitVec.ofNat 64 t, binding := 1, offset := 0, length := 64 }) } }

theorem witness_bind : issued .bindHostBuffers (sub 0x42 (bind1 3) up) first = true
    ∧ issued .bindHostBuffers (sub 0x42 (bind1 4) (bound up)) first = true
    ∧ issued .bindHostBuffers (sub 0x42 (bind1 4) (batched [5] (bound up))) first = true
    ∧ (cmdOf first (sub 0x42 (bind1 3) up)).n 0 1 = 1 ∧ bitOf ((cmdOf first (sub 0x42 (bind1 3) up)).n 33 1) 2 = false
    ∧ bitOf ((cmdOf first (sub 0x42 (bind1 4) up)).n 33 1) 2 = true
    ∧ rebinds (cmdOf first (sub 0x42 (bind1 4) up)) 0 (bound up) = true ∧ bindingBusy 1 (batched [5] (bound up)) = true
    ∧ bindingBusy 1 up = false := by decide +kernel
theorem witness_reads : issued (.loadRoutes []) (sub 0x31 (range1 64) (bound (inState .ready))) first = true
    ∧ issued (.loadGroups []) (sub 0x32 (range1 64) (bound (inState .ready))) first = true
    ∧ issued (.loadImposition []) (sub 0x40 (range1 64) (bound (inState .ready))) first = true
    ∧ issued (.firmwareStage { bytes := [], corrected := 0, badReads := 0 }) (sub 0xA0 (range1 64) (bound (inState .ready))) first = true
    ∧ dmaReady (sub 0x31 (range1 64) (bound (inState .ready))) false 1 = true
    ∧ dmaReady (sub 0x31 (range1 64) (inState .ready)) false 1 = false := by decide +kernel

/-- A LOAD_IMPOSITION that waits for binding 1. -/
def reading (n : Nat) : State := { bound (inState .ready) with mbx := { MbxSt.reset with
  accepted := [{ port := .a, slot := 0, opcode := 0x40, args := range1 n }]
  dma := [{ opcode := 0x40, binding := 1, write := false, offset := 0, bytes := List.replicate n 0 }] } }

theorem witness_resume_transfer : ∃ w x, (reading 64).mbx.dma.find? (fun w => !w.write && decide (w.binding = 1)) = some w
    ∧ dmaReady (reading 64) false 1 = true ∧ readerOf w (reading 64) = some x ∧ dmaFits (reading 64) 1 w.offset w.bytes.length = true :=
  ⟨{ opcode := 0x40, binding := 1, write := false, offset := 0, bytes := List.replicate 64 0 }, { port := .a, slot := 0, opcode := 0x40, args := range1 64 },
    by decide +kernel⟩
theorem witness_resume_transfer_short : ∃ s : State, ∃ w, dmaReady s false 1 = true ∧ dmaFits s 1 w.offset w.bytes.length = false
    ∧ s.mbx.dma.find? (fun w => !w.write && decide (w.binding = 1)) = some w ∧ (readerOf w s).isSome = true :=
  ⟨{ reading 64 with portA := { port with binds := [(1, { canRead := true, canWrite := true, address := 4096, length := 63 })] } },
    { opcode := 0x40, binding := 1, write := false, offset := 0, bytes := List.replicate 64 0 }, by decide +kernel⟩
theorem witness_resume_gone : ∃ s w, dmaReady s false 1 = true ∧ s.mbx.dma.find? (fun w => !w.write && decide (w.binding = 1)) = some w
    ∧ readerOf w s = none ∧ coreRuns s = true :=
  ⟨{ reading 64 with mbx := { (reading 64).mbx with accepted := [] } }, _, by decide +kernel, rfl, by decide +kernel⟩
theorem witness_resume_none : up.mbx.dma.find? (fun w => !w.write && decide (w.binding = 1)) = none ∧ dmaReady up false 1 = false := by decide +kernel
theorem witness_bootRecord : up.flash.bootRec.sequence.toNat + 1 < 2 ^ 32 := by decide +kernel
theorem witness_tables_bad : routesOk [] = false ∧ groupsOk 7 [] = false ∧ up.image.img = none := by decide +kernel

/-- A group table with the pair. -/
def groupTable : List Byte :=
  leBytes 4 0x434C4752 ++ leBytes 2 1 ++ leBytes 2 1 ++ zeros 56
    ++ (leBytes 2 5 ++ [0, 0, 0, 1] ++ leBytes 2 2 ++ leBytes 4 16 ++ leBytes 4 128 ++ leBytes 4 0 ++ zeros 12)
    ++ zeros 32 ++ (leBytes 2 7 ++ leBytes 2 9 ++ zeros 60)

theorem witness_groupTable : groupsOk 7 groupTable = true := by decide +kernel

/-- An image of group 5 with a number of exchange frames and a table. -/
def grouped (exch : Nat) (table : List TabEntry) : Image :=
  { imageOf [] with groups := [5], table := table, hdr := { (imageOf []).hdr with exch := exch } }

theorem witness_groups_image : let l := (List.range (fieldN groupTable 6 2)).map (groupEntry groupTable)
    groupsMissing (grouped 0 []) l 7 = true ∧ groupsMissing (grouped 1 []) l 7 = false ∧ groupsWrong (grouped 1 []) l = false
    ∧ groupsWrong (grouped 1 [{ entry with gradient := true, rounded := true }]) l = true := by decide +kernel
theorem witness_finish : acceptedOp (reading 64) 0x40 = some { port := .a, slot := 0, opcode := 0x40, args := range1 64 } := by decide +kernel
theorem witness_finish_slot : ∃ s x, acceptedOp s 0x40 = some x ∧ s.mbx.silenced = false ∧ (slotAt x.port x.slot s).st = .accepted :=
  ⟨{ reading 64 with portA := { port with slots := [(0, { Slot.reset with st := .accepted })] } },
    { port := .a, slot := 0, opcode := 0x40, args := range1 64 }, by decide +kernel⟩
theorem witness_imageLoad : ∃ s : State, s.image.loading = some [] ∧ s.dev.state = .ready :=
  ⟨{ inState .ready with image := { ImageSt.reset with loading := some [] } }, by decide +kernel⟩
theorem witness_imageLoad_late : ∃ s : State, s.image.loading = some [] ∧ s.dev.state ≠ .ready :=
  ⟨{ inState .retireRequested with image := { ImageSt.reset with loading := some [] } }, by decide +kernel⟩
theorem witness_imageLoad_none : up.image.loading = none := rfl
theorem witness_unload : issued .unload (sub 0x41 [] (inState .loaded)) first = true := by decide +kernel

/-- A chip with an ACCEPTED command in slot 0 of port A. -/
def running (op : Nat) (args : List Byte) (s : State) : State := { s with
  portA := { s.portA with slots := [(0, { Slot.reset with st := .accepted, opcode := BitVec.ofNat 16 op })] }
  mbx := { s.mbx with accepted := [{ port := .a, slot := 0, opcode := op, args := args }] } }

theorem witness_unloadDone : (acceptedOp (running 0x41 [] (inState .loaded)) 0x41).isSome = true ∧ (inState .loaded).dev.state = .loaded
    ∧ acceptedOp up 0x41 = none ∧ up.dev.state ≠ .loaded ∧ up.dev.state ≠ .held := by decide +kernel

/-- A chip in a state whose image names a stalled group. -/
def stalledIn (d : DevState) : State := { inState d with
  image := { ImageSt.reset with img := some { imageOf [] with groups := [5] } }
  fabric := { up.fabric with stalled := [5] } }

theorem witness_runSteps : issued .runSteps (sub 0x50 (leBytes 4 1) (inState .loaded)) first = true
    ∧ issued .runSteps (sub 0x50 (leBytes 4 0xFFFFFFFF) (inState .loaded)) first = true
    ∧ issued .runSteps (sub 0x50 (leBytes 4 1) (stalledIn .loaded)) first = true
    ∧ referencedStalled (stalledIn .loaded) = true ∧ referencedStalled (inState .loaded) = false := by decide +kernel

/-- SUBMIT_BATCH of an attempt in binding 1. -/
def batch (attempt : Nat) (s : State) : State :=
  sub 0x51 (leBytes 8 0 ++ leBytes 8 attempt ++ leBytes 8 attempt ++ leBytes 8 1 ++ leBytes 8 0 ++ leBytes 8 64) s

theorem witness_batch : issued (.submitBatch []) (batch 9 (bound up)) first = true
    ∧ issued (.submitBatch []) (batch 9 (batched [1, 2, 3, 4] (bound up))) first = true
    ∧ (batched [1, 2, 3, 4] (bound up)).step.batches.filter (fun x => x.attemptTag = 9) = [] ∧ 4 ≤ (batched [1, 2, 3, 4] up).step.batches.length
    ∧ issued (.submitBatch []) (batch 4 (batched [1, 2, 3, 4] (bound up))) first = true
    ∧ (batched [1, 2, 3, 4] (bound up)).step.batches.filter (fun x => x.attemptTag = 4) ≠ [] := by decide +kernel
theorem witness_batch_old : ∃ s, issued (.submitBatch []) (batch 8 s) first = true ∧ (8 : W64).toNat < s.step.record.attempted.toNat
    ∧ s.step.batches.length < 4 :=
  ⟨{ bound up with step := { up.step with record := { StepRec.reset with attempted := 9 } } }, by decide +kernel⟩
theorem witness_hold : issued .hold (sub 0x52 [] (inState .held)) first = true ∧ issued .hold (sub 0x52 [] up) first = true
    ∧ (inState .held).frame.stuck = false ∧ up.dev.state ≠ .held := by decide +kernel
theorem witness_hold_stuck : ∃ s, issued .hold (sub 0x52 [] s) first = true ∧ s.dev.state = .held ∧ s.frame.stuck = true :=
  ⟨{ inState .held with frame := { FrameSt.reset with stuck := true } }, by decide +kernel⟩
theorem witness_resume : issued .resume (sub 0x53 [] (inState .held)) first = true
    ∧ issued .resume (sub 0x53 [] (stalledIn .held)) first = true ∧ referencedStalled (stalledIn .held) = true := by decide +kernel
theorem witness_resume_unaligned : ∃ s, issued .resume (sub 0x53 [] s) first = true ∧ s.dev.unaligned = true :=
  ⟨{ inState .held with dev := { (inState .held).dev with unaligned := true } }, by decide +kernel⟩

/-- SET_PARTNERS of chips 8 and 9 on feeds 1 and 2, with an acknowledgement. -/
def partners (ack : Nat) (s : State) : State :=
  sub 0x61 (leBytes 2 8 ++ leBytes 2 1 ++ leBytes 2 9 ++ leBytes 2 2 ++ leBytes 4 ack) s

theorem witness_partners : issued .setPartners (partners 1 up) first = true ∧ issued .setPartners (partners 0 up) first = true
    ∧ up.env.feed = 0xFFFF := by decide +kernel
theorem witness_partners_apart : ∃ s, issued .setPartners (partners 0 s) first = true ∧ s.env.feed ≠ 0xFFFF ∧ s.env.feed ≠ 1 ∧ s.env.feed ≠ 2 :=
  ⟨{ up with env := { up.env with feed := 3 } }, by decide +kernel⟩

/-- SNAPSHOT of this chip alone at the next barrier. -/
def snap (s : State) : State := sub 0x60 (zeros 16) s

/-- With partners and a route to each. -/
def routed (s : State) : State := { s with
  snap := { SnapSt.reset with partnersSet := true, even := 8, odd := 9 }
  fabric := { s.fabric with usable := [3], routes := [(8, 8), (9, 8)] } }

theorem witness_snapshot : issued .snapshot (snap up) first = true ∧ snapshotFits (cmdOf first (snap up)) up = true
    ∧ up.snap.partnersSet = false ∧ issued .snapshot (snap (routed up)) first = true ∧ (routed up).snap.partnersSet = true
    ∧ (routed up).fabric.stalled = [] ∧ portsTo (routed up) (partnerOf (routed up) (routed up).snap.nextGen) = [3] := by decide +kernel
theorem witness_snapshot_refused : issued .snapshot (sub 0x60 (leBytes 8 0 ++ leBytes 8 5) (inState .loaded)) first = true
    ∧ snapshotFits (cmdOf first (sub 0x60 (leBytes 8 0 ++ leBytes 8 5) (inState .loaded))) (inState .loaded) = false := by decide +kernel
theorem witness_snapshot_stalled : ∃ s, issued .snapshot (snap s) first = true ∧ s.snap.partnersSet = true ∧ referencedStalled s = true :=
  ⟨{ stalledIn .running with snap := { SnapSt.reset with partnersSet := true } }, by decide +kernel⟩
theorem witness_snapshot_group : ∃ s, issued .snapshot (sub 0x60 ([1, 0, 5, 0] ++ zeros 4 ++ leBytes 8 1) s) first = true ∧ s.snap.partnersSet = true
    ∧ snapshotFits (cmdOf first (sub 0x60 ([1, 0, 5, 0] ++ zeros 4 ++ leBytes 8 1) s)) s = true ∧ s.fabric.stalled.contains 5 = true
    ∧ referencedStalled s = false :=
  ⟨{ up with snap := { SnapSt.reset with partnersSet := true }, fabric := { up.fabric with groups := [pair], stalled := [5] } }, by decide +kernel⟩
theorem witness_snapshot_portless : ∃ s, issued .snapshot (snap s) first = true ∧ s.snap.partnersSet = true ∧ s.fabric.stalled = []
    ∧ portsTo s (partnerOf s s.snap.nextGen) = [] :=
  ⟨{ up with snap := { SnapSt.reset with partnersSet := true } }, by decide +kernel⟩

/-- A snapshot in progress, with the frames in a row without an acknowledged byte. -/
def snapping (due : Bool) (noAck : Nat) (d : DevState) : State := { routed (inState d) with
  dev := { (inState d).dev with left := some .running }
  snap := { (routed up).snap with run := some { step := 0, group := false, within := false, generation := 0, due := due, frames := 0,
                                                leftRunning := true, xfer := { Xfer.new with noAck := noAck } } } }

theorem witness_snapshotStop : ∃ r, (snapping true 0 .running).snap.run = some r ∧ r.due = true ∧ maySend (snapping true 0 .running) = true :=
  ⟨_, rfl, rfl, rfl⟩
theorem witness_snapshotStop_not : up.snap.run = none ∧ (∃ r, (snapping false 0 .running).snap.run = some r ∧ r.due = false)
    ∧ (inState .ready).dev.state ≠ .running ∧ (inState .ready).dev.state ≠ .held ∧ (inState .ready).dev.state ≠ .loaded :=
  ⟨rfl, ⟨_, rfl, rfl⟩, by decide +kernel⟩
theorem witness_snapshotCopy : ∃ r, (snapping false 0 .snapshotting).snap.run = some r ∧ (snapping false 0 .snapshotting).dev.state = .snapshotting
    ∧ r.xfer.closing = false ∧ stackRuns (snapping false 0 .snapshotting) 7 = true ∧ (snapping false 0 .snapshotting).frame.lockUp = false
    ∧ copiesPause (snapping false 0 .snapshotting) = false := ⟨_, rfl, by decide +kernel⟩
theorem witness_snapshotCopy_pauses : copiesPause (powered { up.power with emergency := true }) = true ∧ openServe up = none
    ∧ up.snap.run = none ∧ stackRuns training0 0 = false ∧ maySend { up with dev := { up.dev with fabric := 0xFFFF } } = false := by decide +kernel

/-- A snapshot whose header is acknowledged, with nothing else to send; closing, and not. -/
def sent (closing : Bool) : State := { snapping false 0 .snapshotting with
  snap := { (snapping false 0 .snapshotting).snap with run := some { step := 0, group := false, within := false, generation := 0, due := false
                                                                     frames := 0, leftRunning := true, xfer := { Xfer.new with
    done := [(8, 0, 64), (8, tablesOff, 65536)]
    closing := closing } } } }

theorem witness_snapshotEnd : ∃ r, (sent false).snap.run = some r ∧ r.xfer.closing = false
    ∧ (r.xfer.take (sent false).fabric.sends).whole (partnerOf (sent false) r.generation) (genTables (sent false)).length (genBytes (sent false)) = true
    ∧ (sent false).dev.state = .snapshotting := ⟨_, rfl, by decide +kernel⟩
theorem witness_snapshotEnd_not : (∃ r, (sent true).snap.run = some r ∧ r.xfer.closing = true)
    ∧ ∃ r, (snapping false 0 .snapshotting).snap.run = some r
      ∧ (r.xfer.take up.fabric.sends).whole (partnerOf (snapping false 0 .snapshotting) r.generation) (genTables up).length (genBytes up) = false :=
  ⟨⟨_, rfl, rfl⟩, _, rfl, by decide +kernel⟩
theorem witness_snapshotAbort : ∃ r, (snapping false 16 .snapshotting).snap.run = some r
    ∧ (snapping false 16 .snapshotting).dev.left = some .running ∧ 16 ≤ r.xfer.noAck := ⟨_, rfl, rfl, by decide +kernel⟩
theorem witness_snapshotAbort_not : ∃ r, (snapping false 15 .snapshotting).snap.run = some r ∧ r.xfer.noAck < 16 := ⟨_, rfl, by decide +kernel⟩
theorem witness_proofRecord : ∃ s : State, coreRuns s = true ∧ s.snap.proofRecs = [(zeros 64, 15)] :=
  ⟨{ up with snap := { SnapSt.reset with proofRecs := [(zeros 64, 15)] } }, by decide +kernel⟩
theorem witness_proofRecord_again : ∃ s : State, s.snap.proofRecs = [(zeros 64, 14), (zeros 64, 0)] ∧ up.snap.proofRecs = [] :=
  ⟨{ up with snap := { SnapSt.reset with proofRecs := [(zeros 64, 14), (zeros 64, 0)] } }, rfl, rfl⟩

theorem witness_restore : issued .restore (sub 0x62 (leBytes 2 8 ++ zeros 14) (inState .loaded)) first = true := by decide +kernel

/-- A RESTORE that waits for chip 8's copy of this chip's generation. -/
def restoring : State := { inState .restoring with
  snap := { SnapSt.reset with restore := some { source := 8, identity := 7, previous := false, map := [], proof := false, got := [] } } }

theorem witness_restoreDone : ∃ r, coreRuns restoring = true ∧ ownPlacesRun restoring = true ∧ restoring.snap.restore = some r
    ∧ r.proof = false ∧ restoring.dev.state = .restoring ∧ arrivedGen r (arrivedBytes r gen9.image) = some gen9
    ∧ arrivedGen r (arrivedBytes r []) = none ∧ (inState .held).dev.state ≠ .restoring :=
  ⟨{ source := 8, identity := 7, previous := false, map := [], proof := false, got := [] }, by decide +kernel⟩

/-- A loaded image that fits, and whose owned tiles are those of the generation (log entry 32: what it holds of them is free). -/
theorem witness_restoreDone_fits : ∃ s : State, gen9.bytes = genBytes s
    ∧ (Config.genOwns gen9.identity gen9.generation.toNat = ownOwns s → sameTensors gen9 gen9.image s = true) :=
  ⟨{ restoring with image := { ImageSt.reset with img := some (imageOf []) } }, by decide +kernel, by
    intro h
    have hs : sameShapes gen9 gen9.image (ownShapes { restoring with image := { ImageSt.reset with img := some (imageOf []) } }) = true := by
      decide +kernel
    simp only [sameTensors, sameOwns, hs, h, beq_self_eq_true, Bool.and_true]
    rfl⟩
theorem witness_restoreDone_still : ∃ s, coreRuns s = true ∧ ownPlacesRun s = false :=
  ⟨{ tabled up with
      image := { ImageSt.reset with img := some { imageOf [] with
        plan := [{ tensor := 0, role := 0x05, cls := 3, peer := 0, tileFirst := 0, tileCount := 1, place := .hbm 0 }] } }
      hbm := { up.hbm with training := [0] } }, by decide +kernel⟩

/-- A PROOF that waits for a generation: of the latest, or of the one before, with a result of the member's own. -/
def proves (previous : Bool) (combined : Option (Bool × Bool)) (latest : Option W64) : State := { inState .held with
  snap := { SnapSt.reset with latestGen := latest
                              restore := some { source := 8, identity := 7, previous := previous, map := [], proof := true, got := [] } }
  step := { StepSt.reset with proof := some { generation := 4, recPresent := false, recDigest := 0, recLoss := 0, recSkip := false, sinceTick := 0,
                                              rolledBack := false, replaying := false, combined := combined, exposed := false, result := [], hdr := none } } }

theorem witness_proofDone : ∃ r p g, coreRuns (proves false none (some 4)) = true ∧ (proves false none (some 4)).snap.restore = some r
    ∧ r.proof = true ∧ (proves false none (some 4)).step.proof = some p ∧ p.combined = none ∧ arrivedGen r (arrivedBytes r gen9.image) = some g
    ∧ ownPlacesRun (proves false none (some 4)) = true ∧ (proves false none (some 4)).step.regen = false := ⟨_, _, gen9, by decide +kernel, rfl, rfl, rfl, rfl, by decide +kernel⟩
theorem witness_proofDone_ask : ∃ r, (proves false none (some 4)).snap.restore = some r ∧ r.previous = false ∧ arrivedGen r (arrivedBytes r []) = none
    ∧ 0 < ((proves false none (some 4)).snap.latestGen.getD 0).toNat := ⟨_, rfl, by decide +kernel⟩
theorem witness_proofDone_end : ∃ r, (proves true none (some 4)).snap.restore = some r ∧ r.previous = true
    ∧ (proves false none none).snap.latestGen.getD 0 = 0 := ⟨_, rfl, by decide +kernel⟩
theorem witness_proofDone_failed : ∃ p, (proves false (some (false, false)) none).step.proof = some p ∧ p.combined.isSome = true := ⟨_, rfl, rfl⟩
theorem witness_proofDone_gone : ∃ s r, coreRuns s = true ∧ s.snap.restore = some r ∧ r.proof = true ∧ s.step.proof = none :=
  ⟨{ proves false none none with step := StepSt.reset }, _, by decide +kernel, rfl, rfl, rfl⟩
theorem witness_restoreDone_none : up.snap.restore = none := rfl
theorem witness_restoreDone_size : ∃ r g, arrivedGen r (arrivedBytes r { gen9 with bytes := 64 }.image) = some g ∧ g.bytes ≠ genBytes restoring :=
  ⟨{ source := 8, identity := 7, previous := false, map := [], proof := false, got := [] }, { gen9 with bytes := 64 }, by decide +kernel⟩

/-- What a chip asks for that has nothing of its own. -/
def ask (bytes : Nat) : RestoreAsk := { chip := 8, bytes := bytes, shapes := [], owns := [] }

theorem witness_restoreRequest : slotOfId up 9 = none ∧ coreRuns holder9 = true ∧ slotOfId holder9 9 = some 0 ∧ heldIn holder9 0 = some gen9
    ∧ servable gen9 0 = true ∧ servable gen9 1 = false ∧ Sys2Proof.Machine.fits holder9 0 gen9 (ask 64) = false
    ∧ slotsRun holder9 = true ∧ slotsRun { holder9 with clocks := { up.clocks with stopped := [3] } } = false := by decide +kernel
theorem witness_restoreRequest_serves : Config.genOwns gen9.identity gen9.generation.toNat = [] →
    Sys2Proof.Machine.fits holder9 0 gen9 (ask 0) = true := by
  intro h
  have hs : sameShapes gen9 (slotImage holder9 0) [] = true := by decide +kernel
  simp only [Sys2Proof.Machine.fits, sameOwns, ask, hs, h, Bool.and_true]
  decide

/-- A chip that serves that generation to chip 8. -/
def serving (noAck : Nat) (closing : Bool) : State := { holder9 with snap := { holder9.snap with
  serves := [{ requester := 8, identity := 9, slot := 0, mapped := true, xfer := { Xfer.new with noAck := noAck, closing := closing } }] } }

theorem witness_serveCopy : ∃ v, openServe (serving 0 false) = some v ∧ slotBase (serving 0 false) v.slot = some (0, 0)
    ∧ heldIn (serving 0 false) v.slot = some gen9 ∧ stackRuns (serving 0 false) 0 = true ∧ (serving 0 false).frame.lockUp = false
    ∧ copiesPause (serving 0 false) = false ∧ (serving 0 false).snap.run = none := ⟨_, rfl, by decide +kernel⟩
theorem witness_endServe : ∃ v, (serving 15 true).snap.serves = [v] ∧ heldIn (serving 15 true) v.slot = some gen9 ∧ gen9.usable = true
    ∧ gen9.identity = v.identity ∧ v.xfer.noAck < 16 ∧ v.xfer.closed v.requester = true := ⟨_, rfl, by decide +kernel⟩
theorem witness_endServe_stops : (∃ v, (serving 16 false).snap.serves = [v] ∧ 16 ≤ v.xfer.noAck) ∧ { gen9 with damaged := true }.usable = false :=
  ⟨⟨_, rfl, by decide +kernel⟩, by decide +kernel⟩

/-- PROOF of the pair on a HELD chip. -/
def proving (s : SnapSt) : State := sub 0x63 (leBytes 4 5) { inState .held with
  fabric := { up.fabric with groups := [pair] }
  snap := s }

theorem witness_proof : issued .proof (proving SnapSt.reset) first = true ∧ groupHere (proving SnapSt.reset) 5 = true
    ∧ issued .proof (proving { SnapSt.reset with partnersSet := true }) first = true
    ∧ issued .proof (proving { SnapSt.reset with partnersSet := true, latestGen := some 4 }) first = true
    ∧ issued .proof (sub 0x63 (leBytes 4 5) (inState .held)) first = true ∧ groupHere up 5 = false := by decide +kernel

/-- EXPORT_SNAPSHOT of slot 0's generation of chip 9 into binding 1. -/
def export9 (n : Nat) (s : State) : State := sub 0x64 (leBytes 2 9 ++ [0, 1] ++ zeros 4 ++ leBytes 8 0 ++ leBytes 8 n) s

/-- With a binding that holds it. -/
def wide (s : State) : State := { s with
  portA := { s.portA with binds := [(1, { canRead := true, canWrite := true, address := 4096, length := 2 ^ 30 })] } }

theorem witness_export : issued .exportSnapshot (export9 dataOff (wide holder9)) first = true ∧ slotsRun (export9 dataOff (wide holder9)) = true
    ∧ exportFits (cmdOf first (export9 dataOff (wide holder9))) holder9 = true ∧ heldIn holder9 0 = some gen9 ∧ gen9.identity = 9
    ∧ gen9.usable = true ∧ issued .exportSnapshot (export9 64 (wide holder9)) first = true
    ∧ exportFits (cmdOf first (export9 64 (wide holder9))) holder9 = false
    ∧ issued .exportSnapshot (export9 64 (wide up)) first = true ∧ heldIn up 0 = none := by decide +kernel
theorem witness_export_not : ∃ s g, heldIn s 0 = some g ∧ g.identity = 9 ∧ g.usable = false ∧ issued .exportSnapshot (export9 dataOff (wide s)) first = true
    ∧ (8 : Nat) ≠ gen9.identity :=
  ⟨{ holder9 with snap := { SnapSt.reset with held0 := some { gen9 with damaged := true } } }, _, rfl, by decide +kernel⟩
theorem witness_faults : issued .faultRead (sub 0x70 ([0, 0] ++ leBytes 2 287 ++ leBytes 2 0 ++ leBytes 2 13) up) first = true
    ∧ issued .faultConfig (sub 0x71 ([0, 0] ++ leBytes 2 287 ++ leBytes 2 0 ++ [5, 1] ++ leBytes 8 1000) up) first = true
    ∧ issued .faultConfig (sub 0x71 ([0, 0] ++ leBytes 2 0xFFFF ++ leBytes 2 0 ++ [5, 1] ++ leBytes 8 1000) up) first = true
    ∧ absentUnit .cell 287 up = false
    ∧ issued .faultForce (sub 0x72 ([0, 0] ++ leBytes 2 0 ++ leBytes 2 0 ++ [1, 0]) up) first = true
    ∧ issued .unfence (sub 0x73 (leBytes 4 287) (inState .held)) first = true ∧ cellState 287 up ≠ .fenced := by decide +kernel

/-- A chip in HELD with cell 0 fenced by a forced event. -/
def fenced : State := { inState .held with
  cells := { CellsSt.reset with map := .fenced :: factoryMap.drop 1, forcedFence := [0] } }

theorem witness_fenced : issued .faultForce (sub 0x72 ([0, 0] ++ leBytes 2 0 ++ leBytes 2 0 ++ [1, 0]) fenced) first = true
    ∧ issued .unfence (sub 0x73 (leBytes 4 0) fenced) first = true ∧ cellState 0 fenced = .fenced
    ∧ fenced.cells.forcedFence.contains 0 = true := by decide +kernel

/-- An event record. -/
def event : EventRec := { sequence := 0, hours := 0, cycle := 0, tick := 0, type := 1, payload := zeros 34 }

/-- A chip with an event that waits for the ring. -/
def logged : State := { up with flash := { FlashSt.new with queue := [event], nextSeq := 1 } }

theorem witness_eventRead : issued .eventRead (sub 0x80 (leBytes 8 0 ++ leBytes 4 3 ++ [0xFF, 0, 0, 0] ++ leBytes 8 0) logged) first = true
    ∧ issued .eventRead (sub 0x80 (leBytes 8 0 ++ leBytes 4 65536 ++ [1, 0, 0, 0] ++ leBytes 8 0) (bound logged)) first = true
    ∧ issued .lifetimeRead (sub 0x81 [] up) first = true := by decide +kernel

/-- STATS_READ of tensor 0 into binding 1. -/
def stats1 (n : Nat) : List Byte := leBytes 2 0 ++ leBytes 2 1 ++ [1, 1, 0, 0] ++ leBytes 8 0 ++ leBytes 8 n

theorem witness_statsRead : issued .statsRead (sub 0xB0 (stats1 64) (bound (tabled up))) first = true
    ∧ statsFit (cmdOf first (sub 0xB0 (stats1 64) (tabled up))) (tabled up) = true
    ∧ issued .statsRead (sub 0xB0 (stats1 63) (bound (tabled up))) first = true
    ∧ statsFit (cmdOf first (sub 0xB0 (stats1 63) (tabled up))) (tabled up) = false := by decide +kernel

/-- An EVENT_READ whose 64 bytes wait for binding 1. -/
def delivering (s : State) : State := { running 0x80 (zeros 24) s with
  mbx := { (running 0x80 (zeros 24) s).mbx with dma := [{ opcode := 0x80, binding := 1, write := true, offset := 0, bytes := zeros 64 }] } }

theorem witness_delivery : ∃ x d, (delivering (bound up)).mbx.accepted.find? (fun x => bulkOps.contains x.opcode && decide (x.port = .a)) = some x
    ∧ (delivering (bound up)).mbx.dma.find? (fun d => d.write && decide (bindPort d.binding = .a)) = some d
    ∧ (dmaReady (delivering (bound up)) true d.binding && dmaFits (delivering (bound up)) d.binding d.offset d.bytes.length) = true
    ∧ (slotAt x.port x.slot (delivering (bound up))).st = .accepted
    ∧ (dmaReady (delivering up) true d.binding && dmaFits (delivering up) d.binding d.offset d.bytes.length) = false :=
  ⟨{ port := .a, slot := 0, opcode := 0x80, args := zeros 24 }, { opcode := 0x80, binding := 1, write := true, offset := 0, bytes := zeros 64 }, by decide +kernel⟩
theorem witness_delivery_events : (delivering (bound up)).mbx.silenced = false
    ∧ ∃ x : Acc, x.opcode ≠ 0x80 ∧ bulkOps.contains x.opcode = true :=
  ⟨rfl, { port := .a, slot := 0, opcode := 0xB0, args := [] }, by decide +kernel⟩
theorem witness_delivery_short : ∃ d, dmaReady (delivering (bound up)) true 1 = true ∧ d = 1048577 ∧ dmaFits (delivering (bound up)) 1 0 d = false
    ∧ up.mbx.accepted = [] ∧ up.mbx.dma = [] ∧ (delivering (bound up)).mbx.silenced = false := ⟨_, by decide +kernel, rfl, by decide +kernel⟩
theorem witness_recorder_lost : ∃ s, collectorsRun s = true ∧ s.flash.queue = [event] ∧ s.flash.lostCount ≠ 0
    ∧ 512 ≤ (List.replicate 512 event).length ∧ (List.replicate 511 event).length < 512 :=
  ⟨{ logged with flash := { logged.flash with lostCount := 1 } }, by decide +kernel⟩
theorem witness_recorder : collectorsRun logged = true ∧ logged.flash.queue = [event] ∧ logged.flash.lostCount = 0 ∧ up.flash.queue = []
    ∧ collectorsRun State.reset = false := by decide +kernel
theorem witness_lifetime : ∃ s, collectorsRun s = true ∧ 900000000 ≤ s.life.sinceWriteUs :=
  ⟨{ up with life := { LifeSt.reset with sinceWriteUs := 900000000 } }, by decide +kernel⟩
theorem witness_lifetime_due : ∃ s, collectorsRun s = true ∧ s.life.writeDue = true :=
  ⟨{ up with life := { LifeSt.reset with writeDue := true } }, by decide +kernel⟩
theorem witness_lifetime_not : up.life.writeDue = false ∧ up.life.sinceWriteUs < 900000000 := by decide +kernel

/-- A LOADED chip whose cell 0 has a pass as item 0. -/
def passing : State := bound { inState .loaded with
  image := { ImageSt.reset with img := some (imageOf [{ item 0 false with body := .pass pass0 }]) } }

/-- LOUPE of 32 rows of array 0 of that pass, or of item 1. -/
def loupeOf (it : Nat) : List Byte :=
  leBytes 2 0 ++ [0, 1] ++ leBytes 2 0 ++ leBytes 2 it ++ leBytes 2 0 ++ leBytes 2 32 ++ zeros 4 ++ leBytes 8 0

theorem witness_loupe : issued .loupe (sub 0x90 (loupeOf 0) passing) first = true
    ∧ loupeFits (cmdOf first (sub 0x90 (loupeOf 0) passing)) passing = true
    ∧ issued .loupe (sub 0x90 (loupeOf 1) passing) first = true
    ∧ loupeFits (cmdOf first (sub 0x90 (loupeOf 1) passing)) passing = false := by decide +kernel
theorem witness_loupeDone : ∃ x, acceptedOp (running 0x90 (loupeOf 0) (bound (inState .loaded))) 0x90 = some x
    ∧ (let s := running 0x90 (loupeOf 0) (bound (inState .loaded))
       (dmaReady s true (fieldN x.args 3 1) && dmaFits s (fieldN x.args 3 1) (fieldN x.args 16 8) (loupeTiles x.args s).1.length) = true
       ∧ (slotAt x.port x.slot s).st = .accepted) :=
  ⟨{ port := .a, slot := 0, opcode := 0x90, args := loupeOf 0 }, by decide +kernel⟩
theorem witness_loupeDone_runs : ceilingOf 4 (running 0x90 (loupeOf 0) (bound (inState .loaded))) 0 ≠ 0
    ∧ (running 0x90 (loupeOf 0) (bound (inState .loaded))).mbx.silenced = false
    ∧ coreRuns (running 0x90 (loupeOf 0) (bound (inState .loaded))) = true := by decide +kernel
theorem witness_loupeDone_still : ∃ s, coreRuns s = true ∧ (acceptedOp s 0x90).isSome = true ∧ cellRegion 287 ∈ s.clocks.stopped
    ∧ cellRegion 0 ∉ s.clocks.stopped :=
  ⟨{ running 0x90 (leBytes 2 287 ++ (loupeOf 0).drop 2) (bound (inState .loaded)) with clocks := { up.clocks with stopped := [3] } }, by decide +kernel⟩
theorem witness_loupeDone_waits : acceptedOp up 0x90 = none ∧ dmaReady up true 1 = false
    ∧ ceilingOf 4 { up with power := { up.power with q := 0 } } 0 = 0 := by decide +kernel

/-- A LOADED chip with a LOUPE accepted whose tiles no longer fit its binding. -/
def narrow : State := { running 0x90 (loupeOf 0) (tabled passing) with
  portA := { port with binds := [(1, { canRead := true, canWrite := true, address := 4096, length := 49407 })] } }

theorem witness_loupeDone_short : dmaReady narrow true 1 = true ∧ dmaFits narrow 1 0 (loupeTiles (loupeOf 0) narrow).1.length = false
    ∧ loupePass (loupeOf 0) narrow = some pass0 ∧ (tabEntry narrow pass0.tensor).isSome = true := by decide +kernel
theorem witness_stageDone : ∃ s : State, s.staging.stage = some (Bank.empty, stDone) ∧ s.flash.primary = 0 :=
  ⟨{ up with staging := { StagingSt.reset with stage := some (Bank.empty, stDone) } }, rfl, rfl⟩
theorem witness_stageDone_bank1 : ∃ s : State, s.staging.stage = some (Bank.empty, stDone) ∧ s.flash.primary ≠ 0 :=
  ⟨{ up with staging := { StagingSt.reset with stage := some (Bank.empty, stDone) }, flash := recorded 1 0 false }, rfl, by decide +kernel⟩
theorem witness_stageDone_unread : ∃ s : State, s.staging.stage = some (Bank.empty, stDone) ∧ stageStatus stDone s ≠ stDone
    ∧ stageStatus stDone up = stDone :=
  ⟨{ up with staging := { StagingSt.reset with stage := some (Bank.empty, stDone), badReads := 1 } }, rfl, by decide +kernel⟩
theorem witness_stageDone_none : up.staging.stage = none := rfl
theorem witness_activate : issued .firmwareActivate (sub 0xA1 [1, 0, 0, 0] (inState .ready)) first = true ∧ (inState .ready).flash.slotB ≠ 2 := by
  decide +kernel
theorem witness_activate_staged : ∃ s, issued .firmwareActivate (sub 0xA1 [1, 0, 0, 0] s) first = true
    ∧ issued .firmwareActivate (sub 0xA1 [0, 0, 0, 0] s) first = true ∧ s.flash.slotB = 2 :=
  ⟨{ inState .ready with flash := recorded 0 2 false }, by decide +kernel⟩

end Sys2Proof.Tests
end

section
/-! PROOFS. What the tick does to the clock of the part and to the engines of its cells, and the reset values: the obligations on
reset and on the counting of ticks. -/

namespace Sys2Proof.Machine
open Sys2Proof

/-! ### What an operation leaves alone, read off its components -/

theorem Does.same {l : List Comp} {s t : State} {k : Comp} (h : Does l s t) (hk : k ∉ l) : same k s t :=
  (h.only k).resolve_left hk

theorem Does.tick_eq {l : List Comp} {s t : State} (h : Does l s t) (hk : Comp.tick ∉ l := by decide) : t.tick = s.tick :=
  h.same hk

/-! ### The clock: the count of ticks and the time -/

/-- The tick count (R11) and the time that has passed. -/
def clockOf (s : State) : W64 × Nat := (s.tick.count, s.tick.timeUs)

theorem Does.clockOf_eq {l : List Comp} {s t : State} (h : Does l s t) (hk : Comp.tick ∉ l := by decide) : clockOf t = clockOf s := by
  simp only [clockOf, h.tick_eq hk]

/-- Commit and withhold move the last committed tick and the slip counter, and nothing else of the tick generator (R40, R43). -/
theorem settle_tick (k : FrameEnd) (s : State) : (settle k s).tick = { s.tick with
    lastCommit := if ownCommits k || inboundCommits k then s.tick.count + 1 else s.tick.lastCommit
    slips := if slips k then s.tick.slips + 1 else s.tick.slips } := by
  have hMem : (mirrorCarried (settleHbm k (settleCase k s))).tick = s.tick := by
    rw [(mirrorCarried_does _).tick_eq, (settleHbm_does _ _).tick_eq, (settleCase_does _ _).tick_eq]
  unfold settle
  rw [(does_foldl writeStatArea_does _ (does_refl [.hbm] _)).tick_eq]
  simp only [onTick_tick, onFrame_tick, onStep_tick, onStats_tick, onFabric_tick, hMem]

theorem countMarkers_count (t : TickSt) : (countMarkers t).count = t.count := by
  unfold countMarkers
  split_ifs <;> rfl

theorem countMarkers_timeUs (t : TickSt) : (countMarkers t).timeUs = t.timeUs := by
  unfold countMarkers
  split_ifs <;> rfl

theorem passTime_clockOf (s : State) : clockOf (passTime s) = (s.tick.count + 1, s.tick.timeUs + frameUs s.tick.rate) := by
  simp [clockOf, passTime, countMarkers_count, countMarkers_timeUs]

theorem changeRate_clockOf (r : TickRate) (s : State) : clockOf (changeRate r s) = clockOf s := by
  have hWindow : (if 0 < s.power.winElapsed then closeWindow s else s).tick = s.tick :=
    (does_ite (closeWindow_does s) (does_refl _ _)).tick_eq
  unfold changeRate
  split
  · rfl
  · simp only [clockOf, onPower_tick, onTick_tick, (recordEvent_does _ _ _).tick_eq, openSteady, (steadySample_does _).tick_eq, hWindow]

theorem takeDomain_clockOf (s : State) : clockOf (takeDomain s) = clockOf s := by
  unfold takeDomain
  split
  · rfl
  · exact changeRate_clockOf _ s

theorem takeAlignment_clockOf (s : State) : clockOf (takeAlignment s) = clockOf s := by
  unfold takeAlignment
  split
  · rfl
  · exact (countEvent_does _ _ _ _).clockOf_eq
  · rfl

/-- Of all that happens between two frames only the new domain and the alignment reach the tick generator, and both keep its clock. -/
theorem betweenFrames_clockOf (k : FrameEnd) (closing : Bool) (s : State) : clockOf (betweenFrames k closing s) = clockOf s := by
  unfold betweenFrames
  extract_lets s1 s2 s3
  have h1 : clockOf s1 = clockOf s := by
    rw [takeAlignment_clockOf, takeDomain_clockOf, (powerTick_does _).clockOf_eq, (tickLaneCounts_does _).clockOf_eq, (tickConfigs_does _).clockOf_eq]
  have h2 : clockOf s2 = clockOf s1 := by
    rw [(tickCells_does _ _).clockOf_eq, (takeWaiting_does _).clockOf_eq, (endStop_does _).clockOf_eq]
  have h3 : clockOf s3 = clockOf s2 :=
    (does_onlyIf (does_refl _ _) enterReady_does).clockOf_eq.trans (cutSnapshot_does closing s2).clockOf_eq
  rw [(tickRepairs_does _).clockOf_eq, (barrier_does _ _ _).clockOf_eq, h3, h2, h1]

/-- The end of a frame counts one tick and passes one frame at the rate in force (R11, R30). -/
theorem endFrame_clockOf (s : State) : clockOf (endFrame s).1 = (s.tick.count + 1, s.tick.timeUs + frameUs s.tick.rate) := by
  unfold endFrame
  extract_lets s0 k moves closing dec s1
  have h0 : s0.tick = s.tick := (endWaits_does _).tick_eq.trans (lateAtTick_does s).tick_eq
  have h1 : clockOf s1 = clockOf (passTime (settle k s0)) :=
    (does_onlyIf (does_refl _ _) unstick_does).clockOf_eq
  have hMove : clockOf (if moves then moveOn dec s1 else s1) = clockOf s1 :=
    (does_ite (moveOn_does dec s1) (does_refl _ _)).clockOf_eq
  rw [hMove, h1, passTime_clockOf, settle_tick, h0]

theorem runTick_clockOf (s : State) : clockOf (runTick s) = (s.tick.count + 1, s.tick.timeUs + frameUs s.tick.rate) := by
  unfold runTick
  rw [(openFrame_does _ _).clockOf_eq, betweenFrames_clockOf, endFrame_clockOf, (beforeTick_does s).tick_eq]

/-! ### Empty engines stay empty while a frame opens

An event that counts as the frame opens stops the cells it fences. That changes the engines there are and makes none. -/

/-- No cell's engines hold anything (R33). -/
def EnginesEmpty (s : State) : Prop := s.cells.eng = []

theorem EnginesEmpty.does {l : List Comp} {s t : State} (h : EnginesEmpty s) (hd : Does l s t) (hk : Comp.cells ∉ l := by decide) :
    EnginesEmpty t :=
  (congrArg CellsSt.eng (hd.same hk)).trans h

theorem EnginesEmpty.foldl {β : Type} {f : State → β → State} {s : State} (h : EnginesEmpty s)
    (hf : ∀ x b, EnginesEmpty x → EnginesEmpty (f x b)) (xs : List β) : EnginesEmpty (xs.foldl f s) :=
  List.foldlRecOn xs f h fun x hx b _ => hf x b hx

theorem EnginesEmpty.stopCell {s : State} (i : Nat) (h : EnginesEmpty s) : EnginesEmpty (stopCell i s) := by
  simp [EnginesEmpty, Machine.stopCell, show s.cells.eng = [] from h]

theorem EnginesEmpty.eventAction {s : State} (l : Level) (unit action : Nat) (h : EnginesEmpty s) :
    EnginesEmpty (eventAction l unit action s) := by
  unfold Machine.eventAction
  split_ifs
  · exact (h.stopCell unit).does (inDoubt_does _)
  · exact h.does (inDoubt_does _)
  · exact h

theorem EnginesEmpty.severeAction {s : State} (unit source : Nat) (forced : Bool) (action : Nat) (h : EnginesEmpty s) :
    EnginesEmpty (severeAction unit source forced action s) := by
  unfold Machine.severeAction
  split
  · extract_lets dev u
    have hStop : EnginesEmpty (Machine.stopCell unit u) := EnginesEmpty.stopCell unit h
    split
    · exact hStop.does (inDoubt_does _)
    · exact hStop
  · exact h.does (askRetrain_does _ _)
  · exact h.does (retirePc_does _ _ _)
  · exact h
  · exact h
  · exact h

theorem EnginesEmpty.severeNow {s : State} (l : Level) (unit source : Nat) (forced : Bool) (action : Nat) (h : EnginesEmpty s) :
    EnginesEmpty (severeNow l unit source forced action s) := by
  unfold Machine.severeNow
  split
  · exact h
  · exact h.severeAction unit source forced action

theorem EnginesEmpty.countSimple {s : State} (l : Level) (unit source : Nat) (forced early act : Bool) (h : EnginesEmpty s) :
    EnginesEmpty (countSimple l unit source forced early act s) := by
  unfold Machine.countSimple
  extract_lets f action r t
  have hLatch : EnginesEmpty r.1 := h.does (latchEvent_does l unit source forced early s)
  have hEvent : EnginesEmpty t := by
    unfold t
    split
    · exact hLatch.eventAction l unit action
    · exact hLatch
  split
  · exact hEvent.severeNow l unit source _ action
  · exact hEvent

theorem EnginesEmpty.loseLane {s : State} (p lane : Nat) (h : EnginesEmpty s) : EnginesEmpty (loseLane p lane s) := by
  unfold Machine.loseLane
  split
  · exact (h.does (removeLane_does p lane s)).countSimple .chip 0 (0x30 + p) false false true
  · exact h

theorem EnginesEmpty.dropWorstLane {s : State} (early : Bool) (p : Nat) (h : EnginesEmpty s) : EnginesEmpty (dropWorstLane early p s) := by
  unfold Machine.dropWorstLane
  extract_lets c old
  split
  · exact h
  · split
    · exact h.does (askRetrain_does p s)
    · exact h.loseLane p _

theorem EnginesEmpty.dropNow {s : State} (l : Level) (unit source action : Nat) (early : Bool) (h : EnginesEmpty s) :
    EnginesEmpty (dropNow l unit source action early s) := by
  unfold Machine.dropNow
  split
  · exact h.severeNow l unit source false action
  · exact h.dropWorstLane early (source - 0x10)

theorem EnginesEmpty.countEventWith {s : State} (l : Level) (unit source : Nat) (forced early act : Bool) (h : EnginesEmpty s) :
    EnginesEmpty (countEventWith l unit source forced early act s) := by
  have hLatch : EnginesEmpty (latchEvent l unit source forced early s).1 := h.does (latchEvent_does l unit source forced early s)
  unfold Machine.countEventWith
  dsimp only
  split_ifs
  · exact hLatch.dropNow l unit source _ early
  · exact hLatch
  · exact (h.does (standFault_does l unit source forced s)).countSimple l unit source forced early act

theorem EnginesEmpty.stagingOverflow {s : State} (stack : Nat) (h : EnginesEmpty s) : EnginesEmpty (stagingOverflow stack s) := by
  unfold Machine.stagingOverflow
  split
  · exact h
  · have hFull : EnginesEmpty { s with hbm := { s.hbm with fullStacks := insertNat s.hbm.fullStacks stack } } := h
    exact (hFull.does (inDoubt_does _)).countEventWith .region (stack / 2) 1 false false true

theorem EnginesEmpty.stageLocal {s : State} (k : Nat) (h : EnginesEmpty s) : EnginesEmpty (stageLocal k s).1 := by
  unfold Machine.stageLocal
  have hPage : EnginesEmpty (takePage (pageStack k) none s).1 := h.does (takePage_does (pageStack k) none s)
  split_ifs
  · exact h
  · exact hPage
  · exact h.stagingOverflow (pageStack k)

theorem EnginesEmpty.stageDelta {s : State} (kind k : Nat) (h : EnginesEmpty s) : EnginesEmpty (stageDelta kind k s).1 := by
  unfold Machine.stageDelta
  have hPage : EnginesEmpty (takePage (pageStack k) none s).1 := h.does (takePage_does (pageStack k) none s)
  split_ifs
  · exact h
  · exact hPage
  · exact h.stagingOverflow (pageStack k)

theorem EnginesEmpty.stageDeltas {s : State} (kind a n : Nat) (h : EnginesEmpty s) : EnginesEmpty (stageDeltas kind a n s).1 := by
  unfold Machine.stageDeltas
  refine List.foldlRecOn (motive := fun x : State × Bool => EnginesEmpty x.1) _ _ h fun x hx k _ => ?_
  split
  · exact hx.stageDelta kind k
  · exact hx

theorem EnginesEmpty.hbmWrite {s : State} (a : Nat) (bytes : List Byte) (h : EnginesEmpty s) : EnginesEmpty (hbmWrite a bytes s) := by
  unfold Machine.hbmWrite
  refine h.foldl (fun x k hx => ?_) _
  have hStage := hx.stageLocal k
  split
  · exact hx
  · split
    next u hu => rwa [hu] at hStage
    next u hu => rwa [hu] at hStage

theorem EnginesEmpty.addLongTile {s : State} (kind tensor a : Nat) (lane : Bool) (t : LTile) (h : EnginesEmpty s) :
    EnginesEmpty (addLongTile kind tensor a lane t s) := by
  unfold Machine.addLongTile
  extract_lets size
  split
  · exact h
  · have hStage := h.stageDeltas kind a size
    split
    next u hu => rwa [hu] at hStage
    next u hu =>
      rw [hu] at hStage
      extract_lets old
      split
      · exact hStage
      · exact (hStage.does (setDelta_does _ _ _ _)).does (statPart_does _ _ _ _)

theorem EnginesEmpty.tickForced {s : State} (h : EnginesEmpty s) : EnginesEmpty (tickForced s) := by
  unfold Machine.tickForced
  refine EnginesEmpty.foldl (h.does (onFaults_does _ _)) (fun x p hx => ?_) _
  exact hx.foldl (fun y _ hy => hy.countEventWith _ _ _ true false true) _

theorem EnginesEmpty.markHeader {s : State} (start : Nat) (g : Option GenHdr) (h : EnginesEmpty s) : EnginesEmpty (markHeader start g s) := by
  unfold Machine.markHeader
  dsimp only
  split
  · exact h.hbmWrite _ _
  · exact h

theorem EnginesEmpty.markDamaged {s : State} (h : EnginesEmpty s) : EnginesEmpty (markDamaged s) := by
  unfold Machine.markDamaged
  split
  · exact h
  next i _ => exact (h.markHeader i.snap.where0 s.snap.held0).markHeader i.snap.where1 s.snap.held1

theorem EnginesEmpty.flagBuffer {s : State} (h : EnginesEmpty s) : EnginesEmpty (flagBuffer s) := by
  unfold Machine.flagBuffer
  split
  · exact h.addLongTile 0 _ _ false _
  · exact h

theorem EnginesEmpty.orphanFrame {s : State} (h : EnginesEmpty s) : EnginesEmpty (orphanFrame s) := by
  unfold Machine.orphanFrame
  split
  · split
    · exact h
    · exact h.flagBuffer.foldl (fun x d hx => hx.does (standIn_does d.1 d.2 x)) _
  · exact h

theorem freshFrame_enginesEmpty (s : State) : EnginesEmpty (freshFrame s) := rfl

/-- A frame opens with every engine empty: nothing that follows the fresh frame puts anything into one. -/
theorem openFrame_enginesEmpty (k : FrameEnd) (s : State) : EnginesEmpty (openFrame k s) := by
  unfold openFrame
  extract_lets s1
  have h1 : EnginesEmpty s1 :=
    (((freshFrame_enginesEmpty _).does (takeRun_does _)).does (startProof_does _)).does (openStep_does _)
  have hSends : EnginesEmpty (sendStepItems (sampleItems (openingHolds k (checkBatch (sendMarkers s1))))) :=
    ((((h1.does (sendMarkers_does _)).does (checkBatch_does _)).does (openingHolds_does _ _)).does (sampleItems_does _)).does (sendStepItems_does _)
  exact ((hSends.tickForced.markDamaged.does (resendXfers_does _)).does (tickServes_does _)).orphanFrame

theorem runTick_enginesEmpty (s : State) : EnginesEmpty (runTick s) := openFrame_enginesEmpty _ _

/-! ### The tick as a command -/

theorem exec_tick (s : State) : exec .tick s = effect (fun s => if coreRuns s then runTick s else failedTick s) s := rfl

theorem exec_tick_of_coreRuns {s : State} (h : coreRuns s = true) : exec .tick s = .next { runTick s with pending := s.pending } := by
  simp only [exec_tick, effect, h, if_true]

theorem exec_tick_of_not_coreRuns {s : State} (h : coreRuns s = false) : exec .tick s = .next { failedTick s with pending := s.pending } := by
  simp [exec_tick, effect, h]

theorem not_coreRuns_of_failed {s : State} (h : s.dev.state = .failed) : coreRuns s = false := by
  simp [coreRuns, h]

theorem not_coreRuns_of_stopped {s : State} (h : s.clocks.coreReset = true ∨ 0 ∈ s.clocks.stopped ∨ s.dev.state = .thermalOff) :
    coreRuns s = false := by
  rcases h with h | h | h <;> simp [coreRuns, h]

/-- Without clocks, and in THERMAL_OFF, the FAILED chip's tick generator stands too. -/
theorem failedTick_of_stopped {s : State} (h : s.clocks.coreReset = true ∨ 0 ∈ s.clocks.stopped ∨ s.dev.state = .thermalOff) :
    failedTick s = s := by
  rcases h with h | h | h <;> simp [failedTick, onlyIf, h]

/-- The power control hardware acts on power and clocks alone (R402). -/
theorem hardwareTick_eq (s : State) : hardwareTick s = { s with power := (hardwareTick s).power, clocks := (hardwareTick s).clocks } := by
  unfold hardwareTick
  dsimp only
  split <;> rfl

theorem failedTick_of_failed {s : State} (hReset : s.clocks.coreReset = false) (hClock : 0 ∉ s.clocks.stopped) (hState : s.dev.state = .failed) :
    failedTick s = { s with
      tick := { s.tick with count := s.tick.count + 1, domain := s.tick.domain + 1, timeUs := s.tick.timeUs + frameUs s.tick.rate }
      power := (failedTick s).power
      clocks := (failedTick s).clocks
      life := { s.life with now := { s.life.now with hoursUs := s.life.now.hoursUs + frameUs s.tick.rate } } } := by
  have hRuns : (!s.clocks.coreReset && !s.clocks.stopped.contains 0 && decide (s.dev.state = .failed)) = true := by
    simp [hReset, hClock, hState]
  simp only [failedTick, onlyIf, hRuns, if_true]
  exact hardwareTick_eq _

/-! ### The obligations -/

/-- Settles O6: each register of the reset state holds its value, and its lists of slots and of bindings are empty on either port. -/
theorem resetRegisterValues : Obligations.ResetRegisterValues := by
  unfold Obligations.ResetRegisterValues
  have hSlots : ∀ p n, (slotAt p n State.reset).st = .free := fun p n => by cases p <;> rfl
  have hBinds : ∀ b, bindOf State.reset b = none := fun b => by
    unfold bindOf
    cases bindPort b <;> rfl
  exact ⟨rfl, rfl, rfl, rfl, rfl, rfl, rfl, hSlots, hBinds, rfl, rfl⟩

/-- Settles O7. Where the core runs, the clock and the engines are followed through the parts of the tick; a FAILED chip's tick is written
out whole; where no tick comes, neither the core nor the tick generator of a FAILED chip runs. -/
theorem tickCountsAndEmptiesEngines : Obligations.TickCountsAndEmptiesEngines := by
  refine ⟨fun s hRuns => ?_, fun s hReset hClock hState => ?_, fun s hStill => ?_⟩
  · have hClock := runTick_clockOf s
    simp only [clockOf, Prod.mk.injEq] at hClock
    obtain ⟨hCount, hTime⟩ := hClock
    refine ⟨_, exec_tick_of_coreRuns hRuns, ?_⟩
    dsimp only
    exact ⟨hCount, hTime, runTick_enginesEmpty s⟩
  · have hTick := failedTick_of_failed hReset hClock hState
    refine ⟨_, exec_tick_of_not_coreRuns (not_coreRuns_of_failed hState), ?_, ?_, ?_⟩
    · exact congrArg (fun t : State => { t with pending := s.pending }) hTick
    · exact congrArg (fun t : State => t.tick.count) hTick
    · exact congrArg (fun t : State => t.tick.timeUs) hTick
  · rw [exec_tick_of_not_coreRuns (not_coreRuns_of_stopped hStill), failedTick_of_stopped hStill]

end Sys2Proof.Machine
end

section
/-! PROOFS. How a hold spreads and what it does to a chip that it reaches, and how a group timeout stalls a chip: the obligation on
hold packets and group timeouts (R42, R45 to R47, R54, R298, R328, R333, R334). -/

namespace Sys2Proof.Machine
open Sys2Proof

/-! ### What an operation leaves alone, read off its components -/

theorem Does.frame_eq {l : List Comp} {s t : State} (h : Does l s t) (hk : Comp.frame ∉ l := by decide) : t.frame = s.frame :=
  h.same hk

theorem Does.step_eq {l : List Comp} {s t : State} (h : Does l s t) (hk : Comp.step ∉ l := by decide) : t.step = s.step :=
  h.same hk

theorem Does.dev_eq {l : List Comp} {s t : State} (h : Does l s t) (hk : Comp.dev ∉ l := by decide) : t.dev = s.dev :=
  h.same hk

theorem Does.clocks_eq {l : List Comp} {s t : State} (h : Does l s t) (hk : Comp.clocks ∉ l := by decide) : t.clocks = s.clocks :=
  h.same hk

theorem Does.fabric_eq {l : List Comp} {s t : State} (h : Does l s t) (hk : Comp.fabric ∉ l := by decide) : t.fabric = s.fabric :=
  h.same hk

theorem Does.snap_eq {l : List Comp} {s t : State} (h : Does l s t) (hk : Comp.snap ∉ l := by decide) : t.snap = s.snap :=
  h.same hk

theorem effect_of_eq {f : State → State} {s : State} (h : f s = s) : effect f s = .next s := by simp [effect, h]

/-- What a change of state does to the device: the state, and nothing else of it (R272). -/
theorem setState_dev (d : DevState) (s : State) : (setState d s).dev = { s.dev with state := d } := by
  unfold setState
  split
  next h => rw [← h]
  next h =>
    extract_lets old dev s1 s2
    have h2 : s2.dev = s1.dev := (does_ite (does_refl _ _) (recordEvent_does _ _ _) : Does [.flash] s1 s2).dev_eq
    have h1 : s1.dev = { s.dev with state := d } := (setSticky_does 4 _).dev_eq
    split
    · exact h2.trans h1
    · exact h2.trans h1

theorem mem_insertNat (a : Nat) (l : List Nat) : a ∈ insertNat l a := by
  induction l with
  | nil => simp [insertNat]
  | cons k rest ih =>
    unfold insertNat
    split_ifs with h₁ h₂
    · simp [h₁]
    · simp
    · exact List.mem_cons_of_mem _ ih

/-! ### A control packet leaves through a port (R320, R323) -/

/-- The oldest control packet leaves at the next flit boundary, where the replay buffer has room (R313, R320). -/
theorem nextFlit_sends_front {c : Clasp} {x : Queued} {q : List Queued} {m : OutMsg} (hCtl : c.ctl = x :: q) (hMsg : x.msg = some m)
    (hRoom : c.replay.length < 2048) : ∃ l, nextFlit c = some l ∧ m ∈ l.msgs := by
  have hFront : m ∈ (ctlTake 15 [] (x :: q)).1.filterMap (·.msg) := by
    have hFresh : x.parts.any ([] : List (List Byte)).contains = false := by simp
    simp [ctlTake, hFresh, hMsg]
  unfold nextFlit
  rw [if_neg (Nat.not_le.mpr hRoom), hCtl]
  exact ⟨_, rfl, hFront⟩

theorem leaveAll_sends_front {c : Clasp} {x : Queued} {q : List Queued} {m : OutMsg} (hCtl : c.ctl = x :: q) (hMsg : x.msg = some m)
    (hRoom : c.replay.length < 2048) : m ∈ (leaveAll c).msgs := by
  obtain ⟨l, hNext, hMem⟩ := nextFlit_sends_front hCtl hMsg hRoom
  obtain ⟨n, hWaiting⟩ : ∃ n, waitingFlits c = n + 1 :=
    Nat.exists_eq_add_one_of_ne_zero (by simp [waitingFlits, hCtl])
  unfold leaveAll
  rw [hWaiting, leaveFlits, hNext]
  exact List.mem_append_left _ hMem

theorem claspOf_onClasp_same (p : Nat) (f : Clasp → Clasp) (s : State) : claspOf p (onClasp p f s) = f (claspOf p s) := by
  simp [claspOf, onClasp]

theorem claspOf_onClasp_ne {p q : Nat} (h : q ≠ p) (f : Clasp → Clasp) (s : State) : claspOf q (onClasp p f s) = claspOf q s :=
  getD_put_ne h _ _ _

theorem claspOf_drainPort_ne {p q : Nat} (h : q ≠ p) (s : State) : claspOf q (drainPort p s) = claspOf q s := by
  unfold drainPort
  split
  · rfl
  · exact claspOf_onClasp_ne h (fun _ => (leaveAll (claspOf p s)).port) s

theorem claspOf_sendOn_ne {p q : Nat} (h : q ≠ p) (m : OutMsg) (s : State) : claspOf q (sendOn p m s) = claspOf q s := by
  unfold sendOn
  split
  · rw [claspOf_drainPort_ne h, claspOf_onClasp_ne h]
  · rfl

theorem portLive_sendOn (p q : Nat) (m : OutMsg) (s : State) : portLive q (sendOn p m s) = portLive q s := by
  simp only [portLive, (sendOn_does p m s).clocks_eq]

/-- What has left the chip stays among what has left it. -/
theorem mem_out_sendOn {x : OutMsg} {s : State} (h : x ∈ s.fabric.out) (p : Nat) (m : OutMsg) : x ∈ (sendOn p m s).fabric.out := by
  unfold sendOn drainPort
  split_ifs
  · exact h
  · exact List.mem_append_left _ h
  · exact h

/-- A port takes a control packet that finds none waiting, and room in the replay buffer, at once. -/
theorem sendOn_emits_ctl {p : Nat} {m : OutMsg} {s : State} {x : Queued} {q : List Queued} (hWire : (onWire m).1 = x :: q)
    (hMsg : x.msg = some m) (hUp : claspUp (claspOf p s) = true) (hLive : portLive p s = true) (hCtl : (claspOf p s).ctl = [])
    (hRoom : (claspOf p s).replay.length < 2048) : m ∈ (sendOn p m s).fabric.out := by
  have hSent : m ∈ (leaveAll { claspOf p s with ctl := (claspOf p s).ctl ++ (onWire m).1, queue := (claspOf p s).queue ++ (onWire m).2 }).msgs :=
    leaveAll_sends_front (by rw [hCtl, hWire]; rfl) hMsg hRoom
  unfold sendOn drainPort
  rw [if_pos hUp, if_neg (by simpa [portLive, onClasp] using hLive), claspOf_onClasp_same]
  exact List.mem_append_right _ hSent

theorem sendOn_emits_hold {p hops : Nat} {h : HoldRec} {s : State} (hUp : claspUp (claspOf p s) = true) (hLive : portLive p s = true)
    (hCtl : (claspOf p s).ctl = []) (hRoom : (claspOf p s).replay.length < 2048) :
    .hold p hops h ∈ (sendOn p (.hold p hops h) s).fabric.out :=
  sendOn_emits_ctl rfl rfl hUp hLive hCtl hRoom

/-! ### A hold spreads (R42, R328) -/

/-- A hold sent on some ports leaves through each of them that takes it at once: the ports before it in the list leave its queue alone, and
those behind it take nothing back. -/
theorem sendHolds_emits {p hops : Nat} {h : HoldRec} {l : List Nat} {s : State} (hp : p ∈ l) (hUp : claspUp (claspOf p s) = true)
    (hLive : portLive p s = true) (hCtl : (claspOf p s).ctl = []) (hRoom : (claspOf p s).replay.length < 2048) :
    .hold p hops h ∈ (l.foldl (fun s p => sendOn p (.hold p hops h) s) s).fabric.out := by
  induction l generalizing s with
  | nil => cases hp
  | cons q qs ih =>
    rw [List.foldl_cons]
    by_cases hpq : p = q
    · subst hpq
      exact List.foldlRecOn (motive := fun t : State => OutMsg.hold p hops h ∈ t.fabric.out) qs _
        (sendOn_emits_hold hUp hLive hCtl hRoom) (fun _ ht _ _ => mem_out_sendOn ht _ _)
    · have hSame := claspOf_sendOn_ne hpq (.hold q hops h) s
      exact ih ((List.mem_cons.mp hp).resolve_left hpq) (hSame ▸ hUp) ((portLive_sendOn _ _ _ _).trans hLive) (hSame ▸ hCtl) (hSame ▸ hRoom)

theorem floodHold_emits {except : Option Nat} {p hops : Nat} {h : HoldRec} {s : State} (hp : p ∈ s.fabric.usable) (hExcept : some p ≠ except)
    (hUp : claspUp (claspOf p s) = true) (hLive : portLive p s = true) (hCtl : (claspOf p s).ctl = [])
    (hRoom : (claspOf p s).replay.length < 2048) : .hold p hops h ∈ (floodHold except hops h s).fabric.out :=
  sendHolds_emits (List.mem_filter.mpr ⟨hp, bne_iff_ne.mpr hExcept⟩) hUp hLive hCtl hRoom

theorem sendOn_onFrame (p : Nat) (m : OutMsg) (f : FrameSt → FrameSt) (s : State) : sendOn p m (onFrame f s) = onFrame f (sendOn p m s) := by
  change (if claspUp (claspOf p s) then _ else _) = onFrame f (if claspUp (claspOf p s) then _ else _)
  split
  · unfold drainPort
    change (if !portLive p s then _ else _) = onFrame f (if !portLive p s then _ else _)
    split <;> rfl
  · rfl

/-- Where a hold goes does not depend on the frame's own record of holds. -/
theorem floodHold_onFrame (except : Option Nat) (hops : Nat) (h : HoldRec) (f : FrameSt → FrameSt) (s : State) :
    floodHold except hops h (onFrame f s) = onFrame f (floodHold except hops h s) := by
  unfold floodHold
  rw [onFrame_fabric]
  exact List.foldl_hom (onFrame f) (fun s p => sendOn_onFrame p _ f s)

/-- A new hold as the chip sends it on: kept among those forwarded, and raised by one hop on every other port, where the hop count leaves it. -/
def forwardHold (port hops : Nat) (h : HoldRec) (s : State) : State :=
  if hops + 1 < 64 then floodHold (some port) (hops + 1) h (onFrame (fun f => { f with forwarded := f.forwarded ++ [h] }) s) else s

/-- The holds forwarded in the frame, with a new one that its hop count lets go on. -/
def forwardedWith (hops : Nat) (h : HoldRec) (s : State) : List HoldRec :=
  if hops + 1 < 64 then s.frame.forwarded ++ [h] else s.frame.forwarded

theorem forwardHold_eq (port hops : Nat) (h : HoldRec) (s : State) :
    forwardHold port hops h s = onFrame (fun f => { f with forwarded := forwardedWith hops h s })
      (if hops + 1 < 64 then floodHold (some port) (hops + 1) h s else s) := by
  unfold forwardHold forwardedWith
  split
  · rw [floodHold_onFrame]
    simp only [onFrame, (floodHold_does _ _ _ _).frame_eq]
  · rfl

@[simp] theorem forwardHold_fabric (port hops : Nat) (h : HoldRec) (s : State) :
    (forwardHold port hops h s).fabric = (if hops + 1 < 64 then floodHold (some port) (hops + 1) h s else s).fabric := by
  rw [forwardHold_eq]
  rfl

@[simp] theorem forwardHold_frame (port hops : Nat) (h : HoldRec) (s : State) :
    (forwardHold port hops h s).frame = { s.frame with forwarded := forwardedWith hops h s } := by
  have hFlood : (if hops + 1 < 64 then floodHold (some port) (hops + 1) h s else s).frame = s.frame := by
    split
    · exact (floodHold_does _ _ _ _).frame_eq
    · rfl
  rw [forwardHold_eq, onFrame_frame, hFlood]

theorem forwardHold_does (port hops : Nat) (h : HoldRec) (s : State) : Does [.frame, .fabric] s (forwardHold port hops h s) :=
  does_ite (does_by (floodHold_does _ _ _ _) (does_by (onFrame_does _ _) (does_refl _ _))) (does_refl _ _)

@[simp] theorem forwardHold_dev (port hops : Nat) (h : HoldRec) (s : State) : (forwardHold port hops h s).dev = s.dev :=
  (forwardHold_does port hops h s).dev_eq

@[simp] theorem forwardHold_step (port hops : Nat) (h : HoldRec) (s : State) : (forwardHold port hops h s).step = s.step :=
  (forwardHold_does port hops h s).step_eq

theorem forwardHold_emits (port : Nat) {hops : Nat} (h : HoldRec) (s : State) (hHops : hops + 1 < 64) :
    ∀ p ∈ s.fabric.usable, p ≠ port → claspUp (claspOf p s) = true → portLive p s = true → (claspOf p s).ctl = [] →
      (claspOf p s).replay.length < 2048 → .hold p (hops + 1) h ∈ (forwardHold port hops h s).fabric.out := by
  intro p hp hPort hUp hLive hCtl hRoom
  rw [forwardHold_fabric, if_pos hHops]
  exact floodHold_emits hp (mt Option.some.inj hPort) hUp hLive hCtl hRoom

/-! ### An event of a chip that R47 has stopped

Such a chip takes no part, so an event that it counts raises no hold; and no action of an event changes the device state. -/

/-- A chip that takes no part stands where `r` does: in the same device state, with the same holds known and forwarded (R47, R54). -/
structure StandsAs (r s : State) : Prop where
  unaligned : s.dev.unaligned = true
  lostTick : s.dev.lostTick = r.dev.lostTick
  state : s.dev.state = r.dev.state
  left : s.dev.left = r.dev.left
  known : s.frame.known = r.frame.known
  forwarded : s.frame.forwarded = r.frame.forwarded

theorem StandsAs.refl {s : State} (h : s.dev.unaligned = true) : StandsAs s s := ⟨h, rfl, rfl, rfl, rfl, rfl⟩

section
variable {r s t : State}

theorem StandsAs.of_eq (h : StandsAs r s) (hDev : t.dev = s.dev) (hFrame : t.frame = s.frame) : StandsAs r t :=
  ⟨hDev ▸ h.unaligned, hDev ▸ h.lostTick, hDev ▸ h.state, hDev ▸ h.left, hFrame ▸ h.known, hFrame ▸ h.forwarded⟩

theorem StandsAs.does {l : List Comp} (h : StandsAs r s) (hd : Does l s t) (hDev : Comp.dev ∉ l := by decide)
    (hFrame : Comp.frame ∉ l := by decide) : StandsAs r t :=
  h.of_eq (hd.dev_eq hDev) (hd.frame_eq hFrame)

theorem sendHold_of_unaligned (early : Bool) (h : s.dev.unaligned = true) : sendHold early s = s := by
  simp [sendHold, takesPart, h]

theorem raiseHold_of_unaligned (early : Bool) (h : s.dev.unaligned = true) : raiseHold early s = s := by
  simp [raiseHold, sendHold_of_unaligned early h]

theorem StandsAs.inDoubt (h : StandsAs r s) : StandsAs r (inDoubt s) := by
  unfold Machine.inDoubt
  split
  · have hDoubt : StandsAs r { s with frame := { s.frame with doubt := true } } := { h with }
    rwa [raiseHold_of_unaligned false hDoubt.unaligned]
  · exact h

theorem StandsAs.stopCell (i : Nat) (h : StandsAs r s) : StandsAs r (stopCell i s) := { h with }

theorem StandsAs.eventAction (l : Level) (unit action : Nat) (h : StandsAs r s) : StandsAs r (eventAction l unit action s) := by
  unfold Machine.eventAction
  split_ifs
  · exact (h.stopCell unit).inDoubt
  · exact h.inDoubt
  · exact h

theorem StandsAs.askRetrain (p : Nat) (h : StandsAs r s) : StandsAs r (askRetrain p s) := by
  unfold Machine.askRetrain
  split
  · exact { h with }
  · exact h.does (trainPort_does p s)

theorem StandsAs.severeAction (unit source : Nat) (forced : Bool) (action : Nat) (h : StandsAs r s) :
    StandsAs r (severeAction unit source forced action s) := by
  unfold Machine.severeAction
  split
  · extract_lets dev u
    have hStop : StandsAs r (Machine.stopCell unit u) := { h with }
    split
    · exact hStop.inDoubt
    · exact hStop
  · exact h.askRetrain _
  · exact h.does (retirePc_does _ _ _)
  · exact { h with }
  · exact { h with }
  · exact h

theorem StandsAs.severeNow (l : Level) (unit source : Nat) (forced : Bool) (action : Nat) (h : StandsAs r s) :
    StandsAs r (severeNow l unit source forced action s) := by
  unfold Machine.severeNow
  split
  · exact { h with }
  · exact h.severeAction unit source forced action

theorem StandsAs.countSimple (l : Level) (unit source : Nat) (forced early act : Bool) (h : StandsAs r s) :
    StandsAs r (countSimple l unit source forced early act s) := by
  unfold Machine.countSimple
  extract_lets f action latched t
  have hLatch : StandsAs r latched.1 := h.does (latchEvent_does l unit source forced early s)
  have hEvent : StandsAs r t := by
    unfold t
    split
    · exact hLatch.eventAction l unit action
    · exact hLatch
  split
  · exact hEvent.severeNow l unit source _ action
  · exact hEvent

theorem StandsAs.loseLane (p lane : Nat) (h : StandsAs r s) : StandsAs r (loseLane p lane s) := by
  unfold Machine.loseLane
  split
  · exact (h.does (removeLane_does p lane s)).countSimple .chip 0 (0x30 + p) false false true
  · exact h

theorem StandsAs.dropWorstLane (early : Bool) (p : Nat) (h : StandsAs r s) : StandsAs r (dropWorstLane early p s) := by
  unfold Machine.dropWorstLane
  extract_lets c old
  split
  · exact h
  · split
    · exact h.askRetrain p
    · exact h.loseLane p _

theorem StandsAs.dropNow (l : Level) (unit source action : Nat) (early : Bool) (h : StandsAs r s) :
    StandsAs r (dropNow l unit source action early s) := by
  unfold Machine.dropNow
  split
  · exact h.severeNow l unit source false action
  · exact h.dropWorstLane early (source - 0x10)

theorem StandsAs.standFault (l : Level) (unit source : Nat) (forced : Bool) (h : StandsAs r s) :
    StandsAs r (standFault l unit source forced s) := by
  unfold Machine.standFault
  split
  · exact { h with }
  · exact h

theorem StandsAs.countEvent (l : Level) (unit source : Nat) (h : StandsAs r s) : StandsAs r (countEvent l unit source s) := by
  have hLatch : StandsAs r (latchEvent l unit source false false s).1 := h.does (latchEvent_does l unit source false false s)
  unfold Machine.countEvent countEventWith
  dsimp only
  split_ifs
  · exact hLatch.dropNow l unit source _ false
  · exact hLatch
  · exact (h.standFault l unit source false).countSimple l unit source false false true

end

/-! ### HOLD_PACKET -/

theorem exec_holdPacket (port hops origin : Nat) (late : Bool) (frame : W64) (s : State) :
    exec (.holdPacket port hops origin late frame) s
      = effect (runHoldPacket port hops { origin := origin, frame := frame, late := late }) s := rfl

section
variable {port hops : Nat} {h : HoldRec} {s : State}

theorem runHoldPacket_of_idle
    (hIdle : claspUp (claspOf port s) = false ∨ portLive port s = false ∨ s.frame.forwarded.contains h = true) :
    runHoldPacket port hops h s = s := by
  unfold runHoldPacket
  rw [if_pos]
  rcases hIdle with hIdle | hIdle | hIdle <;> rw [hIdle] <;> simp

/-- What a chip makes of a hold that it has not forwarded before, on a link that carries data. -/
theorem runHoldPacket_of_new (hUp : claspUp (claspOf port s) = true) (hLive : portLive port s = true)
    (hNew : s.frame.forwarded.contains h = false) :
    runHoldPacket port hops h s
      = if !takesPart s || !coreRuns s then forwardHold port hops h s
        else if targetAhead h s then
          (if s.frame.known.contains h then forwardHold port hops h s
           else onFrame (fun f => { f with known := f.known ++ [h] }) (forwardHold port hops h s))
        else lateArrival h (forwardHold port hops h s) := by
  unfold runHoldPacket
  rw [if_neg (by rw [hUp, hLive, hNew]; simp)]
  rfl

theorem lateArrival_of_void (hVoid : s.frame.withheldAt = some (holdTarget h) ∨ holdVoid s h = true) : lateArrival h s = s := by
  unfold lateArrival
  rw [if_pos (by simpa using hVoid)]

/-- A hold whose target tick has passed counts an event and makes the chip unaligned; then the stop of a snapshot leaves HELD behind it, and a
frame of work ends in HELD (R47, R272). -/
theorem lateArrival_standing (hTick : s.frame.withheldAt ≠ some (holdTarget h)) (hVoid : holdVoid s h = false) :
    (lateArrival h s).frame.forwarded = s.frame.forwarded ∧ (lateArrival h s).frame.known = s.frame.known
    ∧ (lateArrival h s).dev.unaligned = true ∧ (lateArrival h s).dev.lostTick = true
    ∧ (s.dev.state = .snapshotting → (lateArrival h s).dev.state = .snapshotting ∧ (lateArrival h s).dev.left = some .held)
    ∧ (s.dev.state ≠ .snapshotting → (lateArrival h s).dev.state = (if inFrame s then .held else s.dev.state)) := by
  unfold lateArrival
  rw [if_neg (by simp [hTick, hVoid])]
  extract_lets s1
  have h1 : StandsAs (onDev (fun d => { d with unaligned := true, lostTick := true }) s) s1 :=
    (StandsAs.refl rfl).countEvent .chip 0 0
  by_cases hStop : s.dev.state = .snapshotting
  · rw [if_pos hStop]
    exact ⟨h1.forwarded, h1.known, h1.unaligned, h1.lostTick, fun _ => ⟨h1.state.trans hStop, rfl⟩, fun hNot => absurd hStop hNot⟩
  · rw [if_neg hStop]
    cases hFrame : inFrame s with
    | false => exact ⟨h1.forwarded, h1.known, h1.unaligned, h1.lostTick, fun hYes => absurd hYes hStop, fun _ => h1.state⟩
    | true =>
      simp only [onlyIf, if_true, setState_dev, (setState_does _ _).frame_eq]
      exact ⟨h1.forwarded, h1.known, h1.unaligned, h1.lostTick, fun hYes => absurd hYes hStop, fun _ => trivial⟩

theorem lateArrival_forwardHold_of_void (hVoid : s.frame.withheldAt = some (holdTarget h) ∨ holdVoid s h = true) :
    lateArrival h (forwardHold port hops h s) = forwardHold port hops h s :=
  lateArrival_of_void (by simpa [holdVoid] using hVoid)

/-- Sending a hold on does not end a frame of work. -/
theorem inFrame_forwardHold : inFrame (forwardHold port hops h s) = inFrame s := by
  simp [inFrame, proofRuns]

/-- A hold that a chip does not act on (R29, R45, R54). -/
theorem runHoldPacket_of_forward_only (hUp : claspUp (claspOf port s) = true) (hLive : portLive port s = true)
    (hNew : s.frame.forwarded.contains h = false)
    (hOnly : takesPart s = false ∨ coreRuns s = false
      ∨ (targetAhead h s = false ∧ (s.frame.withheldAt = some (holdTarget h) ∨ holdVoid s h = true))) :
    runHoldPacket port hops h s = forwardHold port hops h s := by
  rw [runHoldPacket_of_new hUp hLive hNew]
  rcases hOnly with hPart | hRuns | ⟨hAhead, hVoid⟩
  · simp [hPart]
  · simp [hRuns]
  · simp [hAhead, lateArrival_forwardHold_of_void hVoid]

end

/-! ### GROUP_TIMEOUT -/

theorem exec_groupTimeout (g : Nat) (s : State) : exec (.groupTimeout g) s = effect (onlyIf (coreRuns s) (runGroupTimeout g)) s := rfl

theorem groupAt_index {s : State} {g : Nat} {grp : Group} (h : groupAt s g = some grp) : grp.index = g := by
  simpa using List.find?_some h

/-- A stall ends the wait, the proof and the snapshot, and leaves the chip HELD (R298, R333, R334). -/
theorem stallGroup_outcome (grp : Group) (w : GWait) (s : State) :
    (stallGroup grp w s).fabric
        = { s.fabric with stalled := insertNat s.fabric.stalled grp.index, waits := SMap.del s.fabric.waits grp.index }
      ∧ (stallGroup grp w s).dev = { s.dev with state := .held }
      ∧ (stallGroup grp w s).step = { s.step with proof := none }
      ∧ (stallGroup grp w s).snap = { s.snap with run := none }
      ∧ (stallGroup grp w s).frame = { s.frame with stuck := false, retry := false, replaying := false } := by
  unfold stallGroup
  extract_lets s1 s2
  have hFinish : ∀ u, Does [.portA, .portB, .mbx] u (finishCmd 0x60 stGroupStalled 0 [] (finishCmd 0x63 stGroupStalled 0 [] u)) :=
    fun u => does_trans (finishCmd_does _ _ _ _ u) (finishCmd_does _ _ _ _ _)
  have hRecords : Does [.flash] _ s1 := stallRecords_does grp.index (unreachable w) _
  have hHeld : Does [.portA, .portB, .dev, .flash, .life] _ s2 := setState_does .held _
  refine ⟨?_, ?_, ?_, ?_, ?_⟩
  · exact (hFinish _).fabric_eq.trans (hHeld.fabric_eq.trans hRecords.fabric_eq)
  · refine (hFinish _).dev_eq.trans ((setState_dev .held _).trans ?_)
    rw [onFrame_dev, hRecords.dev_eq, onFabric_dev]
  · rw [(hFinish _).step_eq, onSnap_step, onStep_step, hHeld.step_eq, onFrame_step, hRecords.step_eq, onFabric_step]
  · rw [(hFinish _).snap_eq, onSnap_snap, onStep_snap, hHeld.snap_eq, onFrame_snap, hRecords.snap_eq, onFabric_snap]
  · rw [(hFinish _).frame_eq, onSnap_frame, onStep_frame, hHeld.frame_eq, onFrame_frame, hRecords.frame_eq, onFabric_frame]

theorem runGroupTimeout_of_due {s : State} {g : Nat} {grp : Group} {w : GWait} (hGroup : groupAt s g = some grp)
    (hWait : SMap.get? s.fabric.waits g = some w) (hDue : grp.timeout ≤ (s.tick.count - w.since).toNat) (hStall : mayStall s = true) :
    runGroupTimeout g s = stallGroup grp w s := by
  unfold runGroupTimeout
  rw [hGroup, hWait]
  exact if_pos (by rw [decide_eq_true hDue, hStall]; rfl)

theorem runGroupTimeout_of_not_due {s : State} {g : Nat}
    (h : groupAt s g = none ∨ SMap.get? s.fabric.waits g = none ∨ mayStall s = false
      ∨ ∃ grp w, groupAt s g = some grp ∧ SMap.get? s.fabric.waits g = some w ∧ (s.tick.count - w.since).toNat < grp.timeout) :
    runGroupTimeout g s = s := by
  unfold runGroupTimeout
  split
  next grp w hGroup hWait =>
    rw [if_neg]
    rcases h with h | h | h | ⟨grp', w', hGroup', hWait', hEarly⟩
    · simp [h] at hGroup
    · simp [h] at hWait
    · simp [h]
    · rw [hGroup] at hGroup'
      rw [hWait] at hWait'
      cases hGroup'
      cases hWait'
      simp only [Bool.and_eq_true, decide_eq_true_eq]
      omega
  · rfl

/-! ### The obligation -/

/-- Settles O33. A hold that comes to nothing leaves the state; any other goes on as `forwardHold` says, and then is known, ignored, or too
late. A wait that is due ends in `stallGroup`. -/
theorem holdsAndStalls : Obligations.HoldsAndStalls := by
  unfold Obligations.HoldsAndStalls completes
  refine ⟨fun s port hops origin late frame => ?_, fun s g grp w hRuns hGroup hWait hDue hState => ?_, fun s g hNot => ?_⟩
  · intro h keys forwards
    rw [exec_holdPacket]
    refine ⟨fun hIdle => effect_of_eq (runHoldPacket_of_idle hIdle), fun hUp hLive hNew => ?_⟩
    have hForwards : forwards (forwardHold port hops h s) :=
      ⟨by rw [forwardHold_frame]; rfl, forwardHold_fabric port hops h s, forwardHold_emits port h s⟩
    have hKnown : (forwardHold port hops h s).frame.known = s.frame.known := by rw [forwardHold_frame]
    have hDev : (forwardHold port hops h s).dev = s.dev := forwardHold_dev port hops h s
    have hRun := runHoldPacket_of_new (hops := hops) hUp hLive hNew
    refine ⟨fun hPart hRuns hAhead => ⟨_, rfl, ?_⟩, fun hOnly => ⟨_, rfl, ?_⟩, fun hPart hRuns hAhead hTick hVoid => ⟨_, rfl, ?_⟩⟩
    · simp only [hPart, hRuns, hAhead, Bool.not_true, Bool.or_self, Bool.false_eq_true, if_false, if_true] at hRun
      rw [hRun]
      split
      · exact ⟨hForwards, hKnown, hDev⟩
      · exact ⟨hForwards, congrArg (· ++ [h]) hKnown, hDev⟩
    · rw [runHoldPacket_of_forward_only hUp hLive hNew hOnly]
      exact ⟨hForwards, hKnown, hDev⟩
    · simp only [hPart, hRuns, hAhead, Bool.not_true, Bool.or_self, Bool.false_eq_true, if_false] at hRun
      rw [hRun]
      obtain ⟨hFwd, hKnows, hOut, hLost, hStop, hFrame⟩ := lateArrival_standing (h := h) (s := forwardHold port hops h s)
        (by simpa using hTick) (by simpa [holdVoid] using hVoid)
      rw [hDev] at hStop hFrame
      rw [inFrame_forwardHold] at hFrame
      exact ⟨hFwd.trans hForwards.1, hKnows.trans hKnown, hOut, hLost, hStop, hFrame⟩
  · obtain ⟨hFabric, hDev, hStep, hSnap, hFrame⟩ := stallGroup_outcome grp w s
    have hRun : onlyIf (coreRuns s) (runGroupTimeout g) s = stallGroup grp w s := by
      rw [onlyIf, if_pos hRuns, runGroupTimeout_of_due hGroup hWait hDue (by simpa [mayStall] using hState)]
    refine ⟨_, exec_groupTimeout g s, ?_⟩
    rw [hRun]
    dsimp only
    rw [hFabric, hDev, hStep, hSnap, hFrame, groupAt_index hGroup]
    exact ⟨mem_insertNat g _, rfl, get?_del_same g _, rfl, rfl, rfl⟩
  · rw [exec_groupTimeout]
    refine effect_of_eq ?_
    unfold onlyIf
    split
    next hRuns =>
      refine runGroupTimeout_of_not_due ?_
      rcases hNot with hStill | hGroup | hWait | hState | hEarly
      · rw [hStill] at hRuns; cases hRuns
      · exact .inl hGroup
      · exact .inr (.inl hWait)
      · exact .inr (.inr (.inl (by simpa [mayStall] using hState)))
      · exact .inr (.inr (.inr hEarly))
    next => rfl

end Sys2Proof.Machine
end

section
/-! PROOFS. Every command keeps the memories canonical and stays within its components: the obligations on the memories' canonical form and
on what a command leaves alone (R32, R33, R34, R177, R181, R270, R413). -/

namespace Sys2Proof.Machine
open Sys2Proof

/-! ### One vector instruction

An instruction reaches the components of its command. A repeat counts re-leads in the statistics (R162), and only an instruction whose command
reaches the statistics asks for one. -/

@[simp] theorem VRun.on_need (g : State → State) (x : VRun) : (x.on g).need = x.need := rfl

@[simp] theorem VRun.stop_need (x : VRun) : x.stop.need = x.need := rfl

theorem vStep_touches (delta : SMap Nat) (cell : Nat) (x : VRun) (op : VOp) (f : VFields) :
    Does (touches (vecCmd op cell f)) x.s (vStep delta cell x { op := op, f := f }).s := by
  unfold vStep
  split
  · exact does_refl _ _
  · cases op with
    | ld => exact does_mono (vLd_does cell f x) rfl
    | st => exact does_mono (vSt_does cell f x) rfl
    | ldg => exact does_mono (vLdg_does cell f x) rfl
    | add => exact does_mono (vAdd_does cell f x) rfl
    | sub => exact does_mono (vSub_does cell f x) rfl
    | mul => exact does_mono (vMul_does cell f x) rfl
    | fma => exact does_mono (vFma_does cell f x) rfl
    | max => exact does_mono (vMax_does cell f x) rfl
    | min => exact does_mono (vMin_does cell f x) rfl
    | abs => exact does_mono (vAbs_does cell f x) rfl
    | neg => exact does_mono (vNeg_does cell f x) rfl
    | sel => exact does_mono (vSel_does cell f x) rfl
    | cmplt => exact does_mono (vCmplt_does cell f x) rfl
    | cmple => exact does_mono (vCmple_does cell f x) rfl
    | cmpeq => exact does_mono (vCmpeq_does cell f x) rfl
    | mand => exact does_mono (vMand_does cell f x) rfl
    | mor => exact does_mono (vMor_does cell f x) rfl
    | mnot => exact does_mono (vMnot_does cell f x) rfl
    | exp2 => exact does_mono (vExp2_does cell f x) rfl
    | log2 => exact does_mono (vLog2_does cell f x) rfl
    | rcp => exact does_mono (vRcp_does cell f x) rfl
    | rsqrt => exact does_mono (vRsqrt_does cell f x) rfl
    | tanh => exact does_mono (vTanh_does cell f x) rfl
    | erf => exact does_mono (vErf_does cell f x) rfl
    | cvt => exact does_mono (vCvt_does cell f x) rfl
    | redsum => exact does_mono (vRedsum_does cell f x) rfl
    | redmax => exact does_mono (vRedmax_does cell f x) rfl
    | redmin => exact does_mono (vRedmin_does cell f x) rfl
    | scan => exact does_mono (vScan_does cell f x) rfl
    | azero => exact does_mono (vAzero_does delta cell f x) rfl
    | aadd => exact does_mono (vAadd_does delta cell f x) rfl
    | afold => exact does_mono (vAfold_does delta cell f x) rfl
    | around => exact does_mono (vAround_does delta cell f x) rfl
    | ascan => exact does_mono (vAscan_does delta cell f x) rfl
    | ald => exact does_mono (vAld_does delta cell f x) rfl
    | ast => exact does_mono (vAst_does delta cell f x) rfl
    | lig => exact does_mono (vLig_does delta cell f x) rfl
    | topkm => exact does_mono (vTopkm_does cell f x) rfl

/-- An instruction whose command leaves the statistics alone asks for no repeat. -/
theorem vStep_need_of_no_stats {delta : SMap Nat} {cell : Nat} {x : VRun} {op : VOp} {f : VFields}
    (h : Comp.stats ∉ touches (vecCmd op cell f)) : (vStep delta cell x { op := op, f := f }).need = x.need := by
  unfold vStep
  split
  · rfl
  · cases op with
    | ld | st | topkm => simp only [vLd, vSt, vTopkm]; split <;> rfl
    | ldg => simp only [vLdg]; split <;> rfl
    | aadd | afold | around | ascan | ald | ast | lig => exact absurd (by simp [vecCmd, touches]) h
    | _ => rfl

/-- The repeats of one instruction reach what the instruction reaches (R162). -/
theorem runProgram_single_touches (cell : Nat) (op : VOp) (f : VFields) (s : State) : ∀ (n : Nat) (delta : SMap Nat) (rel : List (Nat × Int))
    {t : State}, rel = [] ∨ Comp.stats ∈ touches (vecCmd op cell f) →
    runProgram cell [{ op := op, f := f }] s n delta rel = some t → Does (touches (vecCmd op cell f)) s t
  | 0, _, _, _, _, h => by cases h
  | n + 1, delta, rel, t, hRel, h => by
    have hStep : Does (touches (vecCmd op cell f)) s
        ([{ op := op, f := f }].foldl (vStep delta cell) { s := s, adj := [], need := [], ok := true }).s :=
      vStep_touches delta cell { s := s, adj := [], need := [], ok := true } op f
    have hNone : Comp.stats ∉ touches (vecCmd op cell f) →
        ([{ op := op, f := f }].foldl (vStep delta cell) { s := s, adj := [], need := [], ok := true }).need = [] := vStep_need_of_no_stats
    rw [runProgram] at h
    dsimp only at h
    split at h
    · cases h
    split at h
    · cases h
      rcases hRel with rfl | hStats
      · exact hStep
      · exact does_foldl (fun x r => does_mono (statOwn_does r.1 _ x) (by simpa [within] using hStats)) rel hStep
    next hNeed =>
      refine runProgram_single_touches cell op f s n _ _ (.inr ?_) h
      by_contra hStats
      exact hNeed (by rw [hNone hStats]; rfl)

/-- A vector instruction on its own reaches the components of its command. -/
theorem runOne_touches (op : VOp) (cell : Nat) (f : VFields) (s : State) : Does (touches (vecCmd op cell f)) s (runOne cell op f s) := by
  unfold runOne
  split
  · cases h : runVector cell [{ op := op, f := f }] s with
    | none => exact does_refl _ _
    | some t => exact runProgram_single_touches cell op f s _ _ _ (.inl rfl) h
  · exact does_refl _ _

/-! ### Every command -/

/-- A command's effect under a longer list of components. -/
theorem does_within {l m : List Comp} {s t : State} (h : Does l s t ∧ t.pending = s.pending) (hl : within l m = true := by rfl) :
    Does m s t ∧ t.pending = s.pending := ⟨does_mono h.1 hl, h.2⟩

/-- What a command answers is the one state that its lemma names. -/
theorem does_of_answer {l m : List Comp} {s t : State} {o : Host.Outcome State Fault Refusal}
    (h : ∃ u, o = .next u ∧ Does l s u ∧ u.pending = s.pending) (ho : o = .next t) (hl : within l m = true := by rfl) :
    Does m s t ∧ t.pending = s.pending := by
  obtain ⟨u, hu, hDoes⟩ := h
  cases hu.symm.trans ho
  exact does_within hDoes hl

/-- Every command changes only its components, keeps the memories canonical, and leaves the queue alone: its own lemma says so, command by
command. -/
theorem exec_does (c : Instr) {s t : State} (ho : exec c s = .next t) : Does (touches c) s t ∧ t.pending = s.pending := by
  cases c with
  | tick => exact does_of_answer (execTick_does s) ho
  | cellStart cell => exact does_of_answer (execCellStart_does cell s) ho
  | holdDeadline => exact does_of_answer (execHoldDeadline_does s) ho
  | lockUp => exact does_of_answer (execLockUp_does s) ho
  | stuckForme => exact does_of_answer (execStuckForme_does s) ho
  | unaligned => exact does_of_answer (execUnaligned_does s) ho
  | realigned => exact does_of_answer (execRealigned_does s) ho
  | heartbeat region => exact does_of_answer (execHeartbeat_does region s) ho
  | regionLost region => exact does_of_answer (execRegionLost_does region s) ho
  | compositorHeartbeatLoss => exact does_of_answer (execCompositorHeartbeatLoss_does s) ho
  | formeItemStart cell pos wait => exact does_of_answer (execFormeItemStart_does cell pos wait s) ho
  | pass cell d mismatches => exact does_of_answer (execPass_does cell d mismatches s) ho
  | weightSwap cell => exact does_of_answer (execWeightSwap_does cell s) ho
  | drain cell d => exact does_of_answer (execDrain_does cell d s) ho
  | galleySlotFree cell => exact does_of_answer (execGalleySlotFree_does cell s) ho
  | droopTrip block => exact does_of_answer (execDroopTrip_does block s) ho
  | droopRestoreStep block => exact does_of_answer (execDroopRestoreStep_does block s) ho
  | vectorItem cell prog => exact does_of_answer (execVectorItem_does cell prog s) ho
  | ld cell f => exact does_effect (runOne_touches .ld cell f s) t ho
  | st cell f => exact does_effect (runOne_touches .st cell f s) t ho
  | ldg cell f => exact does_effect (runOne_touches .ldg cell f s) t ho
  | add cell f => exact does_effect (runOne_touches .add cell f s) t ho
  | sub cell f => exact does_effect (runOne_touches .sub cell f s) t ho
  | mul cell f => exact does_effect (runOne_touches .mul cell f s) t ho
  | fma cell f => exact does_effect (runOne_touches .fma cell f s) t ho
  | max cell f => exact does_effect (runOne_touches .max cell f s) t ho
  | min cell f => exact does_effect (runOne_touches .min cell f s) t ho
  | abs cell f => exact does_effect (runOne_touches .abs cell f s) t ho
  | neg cell f => exact does_effect (runOne_touches .neg cell f s) t ho
  | sel cell f => exact does_effect (runOne_touches .sel cell f s) t ho
  | cmplt cell f => exact does_effect (runOne_touches .cmplt cell f s) t ho
  | cmple cell f => exact does_effect (runOne_touches .cmple cell f s) t ho
  | cmpeq cell f => exact does_effect (runOne_touches .cmpeq cell f s) t ho
  | mand cell f => exact does_effect (runOne_touches .mand cell f s) t ho
  | mor cell f => exact does_effect (runOne_touches .mor cell f s) t ho
  | mnot cell f => exact does_effect (runOne_touches .mnot cell f s) t ho
  | exp2 cell f => exact does_effect (runOne_touches .exp2 cell f s) t ho
  | log2 cell f => exact does_effect (runOne_touches .log2 cell f s) t ho
  | rcp cell f => exact does_effect (runOne_touches .rcp cell f s) t ho
  | rsqrt cell f => exact does_effect (runOne_touches .rsqrt cell f s) t ho
  | tanh cell f => exact does_effect (runOne_touches .tanh cell f s) t ho
  | erf cell f => exact does_effect (runOne_touches .erf cell f s) t ho
  | cvt cell f => exact does_effect (runOne_touches .cvt cell f s) t ho
  | redsum cell f => exact does_effect (runOne_touches .redsum cell f s) t ho
  | redmax cell f => exact does_effect (runOne_touches .redmax cell f s) t ho
  | redmin cell f => exact does_effect (runOne_touches .redmin cell f s) t ho
  | scan cell f => exact does_effect (runOne_touches .scan cell f s) t ho
  | azero cell f => exact does_effect (runOne_touches .azero cell f s) t ho
  | aadd cell f => exact does_effect (runOne_touches .aadd cell f s) t ho
  | afold cell f => exact does_effect (runOne_touches .afold cell f s) t ho
  | around cell f => exact does_effect (runOne_touches .around cell f s) t ho
  | ascan cell f => exact does_effect (runOne_touches .ascan cell f s) t ho
  | ald cell f => exact does_effect (runOne_touches .ald cell f s) t ho
  | ast cell f => exact does_effect (runOne_touches .ast cell f s) t ho
  | lig cell f => exact does_effect (runOne_touches .lig cell f s) t ho
  | topkm cell f => exact does_effect (runOne_touches .topkm cell f s) t ho
  | transfer cell d => exact does_of_answer (execTransfer_does cell d s) ho
  | bezelSlotGrant unit waiting reads => exact does_of_answer (execBezelSlotGrant_does unit waiting reads s) ho
  | copy iss d => exact does_of_answer (execCopy_does iss d s) ho
  | reblock iss d => exact does_of_answer (execReblock_does iss d s) ho
  | transpose iss d => exact does_of_answer (execTranspose_does iss d s) ho
  | quantize iss d => exact does_of_answer (execQuantize_does iss d s) ho
  | dequantize iss d => exact does_of_answer (execDequantize_does iss d s) ho
  | mxImport iss d => exact does_of_answer (execMxImport_does iss d s) ho
  | mxExport iss d => exact does_of_answer (execMxExport_does iss d s) ho
  | reduceInit iss d => exact does_of_answer (execReduceInit_does iss d s) ho
  | reduceAdd iss d => exact does_of_answer (execReduceAdd_does iss d s) ho
  | reduceClose iss d => exact does_of_answer (execReduceClose_does iss d s) ho
  | update unit entry tileFirst tileCount => exact does_of_answer (execUpdate_does unit entry tileFirst tileCount s) ho
  | snapshotCopy unit offset length => exact does_of_answer (execSnapshotCopy_does unit offset length s) ho
  | sequencerTimeout cell => exact does_of_answer (execSequencerTimeout_does cell s) ho
  | arbiterTimeout block => exact does_of_answer (execArbiterTimeout_does block s) ho
  | scrub unit reads => exact does_of_answer (execScrub_does unit reads s) ho
  | migration unit page => exact does_of_answer (execMigration_does unit page s) ho
  | pcRetirementDone stack pc => exact does_of_answer (execPcRetirementDone_does stack pc s) ho
  | decision lossAt others => exact does_of_answer (execDecision_does lossAt others s) ho
  | writePacket port h payload => exact does_of_answer (execWritePacket_does port h payload s) ho
  | reduceWritePacket port h payload => exact does_of_answer (execReduceWritePacket_does port h payload s) ho
  | longPartialPacket port h payload => exact does_of_answer (execLongPartialPacket_does port h payload s) ho
  | snapshotTransferPacket port h offset payload => exact does_of_answer (execSnapshotTransferPacket_does port h offset payload s) ho
  | tickMarker port sender domainTick offsetPs => exact does_of_answer (execTickMarker_does port sender domainTick offsetPs s) ho
  | holdPacket port hops origin late frame => exact does_of_answer (execHoldPacket_does port hops origin late frame s) ho
  | credit port freed => exact does_of_answer (execCredit_does port freed s) ho
  | deliveryCredit port dst src frame packets => exact does_of_answer (execDeliveryCredit_does port dst src frame packets s) ho
  | flitReceived port flit fecBad fecWord => exact does_of_answer (execFlitReceived_does port flit fecBad fecWord s) ho
  | laneLoss port lane => exact does_of_answer (execLaneLoss_does port lane s) ho
  | linkDown port => exact does_of_answer (execLinkDown_does port s) ho
  | linkTrainingDone port r => exact does_of_answer (execLinkTrainingDone_does port r s) ho
  | linkRetry port => exact does_of_answer (execLinkRetry_does port s) ho
  | groupTimeout group => exact does_of_answer (execGroupTimeout_does group s) ho
  | spareLoad cell => exact does_of_answer (execSpareLoad_does cell s) ho
  | reimposition what => exact does_of_answer (execReimposition_does what s) ho
  | reimpositionTimeout => exact does_of_answer (execReimpositionTimeout_does s) ho
  | faultEvent level unit source early => exact does_of_answer (execFaultEvent_does level unit source early s) ho
  | faultWindowStart level unit source => exact does_of_answer (execFaultWindowStart_does level unit source s) ho
  | controlStep x => exact does_of_answer (execControlStep_does x s) ho
  | thermalEmergencyEnd => exact does_of_answer (execThermalEmergencyEnd_does s) ho
  | pointDecision => exact does_of_answer (execPointDecision_does s) ho
  | powerSample x => exact does_of_answer (execPowerSample_does x s) ho
  | regulatorFaultEnd reg => exact does_of_answer (execRegulatorFaultEnd_does reg s) ho
  | divergenceFallback => exact does_of_answer (execDivergenceFallback_does s) ho
  | divergenceFallbackEnd => exact does_of_answer (execDivergenceFallbackEnd_does s) ho
  | guardBandEnd => exact does_of_answer (execGuardBandEnd_does s) ho
  | averagingWindowEnd => exact does_of_answer (execAveragingWindowEnd_does s) ho
  | steadyWindowEnd => exact does_of_answer (execSteadyWindowEnd_does s) ho
  | sensorLost region spot which => exact does_of_answer (execSensorLost_does region spot which s) ho
  | sensorRestored region spot which => exact does_of_answer (execSensorRestored_does region spot which s) ho
  | sensorDisagreement region spot => exact does_of_answer (execSensorDisagreement_does region spot s) ho
  | firmwareAbsentFallback => exact does_of_answer (execFirmwareAbsentFallback_does s) ho
  | thermalTrip region spot => exact does_of_answer (execThermalTrip_does region spot s) ho
  | pllLossOfLock pll => exact does_of_answer (execPllLossOfLock_does pll s) ho
  | pwrgdFall group => exact does_of_answer (execPwrgdFall_does group s) ho
  | ioRailFall => exact does_of_answer (execIoRailFall_does s) ho
  | powerOn => exact does_of_answer (execPowerOn_does s) ho
  | perst p asserted => exact does_of_answer (execPerst_does p asserted s) ho
  | bothPerst => exact does_of_answer (execBothPerst_does s) ho
  | functionLevelReset p => exact does_of_answer (execFunctionLevelReset_does p s) ho
  | pcieLinkDown p => exact does_of_answer (execPcieLinkDown_does p s) ho
  | powerStateChange p d3hot => exact does_of_answer (execPowerStateChange_does p d3hot s) ho
  | busMasterEnable p on => exact does_of_answer (execBusMasterEnable_does p on s) ho
  | coreReset => exact does_of_answer (execCoreReset_does s) ho
  | startUp r => exact does_of_answer (execStartUp_does r s) ho
  | startupError pwrgd => exact does_of_answer (execStartupError_does pwrgd s) ho
  | readyReached => exact does_of_answer (execReadyReached_does s) ho
  | leaseExpiry => exact does_of_answer (execLeaseExpiry_does s) ho
  | mbxStateWrite p slot value => exact does_of_answer (execMbxStateWrite_does p slot value s) ho
  | mbxRingCtrlWrite p value => exact does_of_answer (execMbxRingCtrlWrite_does p value s) ho
  | mbxRingConsumedWrite p value => exact does_of_answer (execMbxRingConsumedWrite_does p value s) ho
  | completionRecordWrite p => exact does_of_answer (execCompletionRecordWrite_does p s) ho
  | devStickyWrite p value => exact does_of_answer (execDevStickyWrite_does p value s) ho
  | tickCountRead p size => exact does_within (execTickCountRead_does p size s t ho)
  | registerWrite p offset size value => exact does_within (execRegisterWrite_does p offset size value s t ho)
  | bar2Read p offset length reads => exact does_within (execBar2Read_does p offset length reads s t ho)
  | bar2Write p offset w => exact does_within (execBar2Write_does p offset w s t ho)
  | bar4Access p offset stopped => exact does_within (execBar4Access_does p offset stopped s t ho)
  | hostTransferResume binding => exact does_of_answer (execHostTransferResume_does binding s) ho
  | identify => exact does_of_answer (execIdentify_does s) ho
  | status => exact does_of_answer (execStatus_does s) ho
  | claimControl => exact does_of_answer (execClaimControl_does s) ho
  | renewLease => exact does_of_answer (execRenewLease_does s) ho
  | releaseControl => exact does_of_answer (execReleaseControl_does s) ho
  | reset => exact does_of_answer (execReset_does s) ho
  | setTime => exact does_of_answer (execSetTime_does s) ho
  | setEnvironment => exact does_of_answer (execSetEnvironment_does s) ho
  | setPowerBudget => exact does_of_answer (execSetPowerBudget_does s) ho
  | setOperatingPoints => exact does_of_answer (execSetOperatingPoints_does s) ho
  | setFabricAddress => exact does_of_answer (execSetFabricAddress_does s) ho
  | loadRoutes data => exact does_of_answer (execLoadRoutes_does data s) ho
  | loadGroups data => exact does_of_answer (execLoadGroups_does data s) ho
  | portControl => exact does_of_answer (execPortControl_does s) ho
  | setTickDomain => exact does_of_answer (execSetTickDomain_does s) ho
  | loadImposition data => exact does_of_answer (execLoadImposition_does data s) ho
  | imageLoadDone => exact does_of_answer (execImageLoadDone_does s) ho
  | unload => exact does_of_answer (execUnload_does s) ho
  | bindHostBuffers => exact does_of_answer (execBindHostBuffers_does s) ho
  | runSteps => exact does_of_answer (execRunSteps_does s) ho
  | submitBatch data => exact does_of_answer (execSubmitBatch_does data s) ho
  | hold => exact does_of_answer (execHold_does s) ho
  | resume => exact does_of_answer (execResume_does s) ho
  | snapshot => exact does_of_answer (execSnapshot_does s) ho
  | snapshotStop => exact does_of_answer (execSnapshotStop_does s) ho
  | snapshotStopEnd => exact does_of_answer (execSnapshotStopEnd_does s) ho
  | snapshotAbort => exact does_of_answer (execSnapshotAbort_does s) ho
  | proofRecordWrite acked => exact does_of_answer (execProofRecordWrite_does acked s) ho
  | setPartners => exact does_of_answer (execSetPartners_does s) ho
  | restore => exact does_of_answer (execRestore_does s) ho
  | restoreDone data => exact does_of_answer (execRestoreDone_does data s) ho
  | proof => exact does_of_answer (execProof_does s) ho
  | exportSnapshot => exact does_of_answer (execExportSnapshot_does s) ho
  | faultRead => exact does_of_answer (execFaultRead_does s) ho
  | faultConfig => exact does_of_answer (execFaultConfig_does s) ho
  | faultForce => exact does_of_answer (execFaultForce_does s) ho
  | unfence => exact does_of_answer (execUnfence_does s) ho
  | eventRead => exact does_of_answer (execEventRead_does s) ho
  | lifetimeRead => exact does_of_answer (execLifetimeRead_does s) ho
  | statsRead => exact does_of_answer (execStatsRead_does s) ho
  | loupe => exact does_of_answer (execLoupe_does s) ho
  | referenceMode => exact does_of_answer (execReferenceMode_does s) ho
  | firmwareStage data => exact does_of_answer (execFirmwareStage_does data s) ho
  | firmwareActivate => exact does_of_answer (execFirmwareActivate_does s) ho
  | getVersion p => exact does_of_answer (execGetVersion_does p s) ho
  | getCapabilities p => exact does_of_answer (execGetCapabilities_does p s) ho
  | negotiateAlgorithms p hash extAsym => exact does_of_answer (execNegotiateAlgorithms_does p hash extAsym s) ho
  | getDigests p => exact does_of_answer (execGetDigests_does p s) ho
  | getCertificate p slot offset length => exact does_of_answer (execGetCertificate_does p slot offset length s) ho
  | challenge p slot nonce => exact does_of_answer (execChallenge_does p slot nonce s) ho
  | getMeasurements p sel signed nonce => exact does_of_answer (execGetMeasurements_does p sel signed nonce s) ho
  | unsupportedRequest p code => exact does_of_answer (execUnsupportedRequest_does p code s) ho
  | doeDiscovery p index => exact does_of_answer (execDoeDiscovery_does p index s) ho
  | doeAbort p => exact does_of_answer (execDoeAbort_does p s) ho
  | eventRecordWrite => exact does_of_answer (execEventRecordWrite_does s) ho
  | lifetimeWrite => exact does_of_answer (execLifetimeWrite_does s) ho
  | unknownOpcode => exact does_of_answer (execUnknownOpcode_does s) ho
  | pcieLinkUp p width rate => exact does_of_answer (execPcieLinkUp_does p width rate s) ho
  | restoreRequest requester identity generation mapped => exact does_of_answer (execRestoreRequest_does requester identity generation mapped s) ho
  | unloadDone => exact does_of_answer (execUnloadDone_does s) ho
  | firmwareStageDone => exact does_of_answer (execFirmwareStageDone_does s) ho
  | loupeRunDone => exact does_of_answer (execLoupeRunDone_does s) ho
  | hostBufferDeliveryDone p => exact does_of_answer (execHostBufferDeliveryDone_does p s) ho
  | voltageSlewEnd => exact does_of_answer (execVoltageSlewEnd_does s) ho
  | hbmRetrainingDone stack => exact does_of_answer (execHbmRetrainingDone_does stack s) ho

/-! ### The obligations -/

/-- Settles O4. The components come from `exec_does`. -/
theorem commandsTouchOnlyTheirComponents : Obligations.CommandsTouchOnlyTheirComponents :=
  fun c _ _ h => (exec_does c h).1.only

/-- Settles O3. An empty queue idles; else the front command runs on the same memories, and `exec_does` keeps them canonical. -/
theorem stepKeepsMemoriesCanonical : Obligations.StepKeepsMemoriesCanonical := by
  intro s t hOk hStep
  unfold step at hStep
  split at hStep
  · cases hStep
    exact hOk
  next c rest hQueue =>
    have hTaken : MemoryOk { s with pending := rest } := ⟨hOk.cases, hOk.hbm, hOk.host⟩
    exact (exec_does c hStep).1.keeps hTaken

end Sys2Proof.Machine
end

section
/-! PROOFS. How a follower aligns and corrects its frame, and what heartbeats and their absence do: the obligation on alignment and
heartbeats (R28, R29, R52, R54, R407). -/

namespace Sys2Proof.Machine
open Sys2Proof

/-! ### A command under a guard -/

theorem effect_onlyIf_of_true {c : Bool} {f : State → State} {s : State} (h : c = true) : effect (onlyIf c f) s = effect f s := by
  simp [effect, onlyIf, h]

theorem effect_onlyIf_of_false {c : Bool} {f : State → State} {s : State} (h : c = false) : effect (onlyIf c f) s = .next s :=
  effect_of_eq (by simp [onlyIf, h])

/-! ### Alignment of a follower (R52, R54) -/

theorem exec_unaligned (s : State) : exec .unaligned s =
    effect (onlyIf (coreRuns s && !s.tick.source && s.tick.aligned && (decide (8 ≤ s.tick.offBad) || decide (8 ≤ s.tick.markerGap)))
      (onTick fun t => { t with realign := some false })) s := rfl

theorem exec_realigned (s : State) : exec .realigned s =
    effect (onlyIf (coreRuns s && !s.tick.source && !s.tick.aligned && decide (64 ≤ s.tick.offGood))
      (onTick fun t => { t with realign := some true })) s := rfl

/-- Bad offsets, or missing markers, in a row are the premise of UNALIGNED. -/
theorem unaligned_due_iff (t : TickSt) :
    (decide (8 ≤ t.offBad) || decide (8 ≤ t.markerGap)) = true ↔ 8 ≤ t.offBad ∨ 8 ≤ t.markerGap := by simp

theorem exec_tickMarker (port sender : Nat) (d : W64) (off : Int) (s : State) :
    exec (.tickMarker port sender d off) s = effect (runMarker port d off) s := rfl

/-- A marker from the upstream port is heard, and corrects the next frame against its offset (R52). -/
theorem runMarker_of_upstream {s : State} {port : Nat} (d : W64) (off : Int) (hFollower : s.tick.source = false) (hPort : s.tick.upstream = port)
    (hUp : claspUp (claspOf port s) = true) (hLive : portLive port s = true) :
    runMarker port d off s = onTick (fun t => { t with
      markerSeen := true, markerTick := d, offsetPs := off, corrPs := clampI (-4000) 4000 (-off) }) s := by
  simp [runMarker, hFollower, hPort, hUp, hLive]

theorem runMarker_of_unheard {s : State} {port : Nat} (d : W64) (off : Int)
    (h : s.tick.source = true ∨ s.tick.upstream ≠ port ∨ claspUp (claspOf port s) = false ∨ portLive port s = false) :
    runMarker port d off s = s := by
  unfold runMarker
  rw [if_pos]
  rcases h with h | h | h | h
  · simp [h]
  · simp [h.symm]
  · simp [h]
  · simp [h]

theorem clampI_bounds {lo hi : Int} (h : lo ≤ hi) (x : Int) : lo ≤ clampI lo hi x ∧ clampI lo hi x ≤ hi := by
  unfold clampI
  split_ifs <;> omega

theorem clampI_of_within {lo hi x : Int} (hLo : lo ≤ x) (hHi : x ≤ hi) : clampI lo hi x = x := by
  unfold clampI
  rw [if_neg (by omega), if_neg (by omega)]

/-! ### Heartbeats (R28, R29) -/

theorem exec_heartbeat (r : Nat) (s : State) : exec (.heartbeat r) s =
    effect (onlyIf (collectorsRun s && !s.clocks.stopped.contains r) (onClocks fun c => { c with silent := setAt c.silent r 0 })) s := rfl

theorem exec_regionLost (r : Nat) (s : State) : exec (.regionLost r) s =
    effect (onlyIf (collectorsRun s && decide (1 ≤ r ∧ r ≤ 3) && !s.clocks.lost.contains r && decide (16 ≤ s.clocks.silent.getD r 0)
      && s.dev.state != .booting) fun s => askRetire (loseRegion r s)) s := rfl

theorem exec_compositorHeartbeatLoss (s : State) : exec .compositorHeartbeatLoss s =
    effect (onlyIf (s.clocks.beatArmed && s.dev.state != .thermalOff) (setState .failed)) s := rfl

theorem getD_setAt_same {β : Type} (v d : β) : ∀ {l : List β} {n : Nat}, n < l.length → (setAt l n v).getD n d = v
  | _ :: _, 0, _ => rfl
  | _ :: xs, _ + 1, h => getD_setAt_same v d (l := xs) (Nat.lt_of_succ_lt_succ h)

theorem loseRegion_clocks (r : Nat) (s : State) :
    (loseRegion r s).clocks = { s.clocks with lost := insertNat s.clocks.lost r, stopped := insertNat s.clocks.stopped r } := by
  unfold loseRegion
  rw [(recordEvent_does _ _ _).clocks_eq, onClocks_clocks]

/-- The low four bits of DEV_STATE are the code of the state (R258). -/
theorem devStateWord_mod_16 (s : State) : devStateWord s % 16 = stateCode s.dev.state := by
  have hCode : stateCode s.dev.state < 16 := by cases s.dev.state <;> decide
  have hBit : ∀ (b : Bool) (i : Nat), 4 ≤ i → bitAt b i % 16 = 0 := fun b i hi => by
    obtain ⟨k, rfl⟩ := Nat.exists_eq_add_of_le hi
    cases b
    · rfl
    · simp [bitAt, p2_eq, Nat.pow_add, Nat.mul_mod_right]
  have h4 := hBit s.dev.unaligned 4 (by decide)
  have h5 := hBit s.dev.stalled 5 (by decide)
  have h6 := hBit s.dev.uncontrolled 6 (by decide)
  have h7 := hBit s.dev.reimposing 7 (by decide)
  have h16 : p2 16 = 65536 := by decide
  unfold devStateWord
  rw [h16]
  omega

/-! ### The obligation -/

/-- Settles O10. Where its guard holds each command is the one update it names; where the guard fails it is the state as it was. -/
theorem alignmentAndHeartbeats : Obligations.AlignmentAndHeartbeats := by
  unfold Obligations.AlignmentAndHeartbeats
  refine ⟨⟨?_, ?_, ?_, ?_, ?_, ?_⟩, ?_, ?_, ?_, ?_, ?_, ?_⟩
  · intro s hRuns hFollower hAligned hBad
    rw [exec_unaligned, effect_onlyIf_of_true (by rw [(unaligned_due_iff s.tick).mpr hBad]; simp [hRuns, hFollower, hAligned])]
    rfl
  · intro s hRuns hFollower hAligned hGood
    rw [exec_realigned, effect_onlyIf_of_true (by simp [hRuns, hFollower, hAligned, hGood])]
    rfl
  · intro s port sender d off hFollower hPort hUp hLive
    refine ⟨_, exec_tickMarker port sender d off s, ?_⟩
    rw [runMarker_of_upstream d off hFollower hPort hUp hLive]
    obtain ⟨hLo, hHi⟩ := clampI_bounds (lo := -4000) (hi := 4000) (by decide) (-off)
    exact ⟨rfl, rfl, rfl, hLo, hHi, fun hSmall => clampI_of_within (by omega) (by omega)⟩
  · intro s port sender d off hUnheard
    rw [exec_tickMarker]
    exact effect_of_eq (runMarker_of_unheard d off hUnheard)
  · intro s hNot
    rw [exec_unaligned, effect_onlyIf_of_false]
    rcases hNot with h | h | ⟨hOff, hGap⟩
    · simp [h]
    · simp [h]
    · simp [Nat.not_le.mpr hOff, Nat.not_le.mpr hGap]
  · intro s hNot
    rw [exec_realigned, effect_onlyIf_of_false]
    rcases hNot with h | h | h
    · simp [h]
    · simp [h]
    · simp [Nat.not_le.mpr h]
  · intro s r hRuns hClock hRegion
    refine ⟨_, (exec_heartbeat r s).trans (effect_onlyIf_of_true (by rw [hRuns, hClock]; rfl)), ?_⟩
    exact getD_setAt_same 0 1 hRegion
  · intro s r hRuns hLow hHigh hLost hSilent hState
    refine ⟨_, (exec_regionLost r s).trans (effect_onlyIf_of_true ?_), ?_, rfl⟩
    · rw [hRuns, decide_eq_true (And.intro hLow hHigh), hLost, decide_eq_true hSilent]
      simp [hState]
    · exact congrArg ClockSt.lost (((askRetire_does _).clocks_eq).trans (loseRegion_clocks r s))
  · intro s hArmed hState
    have hFailed : (setState .failed s).dev.state = .failed := by rw [setState_dev]
    refine ⟨_, (exec_compositorHeartbeatLoss s).trans (effect_onlyIf_of_true (by simp [hArmed, hState])), hFailed, ?_⟩
    rw [devStateWord_mod_16]
    exact congrArg stateCode hFailed
  · intro s r hNot
    rw [exec_heartbeat, effect_onlyIf_of_false]
    rcases hNot with h | h
    · rw [h, Bool.false_and]
    · rw [h, Bool.not_true, Bool.and_false]
  · intro s r hEarly
    rw [exec_regionLost, effect_onlyIf_of_false]
    rw [decide_eq_false (Nat.not_le.mpr hEarly), Bool.and_false, Bool.false_and]
  · intro s hNot
    rw [exec_compositorHeartbeatLoss, effect_onlyIf_of_false]
    rcases hNot with h | h
    · simp [h]
    · simp [h]

end Sys2Proof.Machine
end

section
/-! PROOFS. The positions of a frame, and the holds of a chip that is late: the obligation on frame positions and late holds (R38, R39, R41,
R42, R46, R48, R117, R148, R171). -/

namespace Sys2Proof.Machine
open Sys2Proof

/-! ### What raising a hold makes of the frame (R39, R41)

A hold joins the frame's own record of holds, a late chip is marked late, and the position of the frame stays. -/

theorem sendHold_frame (early : Bool) (s : State) : (sendHold early s).frame = { s.frame with
    known := (sendHold early s).frame.known
    forwarded := (sendHold early s).frame.forwarded
    ownLate := (sendHold early s).frame.ownLate
    ownEarly := (sendHold early s).frame.ownEarly } := by
  unfold sendHold
  split
  · rfl
  extract_lets h
  split
  · rfl
  · rw [(floodHold_does _ _ _ _).frame_eq]

theorem raiseHold_frame (early : Bool) (s : State) : (raiseHold early s).frame = { s.frame with
    known := (raiseHold early s).frame.known
    forwarded := (raiseHold early s).frame.forwarded
    ownLate := (raiseHold early s).frame.ownLate
    ownEarly := (raiseHold early s).frame.ownEarly } := by
  unfold raiseHold
  split
  · rfl
  · exact sendHold_frame early s

/-- The chip is late (R39), and raises a hold unless one for the closing tick that R45 does not void is known (R46). -/
theorem chipLate_eq (early : Bool) (s : State) : chipLate early s =
    if s.frame.known.any (fun h => holdTarget h == s.tick.domain + 1 && !holdVoid s h) then onFrame (fun f => { f with late := true }) s
    else raiseHold early (onFrame (fun f => { f with late := true }) s) := rfl

theorem chipLate_frame (early : Bool) (s : State) : (chipLate early s).frame = { s.frame with
    late := true
    known := (chipLate early s).frame.known
    forwarded := (chipLate early s).frame.forwarded
    ownLate := (chipLate early s).frame.ownLate
    ownEarly := (chipLate early s).frame.ownEarly } := by
  rw [chipLate_eq]
  split
  · rfl
  · exact raiseHold_frame early _

theorem chipLate_late (early : Bool) (s : State) : (chipLate early s).frame.late = true :=
  congrArg FrameSt.late (chipLate_frame early s)

theorem chipLate_pastDeadline (early : Bool) (s : State) : (chipLate early s).frame.pastDeadline = s.frame.pastDeadline := by
  rw [chipLate_frame]

theorem chipLate_lockUp (early : Bool) (s : State) : (chipLate early s).frame.lockUp = s.frame.lockUp := by
  rw [chipLate_frame]

/-- A chip that takes part and knows no hold raises its own on every port of the usable set (R41, R42). -/
theorem chipLate_raises {early : Bool} {s : State} {h : HoldRec} (hPart : takesPart s = true) (hRun : s.frame.replaying = false)
    (hNone : s.frame.known = [])
    (hHold : h = { origin := s.dev.fabric, frame := s.tick.domain, late := s.frame.pastDeadline && !early }) :
    (chipLate early s).fabric = (floodHold none 0 h s).fabric
      ∧ (chipLate early s).frame = { s.frame with
          late := true
          known := [h]
          forwarded := s.frame.forwarded ++ [h]
          ownLate := if h.late then some h.frame else s.frame.ownLate
          ownEarly := s.frame.ownEarly || !h.late } := by
  have hLate : chipLate early s = floodHold none 0 h (onFrame (fun f => { f with
      late := true
      known := f.known ++ [h]
      forwarded := f.forwarded ++ [h]
      ownLate := if h.late then some h.frame else f.ownLate
      ownEarly := f.ownEarly || !h.late }) s) := by
    have hPart1 : takesPart (onFrame (fun f => { f with late := true }) s) = true := hPart
    rw [chipLate_eq, if_neg (by simp [hNone])]
    unfold raiseHold sendHold
    rw [if_neg (by simp [hRun]), if_neg (by simp [hPart1]), if_neg (by simp [hNone]), hHold]
    rfl
  rw [hLate, floodHold_onFrame, onFrame_fabric, onFrame_frame, (floodHold_does _ _ _ _).frame_eq, hNone]
  exact ⟨rfl, rfl⟩

/-- A hold for the closing tick is known, so a late chip raises no other (R46). -/
theorem chipLate_of_early_known {s : State} {h : HoldRec} (hKnown : s.frame.known = [h]) (hEarly : h.late = false)
    (hFrame : h.frame = s.tick.domain) : chipLate false s = onFrame (fun f => { f with late := true }) s := by
  rw [chipLate_eq]
  exact if_pos (by simp [hKnown, holdTarget, holdVoid, hEarly, hFrame])

/-! ### The hold deadline (R37, R39, R41, R333) -/

theorem exec_holdDeadline (s : State) : exec .holdDeadline s = effect (onlyIf (coreRuns s && !s.frame.pastDeadline) atDeadline) s := rfl

theorem exec_holdDeadline_of_due {s : State} (hRuns : coreRuns s = true) (hBefore : s.frame.pastDeadline = false) :
    exec .holdDeadline s = effect atDeadline s := by
  rw [exec_holdDeadline, effect_onlyIf_of_true (by simp [hRuns, hBefore])]

/-- The waits on groups that begin leave the ports and the usable set alone. -/
theorem beginSendWaits_ports (s : State) :
    (beginSendWaits s).fabric.ports = s.fabric.ports ∧ (beginSendWaits s).fabric.usable = s.fabric.usable := by
  unfold beginSendWaits
  exact List.foldlRecOn (motive := fun t : State => t.fabric.ports = s.fabric.ports ∧ t.fabric.usable = s.fabric.usable) _ _ ⟨rfl, rfl⟩
    fun _ h _ _ => h

theorem atDeadline_pastDeadline (s : State) : (atDeadline s).frame.pastDeadline = true := by
  unfold atDeadline
  extract_lets s1 s2
  split
  · rfl
  have h2 : s2.frame.pastDeadline = true := by
    unfold s2
    split
    · rfl
    · rw [chipLate_pastDeadline, (beginSendWaits_does s1).frame_eq, onFrame_frame]
  split
  · rw [chipLate_pastDeadline, h2]
  · exact h2

theorem atDeadline_late {s : State} (hFormes : formesRun s = true) (hMissed : deadlineMissed s = true) : (atDeadline s).frame.late = true := by
  unfold atDeadline
  extract_lets s1 s2
  rw [hFormes, hMissed]
  exact chipLate_late false s2

theorem takesPart_of_formesRun {s : State} (h : formesRun s = true) : takesPart s = true := by
  simp only [formesRun, Bool.and_eq_true] at h
  exact h.2

/-- With its sends acknowledged, a chip whose deadline item has not started is late and raises a late hold (R39, R41). -/
theorem atDeadline_of_missed {s : State} (hFormes : formesRun s = true) (hAcked : allAcked s = true) (hMissed : deadlineMissed s = true) :
    atDeadline s = chipLate false (onFrame (fun f => { f with pastDeadline := true }) s) := by
  unfold atDeadline
  extract_lets s1 s2
  rw [hFormes, hMissed]
  simp only [s2, hAcked]
  rfl

/-- With sends unacknowledged a chip is late and raises an early hold; a deadline item that has not started adds none to it (R41, R46). -/
theorem atDeadline_of_unacked {s : State} {h : HoldRec} (hFormes : formesRun s = true) (hRun : s.frame.replaying = false)
    (hNone : s.frame.known = []) (hAcked : allAcked s = false)
    (hHold : h = { origin := s.dev.fabric, frame := s.tick.domain, late := false }) :
    (atDeadline s).fabric = (floodHold none 0 h (beginSendWaits (onFrame (fun f => { f with pastDeadline := true }) s))).fabric
      ∧ (atDeadline s).frame.known = [h] ∧ (atDeadline s).frame.ownEarly = true ∧ (atDeadline s).frame.late = true
      ∧ (atDeadline s).frame.ownLate = s.frame.ownLate := by
  unfold atDeadline
  extract_lets s1 s2
  have hWaits : Does [.fabric] s1 (beginSendWaits s1) := beginSendWaits_does s1
  have hFrame1 : (beginSendWaits s1).frame = { s.frame with pastDeadline := true } := hWaits.frame_eq
  have hPart1 : takesPart (beginSendWaits s1) = true := by
    rw [takesPart, hWaits.tick_eq, hWaits.dev_eq]
    exact takesPart_of_formesRun hFormes
  have hHold1 : h = {
      origin := (beginSendWaits s1).dev.fabric
      frame := (beginSendWaits s1).tick.domain
      late := (beginSendWaits s1).frame.pastDeadline && !true } := by
    rw [hWaits.dev_eq, hWaits.tick_eq, hHold]
    simp only [Bool.not_true, Bool.and_false]
    rfl
  have h2 : s2 = chipLate true (beginSendWaits s1) := by simp [s2, hAcked, hRun]
  obtain ⟨hFabric, hFrame⟩ := chipLate_raises hPart1 (by rw [hFrame1]; exact hRun) (by rw [hFrame1]; exact hNone) hHold1
  rw [← h2] at hFabric hFrame
  have hKnown2 : s2.frame.known = [h] := by rw [hFrame]
  have hEarly2 : s2.frame.ownEarly = true := by simp [hFrame, hHold]
  have hLate2 : s2.frame.late = true := by rw [hFrame]
  have hOwn2 : s2.frame.ownLate = s.frame.ownLate := by simp [hFrame, hHold, hFrame1]
  have hTick2 : s2.tick = s.tick := by rw [h2, (chipLate_does _ _).tick_eq, hWaits.tick_eq]; rfl
  rw [if_neg (by simp [hFormes])]
  split
  · rw [chipLate_of_early_known hKnown2 (by rw [hHold]) (by rw [hHold, hTick2])]
    exact ⟨hFabric, hKnown2, hEarly2, rfl, hOwn2⟩
  · exact ⟨hFabric, hKnown2, hEarly2, hLate2, hOwn2⟩

/-! ### The lock-up (R38, R39, R171) -/

theorem exec_lockUp (s : State) : exec .lockUp s = effect (onlyIf (coreRuns s && !s.frame.lockUp) atLockUp) s := rfl

theorem beginItem_frame (cell : Nat) (it : Item) (s : State) : (beginItem cell it s).frame = { s.frame with
    started := insertPair s.frame.started (cell, it.number)
    running := insertPair s.frame.running (cell, it.number) } := by
  unfold beginItem
  extract_lets s1
  split
  · split <;> rfl
  · rfl

theorem beginWaiting_lockUp (cell : Nat) (s : State) : (beginWaiting cell s).frame.lockUp = s.frame.lockUp := by
  unfold beginWaiting
  split
  · split
    · rw [beginItem_frame]
    · rfl
  · rfl

/-- The chip as the lock-up begins: what waits on the galley alone is on its way (R38, R171). -/
def lockUpBegins (s : State) : State :=
  s.frame.cellStarted.foldl (fun s c => if cellWorks s c then beginWaiting c s else s)
    (onFrame (fun f => { f with pastDeadline := true, lockUp := true }) s)

theorem lockUpBegins_lockUp (s : State) : (lockUpBegins s).frame.lockUp = true := by
  unfold lockUpBegins
  refine List.foldlRecOn (motive := fun t : State => t.frame.lockUp = true) _ _ rfl fun t ht c _ => ?_
  split
  · rw [beginWaiting_lockUp, ht]
  · exact ht

theorem atLockUp_of_formesRun {s : State} (h : formesRun s = true) : atLockUp s =
    if unstarted (lockUpBegins s) || transferWaits (lockUpBegins s) || !(stageMissing true (lockUpBegins s)).isEmpty
    then chipLate false (beginStageWait (lockUpBegins s)) else beginStageWait (lockUpBegins s) := by
  unfold atLockUp
  rw [if_neg (by simp [h])]
  rfl

theorem atLockUp_lockUp (s : State) : (atLockUp s).frame.lockUp = true := by
  cases hFormes : formesRun s with
  | false => simp [atLockUp, hFormes]
  | true =>
    have hBegins : (beginStageWait (lockUpBegins s)).frame.lockUp = true := by
      rw [(beginStageWait_does _).frame_eq, lockUpBegins_lockUp]
    rw [atLockUp_of_formesRun hFormes]
    split
    · rw [chipLate_lockUp, hBegins]
    · exact hBegins

theorem atLockUp_late {s : State} (hFormes : formesRun s = true) (hLeft : unstarted (lockUpBegins s) = true) : (atLockUp s).frame.late = true := by
  rw [atLockUp_of_formesRun hFormes, if_pos (by simp [hLeft]), chipLate_late]

/-! ### The start of a cell (R117, R118, R198) -/

theorem exec_cellStart (cell : Nat) (s : State) : exec (.cellStart cell) s = effect (startCell cell) s := rfl

theorem mem_insertPair (l : List (Nat × Nat)) (p : Nat × Nat) : p ∈ insertPair l p := by
  unfold insertPair
  split
  next h => simpa using h
  · simp

theorem beginItem_cellStarted (cell : Nat) (it : Item) (s : State) : (beginItem cell it s).frame.cellStarted = s.frame.cellStarted := by
  rw [beginItem_frame]

theorem mem_started_beginItem (cell : Nat) (it : Item) (s : State) : (cell, it.number) ∈ (beginItem cell it s).frame.started := by
  rw [beginItem_frame]
  exact mem_insertPair _ _

theorem startItem_ready_cellStarted (cell pos : Nat) (s : State) : (startItem cell pos .ready s).frame.cellStarted = s.frame.cellStarted := by
  unfold startItem
  split
  · rfl
  · dsimp only
    split
    · exact beginItem_cellStarted _ _ _
    · rfl

/-- The next ordered item of a cell starts where it is ready and no send window holds it (R198, R199). -/
theorem startItem_ready_of_head {s : State} {cell pos : Nat} {it : Item} {rest : List Item} (hFormes : formesRun s = true)
    (hWorks : cellWorks s cell = true) (hOpen : s.frame.lockUp = false) (hStarted : s.frame.cellStarted.contains cell = true)
    (hLoaded : s.image.spareLoads.contains cell = false) (hHead : orderedLeft s cell = it :: rest) (hReady : itemReady s cell it = true)
    (hWindow : sendWindow s it pos = true) : startItem cell pos .ready s = beginItem cell it s := by
  unfold startItem
  rw [if_neg (by rw [hFormes, hWorks, hOpen, hStarted, hLoaded]; decide)]
  simp [chooseItem, hHead, hReady, hWindow]

/-- Loading a cell's first weight tile leaves its galley as it is (R108). -/
theorem loadFirst_galley (cell : Nat) (s : State) : (engOf (loadFirst cell s) cell).galley = (engOf s cell).galley := by
  unfold loadFirst
  split
  · rfl
  · simp [engOf, onEng, setEng]

theorem itemReady_loadFirst (cell : Nat) (it : Item) (s : State) : itemReady (loadFirst cell s) cell it = itemReady s cell it := by
  have hLig : readLig (loadFirst cell s) cell = readLig s cell := by
    unfold loadFirst
    split <;> rfl
  unfold itemReady galleyFilled
  simp only [loadFirst_galley, hLig]

/-- The cell counts as started, and its first weight tile loads (R117, R118). -/
def cellStarts (cell : Nat) (s : State) : State :=
  loadFirst cell { s with frame := { s.frame with cellStarted := insertNat s.frame.cellStarted cell } }

theorem startCell_of_due {s : State} {cell : Nat} (hFormes : formesRun s = true) (hWorks : cellWorks s cell = true)
    (hBefore : s.frame.cellStarted.contains cell = false) (hLoaded : s.image.spareLoads.contains cell = false) :
    startCell cell s = startItem cell (s.env.offset / 10) .ready (cellStarts cell s) := by
  unfold startCell
  rw [if_neg (by rw [hFormes, hWorks, hBefore, hLoaded]; decide)]
  rfl

theorem cellStarts_frame (cell : Nat) (s : State) :
    (cellStarts cell s).frame = { s.frame with cellStarted := insertNat s.frame.cellStarted cell } :=
  (loadFirst_does _ _).frame_eq

/-- What decides whether a cell's first item starts is the same behind the start as before it. -/
theorem cellStarts_same (cell : Nat) (s : State) :
    formesRun (cellStarts cell s) = formesRun s ∧ cellWorks (cellStarts cell s) cell = cellWorks s cell
      ∧ (cellStarts cell s).image = s.image ∧ orderedLeft (cellStarts cell s) cell = orderedLeft s cell
      ∧ ∀ it, itemReady (cellStarts cell s) cell it = itemReady s cell it := by
  refine ⟨?_, ?_, ?_, ?_, fun it => itemReady_loadFirst cell it _⟩ <;>
  · unfold cellStarts loadFirst
    split <;> rfl

theorem startCell_starts_head {s : State} {cell : Nat} {it : Item} {rest : List Item} (hFormes : formesRun s = true)
    (hWorks : cellWorks s cell = true) (hBefore : s.frame.cellStarted.contains cell = false)
    (hLoaded : s.image.spareLoads.contains cell = false) (hOpen : s.frame.lockUp = false) (hHead : orderedLeft s cell = it :: rest)
    (hReady : itemReady s cell it = true) (hOrdered : it.deferrable = false) : (cell, it.number) ∈ (startCell cell s).frame.started := by
  obtain ⟨hFormes1, hWorks1, hImage1, hLeft1, hReady1⟩ := cellStarts_same cell s
  rw [startCell_of_due hFormes hWorks hBefore hLoaded,
    startItem_ready_of_head (hFormes1.trans hFormes) (hWorks1.trans hWorks) (by rw [cellStarts_frame]; exact hOpen)
      (by rw [cellStarts_frame]; exact List.contains_iff_mem.mpr (mem_insertNat _ _)) (by rw [hImage1]; exact hLoaded)
      (hLeft1.trans hHead) ((hReady1 it).trans hReady) (by simp [sendWindow, hOrdered])]
  exact mem_started_beginItem _ _ _

theorem startCell_of_not_due {s : State} {cell : Nat}
    (h : formesRun s = false ∨ cellWorks s cell = false ∨ s.frame.cellStarted.contains cell = true ∨ s.image.spareLoads.contains cell = true) :
    startCell cell s = s := by
  unfold startCell
  rw [if_pos]
  rcases h with h | h | h | h <;> rw [h] <;> simp

/-! ### A stuck forme (R48) -/

theorem exec_stuckForme (s : State) : exec .stuckForme s =
    effect (onlyIf (coreRuns s && formesRun s && decide (8 ≤ s.frame.slipRun)) becomeStuck) s := rfl

/-- The chip is HELD at its stuck forme index; the hold that it raises changes neither (R48). -/
theorem becomeStuck_outcome (s : State) :
    (becomeStuck s).dev.state = .held ∧ (becomeStuck s).frame.stuck = true ∧ (becomeStuck s).frame.replaying = false := by
  unfold becomeStuck
  generalize hStuck : onFrame (fun f => { f with stuck := true, retry := false, replaying := false }) s = u
  have hDev : (raiseHold true (setState .held u)).dev.state = .held := by
    rw [(raiseHold_does _ _).dev_eq, setState_dev]
  have hFrame : (setState .held u).frame = u.frame := (setState_does _ _).frame_eq
  have hRaised := raiseHold_frame true (setState .held u)
  rw [hFrame, ← hStuck] at hRaised
  rw [← hStuck] at hDev ⊢
  exact ⟨hDev, congrArg FrameSt.stuck hRaised, congrArg FrameSt.replaying hRaised⟩

/-! ### The obligation -/

/-- Settles O9. Each position is the part of the frame that its command names; the two kinds of hold at the deadline come from
`chipLate_raises`. -/
theorem framePositionsAndLateHolds : Obligations.FramePositionsAndLateHolds := by
  unfold Obligations.FramePositionsAndLateHolds
  refine ⟨⟨?_, ?_, ?_, ?_, ?_, ?_, ?_, ?_⟩, ?_, ?_⟩
  · intro s hRuns hBefore
    exact ⟨_, exec_holdDeadline_of_due hRuns hBefore, atDeadline_pastDeadline s, atDeadline_late⟩
  · intro s hRuns hBefore
    refine ⟨_, (exec_lockUp s).trans (effect_onlyIf_of_true (by simp [hRuns, hBefore])), atLockUp_lockUp s, atLockUp_late⟩
  · intro s cell hFormes hWorks hBefore hLoaded
    refine ⟨_, exec_cellStart cell s, ?_, fun it rest hOpen hHead hReady hOrdered =>
      startCell_starts_head hFormes hWorks hBefore hLoaded hOpen hHead hReady hOrdered⟩
    rw [startCell_of_due hFormes hWorks hBefore hLoaded]
    exact (startItem_ready_cellStarted _ _ _).trans (congrArg FrameSt.cellStarted (cellStarts_frame cell s))
  · intro s hRuns hFormes hSlips
    exact ⟨_, (exec_stuckForme s).trans (effect_onlyIf_of_true (by simp [hRuns, hFormes, hSlips])), becomeStuck_outcome s⟩
  · intro s hNot
    rw [exec_holdDeadline, effect_onlyIf_of_false]
    rcases hNot with h | h <;> simp [h]
  · intro s hNot
    rw [exec_lockUp, effect_onlyIf_of_false]
    rcases hNot with h | h <;> simp [h]
  · intro s cell hNot
    rw [exec_cellStart]
    exact effect_of_eq (startCell_of_not_due hNot)
  · intro s hNot
    rw [exec_stuckForme, effect_onlyIf_of_false]
    rcases hNot with h | h | h
    · simp [h]
    · simp [h]
    · simp [Nat.not_le.mpr h]
  · intro s hRuns hFormes hBefore hReplay hNone hAcked hMissed
    obtain ⟨hFabric, hFrame⟩ := chipLate_raises (early := false) (s := onFrame (fun f => { f with pastDeadline := true }) s)
      (h := { origin := s.dev.fabric, frame := s.tick.domain, late := true }) (takesPart_of_formesRun hFormes) hReplay hNone rfl
    rw [← atDeadline_of_missed hFormes hAcked hMissed] at hFabric hFrame
    rw [floodHold_onFrame, onFrame_fabric] at hFabric
    refine ⟨_, exec_holdDeadline_of_due hRuns hBefore, congrArg FrameSt.known hFrame, congrArg FrameSt.ownLate hFrame, hFabric, ?_⟩
    intro p hp hUp hLive hCtl hRoom
    dsimp only
    rw [hFabric]
    exact floodHold_emits hp (by simp) hUp hLive hCtl hRoom
  · intro s hRuns hFormes hBefore hReplay hNone hAcked h
    obtain ⟨hFabric, hKnown, hEarly, hLate, hOwn⟩ := atDeadline_of_unacked hFormes hReplay hNone hAcked (h := h) rfl
    refine ⟨_, exec_holdDeadline_of_due hRuns hBefore, hKnown, rfl, hEarly, hLate, hOwn, ?_⟩
    intro p hp hUp hLive hCtl hRoom
    have hWaits := beginSendWaits_does (onFrame (fun f => { f with pastDeadline := true }) s)
    obtain ⟨hPorts, hUsable⟩ := beginSendWaits_ports (onFrame (fun f => { f with pastDeadline := true }) s)
    have hClasp : claspOf p (beginSendWaits (onFrame (fun f => { f with pastDeadline := true }) s)) = claspOf p s := by
      rw [claspOf, hPorts]
      rfl
    dsimp only
    rw [hFabric]
    refine floodHold_emits (by rw [hUsable]; exact hp) (by simp) (by rw [hClasp]; exact hUp) ?_ (by rw [hClasp]; exact hCtl) (by rw [hClasp]; exact hRoom)
    rw [portLive, hWaits.clocks_eq]
    exact hLive

end Sys2Proof.Machine
end

section
/-! PROOFS. A transfer that the carry mirror puts in doubt: the obligation on TRANSFER fails (R180, R236, R245).

The bytes of a transfer into a carry page are mirrored as a local write to HBM (R245). Where the mirror's stack has no page to stage it on, that
write puts the frame in doubt (R180), so the frame is not what the end of the item alone makes of it. -/

namespace Sys2Proof.Machine
open Sys2Proof

/-- Cell 0 moves 64 bytes to page 0 of cell 1. -/
def moveToCarry : TransferDesc := { src := 0, dstCell := 1, dst := 64, length := 64 }

/-- A RUNNING chip on which page 0 of cell 1 is a carry page, mirrored in the SYSTEM page 0 of stack 0, all of whose pseudo-channels retire: the stack
has no staging page to give. -/
def mirrorWithoutStaging : State := { State.reset with
  clocks := { ClockSt.reset with coreReset := false }
  dev := { DevSt.reset with state := .running }
  cells := { CellsSt.reset with carry := [2048], system := [(1, 0)] }
  hbm := { HbmSt.reset with
    map := [(0, { ppn := 0, cls := 9, excluded := false })]
    retiring := (List.range 32).map fun pc => (0, pc) } }

theorem exec_transfer (cell : Nat) (d : TransferDesc) (s : State) : exec (.transfer cell d) s = effect (runTransfer cell d) s := rfl

/-- The transfer may run, with shadow pages to spare. -/
theorem mirrorWithoutStaging_runs : mayRun mirrorWithoutStaging 0 (.transfer moveToCarry) = true
    ∧ epRuns mirrorWithoutStaging (.caseMem (redirect mirrorWithoutStaging moveToCarry.dstCell) moveToCarry.dst) = true
    ∧ shadowRoom mirrorWithoutStaging (redirect mirrorWithoutStaging moveToCarry.dstCell) (moveToCarry.length / 4096 + 2) = true := by
  decide

theorem transfer_doubts : (runTransfer 0 moveToCarry mirrorWithoutStaging).frame.doubt = true := by decide

theorem finishItem_does_not_doubt : (finishItem 0 (.transfer moveToCarry) mirrorWithoutStaging).frame.doubt = false := by decide

/-- Refutes O26: on `mirrorWithoutStaging` the transfer moves its bytes and leaves the frame in doubt, where the statement wants the frame that the end
of the item leaves. -/
theorem not_transferMovesBytes : ¬ Obligations.TransferMovesBytes := by
  unfold Obligations.TransferMovesBytes
  intro h
  obtain ⟨hMay, hClock, hRoom⟩ := mirrorWithoutStaging_runs
  obtain ⟨⟨t, hExec, _, _, _, hFrame⟩, _⟩ := h.2 mirrorWithoutStaging 0 moveToCarry hMay hClock (by decide) (by decide) (by decide) hRoom
  cases (exec_transfer 0 moveToCarry mirrorWithoutStaging).symm.trans hExec
  have hDoubt := congrArg FrameSt.doubt hFrame
  exact Bool.false_ne_true (finishItem_does_not_doubt.symm.trans (hDoubt.symm.trans transfer_doubts))

end Sys2Proof.Machine
end

section
/-! PROOFS. What an event leaves alone, whatever its actions (R361 to R370): the items under way, the device state, the accumulators, and of the
fabric all but its ports and what leaves through them. -/

namespace Sys2Proof.Machine
open Sys2Proof

/-! ### Traffic -/

/-- Of the fabric only the ports change, and what has left the chip. -/
def TrafficOnly (s t : State) : Prop :=
  t.fabric = { s.fabric with ports := t.fabric.ports, out := t.fabric.out, wire := t.fabric.wire }

theorem TrafficOnly.refl (s : State) : TrafficOnly s s := rfl

theorem TrafficOnly.trans {s t u : State} (h : TrafficOnly s t) (h' : TrafficOnly t u) : TrafficOnly s u := by
  unfold TrafficOnly at *
  rw [h', h]

theorem TrafficOnly.of_eq {s t : State} (h : t.fabric = s.fabric) : TrafficOnly s t := by
  unfold TrafficOnly
  rw [h]

theorem TrafficOnly.foldl {β : Type} {f : State → β → State} (hf : ∀ x b, TrafficOnly x (f x b)) (xs : List β) (s : State) :
    TrafficOnly s (xs.foldl f s) :=
  List.foldlRecOn (motive := TrafficOnly s) xs f (.refl s) fun _ h b _ => h.trans (hf _ b)

section
variable {s t : State}

theorem TrafficOnly.recv (h : TrafficOnly s t) : t.fabric.recv = s.fabric.recv := by rw [h]

theorem TrafficOnly.usable (h : TrafficOnly s t) : t.fabric.usable = s.fabric.usable := by rw [h]

theorem TrafficOnly.routes (h : TrafficOnly s t) : t.fabric.routes = s.fabric.routes := by rw [h]

end

theorem onClasp_traffic (p : Nat) (f : Clasp → Clasp) (s : State) : TrafficOnly s (onClasp p f s) := rfl

theorem emit_traffic (m : List OutMsg) (s : State) : TrafficOnly s (emit m s) := rfl

theorem emitFlits_traffic (p : Nat) (l : List (List Byte)) (s : State) : TrafficOnly s (emitFlits p l s) := rfl

theorem drainPort_traffic (p : Nat) (s : State) : TrafficOnly s (drainPort p s) := by
  unfold drainPort
  split
  · exact .refl s
  · exact ((onClasp_traffic _ _ _).trans (emitFlits_traffic _ _ _)).trans (emit_traffic _ _)

theorem sendOn_traffic (p : Nat) (m : OutMsg) (s : State) : TrafficOnly s (sendOn p m s) := by
  unfold sendOn
  split
  · exact (onClasp_traffic _ _ _).trans (drainPort_traffic _ _)
  · exact .refl s

theorem floodHold_traffic (except : Option Nat) (hops : Nat) (h : HoldRec) (s : State) : TrafficOnly s (floodHold except hops h s) :=
  .foldl (fun x p => sendOn_traffic p _ x) _ s

theorem beginTraining_traffic (p : Nat) (s : State) : TrafficOnly s (beginTraining p s) :=
  (onClasp_traffic _ _ _).trans (emit_traffic _ _)

theorem trainPort_traffic (p : Nat) (s : State) : TrafficOnly s (trainPort p s) :=
  (onClasp_traffic _ _ _).trans (beginTraining_traffic _ _)

theorem replayFlits_traffic (p : Nat) (s : State) : TrafficOnly s (replayFlits p s) := by
  unfold replayFlits
  extract_lets c
  split
  · exact .refl s
  · exact (emitFlits_traffic _ _ _).trans (emit_traffic _ _)

theorem removeLane_traffic (p lane : Nat) (s : State) : TrafficOnly s (removeLane p lane s) := by
  unfold removeLane
  extract_lets c l
  split
  · exact onClasp_traffic _ _ _
  · exact (onClasp_traffic _ _ _).trans (replayFlits_traffic _ _)

/-! ### What events keep -/

/-- An array of a cell stands still. -/
def arrayStopped (s : State) (cell a : Nat) : Bool := ((engOf s cell).arrays.getD a ArraySt.reset).stopped

/-- From one state to the next no item has ended, the chip is in the same device state and runs the same frame of work, the accumulators hold
what they held, a stopped array stands still, and of the fabric only the ports have changed and what has left the chip. -/
structure EventsKeep (s t : State) : Prop where
  running : t.frame.running = s.frame.running
  retry : t.frame.retry = s.frame.retry
  stuck : t.frame.stuck = s.frame.stuck
  state : t.dev.state = s.dev.state
  step : t.step = s.step
  traffic : TrafficOnly s t
  acc : ∀ cell, (engOf t cell).acc = (engOf s cell).acc
  stopped : ∀ cell a, arrayStopped s cell a = true → arrayStopped t cell a = true

namespace EventsKeep

theorem refl (s : State) : EventsKeep s s := ⟨rfl, rfl, rfl, rfl, rfl, .refl s, fun _ => rfl, fun _ _ h => h⟩

theorem trans {s t u : State} (h : EventsKeep s t) (h' : EventsKeep t u) : EventsKeep s u where
  running := h'.running.trans h.running
  retry := h'.retry.trans h.retry
  stuck := h'.stuck.trans h.stuck
  state := h'.state.trans h.state
  step := h'.step.trans h.step
  traffic := h.traffic.trans h'.traffic
  acc cell := (h'.acc cell).trans (h.acc cell)
  stopped cell a hs := h'.stopped cell a (h.stopped cell a hs)

theorem foldl {β : Type} {f : State → β → State} (hf : ∀ x b, EventsKeep x (f x b)) (xs : List β) (s : State) : EventsKeep s (xs.foldl f s) :=
  List.foldlRecOn (motive := EventsKeep s) xs f (.refl s) fun _ h b _ => h.trans (hf _ b)

/-- An operation that changes nothing of the frame, the cells, the device and the step. -/
theorem of_traffic {l : List Comp} {s t : State} (h : Does l s t) (hTraffic : TrafficOnly s t) (hFrame : Comp.frame ∉ l := by decide)
    (hCells : Comp.cells ∉ l := by decide) (hDev : Comp.dev ∉ l := by decide) (hStep : Comp.step ∉ l := by decide) : EventsKeep s t := by
  have hEng : ∀ cell, engOf t cell = engOf s cell := fun cell => by rw [engOf, h.same hCells, engOf]
  exact ⟨by rw [h.frame_eq hFrame], by rw [h.frame_eq hFrame], by rw [h.frame_eq hFrame], by rw [h.dev_eq hDev], h.step_eq hStep, hTraffic,
    fun cell => by rw [hEng cell], fun cell a hs => by rw [arrayStopped, hEng cell]; exact hs⟩

/-- One that leaves the fabric alone too. -/
theorem of_does {l : List Comp} {s t : State} (h : Does l s t) (hFabric : Comp.fabric ∉ l := by decide) (hFrame : Comp.frame ∉ l := by decide)
    (hCells : Comp.cells ∉ l := by decide) (hDev : Comp.dev ∉ l := by decide) (hStep : Comp.step ∉ l := by decide) : EventsKeep s t :=
  of_traffic h (.of_eq (h.fabric_eq hFabric)) hFrame hCells hDev hStep

theorem inFrame_eq {s t : State} (h : EventsKeep s t) : inFrame t = inFrame s := by
  simp only [inFrame, proofRuns, h.state, h.retry, h.step, h.stuck]

end EventsKeep

/-! ### Holds and doubt -/

theorem sendHold_traffic (early : Bool) (s : State) : TrafficOnly s (sendHold early s) := by
  unfold sendHold
  split
  · exact .refl s
  extract_lets h
  split
  · exact .refl s
  · exact TrafficOnly.trans (t := { s with frame := _ }) rfl (floodHold_traffic _ _ _ _)

theorem raiseHold_keeps (early : Bool) (s : State) : EventsKeep s (raiseHold early s) := by
  have hDoes := raiseHold_does early s
  have hTraffic : TrafficOnly s (raiseHold early s) := by
    unfold raiseHold
    split
    · exact .refl s
    · exact sendHold_traffic early s
  have hEng : ∀ cell, engOf (raiseHold early s) cell = engOf s cell := fun cell => by rw [engOf, hDoes.same (k := .cells) (by decide), engOf]
  exact ⟨by rw [raiseHold_frame], by rw [raiseHold_frame], by rw [raiseHold_frame], by rw [hDoes.dev_eq], hDoes.step_eq, hTraffic,
    fun cell => by rw [hEng cell], fun cell a hs => by rw [arrayStopped, hEng cell]; exact hs⟩

theorem inDoubt_keeps (s : State) : EventsKeep s (inDoubt s) := by
  unfold inDoubt
  split
  · have hDoubt : EventsKeep s { s with frame := { s.frame with doubt := true } } := ⟨rfl, rfl, rfl, rfl, rfl, rfl, fun _ => rfl, fun _ _ h => h⟩
    exact hDoubt.trans (raiseHold_keeps _ _)
  · exact .refl s

theorem inDoubt_doubt {s : State} (h : inFrame s = true) : (inDoubt s).frame.doubt = true := by
  unfold inDoubt
  rw [if_pos h, raiseHold_frame]

/-! ### The actions of an event -/

theorem stop_stopped (ceil : Nat) (st : ArraySt) : (st.stop ceil).stopped = true := by
  unfold ArraySt.stop
  split
  next h => exact h
  · rfl

theorem get?_map_entries {β : Type} (f : Nat × β → β) (a : Nat) : ∀ m : SMap β,
    SMap.get? (m.map fun p => (p.1, f p)) a = (SMap.get? m a).map fun v => f (a, v)
  | [] => rfl
  | (k, v) :: rest => by
    rw [List.map_cons, SMap.get?, SMap.get?]
    split
    next h =>
      subst h
      rfl
    · split
      · rfl
      · exact get?_map_entries f a rest

theorem stopCell_eng (i : Nat) (s : State) : (stopCell i s).cells.eng
    = s.cells.eng.map fun p => (p.1, if p.1 = i then p.2.stopArrays (ceilingOf 64 s i) else p.2) := by
  refine List.map_congr_left fun p _ => ?_
  split <;> rfl

/-- A stop reaches the arrays of one cell's engines, if it has any. -/
theorem engOf_stopCell (i cell : Nat) (s : State) :
    engOf (stopCell i s) cell = engOf s cell ∨ engOf (stopCell i s) cell = (engOf s cell).stopArrays (ceilingOf 64 s i) := by
  unfold engOf SMap.getD
  rw [stopCell_eng, get?_map_entries fun p : Nat × CellEng => if p.1 = i then p.2.stopArrays (ceilingOf 64 s i) else p.2]
  cases SMap.get? s.cells.eng cell with
  | none => exact .inl rfl
  | some e =>
    by_cases h : cell = i
    · exact .inr (if_pos h)
    · exact .inl (if_neg h)

theorem stopArrays_stopped (ceil a : Nat) (e : CellEng) (h : (e.arrays.getD a ArraySt.reset).stopped = true) :
    ((e.stopArrays ceil).arrays.getD a ArraySt.reset).stopped = true := by
  rw [List.getD_eq_getElem?_getD] at h ⊢
  rw [CellEng.stopArrays, List.getElem?_map]
  cases hGet : e.arrays[a]? with
  | none => rw [hGet] at h; exact h
  | some st => exact stop_stopped ceil st

theorem stopCell_keeps (i : Nat) (s : State) : EventsKeep s (stopCell i s) where
  running := rfl
  retry := rfl
  stuck := rfl
  state := rfl
  step := rfl
  traffic := rfl
  acc cell := by
    rcases engOf_stopCell i cell s with h | h
    · rw [h]
    · rw [h]
      rfl
  stopped cell a hs := by
    rcases engOf_stopCell i cell s with h | h
    · rw [arrayStopped, h]
      exact hs
    · rw [arrayStopped, h]
      exact stopArrays_stopped _ _ _ hs

/-- A note on the device that leaves its state. -/
theorem setDev_keeps {s : State} {d : DevSt} (h : d.state = s.dev.state) : EventsKeep s { s with dev := d } :=
  ⟨rfl, rfl, rfl, h, rfl, rfl, fun _ => rfl, fun _ _ h => h⟩

theorem eventAction_keeps (l : Level) (unit action : Nat) (s : State) : EventsKeep s (eventAction l unit action s) := by
  unfold eventAction
  split_ifs
  · exact (stopCell_keeps unit s).trans (inDoubt_keeps _)
  · exact inDoubt_keeps s
  · exact .refl s

theorem askRetrain_keeps (p : Nat) (s : State) : EventsKeep s (askRetrain p s) := by
  unfold askRetrain
  split
  · exact setDev_keeps rfl
  · exact .of_traffic (trainPort_does p s) (trainPort_traffic p s)

theorem severeAction_keeps (unit source : Nat) (forced : Bool) (action : Nat) (s : State) :
    EventsKeep s (severeAction unit source forced action s) := by
  unfold severeAction
  split
  · extract_lets dev u
    have hFence : EventsKeep s u := setDev_keeps rfl
    have hStop : EventsKeep s (stopCell unit u) := hFence.trans (stopCell_keeps unit u)
    split
    · exact hStop.trans (inDoubt_keeps _)
    · exact hStop
  · exact askRetrain_keeps _ s
  · exact .of_does (retirePc_does _ _ s)
  · exact .of_does (set_power_does s _)
  · exact setDev_keeps rfl
  · exact .refl s

theorem severeNow_keeps (l : Level) (unit source : Nat) (forced : Bool) (action : Nat) (s : State) :
    EventsKeep s (severeNow l unit source forced action s) := by
  unfold severeNow
  split
  · exact .of_does (set_faults_does s _)
  · exact severeAction_keeps unit source forced action s

theorem latchEvent_keeps (l : Level) (unit source : Nat) (forced early : Bool) (s : State) :
    EventsKeep s (latchEvent l unit source forced early s).1 := .of_does (latchEvent_does l unit source forced early s)

theorem countSimple_keeps (l : Level) (unit source : Nat) (forced early act : Bool) (s : State) :
    EventsKeep s (countSimple l unit source forced early act s) := by
  unfold countSimple
  extract_lets f action r t
  have hLatch : EventsKeep s r.1 := latchEvent_keeps l unit source forced early s
  have hEvent : EventsKeep s t := by
    unfold t
    split
    · exact hLatch.trans (eventAction_keeps l unit action _)
    · exact hLatch
  split
  · exact hEvent.trans (severeNow_keeps l unit source _ action t)
  · exact hEvent

theorem loseLane_keeps (p lane : Nat) (s : State) : EventsKeep s (loseLane p lane s) := by
  unfold loseLane
  split
  · exact (EventsKeep.of_traffic (removeLane_does p lane s) (removeLane_traffic p lane s)).trans (countSimple_keeps _ _ _ _ _ _ _)
  · exact .refl s

theorem dropWorstLane_keeps (early : Bool) (p : Nat) (s : State) : EventsKeep s (dropWorstLane early p s) := by
  unfold dropWorstLane
  extract_lets c old
  split
  · exact .refl s
  · split
    · exact askRetrain_keeps p s
    · exact loseLane_keeps p _ s

theorem dropNow_keeps (l : Level) (unit source action : Nat) (early : Bool) (s : State) :
    EventsKeep s (dropNow l unit source action early s) := by
  unfold dropNow
  split
  · exact severeNow_keeps l unit source false action s
  · exact dropWorstLane_keeps early _ s

theorem standFault_keeps (l : Level) (unit source : Nat) (forced : Bool) (s : State) : EventsKeep s (standFault l unit source forced s) := by
  unfold standFault
  split
  · exact setDev_keeps rfl
  · exact .refl s

theorem countEvent_keeps (l : Level) (unit source : Nat) (s : State) : EventsKeep s (countEvent l unit source s) := by
  have hLatch := latchEvent_keeps l unit source false false s
  unfold countEvent countEventWith
  dsimp only
  split_ifs
  · exact hLatch.trans (dropNow_keeps l unit source _ false _)
  · exact hLatch
  · exact (standFault_keeps l unit source false s).trans (countSimple_keeps l unit source false false true _)

end Sys2Proof.Machine
end

section
/-! PROOFS. What a pass makes of its cell and of the frame: the obligation on PASS (R36, R38, R86, R102, R106, R115, R121, R123, R124, R126, R127). -/

namespace Sys2Proof.Machine
open Sys2Proof

/-! ### A cell's engines and items -/

@[simp] theorem engOf_setEng_same (cell : Nat) (e : CellEng) (s : State) : engOf (setEng cell e s) cell = e := by
  simp [engOf, setEng]

theorem engOf_setEng_ne {cell c : Nat} (h : c ≠ cell) (e : CellEng) (s : State) : engOf (setEng cell e s) c = engOf s c :=
  getD_put_ne h _ _ _

@[simp] theorem engOf_onEng_same (cell : Nat) (f : CellEng → CellEng) (s : State) : engOf (onEng cell f s) cell = f (engOf s cell) :=
  engOf_setEng_same _ _ _

theorem Does.engOf_eq {l : List Comp} {s t : State} (h : Does l s t) (cell : Nat) (hk : Comp.cells ∉ l := by decide) : engOf t cell = engOf s cell := by
  rw [engOf, h.same hk, engOf]

theorem Does.image_eq {l : List Comp} {s t : State} (h : Does l s t) (hk : Comp.image ∉ l := by decide) : t.image = s.image := h.same hk

theorem Does.stats_eq {l : List Comp} {s t : State} (h : Does l s t) (hk : Comp.stats ∉ l := by decide) : t.stats = s.stats := h.same hk

theorem Does.cells_eq {l : List Comp} {s t : State} (h : Does l s t) (hk : Comp.cells ∉ l := by decide) : t.cells = s.cells := h.same hk

theorem Does.caseMem_eq {l : List Comp} {s t : State} (h : Does l s t) (hk : Comp.caseMem ∉ l := by decide) : t.caseMem = s.caseMem := h.same hk

theorem Does.hbm_eq {l : List Comp} {s t : State} (h : Does l s t) (hk : Comp.hbm ∉ l := by decide) : t.hbm = s.hbm := h.same hk

/-- The items of a cell are those of the image, as its formes have moved (R246). -/
theorem itemOf_congr {s t : State} (h : t.image = s.image) : itemOf t = itemOf s := by
  funext cell n
  unfold itemOf recordsOf redirect
  rw [h]

/-- What the end of an item makes of the frame depends on the image and the frame alone. -/
theorem finishItem_frame_congr {s t : State} (cell : Nat) (b : ItemBody) (hImage : t.image = s.image) (hFrame : t.frame = s.frame) :
    (finishItem cell b t).frame = (finishItem cell b s).frame := by
  unfold finishItem
  rw [itemOf_congr hImage, hFrame]
  cases s.frame.running.find? _ with
  | none => exact hFrame
  | some p => rfl

/-- The items that still run behind an item's end depend on the image and the running items alone. -/
theorem finishItem_running_congr {s t : State} (cell : Nat) (b : ItemBody) (hImage : t.image = s.image)
    (hRunning : t.frame.running = s.frame.running) : (finishItem cell b t).frame.running = (finishItem cell b s).frame.running := by
  unfold finishItem
  rw [itemOf_congr hImage, hRunning]
  cases s.frame.running.find? _ with
  | none => exact hRunning
  | some p => rfl

/-! ### Mismatches (R121) -/

theorem passRetry_nil (arrs : List Nat) (s : State) (cell : Nat) (d : PassDesc) (a : Nat) :
    passRetry arrs s cell d [] a = { events := [], stop := none } := rfl

/-- Each failing row lies in a stretch of the pass, and an array that stops has failed. -/
structure Retry.Sound (slots : List IssueSlot) (x : Retry) : Prop where
  within : ∀ e ∈ x.events, e.1 < slots.length
  failed : x.stop.isSome = true → x.events ≠ []

theorem Retry.Sound.add {slots : List IssueSlot} {x : Retry} (h : x.Sound slots) (row : Nat) : (Retry.add slots x row).Sound slots := by
  unfold Retry.add
  extract_lets last left
  split
  next p _ hLeft =>
    have hPlace : p.1 < slots.length := by
      have hIn := List.mem_of_find?_eq_some hLeft
      exact List.mem_range.mp (List.of_mem_zip hIn).1
    refine ⟨fun e he => ?_, fun _ => by simp⟩
    rcases List.mem_append.mp he with he | he
    · exact h.within e he
    · rw [List.mem_singleton.mp he]
      exact hPlace
  · exact h

theorem retryOf_sound (r : PassOut) (mm : List (Nat × Nat)) (a : Nat) : (retryOf r mm a).Sound (SMap.getD r.slots a []) :=
  List.foldlRecOn (motive := fun x : Retry => x.Sound (SMap.getD r.slots a [])) _ _ ⟨nofun, nofun⟩ fun _ h row _ => h.add row

theorem fail_stopped (ceil n after upTo : Nat) (st : ArraySt) : (st.fail ceil n after upTo).stopped = true := stop_stopped _ _

/-- The failing rows of a stretch, one after another, leave the array stopped. -/
theorem foldl_fail_stopped {β : Type} {f : ArraySt × Nat → β → ArraySt × Nat} (hf : ∀ y e, (f y e).1.stopped = true) {l : List β} (hl : l ≠ [])
    (y : ArraySt × Nat) : (l.foldl f y).1.stopped = true := by
  rw [← List.dropLast_concat_getLast hl, List.foldl_append, List.foldl_cons, List.foldl_nil]
  exact hf _ _

/-- An array whose row has mismatched three times ends the pass stopped: its last failing row lies in a stretch that it comes to. -/
theorem issueSlots_stopped {ceil after : Nat} {fin : IssueEnd} {w : Retry} (hStop : w.stop.isSome = true) : ∀ (slots : List IssueSlot) (k : Nat) (st : ArraySt),
    (∃ e ∈ w.events, k ≤ e.1) → (∀ e ∈ w.events, e.1 < k + slots.length) → (issueSlots ceil after fin w k slots st).stopped = true
  | [], k, st, hLeft, hWithin => by
    obtain ⟨e, he, hk⟩ := hLeft
    exact absurd (hWithin e he) (by simpa using hk)
  | x :: rest, k, st, hLeft, hWithin => by
    unfold issueSlots
    extract_lets behind upTo r
    split
    next hLast =>
      have hAll : ∀ e ∈ w.events, e.1 ≤ k := by simpa [hStop] using hLast
      obtain ⟨e, he, hk⟩ := hLeft
      have hHere : w.events.filter (fun e => decide (e.1 = k)) ≠ [] :=
        List.ne_nil_of_mem (List.mem_filter.mpr ⟨he, decide_eq_true (Nat.le_antisymm (hAll e he) hk)⟩)
      exact foldl_fail_stopped (fun _ _ => fail_stopped _ _ _ _ _) hHere _
    next hMore =>
      refine issueSlots_stopped hStop rest (k + 1) _ ?_ fun e he => ?_
      · simpa [hStop] using hMore
      · have := hWithin e he
        rw [List.length_cons] at this
        omega

/-- The array of a row that mismatches three times stands still behind the pass. -/
theorem passResult_stopped {arrs held : List Nat} {mode cell : Nat} {s : State} {d : PassDesc} {mm : List (Nat × Nat)} {a : Nat} (ha : a ∈ arrs)
    (hArray : a < 4) (hStop : (passRetry arrs s cell d mm a).stop.isSome = true) :
    ((passResult mode arrs held s cell d mm).eng.arrays.getD a ArraySt.reset).stopped = true := by
  have hSound : (passRetry arrs s cell d mm a).Sound (SMap.getD (passArrays (fun _ => none) arrs s cell d).slots a []) := retryOf_sound _ mm a
  obtain ⟨e, he⟩ := List.exists_mem_of_ne_nil _ (hSound.failed hStop)
  have hContains : arrs.contains a = true := List.contains_iff_mem.mpr ha
  unfold passResult issuePass
  rw [List.getD_eq_getElem?_getD, List.getElem?_map, List.getElem?_range hArray]
  simp only [Option.map_some, Option.getD_some, hContains, Bool.not_true, Bool.false_eq_true, if_false]
  exact issueSlots_stopped hStop _ 0 _ ⟨e, he, Nat.zero_le _⟩ (by simpa using hSound.within)

/-! ### What a pass books

The engines take what the arrays computed, the counts join the staged statistics, and the unchecked rows are counted; then the mismatches count
their events, and the item ends, the pass waits, or the frame is in doubt. -/

/-- The state with a pass booked on the arrays that it ran on, before its mismatches count. -/
def passBooked (mode cell : Nat) (arrs : List Nat) (w : HeldPass) (s : State) : State :=
  let r := passResult mode arrs w.arrays s cell w.desc w.mismatches
  let s1 := statOwn w.desc.tensor r.stat (setEng cell { r.eng with held := none } s)
  let s2 := onCells (fun c => { c with unchecked := SMap.modify c.unchecked cell 0 (fun n => n + r.unchecked) }) s1
  if refMode s w.desc.tensor then noteTop w.desc.tensor (refMeasure (passTile s cell w.desc) (passRows arrs s cell w.desc)) s2 else s2

theorem passNow_eq (mode cell : Nat) (arrs : List Nat) (w : HeldPass) (s : State) : passNow mode cell arrs w s =
    let retry := passRetry arrs s cell w.desc w.mismatches
    let t := checksumEvents cell arrs retry (passBooked mode cell arrs w s)
    if arrs.any (fun a => (retry a).stop.isSome) then inDoubt t
    else if w.arrays.isEmpty then finishItem cell (.pass w.desc) t
    else holdPass mode cell w t := rfl

section
variable (mode cell : Nat) (arrs : List Nat) (w : HeldPass) (s : State)

theorem passBooked_does : Does [.cells, .stats, .step] s (passBooked mode cell arrs w s) := by
  unfold passBooked
  extract_lets r e s1 s2
  have h2 : Does [.cells, .stats, .step] s s2 :=
    does_by (onCells_does _ s1) (does_by (statOwn_does _ _ _) (does_by (setEng_does _ _ s) (does_refl _ s)))
  exact does_ite (does_by (noteTop_does _ _ s2) h2) h2

/-- The measurement of a reference run stands in the step alone (R99), so engines and counts are those of the pass. -/
theorem passBooked_cells : (passBooked mode cell arrs w s).cells =
    let r := passResult mode arrs w.arrays s cell w.desc w.mismatches
    { s.cells with
      eng := SMap.put s.cells.eng cell { r.eng with held := none }
      unchecked := SMap.modify s.cells.unchecked cell 0 (fun n => n + r.unchecked) } := by
  unfold passBooked
  extract_lets r e s1 s2
  split
  · exact (noteTop_does _ _ s2).cells_eq
  · rfl

theorem passBooked_engOf_same : engOf (passBooked mode cell arrs w s) cell
    = { (passResult mode arrs w.arrays s cell w.desc w.mismatches).eng with held := none } := by
  rw [engOf, passBooked_cells]
  exact getD_put_same _ _ _ _

theorem passBooked_acc : (engOf (passBooked mode cell arrs w s) cell).acc = (passResult mode arrs w.arrays s cell w.desc w.mismatches).eng.acc := by
  rw [passBooked_engOf_same]

theorem passBooked_engOf_ne {c : Nat} (h : c ≠ cell) : engOf (passBooked mode cell arrs w s) c = engOf s c := by
  rw [engOf, passBooked_cells]
  exact getD_put_ne h _ _ _

theorem passBooked_unchecked : SMap.getD (passBooked mode cell arrs w s).cells.unchecked cell 0
    = SMap.getD s.cells.unchecked cell 0 + (passResult mode arrs w.arrays s cell w.desc w.mismatches).unchecked := by
  rw [passBooked_cells]
  exact getD_put_same _ _ _ _

theorem passBooked_stats : SMap.getD (passBooked mode cell arrs w s).stats.own w.desc.tensor StatRec.empty
    = StatRec.add (passResult mode arrs w.arrays s cell w.desc w.mismatches).stat (SMap.getD s.stats.own w.desc.tensor StatRec.empty) := by
  unfold passBooked
  extract_lets r e s1 s2
  have h2 : SMap.getD s2.stats.own w.desc.tensor StatRec.empty = StatRec.add r.stat (SMap.getD s.stats.own w.desc.tensor StatRec.empty) :=
    getD_put_same _ _ _ _
  split
  · rw [(noteTop_does _ _ s2).stats_eq, h2]
  · exact h2

/-- A booked pass leaves the frame of work as it was. -/
theorem passBooked_inFrame : inFrame (passBooked mode cell arrs w s) = inFrame s := by
  have hDoes := passBooked_does mode cell arrs w s
  have hProof : (passBooked mode cell arrs w s).step.proof = s.step.proof := by
    unfold passBooked noteTop
    extract_lets r e s1 s2
    split
    · split <;> rfl
    · rfl
  simp only [inFrame, proofRuns, hDoes.dev_eq, hDoes.frame_eq, hProof]

end

theorem checksumEvents_keeps (cell : Nat) (arrs : List Nat) (retry : Nat → Retry) (s : State) :
    EventsKeep s (checksumEvents cell arrs retry s) :=
  .foldl (fun x _ => .foldl (fun y _ => countEvent_keeps .cell cell 0 y) _ x) arrs s

/-- Without mismatches nothing counts. -/
theorem checksumEvents_of_none {retry : Nat → Retry} (h : ∀ a, (retry a).events = []) (cell : Nat) (arrs : List Nat) (s : State) :
    checksumEvents cell arrs retry s = s := by
  unfold checksumEvents
  simp only [h, List.foldl_nil]
  exact List.foldl_fixed' (fun _ => rfl) arrs

/-! ### A pass that runs -/

theorem exec_pass (cell : Nat) (d : PassDesc) (mm : List (Nat × Nat)) (s : State) :
    exec (.pass cell d mm) s = effect (runPassAt 64 cell d mm) s := rfl

/-- The arrays that a pass runs on at once: those on which no waiting drain reads the rows that it updates (R123, R126). -/
def freeArrays (s : State) (cell : Nat) (d : PassDesc) : List Nat := (List.range 4).filter fun a => !(blockedArrays s cell d).contains a

theorem lt_four_of_mem_freeArrays {s : State} {cell : Nat} {d : PassDesc} {a : Nat} (h : a ∈ freeArrays s cell d) : a < 4 :=
  List.mem_range.mp (List.mem_filter.mp h).1

theorem lt_four_of_mem_blockedArrays {s : State} {cell : Nat} {d : PassDesc} {a : Nat} (h : a ∈ blockedArrays s cell d) : a < 4 :=
  List.mem_range.mp (List.mem_filter.mp h).1

/-- The pass as it waits on the other arrays. -/
def heldPass (s : State) (cell : Nat) (d : PassDesc) (mm : List (Nat × Nat)) : HeldPass :=
  { desc := d, mismatches := mm, arrays := blockedArrays s cell d, drains := [] }

theorem runPassAt_of_may {mode cell : Nat} {d : PassDesc} (mm : List (Nat × Nat)) {s : State} (hMay : mayRun s cell (.pass d) = true)
    (hCeil : ceilingOf mode s cell ≠ 0) (hHeld : (engOf s cell).held = none) :
    runPassAt mode cell d mm s = passNow mode cell (freeArrays s cell d) (heldPass s cell d mm) s := by
  unfold runPassAt
  rw [if_neg (by simp [hMay, hCeil, hHeld])]
  rfl

theorem runPassAt_of_not {mode cell : Nat} {d : PassDesc} (mm : List (Nat × Nat)) {s : State}
    (h : mayRun s cell (.pass d) = false ∨ ceilingOf mode s cell = 0 ∨ (engOf s cell).held.isSome = true) : runPassAt mode cell d mm s = s := by
  unfold runPassAt
  rw [if_pos]
  rcases h with h | h | h
  · simp [h]
  · simp [h]
  · simp [h]

theorem holdPass_held (mode cell : Nat) (w : HeldPass) (s : State) : (engOf (holdPass mode cell w s) cell).held = some w := by
  rw [holdPass, engOf_onEng_same]

theorem holdPass_acc (mode cell : Nat) (w : HeldPass) (s : State) : (engOf (holdPass mode cell w s) cell).acc = (engOf s cell).acc := by
  rw [holdPass, engOf_onEng_same]

/-- A pass without mismatches ends its item, or waits on the arrays whose rows are not clear (R123, R126). -/
theorem passNow_of_clean (mode cell : Nat) (arrs : List Nat) (w : HeldPass) (s : State) (h : w.mismatches = []) : passNow mode cell arrs w s =
    if w.arrays.isEmpty then finishItem cell (.pass w.desc) (passBooked mode cell arrs w s) else holdPass mode cell w (passBooked mode cell arrs w s) := by
  have hRetry : ∀ a, passRetry arrs s cell w.desc w.mismatches a = { events := [], stop := none } := fun a => by rw [h, passRetry_nil]
  rw [passNow_eq]
  simp only [checksumEvents_of_none (retry := passRetry arrs s cell w.desc w.mismatches) (fun a => by rw [hRetry a]) cell arrs]
  rw [if_neg (by simp [hRetry])]

/-- What a pass comes to leaves the accumulators and the statistics as the pass booked them. -/
theorem passNow_booked (mode cell : Nat) (arrs : List Nat) (w : HeldPass) (s : State) :
    (engOf (passNow mode cell arrs w s) cell).acc = (engOf (passBooked mode cell arrs w s) cell).acc
      ∧ (passNow mode cell arrs w s).stats = (passBooked mode cell arrs w s).stats := by
  rw [passNow_eq]
  extract_lets retry t
  have hKeeps : EventsKeep (passBooked mode cell arrs w s) t := checksumEvents_keeps _ _ _ _
  have hStats : t.stats = (passBooked mode cell arrs w s).stats := (checksumEvents_does _ _ _ _).stats_eq
  split
  · exact ⟨((inDoubt_keeps t).acc cell).trans (hKeeps.acc cell), (inDoubt_does t).stats_eq.trans hStats⟩
  split
  · exact ⟨(congrArg CellEng.acc ((finishItem_does _ _ t).engOf_eq cell)).trans (hKeeps.acc cell), (finishItem_does _ _ t).stats_eq.trans hStats⟩
  · exact ⟨(holdPass_acc _ _ _ t).trans (hKeeps.acc cell), (holdPass_does _ _ _ t).stats_eq.trans hStats⟩

/-- A pass whose arrays all go on, and that waits on none, ends its item. -/
theorem passNow_running_of_done {mode cell : Nat} {arrs : List Nat} {w : HeldPass} {s : State} (hNone : w.arrays = [])
    (hGo : ∀ a ∈ arrs, (passRetry arrs s cell w.desc w.mismatches a).stop = none) :
    (passNow mode cell arrs w s).frame.running = (finishItem cell (.pass w.desc) s).frame.running := by
  rw [passNow_eq]
  extract_lets retry t
  have hBooked := passBooked_does mode cell arrs w s
  have hKeeps : EventsKeep (passBooked mode cell arrs w s) t := checksumEvents_keeps _ _ _ _
  rw [if_neg (by simpa [retry] using hGo), if_pos (by simp [hNone])]
  refine finishItem_running_congr _ _ ((checksumEvents_does _ _ _ _).image_eq.trans hBooked.image_eq) ?_
  rw [hKeeps.running, hBooked.frame_eq]

/-- A third mismatch leaves the item unfinished, puts the frame in doubt, and leaves its array stopped (R121). -/
theorem passNow_of_stop {mode cell : Nat} {arrs : List Nat} {w : HeldPass} {s : State} (hArrs : ∀ a ∈ arrs, a < 4)
    (hStop : ∃ a ∈ arrs, (passRetry arrs s cell w.desc w.mismatches a).stop.isSome = true) :
    (passNow mode cell arrs w s).frame.running = s.frame.running
      ∧ (inFrame s = true → (passNow mode cell arrs w s).frame.doubt = true)
      ∧ ∀ a ∈ arrs, (passRetry arrs s cell w.desc w.mismatches a).stop.isSome = true → arrayStopped (passNow mode cell arrs w s) cell a = true := by
  rw [passNow_eq]
  extract_lets retry t
  have hKeeps : EventsKeep (passBooked mode cell arrs w s) t := checksumEvents_keeps _ _ _ _
  have hDoubt := inDoubt_keeps t
  rw [if_pos (List.any_eq_true.mpr hStop)]
  refine ⟨?_, fun hFrame => ?_, fun a ha hThird => ?_⟩
  · rw [hDoubt.running, hKeeps.running, (passBooked_does mode cell arrs w s).frame_eq]
  · refine inDoubt_doubt ?_
    rw [hKeeps.inFrame_eq, passBooked_inFrame]
    exact hFrame
  · refine hDoubt.stopped cell a (hKeeps.stopped cell a ?_)
    rw [arrayStopped, passBooked_engOf_same]
    exact passResult_stopped ha (hArrs a ha) hThird

/-- The arrays that a pass waits on stop with filler (R126). -/
theorem holdPass_stopped {mode cell a : Nat} {w : HeldPass} {s : State} (ha : a ∈ w.arrays) (hArray : a < 4) :
    ((engOf (holdPass mode cell w s) cell).arrays.getD a ArraySt.reset).stopped = true := by
  rw [holdPass, engOf_onEng_same]
  dsimp only
  rw [List.getD_eq_getElem?_getD, List.getElem?_map, List.getElem?_range hArray]
  simp only [Option.map_some, Option.getD_some, List.contains_iff_mem.mpr ha, if_true]
  exact stop_stopped _ _

/-- Settles O22. A pass that may not run is the state as it was; one that may is `passNow`, without mismatches and with them. -/
theorem passRunsOrStops : Obligations.PassRunsOrStops := by
  unfold Obligations.PassRunsOrStops
  refine ⟨fun s cell d mm hNot => ?_, fun s cell d hMay hCeil hHeld => ?_⟩
  · rw [exec_pass]
    exact effect_of_eq (runPassAt_of_not mm hNot)
  intro w arrs
  refine ⟨?_, fun mm => ?_⟩
  · intro r
    have hRun : runPassAt 64 cell d [] s = _ := (runPassAt_of_may [] hMay hCeil hHeld).trans (passNow_of_clean 64 cell arrs _ s rfl)
    have hBooked := passBooked_does 64 cell arrs (heldPass s cell d []) s
    refine ⟨_, exec_pass cell d [] s, ?_⟩
    rw [hRun]
    by_cases hNone : w = []
    · have hFinish := finishItem_does cell (.pass d) (passBooked 64 cell arrs (heldPass s cell d []) s)
      rw [if_pos (by simpa [heldPass] using hNone)]
      refine ⟨fun c hc => (hFinish.engOf_eq c).trans (passBooked_engOf_ne _ _ _ _ _ hc), ?_, ?_, ?_, fun _ => ⟨?_, ?_, ?_, ?_⟩, fun h => absurd hNone h⟩
      · exact (congrArg (fun x : StatsSt => SMap.getD x.own d.tensor StatRec.empty) hFinish.stats_eq).trans (passBooked_stats _ _ _ _ _)
      · exact (congrArg (fun x : CellsSt => SMap.getD x.unchecked cell 0) hFinish.cells_eq).trans (passBooked_unchecked _ _ _ _ _)
      · exact (congrArg CellEng.acc (hFinish.engOf_eq cell)).trans (passBooked_acc _ _ _ _ _)
      · exact (hFinish.engOf_eq cell).trans (passBooked_engOf_same _ _ _ _ _)
      · exact finishItem_frame_congr _ _ hBooked.image_eq hBooked.frame_eq
      · exact hFinish.caseMem_eq.trans hBooked.caseMem_eq
      · exact hFinish.hbm_eq.trans hBooked.hbm_eq
    · have hHold := holdPass_does 64 cell (heldPass s cell d []) (passBooked 64 cell arrs (heldPass s cell d []) s)
      rw [if_neg (by simpa [heldPass] using hNone)]
      refine ⟨fun c hc => (engOf_setEng_ne hc _ _).trans (passBooked_engOf_ne _ _ _ _ _ hc), ?_, ?_, ?_, fun h => absurd h hNone, fun _ => ⟨?_, ?_, ?_⟩⟩
      · exact (congrArg (fun x : StatsSt => SMap.getD x.own d.tensor StatRec.empty) hHold.stats_eq).trans (passBooked_stats _ _ _ _ _)
      · exact passBooked_unchecked _ _ _ _ _
      · exact (holdPass_acc _ _ _ _).trans (passBooked_acc _ _ _ _ _)
      · exact holdPass_held _ _ _ _
      · exact hHold.frame_eq.trans hBooked.frame_eq
      · exact fun a ha => holdPass_stopped (w := heldPass s cell d []) ha (lt_four_of_mem_blockedArrays ha)
  · intro r stop
    have hRun : runPassAt 64 cell d mm s = passNow 64 cell arrs (heldPass s cell d mm) s := runPassAt_of_may mm hMay hCeil hHeld
    obtain ⟨hAcc, hStats⟩ := passNow_booked 64 cell arrs (heldPass s cell d mm) s
    refine ⟨_, exec_pass cell d mm s, ?_⟩
    rw [hRun]
    refine ⟨?_, ?_, fun hNone hGo => ?_, fun hStop => ?_⟩
    · exact hAcc.trans (passBooked_acc _ _ _ _ _)
    · exact (congrArg (fun x : StatsSt => SMap.getD x.own d.tensor StatRec.empty) hStats).trans (passBooked_stats _ _ _ _ _)
    · exact passNow_running_of_done (w := heldPass s cell d mm) hNone hGo
    · exact passNow_of_stop (w := heldPass s cell d mm) (fun a ha => lt_four_of_mem_freeArrays ha) hStop

end Sys2Proof.Machine
end

section
/-! PROOFS. Data packets on the fabric: how one leaves through a port, and what a chip does with one that arrives (R311, R313, R318 to R327, R407). -/

namespace Sys2Proof.Machine
open Sys2Proof

/-! ### A data packet leaves through a port (R320, R321, R323) -/

theorem length_leBytes : ∀ n v : Nat, (leBytes n v).length = n
  | 0, _ => rfl
  | n + 1, v => congrArg (· + 1) (length_leBytes n (v / 256))

theorem length_dataHeader (kind : Nat) (h : PktHdr) (n : Nat) : (dataHeader kind h n).length = 32 := by
  simp [dataHeader, length_leBytes, zeros]

/-- The number of flits that credits are counted in is the number of flits that leave (R321, R323). -/
theorem length_flitPieces_packet (kind : Nat) (h : PktHdr) (payload : List Byte) :
    (flitPieces (dataHeader kind h payload.length ++ payload)).length = packetFlits payload.length := by
  simp [flitPieces, ceilDiv, packetFlits, length_dataHeader]

/-- With no control packet waiting, a data flit leaves for a link credit (R320, R323). -/
theorem nextFlit_of_data {c : Clasp} {x : Queued} {rest : List Queued} (hCtl : c.ctl = []) (hQueue : c.queue = x :: rest) (hCredit : 0 < c.credits)
    (hRoom : c.replay.length < 2048) :
    nextFlit c = some (sendFlit c 1 (x.parts.headD []) (if (x.parts.drop 1).isEmpty then x.msg.toList else []) (fun d => { d with
      credits := d.credits - 1
      queue := if (x.parts.drop 1).isEmpty then rest else { x with parts := x.parts.drop 1 } :: rest })) := by
  unfold nextFlit
  rw [if_neg (Nat.not_le.mpr hRoom), hCtl, hQueue]
  exact if_neg (Nat.ne_of_gt hCredit)

/-- A data packet alone at its port leaves with its last flit, where the port has a credit and room for each of its flits. -/
theorem leaveFlits_sends_data {m : OutMsg} (rest : List (List Byte)) : ∀ {part : List Byte} {n : Nat} {c : Clasp}, c.ctl = [] →
    c.queue = [{ msg := some m, parts := part :: rest }] → rest.length < n → rest.length < c.credits → c.replay.length + rest.length < 2048 →
    m ∈ (leaveFlits n c).msgs := by
  induction rest with
  | nil =>
    intro part n c hCtl hQueue hFuel hCredit hRoom
    obtain ⟨k, rfl⟩ := Nat.exists_eq_add_of_lt hFuel
    rw [leaveFlits, nextFlit_of_data hCtl hQueue hCredit hRoom]
    exact List.mem_append_left _ (List.mem_singleton_self m)
  | cons next rest ih =>
    intro part n c hCtl hQueue hFuel hCredit hRoom
    obtain ⟨k, rfl⟩ := Nat.exists_eq_add_of_lt hFuel
    rw [List.length_cons] at hCredit hRoom
    rw [leaveFlits, nextFlit_of_data hCtl hQueue (by omega) (by omega)]
    refine List.mem_append_right _ (ih (part := next) hCtl rfl ?_ ?_ ?_)
    · rw [List.length_cons]
      omega
    · exact Nat.lt_sub_of_add_lt hCredit
    · change (c.replay ++ [_]).length + rest.length < 2048
      rw [List.length_append, List.length_singleton]
      omega

/-- A port at which nothing waits takes a data packet at once, where it has the credits and the room. -/
theorem sendOn_emits_data {p kind : Nat} {port : Option Nat} {h : PktHdr} {payload : List Byte} {s : State} (hUp : claspUp (claspOf p s) = true)
    (hLive : portLive p s = true) (hCtl : (claspOf p s).ctl = []) (hQueue : (claspOf p s).queue = [])
    (hCredit : packetFlits payload.length ≤ (claspOf p s).credits) (hRoom : (claspOf p s).replay.length + packetFlits payload.length ≤ 2048) :
    .data port kind h payload ∈ (sendOn p (.data port kind h payload) s).fabric.out := by
  obtain ⟨part, rest, hParts⟩ : ∃ part rest, flitPieces (dataHeader kind h payload.length ++ payload) = part :: rest := by
    refine List.exists_cons_of_length_pos ?_
    rw [length_flitPieces_packet, packetFlits]
    omega
  have hLength : rest.length + 1 = packetFlits payload.length := by
    rw [← length_flitPieces_packet kind h payload, hParts, List.length_cons]
  have hWire : onWire (.data port kind h payload) = ([], [{ msg := some (.data port kind h payload), parts := part :: rest }]) := by
    rw [onWire, queuedData, hParts]
  have hSent : OutMsg.data port kind h payload ∈ (leaveAll { claspOf p s with
      ctl := (claspOf p s).ctl ++ (onWire (.data port kind h payload)).1
      queue := (claspOf p s).queue ++ (onWire (.data port kind h payload)).2 }).msgs := by
    rw [hWire, hCtl, hQueue]
    have hRest : rest.length < (claspOf p s).credits := by omega
    have hBuffer : (claspOf p s).replay.length + rest.length < 2048 := by omega
    refine leaveFlits_sends_data rest rfl rfl ?_ hRest hBuffer
    simp only [waitingFlits, List.nil_append, List.map_cons, List.map_nil, List.foldl_cons, List.foldl_nil, List.length_cons, List.length_nil]
    omega
  unfold sendOn drainPort
  rw [if_pos hUp, if_neg (by simpa [portLive, onClasp] using hLive), claspOf_onClasp_same]
  exact List.mem_append_right _ hSent

theorem sendOn_of_down {p : Nat} {m : OutMsg} {s : State} (h : claspUp (claspOf p s) = false) : sendOn p m s = s := by
  rw [sendOn, h]
  rfl

/-! ### A packet arrives -/

theorem effect_eq_next {f : State → State} {s t : State} (h : f s = t) (hPending : t.pending = s.pending) : effect f s = .next t := by
  rw [effect, h, ← hPending]

theorem Does.pending_eq {l : List Comp} {s t : State} (h : Does l s t) (hk : Comp.pending ∉ l := by decide) : t.pending = s.pending := h.same hk

theorem drainFlits_traffic (port n : Nat) (s : State) : TrafficOnly s (drainFlits port n s) :=
  (onClasp_traffic _ _ _).trans (sendOn_traffic _ _ _)

theorem claspOf_drainFlits_ne {port p : Nat} (h : p ≠ port) (n : Nat) (s : State) : claspOf p (drainFlits port n s) = claspOf p s := by
  rw [drainFlits, claspOf_sendOn_ne h, claspOf_onClasp_ne h]

theorem portLive_drainFlits (port n p : Nat) (s : State) : portLive p (drainFlits port n s) = portLive p s := by
  simp only [portLive, (drainFlits_does port n s).clocks_eq]

/-- The port that a route picks depends on the usable set, the route table and the chip's address alone (R326, R327). -/
theorem route_drainFlits (port n dst src flow : Nat) (s : State) :
    pickPort (drainFlits port n s) (routeMask (drainFlits port n s) dst) src dst flow = pickPort s (routeMask s dst) src dst flow := by
  have hTraffic := drainFlits_traffic port n s
  simp only [pickPort, routeMask, hTraffic.usable, hTraffic.routes, (drainFlits_does port n s).dev_eq]

theorem forwardPacket_of_end {kind : Nat} {h : PktHdr} {payload : List Byte} {s : State}
    (hEnd : h.hops ≤ 1 ∨ pickPort s (routeMask s h.dst) h.src h.dst h.flow = none) : forwardPacket kind h payload s = s := by
  unfold forwardPacket
  split
  · rfl
  next hHops => rw [hEnd.resolve_left hHops]

theorem forwardPacket_of_way {kind p : Nat} {h : PktHdr} {payload : List Byte} {s : State} (hHops : 1 < h.hops)
    (hWay : pickPort s (routeMask s h.dst) h.src h.dst h.flow = some p) :
    forwardPacket kind h payload s = sendOn p (.data (some p) kind { h with hops := h.hops - 1 } payload) s := by
  unfold forwardPacket
  rw [if_neg (Nat.not_le.mpr hHops), hWay]

section
variable {port kind : Nat} {slot : Bool} {place : Endpoint} {h : PktHdr} {payload : List Byte} {land : State → State × Bool} {s t : State}

/-- A packet of the frame that lands counts (R324). -/
theorem takePacket_of_landed (hFrame : h.frame = frameNo s) (hLand : land (drainFlits port payload.length s) = (t, true)) :
    takePacket port h payload land s = noteContribution h (countPacket h t) := by
  unfold takePacket
  dsimp only
  rw [hLand]
  exact if_neg (by simp [hFrame])

/-- One that does not leaves what its landing left. -/
theorem takePacket_of_discarded (hFrame : h.frame = frameNo s) (hLand : land (drainFlits port payload.length s) = (t, false)) :
    takePacket port h payload land s = t := by
  unfold takePacket
  dsimp only
  rw [hLand]
  exact if_neg (by simp [hFrame])

theorem takePacket_of_late (hFrame : h.frame ≠ frameNo s) : takePacket port h payload land s = drainFlits port payload.length s := by
  unfold takePacket
  exact if_pos (by simpa using hFrame)

theorem arrivePacket_of_silent (hSilent : claspUp (claspOf port s) = false ∨ portLive port s = false) :
    arrivePacket port kind slot place h payload land s = s := by
  unfold arrivePacket
  rw [if_pos]
  rcases hSilent with hSilent | hSilent
  · simp [hSilent]
  · simp [hSilent]

section
variable (hUp : claspUp (claspOf port s) = true) (hLive : portLive port s = true)
include hUp hLive

theorem arrivePacket_of_transit (hMine : forMe h s = false) :
    arrivePacket port kind slot place h payload land s = forwardPacket kind h payload (drainFlits port payload.length s) := by
  unfold arrivePacket
  rw [if_neg (by simp [hUp, hLive]), if_pos (by simp [hMine])]

variable (hMine : forMe h s = true)
include hMine

theorem arrivePacket_of_late (hFrame : h.frame ≠ frameNo s) :
    arrivePacket port kind slot place h payload land s = drainFlits port payload.length s := by
  unfold arrivePacket
  rw [if_neg (by simp [hUp, hLive]), if_neg (by simp [hMine]), if_neg (by simp [hFrame])]
  exact takePacket_of_late hFrame

variable (hFrame : h.frame = frameNo s)
include hFrame

theorem arrivePacket_of_stopped (hStopped : epRuns s place = false) :
    arrivePacket port kind slot place h payload land s = { s with hbm := { s.hbm with
      pktWaits := s.hbm.pktWaits ++ [{ port := port, kind := kind, slot := slot, h := h, payload := payload }] } } := by
  unfold arrivePacket
  rw [if_neg (by simp [hUp, hLive]), if_neg (by simp [hMine]), if_pos (by simp [hFrame, hStopped])]
  rfl

variable (hRuns : epRuns s place = true)
include hRuns

theorem arrivePacket_of_landed (hLand : land (drainFlits port payload.length s) = (t, true)) :
    arrivePacket port kind slot place h payload land s = noteContribution h (countPacket h t) := by
  unfold arrivePacket
  rw [if_neg (by simp [hUp, hLive]), if_neg (by simp [hMine]), if_neg (by simp [hRuns])]
  exact takePacket_of_landed hFrame hLand

theorem arrivePacket_of_discarded (hLand : land (drainFlits port payload.length s) = (t, false)) :
    arrivePacket port kind slot place h payload land s = t := by
  unfold arrivePacket
  rw [if_neg (by simp [hUp, hLive]), if_neg (by simp [hMine]), if_neg (by simp [hRuns])]
  exact takePacket_of_discarded hFrame hLand

end
end

/-- What a chip does with a data packet, whatever its landing does: nothing on a silent port; it drops one of another frame, keeps one whose
destination's clock has stopped, and drops or forwards one for another chip. -/
theorem arrivePacket_conduct (port kind : Nat) (slot : Bool) (place : Endpoint) (h : PktHdr) (payload : List Byte) (land : State → State × Bool)
    (s : State) :
    let arrives := effect (arrivePacket port kind slot place h payload land) s
    let s1 := drainFlits port payload.length s
    let way := pickPort s (routeMask s h.dst) h.src h.dst h.flow
    let goesOn := fun p => OutMsg.data (some p) kind { h with hops := h.hops - 1 } payload
    ((claspUp (claspOf port s) = false ∨ portLive port s = false) → arrives = .next s)
    ∧ (claspUp (claspOf port s) = true → portLive port s = true → forMe h s = true → h.frame ≠ frameNo s → arrives = .next s1)
    ∧ (claspUp (claspOf port s) = true → portLive port s = true → forMe h s = true → h.frame = frameNo s → epRuns s place = false →
      arrives = .next { s with hbm := { s.hbm with
        pktWaits := s.hbm.pktWaits ++ [{ port := port, kind := kind, slot := slot, h := h, payload := payload }] } })
    ∧ (claspUp (claspOf port s) = true → portLive port s = true → forMe h s = false → (h.hops ≤ 1 ∨ way = none) → arrives = .next s1)
    ∧ (∀ p, claspUp (claspOf port s) = true → portLive port s = true → forMe h s = false → 1 < h.hops → way = some p →
      arrives = .next (sendOn p (goesOn p) s1)
      ∧ (claspUp (claspOf p s) = false → sendOn p (goesOn p) s1 = s1)
      ∧ (claspUp (claspOf p s) = true → portLive p s = true → p ≠ port → (claspOf p s).ctl = [] → (claspOf p s).queue = [] →
        packetFlits payload.length ≤ (claspOf p s).credits → (claspOf p s).replay.length + packetFlits payload.length ≤ 2048 →
        goesOn p ∈ (sendOn p (goesOn p) s1).fabric.out)) := by
  intro arrives s1 way goesOn
  have hDrained : s1.pending = s.pending := (drainFlits_does port payload.length s).pending_eq
  refine ⟨fun hSilent => effect_of_eq (arrivePacket_of_silent hSilent),
    fun hUp hLive hMine hFrame => effect_eq_next (arrivePacket_of_late hUp hLive hMine hFrame) hDrained,
    fun hUp hLive hMine hFrame hStopped => effect_eq_next (arrivePacket_of_stopped hUp hLive hMine hFrame hStopped) rfl,
    fun hUp hLive hMine hEnd => ?_, fun p hUp hLive hMine hHops hWay => ⟨?_, fun hDown => ?_, fun hUpP hLiveP hOther hCtl hQueue hCredit hRoom => ?_⟩⟩
  · refine effect_eq_next ((arrivePacket_of_transit hUp hLive hMine).trans (forwardPacket_of_end ?_)) hDrained
    rwa [route_drainFlits]
  · refine effect_eq_next ((arrivePacket_of_transit hUp hLive hMine).trans (forwardPacket_of_way hHops ?_))
      ((sendOn_does _ _ _).pending_eq.trans hDrained)
    rwa [route_drainFlits]
  · have hOther : p ≠ port := by
      rintro rfl
      exact absurd (hDown.symm.trans hUp) Bool.false_ne_true
    exact sendOn_of_down (by rwa [claspOf_drainFlits_ne hOther])
  · have hSame : claspOf p s1 = claspOf p s := claspOf_drainFlits_ne hOther _ _
    exact sendOn_emits_data (hSame ▸ hUpP) ((portLive_drainFlits _ _ _ _).trans hLiveP) (hSame ▸ hCtl) (hSame ▸ hQueue) (hSame ▸ hCredit)
      (hSame ▸ hRoom)

/-! ### A landed packet counts (R324) -/

theorem countPacket_recv (h : PktHdr) (s : State) :
    SMap.getD (countPacket h s).fabric.recv h.src 0 = SMap.getD s.fabric.recv h.src 0 + 1 := by
  unfold countPacket
  extract_lets n s1
  have hRaised : SMap.getD s1.fabric.recv h.src 0 = n := getD_put_same _ _ _ _
  split
  · exact hRaised
  · rw [(sendOn_traffic _ _ s1).recv, hRaised]

theorem noteContribution_recv (h : PktHdr) (s : State) : (noteContribution h s).fabric.recv = s.fabric.recv := by
  unfold noteContribution
  split
  · split
    · rfl
    · rfl
  · rfl

/-- The count that a landed packet raises is its source's. -/
theorem landed_recv (h : PktHdr) (s : State) :
    SMap.getD (noteContribution h (countPacket h s)).fabric.recv h.src 0 = SMap.getD s.fabric.recv h.src 0 + 1 := by
  rw [noteContribution_recv, countPacket_recv]

/-- Beyond the fabric a landed packet changes nothing more. -/
theorem landed_does (h : PktHdr) (s : State) : Does [.fabric] s (noteContribution h (countPacket h s)) :=
  does_by (noteContribution_does _ _) (countPacket_does _ _)

end Sys2Proof.Machine
end

section
/-! PROOFS. Where a write packet lands: the carried writes of one page of HBM, and the staging of a cell (R32, R34, R177, R181, R183, R246, R321). -/

namespace Sys2Proof.Machine
open Sys2Proof

/-! ### Pages of a range -/

theorem pagesOf_of_one {size a n : Nat} (hn : 0 < n) (hFits : a % size + n ≤ size) : pagesOf size a n = [a / size] := by
  have hSame : (a + n - 1) / size = a / size := by
    refine Nat.div_eq_of_lt_le ?_ ?_
    · have := Nat.div_mul_le_self a size
      omega
    · have := Nat.div_add_mod' a size
      rw [Nat.succ_mul]
      omega
  rw [pagesOf, if_neg (Nat.ne_of_gt hn), hSame, Nat.sub_self]
  simp

theorem partIn_of_one {size a : Nat} {bytes : List Byte} (hFits : a % size + bytes.length ≤ size) : partIn size a (a / size) bytes = (a, bytes) := by
  have hDiv := Nat.div_add_mod' a size
  have hLow : Nat.max a (a / size * size) = a := Nat.max_eq_left (Nat.div_mul_le_self a size)
  have hHigh : bytes.length ≤ (a / size + 1) * size - a := by
    rw [Nat.succ_mul]
    omega
  simp only [partIn, hLow, Nat.sub_self, List.drop_zero, List.take_of_length_le hHigh]

/-- A payload touches five pages of case memory at most. -/
theorem length_pagesOf_le {o n : Nat} (hn : n ≤ 16384) : (pagesOf 4096 o n).length ≤ 5 := by
  unfold pagesOf
  split
  · exact Nat.zero_le 5
  · rw [List.length_map, List.length_range]
    omega

theorem mem_pagesOf {size o n i : Nat} (hi : i < n) : (o + i) / size ∈ pagesOf size o n := by
  have hLow : o / size ≤ (o + i) / size := Nat.div_le_div_right (Nat.le_add_right o i)
  have hHigh : (o + i) / size ≤ (o + n - 1) / size := Nat.div_le_div_right (by omega)
  rw [pagesOf, if_neg (by omega)]
  exact List.mem_map.mpr ⟨(o + i) / size - o / size, List.mem_range.mpr (by omega), by omega⟩

theorem payloadOk_length {payload : List Byte} (h : payloadOk payload = true) : 64 ≤ payload.length ∧ payload.length ≤ 16384 := by
  simp only [payloadOk, Bool.and_eq_true, decide_eq_true_eq] at h
  exact h.1

/-! ### HBM (R177, R181, R183) -/

section
variable {a : Nat} {payload : List Byte} {s : State} (hFits : a % 65536 + payload.length ≤ 65536) (hOk : payloadOk payload = true)
include hFits hOk

theorem pagesOf_payload : pagesOf 65536 a payload.length = [a / 65536] :=
  pagesOf_of_one (Nat.lt_of_lt_of_le (by decide) (payloadOk_length hOk).1) hFits

theorem inboundPages_of_mapped {k : Nat} (hClass : pageClass s (a / 65536) = some k) :
    inboundPages a payload.length s = (s, !classPrivate k) := by
  obtain ⟨e, hEnt, -⟩ := Option.map_eq_some_iff.mp hClass
  simp [inboundPages, pagesOf_payload hFits hOk, hEnt, hClass]

theorem inboundPages_of_unmapped (hClass : pageClass s (a / 65536) = none) :
    inboundPages a payload.length s = (countEvent .region (addrStack a / 2 % 4) 1 (inDoubt s), false) := by
  have hEnt : pageEnt s (a / 65536) = none := Option.map_eq_none_iff.mp hClass
  simp [inboundPages, pagesOf_payload hFits hOk, hEnt]

/-- The payload joins the carried writes of its page, whose carried copy stands. -/
theorem hbmCarry_of_one {k : Nat} (hClass : pageClass s (a / 65536) = some k) (hCopy : (SMap.get? s.hbm.carPages (a / 65536)).isSome = true) :
    hbmCarry false a payload s = { s with hbm := { s.hbm with
      carried := s.hbm.carried ++ [{ host := false, addr := a, bytes := payload }]
      poisonIn := s.hbm.poisonIn.filter (fun w => !coversWord a payload.length w) } } := by
  obtain ⟨e, hEnt, -⟩ := Option.map_eq_some_iff.mp hClass
  have hStage : stageCarried (a / 65536) s = (s, true) := if_pos hCopy
  unfold hbmCarry
  rw [pagesOf_payload hFits hOk, List.foldl_cons, List.foldl_nil, if_neg (by simp [hEnt]), hStage]
  simp only [partIn_of_one hFits]

variable {h : PktHdr} (hPlace : h.endpoint = .hbm a)
include hPlace

theorem landWrite_of_public {k : Nat} (hClass : pageClass s (a / 65536) = some k) (hPublic : classPrivate k = false)
    (hCopy : (SMap.get? s.hbm.carPages (a / 65536)).isSome = true) :
    landWrite h payload s = (stagePoison h (hbmCarry false a payload s), true) := by
  have hCarry := hbmCarry_of_one hFits hOk hClass hCopy
  simp [landWrite, hOk, landRaw, hPlace, inboundPages_of_mapped hFits hOk hClass, hPublic, pagesOf_payload hFits hOk, hCarry, hCopy]

theorem landWrite_of_private {k : Nat} (hClass : pageClass s (a / 65536) = some k) (hPrivate : classPrivate k = true) :
    landWrite h payload s = (s, false) := by
  simp [landWrite, hOk, landRaw, hPlace, inboundPages_of_mapped hFits hOk hClass, hPrivate]

theorem landWrite_of_unmapped (hClass : pageClass s (a / 65536) = none) :
    landWrite h payload s = (countEvent .region (addrStack a / 2 % 4) 1 (inDoubt s), false) := by
  simp [landWrite, hOk, landRaw, hPlace, inboundPages_of_unmapped hFits hOk hClass]

end

theorem stagePoison_of_hbm {h : PktHdr} {a : Nat} (hPlace : h.endpoint = .hbm a) (s : State) : stagePoison h s =
    { s with hbm := { s.hbm with poisonIn := h.listed.foldl (fun l w => insertNat l (a / 32 + w)) s.hbm.poisonIn } } := by
  unfold stagePoison
  rw [hPlace]
  rfl

theorem stagePoison_of_caseMem {h : PktHdr} {c o : Nat} (hPlace : h.endpoint = .caseMem c o) (s : State) : stagePoison h s = s := by
  unfold stagePoison
  rw [hPlace]

/-! ### Overlays -/

/-- What an overlay lists behind a write: the written byte in its range, what it listed before elsewhere. -/
theorem get?_overlayN (bs : List Byte) : ∀ (m : List Host.Cell) (a k : Nat),
    SMap.get? (overlayN m a bs) k = if a ≤ k ∧ k < a + bs.length then bs[k - a]? else SMap.get? m k := by
  induction bs with
  | nil => exact fun m a k => (if_neg (by simp only [List.length_nil]; omega)).symm
  | cons b bs ih =>
    intro m a k
    rw [overlayN, ih, List.length_cons]
    by_cases hHere : k = a
    · subst hHere
      rw [if_neg (by omega), if_pos (by omega), get?_put_same, Nat.sub_self, List.getElem?_cons_zero]
    by_cases hIn : a + 1 ≤ k ∧ k < a + 1 + bs.length
    · rw [if_pos hIn, if_pos (by omega), show k - a = k - (a + 1) + 1 by omega, List.getElem?_cons_succ]
    · rw [if_neg hIn, if_neg (by omega), get?_put_ne hHere]

/-- The part of a write that falls into one page lists the bytes of that page, and no others. -/
theorem get?_overlay_part (m : List Host.Cell) {cell off page i : Nat} {bytes : List Byte} (hi : i < bytes.length) :
    SMap.get? (overlayN m (caseKey cell (partIn 4096 off page bytes).1) (partIn 4096 off page bytes).2) (caseKey cell (off + i))
      = if (off + i) / 4096 = page then some (bytes.getD i 0) else SMap.get? m (caseKey cell (off + i)) := by
  rw [get?_overlayN]
  simp only [partIn, caseKey, List.length_take, List.length_drop]
  by_cases hPage : (off + i) / 4096 = page
  · have hLow : Nat.max off (page * 4096) ≤ off + i := Nat.max_le.mpr ⟨by omega, by omega⟩
    have hOff : off ≤ Nat.max off (page * 4096) := Nat.le_max_left _ _
    rw [if_pos (by omega), if_pos hPage, List.getElem?_take_of_lt (by omega), List.getElem?_drop,
      show Nat.max off (page * 4096) - off + (cell * p2 23 + (off + i) - (cell * p2 23 + Nat.max off (page * 4096))) = i by omega,
      List.getElem?_eq_getElem hi, List.getD_eq_getElem _ _ hi]
  · have hPageLow : page * 4096 ≤ Nat.max off (page * 4096) := Nat.le_max_right _ _
    have hOff : off ≤ Nat.max off (page * 4096) := Nat.le_max_left _ _
    rw [if_neg (by omega), if_neg hPage]

/-! ### Case memory (R32, R34) -/

theorem mem_insertNat_of_mem {x : Nat} (a : Nat) {l : List Nat} (h : x ∈ l) : x ∈ insertNat l a := by
  induction l with
  | nil => cases h
  | cons k rest ih =>
    unfold insertNat
    split_ifs
    · exact h
    · exact List.mem_cons_of_mem _ h
    · rcases List.mem_cons.mp h with rfl | h
      · exact List.mem_cons_self
      · exact List.mem_cons_of_mem _ (ih h)

theorem length_filter_insertNat_le (f : Nat → Bool) (a : Nat) (l : List Nat) : ((insertNat l a).filter f).length ≤ (l.filter f).length + 1 := by
  induction l with
  | nil => exact List.length_filter_le f [a]
  | cons k rest ih =>
    unfold insertNat
    split_ifs
    · exact Nat.le_succ _
    · rw [List.filter_cons]
      split
      · exact Nat.le_refl _
      · exact Nat.le_succ _
    · rw [List.filter_cons, List.filter_cons]
      split
      · exact Nat.succ_le_succ ih
      · exact ih

/-- The shadow pages with one more. -/
def shadowWith (s : State) (cell page : Nat) : List Nat :=
  if s.caseMem.shadow.contains (cell * 2048 + page) then s.caseMem.shadow else insertNat s.caseMem.shadow (cell * 2048 + page)

theorem mem_shadowWith (s : State) (cell page : Nat) : cell * 2048 + page ∈ shadowWith s cell page := by
  unfold shadowWith
  split
  next h => exact List.contains_iff_mem.mp h
  · exact mem_insertNat _ _

theorem mem_shadowWith_of_mem {k : Nat} {s : State} (h : k ∈ s.caseMem.shadow) (cell page : Nat) : k ∈ shadowWith s cell page := by
  unfold shadowWith
  split
  · exact h
  · exact mem_insertNat_of_mem _ h

theorem count_shadowWith_le (s : State) (cell page : Nat) :
    ((shadowWith s cell page).filter (fun k => k / 2048 = cell)).length ≤ shadowCount s cell + 1 := by
  unfold shadowWith
  split
  · exact Nat.le_succ _
  · exact length_filter_insertNat_le _ _ _

/-- A cell with shadow pages to spare takes one (R34). -/
theorem takeShadow_of_room {s : State} {cell : Nat} (hExcess : cell ∉ s.caseMem.excess) (hRoom : shadowCount s cell < 512) (page : Nat) :
    takeShadow cell page s = ({ s with caseMem := { s.caseMem with shadow := shadowWith s cell page } }, true) := by
  unfold takeShadow shadowWith
  dsimp only
  split
  · rfl
  · rw [if_neg (by simpa using hExcess), if_neg (Nat.not_le.mpr hRoom)]

/-- One page of a write into a cell's staging. -/
def writePage (w : Writer) (cell off : Nat) (bytes : List Byte) (s : State) (page : Nat) : State :=
  match takeShadow cell page s with
  | (s, false) => s
  | (s, true) =>
    let p := partIn 4096 off page bytes
    mirrorWrite cell page p.1 p.2 { s with caseMem := { s.caseMem with
        staged := overlayN s.caseMem.staged (caseKey cell p.1) p.2
        inbound := if w = .inbound then overlayN s.caseMem.inbound (caseKey cell p.1) p.2 else s.caseMem.inbound
        own := if w = .own then overlayN s.caseMem.own (caseKey cell p.1) p.2 else s.caseMem.own
        host := if w = .host then overlayN s.caseMem.host (caseKey cell p.1) p.2 else s.caseMem.host } }

theorem caseWrite_eq_pages (w : Writer) (cell off : Nat) (bytes : List Byte) (s : State) :
    caseWrite w cell off bytes s = (pagesOf 4096 off bytes.length).foldl (writePage w cell off bytes) s := rfl

theorem writePage_of_room {s : State} {cell : Nat} (hExcess : cell ∉ s.caseMem.excess) (hRoom : shadowCount s cell < 512) (off page : Nat)
    (bytes : List Byte) : (writePage .inbound cell off bytes s page).caseMem = { s.caseMem with
      shadow := shadowWith s cell page
      staged := overlayN s.caseMem.staged (caseKey cell (partIn 4096 off page bytes).1) (partIn 4096 off page bytes).2
      inbound := overlayN s.caseMem.inbound (caseKey cell (partIn 4096 off page bytes).1) (partIn 4096 off page bytes).2 } := by
  unfold writePage
  rw [takeShadow_of_room hExcess hRoom]
  exact (mirrorWrite_does _ _ _ _ _).caseMem_eq

/-- An inbound write stands in the staging of a cell as far as the pages `done`: they are shadow pages now, their bytes are listed as staged
and as inbound ones, committed case memory is as it was, and the cell has taken no other shadow page. -/
structure InboundPages (cell off : Nat) (bytes : List Byte) (s : State) (done : List Nat) (t : State) : Prop where
  mem : t.caseMem.mem = s.caseMem.mem
  excess : t.caseMem.excess = s.caseMem.excess
  count : shadowCount t cell ≤ shadowCount s cell + done.length
  shadow : ∀ page ∈ done, cell * 2048 + page ∈ t.caseMem.shadow
  staged : ∀ i, i < bytes.length → (off + i) / 4096 ∈ done → SMap.get? t.caseMem.staged (caseKey cell (off + i)) = some (bytes.getD i 0)
  inbound : ∀ i, i < bytes.length → (off + i) / 4096 ∈ done → SMap.get? t.caseMem.inbound (caseKey cell (off + i)) = some (bytes.getD i 0)

namespace InboundPages
variable {cell off : Nat} {bytes : List Byte} {s t : State} {done : List Nat}

theorem start (cell off : Nat) (bytes : List Byte) (s : State) : InboundPages cell off bytes s [] s :=
  ⟨rfl, rfl, Nat.le_refl _, nofun, nofun, nofun⟩

theorem step (h : InboundPages cell off bytes s done t) (hExcess : cell ∉ s.caseMem.excess) (hRoom : shadowCount s cell + done.length < 512)
    (page : Nat) : InboundPages cell off bytes s (page :: done) (writePage .inbound cell off bytes t page) := by
  have hPage := writePage_of_room (h.excess ▸ hExcess) (Nat.lt_of_le_of_lt h.count hRoom) off page bytes
  constructor
  case mem => rw [hPage, h.mem]
  case excess => rw [hPage, h.excess]
  case count =>
    rw [shadowCount, hPage, List.length_cons]
    exact Nat.le_trans (count_shadowWith_le t cell page) (Nat.succ_le_succ h.count)
  case shadow =>
    intro p hp
    rw [hPage]
    rcases List.mem_cons.mp hp with rfl | hp
    · exact mem_shadowWith t cell p
    · exact mem_shadowWith_of_mem (h.shadow p hp) cell page
  case staged =>
    intro i hi hDone
    rw [hPage, get?_overlay_part _ hi]
    split
    · rfl
    next hOther => exact h.staged i hi ((List.mem_cons.mp hDone).resolve_left hOther)
  case inbound =>
    intro i hi hDone
    rw [hPage, get?_overlay_part _ hi]
    split
    · rfl
    next hOther => exact h.inbound i hi ((List.mem_cons.mp hDone).resolve_left hOther)

theorem foldl (hExcess : cell ∉ s.caseMem.excess) (pages : List Nat) : ∀ {done : List Nat} {t : State}, InboundPages cell off bytes s done t →
    shadowCount s cell + done.length + pages.length ≤ 512 →
    InboundPages cell off bytes s (pages.reverse ++ done) (pages.foldl (writePage .inbound cell off bytes) t) := by
  induction pages with
  | nil => exact fun h _ => h
  | cons page pages ih =>
    intro done t h hRoom
    rw [List.length_cons] at hRoom
    rw [List.foldl_cons, List.reverse_cons, List.append_assoc]
    exact ih (h.step hExcess (by omega) page) (by rw [List.length_append, List.length_singleton]; omega)

end InboundPages

/-- A payload lands whole in the staging of a cell with shadow pages to spare, as inbound bytes. -/
theorem caseWrite_lands {s : State} {cell : Nat} {bytes : List Byte} (hRoom : shadowRoom s cell 6 = true) (hLength : bytes.length ≤ 16384) (off : Nat) :
    InboundPages cell off bytes s (pagesOf 4096 off bytes.length).reverse (caseWrite .inbound cell off bytes s) := by
  simp only [shadowRoom, Bool.and_eq_true, Bool.not_eq_true', decide_eq_true_eq] at hRoom
  obtain ⟨hExcess, hCount⟩ := hRoom
  have hPages : (pagesOf 4096 off bytes.length).length ≤ 5 := length_pagesOf_le hLength
  rw [caseWrite_eq_pages, ← List.append_nil (List.reverse _)]
  refine InboundPages.foldl (by simpa using hExcess) _ (.start cell off bytes s) ?_
  rw [List.length_nil]
  omega

/-! ### What landing leaves of the fabric -/

/-- Doubt and an event reach the fabric through its ports alone. -/
theorem countDoubt_traffic {s u : State} (h : u.fabric = s.fabric) (l : Level) (unit source : Nat) :
    TrafficOnly s (countEvent l unit source (inDoubt u)) :=
  ((TrafficOnly.of_eq h).trans (inDoubt_keeps u).traffic).trans (countEvent_keeps l unit source (inDoubt u)).traffic

theorem stagingOverflow_traffic (stack : Nat) (s : State) : TrafficOnly s (stagingOverflow stack s) := by
  unfold stagingOverflow
  split
  · exact .refl s
  · exact countDoubt_traffic rfl _ _ _

theorem stageLocal_traffic (k : Nat) (s : State) : TrafficOnly s (stageLocal k s).1 := by
  unfold stageLocal
  split_ifs
  · exact .refl s
  · exact .of_eq rfl
  · exact stagingOverflow_traffic _ _

theorem hbmWrite_traffic (a : Nat) (bytes : List Byte) (s : State) : TrafficOnly s (hbmWrite a bytes s) := by
  refine .foldl (fun x k => ?_) _ s
  have hStage := stageLocal_traffic k x
  split
  · exact .refl x
  · split
    next hLocal =>
      rw [hLocal] at hStage
      exact hStage
    next hLocal =>
      rw [hLocal] at hStage
      exact hStage.trans (.of_eq rfl)

theorem mirrorWrite_traffic (cell page off : Nat) (bytes : List Byte) (s : State) : TrafficOnly s (mirrorWrite cell page off bytes s) := by
  unfold mirrorWrite
  split
  · exact hbmWrite_traffic _ _ _
  · exact .refl s

theorem takeShadow_traffic (cell page : Nat) (s : State) : TrafficOnly s (takeShadow cell page s).1 := by
  unfold takeShadow
  dsimp only
  split_ifs
  · exact .refl s
  · exact .refl s
  · exact countDoubt_traffic rfl _ _ _
  · exact .of_eq rfl

theorem caseWrite_traffic (w : Writer) (cell off : Nat) (bytes : List Byte) (s : State) : TrafficOnly s (caseWrite w cell off bytes s) := by
  rw [caseWrite_eq_pages]
  refine .foldl (fun x page => ?_) _ s
  have hShadow := takeShadow_traffic cell page x
  unfold writePage
  split
  next hTake =>
    rw [hTake] at hShadow
    exact hShadow
  next hTake =>
    rw [hTake] at hShadow
    exact (hShadow.trans (.of_eq rfl)).trans (mirrorWrite_traffic _ _ _ _ _)

/-! ### A write packet to case memory (R321) -/

theorem caseOpen_congr {s t : State} (hImage : t.image = s.image) (hCells : t.cells = s.cells) : caseOpen t = caseOpen s := by
  unfold caseOpen redirect cellState
  rw [hImage, hCells]

theorem landWrite_of_closed {h : PktHdr} {payload : List Byte} {c o : Nat} {s : State} (hPlace : h.endpoint = .caseMem c o)
    (hClosed : caseOpen s c o payload.length = false) : landWrite h payload s = (s, false) := by
  unfold landWrite landRaw
  rw [hPlace]
  split
  · rfl
  · simp [hClosed]

theorem landWrite_of_open {h : PktHdr} {payload : List Byte} {c o : Nat} {s : State} (hPlace : h.endpoint = .caseMem c o)
    (hOk : payloadOk payload = true) (hOpen : caseOpen s c o payload.length = true) (hRoom : shadowRoom s (redirect s c) 6 = true) :
    landWrite h payload s = (caseWrite .inbound (redirect s c) o payload s, true) := by
  have hLands := caseWrite_lands hRoom (payloadOk_length hOk).2 o
  have hTaken : (pagesOf 4096 o payload.length).all
      (fun k => (caseWrite .inbound (redirect s c) o payload s).caseMem.shadow.contains (redirect s c * 2048 + k)) = true :=
    List.all_eq_true.mpr fun k hk => List.contains_iff_mem.mpr (hLands.shadow k (List.mem_reverse.mpr hk))
  unfold landWrite landRaw
  rw [hPlace, if_neg (by simp [hOk])]
  simp only [hOpen, Bool.not_true, Bool.false_eq_true, if_false, hTaken, stagePoison_of_caseMem hPlace]

/-- The bytes that stand staged are those that a source of the frame reads (R32). -/
theorem caseBytes_of_staged {t : State} {cell off : Nat} {bytes : List Byte}
    (h : ∀ i, i < bytes.length → SMap.get? t.caseMem.staged (caseKey cell (off + i)) = some (bytes.getD i 0)) :
    caseBytes t cell off bytes.length = bytes := by
  refine List.ext_getElem (by simp [caseBytes]) fun i _ hi => ?_
  simp only [caseBytes, List.getElem_map, List.getElem_range, caseByte, h i hi]
  exact List.getD_eq_getElem _ _ hi

theorem pageClass_congr {s t : State} (hHbm : t.hbm = s.hbm) (k : Nat) : pageClass t k = pageClass s k := by
  rw [pageClass, pageEnt, hHbm, pageClass, pageEnt]

/-! ### Write packets -/

theorem exec_writePacket (port : Nat) (h : PktHdr) (payload : List Byte) (s : State) : exec (.writePacket port h payload) s
    = effect (arrivePacket port 1 false h.endpoint h payload (landWrite h payload)) s := rfl

section
variable {s : State} {port : Nat} {h : PktHdr} {payload : List Byte} (hUp : claspUp (claspOf port s) = true) (hLive : portLive port s = true)
  (hMine : forMe h s = true) (hFrame : h.frame = frameNo s) (hOk : payloadOk payload = true) (hRuns : epRuns s h.endpoint = true)
include hUp hLive hMine hFrame hOk hRuns

/-- A write packet to a public page with its carried copy joins the carried writes. -/
theorem writePacket_joins_carried {a k : Nat} (hPlace : h.endpoint = .hbm a) (hFits : a % 65536 + payload.length ≤ 65536)
    (hClass : pageClass s (a / 65536) = some k) (hPublic : classPrivate k = false)
    (hCopy : (SMap.get? s.hbm.carPages (a / 65536)).isSome = true) :
    completes (.writePacket port h payload) s (fun t =>
      t.hbm.carried = s.hbm.carried ++ [{ host := false, addr := a, bytes := payload }]
      ∧ t.hbm.poisonIn = h.listed.foldl (fun l w => insertNat l (a / 32 + w)) (s.hbm.poisonIn.filter (fun w => !coversWord a payload.length w))
      ∧ t.hbm.mem = s.hbm.mem
      ∧ SMap.getD t.fabric.recv h.src 0 = SMap.getD s.fabric.recv h.src 0 + 1) := by
  have hHbm : (drainFlits port payload.length s).hbm = s.hbm := (drainFlits_does port payload.length s).hbm_eq
  have hClass1 : pageClass (drainFlits port payload.length s) (a / 65536) = some k := (pageClass_congr hHbm _).trans hClass
  have hCopy1 : (SMap.get? (drainFlits port payload.length s).hbm.carPages (a / 65536)).isSome = true := by rw [hHbm]; exact hCopy
  have hLand := landWrite_of_public hFits hOk hPlace hClass1 hPublic hCopy1
  rw [hbmCarry_of_one hFits hOk hClass1 hCopy1, stagePoison_of_hbm hPlace] at hLand
  have hMore := landed_does h (landWrite h payload (drainFlits port payload.length s)).1
  have hRecv := landed_recv h (landWrite h payload (drainFlits port payload.length s)).1
  rw [hLand] at hMore hRecv
  refine ⟨_, exec_writePacket port h payload s, ?_⟩
  rw [arrivePacket_of_landed hUp hLive hMine hFrame hRuns hLand]
  refine ⟨?_, ?_, ?_, ?_⟩
  · exact (congrArg HbmSt.carried hMore.hbm_eq).trans (by rw [hHbm])
  · exact (congrArg HbmSt.poisonIn hMore.hbm_eq).trans (by rw [hHbm])
  · exact (congrArg HbmSt.mem hMore.hbm_eq).trans (by rw [hHbm])
  · exact hRecv.trans (by rw [(drainFlits_traffic port payload.length s).recv])

/-- One to an open cell with shadow pages to spare stands in its staging, as inbound bytes. -/
theorem writePacket_stands_staged {c o : Nat} (hPlace : h.endpoint = .caseMem c o) (hOpen : caseOpen s c o payload.length = true)
    (hRoom : shadowRoom s (redirect s c) 6 = true) :
    completes (.writePacket port h payload) s (fun t =>
      caseBytes t (redirect s c) o payload.length = payload
      ∧ (∀ i, i < payload.length → SMap.get? t.caseMem.inbound (caseKey (redirect s c) (o + i)) = some (payload.getD i 0))
      ∧ t.caseMem.mem = s.caseMem.mem
      ∧ SMap.getD t.fabric.recv h.src 0 = SMap.getD s.fabric.recv h.src 0 + 1) := by
  have hDrain := drainFlits_does port payload.length s
  have hMoves : redirect (drainFlits port payload.length s) c = redirect s c := by rw [redirect, hDrain.image_eq, redirect]
  have hOpen1 : caseOpen (drainFlits port payload.length s) c o payload.length = true := by
    rw [caseOpen_congr hDrain.image_eq hDrain.cells_eq]
    exact hOpen
  have hRoom1 : shadowRoom (drainFlits port payload.length s) (redirect s c) 6 = true := by
    rw [shadowRoom, shadowCount, hDrain.caseMem_eq]
    exact hRoom
  have hLand := landWrite_of_open hPlace hOk hOpen1 (hMoves.symm ▸ hRoom1)
  rw [hMoves] at hLand
  have hLands := caseWrite_lands hRoom1 (payloadOk_length hOk).2 o
  have hAll : ∀ i, i < payload.length → (o + i) / 4096 ∈ (pagesOf 4096 o payload.length).reverse :=
    fun i hi => List.mem_reverse.mpr (mem_pagesOf hi)
  have hWrite := caseWrite_traffic .inbound (redirect s c) o payload (drainFlits port payload.length s)
  have hCase := (landed_does h (caseWrite .inbound (redirect s c) o payload (drainFlits port payload.length s))).caseMem_eq
  refine ⟨_, exec_writePacket port h payload s, ?_⟩
  rw [arrivePacket_of_landed hUp hLive hMine hFrame hRuns hLand]
  refine ⟨caseBytes_of_staged fun i hi => ?_, fun i hi => ?_, ?_, ?_⟩
  · exact (congrArg (fun m : CaseSt => SMap.get? m.staged _) hCase).trans (hLands.staged i hi (hAll i hi))
  · exact (congrArg (fun m : CaseSt => SMap.get? m.inbound _) hCase).trans (hLands.inbound i hi (hAll i hi))
  · exact ((congrArg CaseSt.mem hCase).trans hLands.mem).trans (congrArg CaseSt.mem hDrain.caseMem_eq)
  · exact (landed_recv h _).trans (by rw [hWrite.recv, (drainFlits_traffic port payload.length s).recv])

end

/-- Settles O31. Each clause is one outcome of `arrivePacket`; the landing is `landWrite` on the drained state, whose pages, cells and shadow
pages are those of the state. -/
theorem writePackets : Obligations.WritePackets := by
  unfold Obligations.WritePackets
  refine ⟨?_, ?_, ?_, ?_⟩
  · intro s port h payload a hUp hLive hMine hFrame hOk hPlace hRuns hFits s1
    have hDrain : Does [.fabric] s s1 := drainFlits_does port payload.length s
    have hClassOf : pageClass s1 (a / 65536) = pageClass s (a / 65536) := pageClass_congr hDrain.hbm_eq _
    refine ⟨fun k => writePacket_joins_carried hUp hLive hMine hFrame hOk hRuns hPlace hFits, fun k hClass hPrivate => ?_, fun hClass => ?_⟩
    · exact effect_eq_next (arrivePacket_of_discarded hUp hLive hMine hFrame hRuns
        (landWrite_of_private hFits hOk hPlace (hClassOf.trans hClass) hPrivate)) hDrain.pending_eq
    · exact effect_eq_next (arrivePacket_of_discarded hUp hLive hMine hFrame hRuns (landWrite_of_unmapped hFits hOk hPlace (hClassOf.trans hClass)))
        (((countEvent_does _ _ _ _).pending_eq.trans (inDoubt_does s1).pending_eq).trans hDrain.pending_eq)
  · intro s port h payload c o hUp hLive hMine hFrame hOk hPlace hRuns hOpen hRoom
    exact writePacket_stands_staged hUp hLive hMine hFrame hOk hRuns hPlace hOpen hRoom
  · intro s port h payload c o hUp hLive hMine hFrame hPlace hRuns hClosed
    have hDrain := drainFlits_does port payload.length s
    refine effect_eq_next (arrivePacket_of_discarded hUp hLive hMine hFrame hRuns (landWrite_of_closed hPlace ?_)) hDrain.pending_eq
    rw [caseOpen_congr hDrain.image_eq hDrain.cells_eq]
    exact hClosed
  · intro s port h off payload x hx
    simp only [List.mem_cons, List.not_mem_nil, or_false] at hx
    rcases hx with rfl | rfl | rfl | rfl
    · exact arrivePacket_conduct port 1 false h.endpoint h payload (landWrite h payload) s
    · exact arrivePacket_conduct port 2 false h.endpoint h payload _ s
    · exact arrivePacket_conduct port 3 false h.endpoint h payload _ s
    · exact arrivePacket_conduct port 1 true _ { h with snapshot := true, endpoint := .hbm off } payload _ s

end Sys2Proof.Machine
end

section
/-! PROOFS. Exact sums: a product, a drained element and an element of a reduction, each with the case that leaves it out (R80, R84 to R87, R89, R94,
R194). -/

namespace Sys2Proof.Machine
open Sys2Proof

/-! ### A product (R84 to R86) -/

section
variable {array row n : Nat} {lead : Int} {relead : Bool} {e : CellEng} {lost : List Nat} {col : Nat} {v : OpVal}

theorem addProduct_of_below (h : belowLimit lead n (opDy v) = true) : (addProduct array row lead n relead (e, lost) (col, v)).1 =
    { e with
      acc := SMap.putD e.acc (accKey array row col) 0
        (wrap96 (SMap.getD e.acc (accKey array row col) 0 + (DyOp.toUnits (opDy v) (lead - 75)).1)) } := by
  simp [addProduct, h]

theorem addProduct_of_beyond (h : belowLimit lead n (opDy v) = false) : (addProduct array row lead n relead (e, lost) (col, v)).1 =
    if relead then { e with rowPoison := insertNat e.rowPoison (array * 512 + row) } else e := by
  simp [addProduct, h]

theorem addProduct_adds (h : belowLimit lead n (opDy v) = true) :
    SMap.getD (addProduct array row lead n relead (e, lost) (col, v)).1.acc (accKey array row col) 0
        = wrap96 (SMap.getD e.acc (accKey array row col) 0 + (DyOp.toUnits (opDy v) (lead - 75)).1)
      ∧ (addProduct array row lead n relead (e, lost) (col, v)).1.rowPoison = e.rowPoison := by
  rw [addProduct_of_below h]
  exact ⟨getD_putD_same _ _ _ _, rfl⟩

theorem addProduct_leaves_out (h : belowLimit lead n (opDy v) = false) :
    (relead = true → array * 512 + row ∈ (addProduct array row lead n relead (e, lost) (col, v)).1.rowPoison)
      ∧ (addProduct array row lead n relead (e, lost) (col, v)).1.acc = e.acc := by
  rw [addProduct_of_beyond h]
  cases relead with
  | true => exact ⟨fun _ => mem_insertNat _ _, rfl⟩
  | false => exact ⟨fun h => absurd h Bool.false_ne_true, rfl⟩

end

/-! ### A drained element (R87, R89, R94) -/

/-- Without a fused stage, and with one part, an element is its long word, rounded once. -/
theorem drainElement_out_of_plain {s : State} {cell : Nat} {d : DrainDesc} {te : TabEntry} {e : CellEng} {lead0 : SMap Int} {nRows t array row j : Nat}
    (hAdd : d.fusedAdd = false) (hMul : d.fusedMul = false) (hParts : partCount te ≤ 1) :
    (drainElement s cell d te e lead0 nRows t array row j).out = if elPoisoned e array row j then f32NaN
      else rneF32Pos (longDy (groupOf e te.leading (array * 4 + row / 128)).leading (wrap96 (SMap.getD e.acc (accKey array row j) 0))) := by
  unfold drainElement
  cases hPoisoned : elPoisoned e array row j with
  | true => simp
  | false => simp [hAdd, hMul, hParts, Nat.not_lt.mpr hParts]

/-! ### An element of a reduction (R194) -/

theorem getLsbD_or_bit {n i : Nat} (h : i < n) (x : BitVec n) : (x ||| BitVec.ofNat n (p2 i)).getLsbD i = true := by
  rw [BitVec.getLsbD_or, BitVec.getLsbD_ofNat, p2, Nat.one_shiftLeft, Nat.testBit_two_pow_self]
  simp [h]

section
variable {n i j : Nat} {x : W32} {v : OpVal} {t : LTile} {st : StatRec}

theorem reduceElem_adds (hFinite : opFinite v = true) (hBelow : belowLimit t.leading n (opDy v) = true) :
    (reduceElem 0 n i j x v (t, st)).1.elem i j = wrap96 (t.elem i j + (DyOp.toUnits (opDy v) (t.leading - 75)).1)
      ∧ (reduceElem 0 n i j x v (t, st)).1.rowPoison = t.rowPoison := by
  have hPut : (reduceElem 0 n i j x v (t, st)).1.elems
      = SMap.putD t.elems (32 * i + j) 0 (wrap96 (t.elem i j + (DyOp.toUnits (opDy v) (t.leading - 75)).1)) := by
    simp [reduceElem, hFinite, hBelow]
  refine ⟨?_, ?_⟩
  · rw [LTile.elem, hPut]
    exact getD_putD_same _ _ _ _
  · simp [reduceElem, hFinite, hBelow]

theorem reduceElem_of_nonfinite (h : opFinite v = false) : reduceElem 0 n i j x v (t, st) =
    ({ t with
        nonfinite := true
        rowPoison := t.rowPoison ||| BitVec.ofNat 32 (p2 i)
        colPoison := t.colPoison ||| BitVec.ofNat 32 (p2 j) }, { st with nonfinite := hold32 (st.nonfinite + 1) }) := by
  simp [reduceElem, h]

end

/-- Settles O23. Products, drained elements and elements of a reduction each split at the limit, or at what is not finite. -/
theorem exactSums : Obligations.ExactSums := by
  unfold Obligations.ExactSums
  refine ⟨fun array row lead n relead e lost col v => ⟨addProduct_adds, addProduct_leaves_out⟩,
    fun s cell d te e lead0 nRows t array row j hAdd hMul hParts => drainElement_out_of_plain hAdd hMul hParts,
    fun n i j x v t st hi hj => ⟨reduceElem_adds, fun h => ?_⟩⟩
  rw [reduceElem_of_nonfinite h]
  exact ⟨getLsbD_or_bit hi _, getLsbD_or_bit hj _, rfl, rfl, rfl⟩

end Sys2Proof.Machine
end

section
/-! PROOFS. A drain that runs, one that waits for its galley slots, and one that stands behind a held pass (R38, R94, R122, R123, R126, R148). -/

namespace Sys2Proof.Machine
open Sys2Proof

/-! ### Cleared rows (R112, R123) -/

theorem mem_of_get? {β : Type} {a : Nat} {v : β} : ∀ {m : SMap β}, SMap.get? m a = some v → (a, v) ∈ m
  | [], h => nomatch h
  | (k, w) :: rest, h => by
    unfold SMap.get? at h
    split_ifs at h with hKey
    · cases h
      subst hKey
      exact List.mem_cons_self
    · exact List.mem_cons_of_mem _ (mem_of_get? h)

/-- No long word of an accumulator row is listed, so each reads as zero. -/
def RowClear (k : Nat) (e : CellEng) : Prop := ∀ p ∈ e.acc, p.1 / 128 ≠ k

theorem RowClear.getD_eq_zero {array row j : Nat} {e : CellEng} (h : RowClear (array * 512 + row) e) (hj : j < 128) :
    SMap.getD e.acc (accKey array row j) 0 = 0 := by
  unfold SMap.getD
  cases hGet : SMap.get? e.acc (accKey array row j) with
  | none => rfl
  | some x =>
    refine absurd ?_ (h _ (mem_of_get? hGet))
    simp only [accKey]
    omega

theorem clearRow_acc (array row : Nat) (e : CellEng) : (clearRow array row e).acc = e.acc.filter fun p => p.1 / 128 != array * 512 + row := by
  unfold clearRow
  extract_lets r g cleared e1
  split <;> rfl

@[simp] theorem clearRow_galley (array row : Nat) (e : CellEng) : (clearRow array row e).galley = e.galley := by
  unfold clearRow
  extract_lets r g cleared e1
  split <;> rfl

theorem clearRow_clears (array row : Nat) (e : CellEng) : RowClear (array * 512 + row) (clearRow array row e) := by
  intro p hp
  rw [clearRow_acc] at hp
  simpa using (List.mem_filter.mp hp).2

theorem RowClear.clearRow {k : Nat} {e : CellEng} (h : RowClear k e) (array row : Nat) : RowClear k (clearRow array row e) := by
  intro p hp
  rw [clearRow_acc] at hp
  exact h p (List.mem_filter.mp hp).1

/-- Clear the rows of a strip. -/
def clearRows (rows : List (Nat × Nat)) (e : CellEng) : CellEng := rows.foldl (fun e p => clearRow p.1 p.2 e) e

@[simp] theorem clearRows_galley (rows : List (Nat × Nat)) (e : CellEng) : (clearRows rows e).galley = e.galley :=
  List.foldlRecOn (motive := fun x : CellEng => x.galley = e.galley) rows _ rfl fun _ h _ _ => (clearRow_galley _ _ _).trans h

theorem RowClear.clearRows {k : Nat} {e : CellEng} (h : RowClear k e) (rows : List (Nat × Nat)) : RowClear k (clearRows rows e) :=
  List.foldlRecOn (motive := RowClear k) rows _ h fun _ h _ _ => h.clearRow _ _

theorem clearRows_clears {array row : Nat} : ∀ {rows : List (Nat × Nat)} (e : CellEng), (array, row) ∈ rows →
    RowClear (array * 512 + row) (clearRows rows e)
  | p :: rest, e, h => by
    rcases List.mem_cons.mp h with rfl | h
    · exact (clearRow_clears array row e).clearRows rest
    · exact clearRows_clears (rows := rest) (clearRow p.1 p.2 e) h

/-! ### The galley (R126, R148, R149) -/

theorem loseAll_galley (keys : List Nat) (e : CellEng) : (e.loseAll keys).galley = e.galley :=
  List.foldlRecOn (motive := fun x : CellEng => x.galley = e.galley) keys _ rfl fun _ h _ _ => h

theorem raiseGroup_galley (e : CellEng) (lead0 : Int) (g delta : Nat) : (raiseGroup e lead0 g delta).1.galley = e.galley :=
  loseAll_galley _ _

/-- A re-lead for an addend moves no tile of the galley (R86, R95). -/
theorem addendRelead_galley (s : State) (cell : Nat) (d : DrainDesc) (te : TabEntry) (rows : List (Nat × Nat)) (e : CellEng) :
    (addendRelead s cell d te rows e).eng.galley = e.galley := by
  unfold addendRelead
  split
  · rfl
  · extract_lets n at'
    refine List.foldlRecOn (motive := fun x : AddendOut => x.eng.galley = e.galley) _ _ rfl fun x hx g _ => ?_
    extract_lets mine tiles st held lead tops big up r
    split
    · exact hx
    · have hRaise : r.1.galley = x.eng.galley := by
        unfold r
        split
        · exact raiseGroup_galley _ _ _ _
        · rfl
      exact hRaise.trans hx

@[simp] theorem galleyTiles_length (rows : List (Nat × Nat)) (vals : Nat → Nat → W32) : (galleyTiles rows vals).length = (stripGroups rows).length :=
  List.length_map _

/-- A final drain to the galley alone lays its tiles behind those that stand there, and clears its rows (R94, R122). -/
theorem drainFinal_engOf {d : DrainDesc} (cell : Nat) (te : TabEntry) (s : State) (hGalley : d.toGalley = true) (hOut : d.outFmt = none)
    (hTopk : d.topk = false) (hCompare : d.compare = false) : ∃ vals, engOf (drainFinal cell d te s) cell
      = clearRows (stripRows d)
          { (addendRelead s cell d te (stripRows d) (engOf s cell)).eng with
            galley := (engOf s cell).galley ++ galleyTiles (stripRows d) vals } := by
  refine ⟨?vals, ?_⟩
  rotate_left
  simp only [drainFinal, drainOutput, hGalley, hOut, hTopk, hCompare, Bool.false_eq_true, if_false, if_true, engOf_setEng_same,
    addendRelead_galley]
  rfl

/-! ### DRAIN -/

theorem exec_drain (cell : Nat) (d : DrainDesc) (s : State) : exec (.drain cell d) s = effect (runDrain cell d) s := rfl

/-- A drain finds its galley slots, behind no drain that waits (R126, R148). -/
def findsSlots (d : DrainDesc) (e : CellEng) : Prop := galleyNeed d = 0 ∨ (e.waiting = [] ∧ galleyNeed d ≤ galleyFree e)

section
variable {s : State} {cell : Nat} {d : DrainDesc}

theorem runDrain_of_not (h : mayRun s cell (.drain d) = false) : runDrain cell d s = s := by
  simp [runDrain, h]

theorem runDrain_of_behind {w : HeldPass} (hMay : mayRun s cell (.drain d) = true) (hHeld : (engOf s cell).held = some w)
    (hBehind : behindHeld s cell d = true) :
    runDrain cell d s = setEng cell { engOf s cell with held := some { w with drains := w.drains ++ [d] } } s := by
  simp [runDrain, hMay, hBehind, onEng, hHeld]

theorem runDrain_of_slots (hMay : mayRun s cell (.drain d) = true) (hBehind : behindHeld s cell d = false)
    (hFinds : findsSlots d (engOf s cell)) : runDrain cell d s = finishItem cell (.drain d) (drainNow cell d s) := by
  have hSlots : (galleyNeed d = 0 || ((engOf s cell).waiting.isEmpty && decide (galleyNeed d ≤ galleyFree (engOf s cell)))) = true := by
    simpa [findsSlots] using hFinds
  simp only [runDrain, hMay, hBehind, takeSlots, Bool.not_true, Bool.false_eq_true, if_false]
  exact if_pos hSlots

theorem runDrain_of_no_slots (hMay : mayRun s cell (.drain d) = true) (hBehind : behindHeld s cell d = false)
    (hFinds : ¬ findsSlots d (engOf s cell)) :
    runDrain cell d s = setEng cell { engOf s cell with waiting := (engOf s cell).waiting ++ [d] } s := by
  have hSlots : ¬ (galleyNeed d = 0 || ((engOf s cell).waiting.isEmpty && decide (galleyNeed d ≤ galleyFree (engOf s cell)))) = true := by
    simpa [findsSlots] using hFinds
  simp only [runDrain, hMay, hBehind, takeSlots, Bool.not_true, Bool.false_eq_true, if_false]
  exact if_neg hSlots

/-- What a drain to the galley alone makes of its cell. -/
theorem drained_engOf (hTable : (tabEntry s d.tensor).isSome = true) (hFinal : d.final = true) (hGalley : d.toGalley = true) (hOut : d.outFmt = none)
    (hTopk : d.topk = false) (hCompare : d.compare = false) :
    ∃ e vals, engOf (finishItem cell (.drain d) (drainNow cell d s)) cell = clearRows (stripRows d) e
      ∧ e.galley = (engOf s cell).galley ++ galleyTiles (stripRows d) vals := by
  obtain ⟨te, hTe⟩ := Option.isSome_iff_exists.mp hTable
  have hNow : drainNow cell d s = drainFinal cell d te s := by simp [drainNow, hTe, hFinal]
  obtain ⟨vals, hEng⟩ := drainFinal_engOf cell te s hGalley hOut hTopk hCompare
  exact ⟨_, vals, by rw [(finishItem_does _ _ _).engOf_eq cell, hNow, hEng], rfl⟩

end

/-- The engines of one cell change, and nothing else. -/
theorem completes_of_setEng {f : State → State} {s : State} {cell : Nat} {e : CellEng} (h : f s = setEng cell e s) :
    ∃ t, effect f s = .next t ∧ engOf t cell = e ∧ (∀ c, c ≠ cell → engOf t c = engOf s c) ∧ t.frame = s.frame ∧ t.caseMem = s.caseMem
      ∧ t.stats = s.stats :=
  ⟨_, effect_eq_next h rfl, engOf_setEng_same cell e s, fun _ hc => engOf_setEng_ne hc e s, rfl, rfl, rfl⟩

/-- Settles O25. A drain that may run stands behind a held pass, finds its slots, or waits for them. -/
theorem drainRuns : Obligations.DrainRuns := by
  unfold Obligations.DrainRuns
  refine ⟨fun s cell d hNot => effect_of_eq (runDrain_of_not hNot),
    fun s cell d w hMay hHeld hBehind => completes_of_setEng (runDrain_of_behind hMay hHeld hBehind), fun s cell d hMay hBehind => ?_⟩
  have hRuns (hFinds : findsSlots d (engOf s cell)) :
      exec (.drain cell d) s = .next (finishItem cell (.drain d) (drainNow cell d s)) :=
    effect_eq_next (runDrain_of_slots hMay hBehind hFinds) ((finishItem_does _ _ _).pending_eq.trans (drainNow_does _ _ _).pending_eq)
  refine ⟨hRuns, fun hFinds hTable hFinal hGalley hOut hTopk hCompare => ?_,
    fun hFinds => completes_of_setEng (runDrain_of_no_slots hMay hBehind hFinds)⟩
  obtain ⟨e, vals, hEng, hTiles⟩ := drained_engOf (cell := cell) hTable hFinal hGalley hOut hTopk hCompare
  refine ⟨_, hRuns hFinds, fun a r j hRow _ hj => ?_, ?_, ?_⟩
  · rw [hEng]
    exact (clearRows_clears e hRow).getD_eq_zero hj
  · rw [hEng, clearRows_galley, hTiles, List.length_append, galleyTiles_length, galleyNeed, if_pos hGalley]
  · rw [hEng, clearRows_galley, hTiles, List.take_left]

end Sys2Proof.Machine
end

section
/-! PROOFS. Slots of the mailbox: what taking, accepting and completing make of one (R263, R274, R275). -/

namespace Sys2Proof.Machine
open Sys2Proof

/-! ### Reading a slot -/

theorem Does.flash_eq {l : List Comp} {s t : State} (h : Does l s t) (hk : Comp.flash ∉ l := by decide) : t.flash = s.flash := h.same hk

theorem Does.mbx_eq {l : List Comp} {s t : State} (h : Does l s t) (hk : Comp.mbx ∉ l := by decide) : t.mbx = s.mbx := h.same hk

theorem Does.staging_eq {l : List Comp} {s t : State} (h : Does l s t) (hk : Comp.staging ∉ l := by decide) : t.staging = s.staging := h.same hk

/-- An operation that leaves the ports leaves their slots. -/
theorem Does.slotAt_eq {l : List Comp} {s t : State} (h : Does l s t) (p : PPort) (n : Nat) (hA : Comp.portA ∉ l := by decide)
    (hB : Comp.portB ∉ l := by decide) : slotAt p n t = slotAt p n s := by
  have hPort : getPPort p t = getPPort p s := by
    cases p with
    | a => exact h.same hA
    | b => exact h.same hB
  rw [slotAt, hPort, slotAt]

@[simp] theorem slotAt_setSlot_same (p : PPort) (n : Nat) (x : Slot) (s : State) : slotAt p n (setSlot p n x s) = x := by
  simp [slotAt, setSlot]

/-- A change of a port that keeps its slots. -/
theorem slotAt_onPort {f : PortSt → PortSt} (hf : ∀ q, (f q).slots = q.slots) (q p : PPort) (n : Nat) (s : State) :
    slotAt p n (onPort q f s) = slotAt p n s := by
  cases q <;> cases p <;> simp [slotAt, onPort, setPPort, getPPort, hf]

theorem slotAt_onPorts {f : PortSt → PortSt} (hf : ∀ q, (f q).slots = q.slots) (p : PPort) (n : Nat) (s : State) :
    slotAt p n (onPorts f s) = slotAt p n s := by
  cases p <;> simp [slotAt, onPorts, getPPort, hf]

@[simp] theorem slotAt_dueRecord (q p : PPort) (n : Nat) (r : ComplRec) (s : State) : slotAt p n (dueRecord q r s) = slotAt p n s := by
  unfold dueRecord
  split
  · rfl
  · exact slotAt_onPort (fun q => by split <;> rfl) _ _ _ _

/-! ### A slot becomes DONE -/

/-- A completion reaches the slot: it is TAKEN, or ACCEPTED on a chip that no RESET has silenced (R263, R273). -/
def SlotOpen (p : PPort) (n : Nat) (s : State) : Prop :=
  (slotAt p n s).st = .taken ∨ ((slotAt p n s).st = .accepted ∧ s.mbx.silenced = false)

/-- The slot of a command as it reads in two states. -/
structure SameCommand (a : Arrival) (s u : State) : Prop where
  opcode : (slotAt a.port a.slot u).opcode = (slotAt a.port a.slot s).opcode
  tag : (slotAt a.port a.slot u).tag = (slotAt a.port a.slot s).tag
  tick : u.tick = s.tick

theorem SameCommand.trans {a : Arrival} {s u t : State} (h : SameCommand a s u) (h' : SameCommand a u t) : SameCommand a s t :=
  ⟨h'.opcode.trans h.opcode, h'.tag.trans h.tag, h'.tick.trans h.tick⟩

theorem Does.sameCommand {l : List Comp} {s u : State} (h : Does l s u) (a : Arrival) (hA : Comp.portA ∉ l := by decide)
    (hB : Comp.portB ∉ l := by decide) (hTick : Comp.tick ∉ l := by decide) : SameCommand a s u := by
  have hSlot := h.slotAt_eq a.port a.slot hA hB
  exact ⟨by rw [hSlot], by rw [hSlot], h.same hTick⟩

theorem completeSlot_done {a : Arrival} {status reason : Nat} {result : List Byte} {s u : State} (hOpen : SlotOpen a.port a.slot u)
    (hSame : SameCommand a s u) : slotDone a status reason result s (completeSlot a.port a.slot status reason result u) := by
  have hGuard : ¬ (((slotAt a.port a.slot u).st != .taken && (slotAt a.port a.slot u).st != .accepted)
      || (u.mbx.silenced && decide ((slotAt a.port a.slot u).st = .accepted))) = true := by
    rcases hOpen with h | ⟨h, hLoud⟩
    · simp [h]
    · simp [h, hLoud]
  have hSlot : slotAt a.port a.slot (completeSlot a.port a.slot status reason result u) = { slotAt a.port a.slot u with
      st := .done
      status := BitVec.ofNat 16 status
      resLen := BitVec.ofNat 16 result.length
      reason := BitVec.ofNat 16 reason
      doneTick := u.tick.count
      payload := result ++ (slotAt a.port a.slot u).payload.drop result.length } := by
    unfold completeSlot
    rw [if_neg hGuard]
    exact (slotAt_dueRecord _ _ _ _ _).trans (slotAt_setSlot_same _ _ _ _)
  unfold slotDone
  rw [hSlot]
  exact ⟨rfl, rfl, rfl, rfl, List.take_left, congrArg TickSt.count hSame.tick, hSame.opcode, hSame.tag⟩

/-- What reads a slot DONE sees the slot alone. -/
theorem slotDone_of_slot_eq {a : Arrival} {status reason : Nat} {result : List Byte} {s t u : State} (h : slotDone a status reason result s u)
    (hSlot : slotAt a.port a.slot t = slotAt a.port a.slot u) : slotDone a status reason result s t := by
  unfold slotDone at *
  rw [hSlot]
  exact h

/-- An ACCEPTED command whose slot is still open ends DONE. -/
theorem finishAcc_done {x : Acc} {status reason : Nat} {result : List Byte} {s u : State} (alive : Bool) (hAccepted : (slotAt x.port x.slot u).st = .accepted)
    (hLoud : u.mbx.silenced = false) (hSame : SameCommand { port := x.port, slot := x.slot, alive := alive } s u) :
    slotDone { port := x.port, slot := x.slot, alive := alive } status reason result s (finishAcc x status reason result u) := by
  have hFilter := set_mbx_does u { u.mbx with accepted := u.mbx.accepted.filter (· != x) } rfl
  have hSlot := hFilter.slotAt_eq x.port x.slot
  refine completeSlot_done (.inr ⟨?_, hLoud⟩) ⟨?_, ?_, hSame.tick⟩
  · rw [hSlot]
    exact hAccepted
  · rw [hSlot]
    exact hSame.opcode
  · rw [hSlot]
    exact hSame.tag

theorem completeSlot_mbx (p : PPort) (n status reason : Nat) (result : List Byte) (s : State) :
    (completeSlot p n status reason result s).mbx = s.mbx :=
  (completeSlot_does p n status reason result s).mbx_eq

/-! ### A command that no check refuses -/

@[simp] theorem slotAt_takeSlot (a : Arrival) (s : State) :
    slotAt a.port a.slot (takeSlot a s) = { slotAt a.port a.slot s with st := .taken } :=
  slotAt_setSlot_same _ _ _ _

theorem takeSlot_sameCommand (a : Arrival) (s : State) : SameCommand a s (takeSlot a s) :=
  ⟨by rw [slotAt_takeSlot], by rw [slotAt_takeSlot], (takeSlot_does a s).tick_eq⟩

theorem takeSlot_accepted (a : Arrival) (s : State) : (takeSlot a s).mbx.accepted = s.mbx.accepted := by
  simp [takeSlot, setSlot]

/-- Firmware runs a command that it takes and no check of R275 refuses. -/
theorem command_of_issued {c : Instr} {op : Nat} {ok : Cmd → State → Bool} (hRow : mailboxRow c = some (op, ok)) {s : State} {a : Arrival}
    (h : issued c s a = true) (run : Cmd → State → State) : command op ok run s = run (cmdOf a s) (takeSlot a s) := by
  simp only [issued, hRow, Bool.and_eq_true, decide_eq_true_eq, Option.isNone_iff_eq_none] at h
  obtain ⟨⟨hNext, hOp⟩, hNone⟩ := h
  simp only [command, hNext, hOp, if_true, hNone]

/-- A command that completes at once leaves its slot DONE. -/
theorem finish_done {a : Arrival} {s u : State} (status : Nat) (result : List Byte) (hTaken : (slotAt a.port a.slot u).st = .taken)
    (hSame : SameCommand a s u) : slotDone a status 0 result s ((cmdOf a s).finish status result u) :=
  completeSlot_done (.inl hTaken) hSame

/-- A taken command that becomes ACCEPTED (R263, R277). -/
theorem accept_accepted (op : Nat) (result : List Byte) (a : Arrival) (s : State) :
    slotAccepted a op result s ((cmdOf a s).accept op result (takeSlot a s)) := by
  unfold slotAccepted
  have hSlot : slotAt a.port a.slot ((cmdOf a s).accept op result (takeSlot a s)) = { slotAt a.port a.slot (takeSlot a s) with
      st := .accepted
      status := BitVec.ofNat 16 stAccepted
      reason := 0
      resLen := BitVec.ofNat 16 result.length
      payload := result ++ (slotAt a.port a.slot (takeSlot a s)).payload.drop result.length } :=
    ((set_mbx_does _ _ rfl).slotAt_eq a.port a.slot).trans (slotAt_setSlot_same _ _ _ _)
  rw [hSlot]
  refine ⟨rfl, rfl, List.take_left, ?_⟩
  simp only [Cmd.accept, setSlot, onPort_mbx, takeSlot_accepted]
  rfl

end Sys2Proof.Machine
end

section
/-! PROOFS. LOUPE in isolation, and firmware staged and activated (R100, R115, R307, R309, R407, R420, R421, R425). -/

namespace Sys2Proof.Machine
open Sys2Proof

/-! ### LOUPE (R100, R307) -/

theorem exec_loupe (s : State) : exec .loupe s = effect (command 0x0090 loupeArgs (checked loupeFits (fun c s => c.accept 0x90 [] s))) s := rfl

theorem exec_loupeRunDone (s : State) : exec .loupeRunDone s = effect (onlyIf (coreRuns s) runLoupeDone) s := rfl

theorem recordsOf_congr {s t : State} (h : t.image = s.image) (cell : Nat) : recordsOf t cell = recordsOf s cell := by
  unfold recordsOf redirect
  rw [h]

theorem loupePass_congr {s t : State} (h : t.image = s.image) (args : List Byte) : loupePass args t = loupePass args s := by
  have hRecord : loupeRecord args t = loupeRecord args s := by rw [loupeRecord, recordsOf_congr h, loupeRecord]
  rw [loupePass, hRecord, loupePass]

/-- Whether a LOUPE fits depends on the image and the map of cells. -/
theorem loupeFits_congr {s t : State} (hImage : t.image = s.image) (hCells : t.cells = s.cells) (c : Cmd) : loupeFits c t = loupeFits c s := by
  rw [loupeFits, loupePass_congr hImage, cellState, hCells]
  rfl

/-- The guard of a loupe that runs: its binding takes the tiles, its cell may issue, and its region's clocks run (R115, R267, R407). -/
def loupeMayRun (s : State) (x : Acc) : Prop :=
  dmaReady s true (fieldN x.args 3 1) = true ∧ ceilingOf 4 s (fieldN x.args 0 2) ≠ 0 ∧ cellRegion (fieldN x.args 0 2) ∉ s.clocks.stopped

section
variable {s : State} {x : Acc}

theorem runLoupeDone_of_waits (hAcc : acceptedOp s 0x90 = some x) (hNot : ¬ loupeMayRun s x) : runLoupeDone s = s := by
  simp only [runLoupeDone, hAcc]
  refine if_pos ?_
  by_contra hGuard
  simp only [Bool.or_eq_true, Bool.not_eq_true', decide_eq_true_eq, List.contains_iff_mem, not_or, Bool.not_eq_false] at hGuard
  obtain ⟨⟨hReady, hCeil⟩, hClock⟩ := hGuard
  exact hNot ⟨hReady, hCeil, hClock⟩

theorem runLoupeDone_of_runs (hAcc : acceptedOp s 0x90 = some x) (hRuns : loupeMayRun s x) : runLoupeDone s =
    if dmaFits s (fieldN x.args 3 1) (fieldN x.args 16 8) (loupeTiles x.args s).1.length then
      finishAcc x stDone 0 [] (hostWrite (fieldN x.args 3 1) (fieldN x.args 16 8) (loupeTiles x.args s).1
        { s with freeIdx := (loupeTiles x.args s).2.freeIdx })
    else finishAcc x stBadArgument 0 [] s := by
  obtain ⟨hReady, hCeil, hClock⟩ := hRuns
  simp only [runLoupeDone, hAcc]
  exact if_neg (by simp [hReady, hCeil, hClock])

theorem hostMem_finishAcc (x : Acc) (status reason : Nat) (result : List Byte) (s : State) :
    (finishAcc x status reason result s).mbx.hostMem = s.mbx.hostMem := by
  rw [finishAcc, completeSlot_mbx]

/-- What bytes host memory takes depends on the binding alone. -/
theorem hostMem_hostWrite_freeIdx (b off n : Nat) (bytes : List Byte) (s : State) :
    (hostWrite b off bytes { s with freeIdx := n }).mbx.hostMem = (hostWrite b off bytes s).mbx.hostMem := by
  have hBind : bindOf { s with freeIdx := n } b = bindOf s b := by
    unfold bindOf
    cases bindPort b <;> rfl
  unfold hostWrite
  rw [hBind]
  cases bindOf s b <;> rfl

theorem silenced_hostWrite (b off : Nat) (bytes : List Byte) (s : State) : (hostWrite b off bytes s).mbx.silenced = s.mbx.silenced := by
  unfold hostWrite
  split <;> rfl

/-- A loupe that has run leaves its tiles in host memory, its slot DONE, and the free values that it drew. -/
theorem loupe_done (hAccepted : (slotAt x.port x.slot s).st = .accepted) (hLoud : s.mbx.silenced = false) (b off n : Nat) (bytes : List Byte) :
    let t := finishAcc x stDone 0 [] (hostWrite b off bytes { s with freeIdx := n })
    t.mbx.hostMem = (hostWrite b off bytes s).mbx.hostMem
      ∧ slotDone { port := x.port, slot := x.slot, alive := true } stDone 0 [] s t
      ∧ Does [.portA, .portB, .mbx, .freeIdx] s t := by
  intro t
  have hWritten : Does [.mbx, .freeIdx] s (hostWrite b off bytes { s with freeIdx := n }) :=
    does_by (hostWrite_does b off bytes _) (does_mono (set_freeIdx_does s n) (by decide))
  refine ⟨(hostMem_finishAcc _ _ _ _ _).trans (hostMem_hostWrite_freeIdx _ _ _ _ _), ?_,
    does_by (finishAcc_does _ _ _ _ _) (does_mono hWritten (by decide))⟩
  refine finishAcc_done true ?_ ?_ (hWritten.sameCommand _)
  · rw [hWritten.slotAt_eq]
    exact hAccepted
  · rw [silenced_hostWrite]
    exact hLoud

end

/-! ### The boot record and the banks (R420, R421) -/

/-- Two flash states hold the same boot records and banks. -/
structure SameBoot (f g : FlashSt) : Prop where
  copy0 : g.copy0 = f.copy0
  copy1 : g.copy1 = f.copy1
  bank0 : g.bank0 = f.bank0
  bank1 : g.bank1 = f.bank1

namespace SameBoot

theorem refl (f : FlashSt) : SameBoot f f := ⟨rfl, rfl, rfl, rfl⟩

theorem trans {f g h : FlashSt} (a : SameBoot f g) (b : SameBoot g h) : SameBoot f h :=
  ⟨b.copy0.trans a.copy0, b.copy1.trans a.copy1, b.bank0.trans a.bank0, b.bank1.trans a.bank1⟩

theorem of_eq {f g : FlashSt} (h : g = f) : SameBoot f g := h ▸ refl f

theorem of_does {l : List Comp} {s t : State} (h : Does l s t) (hk : Comp.flash ∉ l := by decide) : SameBoot s.flash t.flash := of_eq (h.flash_eq hk)

theorem second {f g : FlashSt} (h : SameBoot f g) : g.second = f.second := by
  rw [FlashSt.second, h.copy0, h.copy1, FlashSt.second]

theorem bootRec {f g : FlashSt} (h : SameBoot f g) : g.bootRec = f.bootRec := by
  rw [FlashSt.bootRec, h.second, h.copy0, h.copy1, FlashSt.bootRec]

end SameBoot

/-- A record that is written comes into force, until its sequence number wraps (R421). -/
theorem bootRec_writeBoot {f : FlashSt} (primary slotB : Nat) (swap : Bool) (hSeq : f.bootRec.sequence.toNat + 1 < 2 ^ 32) :
    (f.writeBoot primary slotB swap).bootRec = { sequence := f.bootRec.sequence + 1, primary := primary, slotB := slotB, swap := swap } := by
  have hNext : (f.bootRec.sequence + 1).toNat = f.bootRec.sequence.toNat + 1 := by
    rw [BitVec.toNat_add]
    exact Nat.mod_eq_of_lt hSeq
  unfold FlashSt.writeBoot FlashSt.overCopy
  by_cases hSecond : f.second = true
  · rw [if_pos hSecond]
    obtain ⟨r, hOther, hForce⟩ : ∃ r, f.copy1 = some r ∧ f.bootRec = r := by
      cases h1 : f.copy1 with
      | none => simp [FlashSt.second, h1] at hSecond
      | some r => exact ⟨r, rfl, by simp [FlashSt.bootRec, hSecond, h1]⟩
    have hFirst : FlashSt.second { f with copy0 := some { sequence := f.bootRec.sequence + 1, primary := primary, slotB := slotB, swap := swap } }
        = false := by
      rw [hForce] at hNext
      simp only [FlashSt.second, hOther, hForce, decide_eq_false_iff_not, hNext]
      omega
    rw [FlashSt.bootRec, hFirst]
    rfl
  · rw [if_neg hSecond]
    have hAfter : FlashSt.second { f with copy1 := some { sequence := f.bootRec.sequence + 1, primary := primary, slotB := slotB, swap := swap } }
        = true := by
      cases h0 : f.copy0 with
      | none => rfl
      | some r =>
        have hForce : f.bootRec = r := by simp [FlashSt.bootRec, hSecond, h0]
        rw [hForce] at hNext
        simp only [FlashSt.second, hForce, decide_eq_true_eq, hNext]
        omega
    rw [FlashSt.bootRec, hAfter]
    rfl

theorem writeBoot_banks (primary slotB : Nat) (swap : Bool) (f : FlashSt) :
    (f.writeBoot primary slotB swap).bank0 = f.bank0 ∧ (f.writeBoot primary slotB swap).bank1 = f.bank1 := by
  unfold FlashSt.writeBoot FlashSt.overCopy
  split <;> exact ⟨rfl, rfl⟩

theorem bootRec_setSlotB (x : Bank) (f : FlashSt) : (setSlotB x f).bootRec = f.bootRec := by
  unfold setSlotB
  split <;> rfl

/-! ### Events leave the boot record and the banks

The collectors write to flash only through the queue of event records (R441). -/

theorem recordAt_boot (tick : W64) (type : Nat) (payload : List Byte) (s : State) : SameBoot s.flash (recordAt tick type payload s).flash := by
  unfold recordAt
  extract_lets n r
  split <;> exact ⟨rfl, rfl, rfl, rfl⟩

theorem latchEvent_boot (l : Level) (unit source : Nat) (forced early : Bool) (s : State) :
    SameBoot s.flash (latchEvent l unit source forced early s).1.flash := by
  unfold latchEvent
  split
  · exact .refl _
  extract_lets f t s1
  split
  · exact (SameBoot.of_does (setSticky_does _ s1)).trans (recordAt_boot _ _ _ _)
  · exact .refl _

theorem countSimple_boot (l : Level) (unit source : Nat) (forced early act : Bool) (s : State) :
    SameBoot s.flash (countSimple l unit source forced early act s).flash := by
  unfold countSimple
  extract_lets f action r t
  have hEvent : SameBoot s.flash t.flash := by
    unfold t
    split
    · exact (latchEvent_boot l unit source forced early s).trans (.of_does (eventAction_does l unit action r.1))
    · exact latchEvent_boot l unit source forced early s
  split
  · exact hEvent.trans (.of_does (severeNow_does l unit source _ action t))
  · exact hEvent

theorem loseLane_boot (p lane : Nat) (s : State) : SameBoot s.flash (loseLane p lane s).flash := by
  unfold loseLane
  split
  · exact (SameBoot.of_does (removeLane_does p lane s)).trans (countSimple_boot _ _ _ _ _ _ _)
  · exact .refl _

theorem dropNow_boot (l : Level) (unit source action : Nat) (early : Bool) (s : State) :
    SameBoot s.flash (dropNow l unit source action early s).flash := by
  unfold dropNow
  split
  · exact .of_does (severeNow_does l unit source false action s)
  unfold dropWorstLane
  extract_lets c old
  split
  · exact .refl _
  split
  · exact .of_does (askRetrain_does _ s)
  · exact loseLane_boot _ _ s

theorem countEvent_boot (l : Level) (unit source : Nat) (s : State) : SameBoot s.flash (countEvent l unit source s).flash := by
  have hLatch := latchEvent_boot l unit source false false s
  unfold countEvent countEventWith
  dsimp only
  split_ifs
  · exact hLatch.trans (dropNow_boot l unit source _ false _)
  · exact hLatch
  · exact (SameBoot.of_does (standFault_does l unit source false s)).trans (countSimple_boot l unit source false false true _)

/-- The reads that the flash reports, counted one by one (R420). -/
def countReads (n : Nat) (s : State) : State := (List.range n).foldl (fun s _ => countEvent .chip 0 5 s) s

theorem countReads_boot (n : Nat) (s : State) : SameBoot s.flash (countReads n s).flash :=
  List.foldlRecOn (motive := fun x : State => SameBoot s.flash x.flash) _ _ (.refl _) fun _ h _ _ => h.trans (countEvent_boot _ _ _ _)

/-! ### FIRMWARE_STAGE_DONE and FIRMWARE_ACTIVATE (R309, R425) -/

theorem exec_firmwareStageDone (s : State) : exec .firmwareStageDone s = effect (onlyIf (coreRuns s) runStageDone) s := rfl

theorem exec_firmwareActivate (s : State) :
    exec .firmwareActivate s = effect (command 0x00A1 (fun c _ => c.argLen = 4 && c.n 0 1 < 2 && c.zero 1 3) runActivate) s := rfl

/-- The flash behind a stage that ends with a status: slot B takes the bank, and a boot record names it staged or empty. -/
def stagedFlash (x : Bank) (w : Nat) (f : FlashSt) : FlashSt :=
  (setSlotB x f).writeBoot f.primary (if w = stDone then 2 else 0) f.swap

theorem bootRec_stagedFlash {x : Bank} {w : Nat} {f g : FlashSt} (h : SameBoot f g) (hSeq : f.bootRec.sequence.toNat + 1 < 2 ^ 32) :
    (stagedFlash x w g).bootRec =
      { sequence := f.bootRec.sequence + 1, primary := f.primary, slotB := if w = stDone then 2 else 0, swap := f.swap } := by
  have hSlot : (setSlotB x g).bootRec = f.bootRec := (bootRec_setSlotB x g).trans h.bootRec
  rw [stagedFlash, bootRec_writeBoot _ _ _ (hSlot.symm ▸ hSeq), hSlot, FlashSt.primary, FlashSt.swap, h.bootRec]
  rfl

theorem banks_stagedFlash {x : Bank} {w : Nat} {f g : FlashSt} (h : SameBoot f g) :
    (f.primary = 0 → (stagedFlash x w g).bank1 = x ∧ (stagedFlash x w g).bank0 = f.bank0)
      ∧ (f.primary ≠ 0 → (stagedFlash x w g).bank0 = x ∧ (stagedFlash x w g).bank1 = f.bank1) := by
  obtain ⟨hBank0, hBank1⟩ := writeBoot_banks g.primary (if w = stDone then 2 else 0) g.swap (setSlotB x g)
  have hPrimary : g.primary = f.primary := by rw [FlashSt.primary, h.bootRec, FlashSt.primary]
  rw [stagedFlash, hBank0, hBank1, setSlotB, hPrimary]
  exact ⟨fun hA => by rw [if_pos hA]; exact ⟨rfl, h.bank0⟩, fun hB => by rw [if_neg hB]; exact ⟨rfl, h.bank1⟩⟩

theorem runStageDone_of_none {s : State} (h : s.staging.stage = none) : runStageDone s = s := by
  simp only [runStageDone, h]

theorem runStageDone_of_some {s : State} {x : Bank} {v : Nat} (h : s.staging.stage = some (x, v)) : runStageDone s =
    finishCmd 0xA0 (stageStatus v s) 0 [] (onStaging (fun _ => StagingSt.reset)
      (onFlash (stagedFlash x (stageStatus v s)) (countReads (s.staging.corrected + s.staging.badReads) s))) := by
  simp only [runStageDone, h]
  rfl

theorem stageDone_staging_flash {s : State} {x : Bank} {v : Nat} (h : s.staging.stage = some (x, v)) :
    (runStageDone s).staging = StagingSt.reset ∧ ∃ g, SameBoot s.flash g ∧ (runStageDone s).flash = stagedFlash x (stageStatus v s) g := by
  rw [runStageDone_of_some h]
  exact ⟨(finishCmd_does _ _ _ _ _).staging_eq, _, countReads_boot _ s, (finishCmd_does _ _ _ _ _).flash_eq⟩

/-- A command that completes and resets the chip (R283, R309). -/
theorem finishAndReset_done {a : Arrival} {s u : State} (hTaken : (slotAt a.port a.slot u).st = .taken) (hSame : SameCommand a s u) :
    slotDone a stDone 0 [] s (finishAndReset (cmdOf a s) u)
      ∧ (finishAndReset (cmdOf a s) u).dev.resetAt = some (s.tick.timeUs + 1000) := by
  have hSlots : slotAt a.port a.slot (onPorts (fun q => { q with waiting := [] }) u) = slotAt a.port a.slot u :=
    slotAt_onPorts (f := fun q => { q with waiting := [] }) (fun _ => rfl) _ _ _
  have hDone := finish_done (a := a) (s := s) (u := onPorts (fun q => { q with waiting := [] }) u) stDone [] (by rw [hSlots]; exact hTaken)
    ⟨by rw [hSlots]; exact hSame.opcode, by rw [hSlots]; exact hSame.tag, hSame.tick⟩
  refine ⟨slotDone_of_slot_eq hDone ?_, ?_⟩
  · unfold finishAndReset
    rw [(onDev_does _ _).slotAt_eq, (onMbx_does (fun m => { m with silenced := true }) _ rfl).slotAt_eq]
  · rw [← hSame.tick]
    rfl

/-- The taken command's state with the swap asked for in the boot record (R425). -/
def activated (a : Arrival) (s : State) : State := onFlash (fun f => f.writeBoot f.primary f.slotB true) (takeSlot a s)

theorem activated_does (a : Arrival) (s : State) : Does [.portA, .portB, .mbx, .flash] s (activated a s) :=
  does_by (onFlash_does _ _) (does_mono (takeSlot_does a s) (by decide))

section
variable {s : State} {a : Arrival}

theorem activated_taken : (slotAt a.port a.slot (activated a s)).st = .taken := by
  rw [activated, (onFlash_does _ _).slotAt_eq, slotAt_takeSlot]

theorem activated_sameCommand : SameCommand a s (activated a s) :=
  (takeSlot_sameCommand a s).trans ((onFlash_does _ _).sameCommand a)

theorem activated_flash : (activated a s).flash = s.flash.writeBoot s.flash.primary s.flash.slotB true := by
  rw [activated, onFlash_flash, (takeSlot_does a s).flash_eq]

/-- Only a staged image activates (R425). -/
theorem activate_of_not_staged (h : s.flash.slotB ≠ 2) : runActivate (cmdOf a s) (takeSlot a s) = (cmdOf a s).finish stWrongState [] (takeSlot a s) := by
  have hFlash : (takeSlot a s).flash = s.flash := (takeSlot_does a s).flash_eq
  simp [runActivate, hFlash, h]

theorem activate_of_staged (h : s.flash.slotB = 2) : runActivate (cmdOf a s) (takeSlot a s) =
    if bitOf ((cmdOf a s).n 0 1) 0 then finishAndReset (cmdOf a s) (activated a s) else (cmdOf a s).finish stDone [] (activated a s) := by
  have hFlash : (takeSlot a s).flash = s.flash := (takeSlot_does a s).flash_eq
  simp only [runActivate, hFlash, h, bne_self_eq_false, Bool.false_eq_true, if_false]
  rfl

end

/-! ### The obligation -/

section
variable {s : State} {a : Arrival}

theorem loupe_outcomes (hIssued : issued .loupe s a = true) :
    (loupeFits (cmdOf a s) s = true → completes .loupe s fun t => slotAccepted a 0x90 [] s t)
      ∧ (loupeFits (cmdOf a s) s = false → completes .loupe s fun t => slotDone a stBadArgument 0 [] s t) := by
  have hTake := takeSlot_does a s
  have hRun := command_of_issued (op := 0x90) rfl hIssued (checked loupeFits fun c s => c.accept 0x90 [] s)
  rw [checked, loupeFits_congr hTake.image_eq hTake.cells_eq] at hRun
  refine ⟨fun hFits => ?_, fun hNot => ?_⟩
  · rw [if_pos hFits] at hRun
    exact ⟨_, effect_eq_next hRun ((Cmd_accept_does _ _ _ _).pending_eq.trans hTake.pending_eq), accept_accepted 0x90 [] a s⟩
  · rw [if_neg (ne_true_of_eq_false hNot)] at hRun
    exact ⟨_, effect_eq_next hRun ((Cmd_finish_does _ _ _ _).pending_eq.trans hTake.pending_eq),
      finish_done stBadArgument [] (by rw [slotAt_takeSlot]) (takeSlot_sameCommand a s)⟩

theorem exec_loupeRunDone_of_runs {t : State} (hCore : coreRuns s = true) (h : runLoupeDone s = t) (hPending : t.pending = s.pending) :
    exec .loupeRunDone s = .next t :=
  (exec_loupeRunDone s).trans ((effect_onlyIf_of_true hCore).trans (effect_eq_next h hPending))

theorem firmwareActivate_outcomes (hIssued : issued .firmwareActivate s a = true) :
    (s.flash.slotB ≠ 2 → completes .firmwareActivate s fun t => slotDone a stWrongState 0 [] s t ∧ t.flash = s.flash ∧ t.dev = s.dev)
      ∧ (s.flash.slotB = 2 → completes .firmwareActivate s fun t => slotDone a stDone 0 [] s t
        ∧ t.flash = s.flash.writeBoot s.flash.primary s.flash.slotB true
        ∧ (bitOf ((cmdOf a s).n 0 1) 0 = true → t.dev.resetAt = some (s.tick.timeUs + 1000))
        ∧ (bitOf ((cmdOf a s).n 0 1) 0 = false → t.dev = s.dev)) := by
  have hTake := takeSlot_does a s
  have hRun := command_of_issued (op := 0xA1) rfl hIssued runActivate
  refine ⟨fun hNot => ?_, fun hStaged => ?_⟩
  · have hFinish := Cmd_finish_does (cmdOf a s) stWrongState [] (takeSlot a s)
    exact ⟨_, effect_eq_next (hRun.trans (activate_of_not_staged hNot)) (hFinish.pending_eq.trans hTake.pending_eq),
      finish_done stWrongState [] (by rw [slotAt_takeSlot]) (takeSlot_sameCommand a s), hFinish.flash_eq.trans hTake.flash_eq,
      hFinish.dev_eq.trans hTake.dev_eq⟩
  · have hRun := hRun.trans (activate_of_staged hStaged)
    have hActivated := activated_does a s
    cases hReset : bitOf ((cmdOf a s).n 0 1) 0 with
    | true =>
      rw [if_pos hReset] at hRun
      have hFinish := finishAndReset_does (cmdOf a s) (activated a s)
      obtain ⟨hDone, hResetAt⟩ := finishAndReset_done activated_taken (activated_sameCommand (a := a) (s := s))
      exact ⟨_, effect_eq_next hRun (hFinish.pending_eq.trans hActivated.pending_eq), hDone, hFinish.flash_eq.trans activated_flash,
        fun _ => hResetAt, fun h => absurd h (by decide)⟩
    | false =>
      rw [if_neg (ne_true_of_eq_false hReset)] at hRun
      have hFinish := Cmd_finish_does (cmdOf a s) stDone [] (activated a s)
      exact ⟨_, effect_eq_next hRun (hFinish.pending_eq.trans hActivated.pending_eq), finish_done stDone [] activated_taken activated_sameCommand,
        hFinish.flash_eq.trans activated_flash, fun h => absurd h (by decide), fun _ => hFinish.dev_eq.trans hActivated.dev_eq⟩

theorem exec_loupeRunDone_of_not (h : coreRuns s = false ∨ acceptedOp s 0x90 = none) : exec .loupeRunDone s = .next s := by
  rw [exec_loupeRunDone]
  rcases h with hCore | hNone
  · exact effect_onlyIf_of_false hCore
  · exact effect_of_eq (by simp [onlyIf, runLoupeDone, hNone])

theorem loupeRunDone_outcomes {x : Acc} (hCore : coreRuns s = true) (hAcc : acceptedOp s 0x90 = some x) :
    let r := loupeTiles x.args s
    let b := fieldN x.args 3 1
    let off := fieldN x.args 16 8
    (loupeMayRun s x → dmaFits s b off r.1.length = true → s.mbx.silenced = false → (slotAt x.port x.slot s).st = .accepted →
        completes .loupeRunDone s fun t => t.mbx.hostMem = (hostWrite b off r.1 s).mbx.hostMem
          ∧ slotDone { port := x.port, slot := x.slot, alive := true } stDone 0 [] s t
          ∧ onlyChanges [.portA, .portB, .mbx, .freeIdx] s t)
      ∧ (loupeMayRun s x → dmaFits s b off r.1.length = false → exec .loupeRunDone s = .next (finishAcc x stBadArgument 0 [] s))
      ∧ (¬ loupeMayRun s x → exec .loupeRunDone s = .next s) := by
  intro r b off
  refine ⟨fun hRuns hFits hLoud hAccepted => ?_, fun hRuns hNot => ?_, fun hNot => ?_⟩
  · obtain ⟨hMem, hDone, hOnly⟩ := loupe_done hAccepted hLoud b off r.2.freeIdx r.1
    have hRun := (runLoupeDone_of_runs hAcc hRuns).trans (if_pos hFits)
    exact ⟨_, exec_loupeRunDone_of_runs hCore hRun hOnly.pending_eq, hMem, hDone, hOnly.only⟩
  · have hRun := (runLoupeDone_of_runs hAcc hRuns).trans (if_neg (ne_true_of_eq_false hNot))
    exact exec_loupeRunDone_of_runs hCore hRun (finishAcc_does _ _ _ _ _).pending_eq
  · exact exec_loupeRunDone_of_runs hCore (runLoupeDone_of_waits hAcc hNot) rfl

theorem exec_firmwareStageDone_of_not (h : coreRuns s = false ∨ s.staging.stage = none) : exec .firmwareStageDone s = .next s := by
  rw [exec_firmwareStageDone]
  rcases h with hCore | hNone
  · exact effect_onlyIf_of_false hCore
  · exact effect_of_eq (by simp [onlyIf, runStageDone_of_none hNone])

theorem firmwareStageDone_outcome {x : Bank} {v : Nat} (hCore : coreRuns s = true) (hStage : s.staging.stage = some (x, v)) :
    ∃ g, SameBoot s.flash g
      ∧ completes .firmwareStageDone s fun t => t.staging = StagingSt.reset ∧ t.flash = stagedFlash x (stageStatus v s) g := by
  obtain ⟨hStaging, g, hBoot, hFlash⟩ := stageDone_staging_flash hStage
  exact ⟨g, hBoot, _, (exec_firmwareStageDone s).trans (effect_onlyIf_of_true hCore), hStaging, hFlash⟩

end

/-- Settles O60. A LOUPE that fits is ACCEPTED, and its run is `loupe_done`; a stage writes the boot record behind its events, which leave the boot
records and the banks alone. -/
theorem loupeAndFirmware : Obligations.LoupeAndFirmware := by
  unfold Obligations.LoupeAndFirmware
  refine ⟨fun s a hIssued => loupe_outcomes hIssued, fun s hNot => exec_loupeRunDone_of_not hNot,
    fun s x hCore hAcc => loupeRunDone_outcomes hCore hAcc, fun s hNot => exec_firmwareStageDone_of_not hNot, fun s x v hCore hStage => ?_,
    fun s a hIssued => firmwareActivate_outcomes hIssued⟩
  obtain ⟨g, hBoot, t, hExec, hStaging, hFlash⟩ := firmwareStageDone_outcome hCore hStage
  refine ⟨t, hExec, hStaging, ?_⟩
  rw [hFlash]
  exact ⟨bootRec_stagedFlash hBoot, banks_stagedFlash hBoot⟩

end Sys2Proof.Machine
end

section
/-! PROOFS. The swap of weight tiles and the galley slots that are freed (R28, R102, R109, R126, R128, R148, R406). -/

namespace Sys2Proof.Machine
open Sys2Proof

/-! ### WEIGHT_SWAP (R102, R109, R128) -/

theorem exec_weightSwap (cell : Nat) (s : State) : exec (.weightSwap cell) s = effect (onlyIf (cellWorks s cell) (runWeightSwap cell)) s := rfl

section
variable {s : State} {cell : Nat}

/-- While a pass is held, the swap waits for its arrays. -/
theorem runWeightSwap_of_held (hHeld : (engOf s cell).held.isSome = true) : runWeightSwap cell s = s := if_pos hHeld

theorem runWeightSwap_of_next {w : WTile} (hHeld : (engOf s cell).held = none) (hNext : (engOf s cell).next = some w) :
    runWeightSwap cell s
      = setEng cell { engOf s cell with active := some w, next := followingTile s cell (some w), swapped := true } s := by
  simp [runWeightSwap, hHeld, hNext, onEng]

theorem runWeightSwap_of_no_next (hHeld : (engOf s cell).held = none) (hNext : (engOf s cell).next = none) :
    runWeightSwap cell s
      = if (passesLeft s cell).isEmpty then s else setEng cell ((engOf s cell).stopArrays (ceilingOf 64 s cell)) s := by
  simp [runWeightSwap, hHeld, hNext, onEng]

theorem engOf_runWeightSwap_of_no_next (hHeld : (engOf s cell).held = none) (hNext : (engOf s cell).next = none) :
    engOf (runWeightSwap cell s) cell
      = if (passesLeft s cell).isEmpty then engOf s cell else (engOf s cell).stopArrays (ceilingOf 64 s cell) := by
  rw [runWeightSwap_of_no_next hHeld hNext]
  split_ifs
  · rfl
  · exact engOf_setEng_same _ _ _

theorem engOf_runWeightSwap_ne {c : Nat} (h : c ≠ cell) : engOf (runWeightSwap cell s) c = engOf s c := by
  unfold runWeightSwap
  split
  · rfl
  · split
    · exact engOf_setEng_ne h _ _
    · split
      · rfl
      · exact engOf_setEng_ne h _ _

end

/-! ### Freed slots (R148) -/

/-- The tiles that stay keep their order: freeing only takes tiles out. -/
theorem freeSlots_galley_sublist (e : CellEng) : (freeSlots e).galley.Sublist e.galley := by
  have hKept : (freeSlots e).galley.Sublist (((List.range e.galley.length).zip e.galley).map (·.2)) := List.filter_sublist.map _
  rwa [List.map_snd_zip (by simp)] at hKept

/-! ### What waits in a cell goes on (R126, R148) -/

section
variable {s : State} {cell : Nat}

theorem wakePass_of_not_held (hHeld : (engOf s cell).held = none) : wakePass cell s = s := by
  simp [wakePass, hHeld]

/-- A drain that still finds too few slots holds back all that wait behind it. -/
theorem wakeList_of_too_few {d : DrainDesc} {rest : List DrainDesc} (h : galleyFree (engOf s cell) < galleyNeed d) :
    wakeList cell (d :: rest) s = s := if_neg (Nat.not_le.mpr h)

theorem wakeDrain_of_stuck (hHeld : (engOf s cell).held = none) (hStuck : wakeList cell (engOf s cell).waiting s = s) : wakeDrain cell s = s := by
  simp only [wakeDrain, hStuck, wakePass_of_not_held hHeld]

/-! ### GALLEY_SLOT_FREE (R28, R126, R148, R406) -/

theorem exec_galleySlotFree (cell : Nat) (s : State) : exec (.galleySlotFree cell) s = effect (runGalleySlotFree cell) s := rfl

theorem runGalleySlotFree_of_still (h : coreRuns s = false ∨ cellRegion cell ∈ s.clocks.stopped) : runGalleySlotFree cell s = s :=
  if_pos (by simpa using h)

theorem exec_galleySlotFree_of_runs (hCore : coreRuns s = true) (hRegion : cellRegion cell ∉ s.clocks.stopped) :
    exec (.galleySlotFree cell) s = .next (onlyIf (cellActive s cell) (wakeDrain cell) (onEng cell freeSlots s)) := by
  have hRun : runGalleySlotFree cell s = onlyIf (cellActive s cell) (wakeDrain cell) (onEng cell freeSlots s) :=
    if_neg (by simp [hCore, hRegion])
  exact effect_eq_next hRun (hRun ▸ (runGalleySlotFree_does cell s).pending_eq)

/-- Where no pass is held and the waiting drains stay as they are, the slots are freed and nothing goes on. -/
theorem exec_galleySlotFree_of_stuck (hCore : coreRuns s = true) (hRegion : cellRegion cell ∉ s.clocks.stopped)
    (hHeld : (engOf s cell).held = none)
    (hStuck : wakeList cell (engOf s cell).waiting (onEng cell freeSlots s) = onEng cell freeSlots s) :
    exec (.galleySlotFree cell) s = .next (onEng cell freeSlots s) := by
  have hWake : wakeDrain cell (onEng cell freeSlots s) = onEng cell freeSlots s :=
    wakeDrain_of_stuck (by rw [engOf_onEng_same]; exact hHeld) (by rw [engOf_onEng_same]; exact hStuck)
  rw [exec_galleySlotFree_of_runs hCore hRegion, onlyIf, hWake, ite_self]

end

/-! ### The obligation -/

/-- Settles O24. A swap under a working cell is one update of the cell's engines; a release frees the slots, and what waits goes on only where
the first waiting drain finds its slots or a pass is held. -/
theorem weightsAndGalleySlots : Obligations.WeightsAndGalleySlots := by
  unfold Obligations.WeightsAndGalleySlots
  refine ⟨fun s cell hWorks hHeld => ?_, fun s cell hWorks hHeld => ?_, fun s cell hNot => ?_, fun s cell hStill => ?_,
    fun s cell hCore hRegion => ⟨fun hIdle => ?_, fun hActive => ?_, fun hNone hHeld => ?_, fun d rest hWaiting hHeld hFew => ?_⟩⟩
  · rw [exec_weightSwap, effect_onlyIf_of_true hWorks]
    exact effect_of_eq (runWeightSwap_of_held hHeld)
  · have hRun : exec (.weightSwap cell) s = .next (runWeightSwap cell s) := by
      rw [exec_weightSwap, effect_onlyIf_of_true hWorks]
      exact effect_eq_next rfl (runWeightSwap_does cell s).pending_eq
    refine ⟨_, hRun, fun w hNext => ?_, fun hNext => engOf_runWeightSwap_of_no_next hHeld hNext, fun c hc => engOf_runWeightSwap_ne hc⟩
    rw [runWeightSwap_of_next hHeld hNext, engOf_setEng_same]
  · rw [exec_weightSwap, effect_onlyIf_of_false hNot]
  · rw [exec_galleySlotFree, effect_of_eq (runGalleySlotFree_of_still hStill)]
  · rw [exec_galleySlotFree_of_runs hCore hRegion, hIdle]
    rfl
  · rw [exec_galleySlotFree_of_runs hCore hRegion, hActive]
    rfl
  · refine ⟨_, exec_galleySlotFree_of_stuck hCore hRegion hHeld (by rw [hNone]; rfl), engOf_onEng_same _ _ _, ?_, ?_, rfl⟩
    · rw [engOf_onEng_same, freeSlots]
    · rw [engOf_onEng_same]
      exact (freeSlots_galley_sublist _).length_le
  · refine exec_galleySlotFree_of_stuck hCore hRegion hHeld ?_
    rw [hWaiting]
    exact wakeList_of_too_few (by rwa [engOf_onEng_same])

end Sys2Proof.Machine
end

section
/-! PROOFS. How a vector instruction runs: a program with its repeats (R162), one instruction on its own, and the three kinds of registers of a
cell (R150). The obligation on the vector registers. -/

namespace Sys2Proof.Machine
open Sys2Proof

/-! ### Registers (R150)

A write reaches its own register alone. Only of a map whose keys rise does a deletion leave the other keys. -/

theorem engOf_onEng_ne {cell c : Nat} (h : c ≠ cell) (f : CellEng → CellEng) (s : State) : engOf (onEng cell f s) c = engOf s c :=
  engOf_setEng_ne h _ s

theorem vregOf_setVreg_of_ne_cell {cell c : Nat} (h : c ≠ cell) (r q : Nat) (v : BitVec 4096) (s : State) :
    vregOf (setVreg cell r v s) c q = vregOf s c q := by
  rw [vregOf, setVreg, engOf_onEng_ne h, vregOf]

theorem vregOf_setVreg_of_ne {s : State} {cell r q : Nat} (hRise : keysRise (engOf s cell).vregs) (h : q ≠ r) (v : BitVec 4096) :
    vregOf (setVreg cell r v s) cell q = vregOf s cell q := by
  rw [vregOf, setVreg, engOf_onEng_same]
  exact getD_putD_ne h hRise 0 v 0

/-- An update of a cell's engines that leaves its mask registers leaves the masks of every cell. -/
theorem mregOf_onEng {cell : Nat} {g : CellEng → CellEng} (hg : ∀ e, (g e).mregs = e.mregs) (s : State) (c m : Nat) :
    mregOf (onEng cell g s) c m = mregOf s c m := by
  by_cases h : c = cell
  · rw [mregOf, h, engOf_onEng_same, hg, ← h, ← mregOf]
  · rw [mregOf, engOf_onEng_ne h, ← mregOf]

/-- One that leaves its long-word registers leaves those of every cell. -/
theorem lregOf_onEng {cell : Nat} {g : CellEng → CellEng} (hg : ∀ e, (g e).lregs = e.lregs) (s : State) (c r : Nat) :
    lregOf (onEng cell g s) c r = lregOf s c r := by
  by_cases h : c = cell
  · rw [lregOf, h, engOf_onEng_same, hg, ← h, ← lregOf]
  · rw [lregOf, engOf_onEng_ne h, ← lregOf]

/-- One that leaves its vector registers leaves those of every cell. -/
theorem vregOf_onEng {cell : Nat} {g : CellEng → CellEng} (hg : ∀ e, (g e).vregs = e.vregs) (s : State) (c r : Nat) :
    vregOf (onEng cell g s) c r = vregOf s c r := by
  by_cases h : c = cell
  · rw [vregOf, h, engOf_onEng_same, hg, ← h, ← vregOf]
  · rw [vregOf, engOf_onEng_ne h, ← vregOf]

@[simp] theorem mregOf_setVreg (cell r : Nat) (v : BitVec 4096) (s : State) (c m : Nat) : mregOf (setVreg cell r v s) c m = mregOf s c m :=
  mregOf_onEng (by intro; rfl) s c m

@[simp] theorem lregOf_setVreg (cell r : Nat) (v : BitVec 4096) (s : State) (c q : Nat) : lregOf (setVreg cell r v s) c q = lregOf s c q :=
  lregOf_onEng (by intro; rfl) s c q

@[simp] theorem mregOf_setLreg (cell r : Nat) (v : LReg) (s : State) (c m : Nat) : mregOf (setLreg cell r v s) c m = mregOf s c m :=
  mregOf_onEng (by intro; rfl) s c m

@[simp] theorem vregOf_setLreg (cell r : Nat) (v : LReg) (s : State) (c q : Nat) : vregOf (setLreg cell r v s) c q = vregOf s c q :=
  vregOf_onEng (by intro; rfl) s c q

@[simp] theorem lregOf_setLreg_same (cell r : Nat) (v : LReg) (s : State) : lregOf (setLreg cell r v s) cell r = v := by
  rw [lregOf, setLreg, engOf_onEng_same]
  exact getD_put_same _ _ _ _

/-- Settles O14. The register reads as put; the mask and long-word registers stand in maps of their own. -/
theorem vectorRegisterReadBack : Obligations.VectorRegisterReadBack := by
  unfold Obligations.VectorRegisterReadBack
  intro s cell r v
  refine ⟨vregOf_setVreg s cell r v, fun c q hc => vregOf_setVreg_of_ne_cell hc r q v s, fun hRise => ⟨?_, fun q hq => ?_⟩, fun c q => ⟨?_, ?_⟩⟩
  · rw [setVreg, engOf_onEng_same]
    exact rise_putD r 0 v hRise
  · exact vregOf_setVreg_of_ne hRise hq v
  · exact mregOf_setVreg cell r v s c q
  · exact lregOf_setVreg cell r v s c q

/-! ### A program and its repeats (R162) -/

/-- A run before its first instruction. -/
abbrev VRun.start (s : State) : VRun := { s := s, adj := [], need := [], ok := true }

@[simp] theorem VRun.on_s (g : State → State) (x : VRun) : (x.on g).s = g x.s := rfl

@[simp] theorem VRun.on_ok (g : State → State) (x : VRun) : (x.on g).ok = x.ok := rfl

@[simp] theorem VRun.on_adj (g : State → State) (x : VRun) : (x.on g).adj = x.adj := rfl

@[simp] theorem VRun.stop_ok (x : VRun) : x.stop.ok = false := rfl

/-- The repeats read of a run only what raises it needs and whether it stops. -/
theorem repeatsOf_congr {run run' : SMap Nat → VRun} (hNeed : ∀ delta, (run delta).need = (run' delta).need)
    (hOk : ∀ delta, (run delta).ok = (run' delta).ok) (n : Nat) : ∀ delta rel, repeatsOf run n delta rel = repeatsOf run' n delta rel := by
  induction n with
  | zero => exact fun _ _ => rfl
  | succ n ih =>
    intro delta rel
    rw [repeatsOf, repeatsOf, hNeed, hOk, ih]

/-- A program does what its last repeat does, with one re-lead counted for each raise; where that repeat stops or still needs a raise, the
program does not run. -/
theorem runProgram_eq_repeats {run : SMap Nat → VRun} {cell : Nat} {prog : List VInstr} {s : State}
    (hRun : ∀ delta, prog.foldl (vStep delta cell) (VRun.start s) = run delta) (n : Nat) : ∀ (delta : SMap Nat) (rel : List (Nat × Int)),
    runProgram cell prog s (n + 1) delta rel = if (run (repeatsOf run n delta rel).1).ok = true ∧ (run (repeatsOf run n delta rel).1).need = []
      then some (countReleads (repeatsOf run n delta rel).2 (run (repeatsOf run n delta rel).1).s) else none := by
  have hOne : ∀ n delta rel, runProgram cell prog s (n + 1) delta rel = if (run delta).ok = false then none
      else if (run delta).need = [] then some (countReleads rel (run delta).s)
      else runProgram cell prog s n ((run delta).need.foldl (fun d p => SMap.modify d p.1 0 (fun o => o + p.2.1)) delta)
        (rel ++ (run delta).need.map (fun p => p.2.2)) := by
    intro n delta rel
    rw [runProgram]
    dsimp only
    rw [hRun]
    simp only [Bool.not_eq_true', List.isEmpty_iff]
    rfl
  induction n with
  | zero =>
    intro delta rel
    rw [hOne, repeatsOf]
    cases hOk : (run delta).ok <;> simp [runProgram]
  | succ n ih =>
    intro delta rel
    rw [hOne, ih, repeatsOf]
    cases hOk : (run delta).ok
    · simp [hOk]
    · by_cases hNeed : (run delta).need = [] <;> simp [hOk, hNeed]

/-- Where the first run needs no raise there is no repeat. -/
theorem repeatsOf_of_done {run : SMap Nat → VRun} {delta : SMap Nat} (h : (run delta).need = [] ∨ (run delta).ok = false) (n : Nat)
    (rel : List (Nat × Int)) : repeatsOf run n delta rel = (delta, rel) := by
  cases n with
  | zero => rfl
  | succ n => exact if_pos h

/-! ### One instruction on its own -/

theorem exec_vecCmd (op : VOp) (cell : Nat) (f : VFields) (s : State) : exec (vecCmd op cell f) s = effect (runOne cell op f) s := by
  cases op <;> rfl

theorem pending_notMem_touches_vecCmd (op : VOp) (cell : Nat) (f : VFields) : Comp.pending ∉ touches (vecCmd op cell f) := by
  cases op <;> simp [vecCmd, touches]

theorem runOne_pending (op : VOp) (cell : Nat) (f : VFields) (s : State) : (runOne cell op f s).pending = s.pending :=
  (runOne_touches op cell f s).pending_eq (pending_notMem_touches_vecCmd op cell f)

theorem exec_vecCmd_of_eq {op : VOp} {cell : Nat} {f : VFields} {s t : State} (h : runOne cell op f s = t) : exec (vecCmd op cell f) s = .next t := by
  rw [exec_vecCmd]
  exact effect_eq_next h (h ▸ runOne_pending op cell f s)

section
variable {op : VOp} {cell : Nat} {f : VFields} {s : State}

/-- On a cell that does not run it, an instruction does nothing. -/
theorem exec_vecCmd_of_not_runs (h : vectorRuns s cell { op := op, f := f } = false) : exec (vecCmd op cell f) s = .next s :=
  exec_vecCmd_of_eq (if_neg (by simp [h]))

/-- An instruction that stops does nothing. -/
theorem exec_vecCmd_of_stop (h : (vStep [] cell (VRun.start s) { op := op, f := f }).ok = false) : exec (vecCmd op cell f) s = .next s := by
  refine exec_vecCmd_of_eq ?_
  have hNone : runVector cell [{ op := op, f := f }] s = none := by
    rw [runVector, runProgram_eq_repeats (run := fun delta => vStep delta cell (VRun.start s) { op := op, f := f }) (fun _ => rfl),
      repeatsOf_of_done (.inr h)]
    exact if_neg (by simp [h])
  rw [runOne, hNone]
  exact ite_self s

/-- One that runs with its repeats does what its last repeat does. -/
theorem exec_vecCmd_of_repeats {run : SMap Nat → VRun} (hRuns : vectorRuns s cell { op := op, f := f } = true)
    (hRun : ∀ delta, vStep delta cell (VRun.start s) { op := op, f := f } = run delta) {r : SMap Nat × List (Nat × Int)}
    (hRepeats : repeatsOf run 1099 [] [] = r) (hOk : (run r.1).ok = true) (hNeed : (run r.1).need = []) :
    exec (vecCmd op cell f) s = .next (countReleads r.2 (run r.1).s) := by
  refine exec_vecCmd_of_eq ?_
  rw [runOne, if_pos hRuns, runVector, runProgram_eq_repeats (run := run) (prog := [{ op := op, f := f }]) hRun, hRepeats, if_pos ⟨hOk, hNeed⟩]
  rfl

/-- One that needs no raise runs once. -/
theorem exec_vecCmd_of_clean (hRuns : vectorRuns s cell { op := op, f := f } = true)
    (hOk : (vStep [] cell (VRun.start s) { op := op, f := f }).ok = true)
    (hNeed : (vStep [] cell (VRun.start s) { op := op, f := f }).need = []) :
    exec (vecCmd op cell f) s = .next (vStep [] cell (VRun.start s) { op := op, f := f }).s :=
  exec_vecCmd_of_eq (runOne_eq cell op f s hRuns hOk hNeed)

/-- One that is a plain change of the state makes that change. The premise on `vStep` holds by `rfl` for each opcode. -/
theorem exec_vecCmd_of_on {g : State → State} (hRuns : vectorRuns s cell { op := op, f := f } = true) (hLegal : VInstr.legal { op := op, f := f } = true)
    (hStep : vStep [] cell (VRun.start s) { op := op, f := f }
      = if (!true || !VInstr.legal { op := op, f := f }) = true then (VRun.start s).stop else (VRun.start s).on g) :
    exec (vecCmd op cell f) s = .next (g s) := by
  rw [if_neg (by simp [hLegal])] at hStep
  rw [exec_vecCmd_of_clean hRuns (by rw [hStep]; rfl) (by rw [hStep]; rfl), hStep]
  rfl

theorem legal_of_widths (hWidth : f.w ∈ op.widths) (hMask : op.toMask = true → 0 < f.vd ∧ f.vd < 8) : VInstr.legal { op := op, f := f } = true := by
  cases h : op.toMask <;> simp_all [VInstr.legal]

/-- A reserved instruction stops. -/
theorem vStep_of_not_legal {i : VInstr} (h : i.legal = false) (delta : SMap Nat) (x : VRun) : vStep delta cell x i = x.stop :=
  if_pos (by simp [h])

end

end Sys2Proof.Machine
end

section
/-! PROOFS. Instructions on lanes: arithmetic, compares, masks, SEL and CVT (R150 to R152, R154 to R156). -/

namespace Sys2Proof.Machine
open Sys2Proof

/-! ### Lanes -/

theorem getD_map_range {β : Type} (g : Nat → β) (d : β) {n l : Nat} (hl : l < n) : ((List.range n).map g).getD l d = g l := by
  rw [List.getD_eq_getElem?_getD, List.getElem?_map, List.getElem?_range hl, Option.map_some, Option.getD_some]

theorem getElem?_lanesOf {w l : Nat} (hl : l < laneNum w) (v : BitVec 4096) : (lanesOf w v)[l]? = some (lane w v l) := by
  simp [lanesOf, lane, hl]

theorem getElem?_lanesF {w l : Nat} (hw : w < 2) (hl : l < laneNum w) (v : BitVec 4096) : (lanesF w v)[l]? = some (laneF w v l) := by
  rw [lanesF, List.getElem?_map, getElem?_lanesOf hl, laneF, Option.map_some]
  split
  next h => rw [h]
  next h => rw [show w = 0 by omega]

theorem getElem?_lanesI {l : Nat} (hl : l < 512) (v : BitVec 4096) : (lanesI v)[l]? = some (laneI v l) := by
  rw [lanesI, List.getElem?_map, getElem?_lanesOf (w := 2) hl]
  rfl

@[simp] theorem length_lanesF (w : Nat) (v : BitVec 4096) : (lanesF w v).length = laneNum w := by simp [lanesF, lanesOf]

@[simp] theorem length_lanesI (v : BitVec 4096) : (lanesI v).length = 512 := by simp [lanesI, lanesOf, laneNum]

theorem getElem?_operandB {s : State} {f : VFields} {l : Nat} (hw : f.w < 2) (hl : l < laneNum f.w) (cell : Nat) :
    (operandB s cell f)[l]? = some (opB s cell f l) := by
  unfold operandB opB
  split
  · exact List.getElem?_replicate_of_lt hl
  · exact getElem?_lanesF hw hl _

theorem getElem?_operandB8 {l : Nat} (hl : l < 512) (s : State) (cell : Nat) (f : VFields) :
    (operandB8 s cell f).1[l]? = some (opB8 s cell f l) := by
  unfold operandB8 opB8
  split
  · rw [List.getElem?_replicate_of_lt hl, drawFree]
  · rw [getElem?_lanesI hl]

theorem operandB8_snd (s : State) (cell : Nat) (f : VFields) : (operandB8 s cell f).2 = afterB8 s f := by
  unfold operandB8 afterB8
  split <;> rfl

/-- Drawing a free value leaves the engines. -/
theorem engOf_afterB8 (s : State) (f : VFields) (cell : Nat) : engOf (afterB8 s f) cell = engOf s cell := by
  unfold afterB8
  split <;> rfl

theorem lane_two_lt (v : BitVec 4096) (l : Nat) : lane 2 v l < 256 := lane_lt 2 v l

/-- A byte that is read as INT8 and written back is the byte. -/
theorem lowBits_signExt {n : Nat} (h : n < 256) : lowBits 8 (signExt 8 n) = n := by
  unfold lowBits signExt
  simp only [p2_eq]
  split <;> omega

theorem lowBits_lt (n : Nat) (x : Int) : lowBits n x < p2 n := by
  have hPos : (0 : Int) < (p2 n : Int) := by
    rw [p2_eq]
    exact_mod_cast Nat.two_pow_pos n
  have hLow := Int.emod_nonneg x (ne_of_gt hPos)
  have hHigh := Int.emod_lt_of_pos x hPos
  unfold lowBits
  omega

theorem roundAt_lt {w : Nat} (hw : w < 2) (x : W32 ⊕ (Bool × Dy)) : roundAt w x < p2 (laneBits w) := by
  rw [p2_eq]
  rcases (by omega : w = 0 ∨ w = 1) with rfl | rfl
  · exact (toF32 x).isLt
  · exact (toBf x).isLt

theorem toNat_lt_lane_zero (x : W32) : x.toNat < p2 (laneBits 0) := by
  rw [p2_eq]
  exact x.isLt

theorem toNat_lt_lane_one (x : W16) : x.toNat < p2 (laneBits 1) := by
  rw [p2_eq]
  exact x.isLt

/-! ### Registers whose lanes are known -/

section
variable {s t : State} {cell : Nat} {f : VFields}

theorem laneOn_congr (h : engOf t cell = engOf s cell) (l : Nat) : laneOn t cell f l = laneOn s cell f l := by
  rw [laneOn, mregOf, h, laneOn, mregOf]

/-- What holds of a register's lanes reads of the state only the cell's engines, and of the results only those within the width. -/
theorem lanesHold_congr {w : Nat} {v : BitVec 4096} {res res' : Nat → Nat} (hEng : engOf t cell = engOf s cell)
    (hRes : ∀ l, l < laneNum w → res l = res' l) (h : lanesHold t cell f w v res) : lanesHold s cell f w v res' := by
  intro l hl
  rw [h l hl, laneOn_congr hEng, vregOf, hEng, hRes l hl, ← vregOf]

theorem bitsHold_congr {n : Nat} {v : BitVec 512} {res res' : Nat → Bool} (hEng : engOf t cell = engOf s cell)
    (hRes : ∀ l, l < n → res l = res' l) (h : bitsHold t cell f n v res) : bitsHold s cell f n v res' := by
  intro l hl
  rw [h l hl, laneOn_congr hEng, mregOf, hEng, ← mregOf]
  split
  · rfl
  next hIn => rw [hRes l (Nat.not_le.mp hIn)]

/-- Lanes written from a state with the engines of `s`. -/
theorem writeLanes_holds {w : Nat} {vals : List Nat} {res : Nat → Nat} (hEng : engOf t cell = engOf s cell)
    (hVals : ∀ l, l < laneNum w → vals.getD l 0 = res l) (hFit : ∀ l, l < laneNum w → res l < p2 (laneBits w)) :
    ∃ v, writeLanes cell f w vals t = setVreg cell f.vd v t ∧ lanesHold s cell f w v res := by
  obtain ⟨v, hWrite, hLanes⟩ := writeLanes_eq cell f w vals t (fun l hl => by rw [hVals l hl]; exact hFit l hl)
  exact ⟨v, hWrite, lanesHold_congr hEng hVals hLanes⟩

theorem writeMask_holds {n : Nat} {bits res : Nat → Bool} (hEng : engOf t cell = engOf s cell) (hBits : ∀ l, l < n → bits l = res l) :
    ∃ v, writeMask cell f n bits t = setMreg cell f.vd v t ∧ bitsHold s cell f n v res := by
  obtain ⟨v, hWrite, hHold⟩ := writeMask_eq cell f n bits t
  exact ⟨v, hWrite, bitsHold_congr hEng hBits hHold⟩

/-! ### Element-wise operations (R152, R154) -/

theorem binaryOp_holds (g : W32 → W32 → W32 ⊕ (Bool × Dy)) (g8 : Int → Int → Int) (hw : f.w < 2) :
    ∃ v, binaryOp g g8 cell f s = setVreg cell f.vd v s
      ∧ lanesHold s cell f f.w v (fun l => roundAt f.w (g (laneF f.w (vregOf s cell f.va) l) (opB s cell f l))) := by
  rw [binaryOp, if_neg (by omega)]
  refine writeLanes_holds rfl (fun l hl => ?_) (fun l _ => roundAt_lt hw _)
  simp [mapLanes, List.getElem?_zipWith, getElem?_lanesF hw hl, getElem?_operandB hw hl]

theorem binaryOp8_holds (g : W32 → W32 → W32 ⊕ (Bool × Dy)) (g8 : Int → Int → Int) (hw : f.w = 2) :
    ∃ v, binaryOp g g8 cell f s = setVreg cell f.vd v (afterB8 s f)
      ∧ lanesHold s cell f 2 v (fun l => lowBits 8 (g8 (laneI (vregOf s cell f.va) l) (opB8 s cell f l))) := by
  rw [binaryOp, if_pos hw]
  dsimp only
  rw [operandB8_snd]
  refine writeLanes_holds (engOf_afterB8 s f cell) (fun l hl => ?_) (fun l _ => lowBits_lt 8 _)
  simp [List.getElem?_zipWith, getElem?_lanesI (l := l) hl, getElem?_operandB8 (l := l) hl]

theorem unaryOp_holds {w : Nat} (g : W32 → W32) (hWidth : f.w = w) (hw : w < 2) :
    ∃ v, unaryOp g cell f s = setVreg cell f.vd v s
      ∧ lanesHold s cell f w v (fun l => roundAt f.w (.inl (g (laneF f.w (vregOf s cell f.va) l)))) := by
  subst hWidth
  refine writeLanes_holds rfl (fun l hl => ?_) (fun l _ => roundAt_lt hw _)
  simp [getElem?_lanesF hw hl]

theorem compareOp_holds (g : W32 → W32 → Bool) (g8 : Int → Int → Bool) (hw : f.w < 2) :
    ∃ v, compareOp g g8 cell f s = setMreg cell f.vd v s
      ∧ bitsHold s cell f (laneNum f.w) v (fun l => g (laneF f.w (vregOf s cell f.va) l) (opB s cell f l)) := by
  rw [compareOp, if_neg (by omega)]
  refine writeMask_holds rfl (fun l hl => ?_)
  simp [List.getElem?_zipWith, getElem?_lanesF hw hl, getElem?_operandB hw hl]

theorem compareOp8_holds (g : W32 → W32 → Bool) (g8 : Int → Int → Bool) (hw : f.w = 2) :
    ∃ v, compareOp g g8 cell f s = setMreg cell f.vd v (afterB8 s f)
      ∧ bitsHold s cell f 512 v (fun l => g8 (laneI (vregOf s cell f.va) l) (opB8 s cell f l)) := by
  rw [compareOp, if_pos hw]
  dsimp only
  rw [operandB8_snd]
  refine writeMask_holds (engOf_afterB8 s f cell) (fun l hl => ?_)
  simp [List.getElem?_zipWith, getElem?_lanesI hl, getElem?_operandB8 hl]

theorem maskOp_holds (g : Bool → Bool → Bool) :
    ∃ v, maskOp g cell f s = setMreg cell f.vd v s
      ∧ bitsHold s cell f 512 v (fun l => g ((mregOf s cell f.va).getLsbD l) ((mregOf s cell f.vb).getLsbD l)) :=
  writeMask_holds rfl (fun _ _ => rfl)

/-! ### From an operation to its command -/

/-- A command whose operation writes register vd from a state `u` with the lanes `res`. -/
theorem exec_of_lanes {op : VOp} {g : State → State} {u : State} {w : Nat} {res : Nat → Nat} (hWidth : f.w ∈ op.widths) (hOp : op.toMask = false)
    (hStep : vStep [] cell (VRun.start s) { op := op, f := f }
      = if (!true || !VInstr.legal { op := op, f := f }) = true then (VRun.start s).stop else (VRun.start s).on g)
    (hHolds : ∃ v, g s = setVreg cell f.vd v u ∧ lanesHold s cell f w v res) (hRuns : vectorRuns s cell { op := op, f := f } = true) :
    ∃ v, exec (vecCmd op cell f) s = .next (setVreg cell f.vd v u) ∧ lanesHold s cell f w v res := by
  obtain ⟨v, hWrite, hLanes⟩ := hHolds
  exact ⟨v, hWrite ▸ exec_vecCmd_of_on hRuns (legal_of_widths hWidth (by simp [hOp])) hStep, hLanes⟩

/-- A command whose operation writes mask register vd. -/
theorem exec_of_bits {op : VOp} {g : State → State} {u : State} {n : Nat} {res : Nat → Bool} (hWidth : f.w ∈ op.widths)
    (hMask : 0 < f.vd ∧ f.vd < 8)
    (hStep : vStep [] cell (VRun.start s) { op := op, f := f }
      = if (!true || !VInstr.legal { op := op, f := f }) = true then (VRun.start s).stop else (VRun.start s).on g)
    (hHolds : ∃ v, g s = setMreg cell f.vd v u ∧ bitsHold s cell f n v res) (hRuns : vectorRuns s cell { op := op, f := f } = true) :
    ∃ v, exec (vecCmd op cell f) s = .next (setMreg cell f.vd v u) ∧ bitsHold s cell f n v res := by
  obtain ⟨v, hWrite, hBits⟩ := hHolds
  exact ⟨v, hWrite ▸ exec_vecCmd_of_on hRuns (legal_of_widths hWidth (fun _ => hMask)) hStep, hBits⟩

/-! ### FMA and SEL (R152) -/

/-- FMA rounds once behind the exact product and sum. -/
theorem fma_holds (hw : f.w < 2) :
    ∃ v, writeLanes cell f f.w (List.zipWith (fun p z => roundAt f.w (fmaExact p.1 p.2 z))
        (List.zip (lanesF f.w (vregOf s cell f.va)) (operandB s cell f)) (lanesF f.w (vregOf s cell f.vc))) s = setVreg cell f.vd v s
      ∧ lanesHold s cell f f.w v (fun l => roundAt f.w
          (fmaExact (laneF f.w (vregOf s cell f.va) l) (opB s cell f l) (laneF f.w (vregOf s cell f.vc) l))) := by
  refine writeLanes_holds rfl (fun l hl => ?_) (fun l _ => roundAt_lt hw _)
  simp [List.zip, List.getElem?_zipWith, getElem?_lanesF hw hl, getElem?_operandB hw hl]

/-- SEL copies a lane of va or of vb as it is. -/
theorem sel_holds {w : Nat} {b : List Nat} {res : Nat → Nat} (hEng : engOf t cell = engOf s cell)
    (hb : ∀ l, l < laneNum w → b.getD l 0 = res l) (hFit : ∀ l, l < laneNum w → res l < p2 (laneBits w)) :
    ∃ v, writeLanes cell f w ((List.range (laneNum w)).map (fun l =>
        if (mregOf s cell f.vc).getLsbD l then (lanesOf w (vregOf s cell f.va)).getD l 0 else b.getD l 0)) t = setVreg cell f.vd v t
      ∧ lanesHold s cell f w v (fun l => if (mregOf s cell f.vc).getLsbD l then lane w (vregOf s cell f.va) l else res l) := by
  refine writeLanes_holds hEng (fun l hl => ?_) (fun l hl => ?_)
  · rw [getD_map_range _ _ hl, hb l hl, getD_lanesOf _ _ _ hl]
  · split
    · exact lane_lt _ _ _
    · exact hFit l hl

/-! ### Conversions (R155) -/

/-- Lane `l` of source `r` of a CVT: of register va, vb, vc or va + 1, or of the addr field in the place of vb. -/
def cvtSource (s : State) (cell : Nat) (f : VFields) (r l : Nat) : W32 :=
  if r = 1 ∧ f.vb = 0xFF then f.addr
  else laneF 0 (vregOf s cell ((if r = 0 then f.va else if r = 1 then f.vb else if r = 2 then f.vc else f.va + 1) % 32)) l

/-- A lane behind the last one of its register is 0. -/
theorem lane_of_beyond {w l : Nat} (hl : laneNum w ≤ l) (v : BitVec 4096) : lane w v l = 0 := by
  have hShift : 4096 ≤ laneBits w * l := laneBits_mul w ▸ Nat.mul_le_mul_left _ hl
  have hPast : v.toNat < 2 ^ (laneBits w * l) := Nat.lt_of_lt_of_le v.isLt (Nat.pow_le_pow_right Nat.two_pos hShift)
  rw [lane, Nat.shiftRight_eq_div_pow, Nat.div_eq_of_lt hPast, Nat.zero_mod]

/-- The lanes of a register from one on, read past its end as the lanes of a register that go on with 0. -/
theorem getD_drop_lanesOf (w n l : Nat) (v : BitVec 4096) : ((lanesOf w v).drop n).getD l 0 = lane w v (n + l) := by
  rw [List.getD_eq_getElem?_getD, List.getElem?_drop]
  by_cases h : n + l < laneNum w
  · rw [getElem?_lanesOf h, Option.getD_some]
  · rw [List.getElem?_eq_none (by simp [lanesOf]; omega), Option.getD_none, lane_of_beyond (Nat.not_lt.mp h)]

/-- Results of a function that gives 0 for 0, read past the end. -/
theorem getD_map_of_zero {g : Nat → Nat} (hg : g 0 = 0) (l : List Nat) (i : Nat) : (l.map g).getD i 0 = g (l.getD i 0) := by
  rw [List.getD_eq_getElem?_getD, List.getElem?_map, List.getD_eq_getElem?_getD]
  cases l[i]? with
  | none => exact hg.symm
  | some x => rfl

/-- Operand vb of a CVT. -/
def cvtOperandB (s : State) (cell : Nat) (f : VFields) : List W32 :=
  if f.vb = 0xFF then List.replicate 128 f.addr else lanesF 0 (vregOf s cell (f.vb % 32))

theorem getElem?_cvtOperandB {i : Nat} (hi : i < 128) : (cvtOperandB s cell f)[i]? = some (cvtSource s cell f 1 i) := by
  unfold cvtOperandB cvtSource
  by_cases h : f.vb = 0xFF
  · rw [if_pos h, if_pos ⟨rfl, h⟩, List.getElem?_replicate_of_lt hi]
  · rw [if_neg h, if_neg (fun hc => h hc.2)]
    exact getElem?_lanesF (by decide) hi _

@[simp] theorem length_cvtOperandB : (cvtOperandB s cell f).length = 128 := by
  unfold cvtOperandB
  split
  · exact List.length_replicate
  · exact length_lanesF 0 _

/-- The sources of a CVT to INT8, one register behind the other. -/
def cvtSources (s : State) (cell : Nat) (f : VFields) : List W32 :=
  lanesF 0 (vregOf s cell (f.va % 32)) ++ cvtOperandB s cell f ++ lanesF 0 (vregOf s cell (f.vc % 32))
    ++ lanesF 0 (vregOf s cell ((f.va + 1) % 32))

theorem getElem?_cvtSources {l : Nat} (hl : l < 512) : (cvtSources s cell f)[l]? = some (cvtSource s cell f (l / 128) (l % 128)) := by
  have hLane : ∀ v, (lanesF 0 v)[l % 128]? = some (laneF 0 v (l % 128)) := fun v => getElem?_lanesF (by decide) (Nat.mod_lt l (by decide)) v
  have hLength : ∀ v, (lanesF 0 v).length = 128 := length_lanesF 0
  have hSplit : l = 128 * (l / 128) + l % 128 := (Nat.div_add_mod l 128).symm
  simp only [cvtSources, List.getElem?_append, List.length_append, hLength, length_cvtOperandB]
  rcases (by omega : l / 128 = 0 ∨ l / 128 = 1 ∨ l / 128 = 2 ∨ l / 128 = 3) with h | h | h | h <;> rw [h] at hSplit ⊢
  · rw [if_pos (by omega), if_pos (by omega), if_pos (by omega), show l = l % 128 by omega, Nat.mod_mod, hLane]
    rfl
  · rw [if_pos (by omega), if_pos (by omega), if_neg (by omega), show l - 128 = l % 128 by omega]
    exact getElem?_cvtOperandB (Nat.mod_lt l (by decide))
  · rw [if_pos (by omega), if_neg (by omega), show l - (128 + 128) = l % 128 by omega, hLane]
    rfl
  · rw [if_neg (by omega), show l - (128 + 128 + 128) = l % 128 by omega, hLane]
    rfl

theorem getElem?_lanesF_append_cvtOperandB {l : Nat} (hl : l < 256) :
    (lanesF 0 (vregOf s cell (f.va % 32)) ++ cvtOperandB s cell f)[l]? = some (cvtSource s cell f (l / 128) (l % 128)) := by
  have hLength : (lanesF 0 (vregOf s cell (f.va % 32)) ++ cvtOperandB s cell f).length = 256 := by
    rw [List.length_append, length_lanesF, length_cvtOperandB]
    rfl
  have hSources := getElem?_cvtSources (s := s) (cell := cell) (f := f) (l := l) (by omega)
  rwa [cvtSources, List.append_assoc, List.getElem?_append_left (by omega)] at hSources

theorem cvtChoice_lt (f : VFields) : cvtChoice f < 4 := by
  unfold cvtChoice
  dsimp only
  split_ifs <;> omega

/-- The width that a conversion writes. -/
def cvtWidth (pair : Nat) : Nat := if pair = 0 then 1 else if pair = 2 then 2 else 0

/-- What a conversion gives lane `l`. -/
def cvtResult (s : State) (cell : Nat) (f : VFields) (pair l : Nat) : Nat :=
  if pair = 0 then (f32ToBf16 (cvtSource s cell f (l / 128) (l % 128))).toNat
  else if pair = 1 then (quietNaN (laneF 1 (vregOf s cell (f.va % 32)) (128 * f.vc + l))).toNat
  else if pair = 2 then lowBits 8 (f32ToI8 (cvtSource s cell f (l / 128) (l % 128)))
  else (rneF32 false ⟨laneI (vregOf s cell (f.va % 32)) (128 * f.vc + l), 0⟩).toNat

theorem convertOp_toBf16 : convertOp 0 cell f s
    = writeLanes cell f 1 ((lanesF 0 (vregOf s cell (f.va % 32)) ++ cvtOperandB s cell f).map (fun x => (f32ToBf16 x).toNat)) s := rfl

theorem convertOp_ofBf16 : convertOp 1 cell f s = writeLanes cell f 0 (((lanesOf 1 (vregOf s cell (f.va % 32))).drop (128 * f.vc)).map
      (fun x => (quietNaN (bf16ToF32 (BitVec.ofNat 16 x))).toNat)) s := by
  simp only [convertOp, lanesF, ← List.map_drop, List.map_map, Function.comp_def, if_true]

theorem convertOp_toInt8 : convertOp 2 cell f s = writeLanes cell f 2 ((cvtSources s cell f).map (fun x => lowBits 8 (f32ToI8 x))) s := rfl

theorem convertOp_ofInt8 : convertOp 3 cell f s = writeLanes cell f 0 (((lanesOf 2 (vregOf s cell (f.va % 32))).drop (128 * f.vc)).map
      (fun x => (rneF32 false ⟨signExt 8 x, 0⟩).toNat)) s := by
  simp only [convertOp, lanesI, ← List.map_drop, List.map_map, Function.comp_def]

theorem convertOp_holds {pair : Nat} (hPair : pair < 4) :
    ∃ v, convertOp pair cell f s = setVreg cell f.vd v s ∧ lanesHold s cell f (cvtWidth pair) v (cvtResult s cell f pair) := by
  rcases (by omega : pair = 0 ∨ pair = 1 ∨ pair = 2 ∨ pair = 3) with rfl | rfl | rfl | rfl
  · rw [convertOp_toBf16]
    refine writeLanes_holds rfl (fun l hl => ?_) (fun l _ => toNat_lt_lane_one _)
    rw [List.getD_eq_getElem?_getD, List.getElem?_map, getElem?_lanesF_append_cvtOperandB hl, Option.map_some, Option.getD_some, cvtResult,
      if_pos rfl]
  · rw [convertOp_ofBf16]
    refine writeLanes_holds rfl (fun l _ => ?_) (fun l _ => toNat_lt_lane_zero _)
    rw [getD_map_of_zero (by decide), getD_drop_lanesOf, cvtResult, if_neg (by decide), if_pos rfl, laneF, if_pos rfl]
  · rw [convertOp_toInt8]
    refine writeLanes_holds rfl (fun l hl => ?_) (fun l _ => lowBits_lt 8 _)
    rw [List.getD_eq_getElem?_getD, List.getElem?_map, getElem?_cvtSources hl, Option.map_some, Option.getD_some, cvtResult,
      if_neg (by decide), if_neg (by decide), if_pos rfl]
  · rw [convertOp_ofInt8]
    refine writeLanes_holds rfl (fun l _ => ?_) (fun l _ => toNat_lt_lane_zero _)
    rw [getD_map_of_zero (by decide), getD_drop_lanesOf, cvtResult, if_neg (by decide), if_neg (by decide), if_neg (by decide), laneI]

end

end Sys2Proof.Machine
end

section
/-! PROOFS. The obligations on arithmetic, on masks, SEL and CVT, and on reductions and SCAN (R28, R38, R150 to R152, R154 to R158). -/

namespace Sys2Proof.Machine
open Sys2Proof

/-! ### The obligations on arithmetic and on masks, SEL and CVT -/

section
variable {s : State} {cell : Nat} {f : VFields}

/-- SEL at widths 0 and 1 takes its second choice from register vb, or from the addr field rounded at the width. -/
theorem sel_writesLanes (hw : f.w < 2) (hRuns : vectorRuns s cell { op := .sel, f := f } = true) :
    writesLanes (.sel cell f) s cell f f.w (fun l => if (mregOf s cell f.vc).getLsbD l then lane f.w (vregOf s cell f.va) l
      else if f.vb = 0xFF then roundAt f.w (.inl f.addr) else lane f.w (vregOf s cell f.vb) l) := by
  refine exec_of_lanes (op := .sel) (show f.w ∈ [0, 1, 2] by simp; omega) rfl rfl ?_ hRuns
  dsimp only
  rw [if_neg (show f.w ≠ 2 by omega)]
  by_cases hB : f.vb = 0xFF
  · simp only [if_pos hB]
    exact sel_holds rfl (fun l hl => by rw [List.getD_eq_getElem?_getD, List.getElem?_replicate_of_lt hl, Option.getD_some])
      (fun l _ => roundAt_lt hw _)
  · simp only [if_neg hB]
    exact sel_holds rfl (fun l hl => getD_lanesOf _ _ _ hl) (fun l _ => lane_lt _ _ _)

/-- SEL at width 2 copies bytes: reading one as INT8 and writing it back changes nothing. -/
theorem sel8_holds (hw : f.w = 2) (hRuns : vectorRuns s cell { op := .sel, f := f } = true) :
    ∃ v, exec (.sel cell f) s = .next (setVreg cell f.vd v (afterB8 s f)) ∧ lanesHold s cell f 2 v (fun l =>
      lowBits 8 (if (mregOf s cell f.vc).getLsbD l then laneI (vregOf s cell f.va) l else opB8 s cell f l)) := by
  obtain ⟨v, hExec, hLanes⟩ := exec_of_lanes (op := .sel) (by simp [VOp.widths, hw]) rfl rfl (by
    simp only [hw, if_true]
    rw [operandB8_snd]
    refine sel_holds (w := 2) (res := fun l => lowBits 8 (opB8 s cell f l)) (engOf_afterB8 s f cell) (fun l hl => ?_) (fun l _ => lowBits_lt 8 _)
    rw [List.getD_eq_getElem?_getD, List.getElem?_map, getElem?_operandB8 hl]
    rfl) hRuns
  refine ⟨v, hExec, lanesHold_congr rfl (fun l hl => ?_) hLanes⟩
  split
  · exact (lowBits_signExt (lane_two_lt _ _)).symm
  · rfl

/-- Settles O11. Each opcode is one operation on lanes; a reserved instruction, and one that its cell does not run, does nothing. -/
theorem vectorArithmetic : Obligations.VectorArithmetic := by
  unfold Obligations.VectorArithmetic
  refine ⟨fun s cell f hw => ?_, fun s cell f hw => ?_, fun op s cell f h => ?_⟩
  · have hTwo : f.w ∈ [0, 1] := by simp; omega
    have hThree : f.w ∈ [0, 1, 2] := by simp; omega
    refine ⟨exec_of_lanes hThree rfl rfl (binaryOp_holds _ _ hw), exec_of_lanes hThree rfl rfl (binaryOp_holds _ _ hw),
      exec_of_lanes hTwo rfl rfl (binaryOp_holds _ _ hw), exec_of_lanes hTwo rfl rfl (fma_holds hw),
      exec_of_lanes hThree rfl rfl (binaryOp_holds _ _ hw), exec_of_lanes hThree rfl rfl (binaryOp_holds _ _ hw),
      exec_of_lanes hTwo rfl rfl (unaryOp_holds _ rfl hw), exec_of_lanes hTwo rfl rfl (unaryOp_holds _ rfl hw), fun hZero => ?_⟩
    have hOne : f.w ∈ [0] := by simp [hZero]
    exact ⟨exec_of_lanes hOne rfl rfl (unaryOp_holds _ hZero (by decide)), exec_of_lanes hOne rfl rfl (unaryOp_holds _ hZero (by decide)),
      exec_of_lanes hOne rfl rfl (unaryOp_holds _ hZero (by decide)), exec_of_lanes hOne rfl rfl (unaryOp_holds _ hZero (by decide)),
      exec_of_lanes hOne rfl rfl (unaryOp_holds _ hZero (by decide)), exec_of_lanes hOne rfl rfl (unaryOp_holds _ hZero (by decide))⟩
  · have hThree : f.w ∈ [0, 1, 2] := by simp [hw]
    have hMax : ∀ a b : Int, (if a < b then b else a) = max a b := fun a b => by omega
    have hMin : ∀ a b : Int, (if b < a then b else a) = min a b := fun a b => by omega
    refine ⟨exec_of_lanes hThree rfl rfl (binaryOp8_holds _ _ hw), exec_of_lanes hThree rfl rfl (binaryOp8_holds _ _ hw), fun hRuns => ?_,
      fun hRuns => ?_, sel8_holds hw⟩
    · simpa only [hMax] using exec_of_lanes (op := .max) hThree rfl rfl (binaryOp8_holds _ _ hw) hRuns
    · simpa only [hMin] using exec_of_lanes (op := .min) hThree rfl rfl (binaryOp8_holds _ _ hw) hRuns
  · rcases h with hNot | hReserved
    · exact exec_vecCmd_of_not_runs hNot
    · exact exec_vecCmd_of_stop (by rw [vStep_of_not_legal hReserved]; rfl)

/-- Settles O12. A compare and a mask operation write one mask register; SEL and CVT copy and convert lanes. -/
theorem masksSelectConvert : Obligations.MasksSelectConvert := by
  unfold Obligations.MasksSelectConvert
  refine ⟨fun s cell f hLow hHigh => ⟨fun hw => ?_, fun hw => ?_, fun hw => ?_, rfl⟩,
    fun s cell f => ⟨fun hw hRuns => ?_, fun hw hRuns => ⟨cvtChoice_lt f, ?_⟩⟩⟩
  · have hThree : f.w ∈ [0, 1, 2] := by simp; omega
    exact ⟨exec_of_bits hThree ⟨hLow, hHigh⟩ rfl (compareOp_holds _ _ hw), exec_of_bits hThree ⟨hLow, hHigh⟩ rfl (compareOp_holds _ _ hw),
      exec_of_bits hThree ⟨hLow, hHigh⟩ rfl (compareOp_holds _ _ hw)⟩
  · have hThree : f.w ∈ [0, 1, 2] := by simp [hw]
    exact ⟨exec_of_bits hThree ⟨hLow, hHigh⟩ rfl (compareOp8_holds _ _ hw), exec_of_bits hThree ⟨hLow, hHigh⟩ rfl (compareOp8_holds _ _ hw),
      exec_of_bits hThree ⟨hLow, hHigh⟩ rfl (compareOp8_holds _ _ hw)⟩
  · have hThree : f.w ∈ [0, 1, 2] := by simp; omega
    exact ⟨exec_of_bits hThree ⟨hLow, hHigh⟩ rfl (maskOp_holds _), exec_of_bits hThree ⟨hLow, hHigh⟩ rfl (maskOp_holds _),
      exec_of_bits hThree ⟨hLow, hHigh⟩ rfl (maskOp_holds _)⟩
  · exact sel_writesLanes hw hRuns
  · have hThree : f.w ∈ [0, 1, 2] := by simp; omega
    exact exec_of_lanes hThree rfl rfl (convertOp_holds (cvtChoice_lt f)) hRuns

end

/-! ### The pairwise tree (R157) -/

theorem treeOf_congr {op : W32 → W32 → W32} {x y : Nat → W32} : ∀ {n j : Nat},
    (∀ i, i < 2 ^ n * (j + 1) → x i = y i) → treeOf op x n j = treeOf op y n j
  | 0, j, h => h j (by omega)
  | n + 1, j, h => by
    have hPow : 2 ^ (n + 1) * (j + 1) = 2 ^ n * (2 * j + 1 + 1) := by ring
    have hLess : 2 ^ n * (2 * j + 1) ≤ 2 ^ n * (2 * j + 1 + 1) := Nat.mul_le_mul_left _ (Nat.le_succ _)
    rw [treeOf, treeOf, treeOf_congr (j := 2 * j) fun i hi => h i (by omega), treeOf_congr (j := 2 * j + 1) fun i hi => h i (by omega)]

/-- A tree over the pairs is one level of the tree. -/
theorem treeOf_pairs (op : W32 → W32 → W32) (x : Nat → W32) : ∀ n j : Nat,
    treeOf op (fun i => op (x (2 * i)) (x (2 * i + 1))) n j = treeOf op x (n + 1) j
  | 0, _ => rfl
  | n + 1, j => by rw [treeOf, treeOf_pairs, treeOf_pairs]; rfl

theorem laneTree_eq_treeOf (op : W32 → W32 → W32) : ∀ (n : Nat) {l : List W32}, l.length = 2 ^ n →
    laneTree op n l = treeOf op (fun i => l.getD i 0) n 0
  | 0, l, _ => by cases l <;> rfl
  | n + 1, l, h => by
    have hHalf : l.length / 2 = 2 ^ n := by rw [h, Nat.pow_succ]; omega
    rw [laneTree, laneTree_eq_treeOf op n (by simp [hHalf]), ← treeOf_pairs]
    refine treeOf_congr fun i hi => ?_
    rw [hHalf, getD_map_range _ _ (by simpa using hi)]

section
variable {s : State} {cell : Nat} {f : VFields}

theorem getD_withIdentity {z : W32} {l : List W32} {i : Nat} (hi : i < l.length) :
    (withIdentity s cell f z l).getD i 0 = if laneOn s cell f i then l.getD i 0 else z := by
  have hZip : (List.zip (List.range l.length) l)[i]? = some (i, l.getD i 0) := by
    rw [List.zip, List.getElem?_zipWith, List.getElem?_range hi, List.getD_eq_getElem _ _ hi, List.getElem?_eq_getElem hi]
  rw [withIdentity, List.getD_eq_getElem?_getD, List.getElem?_map, hZip]
  rfl

/-- A reduction writes lane 0 and clears the others. -/
theorem writeReduced_holds {w v : Nat} (hv : v < p2 (laneBits w)) (hLanes : 0 < laneNum w) :
    ∃ u, writeReduced cell f w v s = setVreg cell f.vd u s ∧ lane w u 0 = v ∧ ∀ l, 0 < l → l < laneNum w → lane w u l = 0 := by
  have hLength : (v :: List.replicate (laneNum w - 1) 0).length = laneNum w := by simp; omega
  refine ⟨_, rfl, ?_, fun l hPos hl => ?_⟩
  · rw [lane_pack w _ hLength 0 hLanes]
    exact Nat.mod_eq_of_lt hv
  · obtain ⟨k, rfl⟩ := Nat.exists_eq_succ_of_ne_zero (Nat.ne_of_gt hPos)
    rw [lane_pack w _ hLength _ hl, List.getD_cons_succ, List.getD_eq_getElem?_getD, List.getElem?_replicate_of_lt (by omega), Option.getD_some,
      Nat.zero_mod]

theorem reduceOp_holds (op : W32 → W32 → W32) (z : W32) :
    ∃ u, reduceOp op z cell f s = setVreg cell f.vd u s
      ∧ lane 0 u 0 = (treeOf op (fun l => if laneOn s cell f l then laneF 0 (vregOf s cell f.va) l else z) 7 0).toNat
      ∧ ∀ l, 0 < l → l < laneNum 0 → lane 0 u l = 0 := by
  have hTree : laneTree op 7 (withIdentity s cell f z (lanesF 0 (vregOf s cell f.va)))
      = treeOf op (fun l => if laneOn s cell f l then laneF 0 (vregOf s cell f.va) l else z) 7 0 := by
    rw [laneTree_eq_treeOf op 7 (by simp [withIdentity, laneNum])]
    refine treeOf_congr fun i hi => ?_
    have hLane : i < laneNum 0 := by simpa [laneNum] using hi
    rw [getD_withIdentity (by simpa using hLane), List.getD_eq_getElem?_getD, getElem?_lanesF (by decide) hLane, Option.getD_some]
  rw [reduceOp, hTree]
  exact writeReduced_holds (toNat_lt_lane_zero _) (by decide)

theorem lanesI_eq_map (v : BitVec 4096) : lanesI v = (List.range 512).map (laneI v) := by
  simp only [lanesI, lanesOf, List.map_map]
  rfl

theorem reduceOp8_holds (op : Int → Int → Int) (z : Int) :
    ∃ u, reduceOp8 op z cell f s = setVreg cell f.vd u s
      ∧ lane 2 u 0 = lowBits 8 ((List.range 512).foldl (fun acc l => op acc (if laneOn s cell f l then laneI (vregOf s cell f.va) l else z)) z)
      ∧ ∀ l, 0 < l → l < laneNum 2 → lane 2 u l = 0 := by
  rw [reduceOp8, lanesI_eq_map, ← List.map_prod_left_eq_zip, List.foldl_map]
  exact writeReduced_holds (lowBits_lt 8 _) (by decide)

theorem exec_of_reduced {op : VOp} {g : State → State} {w res : Nat} (hWidth : f.w ∈ op.widths) (hOp : op.toMask = false)
    (hStep : vStep [] cell (VRun.start s) { op := op, f := f }
      = if (!true || !VInstr.legal { op := op, f := f }) = true then (VRun.start s).stop else (VRun.start s).on g)
    (hHolds : ∃ v, g s = setVreg cell f.vd v s ∧ lane w v 0 = res ∧ ∀ l, 0 < l → l < laneNum w → lane w v l = 0)
    (hRuns : vectorRuns s cell { op := op, f := f } = true) :
    ∃ v, exec (vecCmd op cell f) s = .next (setVreg cell f.vd v s) ∧ lane w v 0 = res ∧ ∀ l, 0 < l → l < laneNum w → lane w v l = 0 := by
  obtain ⟨v, hWrite, hLanes⟩ := hHolds
  exact ⟨v, hWrite ▸ exec_vecCmd_of_on hRuns (legal_of_widths hWidth (by simp [hOp])) hStep, hLanes⟩

end

/-! ### SCAN (R158) -/

/-- Lanes and segment flags after `n` rounds. -/
structure Scanned (seg : Nat → Bool) (x : Nat → W32) (n : Nat) (y : List W32 × List Bool) : Prop where
  sum : ∀ i, i < 128 → y.1.getD i 0 = scanSum seg x n i
  start : ∀ i, i < 128 → y.2.getD i false = scanStart seg n i

theorem Scanned.round {seg : Nat → Bool} {x : Nat → W32} {n : Nat} {y : List W32 × List Bool} (h : Scanned seg x n y) :
    Scanned seg x (n + 1) (scanRound (2 ^ n) y) := by
  constructor
  case sum =>
    intro i hi
    rw [scanRound, getD_map_range _ _ hi, scanSum, h.start i hi, h.sum i hi, h.sum (i - 2 ^ n) (Nat.lt_of_le_of_lt (Nat.sub_le _ _) hi)]
    simp
  case start =>
    intro i hi
    rw [scanRound, getD_map_range _ _ hi, scanStart, h.start i hi, h.start (i - 2 ^ n) (Nat.lt_of_le_of_lt (Nat.sub_le _ _) hi)]

/-- The seven rounds, and the carry before the first segment start. -/
theorem getElem?_scanLanes {seg : Nat → Bool} {x : Nat → W32} {lanes : List W32} {flags : List Bool} (c : W32)
    (hLanes : ∀ i, i < 128 → lanes.getD i 0 = x i)
    (hFlags : flags = (List.range 128).map seg) {i : Nat} (hi : i < 128) : (scanLanes lanes flags c)[i]?
      = some (if (List.range (i + 1)).any seg then scanSum seg x 7 i else f32Add c (scanSum seg x 7 i)) := by
  have hZero : Scanned seg x 0 (lanes, flags) := by
    refine ⟨hLanes, fun i hi => ?_⟩
    rw [hFlags, getD_map_range _ _ hi, scanStart]
  have hSeven := hZero.round.round.round.round.round.round.round
  have hSum : ([1, 2, 4, 8, 16, 32, 64].foldl (fun y d => scanRound d y) (lanes, flags)).1.getD i 0 = scanSum seg x 7 i := hSeven.sum i hi
  have hAny : (flags.take (i + 1)).any id = (List.range (i + 1)).any seg := by
    rw [hFlags, ← List.map_take, List.take_range, Nat.min_eq_left hi, List.any_map]
    rfl
  rw [scanLanes, List.getElem?_map, List.getElem?_range hi, Option.map_some, hSum, hAny]

/-- The operand of a SCAN, the segment starts that register vc names, and the carry. -/
def scanOperand (s : State) (cell : Nat) (f : VFields) (l : Nat) : W32 := if laneOn s cell f l then laneF 0 (vregOf s cell f.va) l else f32NegZero
def segStart (s : State) (cell : Nat) (f : VFields) (l : Nat) : Bool := f.vc != 0 && (mregOf s cell f.vc).getLsbD l
def scanCarry (s : State) (cell : Nat) (f : VFields) : W32 := if f.vb = 0xFF then f32NegZero else laneF 0 (vregOf s cell f.vb) 127

theorem segStarts_eq_map (s : State) (cell : Nat) (f : VFields) : segStarts s cell f = (List.range 128).map (segStart s cell f) := rfl

theorem getD_scanOperand (s : State) (cell : Nat) (f : VFields) {i : Nat} (hi : i < 128) :
    (withIdentity s cell f f32NegZero (lanesF 0 (vregOf s cell f.va))).getD i 0 = scanOperand s cell f i := by
  rw [getD_withIdentity (by rw [length_lanesF]; exact hi), List.getD_eq_getElem?_getD, getElem?_lanesF (by decide) hi, Option.getD_some, scanOperand]

/-- What SCAN gives lane `l`. -/
def scanResult (s : State) (cell : Nat) (f : VFields) (l : Nat) : W32 :=
  if (List.range (l + 1)).any (segStart s cell f) then scanSum (segStart s cell f) (scanOperand s cell f) 7 l
  else f32Add (scanCarry s cell f) (scanSum (segStart s cell f) (scanOperand s cell f) 7 l)

theorem scan_holds (s : State) (cell : Nat) (f : VFields) :
    ∃ v, (vScan cell f (VRun.start s)).s = setVreg cell f.vd v s ∧ lanesHold s cell f 0 v (fun l => (scanResult s cell f l).toNat) := by
  have hCarry : (if f.vb = 0xFF then f32NegZero else (lanesF 0 (vregOf s cell f.vb)).getD 127 0) = scanCarry s cell f := by
    rw [List.getD_eq_getElem?_getD, getElem?_lanesF (by decide) (by decide), Option.getD_some, scanCarry]
  simp only [vScan, VRun.on_s, hCarry]
  refine writeLanes_holds rfl (fun l hl => ?_) (fun l _ => toNat_lt_lane_zero _)
  rw [List.getD_eq_getElem?_getD, List.getElem?_map, getElem?_scanLanes _ (fun i => getD_scanOperand s cell f) (segStarts_eq_map s cell f) hl,
    Option.map_some, Option.getD_some, scanResult]

/-- Settles O13. The tree over a list is the tree over its lanes, and seven rounds of the model's scan are seven rounds of R158. -/
theorem reductionsAndScan : Obligations.ReductionsAndScan := by
  unfold Obligations.ReductionsAndScan
  refine ⟨fun s cell f => ⟨fun hw => ?_, fun hw => ?_⟩, fun s cell f hRuns hw => ?_⟩
  · have hNot : f.w ≠ 2 := by omega
    refine ⟨exec_of_reduced (by simp [VOp.widths, hw]) rfl rfl (reduceOp_holds _ _),
      exec_of_reduced (by simp [VOp.widths, hw]) rfl rfl ?_, exec_of_reduced (by simp [VOp.widths, hw]) rfl rfl ?_⟩ <;>
    · rw [if_neg hNot]
      exact reduceOp_holds _ _
  · refine ⟨exec_of_reduced (by simp [VOp.widths, hw]) rfl rfl ?_, exec_of_reduced (by simp [VOp.widths, hw]) rfl rfl ?_⟩ <;>
    · rw [if_pos hw]
      exact reduceOp8_holds _ _
  · exact exec_of_lanes (op := .scan) (by simp [VOp.widths, hw]) rfl rfl (scan_holds s cell f) hRuns

end Sys2Proof.Machine
end

section
/-! PROOFS. Writes of a cell's own sources into case memory: within pages that the cell can take, every byte of a write stands staged and every other
byte reads as before (R32, R34, R153). -/

namespace Sys2Proof.Machine
open Sys2Proof

/-! ### Shadow pages (R34) -/

/-- The cell has shadow pages to spare for all of `pages` that it has not taken. -/
structure ShadowFits (pages : List Nat) (cell : Nat) (t : State) : Prop where
  excess : cell ∉ t.caseMem.excess
  count : shadowCount t cell + pages.countP (fun p => !t.caseMem.shadow.contains (cell * 2048 + p)) ≤ 512

theorem ShadowFits.of_room {s : State} {cell n : Nat} {pages : List Nat} (h : shadowRoom s cell n = true) (hPages : pages.length ≤ n) :
    ShadowFits pages cell s := by
  simp only [shadowRoom, Bool.and_eq_true, Bool.not_eq_true', decide_eq_true_eq] at h
  obtain ⟨hExcess, hCount⟩ := h
  refine ⟨by simpa using hExcess, ?_⟩
  have := List.countP_le_length (p := fun p => !s.caseMem.shadow.contains (cell * 2048 + p)) (l := pages)
  omega

theorem ShadowFits.congr {s t : State} {cell : Nat} {pages : List Nat} (h : ShadowFits pages cell s) (hCase : t.caseMem = s.caseMem) :
    ShadowFits pages cell t := by
  refine ⟨by rw [hCase]; exact h.excess, ?_⟩
  rw [shadowCount, hCase]
  exact h.count

/-- A page that counted as one to take no longer does. -/
theorem countP_lt_of_taken {pages : List Nat} {p q : Nat → Bool} {page : Nat} (hMem : page ∈ pages) (hWas : p page = true) (hIs : q page = false)
    (hOther : ∀ x, q x = true → p x = true) : pages.countP q < pages.countP p := by
  have hLess : ((pages.filter p).filter (· != page)).length < (pages.filter p).length :=
    List.length_filter_lt_length_iff_exists.mpr ⟨page, List.mem_filter.mpr ⟨hMem, hWas⟩, by simp⟩
  rw [List.filter_filter, ← List.countP_eq_length_filter, ← List.countP_eq_length_filter] at hLess
  refine Nat.lt_of_le_of_lt (List.countP_mono_left fun x _ hx => ?_) hLess
  have hNe : x ≠ page := fun h => by simp [← h, hx] at hIs
  simp [hOther x hx, hNe]

section
variable {pages : List Nat} {cell page : Nat} {t : State} (h : ShadowFits pages cell t) (hPage : page ∈ pages)
include h hPage

/-- Such a page is taken, if it was not before. -/
theorem takeShadow_of_fits : takeShadow cell page t = ({ t with caseMem := { t.caseMem with shadow := shadowWith t cell page } }, true) := by
  by_cases hIn : t.caseMem.shadow.contains (cell * 2048 + page) = true
  · simp only [takeShadow, shadowWith, hIn, if_true]
  · refine takeShadow_of_room h.excess ?_ page
    have hPos : 0 < pages.countP (fun p => !t.caseMem.shadow.contains (cell * 2048 + p)) :=
      List.countP_pos_iff.mpr ⟨page, hPage, by simpa using hIn⟩
    have := h.count
    omega

theorem ShadowFits.take {u : State} (hShadow : u.caseMem.shadow = shadowWith t cell page) (hExcess : u.caseMem.excess = t.caseMem.excess) :
    ShadowFits pages cell u := by
  refine ⟨hExcess ▸ h.excess, ?_⟩
  rw [shadowCount, hShadow]
  by_cases hIn : t.caseMem.shadow.contains (cell * 2048 + page) = true
  · rw [shadowWith, if_pos hIn]
    exact h.count
  · have hCount := count_shadowWith_le t cell page
    have hLess : pages.countP (fun p => !(shadowWith t cell page).contains (cell * 2048 + p))
        < pages.countP (fun p => !t.caseMem.shadow.contains (cell * 2048 + p)) := by
      refine countP_lt_of_taken hPage (by simpa using hIn) (by simpa using mem_shadowWith t cell page) fun x hx => ?_
      have hNot : cell * 2048 + x ∉ shadowWith t cell page := by simpa using hx
      have hWas : cell * 2048 + x ∉ t.caseMem.shadow := fun hx => hNot (mem_shadowWith_of_mem hx cell page)
      simpa using hWas
    have := h.count
    omega

end

/-! ### One write -/

/-- A byte at an offset lies in a write. -/
def inWrite (cell off n c o : Nat) : Prop := c = cell ∧ off ≤ o ∧ o < off + n

/-- What the part of a write in one page lists: the bytes of that page, and of no other cell. -/
theorem get?_overlay_page {cell off page c o : Nat} {bytes : List Byte} (m : List Host.Cell) (hEnd : off + bytes.length ≤ 2 ^ 23) (ho : o < 2 ^ 23) :
    SMap.get? (overlayN m (caseKey cell (partIn 4096 off page bytes).1) (partIn 4096 off page bytes).2) (caseKey c o)
      = if c = cell ∧ off ≤ o ∧ o < off + bytes.length ∧ o / 4096 = page then some (bytes.getD (o - off) 0) else SMap.get? m (caseKey c o) := by
  by_cases hIn : inWrite cell off bytes.length c o
  · obtain ⟨rfl, hLow, hHigh⟩ := hIn
    have hPart := get?_overlay_part m (cell := c) (off := off) (page := page) (i := o - off) (bytes := bytes) (by omega)
    rw [Nat.add_sub_cancel' hLow] at hPart
    rw [hPart]
    exact if_congr (by simp [hLow, hHigh]) rfl rfl
  · rw [if_neg (fun h => hIn ⟨h.1, h.2.1, h.2.2.1⟩), get?_overlayN, if_neg]
    intro hKey
    simp only [partIn, caseKey, p2_eq, List.length_take, List.length_drop] at hKey
    have hOff : off ≤ Nat.max off (page * 4096) := Nat.le_max_left _ _
    have hCell : c = cell := by omega
    exact hIn ⟨hCell, by omega, by omega⟩

section
variable {pages : List Nat} {cell off page : Nat} {bytes : List Byte} {t : State} (h : ShadowFits pages cell t) (hPage : page ∈ pages)
include h hPage

theorem writePage_own_caseMem : (writePage .own cell off bytes t page).caseMem = { t.caseMem with
    shadow := shadowWith t cell page
    staged := overlayN t.caseMem.staged (caseKey cell (partIn 4096 off page bytes).1) (partIn 4096 off page bytes).2
    own := overlayN t.caseMem.own (caseKey cell (partIn 4096 off page bytes).1) (partIn 4096 off page bytes).2 } := by
  unfold writePage
  rw [takeShadow_of_fits h hPage]
  exact (mirrorWrite_does _ _ _ _ _).caseMem_eq

end

/-- An own write from `s` to `t`: committed case memory keeps its contents, the shadow pages still suffice, the written bytes read back and every
other byte reads as before. -/
structure OwnWritten (pages : List Nat) (cell : Nat) (range : Nat → Nat → Prop) (byte : Nat → Byte) (s t : State) : Prop where
  mem : t.caseMem.mem = s.caseMem.mem
  fits : ShadowFits pages cell t
  written : ∀ c o, o < 2 ^ 23 → range c o → caseByte t c o = byte o
  other : ∀ c o, o < 2 ^ 23 → ¬ range c o → caseByte t c o = caseByte s c o

/-- One page of a write. -/
theorem writePage_written {pages : List Nat} {cell off page : Nat} {bytes : List Byte} {t : State} (h : ShadowFits pages cell t) (hPage : page ∈ pages)
    (hEnd : off + bytes.length ≤ 2 ^ 23) :
    OwnWritten pages cell (fun c o => inWrite cell off bytes.length c o ∧ o / 4096 = page) (fun o => bytes.getD (o - off) 0) t
      (writePage .own cell off bytes t page) := by
  have hCase := writePage_own_caseMem (off := off) (bytes := bytes) h hPage
  constructor
  case mem => rw [hCase]
  case fits => exact h.take hPage (by rw [hCase]) (by rw [hCase])
  case written =>
    rintro c o ho ⟨⟨hCell, hLow, hHigh⟩, hOf⟩
    rw [caseByte, hCase, get?_overlay_page _ hEnd ho, if_pos ⟨hCell, hLow, hHigh, hOf⟩]
  case other =>
    intro c o ho hNot
    rw [caseByte, hCase, get?_overlay_page _ hEnd ho, if_neg (fun hIn => hNot ⟨⟨hIn.1, hIn.2.1, hIn.2.2.1⟩, hIn.2.2.2⟩), caseByte]

/-- Writes of the same bytes one after another write their ranges together. -/
theorem OwnWritten.trans {pages : List Nat} {cell : Nat} {r r' : Nat → Nat → Prop} {byte : Nat → Byte} {s t u : State}
    (h : OwnWritten pages cell r byte s t) (h' : OwnWritten pages cell r' byte t u) : OwnWritten pages cell (fun c o => r c o ∨ r' c o) byte s u where
  mem := h'.mem.trans h.mem
  fits := h'.fits
  written c o ho hIn := by
    by_cases hLast : r' c o
    · exact h'.written c o ho hLast
    · rw [h'.other c o ho hLast, h.written c o ho (hIn.resolve_right hLast)]
  other c o ho hNot := by rw [h'.other c o ho (fun hIn => hNot (.inr hIn)), h.other c o ho (fun hIn => hNot (.inl hIn))]

theorem OwnWritten.congr {pages : List Nat} {cell : Nat} {r r' : Nat → Nat → Prop} {byte byte' : Nat → Byte} {s t : State}
    (h : OwnWritten pages cell r byte s t) (hRange : ∀ c o, r c o ↔ r' c o) (hByte : ∀ c o, r c o → byte o = byte' o) :
    OwnWritten pages cell r' byte' s t where
  mem := h.mem
  fits := h.fits
  written c o ho hIn := by rw [h.written c o ho ((hRange c o).mpr hIn), hByte c o ((hRange c o).mpr hIn)]
  other c o ho hNot := h.other c o ho (fun hIn => hNot ((hRange c o).mp hIn))

theorem OwnWritten.refl {pages : List Nat} {cell : Nat} {s : State} (h : ShadowFits pages cell s) (byte : Nat → Byte) :
    OwnWritten pages cell (fun _ _ => False) byte s s := ⟨rfl, h, fun _ _ _ hIn => hIn.elim, fun _ _ _ _ => rfl⟩

theorem writePages_written {pages : List Nat} {cell off : Nat} {bytes : List Byte} (hEnd : off + bytes.length ≤ 2 ^ 23) : ∀ (ps : List Nat) {t : State},
    ShadowFits pages cell t → (∀ p ∈ ps, p ∈ pages) →
    OwnWritten pages cell (fun c o => inWrite cell off bytes.length c o ∧ o / 4096 ∈ ps) (fun o => bytes.getD (o - off) 0) t
      (ps.foldl (writePage .own cell off bytes) t)
  | [], t, h, _ => (OwnWritten.refl h _).congr (by simp) (fun _ _ _ => rfl)
  | p :: ps, t, h, hPages => by
    have hFirst := writePage_written h (hPages p List.mem_cons_self) hEnd
    have hRest := writePages_written hEnd ps hFirst.fits (fun q hq => hPages q (List.mem_cons_of_mem p hq))
    refine (hFirst.trans hRest).congr (fun c o => ?_) (fun _ _ _ => rfl)
    rw [List.mem_cons, and_or_left]

/-- A write whose pages are among those that the cell can take. -/
theorem caseWrite_own_written {pages : List Nat} {cell off : Nat} {bytes : List Byte} {s : State} (h : ShadowFits pages cell s)
    (hEnd : off + bytes.length ≤ 2 ^ 23) (hPages : ∀ p ∈ pagesOf 4096 off bytes.length, p ∈ pages) :
    OwnWritten pages cell (inWrite cell off bytes.length) (fun o => bytes.getD (o - off) 0) s (caseWrite .own cell off bytes s) := by
  rw [caseWrite_eq_pages]
  refine (writePages_written hEnd _ h hPages).congr (fun c o => ?_) (fun _ _ _ => rfl)
  refine ⟨fun hIn => hIn.1, fun hIn => ⟨hIn, ?_⟩⟩
  obtain ⟨_, hLow, hHigh⟩ := hIn
  have hMem := mem_pagesOf (size := 4096) (o := off) (n := bytes.length) (i := o - off) (by omega)
  rwa [Nat.add_sub_cancel' hLow] at hMem

/-- The pages of a range lie between its first and its last. -/
theorem mem_pagesOf_bounds {off n p : Nat} (h : p ∈ pagesOf 4096 off n) : off / 4096 ≤ p ∧ p ≤ (off + n - 1) / 4096 ∧ 0 < n := by
  unfold pagesOf at h
  split at h
  · cases h
  · obtain ⟨i, hi, rfl⟩ := List.mem_map.mp h
    rw [List.mem_range] at hi
    omega

/-! ### Many writes -/

/-- A cell's own source writes pieces, one after another. -/
def ownWrites (cell : Nat) (place : Nat → Nat) (piece : Nat → List Byte) (ls : List Nat) (s : State) : State :=
  ls.foldl (fun s l => caseWrite .own cell (place l) (piece l) s) s

theorem ownWrites_concat (cell : Nat) (place : Nat → Nat) (piece : Nat → List Byte) (ls : List Nat) (l : Nat) (s : State) :
    ownWrites cell place piece (ls ++ [l]) s = caseWrite .own cell (place l) (piece l) (ownWrites cell place piece ls s) := List.foldl_append

/-- Pieces that agree on every byte, as disjoint ones do, all stand. -/
theorem ownWrites_written {pages : List Nat} {cell : Nat} {place : Nat → Nat} {piece : Nat → List Byte} {byte : Nat → Byte} :
    ∀ (ls : List Nat) {s : State},
    ShadowFits pages cell s → (∀ l ∈ ls, place l + (piece l).length ≤ 2 ^ 23) →
    (∀ l ∈ ls, ∀ p ∈ pagesOf 4096 (place l) (piece l).length, p ∈ pages) →
    (∀ l ∈ ls, ∀ c o, inWrite cell (place l) (piece l).length c o → (piece l).getD (o - place l) 0 = byte o) →
    OwnWritten pages cell (fun c o => ∃ l ∈ ls, inWrite cell (place l) (piece l).length c o) byte s (ownWrites cell place piece ls s)
  | [], s, h, _, _, _ => (OwnWritten.refl h _).congr (by simp) (fun _ _ _ => rfl)
  | l :: ls, s, h, hEnd, hPages, hByte => by
    have hFirst := (caseWrite_own_written h (hEnd l List.mem_cons_self) (hPages l List.mem_cons_self)).congr (fun _ _ => Iff.rfl)
      (hByte l List.mem_cons_self)
    have hRest := ownWrites_written (byte := byte) ls hFirst.fits (fun k hk => hEnd k (List.mem_cons_of_mem l hk))
      (fun k hk => hPages k (List.mem_cons_of_mem l hk)) (fun k hk => hByte k (List.mem_cons_of_mem l hk))
    refine (hFirst.trans hRest).congr (fun c o => ?_) (fun _ _ _ => rfl)
    simp only [List.exists_mem_cons_iff]

end Sys2Proof.Machine
end

section
/-! PROOFS. Loads and stores of the vector engine, and the merge of top-k lists (R148, R151, R153, R169). -/

namespace Sys2Proof.Machine
open Sys2Proof

/-! ### Elements in case memory -/

theorem leNat_lt : ∀ l : List Byte, leNat l < 256 ^ l.length
  | [] => by simp [leNat]
  | b :: bs => by
    have hRest := leNat_lt bs
    have hByte := b.isLt
    rw [leNat, List.length_cons, Nat.pow_succ]
    omega

@[simp] theorem length_caseBytes (s : State) (cell off n : Nat) : (caseBytes s cell off n).length = n := by simp [caseBytes]

/-- The bytes of an element at a width (R150). -/
def laneBytes (w : Nat) : Nat := laneBits w / 8

theorem laneBytes_cases (w : Nat) : laneBytes w = 4 ∨ laneBytes w = 2 ∨ laneBytes w = 1 := by
  unfold laneBytes laneBits
  split_ifs <;> simp

theorem p2_laneBits (w : Nat) : p2 (laneBits w) = 256 ^ laneBytes w := by
  unfold laneBytes laneBits
  split_ifs <;> rfl

theorem leNat_caseBytes_lt (s : State) (cell off w : Nat) : leNat (caseBytes s cell off (laneBytes w)) < p2 (laneBits w) := by
  have h := leNat_lt (caseBytes s cell off (laneBytes w))
  rwa [length_caseBytes, ← p2_laneBits] at h

/-- What `offsetsFit` says of a lane. -/
theorem offset_of_fit {f : VFields} (h : offsetsFit f = true) {l : Nat} (hl : l < laneNum f.w) : 0 ≤ laneOffset f l
    ∧ laneOffset f l + laneBytes f.w ≤ 2 ^ 23 ∧ laneOffset f l % laneBytes f.w = 0 := by
  have hLane := List.all_eq_true.mp h l (List.mem_range.mpr hl)
  rw [p2_eq] at hLane
  exact of_decide_eq_true hLane

section
variable {op : VOp} {cell : Nat} {f : VFields} {s : State}

/-- An instruction that is not reserved and that stops does nothing; a reserved one does nothing either. -/
theorem exec_vecCmd_of_stops {y : VRun} (hStep : vStep [] cell (VRun.start s) { op := op, f := f }
      = if (!true || !VInstr.legal { op := op, f := f }) = true then (VRun.start s).stop else y) (hStop : y.ok = false) :
    exec (vecCmd op cell f) s = .next s := by
  refine exec_vecCmd_of_stop ?_
  rw [hStep]
  split
  · rfl
  · exact hStop

/-! ### LD and LDG (R148, R153) -/

theorem ld_writesLanes (hw : f.w < 3) (hFit : offsetsFit f = true) (hRuns : vectorRuns s cell { op := .ld, f := f } = true) :
    writesLanes (.ld cell f) s cell f f.w (fun l => leNat (caseBytes s cell (laneOffset f l).toNat (laneBits f.w / 8))) := by
  have hOn : vLd cell f (VRun.start s) = (VRun.start s).on _ := if_neg (by simp [hFit])
  refine exec_of_lanes (op := .ld) (show f.w ∈ [0, 1, 2] by simp; omega) rfl (by rw [← hOn]; rfl) ?_ hRuns
  refine writeLanes_holds rfl (fun l hl => ?_) (fun l _ => leNat_caseBytes_lt s cell _ f.w)
  exact getD_map_range _ _ hl

theorem ldg_writesRow {t : SMap W32} (hw : f.w = 0) (hSlot : (engOf s cell).galley[f.addr.toNat % 8]? = some t)
    (hRuns : vectorRuns s cell { op := .ldg, f := f } = true) :
    ∃ v, exec (.ldg cell f) s = .next (onlyIf f.release (markRelease cell (f.addr.toNat % 8)) (setVreg cell f.vd v s))
      ∧ lanesHold s cell f 0 v (fun l => (SMap.getD t (128 * bitsOf f.addr.toNat 14 8 + l) 0).toNat) := by
  obtain ⟨v, hWrite, hLanes⟩ := writeLanes_holds (cell := cell) (f := f) (t := s) (s := s) (w := 0)
    (vals := (List.range 128).map fun j => (SMap.getD t (128 * bitsOf f.addr.toNat 14 8 + j) 0).toNat)
    (res := fun l => (SMap.getD t (128 * bitsOf f.addr.toNat 14 8 + l) 0).toNat) rfl (fun l hl => getD_map_range _ _ hl)
    (fun l _ => toNat_lt_lane_zero _)
  obtain ⟨g, hOn, hEffect⟩ : ∃ g, vLdg cell f (VRun.start s) = (VRun.start s).on g
      ∧ g s = onlyIf f.release (markRelease cell (f.addr.toNat % 8)) (setVreg cell f.vd v s) := by
    unfold vLdg
    dsimp only
    rw [hSlot, ← hWrite]
    exact ⟨_, rfl, rfl⟩
  refine ⟨v, ?_, hLanes⟩
  rw [← hEffect]
  exact exec_vecCmd_of_on (op := .ldg) hRuns (legal_of_widths (by simp [VOp.widths, hw]) (by simp [VOp.toMask])) (by rw [← hOn]; rfl)

/-! ### ST (R153) -/

/-- A lane stores: it is active, or stores +0 under zeroing. -/
def stores (s : State) (cell : Nat) (f : VFields) (l : Nat) : Bool := laneOn s cell f l || f.zeroing

/-- What a lane stores. -/
def laneStored (s : State) (cell : Nat) (f : VFields) (l : Nat) : List Byte :=
  leBytes (laneBytes f.w) (if laneOn s cell f l then (lanesOf f.w (vregOf s cell f.va)).getD l 0 else 0)

/-- The lanes that store. -/
def storingLanes (s : State) (cell : Nat) (f : VFields) : List Nat := (List.range (laneNum f.w)).filter (stores s cell f)

/-- The lanes' elements, stored in the order of the lanes. -/
def storeLanes (cell : Nat) (f : VFields) (s : State) : State :=
  ownWrites cell (fun l => (laneOffset f l).toNat) (laneStored s cell f) (storingLanes s cell f) s

theorem mem_storingLanes {l : Nat} : l ∈ storingLanes s cell f ↔ l < laneNum f.w ∧ stores s cell f l = true := by
  simp [storingLanes]

theorem exec_st (hw : f.w < 3) (hFit : offsetsFit f = true) (hRuns : vectorRuns s cell { op := .st, f := f } = true) :
    exec (.st cell f) s = .next (if f.stride = 0 && decide ((storingLanes s cell f).length > 1)
      then caseWrite .own cell f.addr.toNat (leBytes (laneBytes f.w) (drawFree s).1.toNat) (drawFree s).2 else storeLanes cell f s) := by
  have hOn : vSt cell f (VRun.start s) = (VRun.start s).on _ := if_neg (by simp [hFit])
  exact exec_vecCmd_of_on (op := .st) hRuns (legal_of_widths (show f.w ∈ [0, 1, 2] by simp; omega) (by simp [VOp.toMask])) (by rw [← hOn]; rfl)

/-- The pages that the lanes of a store touch: an aligned element lies in one page. -/
def lanePages (f : VFields) : List Nat := (List.range (laneNum f.w)).map fun l => (laneOffset f l).toNat / 4096

theorem mem_lanePages (hFit : offsetsFit f = true) {l p : Nat} (hl : l < laneNum f.w)
    (hp : p ∈ pagesOf 4096 (laneOffset f l).toNat (laneBytes f.w)) : p ∈ lanePages f := by
  have hOffset := offset_of_fit hFit hl
  have hBytes := laneBytes_cases f.w
  rw [pagesOf_of_one (by omega) (by rcases hBytes with h | h | h <;> rw [h] at hOffset ⊢ <;> omega)] at hp
  exact List.mem_map.mpr ⟨l, List.mem_range.mpr hl, (List.mem_singleton.mp hp).symm⟩

/-- Different lanes of a store with a stride store on different elements. -/
theorem laneOffset_disjoint {l k : Nat} {x : Int} (hStride : f.stride ≠ 0) (hl : laneOffset f l ≤ x ∧ x < laneOffset f l + laneBytes f.w)
    (hk : laneOffset f k ≤ x ∧ x < laneOffset f k + laneBytes f.w) : l = k := by
  have hApart : laneOffset f l - laneOffset f k = ((l : Int) - k) * f.stride.toInt * laneBytes f.w := by
    unfold laneOffset laneBytes
    ring
  have hZero : ((l : Int) - k) * f.stride.toInt = 0 := by
    rcases Int.lt_trichotomy (((l : Int) - k) * f.stride.toInt) 0 with h | h | h
    · have := Int.mul_le_mul_of_nonneg_right (show ((l : Int) - k) * f.stride.toInt ≤ -1 by omega) (Int.natCast_nonneg (laneBytes f.w))
      omega
    · exact h
    · have := Int.mul_le_mul_of_nonneg_right (show 1 ≤ ((l : Int) - k) * f.stride.toInt by omega) (Int.natCast_nonneg (laneBytes f.w))
      omega
  rcases Int.mul_eq_zero.mp hZero with h | h
  · omega
  · exact absurd (BitVec.toInt_inj.mp (h.trans BitVec.toInt_zero.symm)) hStride

end

/-- Pieces that never cover one byte twice give each byte one value. -/
theorem exists_byte_of_disjoint {cell : Nat} {place : Nat → Nat} {piece : Nat → List Byte} {ls : List Nat}
    (h : ∀ l ∈ ls, ∀ k ∈ ls, ∀ o, place l ≤ o ∧ o < place l + (piece l).length → place k ≤ o ∧ o < place k + (piece k).length → l = k) :
    ∃ byte : Nat → Byte, ∀ l ∈ ls, ∀ c o, inWrite cell (place l) (piece l).length c o → (piece l).getD (o - place l) 0 = byte o := by
  classical
  refine ⟨fun o => if hIn : ∃ l ∈ ls, place l ≤ o ∧ o < place l + (piece l).length then (piece hIn.choose).getD (o - place hIn.choose) 0 else 0,
    fun l hl c o hIn => ?_⟩
  have hSome : ∃ l ∈ ls, place l ≤ o ∧ o < place l + (piece l).length := ⟨l, hl, hIn.2⟩
  have hSame : l = hSome.choose := h l hl _ hSome.choose_spec.1 o hIn.2 hSome.choose_spec.2
  dsimp only
  rw [dif_pos hSome, ← hSame]

/-- A list without repeats in which any two members agree has at most one. -/
theorem length_le_one_iff_of_nodup {α : Type} {ls : List α} (hNodup : ls.Nodup) : ls.length ≤ 1 ↔ ∀ a ∈ ls, ∀ b ∈ ls, a = b := by
  match ls with
  | [] => simp
  | [a] => simp
  | a :: b :: rest =>
    refine ⟨fun h => by simp at h, fun h => ?_⟩
    have hSame := h a List.mem_cons_self b (List.mem_cons_of_mem a List.mem_cons_self)
    subst hSame
    simp at hNodup

section
variable {cell : Nat} {f : VFields} {s : State} (hFit : offsetsFit f = true) (hRoom : shadowRoom s cell (laneNum f.w) = true)
include hFit hRoom

omit hFit in
theorem lanePages_fit : ShadowFits (lanePages f) cell s := ShadowFits.of_room hRoom (by simp [lanePages])

/-- The lanes of a store that never meet all stand. -/
theorem storeLanes_written (hApart : f.stride ≠ 0 ∨ (storingLanes s cell f).length ≤ 1) : ∃ byte : Nat → Byte,
    OwnWritten (lanePages f) cell (fun c o => ∃ l ∈ storingLanes s cell f, inWrite cell (laneOffset f l).toNat (laneBytes f.w) c o) byte s
      (storeLanes cell f s)
    ∧ ∀ l ∈ storingLanes s cell f, ∀ i, i < laneBytes f.w → byte ((laneOffset f l).toNat + i) = (laneStored s cell f l).getD i 0 := by
  have hLength : ∀ l, (laneStored s cell f l).length = laneBytes f.w := fun l => length_leBytes _ _
  have hPlace : ∀ l ∈ storingLanes s cell f, ((laneOffset f l).toNat : Int) = laneOffset f l ∧ laneOffset f l + laneBytes f.w ≤ 2 ^ 23 := by
    intro l hl
    have hOffset := offset_of_fit hFit (mem_storingLanes.mp hl).1
    exact ⟨Int.toNat_of_nonneg hOffset.1, hOffset.2.1⟩
  obtain ⟨byte, hByte⟩ := exists_byte_of_disjoint (cell := cell) (place := fun l => (laneOffset f l).toNat) (piece := laneStored s cell f)
    (ls := storingLanes s cell f) (fun l hl k hk o hlo hko => by
      rcases hApart with hStride | hOne
      · have hPl := hPlace l hl
        have hPk := hPlace k hk
        rw [hLength] at hlo hko
        exact laneOffset_disjoint (x := o) hStride (by omega) (by omega)
      · exact (length_le_one_iff_of_nodup (List.nodup_range.filter _)).mp hOne l hl k hk)
  refine ⟨byte, ?_, fun l hl i hi => ?_⟩
  · refine (ownWrites_written _ (lanePages_fit hRoom) (fun l hl => ?_) (fun l hl p hp => ?_) hByte).congr (fun c o => ?_) (fun _ _ _ => rfl)
    · have hPl := hPlace l hl
      rw [hLength]
      omega
    · rw [hLength] at hp
      exact mem_lanePages hFit (mem_storingLanes.mp hl).1 hp
    · simp only [hLength]
  · have := hByte l hl cell ((laneOffset f l).toNat + i) ⟨rfl, by omega, by rw [hLength]; omega⟩
    rw [← this, Nat.add_sub_cancel_left]

end

/-! ### The obligation on loads and stores -/

section
variable {cell : Nat} {f : VFields} {s : State}

/-- With a stride of 0 and several lanes that store, the one element that they share takes a free value. -/
theorem storeFree_written (hFit : offsetsFit f = true) (hRoom : shadowRoom s cell (laneNum f.w) = true) {l : Nat} (hl : l ∈ storingLanes s cell f)
    (hStride : f.stride = 0) : ∃ byte : Nat → Byte, OwnWritten (lanePages f) cell (inWrite cell (laneOffset f l).toNat (laneBytes f.w)) byte s
      (caseWrite .own cell f.addr.toNat (leBytes (laneBytes f.w) (drawFree s).1.toNat) (drawFree s).2) := by
  have hLane := (mem_storingLanes.mp hl).1
  have hOffset := offset_of_fit hFit hLane
  have hPlace : laneOffset f l = f.addr.toNat := by simp [laneOffset, hStride]
  have hLength := length_leBytes (laneBytes f.w) (drawFree s).1.toNat
  have hNat : (laneOffset f l).toNat = f.addr.toNat := by omega
  have hFits : ShadowFits (lanePages f) cell (drawFree s).2 := (lanePages_fit hRoom).congr rfl
  have hWritten := caseWrite_own_written (off := f.addr.toNat) (bytes := leBytes (laneBytes f.w) (drawFree s).1.toNat) hFits (by omega)
    (fun p hp => mem_lanePages hFit hLane (by rwa [hNat, ← hLength]))
  rw [hLength] at hWritten
  rw [hNat]
  exact ⟨_, hWritten.mem, hWritten.fits, hWritten.written, hWritten.other⟩

/-- ST, whatever lands: committed case memory keeps its contents, and only elements of lanes that store change. -/
theorem st_written (hw : f.w < 3) (hFit : offsetsFit f = true) (hRoom : shadowRoom s cell (laneNum f.w) = true)
    (hRuns : vectorRuns s cell { op := .st, f := f } = true) : completes (.st cell f) s (fun t =>
      t.caseMem.mem = s.caseMem.mem
      ∧ (f.stride ≠ 0 ∨ (storingLanes s cell f).length ≤ 1 → ∀ l ∈ storingLanes s cell f, ∀ i, i < laneBytes f.w →
          caseByte t cell ((laneOffset f l).toNat + i) = (laneStored s cell f l).getD i 0)
      ∧ ∀ c off, off < 2 ^ 23 → (∃ l ∈ storingLanes s cell f, inWrite cell (laneOffset f l).toNat (laneBytes f.w) c off)
          ∨ caseByte t c off = caseByte s c off) := by
  refine ⟨_, exec_st hw hFit hRuns, ?_⟩
  by_cases hFree : f.stride = 0 ∧ 1 < (storingLanes s cell f).length
  · obtain ⟨hStride, hMany⟩ := hFree
    obtain ⟨l, hl⟩ := List.exists_mem_of_length_pos (Nat.lt_of_succ_lt hMany)
    obtain ⟨byte, hWritten⟩ := storeFree_written hFit hRoom hl hStride
    rw [if_pos (by simp [hStride, hMany])]
    refine ⟨hWritten.mem, fun hApart => ?_, fun c off ho => ?_⟩
    · exact absurd hApart (by simp [hStride, hMany])
    · exact (Classical.em _).imp (fun hIn => ⟨l, hl, hIn⟩) (hWritten.other c off ho)
  · have hApart : f.stride ≠ 0 ∨ (storingLanes s cell f).length ≤ 1 := by
      by_contra hNot
      exact hFree (by simpa using hNot)
    obtain ⟨byte, hWritten, hByte⟩ := storeLanes_written hFit hRoom hApart
    rw [if_neg (by simpa using hFree)]
    refine ⟨hWritten.mem, fun _ l hl i hi => ?_, fun c off ho => (Classical.em _).imp id (hWritten.other c off ho)⟩
    have hOffset := offset_of_fit hFit (mem_storingLanes.mp hl).1
    rw [hWritten.written cell _ (by omega) ⟨l, hl, rfl, by omega, by omega⟩, hByte l hl i hi]

end

/-- Settles O15. A load writes lanes; a store is a fold of own writes on elements that lie in one page each. -/
theorem vectorLoadsAndStores : Obligations.VectorLoadsAndStores := by
  unfold Obligations.VectorLoadsAndStores
  refine ⟨fun s cell f => ⟨fun hw hRuns hFit => ld_writesLanes hw hFit hRuns, fun t hw hRuns hSlot => ldg_writesRow hw hSlot hRuns,
    fun hFit => ⟨?_, ?_⟩, fun hSlot => ?_⟩, fun s cell f hRuns hw hFit hRoom => ?_⟩
  · exact exec_vecCmd_of_stops (op := .ld) rfl (by rw [vLd, if_pos (by simp [hFit])]; rfl)
  · exact exec_vecCmd_of_stops (op := .st) rfl (by rw [vSt, if_pos (by simp [hFit])]; rfl)
  · refine exec_vecCmd_of_stops (op := .ldg) rfl ?_
    rw [vLdg]
    simp only [List.getElem?_eq_none hSlot]
    rfl
  · obtain ⟨t, hExec, hMem, hStored, hOther⟩ := st_written hw hFit hRoom hRuns
    refine ⟨t, hExec, hMem, fun hApart l i hl hLive hi => ?_, fun c off ho => ?_⟩
    · have hOne : f.stride ≠ 0 ∨ (storingLanes s cell f).length ≤ 1 := hApart.imp id fun h =>
        (length_le_one_iff_of_nodup (List.nodup_range.filter _)).mpr fun a ha b hb =>
          h a b (mem_storingLanes.mp ha).1 (mem_storingLanes.mp hb).1 (mem_storingLanes.mp ha).2 (mem_storingLanes.mp hb).2
      rw [hStored hOne l (mem_storingLanes.mpr ⟨hl, hLive⟩) i hi, laneStored, getD_lanesOf _ _ _ hl]
      rfl
    · refine (hOther c off ho).imp (fun hIn => ?_) id
      obtain ⟨l, hl, hCell, hLow, hHigh⟩ := hIn
      exact ⟨hCell, l, (mem_storingLanes.mp hl).1, (mem_storingLanes.mp hl).2, hLow, hHigh⟩

/-! ### TOPKM (R169) -/

theorem caseBytes_congr {s t : State} {cell off n : Nat} (h : ∀ o, off ≤ o → o < off + n → caseByte t cell o = caseByte s cell o) :
    caseBytes t cell off n = caseBytes s cell off n :=
  List.map_congr_left fun i hi => h (off + i) (by omega) (by have := List.mem_range.mp hi; omega)

theorem caseWord_congr {s t : State} {cell off : Nat} (h : ∀ o, off ≤ o → o < off + 4 → caseByte t cell o = caseByte s cell o) :
    caseWord t cell off = caseWord s cell off := by
  rw [caseWord, caseBytes_congr h, caseWord]

/-- The entries of a record read its 64 bytes alone. -/
theorem topkEntries_congr {s t : State} {cell addr : Nat} (h : ∀ o, addr ≤ o → o < addr + 64 → caseByte t cell o = caseByte s cell o) :
    topkEntries t cell addr = topkEntries s cell addr := by
  refine List.filterMap_congr fun i hi => ?_
  have hLess := List.mem_range.mp hi
  rw [caseWord_congr (s := s) (off := addr + 32 + 4 * i) fun o hLow hHigh => h o (by omega) (by omega),
    caseWord_congr (s := s) (off := addr + 4 * i) fun o hLow hHigh => h o (by omega) (by omega)]

theorem length_topkRecord (k : Nat) (cands : List (Nat × W32)) : (topkRecord k cands).length = 64 := by
  simp [topkRecord, List.length_flatMap, length_leBytes]

/-- The merged record of row `r`. -/
def mergedRecord (s : State) (cell A B k r : Nat) : List Byte := topkRecord k (topkEntries s cell (A + 64 * r) ++ topkEntries s cell (B + 64 * r))

/-- One row of TOPKM. -/
def mergeRow (cell A B k : Nat) (s : State) (r : Nat) : State :=
  caseWrite .own cell (A + 64 * r) (topkRecord k (topkEntries s cell (A + 64 * r) ++ topkEntries s cell (B + 64 * r))) s

/-- The pages of a list of at most 128 records. -/
def listPages (A : Nat) : List Nat := [A / 4096, A / 4096 + 1, A / 4096 + 2]

section
variable {s : State} {cell A B n : Nat} (k : Nat) (hFits : ShadowFits (listPages A) cell s) (hRows : n ≤ 128) (hA : A + 64 * n ≤ 2 ^ 23)
  (hB : B + 64 * n ≤ 2 ^ 23) (hApart : A + 64 * n ≤ B ∨ B + 64 * n ≤ A)
include hFits hRows hA

/-- The merged records, written row by row, all stand. -/
theorem mergedRecords_written {m : Nat} (hm : m ≤ n) : OwnWritten (listPages A) cell (fun c o => inWrite cell A (64 * m) c o)
    (fun o => (mergedRecord s cell A B k ((o - A) / 64)).getD ((o - A) % 64) 0) s
    (ownWrites cell (fun r => A + 64 * r) (mergedRecord s cell A B k) (List.range m) s) := by
  have hLength : ∀ r, (mergedRecord s cell A B k r).length = 64 := fun r => length_topkRecord k _
  refine (ownWrites_written (List.range m) hFits (fun r hr => ?_) (fun r hr p hp => ?_) (fun r hr c o hIn => ?_)).congr (fun c o => ?_) (fun _ _ _ => rfl)
  · have := List.mem_range.mp hr
    rw [hLength]
    omega
  · have := List.mem_range.mp hr
    rw [hLength] at hp
    obtain ⟨hLow, hHigh, -⟩ := mem_pagesOf_bounds hp
    simp only [listPages, List.mem_cons, List.not_mem_nil, or_false]
    omega
  · obtain ⟨-, hLow, hHigh⟩ := hIn
    rw [hLength] at hHigh
    rw [show (o - A) / 64 = r by omega, show (o - A) % 64 = o - (A + 64 * r) by omega]
  · simp only [hLength, inWrite, List.mem_range]
    refine ⟨fun ⟨r, hr, hCell, hLow, hHigh⟩ => ⟨hCell, by omega, by omega⟩,
      fun ⟨hCell, hLow, hHigh⟩ => ⟨(o - A) / 64, ?_, hCell, ?_, ?_⟩⟩ <;> omega

include hB hApart

/-- Each row is merged from entries that the rows before have not written. -/
theorem mergeRows_eq {m : Nat} (hm : m ≤ n) : (List.range m).foldl (mergeRow cell A B k) s
    = ownWrites cell (fun r => A + 64 * r) (mergedRecord s cell A B k) (List.range m) s := by
  induction m with
  | zero => rw [List.range_zero, List.foldl_nil, ownWrites, List.foldl_nil]
  | succ m ih =>
    have hWritten := mergedRecords_written (B := B) k hFits hRows hA (Nat.le_of_succ_le hm)
    have hKept : ∀ o, o < 2 ^ 23 → ¬ (A ≤ o ∧ o < A + 64 * m) →
        caseByte (ownWrites cell (fun r => A + 64 * r) (mergedRecord s cell A B k) (List.range m) s) cell o = caseByte s cell o :=
      fun o ho hNot => hWritten.other cell o ho (fun hIn => hNot hIn.2)
    rw [List.range_succ, List.foldl_append, ih (Nat.le_of_succ_le hm), ownWrites_concat, List.foldl_cons, List.foldl_nil, mergeRow,
      topkEntries_congr (s := s) (addr := A + 64 * m) fun o hLow hHigh => hKept o (by omega) (by omega),
      topkEntries_congr (s := s) (addr := B + 64 * m) fun o hLow hHigh => hKept o (by omega) (by omega), mergedRecord]

end

/-- Settles O18. Every row merges the entries that stood before, since the lists are apart; the records of list A are then own writes in three pages. -/
theorem topkMerge : Obligations.TopkMerge := by
  unfold Obligations.TopkMerge
  intro s cell f hw A B
  refine ⟨fun hBeyond => exec_vecCmd_of_stops (op := .topkm) rfl (by rw [vTopkm, if_pos (by rwa [p2_eq])]; rfl),
    fun hRuns hPos hRows hRoom hA hB hApart => ?_⟩
  intro k
  have hMax : Nat.max A B + 64 * f.vc ≤ 2 ^ 23 := by
    change max A B + 64 * f.vc ≤ 2 ^ 23
    omega
  have hOn : vTopkm cell f (VRun.start s) = (VRun.start s).on _ := if_neg (by rw [p2_eq]; exact Nat.not_lt.mpr hMax)
  have hExec := exec_vecCmd_of_on (op := .topkm) hRuns (legal_of_widths (show f.w ∈ [0, 1, 2] by simp; omega) (by simp [VOp.toMask])) (by rw [← hOn]; rfl)
  have hStart : ∃ u : State, u.caseMem = s.caseMem ∧ exec (.topkm cell f) s = .next ((List.range f.vc).foldl (mergeRow cell A B k) u) :=
    ⟨_, by split <;> rfl, hExec⟩
  obtain ⟨u, hCase, hExec⟩ := hStart
  have hByte : ∀ c o, caseByte u c o = caseByte s c o := fun c o => by rw [caseByte, hCase, caseByte]
  have hFits : ShadowFits (listPages A) cell u := (ShadowFits.of_room hRoom (by simp [listPages])).congr hCase
  have hMerged : ∀ r, mergedRecord u cell A B k r = mergedRecord s cell A B k r := fun r => by
    rw [mergedRecord, topkEntries_congr (s := s) fun o _ _ => hByte cell o, topkEntries_congr (s := s) fun o _ _ => hByte cell o, mergedRecord]
  have hWritten := mergedRecords_written (B := B) k hFits hRows hA (Nat.le_refl _)
  rw [← mergeRows_eq k hFits hRows hA hB hApart (Nat.le_refl _)] at hWritten
  refine ⟨_, hExec, fun r i hr hi => ?_, fun c off ho => ?_, ?_⟩
  · rw [hWritten.written cell _ (by omega) ⟨rfl, by omega, by omega⟩, hMerged, show (A + 64 * r + i - A) / 64 = r by omega,
      show (A + 64 * r + i - A) % 64 = i by omega, mergedRecord]
  · refine (Classical.em _).imp id fun hNot => ?_
    rw [hWritten.other c off ho hNot, hByte]
  · rw [hWritten.mem, hCase]

end Sys2Proof.Machine
end

section
/-! PROOFS. Long-word registers: the product limit, the raise of a register, and what one value does to a run that it enters (R83, R86, R91, R159,
R162). -/

namespace Sys2Proof.Machine
open Sys2Proof

/-! ### The product limit (R83, R86) -/

/-- A comparison with a power of two, with both sides at the smaller exponent. -/
theorem lt_pow_iff_mul (m : Nat) (e E : Int) : DyOp.lt ⟨m, e⟩ ⟨1, E⟩ = true ↔ m * 2 ^ (e - E).toNat < 2 ^ (E - e).toNat := by
  have hLeft : (e - if e ≤ E then e else E).toNat = (e - E).toNat := by split_ifs <;> omega
  have hRight : (E - if e ≤ E then e else E).toNat = (E - e).toNat := by split_ifs <;> omega
  have hDiff : (DyOp.sub ⟨m, e⟩ ⟨1, E⟩).m = (m * 2 ^ (e - E).toNat : Nat) - (2 ^ (E - e).toNat : Nat) := by
    change (m : Int) * (p2 (e - if e ≤ E then e else E).toNat : Nat) + -1 * (p2 (E - if e ≤ E then e else E).toNat : Nat) = _
    rw [hLeft, hRight, p2_eq, p2_eq]
    push_cast
    ring
  rw [DyOp.lt, hDiff, decide_eq_true_eq]
  omega

theorem lt_pow_iff (m : Nat) (e E : Int) : DyOp.lt ⟨m, e⟩ ⟨1, E⟩ = true ↔ m = 0 ∨ (m.log2 : Int) + e < E := by
  rw [lt_pow_iff_mul]
  by_cases hm : m = 0
  · simp [hm]
  by_cases hLe : e ≤ E
  · rw [show (e - E).toNat = 0 by omega, Nat.pow_zero, Nat.mul_one, ← Nat.log2_lt hm]
    omega
  · have hLarge : 1 ≤ m * 2 ^ (e - E).toNat := Nat.mul_pos (Nat.pos_of_ne_zero hm) (Nat.two_pow_pos _)
    rw [show (E - e).toNat = 0 by omega, Nat.pow_zero]
    omega

/-- The limit at a leading, in terms of the places of the value's highest bits. -/
theorem belowLimit_iff (lead : Int) (n : Nat) (x : Dy) : belowLimit lead n x = true ↔
    (x.m.natAbs = 0 ∨ DyOp.flog2 x ≤ lead) ∧ (x.m.natAbs * n = 0 ∨ DyOp.flog2 (DyOp.mul x ⟨n, 0⟩) ≤ lead + 19) := by
  have hMul : DyOp.mul (DyOp.abs x) ⟨n, 0⟩ = ⟨(x.m.natAbs * n : Nat), x.e + 0⟩ := by simp [DyOp.mul, DyOp.abs]
  have hProd : DyOp.flog2 (DyOp.mul x ⟨n, 0⟩) = ((x.m.natAbs * n).log2 : Int) + (x.e + 0) := by simp [DyOp.flog2, DyOp.mul, Int.natAbs_mul]
  rw [belowLimit, Bool.and_eq_true, hMul, DyOp.abs, lt_pow_iff, lt_pow_iff, hProd, DyOp.flog2]
  omega

/-- A magnitude below the limit at a leading is below it at every higher one. -/
theorem belowLimit_mono {lead lead' : Int} {n : Nat} {x : Dy} (hLe : lead ≤ lead') (h : belowLimit lead n x = true) : belowLimit lead' n x = true := by
  rw [belowLimit_iff] at h ⊢
  omega

/-- The least Δ puts a magnitude below the limit, and no smaller one does. -/
theorem belowLimit_add_iff {lead : Int} {n : Nat} {x : Dy} (hn : n ≠ 0) (hx : belowLimit lead n x = false) {d : Nat} (hd : 1 ≤ d) :
    belowLimit (lead + d) n x = true ↔ leastDelta lead n x ≤ d := by
  have hm : x.m.natAbs ≠ 0 := by
    intro h
    rw [(belowLimit_iff lead n x).mpr (by simp [h])] at hx
    cases hx
  have hDelta : leastDelta lead n x = max 1 (max (DyOp.flog2 x - lead).toNat (DyOp.flog2 (DyOp.mul x ⟨n, 0⟩) - lead - 19).toNat) := rfl
  rw [belowLimit_iff, hDelta]
  have hProd : x.m.natAbs * n ≠ 0 := Nat.mul_ne_zero hm hn
  omega

theorem one_le_leastDelta (lead : Int) (n : Nat) (x : Dy) : 1 ≤ leastDelta lead n x := Nat.le_max_left _ _

theorem p2_ne_zero (n : Nat) : p2 n ≠ 0 := by
  rw [p2_eq]
  exact (Nat.two_pow_pos n).ne'

/-- The leading that a value asks for of a register at the leading `lead`: at most 127 (R86). -/
def leadFor (lead : Int) (n : Nat) (w : W32) : Int :=
  if f32Finite w && !belowLimit lead n (f32Val w) then max lead (min 127 (lead + leastDelta lead n (f32Val w))) else lead

section
variable {lead L : Int} {n : Nat} {w : W32}

theorem leadFor_le_max (lead : Int) (n : Nat) (w : W32) : leadFor lead n w ≤ max lead 127 := by
  unfold leadFor
  split <;> omega

theorem leadFor_le (hn : n ≠ 0) (hLead : lead ≤ L) (hBelow : belowLimit L n (f32Val w) = true) : leadFor lead n w ≤ L := by
  unfold leadFor
  split
  next h =>
    simp only [Bool.and_eq_true, Bool.not_eq_true'] at h
    have hNe : lead ≠ L := fun he => by simp [he, hBelow] at h
    have hDelta := (belowLimit_add_iff hn h.2 (d := (L - lead).toNat) (by omega)).mp (by rwa [show lead + ((L - lead).toNat : Int) = L by omega])
    omega
  · exact hLead

theorem le_leadFor_of_beyond (hn : n ≠ 0) (hFinite : f32Finite w = true) (hLead : lead < L) (hTop : L ≤ 127)
    (hBeyond : belowLimit (L - 1) n (f32Val w) = false) : L ≤ leadFor lead n w := by
  have hNow : belowLimit lead n (f32Val w) = false := by
    by_contra h
    rw [belowLimit_mono (show lead ≤ L - 1 by omega) (by simpa using h)] at hBeyond
    cases hBeyond
  unfold leadFor
  rw [if_pos (by simp [hFinite, hNow])]
  by_cases hOne : lead + 1 = L
  · have := one_le_leastDelta lead n (f32Val w)
    omega
  · have hDelta := (belowLimit_add_iff hn hNow (d := (L - 1 - lead).toNat) (by omega)).not
    rw [show lead + ((L - 1 - lead).toNat : Int) = L - 1 by omega, hBeyond] at hDelta
    have := hDelta.mp (by simp)
    omega

end

/-! ### Maps whose keys rise -/

theorem get?_filter_key {β : Type} (f : Nat → Bool) (a : Nat) : ∀ {m : SMap β}, keysRise m →
    SMap.get? (m.filter (fun p => f p.1)) a = if f a then SMap.get? m a else none
  | [], _ => by simp [SMap.get?]
  | (k, v) :: rest, hm => by
    have hRest := List.pairwise_cons.mp hm
    have ih := get?_filter_key f a hRest.2
    rw [List.filter_cons, SMap.get?]
    by_cases hk : k = a
    · subst hk
      by_cases h : f k = true
      · simp [if_pos h, SMap.get?]
      · rw [if_neg h, ih, if_neg h, if_neg h]
    · rw [if_neg hk]
      have hKeep : SMap.get? (if f k then (k, v) :: rest.filter (fun p => f p.1) else rest.filter (fun p => f p.1)) a
          = if a < k then none else SMap.get? (rest.filter (fun p => f p.1)) a := by
        split
        · rw [SMap.get?, if_neg hk]
        · split
          next hBelow =>
            exact get?_below fun p hp => Nat.lt_trans hBelow (hRest.1 p (List.mem_filter.mp hp).1)
          · rfl
      rw [hKeep, ih]
      split_ifs <;> rfl

theorem getD_filter_key {β : Type} (f : Nat → Bool) (a : Nat) (d : β) {m : SMap β} (hm : keysRise m) :
    SMap.getD (m.filter (fun p => f p.1)) a d = if f a then SMap.getD m a d else d := by
  rw [SMap.getD, get?_filter_key f a hm]
  split_ifs <;> rfl

/-- Dropping the listed defaults changes no lookup. -/
theorem getD_filter_ne {β : Type} [DecidableEq β] (d : β) (a : Nat) : ∀ {m : SMap β}, keysRise m →
    SMap.getD (m.filter (fun p => p.2 != d)) a d = SMap.getD m a d
  | [], _ => rfl
  | (k, v) :: rest, hm => by
    have hRest := List.pairwise_cons.mp hm
    have ih := getD_filter_ne d a hRest.2
    simp only [SMap.getD] at ih ⊢
    by_cases hv : v = d
    · rw [List.filter_cons_of_neg (by simpa using hv), ih, SMap.get?.eq_def ((k, v) :: rest) a]
      dsimp only
      by_cases hk : k = a
      · rw [if_pos hk, get?_below fun p hp => hk ▸ hRest.1 p hp, hv]
      · rw [if_neg hk]
        split_ifs with hBelow
        · rw [get?_below fun p hp => Nat.lt_trans hBelow (hRest.1 p hp)]
        · rfl
    · rw [List.filter_cons_of_pos (by simpa using hv), SMap.get?.eq_def (_ :: rest) a, SMap.get?.eq_def (_ :: _) a]
      dsimp only
      split_ifs
      · rfl
      · rfl
      · exact ih

theorem rise_map_entries {β γ : Type} (f : Nat × β → γ) {m : SMap β} (hm : keysRise m) : keysRise (m.map fun p => (p.1, f p)) :=
  List.pairwise_map.mpr hm

/-! ### Raising a register (R86, R91) -/

@[simp] theorem alignedTo_zero (lead own : Int) : alignedTo lead own 0 = 0 := by
  unfold alignedTo
  split
  · rfl
  · unfold shiftLong shlTrunc
    split <;> simp

theorem alignedTo_of_le {lead own : Int} (h : lead ≤ own) (x : Int) : alignedTo lead own x = x := if_pos h

section
variable (v : LReg) (lead : Int)

theorem raise_leading : (v.raise lead).1.leading = max v.leading lead := by
  unfold LReg.raise
  split <;> dsimp only <;> omega

@[simp] theorem raise_logN : (v.raise lead).1.logN = v.logN := by unfold LReg.raise; split <;> rfl
@[simp] theorem raise_tensor : (v.raise lead).1.tensor = v.tensor := by unfold LReg.raise; split <;> rfl
@[simp] theorem raise_poison : (v.raise lead).1.poison = v.poison := by unfold LReg.raise; split <;> rfl

variable {v}

theorem rise_raise (hm : keysRise v.lanes) : keysRise (v.raise lead).1.lanes := by
  unfold LReg.raise
  split
  · exact hm
  · exact List.Pairwise.filter _ (rise_map_entries _ (rise_map_entries _ hm))

theorem getD_raise (hm : keysRise v.lanes) (l : Nat) : SMap.getD (v.raise lead).1.lanes l 0 = alignedTo lead v.leading (SMap.getD v.lanes l 0) := by
  unfold LReg.raise
  split
  next h => exact (alignedTo_of_le h _).symm
  next h =>
    simp only [List.map_map, Function.comp_def]
    rw [getD_filter_ne 0 l (rise_map_entries (fun p => (shiftLong (lead - v.leading).toNat p.2).1) hm), SMap.getD,
      get?_map_entries (fun p => (shiftLong (lead - v.leading).toNat p.2).1), SMap.getD]
    cases SMap.get? v.lanes l with
    | none => exact (alignedTo_zero lead v.leading).symm
    | some x => exact (if_neg h).symm

end

end Sys2Proof.Machine
end

section
/-! PROOFS. What a value does to a long-word register and to the run that it enters (R83, R86, R159, R162). -/

namespace Sys2Proof.Machine
open Sys2Proof

/-! ### Statistics leave the registers -/

section
variable (ten n cell c r : Nat) (s : State)

@[simp] theorem lregOf_statBelow : lregOf (statBelow ten n s) c r = lregOf s c r := by
  rw [lregOf, (statBelow_does ten n s).engOf_eq, ← lregOf]

@[simp] theorem vregOf_statBelow : vregOf (statBelow ten n s) c r = vregOf s c r := by
  rw [vregOf, (statBelow_does ten n s).engOf_eq, ← vregOf]

@[simp] theorem mregOf_statBelow : mregOf (statBelow ten n s) c r = mregOf s c r := by
  rw [mregOf, (statBelow_does ten n s).engOf_eq, ← mregOf]

@[simp] theorem lregOf_statNonfinite : lregOf (statNonfinite ten n s) c r = lregOf s c r := by
  rw [lregOf, (statNonfinite_does ten n s).engOf_eq, ← lregOf]

@[simp] theorem vregOf_statNonfinite : vregOf (statNonfinite ten n s) c r = vregOf s c r := by
  rw [vregOf, (statNonfinite_does ten n s).engOf_eq, ← vregOf]

@[simp] theorem mregOf_statNonfinite : mregOf (statNonfinite ten n s) c r = mregOf s c r := by
  rw [mregOf, (statNonfinite_does ten n s).engOf_eq, ← mregOf]

@[simp] theorem lregOf_statOwn (rec : StatRec) : lregOf (statOwn ten rec s) c r = lregOf s c r := by
  rw [lregOf, (statOwn_does ten rec s).engOf_eq, ← lregOf]

@[simp] theorem vregOf_statOwn (rec : StatRec) : vregOf (statOwn ten rec s) c r = vregOf s c r := by
  rw [vregOf, (statOwn_does ten rec s).engOf_eq, ← vregOf]

end

/-! ### Re-leads in the statistics (R138) -/

/-- The re-leads that a tensor's record of the chip counts, held at the top of the count. -/
def releads (ten : Nat) (s : State) : Nat := hold32 (SMap.getD s.stats.own ten StatRec.empty).relead

theorem hold32_hold32_add (a b : Nat) : hold32 (hold32 a + b) = hold32 (a + b) := by
  change min (min a 0xFFFFFFFF + b) 0xFFFFFFFF = min (a + b) 0xFFFFFFFF
  omega

theorem releads_statOwn_of_none (ten : Nat) {rec : StatRec} (h : rec.relead = 0) (s : State) : releads ten (statOwn ten rec s) = releads ten s := by
  have hOwn : (statOwn ten rec s).stats.own = SMap.put s.stats.own ten (StatRec.add rec (SMap.getD s.stats.own ten StatRec.empty)) := rfl
  have hAdd : ∀ y : StatRec, (StatRec.add rec y).relead = hold32 (rec.relead + y.relead) := fun _ => rfl
  rw [releads, hOwn, getD_put_same, hAdd, h, Nat.zero_add]
  exact hold32_hold32_add _ 0

@[simp] theorem releads_statBelow (ten n : Nat) (s : State) : releads ten (statBelow ten n s) = releads ten s := by
  unfold statBelow
  split
  · rfl
  · exact releads_statOwn_of_none ten (by rfl) s

@[simp] theorem releads_statNonfinite (ten n : Nat) (s : State) : releads ten (statNonfinite ten n s) = releads ten s := by
  unfold statNonfinite
  split
  · rfl
  · exact releads_statOwn_of_none ten (by rfl) s

@[simp] theorem releads_setLreg (ten cell r : Nat) (v : LReg) (s : State) : releads ten (setLreg cell r v s) = releads ten s := rfl

@[simp] theorem releads_setVreg (ten cell r : Nat) (v : BitVec 4096) (s : State) : releads ten (setVreg cell r v s) = releads ten s := rfl

/-- One raise counts one re-lead. -/
theorem relead_countReleads (ten : Nat) (lead : Int) (s : State) :
    (SMap.getD (countReleads [(ten, lead)] s).stats.own ten StatRec.empty).relead
      = hold32 ((SMap.getD s.stats.own ten StatRec.empty).relead + 1) := by
  have hOwn : (countReleads [(ten, lead)] s).stats.own = SMap.put s.stats.own ten
      (StatRec.add { StatRec.empty with relead := 1, leading := some lead } (SMap.getD s.stats.own ten StatRec.empty)) := rfl
  rw [hOwn, getD_put_same, Nat.add_comm]
  rfl

/-! ### A value that enters (R159) -/

/-- A register behind one value at lane `l`: a finite value joins the lane's word in units of 2 ^ (leading − 75), another poisons. -/
def LReg.enter (v : LReg) (l : Nat) (w : W32) : LReg :=
  let u := DyOp.toUnits (f32Val w) (v.leading - 75)
  if f32Finite w then { v with
    loose := true
    below := v.below + if u.2 then 1 else 0
    lanes := SMap.putD v.lanes l 0 (wrap96 (SMap.getD v.lanes l 0 + u.1)) }
  else { v with loose := true, poison := true }

/-- The state behind one value that enters register `r`, with its count in the statistics. -/
def enterLong (cell r l : Nat) (w : W32) (s : State) : State :=
  let v := lregOf s cell r
  let t := setLreg cell r (v.enter l w) s
  if f32Finite w then statBelow v.tensor (if (DyOp.toUnits (f32Val w) (v.leading - 75)).2 then 1 else 0) t else statNonfinite v.tensor 1 t

/-- What places a register's words: its leading, the log of its count, and the tensor that its counts go to. -/
def LReg.scale (v : LReg) : Int × Nat × Nat := (v.leading, v.logN, v.tensor)

section
variable (v : LReg) (l : Nat) (w : W32)

@[simp] theorem enter_scale : (v.enter l w).scale = v.scale := by unfold LReg.enter; dsimp only; split <;> rfl

@[simp] theorem enter_releaded : (v.enter l w).releaded = v.releaded := by unfold LReg.enter; dsimp only; split <;> rfl

@[simp] theorem enter_poison : (v.enter l w).poison = (v.poison || !f32Finite w) := by
  unfold LReg.enter
  dsimp only
  split
  next h => simp [h]
  next h => simp [h]

variable {v}

theorem rise_enter (hm : keysRise v.lanes) : keysRise (v.enter l w).lanes := by
  unfold LReg.enter
  dsimp only
  split
  · exact rise_putD l 0 _ hm
  · exact hm

/-- The lane's word behind one value. -/
theorem getD_enter_same : SMap.getD (v.enter l w).lanes l 0
    = if f32Finite w then wrap96 (SMap.getD v.lanes l 0 + (DyOp.toUnits (f32Val w) (v.leading - 75)).1) else SMap.getD v.lanes l 0 := by
  unfold LReg.enter
  dsimp only
  split
  · exact getD_putD_same _ _ _ _
  · rfl

theorem getD_enter_ne {k : Nat} (h : k ≠ l) (hm : keysRise v.lanes) : SMap.getD (v.enter l w).lanes k 0 = SMap.getD v.lanes k 0 := by
  unfold LReg.enter
  dsimp only
  split
  · exact getD_putD_ne h hm 0 _ 0
  · rfl

end

section
variable (cell r l : Nat) (w : W32) (s : State)

@[simp] theorem lregOf_enterLong : lregOf (enterLong cell r l w s) cell r = (lregOf s cell r).enter l w := by
  unfold enterLong
  dsimp only
  split <;> simp

@[simp] theorem vregOf_enterLong (c q : Nat) : vregOf (enterLong cell r l w s) c q = vregOf s c q := by
  unfold enterLong
  dsimp only
  split <;> simp

@[simp] theorem mregOf_enterLong (c q : Nat) : mregOf (enterLong cell r l w s) c q = mregOf s c q := by
  unfold enterLong
  dsimp only
  split <;> simp

theorem releads_enterLong {ten : Nat} (h : (lregOf s cell r).tensor = ten) : releads ten (enterLong cell r l w s) = releads ten s := by
  unfold enterLong
  dsimp only
  rw [h]
  split <;> simp

end

/-! ### A run that has touched a register (R162) -/

/-- The run has used register `r`: it holds the repeat's raise. -/
def VRun.touched (r : Nat) (x : VRun) : Prop := (SMap.get? x.adj r).isSome = true

section
variable {delta : SMap Nat} {cell r : Nat} {x : VRun}

theorem touchLong_of_touched (h : x.touched r) : touchLong delta cell r x = x := if_pos h

theorem touched_touchLong (delta : SMap Nat) (cell r : Nat) (x : VRun) : (touchLong delta cell r x).touched r := by
  unfold touchLong VRun.touched
  split
  next h => exact h
  next h =>
    dsimp only
    split
    · exact Option.isSome_iff_exists.mpr ⟨_, get?_put_same _ _ _⟩
    · exact Option.isSome_iff_exists.mpr ⟨_, get?_put_same _ _ _⟩

theorem touched_on (g : State → State) (h : x.touched r) : (x.on g).touched r := h

/-- A value touches its register itself. -/
theorem addLong_touchLong (delta : SMap Nat) (cell r l : Nat) (w : W32) (x : VRun) :
    addLong delta cell r l w (touchLong delta cell r x) = addLong delta cell r l w x := by
  rw [addLong, touchLong_of_touched (touched_touchLong delta cell r x), addLong]

/-- A value below the limit, and one that is not finite, enter. -/
theorem addLong_of_enters {l : Nat} {w : W32} (h : x.touched r)
    (hBelow : f32Finite w = true → belowLimit (lregOf x.s cell r).leading (p2 (lregOf x.s cell r).logN) (f32Val w) = true) :
    addLong delta cell r l w x = x.on (enterLong cell r l w) := by
  rw [addLong, touchLong_of_touched h]
  dsimp only
  by_cases hFinite : f32Finite w = true
  · simp only [VRun.on, enterLong, LReg.enter, hFinite, hBelow hFinite, Bool.not_true, Bool.false_eq_true, if_false, if_true]
  · simp only [VRun.on, enterLong, LReg.enter, hFinite, Bool.not_false, Bool.false_eq_true, if_false, if_true]

/-- At the leading 127 a value at or above the limit poisons (R86). -/
theorem addLong_of_top {l : Nat} {w : W32} (h : x.touched r) (hFinite : f32Finite w = true)
    (hBeyond : belowLimit (lregOf x.s cell r).leading (p2 (lregOf x.s cell r).logN) (f32Val w) = false) (hTop : 127 ≤ (lregOf x.s cell r).leading) :
    addLong delta cell r l w x = x.on (setLreg cell r { lregOf x.s cell r with loose := true, poison := true }) := by
  rw [addLong, touchLong_of_touched h]
  dsimp only
  rw [if_neg (by simp [hFinite]), if_neg (by simp [hBeyond]), if_pos hTop]

/-- Below it one asks for a repeat. -/
theorem addLong_of_climb {l : Nat} {w : W32} (h : x.touched r) (hFinite : f32Finite w = true)
    (hBeyond : belowLimit (lregOf x.s cell r).leading (p2 (lregOf x.s cell r).logN) (f32Val w) = false)
    (hLow : -128 ≤ (lregOf x.s cell r).leading) (hTop : (lregOf x.s cell r).leading < 127) :
    addLong delta cell r l w x = { x with need := SMap.modify x.need r (0, 0, 0) (fun o => worseNeed o
      ((leadFor (lregOf x.s cell r).leading (p2 (lregOf x.s cell r).logN) w - SMap.getD x.adj r (lregOf x.s cell r).leading).toNat,
        (lregOf x.s cell r).tensor, leadFor (lregOf x.s cell r).leading (p2 (lregOf x.s cell r).logN) w)) } := by
  have hNew : clampI (-128) 127 ((lregOf x.s cell r).leading + leastDelta (lregOf x.s cell r).leading (p2 (lregOf x.s cell r).logN) (f32Val w))
      = leadFor (lregOf x.s cell r).leading (p2 (lregOf x.s cell r).logN) w := by
    rw [leadFor, if_pos (by simp [hFinite, hBeyond]), clampI]
    split_ifs <;> omega
  rw [addLong, touchLong_of_touched h]
  dsimp only
  rw [if_neg (by simp [hFinite]), if_neg (by simp [hBeyond]), if_neg (by omega), hNew]

end

/-! ### Values that enter one after another -/

/-- Values that enter lanes of a register, in the order of the lanes. -/
def LReg.enterAll (a : Nat → W32) (ls : List Nat) (v : LReg) : LReg := ls.foldl (fun v l => v.enter l (a l)) v

section
variable {a : Nat → W32}

@[simp] theorem enterAll_cons (l : Nat) (ls : List Nat) (v : LReg) : v.enterAll a (l :: ls) = (v.enter l (a l)).enterAll a ls := rfl

@[simp] theorem enterAll_scale (ls : List Nat) (v : LReg) : (v.enterAll a ls).scale = v.scale := by
  induction ls generalizing v with
  | nil => rfl
  | cons l ls ih => rw [enterAll_cons, ih, enter_scale]

@[simp] theorem enterAll_releaded (ls : List Nat) (v : LReg) : (v.enterAll a ls).releaded = v.releaded := by
  induction ls generalizing v with
  | nil => rfl
  | cons l ls ih => rw [enterAll_cons, ih, enter_releaded]

@[simp] theorem enterAll_poison (ls : List Nat) (v : LReg) : (v.enterAll a ls).poison = (v.poison || ls.any fun l => !f32Finite (a l)) := by
  induction ls generalizing v with
  | nil => simp [LReg.enterAll]
  | cons l ls ih => rw [enterAll_cons, ih, enter_poison, List.any_cons, Bool.or_assoc]

/-- Each lane takes its own value. -/
theorem getD_enterAll (k : Nat) {ls : List Nat} (hNodup : ls.Nodup) {v : LReg} (hm : keysRise v.lanes) :
    SMap.getD (v.enterAll a ls).lanes k 0 = if k ∈ ls ∧ f32Finite (a k) = true
      then wrap96 (SMap.getD v.lanes k 0 + (DyOp.toUnits (f32Val (a k)) (v.leading - 75)).1) else SMap.getD v.lanes k 0 := by
  induction ls generalizing v with
  | nil => rw [if_neg (by simp)]; rfl
  | cons l ls ih =>
    obtain ⟨hNew, hRest⟩ := List.nodup_cons.mp hNodup
    have hLead : (v.enter l (a l)).leading = v.leading := congrArg Prod.fst (enter_scale v l (a l))
    rw [enterAll_cons, ih hRest (rise_enter l (a l) hm), hLead]
    by_cases hk : k = l
    · subst hk
      rw [if_neg fun h => hNew h.1, getD_enter_same]
      simp
    · rw [getD_enter_ne l (a l) hk hm]
      simp [hk]

end

/-- The values enter a register of the chip. -/
def enterAllLong (cell r : Nat) (a : Nat → W32) (ls : List Nat) (s : State) : State := ls.foldl (fun s l => enterLong cell r l (a l) s) s

section
variable {delta : SMap Nat} {cell r : Nat} {a : Nat → W32}

@[simp] theorem lregOf_enterAllLong (ls : List Nat) (s : State) : lregOf (enterAllLong cell r a ls s) cell r = (lregOf s cell r).enterAll a ls := by
  induction ls generalizing s with
  | nil => rfl
  | cons l ls ih => rw [enterAll_cons, ← lregOf_enterLong, ← ih]; rfl

theorem releads_enterAllLong {ten : Nat} (ls : List Nat) {s : State} (h : (lregOf s cell r).tensor = ten) :
    releads ten (enterAllLong cell r a ls s) = releads ten s := by
  induction ls generalizing s with
  | nil => rfl
  | cons l ls ih =>
    rw [← releads_enterLong cell r l (a l) s h]
    refine ih ?_
    rw [lregOf_enterLong, ← h]
    exact congrArg (·.2.2) (enter_scale _ _ _)

/-- Where all values enter, the run makes that change alone. -/
theorem foldl_addLong_of_enters {lead : Int} {n ten : Nat} {ls : List Nat}
    (hBelow : ∀ l ∈ ls, f32Finite (a l) = true → belowLimit lead (p2 n) (f32Val (a l)) = true) {x : VRun} (h : x.touched r)
    (hScale : (lregOf x.s cell r).scale = (lead, n, ten)) :
    ls.foldl (fun x l => addLong delta cell r l (a l) x) x = x.on (enterAllLong cell r a ls) := by
  induction ls generalizing x with
  | nil => rfl
  | cons l ls ih =>
    obtain ⟨hLead, hN, -⟩ := Prod.ext_iff.mp hScale |>.imp id Prod.ext_iff.mp
    have hEnters : addLong delta cell r l (a l) x = x.on (enterLong cell r l (a l)) :=
      addLong_of_enters h fun hFinite => by
        rw [show (lregOf x.s cell r).leading = lead from hLead, show (lregOf x.s cell r).logN = n from hN]
        exact hBelow l List.mem_cons_self hFinite
    rw [List.foldl_cons, hEnters, ih (fun k hk => hBelow k (List.mem_cons_of_mem l hk)) (touched_on _ h)
      (by rw [VRun.on_s, lregOf_enterLong, enter_scale, hScale])]
    rfl

/-- A first value touches the register for all of them. -/
theorem foldl_addLong_touchLong {ls : List Nat} (hls : ls ≠ []) (x : VRun) :
    ls.foldl (fun x l => addLong delta cell r l (a l) x) (touchLong delta cell r x) = ls.foldl (fun x l => addLong delta cell r l (a l) x) x := by
  obtain ⟨l, rest, rfl⟩ := List.exists_cons_of_ne_nil hls
  rw [List.foldl_cons, addLong_touchLong, List.foldl_cons]

end

/-! ### A run whose values ask for a raise -/

/-- A run that has touched a register at the leading `lead`, and whose values so far ask for the leading `best` of it. -/
structure Climbs (cell r : Nat) (lead : Int) (n ten : Nat) (best : Int) (x : VRun) : Prop where
  ok : x.ok = true
  adj : SMap.get? x.adj r = some lead
  scale : (lregOf x.s cell r).scale = (lead, n, ten)
  le : lead ≤ best
  need : x.need = if best = lead then [] else [(r, ((best - lead).toNat, ten, best))]

section
variable {delta : SMap Nat} {cell r n ten : Nat} {lead best : Int} {x : VRun}

theorem Climbs.touched (h : Climbs cell r lead n ten best x) : x.touched r := by rw [VRun.touched, h.adj]; rfl

/-- A change that leaves the register's scale leaves what the run asks for. -/
theorem Climbs.on (h : Climbs cell r lead n ten best x) {g : State → State} (hg : (lregOf (g x.s) cell r).scale = (lregOf x.s cell r).scale) :
    Climbs cell r lead n ten best (x.on g) :=
  { h with scale := hg.trans h.scale }

/-- A value raises what the run asks for to the leading that it needs itself. -/
theorem Climbs.addLong (h : Climbs cell r lead n ten best x) (hLow : -128 ≤ lead) (l : Nat) (w : W32) :
    Climbs cell r lead n ten (max best (leadFor lead (p2 n) w)) (addLong delta cell r l w x) := by
  have hLead : (lregOf x.s cell r).leading = lead := congrArg (·.1) h.scale
  have hN : (lregOf x.s cell r).logN = n := congrArg (·.2.1) h.scale
  have hTen : (lregOf x.s cell r).tensor = ten := congrArg (·.2.2) h.scale
  have hLe := h.le
  have hStay : leadFor lead (p2 n) w = lead → max best (leadFor lead (p2 n) w) = best := fun he => by omega
  by_cases hEnters : f32Finite w = true → belowLimit lead (p2 n) (f32Val w) = true
  · rw [hStay (if_neg (by simp; tauto)), addLong_of_enters h.touched (by rwa [hLead, hN])]
    exact h.on (by rw [lregOf_enterLong, enter_scale])
  obtain ⟨hFinite, hNot⟩ := Classical.not_imp.mp hEnters
  have hBeyond : belowLimit lead (p2 n) (f32Val w) = false := by simpa using hNot
  have hFor : leadFor lead (p2 n) w = max lead (min 127 (lead + leastDelta lead (p2 n) (f32Val w))) := if_pos (by simp [hFinite, hBeyond])
  by_cases hTop : 127 ≤ lead
  · rw [hStay (by omega), addLong_of_top h.touched hFinite (by rwa [hLead, hN]) (by rwa [hLead])]
    exact h.on (by rw [lregOf_setLreg_same]; rfl)
  · have hDelta := one_le_leastDelta lead (p2 n) (f32Val w)
    have hAdj : SMap.getD x.adj r lead = lead := by rw [SMap.getD, h.adj]
    rw [addLong_of_climb h.touched hFinite (by rwa [hLead, hN]) (by rwa [hLead]) (by omega), hLead, hN, hTen, hAdj]
    refine { ok := h.ok, adj := h.adj, scale := h.scale, le := by omega, need := ?_ }
    dsimp only
    rw [h.need]
    by_cases hFirst : best = lead
    · rw [if_pos hFirst, if_neg (by omega), show max best (leadFor lead (p2 n) w) = leadFor lead (p2 n) w by omega]
      have hWorse : worseNeed (0, 0, 0) ((leadFor lead (p2 n) w - lead).toNat, ten, leadFor lead (p2 n) w)
          = ((leadFor lead (p2 n) w - lead).toNat, ten, leadFor lead (p2 n) w) := if_pos (by dsimp only; omega)
      rw [SMap.modify, SMap.getD, SMap.get?, hWorse, SMap.put]
    · rw [if_neg hFirst, if_neg (by omega)]
      have hWorse : worseNeed ((best - lead).toNat, ten, best) ((leadFor lead (p2 n) w - lead).toNat, ten, leadFor lead (p2 n) w)
          = ((max best (leadFor lead (p2 n) w) - lead).toNat, ten, max best (leadFor lead (p2 n) w)) := by
        unfold worseNeed
        dsimp only
        split
        · rw [max_eq_right (by omega)]
        · rw [max_eq_left (by omega)]
      rw [SMap.modify, SMap.getD, SMap.get?, if_pos rfl, hWorse, SMap.put, if_pos rfl]

end

end Sys2Proof.Machine
end

section
/-! PROOFS. The obligation on AZERO, AFOLD, AROUND, AADD and ASCAN (R94, R151, R159, R160, R162). -/

namespace Sys2Proof.Machine
open Sys2Proof

/-! ### The first use of a register (R162) -/

section
variable {delta : SMap Nat} {cell r : Nat} {x : VRun}

@[simp] theorem touchLong_ok (delta : SMap Nat) (cell r : Nat) (x : VRun) : (touchLong delta cell r x).ok = x.ok := by
  unfold touchLong
  dsimp only
  split_ifs <;> rfl

@[simp] theorem touchLong_need (delta : SMap Nat) (cell r : Nat) (x : VRun) : (touchLong delta cell r x).need = x.need := by
  unfold touchLong
  dsimp only
  split_ifs <;> rfl

/-- Without a raise the first use changes no state. -/
theorem touchLong_s_of_zero (h : SMap.getD delta r 0 = 0) : (touchLong delta cell r x).s = x.s := by
  unfold touchLong
  dsimp only
  rw [if_pos h]
  split <;> rfl

@[simp] theorem touchLong_nil_s (cell r : Nat) (x : VRun) : (touchLong [] cell r x).s = x.s := touchLong_s_of_zero rfl

/-- With one, the register is raised and marked. -/
theorem touchLong_s_of_raise (hFresh : SMap.get? x.adj r = none) (h : SMap.getD delta r 0 ≠ 0) {v : LReg} (hv : lregOf x.s cell r = v) {lead : Int}
    (hLead : clampI (-128) 127 (v.leading + SMap.getD delta r 0) = lead) :
    (touchLong delta cell r x).s = statBelow v.tensor (v.raise lead).2 (setLreg cell r { (v.raise lead).1 with releaded := true } x.s) := by
  subst hv hLead
  unfold touchLong
  rw [if_neg (by simp [hFresh])]
  exact congrArg VRun.s (if_neg h)

/-- The leading that a register starts a repeat from. -/
def startLead (delta : SMap Nat) (r : Nat) (lead : Int) : Int := max lead (clampI (-128) 127 (lead + SMap.getD delta r 0))

/-- From its first use on a run asks for nothing more than the leading that the register then has. -/
theorem climbs_touchLong {n ten : Nat} {lead : Int} (hLow : -128 ≤ lead) (hOk : x.ok = true) (hNeed : x.need = []) (hFresh : SMap.get? x.adj r = none)
    (hScale : (lregOf x.s cell r).scale = (lead, n, ten)) :
    Climbs cell r (startLead delta r lead) n ten (startLead delta r lead) (touchLong delta cell r x) := by
  have hLead : (lregOf x.s cell r).leading = lead := congrArg (·.1) hScale
  have hAdj : (touchLong delta cell r x).adj
      = SMap.put x.adj r ((lregOf x.s cell r).raise (clampI (-128) 127 ((lregOf x.s cell r).leading + SMap.getD delta r 0))).1.leading := by
    unfold touchLong
    rw [if_neg (by simp [hFresh])]
    dsimp only
    split <;> rfl
  refine { ok := by simpa using hOk, adj := ?_, scale := ?_, le := le_refl _, need := by simpa using hNeed }
  · rw [hAdj, get?_put_same, raise_leading, hLead, startLead]
  · by_cases hZero : SMap.getD delta r 0 = 0
    · have hStart : startLead delta r lead = lead := by
        rw [startLead, hZero, clampI]
        split_ifs <;> omega
      rw [touchLong_s_of_zero hZero, hScale, hStart]
    · rw [touchLong_s_of_raise hFresh hZero rfl rfl, lregOf_statBelow, lregOf_setLreg_same]
      have hN : (lregOf x.s cell r).logN = n := congrArg (·.2.1) hScale
      have hTen : (lregOf x.s cell r).tensor = ten := congrArg (·.2.2) hScale
      simp only [LReg.scale, raise_leading, raise_logN, raise_tensor, hLead, hN, hTen, startLead]

end

/-! ### One raise (R162) -/

/-- Where the first run asks for one raise and the next for none, the repeats end there. -/
theorem repeatsOf_once {run : SMap Nat → VRun} {r N ten : Nat} {lead : Int} (hOk : (run []).ok = true) (hFirst : (run []).need = [(r, (N, ten, lead))])
    (hSecond : (run [(r, N)]).need = []) (n : Nat) : repeatsOf run (n + 1) [] [] = ([(r, N)], [(ten, lead)]) := by
  have hDelta : SMap.modify ([] : SMap Nat) r 0 (fun o => o + N) = [(r, N)] := by
    rw [SMap.modify, SMap.getD, SMap.get?, SMap.put, Nat.zero_add]
  rw [repeatsOf, if_neg (by simp [hOk, hFirst]), hFirst]
  simp only [List.foldl_cons, List.foldl_nil, List.map_cons, List.map_nil, List.nil_append, hDelta]
  exact repeatsOf_of_done (.inl hSecond) n _

section
variable {cell r n ten : Nat} {lead best : Int} {x : VRun}

/-- Values one after another ask for the highest leading that one of them asks for. -/
theorem Climbs.foldl {step : VRun → Nat → VRun} {g : Nat → Int}
    (hStep : ∀ x best l, Climbs cell r lead n ten best x → Climbs cell r lead n ten (max best (g l)) (step x l)) (ls : List Nat)
    (h : Climbs cell r lead n ten best x) : Climbs cell r lead n ten (ls.foldl (fun b l => max b (g l)) best) (ls.foldl step x) := by
  induction ls generalizing x best with
  | nil => exact h
  | cons l ls ih => exact ih (hStep x best l h)

theorem foldl_max_of_reached {g : Nat → Int} {L : Int} {ls : List Nat} (hLe : ∀ l ∈ ls, g l ≤ L) (hBest : best ≤ L)
    (hReached : best = L ∨ ∃ l ∈ ls, g l = L) : ls.foldl (fun b l => max b (g l)) best = L := by
  induction ls generalizing best with
  | nil => simpa using hReached
  | cons l ls ih =>
    have hHere := hLe l List.mem_cons_self
    rw [List.foldl_cons]
    refine ih (fun k hk => hLe k (List.mem_cons_of_mem l hk)) (by omega) ?_
    rcases hReached with h | ⟨k, hk, h⟩
    · exact .inl (by omega)
    · rcases List.mem_cons.mp hk with rfl | hk
      · exact .inl (by omega)
      · exact .inr ⟨k, hk, h⟩

/-- A run that asks for a leading above its own asks for one raise. -/
theorem Climbs.need_of_lt (h : Climbs cell r lead n ten best x) (hLt : lead < best) : x.need = [(r, ((best - lead).toNat, ten, best))] := by
  rw [h.need, if_neg (by omega)]

end

/-! ### Registers whose lanes are known, behind an update of long-word registers -/

section
variable {s t : State} {cell : Nat} {f : VFields}

theorem lanesHold_of_regs {w : Nat} {v : BitVec 4096} {res : Nat → Nat} (hMasks : mregOf t cell f.mask = mregOf s cell f.mask)
    (hOld : vregOf t cell f.vd = vregOf s cell f.vd) (h : lanesHold t cell f w v res) : lanesHold s cell f w v res := by
  intro l hl
  rw [h l hl, laneOn, hMasks, hOld, ← laneOn]

end

/-! ### One instruction that raises a register once -/

/-- An instruction's step, where it is not reserved. The last premise holds by `rfl` for each opcode. -/
theorem vStep_of_legal {op : VOp} {delta : SMap Nat} {cell : Nat} {f : VFields} {x y : VRun} (hWidth : f.w ∈ op.widths) (hMask : op.toMask = false)
    (hOk : x.ok = true) (hStep : vStep delta cell x { op := op, f := f } = if (!x.ok || !VInstr.legal { op := op, f := f }) = true then x.stop else y) :
    vStep delta cell x { op := op, f := f } = y := by
  rw [hStep, if_neg (by simp [hOk, legal_of_widths hWidth (fun h => absurd h (by simp [hMask]))])]

/-- The values of a vector register, under the mask of an instruction, put a long-word register at the leading `L` and no lower one. -/
structure RaisesTo (s : State) (cell : Nat) (f : VFields) (v : LReg) (L : Int) : Prop where
  low : -128 ≤ v.leading
  lt : v.leading < L
  top : L ≤ 127
  below : ∀ l, l < 128 → laneOn s cell f l = true →
    f32Finite (laneF 0 (vregOf s cell f.va) l) = true ∧ belowLimit L (p2 v.logN) (f32Val (laneF 0 (vregOf s cell f.va) l)) = true
  beyond : ∃ l, l < 128 ∧ laneOn s cell f l = true ∧ belowLimit (L - 1) (p2 v.logN) (f32Val (laneF 0 (vregOf s cell f.va) l)) = false

namespace RaisesTo
variable {s : State} {cell r : Nat} {f : VFields} {v : LReg} {L : Int} (h : RaisesTo s cell f v L)
include h

theorem climbs_start (hv : lregOf s cell r = v) : Climbs cell r v.leading v.logN v.tensor v.leading (touchLong [] cell r (VRun.start s)) := by
  have hStart : startLead [] r v.leading = v.leading := by
    have := h.low
    have hDelta : SMap.getD ([] : SMap Nat) r 0 = 0 := rfl
    rw [startLead, hDelta, clampI]
    split_ifs <;> omega
  have hClimbs := climbs_touchLong (delta := []) (x := VRun.start s) h.low rfl rfl rfl (congrArg LReg.scale hv)
  rwa [hStart] at hClimbs

/-- The repeat's raise. -/
theorem touchLong_s (hv : lregOf s cell r = v) : (touchLong [(r, (L - v.leading).toNat)] cell r (VRun.start s)).s
    = statBelow v.tensor (v.raise L).2 (setLreg cell r { (v.raise L).1 with releaded := true } s) := by
  have hLow := h.low
  have hLt := h.lt
  have hTop := h.top
  have hDelta : SMap.getD [(r, (L - v.leading).toNat)] r 0 = (L - v.leading).toNat := by rw [SMap.getD, SMap.get?, if_pos rfl]
  refine touchLong_s_of_raise rfl (by rw [hDelta]; omega) hv ?_
  rw [hDelta, clampI]
  split_ifs <;> omega

theorem lregOf_touchLong (hv : lregOf s cell r = v) :
    lregOf (touchLong [(r, (L - v.leading).toNat)] cell r (VRun.start s)).s cell r = { (v.raise L).1 with releaded := true } := by
  rw [h.touchLong_s hv, lregOf_statBelow, lregOf_setLreg_same]

theorem releads_touchLong (hv : lregOf s cell r = v) :
    releads v.tensor (touchLong [(r, (L - v.leading).toNat)] cell r (VRun.start s)).s = releads v.tensor s := by
  rw [h.touchLong_s hv, releads_statBelow, releads_setLreg]

/-- The lanes ask for `L` together. -/
theorem foldl_leadFor {ls : List Nat} (hAll : ∀ l, l < 128 → laneOn s cell f l = true → l ∈ ls) (hRange : ∀ l ∈ ls, l < 128) :
    ls.foldl (fun b l => max b (if laneOn s cell f l then leadFor v.leading (p2 v.logN) (laneF 0 (vregOf s cell f.va) l) else v.leading)) v.leading
      = L := by
  have hUpper : ∀ l, l < 128 → laneOn s cell f l = true → leadFor v.leading (p2 v.logN) (laneF 0 (vregOf s cell f.va) l) ≤ L := fun l hl hOn =>
    leadFor_le (p2_ne_zero _) (le_of_lt h.lt) (h.below l hl hOn).2
  obtain ⟨l, hl, hOn, hBeyond⟩ := h.beyond
  refine foldl_max_of_reached (fun k hk => ?_) (le_of_lt h.lt) (.inr ⟨l, hAll l hl hOn, ?_⟩)
  · split
    next hOn => exact hUpper k (hRange k hk) hOn
    next => exact le_of_lt h.lt
  · rw [if_pos hOn]
    exact le_antisymm (hUpper l hl hOn) (le_leadFor_of_beyond (p2_ne_zero _) (h.below l hl hOn).1 h.lt h.top hBeyond)

end RaisesTo

/-! ### AADD (R159) -/

theorem getD_lanesF_zero (v : BitVec 4096) {l : Nat} (hl : l < 128) : (lanesF 0 v).getD l 0 = laneF 0 v l := by
  rw [List.getD_eq_getElem?_getD, getElem?_lanesF (by decide) hl, Option.getD_some]

/-- The lanes that a mask lets act. -/
def activeLanes (s : State) (cell : Nat) (f : VFields) : List Nat := (List.range 128).filter (laneOn s cell f)

/-- Under zeroing AADD first clears the inactive lanes of its register (R151). -/
def clearLanes (s₀ : State) (cell : Nat) (f : VFields) (s : State) : State :=
  if f.zeroing then setLreg cell f.vd { lregOf s cell f.vd with
    lanes := (lregOf s cell f.vd).lanes.filter (fun p => ((List.range 128).map (laneOn s₀ cell f)).getD p.1 true) } s
  else s

section
variable {s s₀ : State} {cell : Nat} {f : VFields}

theorem mem_activeLanes {l : Nat} : l ∈ activeLanes s cell f ↔ l < 128 ∧ laneOn s cell f l = true := by
  rw [activeLanes, List.mem_filter, List.mem_range]

theorem nodup_activeLanes : (activeLanes s cell f).Nodup := List.Nodup.filter _ List.nodup_range

theorem clearLanes_scale : (lregOf (clearLanes s₀ cell f s) cell f.vd).scale = (lregOf s cell f.vd).scale := by
  unfold clearLanes
  split
  · rw [lregOf_setLreg_same]; rfl
  · rfl

theorem clearLanes_poison : (lregOf (clearLanes s₀ cell f s) cell f.vd).poison = (lregOf s cell f.vd).poison := by
  unfold clearLanes
  split
  · rw [lregOf_setLreg_same]
  · rfl

theorem clearLanes_releaded : (lregOf (clearLanes s₀ cell f s) cell f.vd).releaded = (lregOf s cell f.vd).releaded := by
  unfold clearLanes
  split
  · rw [lregOf_setLreg_same]
  · rfl

theorem rise_clearLanes (hm : keysRise (lregOf s cell f.vd).lanes) : keysRise (lregOf (clearLanes s₀ cell f s) cell f.vd).lanes := by
  unfold clearLanes
  split
  · rw [lregOf_setLreg_same]
    exact rise_filter hm
  · exact hm

theorem getD_clearLanes (hm : keysRise (lregOf s cell f.vd).lanes) {l : Nat} (hl : l < 128) :
    SMap.getD (lregOf (clearLanes s₀ cell f s) cell f.vd).lanes l 0
      = if laneOn s₀ cell f l = false ∧ f.zeroing = true then 0 else SMap.getD (lregOf s cell f.vd).lanes l 0 := by
  unfold clearLanes
  by_cases hZeroing : f.zeroing = true
  · rw [if_pos hZeroing, lregOf_setLreg_same]
    dsimp only
    rw [getD_filter_key (fun k => ((List.range 128).map (laneOn s₀ cell f)).getD k true) l 0 hm, getD_map_range _ _ hl]
    cases laneOn s₀ cell f l <;> simp [hZeroing]
  · rw [if_neg hZeroing, if_neg fun h => hZeroing h.2]

theorem releads_clearLanes (ten : Nat) : releads ten (clearLanes s₀ cell f s) = releads ten s := by
  unfold clearLanes
  split <;> rfl

/-- What AADD makes of a state whose register holds the repeat's raise; the mask and the values are those of `s₀`. -/
def aaddState (s₀ : State) (cell : Nat) (f : VFields) (s : State) : State :=
  enterAllLong cell f.vd (laneF 0 (vregOf s₀ cell f.va)) (activeLanes s₀ cell f) (clearLanes s₀ cell f s)

theorem lregOf_aaddState : lregOf (aaddState s₀ cell f s) cell f.vd
    = (lregOf (clearLanes s₀ cell f s) cell f.vd).enterAll (laneF 0 (vregOf s₀ cell f.va)) (activeLanes s₀ cell f) := lregOf_enterAllLong _ _

theorem aaddState_scale : (lregOf (aaddState s₀ cell f s) cell f.vd).scale = (lregOf s cell f.vd).scale := by
  rw [lregOf_aaddState, enterAll_scale, clearLanes_scale]

theorem getD_aaddState (hm : keysRise (lregOf s cell f.vd).lanes) {l : Nat} (hl : l < 128) :
    SMap.getD (lregOf (aaddState s₀ cell f s) cell f.vd).lanes l 0 =
      if laneOn s₀ cell f l then
        (if f32Finite (laneF 0 (vregOf s₀ cell f.va) l) then wrap96 (SMap.getD (lregOf s cell f.vd).lanes l 0
            + (DyOp.toUnits (f32Val (laneF 0 (vregOf s₀ cell f.va) l)) ((lregOf s cell f.vd).leading - 75)).1)
          else SMap.getD (lregOf s cell f.vd).lanes l 0)
      else if f.zeroing then 0 else SMap.getD (lregOf s cell f.vd).lanes l 0 := by
  have hLead : (lregOf (clearLanes s₀ cell f s) cell f.vd).leading = (lregOf s cell f.vd).leading := congrArg (·.1) clearLanes_scale
  rw [lregOf_aaddState, getD_enterAll l nodup_activeLanes (rise_clearLanes hm), getD_clearLanes hm hl, hLead]
  cases hOn : laneOn s₀ cell f l <;> simp [mem_activeLanes, hl, hOn]

theorem aaddState_poison : (lregOf (aaddState s₀ cell f s) cell f.vd).poison = true ↔ (lregOf s cell f.vd).poison = true
    ∨ ∃ l, l < 128 ∧ laneOn s₀ cell f l = true ∧ f32Finite (laneF 0 (vregOf s₀ cell f.va) l) = false := by
  rw [lregOf_aaddState, enterAll_poison, clearLanes_poison, Bool.or_eq_true, List.any_eq_true]
  simp only [mem_activeLanes, Bool.not_eq_true', and_assoc]

theorem releads_aaddState {ten : Nat} (h : (lregOf s cell f.vd).tensor = ten) : releads ten (aaddState s₀ cell f s) = releads ten s := by
  rw [aaddState, releads_enterAllLong _ (h ▸ congrArg (·.2.2) clearLanes_scale), releads_clearLanes]

/-- The values of AADD enter a run that has used the register and cleared it. -/
theorem vAadd_eq (delta : SMap Nat) (x : VRun) (hSome : f.zeroing = true ∨ activeLanes x.s cell f ≠ []) : vAadd delta cell f x
    = (activeLanes x.s cell f).foldl (fun y l => addLong delta cell f.vd l (laneF 0 (vregOf x.s cell f.va) l) y)
        ((touchLong delta cell f.vd x).on (clearLanes x.s cell f)) := by
  have hLanes : ∀ y : VRun, (List.range 128).foldl (fun x' l => if ((List.range 128).map (laneOn x.s cell f)).getD l false = true
        then addLong delta cell f.vd l ((lanesF 0 (vregOf x.s cell f.va)).getD l 0) x' else x') y
      = (activeLanes x.s cell f).foldl (fun y l => addLong delta cell f.vd l (laneF 0 (vregOf x.s cell f.va) l) y) y := by
    intro y
    rw [activeLanes, List.foldl_filter]
    refine List.foldl_ext _ _ _ fun y' l hl => ?_
    have hl := List.mem_range.mp hl
    rw [getD_map_range _ _ hl, getD_lanesF_zero _ hl]
  unfold vAadd
  dsimp only
  rw [hLanes]
  by_cases hZeroing : f.zeroing = true
  · rw [if_pos hZeroing]
    congr 1
    simp only [VRun.on, clearLanes, if_pos hZeroing]
  · have hOn : ∀ y : VRun, y.on (clearLanes x.s cell f) = y := fun y => by simp [VRun.on, clearLanes, hZeroing]
    rw [if_neg hZeroing, hOn, foldl_addLong_touchLong (hSome.resolve_left hZeroing)]

/-- Where they all enter, AADD is that change of the state. -/
theorem vAadd_of_enters (delta : SMap Nat) {x : VRun} (hSome : f.zeroing = true ∨ activeLanes x.s cell f ≠ [])
    (hBelow : ∀ l, l < 128 → laneOn x.s cell f l = true → f32Finite (laneF 0 (vregOf x.s cell f.va) l) = true →
      belowLimit (lregOf (touchLong delta cell f.vd x).s cell f.vd).leading (p2 (lregOf (touchLong delta cell f.vd x).s cell f.vd).logN)
        (f32Val (laneF 0 (vregOf x.s cell f.va) l)) = true) :
    vAadd delta cell f x = (touchLong delta cell f.vd x).on (aaddState x.s cell f) := by
  rw [vAadd_eq delta x hSome, foldl_addLong_of_enters (fun l hl => ?_) (touched_on _ (touched_touchLong delta cell f.vd x)) clearLanes_scale]
  · rfl
  · obtain ⟨hl, hOn⟩ := mem_activeLanes.mp hl
    exact hBelow l hl hOn

/-- With nothing to do AADD leaves the run. -/
theorem vAadd_of_none (delta : SMap Nat) {x : VRun} (hZeroing : f.zeroing = false) (hNone : activeLanes x.s cell f = []) :
    vAadd delta cell f x = x ∧ ∀ s, aaddState x.s cell f s = s := by
  refine ⟨?_, fun s => ?_⟩
  · unfold vAadd
    dsimp only
    rw [if_neg (by simp [hZeroing])]
    refine List.foldlRecOn (motive := fun y => y = x) _ _ rfl fun y hy l hl => ?_
    have hOff : ¬ laneOn x.s cell f l = true := fun hOn => by
      simpa [hNone] using mem_activeLanes.mpr ⟨List.mem_range.mp hl, hOn⟩
    rw [getD_map_range _ _ (List.mem_range.mp hl), if_neg hOff, hy]
  · rw [aaddState, hNone, clearLanes, if_neg (by simp [hZeroing])]
    rfl

/-- AADD without a raise: a run that asks for nothing, and its state. -/
theorem vAadd_start (hBelow : ∀ l, l < 128 → laneOn s cell f l = true → f32Finite (laneF 0 (vregOf s cell f.va) l) = true →
      belowLimit (lregOf s cell f.vd).leading (p2 (lregOf s cell f.vd).logN) (f32Val (laneF 0 (vregOf s cell f.va) l)) = true) :
    (vAadd [] cell f (VRun.start s)).ok = true ∧ (vAadd [] cell f (VRun.start s)).need = []
      ∧ (vAadd [] cell f (VRun.start s)).s = aaddState s cell f s := by
  by_cases hSome : f.zeroing = true ∨ activeLanes s cell f ≠ []
  · rw [vAadd_of_enters (x := VRun.start s) [] hSome (by simpa using hBelow)]
    exact ⟨touchLong_ok _ _ _ _, touchLong_need _ _ _ _, by rw [VRun.on_s, touchLong_nil_s]⟩
  · simp only [not_or, Bool.not_eq_true, not_not] at hSome
    obtain ⟨hRun, hState⟩ := vAadd_of_none (x := VRun.start s) [] hSome.1 hSome.2
    rw [hRun]
    exact ⟨rfl, rfl, (hState s).symm⟩

theorem vStep_aadd (delta : SMap Nat) (hw : f.w = 0) (s : State) :
    vStep delta cell (VRun.start s) { op := .aadd, f := f } = vAadd delta cell f (VRun.start s) :=
  vStep_of_legal (by simp [VOp.widths, hw]) rfl rfl rfl

/-- AADD under R162: the first run asks for the leading `L`, and the repeat needs no other. -/
theorem repeatsOf_vAadd {L : Int} (h : RaisesTo s cell f (lregOf s cell f.vd) L) :
    repeatsOf (fun delta => vAadd delta cell f (VRun.start s)) 1099 [] []
        = ([(f.vd, (L - (lregOf s cell f.vd).leading).toNat)], [((lregOf s cell f.vd).tensor, L)])
      ∧ vAadd [(f.vd, (L - (lregOf s cell f.vd).leading).toNat)] cell f (VRun.start s)
        = (touchLong [(f.vd, (L - (lregOf s cell f.vd).leading).toNat)] cell f.vd (VRun.start s)).on (aaddState s cell f) := by
  obtain ⟨l, hl, hOn, -⟩ := h.beyond
  have hSome : f.zeroing = true ∨ activeLanes s cell f ≠ [] := .inr (List.ne_nil_of_mem (mem_activeLanes.mpr ⟨hl, hOn⟩))
  have hFirst : Climbs cell f.vd (lregOf s cell f.vd).leading (lregOf s cell f.vd).logN (lregOf s cell f.vd).tensor L (vAadd [] cell f (VRun.start s)) := by
    have hLanes := h.foldl_leadFor (ls := activeLanes s cell f) (fun l hl hOn => mem_activeLanes.mpr ⟨hl, hOn⟩)
      (fun l hl => (mem_activeLanes.mp hl).1)
    rw [List.foldl_ext _ (fun b l => max b (leadFor _ (p2 _) (laneF 0 (vregOf s cell f.va) l))) _
      fun b l hl => by rw [if_pos (mem_activeLanes.mp hl).2]] at hLanes
    rw [vAadd_eq (x := VRun.start s) [] hSome, ← hLanes]
    exact Climbs.foldl (fun y best l hy => hy.addLong h.low l _) _ ((h.climbs_start rfl).on clearLanes_scale)
  have hSecond := vAadd_of_enters (x := VRun.start s) [(f.vd, (L - (lregOf s cell f.vd).leading).toNat)] hSome (by
    intro l hl hOn _
    rw [h.lregOf_touchLong rfl, raise_leading, raise_logN, max_eq_right (le_of_lt h.lt)]
    exact (h.below l hl hOn).2)
  exact ⟨repeatsOf_once hFirst.ok (hFirst.need_of_lt h.lt) (by rw [hSecond]; exact touchLong_need _ _ _ _) 1098, hSecond⟩

end

end Sys2Proof.Machine
end

section
/-! PROOFS. ASCAN, and the obligation on long-word arithmetic (R94, R151, R159, R160, R162). -/

namespace Sys2Proof.Machine
open Sys2Proof

/-! ### ASCAN (R160) -/

/-- A segment start clears the running total. -/
def restartLong (cell r : Nat) (s : State) : State := setLreg cell r { lregOf s cell r with lanes := SMap.del (lregOf s cell r).lanes 0 } s

/-- Whether a segment starts at a lane. -/
def scanStarts (s : State) (cell : Nat) (f : VFields) (l : Nat) : Bool := f.vc != 0 && (mregOf s cell f.vc).getLsbD l

/-- One lane of ASCAN in a run: the mask, the segment starts and the values are those of `s`. -/
def scanRun (delta : SMap Nat) (s : State) (cell : Nat) (f : VFields) (x : VRun) (l : Nat) : VRun :=
  let y := if scanStarts s cell f l then x.on (restartLong cell f.vb) else x
  if laneOn s cell f l then addLong delta cell f.vb 0 (laneF 0 (vregOf s cell f.va) l) y else y

/-- What a lane of ASCAN gives. -/
def scanOut (cell : Nat) (f : VFields) (y : VRun) (l : Nat) : Nat :=
  if y.late f.vb then (lanesOf 0 (vregOf y.s cell f.vd)).getD l 0 else (roundLong (lregOf y.s cell f.vb) 0).toNat

/-- One lane of ASCAN in a state where its value enters. -/
def scanState (s₀ : State) (cell : Nat) (f : VFields) (l : Nat) (s : State) : State :=
  let t := if scanStarts s₀ cell f l then restartLong cell f.vb s else s
  if laneOn s₀ cell f l then enterLong cell f.vb 0 (laneF 0 (vregOf s₀ cell f.va) l) t else t

/-- The running total before lane `n`. -/
def totalBefore (lead : Int) (on seg : Nat → Bool) (x : Nat → W32) (carry : Int) : Nat → Int
  | 0 => carry
  | l + 1 => runningTotal lead on seg x carry l

theorem runningTotal_eq (lead : Int) (on seg : Nat → Bool) (x : Nat → W32) (carry : Int) (l : Nat) : runningTotal lead on seg x carry l
    = if on l then wrap96 ((if seg l then 0 else totalBefore lead on seg x carry l) + (DyOp.toUnits (f32Val (x l)) (lead - 75)).1)
      else if seg l then 0 else totalBefore lead on seg x carry l := by
  cases l <;> rfl

section
variable {s s₀ : State} {cell : Nat} {f : VFields}

theorem restartLong_scale (r : Nat) : (lregOf (restartLong cell r s) cell r).scale = (lregOf s cell r).scale := by
  rw [restartLong, lregOf_setLreg_same]
  rfl

theorem scanLane_eq (delta : SMap Nat) (x : VRun × List Nat) {l : Nat} (hl : l < 128) :
    scanLane delta cell f (lanesF 0 (vregOf s cell f.va)) ((List.range 128).map fun l => laneOn s cell f l) (segStarts s cell f) x l
      = (scanRun delta s cell f x.1 l, x.2 ++ [scanOut cell f (scanRun delta s cell f x.1 l) l]) := by
  unfold scanLane segStarts
  dsimp only
  rw [getD_map_range _ _ hl, getD_map_range _ _ hl, getD_lanesF_zero _ hl]
  rfl

/-- The lanes of ASCAN: the run behind them all, and what each gives. -/
def scanAll (delta : SMap Nat) (s : State) (cell : Nat) (f : VFields) (x : VRun) (n : Nat) : VRun × List Nat :=
  (List.range n).foldl (fun x l => (scanRun delta s cell f x.1 l, x.2 ++ [scanOut cell f (scanRun delta s cell f x.1 l) l])) (x, [])

theorem vAscan_eq (delta : SMap Nat) (x : VRun) : vAscan delta cell f x
    = (scanAll delta x.s cell f (touchLong delta cell f.vb x) 128).1.on
        (writeLanes cell f 0 (scanAll delta x.s cell f (touchLong delta cell f.vb x) 128).2) := by
  have hLanes : (List.range 128).foldl (scanLane delta cell f (lanesF 0 (vregOf x.s cell f.va))
        ((List.range 128).map fun l => laneOn x.s cell f l) (segStarts x.s cell f)) (touchLong delta cell f.vb x, [])
      = scanAll delta x.s cell f (touchLong delta cell f.vb x) 128 :=
    List.foldl_ext _ _ _ fun y l hl => scanLane_eq delta y (List.mem_range.mp hl)
  rw [← hLanes]
  rfl

theorem scanAll_fst (delta : SMap Nat) (x : VRun) (n : Nat) : (scanAll delta s cell f x n).1 = (List.range n).foldl (scanRun delta s cell f) x := by
  induction n with
  | zero => rfl
  | succ n ih => rw [scanAll, List.range_succ, List.foldl_append, List.foldl_append, ← ih]; rfl

theorem scanAll_succ (delta : SMap Nat) (x : VRun) (n : Nat) : scanAll delta s cell f x (n + 1)
    = (scanRun delta s cell f (scanAll delta s cell f x n).1 n,
        (scanAll delta s cell f x n).2 ++ [scanOut cell f (scanRun delta s cell f (scanAll delta s cell f x n).1 n) n]) := by
  rw [scanAll, List.range_succ, List.foldl_append]
  rfl

/-- A lane of ASCAN raises what the run asks for to the leading that its value needs. -/
theorem Climbs.scanRun {lead best : Int} {n ten : Nat} {x : VRun} (h : Climbs cell f.vb lead n ten best x) (hLow : -128 ≤ lead) (delta : SMap Nat)
    (l : Nat) : Climbs cell f.vb lead n ten
      (max best (if laneOn s cell f l then leadFor lead (p2 n) (laneF 0 (vregOf s cell f.va) l) else lead)) (scanRun delta s cell f x l) := by
  have hStart : Climbs cell f.vb lead n ten best (if scanStarts s cell f l then x.on (restartLong cell f.vb) else x) := by
    split
    · exact h.on (restartLong_scale _)
    · exact h
  unfold Machine.scanRun
  split
  · exact hStart.addLong hLow 0 _
  · rw [max_eq_left h.le]
    exact hStart

/-- Where its value enters, a lane of ASCAN is that change of the state. -/
theorem scanRun_of_enters {delta : SMap Nat} {x : VRun} {l : Nat} (h : x.touched f.vb)
    (hBelow : laneOn s cell f l = true → belowLimit (lregOf x.s cell f.vb).leading (p2 (lregOf x.s cell f.vb).logN)
      (f32Val (laneF 0 (vregOf s cell f.va) l)) = true) :
    scanRun delta s cell f x l = x.on (scanState s cell f l) := by
  have hStart : (if scanStarts s cell f l then x.on (restartLong cell f.vb) else x)
      = x.on (fun t => if scanStarts s cell f l then restartLong cell f.vb t else t) := by split <;> rfl
  have hScale : (lregOf (if scanStarts s cell f l then restartLong cell f.vb x.s else x.s) cell f.vb).scale = (lregOf x.s cell f.vb).scale := by
    split
    · exact restartLong_scale _
    · rfl
  unfold scanRun scanState
  dsimp only
  rw [hStart]
  split
  next hOn =>
    rw [addLong_of_enters (touched_on _ h)]
    · rfl
    · intro _
      have hLead := congrArg (·.1) hScale
      have hN := congrArg (·.2.1) hScale
      dsimp only [LReg.scale] at hLead hN
      rw [VRun.on_s, hLead, hN]
      exact hBelow hOn
  · rfl

/-- A run of ASCAN from the state `t` behind its first `n` lanes, all of whose values entered. -/
structure ScanAt (s : State) (cell : Nat) (f : VFields) (t : State) (n : Nat) (y : VRun × List Nat) : Prop where
  ok : y.1.ok = true
  need : y.1.need = []
  touched : y.1.touched f.vb
  scale : (lregOf y.1.s cell f.vb).scale = (lregOf t cell f.vb).scale
  poison : (lregOf y.1.s cell f.vb).poison = (lregOf t cell f.vb).poison
  releaded : (lregOf y.1.s cell f.vb).releaded = (lregOf t cell f.vb).releaded
  word : SMap.getD (lregOf y.1.s cell f.vb).lanes 0 0 = totalBefore (lregOf t cell f.vb).leading (laneOn s cell f) (scanStarts s cell f)
    (laneF 0 (vregOf s cell f.va)) (SMap.getD (lregOf t cell f.vb).lanes 0 0) n
  out : y.2 = (List.range n).map (fun l => (if (lregOf t cell f.vb).poison then f32NaN else rneF32Pos (longDy (lregOf t cell f.vb).leading
    (runningTotal (lregOf t cell f.vb).leading (laneOn s cell f) (scanStarts s cell f) (laneF 0 (vregOf s cell f.va))
      (SMap.getD (lregOf t cell f.vb).lanes 0 0) l))).toNat)
  masks : ∀ m, mregOf y.1.s cell m = mregOf t cell m
  regs : ∀ r, vregOf y.1.s cell r = vregOf t cell r
  counts : releads (lregOf t cell f.vb).tensor y.1.s = releads (lregOf t cell f.vb).tensor t

/-- A lane's total, in the register behind it. -/
theorem word_scanState (l : Nat) (t : State) (hFinite : laneOn s cell f l = true → f32Finite (laneF 0 (vregOf s cell f.va) l) = true) :
    SMap.getD (lregOf (scanState s cell f l t) cell f.vb).lanes 0 0
      = if laneOn s cell f l then wrap96 ((if scanStarts s cell f l then 0 else SMap.getD (lregOf t cell f.vb).lanes 0 0)
          + (DyOp.toUnits (f32Val (laneF 0 (vregOf s cell f.va) l)) ((lregOf t cell f.vb).leading - 75)).1)
        else if scanStarts s cell f l then 0 else SMap.getD (lregOf t cell f.vb).lanes 0 0 := by
  have hDel : SMap.getD (SMap.del (lregOf t cell f.vb).lanes 0) 0 0 = 0 := by rw [SMap.getD, get?_del_same]
  unfold scanState
  dsimp only
  split
  next hOn =>
    rw [lregOf_enterLong, getD_enter_same, if_pos (hFinite hOn)]
    split
    · rw [restartLong, lregOf_setLreg_same, hDel]
    · rfl
  next =>
    split
    · rw [restartLong, lregOf_setLreg_same, hDel]
    · rfl

theorem scanState_scale (l : Nat) (t : State) : (lregOf (scanState s cell f l t) cell f.vb).scale = (lregOf t cell f.vb).scale := by
  unfold scanState
  dsimp only
  split_ifs <;> simp only [lregOf_enterLong, enter_scale, restartLong_scale]

theorem scanState_poison (l : Nat) (t : State) (hFinite : laneOn s cell f l = true → f32Finite (laneF 0 (vregOf s cell f.va) l) = true) :
    (lregOf (scanState s cell f l t) cell f.vb).poison = (lregOf t cell f.vb).poison := by
  unfold scanState
  dsimp only
  split_ifs <;> simp [restartLong, *]

theorem scanState_releaded (l : Nat) (t : State) : (lregOf (scanState s cell f l t) cell f.vb).releaded = (lregOf t cell f.vb).releaded := by
  unfold scanState
  dsimp only
  split_ifs <;> simp [restartLong]

theorem mregOf_scanState (l : Nat) (t : State) (m : Nat) : mregOf (scanState s cell f l t) cell m = mregOf t cell m := by
  unfold scanState
  dsimp only
  split_ifs <;> simp [restartLong]

theorem vregOf_scanState (l : Nat) (t : State) (r : Nat) : vregOf (scanState s cell f l t) cell r = vregOf t cell r := by
  unfold scanState
  dsimp only
  split_ifs <;> simp [restartLong]

theorem releads_scanState (l : Nat) (t : State) :
    releads (lregOf t cell f.vb).tensor (scanState s cell f l t) = releads (lregOf t cell f.vb).tensor t := by
  have hTensor : (lregOf (restartLong cell f.vb t) cell f.vb).tensor = (lregOf t cell f.vb).tensor := congrArg (·.2.2) (restartLong_scale f.vb)
  unfold scanState
  dsimp only
  split_ifs
  · rw [releads_enterLong _ _ _ _ _ hTensor]; rfl
  · rw [releads_enterLong _ _ _ _ _ rfl]
  · rfl
  · rfl

theorem scanAt_zero {t : State} {x : VRun} (hOk : x.ok = true) (hNeed : x.need = []) (hTouched : x.touched f.vb) (hState : x.s = t) :
    ScanAt s cell f t 0 (x, []) := by
  subst hState
  exact { ok := hOk, need := hNeed, touched := hTouched, scale := rfl, poison := rfl, releaded := rfl, word := rfl, out := rfl,
          masks := fun _ => rfl, regs := fun _ => rfl, counts := rfl }

/-- A lane more. -/
theorem ScanAt.succ {delta : SMap Nat} {t : State} {n : Nat} {y : VRun × List Nat} (h : ScanAt s cell f t n y)
    (hEnters : laneOn s cell f n = true → f32Finite (laneF 0 (vregOf s cell f.va) n) = true
      ∧ belowLimit (lregOf t cell f.vb).leading (p2 (lregOf t cell f.vb).logN) (f32Val (laneF 0 (vregOf s cell f.va) n)) = true) :
    ScanAt s cell f t (n + 1) (scanRun delta s cell f y.1 n, y.2 ++ [scanOut cell f (scanRun delta s cell f y.1 n) n]) := by
  have hLead : (lregOf y.1.s cell f.vb).leading = (lregOf t cell f.vb).leading := congrArg (·.1) h.scale
  have hN : (lregOf y.1.s cell f.vb).logN = (lregOf t cell f.vb).logN := congrArg (·.2.1) h.scale
  have hTensor : (lregOf y.1.s cell f.vb).tensor = (lregOf t cell f.vb).tensor := congrArg (·.2.2) h.scale
  have hRun : scanRun delta s cell f y.1 n = y.1.on (scanState s cell f n) :=
    scanRun_of_enters h.touched fun hOn => by rw [hLead, hN]; exact (hEnters hOn).2
  have hScale : (lregOf (scanState s cell f n y.1.s) cell f.vb).scale = (lregOf t cell f.vb).scale := (scanState_scale n y.1.s).trans h.scale
  have hPoison : (lregOf (scanState s cell f n y.1.s) cell f.vb).poison = (lregOf t cell f.vb).poison :=
    (scanState_poison n y.1.s fun hOn => (hEnters hOn).1).trans h.poison
  have hWord : SMap.getD (lregOf (scanState s cell f n y.1.s) cell f.vb).lanes 0 0 = runningTotal (lregOf t cell f.vb).leading (laneOn s cell f)
      (scanStarts s cell f) (laneF 0 (vregOf s cell f.va)) (SMap.getD (lregOf t cell f.vb).lanes 0 0) n := by
    rw [word_scanState n y.1.s fun hOn => (hEnters hOn).1, runningTotal_eq, h.word, hLead]
  have hLate : (y.1.on (scanState s cell f n)).late f.vb = false := by
    change (SMap.get? y.1.need f.vb).isSome = false
    rw [h.need]
    rfl
  rw [hRun]
  refine { ok := h.ok, need := h.need, touched := touched_on _ h.touched, scale := hScale, poison := hPoison,
           releaded := (scanState_releaded n y.1.s).trans h.releaded, word := hWord, out := ?_,
           masks := fun m => (mregOf_scanState n y.1.s m).trans (h.masks m), regs := fun r => (vregOf_scanState n y.1.s r).trans (h.regs r),
           counts := by rw [← h.counts, ← hTensor]; exact releads_scanState n y.1.s }
  have hLeading : (lregOf (scanState s cell f n y.1.s) cell f.vb).leading = (lregOf t cell f.vb).leading := congrArg (·.1) hScale
  rw [List.range_succ, List.map_append, h.out, scanOut, if_neg (by simp [hLate]), VRun.on_s, roundLong, hPoison, hLeading, hWord]
  rfl

theorem scanAt_scanAll {delta : SMap Nat} {t : State} {x : VRun} (hOk : x.ok = true) (hNeed : x.need = []) (hTouched : x.touched f.vb) (hState : x.s = t)
    (hEnters : ∀ l, l < 128 → laneOn s cell f l = true → f32Finite (laneF 0 (vregOf s cell f.va) l) = true
      ∧ belowLimit (lregOf t cell f.vb).leading (p2 (lregOf t cell f.vb).logN) (f32Val (laneF 0 (vregOf s cell f.va) l)) = true) :
    ∀ n, n ≤ 128 → ScanAt s cell f t n (scanAll delta s cell f x n)
  | 0, _ => scanAt_zero hOk hNeed hTouched hState
  | n + 1, hn => by
    rw [scanAll_succ]
    exact (scanAt_scanAll hOk hNeed hTouched hState hEnters n (by omega)).succ (hEnters n hn)

/-- What ASCAN makes of the state `t` behind the first use of its register, where all values enter: the register, and the lanes of vd. -/
structure AscanDone (s : State) (cell : Nat) (f : VFields) (t u : State) : Prop where
  scale : (lregOf u cell f.vb).scale = (lregOf t cell f.vb).scale
  poison : (lregOf u cell f.vb).poison = (lregOf t cell f.vb).poison
  releaded : (lregOf u cell f.vb).releaded = (lregOf t cell f.vb).releaded
  counts : releads (lregOf t cell f.vb).tensor u = releads (lregOf t cell f.vb).tensor t
  word : SMap.getD (lregOf u cell f.vb).lanes 0 0 = runningTotal (lregOf t cell f.vb).leading (laneOn s cell f) (scanStarts s cell f)
    (laneF 0 (vregOf s cell f.va)) (SMap.getD (lregOf t cell f.vb).lanes 0 0) 127
  lanes : lanesHold s cell f 0 (vregOf u cell f.vd) (fun l => (if (lregOf t cell f.vb).poison then f32NaN
    else rneF32Pos (longDy (lregOf t cell f.vb).leading (runningTotal (lregOf t cell f.vb).leading (laneOn s cell f) (scanStarts s cell f)
      (laneF 0 (vregOf s cell f.va)) (SMap.getD (lregOf t cell f.vb).lanes 0 0) l))).toNat)

theorem vAscan_of_enters {delta : SMap Nat} {t : State} (hState : (touchLong delta cell f.vb (VRun.start s)).s = t)
    (hMasks : ∀ m, mregOf t cell m = mregOf s cell m) (hRegs : ∀ r, vregOf t cell r = vregOf s cell r)
    (hEnters : ∀ l, l < 128 → laneOn s cell f l = true → f32Finite (laneF 0 (vregOf s cell f.va) l) = true
      ∧ belowLimit (lregOf t cell f.vb).leading (p2 (lregOf t cell f.vb).logN) (f32Val (laneF 0 (vregOf s cell f.va) l)) = true) :
    (vAscan delta cell f (VRun.start s)).ok = true ∧ (vAscan delta cell f (VRun.start s)).need = []
      ∧ AscanDone s cell f t (vAscan delta cell f (VRun.start s)).s := by
  have hAll := scanAt_scanAll (delta := delta) (x := touchLong delta cell f.vb (VRun.start s)) (touchLong_ok _ _ _ _) (touchLong_need _ _ _ _)
    (touched_touchLong delta cell f.vb _) hState hEnters 128 (le_refl _)
  rw [vAscan_eq]
  generalize scanAll delta (VRun.start s).s cell f (touchLong delta cell f.vb (VRun.start s)) 128 = y at hAll
  obtain ⟨v, hWrite, hLanes⟩ := writeLanes_holds (w := 0) (f := f) (cell := cell) (s := y.1.s) (t := y.1.s) (vals := y.2) rfl
    (fun l hl => by rw [hAll.out]; exact getD_map_range _ 0 hl) (fun l _ => toNat_lt_lane_zero _)
  refine ⟨hAll.ok, hAll.need, ?_⟩
  rw [VRun.on_s, hWrite]
  exact { scale := by rw [lregOf_setVreg]; exact hAll.scale
          poison := by rw [lregOf_setVreg]; exact hAll.poison
          releaded := by rw [lregOf_setVreg]; exact hAll.releaded
          counts := hAll.counts
          word := by rw [lregOf_setVreg]; exact hAll.word
          lanes := by
            rw [vregOf_setVreg]
            exact lanesHold_of_regs ((hAll.masks _).trans (hMasks _)) ((hAll.regs _).trans (hRegs _)) hLanes }

/-- ASCAN under R162: the first run asks for the leading `L`, and the repeat needs no other. -/
theorem repeatsOf_vAscan {L : Int} (h : RaisesTo s cell f (lregOf s cell f.vb) L) :
    repeatsOf (fun delta => vAscan delta cell f (VRun.start s)) 1099 [] []
        = ([(f.vb, (L - (lregOf s cell f.vb).leading).toNat)], [((lregOf s cell f.vb).tensor, L)])
      ∧ (vAscan [(f.vb, (L - (lregOf s cell f.vb).leading).toNat)] cell f (VRun.start s)).ok = true
      ∧ (vAscan [(f.vb, (L - (lregOf s cell f.vb).leading).toNat)] cell f (VRun.start s)).need = []
      ∧ AscanDone s cell f (touchLong [(f.vb, (L - (lregOf s cell f.vb).leading).toNat)] cell f.vb (VRun.start s)).s
          (vAscan [(f.vb, (L - (lregOf s cell f.vb).leading).toNat)] cell f (VRun.start s)).s := by
  have hFirst : Climbs cell f.vb (lregOf s cell f.vb).leading (lregOf s cell f.vb).logN (lregOf s cell f.vb).tensor L
      (scanAll [] s cell f (touchLong [] cell f.vb (VRun.start s)) 128).1 := by
    rw [scanAll_fst, ← h.foldl_leadFor (ls := List.range 128) (fun l hl _ => List.mem_range.mpr hl) (fun l hl => List.mem_range.mp hl)]
    exact Climbs.foldl (fun y best l hy => hy.scanRun h.low [] l) _ (h.climbs_start rfl)
  obtain ⟨hOk, hNeed, hDone⟩ := vAscan_of_enters (delta := [(f.vb, (L - (lregOf s cell f.vb).leading).toNat)]) (s := s) rfl
    (fun m => by rw [h.touchLong_s rfl, mregOf_statBelow, mregOf_setLreg]) (fun r => by rw [h.touchLong_s rfl, vregOf_statBelow, vregOf_setLreg])
    (fun l hl hOn => by
      rw [h.lregOf_touchLong rfl, raise_leading, raise_logN, max_eq_right (le_of_lt h.lt)]
      exact h.below l hl hOn)
  exact ⟨repeatsOf_once (by rw [vAscan_eq]; exact hFirst.ok) (by rw [vAscan_eq]; exact hFirst.need_of_lt h.lt) hNeed 1098, hOk, hNeed, hDone⟩

theorem vStep_ascan (delta : SMap Nat) (hw : f.w = 0) (s : State) :
    vStep delta cell (VRun.start s) { op := .ascan, f := f } = vAscan delta cell f (VRun.start s) :=
  vStep_of_legal (by simp [VOp.widths, hw]) rfl rfl rfl

/-! ### AZERO, AFOLD and AROUND (R159) -/

theorem mem_range_three {w : Nat} (hw : w < 3) : w ∈ [0, 1, 2] := by simp; omega

theorem exec_azero (hw : f.w < 3) (hRuns : vectorRuns s cell { op := .azero, f := f } = true) :
    exec (.azero cell f) s = .next (setLreg cell f.vd { LReg.zero with
      leading := signExt 8 f.addr.toNat, logN := bitsOf f.addr.toNat 12 8, tensor := bitsOf f.addr.toNat 31 16 } s) := by
  have hStep : vStep [] cell (VRun.start s) { op := .azero, f := f } = vAzero [] cell f (VRun.start s) :=
    vStep_of_legal (mem_range_three hw) rfl rfl rfl
  have hLead : clampI (-128) 127 (signExt 8 f.addr.toNat + (SMap.getD ([] : SMap Nat) f.vd 0 : Nat)) = signExt 8 f.addr.toNat := by
    have hZero : SMap.getD ([] : SMap Nat) f.vd 0 = 0 := rfl
    have hBounds : -128 ≤ signExt 8 f.addr.toNat ∧ signExt 8 f.addr.toNat ≤ 127 := by
      unfold signExt
      simp only [p2_eq]
      split <;> omega
    rw [hZero, Nat.cast_zero, add_zero, clampI_of_within hBounds.1 hBounds.2]
  have hState : (vAzero [] cell f (VRun.start s)).s = setLreg cell f.vd { LReg.zero with
      leading := signExt 8 f.addr.toNat, logN := bitsOf f.addr.toNat 12 8, tensor := bitsOf f.addr.toNat 31 16 } s := by
    unfold vAzero
    dsimp only
    rw [hLead]
    rfl
  rw [← hState, ← hStep]
  exact exec_vecCmd_of_clean hRuns (by rw [hStep]; rfl) (by rw [hStep]; rfl)

/-- AFOLD puts one word into lane 0 and clears the others. -/
def foldedReg (s : State) (cell : Nat) (f : VFields) : LReg :=
  let t := (lregOf s cell f.vd).lanes.foldl (fun acc p => if laneOn s cell f p.1 then wrap96 (acc + p.2) else acc) 0
  { lregOf s cell f.vd with lanes := if t = 0 then [] else [(0, t)] }

theorem getD_foldedReg (l : Nat) : SMap.getD (foldedReg s cell f).lanes l 0
    = if l = 0 then (lregOf s cell f.vd).lanes.foldl (fun acc p => if laneOn s cell f p.1 then wrap96 (acc + p.2) else acc) 0 else 0 := by
  unfold foldedReg
  dsimp only
  split
  next hZero =>
    rw [hZero, ite_self]
    rfl
  next =>
    rw [SMap.getD, SMap.get?]
    by_cases hl : l = 0
    · rw [if_pos hl.symm, if_pos hl]
    · rw [if_neg (Ne.symm hl), if_neg hl]
      split_ifs <;> rfl

theorem exec_afold (hw : f.w < 3) (hRuns : vectorRuns s cell { op := .afold, f := f } = true) :
    exec (.afold cell f) s = .next (setLreg cell f.vd (foldedReg s cell f) s) := by
  have hStep : vStep [] cell (VRun.start s) { op := .afold, f := f } = vAfold [] cell f (VRun.start s) :=
    vStep_of_legal (mem_range_three hw) rfl rfl rfl
  have hState : (vAfold [] cell f (VRun.start s)).s = setLreg cell f.vd (foldedReg s cell f) s := by
    unfold vAfold
    rw [VRun.on_s, touchLong_nil_s]
    rfl
  rw [← hState, ← hStep]
  exact exec_vecCmd_of_clean hRuns (by rw [hStep]; exact touchLong_ok _ _ _ _) (by rw [hStep]; exact touchLong_need _ _ _ _)

theorem around_writesLanes (hw : f.w = 0) (hRuns : vectorRuns s cell { op := .around, f := f } = true) :
    writesLanes (.around cell f) s cell f 0 (fun l => (roundLong (lregOf s cell f.va) l).toNat) := by
  have hStep : vStep [] cell (VRun.start s) { op := .around, f := f } = vAround [] cell f (VRun.start s) :=
    vStep_of_legal (by simp [VOp.widths, hw]) rfl rfl rfl
  have hRun : vAround [] cell f (VRun.start s) = (touchLong [] cell f.va (VRun.start s)).on (fun s =>
      writeLanes cell f 0 ((List.range 128).map (fun l => (roundLong (lregOf s cell f.va) l).toNat)) s) := rfl
  obtain ⟨v, hWrite, hLanes⟩ := writeLanes_holds (s := s) (t := s) (cell := cell) (f := f) (w := 0)
    (vals := (List.range 128).map (fun l => (roundLong (lregOf s cell f.va) l).toNat)) rfl
    (fun l hl => getD_map_range _ 0 hl) (fun l _ => toNat_lt_lane_zero _)
  refine ⟨v, ?_, hLanes⟩
  have hState : (vAround [] cell f (VRun.start s)).s = setVreg cell f.vd v s := by rw [hRun, VRun.on_s, touchLong_nil_s, ← hWrite]
  rw [← hState, ← hStep]
  exact exec_vecCmd_of_clean hRuns (by rw [hStep, hRun]; exact touchLong_ok _ _ _ _) (by rw [hStep, hRun]; exact touchLong_need _ _ _ _)

/-! ### AADD and ASCAN as commands -/

theorem exec_aadd (hRuns : vectorRuns s cell { op := .aadd, f := f } = true) (hw : f.w = 0)
    (hBelow : ∀ l, l < 128 → laneOn s cell f l = true → f32Finite (laneF 0 (vregOf s cell f.va) l) = true →
      belowLimit (lregOf s cell f.vd).leading (p2 (lregOf s cell f.vd).logN) (f32Val (laneF 0 (vregOf s cell f.va) l)) = true) :
    exec (.aadd cell f) s = .next (aaddState s cell f s) := by
  obtain ⟨hOk, hNeed, hState⟩ := vAadd_start hBelow
  rw [← hState, ← vStep_aadd [] hw]
  exact exec_vecCmd_of_clean hRuns (by rw [vStep_aadd [] hw, hOk]) (by rw [vStep_aadd [] hw, hNeed])

theorem exec_ascan (hRuns : vectorRuns s cell { op := .ascan, f := f } = true) (hw : f.w = 0)
    (hEnters : ∀ l, l < 128 → laneOn s cell f l = true → f32Finite (laneF 0 (vregOf s cell f.va) l) = true
      ∧ belowLimit (lregOf s cell f.vb).leading (p2 (lregOf s cell f.vb).logN) (f32Val (laneF 0 (vregOf s cell f.va) l)) = true) :
    completes (.ascan cell f) s (AscanDone s cell f s) := by
  obtain ⟨hOk, hNeed, hDone⟩ := vAscan_of_enters (delta := []) (touchLong_nil_s cell f.vb (VRun.start s)) (fun _ => rfl) (fun _ => rfl) hEnters
  rw [← vStep_ascan [] hw] at hOk hNeed hDone
  exact ⟨_, exec_vecCmd_of_clean hRuns hOk hNeed, hDone⟩

theorem exec_aadd_of_raise {L : Int} (hRuns : vectorRuns s cell { op := .aadd, f := f } = true) (hw : f.w = 0)
    (h : RaisesTo s cell f (lregOf s cell f.vd) L) : exec (.aadd cell f) s = .next (countReleads [((lregOf s cell f.vd).tensor, L)]
      (aaddState s cell f (touchLong [(f.vd, (L - (lregOf s cell f.vd).leading).toNat)] cell f.vd (VRun.start s)).s)) := by
  obtain ⟨hRepeats, hRun⟩ := repeatsOf_vAadd h
  have hExec := exec_vecCmd_of_repeats hRuns (fun delta => vStep_aadd delta hw s) hRepeats (by dsimp only; rw [hRun]; exact touchLong_ok _ _ _ _)
    (by dsimp only; rw [hRun]; exact touchLong_need _ _ _ _)
  dsimp only at hExec
  rwa [hRun] at hExec

theorem exec_ascan_of_raise {L : Int} (hRuns : vectorRuns s cell { op := .ascan, f := f } = true) (hw : f.w = 0)
    (h : RaisesTo s cell f (lregOf s cell f.vb) L) : ∃ u, exec (.ascan cell f) s = .next (countReleads [((lregOf s cell f.vb).tensor, L)] u)
      ∧ AscanDone s cell f (touchLong [(f.vb, (L - (lregOf s cell f.vb).leading).toNat)] cell f.vb (VRun.start s)).s u := by
  obtain ⟨hRepeats, hOk, hNeed, hDone⟩ := repeatsOf_vAscan h
  exact ⟨_, exec_vecCmd_of_repeats hRuns (fun delta => vStep_ascan delta hw s) hRepeats hOk hNeed, hDone⟩

@[simp] theorem lregOf_countReleads_one (ten : Nat) (lead : Int) (s : State) (c r : Nat) : lregOf (countReleads [(ten, lead)] s) c r = lregOf s c r :=
  lregOf_statOwn ten c r s _

@[simp] theorem vregOf_countReleads_one (ten : Nat) (lead : Int) (s : State) (c r : Nat) : vregOf (countReleads [(ten, lead)] s) c r = vregOf s c r :=
  vregOf_statOwn ten c r s _

theorem relead_countReleads_of_eq {ten : Nat} {u : State} (h : releads ten u = releads ten s) (lead : Int) :
    (SMap.getD (countReleads [(ten, lead)] u).stats.own ten StatRec.empty).relead
      = hold32 ((SMap.getD s.stats.own ten StatRec.empty).relead + 1) := by
  rw [relead_countReleads, ← hold32_hold32_add, ← hold32_hold32_add (SMap.getD s.stats.own ten StatRec.empty).relead]
  exact congrArg (fun n => hold32 (n + 1)) h

/-- The register behind AADD with one raise: raised to `L`, its words shifted, and every active value entered at `L`. -/
theorem lregOf_aadd_raised {L : Int} (h : RaisesTo s cell f (lregOf s cell f.vd) L) (hm : keysRise (lregOf s cell f.vd).lanes) {u : LReg}
    (hu : lregOf (aaddState s cell f (touchLong [(f.vd, (L - (lregOf s cell f.vd).leading).toNat)] cell f.vd (VRun.start s)).s) cell f.vd = u) :
    u.leading = L ∧ u.releaded = true ∧ u.poison = (lregOf s cell f.vd).poison
      ∧ ∀ l, l < 128 → SMap.getD u.lanes l 0 =
          if laneOn s cell f l then wrap96 (alignedTo L (lregOf s cell f.vd).leading (SMap.getD (lregOf s cell f.vd).lanes l 0)
            + (DyOp.toUnits (f32Val (laneF 0 (vregOf s cell f.va) l)) (L - 75)).1)
          else if f.zeroing then 0 else alignedTo L (lregOf s cell f.vd).leading (SMap.getD (lregOf s cell f.vd).lanes l 0) := by
  have hStart := h.lregOf_touchLong (r := f.vd) rfl
  have hLead : ((lregOf s cell f.vd).raise L).1.leading = L := by rw [raise_leading, max_eq_right (le_of_lt h.lt)]
  rw [← hu]
  refine ⟨?_, ?_, ?_, fun l hl => ?_⟩
  · exact ((congrArg (·.1) aaddState_scale).trans (congrArg LReg.leading hStart)).trans hLead
  · rw [lregOf_aaddState, enterAll_releaded, clearLanes_releaded, hStart]
  · have hFinite : ¬ ∃ l, l < 128 ∧ laneOn s cell f l = true ∧ f32Finite (laneF 0 (vregOf s cell f.va) l) = false := by
      rintro ⟨l, hl, hOn, hNot⟩
      rw [(h.below l hl hOn).1] at hNot
      cases hNot
    rw [Bool.eq_iff_iff, aaddState_poison, or_iff_left hFinite, hStart]
    dsimp only
    rw [raise_poison]
  · rw [getD_aaddState (by rw [hStart]; exact rise_raise L hm) hl, hStart]
    dsimp only
    rw [hLead, getD_raise L hm]
    by_cases hOn : laneOn s cell f l = true
    · rw [if_pos hOn, if_pos hOn, if_pos (h.below l hl hOn).1]
    · rw [if_neg hOn, if_neg hOn]

/-- The register and the lanes behind ASCAN with one raise. -/
theorem AscanDone.raised {L : Int} {u : State} (h : RaisesTo s cell f (lregOf s cell f.vb) L) (hm : keysRise (lregOf s cell f.vb).lanes)
    (hDone : AscanDone s cell f (touchLong [(f.vb, (L - (lregOf s cell f.vb).leading).toNat)] cell f.vb (VRun.start s)).s u) {tot : Nat → Int}
    (hTot : tot = runningTotal L (laneOn s cell f) (scanStarts s cell f) (laneF 0 (vregOf s cell f.va))
      (alignedTo L (lregOf s cell f.vb).leading (SMap.getD (lregOf s cell f.vb).lanes 0 0))) :
    (lregOf u cell f.vb).leading = L ∧ (lregOf u cell f.vb).releaded = true ∧ (lregOf u cell f.vb).poison = (lregOf s cell f.vb).poison
      ∧ releads (lregOf s cell f.vb).tensor u = releads (lregOf s cell f.vb).tensor s
      ∧ SMap.getD (lregOf u cell f.vb).lanes 0 0 = tot 127
      ∧ lanesHold s cell f 0 (vregOf u cell f.vd) (fun l =>
          (if (lregOf s cell f.vb).poison then f32NaN else rneF32Pos (longDy L (tot l))).toNat) := by
  have hStart := h.lregOf_touchLong (r := f.vb) rfl
  have hLead : ((lregOf s cell f.vb).raise L).1.leading = L := by rw [raise_leading, max_eq_right (le_of_lt h.lt)]
  have hScale := hDone.scale
  have hPoison := hDone.poison
  have hReleaded := hDone.releaded
  have hWord := hDone.word
  have hLanes := hDone.lanes
  have hCounts := hDone.counts
  rw [hStart] at hScale hPoison hReleaded hWord hLanes hCounts
  simp only [raise_poison, raise_tensor, hLead, getD_raise L hm] at hPoison hReleaded hWord hLanes hCounts
  subst hTot
  exact ⟨(congrArg (·.1) hScale).trans hLead, hReleaded, hPoison, hCounts.trans (h.releads_touchLong rfl), hWord, hLanes⟩

end

/-- Settles O16. Without a raise every value enters at its turn; with one, the first run finds the leading and the repeat enters every value. -/
theorem longWordArithmetic : Obligations.LongWordArithmetic := by
  unfold Obligations.LongWordArithmetic
  refine ⟨fun s cell f => ⟨exec_azero, fun hw hRuns => ?_, around_writesLanes⟩, fun s cell f hRuns hw hm => ?_, fun s cell f hRuns hw => ?_,
    fun s cell f L hw => ?_⟩
  · refine ⟨_, exec_afold hw hRuns, ?_⟩
    beta_reduce
    intro v
    rw [lregOf_setLreg_same]
    exact ⟨rfl, getD_foldedReg 0, fun l hl => (getD_foldedReg l).trans (if_neg hl), rfl, rfl⟩
  · intro v a hBelow
    exact ⟨_, exec_aadd hRuns hw hBelow, congrArg (·.1) aaddState_scale, aaddState_poison, fun l hl => getD_aaddState hm hl⟩
  · intro v a seg tot hEnters
    obtain ⟨t, hExec, hDone⟩ := exec_ascan hRuns hw hEnters
    exact ⟨t, hExec, hDone.word, hDone.poison, hDone.lanes⟩
  · intro a on rises counts
    have hRaises : ∀ v, rises v → RaisesTo s cell f v L := fun v ⟨_, hLow, hLt, hTop, hBelow, hBeyond⟩ => ⟨hLow, hLt, hTop, hBelow, hBeyond⟩
    refine ⟨fun hRuns hRise => ?_, fun hRuns hRise => ?_⟩
    · have h := hRaises _ hRise
      refine ⟨_, exec_aadd_of_raise hRuns hw h, ?_⟩
      beta_reduce
      intro v u
      obtain ⟨hLead, hReleaded, hPoison, hLanes⟩ := lregOf_aadd_raised h hRise.1 (u := u) (lregOf_countReleads_one _ _ _ _ _).symm
      refine ⟨hLead, hReleaded, hPoison, relead_countReleads_of_eq ?_ L, hLanes⟩
      rw [releads_aaddState (by rw [h.lregOf_touchLong rfl]; exact raise_tensor v L), h.releads_touchLong rfl]
    · have h := hRaises _ hRise
      obtain ⟨u, hExec, hDone⟩ := exec_ascan_of_raise hRuns hw h
      obtain ⟨hLead, hReleaded, hPoison, hCounts, hWord, hLanes⟩ := hDone.raised h hRise.1 rfl
      refine ⟨_, hExec, ?_⟩
      beta_reduce
      rw [lregOf_countReleads_one, vregOf_countReleads_one]
      exact ⟨hLead, hReleaded, hPoison, relead_countReleads_of_eq hCounts L, hWord, hLanes⟩

end Sys2Proof.Machine
end

section
/-! PROOFS. The obligation on ligatures (R162 to R167). -/

namespace Sys2Proof.Machine
open Sys2Proof

section
variable {delta : SMap Nat} {cell : Nat} {d : LigDesc} {act : List Bool} {x : VRun}

/-! ### What the rows of a ligature keep -/

/-- An instruction of a ligature reaches the run by ACCR alone: by values that enter the accumulator, or by a vector register. -/
theorem ligStep_keeps {P : VRun → Prop} (hAdd : d.accExact = true → ∀ l w y, P y → P (addLong delta cell d.accReg l w y))
    (hSet : ∀ (v : State → BitVec 4096) (y : VRun), P y → P (y.on fun s => setVreg cell d.accReg (v s) s))
    (i : Nat) {r : LigRow} (h : P r.x) (word : Nat) :
    P (ligStep delta cell d act i r word).x := by
  have hAccr : ∀ mod a, P (ligAccr delta cell d act i mod a r.x) := by
    intro mod a
    unfold ligAccr
    split
    next hExact =>
      refine List.foldlRecOn _ _ h fun y hy l _ => ?_
      split
      · exact hAdd (Bool.and_eq_true_iff.mp hExact).2 i _ y hy
      · exact hy
    next => exact hSet _ _ h
  unfold ligStep
  dsimp only
  split
  · exact hAccr _ _
  · split
    · exact h
    · split <;> exact h

theorem ligRows_keeps {P : VRun → Prop} (hAdd : d.accExact = true → ∀ l w y, P y → P (addLong delta cell d.accReg l w y))
    (hSet : ∀ (v : State → BitVec 4096) (y : VRun), P y → P (y.on fun s => setVreg cell d.accReg (v s) s)) (h : P x) :
    P (ligRows delta cell d act x).1 := by
  refine List.foldlRecOn (motive := fun acc : VRun × List (List W32) × List (List W32) => P acc.1) _ _ h fun acc hAcc i _ => ?_
  exact List.foldlRecOn (motive := fun r : LigRow => P r.x) _ _ hAcc fun r hr word _ => ligStep_keeps hAdd hSet i hr word

@[simp] theorem addLong_ok (delta : SMap Nat) (cell r l : Nat) (w : W32) (x : VRun) : (addLong delta cell r l w x).ok = x.ok := by
  rw [← touchLong_ok delta cell r x]
  unfold addLong
  dsimp only
  split_ifs <;> rfl

/-- A ligature stops on nothing once it has its input. -/
theorem ligRows_ok (hOk : x.ok = true) : (ligRows delta cell d act x).1.ok = true :=
  ligRows_keeps (P := fun y => y.ok = true) (fun _ l w y hy => by rw [addLong_ok, hy]) (fun _ _ hy => hy) hOk

/-- One with no exact accumulation asks for no raise. -/
theorem ligRows_need_of_not_exact (hNot : d.accExact = false) (hNeed : x.need = []) : (ligRows delta cell d act x).1.need = [] :=
  ligRows_keeps (P := fun y => y.need = []) (fun hExact => by simp [hNot] at hExact) (fun _ _ hy => hy) hNeed

/-! ### What a ligature asks for (R86, R162) -/

/-- A run that has not used a register yet, or that asks for a leading of at most 127 for it. -/
def Accumulates (delta : SMap Nat) (cell r : Nat) (v : LReg) (y : VRun) : Prop :=
  (y.ok = true ∧ y.need = [] ∧ SMap.get? y.adj r = none ∧ (lregOf y.s cell r).scale = v.scale)
    ∨ ∃ best, best ≤ max (startLead delta r v.leading) 127 ∧ Climbs cell r (startLead delta r v.leading) v.logN v.tensor best y

theorem low_le_startLead {lead : Int} (h : -128 ≤ lead) (delta : SMap Nat) (r : Nat) : -128 ≤ startLead delta r lead := le_max_of_le_left h

/-- A value keeps it. -/
theorem Accumulates.addLong {r : Nat} {v : LReg} {y : VRun} (hLow : -128 ≤ v.leading) (h : Accumulates delta cell r v y) (l : Nat) (w : W32) :
    Accumulates delta cell r v (addLong delta cell r l w y) := by
  have hClimbs : ∃ best, best ≤ max (startLead delta r v.leading) 127
      ∧ Climbs cell r (startLead delta r v.leading) v.logN v.tensor best (touchLong delta cell r y) := by
    rcases h with ⟨hOk, hNeed, hFresh, hScale⟩ | ⟨best, hBest, hClimbs⟩
    · exact ⟨_, le_max_left _ _, climbs_touchLong hLow hOk hNeed hFresh hScale⟩
    · exact ⟨best, hBest, by rwa [touchLong_of_touched hClimbs.touched]⟩
  obtain ⟨best, hBest, hClimbs⟩ := hClimbs
  have hFor := leadFor_le_max (startLead delta r v.leading) (p2 v.logN) w
  rw [← addLong_touchLong]
  exact .inr ⟨_, max_le hBest hFor, hClimbs.addLong (low_le_startLead hLow delta r) l w⟩

theorem Accumulates.on {r : Nat} {v : LReg} {y : VRun} {g : State → State} (hg : ∀ s, lregOf (g s) cell r = lregOf s cell r)
    (h : Accumulates delta cell r v y) : Accumulates delta cell r v (y.on g) := by
  rcases h with ⟨hOk, hNeed, hFresh, hScale⟩ | ⟨best, hBest, hClimbs⟩
  · exact .inl ⟨hOk, hNeed, hFresh, by rw [VRun.on_s, hg, hScale]⟩
  · exact .inr ⟨best, hBest, hClimbs.on (by rw [hg])⟩

theorem accumulates_ligRows {s : State} (hLow : -128 ≤ (lregOf s cell d.accReg).leading) :
    Accumulates delta cell d.accReg (lregOf s cell d.accReg) (ligRows delta cell d act (VRun.start s)).1 :=
  ligRows_keeps (P := Accumulates delta cell d.accReg (lregOf s cell d.accReg)) (fun _ l w _ hy => hy.addLong hLow l w)
    (fun v _ hy => hy.on fun s => lregOf_setVreg cell d.accReg (v s) s cell d.accReg) (.inl ⟨rfl, rfl, rfl, rfl⟩)

/-- Raises only up to the leading 127. -/
theorem Accumulates.need_eq {r : Nat} {v : LReg} {y : VRun} (h : Accumulates delta cell r v y) : y.need = []
    ∨ ∃ best, startLead delta r v.leading < best ∧ best ≤ 127 ∧ y.need = [(r, ((best - startLead delta r v.leading).toNat, v.tensor, best))] := by
  rcases h with ⟨-, hNeed, -⟩ | ⟨best, hBest, hClimbs⟩
  · exact .inl hNeed
  · have hLe := hClimbs.le
    by_cases hSame : best = startLead delta r v.leading
    · exact .inl (by rw [hClimbs.need, if_pos hSame])
    · exact .inr ⟨best, by omega, by omega, hClimbs.need_of_lt (by omega)⟩

/-! ### The repeats end (R162) -/

/-- The leading of a repeat, while it is below 127, is that of the register with the raises so far. -/
theorem startLead_of_lt {lead : Int} {r : Nat} (hLow : -128 ≤ lead) (h : startLead delta r lead < 127) :
    startLead delta r lead = lead + SMap.getD delta r 0 := by
  unfold startLead at h ⊢
  rw [clampI] at h ⊢
  split_ifs at h ⊢ <;> omega

/-- Repeats that raise one register only, each time to at most 127, come to a run that needs none. -/
theorem need_repeatsOf_eq_nil {run : SMap Nat → VRun} {r ten : Nat} {lead : Int} (hLow : -128 ≤ lead)
    (hNeed : ∀ delta, (run delta).need = [] ∨ ∃ best, startLead delta r lead < best ∧ best ≤ 127
      ∧ (run delta).need = [(r, ((best - startLead delta r lead).toNat, ten, best))]) (hOk : ∀ delta, (run delta).ok = true) (n : Nat) :
    ∀ (delta : SMap Nat) rel, 127 ≤ lead + SMap.getD delta r 0 + n → (run (repeatsOf run n delta rel).1).need = [] := by
  induction n with
  | zero =>
    intro delta rel hFuel
    refine (hNeed delta).resolve_right ?_
    rintro ⟨best, hLt, hTop, -⟩
    have := startLead_of_lt (delta := delta) hLow (r := r) (by omega)
    omega
  | succ n ih =>
    intro delta rel hFuel
    rw [repeatsOf]
    rcases hNeed delta with h | ⟨best, hLt, hTop, h⟩
    · rw [if_pos (.inl h), h]
    · have hStart := startLead_of_lt (delta := delta) hLow (r := r) (by omega)
      rw [if_neg (by simp [h, hOk])]
      refine ih _ _ ?_
      rw [h, List.foldl_cons, List.foldl_nil, SMap.modify, getD_put_same]
      push_cast
      omega

end

/-! ### LIG as a command -/

section
variable {s : State} {cell : Nat} {f : VFields} {d : LigDesc}

/-- What a ligature does behind its rows: it writes its outputs and marks its galley slot. -/
def ligDone (cell : Nat) (f : VFields) (d : LigDesc) (act : List Bool) (r : VRun × List (List W32) × List (List W32)) : State → State := fun s =>
  onlyIf (d.in0Src = 0 && (d.release || f.release)) (markRelease cell (d.in0Addr % 8)) (ligOutput cell d act 1 r.2.2 (ligOutput cell d act 0 r.2.1 s))

theorem vStep_lig (hw : f.w < 3) (delta : SMap Nat) (s : State) :
    vStep delta cell (VRun.start s) { op := .lig, f := f } = vLig delta cell f (VRun.start s) :=
  vStep_of_legal (mem_range_three hw) rfl rfl rfl

theorem vLig_of_empty (hd : readLig s cell f.addr.toNat = d) (hSrc : d.in0Src = 0) (hEmpty : (engOf s cell).galley.length ≤ d.in0Addr % 8)
    (delta : SMap Nat) : vLig delta cell f (VRun.start s) = (VRun.start s).stop := by
  subst hd
  exact if_pos (by simp [hSrc, hEmpty])

theorem vLig_of_input (hd : readLig s cell f.addr.toNat = d) (hInput : d.in0Src = 0 → d.in0Addr % 8 < (engOf s cell).galley.length) {act : List Bool}
    (hAct : (List.range 128).map (fun j => (mregOf s cell d.colMask).getLsbD j) = act) (delta : SMap Nat) :
    vLig delta cell f (VRun.start s)
      = (ligRows delta cell d act (VRun.start s)).1.on (ligDone cell f d act (ligRows delta cell d act (VRun.start s))) := by
  subst hd hAct
  refine if_neg ?_
  simp only [Bool.and_eq_true, decide_eq_true_eq, not_and, not_le]
  exact hInput

theorem exec_lig_of_clean (hRuns : vectorRuns s cell { op := .lig, f := f } = true) (hw : f.w < 3) (hd : readLig s cell f.addr.toNat = d)
    (hInput : d.in0Src = 0 → d.in0Addr % 8 < (engOf s cell).galley.length) {act : List Bool}
    (hAct : (List.range 128).map (fun j => (mregOf s cell d.colMask).getLsbD j) = act) (hNeed : (ligRows [] cell d act (VRun.start s)).1.need = []) :
    exec (.lig cell f) s = .next (ligDone cell f d act (ligRows [] cell d act (VRun.start s)) (ligRows [] cell d act (VRun.start s)).1.s) := by
  have hRun := (vStep_lig hw [] s).trans (vLig_of_input hd hInput hAct [])
  have hExec := exec_vecCmd_of_clean hRuns (by rw [hRun, VRun.on_ok]; exact ligRows_ok rfl) (by rw [hRun]; exact hNeed)
  rw [hRun] at hExec
  exact hExec

theorem exec_lig_of_repeats (hRuns : vectorRuns s cell { op := .lig, f := f } = true) (hw : f.w < 3) (hd : readLig s cell f.addr.toNat = d)
    (hInput : d.in0Src = 0 → d.in0Addr % 8 < (engOf s cell).galley.length) {act : List Bool}
    (hAct : (List.range 128).map (fun j => (mregOf s cell d.colMask).getLsbD j) = act) {r : SMap Nat × List (Nat × Int)}
    (hr : repeatsOf (fun delta => (ligRows delta cell d act (VRun.start s)).1) 1099 [] [] = r)
    (hNeed : (ligRows r.1 cell d act (VRun.start s)).1.need = []) :
    exec (.lig cell f) s
      = .next (countReleads r.2 (ligDone cell f d act (ligRows r.1 cell d act (VRun.start s)) (ligRows r.1 cell d act (VRun.start s)).1.s)) := by
  have hRun : ∀ delta, vStep delta cell (VRun.start s) { op := .lig, f := f }
      = (ligRows delta cell d act (VRun.start s)).1.on (ligDone cell f d act (ligRows delta cell d act (VRun.start s))) := fun delta =>
    (vStep_lig hw delta s).trans (vLig_of_input hd hInput hAct delta)
  have hRepeats : repeatsOf (fun delta => (ligRows delta cell d act (VRun.start s)).1.on (ligDone cell f d act (ligRows delta cell d act (VRun.start s))))
      1099 [] [] = r := by
    rw [← hr]
    exact repeatsOf_congr (by intro; rfl) (by intro; rfl) _ _ _
  exact exec_vecCmd_of_repeats hRuns hRun hRepeats (ligRows_ok rfl) hNeed

theorem need_ligRows_of_repeats (hLow : -128 ≤ (lregOf s cell d.accReg).leading) {act : List Bool} {n : Nat} (hn : 255 ≤ n)
    {r : SMap Nat × List (Nat × Int)} (hr : repeatsOf (fun delta => (ligRows delta cell d act (VRun.start s)).1) n [] [] = r) :
    (ligRows r.1 cell d act (VRun.start s)).1.need = [] := by
  have hZero : SMap.getD ([] : SMap Nat) d.accReg 0 = 0 := rfl
  have hEnd := need_repeatsOf_eq_nil (run := fun delta => (ligRows delta cell d act (VRun.start s)).1) hLow
    (fun delta => (accumulates_ligRows hLow).need_eq) (fun delta => ligRows_ok rfl) n [] [] (by rw [hZero]; omega)
  rw [hr] at hEnd
  exact hEnd

end

/-- Settles O19. A run of the rows asks for raises of one register alone, up to the leading 127, so the repeats end. -/
theorem ligatureRun : Obligations.LigatureRun := by
  unfold Obligations.LigatureRun
  intro s cell f hRuns hw d act run done
  generalize hr : repeatsOf (fun delta => (run delta).1) 1099 [] [] = r
  refine ⟨fun hSrc hEmpty => ?_, fun hInput => ⟨fun hNot => ?_, fun hNeed => ?_, fun hLow => ?_⟩⟩
  · exact exec_vecCmd_of_stop (op := .lig) (by rw [vStep_lig hw, vLig_of_empty rfl hSrc hEmpty]; rfl)
  · exact exec_lig_of_clean hRuns hw rfl hInput rfl (ligRows_need_of_not_exact hNot rfl)
  · exact exec_lig_of_clean hRuns hw rfl hInput rfl hNeed
  · have hNeed := need_ligRows_of_repeats (s := s) (cell := cell) (d := d) hLow (by decide) hr
    exact ⟨hNeed, exec_lig_of_repeats hRuns hw rfl hInput rfl hr hNeed⟩

end Sys2Proof.Machine
end

section
/-! PROOFS. The obligation on lane partials: ALD and AST (R91, R93, R151, R161). -/

namespace Sys2Proof.Machine
open Sys2Proof

/-! ### Sparse words -/

/-- A map of words lists no word that is 0. -/
def Sparse (m : SMap Int) : Prop := ∀ p ∈ m, p.2 ≠ 0

theorem sparse_put (a : Nat) {v : Int} (hv : v ≠ 0) : ∀ {m : SMap Int}, Sparse m → Sparse (SMap.put m a v)
  | [], _ => by simpa [Sparse, SMap.put] using hv
  | (k, x) :: rest, hm => by
    have hRest := sparse_put a hv (m := rest) fun p hp => hm p (List.mem_cons_of_mem _ hp)
    have hHere := hm (k, x) List.mem_cons_self
    intro p hp
    rw [SMap.put] at hp
    split_ifs at hp
    · rcases List.mem_cons.mp hp with rfl | hp
      · exact hv
      · exact hm p (List.mem_cons_of_mem _ hp)
    · rcases List.mem_cons.mp hp with rfl | hp
      · exact hv
      · exact hm p hp
    · rcases List.mem_cons.mp hp with rfl | hp
      · exact hHere
      · exact hRest p hp

theorem sparse_putD (a : Nat) (v : Int) {m : SMap Int} (hm : Sparse m) : Sparse (SMap.putD m a 0 v) := by
  unfold SMap.putD
  split
  · exact fun p hp => hm p (List.mem_of_mem_filter hp)
  next h => exact sparse_put a h hm

/-- In a sparse map the key of a word that is not 0 is listed, and no other. -/
theorem get?_of_sparse {m : SMap Int} (hm : Sparse m) (a : Nat) : SMap.get? m a = if SMap.getD m a 0 = 0 then none else some (SMap.getD m a 0) := by
  rw [SMap.getD]
  cases h : SMap.get? m a with
  | none => rfl
  | some x => exact (if_neg (hm _ (mem_of_get? h))).symm

theorem sparse_raise {v : LReg} (hm : Sparse v.lanes) (lead : Int) : Sparse (v.raise lead).1.lanes := by
  unfold LReg.raise
  split
  · exact hm
  · intro p hp
    simpa using (List.mem_filter.mp hp).2

/-- Words put one after another at keys below `n`. -/
theorem lanes_of_puts (x : Nat → Int) (n : Nat) : keysRise ((List.range n).foldl (fun m l => SMap.putD m l 0 (x l)) [])
    ∧ Sparse ((List.range n).foldl (fun m l => SMap.putD m l 0 (x l)) [])
    ∧ ∀ l, SMap.getD ((List.range n).foldl (fun m l => SMap.putD m l 0 (x l)) []) l 0 = if l < n then x l else 0 := by
  induction n with
  | zero => exact ⟨rise_nil, fun p hp => by simp at hp, fun l => rfl⟩
  | succ n ih =>
    obtain ⟨hRise, hSparse, hGet⟩ := ih
    rw [List.range_succ, List.foldl_append, List.foldl_cons, List.foldl_nil]
    refine ⟨rise_putD n 0 _ hRise, sparse_putD n _ hSparse, fun l => ?_⟩
    by_cases hl : l = n
    · rw [hl, getD_putD_same, if_pos (Nat.lt_succ_self n)]
    · rw [getD_putD_ne hl hRise, hGet]
      exact if_congr (by omega) rfl rfl

/-! ### Combining a partial into a register (R91) -/

/-- Words added at the keys of a list where the mask lets them. -/
theorem getD_foldl_putD (on : Nat → Bool) (l : Nat) : ∀ {qs m : SMap Int}, keysRise qs → keysRise m →
    SMap.getD (qs.foldl (fun m q => if on q.1 then SMap.putD m q.1 0 (wrap96 (SMap.getD m q.1 0 + q.2)) else m) m) l 0
      = match SMap.get? qs l with
        | some x => if on l then wrap96 (SMap.getD m l 0 + x) else SMap.getD m l 0
        | none => SMap.getD m l 0
  | [], _, _, _ => rfl
  | (k, x) :: rest, m, hqs, hm => by
    have hRest := List.pairwise_cons.mp hqs
    have hNext : keysRise (if on k then SMap.putD m k 0 (wrap96 (SMap.getD m k 0 + x)) else m) := rise_ite (rise_putD k 0 _ hm) hm
    rw [List.foldl_cons, getD_foldl_putD on l hRest.2 hNext, SMap.get?.eq_def (_ :: _)]
    dsimp only
    by_cases hk : k = l
    · subst hk
      rw [if_pos rfl, get?_below fun p hp => hRest.1 p hp]
      dsimp only
      split
      · rw [getD_putD_same]
      · rfl
    · rw [if_neg hk]
      have hSame : SMap.getD (if on k then SMap.putD m k 0 (wrap96 (SMap.getD m k 0 + x)) else m) l 0 = SMap.getD m l 0 := by
        split
        · exact getD_putD_ne (Ne.symm hk) hm 0 _ 0
        · rfl
      rw [hSame]
      by_cases hBelow : l < k
      · rw [if_pos hBelow, get?_below fun p hp => Nat.lt_trans hBelow (hRest.1 p hp)]
      · rw [if_neg hBelow]

section
variable {on : Nat → Bool} {v p : LReg}

theorem combine_leading : (v.combine on p).1.leading = max v.leading p.leading := by
  change (v.raise (max v.leading p.leading)).1.leading = _
  rw [raise_leading, max_eq_right (le_max_left _ _)]

theorem getD_combine (hv : keysRise v.lanes) (hp : keysRise p.lanes) (hSparse : Sparse p.lanes) (l : Nat) :
    SMap.getD (v.combine on p).1.lanes l 0 =
      if on l && alignedTo (max v.leading p.leading) p.leading (SMap.getD p.lanes l 0) != 0 then
        wrap96 (alignedTo (max v.leading p.leading) v.leading (SMap.getD v.lanes l 0)
          + alignedTo (max v.leading p.leading) p.leading (SMap.getD p.lanes l 0))
      else alignedTo (max v.leading p.leading) v.leading (SMap.getD v.lanes l 0) := by
  have hFold := getD_foldl_putD on l (rise_raise (max v.leading p.leading) hp) (rise_raise (max v.leading p.leading) hv)
  rw [get?_of_sparse (sparse_raise hSparse _), getD_raise _ hv, getD_raise _ hp] at hFold
  refine Eq.trans hFold ?_
  by_cases hZero : alignedTo (max v.leading p.leading) p.leading (SMap.getD p.lanes l 0) = 0
  · simp [hZero]
  · simp [hZero]

end

section
variable {s : State} {cell : Nat} {f : VFields}

theorem vStep_ald (hw : f.w < 3) (s : State) : vStep [] cell (VRun.start s) { op := .ald, f := f } = vAld [] cell f (VRun.start s) :=
  vStep_of_legal (mem_range_three hw) rfl rfl rfl

/-- The register without its inactive lanes, under zeroing (R151). -/
def aldBase (s : State) (cell : Nat) (f : VFields) : LReg :=
  if f.zeroing then { lregOf s cell f.vd with lanes := (lregOf s cell f.vd).lanes.filter (fun q => laneOn s cell f q.1) } else lregOf s cell f.vd

/-- What ALD leaves of register vd. -/
def aldReg (s : State) (cell : Nat) (f : VFields) : LReg :=
  if (aldBase s cell f).joins (readPartial s cell f.addr.toNat)
    then ((aldBase s cell f).combine (laneOn s cell f) (readPartial s cell f.addr.toNat)).1 else aldBase s cell f

theorem rise_aldBase (hm : keysRise (lregOf s cell f.vd).lanes) : keysRise (aldBase s cell f).lanes := by
  unfold aldBase
  split
  · exact rise_filter hm
  · exact hm

theorem getD_aldBase (hm : keysRise (lregOf s cell f.vd).lanes) (l : Nat) : SMap.getD (aldBase s cell f).lanes l 0
    = if laneOn s cell f l || !f.zeroing then SMap.getD (lregOf s cell f.vd).lanes l 0 else 0 := by
  unfold aldBase
  split
  next h => rw [getD_filter_key (laneOn s cell f) l 0 hm]; simp [h]
  next h => simp [h]

theorem vAld_eq (hEnd : f.addr.toNat + 1600 ≤ 2 ^ 23) : ∃ g : State → State, vAld [] cell f (VRun.start s) = (touchLong [] cell f.vd (VRun.start s)).on g
    ∧ lregOf (g s) cell f.vd = aldReg s cell f := by
  unfold vAld
  dsimp only
  rw [if_neg (by rw [lanePartialBytes, p2_eq]; omega)]
  refine ⟨_, rfl, ?_⟩
  unfold aldReg
  by_cases hJoins : (aldBase s cell f).joins (readPartial s cell f.addr.toNat) = true
  · rw [if_pos hJoins, if_neg (by rw [← aldBase, hJoins]; decide), lregOf_statBelow, lregOf_setLreg_same, ← aldBase]
  · rw [if_neg hJoins, if_pos (by rw [← aldBase]; simpa using hJoins), lregOf_setLreg_same, ← aldBase]

theorem exec_ald (hw : f.w < 3) (hEnd : f.addr.toNat + 1600 ≤ 2 ^ 23) (hRuns : vectorRuns s cell { op := .ald, f := f } = true) :
    completes (.ald cell f) s (fun t => lregOf t cell f.vd = aldReg s cell f) := by
  obtain ⟨g, hRun, hReg⟩ := vAld_eq (s := s) (cell := cell) hEnd
  have hExec := exec_vecCmd_of_clean hRuns (by rw [vStep_ald hw, hRun]; exact touchLong_ok _ _ _ _)
    (by rw [vStep_ald hw, hRun]; exact touchLong_need _ _ _ _)
  rw [vStep_ald hw, hRun, VRun.on_s, touchLong_nil_s] at hExec
  exact ⟨_, hExec, hReg⟩

theorem aldBase_joins (p : LReg) : (aldBase s cell f).joins p = (lregOf s cell f.vd).joins p := by
  unfold aldBase
  split <;> rfl

theorem aldBase_fields : (aldBase s cell f).leading = (lregOf s cell f.vd).leading ∧ (aldBase s cell f).poison = (lregOf s cell f.vd).poison
    ∧ (aldBase s cell f).releaded = (lregOf s cell f.vd).releaded ∧ (aldBase s cell f).ks = (lregOf s cell f.vd).ks := by
  unfold aldBase
  split <;> exact ⟨rfl, rfl, rfl, rfl⟩

/-- A lane partial lists each lane's long word. -/
theorem readPartial_lanes (s : State) (cell a : Nat) : keysRise (readPartial s cell a).lanes ∧ Sparse (readPartial s cell a).lanes
    ∧ ∀ l, SMap.getD (readPartial s cell a).lanes l 0 = if l < 128 then signExt 96 (leNat (caseBytes s cell (a + (64 + 12 * l)) 12)) else 0 := by
  simp only [readPartial]
  exact lanes_of_puts _ _

/-! ### Storing a partial (R93) -/

/-- The head of a long tile: its leading, its flags and the rest up to byte 64. -/
def LTile.head (t : LTile) : List Byte := t.bytes.take 64

theorem length_head (t : LTile) : (LTile.head t).length = 64 := by
  simp only [LTile.head, LTile.bytes, leBytesI, zeros, List.length_take, List.length_append, length_leBytes, List.length_replicate]
  omega

theorem bytes_eq_cons (t : LTile) : ∃ rest, t.bytes = leBytesI 1 t.leading
    ++ (leBytes 1 (bitAt t.nonfinite 0 + bitAt t.below 1 + bitAt t.releaded 2 + bitAt t.rounded 3) ++ rest) := by
  simp only [LTile.bytes, List.append_assoc]
  exact ⟨_, rfl⟩

theorem head_zero (t : LTile) : [(LTile.head t).getD 0 0] = leBytesI 1 t.leading := by
  obtain ⟨rest, h⟩ := bytes_eq_cons t
  rw [LTile.head, h]
  rfl

theorem bit_flags : ∀ a b c d : Bool, bitOf (BitVec.ofNat 8 (bitAt a 0 + bitAt b 1 + bitAt c 2 + bitAt d 3)).toNat 0 = a := by decide

theorem head_poison (t : LTile) : bitOf ((LTile.head t).getD 1 0).toNat 0 = t.nonfinite := by
  obtain ⟨rest, h⟩ := bytes_eq_cons t
  rw [LTile.head, h]
  exact bit_flags _ _ _ _

/-- The lanes that AST writes: the active ones, and under zeroing all. -/
def astLanes (s : State) (cell : Nat) (f : VFields) : List Nat := (List.range 128).filter (fun l => laneOn s cell f l || f.zeroing)

/-- What AST writes of a lane. -/
def astLane (s : State) (cell : Nat) (f : VFields) (l : Nat) : List Byte :=
  if laneOn s cell f l then leBytesI 12 (SMap.getD (lregOf s cell f.va).lanes l 0) else zeros 12

@[simp] theorem length_astLane (l : Nat) : (astLane s cell f l).length = 12 := by
  unfold astLane
  split
  · exact length_leBytes _ _
  · exact List.length_replicate

theorem mem_astLanes {l : Nat} : l ∈ astLanes s cell f ↔ l < 128 ∧ (laneOn s cell f l || f.zeroing) = true := by
  rw [astLanes, List.mem_filter, List.mem_range]

/-- AST writes the head of a partial and then the lanes. -/
theorem vAst_eq (hEnd : f.addr.toNat + 1600 ≤ 2 ^ 23) : ∃ (g : State → State) (u : State) (tile : LTile),
    vAst [] cell f (VRun.start s) = (touchLong [] cell f.va (VRun.start s)).on g
    ∧ g s = ownWrites cell (fun l => f.addr.toNat + 64 + 12 * l) (astLane s cell f) (astLanes s cell f)
        (caseWrite .own cell f.addr.toNat (LTile.head tile) u)
    ∧ u.caseMem = s.caseMem ∧ tile.leading = (lregOf s cell f.va).leading ∧ tile.nonfinite = (lregOf s cell f.va).poison := by
  have hLanes : ∀ u, (List.range 128).foldl (fun s' l =>
      if laneOn s cell f l then caseWrite .own cell (f.addr.toNat + 64 + 12 * l) (leBytesI 12 (SMap.getD (lregOf s cell f.va).lanes l 0)) s'
      else if f.zeroing then caseWrite .own cell (f.addr.toNat + 64 + 12 * l) (zeros 12) s' else s') u
      = ownWrites cell (fun l => f.addr.toNat + 64 + 12 * l) (astLane s cell f) (astLanes s cell f) u := by
    intro u
    rw [ownWrites, astLanes, List.foldl_filter]
    refine List.foldl_ext _ _ _ fun s' l _ => ?_
    unfold astLane
    cases laneOn s cell f l <;> simp
  have hLate : (touchLong [] cell f.va (VRun.start s)).late f.va = false := by
    rw [VRun.late, touchLong_need]
    rfl
  unfold vAst
  dsimp only
  rw [if_neg (by rw [lanePartialBytes, p2_eq]; omega), if_neg (by simp [hLate])]
  refine ⟨_, _, _, rfl, hLanes _, ?_, rfl, rfl⟩
  split <;> rfl

/-- A list read index by index. -/
theorem map_getD_range {α : Type} (d : α) (l : List α) : (List.range l.length).map (fun i => l.getD i d) = l :=
  List.ext_getElem (by simp) fun i hi _ => by simp [List.getD_eq_getElem?_getD, List.getElem?_eq_getElem (by simpa using hi)]

/-- The pages of a lane partial. -/
def partialPages (A : Nat) : List Nat := [A / 4096, A / 4096 + 1]

theorem mem_partialPages {A off n p : Nat} (hLow : A ≤ off) (hHigh : off + n ≤ A + 1600) (h : p ∈ pagesOf 4096 off n) : p ∈ partialPages A := by
  obtain ⟨h₁, h₂, h₃⟩ := mem_pagesOf_bounds h
  simp only [partialPages, List.mem_cons, List.not_mem_nil, or_false]
  omega

/-- The head and the lanes, as one own write. -/
theorem ast_written {u : State} {head : List Byte} (hHead : head.length = 64) (hEnd : f.addr.toNat + 1600 ≤ 2 ^ 23)
    (hFits : ShadowFits (partialPages f.addr.toNat) cell u) :
    OwnWritten (partialPages f.addr.toNat) cell
      (fun c o => inWrite cell f.addr.toNat 64 c o ∨ ∃ l ∈ astLanes s cell f, inWrite cell (f.addr.toNat + 64 + 12 * l) 12 c o)
      (fun o => if o < f.addr.toNat + 64 then head.getD (o - f.addr.toNat) 0
        else (astLane s cell f ((o - (f.addr.toNat + 64)) / 12)).getD ((o - (f.addr.toNat + 64)) % 12) 0) u
      (ownWrites cell (fun l => f.addr.toNat + 64 + 12 * l) (astLane s cell f) (astLanes s cell f) (caseWrite .own cell f.addr.toNat head u)) := by
  have hFirst := caseWrite_own_written (off := f.addr.toNat) (bytes := head) hFits (by omega)
    (fun p hp => mem_partialPages (le_refl _) (by omega) hp)
  rw [hHead] at hFirst
  refine (hFirst.congr (fun _ _ => Iff.rfl) fun c o hIn => ?_).trans ?_
  · rw [if_pos hIn.2.2]
  · have hRest := ownWrites_written (cell := cell) (place := fun l => f.addr.toNat + 64 + 12 * l) (piece := astLane s cell f)
      (byte := fun o => if o < f.addr.toNat + 64 then head.getD (o - f.addr.toNat) 0
        else (astLane s cell f ((o - (f.addr.toNat + 64)) / 12)).getD ((o - (f.addr.toNat + 64)) % 12) 0) (astLanes s cell f) hFirst.fits
      (fun l hl => by
        have := (mem_astLanes.mp hl).1
        rw [length_astLane]
        omega)
      (fun l hl p hp => by
        have := (mem_astLanes.mp hl).1
        rw [length_astLane] at hp
        exact mem_partialPages (by omega) (by omega) hp)
      (fun l hl c o hIn => by
        obtain ⟨-, hLow, hHigh⟩ := hIn
        rw [length_astLane] at hHigh
        rw [if_neg (by omega), show (o - (f.addr.toNat + 64)) / 12 = l by omega,
          show (o - (f.addr.toNat + 64)) % 12 = o - (f.addr.toNat + 64 + 12 * l) by omega])
    simpa only [length_astLane] using hRest

theorem vStep_ast (hw : f.w < 3) (s : State) : vStep [] cell (VRun.start s) { op := .ast, f := f } = vAst [] cell f (VRun.start s) :=
  vStep_of_legal (mem_range_three hw) rfl rfl rfl

/-- The bytes of a lane behind AST. -/
theorem caseBytes_astLane {u t : State} {head : List Byte} (hEnd : f.addr.toNat + 1600 ≤ 2 ^ 23) (hKept : ∀ c o, caseByte u c o = caseByte s c o)
    (h : OwnWritten (partialPages f.addr.toNat) cell
      (fun c o => inWrite cell f.addr.toNat 64 c o ∨ ∃ l ∈ astLanes s cell f, inWrite cell (f.addr.toNat + 64 + 12 * l) 12 c o)
      (fun o => if o < f.addr.toNat + 64 then head.getD (o - f.addr.toNat) 0
        else (astLane s cell f ((o - (f.addr.toNat + 64)) / 12)).getD ((o - (f.addr.toNat + 64)) % 12) 0) u t) {l : Nat} (hl : l < 128) :
    caseBytes t cell (f.addr.toNat + 64 + 12 * l) 12 = if laneOn s cell f l then leBytesI 12 (SMap.getD (lregOf s cell f.va).lanes l 0)
      else if f.zeroing then zeros 12 else caseBytes s cell (f.addr.toNat + 64 + 12 * l) 12 := by
  by_cases hLive : l ∈ astLanes s cell f
  · have hBytes : caseBytes t cell (f.addr.toNat + 64 + 12 * l) 12 = astLane s cell f l := by
      rw [← map_getD_range 0 (astLane s cell f l), length_astLane]
      refine List.map_congr_left fun i hi => ?_
      have hi := List.mem_range.mp hi
      rw [h.written cell _ (by omega) (.inr ⟨l, hLive, rfl, by omega, by omega⟩), if_neg (by omega),
        show (f.addr.toNat + 64 + 12 * l + i - (f.addr.toNat + 64)) / 12 = l by omega,
        show (f.addr.toNat + 64 + 12 * l + i - (f.addr.toNat + 64)) % 12 = i by omega]
    rw [hBytes, astLane]
    by_cases hOn : laneOn s cell f l = true
    · rw [if_pos hOn, if_pos hOn]
    · rw [if_neg hOn, if_neg hOn, if_pos (by simpa [hOn] using (mem_astLanes.mp hLive).2)]
  · have hOff : ¬ (laneOn s cell f l || f.zeroing) = true := fun hOn => hLive (mem_astLanes.mpr ⟨hl, hOn⟩)
    simp only [Bool.or_eq_true, not_or] at hOff
    rw [if_neg hOff.1, if_neg hOff.2]
    refine caseBytes_congr fun o hLow hHigh => ?_
    rw [h.other cell o (by omega), hKept]
    rintro (⟨-, -, hIn⟩ | ⟨k, hk, -, hkLow, hkHigh⟩)
    · omega
    · exact hLive ((show k = l by omega) ▸ hk)

theorem exec_ast (hw : f.w < 3) (hEnd : f.addr.toNat + 1600 ≤ 2 ^ 23) (hRuns : vectorRuns s cell { op := .ast, f := f } = true)
    (hRoom : shadowRoom s cell 2 = true) : completes (.ast cell f) s (fun t =>
      caseBytes t cell f.addr.toNat 1 = leBytesI 1 (lregOf s cell f.va).leading
      ∧ bitOf (caseByte t cell (f.addr.toNat + 1)).toNat 0 = (lregOf s cell f.va).poison
      ∧ (∀ l, l < 128 → caseBytes t cell (f.addr.toNat + 64 + 12 * l) 12
          = if laneOn s cell f l then leBytesI 12 (SMap.getD (lregOf s cell f.va).lanes l 0) else if f.zeroing then zeros 12
            else caseBytes s cell (f.addr.toNat + 64 + 12 * l) 12)
      ∧ (∀ c off, off < 2 ^ 23 → (c = cell ∧ f.addr.toNat ≤ off ∧ off < f.addr.toNat + 1600) ∨ caseByte t c off = caseByte s c off)
      ∧ t.caseMem.mem = s.caseMem.mem) := by
  obtain ⟨g, u, tile, hRun, hState, hCase, hLead, hPoison⟩ := vAst_eq (s := s) (cell := cell) hEnd
  have hExec := exec_vecCmd_of_clean hRuns (by rw [vStep_ast hw, hRun]; exact touchLong_ok _ _ _ _)
    (by rw [vStep_ast hw, hRun]; exact touchLong_need _ _ _ _)
  rw [vStep_ast hw, hRun, VRun.on_s, touchLong_nil_s, hState] at hExec
  have hKept : ∀ c o, caseByte u c o = caseByte s c o := fun c o => by rw [caseByte, hCase, caseByte]
  have hFits : ShadowFits (partialPages f.addr.toNat) cell u := (ShadowFits.of_room hRoom (by simp [partialPages])).congr hCase
  have h := ast_written (s := s) (length_head tile) hEnd hFits
  refine ⟨_, hExec, ?_, ?_, fun l hl => caseBytes_astLane hEnd hKept h hl, fun c off ho => ?_, h.mem.trans (by rw [hCase])⟩
  · have hByte := h.written cell f.addr.toNat (by omega) (.inl ⟨rfl, by omega, by omega⟩)
    rw [if_pos (by omega), Nat.sub_self] at hByte
    rw [← hLead, ← head_zero, caseBytes, List.range_one, List.map_singleton]
    exact congrArg ([·]) hByte
  · rw [h.written cell _ (by omega) (.inl ⟨rfl, by omega, by omega⟩), if_pos (by omega), Nat.add_sub_cancel_left, head_poison, hPoison]
  · refine (Classical.em _).imp id fun hOut => ?_
    rw [h.other c off ho, hKept]
    rintro (⟨hCell, hLow, hHigh⟩ | ⟨l, hl, hCell, hLow, hHigh⟩)
    · exact hOut ⟨hCell, hLow, by omega⟩
    · have := (mem_astLanes.mp hl).1
      exact hOut ⟨hCell, by omega, by omega⟩

theorem exec_partial_of_beyond (hBeyond : 2 ^ 23 < f.addr.toNat + 1600) : exec (.ald cell f) s = .next s ∧ exec (.ast cell f) s = .next s := by
  have hPast : f.addr.toNat + lanePartialBytes > p2 23 := by
    rw [lanePartialBytes, p2_eq]
    exact hBeyond
  exact ⟨exec_vecCmd_of_stops (op := .ald) rfl (by unfold vAld; dsimp only; rw [if_pos hPast]; rfl),
    exec_vecCmd_of_stops (op := .ast) rfl (by unfold vAst; dsimp only; rw [if_pos hPast]; rfl)⟩

end

/-- Settles O17. ALD combines word by word the sparse lanes of the partial; AST is a head and lanes that are own writes in two pages. -/
theorem lanePartials : Obligations.LanePartials := by
  unfold Obligations.LanePartials
  refine ⟨fun s cell f _ hBeyond => exec_partial_of_beyond hBeyond, fun s cell f hw hEnd => ⟨fun hRuns hm => ?_, fun hRuns hRoom => ?_⟩⟩
  · intro v p n pl lead own
    obtain ⟨t, hExec, hReg⟩ := exec_ald hw hEnd hRuns
    obtain ⟨hLead, hPoison, hReleaded, hKs⟩ := aldBase_fields (s := s) (cell := cell) (f := f)
    obtain ⟨hRise, hSparse, hWords⟩ := readPartial_lanes s cell f.addr.toNat
    refine ⟨t, hExec, fun hJoins => ?_, fun hApart => ?_⟩
    · rw [hReg, aldReg, if_pos (by rw [aldBase_joins]; exact hJoins)]
      refine ⟨?_, congrArg (· || p.poison) hPoison, congrArg (· || p.releaded) hReleaded, congrArg (ksUnion · p.ks) hKs, fun l hl => ?_⟩
      · rw [combine_leading, hLead]
        rfl
      · rw [getD_combine (rise_aldBase hm) hRise hSparse, getD_aldBase hm, hLead, hWords, if_pos hl]
        rfl
    · rw [hReg, aldReg, if_neg (by rw [aldBase_joins]; exact Bool.eq_false_iff.mp hApart)]
      exact ⟨hLead, hPoison, fun l => getD_aldBase hm l⟩
  · exact exec_ast hw hEnd hRuns hRoom

end Sys2Proof.Machine
end

section
/-! PROOFS. The obligation on vector items (R38, R148, R152, R162). -/

namespace Sys2Proof.Machine
open Sys2Proof

/-! ### Runs that differ only in what they have noted

A first run of an item goes on with the leadings noted by the instructions before; one that starts afresh has noted nothing. What a run makes of
the state, whether it stops, and which registers ask for a raise are the same. -/

structure Alike (x y : VRun) : Prop where
  state : x.s = y.s
  ok : x.ok = y.ok
  late : ∀ r, x.late r = y.late r

section
variable {x y : VRun} {cell : Nat} {f : VFields} (h : Alike x y)
include h

theorem Alike.on (g : State → State) : Alike (x.on g) (y.on g) := ⟨congrArg g h.state, h.ok, h.late⟩

theorem Alike.stop : Alike x.stop y.stop := ⟨h.state, rfl, h.late⟩

theorem Alike.touchLong (r : Nat) : Alike (touchLong [] cell r x) (touchLong [] cell r y) where
  state := by rw [touchLong_nil_s, touchLong_nil_s, h.state]
  ok := by rw [touchLong_ok, touchLong_ok, h.ok]
  late c := by rw [VRun.late, touchLong_need, VRun.late, touchLong_need]; exact h.late c

/-- A value does to both what its register and its size say. -/
theorem Alike.addLong (r l : Nat) (w : W32) : Alike (addLong [] cell r l w x) (addLong [] cell r l w y) := by
  have hTouch := h.touchLong (cell := cell) r
  unfold Machine.addLong
  generalize Machine.touchLong [] cell r x = x' at hTouch ⊢
  generalize Machine.touchLong [] cell r y = y' at hTouch ⊢
  dsimp only
  rw [hTouch.state]
  split
  · exact hTouch.on _
  · split
    · exact hTouch.on _
    · split
      · exact hTouch.on _
      · refine ⟨rfl, hTouch.ok, fun c => ?_⟩
        simp only [VRun.late, SMap.modify]
        by_cases hc : c = r
        · rw [hc, get?_put_same, get?_put_same]; rfl
        · rw [get?_put_ne hc, get?_put_ne hc]
          exact hTouch.late c

/-! ### Each instruction does the same to both -/

theorem Alike.vLd : Alike (vLd cell f x) (vLd cell f y) := by
  unfold Machine.vLd
  split
  · exact h.stop
  · exact h.on _

theorem Alike.vSt : Alike (vSt cell f x) (vSt cell f y) := by
  unfold Machine.vSt
  split
  · exact h.stop
  · exact h.on _

theorem Alike.vLdg : Alike (vLdg cell f x) (vLdg cell f y) := by
  unfold Machine.vLdg
  dsimp only
  rw [h.state]
  split
  · exact h.stop
  · exact h.on _

theorem Alike.vTopkm : Alike (vTopkm cell f x) (vTopkm cell f y) := by
  unfold Machine.vTopkm
  dsimp only
  split
  · exact h.stop
  · exact h.on _

theorem Alike.vAzero : Alike (vAzero [] cell f x) (vAzero [] cell f y) := by
  unfold Machine.vAzero
  exact ⟨congrArg (setLreg cell f.vd _) h.state, h.ok, h.late⟩

theorem Alike.vAadd : Alike (vAadd [] cell f x) (vAadd [] cell f y) := by
  unfold Machine.vAadd
  dsimp only
  rw [h.state]
  refine List.foldl_rel ?_ fun l _ x' y' h' => ?_
  · split
    · exact (h.touchLong f.vd).on _
    · exact h
  · split
    · exact h'.addLong _ _ _
    · exact h'

theorem Alike.vAfold : Alike (vAfold [] cell f x) (vAfold [] cell f y) := (h.touchLong f.vd).on _

theorem Alike.vAround : Alike (vAround [] cell f x) (vAround [] cell f y) := by
  unfold Machine.vAround
  rw [h.late]
  split
  · exact h
  · exact (h.touchLong f.va).on _

theorem Alike.vAld : Alike (vAld [] cell f x) (vAld [] cell f y) := by
  unfold Machine.vAld
  dsimp only
  split
  · exact (h.touchLong f.vd).stop
  · exact (h.touchLong f.vd).on _

theorem Alike.vAst : Alike (vAst [] cell f x) (vAst [] cell f y) := by
  have hTouch := h.touchLong (cell := cell) f.va
  unfold Machine.vAst
  dsimp only
  rw [hTouch.late]
  split
  · exact hTouch.stop
  · split
    · exact hTouch
    · exact hTouch.on _

omit h in
/-- One lane of ASCAN gives both the same result. -/
theorem scanLane_alike {a : List W32} {on seg : List Bool} {p q : VRun × List Nat} (l : Nat) (h : Alike p.1 q.1 ∧ p.2 = q.2) :
    Alike (scanLane [] cell f a on seg p l).1 (scanLane [] cell f a on seg q l).1
      ∧ (scanLane [] cell f a on seg p l).2 = (scanLane [] cell f a on seg q l).2 := by
  obtain ⟨h, hOut⟩ := h
  have hLane : Alike (scanLane [] cell f a on seg p l).1 (scanLane [] cell f a on seg q l).1 := by
    unfold scanLane
    dsimp only
    split <;> split
    · exact (h.on _).addLong _ _ _
    · exact h.addLong _ _ _
    · exact h.on _
    · exact h
  have hPair : ∀ z : VRun × List Nat, (scanLane [] cell f a on seg z l).2 = z.2 ++ [if (scanLane [] cell f a on seg z l).1.late f.vb
      then (lanesOf 0 (vregOf (scanLane [] cell f a on seg z l).1.s cell f.vd)).getD l 0
      else (roundLong (lregOf (scanLane [] cell f a on seg z l).1.s cell f.vb) 0).toNat] := fun _ => rfl
  refine ⟨hLane, ?_⟩
  rw [hPair, hPair, hLane.state, hLane.late, hOut]

theorem Alike.vAscan : Alike (vAscan [] cell f x) (vAscan [] cell f y) := by
  unfold Machine.vAscan
  dsimp only
  rw [h.state]
  have hLanes := List.foldl_rel (l := List.range 128) (r := fun p q : VRun × List Nat => Alike p.1 q.1 ∧ p.2 = q.2)
    (f := scanLane [] cell f (lanesF 0 (vregOf y.s cell f.va)) ((List.range 128).map fun l => laneOn y.s cell f l) (segStarts y.s cell f))
    (a := (Machine.touchLong [] cell f.vb x, [])) (b := (Machine.touchLong [] cell f.vb y, [])) ⟨h.touchLong f.vb, rfl⟩
    fun l _ p q => scanLane_alike l
  rw [hLanes.2]
  exact hLanes.1.on _

omit h in
/-- Rows of two ligatures that hold the same. -/
def SameRow (p q : LigRow) : Prop := Alike p.x q.x ∧ p.t = q.t ∧ p.o0 = q.o0 ∧ p.o1 = q.o1

omit h in
theorem ligOperand_congr {p q : LigRow} (h : SameRow p q) (d : LigDesc) (i : Nat) : ligOperand cell d i p = ligOperand cell d i q := by
  obtain ⟨hx, ht, -⟩ := h
  funext sel
  unfold ligOperand
  rw [hx.state, ht]

theorem Alike.ligAccr (d : LigDesc) (act : List Bool) (i mod : Nat) (a : List W32) :
    Alike (ligAccr [] cell d act i mod a x) (ligAccr [] cell d act i mod a y) := by
  unfold Machine.ligAccr
  dsimp only
  split
  · refine List.foldl_rel h fun l _ x' y' h' => ?_
    split
    · exact h'.addLong _ _ _
    · exact h'
  · exact h.on _

omit h in
theorem ligStep_same {p q : LigRow} (h : SameRow p q) (d : LigDesc) (act : List Bool) (i word : Nat) :
    SameRow (ligStep [] cell d act i p word) (ligStep [] cell d act i q word) := by
  have hOperand := ligOperand_congr (cell := cell) h d i
  obtain ⟨hx, ht, h0, h1⟩ := h
  unfold ligStep
  dsimp only
  rw [hOperand]
  split
  · exact ⟨hx.ligAccr d act i _ _, ht, h0, h1⟩
  · split
    · exact ⟨hx, ht, rfl, h1⟩
    · split
      · exact ⟨hx, ht, h0, rfl⟩
      · exact ⟨hx, congrArg (SMap.put · _ _) ht, h0, h1⟩

theorem Alike.ligRows (d : LigDesc) (act : List Bool) :
    Alike (ligRows [] cell d act x).1 (ligRows [] cell d act y).1 ∧ (ligRows [] cell d act x).2 = (ligRows [] cell d act y).2 := by
  unfold Machine.ligRows
  refine List.foldl_rel (r := fun p q : VRun × List (List W32) × List (List W32) => Alike p.1 q.1 ∧ p.2 = q.2) ⟨h, rfl⟩ fun i _ p q hpq => ?_
  obtain ⟨hx, hOut⟩ := hpq
  have hRow : SameRow (d.program.foldl (ligStep [] cell d act i) { x := p.1, t := [], o0 := [], o1 := [] })
      (d.program.foldl (ligStep [] cell d act i) { x := q.1, t := [], o0 := [], o1 := [] }) :=
    List.foldl_rel ⟨hx, rfl, rfl, rfl⟩ fun word _ p' q' h' => ligStep_same h' d act i word
  obtain ⟨hx', -, h0, h1⟩ := hRow
  refine ⟨hx', ?_⟩
  dsimp only
  rw [h0, h1, hOut]

theorem Alike.vLig : Alike (vLig [] cell f x) (vLig [] cell f y) := by
  unfold Machine.vLig
  dsimp only
  rw [h.state]
  split
  · exact h.stop
  · obtain ⟨hRun, hOut⟩ := h.ligRows (cell := cell) (readLig y.s cell f.addr.toNat)
      ((List.range 128).map fun j => (mregOf y.s cell (readLig y.s cell f.addr.toNat).colMask).getLsbD j)
    rw [hOut]
    exact hRun.on _

/-- An instruction that no raise reaches does the same to both. -/
theorem Alike.vStep (i : VInstr) : Alike (vStep [] cell x i) (vStep [] cell y i) := by
  obtain ⟨op, f⟩ := i
  unfold Machine.vStep
  dsimp only
  rw [h.ok]
  split
  · exact h.stop
  cases op with
  | ld => exact h.vLd
  | st => exact h.vSt
  | ldg => exact h.vLdg
  | azero => exact h.vAzero
  | aadd => exact h.vAadd
  | afold => exact h.vAfold
  | around => exact h.vAround
  | ascan => exact h.vAscan
  | ald => exact h.vAld
  | ast => exact h.vAst
  | lig => exact h.vLig
  | topkm => exact h.vTopkm
  | _ => exact h.on _

end

theorem Alike.trans {x y z : VRun} (h : Alike x y) (h' : Alike y z) : Alike x z :=
  ⟨h.state.trans h'.state, h.ok.trans h'.ok, fun r => (h.late r).trans (h'.late r)⟩

/-- A run that stops on nothing and asks for no raise is like one that starts from its state. -/
theorem alike_start {x : VRun} (hOk : x.ok = true) (hNeed : x.need = []) : Alike x (VRun.start x.s) :=
  ⟨rfl, hOk, fun r => by rw [VRun.late, hNeed]; rfl⟩

/-- It asks for a raise of some register, or for none. -/
theorem need_eq_nil_of_late {x : VRun} (h : ∀ r, x.late r = false) : x.need = [] := by
  cases hNeed : x.need with
  | nil => rfl
  | cons p rest =>
    have hHead := h p.1
    rw [VRun.late, hNeed, SMap.get?, if_pos rfl] at hHead
    cases hHead

theorem Alike.need_eq_nil {x : VRun} {s : State} (h : Alike x (VRun.start s)) : x.need = [] := need_eq_nil_of_late fun r => h.late r

/-! ### Items -/

section
variable {cell : Nat} {prog : List VInstr} {s : State}

/-- What a clean instruction does on its own. -/
theorem after_of_clean {i : VInstr} (h : runsClean cell i s = true) : (vStep [] cell (VRun.start s) i).ok = true
    ∧ (vStep [] cell (VRun.start s) i).need = [] ∧ after (vecCmd i.op cell i.f) s = (vStep [] cell (VRun.start s) i).s := by
  simp only [runsClean, Bool.and_eq_true, List.isEmpty_iff] at h
  obtain ⟨⟨hRuns, hOk⟩, hNeed⟩ := h
  refine ⟨hOk, hNeed, ?_⟩
  rw [after, exec_vecCmd_of_clean (op := i.op) (f := i.f) hRuns hOk hNeed]

/-- A program whose instructions each run clean at their turn does what they do one after another. -/
theorem foldl_vStep_of_clean {x : VRun} (hx : Alike x (VRun.start s)) (h : programClean cell prog s = true) :
    Alike (prog.foldl (vStep [] cell) x) (VRun.start (prog.foldl (fun s i => after (vecCmd i.op cell i.f) s) s)) := by
  induction prog generalizing s x with
  | nil => exact hx
  | cons i rest ih =>
    obtain ⟨hClean, hRest⟩ := Bool.and_eq_true_iff.mp h
    obtain ⟨hOk, hNeed, hAfter⟩ := after_of_clean hClean
    refine ih ((hx.vStep i).trans ?_) hRest
    beta_reduce
    rw [hAfter]
    exact alike_start hOk hNeed

/-- The end of a vector item: its marked galley slots are freed and a waiting drain goes on. -/
def itemEnd (cell : Nat) (prog : List VInstr) (t : State) : State := wakeDrain cell (onEng cell freeSlots (finishItem cell (.vector prog) t))

theorem exec_vectorItem {t : State} (h : runVectorItem cell prog s = t) : exec (.vectorItem cell prog) s = .next t :=
  effect_eq_next h (h ▸ (runVectorItem_does cell prog s).pending_eq)

theorem exec_vectorItem_of_none (h : mayRun s cell (.vector prog) = false ∨ runVector cell prog s = none) : exec (.vectorItem cell prog) s = .next s := by
  refine exec_vectorItem ?_
  have hNone : (if mayRun s cell (.vector prog) then runVector cell prog s else none) = none := by
    rcases h with h | h
    · exact if_neg (by simp [h])
    · rw [h, ite_self]
  rw [runVectorItem, hNone]

theorem exec_vectorItem_of_some {t : State} (hMay : mayRun s cell (.vector prog) = true) (h : runVector cell prog s = some t) :
    exec (.vectorItem cell prog) s = .next (itemEnd cell prog t) := by
  refine exec_vectorItem ?_
  rw [runVectorItem, if_pos hMay, h]
  rfl

/-- The program of an item with its repeats. -/
theorem runVector_eq_repeats {r : SMap Nat × List (Nat × Int)}
    (hr : repeatsOf (fun delta => prog.foldl (vStep delta cell) (VRun.start s)) 1099 [] [] = r) :
    runVector cell prog s = if (prog.foldl (vStep r.1 cell) (VRun.start s)).ok = true ∧ (prog.foldl (vStep r.1 cell) (VRun.start s)).need = []
      then some (countReleads r.2 (prog.foldl (vStep r.1 cell) (VRun.start s)).s) else none := by
  rw [runVector, runProgram_eq_repeats (run := fun delta => prog.foldl (vStep delta cell) (VRun.start s)) (by intro; rfl), hr]

theorem runVector_of_done (h : (prog.foldl (vStep [] cell) (VRun.start s)).need = [] ∨ (prog.foldl (vStep [] cell) (VRun.start s)).ok = false) :
    runVector cell prog s = if (prog.foldl (vStep [] cell) (VRun.start s)).ok = true ∧ (prog.foldl (vStep [] cell) (VRun.start s)).need = []
      then some (prog.foldl (vStep [] cell) (VRun.start s)).s else none := by
  have hOnce := repeatsOf_of_done (run := fun delta => prog.foldl (vStep delta cell) (VRun.start s)) h 1099 []
  rw [runVector_eq_repeats hOnce]
  rfl

end

/-- Settles O20. The first run of a clean item is, instruction by instruction, like a run that starts afresh. -/
theorem vectorItemRunsInOrder : Obligations.VectorItemRunsInOrder := by
  unfold Obligations.VectorItemRunsInOrder
  refine ⟨fun s cell prog => exec_vectorItem_of_none, fun s cell prog hMay => ?_⟩
  intro run ends
  generalize hr : repeatsOf run 1099 [] [] = r
  refine ⟨fun hClean => ?_, fun hOk hNeed => ?_, fun hStop => ?_⟩
  · have hAlike := foldl_vStep_of_clean (alike_start (x := VRun.start s) rfl rfl) hClean
    have hNeed := hAlike.need_eq_nil
    rw [exec_vectorItem_of_some hMay ((runVector_of_done (.inl hNeed)).trans (if_pos ⟨hAlike.ok, hNeed⟩)), hAlike.state]
    rfl
  · exact exec_vectorItem_of_some hMay ((runVector_eq_repeats hr).trans (if_pos ⟨hOk, hNeed⟩))
  · refine exec_vectorItem_of_none (.inr ((runVector_of_done (.inr hStop)).trans (if_neg fun h => ?_)))
    exact Bool.false_ne_true (hStop.symm.trans h.1)

end Sys2Proof.Machine
end

section
/-! PROOFS. The work of a bezel unit on its stack, and the grant of its slots (R21, R22, R28, R38, R182, R185, R187, R190, R384, R406, R411). -/

namespace Sys2Proof.Machine
open Sys2Proof

/-! ### A unit and its stack (R28, R406, R411) -/

section
variable {unit : Nat} {reads : List HbmUpset} {f : State → State} {s : State}

theorem stackRuns_of_not_unitRuns (h : unitRuns s unit = false) : stackRuns s unit = false := by simp [stackRuns, h]

theorem stackRuns_of_training (h : unit ∈ s.hbm.training) : stackRuns s unit = false := by simp [stackRuns, h]

theorem onStack_of_runs (h : stackRuns s unit = true) : onStack unit reads f s = f s := if_pos h

theorem onStack_of_still (h : unitRuns s unit = false) : onStack unit reads f s = s := by
  simp [onStack, stackRuns_of_not_unitRuns h, h]

theorem onStack_of_training (hUnit : unitRuns s unit = true) (h : unit ∈ s.hbm.training) : onStack unit reads f s = failedReads unit reads s := by
  simp [onStack, stackRuns_of_training h, hUnit]

/-- Work that does nothing in the lock-up does nothing on a stack that stands either. -/
theorem effect_onStack_of_idle (hLock : s.frame.lockUp = true → f s = s)
    (h : unitRuns s unit = false ∨ (stackRuns s unit = true ∧ s.frame.lockUp = true)) : effect (onStack unit reads f) s = .next s := by
  refine effect_of_eq ?_
  rcases h with hStill | ⟨hStack, hLocked⟩
  · exact onStack_of_still hStill
  · exact (onStack_of_runs hStack).trans (hLock hLocked)

theorem effect_onStack_of_training (hUnit : unitRuns s unit = true) (h : unit ∈ s.hbm.training) :
    effect (onStack unit reads f) s = .next (failedReads unit reads s) :=
  effect_eq_next (onStack_of_training hUnit h) (failedReads_does unit reads s).pending_eq

end

/-! ### Who takes the slot (R185, R187, R190, R384) -/

section
variable {u : UnitSt} {moved : Nat} {classes free : List ReqClass} {q r : ReqClass} {admitted : Frac}

/-- Scrub takes the slot that it keeps (R185). -/
def ScrubKeeps (u : UnitSt) (classes : List ReqClass) : Prop := classes.contains .scrub = true ∧ 4095 ≤ u.sinceScrub

/-- A migration that waits takes every second slot up to its pages of the frame (R187). -/
def MigrationKeeps (u : UnitSt) (moved : Nat) (classes : List ReqClass) : Prop :=
  classes.contains .migration = true ∧ 1 ≤ u.sinceMig ∧ moved < 64

/-- The requester that the slot goes to: the one that keeps it, else the first in the fixed order. -/
def Picks (u : UnitSt) (moved : Nat) (classes l : List ReqClass) (q : ReqClass) : Prop :=
  (ScrubKeeps u classes ∧ q = .scrub) ∨ (¬ ScrubKeeps u classes ∧ MigrationKeeps u moved classes ∧ q = .migration)
    ∨ (¬ ScrubKeeps u classes ∧ ¬ MigrationKeeps u moved classes ∧ grantOrder.find? (fun r => l.contains r) = some q)

/-- The shares of scrub and migration are judged by all who wait, or by a list that holds the same two of them. -/
theorem grantOf_of_picks (hScrub : free.contains .scrub = classes.contains .scrub) (hMigration : free.contains .migration = classes.contains .migration)
    (h : Picks u moved classes free q) : grantOf u moved free = some q := by
  have hScrubKeeps : (free.contains .scrub && decide (4095 ≤ u.sinceScrub)) = true ↔ ScrubKeeps u classes := by
    simp only [hScrub, ScrubKeeps, Bool.and_eq_true, decide_eq_true_eq]
  have hMigrationKeeps : (free.contains .migration && decide (1 ≤ u.sinceMig) && decide (moved < 64)) = true ↔ MigrationKeeps u moved classes := by
    simp only [hMigration, MigrationKeeps, Bool.and_eq_true, decide_eq_true_eq, and_assoc]
  unfold grantOf
  rcases h with ⟨hKeeps, rfl⟩ | ⟨hNot, hKeeps, rfl⟩ | ⟨hNot, hNot', hFirst⟩
  · exact if_pos (hScrubKeeps.mpr hKeeps)
  · rw [if_neg (mt hScrubKeeps.mp hNot), if_pos (hMigrationKeeps.mpr hKeeps)]
  · rw [if_neg (mt hScrubKeeps.mp hNot), if_neg (mt hMigrationKeeps.mp hNot'), hFirst]

theorem grantOf_nil (u : UnitSt) (moved : Nat) : grantOf u moved [] = none := rfl

theorem admittedClass_of_none (h : grantOf u moved classes = none) : admittedClass u admitted moved classes = (none, u.credit) := by
  rw [admittedClass, h]

theorem admittedClass_of_unthrottled (h : grantOf u moved classes = some q) (hq : throttled q = false) :
    admittedClass u admitted moved classes = (some q, u.credit) := by
  simp [admittedClass, h, hq]

theorem admittedClass_of_enough (h : grantOf u moved classes = some q) (hq : throttled q = true)
    (hEnough : Frac.le (Frac.ofNat 1) (Frac.add u.credit admitted) = true) :
    admittedClass u admitted moved classes = (some q, Frac.sub (Frac.add u.credit admitted) (Frac.ofNat 1)) := by
  simp [admittedClass, h, hq, hEnough]

theorem admittedClass_of_short (h : grantOf u moved classes = some q) (hq : throttled q = true)
    (hShort : Frac.le (Frac.ofNat 1) (Frac.add u.credit admitted) = false) :
    admittedClass u admitted moved classes = (grantOf u moved (classes.filter fun x => !throttled x), Frac.add u.credit admitted) := by
  simp [admittedClass, h, hq, hShort]

end

theorem throttled_iff (q : ReqClass) : throttled q = true ↔ q = .forme ∨ q = .host := by simp [throttled]

theorem throttled_eq_false_iff (q : ReqClass) : throttled q = false ↔ q ≠ .forme ∧ q ≠ .host := by
  rw [← Bool.not_eq_true, throttled_iff, not_or]

/-! ### The grant -/

/-- A requester holds the slot: the unit counts it, a forme's item starts, and the operation's reads pass the decoder. -/
def giveSlot (unit pos : Nat) (reads : List HbmUpset) (q : ReqClass) (credit : Frac) (s : State) : State :=
  let s1 := setUnit unit { sinceScrub := if q = .scrub then 0 else (unitOf s unit).sinceScrub + 1
                           sinceMig := if q = .migration then 0 else (unitOf s unit).sinceMig + 1
                           granted := some q, credit := credit } s
  let mine := reads.filter (fun r => pageStack r.page = unit)
  if q = .scrub then scrubWords mine [] s1
  else mine.foldl (fun s r => readWord r s) (if q = .forme then startUnitItem unit pos s1 else s1)

section
variable {s : State} {unit pos : Nat} {classes : List ReqClass} {reads : List HbmUpset} {credit : Frac}

theorem runGrant_of_lockUp (waiting : SlotBids) (h : s.frame.lockUp = true) : runGrant unit waiting reads s = s := if_pos h

theorem runGrant_of_given {q : ReqClass} (hLock : s.frame.lockUp = false)
    (h : admittedClass (unitOf s unit) s.power.admitted (movedPages s unit) classes = (some q, credit)) :
    runGrant unit { pos := pos, classes := classes } reads s = giveSlot unit pos reads q credit s := by
  unfold runGrant giveSlot
  rw [if_neg (Bool.eq_false_iff.mp hLock)]
  dsimp only
  rw [h]
  cases q <;> rfl

theorem runGrant_of_not_given (hLock : s.frame.lockUp = false)
    (h : admittedClass (unitOf s unit) s.power.admitted (movedPages s unit) classes = (none, credit)) :
    runGrant unit { pos := pos, classes := classes } reads s
      = if credit = (unitOf s unit).credit then s else setUnit unit { unitOf s unit with credit := credit } s := by
  unfold runGrant
  rw [if_neg (Bool.eq_false_iff.mp hLock)]
  dsimp only
  rw [h]

theorem exec_bezelSlotGrant_eq {t : State} {waiting : SlotBids} (hStack : stackRuns s unit = true) (h : runGrant unit waiting reads s = t) :
    exec (.bezelSlotGrant unit waiting reads) s = .next t :=
  effect_eq_next ((onStack_of_runs hStack).trans h) (h ▸ (runGrant_does unit waiting reads s).pending_eq)

end

/-- Settles O27. A grant is `giveSlot` for the requester that the order and the admission name, the unit's count alone, or nothing. -/
theorem slotGrantsAndTimeouts : Obligations.SlotGrantsAndTimeouts := by
  unfold Obligations.SlotGrantsAndTimeouts
  refine ⟨?_, fun s unit waiting reads h => effect_onStack_of_idle (runGrant_of_lockUp waiting) h,
    fun s unit waiting reads hUnit hTraining => effect_onStack_of_training hUnit hTraining, fun s n => ⟨?_, ?_⟩⟩
  · intro s unit pos classes reads hStack hLock u c scrub move free picks sum mine given
    have hFree : free = classes.filter fun x => !throttled x :=
      List.filter_congr fun q _ => by
        rw [Bool.eq_iff_iff, decide_eq_true_eq, Bool.not_eq_true', throttled_eq_false_iff]
    have hPick : ∀ q, picks classes q → grantOf u (movedPages s unit) classes = some q := fun q => grantOf_of_picks rfl rfl
    have hPickFree : ∀ r, picks free r → grantOf u (movedPages s unit) free = some r := fun r =>
      grantOf_of_picks (classes := classes) (by simp [free]) (by simp [free])
    have hGiven : ∀ q credit, admittedClass u s.power.admitted (movedPages s unit) classes = (some q, credit) → exec c s = .next (given q credit) :=
      fun q credit h => exec_bezelSlotGrant_eq hStack (runGrant_of_given hLock h)
    refine ⟨fun q hq hForme hHost => ?_, fun q hq hThrottled => ⟨fun hEnough => ?_, fun hShort r hr => ?_, fun hShort hNone => ?_⟩, fun hNone => ?_⟩
    · exact hGiven q u.credit (admittedClass_of_unthrottled (hPick q hq) ((throttled_eq_false_iff q).mpr ⟨hForme, hHost⟩))
    · exact hGiven q _ (admittedClass_of_enough (hPick q hq) ((throttled_iff q).mpr hThrottled) hEnough)
    · refine hGiven r sum ?_
      rw [admittedClass_of_short (hPick q hq) ((throttled_iff q).mpr hThrottled) hShort, ← hFree, hPickFree r hr]
    · refine exec_bezelSlotGrant_eq hStack (runGrant_of_not_given hLock ?_)
      rw [admittedClass_of_short (hPick q hq) ((throttled_iff q).mpr hThrottled) hShort, ← hFree, hNone, grantOf_nil]
    · refine exec_bezelSlotGrant_eq hStack ((runGrant_of_not_given hLock (admittedClass_of_none ?_)).trans (if_pos rfl))
      rw [hNone, grantOf_nil]
  · exact effect_eq_next rfl (countEvent_does .cell n 5 s).pending_eq
  · exact effect_eq_next rfl (countEvent_does .block n 2 s).pending_eq

end Sys2Proof.Machine
end

section
/-! PROOFS. What an event and a weak row change of HBM (R180, R185, R186, R188, R369, R370). -/

namespace Sys2Proof.Machine
open Sys2Proof

/-! ### Events -/

/-- Of HBM only the list of the pseudo-channels that retire changes. -/
def RetiringOnly (s t : State) : Prop := t.hbm = { s.hbm with retiring := t.hbm.retiring }

namespace RetiringOnly
variable {s t u : State}

theorem refl (s : State) : RetiringOnly s s := rfl

theorem trans (h : RetiringOnly s t) (h' : RetiringOnly t u) : RetiringOnly s u := by
  unfold RetiringOnly at *
  rw [h', h]

theorem of_eq (h : t.hbm = s.hbm) : RetiringOnly s t := by
  unfold RetiringOnly
  rw [h]

theorem of_does {l : List Comp} (h : Does l s t) (hk : Comp.hbm ∉ l := by decide) : RetiringOnly s t := of_eq (h.hbm_eq hk)

theorem training (h : RetiringOnly s t) : t.hbm.training = s.hbm.training := by rw [h]

theorem poison (h : RetiringOnly s t) : t.hbm.poison = s.hbm.poison := by rw [h]

theorem localPages (h : RetiringOnly s t) : t.hbm.localPages = s.hbm.localPages := by rw [h]

theorem carPages (h : RetiringOnly s t) : t.hbm.carPages = s.hbm.carPages := by rw [h]

theorem deltaPages (h : RetiringOnly s t) : t.hbm.deltaPages = s.hbm.deltaPages := by rw [h]

end RetiringOnly

theorem retirePc_retiring (stack pc : Nat) (s : State) : RetiringOnly s (retirePc stack pc s) := by
  unfold retirePc
  split
  · exact .refl s
  · rfl

theorem severeAction_retiring (unit source : Nat) (forced : Bool) (action : Nat) (s : State) :
    RetiringOnly s (severeAction unit source forced action s) := by
  unfold severeAction
  split
  · extract_lets dev u
    have hStop : RetiringOnly s (stopCell unit u) := .of_eq rfl
    split
    · exact hStop.trans (.of_does (inDoubt_does _))
    · exact hStop
  · exact .of_does (askRetrain_does _ s)
  · exact retirePc_retiring _ _ s
  · exact .of_eq rfl
  · exact .of_eq rfl
  · exact .refl s

theorem severeNow_retiring (l : Level) (unit source : Nat) (forced : Bool) (action : Nat) (s : State) :
    RetiringOnly s (severeNow l unit source forced action s) := by
  unfold severeNow
  split
  · exact .of_eq rfl
  · exact severeAction_retiring unit source forced action s

theorem countSimple_retiring (l : Level) (unit source : Nat) (forced early act : Bool) (s : State) :
    RetiringOnly s (countSimple l unit source forced early act s) := by
  unfold countSimple
  extract_lets f action r t
  have hLatch : RetiringOnly s r.1 := .of_does (latchEvent_does l unit source forced early s)
  have hEvent : RetiringOnly s t := by
    unfold t
    split
    · exact hLatch.trans (.of_does (eventAction_does l unit action _))
    · exact hLatch
  split
  · exact hEvent.trans (severeNow_retiring l unit source _ action t)
  · exact hEvent

theorem loseLane_retiring (p lane : Nat) (s : State) : RetiringOnly s (loseLane p lane s) := by
  unfold loseLane
  split
  · exact (RetiringOnly.of_does (removeLane_does p lane s)).trans (countSimple_retiring _ _ _ _ _ _ _)
  · exact .refl s

theorem dropWorstLane_retiring (early : Bool) (p : Nat) (s : State) : RetiringOnly s (dropWorstLane early p s) := by
  unfold dropWorstLane
  extract_lets c old
  split
  · exact .refl s
  · split
    · exact .of_does (askRetrain_does p s)
    · exact loseLane_retiring p _ s

theorem dropNow_retiring (l : Level) (unit source action : Nat) (early : Bool) (s : State) :
    RetiringOnly s (dropNow l unit source action early s) := by
  unfold dropNow
  split
  · exact severeNow_retiring l unit source false action s
  · exact dropWorstLane_retiring early _ s

theorem countEventWith_retiring (l : Level) (unit source : Nat) (forced early act : Bool) (s : State) :
    RetiringOnly s (countEventWith l unit source forced early act s) := by
  have hLatch : RetiringOnly s (latchEvent l unit source forced early s).1 := .of_does (latchEvent_does l unit source forced early s)
  unfold countEventWith
  dsimp only
  split_ifs
  · exact hLatch.trans (dropNow_retiring l unit source _ early _)
  · exact hLatch
  · exact (RetiringOnly.of_does (standFault_does l unit source forced s)).trans (countSimple_retiring l unit source forced early act _)

theorem countEvent_retiring (l : Level) (unit source : Nat) (s : State) : RetiringOnly s (countEvent l unit source s) :=
  countEventWith_retiring l unit source false false true s

/-- A stack that runs out of staging pages is listed once in the frame, and all else of it is as an event leaves it (R180). -/
theorem stagingOverflow_retiring (stack : Nat) (s : State) : ∃ full : List Nat,
    RetiringOnly { s with hbm := { s.hbm with fullStacks := full } } (stagingOverflow stack s) := by
  unfold stagingOverflow
  split
  · exact ⟨s.hbm.fullStacks, .refl s⟩
  · exact ⟨_, (RetiringOnly.of_does (inDoubt_does _)).trans (countEvent_retiring _ _ _ _)⟩

/-! ### Weak rows -/

/-- Of HBM a row that becomes weak changes the lists of rows alone. -/
theorem weaken_hbm (phys row : Nat) (s : State) : ∃ weak corrected : List (Nat × Nat),
    (weaken phys row s).hbm = { s.hbm with weak := weak, corrected := corrected } := by
  unfold weaken
  split_ifs
  · exact ⟨s.hbm.weak, s.hbm.corrected, rfl⟩
  · exact ⟨_, _, (recordEvent_does _ _ _).hbm_eq⟩
  · exact ⟨_, s.hbm.corrected, rfl⟩

end Sys2Proof.Machine
end

section
/-! PROOFS. Scrub, the poison table, migration and the end of a retirement (R180, R182 to R188, R411). -/

namespace Sys2Proof.Machine
open Sys2Proof

/-! ### Scrub and the decoder (R182, R185) -/

/-- A slot that the unit spends on a scrub. -/
def scrubSpent (unit : Nat) (s : State) : State := setUnit unit { unitOf s unit with sinceScrub := 0, granted := some .scrub } s

theorem runScrub_of_lockUp {s : State} (unit : Nat) (reads : List HbmUpset) (h : s.frame.lockUp = true) : runScrub unit reads s = s := if_pos h

theorem exec_scrub_of_open {s : State} {unit : Nat} {reads : List HbmUpset} (hStack : stackRuns s unit = true) (hLock : s.frame.lockUp = false)
    (hMine : ∀ u ∈ reads, pageStack u.page = unit) : exec (.scrub unit reads) s = .next (scrubWords reads [] (scrubSpent unit s)) := by
  have hRun : runScrub unit reads s = scrubWords reads [] (scrubSpent unit s) := by
    rw [runScrub, if_neg (Bool.eq_false_iff.mp hLock), List.filter_eq_self.mpr fun u hu => decide_eq_true (hMine u hu)]
    rfl
  exact effect_eq_next ((onStack_of_runs hStack).trans hRun) (hRun ▸ (runScrub_does unit reads s).pending_eq)

/-- A word that the scrub reads: its page is none of the frame's staging, and it is not listed. -/
def scrubReads (u : HbmUpset) (s : State) : Prop := stagingPhys s u.page = false ∧ s.hbm.poison.contains (u.page, u.word) = false

section
variable {u : HbmUpset} {s : State}

/-- An uncorrectable word whose re-read has not failed: the event, the count and the weak row (R182, R185). -/
def scrubFailed (u : HbmUpset) (s : State) : State :=
  weaken u.page (u.word / 32) (onLife (fun l => { l with uncorrectable := l.uncorrectable + 1 })
    (countEvent .region (pageStack u.page / 2) (hbmSource 0x140 u.page) s))

theorem scrubWord_of_idle (again : Bool) (h : rsDecode u.errors = .clean ∨ ¬ scrubReads u s) : scrubWord u again s = s := by
  unfold scrubWord
  split
  · rfl
  next hReads =>
    rcases h with h | h
    · rw [h]
    · refine absurd ?_ h
      simpa [scrubReads] using hReads

theorem scrubWord_of_reads (again : Bool) (h : scrubReads u s) : scrubWord u again s = match rsDecode u.errors with
    | .clean => s
    | .corrected _ _ => scrubCorrected u.page (u.word / 32) (readWord u s)
    | .uncorrectable => if again then uncorrectable u.page u.word true s else scrubFailed u s := by
  obtain ⟨hStaging, hListed⟩ := h
  rw [scrubWord, hStaging, hListed]
  rfl

/-- What counts a failed word leaves the frame's staging and the poison table. -/
theorem scrubReads_scrubFailed (h : scrubReads u s) : scrubReads u (scrubFailed u s) := by
  obtain ⟨weak, corrected, hWeak⟩ := weaken_hbm u.page (u.word / 32) (onLife (fun l => { l with uncorrectable := l.uncorrectable + 1 })
    (countEvent .region (pageStack u.page / 2) (hbmSource 0x140 u.page) s))
  have hEvent := countEvent_retiring .region (pageStack u.page / 2) (hbmSource 0x140 u.page) s
  simp only [scrubReads, stagingPhys, scrubFailed, hWeak, onLife_hbm, hEvent.localPages, hEvent.carPages, hEvent.deltaPages, hEvent.poison]
  exact h

end

/-- A word listed twice is read again. -/
theorem scrubWords_twice (u : HbmUpset) (s : State) : scrubWords [u, u] [] s = scrubWord u true (scrubWord u false s) := by
  simp [scrubWords]

/-! ### The poison table (R183, R184) -/

/-- Of HBM the action of a page class changes the words to regenerate alone (R184). -/
theorem poisonAction_hbm (cls k word : Nat) (s : State) : ∃ regen : List (Nat × Nat),
    (poisonAction cls k word s).hbm = { s.hbm with regenWords := regen } := by
  unfold poisonAction
  split_ifs
  · exact ⟨_, rfl⟩
  · exact ⟨s.hbm.regenWords, rfl⟩
  · exact ⟨s.hbm.regenWords, (damageSlot_does k word s).hbm_eq⟩
  · exact ⟨s.hbm.regenWords, rfl⟩
  · exact ⟨s.hbm.regenWords, rfl⟩

theorem poisonAction_poison (cls k word : Nat) (s : State) : (poisonAction cls k word s).hbm.poison = s.hbm.poison := by
  obtain ⟨regen, hRegen⟩ := poisonAction_hbm cls k word s
  rw [hRegen]

theorem mem_poison_enterPoison {s : State} {phys word k : Nat} (hPage : pageOfPhys s phys = some k) (hNew : s.hbm.poison.contains (phys, word) = false)
    (hRoom : poisonCount s (pageStack phys) < 1024) : (phys, word) ∈ (enterPoison phys word s).hbm.poison := by
  rw [enterPoison, hPage]
  dsimp only
  rw [if_neg (Bool.eq_false_iff.mp hNew), if_neg (Nat.not_le.mpr hRoom), poisonAction_poison]
  exact List.mem_append_right _ (List.mem_singleton_self _)

theorem enterPoison_of_full {s : State} {phys word k : Nat} (hPage : pageOfPhys s phys = some k) (hNew : s.hbm.poison.contains (phys, word) = false)
    (hFull : 1024 ≤ poisonCount s (pageStack phys)) : enterPoison phys word s = askRetire s := by
  rw [enterPoison, hPage]
  dsimp only
  rw [if_neg (Bool.eq_false_iff.mp hNew), if_pos hFull]

/-! ### Migration (R180, R187) -/

/-- A page that a migration takes up: mapped, in the unit's stack, on a physical page that it must leave, and not yet moved in a frame that has
moves left. -/
structure MayMigrate (s : State) (unit page : Nat) : Prop where
  mapped : (pageEnt s page).isSome = true
  lockUp : s.frame.lockUp = false
  stack : pageStack page = unit
  must : mustMove s (physOf s page) = true
  fresh : s.hbm.migrated.contains page = false
  left : movedPages s unit < 64

section
variable {s : State} {unit page : Nat}

theorem runMigration_of_not (h : ¬ MayMigrate s unit page) : runMigration unit page s = s := by
  unfold runMigration
  split
  · rfl
  next e hEnt =>
    dsimp only
    rw [if_pos]
    by_contra hOpen
    refine h ?_
    simp only [Bool.not_eq_true, Bool.or_eq_false_iff, bne_eq_false_iff_eq, Bool.not_eq_false', decide_eq_false_iff_not, Nat.not_le] at hOpen
    obtain ⟨⟨⟨⟨hLock, hStack⟩, hMust⟩, hFresh⟩, hLeft⟩ := hOpen
    exact ⟨by rw [hEnt]; rfl, hLock, hStack, hMust, hFresh, hLeft⟩

theorem runMigration_of_may (h : MayMigrate s unit page) : runMigration unit page s
    = if (SMap.get? s.hbm.localPages page).any (fun q => pagePc q != pagePc (physOf s page)) then
        { s with hbm := { s.hbm with migrated := s.hbm.migrated ++ [page] } }
      else if ((SMap.get? s.hbm.localPages page).isNone && !canStage s unit) || freePages s unit = 0 then stagingOverflow unit s
      else if freeElsewhere s unit (pagePc (physOf s page)) = 0 then s
      else migrateCopy unit page s := by
  obtain ⟨e, hEnt⟩ := Option.isSome_iff_exists.mp h.mapped
  unfold runMigration
  rw [hEnt]
  dsimp only
  rw [if_neg]
  rw [h.lockUp, h.must, h.fresh]
  simp [h.stack, h.left]

theorem exec_migration_of_not (h : stackRuns s unit = false ∨ ¬ MayMigrate s unit page) : exec (.migration unit page) s = .next s := by
  refine effect_of_eq ?_
  unfold onlyIf
  split
  next hStack => exact runMigration_of_not (h.resolve_left (by simp [hStack]))
  · rfl

theorem exec_migration_eq {t : State} (hStack : stackRuns s unit = true) (h : runMigration unit page s = t) : exec (.migration unit page) s = .next t :=
  effect_eq_next ((if_pos hStack).trans h) (h ▸ (runMigration_does unit page s).pending_eq)

/-- The copies that a page has stand in the pseudo-channel that it must leave. -/
def CopyStays (s : State) (page : Nat) : Prop :=
  ∀ q, SMap.get? s.hbm.localPages page = some q → pagePc q = pagePc (physOf s page)

theorem CopyStays.not_elsewhere (h : CopyStays s page) :
    ¬ (SMap.get? s.hbm.localPages page).any (fun q => pagePc q != pagePc (physOf s page)) = true := by
  cases hCopy : SMap.get? s.hbm.localPages page with
  | none => exact Bool.false_ne_true
  | some q => simp [h q hCopy]

/-- The stack can take a copy more, or one in the place of another. -/
def CopyRoom (s : State) (unit page : Nat) : Prop :=
  freePages s unit ≠ 0 ∧ (SMap.get? s.hbm.localPages page = none → canStage s unit = true)

theorem copyRoom_iff : CopyRoom s unit page
    ↔ ¬ (((SMap.get? s.hbm.localPages page).isNone && !canStage s unit) || decide (freePages s unit = 0)) = true := by
  cases hStage : canStage s unit with
  | true => simp [CopyRoom, hStage]
  | false => simp [CopyRoom, hStage, and_comm]

/-- The copy in another pseudo-channel stands, and committed HBM and its map are as they were. -/
theorem migrateCopy_moves (unit page : Nat) (s : State) :
    (SMap.get? (migrateCopy unit page s).hbm.localPages page).isSome = true ∧ page ∈ (migrateCopy unit page s).hbm.migrated
    ∧ (migrateCopy unit page s).hbm.mem = s.hbm.mem ∧ (migrateCopy unit page s).hbm.map = s.hbm.map := by
  have hCopy : ∀ q, (SMap.get? (SMap.put s.hbm.localPages page q) page).isSome = true := fun q => by rw [get?_put_same]; rfl
  have hPage : page ∈ s.hbm.migrated ++ [page] := List.mem_append_right _ (List.mem_singleton_self page)
  unfold migrateCopy
  cases SMap.get? s.hbm.localPages page with
  | none => exact ⟨hCopy _, hPage, rfl, rfl⟩
  | some q => exact ⟨hCopy _, hPage, rfl, rfl⟩

end

/-! ### The end of a retirement (R188) -/

section
variable {s : State} {stack pc : Nat}

theorem exec_pcRetirementDone_of_not
    (h : unitRuns s stack = false ∨ s.hbm.retiring.contains (stack, pc) = false ∨ pcEmpty s stack pc = false) :
    exec (.pcRetirementDone stack pc) s = .next s := by
  refine effect_of_eq ?_
  unfold onlyIf
  split
  next hUnit => exact if_pos (by simpa using h.resolve_left (by simp [hUnit]))
  · rfl

theorem recordEvent_retired (type : Nat) (payload : List Byte) (s : State) : (recordEvent type payload s).flash.retired = s.flash.retired := by
  unfold recordEvent recordAt
  dsimp only
  split
  · rfl
  · rfl

/-- What the end of a retirement leaves of HBM and of the records in flash. -/
theorem runPcDone_of_empty (hRetiring : s.hbm.retiring.contains (stack, pc) = true) (hEmpty : pcEmpty s stack pc = true) :
    (runPcDone stack pc s).hbm = { s.hbm with
      retiring := s.hbm.retiring.filter (· != (stack, pc))
      retired := s.hbm.retired ++ [(stack, pc)]
      usable := setAt s.hbm.usable stack (s.hbm.usable.getD stack 0 - pcPages s stack pc) }
    ∧ (runPcDone stack pc s).flash.retired = insertPair s.flash.retired (stack, pc) := by
  unfold runPcDone
  rw [if_neg (by simp only [hRetiring, hEmpty]; decide)]
  extract_lets h f l s1 s2
  have hHbm : s2.hbm = s1.hbm := (recordEvent_does _ _ _).hbm_eq
  have hFlash : s2.flash.retired = s1.flash.retired := recordEvent_retired _ _ _
  split
  · exact ⟨hHbm, hFlash⟩
  · exact ⟨hHbm, hFlash⟩

end

/-- Settles O29. A scrub is the decoder's answer on the unit's spent slot; a migration and the end of a retirement are the one update that their
guards leave. -/
theorem hbmScrubAndRepair : Obligations.HbmScrubAndRepair := by
  unfold Obligations.HbmScrubAndRepair
  refine ⟨fun s unit reads => ⟨effect_onStack_of_idle (runScrub_of_lockUp unit reads), effect_onStack_of_training⟩, ?_,
    fun t phys row => ⟨fun hNew => ?_, fun hListed => if_pos hListed⟩,
    fun s phys word k hPage hNew => ⟨mem_poison_enterPoison hPage hNew, enterPoison_of_full hPage hNew⟩, ?_, ?_, ?_, ?_⟩
  · intro s unit u hStack hLock hMine spent failed live
    have hOne : exec (.scrub unit [u]) s = .next (scrubWord u false spent) :=
      exec_scrub_of_open hStack hLock (by simpa using hMine)
    have hSpent : live ↔ scrubReads u spent := Iff.rfl
    refine ⟨exec_scrub_of_open hStack hLock (by simp), fun hIdle => ?_, fun b v hCorrected hLive => ?_, fun hBad hLive => ?_⟩
    · rw [hOne, scrubWord_of_idle false (hIdle.imp id (mt hSpent.mpr))]
    · rw [hOne, scrubWord_of_reads false (hSpent.mp hLive), hCorrected]
    · have hFailed : scrubWord u false spent = failed := by
        rw [scrubWord_of_reads false (hSpent.mp hLive), hBad]
        rfl
      have hAgain : scrubReads u failed := scrubReads_scrubFailed (hSpent.mp hLive)
      have hTwice : exec (.scrub unit [u, u]) s = .next (scrubWord u true (scrubWord u false spent)) :=
        (exec_scrub_of_open hStack hLock (by simpa using hMine)).trans (congrArg _ (scrubWords_twice u spent))
      refine ⟨hOne.trans (congrArg _ hFailed), ?_⟩
      rw [hTwice, hFailed, scrubWord_of_reads true hAgain, hBad]
      rfl
  · rw [scrubCorrected, if_neg (Bool.eq_false_iff.mp hNew)]
  · intro s unit page e hStack hEnt hLock hMine hMust hFresh hLeft stays room
    have hMay : MayMigrate s unit page := ⟨by rw [hEnt]; rfl, hLock, hMine, hMust, hFresh, hLeft⟩
    refine ⟨fun hStays hRoom hElse => ?_, fun hStays hRoom hElse => ?_, fun hStays hNoRoom => ?_, fun q hCopy hPc => ?_⟩
    · refine ⟨_, exec_migration_eq hStack ((runMigration_of_may hMay).trans ?_), migrateCopy_moves unit page s⟩
      rw [if_neg (CopyStays.not_elsewhere hStays), if_neg (copyRoom_iff.mp hRoom), if_neg hElse]
    · refine exec_migration_eq hStack ((runMigration_of_may hMay).trans ?_)
      rw [if_neg (CopyStays.not_elsewhere hStays), if_neg (copyRoom_iff.mp hRoom), if_pos hElse]
    · refine exec_migration_eq hStack ((runMigration_of_may hMay).trans ?_)
      rw [if_neg (CopyStays.not_elsewhere hStays), if_pos (not_not.mp (mt copyRoom_iff.mpr hNoRoom))]
    · refine exec_migration_eq hStack ((runMigration_of_may hMay).trans (if_pos ?_))
      simp [hCopy, hPc]
  · intro s unit page h
    refine exec_migration_of_not ?_
    by_contra hNot
    obtain ⟨hStack, hMay⟩ := not_or.mp hNot
    have hMay := not_not.mp hMay
    rcases h with h | h | h | h | h | h | h
    · simpa [h] using hMay.mapped
    · exact h hMay.stack
    · simpa [h] using hMay.must
    · exact Bool.false_ne_true (hMay.fresh.symm.trans h)
    · exact Nat.not_le.mpr hMay.left h
    · simpa [h] using hMay.lockUp
    · exact hStack h
  · intro s stack pc hUnit hRetiring hEmpty
    obtain ⟨hHbm, hFlash⟩ := runPcDone_of_empty hRetiring hEmpty
    refine ⟨_, effect_eq_next (if_pos hUnit) (runPcDone_does stack pc s).pending_eq, ?_⟩
    dsimp only
    rw [hHbm, hFlash]
    exact ⟨List.mem_append_right _ (List.mem_singleton_self _), by simp, rfl, mem_insertPair _ _⟩
  · exact fun s stack pc => exec_pcRetirementDone_of_not

end Sys2Proof.Machine
end

section
/-! PROOFS. The operations of a bezel unit, and COPY between two ranges of HBM (R38, R177, R182, R183, R190 to R194, R197, R267, R407). -/

namespace Sys2Proof.Machine
open Sys2Proof

/-! ### What an operation comes to (R193, R267) -/

section
variable {l : List Comp} {iss : Issuer} {op : Nat} {d : BezelDesc} {fits : Bool} {f : State → State} {s : State}

theorem runOp_of_not_ready (h : opReady s iss op d = false) : runOp iss op d fits f s = s := if_pos (by simp [h])

theorem runOp_of_allowed (hReady : opReady s iss op d = true) (hLegal : opLegal op d = true) (hFits : fits = true) :
    runOp iss op d fits f s = finishOp iss op d (flushSends (f s)) := by
  rw [runOp, if_neg (by simp [hReady]), if_pos (by simp [hLegal, hFits])]

theorem runOp_of_not_allowed (hReady : opReady s iss op d = true) (h : opLegal op d = false ∨ fits = false) :
    runOp iss op d fits f s = if hostSide d = true ∨ op = 6 ∨ op = 7 then finishOp iss op d s else s := by
  have hNot : ¬ (opLegal op d && fits) = true := by
    rcases h with h | h
    · simp [h]
    · simp [h]
  rw [runOp, if_neg (by simp [hReady]), if_neg hNot]
  simp only [Bool.or_eq_true, decide_eq_true_eq, or_assoc]

/-- A command that runs an operation whose effect leaves the queue: it waits, takes effect, or moves nothing. -/
theorem runOp_outcomes (h : Does l s (f s)) (hk : Comp.pending ∉ l := by decide) :
    (opReady s iss op d = false → effect (runOp iss op d fits f) s = .next s)
    ∧ (opReady s iss op d = true → opLegal op d = true → fits = true →
      effect (runOp iss op d fits f) s = .next (finishOp iss op d (flushSends (f s))))
    ∧ (opReady s iss op d = true → (opLegal op d = false ∨ fits = false) →
      effect (runOp iss op d fits f) s = .next (if hostSide d = true ∨ op = 6 ∨ op = 7 then finishOp iss op d s else s)) := by
  refine ⟨fun hReady => effect_of_eq (runOp_of_not_ready hReady),
    fun hReady hLegal hFits => effect_eq_next (runOp_of_allowed hReady hLegal hFits) ?_,
    fun hReady hNot => effect_eq_next (runOp_of_not_allowed hReady hNot) ?_⟩
  · exact ((finishOp_does iss op d _).pending_eq.trans (flushSends_does (f s)).pending_eq).trans (h.pending_eq hk)
  · exact (does_ite (finishOp_does iss op d s) (does_refl _ s)).pending_eq

end

/-! ### A local write into pages with their copies (R177, R183) -/

/-- What an overlay lists behind the part of a write that falls into one page. -/
theorem get?_overlayN_partIn (m : List Host.Cell) (a k x : Nat) (bytes : List Byte) :
    SMap.get? (overlayN m (partIn 65536 a k bytes).1 (partIn 65536 a k bytes).2) x
      = if a ≤ x ∧ x < a + bytes.length ∧ x / 65536 = k then bytes[x - a]? else SMap.get? m x := by
  have hLow : a ≤ Nat.max a (k * 65536) := Nat.le_max_left _ _
  have hPage : k * 65536 ≤ Nat.max a (k * 65536) := Nat.le_max_right _ _
  rw [get?_overlayN]
  simp only [partIn, List.length_take, List.length_drop]
  by_cases hIn : a ≤ x ∧ x < a + bytes.length ∧ x / 65536 = k
  · have hMax : Nat.max a (k * 65536) ≤ x := Nat.max_le.mpr ⟨hIn.1, by omega⟩
    rw [if_pos (by omega), if_pos hIn, List.getElem?_take_of_lt (by omega), List.getElem?_drop]
    congr 1
    omega
  · rw [if_neg (by omega), if_neg hIn]

/-- The parts of a write that fall into some pages, put into an overlay. -/
def overlayPages (a : Nat) (bytes : List Byte) (ks : List Nat) (m : List Host.Cell) : List Host.Cell :=
  ks.foldl (fun m k => overlayN m (partIn 65536 a k bytes).1 (partIn 65536 a k bytes).2) m

theorem get?_overlayPages (a x : Nat) (bytes : List Byte) (ks : List Nat) : ∀ m, SMap.get? (overlayPages a bytes ks m) x
    = if a ≤ x ∧ x < a + bytes.length ∧ x / 65536 ∈ ks then bytes[x - a]? else SMap.get? m x := by
  induction ks with
  | nil => exact fun m => (if_neg (by simp)).symm
  | cons k ks ih =>
    intro m
    rw [overlayPages, List.foldl_cons, ← overlayPages, ih, get?_overlayN_partIn]
    simp only [List.mem_cons]
    grind

/-- A local write whose pages are mapped and have their copies stands in local staging, and all else of HBM but the listings of earlier copies is as
it was. -/
theorem hbmWrite_of_copies {a : Nat} {bytes : List Byte} {s : State} (hMapped : ∀ k ∈ pagesOf 65536 a bytes.length, (pageEnt s k).isSome = true)
    (hCopies : ∀ k ∈ pagesOf 65536 a bytes.length, (SMap.get? s.hbm.localPages k).isSome = true) :
    ∃ listed, hbmWrite a bytes s = { s with hbm := { s.hbm with
      localB := overlayPages a bytes (pagesOf 65536 a bytes.length) s.hbm.localB, poisonStaged := listed } } := by
  unfold hbmWrite
  generalize pagesOf 65536 a bytes.length = ks at *
  induction ks generalizing s with
  | nil => exact ⟨_, rfl⟩
  | cons k ks ih =>
    have hStage : stageLocal k s = (s, true) := if_pos (hCopies k List.mem_cons_self)
    rw [List.foldl_cons, if_neg (by simpa [Option.isSome_iff_ne_none] using hMapped k List.mem_cons_self), hStage]
    exact ih (fun j hj => hMapped j (List.mem_cons_of_mem _ hj)) (fun j hj => hCopies j (List.mem_cons_of_mem _ hj))

/-! ### COPY (R182, R183, R193) -/

theorem mem_foldl_insertNat {f : Nat → Nat} {w : Nat} (is : List Nat) : ∀ {l : List Nat}, (w ∈ l ∨ ∃ i ∈ is, f i = w) →
    w ∈ is.foldl (fun l i => insertNat l (f i)) l := by
  induction is with
  | nil =>
    rintro l (h | ⟨i, hi, -⟩)
    · exact h
    · cases hi
  | cons j js ih =>
    rintro l (h | ⟨i, hi, rfl⟩)
    · exact ih (.inl (mem_insertNat_of_mem _ h))
    · rcases List.mem_cons.mp hi with rfl | hi
      · exact ih (.inl (mem_insertNat _ _))
      · exact ih (.inr ⟨i, hi, rfl⟩)

theorem length_hbmBytes (s : State) (a n : Nat) : (hbmBytes s a n).length = n := by simp [hbmBytes, Memory.readN]

theorem getElem?_hbmBytes {s : State} {a n i : Nat} (hi : i < n) : (hbmBytes s a n)[i]? = some (hbmByte s (a + i)) := by
  simp [hbmBytes, Memory.readN, hbmByte, hi]

theorem mapped_of_pagesFit {s : State} {iss : Issuer} {b n : Nat} (h : pagesFit s iss (.hbm b) n = true) :
    ∀ k ∈ pagesOf 65536 b n, (pageEnt s k).isSome = true := by
  intro k hk
  have hPage := List.all_eq_true.mp h k hk
  cases hEnt : pageEnt s k with
  | none => simp [pageClass, hEnt] at hPage
  | some e => rfl

/-- COPY into pages with their local copies: the bytes, the frame, committed HBM, and the listed words. -/
theorem copyBytes_stands {s : State} {d : BezelDesc} {a b : Nat} (hSrc : d.src = .hbm a) (hDst : d.dst = .hbm b)
    (hMapped : ∀ k ∈ pagesOf 65536 b d.rows, (pageEnt s k).isSome = true)
    (hCopies : ∀ k ∈ pagesOf 65536 b d.rows, (SMap.get? s.hbm.localPages k).isSome = true) :
    (∀ i, i < d.rows → SMap.get? (copyBytes d s).hbm.localB (b + i) = some (hbmByte s (a + i)))
    ∧ (∀ x, x < b ∨ b + d.rows ≤ x → SMap.get? (copyBytes d s).hbm.localB x = SMap.get? s.hbm.localB x)
    ∧ (copyBytes d s).hbm.mem = s.hbm.mem
    ∧ ∀ i, i < d.rows / 32 → wordPoisoned s (a + 32 * i) = true → (b / 32 + i) ∈ (copyBytes d s).hbm.poisonStaged := by
  have hLength := length_hbmBytes s a d.rows
  obtain ⟨listed, hWrite⟩ := hbmWrite_of_copies (a := b) (bytes := hbmBytes s a d.rows) (s := s) (hLength.symm ▸ hMapped) (hLength.symm ▸ hCopies)
  unfold copyBytes
  rw [hSrc, hDst]
  dsimp only
  rw [hWrite, hLength]
  refine ⟨fun i hi => ?_, fun x hx => ?_, rfl, fun i hi hListed => ?_⟩
  · rw [get?_overlayPages, hLength, if_pos ⟨by omega, by omega, mem_pagesOf hi⟩, Nat.add_sub_cancel_left, getElem?_hbmBytes hi]
  · rw [get?_overlayPages, hLength, if_neg (by omega)]
  · exact mem_foldl_insertNat _ (.inr ⟨i, List.mem_filter.mpr ⟨List.mem_range.mpr hi, hListed⟩, rfl⟩)

/-- REDUCE_ADD of long forms or of stored blocks (R194). -/
theorem reduceAdd_does (d : BezelDesc) (s : State) :
    Does [.frame, .step, .caseMem, .cells, .stats, .hbm, .portA, .portB, .dev, .power, .faults, .fabric, .flash] s
      ((if d.srcFmt = 0xFF then addLongForm d else addStored d) s) := by
  split
  · exact addLongForm_does d s
  · exact addStored_does d s

/-- Settles O28. Each operation is `runOp` under its own effect; behind COPY, the packets and the end of the item leave HBM alone. -/
theorem bezelOperations : Obligations.BezelOperations := by
  unfold Obligations.BezelOperations
  refine ⟨fun s iss d => ?_, fun s iss d a b hSrc hDst hRuns hFitsSrc hFitsDst hCopies => ?_⟩
  · intro run
    exact ⟨runOp_outcomes (copyBytes_does d s), runOp_outcomes (reblock_does d s), runOp_outcomes (transpose_does d s),
      runOp_outcomes (writeRange_does d _ _ s), runOp_outcomes (writeRange_does _ _ _ s), runOp_outcomes (mxImport_does d s),
      runOp_outcomes (mxExport_does d s), runOp_outcomes (reduceInit_does d s),
      runOp_outcomes (reduceAdd_does d s), runOp_outcomes (reduceClose_does d s)⟩
  · obtain ⟨hReady, hLegal⟩ := Bool.and_eq_true_iff.mp hRuns
    have hFits : (pagesFit s iss d.src d.rows && pagesFit s iss d.dst d.rows) = true := by rw [hFitsSrc, hFitsDst]; rfl
    refine ⟨_, (runOp_outcomes (copyBytes_does d s)).2.1 hReady hLegal hFits, ?_⟩
    have hHbm : (finishOp iss 1 d (flushSends (copyBytes d s))).hbm = (copyBytes d s).hbm :=
      (finishOp_does iss 1 d _).hbm_eq.trans (flushSends_does _).hbm_eq
    dsimp only
    rw [hHbm]
    exact copyBytes_stands hSrc hDst (mapped_of_pagesFit (hDst ▸ hFitsDst)) hCopies

end Sys2Proof.Machine
end

section
/-! PROOFS. Reduce, long partial and snapshot packets: the delta pages under a contribution, and where each packet lands (R91, R177, R181, R183, R194,
R321, R324, R342, R347, R352). -/

namespace Sys2Proof.Machine
open Sys2Proof

/-! ### Delta pages once taken stay taken (R177, R180) -/

/-- Every delta page that the frame has taken is taken still. -/
def DeltaPagesStay (s t : State) : Prop := ∀ k, (SMap.get? s.hbm.deltaPages k).isSome = true → (SMap.get? t.hbm.deltaPages k).isSome = true

namespace DeltaPagesStay
variable {s t u : State}

theorem refl (s : State) : DeltaPagesStay s s := fun _ h => h

theorem trans (h : DeltaPagesStay s t) (h' : DeltaPagesStay t u) : DeltaPagesStay s u := fun k hk => h' k (h k hk)

theorem of_eq (h : t.hbm.deltaPages = s.hbm.deltaPages) : DeltaPagesStay s t := fun _ hk => h ▸ hk

theorem deltasTaken {a n : Nat} (h : DeltaPagesStay s t)
    (hReady : ∀ k ∈ pagesOf 65536 a n, (SMap.get? s.hbm.deltaPages (2 * k + 1)).isSome = true) : deltasTaken a n t = true :=
  List.all_eq_true.mpr fun k hk => h _ (hReady k hk)

end DeltaPagesStay

theorem stageDelta_deltaPages (kind k : Nat) (s : State) : DeltaPagesStay s (stageDelta kind k s).1 := by
  unfold stageDelta
  split_ifs
  · exact .refl s
  · intro j hj
    by_cases hKey : j = 2 * k + kind
    · rw [hKey, get?_put_same]
      rfl
    · rw [get?_put_ne hKey]
      exact hj
  · obtain ⟨full, hFull⟩ := stagingOverflow_retiring (pageStack k) s
    exact .of_eq hFull.deltaPages

theorem stageDeltas_deltaPages (kind a n : Nat) (s : State) : DeltaPagesStay s (stageDeltas kind a n s).1 := by
  unfold stageDeltas
  refine List.foldlRecOn (motive := fun x : State × Bool => DeltaPagesStay s x.1) _ _ (.refl s) fun x hx k _ => ?_
  split
  · exact hx.trans (stageDelta_deltaPages kind k x.1)
  · exact hx

theorem setDelta_deltaPages (kind key : Nat) (t : Nat × LTile) (s : State) : (setDelta kind key t s).hbm.deltaPages = s.hbm.deltaPages := by
  unfold setDelta
  split
  · rfl
  · rfl

/-- A delta tile and its statistics take no page. -/
theorem addDelta_deltaPages (kind tensor key : Nat) (t : Nat × LTile) (r : StatRec) (s : State) :
    DeltaPagesStay s (statPart kind tensor r (setDelta kind key t s)) :=
  .of_eq ((congrArg HbmSt.deltaPages (statPart_does kind tensor r _).hbm_eq).trans (setDelta_deltaPages kind key t s))

theorem addBlock_deltaPages (kind tensor op f a : Nat) (rd : Nat → Byte) (s : State) : DeltaPagesStay s (addBlock kind tensor op f a rd s) := by
  have hStage := stageDeltas_deltaPages kind a longTileBytes s
  unfold addBlock
  split
  · exact .refl s
  · split
    next hTaken =>
      rw [hTaken] at hStage
      exact hStage
    next hTaken =>
      rw [hTaken] at hStage
      exact hStage.trans (addDelta_deltaPages _ _ _ _ _ _)

theorem addLongTile_deltaPages (kind tensor a : Nat) (lane : Bool) (t : LTile) (s : State) :
    DeltaPagesStay s (addLongTile kind tensor a lane t s) := by
  unfold addLongTile
  extract_lets size
  have hStage := stageDeltas_deltaPages kind a size s
  split
  · exact .refl s
  · split
    next hTaken =>
      rw [hTaken] at hStage
      exact hStage
    next hTaken =>
      rw [hTaken] at hStage
      extract_lets key old
      split
      · exact hStage
      · exact hStage.trans (addDelta_deltaPages _ _ _ _ _ _)

theorem addRounded_deltaPages (kind tensor a : Nat) (rd : Nat → Byte) (s : State) : DeltaPagesStay s (addRounded kind tensor a rd s) := by
  unfold addRounded
  extract_lets n s1
  have hBlock : DeltaPagesStay s s1 := addBlock_deltaPages kind tensor 0 6 a _ s
  split
  · exact hBlock
  · exact hBlock.trans (.of_eq (setDelta_deltaPages _ _ _ _))

/-! ### Inbound pages (R181) -/

section
variable {a n : Nat} {s : State}

theorem inboundPages_of_some_unmapped (h : ∃ k ∈ pagesOf 65536 a n, pageClass s k = none) :
    inboundPages a n s = (countEvent .region (addrStack a / 2 % 4) 1 (inDoubt s), false) := by
  obtain ⟨k, hk, hClass⟩ := h
  exact if_pos (List.any_eq_true.mpr ⟨k, hk, by rw [Option.map_eq_none_iff.mp hClass]; rfl⟩)

theorem inboundPages_of_all_mapped (h : ∀ k ∈ pagesOf 65536 a n, pageClass s k ≠ none) :
    inboundPages a n s = (s, !(pagesOf 65536 a n).any fun k => classPrivate ((pageClass s k).getD 0)) := by
  refine if_neg fun hAny => ?_
  obtain ⟨k, hk, hNone⟩ := List.any_eq_true.mp hAny
  refine h k hk ?_
  rw [pageClass, Option.isNone_iff_eq_none.mp hNone]
  rfl

theorem reducePages_iff : reducePages s a n = true ↔ ∀ k ∈ pagesOf 65536 a n, pageClass s k = some 3 := by simp [reducePages]

theorem inboundPages_of_reducePages (h : reducePages s a n = true) : inboundPages a n s = (s, true) := by
  have hClass := reducePages_iff.mp h
  rw [inboundPages_of_all_mapped fun k hk => by simp [hClass k hk]]
  have hNone : (pagesOf 65536 a n).any (fun k => classPrivate ((pageClass s k).getD 0)) = false :=
    List.any_eq_false.mpr fun k hk => by rw [hClass k hk]; decide
  rw [hNone]
  rfl

end

/-! ### Reduce-write packets (R194, R321) -/

/-- The blocks of a reduce-write packet add into consecutive delta tiles. -/
def addBlocks (h : PktHdr) (a : Nat) (payload : List Byte) (s : State) : State :=
  (List.range (payload.length / blockBytes h.fmt)).foldl (fun s i => addBlock 1 h.tensor h.op h.fmt (a + i * longTileBytes)
    (fun k => payload.getD (i * blockBytes h.fmt + k) 0) s) s

/-- The payload of a reduce-write packet is whole blocks of a format, of a length that R321 allows. -/
def WholeBlocks (h : PktHdr) (payload : List Byte) : Prop :=
  fmtLegal h.fmt = true ∧ payloadOk payload = true ∧ payload.length / blockBytes h.fmt * blockBytes h.fmt = payload.length

section
variable {h : PktHdr} {payload : List Byte} {a : Nat} {s : State}

theorem addBlocks_deltaPages (h : PktHdr) (a : Nat) (payload : List Byte) (s : State) : DeltaPagesStay s (addBlocks h a payload s) :=
  List.foldlRecOn (motive := DeltaPagesStay s) _ _ (.refl s) fun x hx _ _ => hx.trans (addBlock_deltaPages _ _ _ _ _ _ x)

theorem landReduce_of_caseMem {c o : Nat} (hPlace : h.endpoint = .caseMem c o) : landReduce h payload s = (s, false) := by
  rw [landReduce, hPlace]

theorem landReduce_of_malformed (hPlace : h.endpoint = .hbm a)
    (hBad : fmtLegal h.fmt = false ∨ payloadOk payload = false ∨ payload.length / blockBytes h.fmt * blockBytes h.fmt ≠ payload.length) :
    landReduce h payload s = (s, false) := by
  rw [landReduce, hPlace]
  refine if_pos ?_
  rcases hBad with hBad | hBad | hBad
  · simp [hBad]
  · simp [hBad]
  · simp [hBad]

theorem landReduce_of_whole (hPlace : h.endpoint = .hbm a) (hWhole : WholeBlocks h payload) :
    landReduce h payload s = match inboundPages a (payload.length / blockBytes h.fmt * longTileBytes) s with
      | (t, false) => (t, false)
      | (t, true) => if !reducePages t a (payload.length / blockBytes h.fmt * longTileBytes) then (t, false)
        else (addBlocks h a payload t, deltasTaken a (payload.length / blockBytes h.fmt * longTileBytes) (addBlocks h a payload t)) := by
  obtain ⟨hFmt, hOk, hLength⟩ := hWhole
  rw [landReduce, hPlace]
  exact if_neg (by simp [hFmt, hOk, hLength])

theorem landReduce_of_unmapped (hPlace : h.endpoint = .hbm a) (hWhole : WholeBlocks h payload)
    (hNone : ∃ k ∈ pagesOf 65536 a (payload.length / blockBytes h.fmt * longTileBytes), pageClass s k = none) :
    landReduce h payload s = (countEvent .region (addrStack a / 2 % 4) 1 (inDoubt s), false) := by
  rw [landReduce_of_whole hPlace hWhole, inboundPages_of_some_unmapped hNone]

theorem landReduce_of_other_class (hPlace : h.endpoint = .hbm a) (hWhole : WholeBlocks h payload)
    (hMapped : ∀ k ∈ pagesOf 65536 a (payload.length / blockBytes h.fmt * longTileBytes), pageClass s k ≠ none)
    (hOther : ∃ k ∈ pagesOf 65536 a (payload.length / blockBytes h.fmt * longTileBytes), pageClass s k ≠ some 3) :
    landReduce h payload s = (s, false) := by
  have hNot : reducePages s a (payload.length / blockBytes h.fmt * longTileBytes) = false := by
    obtain ⟨k, hk, hClass⟩ := hOther
    exact Bool.eq_false_iff.mpr fun hAll => hClass (reducePages_iff.mp hAll k hk)
  rw [landReduce_of_whole hPlace hWhole, inboundPages_of_all_mapped hMapped]
  split
  next hEq => rw [(Prod.mk.inj hEq).1]
  next hEq => rw [← (Prod.mk.inj hEq).1, hNot]; rfl

theorem landReduce_of_ready (hPlace : h.endpoint = .hbm a) (hWhole : WholeBlocks h payload)
    (hClass : reducePages s a (payload.length / blockBytes h.fmt * longTileBytes) = true)
    (hTaken : ∀ k ∈ pagesOf 65536 a (payload.length / blockBytes h.fmt * longTileBytes), (SMap.get? s.hbm.deltaPages (2 * k + 1)).isSome = true) :
    landReduce h payload s = (addBlocks h a payload s, true) := by
  rw [landReduce_of_whole hPlace hWhole, inboundPages_of_reducePages hClass]
  dsimp only
  rw [hClass, (addBlocks_deltaPages h a payload s).deltasTaken hTaken]
  rfl

end

/-! ### Long partial packets (R91, R93, R194, R321) -/

/-- A payload is as long as one of the three forms of a long partial (R93, R161). -/
def PartialLength (n : Nat) : Prop := n = longTileBytes ∨ n = roundedTileBytes ∨ n = lanePartialBytes

theorem partialLength_iff (n : Nat) : PartialLength n ↔ ¬ (n != longTileBytes && n != roundedTileBytes && n != lanePartialBytes) = true := by
  simp only [PartialLength, Bool.and_eq_true, bne_iff_ne]
  tauto

theorem payloadOk_of_partialLength {payload : List Byte} (h : PartialLength payload.length) : payloadOk payload = true := by
  unfold payloadOk
  rcases h with h | h | h
  · rw [h]
    rfl
  · rw [h]
    rfl
  · rw [h]
    rfl

/-- A long partial combines into its delta tile, by its form. -/
def addPartial (h : PktHdr) (a : Nat) (payload : List Byte) (s : State) : State :=
  if h.rounded then addRounded 1 h.tensor a (fun i => payload.getD i 0) s
  else addLongTile 1 h.tensor a (payload.length == lanePartialBytes) (LTile.parse (fun i => payload.getD i 0)) s

section
variable {h : PktHdr} {payload : List Byte} {a : Nat} {s : State}

theorem addPartial_deltaPages (h : PktHdr) (a : Nat) (payload : List Byte) (s : State) : DeltaPagesStay s (addPartial h a payload s) := by
  unfold addPartial
  split
  · exact addRounded_deltaPages _ _ _ _ s
  · exact addLongTile_deltaPages _ _ _ _ _ s

theorem landPartial_of_other_length (hLength : ¬ PartialLength payload.length) : landPartial h payload s = (s, false) :=
  if_pos (not_not.mp (mt (partialLength_iff _).mpr hLength))

theorem landPartial_of_ready (hPlace : h.endpoint = .hbm a) (hLength : PartialLength payload.length) (hClass : reducePages s a payload.length = true)
    (hTaken : ∀ k ∈ pagesOf 65536 a payload.length, (SMap.get? s.hbm.deltaPages (2 * k + 1)).isSome = true) :
    landPartial h payload s = (addPartial h a payload s, true) := by
  unfold landPartial
  rw [if_neg ((partialLength_iff _).mp hLength), hPlace]
  dsimp only
  rw [if_pos hClass]
  exact congrArg (Prod.mk (addPartial h a payload s)) ((addPartial_deltaPages h a payload s).deltasTaken hTaken)

theorem landPartial_of_other_class (hPlace : h.endpoint = .hbm a) (hLength : PartialLength payload.length)
    (hClass : reducePages s a payload.length = false) : landPartial h payload s = landRaw h.endpoint payload s := by
  unfold landPartial
  rw [if_neg ((partialLength_iff _).mp hLength), hPlace]
  dsimp only
  rw [if_neg (Bool.eq_false_iff.mp hClass)]

theorem landPartial_of_unmapped (hPlace : h.endpoint = .hbm a) (hLength : PartialLength payload.length)
    (hNone : ∃ k ∈ pagesOf 65536 a payload.length, pageClass s k = none) :
    landPartial h payload s = (countEvent .region (addrStack a / 2 % 4) 1 (inDoubt s), false) := by
  obtain ⟨k, hk, hClass⟩ := id hNone
  have hNot : reducePages s a payload.length = false :=
    Bool.eq_false_iff.mpr fun hAll => absurd (hClass.symm.trans (reducePages_iff.mp hAll k hk)) (by simp)
  rw [landPartial_of_other_class hPlace hLength hNot, hPlace, landRaw, inboundPages_of_some_unmapped hNone]

/-- To one page of another class that may be written from outside it lands as a write packet's bytes do. -/
theorem landPartial_of_public {c : Nat} (hPlace : h.endpoint = .hbm a) (hLength : PartialLength payload.length)
    (hFits : a % 65536 + payload.length ≤ 65536) (hClass : pageClass s (a / 65536) = some c) (hOther : c ≠ 3) (hPublic : classPrivate c = false)
    (hCopy : (SMap.get? s.hbm.carPages (a / 65536)).isSome = true) :
    landPartial h payload s = (hbmCarry false a payload s, true) := by
  have hOk := payloadOk_of_partialLength hLength
  have hNot : reducePages s a payload.length = false := by
    rw [reducePages, pagesOf_payload hFits hOk]
    simp [hClass, hOther]
  rw [landPartial_of_other_class hPlace hLength hNot, hPlace, landRaw, inboundPages_of_mapped hFits hOk hClass, hPublic]
  simp only [Bool.not_false, pagesOf_payload hFits hOk, hbmCarry_of_one hFits hOk hClass hCopy, List.all_cons, List.all_nil, hCopy, Bool.and_self]

/-- In case memory it lands as a write packet does. -/
theorem landPartial_of_caseMem {c o : Nat} (hPlace : h.endpoint = .caseMem c o) (hLength : PartialLength payload.length) :
    landPartial h payload s = landWrite h payload s := by
  have hRaw : landPartial h payload s = landRaw h.endpoint payload s := by
    unfold landPartial
    rw [if_neg ((partialLength_iff _).mp hLength), hPlace]
  rw [hRaw, landWrite, if_neg (by simp [payloadOk_of_partialLength hLength])]
  split
  next hLand => rw [hLand, stagePoison_of_caseMem hPlace]
  next hLand => rw [hLand]

end

/-! ### The three commands -/

/-- A snapshot transfer packet as it is kept: its offset stands for its place. -/
def transferHdr (h : PktHdr) (off : Nat) : PktHdr := { h with snapshot := true, endpoint := .hbm off }

section
variable {s t : State} {port kind : Nat} {slot : Bool} {place : Endpoint} {h : PktHdr} {payload : List Byte} {land : State → State × Bool} {l : List Comp}
  (hUp : claspUp (claspOf port s) = true) (hLive : portLive port s = true) (hMine : forMe h s = true) (hFrame : h.frame = frameNo s)
  (hRuns : epRuns s place = true) (hDoes : ∀ u, Does l u (land u).1) (hk : Comp.pending ∉ l)
include hUp hLive hMine hFrame hRuns hDoes hk

/-- A packet that lands counts, whatever its landing is. -/
theorem effect_arrive_of_landed (hLand : land (drainFlits port payload.length s) = (t, true)) :
    effect (arrivePacket port kind slot place h payload land) s = .next (noteContribution h (countPacket h t)) := by
  have hMore := hDoes (drainFlits port payload.length s)
  rw [hLand] at hMore
  exact effect_eq_next (arrivePacket_of_landed hUp hLive hMine hFrame hRuns hLand)
    (((landed_does h t).pending_eq.trans (hMore.pending_eq hk)).trans (drainFlits_does _ _ _).pending_eq)

theorem effect_arrive_of_discarded (hLand : land (drainFlits port payload.length s) = (t, false)) :
    effect (arrivePacket port kind slot place h payload land) s = .next t := by
  have hMore := hDoes (drainFlits port payload.length s)
  rw [hLand] at hMore
  exact effect_eq_next (arrivePacket_of_discarded hUp hLive hMine hFrame hRuns hLand)
    ((hMore.pending_eq hk).trans (drainFlits_does _ _ _).pending_eq)

end

/-- One that lands as carried bytes: the bytes, committed HBM, and the count of its source. -/
theorem landed_carried {s : State} {h : PktHdr} {payload : List Byte} {a c : Nat} (port : Nat) (hFits : a % 65536 + payload.length ≤ 65536)
    (hOk : payloadOk payload = true) (hClass : pageClass s (a / 65536) = some c) (hCopy : (SMap.get? s.hbm.carPages (a / 65536)).isSome = true) :
    let t := noteContribution h (countPacket h (hbmCarry false a payload (drainFlits port payload.length s)))
    t.hbm.carried = s.hbm.carried ++ [{ host := false, addr := a, bytes := payload }] ∧ t.hbm.mem = s.hbm.mem
    ∧ SMap.getD t.fabric.recv h.src 0 = SMap.getD s.fabric.recv h.src 0 + 1 := by
  have hHbm := (drainFlits_does port payload.length s).hbm_eq
  have hCarry := hbmCarry_of_one hFits hOk ((pageClass_congr hHbm _).trans hClass) (by rw [hHbm]; exact hCopy)
  intro t
  have hMore : t.hbm = (hbmCarry false a payload (drainFlits port payload.length s)).hbm := (landed_does h _).hbm_eq
  refine ⟨?_, ?_, (landed_recv h _).trans ?_⟩
  · rw [hMore, hCarry, hHbm]
  · rw [hMore, hCarry, hHbm]
  · rw [hCarry]
    exact congrArg (fun m => SMap.getD m h.src 0 + 1) (drainFlits_traffic port payload.length s).recv

/-- One that lands in an open cell: the bytes as staged, committed case memory, and the count of its source. -/
theorem landed_staged {s : State} {h : PktHdr} {payload : List Byte} {cell : Nat} (port o : Nat) (hOk : payloadOk payload = true)
    (hRoom : shadowRoom s cell 6 = true) :
    let t := noteContribution h (countPacket h (caseWrite .inbound cell o payload (drainFlits port payload.length s)))
    caseBytes t cell o payload.length = payload ∧ t.caseMem.mem = s.caseMem.mem
    ∧ SMap.getD t.fabric.recv h.src 0 = SMap.getD s.fabric.recv h.src 0 + 1 := by
  have hDrain := drainFlits_does port payload.length s
  have hRoom1 : shadowRoom (drainFlits port payload.length s) cell 6 = true := by
    rw [shadowRoom, shadowCount, hDrain.caseMem_eq]
    exact hRoom
  have hLands := caseWrite_lands hRoom1 (payloadOk_length hOk).2 o
  intro t
  have hCase : t.caseMem = (caseWrite .inbound cell o payload (drainFlits port payload.length s)).caseMem := (landed_does h _).caseMem_eq
  refine ⟨caseBytes_of_staged fun i hi => ?_, ?_, (landed_recv h _).trans ?_⟩
  · rw [hCase]
    exact hLands.staged i hi (List.mem_reverse.mpr (mem_pagesOf hi))
  · rw [hCase, hLands.mem, hDrain.caseMem_eq]
  · rw [(caseWrite_traffic .inbound cell o payload _).recv, (drainFlits_traffic port payload.length s).recv]

/-! ### Snapshot transfer packets (R342, R347, R352) -/

section
variable {h : PktHdr} {payload : List Byte} {off : Nat} {s t : State}

theorem landTransfer_of_bad_length (hBad : payloadOk payload = false) : landTransfer h off payload s = (s, false) := if_pos (by simp [hBad])

theorem landTransfer_of_served (hOk : payloadOk payload = true) (hServed : h.served = true) (hFrom : restoredFrom s h.src = true) :
    landTransfer h off payload s = (landServed off h.listed payload s, true) := by
  rw [landTransfer, if_neg (by simp [hOk]), if_pos hServed, if_pos hFrom]

theorem landTransfer_of_unserved (hServed : h.served = true) (hFrom : restoredFrom s h.src = false) : landTransfer h off payload s = (s, false) := by
  cases hOk : payloadOk payload with
  | false => exact landTransfer_of_bad_length hOk
  | true => rw [landTransfer, if_neg (by simp [hOk]), if_pos hServed, if_neg (Bool.eq_false_iff.mp hFrom)]

/-- The slot that a packet of a stop's transfer goes to. -/
def transferSlot (s : State) (src off : Nat) (payload : List Byte) : Option Nat :=
  if off = 0 && payload.length = 64 then (readHdr payload).bind (fun g => bindSlot s src g.bytes) else slotOfId s src

theorem transferSlot_congr (hSnap : t.snap = s.snap) (hImage : t.image = s.image) (src off : Nat) (payload : List Byte) :
    transferSlot t src off payload = transferSlot s src off payload := by
  simp only [transferSlot, bindSlot, slotOfId, hSnap, hImage]

theorem slotBase_congr (hImage : t.image = s.image) (n : Nat) : slotBase t n = slotBase s n := by rw [slotBase, hImage, slotBase]

theorem landTransfer_of_stop (hOk : payloadOk payload = true) (hServed : h.served = false) :
    landTransfer h off payload s = landSnapshot h.src off h.listed payload s := by
  rw [landTransfer, if_neg (by simp [hOk]), if_neg (by simp [hServed])]

theorem landTransfer_of_no_slot (hServed : h.served = false) (hSlot : transferSlot s h.src off payload = none) :
    landTransfer h off payload s = (s, false) := by
  cases hOk : payloadOk payload with
  | false => exact landTransfer_of_bad_length hOk
  | true =>
    rw [landTransfer_of_stop hOk hServed, landSnapshot]
    unfold transferSlot at hSlot
    dsimp only
    rw [hSlot]

theorem landTransfer_of_slot {n base size : Nat} (hOk : payloadOk payload = true) (hServed : h.served = false)
    (hSlot : transferSlot s h.src off payload = some n) (hBase : slotBase s n = some (base, size)) :
    landTransfer h off payload s = if off + payload.length > dataOff + size then (s, false)
      else (if off < 64 then takeHeader h.src n base (listSlot base off h.listed (putSlot base off payload s))
        else listSlot base off h.listed (putSlot base off payload s), true) := by
  rw [landTransfer_of_stop hOk hServed, landSnapshot]
  unfold transferSlot at hSlot
  dsimp only
  rw [hSlot]
  dsimp only
  rw [hBase]

end

/-! ### The obligation -/

/-- Settles O32. Each packet is consumed by its landing on the drained state, whose pages, cells and slots are those of the state. -/
theorem reduceAndSnapshotPackets : Obligations.ReduceAndSnapshotPackets := by
  unfold Obligations.ReduceAndSnapshotPackets
  refine ⟨?_, ?_, ?_⟩
  · intro s port h payload a hUp hLive hMine hFrame hPlace hRuns s1 ready n isPartial
    have hHbm : s1.hbm = s.hbm := (drainFlits_does port payload.length s).hbm_eq
    have hClassOf : pageClass (drainFlits port payload.length s) = pageClass s := funext (pageClass_congr hHbm)
    have hReduceLands := fun {t : State} => effect_arrive_of_landed (t := t) (payload := payload) (kind := 2) (slot := false) hUp hLive hMine hFrame hRuns
      (landReduce_does h payload) (by decide)
    have hReduceEnds := fun {t : State} => effect_arrive_of_discarded (t := t) (payload := payload) (kind := 2) (slot := false) hUp hLive hMine hFrame hRuns
      (landReduce_does h payload) (by decide)
    have hPartialLands := fun {t : State} => effect_arrive_of_landed (t := t) (payload := payload) (kind := 3) (slot := false) hUp hLive hMine hFrame hRuns
      (landPartial_does h payload) (by decide)
    have hPartialEnds := fun {t : State} => effect_arrive_of_discarded (t := t) (payload := payload) (kind := 3) (slot := false) hUp hLive hMine hFrame hRuns
      (landPartial_does h payload) (by decide)
    have hReduce : ∀ {m}, ready m → reducePages s1 a m = true := fun hReady =>
      reducePages_iff.mpr fun k hk => (congrFun hClassOf k).trans (hReady k hk).1
    have hTaken : ∀ {m}, ready m → ∀ k ∈ pagesOf 65536 a m, (SMap.get? s1.hbm.deltaPages (2 * k + 1)).isSome = true :=
      fun hReady k hk => by rw [hHbm]; exact (hReady k hk).2
    refine ⟨fun hFmt hOk hLength hReady => ?_, fun hBad => ?_, fun hLength hReady => ?_, fun hFmt hOk hLength => ?_,
      fun hLength hNone => ?_, fun c hLength hFits hClass hOther hPublic hCopy => ?_, fun hLength => ?_⟩
    · exact hReduceLands (landReduce_of_ready hPlace ⟨hFmt, hOk, hLength⟩ (hReduce hReady) (hTaken hReady))
    · exact hReduceEnds (landReduce_of_malformed hPlace hBad)
    · exact hPartialLands (landPartial_of_ready hPlace hLength (hReduce hReady) (hTaken hReady))
    · intro ks
      refine ⟨fun hNone => ?_, fun hMapped hOther => ?_⟩
      · exact hReduceEnds (landReduce_of_unmapped hPlace ⟨hFmt, hOk, hLength⟩ (by rw [hClassOf]; exact hNone))
      · exact hReduceEnds (landReduce_of_other_class hPlace ⟨hFmt, hOk, hLength⟩ (by rw [hClassOf]; exact hMapped)
          (by rw [hClassOf]; exact hOther))
    · exact hPartialEnds (landPartial_of_unmapped hPlace hLength (by rw [hClassOf]; exact hNone))
    · exact ⟨_, hPartialLands (landPartial_of_public hPlace hLength hFits ((congrFun hClassOf _).trans hClass) hOther hPublic (by rw [hHbm]; exact hCopy)),
        landed_carried port hFits (payloadOk_of_partialLength hLength) hClass hCopy⟩
    · exact hPartialEnds (landPartial_of_other_length hLength)
  · intro s port h payload c o hUp hLive hMine hFrame hPlace hRuns s1 n
    have hDrain : Does [.fabric] s s1 := drainFlits_does port payload.length s
    have hOpenOf : caseOpen s1 c o n = caseOpen s c o n := by rw [caseOpen_congr hDrain.image_eq hDrain.cells_eq]
    have hMoves : redirect s1 c = redirect s c := by rw [redirect, hDrain.image_eq, redirect]
    have hPartialEnds := fun {t : State} => effect_arrive_of_discarded (t := t) (payload := payload) (kind := 3) (slot := false) hUp hLive hMine hFrame hRuns
      (landPartial_does h payload) (by decide)
    refine ⟨?_, fun hClosed => ?_, fun hLength hOpen hRoom => ?_⟩
    · exact effect_arrive_of_discarded hUp hLive hMine hFrame hRuns (landReduce_does h payload) (by decide) (landReduce_of_caseMem hPlace)
    · by_cases hLength : PartialLength n
      · exact hPartialEnds ((landPartial_of_caseMem hPlace hLength).trans (landWrite_of_closed hPlace (hOpenOf.trans hClosed)))
      · exact hPartialEnds (landPartial_of_other_length hLength)
    · have hOk := payloadOk_of_partialLength hLength
      have hRoom1 : shadowRoom s1 (redirect s1 c) 6 = true := by
        rw [hMoves, shadowRoom, shadowCount, hDrain.caseMem_eq]
        exact hRoom
      have hLand : landPartial h payload s1 = (caseWrite .inbound (redirect s c) o payload s1, true) := by
        rw [landPartial_of_caseMem hPlace hLength, landWrite_of_open hPlace hOk (hOpenOf.trans hOpen) hRoom1, hMoves]
      exact ⟨_, effect_arrive_of_landed hUp hLive hMine hFrame hRuns (landPartial_does h payload) (by decide) hLand, landed_staged port o hOk hRoom⟩
  · intro s port h off payload hUp hLive hMine hFrame hRuns s1 h1 slot
    have hDrain : Does [.fabric] s s1 := drainFlits_does port payload.length s
    have hSlotOf : transferSlot s1 h.src off payload = slot := by
      rw [transferSlot_congr hDrain.snap_eq hDrain.image_eq]
      simp only [transferSlot, slot, Bool.and_eq_true, decide_eq_true_eq]
    have hFromOf : restoredFrom s1 h.src = restoredFrom s h.src := by rw [restoredFrom, hDrain.snap_eq, restoredFrom]
    have hLands := fun {t : State} => effect_arrive_of_landed (t := t) (payload := payload) (h := transferHdr h off) (kind := 1) (slot := true) hUp hLive hMine hFrame hRuns
      (landTransfer_does (transferHdr h off) off payload) (by decide)
    have hEnds := fun {t : State} => effect_arrive_of_discarded (t := t) (payload := payload) (h := transferHdr h off) (kind := 1) (slot := true) hUp hLive hMine hFrame hRuns
      (landTransfer_does (transferHdr h off) off payload) (by decide)
    refine ⟨fun hOk hServed hFrom => ?_, fun hServed hFrom => ?_, fun n base size hOk hServed hSlot hBase => ⟨fun hInside => ?_, fun hBeyond => ?_⟩,
      fun hBad => ?_, fun hServed hSlot => ?_⟩
    · exact hLands (landTransfer_of_served hOk hServed (hFromOf.trans hFrom))
    · exact hEnds (landTransfer_of_unserved hServed (hFromOf.trans hFrom))
    · exact hLands ((landTransfer_of_slot hOk hServed (hSlotOf.trans hSlot) ((slotBase_congr hDrain.image_eq n).trans hBase)).trans
        (if_neg (Nat.not_lt.mpr hInside)))
    · exact hEnds ((landTransfer_of_slot hOk hServed (hSlotOf.trans hSlot) ((slotBase_congr hDrain.image_eq n).trans hBase)).trans (if_pos hBeyond))
    · exact hEnds (landTransfer_of_bad_length hBad)
    · exact hEnds (landTransfer_of_no_slot hServed (hSlotOf.trans hSlot))

end Sys2Proof.Machine
end

section
/-! PROOFS. The windows of BAR2 and BAR4: accesses that wait, reads as committed, and posted writes (R50, R181, R182, R256, R257, R260, R262, R407,
R408). -/

namespace Sys2Proof.Machine
open Sys2Proof

/-! ### No access starts or ends a stack's training (R407, R411) -/

theorem foldl_training {β : Type} {f : State → β → State} (hf : ∀ x b, (f x b).hbm.training = x.hbm.training) (xs : List β) (s : State) :
    (xs.foldl f s).hbm.training = s.hbm.training :=
  List.foldlRecOn (motive := fun t : State => t.hbm.training = s.hbm.training) xs f rfl fun x hx b _ => (hf x b).trans hx

theorem weaken_training (phys row : Nat) (s : State) : (weaken phys row s).hbm.training = s.hbm.training := by
  obtain ⟨weak, corrected, hWeak⟩ := weaken_hbm phys row s
  rw [hWeak]

theorem enterPoison_training (phys word : Nat) (s : State) : (enterPoison phys word s).hbm.training = s.hbm.training := by
  unfold enterPoison
  split
  · rfl
  next k _ =>
    split_ifs
    · rfl
    · rfl
    · obtain ⟨regen, hRegen⟩ := poisonAction_hbm ((pageClass s k).getD 0) k word
        { s with hbm := { s.hbm with poison := s.hbm.poison ++ [(phys, word)] } }
      rw [hRegen]

theorem xorWord_training (phys word : Nat) (diff : List Byte) (s : State) : (xorWord phys word diff s).hbm.training = s.hbm.training := by
  unfold xorWord
  split
  · rfl
  · rfl

theorem uncorrectable_training (phys word : Nat) (confirmed : Bool) (s : State) :
    (uncorrectable phys word confirmed s).hbm.training = s.hbm.training := by
  unfold uncorrectable
  extract_lets u
  have hCount : u.hbm.training = s.hbm.training := (weaken_training _ _ _).trans (countEvent_retiring _ _ _ s).training
  split
  · exact (enterPoison_training phys word u).trans hCount
  · exact (congrArg HbmSt.training (inDoubt_does _).hbm_eq).trans hCount

theorem readWord_training (u : HbmUpset) (s : State) : (readWord u s).hbm.training = s.hbm.training := by
  unfold readWord
  split
  · rfl
  · split
    · rfl
    · exact (xorWord_training _ _ _ _).trans (countEvent_retiring _ _ _ s).training
    · exact uncorrectable_training _ _ _ s

theorem bar2Word_training (u : HbmUpset) (s : State) : (bar2Word u s).hbm.training = s.hbm.training := by
  unfold bar2Word
  split
  · rfl
  · split
    · exact (weaken_training _ _ _).trans (countEventWith_retiring _ _ _ _ _ _ s).training
    · exact readWord_training u s

theorem countListed_training (phys : Nat) (s : State) : (countListed phys s).hbm.training = s.hbm.training :=
  (countEventWith_retiring _ _ _ _ _ _ s).training

theorem serveRead_training (p : PPort) (a len : Nat) (reads : List HbmUpset) (s : State) :
    (serveRead p a len reads s).hbm.training = s.hbm.training := by
  unfold serveRead
  refine (congrArg HbmSt.training (setRead_does p _ _).hbm_eq).trans ((foldl_training (fun x u => bar2Word_training u x) _ _).trans ?_)
  exact foldl_training (fun x w => countListed_training _ x) _ s

theorem stageCarried_training (k : Nat) (s : State) : (stageCarried k s).1.hbm.training = s.hbm.training := by
  unfold stageCarried
  split_ifs
  · rfl
  · rfl
  · obtain ⟨full, hFull⟩ := stagingOverflow_retiring (pageStack k) s
    exact hFull.training

theorem hbmCarry_training (host : Bool) (a : Nat) (bytes : List Byte) (s : State) : (hbmCarry host a bytes s).hbm.training = s.hbm.training := by
  unfold hbmCarry
  refine foldl_training (fun x k => ?_) _ s
  have hStage := stageCarried_training k x
  split
  · rfl
  · split
    next hTaken =>
      rw [hTaken] at hStage
      exact hStage
    next hTaken =>
      rw [hTaken] at hStage
      exact hStage

theorem hostCarry_training (a : Nat) (bytes : List Byte) (s : State) : (hostCarry a bytes s).hbm.training = s.hbm.training := by
  unfold hostCarry
  refine foldl_training (fun x k => ?_) _ s
  split
  · rfl
  · exact hbmCarry_training _ _ _ x

theorem serveWait_training (w : Bar2Wait) (s : State) : (serveWait w s).hbm.training = s.hbm.training := by
  unfold serveWait
  extract_lets s1
  have hPort : s1.hbm.training = s.hbm.training := congrArg HbmSt.training (onPort_hbm w.port _ s)
  split
  · exact (hostCarry_training _ _ s1).trans hPort
  · exact (serveRead_training _ _ _ _ s1).trans hPort

theorem serveWaits_training (sel : Bar2Wait → Bool) (s : State) : (serveWaits sel s).hbm.training = s.hbm.training := by
  unfold serveWaits
  exact foldl_training (fun x w => serveWait_training w x) _ _

/-! ### Accesses that wait (R407, R408) -/

section
variable {sel : Bar2Wait → Bool} {s : State}

/-- Where no access that waits can be served, nothing happens. -/
theorem serveWaits_of_none (h : ∀ w ∈ s.hbm.bar2Waits, (sel w && epRuns s (.hbm w.addr)) = false) : serveWaits sel s = s := by
  have hNow : s.hbm.bar2Waits.filter (fun w => sel w && epRuns s (.hbm w.addr)) = [] :=
    List.filter_eq_nil_iff.mpr fun w hw => Bool.eq_false_iff.mp (h w hw)
  have hLater : s.hbm.bar2Waits.filter (fun w => !(sel w && epRuns s (.hbm w.addr))) = s.hbm.bar2Waits :=
    List.filter_eq_self.mpr fun w hw => by rw [h w hw]; rfl
  unfold serveWaits
  dsimp only
  rw [hNow, List.foldl_nil, onHbm, hLater]

theorem serveWaits_of_other_ports {p : PPort} (h : ∀ w ∈ s.hbm.bar2Waits, w.port ≠ p) : serveWaits (fun w => w.port = p) s = s :=
  serveWaits_of_none fun w hw => by simp [h w hw]

/-- The write pointer of a port's FIFO moves on by one entry. -/
def fifoTakes (p : PPort) (s : State) : State := onPort p (fun q => { q with fifoWr := q.fifoWr + 1 }) s

theorem waitBar2_eq (w : Bar2Wait) (s : State) :
    waitBar2 w s = onHbm (fun h => { h with bar2Waits := h.bar2Waits ++ [w] }) (fifoTakes w.port s) := by
  unfold waitBar2 fifoTakes
  cases w.port <;> rfl

theorem waitBar2_hbm (w : Bar2Wait) (s : State) : (waitBar2 w s).hbm = { s.hbm with bar2Waits := s.hbm.bar2Waits ++ [w] } := onPort_hbm _ _ _

theorem epRuns_waitBar2 (w : Bar2Wait) (s : State) (e : Endpoint) : epRuns (waitBar2 w s) e = epRuns s e := by
  cases e with
  | hbm a => rw [epRuns, epRuns, waitBar2_hbm, (waitBar2_does w s).clocks_eq]
  | caseMem c o => rw [epRuns, epRuns, (waitBar2_does w s).clocks_eq]
  | host b o => rfl
  | remote c a => rfl

variable {p : PPort} {w : Bar2Wait} (hOthers : ∀ v ∈ s.hbm.bar2Waits, v.port ≠ p)
include hOthers

/-- A new entry alone in its port's FIFO is served at once where its stack's clock runs. -/
theorem serveWaits_waitBar2_of_runs (hPort : w.port = p) (hRuns : epRuns s (.hbm w.addr) = true) :
    serveWaits (fun v => v.port = p) (waitBar2 w s) = serveWait w (fifoTakes p s) := by
  have hSelf : (decide (w.port = p) && epRuns (waitBar2 w s) (.hbm w.addr)) = true := by rw [epRuns_waitBar2, hRuns, hPort]; simp
  have hOther : ∀ v ∈ s.hbm.bar2Waits, (decide (v.port = p) && epRuns (waitBar2 w s) (.hbm v.addr)) = false := fun v hv => by
    simp [hOthers v hv]
  have hNow : (s.hbm.bar2Waits ++ [w]).filter (fun v => decide (v.port = p) && epRuns (waitBar2 w s) (.hbm v.addr)) = [w] := by
    rw [List.filter_append, List.filter_eq_nil_iff.mpr fun v hv => Bool.eq_false_iff.mp (hOther v hv), List.filter_singleton, hSelf]
    rfl
  have hLater : (s.hbm.bar2Waits ++ [w]).filter (fun v => !(decide (v.port = p) && epRuns (waitBar2 w s) (.hbm v.addr))) = s.hbm.bar2Waits := by
    rw [List.filter_append, List.filter_eq_self.mpr fun v hv => by rw [hOther v hv]; rfl, List.filter_singleton, hSelf]
    exact List.append_nil _
  have hRest : { waitBar2 w s with hbm := { (waitBar2 w s).hbm with bar2Waits := s.hbm.bar2Waits } } = fifoTakes p s := by
    rw [waitBar2_eq, hPort]
    cases p <;> rfl
  unfold serveWaits onHbm
  dsimp only
  rw [← hRest, waitBar2_hbm, hNow]
  dsimp only
  rw [hLater]
  rfl

/-- One whose stack's clock stands waits. -/
theorem serveWaits_waitBar2_of_stopped (hStopped : epRuns s (.hbm w.addr) = false) :
    serveWaits (fun v => v.port = p) (waitBar2 w s) = waitBar2 w s := by
  refine serveWaits_of_none fun v hv => ?_
  rw [waitBar2_hbm] at hv
  rcases List.mem_append.mp hv with hv | hv
  · simp [hOthers v hv]
  · rw [List.mem_singleton.mp hv, epRuns_waitBar2, hStopped, Bool.and_false]

end

/-! ### Commands on a port that decodes (R256, R257) -/

section
variable {p : PPort} {f : State → State} {s t : State}

theorem effect_whenDecoding_of_not (h : decodes (getPPort p s) = false) : effect (whenDecoding p f) s = .next s :=
  effect_of_eq (if_neg (Bool.eq_false_iff.mp h))

theorem effect_whenDecoding (hDecodes : decodes (getPPort p s) = true) (h : f s = t) (hPending : t.pending = s.pending) :
    effect (whenDecoding p f) s = .next t :=
  effect_eq_next ((if_pos hDecodes).trans h) hPending

end

theorem exec_bar2Read {off len : Nat} (h : off + len ≤ 2 ^ 30) (p : PPort) (reads : List HbmUpset) (s : State) :
    exec (.bar2Read p off len reads) s = effect (whenDecoding p (readBar2 p off len reads)) s := if_pos h

theorem exec_bar2Write {off : Nat} {x : Posted} (h : off + x.bytes.length ≤ 2 ^ 30) (p : PPort) (s : State) :
    exec (.bar2Write p off x) s = effect (whenDecoding p (writeBar2 p off x)) s := if_pos h

/-! ### Reads (R181, R260) -/

section
variable {p : PPort} {off len : Nat} {reads : List HbmUpset} {s t : State}

theorem readBar2_of_closed (h : bar2Closed s = true) : readBar2 p off len reads s = setRead p { data := [], poisoned := false, abort := true } s :=
  if_pos h

section
variable (hOpen : bar2Closed s = false)
include hOpen

theorem readBar2_of_silent (h : unitAnswers p s (addrStack (bar2Addr p off s)) = false) : readBar2 p off len reads s = s := by
  rw [readBar2, if_neg (Bool.eq_false_iff.mp hOpen)]
  exact if_pos (by simp [h])

variable (hAnswers : unitAnswers p s (addrStack (bar2Addr p off s)) = true)
include hAnswers

theorem readBar2_of_answers : readBar2 p off len reads s = if s.hbm.training.contains (addrStack (bar2Addr p off s)) then
      waitBar2 { port := p, write := false, addr := bar2Addr p off s, len := len, bytes := [], reads := reads } (serveWaits (fun w => w.port = p) s)
    else serveRead p (bar2Addr p off s) len reads (serveWaits (fun w => w.port = p) s) := by
  rw [readBar2, if_neg (Bool.eq_false_iff.mp hOpen)]
  exact if_neg (by simp [hAnswers])

end

/-- A read that meets no listed and no upset word returns what is committed. -/
theorem serveRead_of_clean {a : Nat} (hListed : listedIn s a len = []) (hUps : upsetsIn s a len reads = []) : serveRead p a len reads s
    = setRead p { data := (List.range len).map (fun i => bar2Byte s (a + i)), poisoned := false, abort := false } s := by
  unfold serveRead
  dsimp only
  rw [hListed, hUps]
  rfl

/-- What a read returns: as many bytes as it asks for, poisoned where a word was listed or cannot be corrected. -/
theorem serveRead_lastRead (p : PPort) (a len : Nat) (reads : List HbmUpset) (s : State) :
    ∃ r, (getPPort p (serveRead p a len reads s)).lastRead = some r ∧ r.data.length = len ∧ r.abort = false
      ∧ (r.poisoned = true ↔ (listedIn s a len ≠ [] ∨ ∃ u ∈ upsetsIn s a len reads, isBad u = true)) := by
  unfold serveRead setRead
  rw [getPPort_onPort]
  refine ⟨_, rfl, by simp, rfl, ?_⟩
  simp only [Bool.or_eq_true, Bool.not_eq_true', List.any_eq_true, List.isEmpty_eq_false_iff]

theorem exec_bar2Read_eq (hRange : off + len ≤ 2 ^ 30) (hDecodes : decodes (getPPort p s) = true) (h : readBar2 p off len reads s = t) :
    exec (.bar2Read p off len reads) s = .next t :=
  (exec_bar2Read hRange p reads s).trans (effect_whenDecoding hDecodes h (h ▸ (readBar2_does p off len reads s).pending_eq))

end

/-! ### Posted writes (R50, R181, R260) -/

section
variable {p : PPort} {off : Nat} {x : Posted} {s t : State}

/-- The entry of a posted write in its port's FIFO. -/
def postedWait (p : PPort) (off : Nat) (x : Posted) (s : State) : Bar2Wait :=
  { port := p, write := true, addr := bar2Addr p off s, len := 0, bytes := x.bytes, reads := [] }

theorem writeBar2_of_refused (h : bar2Closed s = true ∨ s.own.holder ≠ some p ∨ unitAnswers p s (addrStack (bar2Addr p off s)) = false) :
    writeBar2 p off x s = s := by
  refine if_pos ?_
  rcases h with h | h | h
  · simp [h]
  · simp [h]
  · simp [h]

theorem writeBar2_of_taken (hOpen : bar2Closed s = false) (hHolder : s.own.holder = some p)
    (hAnswers : unitAnswers p s (addrStack (bar2Addr p off s)) = true) : writeBar2 p off x s
      = if x.unread then waitBar2 (postedWait p off x s) s else serveWaits (fun w => w.port = p) (waitBar2 (postedWait p off x s) s) :=
  if_neg (by simp [hOpen, hHolder, hAnswers])

theorem exec_bar2Write_eq (hRange : off + x.bytes.length ≤ 2 ^ 30) (hDecodes : decodes (getPPort p s) = true) (h : writeBar2 p off x s = t) :
    exec (.bar2Write p off x) s = .next t :=
  (exec_bar2Write hRange p s).trans (effect_whenDecoding hDecodes h (h ▸ (writeBar2_does p off x s).pending_eq))

/-- A unit that answers has its region's clocks, and its stack's access runs unless the stack trains. -/
theorem epRuns_of_unitAnswers {a : Nat} (h : unitAnswers p s (addrStack a) = true) :
    epRuns s (.hbm a) = !s.hbm.training.contains (addrStack a) := by
  simp only [unitAnswers, Bool.and_eq_true] at h
  obtain ⟨⟨⟨-, hClock⟩, -⟩, -⟩ := h
  rw [epRuns, hClock, Bool.and_true]

end

section
variable {a : Nat} {bytes : List Byte} {s : State} (hBytes : 0 < bytes.length) (hFits : a % 65536 + bytes.length ≤ 65536)
include hBytes hFits

/-- A carried write inside one mapped page that has its carried copy. -/
theorem hbmCarry_of_copied (host : Bool) (hMapped : (pageEnt s (a / 65536)).isSome = true)
    (hCopy : (SMap.get? s.hbm.carPages (a / 65536)).isSome = true) : hbmCarry host a bytes s = { s with hbm := { s.hbm with
      carried := s.hbm.carried ++ [{ host := host, addr := a, bytes := bytes }]
      poisonIn := s.hbm.poisonIn.filter (fun w => !coversWord a bytes.length w) } } := by
  have hStage : stageCarried (a / 65536) s = (s, true) := if_pos hCopy
  unfold hbmCarry
  rw [pagesOf_of_one (size := 65536) hBytes hFits, List.foldl_cons, List.foldl_nil,
    if_neg (by rw [Option.isNone_iff_eq_none]; exact Option.isSome_iff_ne_none.mp hMapped), hStage]
  simp only [partIn_of_one (size := 65536) hFits]

theorem hbmCarry_of_unmapped (host : Bool) (h : pageEnt s (a / 65536) = none) : hbmCarry host a bytes s = s := by
  unfold hbmCarry
  rw [pagesOf_of_one (size := 65536) hBytes hFits, List.foldl_cons, List.foldl_nil]
  exact if_pos (by rw [h]; rfl)

theorem hostCarry_of_one : hostCarry a bytes s
    = if classPrivate ((pageClass s (a / 65536)).getD 0) then s else hbmCarry true a bytes s := by
  unfold hostCarry
  rw [pagesOf_of_one (size := 65536) hBytes hFits, List.foldl_cons, List.foldl_nil, partIn_of_one (size := 65536) hFits]

/-- To a public page with its carried copy a host's write joins the carried writes. -/
theorem hostCarry_of_public {k : Nat} (hClass : pageClass s (a / 65536) = some k) (hPublic : classPrivate k = false)
    (hCopy : (SMap.get? s.hbm.carPages (a / 65536)).isSome = true) : hostCarry a bytes s = { s with hbm := { s.hbm with
      carried := s.hbm.carried ++ [{ host := true, addr := a, bytes := bytes }]
      poisonIn := s.hbm.poisonIn.filter (fun w => !coversWord a bytes.length w) } } := by
  obtain ⟨e, hEnt, -⟩ := Option.map_eq_some_iff.mp hClass
  rw [hostCarry_of_one hBytes hFits, hClass, Option.getD_some, hPublic]
  exact hbmCarry_of_copied hBytes hFits true (by rw [hEnt]; rfl) hCopy

/-- To every other page it stores nothing. -/
theorem hostCarry_of_not_public (h : pageClass s (a / 65536) = none ∨ ∃ k, pageClass s (a / 65536) = some k ∧ classPrivate k = true) :
    hostCarry a bytes s = s := by
  rw [hostCarry_of_one hBytes hFits]
  rcases h with hNone | ⟨k, hClass, hPrivate⟩
  · rw [hbmCarry_of_unmapped hBytes hFits true (Option.map_eq_none_iff.mp hNone), ite_self]
  · exact if_pos (by rw [hClass]; exact hPrivate)

end

/-! ### BAR4 (R256, R262) -/

section
variable {p : PPort} {off : Nat} {stopped : Bool} {s : State}

theorem exec_bar4Access_of_beyond (h : 2 ^ 24 ≤ off) : exec (.bar4Access p off stopped) s = .fault .bar4Range := if_pos h

theorem exec_bar4Access_of_inside (h : off < 2 ^ 24) : exec (.bar4Access p off stopped) s
    = if debugLife s && decodes (getPPort p s) && !stopped then .refused .debugRegisterMap else effect id s := if_neg (Nat.not_le.mpr h)

end

/-! ### The obligation -/

/-- One entry passes through the port's FIFO. -/
def fifoPasses (p : PPort) (s : State) : State := onPort p (fun q => { q with fifoRd := q.fifoRd + 1 }) (fifoTakes p s)

theorem fifoPasses_hbm (p : PPort) (s : State) : (fifoPasses p s).hbm = s.hbm := (onPort_hbm _ _ _).trans (onPort_hbm _ _ _)

theorem fifoPasses_port (p : PPort) (s : State) : (getPPort p (fifoPasses p s)).fifoWr = (getPPort p s).fifoWr + 1
    ∧ (getPPort p (fifoPasses p s)).fifoRd = (getPPort p s).fifoRd + 1 := by
  simp only [fifoPasses, fifoTakes, getPPort_onPort, and_self]

/-- Settles O47. A read is `serveRead` behind the accesses that it pushes; a posted write is its entry in the FIFO, served where the port has no
other and the stack's clock runs. -/
theorem bar2AndBar4 : Obligations.Bar2AndBar4 := by
  unfold Obligations.Bar2AndBar4
  refine ⟨?_, ?_, ⟨?_, fun s p off st => exec_bar4Access_of_beyond, fun s p off size v hBad => ?_, fun s p size hBad => ?_,
    fun s p off len reads hBeyond => if_neg (Nat.not_le.mpr hBeyond), fun s p off x hBeyond => if_neg (Nat.not_le.mpr hBeyond)⟩⟩
  · intro s p off len reads hRange a s1 ups
    have hTraining : s1.hbm.training = s.hbm.training := serveWaits_training _ s
    refine ⟨fun hNot => (exec_bar2Read hRange p reads s).trans (effect_whenDecoding_of_not hNot), fun hDecodes => ?_, serveWaits_of_other_ports⟩
    rw [hTraining]
    have hRead := fun {t : State} => exec_bar2Read_eq (t := t) (reads := reads) hRange hDecodes
    refine ⟨fun hClosed => hRead (readBar2_of_closed hClosed), fun hOpen hSilent => hRead (readBar2_of_silent hOpen hSilent),
      fun hOpen hAnswers hTrains => hRead ((readBar2_of_answers hOpen hAnswers).trans (if_pos hTrains)), fun hOpen hAnswers hTrained => ?_⟩
    have hServed : exec (.bar2Read p off len reads) s = .next (serveRead p a len reads s1) :=
      hRead ((readBar2_of_answers hOpen hAnswers).trans (if_neg (Bool.eq_false_iff.mp hTrained)))
    exact ⟨fun hListed hUps => hServed.trans (congrArg _ (serveRead_of_clean hListed hUps)), _, hServed, serveRead_lastRead p a len reads s1⟩
  · intro s p off x hRange a w
    refine ⟨fun hRefused => ?_, fun hDecodes hOpen hHolder hAnswers => ?_⟩
    · cases hDecodes : decodes (getPPort p s) with
      | false => exact (exec_bar2Write hRange p s).trans (effect_whenDecoding_of_not hDecodes)
      | true => exact exec_bar2Write_eq hRange hDecodes (writeBar2_of_refused (hRefused.resolve_left (by simp [hDecodes])))
    · have hTaken := exec_bar2Write_eq hRange hDecodes (writeBar2_of_taken (x := x) hOpen hHolder hAnswers)
      have hRuns : epRuns s (.hbm a) = !s.hbm.training.contains (addrStack a) := epRuns_of_unitAnswers hAnswers
      refine ⟨hTaken, fun hTrains hOthers => hTaken.trans (congrArg _ ?_), fun hTrained hOthers hRead hBytes hFits => ?_⟩
      · rw [serveWaits_waitBar2_of_stopped (w := postedWait p off x s) hOthers (by rw [← Bool.not_true, ← hTrains]; exact hRuns), ite_self]
        rfl
      · have hServed : exec (.bar2Write p off x) s = .next (hostCarry a x.bytes (fifoPasses p s)) := by
          rw [hTaken, hRead, if_neg Bool.false_ne_true,
            serveWaits_waitBar2_of_runs (w := postedWait p off x s) hOthers rfl (by rw [← Bool.not_false, ← hTrained]; exact hRuns)]
          rfl
        have hClassSame := pageClass_congr (fifoPasses_hbm p s) (a / 65536)
        refine ⟨fun k hClass hPublic hCopy => ?_, fun hNot => ⟨_, hServed, ?_⟩⟩
        · rw [hostCarry_of_public hBytes hFits (hClassSame.trans hClass) hPublic (by rw [fifoPasses_hbm]; exact hCopy)] at hServed
          refine ⟨_, hServed, ?_⟩
          dsimp only
          rw [fifoPasses_hbm]
          exact ⟨rfl, rfl, rfl, fifoPasses_port p s⟩
        · rw [hostCarry_of_not_public hBytes hFits (by rw [hClassSame]; exact hNot)]
          exact fifoPasses_hbm p s
  · intro s p off st hInside
    refine ⟨fun hClosed => ((exec_bar4Access_of_inside hInside).trans (if_neg ?_)).trans (effect_of_eq rfl),
      fun hLife hDecodes => (exec_bar4Access_of_inside hInside).trans (if_pos (by simp [hLife, hDecodes]))⟩
    rcases hClosed with h | h | h
    · simp [h]
    · simp [h]
    · simp [h]
  · exact if_neg (Bool.eq_false_iff.mp hBad)
  · exact if_neg (Bool.eq_false_iff.mp hBad)

end Sys2Proof.Machine
end

section
/-! PROOFS. Which forme item a cell starts (R38, R117, R198, R199, R333). -/

namespace Sys2Proof.Machine
open Sys2Proof

theorem exec_formeItemStart (cell pos : Nat) (wait : ItemWait) (s : State) : exec (.formeItemStart cell pos wait) s = effect (startItem cell pos wait) s := rfl

/-- A cell may start an item: its chip runs formes, the cell works and has started, the frame is not locked up, and no spare image loads (R38, R117). -/
structure MayStart (s : State) (cell : Nat) : Prop where
  formes : formesRun s = true
  works : cellWorks s cell = true
  unlocked : s.frame.lockUp = false
  started : s.frame.cellStarted.contains cell = true
  loaded : s.image.spareLoads.contains cell = false

section
variable {s : State} {cell pos : Nat} {it : Item}

theorem startItem_of_idle (wait : ItemWait) (h : formesRun s = false ∨ cellWorks s cell = false ∨ s.frame.lockUp = true
    ∨ s.frame.cellStarted.contains cell = false ∨ s.image.spareLoads.contains cell = true) : startItem cell pos wait s = s := by
  unfold startItem
  rw [if_pos]
  rcases h with h | h | h | h | h <;> rw [h] <;> simp

/-- A group wait reaches nothing that decides whether a cell may start an item (R333). -/
theorem MayStart.beginWait (h : MayStart s cell) (g : Nat) (missing : List Nat) : MayStart (beginWait cell g missing s) cell where
  formes := h.formes
  works := h.works
  unlocked := h.unlocked
  started := h.started
  loaded := h.loaded

/-- Where the next ordered item waits, the choice falls on the deferrable items (R198, R199). -/
theorem chooseItem_of_waits (s : State) (cell pos : Nat) : chooseItem s cell pos false = deferChoice s cell pos := by
  unfold chooseItem
  split <;> rfl

variable (h : MayStart s cell)
include h

theorem startItem_guard : ¬ (!formesRun s || !cellWorks s cell || s.frame.lockUp || !s.frame.cellStarted.contains cell
    || s.image.spareLoads.contains cell) = true := by
  rw [h.formes, h.works, h.unlocked, h.started, h.loaded]
  decide

theorem startItem_banks : startItem cell pos .banks s = ((deferChoice s cell pos).map (beginItem cell · s)).getD s := by
  unfold startItem
  rw [if_neg (startItem_guard h), ← chooseItem_of_waits s cell pos]
  change (match chooseItem s cell pos false with | some it => beginItem cell it s | none => s) = _
  cases chooseItem s cell pos false <;> rfl

theorem startItem_banks_of_some (hChoice : deferChoice s cell pos = some it) : startItem cell pos .banks s = beginItem cell it s := by
  rw [startItem_banks h, hChoice]
  rfl

theorem startItem_banks_of_none (hChoice : deferChoice s cell pos = none) : startItem cell pos .banks s = s := by
  rw [startItem_banks h, hChoice]
  rfl

/-- An item that waits for inbound data begins that wait, and the cell goes on as it does behind any other wait (R198, R333). -/
theorem startItem_inbound (g : Nat) (missing : List Nat) :
    startItem cell pos (.inbound g missing) s = startItem cell pos .banks (beginWait cell g missing s) := by
  unfold startItem
  rw [if_neg (startItem_guard h), if_neg (startItem_guard (h.beginWait g missing))]
  rfl

end

/-- Settles O21. The ready ordered item is `startItem_ready_of_head`; behind any wait the choice is the deferrable one. -/
theorem formeItemStarts : Obligations.FormeItemStarts := by
  unfold Obligations.FormeItemStarts
  refine ⟨fun s cell pos wait hIdle => (exec_formeItemStart cell pos wait s).trans (effect_of_eq (startItem_of_idle wait hIdle)),
    fun s cell pos hFormes hWorks hOpen hStarted hLoaded => ?_⟩
  have hMay : MayStart s cell := ⟨hFormes, hWorks, hOpen, hStarted, hLoaded⟩
  refine ⟨fun it rest hHead hReady hWindow => ?_, fun it hChoice => ?_, fun hChoice => ?_, fun g missing => ?_,
    fun it => mem_started_beginItem cell it s⟩
  · exact (exec_formeItemStart cell pos .ready s).trans (effect_eq_next
      (startItem_ready_of_head hFormes hWorks hOpen hStarted hLoaded hHead hReady hWindow) (beginItem_does _ _ _).pending_eq)
  · exact (exec_formeItemStart cell pos .banks s).trans (effect_eq_next (startItem_banks_of_some hMay hChoice) (beginItem_does _ _ _).pending_eq)
  · exact (exec_formeItemStart cell pos .banks s).trans (effect_of_eq (startItem_banks_of_none hMay hChoice))
  · rw [exec_formeItemStart, exec_formeItemStart, effect, effect, startItem_inbound hMay]
    rfl

end Sys2Proof.Machine
end

section
/-! PROOFS. UPDATE and DECISION (R209, R211, R215, R216, R221, R222, R224, R227, R335, R354, R407). -/

namespace Sys2Proof.Machine
open Sys2Proof

/-! ### UPDATE (R216, R224, R354) -/

theorem exec_update (unit entry first count : Nat) (s : State) : exec (.update unit entry first count) s = effect (updateRange unit entry first count) s := rfl

section
variable {s : State} {unit entry first count : Nat} {o : OptEntry}

theorem exec_update_of_eq {t : State} (h : updateRange unit entry first count s = t) : exec (.update unit entry first count) s = .next t :=
  (exec_update unit entry first count s).trans (effect_eq_next h (h ▸ (updateRange_does unit entry first count s).pending_eq))

theorem updateRange_of_idle (h : stackRuns s unit = false ∨ inOptimizer s = false ∨ s.frame.lockUp = true ∨ optEntry s entry = none) :
    updateRange unit entry first count s = s := by
  unfold updateRange
  rcases h with h | h | h | h
  · exact if_pos (by simp [h])
  · exact if_pos (by simp [h])
  · exact if_pos (by simp [h])
  · rw [h]
    exact ite_self s

/-- What UPDATE does on a stack that runs, in the optimizer phase: the regeneration frame, the first frame, and the step's outcome decide. -/
theorem updateRange_of_runs (hStack : stackRuns s unit = true) (hPhase : inOptimizer s = true) (hOpen : s.frame.lockUp = false)
    (hEntry : optEntry s entry = some o) : updateRange unit entry first count s =
      let tiles := (List.range count).map (· + first)
      if s.step.regen then tiles.foldl (requantTile unit o) s
      else if s.frame.formeIdx ≠ (stepShape s).opt then s
      else if s.step.record.outcome = 1 then tiles.foldl (updateTile unit entry o) s
      else if s.step.record.outcome = 2 then tiles.foldl (requantTile unit o) s
      else s := by
  unfold updateRange
  rw [if_neg (by simp [hStack, hPhase, hOpen]), hEntry]
  simp only [bne_iff_ne]

end

/-! ### DECISION (R211) -/

theorem exec_decision (lossAt : Option (Nat × Nat)) (others : List StepItems) (s : State) :
    exec (.decision lossAt others) s = effect (runDecision lossAt others) s := rfl

/-- The step is skipped for a member's vote or a norm that is not finite, else applied (R211). -/
theorem decideRecord_outcome (i : Image) (c : Combined) (r : StepRec) :
    (decideRecord i c r).outcome = if c.vote || !f32Finite c.norm.round then 2 else 1 := by
  unfold decideRecord
  dsimp only
  split_ifs <;> rfl

theorem decideRecord_skips (i : Image) {c : Combined} (r : StepRec) (h : c.vote = true ∨ f32Finite c.norm.round = false) :
    (decideRecord i c r).outcome = 2 := by
  rw [decideRecord_outcome]
  exact if_pos (by rcases h with h | h <;> simp [h])

theorem decideRecord_applies (i : Image) {c : Combined} (r : StepRec) (hVote : c.vote = false) (hFinite : f32Finite c.norm.round = true) :
    (decideRecord i c r).outcome = 1 := by
  rw [decideRecord_outcome]
  exact if_neg (by simp [hVote, hFinite])

section
variable {s : State} {i : Image} {lossAt : Option (Nat × Nat)} {others : List StepItems}

theorem runDecision_of_idle (h : coreRuns s = false ∨ decisionRuns s = false ∨ inDecision s = false ∨ s.frame.lockUp = true
    ∨ s.fabric.stalled ≠ [] ∨ allContribute s others = false) : runDecision lossAt others s = s := by
  unfold runDecision
  split
  · rfl
  · refine if_pos ?_
    rcases h with h | h | h | h | h | h
    · simp [h]
    · simp [h]
    · simp [h]
    · simp [h]
    · simp [List.isEmpty_eq_false_iff.mpr h]
    · simp [h]

/-- What a decision stages; the forecasts that it writes reach neither the step nor the statistics (R211, R221). -/
theorem runDecision_of_due (hCore : coreRuns s = true) (hRuns : decisionRuns s = true) (hImage : s.image.img = some i) (hFrame : inDecision s = true)
    (hOpen : s.frame.lockUp = false) (hGroups : s.fabric.stalled = []) (hAll : allContribute s others = true) :
    let c := others.foldl Combined.with (ownShare s i lossAt)
    let r := decideRecord i c s.step.record
    let t := runDecision lossAt others s
    t.step.record = s.step.record ∧ t.step.recStaged = some r ∧ t.stats.lastStaged = some c.stats ∧ t.step.cmpLastStaged = some c.compares
      ∧ t.step.constsStaged = (if r.outcome == 2 then s.step.constsStaged
        else some (i.opt.map (stepConst i.points (f32OfNat (s.step.record.applied.toNat + 1)))))
      ∧ t.step.tableStaged = some (policyTable s i.policy (r.outcome == 2) c.stats) := by
  intro c r t
  have hGuard : ¬ (!coreRuns s || !decisionRuns s || !inDecision s || s.frame.lockUp || !s.fabric.stalled.isEmpty || !allContribute s others) = true := by
    simp [hCore, hRuns, hFrame, hOpen, hGroups, hAll]
  have hRecord : (writeForecasts s i.policy c.stats).step.record = s.step.record :=
    congrArg StepSt.record (writeForecasts_does s i.policy c.stats).step_eq
  unfold t runDecision
  rw [hImage]
  dsimp only
  rw [if_neg hGuard]
  exact ⟨hRecord, rfl, rfl, rfl, rfl, rfl⟩

end

/-! ### The obligation -/

/-- Settles O30. UPDATE by the branches of `updateRange`; DECISION by what it stages, with the outcome of `decideRecord`. -/
theorem trainingStep : Obligations.TrainingStep := by
  unfold Obligations.TrainingStep
  refine ⟨fun s unit entry first count o hStack hPhase hOpen hEntry => ?_,
    fun s unit entry first count hIdle => exec_update_of_eq (updateRange_of_idle hIdle),
    fun s i lossAt others hCore hRuns hImage hFrame hOpen hGroups hAll => ?_,
    fun s lossAt others hIdle => (exec_decision lossAt others s).trans (effect_of_eq (runDecision_of_idle hIdle))⟩
  · intro tiles opens
    have hRange := updateRange_of_runs (first := first) (count := count) hStack hPhase hOpen hEntry
    refine ⟨fun hRegen => exec_update_of_eq (hRange.trans (if_pos hRegen)), fun hRegen hFirst hApplied => exec_update_of_eq ?_,
      fun hRegen hFirst hSkipped => exec_update_of_eq ?_, fun hRegen hElse => exec_update_of_eq ?_⟩
    · simp [hRange, hRegen, show s.frame.formeIdx = _ from hFirst, hApplied, tiles]
    · simp [hRange, hRegen, show s.frame.formeIdx = _ from hFirst, hSkipped, tiles]
    · rcases hElse with hLater | ⟨hNotApplied, hNotSkipped⟩
      · simp [hRange, hRegen, show s.frame.formeIdx ≠ _ from hLater]
      · simp [hRange, hRegen, hNotApplied, hNotSkipped]
  · intro c
    obtain ⟨hRecord, hStaged, hStats, hCompares, hConsts, hTable⟩ :=
      runDecision_of_due (lossAt := lossAt) hCore hRuns hImage hFrame hOpen hGroups hAll
    refine ⟨_, exec_decision lossAt others s, hRecord, hStaged, hStats, hCompares, fun hSkip => ?_, fun hVote hFinite => ?_, hTable⟩
    · have hOutcome := decideRecord_skips i s.step.record hSkip
      exact ⟨hOutcome, hConsts.trans (if_pos (beq_iff_eq.mpr hOutcome))⟩
    · have hOutcome := decideRecord_applies i s.step.record hVote hFinite
      exact ⟨hOutcome, hConsts.trans (if_neg (by rw [hOutcome]; decide))⟩

end Sys2Proof.Machine
end

section
/-! PROOFS. RUN_STEPS, SUBMIT_BATCH, HOLD and RESUME (R208, R263, R295 to R297). -/

namespace Sys2Proof.Machine
open Sys2Proof

/-! ### From the taken command to its completion (R263, R275) -/

/-- A state in which the command from slot `a` of `s` is still TAKEN, as firmware goes on with it. -/
structure StillTaken (a : Arrival) (s u : State) : Prop where
  taken : (slotAt a.port a.slot u).st = .taken
  sameCommand : SameCommand a s u

theorem StillTaken.takeSlot (a : Arrival) (s : State) : StillTaken a s (takeSlot a s) := ⟨by rw [slotAt_takeSlot], takeSlot_sameCommand a s⟩

theorem StillTaken.does {a : Arrival} {s u v : State} {l : List Comp} (h : StillTaken a s u) (hd : Does l u v) (hA : Comp.portA ∉ l := by decide)
    (hB : Comp.portB ∉ l := by decide) (hTick : Comp.tick ∉ l := by decide) : StillTaken a s v :=
  ⟨by rw [hd.slotAt_eq a.port a.slot hA hB]; exact h.taken, h.sameCommand.trans (hd.sameCommand a hA hB hTick)⟩

theorem StillTaken.batchRecord {a : Arrival} {s u : State} (h : StillTaken a s u) (b : Batch) (status attempted : Nat) :
    StillTaken a s (batchRecord b status attempted u) := by
  have hSlot : slotAt a.port a.slot (Machine.batchRecord b status attempted u) = slotAt a.port a.slot u := slotAt_dueRecord _ _ _ _ _
  exact ⟨by rw [hSlot]; exact h.taken,
    h.sameCommand.trans ⟨by rw [hSlot], by rw [hSlot], (batchRecord_does b status attempted u).tick_eq⟩⟩

theorem StillTaken.finish {a : Arrival} {s u : State} (h : StillTaken a s u) (status : Nat) (result : List Byte) :
    slotDone a status 0 result s ((cmdOf a s).finish status result u) :=
  finish_done status result h.taken h.sameCommand

/-- An issued command goes on from the slot that firmware has taken. -/
theorem exec_of_issued {c : Instr} {op : Nat} {ok : Cmd → State → Bool} {run : Cmd → State → State} {s t : State} {a : Arrival}
    (hExec : exec c s = effect (command op ok run) s) (hRow : mailboxRow c = some (op, ok)) (hIssued : issued c s a = true)
    (hRun : run (cmdOf a s) (takeSlot a s) = t) (hPending : t.pending = s.pending) : exec c s = .next t :=
  hExec.trans (effect_eq_next ((command_of_issued hRow hIssued run).trans hRun) hPending)

section
variable {s : State} {a : Arrival}

/-- A command that is refused as it stands leaves the step and the device as they were. -/
theorem refused_outcome (status : Nat) : let t := (cmdOf a s).finish status [] (takeSlot a s)
    t.pending = s.pending ∧ slotDone a status 0 [] s t ∧ t.step = s.step ∧ t.dev = s.dev := by
  have hDoes : Does [.portA, .portB, .mbx] s ((cmdOf a s).finish status [] (takeSlot a s)) :=
    does_by (Cmd_finish_does _ _ _ _) (takeSlot_does a s)
  exact ⟨hDoes.pending_eq, (StillTaken.takeSlot a s).finish status [], hDoes.step_eq, hDoes.dev_eq⟩

theorem referencedStalled_takeSlot : referencedStalled (takeSlot a s) = referencedStalled s := by
  rw [referencedStalled, (takeSlot_does a s).image_eq, (takeSlot_does a s).fabric_eq, referencedStalled]

/-! ### RUN_STEPS and RESUME (R295, R297) -/

theorem exec_runSteps (s : State) : exec .runSteps s = effect (command 0x50 (fun c _ => c.argLen = 4 && c.n 0 4 != 0) runRunSteps) s := rfl

theorem exec_resume (s : State) : exec .resume s = effect (command 0x53 noArgs runResume) s := rfl

/-- The taken command's state with the flags clear and a change of the step asked for (R295, R297). -/
def cleared (f : StepSt → StepSt) (a : Arrival) (s : State) : State := onStep f (clearFlags (takeSlot a s))

theorem cleared_does (f : StepSt → StepSt) : Does [.step, .portA, .portB, .mbx, .dev] s (cleared f a s) :=
  does_by (onStep_does _ _) (does_by (clearFlags_does _) (does_mono (takeSlot_does a s) (by decide)))

theorem cleared_stillTaken (f : StepSt → StepSt) : StillTaken a s (cleared f a s) :=
  ((StillTaken.takeSlot a s).does (clearFlags_does _)).does (onStep_does _ _)

theorem cleared_step (f : StepSt → StepSt) : (cleared f a s).step = f { s.step with record := { s.step.record with stalled := false } } := by
  rw [← (takeSlot_does a s).step_eq]
  rfl

theorem cleared_dev (f : StepSt → StepSt) : (cleared f a s).dev = { s.dev with stalled := false, uncontrolled := false } := by
  rw [← (takeSlot_does a s).dev_eq]
  rfl

/-- A command that clears the flags, asks for a change of the step and completes. -/
theorem cleared_outcome (f : StepSt → StepSt) (result : List Byte) : let t := (cmdOf a s).finish stDone result (cleared f a s)
    t.pending = s.pending ∧ slotDone a stDone 0 result s t
      ∧ t.step = f { s.step with record := { s.step.record with stalled := false } } ∧ t.dev = { s.dev with stalled := false, uncontrolled := false } := by
  have hFinish := Cmd_finish_does (cmdOf a s) stDone result (cleared f a s)
  exact ⟨hFinish.pending_eq.trans (cleared_does f).pending_eq, (cleared_stillTaken f).finish stDone result, hFinish.step_eq.trans (cleared_step f),
    hFinish.dev_eq.trans (cleared_dev f)⟩

/-- The start that RUN_STEPS asks for: at the next tick, with the steps of the command (R295). -/
def asksStart (c : Cmd) (t : StepSt) : StepSt :=
  { t with startAt := true, stepsLeft := if c.n 0 4 = 0xFFFFFFFF then none else some (c.n 0 4) }

theorem runRunSteps_takeSlot : runRunSteps (cmdOf a s) (takeSlot a s) =
    if referencedStalled s then (cmdOf a s).finish stGroupStalled [] (takeSlot a s)
    else (cmdOf a s).finish stDone (leBytes 8 s.step.record.attempted.toNat) (cleared (asksStart (cmdOf a s)) a s) := by
  rw [runRunSteps, referencedStalled_takeSlot, (takeSlot_does a s).step_eq]
  rfl

theorem runResume_takeSlot : runResume (cmdOf a s) (takeSlot a s) =
    if s.dev.unaligned then (cmdOf a s).finish stWrongState [] (takeSlot a s)
    else if referencedStalled s then (cmdOf a s).finish stGroupStalled [] (takeSlot a s)
    else (cmdOf a s).finish stDone [] (cleared (fun t => { t with resumeAt := true }) a s) := by
  rw [runResume, (takeSlot_does a s).dev_eq, referencedStalled_takeSlot]
  rfl

theorem runSteps_outcomes (hIssued : issued .runSteps s a = true) :
    (referencedStalled s = true → completes .runSteps s fun t => slotDone a stGroupStalled 0 [] s t ∧ t.step = s.step ∧ t.dev = s.dev)
      ∧ (referencedStalled s = false → completes .runSteps s fun t => slotDone a stDone 0 (leBytes 8 s.step.record.attempted.toNat) s t
        ∧ t.step = asksStart (cmdOf a s) { s.step with record := { s.step.record with stalled := false } }
        ∧ t.dev = { s.dev with stalled := false, uncontrolled := false }) := by
  refine ⟨fun hStalled => ?_, fun hFree => ?_⟩
  · obtain ⟨hPending, hOutcome⟩ := refused_outcome (s := s) (a := a) stGroupStalled
    exact ⟨_, exec_of_issued (exec_runSteps s) rfl hIssued (runRunSteps_takeSlot.trans (if_pos hStalled)) hPending, hOutcome⟩
  · obtain ⟨hPending, hOutcome⟩ := cleared_outcome (s := s) (a := a) (asksStart (cmdOf a s)) (leBytes 8 s.step.record.attempted.toNat)
    exact ⟨_, exec_of_issued (exec_runSteps s) rfl hIssued (runRunSteps_takeSlot.trans (if_neg (Bool.eq_false_iff.mp hFree))) hPending, hOutcome⟩

theorem resume_outcomes (hIssued : issued .resume s a = true) :
    (s.dev.unaligned = true → completes .resume s fun t => slotDone a stWrongState 0 [] s t ∧ t.step = s.step)
      ∧ (s.dev.unaligned = false → referencedStalled s = true → completes .resume s fun t => slotDone a stGroupStalled 0 [] s t ∧ t.step = s.step)
      ∧ (s.dev.unaligned = false → referencedStalled s = false → completes .resume s fun t => slotDone a stDone 0 [] s t
        ∧ t.step = { s.step with resumeAt := true, record := { s.step.record with stalled := false } }
        ∧ t.dev = { s.dev with stalled := false, uncontrolled := false }) := by
  refine ⟨fun hUnaligned => ?_, fun hAligned hStalled => ?_, fun hAligned hFree => ?_⟩
  · obtain ⟨hPending, hDone, hStep, -⟩ := refused_outcome (s := s) (a := a) stWrongState
    exact ⟨_, exec_of_issued (exec_resume s) rfl hIssued (runResume_takeSlot.trans (if_pos hUnaligned)) hPending, hDone, hStep⟩
  · obtain ⟨hPending, hDone, hStep, -⟩ := refused_outcome (s := s) (a := a) stGroupStalled
    have hRun := (runResume_takeSlot (a := a)).trans ((if_neg (Bool.eq_false_iff.mp hAligned)).trans (if_pos hStalled))
    exact ⟨_, exec_of_issued (exec_resume s) rfl hIssued hRun hPending, hDone, hStep⟩
  · obtain ⟨hPending, hOutcome⟩ := cleared_outcome (s := s) (a := a) (fun t => { t with resumeAt := true }) []
    have hRun := (runResume_takeSlot (a := a)).trans ((if_neg (Bool.eq_false_iff.mp hAligned)).trans (if_neg (Bool.eq_false_iff.mp hFree)))
    exact ⟨_, exec_of_issued (exec_resume s) rfl hIssued hRun hPending, hOutcome⟩

end

/-! ### Host memory behind a binding (R266, R267) -/

/-- Two states have the same bindings and the same host memory. -/
structure SameHost (s u : State) : Prop where
  binds : ∀ p, (getPPort p u).binds = (getPPort p s).binds
  mem : u.mbx.hostMem = s.mbx.hostMem

theorem SameHost.trans {s u v : State} (h : SameHost s u) (h' : SameHost u v) : SameHost s v :=
  ⟨fun p => (h'.binds p).trans (h.binds p), h'.mem.trans h.mem⟩

/-- A change of a port that keeps its bindings. -/
theorem SameHost.onPort {f : PortSt → PortSt} (hf : ∀ q, (f q).binds = q.binds) (q : PPort) (s : State) : SameHost s (onPort q f s) := by
  refine ⟨fun p => ?_, by rw [onPort_mbx]⟩
  cases q <;> cases p <;> simp [Machine.onPort, setPPort, getPPort, hf]

theorem SameHost.takeSlot (a : Arrival) (s : State) : SameHost s (takeSlot a s) :=
  SameHost.trans (u := { s with mbx := { s.mbx with order := s.mbx.order.filter (· != a) } }) ⟨fun p => by cases p <;> rfl, rfl⟩
    (SameHost.onPort (f := fun q => { q with slots := SMap.put q.slots a.slot { slotAt a.port a.slot s with st := .taken } }) (fun _ => rfl) a.port _)

theorem SameHost.batchRecord (b : Batch) (status attempted : Nat) (s : State) : SameHost s (batchRecord b status attempted s) := by
  unfold Machine.batchRecord dueRecord
  split
  · exact ⟨fun _ => rfl, rfl⟩
  · exact SameHost.onPort (fun q => by split <;> rfl) _ _

theorem SameHost.hostMem_hostWrite {s u : State} (h : SameHost s u) (b off : Nat) (bytes : List Byte) :
    (hostWrite b off bytes u).mbx.hostMem = (hostWrite b off bytes s).mbx.hostMem := by
  have hBind : bindOf u b = bindOf s b := by rw [bindOf, h.binds, bindOf]
  unfold hostWrite
  rw [hBind, h.mem]
  cases bindOf s b with
  | none => exact h.mem
  | some d => rfl

/-! ### SUBMIT_BATCH (R208, R296) -/

theorem exec_submitBatch (data : List Byte) (s : State) : exec (.submitBatch data) s = effect (command 0x51 batchArgs (runBatch data)) s := rfl

/-- The batches that wait for the attempt of `b`. -/
def sameAttempt (b : Batch) (s : State) : List Batch := s.step.batches.filter (fun x => x.attemptTag = b.attemptTag)

/-- The batches with `b` among them: behind those that wait, or in the place of the one of its attempt (R208). -/
def joinBatch (b : Batch) (replaces : Bool) (l : List Batch) : List Batch :=
  if replaces then l.map (fun x => if x.attemptTag = b.attemptTag then b else x) else l ++ [b]

theorem mem_joinBatch {b : Batch} {s : State} : b ∈ joinBatch b (!(sameAttempt b s).isEmpty) s.step.batches := by
  unfold joinBatch
  split
  next h =>
    obtain ⟨x, hx⟩ := List.exists_mem_of_ne_nil _ (by simpa using h : sameAttempt b s ≠ [])
    obtain ⟨hMem, hTag⟩ := List.mem_filter.mp hx
    exact List.mem_map.mpr ⟨x, hMem, if_pos (of_decide_eq_true hTag)⟩
  · exact List.mem_append_right _ (List.mem_singleton_self b)

section
variable {s : State} {a : Arrival}

/-- The taken command's state behind the records of the batches that it replaces (R208). -/
def replacing (l : List Batch) (a : Arrival) (s : State) : State :=
  l.foldl (fun u x => batchRecord x stStepMismatch x.attemptTag.toNat u) (takeSlot a s)

theorem replacing_does (l : List Batch) : Does [.portA, .portB, .mbx] s (replacing l a s) :=
  does_foldl (fun u x => does_mono (batchRecord_does x stStepMismatch x.attemptTag.toNat u) (by decide)) l (takeSlot_does a s)

theorem replacing_stillTaken (l : List Batch) : StillTaken a s (replacing l a s) :=
  List.foldlRecOn l _ (StillTaken.takeSlot a s) fun _ h x _ => h.batchRecord x stStepMismatch x.attemptTag.toNat

theorem replacing_sameHost (l : List Batch) : SameHost s (replacing l a s) :=
  List.foldlRecOn l _ (SameHost.takeSlot a s) fun u h x _ => h.trans (SameHost.batchRecord x stStepMismatch x.attemptTag.toNat u)

/-- The taken command's state with the batch among those that wait (R208). -/
def rebatched (b : Batch) (a : Arrival) (s : State) : State :=
  onStep (fun t => { t with batches := joinBatch b (!(sameAttempt b s).isEmpty) t.batches }) (replacing (sameAttempt b s) a s)

theorem rebatched_does (b : Batch) : Does [.step, .portA, .portB, .mbx] s (rebatched b a s) :=
  does_by (onStep_does _ _) (does_mono (replacing_does _) (by decide))

theorem rebatched_stillTaken (b : Batch) : StillTaken a s (rebatched b a s) := (replacing_stillTaken _).does (onStep_does _ _)

theorem rebatched_sameHost (b : Batch) : SameHost s (rebatched b a s) :=
  (replacing_sameHost _).trans ⟨fun p => by cases p <;> rfl, rfl⟩

theorem rebatched_batches (b : Batch) : (rebatched b a s).step.batches = joinBatch b (!(sameAttempt b s).isEmpty) s.step.batches := by
  rw [rebatched, onStep_step, (replacing_does _).step_eq]

/-- The state behind a batch that joins, its bytes in its binding, before its command completes (R296). -/
def batchJoined (data : List Byte) (b : Batch) (a : Arrival) (s : State) : State :=
  hostWrite b.binding b.offset (data.take b.length) (rebatched b a s)

theorem runBatch_takeSlot (data : List Byte) : runBatch data (cmdOf a s) (takeSlot a s) =
    let b := batchOf (cmdOf a s)
    if (sameAttempt b s).isEmpty && decide (4 ≤ s.step.batches.length) then (cmdOf a s).finish stBusy [] (takeSlot a s)
    else if b.attemptTag.toNat < s.step.record.attempted.toNat then (cmdOf a s).finish stStepMismatch [] (takeSlot a s)
    else (cmdOf a s).finish stDone [] (batchJoined data b a s) := by
  have hJoin : ∀ (e : Bool) (b : Batch) (l : List Batch), (if e then l ++ [b] else l.map (fun x => if x.attemptTag = b.attemptTag then b else x))
      = joinBatch b (!e) l := fun e b l => by cases e <;> rfl
  unfold runBatch
  simp only [hJoin, (takeSlot_does a s).step_eq]
  rfl

theorem batchJoined_outcome (data : List Byte) (b : Batch) : let t := (cmdOf a s).finish stDone [] (batchJoined data b a s)
    t.pending = s.pending ∧ slotDone a stDone 0 [] s t ∧ t.step.batches = joinBatch b (!(sameAttempt b s).isEmpty) s.step.batches
      ∧ t.mbx.hostMem = (hostWrite b.binding b.offset (data.take b.length) s).mbx.hostMem := by
  have hWrite := hostWrite_does b.binding b.offset (data.take b.length) (rebatched b a s)
  have hFinish := Cmd_finish_does (cmdOf a s) stDone [] (batchJoined data b a s)
  exact ⟨hFinish.pending_eq.trans (hWrite.pending_eq.trans (rebatched_does b).pending_eq),
    ((rebatched_stillTaken b).does hWrite).finish stDone [],
    (congrArg StepSt.batches (hFinish.step_eq.trans hWrite.step_eq)).trans (rebatched_batches b),
    (congrArg MbxSt.hostMem hFinish.mbx_eq).trans ((rebatched_sameHost b).hostMem_hostWrite _ _ _)⟩

/-! ### HOLD (R48, R297) -/

theorem exec_hold (s : State) : exec .hold s = effect (command 0x52 noArgs runHold) s := rfl

theorem dropStuckProof_of_none (h : s.frame.stuck = false ∨ s.step.proof = none) : dropStuckProof s = s :=
  if_neg (by rcases h with h | h <;> simp [h])

/-- Behind a HOLD a stuck chip holds no proof (R48). -/
theorem dropStuckProof_proof (h : s.frame.stuck = true) : (dropStuckProof s).step.proof = none := by
  cases hProof : s.step.proof with
  | none => rw [dropStuckProof_of_none (.inr hProof), hProof]
  | some p =>
    unfold dropStuckProof
    rw [if_pos (by simp [h, hProof]), (finishCmd_does _ _ _ _ _).step_eq, onStep_step]

/-- The taken command's state with the chip no longer stuck, and nothing that would resume it (R48, R297). -/
def heldStill (a : Arrival) (s : State) : State :=
  onDev (fun d => { d with goOn := false }) (onFrame (fun f => { f with stuck := false, retry := false }) (dropStuckProof (takeSlot a s)))

theorem runHold_takeSlot : runHold (cmdOf a s) (takeSlot a s) =
    if s.dev.state = .held then (cmdOf a s).finish stDone [] (heldStill a s) else (cmdOf a s).accept 0x52 [] (takeSlot a s) := by
  rw [runHold, (takeSlot_does a s).dev_eq]
  rfl

theorem heldStill_does : Does [.frame, .step, .portA, .portB, .mbx, .dev] s (heldStill a s) :=
  does_by (onDev_does _ _) (does_by (onFrame_does _ _) (does_by (dropStuckProof_does _) (does_mono (takeSlot_does a s) (by decide))))

theorem heldStill_dev : (heldStill a s).dev = { s.dev with goOn := false } := by
  rw [← (takeSlot_does a s).dev_eq, ← (dropStuckProof_does (takeSlot a s)).dev_eq]
  rfl

theorem takeSlot_noProof (h : s.frame.stuck = false ∨ s.step.proof = none) : dropStuckProof (takeSlot a s) = takeSlot a s :=
  dropStuckProof_of_none (by rw [(takeSlot_does a s).frame_eq, (takeSlot_does a s).step_eq]; exact h)

theorem hold_of_held (hIssued : issued .hold s a = true) (hHeld : s.dev.state = .held) : completes .hold s fun t =>
    t.dev.goOn = false ∧ t.dev.state = .held ∧ t.frame.stuck = false ∧ t.frame.retry = false
      ∧ ((s.frame.stuck = false ∨ s.step.proof = none) → slotDone a stDone 0 [] s t ∧ t.step = s.step)
      ∧ (s.frame.stuck = true → t.step.proof = none) := by
  have hFinish := Cmd_finish_does (cmdOf a s) stDone [] (heldStill a s)
  have hRun := (runHold_takeSlot (a := a)).trans (if_pos hHeld)
  have hDev := hFinish.dev_eq.trans (heldStill_dev (a := a) (s := s))
  refine ⟨_, exec_of_issued (exec_hold s) rfl hIssued hRun (hFinish.pending_eq.trans heldStill_does.pending_eq), congrArg DevSt.goOn hDev,
    (congrArg DevSt.state hDev).trans hHeld, congrArg FrameSt.stuck hFinish.frame_eq, congrArg FrameSt.retry hFinish.frame_eq,
    fun hNone => ⟨?_, ?_⟩, fun hStuck => ?_⟩
  · refine StillTaken.finish (StillTaken.does (StillTaken.does ?_ (onFrame_does _ _)) (onDev_does _ _)) stDone []
    rw [takeSlot_noProof hNone]
    exact StillTaken.takeSlot a s
  · rw [hFinish.step_eq, heldStill, onDev_step, onFrame_step, takeSlot_noProof hNone, (takeSlot_does a s).step_eq]
  · rw [hFinish.step_eq, heldStill, onDev_step, onFrame_step]
    exact dropStuckProof_proof ((congrArg FrameSt.stuck (takeSlot_does a s).frame_eq).trans hStuck)

theorem hold_of_not_held (hIssued : issued .hold s a = true) (hNot : s.dev.state ≠ .held) :
    completes .hold s fun t => slotAccepted a 0x52 [] s t ∧ t.dev = s.dev := by
  have hTake := takeSlot_does a s
  have hAccept := Cmd_accept_does (cmdOf a s) 0x52 [] (takeSlot a s)
  exact ⟨_, exec_of_issued (exec_hold s) rfl hIssued (runHold_takeSlot.trans (if_neg hNot)) (hAccept.pending_eq.trans hTake.pending_eq),
    accept_accepted 0x52 [] a s, hAccept.dev_eq.trans hTake.dev_eq⟩

end

/-! ### The obligation -/

/-- Settles O55. Each command by the branches of its run behind `takeSlot`; a batch that joins is `batchJoined`. -/
theorem runningAndBatches : Obligations.RunningAndBatches := by
  unfold Obligations.RunningAndBatches
  refine ⟨fun s a hIssued => ?_, fun s a data hIssued => ?_,
    fun s a hIssued => ⟨fun hHeld => hold_of_held hIssued hHeld, fun hNot => hold_of_not_held hIssued hNot⟩, fun s a hIssued => ?_⟩
  · obtain ⟨hStalled, hFree⟩ := runSteps_outcomes hIssued
    refine ⟨hStalled, fun h => ?_⟩
    obtain ⟨t, hExec, hDone, hStep, hDev⟩ := hFree h
    exact ⟨t, hExec, hDone, by rw [hStep]; rfl, by rw [hStep]; rfl, by rw [hStep]; rfl, hDev⟩
  · intro b same
    have hRun := runBatch_takeSlot (s := s) (a := a) data
    have hRoom : (same ≠ [] ∨ s.step.batches.length < 4) → ¬ ((sameAttempt b s).isEmpty && decide (4 ≤ s.step.batches.length)) = true := by
      intro h
      rcases h with h | h
      · simp [List.isEmpty_eq_false_iff.mpr (show sameAttempt b s ≠ [] from h)]
      · simp [h]
    refine ⟨fun hNone hFull => ?_, fun hFits hPast => ?_, fun hDue hFits => ?_⟩
    · obtain ⟨hPending, hDone, hStep, -⟩ := refused_outcome (s := s) (a := a) stBusy
      have hBusy := hRun.trans (if_pos (by simp [show sameAttempt (batchOf (cmdOf a s)) s = [] from hNone, hFull]))
      exact ⟨_, exec_of_issued (exec_submitBatch data s) rfl hIssued hBusy hPending, hDone, hStep⟩
    · obtain ⟨hPending, hDone, hStep, -⟩ := refused_outcome (s := s) (a := a) stStepMismatch
      have hMismatch := hRun.trans ((if_neg (hRoom hFits)).trans (if_pos hPast))
      exact ⟨_, exec_of_issued (exec_submitBatch data s) rfl hIssued hMismatch hPending, hDone, hStep⟩
    · obtain ⟨hPending, hDone, hBatches, hMem⟩ := batchJoined_outcome (s := s) (a := a) data b
      have hJoins := hRun.trans ((if_neg (hRoom hFits)).trans (if_neg (Nat.not_lt.mpr hDue)))
      refine ⟨_, exec_of_issued (exec_submitBatch data s) rfl hIssued hJoins hPending, hDone, ?_, fun hNone => ?_, fun hSome => ?_, hMem⟩
      · exact hBatches ▸ mem_joinBatch
      · exact hBatches.trans (by rw [show sameAttempt b s = [] from hNone]; rfl)
      · rw [hBatches, List.isEmpty_eq_false_iff.mpr (show sameAttempt b s ≠ [] from hSome)]
        exact List.length_map _
  · obtain ⟨hUnaligned, hStalled, hFree⟩ := resume_outcomes hIssued
    refine ⟨hUnaligned, hStalled, fun hAligned hNone => ?_⟩
    obtain ⟨t, hExec, hDone, hStep, hDev⟩ := hFree hAligned hNone
    exact ⟨t, hExec, hDone, by rw [hStep], by rw [hStep], hDev⟩

end Sys2Proof.Machine
end

section
/-! PROOFS. Images that are loaded and unloaded (R43, R243, R293, R294). -/

namespace Sys2Proof.Machine
open Sys2Proof

theorem Does.ident_eq {l : List Comp} {s t : State} (h : Does l s t) (hk : Comp.ident ∉ l := by decide) : t.ident = s.ident := h.same hk

/-- A command whose guard is open and that leaves the queue alone. -/
theorem effect_onlyIf_eq_next {c : Bool} {f : State → State} {s t : State} (hOpen : c = true) (h : f s = t) (hPending : t.pending = s.pending) :
    effect (onlyIf c f) s = .next t :=
  (effect_onlyIf_of_true hOpen).trans (effect_eq_next h hPending)

/-! ### The verdict on an image (R243, R293) -/

/-- The chip with the image's bytes taken from where they waited. -/
def loadTaken (s : State) : State := onImage (fun i => { i with loading := none }) s

/-- The load that the checks look at: the image's tables, with the pages of its plan mapped. -/
def plannedLoad (p : Parsed) (s : State) : Load :=
  let L := mkLoad p.image p.bad s
  { L with t := mapPlan L L.t }

/-- The chip with an image that passed every check (R293, R435). -/
def imposed (p : Parsed) (s : State) : State := setState .loaded (assayImage p.image.digest (mapImage (mkLoad p.image p.bad s)))

/-- The end of a load whose bytes are in good form: REFUSED_FIT with the first reason, or the image imposed (R293). -/
def closeLoad (p : Parsed) (s : State) : Option (Nat × Loc) → State
  | some (r, l) => finishCmd 0x40 stRefusedFit r (locBytes l) s
  | none => finishCmd 0x40 stDone 0 p.image.digest (imposed p s)

section
variable {s : State} {b : List Byte}

theorem exec_imageLoadDone (hCore : coreRuns s = true) : exec .imageLoadDone s = .next (runLoadDone s) :=
  effect_onlyIf_eq_next hCore rfl (runLoadDone_does s).pending_eq

theorem exec_imageLoadDone_of_idle (h : coreRuns s = false ∨ s.image.loading = none) : exec .imageLoadDone s = .next s := by
  by_cases hCore : coreRuns s = true
  · have hNone := h.resolve_left (by simp [hCore])
    rw [exec_imageLoadDone hCore, runLoadDone, hNone]
  · exact effect_onlyIf_of_false (Bool.eq_false_iff.mpr hCore)

theorem runLoadDone_of_not_ready (hLoading : s.image.loading = some b) (hState : s.dev.state ≠ .ready) :
    runLoadDone s = finishCmd 0x40 stRetire 0 [] (loadTaken s) := by
  simp only [runLoadDone, hLoading]
  exact if_pos (bne_iff_ne.mpr hState)

theorem runLoadDone_of_malformed {l : Loc} (hLoading : s.image.loading = some b) (hState : s.dev.state = .ready) (hParse : parseImage b = .error l) :
    runLoadDone s = finishCmd 0x40 stRefusedFit 0x0101 (locBytes l) (loadTaken s) := by
  simp only [runLoadDone, hLoading, hState, hParse]
  rfl

/-- An image in good form ends as the checks say (R243). -/
theorem runLoadDone_of_parsed {p : Parsed} (hLoading : s.image.loading = some b) (hState : s.dev.state = .ready) (hParse : parseImage b = .ok p) :
    runLoadDone s = closeLoad p (loadTaken s) (firstFailure 0 (plannedLoad p (loadTaken s))) := by
  simp only [runLoadDone, hLoading, hState, hParse]
  rfl

end

/-! ### What a loaded image leaves (R231, R293, R435) -/

/-- The assay log drops old digests, never the newest. -/
theorem assayImage_images_getLast? (digest : List Byte) (s : State) : (assayImage digest s).ident.images.getLast? = some digest := by
  change ((s.ident.images ++ [digest]).drop (s.ident.images.length + 1 - 64)).getLast? = some digest
  rw [List.getLast?_drop, if_neg (by simp), List.getLast?_concat]

/-- Behind the image's tables come its pages, the assay log, the new state and the completion of the command. -/
theorem imposed_outcome (p : Parsed) (s : State) : let t := finishCmd 0x40 stDone 0 p.image.digest (imposed p s)
    t.dev.state = .loaded ∧ t.image = { ImageSt.reset with img := some p.image }
      ∧ t.step = (withImage p.image s).step ∧ t.ident.images.getLast? = some p.image.digest := by
  have hFinish := finishCmd_does 0x40 stDone 0 p.image.digest (imposed p s)
  have hState := setState_does .loaded (assayImage p.image.digest (mapImage (mkLoad p.image p.bad s)))
  have hMapped : Does [.cells, .hbm, .ident] (withImage p.image s) (assayImage p.image.digest (mapImage (mkLoad p.image p.bad s))) :=
    does_by (assayImage_does _ _) (does_mono (mapImage_does (mkLoad p.image p.bad s)) (by decide))
  refine ⟨?_, ?_, ?_, ?_⟩
  · rw [hFinish.dev_eq, imposed, setState_dev]
  · rw [hFinish.image_eq, imposed, hState.image_eq, hMapped.image_eq]
    rfl
  · rw [hFinish.step_eq, imposed, hState.step_eq, hMapped.step_eq]
  · rw [hFinish.ident_eq, imposed, hState.ident_eq, assayImage_images_getLast?]

/-! ### UNLOAD (R43, R294) -/

/-- The chip with the records of the batches that an UNLOAD cuts off written, and with its weak rows repaired (R186, R294). -/
def cutOff (s : State) : State :=
  let s0 := (s.step.accepted.toList ++ s.step.batches).foldl (fun s b => batchRecord b stWrongState b.attemptTag.toNat s) s
  s0.hbm.weak.foldl (fun s r => repairRow r.1 r.2 s) s0

theorem cutOff_does (s : State) : Does [.portA, .portB, .hbm, .flash, .life] s (cutOff s) := by
  unfold cutOff
  extract_lets s0
  have hRecords : Does [.portA, .portB] s s0 := does_foldl (fun u b => batchRecord_does _ _ _ u) _ (does_refl _ _)
  exact does_foldl (fun u r => does_mono (repairRow_does _ _ u) (by decide)) _ (does_mono hRecords (by decide))

section
variable {s : State}

theorem discardImage_frame : (discardImage s).frame = s.frame.clearWork := congrArg FrameSt.clearWork (cutOff_does s).frame_eq

theorem discardImage_caseMem : (discardImage s).caseMem = { CaseSt.reset with mem := s.caseMem.mem } := by
  rw [← (cutOff_does s).caseMem_eq]
  rfl

theorem discardImage_fabric : (discardImage s).fabric = { s.fabric with waits := [], contrib := [], contribStaged := [] } := by
  rw [← (cutOff_does s).fabric_eq]
  rfl

/-- An UNLOAD that is done: what `discardImage` leaves stands behind the change of state and the completion of the command. -/
theorem unloadDone_outcome : let t := finishCmd 0x41 stDone 0 [] (setState .ready (discardImage s))
    t.dev.state = .ready ∧ Does [.portA, .portB, .mbx, .dev, .flash, .life] (discardImage s) t := by
  have hFinish := finishCmd_does 0x41 stDone 0 [] (setState .ready (discardImage s))
  exact ⟨by rw [hFinish.dev_eq, setState_dev], does_by hFinish (does_mono (setState_does _ _) (by decide))⟩

theorem exec_unload (s : State) : exec .unload s = effect (command 0x0041 noArgs (fun c s => c.accept 0x41 [] s)) s := rfl

theorem exec_unloadDone (hCore : coreRuns s = true) : exec .unloadDone s = .next (runUnloadDone s) :=
  effect_onlyIf_eq_next hCore rfl (runUnloadDone_does s).pending_eq

theorem exec_unloadDone_of_idle (h : coreRuns s = false ∨ acceptedOp s 0x41 = none ∨ (s.dev.state ≠ .loaded ∧ s.dev.state ≠ .held)) :
    exec .unloadDone s = .next s := by
  by_cases hCore : coreRuns s = true
  · have hNot : ¬ ((acceptedOp s 0x41).isSome && (decide (s.dev.state = .loaded) || decide (s.dev.state = .held))) = true := by
      rcases h.resolve_left (by simp [hCore]) with hNone | ⟨hLoaded, hHeld⟩
      · simp [hNone]
      · simp [hLoaded, hHeld]
    rw [exec_unloadDone hCore, runUnloadDone, if_neg hNot]
  · exact effect_onlyIf_of_false (Bool.eq_false_iff.mpr hCore)

end

/-- Settles O54. A load ends by its verdict: malformed, refused by the first check that fails, or imposed; an UNLOAD is `discardImage` behind the records
of the batches that it cuts off. -/
theorem loadingAndUnloading : Obligations.LoadingAndUnloading := by
  unfold Obligations.LoadingAndUnloading
  refine ⟨fun s h => exec_imageLoadDone_of_idle h, fun s b hCore hLoading hState => ⟨_, exec_imageLoadDone hCore, ?_⟩,
    fun s b hCore hLoading hState => (exec_imageLoadDone hCore).trans (congrArg _ (runLoadDone_of_not_ready hLoading hState)),
    fun s a hIssued => ⟨_, exec_of_issued (exec_unload s) rfl hIssued rfl ?_, accept_accepted 0x41 [] a s⟩,
    fun s hCore hAccepted hState => ⟨_, exec_unloadDone hCore, ?_⟩, fun s h => exec_unloadDone_of_idle h⟩
  · dsimp only
    split
    next l hParse => exact runLoadDone_of_malformed hLoading hState hParse
    next p hParse =>
      have hRuns := runLoadDone_of_parsed hLoading hState hParse
      split
      next r l hFails => exact hRuns.trans (congrArg (closeLoad p (loadTaken s)) hFails)
      next hFits =>
        obtain ⟨hLoaded, hImage, hStep, hAssay⟩ := imposed_outcome p (loadTaken s)
        rw [hRuns.trans (congrArg (closeLoad p (loadTaken s)) hFits), closeLoad]
        exact ⟨hLoaded, by rw [hImage], by rw [hImage]; rfl, by rw [hStep]; rfl, by rw [hStep]; rfl, by rw [hStep]; rfl, hAssay⟩
  · exact (does_by (Cmd_accept_does _ _ _ _) (takeSlot_does a s) : Does [.portA, .portB, .mbx] s _).pending_eq
  · have hRuns : runUnloadDone s = finishCmd 0x41 stDone 0 [] (setState .ready (discardImage s)) :=
      if_pos (by simpa [hAccepted] using hState)
    obtain ⟨hReady, hRest⟩ := unloadDone_outcome (s := s)
    rw [hRuns]
    exact ⟨hReady, hRest.image_eq, by rw [hRest.hbm_eq]; rfl, by rw [hRest.hbm_eq]; rfl, hRest.caseMem_eq.trans discardImage_caseMem, hRest.step_eq,
      hRest.frame_eq.trans discardImage_frame, hRest.stats_eq, by rw [hRest.cells_eq]; rfl, by rw [hRest.fabric_eq, discardImage_fabric],
      by rw [hRest.fabric_eq, discardImage_fabric]⟩

end Sys2Proof.Machine
end

section
/-! PROOFS. A spare that takes its contents, and the parts of a re-imposition (R246 to R251, R407). -/

namespace Sys2Proof.Machine
open Sys2Proof

/-! ### Ranges of bytes in a memory -/

theorem read_writeN_apart {bs : List Byte} {c : Nat} : ∀ {m : List Host.Cell} {a : Nat}, Memory.wf m = true → (c < a ∨ a + bs.length ≤ c) →
    Memory.read (Memory.writeN m a bs) c = Memory.read m c := by
  induction bs with
  | nil => exact fun _ _ => rfl
  | cons b bs ih =>
    intro m a hWf hApart
    rw [List.length_cons] at hApart
    exact (ih (wf_write hWf) (by omega)).trans (read_write_other (by omega) hWf)

theorem readN_writeN_apart {bs : List Byte} {m : List Host.Cell} {a c n : Nat} (hWf : Memory.wf m = true)
    (hApart : c + n ≤ a ∨ a + bs.length ≤ c) : Memory.readN (Memory.writeN m a bs) c n = Memory.readN m c n :=
  List.map_congr_left fun i hi => read_writeN_apart hWf (by have := List.mem_range.mp hi; omega)

/-- Bytes written read back. -/
theorem readN_writeN_same {bs : List Byte} : ∀ {m : List Host.Cell} {a : Nat}, Memory.wf m = true →
    Memory.readN (Memory.writeN m a bs) a bs.length = bs := by
  induction bs with
  | nil => exact fun _ => rfl
  | cons b bs ih =>
    intro m a hWf
    have hHead : Memory.read (Memory.writeN (Memory.write m a b) (a + 1) bs) a = b :=
      (read_writeN_apart (wf_write hWf) (.inl (Nat.lt_succ_self a))).trans (read_write_same hWf)
    have hTail := ih (a := a + 1) (wf_write (a := a) (b := b) hWf)
    simp only [Memory.readN, Memory.writeN, List.length_cons, List.range_succ_eq_map, List.map_cons, List.map_map, Nat.add_zero, hHead] at hTail ⊢
    refine congrArg (b :: ·) (Eq.trans (List.map_congr_left fun i _ => ?_) hTail)
    exact congrArg (Memory.read _) (by simp only [Nat.succ_eq_add_one]; omega)

/-! ### SPARE_LOAD (R246, R407) -/

/-- One carry page takes its mirror as it is committed; a page without a mirror stays (R245, R246). -/
def takeMirror (s : State) (m : List Host.Cell) (k : Nat) : List Host.Cell :=
  match mirrorAt s k with
  | some a => Memory.writeN m (k * 4096) (hbmBytes s a 4096)
  | none => m

section
variable {s : State} {m : List Host.Cell} {k a : Nat}

theorem wf_takeMirror (hWf : Memory.wf m = true) (j : Nat) : Memory.wf (takeMirror s m j) = true := by
  unfold takeMirror
  split
  · exact wf_writeN hWf
  · exact hWf

theorem readN_takeMirror_same (hWf : Memory.wf m = true) (hMirror : mirrorAt s k = some a) :
    Memory.readN (takeMirror s m k) (k * 4096) 4096 = hbmBytes s a 4096 := by
  have h := readN_writeN_same (bs := hbmBytes s a 4096) (a := k * 4096) hWf
  rw [length_hbmBytes] at h
  rwa [takeMirror, hMirror]

/-- Pages lie apart, so a page leaves the bytes of every other. -/
theorem readN_takeMirror_ne (hWf : Memory.wf m = true) {j : Nat} (h : j ≠ k) :
    Memory.readN (takeMirror s m j) (k * 4096) 4096 = Memory.readN m (k * 4096) 4096 := by
  unfold takeMirror
  split
  · exact readN_writeN_apart hWf (by rw [length_hbmBytes]; omega)
  · rfl

/-- A page that has its mirror, or is still to take it, has it behind all of the pages. -/
theorem readN_takeMirrors (hMirror : mirrorAt s k = some a) (pages : List Nat) : ∀ {m : List Host.Cell}, Memory.wf m = true →
    (k ∈ pages ∨ Memory.readN m (k * 4096) 4096 = hbmBytes s a 4096) →
    Memory.readN (pages.foldl (takeMirror s) m) (k * 4096) 4096 = hbmBytes s a 4096 := by
  induction pages with
  | nil => exact fun _ h => h.resolve_left (List.not_mem_nil)
  | cons j js ih =>
    intro m hWf h
    refine ih (wf_takeMirror hWf j) ?_
    by_cases hj : j = k
    · subst hj
      exact .inr (readN_takeMirror_same hWf hMirror)
    · refine h.imp (fun hMem => (List.mem_cons.mp hMem).resolve_left (Ne.symm hj)) fun hRead => ?_
      rwa [readN_takeMirror_ne hWf hj]

end

section
variable {s : State} {cell : Nat}

theorem exec_spareLoad (hCore : coreRuns s = true) (hServes : regionServes s (cellRegion cell) = true) :
    exec (.spareLoad cell) s = .next (loadSpare cell s) :=
  effect_onlyIf_eq_next (by rw [hCore, hServes]; rfl) rfl (loadSpare_does cell s).pending_eq

theorem exec_spareLoad_of_idle (h : coreRuns s = false ∨ regionServes s (cellRegion cell) = false ∨ s.image.spareLoads.contains cell = false) :
    exec (.spareLoad cell) s = .next s := by
  rcases h with h | h | h
  · exact effect_onlyIf_of_false (by rw [h]; rfl)
  · exact effect_onlyIf_of_false (by rw [h, Bool.and_false])
  · refine effect_of_eq ?_
    have hStays : loadSpare cell s = s := if_pos (by rw [h]; rfl)
    unfold onlyIf
    split
    · exact hStays
    · rfl

theorem loadSpare_spareLoads (h : s.image.spareLoads.contains cell = true) :
    (loadSpare cell s).image.spareLoads = s.image.spareLoads.filter (· != cell) := by
  unfold loadSpare
  split
  next hNot => simp [List.contains_iff_mem.mp h] at hNot
  · rfl

/-- The contents come first, and the mirrors on top of them. -/
theorem loadSpare_caseMem (h : s.image.spareLoads.contains cell = true) : ∃ cases : List CaseRec, (loadSpare cell s).caseMem.mem =
    (s.cells.carry.filter (fun k => k / 2048 = cell)).foldl (takeMirror s) (writeContents cases s).caseMem.mem := by
  unfold loadSpare
  split
  next hNot => simp [List.contains_iff_mem.mp h] at hNot
  · exact ⟨_, rfl⟩

theorem loadSpare_takes_mirrors (h : s.image.spareLoads.contains cell = true) (hWf : Memory.wf s.caseMem.mem = true) {k a : Nat}
    (hCarry : k ∈ s.cells.carry) (hCell : k / 2048 = cell) (hMirror : mirrorAt s k = some a) :
    Memory.readN (loadSpare cell s).caseMem.mem (k * 4096) 4096 = hbmBytes s a 4096 := by
  obtain ⟨cases, hMem⟩ := loadSpare_caseMem h
  rw [hMem]
  exact readN_takeMirrors hMirror _ (wf_foldl (fun _ _ h => wf_writeN h) cases hWf)
    (.inl (List.mem_filter.mpr ⟨hCarry, decide_eq_true hCell⟩))

end

/-! ### The ends of a re-imposition (R248, R250, R251) -/

/-- A re-imposition that fails leaves the chip in RETIRE_REQUESTED, and is over. -/
theorem failReimp_dev (region : Nat) (s : State) :
    (failReimp region s).dev.state = .retireRequested ∧ (failReimp region s).dev.reimposing = false := by
  rw [failReimp, enterRetire, setState_dev]
  exact ⟨rfl, rfl⟩

theorem endReimp_image (region : Nat) (s : State) : (endReimp region s).image = s.image := (endReimp_does region s).image_eq

/-- With no cells and no stack left to re-impose, the re-imposition ends. -/
theorem endReimp_over (region : Nat) {s : State} (h : reimpWork s = false) : (endReimp region s).dev.reimposing = false := by
  have hWork : reimpWork (recordEvent 0x0008 (leBytes 1 region ++ leBytes 1 0) s) = false := by
    rw [reimpWork, (recordEvent_does _ _ s).image_eq]
    exact h
  rw [endReimp, if_neg (by rw [hWork]; decide)]
  rfl

/-! ### A part of a re-imposition (R247 to R250, R407) -/

section
variable {s : State} {what : Reimp} {r k : Nat}

theorem exec_reimposition (hCore : coreRuns s = true) (hServes : regionServes s (Reimp.region what) = true) :
    exec (.reimposition what) s = .next (reimpose what s) :=
  effect_onlyIf_eq_next (by rw [hCore, hServes]; rfl) rfl (reimpose_does what s).pending_eq

theorem exec_reimposition_cells (hCore : coreRuns s = true) (hServes : regionServes s r = true) (hReimp : s.dev.reimposing = true)
    (hOrphans : s.image.orphans.any (fun k => cellRegion k = r) = true) : exec (.reimposition (.cells r)) s = .next (reimposeCells r s) := by
  rw [exec_reimposition (what := .cells r) hCore hServes, reimpose, if_neg (by rw [hReimp]; decide)]
  exact congrArg _ (if_pos hOrphans)

theorem exec_reimposition_memory (hCore : coreRuns s = true) (hServes : regionServes s (k / 2) = true) (hReimp : s.dev.reimposing = true)
    (hStack : s.image.memReimp.contains k = true) : exec (.reimposition (.memory k)) s = .next (reimposeMemory k s) := by
  rw [exec_reimposition (what := .memory k) hCore hServes, reimpose, if_neg (by rw [hReimp]; decide)]
  exact congrArg _ (if_pos hStack)

/-- Nothing to re-impose: no re-imposition runs, or none of the region's cells, or not the stack. -/
theorem reimpose_of_idle (h : s.dev.reimposing = false ∨ (∃ r, what = .cells r ∧ s.image.orphans.any (fun k => cellRegion k = r) = false)
    ∨ (∃ k, what = .memory k ∧ s.image.memReimp.contains k = false)) : reimpose what s = s := by
  unfold reimpose
  split
  · rfl
  next hReimp =>
    rcases h with h | ⟨r, rfl, h⟩ | ⟨k, rfl, h⟩
    · simp [h] at hReimp
    · exact if_neg (by rw [h]; decide)
    · exact if_neg (by rw [h]; decide)

theorem exec_reimposition_of_idle (h : coreRuns s = false ∨ regionServes s (Reimp.region what) = false ∨ s.dev.reimposing = false
    ∨ (∃ r, what = .cells r ∧ s.image.orphans.any (fun k => cellRegion k = r) = false)
    ∨ (∃ k, what = .memory k ∧ s.image.memReimp.contains k = false)) : exec (.reimposition what) s = .next s := by
  rcases h with h | h | h
  · exact effect_onlyIf_of_false (by rw [h]; rfl)
  · exact effect_onlyIf_of_false (by rw [h, Bool.and_false])
  · refine effect_of_eq ?_
    unfold onlyIf
    split
    · exact reimpose_of_idle h
    · rfl

end

/-! ### The cells of a region (R247, R248, R250) -/

/-- The load that the checks look at: a region's set on its surviving cells, with no page mapped. -/
def setLoad (r : Nat) (i : Image) (c : ContSet) (s : State) : Load :=
  onSet { img := i, bad := [], s := { s with hbm := { s.hbm with map := [], taken := [] } }, t := s, full := s.image.installed } c (activeCells s r)

section
variable {s : State} {r : Nat} {i : Image} {c : ContSet}

theorem reimposeCells_of_missing (hImg : s.image.img = some i) (hSet : i.cont.find? (fun c => c.region = r) = none) :
    reimposeCells r s = failReimp r s := by
  simp only [reimposeCells, hImg, hSet]

theorem reimposeCells_of_set (hImg : s.image.img = some i) (hSet : i.cont.find? (fun c => c.region = r) = some c) : reimposeCells r s =
    if s.image.installed.contains r || decide ((activeCells s r).length < setSlots c) || (firstFailure 0x0301 (setLoad r i c s)).isSome then failReimp r s
    else endReimp r (installSet (setLoad r i c s) c (activeCells s r) s) := by
  simp only [reimposeCells, hImg, hSet]
  rfl

theorem reimposeCells_of_fits (hImg : s.image.img = some i) (hSet : i.cont.find? (fun c => c.region = r) = some c)
    (hUnused : s.image.installed.contains r = false) (hRoom : setSlots c ≤ (activeCells s r).length)
    (hPasses : firstFailure 0x0301 (setLoad r i c s) = none) :
    reimposeCells r s = endReimp r (installSet (setLoad r i c s) c (activeCells s r) s) := by
  rw [reimposeCells_of_set hImg hSet, hUnused, hPasses, decide_eq_false (Nat.not_lt.mpr hRoom)]
  rfl

theorem reimposeCells_of_unfit (hImg : s.image.img = some i) (hSet : i.cont.find? (fun c => c.region = r) = some c)
    (h : s.image.installed.contains r = true ∨ (activeCells s r).length < setSlots c ∨ firstFailure 0x0301 (setLoad r i c s) ≠ none) :
    reimposeCells r s = failReimp r s := by
  rw [reimposeCells_of_set hImg hSet]
  refine if_pos ?_
  rcases h with h | h | h
  · rw [h]
    rfl
  · rw [decide_eq_true h, Bool.or_true]
    rfl
  · rw [Option.isSome_iff_ne_none.mpr h, Bool.or_true]

end

/-! ### A stack (R249) -/

/-- The other stack of a stack's region. -/
def otherStack (k : Nat) : Nat := if k % 2 = 0 then k + 1 else k - 1

section
variable {s : State} {k : Nat}

/-- With every placement moved, the migration out of the retiring pseudo-channels is all that the stack waits for. -/
theorem reimposeMemory_of_moved (hMoved : s.hbm.map.filter (pageMoves k) = []) : reimposeMemory k s =
    if s.hbm.retiring.any (fun p => p.1 = k) then s
    else if poolShort s k || poolShort s (otherStack k) then failReimp 0xFF s
    else endReimp 0xFF (onImage (fun m => { m with memReimp := m.memReimp.filter (· != k) }) s) := by
  unfold reimposeMemory
  rw [hMoved]
  rfl

theorem reimposeMemory_of_retiring (hMoved : s.hbm.map.filter (pageMoves k) = []) (hRetiring : s.hbm.retiring.any (fun p => p.1 = k) = true) :
    reimposeMemory k s = s := by
  rw [reimposeMemory_of_moved hMoved, if_pos hRetiring]

theorem reimposeMemory_ends (hMoved : s.hbm.map.filter (pageMoves k) = []) (hEmpty : s.hbm.retiring.any (fun p => p.1 = k) = false)
    (hPool : poolShort s k = false) (hOther : poolShort s (otherStack k) = false) : k ∉ (reimposeMemory k s).image.memReimp := by
  rw [reimposeMemory_of_moved hMoved, if_neg (by rw [hEmpty]; decide), if_neg (by rw [hPool, hOther]; decide), endReimp_image]
  simp [onImage]

theorem reimposeMemory_of_short (hLeft : s.hbm.map.filter (pageMoves k) ≠ [])
    (hShort : freePages s (otherStack k) < (s.hbm.map.filter (pageMoves k)).length + 4096) : reimposeMemory k s = failReimp 0xFF s := by
  unfold reimposeMemory
  extract_lets dst moved used low base f
  have hCount : moved.length = (s.hbm.map.filter (pageMoves k)).length := List.length_map _
  rw [if_neg (by simpa [moved] using hLeft), hCount, if_pos (show freePages s dst < _ from hShort)]

end

/-! ### The time of a re-imposition (R248) -/

section
variable {s : State}

theorem exec_reimpositionTimeout (hCore : coreRuns s = true) : exec .reimpositionTimeout s = .next (reimpTimeout s) :=
  effect_onlyIf_eq_next hCore rfl (reimpTimeout_does s).pending_eq

theorem reimpTimeout_fails (hReimp : s.dev.reimposing = true) (hTime : reimpLimit s ≤ (s.tick.count - s.image.decidedAt).toNat) :
    ∃ region, reimpTimeout s = failReimp region s :=
  ⟨_, if_pos (by rw [hReimp, decide_eq_true hTime]; rfl)⟩

theorem exec_reimpositionTimeout_of_idle
    (h : coreRuns s = false ∨ s.dev.reimposing = false ∨ (s.tick.count - s.image.decidedAt).toNat < reimpLimit s) :
    exec .reimpositionTimeout s = .next s := by
  by_cases hCore : coreRuns s = true
  · have hNot : ¬ (s.dev.reimposing && decide (reimpLimit s ≤ (s.tick.count - s.image.decidedAt).toNat)) = true := by
      rcases h.resolve_left (by simp [hCore]) with hReimp | hTime
      · simp [hReimp]
      · rw [decide_eq_false (Nat.not_le.mpr hTime), Bool.and_false]
        decide
    rw [exec_reimpositionTimeout hCore, reimpTimeout, if_neg hNot]
  · exact effect_onlyIf_of_false (Bool.eq_false_iff.mpr hCore)

end

/-- Settles O36. A spare takes its mirrors on top of its contents; each part of a re-imposition is installed, waits, or fails by `failReimp`. -/
theorem sparesAndReimposition : Obligations.SparesAndReimposition := by
  unfold Obligations.SparesAndReimposition
  refine ⟨fun s cell => ⟨fun hCore hServes hWaits => ⟨_, exec_spareLoad hCore hServes, loadSpare_spareLoads hWaits, ?_⟩, exec_spareLoad_of_idle⟩, ?_, ?_,
    ?_, fun s what => exec_reimposition_of_idle, fun s r => endReimp_over r, fun s => ⟨?_, exec_reimpositionTimeout_of_idle⟩⟩
  · exact fun hWf k hCarry hCell a hMirror => loadSpare_takes_mirrors hWaits hWf hCarry hCell hMirror
  · intro s r i c hCore hServes hReimp hOrphans hImg hSet cells clean L
    have hExec := exec_reimposition_cells hCore hServes hReimp hOrphans
    refine ⟨fun hUnused hRoom hPasses => ?_, fun hUnfit => ?_⟩
    · exact hExec.trans (congrArg _ (reimposeCells_of_fits hImg hSet hUnused hRoom hPasses))
    · exact ⟨_, hExec.trans (congrArg _ (reimposeCells_of_unfit hImg hSet hUnfit)), failReimp_dev r s⟩
  · intro s r i hCore hServes hReimp hOrphans hImg hSet
    have hExec := exec_reimposition_cells hCore hServes hReimp hOrphans
    exact ⟨_, hExec.trans (congrArg _ (reimposeCells_of_missing hImg hSet)), failReimp_dev r s⟩
  · intro s k hCore hServes hReimp hStack other left
    have hExec := exec_reimposition_memory hCore hServes hReimp hStack
    refine ⟨fun hMoved hRetiring => ?_, fun hMoved hEmpty hPool hOther => ?_, fun hLeft hShort => ?_, hExec⟩
    · exact hExec.trans (congrArg _ (reimposeMemory_of_retiring hMoved hRetiring))
    · exact ⟨_, hExec, reimposeMemory_ends hMoved hEmpty hPool hOther⟩
    · exact ⟨_, hExec.trans (congrArg _ (reimposeMemory_of_short hLeft hShort)), failReimp_dev 0xFF s⟩
  · intro hCore hReimp hTime
    obtain ⟨region, hFails⟩ := reimpTimeout_fails hReimp hTime
    exact ⟨_, (exec_reimpositionTimeout hCore).trans (congrArg _ hFails), failReimp_dev region s⟩

end Sys2Proof.Machine
end

section
/-! PROOFS. Which commands can stop (R256, R257, R262). -/

namespace Sys2Proof.Machine
open Sys2Proof

theorem not_stops_of_next {c : Instr} {s t : State} (h : exec c s = .next t) : ¬ stops c s := by
  rintro (⟨r, hr⟩ | ⟨r, hr⟩)
  · exact nomatch h.symm.trans hr
  · exact nomatch h.symm.trans hr

/-- An effect behind a check stops only where the check fails. -/
theorem not_of_stops_ite {c : Instr} {s : State} {p : Prop} [Decidable p] {f : State → State} {o : Out}
    (hExec : exec c s = if p then effect f s else o) (hStops : stops c s) : ¬ p :=
  fun hp => not_stops_of_next (hExec.trans (if_pos hp)) hStops

theorem bar4Access_of_stops {p : PPort} {off : Nat} {stopped : Bool} {s : State} (h : stops (.bar4Access p off stopped) s) :
    2 ^ 24 ≤ off ∨ (stopped = false ∧ debugLife s = true ∧ decodes (getPPort p s) = true) := by
  refine or_iff_not_imp_left.mpr fun hInside => ?_
  have hExec : exec (.bar4Access p off stopped) s =
      if debugLife s && decodes (getPPort p s) && !stopped then .refused .debugRegisterMap else effect id s := if_neg hInside
  by_contra hReaches
  refine not_stops_of_next (hExec.trans (if_neg fun hMap => hReaches ?_)) h
  simp only [Bool.and_eq_true, Bool.not_eq_true'] at hMap
  obtain ⟨⟨hDebug, hDecodes⟩, hRuns⟩ := hMap
  exact ⟨hRuns, hDebug, hDecodes⟩

/-- Settles O5. Every command but the five accesses is an `effect` as it stands; each of those stops only where its check fails. -/
theorem onlyBarAccessesStop : Obligations.OnlyBarAccessesStop := by
  intro c s hStops
  cases c with
  | registerWrite p off size v =>
    exact ⟨p, .inl ⟨off, size, v, rfl, Bool.eq_false_iff.mpr (not_of_stops_ite rfl hStops)⟩⟩
  | tickCountRead p size => exact ⟨p, .inr (.inl ⟨size, rfl, Bool.eq_false_iff.mpr (not_of_stops_ite rfl hStops)⟩)⟩
  | bar2Read p off len r => exact ⟨p, .inr (.inr (.inl ⟨off, len, r, rfl, Nat.lt_of_not_le (not_of_stops_ite rfl hStops)⟩))⟩
  | bar2Write p off b => exact ⟨p, .inr (.inr (.inr (.inl ⟨off, b, rfl, Nat.lt_of_not_le (not_of_stops_ite rfl hStops)⟩)))⟩
  | bar4Access p off stopped =>
    rcases bar4Access_of_stops hStops with hPast | ⟨rfl, hDebug, hDecodes⟩
    · exact ⟨p, .inr (.inr (.inr (.inr (.inl ⟨off, stopped, rfl, hPast⟩))))⟩
    · exact ⟨p, .inr (.inr (.inr (.inr (.inr ⟨off, rfl, hDebug, hDecodes⟩))))⟩
  | _ => exact absurd hStops (not_stops_of_next rfl)

end Sys2Proof.Machine
end

section
/-! PROOFS. How an event enters its collector, what it logs on a port, and how a window starts (R12, R254, R303, R361 to R365, R374). -/

namespace Sys2Proof.Machine
open Sys2Proof

/-! ### One event more (R361) -/

section
variable (f : FSrc) (forced early : Bool) (t : W64)

theorem FSrc.oldAt_now : f.oldAt false t = none := by
  unfold FSrc.oldAt
  split <;> rfl

theorem FSrc.oldAt_early {o : OldWin} (hOld : f.old = some o) (hEnded : o.ended = t) : f.oldAt true t = some o := by
  simp [FSrc.oldAt, hOld, hEnded]

theorem FSrc.judge_now : f.judge false t = (f.cfg, windowCount f t, f.real && decide (0 < windowCount f t)) := by
  rw [FSrc.judge, FSrc.oldAt_now]
  rfl

theorem FSrc.judge_early {o : OldWin} (hOld : f.oldAt true t = some o) : f.judge true t = (o.cfg, o.count, o.real) := by
  rw [FSrc.judge, hOld]

theorem FSrc.countWith_now : f.countWith false t = Nat.min (windowCount f t + 1) 0xFFFF := by rw [FSrc.countWith, FSrc.judge_now]

theorem FSrc.turns_iff : f.turns early t = true ↔ f.countWith early t = (f.judge early t).1.n ∧ (f.judge early t).2.1 < f.countWith early t := by
  rw [FSrc.turns, Bool.and_eq_true, beq_iff_eq, decide_eq_true_eq]

theorem FSrc.total_endWindow : (f.endWindow t).total = f.total := by
  unfold FSrc.endWindow FSrc.keepWindow
  split <;> rfl

/-- An event of the window in force sets the sticky flag, counts once in the window and once in all, and makes the source severe if it turns it. -/
theorem FSrc.add_now : let g := f.add false false t
    g.sticky = true ∧ g.count = f.countWith false t ∧ g.total = Nat.min (f.total + 1) (2 ^ 64 - 1)
      ∧ g.severe = ((FSrc.endWindow { f with total := Nat.min (f.total + 1) (2 ^ 64 - 1) } t).severe || f.turns false t) := by
  unfold FSrc.add
  rw [FSrc.oldAt_now]
  exact ⟨rfl, rfl, FSrc.total_endWindow _ _, rfl⟩

/-- An event of the window that has ended counts in that window, and sets no flag that a FAULT_CONFIG has cleared (R374). -/
theorem FSrc.add_early {o : OldWin} (hOld : f.oldAt true t = some o) : let g := f.add false true t
    g.count = f.count ∧ g.old.map (·.count) = some (f.countWith true t) ∧ g.total = Nat.min (f.total + 1) (2 ^ 64 - 1)
      ∧ (o.cleared = true → g.sticky = f.sticky ∧ g.severe = f.severe) ∧ (o.cleared = false → g.sticky = true) := by
  unfold FSrc.add
  rw [hOld]
  dsimp only
  split
  next hCleared => exact ⟨rfl, rfl, rfl, fun _ => ⟨rfl, rfl⟩, fun h => nomatch hCleared.symm.trans h⟩
  next hKept => exact ⟨rfl, rfl, rfl, fun h => absurd h hKept, fun _ => rfl⟩

end

section
variable {l : Level} {unit src : Nat} {forced early : Bool} {s : State}

@[simp] theorem faultSrc_setFaultSrc (f : FSrc) : faultSrc l unit src (setFaultSrc l unit src f s) = f := getD_put_same _ _ _ _

theorem Does.faults_eq {k : List Comp} {t : State} (h : Does k s t) (hk : Comp.faults ∉ k := by decide) : t.faults = s.faults := h.same hk

theorem Does.faultSrc_eq {k : List Comp} {t : State} (h : Does k s t) (hk : Comp.faults ∉ k := by decide) :
    faultSrc l unit src t = faultSrc l unit src s := by
  rw [faultSrc, h.faults_eq hk, faultSrc]

theorem latchEvent_of_not (h : collects l unit src s = false) : latchEvent l unit src forced early s = (s, false) := if_pos (by rw [h]; rfl)

/-- A latched event enters its source, and the answer says whether it turned it. -/
theorem latchEvent_counts (h : collects l unit src s = true) : let f := faultSrc l unit src s
    faultSrc l unit src (latchEvent l unit src forced early s).1 = f.add forced early s.tick.count
      ∧ (latchEvent l unit src forced early s).2 = f.turns early s.tick.count := by
  unfold latchEvent
  rw [if_neg (by simp [h])]
  extract_lets f t s1
  split
  next hTurns =>
    have hRecorded : faultSrc l unit src (setSticky (levelCode l) s1) = f.add forced early t :=
      (setSticky_does _ s1).faultSrc_eq.trans (faultSrc_setFaultSrc _)
    exact ⟨(recordAt_does _ _ _ _).faultSrc_eq.trans hRecorded, hTurns.symm⟩
  next hNot => exact ⟨faultSrc_setFaultSrc _, (Bool.eq_false_iff.mpr hNot).symm⟩

end

/-! ### The errors that a port has logged (R254) -/

/-- The AER registers of both ports read alike in two states. -/
structure SameAer (s t : State) : Prop where
  corr : ∀ p, (getPPort p t).aerCorr = (getPPort p s).aerCorr
  uncorr : ∀ p, (getPPort p t).aerUncorr = (getPPort p s).aerUncorr

namespace SameAer

theorem refl (s : State) : SameAer s s := ⟨fun _ => rfl, fun _ => rfl⟩

theorem trans {s t u : State} (h : SameAer s t) (h' : SameAer t u) : SameAer s u :=
  ⟨fun p => (h'.corr p).trans (h.corr p), fun p => (h'.uncorr p).trans (h.uncorr p)⟩

theorem of_does {l : List Comp} {s t : State} (h : Does l s t) (hA : Comp.portA ∉ l := by decide) (hB : Comp.portB ∉ l := by decide) :
    SameAer s t := by
  have hPort : ∀ p, getPPort p t = getPPort p s
    | .a => h.same hA
    | .b => h.same hB
  exact ⟨fun p => by rw [hPort], fun p => by rw [hPort]⟩

end SameAer

theorem setSticky_aer (i : Nat) (s : State) : SameAer s (setSticky i s) :=
  ⟨fun p => by cases p <;> rfl, fun p => by cases p <;> rfl⟩

/-! An event reaches a port only through its copy of DEV_STICKY (R258). -/

section
variable (l : Level) (unit src action : Nat) (forced early act : Bool) (s : State)

theorem latchEvent_aer : SameAer s (latchEvent l unit src forced early s).1 := by
  unfold latchEvent
  split
  · exact .refl s
  extract_lets f t s1
  have hSet : SameAer s s1 := .of_does (setFaultSrc_does l unit src (f.add forced early t) s)
  split
  · exact (hSet.trans (setSticky_aer _ s1)).trans (.of_does (recordAt_does _ _ _ _))
  · exact hSet

theorem countSimple_aer : SameAer s (countSimple l unit src forced early act s) := by
  unfold countSimple
  extract_lets f action r t
  have hEvent : SameAer s t := by
    unfold t
    split
    · exact (latchEvent_aer l unit src forced early s).trans (.of_does (eventAction_does l unit action r.1))
    · exact latchEvent_aer l unit src forced early s
  split
  · exact hEvent.trans (.of_does (severeNow_does l unit src _ action t))
  · exact hEvent

theorem loseLane_aer (p lane : Nat) : SameAer s (loseLane p lane s) := by
  unfold loseLane
  split
  · exact (SameAer.of_does (removeLane_does _ _ s)).trans (countSimple_aer _ _ _ _ _ _ _)
  · exact .refl s

theorem dropNow_aer : SameAer s (dropNow l unit src action early s) := by
  unfold dropNow
  split
  · exact .of_does (severeNow_does l unit src false action s)
  unfold dropWorstLane
  extract_lets c old
  split
  · exact .refl s
  split
  · exact .of_does (askRetrain_does _ s)
  · exact loseLane_aer s _ _

theorem countEventWith_aer : SameAer s (countEventWith l unit src forced early act s) := by
  have hLatch := latchEvent_aer l unit src forced early s
  unfold countEventWith
  dsimp only
  split_ifs
  · exact hLatch.trans (dropNow_aer l unit src _ early _)
  · exact hLatch
  · exact (SameAer.of_does (standFault_does l unit src forced s)).trans (countSimple_aer l unit src forced early act _)

end

/-- A PCIe error is logged on the port that it names. -/
theorem logAer_aer (l : Level) (src : Nat) (s : State) : let t := logAer l src s
    t.portA.aerCorr = (s.portA.aerCorr || decide (l = .chip ∧ src = 1)) ∧ t.portB.aerCorr = (s.portB.aerCorr || decide (l = .chip ∧ src = 2))
      ∧ t.portA.aerUncorr = (s.portA.aerUncorr || decide (l = .chip ∧ src = 3))
      ∧ t.portB.aerUncorr = (s.portB.aerUncorr || decide (l = .chip ∧ src = 4)) := by
  unfold logAer
  by_cases hChip : l = .chip
  · match src with
    | 1 | 2 | 3 | 4 => simp [hChip, onPort, setPPort, getPPort]
    | 0 | n + 5 => simp [hChip]
  · simp [hChip]

/-- What FAULT_EVENT leaves: the error logged, and the event counted where the collectors run (R254, R361, R415). -/
def faultEventLeaves (l : Level) (unit src : Nat) (early : Bool) (s : State) : State :=
  if collectorsRun s then countEventWith l unit src false early true (logAer l src s) else logAer l src s

theorem exec_faultEvent (l : Level) (unit src : Nat) (early : Bool) (s : State) :
    exec (.faultEvent l unit src early) s = .next (faultEventLeaves l unit src early s) := by
  refine effect_eq_next (f := fun s => onlyIf (collectorsRun s) (countEventWith l unit src false early true) (logAer l src s)) rfl ?_
  unfold faultEventLeaves
  have hLog := (logAer_does l src s).pending_eq
  split
  · exact (countEventWith_does l unit src false early true _).pending_eq.trans hLog
  · exact hLog

theorem faultEventLeaves_aer (l : Level) (unit src : Nat) (early : Bool) (s : State) :
    SameAer (logAer l src s) (faultEventLeaves l unit src early s) := by
  unfold faultEventLeaves
  split
  · exact countEventWith_aer l unit src false early true _
  · exact .refl _

/-! ### The start of a window (R303, R361, R364) -/

section
variable {l : Level} {unit src : Nat} {s : State}

/-- A waiting configuration whose first window starts at the tick in progress. -/
def ConfigDue (f : FSrc) (t : W64) : Prop := ∃ c k, f.pending = some (c, k) ∧ t.toNat % c.w = 0 ∧ t ≠ k

/-- A count of an ended window, but for a FENCED cell. -/
def CountEnded (l : Level) (unit src : Nat) (s : State) : Prop :=
  (faultSrc l unit src s).count ≠ 0 ∧ windowCount (faultSrc l unit src s) s.tick.count = 0 ∧ (l ≠ .cell ∨ cellState unit s ≠ .fenced)

/-- A source behind the end of its window. -/
def FSrc.clearedCount (f : FSrc) (t : W64) : FSrc := { f.endWindow t with count := 0, real := false, lastStamp := t }

theorem FSrc.clearedCount_keeps (f : FSrc) (t : W64) : (f.clearedCount t).sticky = f.sticky ∧ (f.clearedCount t).severe = f.severe
    ∧ (f.clearedCount t).total = f.total ∧ (f.clearedCount t).pending = f.pending := by
  unfold FSrc.clearedCount FSrc.endWindow FSrc.keepWindow
  split <;> exact ⟨rfl, rfl, rfl, rfl⟩

theorem clearOldWindow_of_ended (h : CountEnded l unit src s) :
    clearOldWindow l unit src s = setFaultSrc l unit src ((faultSrc l unit src s).clearedCount s.tick.count) s := by
  obtain ⟨hCount, hWindow, hFenced⟩ := h
  exact if_pos (by simpa [hCount, hWindow] using hFenced)

theorem clearOldWindow_of_not (h : ¬ CountEnded l unit src s) : clearOldWindow l unit src s = s :=
  if_neg fun hEnds => h (by simpa [CountEnded, and_assoc] using hEnds)

/-- The end of a window leaves the source's configuration and its total. -/
theorem clearOldWindow_keeps : (faultSrc l unit src (clearOldWindow l unit src s)).pending = (faultSrc l unit src s).pending
    ∧ (faultSrc l unit src (clearOldWindow l unit src s)).total = (faultSrc l unit src s).total := by
  by_cases hEnded : CountEnded l unit src s
  · obtain ⟨-, -, hTotal, hPending⟩ := (faultSrc l unit src s).clearedCount_keeps s.tick.count
    rw [clearOldWindow_of_ended hEnded, faultSrc_setFaultSrc]
    exact ⟨hPending, hTotal⟩
  · rw [clearOldWindow_of_not hEnded]
    exact ⟨rfl, rfl⟩

theorem installCfg_of_not (h : ¬ ConfigDue (faultSrc l unit src s) s.tick.count) : installCfg l unit src s = s := by
  unfold installCfg
  dsimp only
  split
  · rfl
  next c k hPending => exact if_neg fun hStarts => h ⟨c, k, hPending, by simpa using hStarts⟩

/-- A configuration that takes force clears the source, but for its total. -/
theorem installCfg_of_due {c : FCfg} {k : W64} (hPending : (faultSrc l unit src s).pending = some (c, k)) (hStart : s.tick.count.toNat % c.w = 0)
    (hLater : s.tick.count ≠ k) : ∃ old, installCfg l unit src s = setFaultSrc l unit src
      { FSrc.fresh c with lastStamp := s.tick.count, total := (faultSrc l unit src s).total, old := old } s := by
  unfold installCfg
  dsimp only
  rw [hPending]
  exact ⟨_, if_pos (by simp [hStart, hLater])⟩

theorem exec_faultWindowStart (hRuns : collectorsRun s = true) : exec (.faultWindowStart l unit src) s = .next (startWindow l unit src s) :=
  effect_onlyIf_eq_next hRuns rfl (startWindow_does l unit src s).pending_eq

theorem faultWindowStart_of_ended (hRuns : collectorsRun s = true) (hDue : ¬ ConfigDue (faultSrc l unit src s) s.tick.count)
    (hEnded : CountEnded l unit src s) : completes (.faultWindowStart l unit src) s fun t =>
      let f := faultSrc l unit src s
      let g := faultSrc l unit src t
      g.count = 0 ∧ g.sticky = f.sticky ∧ g.severe = f.severe ∧ g.total = f.total ∧ g.pending = f.pending := by
  obtain ⟨hSticky, hSevere, hTotal, hPending⟩ := (faultSrc l unit src s).clearedCount_keeps s.tick.count
  have hStart : startWindow l unit src s = setFaultSrc l unit src ((faultSrc l unit src s).clearedCount s.tick.count) s := by
    rw [startWindow, clearOldWindow_of_ended hEnded]
    refine installCfg_of_not ?_
    rw [faultSrc_setFaultSrc, ConfigDue, hPending]
    exact hDue
  refine ⟨_, exec_faultWindowStart hRuns, ?_⟩
  dsimp only
  rw [hStart, faultSrc_setFaultSrc]
  exact ⟨rfl, hSticky, hSevere, hTotal, hPending⟩

theorem faultWindowStart_of_due {c : FCfg} {k : W64} (hRuns : collectorsRun s = true) (hPending : (faultSrc l unit src s).pending = some (c, k))
    (hStart : s.tick.count.toNat % c.w = 0) (hLater : s.tick.count ≠ k) : completes (.faultWindowStart l unit src) s fun t =>
      let g := faultSrc l unit src t
      g.cfg = c ∧ g.count = 0 ∧ g.sticky = false ∧ g.severe = false ∧ g.total = (faultSrc l unit src s).total ∧ g.pending = none := by
  obtain ⟨hPending', hTotal⟩ := clearOldWindow_keeps (l := l) (unit := unit) (src := src) (s := s)
  have hTick := congrArg TickSt.count (clearOldWindow_does l unit src s).tick_eq
  obtain ⟨old, hInstalled⟩ := installCfg_of_due (hPending'.trans hPending) (by rw [hTick]; exact hStart) (by rw [hTick]; exact hLater)
  refine ⟨_, exec_faultWindowStart hRuns, ?_⟩
  dsimp only
  rw [startWindow, hInstalled, faultSrc_setFaultSrc]
  exact ⟨rfl, rfl, rfl, rfl, hTotal, rfl⟩

theorem faultWindowStart_of_idle
    (h : collectorsRun s = false ∨ (¬ ConfigDue (faultSrc l unit src s) s.tick.count ∧ ¬ CountEnded l unit src s)) :
    exec (.faultWindowStart l unit src) s = .next s := by
  by_cases hRuns : collectorsRun s = true
  · obtain ⟨hDue, hEnded⟩ := h.resolve_left (by simp [hRuns])
    rw [exec_faultWindowStart hRuns, startWindow, clearOldWindow_of_not hEnded, installCfg_of_not hDue]
  · exact effect_onlyIf_of_false (Bool.eq_false_iff.mpr hRuns)

end

/-! ### The obligation -/

/-- Settles O37. An event enters its source by `FSrc.add`; it reaches the AER registers only through `logAer`. -/
theorem faultSourcesCount : Obligations.FaultSourcesCount := by
  unfold Obligations.FaultSourcesCount
  refine ⟨fun l unit src s => ⟨fun hCollects => ?_, fun o hCollects hOld hEnded => ?_, latchEvent_of_not, fun early => ?_⟩,
    fun s l unit src => ⟨faultWindowStart_of_ended, fun c k => faultWindowStart_of_due, faultWindowStart_of_idle⟩⟩
  · intro f
    obtain ⟨hSrc, hTurns⟩ := latchEvent_counts (forced := false) (early := false) hCollects
    obtain ⟨hSticky, hCount, hTotal, hSevere⟩ := f.add_now s.tick.count
    rw [hTurns, hSrc]
    refine ⟨hSticky, hCount.trans (f.countWith_now _), hTotal, ?_, fun h => by rw [hSevere, h, Bool.or_true]⟩
    rw [FSrc.turns_iff, hCount, FSrc.judge_now]
  · intro f n
    have hWindow := f.oldAt_early s.tick.count hOld hEnded
    have hCountWith : f.countWith true s.tick.count = n := by rw [FSrc.countWith, f.judge_early _ hWindow]
    obtain ⟨hSrc, hTurns⟩ := latchEvent_counts (forced := false) (early := true) hCollects
    obtain ⟨hCount, hOldCount, hTotal, hCleared, hKept⟩ := f.add_early s.tick.count hWindow
    rw [hTurns, hSrc]
    refine ⟨hCount, by rw [hOldCount, hCountWith], hTotal, ?_, hCleared, hKept⟩
    rw [FSrc.turns_iff, hCountWith, f.judge_early _ hWindow]
  · have hSame := faultEventLeaves_aer l unit src early s
    obtain ⟨hCorrA, hCorrB, hUncorrA, hUncorrB⟩ := logAer_aer l src s
    exact ⟨_, exec_faultEvent l unit src early s, rfl, (hSame.corr .a).trans hCorrA, (hSame.corr .b).trans hCorrB,
      (hSame.uncorr .a).trans hUncorrA, (hSame.uncorr .b).trans hUncorrB⟩

end Sys2Proof.Machine
end

section
/-! PROOFS. Port resets, the events of a port, and core resets (R252, R253, R255, R270, R273, R408, R412 to R414, R416, R436, R449, R468). -/

namespace Sys2Proof.Machine
open Sys2Proof

/-! ### A port reset (R270) -/

/-- A port behind its reset: with its configuration space it keeps its link and its logged errors. -/
def PortSt.behindReset (keep core : Bool) (q : PortSt) : PortSt :=
  if keep then { PortSt.reset with
      resyncReq := false, bme := q.bme, d3hot := q.d3hot, linkUp := q.linkUp, inReset := q.inReset, width := q.width, rate := q.rate,
      aerCorr := q.aerCorr, aerUncorr := q.aerUncorr }
  else { PortSt.reset with inReset := q.inReset, resyncAck := core }

section
variable (p : PPort) (keep : Bool) (s : State)

theorem getPPort_resetPort : getPPort p (resetPort p keep s) = (getPPort p s).behindReset keep (coreRuns s) := by cases p <;> rfl

theorem getPPort_resetPort_other : getPPort (otherPort p) (resetPort p keep s) = getPPort (otherPort p) s := by cases p <;> rfl

theorem resetPort_mbx : (resetPort p keep s).mbx = { s.mbx with
    order := s.mbx.order.filter (fun a => a.port != p)
    accepted := s.mbx.accepted.map (fun a => if a.port = p then { a with slot := 0xFF } else a) } := by cases p <;> rfl

theorem resetPort_hbm : (resetPort p keep s).hbm = { s.hbm with bar2Waits := s.hbm.bar2Waits.filter (fun w => w.port != p) } := by cases p <;> rfl

theorem connOf_resetPort : connOf p (resetPort p keep s) = SpdmConn.reset := by cases p <;> rfl

variable (core : Bool) (q : PortSt)

/-- What a port reset clears of its port whatever it keeps. -/
theorem PortSt.behindReset_clears : let r := q.behindReset keep core
    r.slots = [] ∧ r.ringEnable = false ∧ r.waiting = [] ∧ r.binds = [] ∧ r.fifoWr = 0 ∧ r.fifoRd = 0 := by
  unfold PortSt.behindReset
  split <;> exact ⟨rfl, rfl, rfl, rfl, rfl, rfl⟩

/-- What it keeps: the link, the power state and bus mastering with configuration space, else none of them. -/
theorem PortSt.behindReset_keeps : let r := q.behindReset keep core
    r.inReset = q.inReset ∧ r.linkUp = (keep && q.linkUp) ∧ r.bme = (keep && q.bme) ∧ r.d3hot = (keep && q.d3hot) ∧ r.resyncReq = !keep
      ∧ (keep = false → r.resyncAck = core) := by
  cases keep with
  | false => exact ⟨rfl, rfl, rfl, rfl, rfl, fun _ => rfl⟩
  | true => exact ⟨rfl, rfl, rfl, rfl, rfl, fun h => nomatch h⟩

end

/-- A port without slots of its own has them all as they are after reset. -/
theorem slotAt_of_no_slots {p : PPort} {s : State} (h : (getPPort p s).slots = []) (n : Nat) : slotAt p n s = Slot.reset := by
  rw [slotAt, h]
  rfl

section
variable (p : PPort) (keep : Bool) (s : State)

theorem slotAt_resetPort (n : Nat) : slotAt p n (resetPort p keep s) = Slot.reset := by
  obtain ⟨hSlots, -⟩ := (getPPort p s).behindReset_clears keep (coreRuns s)
  exact slotAt_of_no_slots (by rw [getPPort_resetPort, hSlots]) n

theorem resetPort_order : ∀ a ∈ (resetPort p keep s).mbx.order, a.port ≠ p := by
  intro a ha
  rw [resetPort_mbx] at ha
  simpa using (List.mem_filter.mp ha).2

theorem resetPort_accepted : ∀ a ∈ (resetPort p keep s).mbx.accepted, a.port = p → a.slot = 0xFF := by
  intro a ha hPort
  rw [resetPort_mbx] at ha
  obtain ⟨b, -, rfl⟩ := List.mem_map.mp ha
  split at hPort
  next h => rw [if_pos h]
  next h => exact absurd hPort h

theorem resetPort_bar2Waits : ∀ w ∈ (resetPort p keep s).hbm.bar2Waits, w.port ≠ p := by
  intro w hw
  rw [resetPort_hbm] at hw
  simpa using (List.mem_filter.mp hw).2

end

/-! ### Port events (R252, R253, R255, R270, R408, R416) -/

section
variable {p : PPort} {s : State}

theorem exec_functionLevelReset (h : perstOf p s = false) : exec (.functionLevelReset p) s = .next (dropLink p (resetPort p true s)) :=
  effect_onlyIf_eq_next (by rw [h]; rfl) rfl ((dropLink_does p _).pending_eq.trans (resetPort_does p true s).pending_eq)

theorem exec_functionLevelReset_of_perst (h : perstOf p s = true) : exec (.functionLevelReset p) s = .next s :=
  effect_onlyIf_of_false (by rw [h]; rfl)

theorem exec_pcieLinkDown : exec (.pcieLinkDown p) s = .next (resetPort p false s) := effect_eq_next rfl (resetPort_does p false s).pending_eq

theorem exec_perst_unpowered (on : Bool) (h : s.pins.ioUp = false) : exec (.perst p on) s = .next s :=
  effect_of_eq (if_pos (by rw [h]; rfl))

/-- The port behind its PERST#, the other port out of it. -/
def perstLeaves (p : PPort) (s : State) : State := onPort p (fun q => { q with inReset := true }) (resetPort p false (setPerst p true s))

theorem exec_perst_alone (hPower : s.pins.ioUp = true) (hOther : perstOf (otherPort p) s = false) :
    exec (.perst p true) s = .next (perstLeaves p s) := by
  have hRun : runPerst p true s = perstLeaves p s := by
    unfold runPerst
    rw [if_neg (by rw [hPower]; decide), if_pos rfl, if_neg (by rw [hOther]; decide)]
    rfl
  exact effect_eq_next hRun (hRun ▸ (runPerst_does p true s).pending_eq)

theorem exec_perst_released (hPower : s.pins.ioUp = true) :
    exec (.perst p false) s = .next (onPort p (fun q => { q with inReset := false }) (setPerst p false s)) :=
  effect_eq_next (if_neg (by rw [hPower]; decide)) ((onPort_does p _ _).pending_eq.trans (setPerst_does p false s).pending_eq)

theorem getPPort_setPerst (q : PPort) (on : Bool) : getPPort q (setPerst p on s) = getPPort q s := by cases p <;> cases q <;> rfl

theorem perstOf_setPerst (on : Bool) : perstOf p (setPerst p on s) = on := by cases p <;> rfl

theorem Does.perstOf_eq {l : List Comp} {t : State} (h : Does l s t) (hk : Comp.pins ∉ l := by decide) : perstOf p t = perstOf p s := by
  have hPins : t.pins = s.pins := h.same hk
  cases p with
  | a => exact congrArg PinSt.perstA hPins
  | b => exact congrArg PinSt.perstB hPins

theorem perst_alone (hPower : s.pins.ioUp = true) (hOther : perstOf (otherPort p) s = false) : completes (.perst p true) s fun t =>
    perstOf p t = true ∧ (getPPort p t).inReset = true ∧ (getPPort p t).resyncReq = true
      ∧ getPPort (otherPort p) t = getPPort (otherPort p) s ∧ (∀ n, slotAt p n t = Slot.reset) ∧ t.dev = s.dev := by
  have hReset := resetPort_does p false (setPerst p true s)
  have hHeld := onPort_does p (fun q => { q with inReset := true }) (resetPort p false (setPerst p true s))
  refine ⟨_, exec_perst_alone hPower hOther, ?_, ?_, ?_, ?_, fun n => ?_, ?_⟩
  · exact hHeld.perstOf_eq.trans (hReset.perstOf_eq.trans (perstOf_setPerst true))
  · rw [perstLeaves, getPPort_onPort]
  · rw [perstLeaves, getPPort_onPort, getPPort_resetPort]
    rfl
  · rw [perstLeaves, getPPort_onPort_other, getPPort_resetPort_other, getPPort_setPerst]
  · exact (slotAt_onPort (f := fun q => { q with inReset := true }) (fun _ => rfl) p p n _).trans (slotAt_resetPort p false _ n)
  · exact hHeld.dev_eq.trans (hReset.dev_eq.trans (setPerst_does p true s).dev_eq)

theorem perst_released (hPower : s.pins.ioUp = true) : completes (.perst p false) s fun t =>
    perstOf p t = false ∧ (getPPort p t).inReset = false ∧ getPPort (otherPort p) t = getPPort (otherPort p) s := by
  refine ⟨_, exec_perst_released hPower, ?_, ?_, ?_⟩
  · exact (onPort_does p _ _).perstOf_eq.trans (perstOf_setPerst false)
  · rw [getPPort_onPort]
  · rw [getPPort_onPort_other, getPPort_setPerst]

/-- An event that a port takes while its guard holds. -/
theorem effect_onPort_of_open {c : Bool} {f : PortSt → PortSt} (h : c = true) : effect (onlyIf c (onPort p f)) s = .next (onPort p f s) :=
  effect_onlyIf_eq_next h rfl (onPort_does p f s).pending_eq

theorem exec_pcieLinkUp (hOut : perstOf p s = false) (hPower : s.pins.ioUp = true) (w r : Nat) : exec (.pcieLinkUp p w r) s
    = .next (setPPort p { getPPort p s with inReset := false, resyncReq := s.clocks.coreReset, resyncAck := s.clocks.coreReset, linkUp := true
                                            width := w, rate := r } s) := by
  refine (effect_onPort_of_open (by rw [hOut, hPower]; rfl)).trans ?_
  simp only [onPort, resynced, Bool.not_not]

theorem exec_pcieLinkUp_of_idle (h : perstOf p s = true ∨ s.pins.ioUp = false) (w r : Nat) : exec (.pcieLinkUp p w r) s = .next s :=
  effect_onlyIf_of_false (by rcases h with h | h <;> simp [h])

end

/-! ### A core reset (R270, R412, R413) -/

/-- Nothing that a core reset keeps differs between two states (R413). -/
structure SameKept (s t : State) : Prop where
  flash : t.flash = s.flash
  secret : t.ident.deviceSecret = s.ident.deviceSecret
  lifecycle : t.ident.lifecycle = s.ident.lifecycle
  rollback : t.ident.rollback = s.ident.rollback
  power : t.ident.power = s.ident.power
  uid : t.dev.uid = s.dev.uid
  hostMem : t.mbx.hostMem = s.mbx.hostMem

theorem SameKept.trans {s t u : State} (h : SameKept s t) (h' : SameKept t u) : SameKept s u :=
  ⟨h'.flash.trans h.flash, h'.secret.trans h.secret, h'.lifecycle.trans h.lifecycle, h'.rollback.trans h.rollback, h'.power.trans h.power,
    h'.uid.trans h.uid, h'.hostMem.trans h.hostMem⟩

theorem resetPort_sameKept (p : PPort) (keep : Bool) (s : State) : SameKept s (resetPort p keep s) := by
  cases p <;> exact ⟨rfl, rfl, rfl, rfl, rfl, rfl, rfl⟩

theorem resetBoth_sameKept (s : State) : SameKept s (resetBoth s) :=
  ((resetPort_sameKept .a false s).trans (resetPort_sameKept .b false _)).trans ⟨rfl, rfl, rfl, rfl, rfl, rfl, rfl⟩

/-- The core in reset: what a reset from `s` leaves of the core, and what survives it (R413, R449, R468). -/
def CoreCleared (s t : State) : Prop :=
  t.clocks.coreReset = true ∧ t.dev.state = .booting ∧ t.tick = TickSt.reset ∧ t.own = OwnSt.reset ∧ t.image = ImageSt.reset
    ∧ t.hbm.mem = [] ∧ t.caseMem = CaseSt.reset ∧ t.pins.vrCore = false ∧ t.pins.vrHbm = false
    ∧ t.flash.ring = s.flash.ring ∧ t.flash.bank0 = s.flash.bank0 ∧ t.flash.bank1 = s.flash.bank1 ∧ t.flash.queue = []
    ∧ t.flash.corrQueue = [] ∧ t.ident.lifecycle = s.ident.lifecycle ∧ t.portA.resyncReq = true ∧ t.portB.resyncReq = true
    ∧ t.ident.deviceSecret = s.ident.deviceSecret ∧ t.ident.rollback = s.ident.rollback ∧ t.ident.power = s.ident.power ∧ t.dev.uid = s.dev.uid
    ∧ t.mbx.hostMem = s.mbx.hostMem

theorem resetCore_cleared {s u : State} (h : SameKept s u) : CoreCleared s (resetCore u) := by
  have hRing : u.flash.ring = s.flash.ring := congrArg FlashSt.ring h.flash
  have hBank0 : u.flash.bank0 = s.flash.bank0 := congrArg FlashSt.bank0 h.flash
  have hBank1 : u.flash.bank1 = s.flash.bank1 := congrArg FlashSt.bank1 h.flash
  exact ⟨rfl, rfl, rfl, rfl, rfl, rfl, rfl, rfl, rfl, hRing, hBank0, hBank1, rfl, rfl, h.lifecycle, rfl, rfl, h.secret, h.rollback, h.power, h.uid,
    h.hostMem⟩

theorem holdReset_cleared (s : State) : CoreCleared s (holdReset s) :=
  resetCore_cleared (SameKept.trans (t := assertBoth s) ⟨rfl, rfl, rfl, rfl, rfl, rfl, rfl⟩ (resetBoth_sameKept _))

/-- The reset that a command asked for: the core, and both ports with their configuration space. -/
def commandedReset (s : State) : State := resetCore (resetPort .b true (resetPort .a true s))

section
variable {s : State}

theorem exec_bothPerst (h : s.pins.ioUp = true) : exec .bothPerst s = .next (holdReset s) :=
  effect_onlyIf_eq_next h rfl (holdReset_does s).pending_eq

theorem exec_perst_second {p : PPort} (hPower : s.pins.ioUp = true) (hOther : perstOf (otherPort p) s = true) :
    exec (.perst p true) s = .next (holdReset s) := by
  have hRun : runPerst p true s = holdReset s := by
    unfold runPerst
    rw [if_neg (by rw [hPower]; decide), if_pos rfl, if_pos hOther]
  exact effect_eq_next hRun (holdReset_does s).pending_eq

theorem exec_coreReset {k : Nat} (hAt : s.dev.resetAt = some k) (hRuns : coreRuns s = true) (hDue : k < s.tick.timeUs + frameUs s.tick.rate) :
    exec .coreReset s = .next (commandedReset s) := by
  have hRun : runCoreReset s = commandedReset s := by
    unfold runCoreReset
    rw [hAt]
    exact if_pos (by rw [hRuns, decide_eq_true hDue]; rfl)
  exact effect_eq_next hRun (hRun ▸ (runCoreReset_does s).pending_eq)

theorem exec_coreReset_of_idle
    (h : s.dev.resetAt = none ∨ coreRuns s = false ∨ ∃ k, s.dev.resetAt = some k ∧ s.tick.timeUs + frameUs s.tick.rate ≤ k) :
    exec .coreReset s = .next s := by
  refine effect_of_eq ?_
  unfold runCoreReset
  split
  · rfl
  next k hAt =>
    refine if_neg ?_
    rcases h with hNone | hStopped | ⟨j, hLater, hTime⟩
    · exact nomatch hAt.symm.trans hNone
    · simp [hStopped]
    · obtain rfl : k = j := Option.some.inj (hAt.symm.trans hLater)
      simp [hTime]

end

/-! ### The obligations -/

/-- Settles O42. A port reset leaves `PortSt.behindReset` of its port; each event is one change of its port. -/
theorem portResetsAndEvents : Obligations.PortResetsAndEvents := by
  unfold Obligations.PortResetsAndEvents
  refine ⟨⟨fun s p keep => ?_, fun s p => ⟨exec_functionLevelReset, exec_functionLevelReset_of_perst⟩, fun s p => exec_pcieLinkDown,
    fun s p => perst_alone, fun s p => perst_released, fun s p on => exec_perst_unpowered on⟩,
    fun s p => ⟨exec_pcieLinkUp, exec_pcieLinkUp_of_idle, fun hOut on => ?_, fun hIn on => ?_⟩⟩
  · intro t q
    have hPort : q = (getPPort p s).behindReset keep (coreRuns s) := getPPort_resetPort p keep s
    obtain ⟨-, hRing, hWaiting, hBinds, hWr, hRd⟩ := (getPPort p s).behindReset_clears keep (coreRuns s)
    obtain ⟨hInReset, hLink, hBme, hPowerState, hReq, hAck⟩ := (getPPort p s).behindReset_keeps keep (coreRuns s)
    rw [hPort]
    exact ⟨slotAt_resetPort p keep s, hRing, hWaiting, hBinds, resetPort_order p keep s, resetPort_accepted p keep s, resetPort_bar2Waits p keep s,
      connOf_resetPort p keep s, hWr, hRd, getPPort_resetPort_other p keep s, hInReset, hLink, hBme, hPowerState, hReq, hAck⟩
  · have hOpen : (!(getPPort p s).inReset) = true := by rw [hOut]; rfl
    exact ⟨effect_onPort_of_open hOpen, effect_onPort_of_open hOpen⟩
  · have hShut : (!(getPPort p s).inReset) = false := by rw [hIn]; rfl
    exact ⟨effect_onlyIf_of_false hShut, effect_onlyIf_of_false hShut⟩

/-- Settles O43. Each source reaches `resetCore` of a state that has kept what a core reset keeps. -/
theorem coreResets : Obligations.CoreResets := by
  unfold Obligations.CoreResets
  refine ⟨fun s => ⟨fun hPower => ⟨_, exec_bothPerst hPower, holdReset_cleared s, rfl, rfl⟩, effect_onlyIf_of_false⟩,
    fun s p hPower hOther => ⟨_, exec_perst_second hPower hOther, holdReset_cleared s⟩,
    fun s => ⟨_, effect_eq_next rfl (powerOn_does s).pending_eq, holdReset_cleared s, rfl⟩,
    fun s => ⟨_, effect_eq_next rfl (ioFall_does s).pending_eq, resetCore_cleared (resetBoth_sameKept s), rfl⟩,
    fun s k hAt hRuns hDue => ⟨_, exec_coreReset hAt hRuns hDue, ?_, rfl, rfl, rfl, rfl, rfl, rfl⟩, fun s => exec_coreReset_of_idle⟩
  exact resetCore_cleared ((resetPort_sameKept .a true s).trans (resetPort_sameKept .b true _))

end Sys2Proof.Machine
end

section
/-! PROOFS. Slot states, the ring's registers, and the records that a port writes (R259, R263 to R265, R267). -/

namespace Sys2Proof.Machine
open Sys2Proof

/-! ### The state byte of a slot (R263, R264) -/

@[simp] theorem setSlot_mbx (p : PPort) (n : Nat) (x : Slot) (s : State) : (setSlot p n x s).mbx = s.mbx := onPort_mbx p _ s

@[simp] theorem getPPort_setSlot_other (p : PPort) (n : Nat) (x : Slot) (s : State) :
    getPPort (otherPort p) (setSlot p n x s) = getPPort (otherPort p) s := getPPort_onPort_other p _ s

section
variable {p : PPort} {n : Nat} {v : Byte} {s : State}

theorem exec_mbxStateWrite (hDecodes : decodes (getPPort p s) = true) : exec (.mbxStateWrite p n v) s = .next (writeSlotState p n v s) :=
  effect_whenDecoding hDecodes rfl (writeSlotState_does p n v s).pending_eq

/-- A SUBMITTED slot stands behind the slots that wait, and remembers whether its port held the lease (R264, R268). -/
def submitSlot (p : PPort) (n : Nat) (s : State) : State :=
  onMbx (fun m => { m with order := m.order ++ [{ port := p, slot := n, alive := decide (s.own.holder = some p) }] })
    (setSlot p n { slotAt p n s with st := .submitted } s)

theorem writeSlotState_of_free (hn : n < 32) (hFree : (slotAt p n s).st = .free) : writeSlotState p n 1 s = submitSlot p n s := by
  unfold writeSlotState
  dsimp only
  rw [if_neg (Nat.not_le.mpr hn), if_pos (by simp [hFree])]
  rfl

theorem writeSlotState_of_done (hn : n < 32) (hDone : (slotAt p n s).st = .done) :
    writeSlotState p n 0 s = setSlot p n { slotAt p n s with st := .free } s := by
  unfold writeSlotState
  dsimp only
  rw [if_neg (Nat.not_le.mpr hn), if_neg (by simp [hDone]), if_pos (by simp [hDone])]

theorem writeSlotState_of_other (h : 32 ≤ n ∨ (((slotAt p n s).st ≠ .free ∨ v ≠ 1) ∧ ((slotAt p n s).st ≠ .done ∨ v ≠ 0))) :
    writeSlotState p n v s = s := by
  unfold writeSlotState
  dsimp only
  split
  · rfl
  next hn =>
    obtain ⟨hSubmit, hFree⟩ := h.resolve_left hn
    rw [if_neg (by simpa only [Bool.and_eq_true, decide_eq_true_eq, not_and_or] using hSubmit),
      if_neg (by simpa only [Bool.and_eq_true, decide_eq_true_eq, not_and_or] using hFree)]

end

/-! ### The registers of the ring (R259) -/

section
variable {p : PPort} {v : W32} {s : State}

theorem exec_mbxRingCtrlWrite (hDecodes : decodes (getPPort p s) = true) : exec (.mbxRingCtrlWrite p v) s = .next (writeRingCtrl p v s) :=
  effect_whenDecoding hDecodes rfl (writeRingCtrl_does p v s).pending_eq

/-- What MBX_RING_CTRL needs in order to enable a ring that is disabled. -/
def ringStarts (v : W32) (q : PortSt) : Prop := bitOf v.toNat 0 = true ∧ q.ringBase.toNat % 4096 = 0 ∧ bitsOf v.toNat 3 1 ≠ 7

theorem writeRingCtrl_of_enabled (h : (getPPort p s).ringEnable = true) :
    getPPort p (writeRingCtrl p v s) = { getPPort p s with ringEnable := bitOf v.toNat 0 } := by
  rw [writeRingCtrl, getPPort_onPort, if_pos h]
  split
  next hBit => rw [hBit, ← h]
  next hBit => rw [Bool.eq_false_iff.mpr hBit]

theorem writeRingCtrl_of_starts (h : (getPPort p s).ringEnable = false) (hStarts : ringStarts v (getPPort p s)) :
    getPPort p (writeRingCtrl p v s) = { getPPort p s with ringSize := bitsOf v.toNat 3 1, ringEnable := true, written := 0, consumed := 0 } := by
  obtain ⟨hBit, hBase, hSize⟩ := hStarts
  rw [writeRingCtrl, getPPort_onPort, if_neg (by simp [h])]
  exact if_pos (by simp [hBit, hBase, hSize])

theorem writeRingCtrl_of_not_starts (h : (getPPort p s).ringEnable = false) (hNot : ¬ ringStarts v (getPPort p s)) :
    getPPort p (writeRingCtrl p v s) = { getPPort p s with ringSize := bitsOf v.toNat 3 1 } := by
  rw [writeRingCtrl, getPPort_onPort, if_neg (by simp [h])]
  exact if_neg fun hStarts => hNot (by simpa [ringStarts, and_assoc] using hStarts)

theorem writeRingCtrl_ringBase : (getPPort p (writeRingCtrl p v s)).ringBase = (getPPort p s).ringBase := by
  by_cases hOn : (getPPort p s).ringEnable = true
  · rw [writeRingCtrl_of_enabled hOn]
  have hOff := Bool.eq_false_iff.mpr hOn
  by_cases hStarts : ringStarts v (getPPort p s)
  · rw [writeRingCtrl_of_starts hOff hStarts]
  · rw [writeRingCtrl_of_not_starts hOff hStarts]

end

/-! ### Completion records (R259, R265, R267) -/

theorem length_complRec (r : ComplRec) (entries w : Nat) : (r.bytes entries w).length = 32 := by
  simp only [ComplRec.bytes, zeros, List.length_append, length_leBytes, List.length_replicate]

section
variable {p : PPort} {r : ComplRec} {rest : List ComplRec} {s : State}

/-- The bus address of the ring's next place. -/
def recordKey (p : PPort) (s : State) : Nat :=
  let q := getPPort p s
  busKey p (q.ringBase.toNat + 32 * (q.written.toNat % ringEntries q))

/-- The oldest due record is written, and the others wait on. -/
def recordWritten (p : PPort) (r : ComplRec) (rest : List ComplRec) (s : State) : State :=
  let q := getPPort p s
  onMbx (fun m => { m with hostMem := Memory.writeN m.hostMem (recordKey p s) (r.bytes (ringEntries q) q.written.toNat) })
    (setPPort p { q with waiting := rest, written := q.written + 1 } s)

theorem writeRecord_of_open (hWaiting : (getPPort p s).waiting = r :: rest) (hRing : (getPPort p s).ringEnable = true)
    (hFull : ringFull (getPPort p s) = false) (hDma : dmaOpen (getPPort p s) = true) (hServed : portServed p s = true) :
    writeRecord p s = recordWritten p r rest s := by
  unfold writeRecord
  dsimp only
  rw [hWaiting]
  dsimp only
  rw [if_pos (by simp [hRing, hFull, hDma, hServed])]
  rfl

theorem writeRecord_of_waits (h : (getPPort p s).waiting = [] ∨ (getPPort p s).ringEnable = false ∨ ringFull (getPPort p s) = true
    ∨ dmaOpen (getPPort p s) = false ∨ portServed p s = false) : writeRecord p s = s := by
  unfold writeRecord
  dsimp only
  split
  · rfl
  next r rest hWaiting =>
    refine if_neg ?_
    rcases h with hNone | hRing | hFull | hDma | hServed
    · exact nomatch hWaiting.symm.trans hNone
    · simp [hRing]
    · simp [hFull]
    · simp [hDma]
    · simp [hServed]

theorem recordWritten_port : getPPort p (recordWritten p r rest s) = { getPPort p s with waiting := rest, written := (getPPort p s).written + 1 } := by
  cases p <;> rfl

theorem recordWritten_hostMem : (recordWritten p r rest s).mbx.hostMem
    = Memory.writeN s.mbx.hostMem (recordKey p s) (r.bytes (ringEntries (getPPort p s)) (getPPort p s).written.toNat) := by
  simp only [recordWritten, onMbx_mbx, setPPort_mbx]

/-- The record stands in the ring's next place, and no other byte of host memory changes. -/
theorem recordWritten_memory (hWf : Memory.wf s.mbx.hostMem = true) : let t := recordWritten p r rest s
    Memory.readN t.mbx.hostMem (recordKey p s) 32 = r.bytes (ringEntries (getPPort p s)) (getPPort p s).written.toNat
      ∧ ∀ a, (a < recordKey p s ∨ recordKey p s + 32 ≤ a) → Memory.read t.mbx.hostMem a = Memory.read s.mbx.hostMem a := by
  have hLength := length_complRec r (ringEntries (getPPort p s)) (getPPort p s).written.toNat
  have hSame := readN_writeN_same (bs := r.bytes (ringEntries (getPPort p s)) (getPPort p s).written.toNat) (a := recordKey p s) hWf
  rw [hLength] at hSame
  dsimp only
  rw [recordWritten_hostMem]
  exact ⟨hSame, fun a hApart => read_writeN_apart hWf (by rw [hLength]; exact hApart)⟩

theorem exec_completionRecordWrite (hRuns : coreRuns s = true) : exec (.completionRecordWrite p) s = .next (writeRecord p s) :=
  effect_onlyIf_eq_next hRuns rfl (writeRecord_does p s).pending_eq

end

/-! ### The obligation -/

/-- Settles O45. A write acts on one slot or one register of its port; an open ring takes the oldest due record. -/
theorem mailboxSlotsAndRecords : Obligations.MailboxSlotsAndRecords := by
  unfold Obligations.MailboxSlotsAndRecords
  refine ⟨⟨?_, ?_, ?_, ?_, ?_, ?_⟩, ?_, ?_⟩
  · intro s p n hDecodes hn hFree
    refine ⟨_, exec_mbxStateWrite hDecodes, ?_⟩
    rw [writeSlotState_of_free hn hFree]
    refine ⟨?_, congrArg (fun m : MbxSt => m.order ++ _) (setSlot_mbx _ _ _ _), ?_⟩
    · rw [submitSlot, (onMbx_does _ _ rfl).slotAt_eq, slotAt_setSlot_same]
    · exact getPPort_setSlot_other p n { slotAt p n s with st := .submitted } s
  · intro s p n hDecodes hn hDone
    refine ⟨_, exec_mbxStateWrite hDecodes, ?_⟩
    dsimp only
    rw [writeSlotState_of_done hn hDone, slotAt_setSlot_same, setSlot_mbx]
    exact ⟨rfl, rfl⟩
  · intro s p n v h
    by_cases hDecodes : decodes (getPPort p s) = true
    · rw [exec_mbxStateWrite hDecodes, writeSlotState_of_other (h.resolve_left (by simp [hDecodes]))]
    · exact effect_whenDecoding_of_not (Bool.eq_false_iff.mpr hDecodes)
  · intro s p v hDecodes
    refine ⟨_, exec_mbxRingCtrlWrite hDecodes, getPPort_onPort_other p _ s, writeRingCtrl_ringBase, fun hOff hStarts => ?_, fun hOff hNot => ?_,
      fun hOn => ?_⟩
    · rw [writeRingCtrl_of_starts hOff hStarts]
      exact ⟨rfl, rfl, rfl, rfl⟩
    · rw [writeRingCtrl_of_not_starts hOff hNot]
      exact ⟨hOff, rfl, rfl⟩
    · rw [writeRingCtrl_of_enabled hOn]
      exact ⟨rfl, rfl, rfl⟩
  · exact fun s p v hDecodes => effect_whenDecoding hDecodes rfl (writeConsumed_does p v s).pending_eq
  · exact fun s p v hNot => ⟨effect_whenDecoding_of_not hNot, effect_whenDecoding_of_not hNot⟩
  · intro s p r rest hWf hRuns hWaiting hRing hFull hDma hServed
    refine ⟨_, exec_completionRecordWrite hRuns, ?_⟩
    dsimp only
    rw [writeRecord_of_open hWaiting hRing hFull hDma hServed, recordWritten_port]
    exact ⟨rfl, rfl, recordWritten_memory hWf⟩
  · intro s p h
    by_cases hRuns : coreRuns s = true
    · rw [exec_completionRecordWrite hRuns, writeRecord_of_waits (h.resolve_left (by simp [hRuns]))]
    · exact effect_onlyIf_of_false (Bool.eq_false_iff.mpr hRuns)

end Sys2Proof.Machine
end

section
/-! PROOFS. What a write to BAR0 reaches, byte by byte and register by register (R9, R257 to R260, R263). -/

namespace Sys2Proof.Machine
open Sys2Proof

/-! ### The bytes of a register -/

/-- A digit of a number replaced, at base 256: what stands below the next digit. -/
theorem replace_digit_mod (x b q : Nat) (hb : b < 256) (hq : 0 < q) : (x - x / q % 256 * q + b * q) % (q * 256) = b * q + x % q := by
  have hDigits : x = q * 256 * (x / q / 256) + x / q % 256 * q + x % q := by
    calc x = q * (x / q) + x % q := (Nat.div_add_mod x q).symm
      _ = q * (256 * (x / q / 256) + x / q % 256) + x % q := by rw [Nat.div_add_mod (x / q)]
      _ = q * 256 * (x / q / 256) + x / q % 256 * q + x % q := by ring
  have hReplaced : x - x / q % 256 * q + b * q = q * 256 * (x / q / 256) + (b * q + x % q) := by omega
  have hBelow : b * q + x % q < q * 256 := by
    calc b * q + x % q < b * q + q := Nat.add_lt_add_left (Nat.mod_lt x hq) _
      _ = q * (b + 1) := by ring
      _ ≤ q * 256 := Nat.mul_le_mul_left q hb
  rw [hReplaced, Nat.mul_add_mod, Nat.mod_eq_of_lt hBelow]

/-- A value with its bytes below `k` taken from `v`. -/
def withBytes (w k v : Nat) (x : BitVec w) : BitVec w :=
  (List.range k).foldl (fun x i => setByte w i x (BitVec.ofNat 8 (v / p2 (8 * i)))) x

theorem withBytes_succ (w k v : Nat) (x : BitVec w) :
    withBytes w (k + 1) v x = setByte w k (withBytes w k v x) (BitVec.ofNat 8 (v / p2 (8 * k))) := by
  rw [withBytes, List.range_succ, List.foldl_append]
  rfl

theorem toNat_withBytes_mod {w v : Nat} (x : BitVec w) : ∀ k, 8 * k ≤ w → (withBytes w k v x).toNat % 2 ^ (8 * k) = v % 2 ^ (8 * k)
  | 0, _ => by simp [Nat.mod_one]
  | k + 1, hk => by
    have hPow : 2 ^ (8 * (k + 1)) = 2 ^ (8 * k) * 256 := by rw [Nat.mul_succ, Nat.pow_add]
    have hRest := toNat_withBytes_mod (v := v) x k (Nat.le_trans (Nat.mul_le_mul_left 8 (Nat.le_succ k)) hk)
    rw [withBytes_succ, setByte, BitVec.toNat_ofNat, Nat.mod_mod_of_dvd _ (Nat.pow_dvd_pow 2 hk), hPow, p2_eq,
      replace_digit_mod _ _ _ (BitVec.isLt _) (Nat.two_pow_pos _), hRest, BitVec.toNat_ofNat, Nat.mod_mul, Nat.add_comm, Nat.mul_comm (2 ^ (8 * k))]

/-- All bytes of a value taken from `v`. -/
theorem withBytes_whole (k v : Nat) (x : BitVec (8 * k)) : withBytes (8 * k) k v x = BitVec.ofNat (8 * k) v := by
  refine BitVec.eq_of_toNat_eq ?_
  rw [BitVec.toNat_ofNat, ← toNat_withBytes_mod x k (Nat.le_refl _), Nat.mod_eq_of_lt (BitVec.isLt _)]

/-- A write of a whole register of 4 bytes keeps nothing of it. -/
theorem mergeW32_whole (old : W32) (base : Nat) (v : W64) : mergeW32 old base 4 base v = BitVec.ofNat 32 v.toNat := by
  rw [← withBytes_whole 4 v.toNat old, mergeW32, withBytes]
  refine List.foldl_ext _ _ _ fun x i hi => ?_
  have hi4 : i < 4 := List.mem_range.mp hi
  rw [if_pos (by simp [hi4]), Nat.add_sub_cancel_left]

/-! ### What a write to a port's registers leaves alone -/

/-- A write through port `p` leaves the other port, the power and bus mastering and the bindings of its own, memory, and the commands that run. -/
structure PortWrite (p : PPort) (s t : State) : Prop where
  other : getPPort (otherPort p) t = getPPort (otherPort p) s
  bme : (getPPort p t).bme = (getPPort p s).bme
  binds : (getPPort p t).binds = (getPPort p s).binds
  hostMem : t.mbx.hostMem = s.mbx.hostMem
  accepted : t.mbx.accepted = s.mbx.accepted

namespace PortWrite

variable {p : PPort} {s t u : State}

theorem refl (p : PPort) (s : State) : PortWrite p s s := ⟨rfl, rfl, rfl, rfl, rfl⟩

theorem trans (h : PortWrite p s t) (h' : PortWrite p t u) : PortWrite p s u :=
  ⟨h'.other.trans h.other, h'.bme.trans h.bme, h'.binds.trans h.binds, h'.hostMem.trans h.hostMem, h'.accepted.trans h.accepted⟩

theorem foldl {β : Type} {f : State → β → State} (hf : ∀ x b, PortWrite p x (f x b)) (xs : List β) (s : State) : PortWrite p s (xs.foldl f s) :=
  List.foldlRecOn (motive := PortWrite p s) xs f (.refl p s) fun _ h b _ => h.trans (hf _ b)

theorem ite {c : Prop} [Decidable c] (ht : PortWrite p s t) (hu : PortWrite p s u) : PortWrite p s (if c then t else u) := by
  split <;> assumption

/-- A change of the port that keeps its bus mastering and its bindings. -/
theorem onPort (f : PortSt → PortSt) (s : State) (hBme : (f (getPPort p s)).bme = (getPPort p s).bme)
    (hBinds : (f (getPPort p s)).binds = (getPPort p s).binds) : PortWrite p s (onPort p f s) :=
  ⟨getPPort_onPort_other p f s, by rw [getPPort_onPort, hBme], by rw [getPPort_onPort, hBinds], by rw [onPort_mbx], by rw [onPort_mbx]⟩

theorem setSlot (n : Nat) (x : Slot) (s : State) : PortWrite p s (setSlot p n x s) := onPort _ s rfl rfl

theorem putByte (off : Nat) (b : Byte) (s : State) : PortWrite p s (putByte p off b s) := by
  unfold Machine.putByte
  split_ifs
  · exact onPort _ s (by split <;> rfl) (by split <;> rfl)
  · exact onPort _ s rfl rfl
  · exact onPort _ s rfl rfl
  · exact ite (setSlot _ _ s) (refl p s)
  · exact refl p s

theorem writeRingCtrl (v : W32) (s : State) : PortWrite p s (writeRingCtrl p v s) := by
  refine onPort _ s ?_ ?_
  · dsimp only
    split_ifs <;> rfl
  · dsimp only
    split_ifs <;> rfl

theorem writeSlotState (n : Nat) (v : Byte) (s : State) : PortWrite p s (writeSlotState p n v s) := by
  unfold Machine.writeSlotState
  dsimp only
  split_ifs
  · exact refl p s
  · exact (setSlot n _ s).trans ⟨by cases p <;> rfl, by cases p <;> rfl, by cases p <;> rfl, rfl, rfl⟩
  · exact setSlot n _ s
  · exact refl p s

theorem writeRegister (off size : Nat) (v : W64) (s : State) : PortWrite p s (writeRegister p off size v s) := by
  unfold Machine.writeRegister
  extract_lets q s1 s2 s3 s4
  have h1 : PortWrite p s s1 := .foldl (fun x i => .putByte _ _ x) _ s
  have h2 : PortWrite p s s2 := ite (h1.trans (.writeRingCtrl _ s1)) h1
  have h3 : PortWrite p s s3 := ite (h2.trans (.onPort _ s2 rfl rfl)) h2
  have h4 : PortWrite p s s4 := ite (h3.trans (.onPort _ s3 rfl rfl)) h3
  exact ite (h4.trans (.writeSlotState _ _ s4)) h4

end PortWrite

/-! ### Registers without a behaviour of their own (R257, R258) -/

section
variable (p : PPort) (off size : Nat) (v : W64) (s : State)

/-- The bytes of a write, one behind the other. -/
def putBytesAt : State := (List.range size).foldl (fun s i => putByte p (off + i) (BitVec.ofNat 8 (v.toNat / p2 (8 * i))) s) s

theorem putBytesAt_succ :
    putBytesAt p off (size + 1) v s = putByte p (off + size) (BitVec.ofNat 8 (v.toNat / p2 (8 * size))) (putBytesAt p off size v s) := by
  rw [putBytesAt, List.range_succ, List.foldl_append]
  rfl

/-- A write that meets no register with a behaviour of its own is a write of its bytes. -/
theorem writeRegister_of_plain (hCtrl : covers off size 0x508 4 = false) (hConsumed : covers off size 0x514 4 = false)
    (hSticky : covers off size 0x20C 4 = false) (hState : off < 0x1000 ∨ off % 256 ≠ 0) : writeRegister p off size v s = putBytesAt p off size v s := by
  unfold writeRegister
  simp only [hCtrl, hConsumed, hSticky, Bool.false_eq_true, if_false]
  exact if_neg (by
    rcases hState with h | h
    · simp [Nat.not_le.mpr h]
    · simp [h])

/-- Bytes between 0x20A and 0x4FF, and from 0x508 on below the slots, have no register that takes them one by one. -/
theorem putByte_of_other (b : Byte) (h : 0x209 < off) (h' : off < 0x500 ∨ (0x508 ≤ off ∧ off < 0x1000)) : putByte p off b s = s := by
  unfold putByte
  rw [if_neg (by simp; omega), if_neg (by omega), if_neg (by omega), if_neg (by simp; omega)]

theorem putBytesAt_of_other (h : 0x209 < off) (h' : off + size ≤ 0x500 ∨ (0x508 ≤ off ∧ off + size ≤ 0x1000)) : putBytesAt p off size v s = s := by
  induction size with
  | zero => rfl
  | succ k ih => rw [putBytesAt_succ, ih (by omega), putByte_of_other _ _ _ _ (by omega) (by omega)]

/-- The ring's base takes bytes while the ring is disabled (R259). -/
theorem putBytesAt_ringBase : ∀ k, k ≤ 8 → getPPort p (putBytesAt p 0x500 k v s)
    = if (getPPort p s).ringEnable then getPPort p s else { getPPort p s with ringBase := withBytes 64 k v.toNat (getPPort p s).ringBase }
  | 0, _ => by split <;> rfl
  | k + 1, hk => by
    have hRest := putBytesAt_ringBase k (by omega)
    have hPut : ∀ b u, putByte p (0x500 + k) b u = onPort p (fun q => if q.ringEnable then q else { q with ringBase := setByte 64 k q.ringBase b }) u := by
      intro b u
      unfold putByte
      rw [if_pos (by simp; omega), Nat.add_sub_cancel_left]
    rw [putBytesAt_succ, hPut, getPPort_onPort, hRest, withBytes_succ]
    by_cases hOn : (getPPort p s).ringEnable = true
    · simp only [hOn, if_true]
    · simp only [hOn, Bool.false_eq_true, if_false]

/-- The BAR2 window is the low 9 bits of its two bytes (R258, R260). -/
theorem putBytesAt_window : (getPPort p (putBytesAt p 0x208 2 v s)).window = v.toNat % 512 := by
  have hPut : putBytesAt p 0x208 2 v s = putByte p 0x209 (BitVec.ofNat 8 (v.toNat / p2 8)) (putByte p 0x208 (BitVec.ofNat 8 (v.toNat / p2 0)) s) := rfl
  have hLow : ∀ b u, putByte p 0x208 b u = onPort p (fun q => { q with window := q.window / 256 * 256 + b.toNat }) u := fun _ _ => rfl
  have hHigh : ∀ b u, putByte p 0x209 b u = onPort p (fun q => { q with window := q.window % 256 + b.toNat % 2 * 256 }) u := fun _ _ => rfl
  rw [hPut, hHigh, getPPort_onPort, hLow, getPPort_onPort, p2_eq, p2_eq]
  simp only [BitVec.toNat_ofNat]
  omega

end

/-- A byte of the payload of a slot that the host holds (R263). -/
theorem putByte_payload {p : PPort} {n i : Nat} {s : State} (hn : n < 32) (hi : i < 224) (hOpen : slotOpen (slotAt p n s) = true) (b : Byte) :
    putByte p (0x1000 + 256 * n + 32 + i) b s
      = setSlot p n { slotAt p n s with payload := setAt (slotAt p n s).payload i b } s := by
  have hSlot : (0x1000 + 256 * n + 32 + i - 0x1000) / 256 = n := by omega
  have hByte : (0x1000 + 256 * n + 32 + i - 0x1000) % 256 = 32 + i := by omega
  unfold putByte
  rw [if_neg (by simp; omega), if_neg (by omega), if_neg (by omega), if_pos (by simp; omega), hSlot, hByte]
  dsimp only
  rw [if_pos hOpen, Slot.put, if_neg (by simp; omega), if_neg (by simp; omega), if_neg (by simp; omega), if_pos (by simp; omega),
    Nat.add_sub_cancel_left]

/-! ### The commands -/

section
variable {p : PPort} {s : State}

theorem exec_devStickyWrite (hDecodes : decodes (getPPort p s) = true) (v : W32) : exec (.devStickyWrite p v) s = .next (writeSticky p v s) :=
  effect_whenDecoding hDecodes rfl (writeSticky_does p v s).pending_eq

theorem exec_tickCountRead {size : Nat} (hOk : bar0Ok 0x0100 size = true) :
    exec (.tickCountRead p size) s = effect (whenDecoding p (readTick p size)) s := if_pos hOk

theorem exec_registerWrite {off size : Nat} (hOk : bar0Ok off size = true) (v : W64) :
    exec (.registerWrite p off size v) s = effect (whenDecoding p (writeRegister p off size v)) s := if_pos hOk

theorem effect_whenDecoding_congr {f g : State → State} (h : f s = g s) : effect (whenDecoding p f) s = effect (whenDecoding p g) s := by
  simp only [effect, whenDecoding, h]

theorem tickCountRead_outcome {size : Nat} (hOk : bar0Ok 0x0100 size = true) (hDecodes : decodes (getPPort p s) = true) :
    completes (.tickCountRead p size) s fun t =>
      (getPPort p t).lastRead = some { data := leBytes size s.tick.count.toNat, poisoned := false, abort := false }
        ∧ (getPPort p t).latch = (if size = 4 then BitVec.ofNat 32 (s.tick.count.toNat / 2 ^ 32) else (getPPort p s).latch)
        ∧ getPPort (otherPort p) t = getPPort (otherPort p) s := by
  refine ⟨_, (exec_tickCountRead hOk).trans (effect_whenDecoding hDecodes rfl (readTick_does p size s).pending_eq), ?_⟩
  unfold readTick
  dsimp only
  split
  · rw [getPPort_onPort, getPPort_onPort_other, setRead, getPPort_onPort, getPPort_onPort_other]
    exact ⟨rfl, by rw [p2_eq], rfl⟩
  · rw [setRead, getPPort_onPort, getPPort_onPort_other]
    exact ⟨rfl, rfl, rfl⟩

theorem registerWrite_exec {off size : Nat} {v : W64} (hOk : bar0Ok off size = true) (hDecodes : decodes (getPPort p s) = true) :
    exec (.registerWrite p off size v) s = .next (writeRegister p off size v s) :=
  (exec_registerWrite hOk v).trans (effect_whenDecoding hDecodes rfl (writeRegister_does p off size v s).pending_eq)

/-- A write that meets only registers with a behaviour of their own acts by those. -/
theorem writeRegister_of_no_bytes {off size : Nat} {v : W64} (hBytes : putBytesAt p off size v s = s) (hState : off < 0x1000 ∨ off % 256 ≠ 0) :
    writeRegister p off size v s =
      let s2 := if covers off size 0x508 4 then writeRingCtrl p (mergeW32 (ringCtrl (getPPort p s)) off size 0x508 v) s else s
      let s3 := if covers off size 0x514 4 then writeConsumed p (mergeW32 (getPPort p s).consumed off size 0x514 v) s2 else s2
      if covers off size 0x20C 4 then writeSticky p (mergeW32 0 off size 0x20C v) s3 else s3 := by
  rw [putBytesAt] at hBytes
  simp only [writeRegister, hBytes]
  exact if_neg (by
    rcases hState with h | h
    · simp [Nat.not_le.mpr h]
    · simp [h])

/-- A write of a whole register of 4 bytes is the write of that register. -/
theorem registerWrite_whole {off : Nat} {v : W64} {f : State → State} (hOk : bar0Ok off 4 = true) (h : writeRegister p off 4 v s = f s) :
    exec (.registerWrite p off 4 v) s = effect (whenDecoding p f) s :=
  (exec_registerWrite hOk v).trans (effect_whenDecoding_congr h)

theorem writeRegister_sticky (v : W64) : writeRegister p 0x20C 4 v s = writeSticky p (BitVec.ofNat 32 v.toNat) s := by
  rw [writeRegister_of_no_bytes (putBytesAt_of_other p 0x20C 4 v s (by decide) (by decide)) (by decide), ← mergeW32_whole 0 0x20C v]
  rfl

theorem writeRegister_ringCtrl (v : W64) : writeRegister p 0x508 4 v s = writeRingCtrl p (BitVec.ofNat 32 v.toNat) s := by
  rw [writeRegister_of_no_bytes (putBytesAt_of_other p 0x508 4 v s (by decide) (by decide)) (by decide),
    ← mergeW32_whole (ringCtrl (getPPort p s)) 0x508 v]
  rfl

theorem writeRegister_consumed (v : W64) : writeRegister p 0x514 4 v s = writeConsumed p (BitVec.ofNat 32 v.toNat) s := by
  rw [writeRegister_of_no_bytes (putBytesAt_of_other p 0x514 4 v s (by decide) (by decide)) (by decide),
    ← mergeW32_whole (getPPort p s).consumed 0x514 v]
  rfl

theorem writeRegister_window (v : W64) : (getPPort p (writeRegister p 0x208 2 v s)).window = v.toNat % 512 := by
  rw [writeRegister_of_plain p _ _ v s (by decide) (by decide) (by decide) (by decide), putBytesAt_window]

theorem writeRegister_ringBase (v : W64) : (getPPort p (writeRegister p 0x500 8 v s)).ringBase
    = if (getPPort p s).ringEnable then (getPPort p s).ringBase else v := by
  rw [writeRegister_of_plain p _ _ v s (by decide) (by decide) (by decide) (by decide), putBytesAt_ringBase p v s 8 (Nat.le_refl 8), apply_ite PortSt.ringBase,
    withBytes_whole 8, BitVec.ofNat_toNat, BitVec.setWidth_eq]

theorem writeRegister_payload {n i : Nat} (hn : n < 32) (hi : i < 224) (hOpen : slotOpen (slotAt p n s) = true) (v : W64) :
    (slotAt p n (writeRegister p (0x1000 + 256 * n + 32 + i) 1 v s)).payload = setAt (slotAt p n s).payload i (BitVec.ofNat 8 v.toNat) := by
  have hFar : ∀ base, base + 4 ≤ 0x1000 → covers (0x1000 + 256 * n + 32 + i) 1 base 4 = false := fun base h =>
    decide_eq_false (by omega)
  have hByte : putBytesAt p (0x1000 + 256 * n + 32 + i) 1 v s
      = putByte p (0x1000 + 256 * n + 32 + i) (BitVec.ofNat 8 (v.toNat / p2 (8 * 0))) s := rfl
  rw [writeRegister_of_plain p _ _ v s (hFar _ (by decide)) (hFar _ (by decide)) (hFar _ (by decide)) (.inr (by omega)), hByte,
    putByte_payload hn hi hOpen, slotAt_setSlot_same, p2_eq, Nat.mul_zero, Nat.pow_zero, Nat.div_one]

end

/-! ### The obligation -/

/-- Settles O46. Every write keeps what `PortWrite` says; a register is written by its bytes, or by its own behaviour. -/
theorem bar0Registers : Obligations.Bar0Registers := by
  unfold Obligations.Bar0Registers
  refine ⟨⟨fun s p v hDecodes => exec_devStickyWrite hDecodes v, fun s p size => tickCountRead_outcome,
      fun s p hNot => ⟨fun v => effect_whenDecoding_of_not hNot, fun size hOk => (exec_tickCountRead hOk).trans (effect_whenDecoding_of_not hNot)⟩⟩,
    fun s p off size v hOk => ⟨fun hDecodes => ?_, fun hNot => (exec_registerWrite hOk v).trans (effect_whenDecoding_of_not hNot)⟩,
    fun s p v => ⟨registerWrite_whole (by decide) (writeRegister_sticky v), registerWrite_whole (by decide) (writeRegister_ringCtrl v),
      registerWrite_whole (by decide) (writeRegister_consumed v)⟩⟩
  have hWrite := PortWrite.writeRegister (p := p) off size v s
  refine ⟨_, registerWrite_exec hOk hDecodes, hWrite.other, hWrite.bme, hWrite.binds, hWrite.hostMem, hWrite.accepted, ?_, ?_, ?_⟩
  · rintro rfl rfl
    exact writeRegister_window v
  · rintro rfl rfl
    exact writeRegister_ringBase v
  · rintro n i hn hi rfl rfl hOpen
    exact writeRegister_payload hn hi hOpen v

end Sys2Proof.Machine
end

section
/-! PROOFS. A refused EXPORT_SNAPSHOT beside a stack whose clock stands (R264, R275, R276): the obligation on refusals fails there. -/

namespace Sys2Proof.Machine
open Sys2Proof

/-- Where the clock of some stack does not run, EXPORT_SNAPSHOT changes nothing. -/
theorem exec_exportSnapshot_of_still {s : State} (h : slotsRun s = false) : exec .exportSnapshot s = .next s := effect_onlyIf_of_false h

/-- A chip in READY without a lease holder, the clocks of region 3 stopped, and an EXPORT_SNAPSHOT in slot 0 of port A. -/
def exportBesideStillRegion : State := { State.reset with
  dev := { DevSt.reset with state := .ready }
  clocks := { ClockSt.reset with coreReset := false, stopped := [3] }
  portA := { PortSt.reset with slots := [(0, { Slot.reset with st := .submitted, opcode := 0x64 })] }
  mbx := { MbxSt.reset with order := [{ port := .a, slot := 0, alive := false }] } }

/-- Firmware takes the slot next, and the port does not hold the lease (R269). -/
theorem exportBesideStillRegion_refused : let a : Arrival := { port := .a, slot := 0, alive := false }
    let s := exportBesideStillRegion
    nextSlot s = some a ∧ (slotAt a.port a.slot s).opcode.toNat = 0x64
      ∧ refusalOf 0x64 (exportArgs (cmdOf a s) s) (cmdOf a s) s = some stNotOwner := by decide

theorem exportBesideStillRegion_still : slotsRun exportBesideStillRegion = false := by decide

/-- Refutes O49: an EXPORT_SNAPSHOT that R275 refuses with NOT_OWNER stays SUBMITTED while the clock of some stack stands. -/
theorem not_commandsRefused : ¬ Obligations.CommandsRefused := by
  unfold Obligations.CommandsRefused
  intro h
  obtain ⟨hNext, hOpcode, hRefused⟩ := exportBesideStillRegion_refused
  obtain ⟨hRefusals, -⟩ := h
  obtain ⟨-, -, hRefusal⟩ := hRefusals .exportSnapshot 0x64 exportArgs exportBesideStillRegion rfl
  obtain ⟨t, hExec, ⟨hDone, -⟩, -⟩ := hRefusal _ _ hNext hOpcode hRefused
  obtain rfl : exportBesideStillRegion = t := Host.Outcome.next.inj ((exec_exportSnapshot_of_still exportBesideStillRegion_still).symm.trans hExec)
  exact absurd hDone (by decide)

end Sys2Proof.Machine
end

section
/-! PROOFS. Host buffers bind, and the commands that read them take their bytes, wait and go on (R266, R267, R277, R289, R292, R326, R330, R425). -/

namespace Sys2Proof.Machine
open Sys2Proof

/-! ### What taking a slot leaves of its port -/

/-- No port differs between two states but in its slots. -/
def SlotsOnly (s t : State) : Prop := ∀ p, ∃ slots, getPPort p t = { getPPort p s with slots := slots }

theorem SlotsOnly.trans {s t u : State} (h : SlotsOnly s t) (h' : SlotsOnly t u) : SlotsOnly s u := fun p => by
  obtain ⟨_, ht⟩ := h p
  obtain ⟨slots, hu⟩ := h' p
  exact ⟨slots, by rw [hu, ht]⟩

theorem SlotsOnly.of_does {l : List Comp} {s t : State} (h : Does l s t) (hA : Comp.portA ∉ l := by decide) (hB : Comp.portB ∉ l := by decide) :
    SlotsOnly s t
  | .a => ⟨s.portA.slots, h.same hA⟩
  | .b => ⟨s.portB.slots, h.same hB⟩

theorem SlotsOnly.setSlot (p : PPort) (n : Nat) (x : Slot) (s : State) : SlotsOnly s (setSlot p n x s) := fun q => by
  cases p <;> cases q <;> exact ⟨_, rfl⟩

theorem SlotsOnly.takeSlot (a : Arrival) (s : State) : SlotsOnly s (takeSlot a s) := .setSlot a.port a.slot _ _

theorem SlotsOnly.dmaReady_eq {s t : State} (h : SlotsOnly s t) (hClocks : t.clocks = s.clocks) (write : Bool) (b : Nat) :
    dmaReady t write b = dmaReady s write b := by
  obtain ⟨slots, hPort⟩ := h (bindPort b)
  simp only [dmaReady, bindOf, portServed, hPort, hClocks]

/-! ### A command that no check refuses has legal arguments (R275) -/

theorem ok_of_refusalOf_none {op : Nat} {ok : Bool} {c : Cmd} {s : State} (h : refusalOf op ok c s = none) : ok = true := by
  unfold refusalOf at h
  split at h
  · exact nomatch h
  · split_ifs at h with hIssue hOk
    simpa using hOk

theorem argsOk_of_issued {c : Instr} {op : Nat} {ok : Cmd → State → Bool} {s : State} {a : Arrival} (hRow : mailboxRow c = some (op, ok))
    (h : issued c s a = true) : ok (cmdOf a s) s = true := by
  simp only [issued, hRow, Bool.and_eq_true, Option.isNone_iff_eq_none] at h
  obtain ⟨-, hNone⟩ := h
  exact ok_of_refusalOf_none hNone

/-! ### BIND_HOST_BUFFERS (R266, R292) -/

/-- Some descriptor would change a binding in use (R279). -/
def bindsBusy (c : Cmd) (s : State) : Bool := (List.range (c.n 0 1)).any fun i => rebinds c i s && bindingBusy (c.n (32 + 32 * i) 1) s

/-- A port behind the descriptors of a command. -/
def bindAll (c : Cmd) (q : PortSt) : PortSt := (List.range (c.n 0 1)).foldl (applyBind c) q

theorem applyBind_slots (c : Cmd) (q : PortSt) (i : Nat) : (applyBind c q i).slots = q.slots := by
  unfold applyBind
  dsimp only
  split <;> rfl

theorem foldl_applyBind_slots (c : Cmd) (l : List Nat) (q : PortSt) : (l.foldl (applyBind c) q).slots = q.slots :=
  List.foldlRecOn (motive := fun r : PortSt => r.slots = q.slots) l _ rfl fun r hr i _ => (applyBind_slots c r i).trans hr

theorem applyBind_binds_congr (c : Cmd) {q r : PortSt} (h : q.binds = r.binds) (i : Nat) : (applyBind c q i).binds = (applyBind c r i).binds := by
  unfold applyBind
  dsimp only
  split
  · exact congrArg (fun m => SMap.del m _) h
  · exact congrArg (fun m => SMap.put m _ _) h

theorem foldl_applyBind_binds_congr (c : Cmd) (l : List Nat) : ∀ {q r : PortSt}, q.binds = r.binds →
    (l.foldl (applyBind c) q).binds = (l.foldl (applyBind c) r).binds := by
  induction l with
  | nil => exact id
  | cons i l ih => exact fun h => ih (applyBind_binds_congr c h i)

section
variable {s : State} {a : Arrival}

theorem exec_bindHostBuffers (s : State) : exec .bindHostBuffers s = effect (command 0x42 bindArgs runBind) s := rfl

theorem bindsBusy_takeSlot (c : Cmd) : bindsBusy c (takeSlot a s) = bindsBusy c s := by
  obtain ⟨slots, hPort⟩ := SlotsOnly.takeSlot a s c.port
  simp only [bindsBusy, rebinds, bindingBusy, hPort, takeSlot_accepted, (takeSlot_does a s).step_eq]

/-- The bindings are those of the descriptors, behind the taken slot. -/
def bound (a : Arrival) (s : State) : State := onPort a.port (bindAll (cmdOf a s)) (takeSlot a s)

theorem runBind_takeSlot : runBind (cmdOf a s) (takeSlot a s)
    = if bindsBusy (cmdOf a s) s then (cmdOf a s).finish stBusy [] (takeSlot a s) else (cmdOf a s).finish stDone [] (bound a s) := by
  rw [← bindsBusy_takeSlot (a := a)]
  rfl

theorem bound_does : Does [.portA, .portB, .mbx] s (bound a s) := does_by (onPort_does _ _ _) (takeSlot_does a s)

theorem bound_slotAt : slotAt a.port a.slot (bound a s) = slotAt a.port a.slot (takeSlot a s) :=
  slotAt_onPort (fun q => foldl_applyBind_slots (cmdOf a s) _ q) _ _ _ _

theorem bound_stillTaken : StillTaken a s (bound a s) where
  taken := by rw [bound_slotAt, slotAt_takeSlot]
  sameCommand := ⟨by rw [bound_slotAt, slotAt_takeSlot], by rw [bound_slotAt, slotAt_takeSlot], bound_does.tick_eq⟩

/-- A completion reaches no other port. -/
theorem getPPort_completeSlot_other (p : PPort) (n status reason : Nat) (result : List Byte) (s : State) :
    getPPort (otherPort p) (completeSlot p n status reason result s) = getPPort (otherPort p) s := by
  unfold completeSlot dueRecord
  dsimp only
  split
  · rfl
  · split
    · exact getPPort_onPort_other p _ s
    · exact (getPPort_onPort_other p _ _).trans (getPPort_onPort_other p _ s)

theorem sameHost_completeSlot (p : PPort) (n status reason : Nat) (result : List Byte) (s : State) :
    SameHost s (completeSlot p n status reason result s) := by
  have hSet : ∀ x, SameHost s (setSlot p n x s) := fun x => SameHost.onPort (f := fun q => { q with slots := SMap.put q.slots n x }) (fun _ => rfl) p s
  unfold completeSlot dueRecord
  dsimp only
  split
  · exact ⟨fun _ => rfl, rfl⟩
  · split
    · exact hSet _
    · exact (hSet _).trans (SameHost.onPort (fun q => by split <;> rfl) p _)

theorem getPPort_takeSlot_other (a : Arrival) (s : State) : getPPort (otherPort a.port) (takeSlot a s) = getPPort (otherPort a.port) s := by
  obtain ⟨p, n, alive⟩ := a
  cases p <;> rfl

theorem bound_binds : (getPPort a.port (bound a s)).binds = (bindAll (cmdOf a s) (getPPort a.port s)).binds := by
  rw [bound, getPPort_onPort]
  exact foldl_applyBind_binds_congr _ _ ((SameHost.takeSlot a s).binds a.port)

theorem bindAll_of_one {c : Cmd} (h : c.n 0 1 = 1) (q : PortSt) : bindAll c q = applyBind c q 0 := by
  rw [bindAll, h]
  rfl

/-- One descriptor sets or clears the binding that it names. -/
theorem get?_applyBind (c : Cmd) (q : PortSt) : SMap.get? (applyBind c q 0).binds (c.n 32 1) = if bitOf (c.n 33 1) 2 then none else some {
    canRead := bitOf (c.n 33 1) 0
    canWrite := bitOf (c.n 33 1) 1
    address := BitVec.ofNat 64 (c.n 40 8)
    length := c.n 48 8 } := by
  unfold applyBind
  dsimp only
  split
  · exact get?_del_same _ _
  · exact get?_put_same _ _ _

/-- A legal first descriptor names a binding of its command's port (R266). -/
theorem bindPort_of_bindArgs {c : Cmd} (hOk : bindArgs c s = true) (hOne : c.n 0 1 = 1) : bindPort (c.n 32 1) = c.port := by
  simp only [bindArgs, hOne, Bool.and_eq_true, List.all_eq_true] at hOk
  obtain ⟨-, hAll⟩ := hOk
  have hFirst := hAll 0 (by simp)
  simp only [bindOk, ownIndex, Bool.and_eq_true, decide_eq_true_eq] at hFirst
  obtain ⟨⟨⟨⟨⟨-, hPort⟩, -⟩, -⟩, -⟩, -⟩ := hFirst
  exact hPort

theorem bindHostBuffers_busy (hIssued : issued .bindHostBuffers s a = true) (hBusy : bindsBusy (cmdOf a s) s = true) :
    completes .bindHostBuffers s fun t => slotDone a stBusy 0 [] s t ∧ ∀ p, (getPPort p t).binds = (getPPort p s).binds := by
  obtain ⟨hPending, hDone, -⟩ := refused_outcome (s := s) (a := a) stBusy
  exact ⟨_, exec_of_issued (exec_bindHostBuffers s) rfl hIssued (runBind_takeSlot.trans (if_pos hBusy)) hPending, hDone,
    ((SameHost.takeSlot a s).trans (sameHost_completeSlot _ _ _ _ _ _)).binds⟩

theorem bindHostBuffers_binds (hIssued : issued .bindHostBuffers s a = true) (hFree : bindsBusy (cmdOf a s) s = false) :
    completes .bindHostBuffers s fun t => slotDone a stDone 0 [] s t ∧ getPPort (otherPort a.port) t = getPPort (otherPort a.port) s
      ∧ (getPPort a.port t).binds = (bindAll (cmdOf a s) (getPPort a.port s)).binds := by
  have hPending := (Cmd_finish_does (cmdOf a s) stDone [] (bound a s)).pending_eq.trans bound_does.pending_eq
  refine ⟨_, exec_of_issued (exec_bindHostBuffers s) rfl hIssued (runBind_takeSlot.trans (if_neg (Bool.eq_false_iff.mp hFree))) hPending,
    bound_stillTaken.finish stDone [], ?_, ?_⟩
  · exact (getPPort_completeSlot_other _ _ _ _ _ _).trans ((getPPort_onPort_other _ _ _).trans (getPPort_takeSlot_other a s))
  · exact ((sameHost_completeSlot _ _ _ _ _ _).binds a.port).trans bound_binds

end

/-! ### Commands that read host memory (R267, R277) -/

section
variable {s u : State} {a : Arrival}

theorem Cmd.accept_mbx (c : Cmd) (op : Nat) (result : List Byte) : (c.accept op result u).mbx
    = { u.mbx with accepted := u.mbx.accepted ++ [{ port := c.port, slot := c.slot, opcode := op, args := c.args }] } := by
  simp only [Cmd.accept, setSlot, onPort_mbx]

theorem Cmd.slotAt_accept (c : Cmd) (op : Nat) (result : List Byte) : slotAt c.port c.slot (c.accept op result u) = { slotAt c.port c.slot u with
    st := .accepted
    status := BitVec.ofNat 16 stAccepted
    reason := 0
    resLen := BitVec.ofNat 16 result.length
    payload := result ++ (slotAt c.port c.slot u).payload.drop result.length } :=
  ((set_mbx_does _ _ rfl).slotAt_eq c.port c.slot).trans (slotAt_setSlot_same _ _ _ _)

/-- A command becomes ACCEPTED behind those that are. -/
theorem accepted_behind (op : Nat) (hAccepted : u.mbx.accepted = s.mbx.accepted) : slotAccepted a op [] s ((cmdOf a s).accept op [] u) := by
  have hSlot : slotAt a.port a.slot ((cmdOf a s).accept op [] u) = _ := (cmdOf a s).slotAt_accept op []
  unfold slotAccepted
  rw [hSlot, Cmd.accept_mbx, hAccepted]
  exact ⟨rfl, rfl, rfl, rfl⟩

/-- A transfer that waits with its bytes (R267). -/
def waitsFor (w : DmaWait) (t : State) : State := onMbx (fun m => { m with dma := m.dma ++ [w] }) t

theorem slotAccepted_waitsFor {op : Nat} {t : State} (w : DmaWait) (h : slotAccepted a op [] s t) : slotAccepted a op [] s (waitsFor w t) := by
  have hSlot := (onMbx_does (fun m => { m with dma := m.dma ++ [w] }) t rfl).slotAt_eq a.port a.slot
  unfold slotAccepted at *
  rw [waitsFor, hSlot]
  exact h

/-- What a command that reads host memory does from the state `u` in which it becomes ACCEPTED: it takes the range's bytes where its binding
allows, else its transfer waits. -/
theorem reads_host {c : Instr} {op : Nat} {ok : Cmd → State → Bool} {run : Cmd → State → State} {got : List Byte → State → State} {data : List Byte}
    (hExec : exec c s = effect (command op ok run) s) (hRow : mailboxRow c = some (op, ok)) (hIssued : issued c s a = true)
    (hRun : run (cmdOf a s) (takeSlot a s) = startRead op got data (cmdOf a s) u) (hPorts : SlotsOnly s u) (hClocks : u.clocks = s.clocks)
    (hMbx : u.mbx = (takeSlot a s).mbx) (hPending : u.pending = s.pending) (hGot : ∀ b t, (got b t).pending = t.pending) :
    let k := cmdOf a s
    let bytes := sliceB data 0 (k.n 16 8)
    let taken := k.accept op [] u
    slotAccepted a op [] s taken
      ∧ (dmaReady s false (k.n 0 1) = true → exec c s = .next (got bytes taken))
      ∧ (dmaReady s false (k.n 0 1) = false → completes c s fun t => slotAccepted a op [] s t
        ∧ t.mbx.dma = s.mbx.dma ++ [{ opcode := op, binding := k.n 0 1, write := false, offset := k.n 8 8, bytes := bytes }]) := by
  intro k bytes taken
  have hTaken : slotAccepted a op [] s taken := accepted_behind op (by rw [hMbx, takeSlot_accepted])
  have hStart : run k (takeSlot a s) = if dmaReady s false (k.n 0 1) then got bytes taken
      else waitsFor { opcode := op, binding := k.n 0 1, write := false, offset := k.n 8 8, bytes := bytes } taken := by
    rw [← hPorts.dmaReady_eq hClocks]
    exact hRun
  have hTakenPending : taken.pending = s.pending := (Cmd_accept_does k op [] u).pending_eq.trans hPending
  refine ⟨hTaken, fun hReady => ?_, fun hWaits => ?_⟩
  · exact exec_of_issued hExec hRow hIssued (hStart.trans (if_pos hReady)) ((hGot _ _).trans hTakenPending)
  · have hDma : taken.mbx.dma = s.mbx.dma := by
      rw [Cmd.accept_mbx, hMbx, takeSlot, setSlot_mbx]
    refine ⟨_, exec_of_issued hExec hRow hIssued (hStart.trans (if_neg (Bool.eq_false_iff.mp hWaits))) hTakenPending, slotAccepted_waitsFor _ hTaken, ?_⟩
    rw [waitsFor, onMbx_mbx, hDma]

/-- The commands that read from the state in which their slot is TAKEN. -/
theorem reads_host_at_once {c : Instr} {op : Nat} {ok : Cmd → State → Bool} {got : List Byte → State → State} {data : List Byte}
    (hExec : exec c s = effect (command op ok (startRead op got data)) s) (hRow : mailboxRow c = some (op, ok)) (hIssued : issued c s a = true)
    (hGot : ∀ b t, (got b t).pending = t.pending) :
    let k := cmdOf a s
    let bytes := sliceB data 0 (k.n 16 8)
    let taken := k.accept op [] (takeSlot a s)
    slotAccepted a op [] s taken
      ∧ (dmaReady s false (k.n 0 1) = true → exec c s = .next (got bytes taken))
      ∧ (dmaReady s false (k.n 0 1) = false → completes c s fun t => slotAccepted a op [] s t
        ∧ t.mbx.dma = s.mbx.dma ++ [{ opcode := op, binding := k.n 0 1, write := false, offset := k.n 8 8, bytes := bytes }]) :=
  reads_host hExec hRow hIssued rfl (.takeSlot a s) (takeSlot_does a s).clocks_eq rfl (takeSlot_does a s).pending_eq hGot

/-- The taken FIRMWARE_STAGE's state with slot B marked as being programmed (R425). -/
def stagingMarked (data : FwBytes) (a : Arrival) (s : State) : State :=
  markStaging (onStaging (fun d => { d with corrected := data.corrected, badReads := data.badReads }) (takeSlot a s))

theorem stagingMarked_does (data : FwBytes) : Does [.flash, .staging] (takeSlot a s) (stagingMarked data a s) :=
  does_by (markStaging_does _) (does_mono (onStaging_does _ _) (by decide))

end

/-! ### Transfers that go on (R267) -/

section
variable {s : State} {b : Nat}

/-- The first read that waits for a binding. -/
def nextRead (b : Nat) (s : State) : Option DmaWait := s.mbx.dma.find? fun w => !w.write && decide (w.binding = b)

/-- The transfer no longer waits. -/
def resumed (w : DmaWait) (s : State) : State := onMbx (fun m => { m with dma := m.dma.filter (· != w) }) s

theorem exec_hostTransferResume_of_idle (h : coreRuns s = false ∨ nextRead b s = none ∨ dmaReady s false b = false) :
    exec (.hostTransferResume b) s = .next s := by
  by_cases hRuns : coreRuns s = true
  · refine (effect_onlyIf_of_true hRuns).trans (effect_of_eq ?_)
    unfold runResumeTransfer
    split
    · rfl
    next w hFind =>
      refine if_pos ?_
      rcases h with hStill | hNone | hShut
      · exact nomatch hRuns.symm.trans hStill
      · exact nomatch hFind.symm.trans hNone
      · simp [hShut]
  · exact effect_onlyIf_of_false (Bool.eq_false_iff.mpr hRuns)

variable {w : DmaWait} (hRuns : coreRuns s = true) (hNext : nextRead b s = some w) (hReady : dmaReady s false b = true)
include hRuns hNext hReady

theorem exec_hostTransferResume : exec (.hostTransferResume b) s = .next (match readerOf w s with
    | none => resumed w s
    | some x => if dmaFits s b w.offset w.bytes.length then gotBytes x.opcode w.bytes (resumed w s)
        else finishAcc x stBadArgument 0 [] (resumed w s)) := by
  refine effect_onlyIf_eq_next hRuns (t := _) ?_ ?_
  · unfold runResumeTransfer
    rw [show s.mbx.dma.find? (fun w => !w.write && decide (w.binding = b)) = some w from hNext]
    exact if_neg (by simp [hReady])
  · split
    · rfl
    · split
      · exact (gotBytes_does _ _ _).pending_eq
      · exact (finishAcc_does _ _ _ _ _).pending_eq

theorem exec_hostTransferResume_of_no_reader (h : readerOf w s = none) : exec (.hostTransferResume b) s = .next (resumed w s) := by
  rw [exec_hostTransferResume hRuns hNext hReady, h]

theorem exec_hostTransferResume_of_reader {x : Acc} (h : readerOf w s = some x) :
    (dmaFits s b w.offset w.bytes.length = true → exec (.hostTransferResume b) s = .next (gotBytes x.opcode w.bytes (resumed w s)))
      ∧ (dmaFits s b w.offset w.bytes.length = false →
        exec (.hostTransferResume b) s = .next (finishAcc x stBadArgument 0 [] (resumed w s))) := by
  rw [exec_hostTransferResume hRuns hNext hReady, h]
  exact ⟨fun hFits => congrArg _ (if_pos hFits), fun hPast => congrArg _ (if_neg (Bool.eq_false_iff.mp hPast))⟩

end

/-! ### The obligation -/

/-- Settles O52. A bind is `bindAll` on its port; every command that reads goes by `reads_host`; a transfer goes on to its reader. -/
theorem hostBuffersAndReads : Obligations.HostBuffersAndReads := by
  unfold Obligations.HostBuffersAndReads
  refine ⟨fun s a hIssued => ?_, fun data x hx s a hIssued => ?_, fun data s a hIssued => ?_, fun s b => exec_hostTransferResume_of_idle,
    fun s b w hRuns hNext hReady =>
      ⟨exec_hostTransferResume_of_no_reader hRuns hNext hReady, fun x => exec_hostTransferResume_of_reader hRuns hNext hReady⟩⟩
  · intro c busy
    refine ⟨fun hBusy => bindHostBuffers_busy hIssued hBusy, fun hFree => ?_⟩
    obtain ⟨t, hExec, hDone, hOther, hBinds⟩ := bindHostBuffers_binds hIssued hFree
    have hOne : c.n 0 1 = 1 → bindOf t (c.n 32 1) = SMap.get? (applyBind c (getPPort a.port s) 0).binds (c.n 32 1) := fun hOne => by
      rw [bindOf, bindPort_of_bindArgs (argsOk_of_issued rfl hIssued) hOne, ← bindAll_of_one hOne]
      exact congrArg (fun m => SMap.get? m _) hBinds
    exact ⟨t, hExec, hDone, hOther, hBinds, fun h hClear => by rw [hOne h, get?_applyBind, if_pos hClear],
      fun h hSet => by rw [hOne h, get?_applyBind, if_neg (Bool.eq_false_iff.mp hSet)]⟩
  · simp only [List.mem_cons, List.not_mem_nil, or_false] at hx
    rcases hx with rfl | rfl | rfl
    · exact reads_host_at_once rfl rfl hIssued fun b t => (gotRoutes_does b t).pending_eq
    · exact reads_host_at_once rfl rfl hIssued fun b t => (gotGroups_does b t).pending_eq
    · exact reads_host_at_once rfl rfl hIssued fun b t => (gotImage_does b t).pending_eq
  · have hMarked := stagingMarked_does (s := s) (a := a) data
    exact reads_host (u := stagingMarked data a s) rfl rfl hIssued rfl ((SlotsOnly.takeSlot a s).trans (.of_does hMarked))
      (hMarked.clocks_eq.trans (takeSlot_does a s).clocks_eq) hMarked.mbx_eq (hMarked.pending_eq.trans (takeSlot_does a s).pending_eq)
      fun b t => (gotFirmware_does b t).pending_eq

end Sys2Proof.Machine
end

section
/-! PROOFS. From an issued mailbox command to its end: what stands when it completes, or is ACCEPTED, behind whatever it did (R263, R273 to R277). -/

namespace Sys2Proof.Machine
open Sys2Proof

set_option Elab.async false

/-! ### What an operation leaves alone -/

theorem Does.own_eq {l : List Comp} {s t : State} (h : Does l s t) (hk : Comp.own ∉ l := by decide) : t.own = s.own := h.same hk

theorem Does.env_eq {l : List Comp} {s t : State} (h : Does l s t) (hk : Comp.env ∉ l := by decide) : t.env = s.env := h.same hk

theorem Does.life_eq {l : List Comp} {s t : State} (h : Does l s t) (hk : Comp.life ∉ l := by decide) : t.life = s.life := h.same hk

section
variable (a : Arrival) (s : State)

@[simp] theorem takeSlot_tick : (takeSlot a s).tick = s.tick := (takeSlot_does a s).tick_eq
@[simp] theorem takeSlot_step : (takeSlot a s).step = s.step := (takeSlot_does a s).step_eq
@[simp] theorem takeSlot_cells : (takeSlot a s).cells = s.cells := (takeSlot_does a s).cells_eq
@[simp] theorem takeSlot_own : (takeSlot a s).own = s.own := (takeSlot_does a s).own_eq
@[simp] theorem takeSlot_dev : (takeSlot a s).dev = s.dev := (takeSlot_does a s).dev_eq
@[simp] theorem takeSlot_env : (takeSlot a s).env = s.env := (takeSlot_does a s).env_eq
@[simp] theorem takeSlot_faults : (takeSlot a s).faults = s.faults := (takeSlot_does a s).faults_eq
@[simp] theorem takeSlot_fabric : (takeSlot a s).fabric = s.fabric := (takeSlot_does a s).fabric_eq
@[simp] theorem takeSlot_snap : (takeSlot a s).snap = s.snap := (takeSlot_does a s).snap_eq
@[simp] theorem takeSlot_flash : (takeSlot a s).flash = s.flash := (takeSlot_does a s).flash_eq
@[simp] theorem takeSlot_life : (takeSlot a s).life = s.life := (takeSlot_does a s).life_eq
@[simp] theorem takeSlot_dma : (takeSlot a s).mbx.dma = s.mbx.dma := by rw [takeSlot, setSlot_mbx]

end

/-- What reads neither the ports nor the mailbox reads the same behind a taken slot. -/
theorem takeSlot_reads {β : Type} {f : State → β} (h : ∀ u x y m, f { u with portA := x, portB := y, mbx := m } = f u) (a : Arrival) (s : State) :
    f (takeSlot a s) = f s := by
  obtain ⟨p, n, alive⟩ := a
  cases p
  · exact h s _ s.portB _
  · exact h s s.portA _ _

/-! ### Operations that leave every slot alone -/

/-- No slot of either port differs between two states. -/
def SameSlots (s t : State) : Prop := ∀ p n, slotAt p n t = slotAt p n s

namespace SameSlots

theorem refl (s : State) : SameSlots s s := fun _ _ => rfl

theorem trans {s t u : State} (h : SameSlots s t) (h' : SameSlots t u) : SameSlots s u := fun p n => (h' p n).trans (h p n)

theorem of_does {l : List Comp} {s t : State} (h : Does l s t) (hA : Comp.portA ∉ l := by decide) (hB : Comp.portB ∉ l := by decide) :
    SameSlots s t := fun p n => h.slotAt_eq p n hA hB

theorem setSticky (i : Nat) (s : State) : SameSlots s (setSticky i s) :=
  fun p n => slotAt_onPorts (f := fun q => { q with sticky := q.sticky ||| BitVec.ofNat 32 (p2 i) }) (fun _ => rfl) p n s

theorem setHolder (h : Option PPort) (s : State) : SameSlots s (setHolder h s) := by
  unfold Machine.setHolder
  split
  · exact .refl s
  · exact ((SameSlots.of_does (set_own_does s _)).trans (.setSticky 5 _)).trans (.of_does (recordEvent_does _ _ _))

theorem setState (d : DevState) (s : State) : SameSlots s (setState d s) := by
  unfold Machine.setState
  split
  · exact .refl s
  extract_lets old dev s1 s2
  have h1 : SameSlots s s1 := (SameSlots.of_does (set_dev_does s dev)).trans (.setSticky 4 _)
  have h2 : SameSlots s1 s2 := .of_does (does_ite (does_refl [.flash] _) (recordEvent_does _ _ _))
  split
  · exact (h1.trans h2).trans (.of_does (set_life_does s2 _))
  · exact h1.trans h2

end SameSlots

/-- A command is still TAKEN behind an operation that leaves the slots and the time. -/
theorem StillTaken.of_sameSlots {a : Arrival} {s u v : State} (h : StillTaken a s u) (hSlots : SameSlots u v) (hTick : v.tick = u.tick) :
    StillTaken a s v :=
  ⟨by rw [hSlots]; exact h.taken, h.sameCommand.trans ⟨by rw [hSlots], by rw [hSlots], hTick⟩⟩

/-- A command is still ACCEPTED behind an operation that leaves the slots and the list of ACCEPTED commands. -/
theorem slotAccepted_of_sameSlots {a : Arrival} {op : Nat} {result : List Byte} {s u v : State} (h : slotAccepted a op result s u)
    (hSlots : SameSlots u v) (hAccepted : v.mbx.accepted = u.mbx.accepted) : slotAccepted a op result s v := by
  unfold slotAccepted at *
  rw [hSlots, hAccepted]
  exact h

/-- A taken command becomes ACCEPTED with its result, behind those that are. -/
theorem accept_behind {a : Arrival} {s u : State} (op : Nat) (result : List Byte) (hAccepted : u.mbx.accepted = s.mbx.accepted) :
    slotAccepted a op result s ((cmdOf a s).accept op result u) := by
  have hSlot : slotAt a.port a.slot ((cmdOf a s).accept op result u) = _ := (cmdOf a s).slotAt_accept op result
  unfold slotAccepted
  rw [hSlot, Cmd.accept_mbx, hAccepted]
  exact ⟨rfl, rfl, List.take_left, rfl⟩

/-! ### Completion -/

section
variable {c : Instr} {op : Nat} {ok : Cmd → State → Bool} {run : Cmd → State → State} {s u : State} {a : Arrival} {status : Nat}
  {result : List Byte} {l : List Comp} {P : State → Prop}

/-- An issued command that completes from a state in which its slot is TAKEN leaves the slot DONE, and nothing else but the ports differs. -/
theorem completes_of_finish (hExec : exec c s = effect (command op ok run) s) (hRow : mailboxRow c = some (op, ok)) (hIssued : issued c s a = true)
    (hRun : run (cmdOf a s) (takeSlot a s) = (cmdOf a s).finish status result u) (hTaken : StillTaken a s u) (hPending : u.pending = s.pending)
    (hThen : ∀ t, slotDone a status 0 result s t → Does [.portA, .portB] u t → P t) : completes c s P := by
  have hFinish := Cmd_finish_does (cmdOf a s) status result u
  exact ⟨_, exec_of_issued hExec hRow hIssued hRun (hFinish.pending_eq.trans hPending), hThen _ (hTaken.finish status result) hFinish⟩

/-- The command completes behind an operation that leaves the ports. -/
theorem completes_behind (hExec : exec c s = effect (command op ok run) s) (hRow : mailboxRow c = some (op, ok)) (hIssued : issued c s a = true)
    (hRun : run (cmdOf a s) (takeSlot a s) = (cmdOf a s).finish status result u) (hDoes : Does l (takeSlot a s) u)
    (hThen : ∀ t, slotDone a status 0 result s t → Does [.portA, .portB] u t → P t) (hA : Comp.portA ∉ l := by decide)
    (hB : Comp.portB ∉ l := by decide) (hTick : Comp.tick ∉ l := by decide) (hPending : Comp.pending ∉ l := by decide) : completes c s P :=
  completes_of_finish hExec hRow hIssued hRun ((StillTaken.takeSlot a s).does hDoes hA hB hTick)
    ((hDoes.pending_eq hPending).trans (takeSlot_does a s).pending_eq) hThen

/-- The command completes as firmware took it. -/
theorem completes_at_once (hExec : exec c s = effect (command op ok run) s) (hRow : mailboxRow c = some (op, ok)) (hIssued : issued c s a = true)
    (hRun : run (cmdOf a s) (takeSlot a s) = (cmdOf a s).finish status result (takeSlot a s))
    (hThen : ∀ t, slotDone a status 0 result s t → Does [.portA, .portB, .mbx] s t → P t) : completes c s P :=
  completes_of_finish hExec hRow hIssued hRun (.takeSlot a s) (takeSlot_does a s).pending_eq
    fun t hDone hKept => hThen t hDone (does_by hKept (takeSlot_does a s))

/-- A command whose own check holds runs; one whose check fails completes with BAD_ARGUMENT (check 6 of R275). -/
theorem checked_of_fits {fits : Cmd → State → Bool} {k : Cmd} (h : fits k u = true) : checked fits run k u = run k u := if_pos h

theorem checked_of_not_fits {fits : Cmd → State → Bool} {k : Cmd} (h : fits k u = false) : checked fits run k u = k.finish stBadArgument [] u :=
  if_neg (Bool.eq_false_iff.mp h)

end

end Sys2Proof.Machine
end

section
/-! PROOFS. IDENTIFY, STATUS, the control lease and RESET (R258, R268, R280 to R283). -/

namespace Sys2Proof.Machine
open Sys2Proof

set_option Elab.async false

/-! ### What the two reads deliver (R280, R281) -/

theorem identifyBytes_takeSlot (a : Arrival) (p : PPort) (s : State) : identifyBytes p (takeSlot a s) = identifyBytes p s :=
  takeSlot_reads (f := identifyBytes p) (fun _ _ _ _ => rfl) a s

/-- STATUS shows of a port its link alone, and that the slots leave. -/
theorem statusBytes_takeSlot (a : Arrival) (p : PPort) (s : State) : statusBytes p (takeSlot a s) = statusBytes p s := by
  obtain ⟨slots, hPort⟩ := SlotsOnly.takeSlot a s p
  have hLink : (getPPort p (takeSlot a s)).width = (getPPort p s).width ∧ (getPPort p (takeSlot a s)).rate = (getPPort p s).rate := by
    rw [hPort]
    exact ⟨rfl, rfl⟩
  obtain ⟨hWidth, hRate⟩ := hLink
  unfold statusBytes
  dsimp only
  rw [hWidth, hRate]
  obtain ⟨q, n, alive⟩ := a
  cases q <;> rfl

/-! ### The holder of the lease (R258, R268) -/

/-- A new holder changes nothing else of the lease but the tick of the change. -/
theorem setHolder_own (h : Option PPort) (s : State) : ∃ k, (setHolder h s).own = { s.own with holder := h, changeTick := k } := by
  unfold setHolder
  split
  next hSame => exact ⟨s.own.changeTick, by rw [← hSame]⟩
  next => exact ⟨s.tick.count, (recordEvent_does _ _ _).own_eq.trans (setSticky_does _ _).own_eq⟩

/-- What the end of a lease does to the chip (R268). -/
theorem leaseEffects_dev (s : State) : (s.dev.state = .held → renewalWaits s = false → (leaseEffects s).dev.uncontrolled = true)
      ∧ (s.dev.state = .held → renewalWaits s = true → (leaseEffects s).dev.leaseHold = true)
      ∧ (s.dev.state = .running → (leaseEffects s).dev.leaseHold = true)
      ∧ (s.dev.state = .ready ∨ s.dev.state = .loaded → (leaseEffects s).dev = s.dev) := by
  unfold leaseEffects
  refine ⟨fun h hNone => by simp [h, hNone], fun h hWaits => by simp [h, hWaits], fun h => by simp [h], fun h => ?_⟩
  rcases h with h | h <;> simp [h]

/-- No renewal of a lease that has not lapsed waits. -/
theorem renewalWaits_of_not_lapsed {s : State} (h : s.own.lapsed = none) : renewalWaits s = false := by simp [renewalWaits, h]

section
variable {s : State} {a : Arrival}

/-! ### CLAIM_CONTROL, RENEW_LEASE and RELEASE_CONTROL (R268, R282) -/

/-- The lease under a new holder, before the command completes. -/
def leased (f : OwnSt → OwnSt) (h : Option PPort) (u : State) : State := setHolder h (onOwn f u)

theorem leased_does (f : OwnSt → OwnSt) (h : Option PPort) (u : State) : Does [.portA, .portB, .own, .flash] u (leased f h u) :=
  does_by (setHolder_does _ _) (does_mono (onOwn_does _ _) (by decide))

theorem leased_sameSlots (f : OwnSt → OwnSt) (h : Option PPort) (u : State) : SameSlots u (leased f h u) :=
  (SameSlots.of_does (onOwn_does _ _)).trans (.setHolder _ _)

theorem leased_own (f : OwnSt → OwnSt) (h : Option PPort) (u : State) : ∃ k, (leased f h u).own = { f u.own with holder := h, changeTick := k } :=
  setHolder_own h (onOwn f u)

theorem leased_stillTaken {u : State} (f : OwnSt → OwnSt) (h : Option PPort) (hTaken : StillTaken a s u) : StillTaken a s (leased f h u) :=
  hTaken.of_sameSlots (leased_sameSlots f h u) (leased_does f h u).tick_eq

/-- The milliseconds that a claim asks for: 3,000 where it names none (R268). -/
def claimMs (c : Cmd) : Nat := if c.n 0 4 = 0 then 3000 else c.n 0 4

/-- The lease that a claim begins at a time (R268). -/
def claimLease (ms now : Nat) (o : OwnSt) : OwnSt :=
  { o with leaseLen := BitVec.ofNat 32 ms, expiryUs := now + 1000 * ms, generation := o.generation + 1, lapsed := none }

/-- The lease that a renewal begins again (R268). -/
def renewLease (now : Nat) (o : OwnSt) : OwnSt := { o with expiryUs := now + 1000 * o.leaseLen.toNat, lapsed := none }

theorem runClaim_takeSlot : runClaim (cmdOf a s) (takeSlot a s) =
    if s.own.holder = some (otherPort a.port) then (cmdOf a s).finish stNotOwner [] (takeSlot a s)
    else
      let u := leased (claimLease (claimMs (cmdOf a s)) s.tick.timeUs) (some a.port) (takeSlot a s)
      (cmdOf a s).finish stDone (leBytes 4 u.own.generation.toNat ++ leBytes 4 u.own.leaseLen.toNat) u := by
  rw [← takeSlot_own a s, ← takeSlot_tick a s]
  rfl

theorem claimControl_outcomes (hIssued : issued .claimControl s a = true) :
    (s.own.holder = some (otherPort a.port) → completes .claimControl s fun t => slotDone a stNotOwner 0 [] s t ∧ t.own = s.own)
      ∧ (s.own.holder ≠ some (otherPort a.port) → completes .claimControl s fun t =>
        ∃ k, t.own = { claimLease (claimMs (cmdOf a s)) s.tick.timeUs s.own with holder := some a.port, changeTick := k }
          ∧ slotDone a stDone 0 (leBytes 4 t.own.generation.toNat ++ leBytes 4 t.own.leaseLen.toNat) s t) := by
  refine ⟨fun hOther => ?_, fun hFree => ?_⟩
  · exact completes_at_once rfl rfl hIssued (runClaim_takeSlot.trans (if_pos hOther)) fun t hDone hKept => ⟨hDone, hKept.own_eq⟩
  · let u := leased (claimLease (claimMs (cmdOf a s)) s.tick.timeUs) (some a.port) (takeSlot a s)
    obtain ⟨k, hOwn⟩ := leased_own (claimLease (claimMs (cmdOf a s)) s.tick.timeUs) (some a.port) (takeSlot a s)
    rw [takeSlot_own] at hOwn
    refine completes_of_finish (u := u) rfl rfl hIssued (runClaim_takeSlot.trans (if_neg hFree)) (leased_stillTaken _ _ (.takeSlot a s))
      ((leased_does _ _ _).pending_eq.trans (takeSlot_does a s).pending_eq) fun t hDone hKept => ⟨k, hKept.own_eq.trans hOwn, ?_⟩
    rw [hKept.own_eq]
    exact hDone

/-- The taken renewal's state with the pending end of a lapsed lease cancelled (R268). -/
def uncancelled (a : Arrival) (s : State) : State := onlyIf s.own.holder.isNone (onDev fun d => { d with leaseHold := false }) (takeSlot a s)

theorem uncancelled_does : Does [.dev] (takeSlot a s) (uncancelled a s) := does_onlyIf (does_refl _ _) fun x => onDev_does _ x

theorem runRenew_takeSlot : runRenew (cmdOf a s) (takeSlot a s) =
    let u := leased (renewLease s.tick.timeUs) (some a.port) (uncancelled a s)
    (cmdOf a s).finish stDone (leBytes 4 (leaseLeft u)) u := by
  rw [← takeSlot_tick a s, uncancelled, ← takeSlot_own a s]
  rfl

/-- A lease that begins again at the present time has its whole length left. -/
theorem leaseLeft_of_renewed {u : State} {now : Nat} {p : PPort} (hHolder : u.own.holder = some p) (hTime : u.tick.timeUs = now)
    (hExpiry : u.own.expiryUs = now + 1000 * u.own.leaseLen.toNat) : leaseLeft u = u.own.leaseLen.toNat := by
  rw [leaseLeft, hHolder, hExpiry, hTime, Nat.add_sub_cancel_left, Nat.mul_div_cancel_left _ (by decide)]
  rfl

theorem renewLease_outcome (hIssued : issued .renewLease s a = true) : completes .renewLease s fun t =>
    t.own.holder = some a.port ∧ t.own.expiryUs = s.tick.timeUs + 1000 * s.own.leaseLen.toNat
      ∧ slotDone a stDone 0 (leBytes 4 s.own.leaseLen.toNat) s t := by
  have hLeased := leased_does (renewLease s.tick.timeUs) (some a.port) (uncancelled a s)
  have hTick : (leased (renewLease s.tick.timeUs) (some a.port) (uncancelled a s)).tick = s.tick :=
    hLeased.tick_eq.trans (uncancelled_does.tick_eq.trans (takeSlot_tick a s))
  obtain ⟨k, hOwn⟩ := leased_own (renewLease s.tick.timeUs) (some a.port) (uncancelled a s)
  rw [uncancelled_does.own_eq, takeSlot_own] at hOwn
  refine completes_of_finish rfl rfl hIssued runRenew_takeSlot (leased_stillTaken _ _ ((StillTaken.takeSlot a s).does uncancelled_does))
    (hLeased.pending_eq.trans (uncancelled_does.pending_eq.trans (takeSlot_does a s).pending_eq)) fun t hDone hKept => ?_
  have hLeft := leaseLeft_of_renewed (now := s.tick.timeUs) (congrArg OwnSt.holder hOwn) (congrArg TickSt.timeUs hTick) (by rw [hOwn]; rfl)
  rw [hLeft, hOwn] at hDone
  rw [hKept.own_eq, hOwn]
  exact ⟨rfl, rfl, hDone⟩

theorem releaseControl_outcome (hIssued : issued .releaseControl s a = true) : completes .releaseControl s fun t =>
    t.own.holder = none ∧ slotDone a stDone 0 [] s t ∧ (s.dev.state = .held → t.dev.uncontrolled = true)
      ∧ (s.dev.state = .running → t.dev.leaseHold = true) ∧ (s.dev.state = .ready ∨ s.dev.state = .loaded → t.dev = s.dev) := by
  let v := leased (fun o => { o with lapsed := none }) none (takeSlot a s)
  have hLeased : Does [.portA, .portB, .own, .flash] (takeSlot a s) v := leased_does _ _ _
  obtain ⟨k, hOwn⟩ : ∃ k, v.own = _ := leased_own (fun o => { o with lapsed := none }) none (takeSlot a s)
  have hDev : v.dev = s.dev := hLeased.dev_eq.trans (takeSlot_dev a s)
  obtain ⟨hHeld, -, hRunning, hStill⟩ := leaseEffects_dev v
  rw [hDev] at hHeld hRunning hStill
  refine completes_of_finish (u := leaseEffects v) rfl rfl hIssued rfl ((leased_stillTaken _ _ (.takeSlot a s)).does (leaseEffects_does v))
    ((leaseEffects_does v).pending_eq.trans (hLeased.pending_eq.trans (takeSlot_does a s).pending_eq)) fun t hDone hKept => ?_
  rw [hKept.own_eq, hKept.dev_eq, (leaseEffects_does v).own_eq, hOwn]
  exact ⟨rfl, hDone, fun h => hHeld h (renewalWaits_of_not_lapsed (by rw [hOwn])), hRunning, hStill⟩

/-! ### RESET (R283) -/

theorem getPPort_onPorts (f : PortSt → PortSt) (p : PPort) (u : State) : getPPort p (onPorts f u) = f (getPPort p u) := by cases p <;> rfl

/-- A completion makes at most one record due (R265). -/
theorem completeSlot_waiting_le (p : PPort) (n status reason : Nat) (result : List Byte) (u : State) :
    (getPPort p (completeSlot p n status reason result u)).waiting.length ≤ (getPPort p u).waiting.length + 1 := by
  unfold completeSlot dueRecord setSlot
  dsimp only
  split
  · exact Nat.le_succ _
  · split
    · rw [getPPort_onPort]
      exact Nat.le_succ _
    · rw [getPPort_onPort, getPPort_onPort]
      split
      · exact (List.length_append ..).le
      · exact Nat.le_succ _

theorem reset_outcome (hIssued : issued .reset s a = true) : completes .reset s fun t =>
    slotDone a stDone 0 [] s t ∧ t.mbx.silenced = true ∧ t.dev = { s.dev with resetAt := some (s.tick.timeUs + 1000) }
      ∧ (getPPort (otherPort a.port) t).waiting = [] ∧ (getPPort a.port t).waiting.length ≤ 1 := by
  have hDoes := finishAndReset_does (cmdOf a s) (takeSlot a s)
  obtain ⟨hDone, -⟩ := finishAndReset_done (by rw [slotAt_takeSlot]) (takeSlot_sameCommand a s)
  have hFinish := Cmd_finish_does (cmdOf a s) stDone [] (onPorts (fun q => { q with waiting := [] }) (takeSlot a s))
  refine ⟨_, exec_of_issued (run := finishAndReset) rfl rfl hIssued rfl (hDoes.pending_eq.trans (takeSlot_does a s).pending_eq), hDone, rfl, ?_, ?_, ?_⟩
  · rw [finishAndReset, onDev_dev, onMbx_dev, hFinish.dev_eq, onPorts_dev, takeSlot_dev, takeSlot_tick]
  · exact congrArg PortSt.waiting ((getPPort_completeSlot_other _ _ _ _ _ _).trans (getPPort_onPorts _ _ _))
  · refine (completeSlot_waiting_le _ _ _ _ _ _).trans ?_
    rw [getPPort_onPorts]
    exact le_refl 1

/-! ### The moment of expiry (R268) -/

theorem leaseExpiry_outcome {p : PPort} (hCore : coreRuns s = true) (hHolder : s.own.holder = some p)
    (hDue : s.own.expiryUs < s.tick.timeUs + frameUs s.tick.rate) : completes .leaseExpiry s fun t =>
      t.own.holder = none ∧ t.own.lapsed = some p ∧ (s.dev.state = .running → t.dev.leaseHold = true)
        ∧ (s.dev.state = .held → t.dev.uncontrolled = true ∨ t.dev.leaseHold = true)
        ∧ (s.dev.state = .ready ∨ s.dev.state = .loaded → t.dev = s.dev) := by
  let v := leased (fun o => { o with lapsed := s.own.holder }) none s
  have hLeased : Does [.portA, .portB, .own, .flash] s v := leased_does _ _ _
  obtain ⟨k, hOwn⟩ : ∃ k, v.own = _ := leased_own (fun o => { o with lapsed := s.own.holder }) none s
  have hRun : expireLease s = leaseEffects v := if_pos (by simp [hHolder, hDue])
  obtain ⟨hHeld, hWaits, hRunning, hStill⟩ := leaseEffects_dev v
  rw [hLeased.dev_eq] at hHeld hWaits hRunning hStill
  refine ⟨leaseEffects v, effect_onlyIf_eq_next hCore hRun ((leaseEffects_does v).pending_eq.trans hLeased.pending_eq), ?_⟩
  have hEnd : (leaseEffects v).own = v.own := (leaseEffects_does v).own_eq
  refine ⟨by rw [hEnd, hOwn], by rw [hEnd, hOwn]; exact hHolder, hRunning, fun h => ?_, hStill⟩
  cases hWait : renewalWaits v with
  | false => exact .inl (hHeld h hWait)
  | true => exact .inr (hWaits h hWait)

theorem exec_leaseExpiry_of_not_due (h : coreRuns s = false ∨ s.own.holder = none ∨ s.tick.timeUs + frameUs s.tick.rate ≤ s.own.expiryUs) :
    exec .leaseExpiry s = .next s := by
  by_cases hCore : coreRuns s = true
  · refine (effect_onlyIf_of_true hCore).trans (effect_of_eq (if_neg ?_))
    rcases h.resolve_left (by simp [hCore]) with hNone | hLater
    · simp [hNone]
    · simp [Nat.not_lt.mpr hLater]
  · exact effect_onlyIf_of_false (Bool.eq_false_iff.mpr hCore)

end

/-- Settles O50. The reads complete as firmware took them; every change of the lease is `leased`, its end `leaseEffects` behind it. -/
theorem identityAndOwnership : Obligations.IdentityAndOwnership := by
  unfold Obligations.IdentityAndOwnership
  refine ⟨fun s a hIssued => ?_, fun s a hIssued => ?_, fun s a hIssued => ?_, fun s a => renewLease_outcome, fun s a => releaseControl_outcome,
    fun s a => reset_outcome, fun s p => leaseExpiry_outcome, fun s => exec_leaseExpiry_of_not_due⟩
  · exact completes_at_once rfl rfl hIssued (congrArg (fun b => (cmdOf a s).finish stDone b (takeSlot a s)) (identifyBytes_takeSlot a a.port s)) fun t hDone hKept => ⟨hDone, hKept.only⟩
  · exact completes_at_once rfl rfl hIssued (congrArg (fun b => (cmdOf a s).finish stDone b (takeSlot a s)) (statusBytes_takeSlot a a.port s)) fun t hDone hKept => ⟨hDone, hKept.only⟩
  · obtain ⟨hOther, hFree⟩ := claimControl_outcomes hIssued
    refine ⟨hOther, fun h => ?_⟩
    obtain ⟨t, hExec, k, hOwn, hDone⟩ := hFree h
    rw [hOwn] at hDone
    exact ⟨t, hExec, by rw [hOwn], by rw [hOwn]; rfl, by rw [hOwn]; rfl, by rw [hOwn]; rfl, hDone⟩

end Sys2Proof.Machine
end

section
/-! PROOFS. FAULT_READ, FAULT_CONFIG, FAULT_FORCE and UNFENCE (R303, R368, R371, R372). -/

namespace Sys2Proof.Machine
open Sys2Proof

set_option Elab.async false

/-! ### FAULT_READ (R303) -/

theorem cellState_takeSlot (a : Arrival) (k : Nat) (s : State) : cellState k (takeSlot a s) = cellState k s :=
  takeSlot_reads (f := cellState k) (fun _ _ _ _ => rfl) a s

theorem sourceRecord_takeSlot (a : Arrival) (l : Level) (u n : Nat) (s : State) : sourceRecord l u n (takeSlot a s) = sourceRecord l u n s :=
  takeSlot_reads (f := sourceRecord l u n) (fun _ _ _ _ => rfl) a s

section
variable {s : State} {a : Arrival}

theorem runFaultRead_takeSlot : let c := cmdOf a s
    runFaultRead c (takeSlot a s) = c.finish stDone (leBytes 2 (c.n 6 2) ++ zeros 14
      ++ ((List.range (c.n 6 2)).map (fun i => sourceRecord (levelArg c) (c.n 2 2) (c.n 4 2 + i) s)).flatten) (takeSlot a s) := by
  simp only [runFaultRead, sourceRecord_takeSlot]

end

/-! ### FAULT_CONFIG (R303) -/

section
variable (l : Level) (n : Nat) (cfg : FCfg)

theorem pendCfg_of_absent {u : Nat} {s : State} (h : absentUnit l u s = true) : pendCfg l n cfg s u = s := if_pos h

theorem pendCfg_of_present {u : Nat} {s : State} (h : absentUnit l u s = false) :
    pendCfg l n cfg s u = setFaultSrc l u n { faultSrc l u n s with pending := some (cfg, s.tick.count) } s := if_neg (Bool.eq_false_iff.mp h)

theorem absentUnit_congr {s t : State} (h : t.cells = s.cells) (u : Nat) : absentUnit l u t = absentUnit l u s := by
  rw [absentUnit, cellState, h, absentUnit, cellState]

theorem faultSrc_setFaultSrc_of_key {u v : Nat} {s : State} (hKey : faultKey l u n = faultKey l v n) (f : FSrc) :
    faultSrc l u n (setFaultSrc l v n f s) = f := by
  rw [faultSrc, hKey]
  exact getD_put_same _ _ _ _

theorem faultSrc_setFaultSrc_of_key_ne {u v : Nat} {s : State} (hKey : faultKey l u n ≠ faultKey l v n) (f : FSrc) :
    faultSrc l u n (setFaultSrc l v n f s) = faultSrc l u n s := getD_put_ne hKey _ _ _

/-- What waits at one unit stays when the same settings are made to wait at another. -/
theorem pendCfg_keeps_pending {u v : Nat} {s : State} (h : (faultSrc l u n s).pending = some (cfg, s.tick.count)) :
    (faultSrc l u n (pendCfg l n cfg s v)).pending = some (cfg, s.tick.count) := by
  cases hAbsent : absentUnit l v s with
  | true => rw [pendCfg_of_absent l n cfg hAbsent, h]
  | false =>
    rw [pendCfg_of_present l n cfg hAbsent]
    by_cases hKey : faultKey l u n = faultKey l v n
    · rw [faultSrc_setFaultSrc_of_key l n hKey]
    · rw [faultSrc_setFaultSrc_of_key_ne l n hKey, h]

/-- The settings wait at every unit named that is present. -/
theorem foldl_pendCfg_pending {u : Nat} (us : List Nat) : ∀ s : State, (u ∈ us ∨ (faultSrc l u n s).pending = some (cfg, s.tick.count)) →
    absentUnit l u s = false → (faultSrc l u n (us.foldl (pendCfg l n cfg) s)).pending = some (cfg, s.tick.count) := by
  induction us with
  | nil => exact fun s h _ => h.resolve_left List.not_mem_nil
  | cons v us ih =>
    intro s h hPresent
    have hDoes := pendCfg_does l n cfg s v
    rw [List.foldl_cons, ← hDoes.tick_eq]
    refine ih _ ?_ ((absentUnit_congr l hDoes.cells_eq u).trans hPresent)
    rw [hDoes.tick_eq]
    rcases h with hMem | hWaits
    · rcases List.mem_cons.mp hMem with rfl | hMem
      · right
        rw [pendCfg_of_present l n cfg hPresent, faultSrc_setFaultSrc]
      · exact .inl hMem
    · exact .inr (pendCfg_keeps_pending l n cfg hWaits)

end

section
variable {s : State} {a : Arrival}

/-- The units that a FAULT_CONFIG names: one, or with 0xFFFF all of its level. -/
def configUnits (c : Cmd) : List Nat := if c.n 2 2 = 0xFFFF then List.range (levelArg c).units else [c.n 2 2]

/-- The taken FAULT_CONFIG's state with its settings waiting (R303). -/
def configPends (a : Arrival) (s : State) : State :=
  let c := cmdOf a s
  (configUnits c).foldl (pendCfg (levelArg c) (c.n 4 2) { n := c.n 6 1, w := c.n 8 2, action := c.n 7 1 }) (takeSlot a s)

theorem configPends_does : Does [.faults] (takeSlot a s) (configPends a s) := does_foldl (fun x u => pendCfg_does _ _ _ x u) _ (does_refl _ _)

theorem mem_configUnits {c : Cmd} {u : Nat} (h : (c.n 2 2 ≠ 0xFFFF ∧ u = c.n 2 2) ∨ (c.n 2 2 = 0xFFFF ∧ u < (levelArg c).units)) :
    u ∈ configUnits c := by
  unfold configUnits
  rcases h with ⟨hOne, rfl⟩ | ⟨hAll, hu⟩
  · rw [if_neg hOne]
    exact List.mem_singleton_self _
  · rw [if_pos hAll]
    exact List.mem_range.mpr hu

theorem configPends_pending {u : Nat} : let c := cmdOf a s
    u ∈ configUnits c → absentUnit (levelArg c) u s = false →
      (faultSrc (levelArg c) u (c.n 4 2) (configPends a s)).pending = some ({ n := c.n 6 1, w := c.n 8 2, action := c.n 7 1 }, s.tick.count) := by
  intro c hMem hPresent
  rw [← takeSlot_tick a s]
  exact foldl_pendCfg_pending _ _ _ _ _ (.inl hMem) ((absentUnit_congr _ (takeSlot_cells a s) u).trans hPresent)

/-! ### FAULT_FORCE and UNFENCE (R371, R372) -/

theorem runFaultForce_takeSlot : let c := cmdOf a s
    runFaultForce c (takeSlot a s) = if levelArg c = .cell && cellState (c.n 2 2) s = .fenced then c.finish stWrongState [] (takeSlot a s)
      else c.finish stDone [] (onFaults (fun f => { f with
        forcedNext := f.forcedNext ++ [(faultKey (levelArg c) (c.n 2 2) (c.n 4 2), c.n 6 1)] }) (takeSlot a s)) := by
  intro c
  rw [← cellState_takeSlot a]
  rfl

theorem runUnfence_takeSlot : let k := (cmdOf a s).n 0 2
    runUnfence (cmdOf a s) (takeSlot a s) = if cellState k s = .fenced && s.cells.forcedFence.contains k then
        (cmdOf a s).finish stDone [] (onCells (fun x => { x with unfenceAt := insertNat x.unfenceAt k }) (takeSlot a s))
      else (cmdOf a s).finish stWrongState [] (takeSlot a s) := by
  intro k
  rw [← cellState_takeSlot a, ← takeSlot_cells a s]
  rfl

end

/-- Settles O58. FAULT_READ completes as firmware took it; settings wait unit by unit; forced events and an UNFENCE are one update each. -/
theorem faultCommands : Obligations.FaultCommands := by
  unfold Obligations.FaultCommands
  refine ⟨fun s a hIssued => ?_, fun s a hIssued => ?_, fun s a hIssued => ⟨fun hFenced => ?_, fun hFree => ?_⟩,
    fun s a hIssued => ⟨fun hState hForced => ?_, fun hNot => ?_⟩⟩
  · exact completes_at_once rfl rfl hIssued runFaultRead_takeSlot fun t hDone hKept => ⟨hKept.only, hDone⟩
  · refine completes_behind rfl rfl hIssued (u := configPends a s) rfl configPends_does fun t hDone hKept => ⟨hDone, fun u hNamed hPresent => ?_⟩
    rw [hKept.faultSrc_eq]
    exact configPends_pending (mem_configUnits hNamed) hPresent
  · exact completes_at_once rfl rfl hIssued (runFaultForce_takeSlot.trans (if_pos hFenced)) fun t hDone hKept => ⟨hDone, hKept.faults_eq⟩
  · refine completes_behind rfl rfl hIssued (runFaultForce_takeSlot.trans (if_neg (Bool.eq_false_iff.mp hFree))) (onFaults_does _ _)
      fun t hDone hKept => ⟨hDone, ?_⟩
    rw [hKept.faults_eq, onFaults_faults, takeSlot_faults]
  · refine completes_behind rfl rfl hIssued (runUnfence_takeSlot.trans (if_pos (by rw [hState, hForced]; rfl))) (onCells_does _ _)
      fun t hDone hKept => ⟨hDone, ?_⟩
    rw [hKept.cells_eq, onCells_cells, takeSlot_cells]
  · refine completes_at_once rfl rfl hIssued (runUnfence_takeSlot.trans (if_neg ?_)) fun t hDone hKept => ⟨hDone, hKept.cells_eq⟩
    rcases hNot with hState | hForced
    · simp [hState]
    · rw [hForced, Bool.and_false]
      exact Bool.false_ne_true

end Sys2Proof.Machine
end

section
/-! PROOFS. Time, environment, budget, points, address, tick domain, port control and reference mode (R284 to R288, R290, R291, R308, R315, R316, R318,
R441, R447). -/

namespace Sys2Proof.Machine
open Sys2Proof

set_option Elab.async false

/-! ### Correlation records (R284, R447) -/

/-- The flash states hold the same correlation records, written and queued. -/
structure SameCorr (f g : FlashSt) : Prop where
  corr : g.corr = f.corr
  queue : g.corrQueue = f.corrQueue
  next : g.nextCorr = f.nextCorr

theorem SameCorr.refl (f : FlashSt) : SameCorr f f := ⟨rfl, rfl, rfl⟩

theorem recordEvent_corr (type : Nat) (payload : List Byte) (s : State) : SameCorr s.flash (recordEvent type payload s).flash := by
  unfold recordEvent recordAt
  dsimp only
  split <;> exact ⟨rfl, rfl, rfl⟩

theorem reportLost_corr (s : State) : SameCorr s.flash (reportLost s).flash := by
  unfold reportLost
  split
  · exact ⟨(recordEvent_corr _ _ _).corr, (recordEvent_corr _ _ _).queue, (recordEvent_corr _ _ _).next⟩
  · exact .refl _

/-- An event record that is written leaves the correlation records. -/
theorem writeEvent_corr (s : State) : SameCorr s.flash (writeEvent s).flash := by
  unfold writeEvent
  split
  · exact .refl _
  · exact ⟨(reportLost_corr _).corr, (reportLost_corr _).queue, (reportLost_corr _).next⟩

theorem writeCorr_of_cons {s : State} {r : CorrRec} {rest : List CorrRec} (h : s.flash.corrQueue = r :: rest) :
    writeCorr s = onFlash (fun f => { f with corrQueue := rest, corr := eraseAheadCorr r.sequence f.corr ++ [r] }) s := by
  rw [writeCorr, h]

theorem exec_eventRecordWrite {s : State} (hRuns : collectorsRun s = true) : exec .eventRecordWrite s = .next (writeEvent (writeCorr s)) :=
  effect_onlyIf_eq_next hRuns rfl ((writeEvent_does _).pending_eq.trans (writeCorr_does s).pending_eq)

/-- The oldest correlation record that waits is programmed (R447). -/
theorem eventRecordWrite_corr {s : State} {r : CorrRec} {rest : List CorrRec} (hRuns : collectorsRun s = true) (hQueue : s.flash.corrQueue = r :: rest) :
    completes .eventRecordWrite s fun t => r ∈ t.flash.corr ∧ t.flash.corrQueue = rest := by
  obtain ⟨hCorr, hRest, -⟩ := writeEvent_corr (writeCorr s)
  refine ⟨_, exec_eventRecordWrite hRuns, ?_, ?_⟩
  · rw [hCorr, writeCorr_of_cons hQueue]
    exact List.mem_append_right _ (List.mem_singleton_self r)
  · rw [hRest, writeCorr_of_cons hQueue]
    rfl

/-! ### SET_TIME (R284, R447) -/

section
variable {s : State} {a : Arrival}

/-- The correlation record that a SET_TIME makes. -/
def timeRecord (utc : Nat) (s : State) : CorrRec where
  sequence := s.flash.nextCorr
  hours := hoursField s
  cycle := s.life.now.cycles
  tick := s.tick.count
  utc := BitVec.ofNat 64 utc

/-- The record joins the queue, and an event tells of it (R284). -/
def timeNoted (utc : Nat) (u : State) : State :=
  let k := u.flash.nextCorr
  recordEvent 0x000E (leBytes 4 k.toNat ++ zeros 4 ++ leBytes 8 utc) (onLife (fun l => { l with lastCorr := k })
    (onFlash (fun f => { f with corrQueue := f.corrQueue ++ [timeRecord utc u], nextCorr := k + 1 }) u))

theorem timeNoted_does (utc : Nat) (u : State) : Does [.flash, .life] u (timeNoted utc u) :=
  does_by (recordEvent_does _ _ _) (does_by (onLife_does _ _) (does_mono (onFlash_does _ _) (by decide)))

theorem timeNoted_flash (utc : Nat) (u : State) : (timeNoted utc u).flash.corrQueue = u.flash.corrQueue ++ [timeRecord utc u]
    ∧ (timeNoted utc u).flash.nextCorr = u.flash.nextCorr + 1 := by
  have hSame : SameCorr _ (timeNoted utc u).flash := recordEvent_corr _ _ _
  exact ⟨hSame.queue, hSame.next⟩

theorem timeNoted_lastCorr (utc : Nat) (u : State) : (timeNoted utc u).life.now.lastCorr = u.flash.nextCorr :=
  congrArg (fun x : LifeSt => x.now.lastCorr) (recordEvent_does _ _ _).life_eq

theorem timeRecord_takeSlot (utc : Nat) : timeRecord utc (takeSlot a s) = timeRecord utc s :=
  takeSlot_reads (f := timeRecord utc) (fun _ _ _ _ => rfl) a s

theorem setTime_outcome (hIssued : issued .setTime s a = true) : completes .setTime s fun t =>
    slotDone a stDone 0 (leBytes 4 s.flash.nextCorr.toNat) s t ∧ t.flash.nextCorr = s.flash.nextCorr + 1
      ∧ t.life.now.lastCorr = s.flash.nextCorr ∧ t.flash.corrQueue = s.flash.corrQueue ++ [timeRecord ((cmdOf a s).n 0 8) s] := by
  obtain ⟨hQueue, hNext⟩ := timeNoted_flash ((cmdOf a s).n 0 8) (takeSlot a s)
  refine completes_behind (u := timeNoted ((cmdOf a s).n 0 8) (takeSlot a s)) (result := leBytes 4 s.flash.nextCorr.toNat) rfl rfl hIssued ?_
    (timeNoted_does _ _) fun t hDone hKept => ⟨hDone, ?_, ?_, ?_⟩
  · rw [← takeSlot_flash a s]
    rfl
  · rw [hKept.flash_eq, hNext, takeSlot_flash]
  · rw [hKept.life_eq, timeNoted_lastCorr, takeSlot_flash]
  · rw [hKept.flash_eq, hQueue, takeSlot_flash, timeRecord_takeSlot]

/-! ### SET_ENVIRONMENT and SET_POWER_BUDGET (R285, R286) -/

/-- The valid fields of a SET_ENVIRONMENT (R285). -/
def environmentSet (c : Cmd) (e : EnvSt) : EnvSt := { e with
  inletNext := if bitOf (c.n 0 1) 0 then some (c.n 2 2 : Int) else e.inletNext
  flowNext := if bitOf (c.n 0 1) 1 then some (c.n 4 2) else e.flowNext
  feed := if bitOf (c.n 0 1) 2 then c.n 6 2 else e.feed
  offsetNext := if bitOf (c.n 0 1) 3 then some (c.n 8 2) else e.offsetNext }

/-- The taken SET_ENVIRONMENT's state with its fields set, and the exposure of the snapshots that follows from the feed (R285, R299). -/
def environmentTaken (a : Arrival) (s : State) : State :=
  onSnap (fun x => { x with exposed := x.partnersSet && feedShared (environmentSet (cmdOf a s) s.env).feed x.evenFeed x.oddFeed })
    (onEnv (environmentSet (cmdOf a s)) (takeSlot a s))

/-- A feed that is set and that a partner shares (R285, R299). -/
def feedClash (c : Cmd) (s : State) : Bool :=
  bitOf (c.n 0 1) 2 && s.snap.partnersSet && (decide (s.snap.evenFeed = c.n 6 2) || decide (s.snap.oddFeed = c.n 6 2))

theorem environmentTaken_does : Does [.env, .snap] (takeSlot a s) (environmentTaken a s) :=
  does_by (onSnap_does _ _) (does_mono (onEnv_does _ _) (by decide))

theorem runSetEnvironment_takeSlot : runSetEnvironment (cmdOf a s) (takeSlot a s) =
    if feedClash (cmdOf a s) s && !s.snap.acked then (cmdOf a s).finish stFeedShared [] (takeSlot a s)
    else (cmdOf a s).finish stDone [] (environmentTaken a s) := by
  have hClash : feedClash (cmdOf a s) s = (bitOf ((cmdOf a s).n 0 1) 2 && s.snap.partnersSet
      && (decide (s.snap.evenFeed = (environmentSet (cmdOf a s) s.env).feed) || decide (s.snap.oddFeed = (environmentSet (cmdOf a s) s.env).feed))) := by
    unfold feedClash environmentSet
    cases bitOf ((cmdOf a s).n 0 1) 2 <;> rfl
  rw [hClash, environmentTaken, ← takeSlot_snap a s, ← takeSlot_env a s]
  rfl

theorem runSetBudget_takeSlot : let c := cmdOf a s
    runSetBudget c (takeSlot a s) = c.finish stDone (leBytes 8 (budgetTick (1000 * c.n 0 2) s).toNat) (onEnv (fun e => { e with
      budgetTarget := 1000 * c.n 0 2
      windowNext := if c.n 2 2 = 0 then e.windowNext else some (c.n 2 2) }) (takeSlot a s)) := by
  intro c
  rw [← takeSlot_reads (f := budgetTick (1000 * c.n 0 2)) (fun _ _ _ _ => rfl) a s]
  rfl

end

/-! ### SET_TICK_DOMAIN (R291) -/

/-- What reads a slot DONE sees of the state before it the slot and the count of ticks. -/
theorem slotDone_of_origin {a : Arrival} {status reason : Nat} {result : List Byte} {s s' t : State} (h : slotDone a status reason result s' t)
    (hSlot : slotAt a.port a.slot s' = slotAt a.port a.slot s) (hCount : s'.tick.count = s.tick.count) : slotDone a status reason result s t := by
  unfold slotDone at *
  rw [← hSlot, ← hCount]
  exact h

/-- The domain that a SET_TICK_DOMAIN asks for waits for the next tick (R291). -/
def domainAsked (c : Cmd) (t : TickSt) : TickSt :=
  { t with newDomain := some { source := decide (c.n 0 1 = 0), upstream := c.n 1 1, rate := rateOf (c.n 2 1) } }

theorem setTickDomain_outcome {s : State} {a : Arrival} (hIssued : issued .setTickDomain s a = true) : completes .setTickDomain s fun t =>
    slotDone a stDone 0 [] s t ∧ t.tick = domainAsked (cmdOf a s) s.tick := by
  let u := onTick (domainAsked (cmdOf a s)) (takeSlot a s)
  have hBefore : slotAt a.port a.slot (onTick (domainAsked (cmdOf a s)) s) = slotAt a.port a.slot s := (onTick_does _ s).slotAt_eq _ _
  have hSlot : slotAt a.port a.slot u = { slotAt a.port a.slot s with st := .taken } :=
    ((onTick_does _ (takeSlot a s)).slotAt_eq _ _).trans (slotAt_takeSlot a s)
  have hTick : u.tick = domainAsked (cmdOf a s) s.tick := congrArg (domainAsked (cmdOf a s)) (takeSlot_tick a s)
  have hSame : SameCommand a (onTick (domainAsked (cmdOf a s)) s) u := ⟨by rw [hSlot, hBefore], by rw [hSlot, hBefore], hTick⟩
  have hFinish := Cmd_finish_does (cmdOf a s) stDone [] u
  refine ⟨_, exec_of_issued rfl rfl hIssued rfl (hFinish.pending_eq.trans (takeSlot_does a s).pending_eq), ?_, hFinish.tick_eq.trans hTick⟩
  exact slotDone_of_origin (completeSlot_done (u := u) (.inl (congrArg Slot.st hSlot)) hSame) hBefore rfl

/-! ### Events leave the slots: they reach a port only through its copy of DEV_STICKY (R258) -/

theorem latchEvent_sameSlots (l : Level) (unit source : Nat) (forced early : Bool) (s : State) :
    SameSlots s (latchEvent l unit source forced early s).1 := by
  unfold latchEvent
  split
  · exact .refl s
  extract_lets f t s1
  have hSet : SameSlots s s1 := .of_does (setFaultSrc_does l unit source (f.add forced early t) s)
  split
  · exact (hSet.trans (.setSticky _ s1)).trans (.of_does (recordAt_does _ _ _ _))
  · exact hSet

theorem countSimple_sameSlots (l : Level) (unit source : Nat) (forced early act : Bool) (s : State) :
    SameSlots s (countSimple l unit source forced early act s) := by
  have hLatch := latchEvent_sameSlots l unit source forced early s
  unfold countSimple
  extract_lets f action r t
  have hEvent : SameSlots s t := by
    unfold t
    split
    · exact hLatch.trans (.of_does (eventAction_does l unit action r.1))
    · exact hLatch
  split
  · exact hEvent.trans (.of_does (severeNow_does l unit source _ action t))
  · exact hEvent

theorem loseLane_sameSlots (p lane : Nat) (s : State) : SameSlots s (loseLane p lane s) := by
  unfold loseLane
  split
  · exact (SameSlots.of_does (removeLane_does p lane s)).trans (countSimple_sameSlots _ _ _ _ _ _ _)
  · exact .refl s

/-! ### PORT_CONTROL (R290, R315, R316) -/

/-- The lanes that a mask of PORT_CONTROL leaves out, taken away one by one (R315). -/
def lanesTaken (p mask : Nat) (u : State) : State := ((List.range 8).filter (fun l => !bitOf mask l)).foldl (fun s l => loseLane p l s) u

/-- A port that is switched off (R316). -/
def disablePort (p : Nat) (u : State) : State :=
  onClasp p (fun x => { x with enabled := false, state := 0, lanes := 0, byItself := false, ctl := [], queue := [] }) u

/-- The four actions of PORT_CONTROL (R290). -/
def portControlled (c : Cmd) (u : State) : State :=
  if c.n 1 1 = 0 then disablePort (c.n 0 1) u
  else if c.n 1 1 = 1 then if (claspOf (c.n 0 1) u).enabled then u else trainPort (c.n 0 1) u
  else if c.n 1 1 = 2 then trainPort (c.n 0 1) u
  else lanesTaken (c.n 0 1) (c.n 2 1) u

theorem runPortControl_eq (c : Cmd) (u : State) :
    runPortControl c u = c.finish stDone ((claspOf (c.n 0 1) (portControlled c u)).record (c.n 0 1)) (portControlled c u) := by
  unfold runPortControl portControlled
  match c.n 1 1 with
  | 0 => rfl
  | 1 => rfl
  | 2 => rfl
  | _ + 3 => rfl

theorem lanesTaken_does (p mask : Nat) (u : State) :
    Does [.frame, .cells, .hbm, .portA, .portB, .dev, .power, .faults, .fabric, .flash] u (lanesTaken p mask u) :=
  does_foldl (fun x l => loseLane_does p l x) _ (does_refl _ u)

theorem lanesTaken_sameSlots (p mask : Nat) (u : State) : SameSlots u (lanesTaken p mask u) :=
  List.foldlRecOn _ _ (.refl u) fun _ h l _ => h.trans (loseLane_sameSlots p l _)

theorem portControlled_does (c : Cmd) (u : State) :
    Does [.frame, .cells, .hbm, .portA, .portB, .dev, .power, .faults, .fabric, .flash] u (portControlled c u) := by
  have hTrain := does_mono (m := [.frame, .cells, .hbm, .portA, .portB, .dev, .power, .faults, .fabric, .flash]) (trainPort_does (c.n 0 1) u) (by decide)
  exact does_ite (does_mono (onClasp_does _ _ _) (by decide)) (does_ite (does_ite (does_refl _ _) hTrain) (does_ite hTrain (lanesTaken_does _ _ _)))

theorem portControlled_sameSlots (c : Cmd) (u : State) : SameSlots u (portControlled c u) := by
  unfold portControlled
  split_ifs
  · exact .of_does (onClasp_does _ _ _)
  · exact .refl u
  · exact .of_does (trainPort_does _ _)
  · exact .of_does (trainPort_does _ _)
  · exact lanesTaken_sameSlots _ _ _

/-- A port that is to train (R316). -/
theorem claspOf_trainPort (p : Nat) (u : State) :
    (claspOf p (trainPort p u)).enabled = true ∧ (claspOf p (trainPort p u)).state = 1 ∧ (claspOf p (trainPort p u)).lanes = 0 := by
  let v := onClasp p (fun c => { c with enabled := true, byItself := false, retriesLeft := 3 }) u
  have hTrains : claspOf p (trainPort p u) = { claspOf p v with state := 1, lanes := 0, ctl := [], queue := [] } :=
    claspOf_onClasp_same p (fun c => { c with state := 1, lanes := 0, ctl := [], queue := [] }) v
  have hOn : claspOf p v = { claspOf p u with enabled := true, byItself := false, retriesLeft := 3 } := claspOf_onClasp_same p _ u
  rw [hTrains, hOn]
  exact ⟨rfl, rfl, rfl⟩

theorem claspOf_congr {u v : State} (h : v.fabric = u.fabric) (p : Nat) : claspOf p v = claspOf p u := by rw [claspOf, h, claspOf]

/-- What each action leaves of the port. -/
theorem claspOf_portControlled (c : Cmd) (u : State) :
    (c.n 1 1 = 0 → (claspOf (c.n 0 1) (portControlled c u)).enabled = false ∧ (claspOf (c.n 0 1) (portControlled c u)).state = 0
        ∧ (claspOf (c.n 0 1) (portControlled c u)).lanes = 0)
      ∧ (c.n 1 1 = 1 → (claspOf (c.n 0 1) u).enabled = true → claspOf (c.n 0 1) (portControlled c u) = claspOf (c.n 0 1) u)
      ∧ (c.n 1 1 = 2 ∨ (c.n 1 1 = 1 ∧ (claspOf (c.n 0 1) u).enabled = false) → portControlled c u = trainPort (c.n 0 1) u)
      ∧ (c.n 1 1 = 3 → portControlled c u = lanesTaken (c.n 0 1) (c.n 2 1) u) := by
  unfold portControlled
  refine ⟨fun h => ?_, fun h hOn => ?_, fun h => ?_, fun h => ?_⟩
  · rw [if_pos h, disablePort, claspOf_onClasp_same]
    exact ⟨rfl, rfl, rfl⟩
  · simp [h, hOn]
  · rcases h with h | ⟨h, hOff⟩
    · simp [h]
    · simp [h, hOff]
  · simp [h]

theorem portControl_outcome {s : State} {a : Arrival} (hIssued : issued .portControl s a = true) : let p := (cmdOf a s).n 0 1
    completes .portControl s fun t => slotDone a stDone 0 ((claspOf p t).record p) s t
      ∧ claspOf p t = claspOf p (portControlled (cmdOf a s) (takeSlot a s)) := by
  intro p
  have hDoes := portControlled_does (cmdOf a s) (takeSlot a s)
  refine completes_of_finish rfl rfl hIssued (runPortControl_eq _ _)
    ((StillTaken.takeSlot a s).of_sameSlots (portControlled_sameSlots _ _) hDoes.tick_eq) (hDoes.pending_eq.trans (takeSlot_does a s).pending_eq)
    fun t hDone hKept => ?_
  have hClasp := claspOf_congr hKept.fabric_eq p
  rw [hClasp]
  exact ⟨hDone, rfl⟩

/-! ### REFERENCE_MODE (R308) -/

/-- The tensors that a REFERENCE_MODE names. -/
def namedTensors (c : Cmd) : List Nat := (List.range (c.n 1 1)).map (fun i => c.n (8 + 2 * i) 2)

/-- What a REFERENCE_MODE makes of the tensors compared and of their bound (R308). -/
def nextReference (c : Cmd) (now : List Nat × W32) : List Nat × W32 :=
  if c.n 0 1 = 1 then ((namedTensors c).foldl insertNat now.1, BitVec.ofNat 32 (c.n 4 4))
  else if (namedTensors c).isEmpty then ([], now.2)
  else (now.1.filter (fun t => !(namedTensors c).contains t), now.2)

theorem mem_namedTensors {c : Cmd} {i : Nat} (h : i < c.n 1 1) : c.n (8 + 2 * i) 2 ∈ namedTensors c :=
  List.mem_map.mpr ⟨i, List.mem_range.mpr h, rfl⟩

theorem nextReference_set {c : Cmd} {now : List Nat × W32} (hSet : c.n 0 1 = 1) :
    (nextReference c now).2 = BitVec.ofNat 32 (c.n 4 4) ∧ ∀ i, i < c.n 1 1 → c.n (8 + 2 * i) 2 ∈ (nextReference c now).1 := by
  rw [nextReference, if_pos hSet]
  exact ⟨rfl, fun i hi => mem_foldl_insertNat (f := id) _ (.inr ⟨_, mem_namedTensors hi, rfl⟩)⟩

theorem nextReference_clear {c : Cmd} {now : List Nat × W32} (hClear : c.n 0 1 = 0) :
    (∀ i, i < c.n 1 1 → c.n (8 + 2 * i) 2 ∉ (nextReference c now).1) ∧ (c.n 1 1 = 0 → (nextReference c now).1 = []) := by
  rw [nextReference, if_neg (by rw [hClear]; decide)]
  split
  next hNone => exact ⟨fun i _ => List.not_mem_nil, fun _ => rfl⟩
  next hSome =>
    refine ⟨fun i hi hMem => ?_, fun hNone => absurd ?_ hSome⟩
    · have hNot := (List.mem_filter.mp hMem).2
      simp [mem_namedTensors hi] at hNot
    · simp [namedTensors, hNone]

section
variable {s : State} {a : Arrival}

theorem referenceFits_takeSlot (c : Cmd) : referenceFits c (takeSlot a s) = referenceFits c s :=
  takeSlot_reads (f := referenceFits c) (fun _ _ _ _ => rfl) a s

theorem runReference_eq (c : Cmd) (u : State) :
    ∃ now, runReference c u = c.finish stDone [] (onStep (fun t => { t with refNext := some (nextReference c now) }) u) := ⟨_, rfl⟩

theorem referenceMode_outcomes (hIssued : issued .referenceMode s a = true) :
    (referenceFits (cmdOf a s) s = false → completes .referenceMode s fun t => slotDone a stBadArgument 0 [] s t ∧ t.step = s.step)
      ∧ (referenceFits (cmdOf a s) s = true → completes .referenceMode s fun t => slotDone a stDone 0 [] s t
        ∧ ∃ now, t.step = { s.step with refNext := some (nextReference (cmdOf a s) now) }) := by
  refine ⟨fun hNot => ?_, fun hFits => ?_⟩
  · exact completes_at_once rfl rfl hIssued (checked_of_not_fits ((referenceFits_takeSlot _).trans hNot)) fun t hDone hKept => ⟨hDone, hKept.step_eq⟩
  · obtain ⟨now, hRun⟩ := runReference_eq (cmdOf a s) (takeSlot a s)
    refine completes_behind rfl rfl hIssued ((checked_of_fits ((referenceFits_takeSlot _).trans hFits)).trans hRun) (onStep_does _ _)
      fun t hDone hKept => ⟨hDone, now, ?_⟩
    rw [hKept.step_eq, onStep_step, takeSlot_step]

end

/-- Settles O51. Each setting is one update behind the taken slot; PORT_CONTROL's four actions are `portControlled`, and lost lanes leave the slots. -/
theorem settingsTaken : Obligations.SettingsTaken := by
  unfold Obligations.SettingsTaken
  refine ⟨fun s a hIssued => ?_, fun s r rest => eventRecordWrite_corr, fun s a hIssued => ⟨fun hClash hNot => ?_, fun hFree => ?_⟩,
    fun s a hIssued => ?_, fun s a hIssued => ?_, fun s a hIssued => ?_, fun s a hIssued => ?_, fun s a hIssued => ?_, fun s a hIssued => ?_⟩
  · obtain ⟨t, hExec, hDone, hNext, hLast, hQueue⟩ := setTime_outcome hIssued
    exact ⟨t, hExec, hDone, hNext, hLast, _, hQueue, rfl, rfl, rfl, rfl, rfl⟩
  · exact completes_at_once rfl rfl hIssued (runSetEnvironment_takeSlot.trans (if_pos (by rw [hNot, Bool.not_false, Bool.and_true]; exact hClash)))
      fun t hDone hKept => ⟨hDone, hKept.env_eq, hKept.snap_eq⟩
  · have hGoes : ¬ (feedClash (cmdOf a s) s && !s.snap.acked) = true := by
      rcases hFree with hNone | hAcked
      · rw [show feedClash (cmdOf a s) s = false from hNone, Bool.false_and]
        exact Bool.false_ne_true
      · rw [hAcked, Bool.not_true, Bool.and_false]
        exact Bool.false_ne_true
    refine completes_behind rfl rfl hIssued (runSetEnvironment_takeSlot.trans (if_neg hGoes)) environmentTaken_does fun t hDone hKept => ?_
    have hEnv : t.env = environmentSet (cmdOf a s) s.env := hKept.env_eq.trans (congrArg (environmentSet (cmdOf a s)) (takeSlot_env a s))
    refine ⟨hDone, ?_, ?_, ?_, ?_, ?_⟩
    · rw [hEnv]; rfl
    · rw [hEnv]; rfl
    · rw [hEnv]; rfl
    · rw [hEnv]; rfl
    · rw [hEnv, hKept.snap_eq, environmentTaken, onSnap_snap, onEnv_snap, takeSlot_snap]
  · refine completes_behind rfl rfl hIssued runSetBudget_takeSlot (onEnv_does _ _) fun t hDone hKept => ?_
    rw [hKept.env_eq, onEnv_env, takeSlot_env]
    exact ⟨rfl, rfl, rfl, hDone⟩
  · exact completes_behind rfl rfl hIssued rfl (onEnv_does _ _) fun t hDone hKept => ⟨hDone, by rw [hKept.env_eq, onEnv_env, takeSlot_env]⟩
  · exact completes_behind rfl rfl hIssued rfl (onDev_does _ _) fun t hDone hKept => ⟨hDone, by rw [hKept.dev_eq, onDev_dev, takeSlot_dev]⟩
  · exact setTickDomain_outcome hIssued
  · intro p act
    obtain ⟨t, hExec, hDone, hClasp⟩ := portControl_outcome hIssued
    obtain ⟨hOff, hOn, hTrain, hLanes⟩ := claspOf_portControlled (cmdOf a s) (takeSlot a s)
    have hBefore : claspOf p (takeSlot a s) = claspOf p s := claspOf_congr (takeSlot_fabric a s) p
    rw [hBefore] at hOn hTrain
    refine ⟨t, hExec, hDone, ?_, ?_, ?_, ?_⟩
    all_goals rw [hClasp]
    · exact hOff
    · exact hOn
    · intro h
      rw [hTrain h]
      exact claspOf_trainPort p _
    · intro h
      rw [hLanes h]
      rfl
  · intro c
    obtain ⟨hNot, hFits⟩ := referenceMode_outcomes hIssued
    refine ⟨hNot, fun h => ?_⟩
    obtain ⟨t, hExec, hDone, now, hStep⟩ := hFits h
    refine ⟨t, hExec, hDone, by rw [hStep], by rw [hStep], fun hSet => ?_, fun hClear => ?_, fun hClear hNone => ?_⟩
    all_goals rw [hStep]
    · obtain ⟨hBound, hMem⟩ := nextReference_set (now := now) hSet
      exact ⟨_, congrArg some (Prod.ext rfl hBound), hMem⟩
    · exact ⟨_, _, rfl, (nextReference_clear hClear).1⟩
    · exact ⟨_, congrArg some (Prod.ext ((nextReference_clear hClear).2 hNone) rfl)⟩

end Sys2Proof.Machine
end

section
/-! PROOFS. What the bytes that a command has read do: tables, images and firmware (R283, R293, R326, R330, R421, R425, R426). -/

namespace Sys2Proof.Machine
open Sys2Proof

set_option Elab.async false

/-! ### Route and group tables (R326, R330) -/

/-- The groups of a group table. -/
def groupsOf (b : List Byte) : List Group := (List.range (fieldN b 6 2)).map (groupEntry b)

/-- A group table waits for the next tick. -/
def groupsWait (b : List Byte) (s : State) : State := onFabric (fun f => { f with groupsNext := some (groupsOf b, b) }) s

section
variable {b : List Byte} {s : State}

theorem gotGroups_of_malformed (h : groupsOk s.dev.fabric b = false) : gotGroups b s = finishCmd 0x32 stBadArgument 0 [] s := by
  rw [gotGroups, h]
  rfl

theorem gotGroups_of_no_image (hOk : groupsOk s.dev.fabric b = true) (hImage : s.image.img = none) : gotGroups b s = groupsWait b s := by
  rw [gotGroups, hOk, hImage]
  rfl

/-- Beside an image a well-formed table is refused where it lacks a group or differs from one, and waits else (R330). -/
theorem gotGroups_of_image {i : Image} (hOk : groupsOk s.dev.fabric b = true) (hImage : s.image.img = some i) :
    gotGroups b s = if groupsMissing i (groupsOf b) s.dev.fabric then finishCmd 0x32 stRefusedFit 0x0502 [] s
      else if groupsWrong i (groupsOf b) then finishCmd 0x32 stRefusedFit 0x0503 [] s else groupsWait b s := by
  rw [gotGroups, hOk, hImage]
  rfl

end

/-! ### The command that ends (R263, R273) -/

/-- An ACCEPTED command whose slot is still open ends DONE. -/
theorem finishCmd_done {op status reason : Nat} {result : List Byte} {s : State} {x : Acc} (hAcc : acceptedOp s op = some x)
    (hLoud : s.mbx.silenced = false) (hAccepted : (slotAt x.port x.slot s).st = .accepted) :
    slotDone { port := x.port, slot := x.slot, alive := true } status reason result s (finishCmd op status reason result s) := by
  rw [finishCmd, hAcc]
  exact finishAcc_done true hAccepted hLoud ⟨rfl, rfl, rfl⟩

/-- Settles O53. Each kind of bytes has its one end or its one update; a boot record that is written comes into force. -/
theorem tablesArrive : Obligations.TablesArrive := by
  unfold Obligations.TablesArrive
  refine fun s b => ⟨fun hOk => if_pos hOk, fun hNot => if_neg (Bool.eq_false_iff.mp hNot), gotGroups_of_malformed, gotGroups_of_no_image,
    fun i hOk hImage => ?_, rfl, rfl, fun hSeq => bootRec_writeBoot _ _ _ hSeq, fun op status reason result x => finishCmd_done⟩
  intro l
  have hGot := gotGroups_of_image hOk hImage
  refine ⟨fun hMissing => hGot.trans (if_pos hMissing), fun hHas hWrong => hGot.trans ?_, fun hHas hRight => hGot.trans ?_⟩
  · exact (if_neg (Bool.eq_false_iff.mp hHas)).trans (if_pos hWrong)
  · exact (if_neg (Bool.eq_false_iff.mp hHas)).trans (if_neg (Bool.eq_false_iff.mp hRight))

end Sys2Proof.Machine
end

section
/-! PROOFS. EVENT_READ, LIFETIME_READ and STATS_READ, deliveries, and what the recorder writes to flash (R267, R277, R304 to R306, R363, R440, R441, R444,
R445). -/

namespace Sys2Proof.Machine
open Sys2Proof

set_option Elab.async false

/-! ### The three reads (R304 to R306) -/

section
variable {s : State} {a : Arrival}

/-- The bytes that an EVENT_READ delivers. -/
def eventBytes (c : Cmd) (s : State) : List Byte := ((eventsFrom s (c.n 0 8) (c.n 8 4)).map EventRec.bytes).flatten

theorem runEventRead_takeSlot : let c := cmdOf a s
    runEventRead c (takeSlot a s) = if c.n 12 1 = 0xFF then
        c.finish stDone (leBytes 4 (eventsFrom s (c.n 0 8) (c.n 8 4)).length ++ zeros 4 ++ eventBytes c s) (takeSlot a s)
      else deliver 0x80 (c.n 12 1) (c.n 16 8) (eventBytes c s) (c.accept 0x80 [] (takeSlot a s)) := by
  intro c
  have hEvents := takeSlot_reads (f := fun u => eventsFrom u (c.n 0 8) (c.n 8 4)) (fun _ _ _ _ => rfl) a s
  unfold runEventRead eventBytes
  rw [hEvents]

theorem deliver_eq_waitsFor (op b off : Nat) (bytes : List Byte) (u : State) :
    deliver op b off bytes u = waitsFor { opcode := op, binding := b, write := true, offset := off, bytes := bytes } u := rfl

/-- A command that is ACCEPTED with bytes that wait for their binding (R267, R277). -/
theorem completes_delivering {c : Instr} {op : Nat} {ok : Cmd → State → Bool} {run : Cmd → State → State} {b off : Nat} {bytes : List Byte}
    (hExec : exec c s = effect (command op ok run) s) (hRow : mailboxRow c = some (op, ok)) (hIssued : issued c s a = true)
    (hRun : run (cmdOf a s) (takeSlot a s) = deliver op b off bytes ((cmdOf a s).accept op [] (takeSlot a s))) :
    completes c s fun t => slotAccepted a op [] s t
      ∧ t.mbx.dma = s.mbx.dma ++ [{ opcode := op, binding := b, write := true, offset := off, bytes := bytes }] := by
  have hAccept := Cmd_accept_does (cmdOf a s) op [] (takeSlot a s)
  refine ⟨_, exec_of_issued hExec hRow hIssued hRun ((deliver_does op b off bytes _).pending_eq.trans
    (hAccept.pending_eq.trans (takeSlot_does a s).pending_eq)), ?_, ?_⟩
  · rw [deliver_eq_waitsFor]
    exact slotAccepted_waitsFor _ (accept_accepted op [] a s)
  · rw [deliver_eq_waitsFor, waitsFor, onMbx_mbx, Cmd.accept_mbx, takeSlot_dma]

theorem statsWanted_takeSlot (c : Cmd) : statsWanted c (takeSlot a s) = statsWanted c s :=
  takeSlot_reads (f := statsWanted c) (fun _ _ _ _ => rfl) a s

theorem statsFit_takeSlot (c : Cmd) : statsFit c (takeSlot a s) = statsFit c s :=
  takeSlot_reads (f := statsFit c) (fun _ _ _ _ => rfl) a s

end

/-! ### A delivery (R267, R277) -/

/-- Records that are skipped only shorten what EVENT_READ writes (R444). -/
theorem length_heldEvents_le (s : State) : ∀ (n : Nat) (b : List Byte), (heldEvents s n b).length ≤ b.length
  | 0, _ => Nat.zero_le _
  | n + 1, b => by
    have hRest := length_heldEvents_le s n (b.drop 64)
    rw [List.length_drop] at hRest
    rw [heldEvents, List.length_append]
    split
    · rw [List.length_take]
      omega
    · exact (Nat.zero_add _).le.trans (hRest.trans (Nat.sub_le _ _))

/-- A write to host memory leaves the rest of the mailbox. -/
theorem hostWrite_mbx (b off : Nat) (bytes : List Byte) (u : State) :
    (hostWrite b off bytes u).mbx = { u.mbx with hostMem := (hostWrite b off bytes u).mbx.hostMem } := by
  unfold hostWrite
  split <;> rfl

theorem finishAcc_mbx (x : Acc) (status reason : Nat) (result : List Byte) (u : State) :
    (finishAcc x status reason result u).mbx = { u.mbx with accepted := u.mbx.accepted.filter (· != x) } := completeSlot_mbx _ _ _ _ _ _

section
variable {s : State} {p : PPort} {x : Acc} {d : DmaWait}

/-- The bulk command of a port that is ACCEPTED (R279). -/
def bulkOf (p : PPort) (s : State) : Option Acc := s.mbx.accepted.find? fun x => bulkOps.contains x.opcode && decide (x.port = p)

/-- The delivery of a port that waits. -/
def deliveryOf (p : PPort) (s : State) : Option DmaWait := s.mbx.dma.find? fun d => d.write && decide (bindPort d.binding = p)

/-- What EVENT_READ returns behind its delivery: how many records it wrote (R304). -/
def deliveryResult (x : Acc) (bytes : List Byte) : List Byte := if x.opcode = 0x80 then leBytes 4 (bytes.length / 64) ++ zeros 4 else []

/-- The delivery of a bulk command, by its binding (R267, R277). -/
def deliveryEnd (x : Acc) (d : DmaWait) (s : State) : State :=
  if !dmaReady s true d.binding then s
  else if dmaFits s d.binding d.offset d.bytes.length then
    finishAcc x stDone 0 (deliveryResult x (deliveredBytes s x d)) (hostWrite d.binding d.offset (deliveredBytes s x d) (resumed d s))
  else finishAcc x stBadArgument 0 [] (resumed d s)

theorem exec_hostBufferDeliveryDone_of_idle (h : coreRuns s = false ∨ bulkOf p s = none ∨ deliveryOf p s = none) :
    exec (.hostBufferDeliveryDone p) s = .next s := by
  by_cases hCore : coreRuns s = true
  · refine (effect_onlyIf_of_true hCore).trans (effect_of_eq ?_)
    unfold runDelivery
    rcases h.resolve_left (by simp [hCore]) with hNone | hNone
    · rw [show s.mbx.accepted.find? _ = none from hNone]
    · rw [show s.mbx.dma.find? _ = none from hNone]
      split
      next hDma => exact nomatch hDma
      next => rfl
  · exact effect_onlyIf_of_false (Bool.eq_false_iff.mpr hCore)

theorem runDelivery_of_waiting (hBulk : bulkOf p s = some x) (hDelivery : deliveryOf p s = some d) : runDelivery p s = deliveryEnd x d s := by
  unfold runDelivery
  rw [show s.mbx.accepted.find? _ = some x from hBulk, show s.mbx.dma.find? _ = some d from hDelivery]
  rfl

theorem exec_hostBufferDeliveryDone (hCore : coreRuns s = true) (hBulk : bulkOf p s = some x) (hDelivery : deliveryOf p s = some d) :
    exec (.hostBufferDeliveryDone p) s = .next (deliveryEnd x d s) :=
  effect_onlyIf_eq_next hCore (runDelivery_of_waiting hBulk hDelivery)
    (runDelivery_of_waiting hBulk hDelivery ▸ (runDelivery_does p s).pending_eq)

theorem resumed_sameHost (d : DmaWait) (s : State) : SameHost s (resumed d s) := ⟨fun p => by cases p <;> rfl, rfl⟩

/-- A delivery that its binding allows lands in host memory, and its command ends. -/
theorem delivered_outcome (hLoud : s.mbx.silenced = false) (hAccepted : (slotAt x.port x.slot s).st = .accepted) (bytes result : List Byte) :
    let t := finishAcc x stDone 0 result (hostWrite d.binding d.offset bytes (resumed d s))
    t.mbx.hostMem = (hostWrite d.binding d.offset bytes s).mbx.hostMem ∧ t.mbx.dma = s.mbx.dma.filter (· != d)
      ∧ t.mbx.accepted = s.mbx.accepted.filter (· != x) ∧ slotDone { port := x.port, slot := x.slot, alive := true } stDone 0 result s t := by
  intro t
  have hDoes : Does [.mbx] s (hostWrite d.binding d.offset bytes (resumed d s)) := does_by (hostWrite_does _ _ _ _) (onMbx_does _ _ rfl)
  have hMbx : t.mbx = _ := finishAcc_mbx x stDone 0 result _
  refine ⟨?_, ?_, ?_, finishAcc_done true ?_ ?_ (hDoes.sameCommand _)⟩
  · rw [hMbx]
    exact (resumed_sameHost d s).hostMem_hostWrite _ _ _
  · rw [hMbx, hostWrite_mbx]
    rfl
  · rw [hMbx, hostWrite_mbx]
    rfl
  · rw [hDoes.slotAt_eq]
    exact hAccepted
  · rw [silenced_hostWrite]
    exact hLoud

end

/-! ### The event ring (R440, R441) -/

section
variable {s : State}

theorem recordEvent_of_room (type : Nat) (payload : List Byte) (h : s.flash.queue.length < 512) :
    ∃ x, x.type = type ∧ (recordEvent type payload s).flash = { s.flash with queue := s.flash.queue ++ [x], nextSeq := s.flash.nextSeq + 1 } := by
  unfold recordEvent recordAt
  dsimp only
  rw [if_pos h]
  exact ⟨_, rfl, rfl⟩

theorem reportLost_of_none (h : s.flash.lostCount = 0 ∨ 512 ≤ s.flash.queue.length) : reportLost s = s := by
  refine if_neg ?_
  rcases h with hNone | hFull
  · simp [hNone]
  · simp [Nat.not_lt.mpr hFull]

/-- Lost records are told of once the queue has room (R441). -/
theorem reportLost_of_lost (hLost : s.flash.lostCount ≠ 0) (hRoom : s.flash.queue.length < 512) :
    ∃ x, x.type = 0x000F ∧ (reportLost s).flash
      = { s.flash with lostFirst := 0, lostCount := 0, queue := s.flash.queue ++ [x], nextSeq := s.flash.nextSeq + 1 } := by
  unfold reportLost
  rw [if_pos (by rw [bne_iff_ne.mpr hLost, decide_eq_true hRoom]; rfl)]
  exact recordEvent_of_room (s := onFlash (fun f => { f with lostFirst := 0, lostCount := 0 }) s) _ _ hRoom

/-- The oldest event that waits has gone into the ring. -/
def ringWritten (r : EventRec) (rest : List EventRec) (s : State) : State :=
  onFlash (fun f => { f with queue := rest, ring := eraseAhead r.sequence.toNat f.ring ++ [r] }) s

theorem writeEvent_of_cons {r : EventRec} {rest : List EventRec} (h : s.flash.queue = r :: rest) : writeEvent s = reportLost (ringWritten r rest s) := by
  rw [writeEvent, h]
  rfl

/-- A correlation record that is written leaves the events. -/
theorem writeCorr_events (s : State) : (writeCorr s).flash.queue = s.flash.queue ∧ (writeCorr s).flash.lostCount = s.flash.lostCount := by
  unfold writeCorr
  split <;> exact ⟨rfl, rfl⟩

theorem eventRecordWrite_event {r : EventRec} {rest : List EventRec} (hRuns : collectorsRun s = true) (hQueue : s.flash.queue = r :: rest) :
    completes .eventRecordWrite s fun t => r ∈ t.flash.ring ∧ ((s.flash.lostCount = 0 ∨ 512 ≤ rest.length) → t.flash.queue = rest)
      ∧ (s.flash.lostCount ≠ 0 → rest.length < 512 → t.flash.lostCount = 0 ∧ ∃ x, t.flash.queue = rest ++ [x] ∧ x.type = 0x000F) := by
  obtain ⟨hSame, hLost⟩ := writeCorr_events s
  have hWrite := writeEvent_of_cons (hSame.trans hQueue)
  have hMem : r ∈ (ringWritten r rest (writeCorr s)).flash.ring := List.mem_append_right _ (List.mem_singleton_self r)
  have hCount : (ringWritten r rest (writeCorr s)).flash.lostCount = s.flash.lostCount := hLost
  refine ⟨_, exec_eventRecordWrite hRuns, ?_⟩
  rw [hWrite]
  by_cases hTell : s.flash.lostCount ≠ 0 ∧ rest.length < 512
  · obtain ⟨hSome, hRoom⟩ := hTell
    obtain ⟨x, hType, hFlash⟩ := reportLost_of_lost (s := ringWritten r rest (writeCorr s)) (by rw [hCount]; exact hSome) hRoom
    rw [hFlash]
    exact ⟨hMem, fun h => (h.elim hSome (Nat.not_le.mpr hRoom)).elim, fun _ _ => ⟨rfl, x, rfl, hType⟩⟩
  · have hQuiet := (not_and_or.mp hTell).imp not_not.mp Nat.not_lt.mp
    rw [reportLost_of_none (s := ringWritten r rest (writeCorr s)) (by rw [hCount]; exact hQuiet)]
    exact ⟨hMem, fun _ => rfl, fun hNot hRoom => absurd ⟨hNot, hRoom⟩ hTell⟩

theorem exec_eventRecordWrite_of_idle (h : collectorsRun s = false ∨ (s.flash.queue = [] ∧ s.flash.corrQueue = [])) :
    exec .eventRecordWrite s = .next s := by
  by_cases hRuns : collectorsRun s = true
  · obtain ⟨hEvents, hCorr⟩ := h.resolve_left (by simp [hRuns])
    have hNoCorr : writeCorr s = s := by rw [writeCorr, hCorr]
    rw [exec_eventRecordWrite hRuns, hNoCorr, writeEvent, hEvents]
  · exact effect_onlyIf_of_false (Bool.eq_false_iff.mpr hRuns)

/-! ### Lifetime images (R363, R445) -/

theorem exec_lifetimeWrite (hRuns : collectorsRun s = true) (hDue : s.life.writeDue = true ∨ 900000000 ≤ s.life.sinceWriteUs) :
    exec .lifetimeWrite s = .next (writeLifetime s) :=
  effect_onlyIf_eq_next (by rw [hRuns]; rcases hDue with h | h <;> simp [lifetimePeriodUs, h]) rfl (writeLifetime_does s).pending_eq

theorem exec_lifetimeWrite_of_not_due (h : collectorsRun s = false ∨ (s.life.writeDue = false ∧ s.life.sinceWriteUs < 900000000)) :
    exec .lifetimeWrite s = .next s := by
  refine effect_onlyIf_of_false ?_
  rcases h with hStill | ⟨hNot, hEarly⟩
  · rw [hStill, Bool.false_and]
  · have hPeriod : decide (lifetimePeriodUs ≤ s.life.sinceWriteUs) = false := decide_eq_false (Nat.not_le.mpr hEarly)
    rw [hNot, hPeriod, Bool.or_false, Bool.and_false]

end

/-- Settles O59. The reads complete or wait for their binding; a delivery ends by its binding; the recorder writes the oldest event and the next image. -/
theorem recordsAndStatistics : Obligations.RecordsAndStatistics := by
  unfold Obligations.RecordsAndStatistics
  refine ⟨fun s a hIssued => ?_, fun s a hIssued => ?_, fun s a hIssued => ?_, fun s p => exec_hostBufferDeliveryDone_of_idle,
    fun s p x d hCore hBulk hDelivery => ?_, fun s r rest => eventRecordWrite_event, fun s => exec_eventRecordWrite_of_idle,
    fun s hRuns hDue => ?_, fun s => exec_lifetimeWrite_of_not_due⟩
  · intro c l bytes
    refine ⟨fun hAtOnce => ?_, fun hBound => ?_⟩
    · exact completes_at_once rfl rfl hIssued (runEventRead_takeSlot.trans (if_pos hAtOnce)) fun t hDone hKept => ⟨hDone, hKept.only⟩
    · exact completes_delivering rfl rfl hIssued (runEventRead_takeSlot.trans (if_neg hBound))
  · exact completes_at_once rfl rfl hIssued (by rw [← takeSlot_life a s]) fun t hDone hKept => ⟨hDone, hKept.only⟩
  · intro c
    refine ⟨fun hNot => ?_, fun hFits => ?_⟩
    · exact completes_behind rfl rfl hIssued (checked_of_not_fits ((statsFit_takeSlot c).trans hNot)) (does_refl [] _)
        fun t hDone hKept => ⟨hDone, by rw [hKept.mbx_eq, takeSlot_dma]⟩
    · refine completes_delivering rfl rfl hIssued ((checked_of_fits ((statsFit_takeSlot c).trans hFits)).trans ?_)
      rw [statsWanted_takeSlot]
  · have hExec := exec_hostBufferDeliveryDone hCore hBulk hDelivery
    refine ⟨fun hReady hFits hLoud hAccepted => ?_, fun hReady hPast => ?_, fun hShut => ?_⟩
    · have hEnd : deliveryEnd x d s = _ := (if_neg (by simp [hReady])).trans (if_pos hFits)
      obtain ⟨hMem, hDma, hAcc, hDone⟩ := delivered_outcome (d := d) hLoud hAccepted (deliveredBytes s x d) (deliveryResult x (deliveredBytes s x d))
      refine ⟨_, hExec.trans (congrArg _ hEnd), hMem, fun hOther => if_neg hOther, fun hEvents => ?_, hDma, hAcc, hDone⟩
      rw [deliveredBytes, if_pos hEvents]
      exact length_heldEvents_le s _ _
    · exact hExec.trans (congrArg _ ((if_neg (by simp [hReady])).trans (if_neg (Bool.eq_false_iff.mp hPast))))
    · exact hExec.trans (congrArg _ (if_pos (by simp [hShut])))
  · exact ⟨_, exec_lifetimeWrite hRuns hDue, rfl, ⟨_, get?_put_same _ _ _, rfl⟩, rfl, rfl, rfl, rfl⟩

end Sys2Proof.Machine
end

section
/-! PROOFS. Partners, SNAPSHOT, the stop with its copies and its end, and the proof record (R272, R298, R299, R321, R341, R345 to R347, R350). -/

namespace Sys2Proof.Machine
open Sys2Proof

set_option Elab.async false

/-! ### SET_PARTNERS (R299) -/

section
variable {s : State} {a : Arrival}

/-- A partner is on this chip's feed, an unset one included (R299). -/
def partnersShare (c : Cmd) (s : State) : Bool := decide (s.env.feed = 0xFFFF) || decide (c.n 2 2 = s.env.feed) || decide (c.n 6 2 = s.env.feed)

/-- The partners that a SET_PARTNERS names (R299). -/
def partnersNamed (c : Cmd) (shared : Bool) (x : SnapSt) : SnapSt := { x with
  partnersSet := true, even := c.n 0 2, evenFeed := c.n 2 2, odd := c.n 4 2, oddFeed := c.n 6 2, acked := bitOf (c.n 8 1) 0, exposed := shared }

theorem runPartners_takeSlot : let c := cmdOf a s
    runPartners c (takeSlot a s) = if partnersShare c s && !bitOf (c.n 8 1) 0 then c.finish stFeedShared [] (takeSlot a s)
      else c.finish stDone [] (onSnap (partnersNamed c (partnersShare c s)) (takeSlot a s)) := by
  intro c
  rw [← takeSlot_reads (f := partnersShare c) (fun _ _ _ _ => rfl) a s]
  rfl

/-! ### SNAPSHOT (R298, R345, R346) -/

/-- Where the next generation goes (R341). -/
def nextPartner (s : State) : Nat := partnerOf s s.snap.nextGen

/-- A stalled group stands against a SNAPSHOT: the one that it names, or one of the image (R298). -/
def snapshotBlocked (c : Cmd) (s : State) : Bool := (bitOf (c.n 0 1) 0 && s.fabric.stalled.contains (c.n 2 2)) || referencedStalled s

/-- The snapshot that a command asks for (R298, R345). -/
def snapshotAsked (c : Cmd) (s : State) : SnapRun where
  step := BitVec.ofNat 64 (c.n 8 8)
  group := bitOf (c.n 0 1) 0
  within := decide (s.dev.state = .held) && s.frame.inStep
  generation := 0
  due := false
  frames := 0
  leftRunning := false
  xfer := Xfer.new

/-- The taken SNAPSHOT's state with the snapshot asked for. -/
def snapshotWaits (a : Arrival) (s : State) : State := onSnap (fun x => { x with run := some (snapshotAsked (cmdOf a s) s) }) (takeSlot a s)

theorem snapshotFits_takeSlot (c : Cmd) : snapshotFits c (takeSlot a s) = snapshotFits c s :=
  takeSlot_reads (f := snapshotFits c) (fun _ _ _ _ => rfl) a s

theorem runSnapshot_takeSlot : let c := cmdOf a s
    runSnapshot c (takeSlot a s) = if !s.snap.partnersSet then c.finish stWrongState [] (takeSlot a s)
      else if snapshotBlocked c s then c.finish stGroupStalled [] (takeSlot a s)
      else if (portsTo s (nextPartner s)).isEmpty then c.finish stNoSnapshot [] (takeSlot a s)
      else c.accept 0x60 (leBytes 4 (stopFrames s (nextPartner s))) (snapshotWaits a s) := by
  intro c
  have hBlocked := takeSlot_reads (f := snapshotBlocked c) (fun _ _ _ _ => rfl) a s
  have hPorts := takeSlot_reads (f := fun u => (portsTo u (nextPartner u)).isEmpty) (fun _ _ _ _ => rfl) a s
  have hFrames := takeSlot_reads (f := fun u => stopFrames u (nextPartner u)) (fun _ _ _ _ => rfl) a s
  have hAsked := takeSlot_reads (f := snapshotAsked c) (fun _ _ _ _ => rfl) a s
  rw [← hBlocked, ← hPorts, ← hFrames, ← takeSlot_snap a s, snapshotWaits, ← hAsked]
  rfl

/-- A SNAPSHOT that nothing stands against is ACCEPTED with the predicted stop (R346). -/
theorem snapshot_accepted (hIssued : issued .snapshot s a = true) (hFits : snapshotFits (cmdOf a s) s = true) (hSet : s.snap.partnersSet = true)
    (hFree : snapshotBlocked (cmdOf a s) s = false) (hPorts : portsTo s (nextPartner s) ≠ []) : completes .snapshot s fun t =>
      slotAccepted a 0x60 (leBytes 4 (stopFrames s (nextPartner s))) s t ∧ t.snap.run = some (snapshotAsked (cmdOf a s) s) := by
  have hRun := (checked_of_fits (run := runSnapshot) ((snapshotFits_takeSlot (a := a) _).trans hFits)).trans runSnapshot_takeSlot
  rw [if_neg (by simp [hSet]), if_neg (Bool.eq_false_iff.mp hFree), if_neg (by simpa using hPorts)] at hRun
  have hAccept := Cmd_accept_does (cmdOf a s) 0x60 (leBytes 4 (stopFrames s (nextPartner s))) (snapshotWaits a s)
  refine ⟨_, exec_of_issued rfl rfl hIssued hRun (hAccept.pending_eq.trans (takeSlot_does a s).pending_eq),
    accept_behind 0x60 _ (takeSlot_accepted a s), ?_⟩
  rw [hAccept.snap_eq]
  rfl

end

/-! ### Pieces leave (R321, R347)

Sending reads nothing of the snapshots. -/

theorem sendData_onSnap (kind : Nat) (h : PktHdr) (payload : List Byte) (f : SnapSt → SnapSt) (s : State) :
    sendData kind h payload (onSnap f s) = onSnap f (sendData kind h payload s) := by
  unfold sendData
  rw [show maySend (onSnap f s) = maySend s from rfl]
  split <;> rfl

theorem sendPiece_onSnap (p : SlotPiece) (f : SnapSt → SnapSt) (s : State) : sendPiece p (onSnap f s) = onSnap f (sendPiece p s) :=
  List.foldl_hom (onSnap f) (fun u _ => sendData_onSnap 1 _ _ f u)

theorem onClasp_onSnap (p : Nat) (g : Clasp → Clasp) (f : SnapSt → SnapSt) (s : State) : onClasp p g (onSnap f s) = onSnap f (onClasp p g s) := rfl

theorem drainPort_onSnap (p : Nat) (f : SnapSt → SnapSt) (s : State) : drainPort p (onSnap f s) = onSnap f (drainPort p s) := by
  unfold drainPort
  rw [show portLive p (onSnap f s) = portLive p s from rfl]
  split <;> rfl

theorem sendOn_onSnap (p : Nat) (m : OutMsg) (f : SnapSt → SnapSt) (s : State) : sendOn p m (onSnap f s) = onSnap f (sendOn p m s) := by
  unfold sendOn
  rw [show claspOf p (onSnap f s) = claspOf p s from rfl]
  split
  · rw [onClasp_onSnap, drainPort_onSnap]
  · rfl

theorem routeOut_onSnap (x : Nat × PktHdr × List Byte) (f : SnapSt → SnapSt) (s : State) : routeOut x (onSnap f s) = onSnap f (routeOut x s) := by
  unfold routeOut
  rw [show pickPort (onSnap f s) (sendMask (onSnap f s) x.2.1.dst x.2.1.group) (onSnap f s).dev.fabric x.2.1.dst x.2.1.flow
    = pickPort s (sendMask s x.2.1.dst x.2.1.group) s.dev.fabric x.2.1.dst x.2.1.flow from rfl]
  cases pickPort s (sendMask s x.2.1.dst x.2.1.group) s.dev.fabric x.2.1.dst x.2.1.flow with
  | none => rfl
  | some p => exact sendOn_onSnap p _ f s

theorem flushSends_onSnap (f : SnapSt → SnapSt) (s : State) : flushSends (onSnap f s) = onSnap f (flushSends s) :=
  List.foldl_hom (onSnap f) (fun u x => routeOut_onSnap x f u) (init := { s with fabric := { s.fabric with outbox := [] } })

theorem sendPieces_onSnap (ps : List SlotPiece) (f : SnapSt → SnapSt) (s : State) : sendPieces ps (onSnap f s) = onSnap f (sendPieces ps s) := by
  unfold sendPieces
  rw [← flushSends_onSnap]
  exact congrArg flushSends (List.foldl_hom (onSnap f) (fun u p => sendPiece_onSnap p f u))

/-- The running snapshot with pieces that have left, or wait for a later frame. -/
def runSends (ps : List SlotPiece) (s : State) : State := onRun (fun r => { r with xfer := r.xfer.send ps (maySend s) }) s

/-- What leaves changes the fabric behind the note of it. -/
theorem runPieces_behind (ps : List SlotPiece) (s : State) : Does [.fabric] (runSends ps s) (runPieces ps s) :=
  does_ite (sendPieces_does _ _) (does_refl _ _)

theorem runPieces_fabric (ps : List SlotPiece) (s : State) : (maySend s = true → (runPieces ps s).fabric = (sendPieces ps s).fabric)
    ∧ (maySend s = false → (runPieces ps s).fabric = s.fabric) := by
  unfold runPieces
  refine ⟨fun h => ?_, fun h => ?_⟩
  · dsimp only
    rw [if_pos h]
    rw [onRun, sendPieces_onSnap, onSnap_fabric]
  · dsimp only
    rw [if_neg (Bool.eq_false_iff.mp h)]
    rfl

/-- The snapshot that runs notes its pieces. -/
theorem runPieces_snap {ps : List SlotPiece} {s : State} {r : SnapRun} (hRun : s.snap.run = some r) :
    (runPieces ps s).snap = { s.snap with run := some { r with xfer := r.xfer.send ps (maySend s) } } := by
  rw [(runPieces_behind ps s).snap_eq, runSends, onRun, onSnap_snap, hRun]
  rfl

/-! ### What the header and the tables of a generation are read from (R338 to R340) -/

theorem genBytes_congr {s t : State} (hImage : t.image = s.image) : genBytes t = genBytes s := by
  calc genBytes t = genBytes { s with image := t.image } := rfl
    _ = genBytes s := by rw [hImage]

theorem genTables_congr {s t : State} (hImage : t.image = s.image) (hStep : t.step = s.step) (hHbm : t.hbm = s.hbm) (hFabric : t.fabric = s.fabric) :
    genTables t = genTables s := by
  calc genTables t = genTables { s with image := t.image, step := t.step, hbm := t.hbm, fabric := t.fabric } := rfl
    _ = genTables s := by rw [hImage, hStep, hHbm, hFabric]

theorem maySend_congr {s t : State} (hAddress : t.dev.fabric = s.dev.fabric) (hFrame : t.frame = s.frame) : maySend t = maySend s := by
  rw [maySend, hAddress, hFrame, maySend]

/-! ### The stop (R341, R347) -/

section
variable {s : State} {r : SnapRun}

/-- The snapshot at its cut, under the next generation's number (R341). -/
def cutRun (s : State) (r : SnapRun) : SnapRun :=
  { r with due := false, generation := s.snap.nextGen, leftRunning := decide (s.dev.state = .running) }

/-- The chip at the cut, in SNAPSHOTTING (R341, R347). -/
def cutMade (r : SnapRun) (s : State) : State :=
  setState .snapshotting (onDev (fun d => { d with left := some d.state })
    (onSnap (fun x => { x with run := some (cutRun s r), nextGen := x.nextGen + 1 }) s))

/-- The header, not complete yet, and the tables of a generation (R339, R340). -/
def cutPieces (r : SnapRun) (s : State) : List SlotPiece :=
  [firmPiece (nextPartner s) 0 (runHdr s (cutRun s r) false).image, firmPiece (nextPartner s) tablesOff (genTables s)]

theorem cutMade_does (r : SnapRun) (s : State) : Does [.portA, .portB, .dev, .flash, .life, .snap] s (cutMade r s) :=
  does_by (setState_does _ _) (does_by (onDev_does _ _) (does_mono (onSnap_does _ _) (by decide)))

theorem cutMade_dev (r : SnapRun) (s : State) : (cutMade r s).dev = { s.dev with left := some s.dev.state, state := .snapshotting } :=
  setState_dev _ _

theorem cutMade_snap (r : SnapRun) (s : State) : (cutMade r s).snap = { s.snap with run := some (cutRun s r), nextGen := s.snap.nextGen + 1 } :=
  (setState_does _ _).snap_eq

/-- The header says the same of the generation on either side of the cut. -/
theorem runHdr_cutMade (complete : Bool) : runHdr (cutMade r s) (cutRun s r) complete = runHdr s (cutRun s r) complete := by
  have hDoes := cutMade_does r s
  rw [runHdr, genBytes_congr hDoes.image_eq, genTables_congr hDoes.image_eq hDoes.step_eq hDoes.hbm_eq hDoes.fabric_eq, hDoes.tick_eq, hDoes.step_eq,
    cutMade_dev, cutMade_snap]
  rfl

theorem runStop_of_due (hRun : s.snap.run = some r) (hDue : r.due = true)
    (hState : s.dev.state = .running ∨ s.dev.state = .held ∨ s.dev.state = .loaded) : runStop s = runPieces (cutPieces r s) (cutMade r s) := by
  have hDoes := cutMade_does r s
  have hGoes : ¬ (!r.due || !(decide (s.dev.state = .running) || decide (s.dev.state = .held) || decide (s.dev.state = .loaded))) = true := by
    rcases hState with h | h | h <;> simp [hDue, h]
  rw [cutPieces, ← runHdr_cutMade, ← genTables_congr hDoes.image_eq hDoes.step_eq hDoes.hbm_eq hDoes.fabric_eq]
  simp only [runStop, hRun]
  exact if_neg hGoes

theorem runStop_of_not_due (h : s.snap.run = none ∨ (∃ r, s.snap.run = some r ∧ r.due = false)
    ∨ (s.dev.state ≠ .running ∧ s.dev.state ≠ .held ∧ s.dev.state ≠ .loaded)) : runStop s = s := by
  unfold runStop
  split
  next r hRun =>
    refine if_pos ?_
    rcases h with hNone | ⟨x, hSome, hNot⟩ | ⟨hRunning, hHeld, hLoaded⟩
    · exact nomatch hRun.symm.trans hNone
    · rw [← Option.some.inj (hSome.symm.trans hRun), hNot]
      rfl
    · simp [hRunning, hHeld, hLoaded]
  · rfl

theorem exec_snapshotStop (hCore : coreRuns s = true) : exec .snapshotStop s = .next (runStop s) :=
  effect_onlyIf_eq_next hCore rfl (runStop_does s).pending_eq

/-! ### The copies (R193, R347) -/

/-- The part of the masters and moments that a unit sends (R347). -/
def copyPieces (unit off len : Nat) (r : SnapRun) (s : State) : List SlotPiece :=
  ((piecesIn (wholeUnits off len).1 (wholeUnits off len).2 0 (genPieces s)).filter (fun p => addrStack p.2.1 = unit)).map (fun p =>
    { dst := partnerOf s r.generation, off := dataOff + p.1, bytes := hbmBytes s p.2.1 p.2.2, bad := badWords s p.2.1 p.2.2, copy := true, served := false })

theorem exec_snapshotCopy {unit off len : Nat} (hStack : stackRuns s unit = true) :
    exec (.snapshotCopy unit off len) s = .next (runSnapCopy unit off len s) :=
  effect_onlyIf_eq_next hStack rfl (runSnapCopy_does unit off len s).pending_eq

theorem runSnapCopy_of_run {unit off len : Nat} (hRun : s.snap.run = some r) (hState : s.dev.state = .snapshotting) (hOpen : r.xfer.closing = false)
    (hLock : s.frame.lockUp = false) (hPause : copiesPause s = false) :
    runSnapCopy unit off len s = runPieces (copyPieces unit off len r s) s := by
  simp only [runSnapCopy, hLock, hPause, hRun, hState, hOpen]
  rfl

/-- Beside no running snapshot a copy is a part of a generation that is served (R352). -/
theorem runSnapCopy_of_serve {unit off len : Nat} (hLock : s.frame.lockUp = false) (hPause : copiesPause s = false)
    (hRun : s.snap.run = none ∨ s.dev.state ≠ .snapshotting ∨ ∃ r, s.snap.run = some r ∧ r.xfer.closing = true) :
    runSnapCopy unit off len s = serveCopy unit (wholeUnits off len).1 (wholeUnits off len).2 (openServe s) s := by
  unfold runSnapCopy
  dsimp only
  rw [if_neg (by simp [hLock, hPause])]
  split
  next r v hSome =>
    refine if_neg ?_
    rcases hRun with hNone | hState | ⟨x, hx, hClosing⟩
    · exact nomatch hSome.symm.trans hNone
    · simp [hState]
    · rw [← Option.some.inj (hx.symm.trans hSome), hClosing, Bool.not_true, Bool.and_false]
      exact Bool.false_ne_true
  · rfl

theorem exec_snapshotCopy_of_idle {unit off len : Nat} (h : stackRuns s unit = false ∨ s.frame.lockUp = true ∨ copiesPause s = true
    ∨ (openServe s = none ∧ (s.snap.run = none ∨ s.dev.state ≠ .snapshotting ∨ ∃ r, s.snap.run = some r ∧ r.xfer.closing = true))) :
    exec (.snapshotCopy unit off len) s = .next s := by
  by_cases hStack : stackRuns s unit = true
  · rw [exec_snapshotCopy hStack]
    by_cases hStops : (s.frame.lockUp || copiesPause s) = true
    · exact congrArg _ (if_pos hStops)
    · obtain ⟨hLock, hPause⟩ := Bool.or_eq_false_iff.mp (Bool.eq_false_iff.mpr hStops)
      obtain ⟨hNone, hRun⟩ := ((h.resolve_left (by simp [hStack])).resolve_left (by simp [hLock])).resolve_left (by simp [hPause])
      rw [runSnapCopy_of_serve hLock hPause hRun, hNone, serveCopy]
  · exact effect_onlyIf_of_false (Bool.eq_false_iff.mpr hStack)

/-! ### The end of the stop (R272, R347) -/

/-- The closing header, and the update that tells the other partner of the latest generation (R347). -/
def closingPieces (r : SnapRun) (s : State) : List SlotPiece :=
  [firmPiece (partnerOf s r.generation) 0 (runHdr s r true).image,
    firmPiece (partnerOf s (r.generation + 1)) 56 (leBytes 8 r.generation.toNat ++ zeros 56)]

/-- Every earlier byte of the snapshot is acknowledged (R347). -/
def stopWhole (r : SnapRun) (s : State) : Bool :=
  (r.xfer.take s.fabric.sends).whole (partnerOf s r.generation) (genTables s).length (genBytes s)

/-- The running snapshot with its closing header on the way. -/
def runCloses (r : SnapRun) (s : State) : State := onRun (fun y => { y with xfer := { r.xfer.take s.fabric.sends with closing := true } }) s

theorem exec_snapshotStopEnd (hCore : coreRuns s = true) : exec .snapshotStopEnd s = .next (runStopEnd s) :=
  effect_onlyIf_eq_next hCore rfl (runStopEnd_does s).pending_eq

theorem runStopEnd_of_run (hRun : s.snap.run = some r) : runStopEnd s =
    if s.dev.state != .snapshotting || r.xfer.closing || !stopWhole r s then s else runPieces (closingPieces r s) (runCloses r s) := by
  simp only [runStopEnd, hRun]
  rfl

theorem runCloses_run (hRun : s.snap.run = some r) :
    (runCloses r s).snap = { s.snap with run := some { r with xfer := { r.xfer.take s.fabric.sends with closing := true } } } := by
  rw [runCloses, onRun, onSnap_snap, hRun]
  rfl

theorem exec_snapshotStopEnd_of_not (hRun : s.snap.run = some r)
    (h : coreRuns s = false ∨ s.dev.state ≠ .snapshotting ∨ r.xfer.closing = true ∨ stopWhole r s = false) : exec .snapshotStopEnd s = .next s := by
  by_cases hCore : coreRuns s = true
  · rw [exec_snapshotStopEnd hCore, runStopEnd_of_run hRun]
    refine congrArg _ (if_pos ?_)
    rcases h.resolve_left (by simp [hCore]) with hState | hClosing | hPart
    · simp [hState]
    · simp [hClosing]
    · simp [hPart]
  · exact effect_onlyIf_of_false (Bool.eq_false_iff.mpr hCore)

theorem exec_snapshotStopEnd_of_none (hRun : s.snap.run = none) : exec .snapshotStopEnd s = .next s := by
  by_cases hCore : coreRuns s = true
  · rw [exec_snapshotStopEnd hCore, runStopEnd, hRun]
  · exact effect_onlyIf_of_false (Bool.eq_false_iff.mpr hCore)

theorem exec_snapshotAbort (hCore : coreRuns s = true) : exec .snapshotAbort s = .next (runAbort s) :=
  effect_onlyIf_eq_next hCore rfl (runAbort_does s).pending_eq

/-- The snapshot is given up. -/
def runGone (s : State) : State := onSnap (fun x => { x with run := none }) s

theorem runAbort_of_run (hRun : s.snap.run = some r) : runAbort s =
    if s.dev.state = .snapshotting && decide (16 ≤ r.xfer.noAck) then finishCmd 0x60 stNoSnapshot 0 [] (leaveStop (runGone s)) else s := by
  rw [runAbort, hRun]
  rfl

/-- The stop ends in the state that it left, or in HELD (R272, R358). -/
theorem leaveStop_dev {d : DevState} (hLeft : s.dev.left = some d) :
    (leaveStop s).dev = { s.dev with left := none, state := if (acceptedOp s 0x52).isSome then .held else d } := by
  rw [leaveStop, hLeft]
  exact setState_dev _ _

theorem exec_snapshotAbort_of_not (h : coreRuns s = false ∨ s.snap.run = none ∨ s.dev.state ≠ .snapshotting
    ∨ ∃ r, s.snap.run = some r ∧ r.xfer.noAck < 16) : exec .snapshotAbort s = .next s := by
  by_cases hCore : coreRuns s = true
  · rw [exec_snapshotAbort hCore]
    cases hRun : s.snap.run with
    | none => rw [runAbort, hRun]
    | some r =>
      rw [runAbort_of_run hRun]
      refine congrArg _ (if_neg ?_)
      rcases (h.resolve_left (by simp [hCore])).resolve_left (by simp [hRun]) with hState | ⟨x, hx, hFew⟩
      · simp [hState]
      · rw [← Option.some.inj (hx.symm.trans hRun)]
        simp [hFew]
  · exact effect_onlyIf_of_false (Bool.eq_false_iff.mpr hCore)

/-! ### The proof record (R350) -/

theorem exec_proofRecordWrite {acked : Bool} (hCore : coreRuns s = true) : exec (.proofRecordWrite acked) s = .next (runProofRecord acked s) :=
  effect_onlyIf_eq_next hCore rfl (runProofRecord_does acked s).pending_eq

theorem exec_proofRecordWrite_of_none {acked : Bool} (h : coreRuns s = false ∨ s.snap.proofRecs = []) : exec (.proofRecordWrite acked) s = .next s := by
  by_cases hCore : coreRuns s = true
  · rw [exec_proofRecordWrite hCore, runProofRecord, h.resolve_left (by simp [hCore])]
  · exact effect_onlyIf_of_false (Bool.eq_false_iff.mpr hCore)

/-- The oldest record goes to the partner of its generation (R350). -/
def recordSent (b : List Byte) (s : State) : State :=
  sendPieces [firmPiece (partnerOf s (BitVec.ofNat 64 (fieldN b 0 8))) recordOff b] s

theorem runProofRecord_of_cons {acked : Bool} {b : List Byte} {n : Nat} {rest : List (List Byte × Nat)} (h : s.snap.proofRecs = (b, n) :: rest) :
    runProofRecord acked s
      = onSnap (fun x => { x with proofRecs := if acked || decide (15 ≤ n) then rest else (b, n + 1) :: rest }) (recordSent b s) := by
  rw [runProofRecord, h]
  rfl

end

/-- Settles O56. Partners and SNAPSHOT by the branches of their runs; the cut, a copy and the end are each `runPieces`, which changes of the
snapshots the running one and else the fabric. -/
theorem snapshotsTaken : Obligations.SnapshotsTaken := by
  unfold Obligations.SnapshotsTaken
  refine ⟨fun s a hIssued => ?_, fun s a hIssued => ?_, fun s r hCore hRun hDue hState => ?_, fun s h => ?_,
    fun s unit off len r hStack hRun hState hOpen hLock hPause => ?_, fun s unit off len => exec_snapshotCopy_of_idle, fun s r hRun => ?_,
    fun s => exec_snapshotStopEnd_of_none, fun s r d hCore hRun hState hLeft hMany => ?_, fun s => exec_snapshotAbort_of_not,
    fun s acked => exec_proofRecordWrite_of_none, fun s acked b n rest hCore hRecs => ?_⟩
  · intro c shared
    refine ⟨fun hShared hNot => ?_, fun hGoes => ?_⟩
    · refine completes_at_once rfl rfl hIssued (runPartners_takeSlot.trans (if_pos ?_)) fun t hDone hKept => ⟨hDone, hKept.snap_eq⟩
      rw [show partnersShare c s = true from hShared, hNot]
      rfl
    · refine completes_behind rfl rfl hIssued (runPartners_takeSlot.trans (if_neg ?_)) (onSnap_does _ _) fun t hDone hKept => ⟨hDone, ?_⟩
      · rcases hGoes with hNone | hAcked
        · rw [show partnersShare c s = false from hNone, Bool.false_and]
          exact Bool.false_ne_true
        · rw [hAcked, Bool.not_true, Bool.and_false]
          exact Bool.false_ne_true
      · rw [hKept.snap_eq, onSnap_snap, takeSlot_snap]
        rfl
  · intro c dst blocked
    have hFitting : snapshotFits c s = true → checked snapshotFits runSnapshot c (takeSlot a s) = _ := fun hFits =>
      (checked_of_fits (run := runSnapshot) ((snapshotFits_takeSlot (a := a) c).trans hFits)).trans runSnapshot_takeSlot
    refine ⟨fun hNot => ?_, fun hFits hUnset => ?_, fun hFits hSet hBlocked => ?_, fun hFits hSet hFree hNoPort => ?_,
      fun hFits hSet hFree hPorts => ?_⟩
    · exact completes_at_once rfl rfl hIssued (checked_of_not_fits ((snapshotFits_takeSlot c).trans hNot)) fun t hDone hKept => ⟨hDone, hKept.snap_eq⟩
    · exact completes_at_once rfl rfl hIssued ((hFitting hFits).trans (if_pos (by simp [hUnset]))) fun t hDone hKept => ⟨hDone, hKept.snap_eq⟩
    · exact completes_at_once rfl rfl hIssued ((hFitting hFits).trans ((if_neg (by simp [hSet])).trans (if_pos hBlocked)))
        fun t hDone hKept => ⟨hDone, hKept.snap_eq⟩
    · refine completes_at_once rfl rfl hIssued ((hFitting hFits).trans ((if_neg (by simp [hSet])).trans
        ((if_neg (Bool.eq_false_iff.mp hFree)).trans (if_pos ?_)))) fun t hDone hKept => ⟨hDone, hKept.snap_eq⟩
      rw [show portsTo s (nextPartner s) = [] from hNoPort]
      rfl
    · obtain ⟨t, hExec, hAccepted, hRun⟩ := snapshot_accepted hIssued hFits hSet hFree hPorts
      exact ⟨t, hExec, hAccepted, _, hRun, rfl, rfl, rfl, rfl⟩
  · have hStop := (exec_snapshotStop hCore).trans (congrArg _ (runStop_of_due hRun hDue hState))
    have hSent := runPieces_does (cutPieces r s) (cutMade r s)
    have hDev := hSent.dev_eq.trans (cutMade_dev r s)
    have hSnap := runPieces_snap (ps := cutPieces r s) (s := cutMade r s) (r := cutRun s r) (by rw [cutMade_snap])
    have hMay : maySend (cutMade r s) = maySend s := maySend_congr (by rw [cutMade_dev]) (cutMade_does r s).frame_eq
    rw [cutMade_snap, hMay] at hSnap
    exact ⟨_, hStop, by rw [hDev], by rw [hDev], by rw [hSnap], by rw [hSnap]; rfl, hSent.hbm_eq.trans (cutMade_does r s).hbm_eq⟩
  · by_cases hCore : coreRuns s = true
    · rw [exec_snapshotStop hCore, runStop_of_not_due (h.resolve_left (by simp [hCore]))]
    · exact effect_onlyIf_of_false (Bool.eq_false_iff.mpr hCore)
  · obtain ⟨hSends, hWaits⟩ := runPieces_fabric (copyPieces unit off len r s) s
    exact ⟨_, (exec_snapshotCopy hStack).trans (congrArg _ (runSnapCopy_of_run hRun hState hOpen hLock hPause)), runPieces_snap hRun,
      (runPieces_does _ s).hbm_eq, hSends, hWaits⟩
  · intro x dst whole
    refine ⟨fun hCore hState hOpen hWhole => ?_, exec_snapshotStopEnd_of_not hRun⟩
    have hGoes : ¬ (s.dev.state != .snapshotting || r.xfer.closing || !stopWhole r s) = true := by
      rw [show stopWhole r s = true from hWhole, hOpen, hState]
      decide
    have hSent := runPieces_does (closingPieces r s) (runCloses r s)
    have hCloses : Does [.snap] s (runCloses r s) := onRun_does _ s
    have hRunning := runCloses_run hRun
    have hSnap := runPieces_snap (ps := closingPieces r s) (s := runCloses r s) (congrArg SnapSt.run hRunning)
    rw [hRunning, maySend_congr (congrArg DevSt.fabric hCloses.dev_eq) hCloses.frame_eq] at hSnap
    exact ⟨_, (exec_snapshotStopEnd hCore).trans (congrArg _ ((runStopEnd_of_run hRun).trans (if_neg hGoes))), hSnap,
      hSent.hbm_eq.trans hCloses.hbm_eq, hSent.dev_eq.trans hCloses.dev_eq⟩
  · have hEnds : (decide (s.dev.state = .snapshotting) && decide (16 ≤ r.xfer.noAck)) = true := by simp [hState, hMany]
    have hFinish := finishCmd_does 0x60 stNoSnapshot 0 [] (leaveStop (runGone s))
    have hDev := hFinish.dev_eq.trans (leaveStop_dev (s := runGone s) hLeft)
    exact ⟨_, (exec_snapshotAbort hCore).trans (congrArg _ ((runAbort_of_run hRun).trans (if_pos hEnds))),
      hFinish.snap_eq.trans (leaveStop_does (runGone s)).snap_eq, by rw [hDev], by rw [hDev]; rfl⟩
  · have hSent : Does [.fabric] s (recordSent b s) := sendPieces_does _ s
    refine ⟨_, (exec_proofRecordWrite hCore).trans (congrArg _ (runProofRecord_of_cons hRecs)), ?_, rfl, hSent.hbm_eq⟩
    rw [onSnap_snap, hSent.snap_eq]
    simp

end Sys2Proof.Machine
end
section
/-! PROOFS. RESTORE and its outcomes, the requests of other chips, PROOF and EXPORT_SNAPSHOT (R300 to R302, R340, R347, R351 to R353, R355 to R358,
R407). -/

namespace Sys2Proof.Machine
open Sys2Proof

set_option Elab.async false

/-! ### RESTORE (R300, R351) -/

section
variable {s : State} {a : Arrival}

/-- The identity whose generation a RESTORE asks for: the one that its map turns into the chip's own address, or that address (R351). -/
def restoreIdentity (m : List (Nat × Nat)) (me : Nat) : Nat :=
  match m.find? (fun e => e.2 = me) with
  | some e => e.1
  | none => me

/-- The restore that a command asks for (R300). -/
def restoreAsked (c : Cmd) (s : State) : RestRun where
  source := c.n 0 2
  identity := restoreIdentity (restoreMap c) s.dev.fabric
  previous := decide (c.n 2 1 = 1)
  map := restoreMap c
  proof := false
  got := []

/-- The ACCEPTED RESTORE's state, in RESTORING (R300). -/
def restoring (a : Arrival) (s : State) : State :=
  setState .restoring (onSnap (fun x => { x with restore := some (restoreAsked (cmdOf a s) s) }) ((cmdOf a s).accept 0x62 [] (takeSlot a s)))

/-- What the chip asks its source. -/
def restoreQuestion (c : Cmd) (s : State) : OutMsg := .restoreAsk (c.n 0 2) (restoreAsked c s).identity (c.n 2 1) (ownAsk s)

theorem runRestore_takeSlot : runRestore (cmdOf a s) (takeSlot a s) = emit [restoreQuestion (cmdOf a s) s] (restoring a s) := by
  rw [← takeSlot_reads (f := restoreQuestion (cmdOf a s)) (fun _ _ _ _ => rfl) a s, restoring,
    ← takeSlot_reads (f := restoreAsked (cmdOf a s)) (fun _ _ _ _ => rfl) a s]
  rfl

theorem restoring_behind : Does [.portA, .portB, .dev, .flash, .life, .snap] ((cmdOf a s).accept 0x62 [] (takeSlot a s)) (restoring a s) :=
  does_by (setState_does _ _) (does_mono (onSnap_does _ _) (by decide))

theorem restoring_does : Does [.portA, .portB, .mbx, .dev, .flash, .life, .snap] s (restoring a s) :=
  does_by restoring_behind (does_by (Cmd_accept_does _ _ _ _) (does_mono (takeSlot_does a s) (by decide)))

theorem restore_outcome (hIssued : issued .restore s a = true) : completes .restore s fun t => t.dev.state = .restoring ∧ slotAccepted a 0x62 [] s t
    ∧ t.snap.restore = some (restoreAsked (cmdOf a s) s) ∧ t.fabric.out = s.fabric.out ++ [restoreQuestion (cmdOf a s) s] := by
  have hEmit := emit_does [restoreQuestion (cmdOf a s) s] (restoring a s)
  have hSlots : SameSlots ((cmdOf a s).accept 0x62 [] (takeSlot a s)) (emit [restoreQuestion (cmdOf a s) s] (restoring a s)) :=
    ((SameSlots.of_does (onSnap_does _ _)).trans (.setState _ _)).trans (.of_does hEmit)
  refine ⟨_, exec_of_issued rfl rfl hIssued runRestore_takeSlot (hEmit.pending_eq.trans restoring_does.pending_eq), ?_, ?_, ?_, ?_⟩
  · rw [hEmit.dev_eq, restoring, setState_dev]
  · exact slotAccepted_of_sameSlots (accept_accepted 0x62 [] a s) hSlots (congrArg MbxSt.accepted (hEmit.mbx_eq.trans restoring_behind.mbx_eq))
  · rw [hEmit.snap_eq, restoring, (setState_does _ _).snap_eq]
    rfl
  · exact congrArg (fun f : FabricSt => f.out ++ _) restoring_does.fabric_eq

end

/-! ### The end of a restore (R351, R352, R407) -/

section
variable {s : State} {r : RestRun} {b : List Byte}

/-- The restore is no longer under way. -/
def restoreGone (s : State) : State := onSnap (fun x => { x with restore := none }) s

theorem exec_restoreDone {data : List Byte} (hCore : coreRuns s = true) (hPlaces : ownPlacesRun s = true) :
    exec (.restoreDone data) s = .next (runRestoreDone data s) :=
  effect_onlyIf_eq_next (by rw [hCore, hPlaces]; rfl) rfl (runRestoreDone_does data s).pending_eq

theorem runRestoreDone_of_restore {data : List Byte} (hRestore : s.snap.restore = some r) :
    runRestoreDone data s = if r.proof then endRollback r (arrivedBytes r data) s else endRestore r (arrivedBytes r data) s := by
  rw [runRestoreDone, hRestore]

theorem endRestore_of_not_restoring (h : s.dev.state ≠ .restoring) : endRestore r b s = s := if_pos (bne_iff_ne.mpr h)

theorem exec_restoreDone_of_idle {data : List Byte} (h : coreRuns s = false ∨ ownPlacesRun s = false ∨ s.snap.restore = none
    ∨ ((∃ r, s.snap.restore = some r ∧ r.proof = false) ∧ s.dev.state ≠ .restoring)) : exec (.restoreDone data) s = .next s := by
  by_cases hRuns : (coreRuns s && ownPlacesRun s) = true
  · obtain ⟨hCore, hPlaces⟩ := (Bool.and_eq_true _ _).mp hRuns
    rw [exec_restoreDone hCore hPlaces]
    rcases (h.resolve_left (by simp [hCore])).resolve_left (by simp [hPlaces]) with hNone | ⟨⟨r, hRestore, hProof⟩, hState⟩
    · rw [runRestoreDone, hNone]
    · rw [runRestoreDone_of_restore hRestore, hProof, if_neg Bool.false_ne_true, endRestore_of_not_restoring hState]
  · exact effect_onlyIf_of_false (Bool.eq_false_iff.mpr hRuns)

/-- The chip back in LOADED, with the command's answer (R300). -/
def backToLoaded (status reason : Nat) (s : State) : State := finishCmd 0x62 status reason [] (setState .loaded (restoreGone s))

theorem backToLoaded_outcome (status reason : Nat) (s : State) : let t := backToLoaded status reason s
    t.dev.state = .loaded ∧ t.snap = { s.snap with restore := none } ∧ t.hbm = s.hbm ∧ t.step = s.step := by
  intro t
  have hState : Does [.portA, .portB, .dev, .flash, .life] (restoreGone s) (setState .loaded (restoreGone s)) := setState_does _ _
  have hDoes : Does [.portA, .portB, .dev, .flash, .life, .mbx] (restoreGone s) t := does_by (finishCmd_does _ _ _ _ _) (does_mono hState (by decide))
  have hDev : t.dev = (setState .loaded (restoreGone s)).dev := (finishCmd_does 0x62 status reason [] _).dev_eq
  exact ⟨by rw [hDev, setState_dev], hDoes.snap_eq, hDoes.hbm_eq, hDoes.step_eq⟩

/-- The generation that has arrived takes its place, and the chip is HELD on it (R352). -/
def restoredOn (g : GenHdr) (r : RestRun) (b : List Byte) (s : State) : State :=
  let t := installGen r.map g b (restoreGone s)
  finishCmd 0x62 stDone 0 (leBytes 8 t.step.record.applied.toNat) (setState .held (onLife (fun l => { l with restores := l.restores + 1 }) t))

theorem endRestore_of_none (hState : s.dev.state = .restoring) (hGen : arrivedGen r b = none) : endRestore r b s = backToLoaded stNoSnapshot 0 s := by
  simp only [endRestore, hState, hGen]
  rfl

/-- A generation that has arrived is taken when its size, its tensors and its owned tiles are the image's (R351). -/
theorem endRestore_of_some {g : GenHdr} (hState : s.dev.state = .restoring) (hGen : arrivedGen r b = some g) :
    endRestore r b s = if g.bytes != genBytes s || !sameTensors g b s then backToLoaded stRefusedFit 0x0601 s else restoredOn g r b s := by
  simp only [endRestore, hState, hGen]
  rfl

theorem setState_life_now (d : DevState) (s : State) : (setState d s).life.now = s.life.now := by
  unfold setState
  split
  · rfl
  extract_lets old dev s1 s2
  have hLife : s2.life = s.life := (does_ite (does_refl _ _) (recordEvent_does _ _ _) : Does [.flash] s1 s2).life_eq
  split
  · change s2.life.now = s.life.now
    rw [hLife]
  · exact congrArg LifeSt.now hLife

theorem restoredOn_outcome (g : GenHdr) (r : RestRun) (b : List Byte) (s : State) : let t := restoredOn g r b s
    t.dev.state = .held ∧ t.step.record = readStepRec (sliceB b tablesOff g.tables) ∧ t.step.regen = true
      ∧ t.snap.nextGen = g.generation + 1 ∧ t.snap.latestGen = some g.latest ∧ t.snap.restore = none ∧ t.fabric.stalled = []
      ∧ t.life.now.restores = s.life.now.restores + 1 := by
  intro t
  let v := installGen r.map g b (restoreGone s)
  let w := onLife (fun l => { l with restores := l.restores + 1 }) v
  have hFinish : Does [.portA, .portB, .mbx] (setState .held w) t := finishCmd_does _ _ _ _ _
  have hHeld := setState_does .held w
  have hStep : t.step = v.step := hFinish.step_eq.trans hHeld.step_eq
  have hSnap : t.snap = v.snap := hFinish.snap_eq.trans hHeld.snap_eq
  have hLife : v.life = s.life := (installGen_does r.map g b (restoreGone s)).life_eq
  refine ⟨by rw [hFinish.dev_eq, setState_dev], by rw [hStep]; rfl, by rw [hStep]; rfl, by rw [hSnap]; rfl, by rw [hSnap]; rfl, by rw [hSnap]; rfl,
    by rw [hFinish.fabric_eq, hHeld.fabric_eq]; rfl, ?_⟩
  rw [hFinish.life_eq, setState_life_now, onLife_now, hLife]

/-! ### The end of a proof's rollback (R355, R356) -/

theorem endRollback_of_no_proof (hProof : s.step.proof = none) : endRollback r b s = restoreGone s := by
  rw [endRollback, hProof]
  rfl

theorem endRollback_of_failed {p : ProofSt} (hProof : s.step.proof = some p) (hFailed : p.combined.isSome = true) :
    endRollback r b s = endFailed r b p s := by
  simp only [endRollback, hProof, hFailed]
  rfl

/-- The rollback behind a failed proof ends it (R356). -/
theorem endFailed_outcome (p : ProofSt) : let t := endFailed r b p s
    t.step.proof = none ∧ t.step.regen = true ∧ t.snap.restore = none := by
  unfold endFailed
  extract_lets v t
  have hFinish : Does [.portA, .portB, .mbx] (onStep (fun x => { x with proof := none, regen := true }) v) t := finishCmd_does _ _ _ _ _
  have hGone : v.snap.restore = none := by
    unfold v
    split <;> rfl
  exact ⟨by rw [hFinish.step_eq]; rfl, by rw [hFinish.step_eq]; rfl, by rw [hFinish.snap_eq]; exact hGone⟩

/-- The generation that arrives is taken, but by a member that was restored since it last ran: it stands on that generation already (R355). -/
def rollbackTaken (g : GenHdr) (b : List Byte) (s : State) : State :=
  if s.step.regen && decide (s.snap.nextGen = g.generation + 1) then restoreGone s else installGen [] g b s

theorem rollbackTaken_outcome (g : GenHdr) (b : List Byte) (s : State) : let t := rollbackTaken g b s
    t.snap.restore = none ∧ t.step.regen = true ∧ (s.step.regen = false → t.step.record = readStepRec (sliceB b tablesOff g.tables)) := by
  unfold rollbackTaken
  split
  next hStands =>
    have hRegen : s.step.regen = true := ((Bool.and_eq_true _ _).mp hStands).1
    exact ⟨rfl, hRegen, fun h => nomatch hRegen.symm.trans h⟩
  next => exact ⟨rfl, rfl, fun _ => rfl⟩

theorem endRollback_of_some {p : ProofSt} {g : GenHdr} (hProof : s.step.proof = some p) (hRuns : p.combined = none) (hGen : arrivedGen r b = some g) :
    endRollback r b s = onStep (fun x => { x with proof := some (withRecord g b p) }) (rollbackTaken g b s) := by
  simp only [endRollback, hProof, hRuns, hGen]
  rfl

/-- Without the generation asked for the member asks for the previous one, or the proof ends (R355). -/
theorem endRollback_of_none {p : ProofSt} (hProof : s.step.proof = some p) (hRuns : p.combined = none) (hGen : arrivedGen r b = none) :
    endRollback r b s = if !r.previous && decide (0 < (s.snap.latestGen.getD 0).toNat) then askProof (s.snap.latestGen.getD 0 - 1) true s
      else finishCmd 0x63 stNoSnapshot 0 [] (onStep (fun x => { x with proof := none }) (restoreGone s)) := by
  simp only [endRollback, hProof, hRuns, hGen]
  rfl

theorem rollback_outcomes (hProofRun : r.proof = true) (hRestore : s.snap.restore = some r) {data : List Byte} (hCore : coreRuns s = true)
    (hPlaces : ownPlacesRun s = true) : exec (.restoreDone data) s = .next (endRollback r (arrivedBytes r data) s) := by
  rw [exec_restoreDone hCore hPlaces, runRestoreDone_of_restore hRestore, if_pos hProofRun]

end

/-! ### Requests of other chips (R347, R351 to R353, R358) -/

section
variable {s : State} {ask : RestoreAsk} {id which : Nat} {mapped : Bool}

/-- A request that is answered with NO_SNAPSHOT (R351). -/
def noSnapshotFor (chip : Nat) (s : State) : State := emit [.restoreAnswer chip stNoSnapshot 0] s

theorem exec_restoreRequest (hCore : coreRuns s = true) (hSlots : slotsRun s = true) :
    exec (.restoreRequest ask id which mapped) s = .next (runRequest ask id which mapped s) :=
  effect_onlyIf_eq_next (by rw [hCore, hSlots]; rfl) rfl (runRequest_does ask id which mapped s).pending_eq

theorem exec_restoreRequest_of_still (h : coreRuns s = false ∨ slotsRun s = false) : exec (.restoreRequest ask id which mapped) s = .next s := by
  refine effect_onlyIf_of_false ?_
  rcases h with h | h
  · rw [h, Bool.false_and]
  · rw [h, Bool.and_false]

theorem runRequest_of_no_slot (hSlot : slotOfId s id = none) : runRequest ask id which mapped s = noSnapshotFor ask.chip s := by
  rw [runRequest, hSlot]
  rfl

theorem runRequest_of_held {n : Nat} {g : GenHdr} (hSlot : slotOfId s id = some n) (hHeld : heldIn s n = some g) :
    runRequest ask id which mapped s = if !servable g which then noSnapshotFor ask.chip s
      else if !fits s n g ask then emit [.restoreAnswer ask.chip stRefusedFit 0x0601] s else beginServe n g ask id mapped s := by
  simp only [runRequest, hSlot, hHeld]
  rfl

/-- What is served to a chip, with pieces that leave or wait. -/
theorem servePieces_snap (q : Nat) (ps : List SlotPiece) (s : State) : (servePieces q ps s).snap = { s.snap with serves := s.snap.serves.map fun v =>
    if v.requester = q then { v with xfer := v.xfer.send (ps.map fun p => { p with served := true }) (maySend s) } else v } := by
  unfold servePieces
  dsimp only
  split
  · exact (sendPieces_does _ _).snap_eq
  · rfl

/-- What a chip takes up anew stands alone under its name. -/
theorem map_served_concat (q : Nat) (f : ServeRun → ServeRun) (v : ServeRun) (hv : v.requester = q) (l : List ServeRun) :
    (l.filter (fun v => v.requester != q) ++ [v]).map (fun v => if v.requester = q then f v else v) = l.filter (fun v => v.requester != q) ++ [f v] := by
  rw [List.map_append, List.map_singleton, if_pos hv]
  refine congrArg (· ++ [f v]) ((List.map_congr_left fun x hx => if_neg ?_).trans (List.map_id _))
  exact bne_iff_ne.mp (List.mem_filter.mp hx).2

/-- The header, not complete yet, the proof record and the tables of a generation that is served (R347, R352). -/
def serveHead (n : Nat) (g : GenHdr) (chip : Nat) (s : State) : List SlotPiece :=
  [firmPiece chip 0 ({ g with complete := false } : GenHdr).image, firmPiece chip recordOff (sliceB (slotImage s n) recordOff 64),
    firmPiece chip tablesOff (sliceB (slotImage s n) tablesOff g.tables)]

theorem beginServe_snap (n : Nat) (g : GenHdr) (ask : RestoreAsk) (id : Nat) (mapped : Bool) (s : State) : (beginServe n g ask id mapped s).snap
    = { s.snap with serves := s.snap.serves.filter (fun v => v.requester != ask.chip) ++ [{ requester := ask.chip, identity := id, slot := n, mapped := mapped, xfer := Xfer.new.send ((serveHead n g ask.chip s).map fun p => { p with served := true }) (maySend s) }] } := by
  refine (servePieces_snap ask.chip (serveHead n g ask.chip s) _).trans ?_
  rw [onSnap_snap]
  dsimp only
  rw [map_served_concat ask.chip _ _ rfl]
  rfl

/-- A part of a generation that is served (R352). -/
theorem serveCopy_of_held {unit off len base size : Nat} {v : ServeRun} {g : GenHdr} (hBase : slotBase s v.slot = some (base, size))
    (hHeld : heldIn s v.slot = some g) : serveCopy unit off len (some v) s
      = servePieces v.requester ((slotPieces base off (Nat.min len (g.bytes - off)) unit).map (fun p =>
        { dst := v.requester, off := p.1, bytes := hbmBytes s p.2.1 p.2.2, bad := badWords s p.2.1 p.2.2, copy := true, served := true })) s := by
  simp only [serveCopy, hBase, hHeld]

theorem servePieces_keeps_held (q : Nat) (ps : List SlotPiece) (s : State) :
    (servePieces q ps s).snap.held0 = s.snap.held0 ∧ (servePieces q ps s).snap.held1 = s.snap.held1 := by
  rw [servePieces_snap]
  exact ⟨rfl, rfl⟩

/-- What was served is served no longer. -/
def serveGone (v : ServeRun) (s : State) : State := onSnap (fun x => { x with serves := x.serves.filter (· != v) }) s

theorem endServe_of_damaged {v : ServeRun} {g : GenHdr} (hHeld : heldIn s v.slot = some g) (h : g.usable = false ∨ g.identity ≠ v.identity) :
    endServe v s = noSnapshotFor v.requester (serveGone v s) := by
  have hEnds : (!g.usable || g.identity != v.identity) = true := by
    rcases h with h | h
    · simp [h]
    · simp [h]
  rw [endServe, hHeld]
  exact if_pos hEnds

theorem endServe_of_usable {v : ServeRun} {g : GenHdr} (hHeld : heldIn s v.slot = some g) (hUsable : g.usable = true) (hId : g.identity = v.identity) :
    (16 ≤ v.xfer.noAck → endServe v s = serveGone v s)
      ∧ (v.xfer.noAck < 16 → v.xfer.closed v.requester = true → endServe v s
        = if v.mapped then setHeld v.slot (some { g with identity := v.requester }) (serveGone v s) else serveGone v s) := by
  have hGoes : ¬ (!g.usable || g.identity != v.identity) = true := by simp [hUsable, hId]
  rw [endServe, hHeld]
  exact ⟨fun hMany => (if_neg hGoes).trans (if_pos hMany),
    fun hFew hClosed => (if_neg hGoes).trans ((if_neg (Nat.not_le.mpr hFew)).trans (if_pos hClosed))⟩

end

/-! ### PROOF (R301, R355) -/

section
variable {s : State} {a : Arrival}

/-- The chip is a member of the group that a PROOF names. -/
def proofMember (c : Cmd) (s : State) : Bool := groupHere s (c.n 0 2)

theorem proofMember_takeSlot (c : Cmd) : proofMember c (takeSlot a s) = proofMember c s :=
  takeSlot_reads (f := proofMember c) (fun _ _ _ _ => rfl) a s

/-- A proof on a generation, before its rollback (R355). -/
def proofBegun (g now : W64) : ProofSt where
  generation := g
  recPresent := false
  recDigest := 0
  recLoss := 0
  recSkip := false
  sinceTick := now
  rolledBack := false
  replaying := false
  combined := none
  exposed := false
  result := []
  hdr := none

/-- The ACCEPTED PROOF's state with the proof begun. -/
def proofAccepted (g : W64) (a : Arrival) (s : State) : State :=
  onStep (fun x => { x with proof := some (proofBegun g s.tick.count) }) ((cmdOf a s).accept 0x63 [] (takeSlot a s))

theorem runProof_of_unset (h : s.snap.partnersSet = false) : runProof (cmdOf a s) (takeSlot a s) = (cmdOf a s).finish stWrongState [] (takeSlot a s) := by
  rw [runProof, takeSlot_snap, h]
  rfl

theorem runProof_of_no_generation (hSet : s.snap.partnersSet = true) (hNone : s.snap.latestGen = none) :
    runProof (cmdOf a s) (takeSlot a s) = (cmdOf a s).finish stNoSnapshot [] (takeSlot a s) := by
  simp only [runProof, takeSlot_snap, hSet, hNone]
  rfl

theorem runProof_of_generation {g : W64} (hSet : s.snap.partnersSet = true) (hSome : s.snap.latestGen = some g) :
    runProof (cmdOf a s) (takeSlot a s) = askProof g false (proofAccepted g a s) := by
  simp only [runProof, takeSlot_snap, hSet, hSome, takeSlot_tick]
  rfl

theorem proofAccepted_behind (g : W64) : Does [.step] ((cmdOf a s).accept 0x63 [] (takeSlot a s)) (proofAccepted g a s) := onStep_does _ _

theorem proofAccepted_does (g : W64) : Does [.portA, .portB, .mbx, .step] s (proofAccepted g a s) :=
  does_by (proofAccepted_behind g) (does_by (Cmd_accept_does _ _ _ _) (does_mono (takeSlot_does a s) (by decide)))

/-- The member asks the partner of the generation for it. -/
theorem askProof_snap (g : W64) (previous : Bool) (u : State) : (askProof g previous u).snap = { u.snap with
    restore := some { source := partnerOf u g, identity := u.dev.fabric, previous := previous, map := [], proof := true, got := [] } } := rfl

theorem proof_outcome {g : W64} (hIssued : issued .proof s a = true) (hMember : proofMember (cmdOf a s) s = true) (hSet : s.snap.partnersSet = true)
    (hSome : s.snap.latestGen = some g) : completes .proof s fun t => slotAccepted a 0x63 [] s t ∧ t.step.proof = some (proofBegun g s.tick.count)
      ∧ t.snap.restore = some { source := partnerOf s g, identity := s.dev.fabric, previous := false, map := [], proof := true, got := [] } := by
  have hRun := (checked_of_fits (run := runProof) ((proofMember_takeSlot (a := a) (cmdOf a s)).trans hMember)).trans
    (runProof_of_generation hSet hSome)
  have hAsk := askProof_does g false (proofAccepted g a s)
  have hDoes := proofAccepted_does (a := a) (s := s) g
  refine ⟨_, exec_of_issued rfl rfl hIssued hRun (hAsk.pending_eq.trans hDoes.pending_eq), ?_, ?_, ?_⟩
  · exact slotAccepted_of_sameSlots (accept_accepted 0x63 [] a s) ((SameSlots.of_does (proofAccepted_behind g)).trans (.of_does hAsk))
      (congrArg MbxSt.accepted (hAsk.mbx_eq.trans (proofAccepted_behind g).mbx_eq))
  · rw [hAsk.step_eq]
    rfl
  · rw [askProof_snap, partnerOf, hDoes.snap_eq, hDoes.dev_eq]
    rfl

/-! ### EXPORT_SNAPSHOT (R302, R357, R407) -/

theorem exec_exportSnapshot (hSlots : slotsRun s = true) : exec .exportSnapshot s = effect (command 0x0064 exportArgs (checked exportFits runExport)) s :=
  effect_onlyIf_of_true hSlots

theorem exportFits_takeSlot (c : Cmd) : exportFits c (takeSlot a s) = exportFits c s :=
  takeSlot_reads (f := exportFits c) (fun _ _ _ _ => rfl) a s

/-- The generation in the slot that an EXPORT_SNAPSHOT names. -/
def exportHeld (c : Cmd) (s : State) : Option GenHdr := heldIn s (c.n 2 1)

/-- A slot without the generation that is named lets every range pass; the answer is NO_SNAPSHOT. -/
theorem export_of_not_held {c : Cmd} {u : State}
    (h : exportHeld c u = none ∨ ∃ g, exportHeld c u = some g ∧ (g.identity ≠ c.n 0 2 ∨ g.usable = false)) :
    checked exportFits runExport c u = c.finish stNoSnapshot [] u := by
  unfold exportHeld at h
  rcases h with hNone | ⟨g, hSome, hOther⟩
  · have hFits : exportFits c u = true := by rw [exportFits, hNone]
    rw [checked_of_fits hFits, runExport, hNone]
  · have hFits : exportFits c u = true := by
      rw [exportFits, hSome]
      rcases hOther with h | h <;> simp [h]
    have hNot : ¬ (decide (g.identity = c.n 0 2) && g.usable) = true := by
      rcases hOther with h | h <;> simp [h]
    rw [checked_of_fits hFits, runExport, hSome]
    exact if_neg hNot

theorem export_of_held {c : Cmd} {u : State} {g : GenHdr} (hFits : exportFits c u = true) (hHeld : exportHeld c u = some g)
    (hId : g.identity = c.n 0 2) (hUsable : g.usable = true) :
    checked exportFits runExport c u = deliver 0x64 (c.n 3 1) (c.n 8 8) (slotImage u (c.n 2 1)) (c.accept 0x64 [] u) := by
  rw [checked_of_fits hFits, runExport, show heldIn u (c.n 2 1) = some g from hHeld]
  exact if_pos (by simp [hId, hUsable])

theorem export_outcomes (hIssued : issued .exportSnapshot s a = true) (hSlots : slotsRun s = true) : let c := cmdOf a s
    (exportFits c s = false → completes .exportSnapshot s fun t => slotDone a stBadArgument 0 [] s t ∧ t.mbx.dma = s.mbx.dma)
      ∧ ((exportHeld c s = none ∨ ∃ g, exportHeld c s = some g ∧ (g.identity ≠ c.n 0 2 ∨ g.usable = false)) →
        completes .exportSnapshot s fun t => slotDone a stNoSnapshot 0 [] s t ∧ t.mbx.dma = s.mbx.dma)
      ∧ (∀ g, exportHeld c s = some g → g.identity = c.n 0 2 → g.usable = true → exportFits c s = true →
        completes .exportSnapshot s fun t => slotAccepted a 0x64 [] s t ∧ t.mbx.dma = s.mbx.dma ++ [{
          opcode := 0x64, binding := c.n 3 1, write := true, offset := c.n 8 8, bytes := slotImage s (c.n 2 1) }]) := by
  intro c
  have hHeldOf : exportHeld c (takeSlot a s) = exportHeld c s := takeSlot_reads (f := exportHeld c) (fun _ _ _ _ => rfl) a s
  have hImageOf := takeSlot_reads (f := fun u => slotImage u (c.n 2 1)) (fun _ _ _ _ => rfl) a s
  have hDma : ∀ t, Does [.portA, .portB] (takeSlot a s) t → t.mbx.dma = s.mbx.dma := fun t hKept => by rw [hKept.mbx_eq, takeSlot_dma]
  refine ⟨fun hNot => ?_, fun hOther => ?_, fun g hHeld hId hUsable hFits => ?_⟩
  · exact completes_behind (exec_exportSnapshot hSlots) rfl hIssued (checked_of_not_fits ((exportFits_takeSlot c).trans hNot)) (does_refl [] _)
      fun t hDone hKept => ⟨hDone, hDma t hKept⟩
  · rw [← hHeldOf] at hOther
    exact completes_behind (exec_exportSnapshot hSlots) rfl hIssued (export_of_not_held hOther) (does_refl [] _)
      fun t hDone hKept => ⟨hDone, hDma t hKept⟩
  · rw [← hImageOf]
    exact completes_delivering (exec_exportSnapshot hSlots) rfl hIssued
      (export_of_held ((exportFits_takeSlot c).trans hFits) (hHeldOf.trans hHeld) hId hUsable)

end

/-- Settles O57. A restore ends by the generation that arrived; a rollback by the proof that runs; a request by what its slot holds; PROOF and
EXPORT_SNAPSHOT by the branches of their runs. -/
theorem restoreAndProof : Obligations.RestoreAndProof := by
  unfold Obligations.RestoreAndProof
  refine ⟨fun s a hIssued => ?_, fun s b => exec_restoreDone_of_idle, fun s data r hCore hPlaces hRestore hProof hState => ?_,
    fun s data r hCore hPlaces hRestore hProof => ?_, fun s ask id which mapped hCore hSlots => ?_, fun s ask id which mapped =>
    exec_restoreRequest_of_still, fun s unit off len v base size g hStack hLock hPause hRun hOpen hBase hHeld => ?_, fun s v g hHeld => ?_,
    fun s a hIssued => ?_, fun s hStill => exec_exportSnapshot_of_still hStill, fun s a hIssued hSlots => export_outcomes hIssued hSlots⟩
  · obtain ⟨t, hExec, hState, hAccepted, hRestore, hOut⟩ := restore_outcome hIssued
    exact ⟨t, hExec, hState, hAccepted, _, hRestore, rfl, rfl, rfl, rfl, rfl, hOut⟩
  · intro b
    have hExec : exec (.restoreDone data) s = .next (endRestore r b s) := by
      rw [exec_restoreDone hCore hPlaces, runRestoreDone_of_restore hRestore, hProof, if_neg Bool.false_ne_true]
    refine ⟨fun hNone => ⟨_, hExec, ?_⟩, fun g hGen => ⟨_, hExec, ?_⟩⟩
    · rw [endRestore_of_none hState hNone]
      exact backToLoaded_outcome _ _ s
    · dsimp only
      rw [endRestore_of_some hState hGen]
      split
      next hFits =>
        obtain ⟨hBytes, hTensors⟩ := hFits
        rw [if_neg (by simp [hBytes, hTensors])]
        exact restoredOn_outcome g r b s
      next hUnfit =>
        rw [if_pos (by simpa [imp_iff_not_or] using hUnfit)]
        exact backToLoaded_outcome _ _ s
  · intro b
    have hExec : exec (.restoreDone data) s = .next (endRollback r b s) := rollback_outcomes hProof hRestore hCore hPlaces
    refine ⟨fun hNone => hExec.trans (congrArg _ (endRollback_of_no_proof hNone)), fun p hSome hFailed => ⟨_, hExec, ?_⟩,
      fun p g hSome hRuns hGen => ⟨_, hExec, ?_⟩, fun p hSome hRuns hGen => ?_⟩
    · rw [endRollback_of_failed hSome hFailed]
      exact endFailed_outcome p
    · obtain ⟨hGone, hRegen, hRecord⟩ := rollbackTaken_outcome g b s
      rw [endRollback_of_some hSome hRuns hGen]
      exact ⟨rfl, hGone, hRegen, hRecord⟩
    · intro latest
      have hEnd := endRollback_of_none hSome hRuns hGen
      refine ⟨fun hLatest hPositive => hExec.trans (congrArg _ (hEnd.trans (if_pos (by simp [hLatest]; exact hPositive)))), fun hOver => ?_⟩
      have hStops : ¬ (!r.previous && decide (0 < (s.snap.latestGen.getD 0).toNat)) = true := by
        rcases hOver with h | h
        · simp [h]
        · rw [show s.snap.latestGen.getD 0 = 0 from h]
          simp
      have hFinish := finishCmd_does 0x63 stNoSnapshot 0 [] (onStep (fun x => { x with proof := none }) (restoreGone s))
      exact ⟨_, hExec.trans (congrArg _ (hEnd.trans (if_neg hStops))), by rw [hFinish.step_eq]; rfl, by rw [hFinish.snap_eq]; rfl⟩
  · have hExec := exec_restoreRequest (ask := ask) (id := id) (which := which) (mapped := mapped) hCore hSlots
    refine ⟨fun hNone => hExec.trans (congrArg _ (runRequest_of_no_slot hNone)), fun n g hSlot hHeld => ?_⟩
    have hRun := runRequest_of_held (ask := ask) (which := which) (mapped := mapped) hSlot hHeld
    refine ⟨fun hNot => hExec.trans (congrArg _ (hRun.trans (if_pos (by simp [hNot])))), fun hServes => ⟨_, hExec, ?_⟩⟩
    have hServed := hRun.trans (if_neg (by simp [hServes]))
    dsimp only
    split
    next hFits =>
      rw [hServed, if_neg (by simp [hFits])]
      exact ⟨(beginServe_does n g ask id mapped s).hbm_eq, beginServe_snap n g ask id mapped s⟩
    next hUnfit => exact hServed.trans (if_pos (by simp [hUnfit]))
  · have hRuns := runSnapCopy_of_serve (unit := unit) (off := off) (len := len) hLock hPause (hRun.imp_right .inl)
    rw [hOpen, serveCopy_of_held hBase hHeld] at hRuns
    obtain ⟨hHeld0, hHeld1⟩ := servePieces_keeps_held v.requester _ s
    exact ⟨_, (exec_snapshotCopy hStack).trans (congrArg _ hRuns), rfl, (servePieces_does _ _ s).hbm_eq, hHeld0, hHeld1⟩
  · intro gone
    refine ⟨endServe_of_damaged hHeld, fun hUsable hId => (endServe_of_usable hHeld hUsable hId).1, fun hUsable hId => (endServe_of_usable hHeld hUsable hId).2⟩
  · intro member
    have hFits : member = true → _ := fun hMember : member = true =>
      checked_of_fits (run := runProof) ((proofMember_takeSlot (a := a) (cmdOf a s)).trans hMember)
    refine ⟨fun hNot => ?_, fun hMember hUnset => ?_, fun hMember hSet hNone => ?_, fun g hMember hSet hSome => ?_⟩
    · exact completes_at_once rfl rfl hIssued (checked_of_not_fits (fits := proofMember) ((proofMember_takeSlot _).trans hNot))
        fun t hDone hKept => ⟨hDone, hKept.step_eq, hKept.snap_eq⟩
    · exact completes_at_once rfl rfl hIssued ((hFits hMember).trans (runProof_of_unset hUnset))
        fun t hDone hKept => ⟨hDone, hKept.step_eq, hKept.snap_eq⟩
    · exact completes_at_once rfl rfl hIssued ((hFits hMember).trans (runProof_of_no_generation hSet hNone))
        fun t hDone hKept => ⟨hDone, hKept.step_eq, hKept.snap_eq⟩
    · obtain ⟨t, hExec, hAccepted, hBegun, hAsked⟩ := proof_outcome hIssued hMember hSet hSome
      exact ⟨t, hExec, hAccepted, ⟨_, hBegun, rfl, rfl⟩, hAsked⟩

end Sys2Proof.Machine
end

section
/-! PROOFS. The front of the queue, and the memories after reset. -/

namespace Sys2Proof.Machine
open Sys2Proof

/-- Settles O1: `step` takes the front command by its own case split on the queue. -/
theorem stepRunsFrontCommand : Obligations.StepRunsFrontCommand := by
  intro s
  refine ⟨fun c rest hQueue => ?_, fun hQueue => ?_⟩
  · rw [step, hQueue]
  · rw [step, hQueue]

/-- Settles O2: after reset the three memories and their staging list no byte. -/
theorem resetMemoriesCanonical : Obligations.ResetMemoriesCanonical :=
  ⟨⟨rfl, rise_nil, rise_nil, rise_nil, rise_nil⟩, ⟨rfl, rise_nil⟩, rfl⟩

end Sys2Proof.Machine
end

section
/-! PROOFS. Which flits leave a port, and what credits, delivery credits and received flits do (R311 to R313, R318, R320, R323, R324, R327, R370, R407). -/

namespace Sys2Proof.Machine
open Sys2Proof

/-! ### Flits leave a port (R312, R313, R320, R323) -/

/-- The flits `new` have left a port and stay in its replay buffer: they take the next sequence numbers, and each data flit takes a credit. -/
structure Sends (c : Clasp) (new : List Flit) (r : Leaving) : Prop where
  bytes : r.flits = new.map (Flit.leaves c)
  seqs : new.map (·.seq) = (List.range new.length).map fun i => c.txSeq + BitVec.ofNat 16 i
  credits : r.port.credits + (new.filter fun f => f.kind = 1).length = c.credits
  port : r.port = { c with
    txSeq := c.txSeq + BitVec.ofNat 16 new.length
    replay := c.replay ++ new
    credits := r.port.credits
    ctl := r.port.ctl
    queue := r.port.queue }

theorem Sends.none (c : Clasp) : Sends c [] { port := c, flits := [], msgs := [] } where
  bytes := rfl
  seqs := rfl
  credits := rfl
  port := by simp

theorem Sends.append {c : Clasp} {new more : List Flit} {x r : Leaving} (h : Sends c new x) (h' : Sends x.port more r) (msgs : List OutMsg) :
    Sends c (new ++ more) { port := r.port, flits := x.flits ++ r.flits, msgs := msgs } where
  bytes := by
    have hAck : ∀ f : Flit, f.leaves x.port = f.leaves c := fun f => by rw [Flit.leaves, h.port, Flit.leaves]
    rw [List.map_append, h.bytes, h'.bytes]
    exact congrArg _ (List.map_congr_left fun f _ => hAck f)
  seqs := by
    have hNext : x.port.txSeq = c.txSeq + BitVec.ofNat 16 new.length := by rw [h.port]
    rw [List.map_append, List.length_append, List.range_add, List.map_append, List.map_map, h.seqs, h'.seqs, hNext]
    simp only [Function.comp_def, BitVec.ofNat_add, BitVec.add_assoc]
  credits := by
    rw [List.filter_append, List.length_append, ← h.credits, ← h'.credits]
    dsimp only
    omega
  port := by
    dsimp only
    rw [h'.port, h.port]
    simp only [List.append_assoc, List.length_append, BitVec.ofNat_add, BitVec.add_assoc]

theorem waitingFlits_eq (c : Clasp) : waitingFlits c = c.ctl.length + (c.queue.map fun x => x.parts.length + 1).sum := by
  rw [waitingFlits, List.sum_eq_foldl]

theorem length_ctlTake_le (n : Nat) (seen : List (List Byte)) (q : List Queued) : (ctlTake n seen q).2.length ≤ q.length := by
  induction q generalizing n seen with
  | nil => cases n <;> exact Nat.le_refl _
  | cons x q ih =>
    cases n with
    | zero => exact Nat.le_refl _
    | succ n =>
      rw [ctlTake]
      split
      · exact Nat.le_refl _
      · exact Nat.le_succ_of_le (ih n _)

/-- A control flit takes at least the oldest control packet. -/
theorem length_ctlTake_lt (n : Nat) (x : Queued) (q : List Queued) : (ctlTake (n + 1) [] (x :: q)).2.length < (x :: q).length := by
  have hFresh : x.parts.any ([] : List (List Byte)).contains = false := by simp
  rw [ctlTake, hFresh]
  exact Nat.lt_succ_of_le (length_ctlTake_le n _ q)

/-- At a flit boundary one flit leaves, and fewer wait behind it. -/
theorem nextFlit_sends {c : Clasp} {x : Leaving} (h : nextFlit c = some x) : (∃ f, Sends c [f] x) ∧ waitingFlits x.port < waitingFlits c := by
  unfold nextFlit at h
  split at h
  · cases h
  split at h
  next y q hCtl =>
    cases h
    refine ⟨⟨{ seq := c.txSeq, kind := 2, payload := _ }, ⟨rfl, by simp, rfl, rfl⟩⟩, ?_⟩
    have hShorter := length_ctlTake_lt 14 y q
    rw [← hCtl] at hShorter
    rw [waitingFlits_eq, waitingFlits_eq]
    exact Nat.add_lt_add_right hShorter _
  next y rest hCtl hQueue =>
    split at h
    · cases h
    next hCredit =>
      cases h
      refine ⟨⟨{ seq := c.txSeq, kind := 1, payload := _ }, ⟨rfl, by simp, Nat.sub_add_cancel (Nat.pos_of_ne_zero hCredit), rfl⟩⟩, ?_⟩
      rw [waitingFlits_eq, waitingFlits_eq, hQueue]
      dsimp only [sendFlit]
      split
      · simp only [List.map_cons, List.sum_cons]
        omega
      next hMore =>
        have hParts : 1 < y.parts.length := Nat.lt_of_not_le fun hLe => hMore (List.isEmpty_iff.mpr (List.drop_eq_nil_of_le hLe))
        simp only [List.map_cons, List.sum_cons, List.length_drop]
        omega
  · cases h

/-- Nothing leaves a port whose replay buffer is full, at which nothing waits, or that has data flits but no credit for one. -/
theorem of_nextFlit_none {c : Clasp} (h : nextFlit c = none) : (c.ctl = [] ∧ (c.queue = [] ∨ c.credits = 0)) ∨ 2048 ≤ c.replay.length := by
  unfold nextFlit at h
  split at h
  next hFull => exact .inr hFull
  split at h
  · cases h
  next hCtl hQueue =>
    split at h
    next hCredit => exact .inl ⟨hCtl, .inr hCredit⟩
    · cases h
  next hCtl hQueue => exact .inl ⟨hCtl, .inl hQueue⟩

theorem leaveFlits_sends (n : Nat) (c : Clasp) : ∃ new, Sends c new (leaveFlits n c) := by
  induction n generalizing c with
  | zero => exact ⟨[], .none c⟩
  | succ n ih =>
    rw [leaveFlits]
    split
    · exact ⟨[], .none c⟩
    next x hNext =>
      obtain ⟨⟨f, hFirst⟩, -⟩ := nextFlit_sends hNext
      obtain ⟨new, hRest⟩ := ih x.port
      exact ⟨[f] ++ new, hFirst.append hRest _⟩

theorem leaveFlits_exhausts (n : Nat) (c : Clasp) (h : waitingFlits c ≤ n) : nextFlit (leaveFlits n c).port = none := by
  induction n generalizing c with
  | zero =>
    cases hNext : nextFlit c with
    | none => exact hNext
    | some x => exact absurd (nextFlit_sends hNext).2 (by omega)
  | succ n ih =>
    rw [leaveFlits]
    split
    next hNext => exact hNext
    next x hNext =>
      have hFewer := (nextFlit_sends hNext).2
      exact ih x.port (by omega)

theorem leaveAll_idle {c : Clasp} (hCtl : c.ctl = []) (hQueue : c.queue = []) : leaveAll c = { port := c, flits := [], msgs := [] } := by
  rw [leaveAll, waitingFlits_eq, hCtl, hQueue]
  rfl

/-- What leaves a port at once: all that may leave it, and nothing where nothing waits (R320, R323; log entry 27). -/
theorem leaveAll_sends (c : Clasp) : ∃ new, Sends c new (leaveAll c) ∧ (c.ctl = [] → c.queue = [] → new = []) := by
  obtain ⟨new, hSends⟩ := leaveFlits_sends (waitingFlits c) c
  refine ⟨new, hSends, fun hCtl hQueue => List.map_eq_nil_iff.mp (hSends.bytes.symm.trans ?_)⟩
  exact congrArg Leaving.flits (leaveAll_idle hCtl hQueue)

theorem leaveAll_exhausts (c : Clasp) : ((leaveAll c).port.ctl = [] ∧ ((leaveAll c).port.queue = [] ∨ (leaveAll c).port.credits = 0))
    ∨ 2048 ≤ (leaveAll c).port.replay.length := of_nextFlit_none (leaveFlits_exhausts _ c le_rfl)

/-! ### Ports, and nothing else -/

/-- Of the state only the Clasp ports change, and what has left the chip. -/
def PortsOnly (s t : State) : Prop :=
  t = { s with fabric := { s.fabric with ports := t.fabric.ports, out := t.fabric.out, wire := t.fabric.wire } }

theorem PortsOnly.trans {s t u : State} (h : PortsOnly s t) (h' : PortsOnly t u) : PortsOnly s u := by
  unfold PortsOnly at *
  rw [h', h]

theorem onClasp_portsOnly (p : Nat) (f : Clasp → Clasp) (s : State) : PortsOnly s (onClasp p f s) := rfl

theorem drainPort_of_live {p : Nat} {s : State} (h : portLive p s = true) : drainPort p s =
    emit (leaveAll (claspOf p s)).msgs (emitFlits p (leaveAll (claspOf p s)).flits (onClasp p (fun _ => (leaveAll (claspOf p s)).port) s)) := by
  rw [drainPort, h]
  rfl

theorem drainPort_of_stopped {p : Nat} {s : State} (h : portLive p s = false) : drainPort p s = s := by
  rw [drainPort, h]
  rfl

theorem drainPort_portsOnly (p : Nat) (s : State) : PortsOnly s (drainPort p s) := by
  unfold drainPort
  split
  · rfl
  · rfl

theorem sendOn_portsOnly (p : Nat) (m : OutMsg) (s : State) : PortsOnly s (sendOn p m s) := by
  unfold sendOn
  split
  · exact (onClasp_portsOnly _ _ _).trans (drainPort_portsOnly _ _)
  · rfl

theorem TrafficOnly.sends {s t : State} (h : TrafficOnly s t) : t.fabric.sends = s.fabric.sends := by rw [h]

theorem claspOf_drainPort_of_live {p : Nat} {s : State} (h : portLive p s = true) :
    claspOf p (drainPort p s) = (leaveAll (claspOf p s)).port := by
  rw [drainPort_of_live h]
  exact claspOf_onClasp_same p (fun _ => (leaveAll (claspOf p s)).port) s

/-- Of its own port a drain sends flits, where the region's clocks run. -/
theorem claspOf_drainPort_sends (p : Nat) (s : State) : ∃ new r, Sends (claspOf p s) new r ∧ claspOf p (drainPort p s) = r.port
    ∧ ((claspOf p s).ctl = [] → (claspOf p s).queue = [] → new = []) := by
  cases hLive : portLive p s with
  | false => exact ⟨[], _, .none _, by rw [drainPort_of_stopped hLive], fun _ _ => rfl⟩
  | true =>
    obtain ⟨new, hSends, hIdle⟩ := leaveAll_sends (claspOf p s)
    exact ⟨new, _, hSends, claspOf_drainPort_of_live hLive, hIdle⟩

/-! ### CREDIT (R312, R313, R320, R323, R407) -/

/-- A port with the credits that come back (R323). -/
def credited (port freed : Nat) (s : State) : State := onClasp port (fun c => { c with credits := Nat.min 2048 (c.credits + freed) }) s

theorem exec_credit (port freed : Nat) (s : State) :
    exec (.credit port freed) s = effect (onlyIf (claspUp (claspOf port s)) fun s => drainPort port (credited port freed s)) s := rfl

section
variable {port freed : Nat} {s : State} (hUp : claspUp (claspOf port s) = true)
include hUp

theorem exec_credit_of_stopped (hLive : portLive port s = false) : exec (.credit port freed) s = .next (credited port freed s) := by
  rw [exec_credit, effect_onlyIf_of_true hUp]
  exact effect_eq_next (drainPort_of_stopped hLive) rfl

theorem exec_credit_of_live : exec (.credit port freed) s = .next (drainPort port (credited port freed s)) := by
  rw [exec_credit, effect_onlyIf_of_true hUp]
  exact effect_eq_next rfl (drainPort_does _ _).pending_eq

end

theorem claspOf_credited (port freed : Nat) (s : State) :
    claspOf port (credited port freed s) = { claspOf port s with credits := Nat.min 2048 ((claspOf port s).credits + freed) } :=
  claspOf_onClasp_same _ _ _

theorem wire_drainPort_of_live {p : Nat} {s : State} (h : portLive p s = true) :
    (drainPort p s).fabric.wire = s.fabric.wire ++ (leaveAll (claspOf p s)).flits.map fun b => (p, b) := by
  rw [drainPort_of_live h]
  rfl

theorem drained_exhausts {p : Nat} {s : State} (h : portLive p s = true) :
    ((claspOf p (drainPort p s)).ctl = [] ∧ ((claspOf p (drainPort p s)).queue = [] ∨ (claspOf p (drainPort p s)).credits = 0))
      ∨ 2048 ≤ (claspOf p (drainPort p s)).replay.length := by
  rw [claspOf_drainPort_of_live h]
  exact leaveAll_exhausts _

/-- The flits that leave a live port, by what they leave of it and by their bytes on the wire. -/
theorem drained_sends {p : Nat} {s : State} (h : portLive p s = true) : ∃ new : List Flit,
    (claspOf p (drainPort p s)).replay = (claspOf p s).replay ++ new
    ∧ (drainPort p s).fabric.wire = s.fabric.wire ++ new.map (fun f => (p, f.leaves (claspOf p s)))
    ∧ new.map (·.seq) = (List.range new.length).map (fun i => (claspOf p s).txSeq + BitVec.ofNat 16 i)
    ∧ (claspOf p (drainPort p s)).txSeq = (claspOf p s).txSeq + BitVec.ofNat 16 new.length
    ∧ (claspOf p (drainPort p s)).credits + (new.filter (fun f => f.kind = 1)).length = (claspOf p s).credits := by
  obtain ⟨new, hSends, -⟩ := leaveAll_sends (claspOf p s)
  rw [claspOf_drainPort_of_live h, wire_drainPort_of_live h, hSends.bytes, List.map_map]
  exact ⟨new, by rw [hSends.port], rfl, hSends.seqs, by rw [hSends.port], hSends.credits⟩

/-! ### DELIVERY_CREDIT (R324, R327, R407) -/

section
variable {port dst src n : Nat} {frame : W32} {s : State}

theorem runDeliveryCredit_of_silent (hSilent : claspUp (claspOf port s) = false ∨ portLive port s = false) :
    runDeliveryCredit port dst src frame n s = s := by
  unfold runDeliveryCredit
  rw [if_pos]
  rcases hSilent with hSilent | hSilent
  · simp [hSilent]
  · simp [hSilent]

section
variable (hUp : claspUp (claspOf port s) = true) (hLive : portLive port s = true)
include hUp hLive

/-- One for this chip. -/
theorem runDeliveryCredit_of_mine (hAddress : s.dev.fabric ≠ 0xFFFF) : runDeliveryCredit port s.dev.fabric src frame n s
    = if frame = frameNo s then onFabric (fun f => { f with sends := ackSends f.sends src n }) s else s := by
  unfold runDeliveryCredit
  rw [if_neg (by simp [hUp, hLive]), if_pos (by simp [hAddress])]

section
variable (hOther : dst ≠ s.dev.fabric ∨ s.dev.fabric = 0xFFFF)
include hOther

/-- One for another chip. -/
theorem runDeliveryCredit_of_way {p : Nat} (hWay : pickPort s (routeMask s dst) src dst 0 = some p) :
    runDeliveryCredit port dst src frame n s = sendOn p (.delivery (some p) dst src frame n) s := by
  unfold runDeliveryCredit
  rw [if_neg (by simp [hUp, hLive]), if_neg (by simpa using fun hAddress => hOther.resolve_right hAddress), hWay]

theorem runDeliveryCredit_of_no_way (hWay : pickPort s (routeMask s dst) src dst 0 = none) : runDeliveryCredit port dst src frame n s = s := by
  unfold runDeliveryCredit
  rw [if_neg (by simp [hUp, hLive]), if_neg (by simpa using fun hAddress => hOther.resolve_right hAddress), hWay]

end
end
end

/-! ### FLIT_RECEIVED (R311 to R313, R318) -/

/-- A port whose FEC decoder has counted the codeword that ends in a flit, if one does (R311, R318, R370). -/
def fecCounted (word : Option FecWord) (c : Clasp) : Clasp := { c with
  fecBad := match word with
    | some w => if w.bad then hold32 (c.fecBad + 1) else c.fecBad
    | none => c.fecBad
  fecOk := match word with
    | some w => if w.bad = false ∧ ∃ k ∈ w.symbols, k ≠ 0 then hold32 (c.fecOk + 1) else c.fecOk
    | none => c.fecOk
  laneFec := match word with
    | some w => if w.bad then c.laneFec else (List.range 8).map (fun l => c.laneFec.getD l 0 + w.symbols.getD l 0)
    | none => c.laneFec }

theorem claspOf_countFec (p : Nat) (word : Option FecWord) (s : State) : claspOf p (countFec p word s) = fecCounted word (claspOf p s) := by
  cases word with
  | none => rfl
  | some w =>
    rw [countFec, claspOf_onClasp_same, fecCounted]
    cases hBad : w.bad with
    | true => simp
    | false =>
      by_cases hCorrected : ∃ k ∈ w.symbols, k ≠ 0
      · have hSome : w.symbols.all (· = 0) = false := by simpa using hCorrected
        simp [hCorrected, hSome]
      · have hNone : w.symbols.all (· = 0) = true := by simpa using hCorrected
        simp [hCorrected, hNone]

theorem countFec_portsOnly (p : Nat) (word : Option FecWord) (s : State) : PortsOnly s (countFec p word s) := by cases word <;> rfl

/-- A data or control flit with the awaited number advances it; idle flits, and those of the kind that R312 does not name, carry none. -/
def takeAwaited (p : Nat) (flit : List Byte) (x : State) : State :=
  if (fieldN flit 4 1 % 4 = 1 ∨ fieldN flit 4 1 % 4 = 2) ∧ fieldN flit 0 2 = (claspOf p x).rxSeq.toNat then
    takeFlit p (fieldN flit 4 1 % 4) flit x
  else x

/-- A port whose codeword has been counted, and which has been told what the other end has received (R312, R313). -/
def acknowledged (flit : List Byte) (word : Option FecWord) (p : Nat) (s : State) : State :=
  takeAck p (BitVec.ofNat 16 (fieldN flit 2 2)) (countFec p word s)

section
variable {p : Nat} {flit : List Byte} {bad : Bool} {word : Option FecWord} {s : State}

theorem runFlit_of_down (h : claspUp (claspOf p s) = false) : runFlit p flit bad word s = s := by
  unfold runFlit
  rw [h]
  rfl

section
variable (hUp : claspUp (claspOf p s) = true)
include hUp

theorem runFlit_of_damaged (hBad : bad = true ∨ flitCrcOk flit = false) : runFlit p flit bad word s = dropFlit p (countFec p word s) := by
  have hDamaged : (bad || !flitCrcOk flit) = true := by simpa using hBad
  unfold runFlit
  rw [hUp, hDamaged]
  rfl

theorem runFlit_of_intact (hBad : bad = false) (hCrc : flitCrcOk flit = true) : runFlit p flit bad word s =
    takeAwaited p flit (if bitOf (fieldN flit 4 1) 2 then takeNak p (acknowledged flit word p s) else acknowledged flit word p s) := by
  unfold runFlit takeAwaited
  rw [hUp, hBad, hCrc]
  dsimp only [acknowledged]
  by_cases hNumbered : fieldN flit 4 1 % 4 = 1 ∨ fieldN flit 4 1 % 4 = 2
  · have hKind : (fieldN flit 4 1 % 4 = 0 || fieldN flit 4 1 % 4 = 3) = false := by
      simp only [Bool.or_eq_false_iff, decide_eq_false_iff_not]
      omega
    simp only [hKind, hNumbered, true_and]
    rfl
  · have hKind : (fieldN flit 4 1 % 4 = 0 || fieldN flit 4 1 % 4 = 3) = true := by
      simp only [Bool.or_eq_true, decide_eq_true_eq]
      omega
    simp only [hKind, hNumbered, false_and]
    rfl

end

theorem claspOf_takeAwaited (flit : List Byte) (s : State) (p : Nat) :
    let taken := (fieldN flit 4 1 % 4 = 1 ∨ fieldN flit 4 1 % 4 = 2) ∧ fieldN flit 0 2 = (claspOf p s).rxSeq.toNat
    claspOf p (takeAwaited p flit s) = { claspOf p s with
      rxSeq := if taken then (claspOf p s).rxSeq + 1 else (claspOf p s).rxSeq
      rx := if taken ∧ fieldN flit 4 1 % 4 = 1 then (claspOf p s).rx ++ sliceB flit 8 (Nat.min 244 (fieldN flit 6 2)) else (claspOf p s).rx } := by
  intro taken
  unfold takeAwaited
  by_cases hTaken : taken
  · rw [if_pos hTaken, takeFlit, claspOf_onClasp_same]
    simp only [hTaken, true_and, if_true]
  · rw [if_neg hTaken]
    simp only [hTaken, false_and, if_false]

theorem takeAwaited_portsOnly (p : Nat) (flit : List Byte) (s : State) : PortsOnly s (takeAwaited p flit s) := by
  unfold takeAwaited
  split
  · exact onClasp_portsOnly _ _ _
  · rfl

theorem acknowledged_portsOnly (flit : List Byte) (word : Option FecWord) (p : Nat) (s : State) : PortsOnly s (acknowledged flit word p s) :=
  (countFec_portsOnly p word s).trans ((onClasp_portsOnly p _ _).trans (drainPort_portsOnly p _))

/-- The acknowledged flits leave the replay buffer, and flits that waited for its room may follow. -/
theorem claspOf_acknowledged (flit : List Byte) (word : Option FecWord) (p : Nat) (s : State) :
    let ack := BitVec.ofNat 16 (fieldN flit 2 2)
    let d := claspOf p (acknowledged flit word p s)
    (∃ new, d.replay = (claspOf p s).replay.filter (fun f => 0x8000 ≤ (ack - f.seq).toNat) ++ new
      ∧ ((claspOf p s).ctl = [] → (claspOf p s).queue = [] → new = []))
    ∧ d.ackSeq = ack ∧ d.rxSeq = (claspOf p s).rxSeq ∧ d.rx = (claspOf p s).rx ∧ d.fecOk = (fecCounted word (claspOf p s)).fecOk
    ∧ d.fecBad = (fecCounted word (claspOf p s)).fecBad ∧ d.laneFec = (fecCounted word (claspOf p s)).laneFec := by
  intro ack d
  obtain ⟨new, r, hSends, hPort, hIdle⟩ := claspOf_drainPort_sends p (onClasp p (fun c => { c with
    replays := if (dropAcked ack c.replay).length < c.replay.length then 0 else c.replays
    replay := dropAcked ack c.replay
    ackSeq := ack }) (countFec p word s))
  rw [claspOf_onClasp_same, claspOf_countFec] at hSends hIdle
  have hd : d = r.port := hPort
  rw [hd, hSends.port]
  exact ⟨⟨new, rfl, hIdle⟩, rfl, rfl, rfl, rfl, rfl, rfl⟩

/-- A damaged flit: the nak leaves in an idle flit, and of the port only the FEC counters move. -/
theorem dropFlit_outcome (p : Nat) (word : Option FecWord) (s : State) :
    let t := dropFlit p (countFec p word s)
    t.fabric.out = s.fabric.out ++ [.nak p ((claspOf p s).rxSeq - 1)]
    ∧ t.fabric.wire = s.fabric.wire ++ [(p, flitBytes 0 ((claspOf p s).rxSeq - 1) 0 true [])]
    ∧ claspOf p t = fecCounted word (claspOf p s) := by
  intro t
  have hLast : (claspOf p (countFec p word s)).rxSeq = (claspOf p s).rxSeq := by
    rw [claspOf_countFec]
    rfl
  have hOut : (countFec p word s).fabric.out = s.fabric.out := by cases word <;> rfl
  have hWire : (countFec p word s).fabric.wire = s.fabric.wire := by cases word <;> rfl
  refine ⟨?_, ?_, claspOf_countFec p word s⟩
  · rw [← hOut, ← hLast]
    rfl
  · rw [← hWire, ← hLast]
    rfl

end

/-! ### A nak (R313) -/

/-- A port that a nak has reached, with its event counted. -/
def nakCounted (p : Nat) (s : State) : State := countEvent .chip 0 (0x10 + p) (onClasp p (fun c => { c with retries := hold32 (c.retries + 1) }) s)

theorem claspOf_replayFlits (p q : Nat) (s : State) : claspOf q (replayFlits p s) = claspOf q s := by
  unfold replayFlits
  extract_lets c
  split
  · rfl
  · rfl

theorem replayFlits_out {p : Nat} {s : State} (h : (claspOf p s).replay ≠ []) :
    (replayFlits p s).fabric.out = s.fabric.out ++ [.replay p ((claspOf p s).replay.map (·.seq))] := by
  unfold replayFlits
  extract_lets c
  rw [if_neg (by simpa [c] using h)]
  rfl

section
variable {p : Nat} {s : State} (hUp : claspUp (claspOf p (nakCounted p s)) = true) (hReplay : (claspOf p (nakCounted p s)).replay ≠ [])
include hUp hReplay

theorem takeNak_of_replays (hRoom : (claspOf p (nakCounted p s)).replays < 16) :
    takeNak p s = replayFlits p (onClasp p (fun c => { c with replays := c.replays + 1 }) (nakCounted p s)) := by
  have hNotEmpty : (claspOf p (nakCounted p s)).replay.isEmpty = false := by simpa using hReplay
  change (if !claspUp (claspOf p (nakCounted p s)) || (claspOf p (nakCounted p s)).replay.isEmpty then _ else _) = _
  rw [hUp, hNotEmpty]
  exact if_neg (Nat.not_le.mpr hRoom)

theorem takeNak_of_spent (hSpent : 16 ≤ (claspOf p (nakCounted p s)).replays) : takeNak p s = linkFalls p (nakCounted p s) := by
  have hNotEmpty : (claspOf p (nakCounted p s)).replay.isEmpty = false := by simpa using hReplay
  change (if !claspUp (claspOf p (nakCounted p s)) || (claspOf p (nakCounted p s)).replay.isEmpty then _ else _) = _
  rw [hUp, hNotEmpty]
  exact if_pos hSpent

end

theorem enabled_of_claspUp {c : Clasp} (h : claspUp c = true) : c.enabled = true := by
  unfold claspUp at h
  exact (Bool.and_eq_true_iff.mp h).1

theorem claspOf_linkFalls {p : Nat} {s : State} (h : claspUp (claspOf p s) = true) : claspOf p (linkFalls p s)
    = { claspOf p s with state := 4, lanes := 0, byItself := true, retriesLeft := 3, ctl := [], queue := [] } := by
  rw [linkFalls, claspOf_onClasp_same, if_pos (enabled_of_claspUp h)]

/-- A nak has the replay buffer sent again; one that comes behind 16 replays without an intact arrival takes the link down. -/
theorem takeNak_outcome {p : Nat} {s : State} (hUp : claspUp (claspOf p (nakCounted p s)) = true) (hReplay : (claspOf p (nakCounted p s)).replay ≠ []) :
    ((claspOf p (nakCounted p s)).replays < 16 →
      (takeNak p s).fabric.out = (nakCounted p s).fabric.out ++ [.replay p ((claspOf p (nakCounted p s)).replay.map (·.seq))]
      ∧ (claspOf p (takeNak p s)).replay = (claspOf p (nakCounted p s)).replay
      ∧ (claspOf p (takeNak p s)).replays = (claspOf p (nakCounted p s)).replays + 1)
    ∧ (16 ≤ (claspOf p (nakCounted p s)).replays → (claspOf p (takeNak p s)).state = 4) := by
  refine ⟨fun hRoom => ?_, fun hSpent => ?_⟩
  · have hClasp := claspOf_onClasp_same p (fun c => { c with replays := c.replays + 1 }) (nakCounted p s)
    rw [takeNak_of_replays hUp hReplay hRoom, claspOf_replayFlits, hClasp]
    refine ⟨?_, rfl, rfl⟩
    rw [replayFlits_out (by rw [hClasp]; exact hReplay), hClasp]
    rfl
  · rw [takeNak_of_spent hUp hReplay hSpent, claspOf_linkFalls hUp]

/-! ### The obligation -/

theorem credit_outcome {port : Nat} {s : State} (freed : Nat) (hUp : claspUp (claspOf port s) = true) (hLive : portLive port s = true) :
    completes (.credit port freed) s fun t =>
      (∃ new : List Flit, (claspOf port t).replay = (claspOf port s).replay ++ new
        ∧ t.fabric.wire = s.fabric.wire ++ new.map (fun f => (port, f.leaves (claspOf port s)))
        ∧ new.map (·.seq) = (List.range new.length).map (fun i => (claspOf port s).txSeq + BitVec.ofNat 16 i)
        ∧ (claspOf port t).txSeq = (claspOf port s).txSeq + BitVec.ofNat 16 new.length
        ∧ (claspOf port t).credits + (new.filter (fun f => f.kind = 1)).length = Nat.min 2048 ((claspOf port s).credits + freed))
      ∧ (((claspOf port t).ctl = [] ∧ ((claspOf port t).queue = [] ∨ (claspOf port t).credits = 0)) ∨ 2048 ≤ (claspOf port t).replay.length)
      ∧ (∀ p, p ≠ port → claspOf p t = claspOf p s)
      ∧ PortsOnly s t := by
  have hStill : portLive port (credited port freed s) = true := hLive
  have hSends := drained_sends hStill
  rw [claspOf_credited] at hSends
  exact ⟨_, exec_credit_of_live hUp, hSends, drained_exhausts hStill,
    fun p hp => (claspOf_drainPort_ne hp _).trans (claspOf_onClasp_ne hp _ _), (onClasp_portsOnly _ _ _).trans (drainPort_portsOnly _ _)⟩

/-- Settles O34: a drain sends all that may leave (`leaveAll_exhausts`), each flit with its number and its credit (`Sends`), and the cases of the
two other commands exclude each other. -/
theorem creditsAndFlits : Obligations.CreditsAndFlits := by
  unfold Obligations.CreditsAndFlits
  intro only
  refine ⟨⟨fun s port freed hUp hLive => credit_outcome freed hUp hLive, fun s port freed hUp hLive => exec_credit_of_stopped hUp hLive,
    fun s port src frame n hUp hLive hAddress => ⟨fun hFrame => ?_, fun hFrame => ?_⟩,
    fun s port dst src frame n hUp hLive hOther => ⟨fun p hWay hUpP => ?_, fun hEnd => ?_⟩,
    fun s port hDown freed dst src frame n flit bad word => ⟨?_, ?_, ?_⟩,
    fun s port dst src frame n hStopped => effect_of_eq (runDeliveryCredit_of_silent (.inr hStopped))⟩,
    fun s p flit bad word hUp => ⟨fun hBad => ?_, fun hBad hCrc hNak => ?_, fun hBad hCrc hNak => ?_⟩,
    fun s p => ⟨fun hUp hReplay => (takeNak_outcome hUp hReplay).1, fun hUp hReplay => (takeNak_outcome hUp hReplay).2⟩⟩
  · exact effect_eq_next ((runDeliveryCredit_of_mine hUp hLive hAddress).trans (if_pos hFrame)) rfl
  · exact effect_eq_next ((runDeliveryCredit_of_mine hUp hLive hAddress).trans (if_neg hFrame)) rfl
  · exact ⟨_, effect_eq_next (runDeliveryCredit_of_way hUp hLive hOther hWay) (sendOn_does _ _ _).pending_eq, rfl, (sendOn_traffic _ _ _).sends, sendOn_portsOnly _ _ _,
      fun hLiveP hCtl hRoom => sendOn_emits_ctl rfl rfl hUpP hLiveP hCtl hRoom⟩
  · rcases hEnd with hEnd | ⟨p, hWay, hDownP⟩
    · exact effect_of_eq (runDeliveryCredit_of_no_way hUp hLive hOther hEnd)
    · exact effect_of_eq ((runDeliveryCredit_of_way hUp hLive hOther hWay).trans (sendOn_of_down hDownP))
  · rw [exec_credit]
    exact effect_onlyIf_of_false hDown
  · exact effect_of_eq (runDeliveryCredit_of_silent (.inl hDown))
  · exact effect_of_eq (runFlit_of_down hDown)
  · obtain ⟨hOut, hWire, hPort⟩ := dropFlit_outcome p word s
    refine ⟨_, effect_eq_next (runFlit_of_damaged hUp hBad) ((dropFlit_does _ _).pending_eq.trans (countFec_does _ _ _).pending_eq), hOut, hWire, ?_⟩
    rw [hPort]
    exact ⟨rfl, rfl, rfl, rfl, rfl, rfl⟩
  · have hRun := runFlit_of_intact (word := word) hUp hBad hCrc
    rw [if_neg (by simp [hNak])] at hRun
    have hOnly := (acknowledged_portsOnly flit word p s).trans (takeAwaited_portsOnly p flit _)
    refine ⟨_, effect_eq_next hRun (by rw [hOnly]), ?_⟩
    obtain ⟨hReplay, hAck, hSeq, hRx, hOk, hBadCount, hLanes⟩ := claspOf_acknowledged flit word p s
    intro d taken
    have hPort : d = _ := claspOf_takeAwaited flit (acknowledged flit word p s) p
    rw [hSeq, hRx] at hPort
    rw [hPort]
    exact ⟨rfl, rfl, hReplay, hAck, hOk, hBadCount, hLanes, hOnly⟩
  · have hRun := runFlit_of_intact (word := word) hUp hBad hCrc
    rw [if_pos hNak] at hRun
    exact effect_eq_next hRun ((congrArg State.pending hRun).symm.trans (runFlit_does p flit bad word s).pending_eq)

end Sys2Proof.Machine
end

section
/-! PROOFS. How links fall, retry, train and lose lanes (R314 to R316, R318, R327). -/

namespace Sys2Proof.Machine
open Sys2Proof

/-! ### A link that falls, and one that retries (R316, R327) -/

theorem exec_linkDown (p : Nat) (s : State) : exec (.linkDown p) s = effect (onlyIf (claspUp (claspOf p s)) (linkFalls p)) s := rfl

theorem linkDown_outcome {p : Nat} {s : State} (hUp : claspUp (claspOf p s) = true) : completes (.linkDown p) s fun t =>
    (claspOf p t).state = 4 ∧ (claspOf p t).lanes = 0 ∧ (claspOf p t).retriesLeft = 3 ∧ (claspOf p t).byItself = true
      ∧ (claspOf p t).ctl = [] ∧ (claspOf p t).queue = [] ∧ (∀ q, q ≠ p → claspOf q t = claspOf q s) ∧ t.fabric.out = s.fabric.out := by
  refine ⟨linkFalls p s, ?_, ?_⟩
  · rw [exec_linkDown, effect_onlyIf_of_true hUp]
    exact effect_eq_next rfl rfl
  · dsimp only
    rw [claspOf_linkFalls hUp]
    exact ⟨rfl, rfl, rfl, rfl, rfl, rfl, fun q hq => claspOf_onClasp_ne hq _ _, rfl⟩

/-- A port that waits to try again. -/
def mayRetry (c : Clasp) : Bool := c.enabled && c.state = 4 && c.byItself && 0 < c.retriesLeft

theorem runRetry_eq (p : Nat) (s : State) : runRetry p s = if mayRetry (claspOf p s) then
    beginTraining p (onClasp p (fun c => { c with retriesLeft := c.retriesLeft - 1 }) s) else s := rfl

theorem mayRetry_iff (c : Clasp) : mayRetry c = true ↔ c.enabled = true ∧ c.state = 4 ∧ c.byItself = true ∧ 0 < c.retriesLeft := by
  simp only [mayRetry, Bool.and_eq_true, decide_eq_true_eq, and_assoc]

theorem claspOf_beginTraining (p : Nat) (s : State) :
    claspOf p (beginTraining p s) = { claspOf p s with state := 1, lanes := 0, ctl := [], queue := [] } :=
  claspOf_onClasp_same p (fun c => { c with state := 1, lanes := 0, ctl := [], queue := [] }) s

theorem claspOf_beginTraining_ne {p q : Nat} (h : q ≠ p) (s : State) : claspOf q (beginTraining p s) = claspOf q s :=
  claspOf_onClasp_ne h (fun c => { c with state := 1, lanes := 0, ctl := [], queue := [] }) s

theorem linkRetry_outcome {p : Nat} {s : State} (h : mayRetry (claspOf p s) = true) : completes (.linkRetry p) s fun t =>
    (claspOf p t).state = 1 ∧ (claspOf p t).retriesLeft = (claspOf p s).retriesLeft - 1 ∧ (∀ q, q ≠ p → claspOf q t = claspOf q s)
      ∧ t.fabric.out = s.fabric.out ++ [.training p s.dev.uid s.dev.fabric (s.tick.aligned && !s.dev.unaligned)] := by
  have hRun := (runRetry_eq p s).trans (if_pos h)
  refine ⟨_, effect_eq_next hRun rfl, ?_, ?_, fun q hq => ?_, rfl⟩
  · rw [claspOf_beginTraining]
  · rw [claspOf_beginTraining, claspOf_onClasp_same]
  · rw [claspOf_beginTraining_ne hq, claspOf_onClasp_ne hq]

/-! ### Training (R314, R316, R318) -/

/-- What a training makes of its port: a link that locks too few lanes is DOWN, one above 1,000 ns is TOO_LONG. -/
def trained (r : TrainReport) (c : Clasp) : Clasp :=
  if r.locked = false ∨ laneCount r.lanes < 4 then { c with state := 4, lanes := 0, byItself := true }
  else if 1000 < r.delayNs then { c with state := 5, lanes := 0, delay := r.delayNs }
  else trainedClasp r c

theorem runTrained_fabric {p : Nat} {r : TrainReport} {s : State} (h : (claspOf p s).state = 1) :
    (runTrained p r s).fabric = (onClasp p (trained r) s).fabric := by
  have hTraining : ¬ ((claspOf p s).state != 1) = true := by simp [h]
  unfold runTrained
  rw [if_neg hTraining]
  by_cases hLocks : r.locked = false ∨ laneCount r.lanes < 4
  · have hFails : (!r.locked || decide (laneCount r.lanes < 4)) = true := by simpa using hLocks
    rw [if_pos hFails]
    simp only [onClasp, trained, if_pos hLocks]
  · have hHolds : ¬ (!r.locked || decide (laneCount r.lanes < 4)) = true := by simpa using hLocks
    rw [if_neg hHolds]
    by_cases hLong : 1000 < r.delayNs
    · simp only [onClasp, trained, if_neg hLocks, if_pos hLong]
    · simp only [noteMargin, onLife_fabric, onClasp, trained, if_neg hLocks, if_neg hLong]

theorem linkTrainingDone_outcome {p : Nat} {r : TrainReport} {s : State} (h : (claspOf p s).state = 1) :
    completes (.linkTrainingDone p r) s fun t => claspOf p t = trained r (claspOf p s) ∧ ∀ q, q ≠ p → claspOf q t = claspOf q s := by
  have hFabric := runTrained_fabric (r := r) h
  refine ⟨_, effect_eq_next rfl (runTrained_does p r s).pending_eq, ?_, fun q hq => ?_⟩
  · rw [claspOf_congr hFabric, claspOf_onClasp_same]
  · rw [claspOf_congr hFabric, claspOf_onClasp_ne hq]

theorem runTrained_of_not_training {p : Nat} {r : TrainReport} {s : State} (h : (claspOf p s).state ≠ 1) : runTrained p r s = s := by
  unfold runTrained
  rw [if_pos (bne_iff_ne.mpr h)]

/-! ### Lanes (R315) -/

/-- The lanes that are left without one of them. -/
def lanesLeft (c : Clasp) (lane : Nat) : Byte := c.lanes &&& ~~~(BitVec.ofNat 8 (p2 lane))

theorem claspUp_of_laneActive {p lane : Nat} {s : State} (h : laneActive p lane s = true) : claspUp (claspOf p s) = true :=
  (Bool.and_eq_true_iff.mp h).1

theorem removeLane_of_enough {p lane : Nat} {s : State} (h : 4 ≤ laneCount (lanesLeft (claspOf p s) lane)) : removeLane p lane s
    = replayFlits p (onClasp p (fun c => { c with lanes := lanesLeft (claspOf p s) lane, state := 3 }) s) := if_neg (Nat.not_lt.mpr h)

theorem removeLane_of_few {p lane : Nat} {s : State} (h : laneCount (lanesLeft (claspOf p s) lane) < 4) : removeLane p lane s = linkFalls p s :=
  if_pos h

theorem exec_laneLoss_of_active {p lane : Nat} {s : State} (h : laneActive p lane s = true) :
    exec (.laneLoss p lane) s = .next (countSimple .chip 0 (0x30 + p) false false true (removeLane p lane s)) :=
  effect_eq_next (if_pos h) ((countSimple_does _ _ _ _ _ _ _).pending_eq.trans (removeLane_does _ _ _).pending_eq)

/-! ### The obligation -/

/-- Settles O35: each command by the state of its port; a training by the three ends of `trained`. -/
theorem linksTrainAndFall : Obligations.LinksTrainAndFall := by
  refine ⟨fun s p => ⟨linkDown_outcome, fun hDown => effect_onlyIf_of_false hDown⟩, fun s p => ⟨fun hOn hDown hSelf hLeft => ?_, fun hNot => ?_⟩,
    fun s p r => ⟨fun hTraining => ?_, fun hNot => effect_of_eq (runTrained_of_not_training hNot)⟩,
    fun s p lane => ⟨fun hIdle => effect_of_eq (if_neg (by simp [hIdle])), fun hActive => ⟨exec_laneLoss_of_active hActive, fun hEnough => ?_, fun hFew => ?_⟩⟩⟩
  · exact linkRetry_outcome ((mayRetry_iff _).mpr ⟨hOn, hDown, hSelf, hLeft⟩)
  · have hStays : ¬ mayRetry (claspOf p s) = true := by
      rw [mayRetry_iff]
      rintro ⟨hOn, hDown, hSelf, hLeft⟩
      rcases hNot with hNot | hNot | hNot | hNot
      · exact absurd (hNot.symm.trans hOn) Bool.false_ne_true
      · exact hNot hDown
      · exact absurd (hNot.symm.trans hSelf) Bool.false_ne_true
      · exact absurd hNot (Nat.ne_of_gt hLeft)
    exact effect_of_eq ((runRetry_eq p s).trans (if_neg hStays))
  · obtain ⟨t, hExec, hPort, hOthers⟩ := linkTrainingDone_outcome (r := r) hTraining
    refine ⟨t, hExec, hOthers, fun hLocked hLanes hDelay => ?_, fun hLocked hLanes hDelay => ?_, fun hFails => ?_⟩
    · rw [hPort, trained, if_neg (by simp [hLocked, hLanes]), if_neg (Nat.not_lt.mpr hDelay), trainedClasp]
      exact ⟨rfl, rfl, rfl, rfl, rfl, rfl, rfl, rfl, rfl, rfl, rfl, rfl, rfl, rfl⟩
    · rw [hPort, trained, if_neg (by simp [hLocked, hLanes]), if_pos hDelay]
      exact ⟨rfl, rfl, rfl⟩
    · rw [hPort, trained, if_pos hFails]
      exact ⟨rfl, rfl, rfl⟩
  · rw [removeLane_of_enough hEnough, claspOf_replayFlits, claspOf_onClasp_same]
    exact ⟨rfl, rfl⟩
  · rw [removeLane_of_few hFew, claspOf_linkFalls (claspUp_of_laneActive hActive)]
    exact ⟨rfl, rfl⟩

end Sys2Proof.Machine
end

section
/-! PROOFS. What events and emergencies leave of the power control (R361 to R370, R392, R398). -/

namespace Sys2Proof.Machine
open Sys2Proof

theorem Does.power_eq {l : List Comp} {s t : State} (h : Does l s t) (hk : Comp.power ∉ l := by decide) : t.power = s.power := h.same hk

/-! ### What events keep, once for every relation that their steps keep (R361 to R370) -/

/-- A relation that holds across each step of an event: across what touches neither the frame nor the device nor the power control, and across
its actions. -/
structure EventSteps (R : State → State → Prop) : Prop where
  refl : ∀ s, R s s
  trans : ∀ {s t u}, R s t → R t u → R s u
  elsewhere : ∀ {l s t}, Does l s t → Comp.frame ∉ l → Comp.dev ∉ l → Comp.power ∉ l → R s t
  stop : ∀ i s, R s (stopCell i s)
  doubt : ∀ s, R s (inDoubt s)
  retrain : ∀ p s, R s (askRetrain p s)
  stand : ∀ l unit source forced s, R s (standFault l unit source forced s)
  severe : ∀ unit source forced action s, R s (severeAction unit source forced action s)

namespace EventSteps

section
variable {R : State → State → Prop} (h : EventSteps R)
include h

theorem severeNow (l : Level) (unit source : Nat) (forced : Bool) (action : Nat) (s : State) : R s (severeNow l unit source forced action s) := by
  unfold Machine.severeNow
  split
  · exact h.elsewhere (set_faults_does s _) (by decide) (by decide) (by decide)
  · exact h.severe unit source forced action s

theorem latchEvent (l : Level) (unit source : Nat) (forced early : Bool) (s : State) : R s (latchEvent l unit source forced early s).1 :=
  h.elsewhere (latchEvent_does l unit source forced early s) (by decide) (by decide) (by decide)

theorem eventAction (l : Level) (unit action : Nat) (s : State) : R s (eventAction l unit action s) := by
  unfold Machine.eventAction
  split_ifs
  · exact h.trans (h.stop unit s) (h.doubt _)
  · exact h.doubt s
  · exact h.refl s

theorem countSimple (l : Level) (unit source : Nat) (forced early act : Bool) (s : State) : R s (countSimple l unit source forced early act s) := by
  unfold Machine.countSimple
  extract_lets f action r t
  have hEvent : R s t := by
    unfold t
    split
    · exact h.trans (h.latchEvent l unit source forced early s) (h.eventAction l unit action _)
    · exact h.latchEvent l unit source forced early s
  split
  · exact h.trans hEvent (h.severeNow l unit source _ action t)
  · exact hEvent

theorem loseLane (p lane : Nat) (s : State) : R s (loseLane p lane s) := by
  unfold Machine.loseLane
  split
  · exact h.trans (h.elsewhere (removeLane_does p lane s) (by decide) (by decide) (by decide)) (h.countSimple _ _ _ _ _ _ _)
  · exact h.refl s

theorem dropNow (l : Level) (unit source action : Nat) (early : Bool) (s : State) : R s (dropNow l unit source action early s) := by
  unfold Machine.dropNow
  split
  · exact h.severeNow l unit source false action s
  · unfold dropWorstLane
    extract_lets c old
    split
    · exact h.refl s
    · split
      · exact h.retrain _ s
      · exact h.loseLane _ _ s

theorem countEvent (l : Level) (unit source : Nat) (s : State) : R s (countEvent l unit source s) := by
  have hLatch := h.latchEvent l unit source false false s
  unfold Machine.countEvent countEventWith
  dsimp only
  split_ifs
  · exact h.trans hLatch (h.dropNow l unit source _ false _)
  · exact hLatch
  · exact h.trans (h.stand l unit source false s) (h.countSimple l unit source false false true _)

end

end EventSteps

/-! ### Events: of the power control only the penalties of severe disagreements change (R370, R392) -/

def penalized (l : List Nat) (p : PowerSt) : PowerSt := { p with penal := l }

/-- Of the power control only the penalties change. -/
def PenalOnly (s t : State) : Prop := t.power = penalized t.power.penal s.power

namespace PenalOnly

theorem refl (s : State) : PenalOnly s s := rfl

theorem power {s t : State} (h : PenalOnly s t) : t.power = penalized t.power.penal s.power := h

theorem trans {s t u : State} (h : PenalOnly s t) (h' : PenalOnly t u) : PenalOnly s u := by
  unfold PenalOnly at *
  rw [h', h]
  rfl

theorem of_does {l : List Comp} {s t : State} (h : Does l s t) (hk : Comp.power ∉ l := by decide) : PenalOnly s t := by
  unfold PenalOnly
  rw [h.power_eq hk]
  rfl

theorem foldl {β : Type} {f : State → β → State} (hf : ∀ x b, PenalOnly x (f x b)) (xs : List β) (s : State) : PenalOnly s (xs.foldl f s) :=
  List.foldlRecOn (motive := PenalOnly s) xs f (refl s) fun _ h b _ => h.trans (hf _ b)

/-- A field that is not that of the penalties. -/
theorem field {s t : State} (h : PenalOnly s t) {β : Type} (f : PowerSt → β) (hf : ∀ l p, f (penalized l p) = f p) : f t.power = f s.power := by
  rw [h.power, hf]

end PenalOnly

theorem severeAction_penalOnly (unit source : Nat) (forced : Bool) (action : Nat) (s : State) :
    PenalOnly s (severeAction unit source forced action s) := by
  unfold severeAction
  split
  · extract_lets dev u
    have hStop : PenalOnly s (stopCell unit u) := rfl
    split
    · exact hStop.trans (.of_does (inDoubt_does _))
    · exact hStop
  · exact .of_does (askRetrain_does _ _)
  · exact .of_does (retirePc_does _ _ _)
  · rfl
  · rfl
  · rfl

theorem penalOnly_eventSteps : EventSteps PenalOnly where
  refl := .refl
  trans := .trans
  elsewhere h _ _ hk := .of_does h hk
  stop _ _ := rfl
  doubt s := .of_does (inDoubt_does s)
  retrain p s := .of_does (askRetrain_does p s)
  stand l unit source forced s := .of_does (standFault_does l unit source forced s)
  severe := severeAction_penalOnly

theorem countEvent_penalOnly (l : Level) (unit source : Nat) (s : State) : PenalOnly s (countEvent l unit source s) :=
  penalOnly_eventSteps.countEvent l unit source s

/-! ### Emergencies (R398) -/

theorem emergencyStop_power (s : State) : (emergencyStop s).power = { s.power with q := 0 } := by
  rw [emergencyStop, (inDoubt_does _).power_eq]
  rfl

/-- The power control in an emergency, but for penalties; `rth` is the resistance from before it. -/
def emergencyPower (rth : Frac) (p : PowerSt) : PowerSt :=
  { p with emergency := true, rthBefore := rth, quiet := 0, steadyFrame := false, q := 0 }

theorem declare_power (sp : Nat) (rise : Int) (s : State) :
    ∃ penal, (declare sp rise s).power = penalized penal (emergencyPower (rthOf s) s.power) := by
  unfold declare
  extract_lets s1
  have hStop : (emergencyStop s1).power = emergencyPower (rthOf s) s.power := emergencyStop_power s1
  unfold onlyIf
  split
  · have hEvent := countEvent_penalOnly .chip 0 8 (onLife (fun l => { l with emergencies := l.emergencies + 1 })
      (recordEvent 0x000C (leBytes 1 (sp / 16) ++ leBytes 1 (sp % 16) ++ leBytesI 2 rise) (emergencyStop s1)))
    rw [PenalOnly, onLife_power, (recordEvent_does _ _ _).power_eq, hStop] at hEvent
    exact ⟨_, hEvent⟩
  · exact ⟨_, hStop⟩

/-! ### A control step's sensors and detector (R391, R393, R397, R398) -/

/-- What the sensors and the detector of a control step leave of the power control; q_power moves only where an emergency is declared. -/
structure SenseKeeps (s t : State) : Prop where
  lastShares : t.power.lastShares = s.power.lastShares
  steps : t.power.steps = s.power.steps
  ticksNoQ : t.power.ticksNoQ = s.power.ticksNoQ
  stepsNoQ : t.power.stepsNoQ = s.power.stepsNoQ
  again : t.power.again = s.power.again
  emergency : s.power.emergency = true → t.power.emergency = true
  q : s.power.emergency = true ∨ t.power.emergency = false → t.power.q = s.power.q

namespace SenseKeeps

theorem of_eq {s t : State} (h : t.power = s.power) : SenseKeeps s t := by
  constructor <;> simp [h]

theorem of_penalOnly {s t : State} (h : PenalOnly s t) : SenseKeeps s t := by
  constructor <;> rw [h.power] <;> simp [penalized]

theorem trans {s t u : State} (h : SenseKeeps s t) (h' : SenseKeeps t u) : SenseKeeps s u where
  lastShares := h'.lastShares.trans h.lastShares
  steps := h'.steps.trans h.steps
  ticksNoQ := h'.ticksNoQ.trans h.ticksNoQ
  stepsNoQ := h'.stepsNoQ.trans h.stepsNoQ
  again := h'.again.trans h.again
  emergency hBefore := h'.emergency (h.emergency hBefore)
  q hQuiet := by
    rcases hQuiet with hBefore | hAfter
    · exact (h'.q (.inl (h.emergency hBefore))).trans (h.q (.inl hBefore))
    · have hBetween : t.power.emergency = false := by
        cases hEmergency : t.power.emergency with
        | false => rfl
        | true => exact absurd (hAfter.symm.trans (h'.emergency hEmergency)) Bool.false_ne_true
      exact (h'.q (.inr hAfter)).trans (h.q (.inr hBetween))

end SenseKeeps

theorem declare_senseKeeps {sp : Nat} {rise : Int} {s : State} (hQuiet : s.power.emergency = false) : SenseKeeps s (declare sp rise s) := by
  obtain ⟨penal, hPower⟩ := declare_power sp rise s
  constructor <;> rw [hPower] <;> simp [penalized, emergencyPower, hQuiet]

theorem detectRise_senseKeeps (s : State) : SenseKeeps s (detectRise s) := by
  unfold detectRise
  extract_lets rises s1
  have hNoisy : SenseKeeps s s1 := ⟨rfl, rfl, rfl, rfl, rfl, id, fun _ => rfl⟩
  split
  · exact hNoisy
  next hQuiet =>
    split
    · exact hNoisy.trans (declare_senseKeeps (Bool.eq_false_iff.mpr hQuiet))
    · exact hNoisy

theorem noteApart_senseKeeps (s : State) : SenseKeeps s (noteApart s) := ⟨rfl, rfl, rfl, rfl, rfl, id, fun _ => rfl⟩

theorem senseStep_senseKeeps (x : CtlSample) (s : State) : SenseKeeps s (senseStep x s) := by
  unfold senseStep
  extract_lets s1 s2 tj hot
  have hSensors : SenseKeeps s s1 := by constructor <;> simp [s1]
  have hApart : SenseKeeps s s2 := (hSensors.trans (detectRise_senseKeeps s1)).trans (noteApart_senseKeeps _)
  clear_value s2
  exact hApart.trans ⟨rfl, rfl, rfl, rfl, rfl, id, fun _ => rfl⟩

theorem failAvs_senseKeeps (l : List Nat) (s : State) : SenseKeeps s (failAvs l s) := by
  have hNoted : SenseKeeps s (onPower (fun p => { p with avsFailed := l.foldl insertNat p.avsFailed }) s) :=
    ⟨rfl, rfl, rfl, rfl, rfl, id, fun _ => rfl⟩
  exact hNoted.trans (.of_penalOnly (.foldl (fun x _ => countEvent_penalOnly .chip 0 7 x) l _))

/-- The state behind the sensors and the detector of a control step, and behind the AVSBus commands that failed where firmware runs. -/
def sensed (x : CtlSample) (s : State) : State := onlyIf (coreRuns s) (failAvs x.avsFailed) (senseStep x s)

theorem sensed_senseKeeps (x : CtlSample) (s : State) : SenseKeeps s (sensed x s) := by
  unfold sensed onlyIf
  split
  · exact (senseStep_senseKeeps x s).trans (failAvs_senseKeeps _ _)
  · exact senseStep_senseKeeps x s

theorem sensed_does (x : CtlSample) (s : State) :
    Does [.frame, .cells, .hbm, .portA, .portB, .dev, .power, .faults, .fabric, .flash, .life] s (sensed x s) :=
  does_onlyIf (senseStep_does x s) fun y => does_mono (failAvs_does x.avsFailed y) (by decide)

end Sys2Proof.Machine
end

section
/-! PROOFS. The obligation on droop protection, control steps, point decisions and absent firmware (R375, R376, R381, R384, R385, R387 to R390, R397, R398,
R402). -/

namespace Sys2Proof.Machine
open Sys2Proof

/-! ### Droop protection (R390, R402) -/

theorem exec_droopTrip (b : Nat) (s : State) : exec (.droopTrip b) s = effect (onlyIf (blockRuns s b) (droopTrip b)) s := rfl

theorem exec_droopRestoreStep (b : Nat) (s : State) : exec (.droopRestoreStep b) s = effect (onlyIf (blockRuns s b) (droopRestore b)) s := rfl

theorem droopOf_congr {s t : State} (h : t.power.droop = s.power.droop) (b : Nat) : droopOf t b = droopOf s b := by rw [droopOf, h, droopOf]

theorem droopOf_droopTrip (b : Nat) (s : State) : droopOf (droopTrip b s) b = Nat.max 4 (droopOf s b / 2) := by
  have hNoted : droopOf (onPower (fun p => { p with droop := SMap.put p.droop b { q := Nat.max 4 (droopOf s b / 2), trip := Nat.max 4 (droopOf s b / 2) } }) s) b
      = Nat.max 4 (droopOf s b / 2) := by
    simp [droopOf]
  unfold droopTrip onlyIf
  split
  · exact (droopOf_congr ((countEvent_penalOnly .block b 3 _).field PowerSt.droop fun _ _ => rfl) b).trans hNoted
  · exact hNoted

/-- A step back up ends the droop of its block at 64 (R390). -/
theorem droopRestore_of_some {s : State} {b : Nat} {d : Droop} (h : SMap.get? s.power.droop b = some d) :
    droopOf (droopRestore b s) b = Nat.min 64 (d.q + ceilDiv (64 - d.trip) 8) ∧ (droopRestore b s).power.q = s.power.q := by
  unfold droopRestore
  rw [onPower_power, h, droopOf, onPower_power, h]
  refine ⟨?_, rfl⟩
  dsimp only
  split
  next hFull => rw [SMap.getD, get?_del_same, hFull]
  · rw [getD_put_same]

theorem droopRestore_of_none {s : State} {b : Nat} (h : SMap.get? s.power.droop b = none) : droopRestore b s = s := by
  rw [droopRestore, onPower, h]

/-! ### CONTROL_STEP (R375, R376, R381, R384, R385, R397, R398, R402) -/

theorem exec_controlStep (x : CtlSample) (s : State) : exec (.controlStep x) s = effect (onlyIf (hwRuns s) (controlStep x)) s := rfl

theorem exec_controlStep_of_runs {x : CtlSample} {s : State} (h : hwRuns s = true) : exec (.controlStep x) s = .next (controlStep x s) := by
  rw [exec_controlStep, effect_onlyIf_of_true h]
  exact effect_eq_next rfl (controlStep_does x s).pending_eq

/-- A step whose ceiling firmware writes. -/
def writtenStep (x : CtlSample) (s : State) : State :=
  onPower (fun p => { p with steps := p.steps + 1, stepsNoQ := 0 }) (writeCeiling x (sensed x s))

theorem controlStep_of_written {x : CtlSample} {s : State} (hCore : coreRuns s = true) (hWritten : x.written = true) :
    controlStep x s = writtenStep x s := by
  have hWrites : (x.written && coreRuns s) = true := by rw [hCore, hWritten, Bool.and_true]
  unfold controlStep
  rw [hWrites]
  rfl

/-- One whose ceiling nothing writes. -/
def unwrittenStep (x : CtlSample) (s : State) : State := onPower (fun p => { p with steps := p.steps + 1, stepsNoQ := p.stepsNoQ + 1 }) (sensed x s)

theorem controlStep_of_unwritten {x : CtlSample} {s : State} (h : coreRuns s = false ∨ x.written = false) :
    controlStep x s = unwrittenStep x s := by
  have hNot : (x.written && coreRuns s) = false := by
    rcases h with h | h
    · rw [h, Bool.and_false]
    · rw [h, Bool.false_and]
  unfold controlStep
  rw [hNot]
  rfl

theorem ceilingFor_bounds (a b : Frac) : 4 ≤ ceilingFor a b ∧ ceilingFor a b ≤ 64 := by
  unfold ceilingFor
  split
  · decide
  · have hBounds := clampI_bounds (lo := 4) (hi := 64) (by decide) (Frac.floor (Frac.div (Frac.mul (Frac.ofNat 64) a) b))
    omega

/-- The ceiling that a write leaves: its own, at most 32 under the operating limit, or the one in force where control is held. -/
theorem writeCeiling_q (x : CtlSample) (u : State) : ∃ a b, (writeCeiling x u).power.q
    = if heldDown (writeCeiling x u) || u.power.again then u.power.q
      else if u.power.limit then Nat.min (ceilingFor a b) 32 else ceilingFor a b := by
  have hHeld : heldDown (writeCeiling x u) = heldDown u := by
    have hAbsent : (writeCeiling x u).power.absent = if u.power.absent = 1 then 0 else u.power.absent := rfl
    have hTwo : decide (2 ≤ (writeCeiling x u).power.absent) = decide (2 ≤ u.power.absent) := by
      rw [hAbsent]
      congr 1
      split
      · simp [*]
      · rfl
    rw [heldDown, hTwo]
    rfl
  rw [hHeld]
  exact ⟨_, _, rfl⟩

theorem writeCeiling_steps (x : CtlSample) (u : State) : (writeCeiling x u).power.steps = u.power.steps := rfl

theorem writeCeiling_emergency (x : CtlSample) (u : State) : (writeCeiling x u).power.emergency = u.power.emergency := rfl

theorem writeCeiling_budget (x : CtlSample) (u : State) : (writeCeiling x u).env.budget = Nat.min u.env.budget u.env.budgetTarget := rfl

theorem stepUs_congr {s t : State} (hTick : t.tick = s.tick) (hSteps : t.power.steps = s.power.steps) : stepUs t = stepUs s := by
  rw [stepUs, hTick, hSteps, stepUs]

/-! Estimate and shares rest on the fuses, and on the rail, the point, the temperature and the calibration in force (R381, R384 to R386). -/

section
variable {s t : State}

theorem rawPower_congr (hIdent : t.ident = s.ident) (hRail : t.power.railMv = s.power.railMv) (a : Activity) (us : Nat) :
    rawPower t a us = rawPower s a us := by
  simp only [rawPower, scaled, hIdent, hRail]

theorem calibration_congr (hGain : t.power.gain = s.power.gain) (hOffset : t.power.offset = s.power.offset)
    (hMetered : t.power.metered = s.power.metered) (live : Bool) (raw : Frac) : calibration t live raw = calibration s live raw := by
  simp only [calibration, hGain, hOffset, hMetered]

theorem sharesOf_congr (hIdent : t.ident = s.ident) (hRail : t.power.railMv = s.power.railMv) (hPoint : t.power.point = s.power.point)
    (hTj : t.power.tjMax = s.power.tjMax) (k : Frac × Frac) (a : Activity) (us : Nat) : sharesOf t k a us = sharesOf s k a us := by
  simp only [sharesOf, scaled, leakAt, pointLeak, hIdent, hRail, hPoint, hTj]

end

/-- What firmware takes from a step: its shares under the mode and the calibration in force, over the step's own length. -/
theorem writeCeiling_lastShares (x : CtlSample) (u : State) : let w := writeCeiling x u
    w.power.lastShares
      = sharesOf w (calibration w (w.power.modelled && decide (w.power.guardUs ≤ 20 * u.power.steps)) (rawPower w x.act (stepUs u))) x.act (stepUs u) := by
  intro w
  have hTaken : w.power.lastShares = sharesOf (onEnv (fun e => { e with budget := Nat.min e.budget e.budgetTarget }) u)
      (calibration (onEnv (fun e => { e with budget := Nat.min e.budget e.budgetTarget }) u)
        (w.power.modelled && decide (w.power.guardUs ≤ 20 * u.power.steps))
        (rawPower (onEnv (fun e => { e with budget := Nat.min e.budget e.budgetTarget }) u) x.act (stepUs u))) x.act (stepUs u) := by rfl
  rw [hTaken, sharesOf_congr (t := w) (s := onEnv _ u) rfl rfl rfl rfl, calibration_congr (t := w) (s := onEnv _ u) rfl rfl rfl, rawPower_congr (t := w) (s := onEnv _ u) rfl rfl]

theorem heldDown_congr {s t : State} (hEmergency : t.power.emergency = s.power.emergency) (hFaults : t.power.regFaults = s.power.regFaults)
    (hAbsent : t.power.absent = s.power.absent) : heldDown t = heldDown s := by rw [heldDown, hEmergency, hFaults, hAbsent, heldDown]

theorem emergency_of_not_heldDown {s : State} (h : heldDown s = false) : s.power.emergency = false := by
  simp only [heldDown, Bool.or_eq_false_iff] at h
  exact h.1.1

section
variable (x : CtlSample) (s : State)

theorem heldDown_writtenStep : heldDown (writtenStep x s) = heldDown (writeCeiling x (sensed x s)) := heldDown_congr rfl rfl rfl

theorem writtenStep_q : ∃ a b, (writtenStep x s).power.q = if heldDown (writtenStep x s) || s.power.again then (sensed x s).power.q
    else if (writtenStep x s).power.limit then Nat.min (ceilingFor a b) 32 else ceilingFor a b := by
  obtain ⟨a, b, hq⟩ := writeCeiling_q x (sensed x s)
  rw [(sensed_senseKeeps x s).again, ← heldDown_writtenStep] at hq
  exact ⟨a, b, hq⟩

theorem writtenStep_lastShares : let t := writtenStep x s
    t.power.lastShares = sharesOf t (calibration t (t.power.modelled && decide (t.power.guardUs ≤ 20 * s.power.steps))
      (rawPower t x.act (stepUs s))) x.act (stepUs s) := by
  intro t
  have hTaken := writeCeiling_lastShares x (sensed x s)
  have hSteps := (sensed_senseKeeps x s).steps
  rw [hSteps, stepUs_congr (sensed_does x s).tick_eq hSteps] at hTaken
  rw [sharesOf_congr (t := t) (s := writeCeiling x (sensed x s)) rfl rfl rfl rfl, calibration_congr (t := t) (s := writeCeiling x (sensed x s)) rfl rfl rfl,
    rawPower_congr (t := t) (s := writeCeiling x (sensed x s)) rfl rfl]
  exact hTaken

end

section
variable {x : CtlSample} {s : State}

theorem writtenStep_bounds (hHeld : heldDown (writtenStep x s) = false) (hAgain : s.power.again = false) :
    (4 ≤ (writtenStep x s).power.q ∧ (writtenStep x s).power.q ≤ 64)
    ∧ ((writtenStep x s).power.limit = true → (writtenStep x s).power.q ≤ 32) := by
  obtain ⟨a, b, hq⟩ := writtenStep_q x s
  obtain ⟨hLow, hHigh⟩ := ceilingFor_bounds a b
  rw [hHeld, hAgain] at hq
  rw [hq]
  cases (writtenStep x s).power.limit with
  | false => exact ⟨⟨hLow, hHigh⟩, fun h => absurd h Bool.false_ne_true⟩
  | true => exact ⟨⟨Nat.le_min.mpr ⟨hLow, by decide⟩, (Nat.min_le_left _ _).trans hHigh⟩, fun _ => Nat.min_le_right _ _⟩

/-- An emergency that stands, and the wait for the next point decision, keep the ceiling (R398; log entry 38). -/
theorem writtenStep_keeps_q (h : s.power.emergency = true ∨ (heldDown (writtenStep x s) = false ∧ s.power.again = true)) :
    (writtenStep x s).power.q = s.power.q := by
  have hKeeps := sensed_senseKeeps x s
  have hSame : (writtenStep x s).power.emergency = (sensed x s).power.emergency := writeCeiling_emergency x (sensed x s)
  obtain ⟨a, b, hq⟩ := writtenStep_q x s
  rcases h with hEmergency | ⟨hHeld, hAgain⟩
  · have hHeld : heldDown (writtenStep x s) = true := by simp [heldDown, hSame, hKeeps.emergency hEmergency]
    rw [hHeld] at hq
    exact hq.trans (hKeeps.q (.inl hEmergency))
  · rw [hHeld, hAgain] at hq
    exact hq.trans (hKeeps.q (.inr (hSame ▸ emergency_of_not_heldDown hHeld)))

theorem controlStep_written (hHw : hwRuns s = true) (hCore : coreRuns s = true) (hWritten : x.written = true) : completes (.controlStep x) s fun t =>
    t.env.budget = Nat.min s.env.budget s.env.budgetTarget
    ∧ t.power.lastShares = sharesOf t (calibration t (t.power.modelled && decide (t.power.guardUs ≤ 20 * s.power.steps))
        (rawPower t x.act (stepUs s))) x.act (stepUs s)
    ∧ t.power.lastIssued = Frac.mk' (64 * x.issued : Nat) x.could
    ∧ t.power.steps = s.power.steps + 1 ∧ t.power.ticksNoQ = 0 ∧ t.power.stepsNoQ = 0
    ∧ (heldDown t = false → s.power.again = false → 4 ≤ t.power.q ∧ t.power.q ≤ 64)
    ∧ (heldDown t = false → s.power.again = false → t.power.limit = true → t.power.q ≤ 32)
    ∧ (s.power.emergency = true ∨ (heldDown t = false ∧ s.power.again = true) → t.power.q = s.power.q) := by
  have hBudget : (writtenStep x s).env.budget = Nat.min s.env.budget s.env.budgetTarget := by
    rw [writtenStep, onPower_env, writeCeiling_budget, (sensed_does x s).env_eq]
  have hSteps : (writtenStep x s).power.steps = s.power.steps + 1 := by
    rw [writtenStep, onPower_power, writeCeiling_steps, (sensed_senseKeeps x s).steps]
  refine ⟨writtenStep x s, controlStep_of_written hCore hWritten ▸ exec_controlStep_of_runs hHw, ?_⟩
  refine ⟨hBudget, writtenStep_lastShares x s, rfl, hSteps, rfl, rfl,
    fun hHeld hAgain => (writtenStep_bounds hHeld hAgain).1, fun hHeld hAgain => (writtenStep_bounds hHeld hAgain).2, writtenStep_keeps_q⟩

theorem controlStep_unwritten (hHw : hwRuns s = true) (h : coreRuns s = false ∨ x.written = false) : completes (.controlStep x) s fun t =>
    t.env = s.env ∧ t.power.lastShares = s.power.lastShares ∧ t.power.steps = s.power.steps + 1
    ∧ t.power.ticksNoQ = s.power.ticksNoQ ∧ t.power.stepsNoQ = s.power.stepsNoQ + 1
    ∧ (s.power.emergency = true → t.power.q = s.power.q) := by
  have hKeeps := sensed_senseKeeps x s
  refine ⟨unwrittenStep x s, controlStep_of_unwritten h ▸ exec_controlStep_of_runs hHw, (sensed_does x s).env_eq, hKeeps.lastShares, ?_, hKeeps.ticksNoQ, ?_,
    fun hEmergency => hKeeps.q (.inl hEmergency)⟩
  · rw [unwrittenStep, onPower_power, hKeeps.steps]
  · rw [unwrittenStep, onPower_power, hKeeps.stepsNoQ]

end

/-! ### POINT_DECISION (R387 to R389, R398) and FIRMWARE_ABSENT_FALLBACK (R402) -/

theorem exec_pointDecision (s : State) : exec .pointDecision s = effect (onlyIf (coreRuns s) pointDecision) s := rfl

theorem decidePoint_of_heldDown {s : State} (h : heldDown s = true) (phase : Nat) : decidePoint s phase = 0 := if_pos h

theorem pointDecision_outcome {s : State} (hCore : coreRuns s = true) : completes .pointDecision s fun t =>
    let target := decidePoint s (nextPhase s)
    let step := s.power.point + 1 < target ∧ s.power.raiseTo ≠ some s.power.nextPoint
    t.power.nextPoint = (if step then s.power.point + 1 else target)
    ∧ t.power.raiseTo = (if step then some target else none)
    ∧ t.power.point = s.power.point ∧ t.power.lastPhase = some (nextPhase s) ∧ t.power.again = false
    ∧ (s.power.point < target → t.power.slewMv = pointMv target)
    ∧ (heldDown s = true → target = 0) := by
  have hExec : exec .pointDecision s = .next (pointDecision s) := by
    rw [exec_pointDecision, effect_onlyIf_of_true hCore]
    exact effect_eq_next rfl rfl
  have hStep : (decide (s.power.point + 1 < decidePoint s (nextPhase s)) && !(s.power.raiseTo == some s.power.nextPoint)) = true
      ↔ s.power.point + 1 < decidePoint s (nextPhase s) ∧ s.power.raiseTo ≠ some s.power.nextPoint := by simp
  exact ⟨pointDecision s, hExec, if_congr hStep rfl rfl, if_congr hStep rfl rfl, rfl, rfl, rfl, fun hRaise => if_pos hRaise, fun hHeld => decidePoint_of_heldDown hHeld _⟩

theorem exec_firmwareAbsentFallback (s : State) : exec .firmwareAbsentFallback s = effect (onlyIf (hwRuns s) firmwareAbsent) s := rfl

theorem firmwareAbsent_outcome {s : State} (hHw : hwRuns s = true) : completes .firmwareAbsentFallback s fun t =>
    (16 ≤ s.power.ticksNoQ → t.power.nextPoint = 0 ∧ t.power.raiseTo = none ∧ t.power.absent = 2 ∧ t.power.q = s.power.q)
    ∧ (s.power.ticksNoQ < 16 → 5 ≤ s.power.stepsNoQ →
      t.power.q = Nat.min s.power.q 32 ∧ 1 ≤ t.power.absent ∧ t.power.nextPoint = s.power.nextPoint)
    ∧ (s.power.ticksNoQ < 16 → s.power.stepsNoQ < 5 → t = s) := by
  have hExec : exec .firmwareAbsentFallback s = .next (firmwareAbsent s) := by
    rw [exec_firmwareAbsentFallback, effect_onlyIf_of_true hHw]
    exact effect_eq_next rfl (firmwareAbsent_does s).pending_eq
  refine ⟨firmwareAbsent s, hExec, fun hTicks => ?_, fun hTicks hSteps => ?_, fun hTicks hSteps => ?_⟩
  · rw [firmwareAbsent, if_pos hTicks]
    exact ⟨rfl, rfl, rfl, rfl⟩
  · rw [firmwareAbsent, if_neg (Nat.not_le.mpr hTicks), if_pos hSteps]
    exact ⟨rfl, Nat.le_max_right _ _, rfl⟩
  · rw [firmwareAbsent, if_neg (Nat.not_le.mpr hTicks), if_neg (Nat.not_le.mpr hSteps)]

/-! ### The obligation -/

theorem declare_stops (s : State) (sp : Nat) (rise : Int) : (declare sp rise s).power.emergency = true ∧ (declare sp rise s).power.q = 0 := by
  obtain ⟨penal, hPower⟩ := declare_power sp rise s
  rw [hPower]
  exact ⟨rfl, rfl⟩

/-- Settles O38: control steps by whether firmware writes the ceiling (`writtenStep_q`), and each of the others by its guard. -/
theorem powerControl : Obligations.PowerControl := by
  refine ⟨⟨fun s b hRuns => ?_, fun s b d hRuns hDroop => ?_, fun s b hNone => ?_⟩,
    ⟨fun s x hCore hHw hWritten => controlStep_written hHw hCore hWritten, fun s x hHw h => controlStep_unwritten hHw h,
      fun s sp rise => declare_stops s sp rise⟩,
    fun s hCore => pointDecision_outcome hCore, fun s hHw => firmwareAbsent_outcome hHw,
    fun s => ⟨fun b hStopped => ⟨effect_onlyIf_of_false hStopped, effect_onlyIf_of_false hStopped⟩,
      fun hDark => ⟨fun x => effect_onlyIf_of_false hDark, effect_onlyIf_of_false hDark⟩, fun hStopped => effect_onlyIf_of_false hStopped⟩⟩
  · refine ⟨droopTrip b s, ?_, droopOf_droopTrip b s⟩
    rw [exec_droopTrip, effect_onlyIf_of_true hRuns]
    exact effect_eq_next rfl (droopTrip_does b s).pending_eq
  · refine ⟨droopRestore b s, ?_, droopRestore_of_some hDroop⟩
    rw [exec_droopRestoreStep, effect_onlyIf_of_true hRuns]
    exact effect_eq_next rfl rfl
  · rw [exec_droopRestoreStep]
    refine effect_of_eq ?_
    unfold onlyIf
    split
    · exact droopRestore_of_none hNone
    · rfl

end Sys2Proof.Machine
end

section
/-! PROOFS. The ends of emergencies, regulator faults, guard bands, slews and divergence: the obligation on conditions that end (R382, R383, R388, R398,
R399). -/

namespace Sys2Proof.Machine
open Sys2Proof

/-! ### One lemma for each end -/

section
variable {s : State}

theorem endEmergency_of_over (hEmergency : s.power.emergency = true) (hQuiet : 250 ≤ s.power.quiet) (hCool : s.power.tjMax ≤ 1520) :
    endEmergency s = onPower (fun p => { p with emergency := false, again := true, anew := true, rth := Frac.max p.rthBefore (rthNom s.env.flow) }) s :=
  if_pos (by simp [hEmergency, hQuiet, hCool])

theorem endEmergency_of_not (h : s.power.emergency = false ∨ s.power.quiet < 250 ∨ 1520 < s.power.tjMax) : endEmergency s = s :=
  if_neg (by simpa only [Bool.and_eq_true, decide_eq_true_eq, not_and_or, Bool.not_eq_true, not_le, or_assoc] using h)

theorem endRegFault_power {r : Nat} (h : 1000 ≤ SMap.getD s.power.regFaults r 0) :
    (endRegFault r s).power.regFaults = SMap.del s.power.regFaults r
      ∧ ((endRegFault r s).power.regFaults = [] → s.power.emergency = false → (endRegFault r s).power.again = true) := by
  unfold endRegFault
  rw [if_pos h]
  dsimp only
  split
  · exact ⟨rfl, fun _ _ => rfl⟩
  next hNotLast =>
    refine ⟨rfl, fun hNone hQuiet => absurd ?_ hNotLast⟩
    rw [hNone]
    simpa using hQuiet

theorem endRegFault_of_not {r : Nat} (h : SMap.getD s.power.regFaults r 0 < 1000) : endRegFault r s = s := if_neg (Nat.not_le.mpr h)

theorem guardLeft_eq_zero_iff (p : PowerSt) : guardLeft p = 0 ↔ p.guardUs ≤ 20 * p.steps := Nat.sub_eq_zero_iff_le

theorem guardEnd_of_over (h : s.power.guardUs ≤ 20 * s.power.steps) : guardEnd s = { s with power := { s.power with guardUs := 0 } } := by
  rw [guardEnd, onPower, if_pos ((guardLeft_eq_zero_iff _).mpr h)]

theorem guardEnd_of_not (h : 20 * s.power.steps < s.power.guardUs) : guardEnd s = s := by
  rw [guardEnd, onPower, if_neg (mt (guardLeft_eq_zero_iff _).mp (Nat.not_le.mpr h))]

theorem endSlew_of_slewing (h : s.power.slewing = true) : endSlew s = { s with power := { s.power with
    slewing := false
    railMv := s.power.slewMv
    setpointMv := s.power.slewMv
    segMv := (List.range 16).map (fun i =>
      if s.power.avsFailed.contains i then s.power.segMv.getD i s.power.railMv else s.power.slewMv) } } := by
  rw [endSlew, onPower, if_pos h]

theorem endSlew_of_not (h : s.power.slewing = false) : endSlew s = s := by
  rw [endSlew, onPower, if_neg (by simp [h])]

theorem divergence_power (hBefore : s.power.fallback = false) (hMs : 500 ≤ s.power.divergeMs) :
    (divergence s).power.fallback = true ∧ (divergence s).power.frozen = true ∧ (divergence s).power.modelled = false := by
  unfold divergence
  rw [if_pos (by simp [hBefore, hMs])]
  have hEvent := countEvent_penalOnly .chip 0 6 (onPower (fun p =>
    { p with fallback := true, frozen := true, modelled := false, divergeMs := 0, agreeMs := 0 }) s)
  exact ⟨hEvent.field PowerSt.fallback fun _ _ => rfl, hEvent.field PowerSt.frozen fun _ _ => rfl, hEvent.field PowerSt.modelled fun _ _ => rfl⟩

theorem divergence_of_not (h : s.power.fallback = true ∨ s.power.divergeMs < 500) : divergence s = s :=
  if_neg (by simpa only [Bool.and_eq_true, Bool.not_eq_true', decide_eq_true_eq, not_and_or, Bool.not_eq_false, not_le] using h)

theorem divergenceEnd_of_over (hBefore : s.power.fallback = true) (hMs : 10000 ≤ s.power.agreeMs) : divergenceEnd s
    = onPower (fun p => { p with fallback := false, frozen := false, pairs := [], guardUs := 1000000 + 20 * p.steps, divergeMs := 0, agreeMs := 0,
                                 modelled := modelledCond s }) s :=
  if_pos (by simp [hBefore, hMs])

theorem divergenceEnd_of_not (h : s.power.fallback = false ∨ s.power.agreeMs < 10000) : divergenceEnd s = s :=
  if_neg (by simpa only [Bool.and_eq_true, decide_eq_true_eq, not_and_or, Bool.not_eq_true, not_le] using h)

end

/-! ### Commands that need firmware -/

/-- A command that acts while the core runs. -/
theorem next_of_core {f : State → State} {s t : State} (hCore : coreRuns s = true) (h : f s = t) (hPending : t.pending = s.pending) :
    effect (onlyIf (coreRuns s) f) s = .next t := by
  rw [effect_onlyIf_of_true hCore]
  exact effect_eq_next h hPending

/-- It does nothing where the core stands still, or where it has nothing to do. -/
theorem next_of_idle {f : State → State} {s : State} (h : coreRuns s = false ∨ f s = s) : effect (onlyIf (coreRuns s) f) s = .next s := by
  cases hCore : coreRuns s with
  | false => exact effect_onlyIf_of_false rfl
  | true => exact effect_of_eq (h.resolve_left (by simp [hCore]))

/-! ### The obligation -/

/-- Settles O39: each end by its own premise, and by its failure. -/
theorem powerConditionsEnd : Obligations.PowerConditionsEnd := by
  refine fun s => ⟨fun hCore => ⟨fun hEmergency hQuiet hCool => ?_, fun r hClear => ?_, fun hOver => ?_, fun hSlewing => ?_, fun hBefore hMs => ?_,
    fun hBefore hMs => ?_⟩, fun h => next_of_idle (h.imp_right endEmergency_of_not), fun r h => next_of_idle (h.imp_right endRegFault_of_not),
    fun h => next_of_idle (h.imp_right guardEnd_of_not), fun h => next_of_idle (h.imp_right endSlew_of_not),
    fun h => next_of_idle (h.imp_right divergence_of_not), fun h => next_of_idle (h.imp_right divergenceEnd_of_not)⟩
  · exact ⟨_, next_of_core hCore (endEmergency_of_over hEmergency hQuiet hCool) rfl, rfl, rfl, rfl⟩
  · exact ⟨_, next_of_core hCore rfl (endRegFault_does r s).pending_eq, endRegFault_power hClear⟩
  · exact next_of_core hCore (guardEnd_of_over hOver) rfl
  · exact next_of_core hCore (endSlew_of_slewing hSlewing) rfl
  · exact ⟨_, next_of_core hCore rfl (divergence_does s).pending_eq, divergence_power hBefore hMs⟩
  · exact ⟨_, next_of_core hCore (divergenceEnd_of_over hBefore hMs) rfl, rfl, rfl, rfl, Nat.add_sub_cancel _ _, rfl⟩

end Sys2Proof.Machine
end

section
/-! PROOFS. The obligation on power samples, averaging and steady windows, and the events of sensors (R12, R286, R378 to R381, R391, R393, R395, R399, R403,
R446, R468). -/

namespace Sys2Proof.Machine
open Sys2Proof

/-! ### POWER_SAMPLE (R379 to R381, R399, R446, R468) -/

/-- The rails of a sample, a missed one with its last value. -/
def railValues (x : Telemetry) (s : State) : List Nat := (List.range railCount).map fun i => (x.railsMw.getD i none).getD (s.power.lastRails.getD i 0)

/-- The power control with the rails read and some missed. -/
def railsRead (values missed : List Nat) (p : PowerSt) : PowerSt := { p with lastRails := values, metered := values.sum, missed := missed }

theorem readRails_power (x : Telemetry) (s : State) :
    ∃ missed penal, (readRails x s).power = penalized penal (railsRead (railValues x s) missed s.power) :=
  ⟨_, _, PenalOnly.foldl (fun y _ => countEvent_penalOnly .chip 0 7 y) _ _⟩

/-- A core regulator that reports a fault is held as faulted (R399). -/
def noteFault (s : State) (r : Nat) : State :=
  if (SMap.get? s.power.regFaults r).isSome then s
  else countEvent .chip 0 7 (emergencyStop (onPower (fun p => { p with regFaults := SMap.put p.regFaults r 0, rthBefore := rthOf s }) s))

theorem readStatus_eq (x : Telemetry) (s : State) : readStatus x s = (coreRegulators x).foldl noteFault
    (onPower (fun p => { p with regFaults := p.regFaults.map (fun r => (r.1, if x.faulted.contains r.1 then 0 else r.2 + 1)) }) s) := rfl

/-- What a read of the regulators' status keeps: the readings, and every fault that is held. -/
structure StatusKeeps (s t : State) : Prop where
  metered : t.power.metered = s.power.metered
  eUsed : t.power.eUsed = s.power.eUsed
  pairs : t.power.pairs = s.power.pairs
  faulted : ∀ r, (SMap.get? s.power.regFaults r).isSome = true → (SMap.get? t.power.regFaults r).isSome = true

theorem StatusKeeps.refl (s : State) : StatusKeeps s s := ⟨rfl, rfl, rfl, fun _ h => h⟩

theorem StatusKeeps.trans {s t u : State} (h : StatusKeeps s t) (h' : StatusKeeps t u) : StatusKeeps s u :=
  ⟨h'.metered.trans h.metered, h'.eUsed.trans h.eUsed, h'.pairs.trans h.pairs, fun r hr => h'.faulted r (h.faulted r hr)⟩

/-- A fault newly held, by what it leaves of the power control. -/
theorem noteFault_power {s : State} {r : Nat} (h : (SMap.get? s.power.regFaults r).isSome = false) : ∃ penal, (noteFault s r).power
    = { s.power with regFaults := SMap.put s.power.regFaults r 0, rthBefore := rthOf s, q := 0, penal := penal } := by
  unfold noteFault
  rw [if_neg (by simp [h]), (countEvent_penalOnly .chip 0 7 _).power, emergencyStop_power]
  exact ⟨_, rfl⟩

theorem isSome_get?_put (m : SMap Nat) (a v c : Nat) (h : c = a ∨ (SMap.get? m c).isSome = true) : (SMap.get? (SMap.put m a v) c).isSome = true := by
  by_cases hc : c = a
  · rw [hc, get?_put_same]
    rfl
  · rw [get?_put_ne hc]
    exact h.resolve_left hc

theorem noteFault_keeps (s : State) (r : Nat) : StatusKeeps s (noteFault s r) ∧ (SMap.get? (noteFault s r).power.regFaults r).isSome = true := by
  cases hHeld : (SMap.get? s.power.regFaults r).isSome with
  | true =>
    have hSame : noteFault s r = s := if_pos hHeld
    rw [hSame]
    exact ⟨.refl s, hHeld⟩
  | false =>
    obtain ⟨penal, hPower⟩ := noteFault_power hHeld
    refine ⟨⟨?_, ?_, ?_, fun c hc => ?_⟩, ?_⟩
    all_goals rw [hPower]
    · exact isSome_get?_put _ _ _ _ (.inr hc)
    · exact isSome_get?_put _ _ _ _ (.inl rfl)

theorem noteFaults_keep (l : List Nat) (s : State) : StatusKeeps s (l.foldl noteFault s)
    ∧ ∀ r ∈ l, (SMap.get? (l.foldl noteFault s).power.regFaults r).isSome = true := by
  induction l generalizing s with
  | nil => exact ⟨.refl s, fun r hr => absurd hr List.not_mem_nil⟩
  | cons a rest ih =>
    obtain ⟨hFirst, hHeld⟩ := noteFault_keeps s a
    obtain ⟨hRest, hOthers⟩ := ih (noteFault s a)
    refine ⟨hFirst.trans hRest, fun r hr => ?_⟩
    rcases List.mem_cons.mp hr with rfl | hr
    · exact hRest.faulted _ hHeld
    · exact hOthers r hr

theorem readStatus_keeps (x : Telemetry) (s : State) : StatusKeeps s (readStatus x s)
    ∧ ∀ r ∈ x.faulted, r < 16 → (SMap.get? (readStatus x s).power.regFaults r).isSome = true := by
  have hAged : StatusKeeps s
      (onPower (fun p => { p with regFaults := p.regFaults.map (fun r => (r.1, if x.faulted.contains r.1 then 0 else r.2 + 1)) }) s) := by
    refine ⟨rfl, rfl, rfl, fun r hr => ?_⟩
    rw [onPower_power, get?_map_entries fun p : Nat × Nat => if x.faulted.contains p.1 then 0 else p.2 + 1, Option.isSome_map]
    exact hr
  obtain ⟨hKeeps, hHeld⟩ := noteFaults_keep (coreRegulators x)
    (onPower (fun p => { p with regFaults := p.regFaults.map (fun r => (r.1, if x.faulted.contains r.1 then 0 else r.2 + 1)) }) s)
  rw [readStatus_eq]
  exact ⟨hAged.trans hKeeps, fun r hr hCore => hHeld r (List.mem_filter.mpr ⟨hr, by simpa using hCore⟩)⟩

/-- A sample taken in, behind the read of its rails and before the status of the regulators. -/
def takeSample (a : Activity) (u : State) : State :=
  let m := u.power.metered
  let raw := rawPower u a 1000
  let e := calibrated u raw
  let live := u.power.modelled && !u.power.fallback && guardLeft u.power = 0
  let pairs := ((raw, m) :: u.power.pairs).take 1000
  onLife (fun l => { l with energy := l.energy + 1000 * m }) (onPower (fun p => { p with
    eUsed := if p.winTicks = 0 then 0 else p.eUsed + 1000 * m
    pairs := pairs
    gain := if p.frozen then p.gain else ((fitModel pairs).map (·.1)).getD p.gain
    offset := if p.frozen then p.offset else ((fitModel pairs).map (·.2)).getD p.offset
    divergeMs := if live && apart 12 e m then p.divergeMs + 1 else 0
    agreeMs := if p.fallback && !apart 6 e m then p.agreeMs + 1 else 0
    steadyMin := if p.steadyN = 0 then m else Nat.min p.steadyMin m
    steadyMax := Nat.max p.steadyMax m
    steadySum := p.steadySum + m
    steadyN := p.steadyN + 1 }) u)

theorem powerSample_eq (x : Telemetry) (s : State) : powerSample x s = readStatus x (takeSample x.act (readRails x s)) := rfl

section
variable (a : Activity) (u : State)

theorem takeSample_metered : (takeSample a u).power.metered = u.power.metered := rfl

theorem takeSample_eUsed : (takeSample a u).power.eUsed = if u.power.winTicks = 0 then 0 else u.power.eUsed + 1000 * u.power.metered := rfl

theorem takeSample_pairs : (takeSample a u).power.pairs = ((rawPower u a 1000, u.power.metered) :: u.power.pairs).take 1000 := rfl

theorem takeSample_energy : (takeSample a u).life.now.energy = u.life.now.energy + 1000 * u.power.metered := rfl

end

/-- A read of the rails leaves the window, the pairs and the voltage. -/
theorem readRails_fields (x : Telemetry) (s : State) : let p := (readRails x s).power
    p.metered = (railValues x s).sum ∧ p.winTicks = s.power.winTicks ∧ p.eUsed = s.power.eUsed ∧ p.pairs = s.power.pairs
      ∧ p.railMv = s.power.railMv := by
  obtain ⟨missed, penal, hPower⟩ := readRails_power x s
  simp only [hPower, penalized, railsRead, and_self]

/-- A sample with its rails read, before the status of the regulators. -/
theorem takeSample_readRails (x : Telemetry) (s : State) : let u := takeSample x.act (readRails x s)
    let m := (railValues x s).sum
    u.power.metered = m
    ∧ u.power.eUsed = (if s.power.winTicks = 0 then 0 else s.power.eUsed + 1000 * m)
    ∧ u.power.pairs = ((rawPower s x.act 1000, m) :: s.power.pairs).take 1000
    ∧ u.life.now.energy = s.life.now.energy + 1000 * m := by
  obtain ⟨hMetered, hWindow, hUsed, hPairs, hRail⟩ := readRails_fields x s
  have hRaw := rawPower_congr (readRails_does x s).ident_eq hRail x.act 1000
  simp only [takeSample_metered, takeSample_eUsed, takeSample_pairs, takeSample_energy, hRaw, (readRails_does x s).life_eq, hMetered, hWindow, hUsed,
    hPairs, and_self]

theorem powerSample_outcome (x : Telemetry) {s : State} (hCore : coreRuns s = true) : completes (.powerSample x) s fun t =>
    let m := (railValues x s).sum
    t.power.metered = m
    ∧ t.power.eUsed = (if s.power.winTicks = 0 then 0 else s.power.eUsed + 1000 * m)
    ∧ t.power.pairs = ((rawPower s x.act 1000, m) :: s.power.pairs).take 1000
    ∧ t.life.now.energy = s.life.now.energy + 1000 * m
    ∧ ∀ r ∈ x.faulted, r < 16 → (SMap.get? t.power.regFaults r).isSome = true := by
  obtain ⟨hMetered, hUsed, hPairs, hEnergy⟩ := takeSample_readRails x s
  obtain ⟨hKeeps, hFaulted⟩ := readStatus_keeps x (takeSample x.act (readRails x s))
  refine ⟨_, next_of_core hCore (powerSample_eq x s) ((powerSample_does x s).pending_eq), hKeeps.metered.trans hMetered, hKeeps.eUsed.trans hUsed,
    hKeeps.pairs.trans hPairs, ?_, hFaulted⟩
  rw [(readStatus_does x _).life_eq]
  exact hEnergy

/-! ### Windows (R12, R286, R378, R395, R403) -/

theorem closeWindow_env (s : State) : (closeWindow s).env = { s.env with
    average := s.power.eUsed / Nat.max 1 (s.power.winElapsed * frameUs s.tick.rate)
    windowMs := s.env.windowNext.getD s.env.windowMs
    windowNext := none } := by
  unfold closeWindow
  extract_lets us avg s1 ms
  have hNoted : s1.env = s.env := (does_ite (recordEvent_does _ _ _) (does_refl _ _) : Does [.flash] s s1).env_eq
  rw [(openWindow_does _).env_eq, onEnv_env, hNoted]

theorem closeWindow_power (s : State) : let w := windowTicks s.tick.rate (s.env.windowNext.getD s.env.windowMs)
    (closeWindow s).power = { s.power with
      eUsed := 0, aElapsed := 0, bElapsed := 0, winElapsed := 0, winTicks := if s.tick.count.toNat % w = 0 then w else 0 } := by
  intro w
  unfold closeWindow
  extract_lets us avg s1 ms
  have hNoted : Does [.flash] s s1 := does_ite (recordEvent_does _ _ _) (does_refl _ _)
  unfold openWindow
  dsimp only [onPower_power, onEnv_power, onEnv_tick, onEnv_env]
  rw [hNoted.power_eq]
  simp only [hNoted.tick_eq]
  rfl

theorem averagingEnd_of_due {s : State} (hRuns : 0 < s.power.winElapsed) (hDue : s.tick.count.toNat % s.power.winTicks = 0) :
    averagingEnd s = closeWindow s := if_pos (by simp [hRuns, hDue])

theorem averagingEnd_of_not {s : State} (h : s.power.winElapsed = 0 ∨ s.tick.count.toNat % s.power.winTicks ≠ 0) : averagingEnd s = s :=
  if_neg (by simpa only [Bool.and_eq_true, decide_eq_true_eq, not_and_or, Nat.pos_iff_ne_zero, not_not] using h)

theorem steadyEnd_of_due {s : State} (hRuns : 0 < s.power.steadyN) (hDue : s.tick.count.toNat % rateHz s.tick.rate = 0) :
    steadyEnd s = openSteady (steadySample s) := if_pos (by simp [hRuns, hDue])

theorem steadyEnd_of_not {s : State} (h : s.power.steadyN = 0 ∨ s.tick.count.toNat % rateHz s.tick.rate ≠ 0) : steadyEnd s = s :=
  if_neg (by simpa only [Bool.and_eq_true, decide_eq_true_eq, not_and_or, Nat.pos_iff_ne_zero, not_not] using h)

/-! ### Sensors (R391, R393) -/

theorem sensorOf_congr {s t : State} (h : t.power.sensors = s.power.sensors) (k : Nat) : sensorOf t k = sensorOf s k := by rw [sensorOf, h, sensorOf]

theorem sensorOf_put (k : Nat) (v : Sensor) (s : State) : sensorOf (onPower (fun p => { p with sensors := SMap.put p.sensors k v }) s) k = v :=
  getD_put_same _ _ _ _

section
variable {r sp w : Nat} {s : State}

theorem loseSensor_of_bad (hBad : sensorBad (sensorOf s (sensorKey r sp w)) = true) (hValid : (sensorOf s (sensorKey r sp w)).lost = false) :
    (sensorOf (loseSensor r sp w s) (sensorKey r sp w)).lost = true := by
  unfold loseSensor sensorEvent
  dsimp only
  rw [if_pos (by simp [hBad, hValid]), sensorOf_congr ((countEvent_penalOnly .region r (0x10 + sp) _).field PowerSt.sensors fun _ _ => rfl), sensorOf_put]

theorem loseSensor_of_not (h : sensorBad (sensorOf s (sensorKey r sp w)) = false ∨ (sensorOf s (sensorKey r sp w)).lost = true) :
    loseSensor r sp w s = s :=
  if_neg (by simpa only [Bool.and_eq_true, Bool.not_eq_true', not_and_or, Bool.not_eq_true, Bool.not_eq_false] using h)

theorem validReading_of_lost {k : Nat} (h : (sensorOf s k).lost = true) : validReading s k = none := if_pos (by simp [h])

theorem restoreSensor_of_good (hLost : (sensorOf s (sensorKey r sp w)).lost = true) (hGood : 1000 ≤ (sensorOf s (sensorKey r sp w)).good) :
    restoreSensor r sp w s = onPower (fun p => { p with
      sensors := SMap.put p.sensors (sensorKey r sp w) { sensorOf s (sensorKey r sp w) with lost := false } }) s :=
  if_pos (by simp [hLost, hGood])

theorem restoreSensor_of_not (h : (sensorOf s (sensorKey r sp w)).lost = false ∨ (sensorOf s (sensorKey r sp w)).good < 1000) :
    restoreSensor r sp w s = s :=
  if_neg (by simpa only [Bool.and_eq_true, decide_eq_true_eq, not_and_or, Bool.not_eq_true, not_le] using h)

theorem sensorApart_of_not (h : SMap.getD s.power.disagree (16 * r + sp) 0 < 51) : sensorApart r sp s = s := if_neg (Nat.not_le.mpr h)

end

/-! ### The obligation -/

/-- Settles O40: what a sample's events leave of the power control (`readRails_power`, `noteFault_power`); each window and sensor by its premise. -/
theorem telemetryAndSensors : Obligations.TelemetryAndSensors := by
  refine ⟨fun s x hCore => powerSample_outcome x hCore,
    fun s => ⟨fun hCore hRuns hDue => ?_, fun h => next_of_idle (h.imp_right averagingEnd_of_not), fun hCore hRuns hDue => ?_,
      fun h => next_of_idle (h.imp_right steadyEnd_of_not)⟩,
    fun s r sp w => ⟨fun hCore hBad hValid => ?_, fun h => next_of_idle (h.imp_right loseSensor_of_not), fun hCore hLost hGood => ?_,
      fun h => next_of_idle (h.imp_right restoreSensor_of_not)⟩,
    fun s r sp => ⟨fun hCore hApart => ?_, fun h => next_of_idle (h.imp_right sensorApart_of_not)⟩,
    fun s x hStopped => effect_onlyIf_of_false hStopped⟩
  · refine ⟨_, next_of_core hCore (averagingEnd_of_due hRuns hDue) (closeWindow_does s).pending_eq, ?_⟩
    dsimp only
    rw [closeWindow_env, closeWindow_power]
    exact ⟨rfl, rfl, rfl, rfl, rfl, rfl, rfl⟩
  · exact ⟨_, next_of_core hCore (steadyEnd_of_due hRuns hDue) (steadySample_does s).pending_eq, rfl, rfl, rfl, rfl⟩
  · have hLost := loseSensor_of_bad hBad hValid
    exact ⟨_, next_of_core hCore rfl (loseSensor_does r sp w s).pending_eq, hLost, validReading_of_lost hLost⟩
  · refine ⟨_, next_of_core hCore (restoreSensor_of_good hLost hGood) rfl, ?_⟩
    dsimp only
    rw [sensorOf_put]
    exact ⟨rfl, rfl⟩
  · exact next_of_core hCore (if_pos hApart) (countEvent_does _ _ _ _).pending_eq

end Sys2Proof.Machine
end

section
/-! PROOFS. Start-up with and without a bank that verifies, a flip of the boot record that loses power, and the way to READY: the obligation on start-up
(R415, R417, R420, R424, R430, R436, R442, R445, R462). -/

namespace Sys2Proof.Machine
open Sys2Proof

theorem Does.pins_eq {l : List Comp} {s t : State} (h : Does l s t) (hk : Comp.pins ∉ l := by decide) : t.pins = s.pins := h.same hk

/-! ### What events leave of a start-up -/

/-- The slot from which firmware booted stays. -/
structure SameBootSlot (s t : State) : Prop where
  bootSlot : t.dev.bootSlot = s.dev.bootSlot

theorem SameBootSlot.of_does {l : List Comp} {s t : State} (h : Does l s t) (hk : Comp.dev ∉ l := by decide) : SameBootSlot s t :=
  ⟨congrArg DevSt.bootSlot (h.dev_eq hk)⟩

theorem SameBootSlot.refl (s : State) : SameBootSlot s s := ⟨rfl⟩

theorem SameBootSlot.trans {s t u : State} (h : SameBootSlot s t) (h' : SameBootSlot t u) : SameBootSlot s u := ⟨h'.bootSlot.trans h.bootSlot⟩

theorem askRetrain_sameBootSlot (p : Nat) (s : State) : SameBootSlot s (askRetrain p s) := by
  unfold askRetrain
  split
  · exact ⟨rfl⟩
  · exact .of_does (trainPort_does p s)

theorem severeAction_sameBootSlot (unit source : Nat) (forced : Bool) (action : Nat) (s : State) :
    SameBootSlot s (severeAction unit source forced action s) := by
  unfold severeAction
  split
  · extract_lets dev u
    have hStop : SameBootSlot s (stopCell unit u) := ⟨rfl⟩
    split
    · exact hStop.trans (.of_does (inDoubt_does _))
    · exact hStop
  · exact askRetrain_sameBootSlot _ s
  · exact .of_does (retirePc_does _ _ s)
  · exact ⟨rfl⟩
  · exact ⟨rfl⟩
  · exact ⟨rfl⟩

theorem sameBootSlot_eventSteps : EventSteps SameBootSlot where
  refl := .refl
  trans := .trans
  elsewhere h _ hk _ := .of_does h hk
  stop i s := .of_does (stopCell_does i s)
  doubt s := .of_does (inDoubt_does s)
  retrain := askRetrain_sameBootSlot
  stand l unit source forced s := by
    unfold standFault
    split
    · exact ⟨rfl⟩
    · exact ⟨rfl⟩
  severe := severeAction_sameBootSlot

/-- What the later stages of a start-up leave of its first ones. -/
structure BootKeeps (s t : State) : Prop where
  slot : SameBootSlot s t
  cycles : t.life.now.cycles = s.life.now.cycles
  coreReset : t.clocks.coreReset = s.clocks.coreReset
  beatArmed : t.clocks.beatArmed = s.clocks.beatArmed
  ident : t.ident = s.ident
  pins : t.pins = s.pins

namespace BootKeeps

theorem refl (s : State) : BootKeeps s s := ⟨.refl s, rfl, rfl, rfl, rfl, rfl⟩

theorem trans {s t u : State} (h : BootKeeps s t) (h' : BootKeeps t u) : BootKeeps s u :=
  ⟨h.slot.trans h'.slot, h'.cycles.trans h.cycles, h'.coreReset.trans h.coreReset, h'.beatArmed.trans h.beatArmed, h'.ident.trans h.ident,
    h'.pins.trans h.pins⟩

/-- An operation that leaves the clocks, the fuses and the pins, and the boot slot and the count of power cycles. -/
theorem of_does {l : List Comp} {s t : State} (h : Does l s t) (hSlot : SameBootSlot s t) (hCycles : t.life.now.cycles = s.life.now.cycles)
    (hClocks : Comp.clocks ∉ l := by decide) (hIdent : Comp.ident ∉ l := by decide) (hPins : Comp.pins ∉ l := by decide) : BootKeeps s t :=
  ⟨hSlot, hCycles, by rw [h.clocks_eq hClocks], by rw [h.clocks_eq hClocks], h.ident_eq hIdent, h.pins_eq hPins⟩

theorem foldl {β : Type} {f : State → β → State} (hf : ∀ x b, BootKeeps x (f x b)) (xs : List β) (s : State) : BootKeeps s (xs.foldl f s) :=
  List.foldlRecOn (motive := BootKeeps s) xs f (refl s) fun _ h b _ => h.trans (hf _ b)

end BootKeeps

theorem countEvent_bootKeeps (l : Level) (unit source : Nat) (s : State) : BootKeeps s (countEvent l unit source s) :=
  .of_does (countEvent_does l unit source s) (sameBootSlot_eventSteps.countEvent l unit source s) (by rw [(countEvent_does l unit source s).life_eq])

theorem recordEvent_bootKeeps (type : Nat) (payload : List Byte) (s : State) : BootKeeps s (recordEvent type payload s) :=
  .of_does (recordEvent_does type payload s) (.of_does (recordEvent_does type payload s)) (by rw [(recordEvent_does type payload s).life_eq])

theorem BootKeeps.record {s t : State} (type : Nat) (payload : List Byte) (h : BootKeeps s t) : BootKeeps s (recordEvent type payload t) :=
  h.trans (recordEvent_bootKeeps type payload t)

theorem noteError_bootKeeps (e : Nat) (s : State) : BootKeeps s (noteError e s) := by
  refine .of_does (noteError_does e s) ?_ (by rw [(noteError_does e s).life_eq])
  constructor
  rw [noteError, onDev_dev]
  split
  · rfl
  · rfl

/-! ### Firmware starts (R415, R420, R424, R430, R442, R445) -/

/-- Firmware that has started from a slot, before its record, a fall-back and what the flash reads count. -/
def firmwareStarts (slot : Nat) (r : StartReport) (s : State) : State :=
  let b := if slot = 1 then slotA s.flash else slotB s.flash
  onIdent (fun i => { i with secretOpen := false, burnFails := r.burnFails, manifest := b.manifest, loaded := fwLoaded b.image
                             certOk := r.certReadable && s.flash.certPresent && lifecycleCode s = 5 && deviceKey Config.certChain == i.hallmarkKey })
    (onDev (fun d => { d with bootSlot := slot, bootStage := 3, fw := b.fw, bootError := if slot = 2 then 3 else 0 })
      (onClocks (fun c => { c with beatArmed := true }) (loadLifetime r.tornSlot (findFlash r s))))

theorem writeLifetime_bootKeeps (s : State) : BootKeeps s (writeLifetime s) := ⟨⟨rfl⟩, rfl, rfl, rfl, rfl, rfl⟩

theorem startFirmware_bootKeeps (slot : Nat) (r : StartReport) (s : State) : BootKeeps (firmwareStarts slot r s) (startFirmware slot r s) := by
  unfold startFirmware
  extract_lets b s1 s2 s3
  have hRecord : BootKeeps (firmwareStarts slot r s) s2 := recordEvent_bootKeeps _ _ s1
  have hBack : BootKeeps (firmwareStarts slot r s) s3 := by
    unfold s3
    split
    · exact hRecord.trans (.of_does (fallBack_does s2) (.of_does (fallBack_does s2)) (by rw [(fallBack_does s2).life_eq]))
    · exact hRecord
  exact (hBack.trans (.foldl (fun x _ => countEvent_bootKeeps .chip 0 5 x) _ _)).trans (writeLifetime_bootKeeps _)

theorem silenceRegions_bootKeeps (r : StartReport) (s : State) : BootKeeps s (silenceRegions r s) := by
  unfold silenceRegions
  extract_lets silent
  split
  · exact .refl s
  · exact BootKeeps.trans (t := onClocks (fun c => { c with stopped := silent }) s) ⟨⟨rfl⟩, rfl, rfl, rfl, rfl, rfl⟩ (noteError_bootKeeps 5 _)

theorem hardenRepair_bootKeeps (r : StartReport) (s : State) (x : Nat × Nat) : BootKeeps s (hardenRepair r s x) := by
  unfold hardenRepair
  dsimp only
  split
  · exact BootKeeps.record _ _ ⟨⟨rfl⟩, rfl, rfl, rfl, rfl, rfl⟩
  · exact BootKeeps.record _ _ ⟨⟨rfl⟩, rfl, rfl, rfl, rfl, rfl⟩

theorem retireNow_bootKeeps (s : State) (x : Nat × Nat) : BootKeeps s (retireNow s x) := by
  unfold retireNow
  split
  · exact .refl s
  · exact BootKeeps.record _ _ ⟨⟨rfl⟩, rfl, rfl, rfl, rfl, rfl⟩

theorem trainHbm_bootKeeps (r : StartReport) (s : State) : BootKeeps s (trainHbm r s) := by
  unfold trainHbm
  extract_lets s1 s2 s3
  have hRepairs : BootKeeps s s1 := (BootKeeps.foldl (hardenRepair_bootKeeps r) _ s).trans ⟨⟨rfl⟩, rfl, rfl, rfl, rfl, rfl⟩
  have hRetired : BootKeeps s s3 := (hRepairs.trans (.foldl retireNow_bootKeeps _ s1)).trans ⟨⟨rfl⟩, rfl, rfl, rfl, rfl, rfl⟩
  split
  · exact hRetired.trans (noteError_bootKeeps 6 s3)
  · exact hRetired

/-! ### The ports train (R415) -/

/-- Every port that is told to train does. -/
theorem trainPorts_training (l : List Nat) (s : State) : ∀ p ∈ l, (claspOf p (l.foldl (fun s p => trainPort p s) s)).state = 1 := by
  induction l using List.reverseRecOn with
  | nil => exact fun p hp => absurd hp List.not_mem_nil
  | append_singleton l q ih =>
    intro p hp
    rw [List.foldl_append]
    by_cases hpq : p = q
    · subst hpq
      exact (claspOf_trainPort p _).2.1
    · have hMem : p ∈ l := (List.mem_append.mp hp).resolve_right (by simpa using hpq)
      have hKept : claspOf p (trainPort q (l.foldl (fun s p => trainPort p s) s)) = claspOf p (l.foldl (fun s p => trainPort p s) s) := by
        rw [trainPort, claspOf_beginTraining_ne hpq, claspOf_onClasp_ne hpq]
      exact (congrArg Clasp.state hKept).trans (ih p hMem)

theorem trainPorts_does (l : List Nat) (s : State) : Does [.fabric] s (l.foldl (fun s p => trainPort p s) s) :=
  does_foldl (fun x p => trainPort_does p x) l (does_refl _ s)

/-! ### Lifetime images and the boot record (R421, R436, R445, R449) -/

theorem overCopy_images (x : Option BootRec) (f : FlashSt) : (f.overCopy x).images = f.images ∧ (f.overCopy x).nextImage = f.nextImage := by
  unfold FlashSt.overCopy
  split
  · exact ⟨rfl, rfl⟩
  · exact ⟨rfl, rfl⟩

theorem bootRecord_images (f : FlashSt) : (bootRecord f).images = f.images ∧ (bootRecord f).nextImage = f.nextImage := by
  unfold bootRecord
  split
  · exact overCopy_images _ f
  · exact ⟨rfl, rfl⟩

/-- The image from which the counters come: a flip of the boot record moves none, and a torn one has gone. -/
theorem findFlash_latest (r : StartReport) (s : State) {f : FlashSt} (h : s.flash = bootRecord f) :
    (findFlash r s).flash.latest = (if r.tornImage then f.tearImage else f).latest := by
  obtain ⟨hImages, hNext⟩ := bootRecord_images f
  unfold findFlash
  split
  · rw [onFlash_flash, h, FlashSt.latest, FlashSt.tearImage, hImages, hNext, FlashSt.latest, FlashSt.tearImage]
  · rw [h, FlashSt.latest, hImages, FlashSt.latest]

/-- A power loss during a write of the boot record leaves the earlier copy in force. -/
theorem bootRec_tearBoot (f : FlashSt) : f.tearBoot.bootRec = f.bootRec := by
  unfold FlashSt.tearBoot FlashSt.overCopy
  cases hSecond : f.second with
  | true =>
    have hTorn : ({ f with copy0 := none } : FlashSt).second = true := by
      unfold FlashSt.second at hSecond ⊢
      cases hCopy1 : f.copy1 with
      | none => cases hCopy0 : f.copy0 <;> simp [hCopy0, hCopy1] at hSecond
      | some r => rfl
    simp [FlashSt.bootRec, hSecond, hTorn]
  | false =>
    have hFirst : ({ f with copy1 := none } : FlashSt).second = false := by
      unfold FlashSt.second
      cases f.copy0 <;> rfl
    simp [FlashSt.bootRec, hSecond, hFirst]

/-! ### START_UP (R415, R436) -/

theorem exec_startUp_of_canStart {s : State} (r : StartReport) (h : canStart s = true) : exec (.startUp r) s = .next (startUp r s) := by
  change effect (onlyIf (canStart s) (startUp r)) s = _
  rw [effect_onlyIf_of_true h]
  exact effect_eq_next rfl (startUp_does r s).pending_eq

/-- The part at step 7, as the boot ROM finds it: the reset of the flash is deasserted, and the boot record read (R424, R462). -/
def atBootRom (s : State) : State := deriveHallmark (onFlash bootRecord (onPins (fun p => { p with flReset := false }) (endReset s)))

theorem atBootRom_dev (s : State) : (atBootRom s).dev = s.dev := by
  rw [atBootRom, deriveHallmark, onIdent_dev, onFlash_dev, onPins_dev]
  rfl

theorem boot_of_some {r : StartReport} {s : State} {slot : Nat} (h : bootChoice r (atBootRom s) = some slot) :
    boot r (endReset s) = bootFirmware slot r (atBootRom s) := by
  change bootChoice r (deriveHallmark _) = _ at h
  simp only [boot, h]
  rfl

theorem boot_of_none {r : StartReport} {s : State} (h : bootChoice r (atBootRom s) = none) :
    boot r (endReset s) = setState .failed (noteError 4 (onDev (fun d => { d with bootStage := 2 }) (atBootRom s))) := by
  change bootChoice r (deriveHallmark _) = _ at h
  simp only [boot, h]
  rfl

/-- The parts of a start-up that a cut does not reach. -/
theorem startUp_of_whole {r : StartReport} {s : State} (h : (r.cutFlip && s.flash.swap) = false) : startUp r s = boot r (endReset s) := by
  rw [startUp, h]
  rfl

theorem startUp_of_cut {r : StartReport} {s : State} (h : (r.cutFlip && s.flash.swap) = true) : startUp r s = ioFall (onFlash FlashSt.tearBoot s) :=
  if_pos h

/-- Steps 9 to 11 before the ports train. -/
def stacksTrained (slot : Nat) (r : StartReport) (s : State) : State := trainHbm r (silenceRegions r (startFirmware slot r s))

theorem stacksTrained_bootKeeps (slot : Nat) (r : StartReport) (s : State) : BootKeeps (firmwareStarts slot r s) (stacksTrained slot r s) :=
  ((startFirmware_bootKeeps slot r s).trans (silenceRegions_bootKeeps r _)).trans (trainHbm_bootKeeps r _)

theorem bootFirmware_eq (slot : Nat) (r : StartReport) (s : State) : bootFirmware slot r s
    = onDev (fun d => { d with bootStage := 5 }) ((List.range 20).foldl (fun s p => trainPort p s) (stacksTrained slot r s)) := rfl

theorem bootFirmware_bootKeeps (slot : Nat) (r : StartReport) (s : State) : BootKeeps (firmwareStarts slot r s) (bootFirmware slot r s) := by
  have hPorts := trainPorts_does (List.range 20) (stacksTrained slot r s)
  have hTrained : BootKeeps (stacksTrained slot r s) (bootFirmware slot r s) := by
    rw [bootFirmware_eq]
    exact BootKeeps.trans (.of_does hPorts (.of_does hPorts) (by rw [hPorts.life_eq])) ⟨⟨rfl⟩, rfl, rfl, rfl, rfl, rfl⟩
  exact (stacksTrained_bootKeeps slot r s).trans hTrained

theorem bootFirmware_training (slot : Nat) (r : StartReport) (s : State) {p : Nat} (hp : p < 20) : (claspOf p (bootFirmware slot r s)).state = 1 := by
  rw [bootFirmware_eq]
  generalize stacksTrained slot r s = u
  exact trainPorts_training (List.range 20) u p (List.mem_range.mpr hp)

theorem firmwareStarts_cycles (slot : Nat) (r : StartReport) (s : State) :
    (firmwareStarts slot r s).life.now.cycles = (findFlash r s).flash.latest.life.cycles + 1 := rfl

theorem firmwareStarts_clocks (slot : Nat) (r : StartReport) (s : State) :
    (firmwareStarts slot r s).clocks = { s.clocks with beatArmed := true } := by
  change { (loadLifetime r.tornSlot (findFlash r s)).clocks with beatArmed := true } = _
  rw [(loadLifetime_does _ _).clocks_eq, (findFlash_does _ _).clocks_eq]

theorem firmwareStarts_pins (slot : Nat) (r : StartReport) (s : State) : (firmwareStarts slot r s).pins = s.pins := by
  rw [firmwareStarts, onIdent_pins, onDev_pins, onClocks_pins, (loadLifetime_does _ _).pins_eq, (findFlash_does _ _).pins_eq]

theorem startUp_boots {r : StartReport} {s : State} {slot : Nat} (hStart : canStart s = true) (hWhole : (r.cutFlip && s.flash.swap) = false)
    (hChoice : bootChoice r (atBootRom s) = some slot) : completes (.startUp r) s fun t =>
      t.clocks.coreReset = false ∧ t.dev.bootStage = 5 ∧ t.dev.bootSlot = slot ∧ t.clocks.beatArmed = true
      ∧ t.ident.secretOpen = false ∧ t.ident.burnFails = r.burnFails
      ∧ t.life.now.cycles = (if r.tornImage then s.flash.tearImage else s.flash).latest.life.cycles + 1
      ∧ t.ident.loaded = fwLoaded (if slot = 1 then slotA (bootRecord s.flash) else slotB (bootRecord s.flash)).image
      ∧ t.pins.vrCore = true ∧ t.pins.flReset = false ∧ ∀ p, p < 20 → (claspOf p t).state = 1 := by
  have hBoot : startUp r s = bootFirmware slot r (atBootRom s) := (startUp_of_whole hWhole).trans (boot_of_some hChoice)
  have hKeeps := bootFirmware_bootKeeps slot r (atBootRom s)
  have hClocks := firmwareStarts_clocks slot r (atBootRom s)
  have hPins := hKeeps.pins.trans (firmwareStarts_pins slot r (atBootRom s))
  have hFlash : (atBootRom s).flash = bootRecord s.flash := rfl
  refine ⟨_, hBoot ▸ exec_startUp_of_canStart r hStart, ?_, rfl, hKeeps.slot.bootSlot, ?_, ?_, ?_, ?_, ?_, ?_, ?_, fun p hp => ?_⟩
  · rw [hKeeps.coreReset, hClocks]
    rfl
  · rw [hKeeps.beatArmed, hClocks]
  · rw [hKeeps.ident]
    rfl
  · rw [hKeeps.ident]
    rfl
  · rw [hKeeps.cycles, firmwareStarts_cycles, findFlash_latest r _ hFlash]
  · rw [hKeeps.ident, ← hFlash]
    rfl
  · rw [hPins]
    rfl
  · rw [hPins]
    rfl
  · exact bootFirmware_training slot r _ hp

theorem startUp_cut {r : StartReport} {s : State} (hStart : canStart s = true) (hCut : (r.cutFlip && s.flash.swap) = true) :
    completes (.startUp r) s fun t => t.pins.ioUp = false ∧ t.clocks.coreReset = true ∧ t.flash.bootRec = s.flash.bootRec :=
  ⟨_, startUp_of_cut hCut ▸ exec_startUp_of_canStart r hStart, rfl, rfl, bootRec_tearBoot s.flash⟩

theorem noteError_dev (e : Nat) (s : State) :
    (noteError e s).dev = { s.dev with bootError := if s.dev.bootError = 0 ∨ s.dev.bootError = 3 then e else s.dev.bootError } := by
  rw [noteError, onDev_dev]
  by_cases h : s.dev.bootError = 0 ∨ s.dev.bootError = 3
  · simp [h]
  · simp [h]

theorem startUp_fails {r : StartReport} {s : State} (hStart : canStart s = true) (hWhole : (r.cutFlip && s.flash.swap) = false)
    (hChoice : bootChoice r (atBootRom s) = none) : completes (.startUp r) s fun t =>
      t.clocks.coreReset = false ∧ t.pins.flReset = false ∧ t.dev.state = .failed ∧ t.dev.bootStage = 2
      ∧ t.dev.bootError = (if s.dev.bootError = 0 ∨ s.dev.bootError = 3 then 4 else s.dev.bootError) := by
  have hBoot := (startUp_of_whole hWhole).trans (boot_of_none hChoice)
  refine ⟨_, hBoot ▸ exec_startUp_of_canStart r hStart, ?_, ?_, ?_⟩
  · rw [(setState_does _ _).clocks_eq, (noteError_does _ _).clocks_eq]
    rfl
  · rw [(setState_does _ _).pins_eq, (noteError_does _ _).pins_eq]
    rfl
  · rw [setState_dev, noteError_dev, onDev_dev, atBootRom_dev]
    exact ⟨rfl, rfl, rfl⟩

/-! ### The obligation -/

/-- Settles O44: a start-up by the choice of the boot ROM (`startUp_boots`, `startUp_fails`) or its cut; READY by the wait of step 12. -/
theorem startUpRuns : Obligations.StartUpRuns := by
  refine ⟨fun s r slot => startUp_boots, fun s r => startUp_cut, fun s r => startUp_fails, fun s b hStart => ?_,
    fun s hNot => ⟨fun r => effect_onlyIf_of_false hNot, fun b => effect_onlyIf_of_false hNot⟩,
    fun s => ⟨fun hCore hBooting hStage hCool => ?_, fun hNot => effect_onlyIf_of_false ?_⟩⟩
  · change effect (onlyIf (canStart s) (startupError b)) s = _
    rw [effect_onlyIf_of_true hStart]
    exact effect_eq_next rfl rfl
  · change effect (onlyIf (coreRuns s && decide (s.dev.state = .booting) && s.dev.bootStage = 5 && decide (s.power.tjMax ≤ 1360)) _) s = _
    rw [effect_onlyIf_of_true (by simp [hCore, hBooting, hStage, hCool])]
    exact effect_eq_next rfl rfl
  · simp only [Bool.and_eq_false_iff, decide_eq_false_iff_not, not_le, or_assoc]
    exact hNot

end Sys2Proof.Machine
end

section
/-! PROOFS. The SPDM responder: when it answers, the connection, certificates, measurements and challenges: the obligation on it (R432 to R436). -/

namespace Sys2Proof.Machine
open Sys2Proof

/-! ### When the responder answers (R433, R436) -/

section Answer

variable {p : PPort} {f : SpdmConn → State → (SpdmConn × Spdm) × State} {s : State}

theorem exec_of_answer {x : Instr} {c d : SpdmConn} {r : Spdm} {u : State} (hUp : doeUp p s = true) (hAlive : responderDead s = false)
    (hRuns : responderRuns s = true) (hx : exec x s = effect (answer p f) s) (h : f (connOf p s) s = ((c, r), u))
    (hConn : { c with last := some r } = d) (hPending : u.pending = s.pending) : exec x s = .next (setConn p d u) := by
  refine hx.trans (effect_eq_next ?_ hPending)
  simp [answer, hUp, hAlive, hRuns, h, ← hConn]

theorem effect_answer_of_dead (hUp : doeUp p s = true) (hDead : responderDead s = true) :
    effect (answer p f) s = .next (setConn p { connOf p s with last := some (.error 3) } s) := by
  refine effect_eq_next ?_ (setConn_does p _ s).pending_eq
  simp [answer, hUp, hDead, errBusy]

theorem effect_answer_of_silent (h : doeUp p s = false ∨ (responderDead s = false ∧ responderRuns s = false)) : effect (answer p f) s = .next s := by
  refine effect_of_eq ?_
  obtain hDown | ⟨hAlive, hStill⟩ := h
  · simp [answer, hDown]
  · simp [answer, hAlive, hStill]

end Answer

theorem reply_of_not_ok {ok : SpdmConn → Bool} {note : SpdmConn → Spdm → SpdmConn} {f : State → Spdm} {c : SpdmConn} {s : State}
    (h : ok c = false) : reply ok note f c s = ((c, .error 4), s) := by
  simp [reply, h, errUnexpected]

theorem reply_of_error {ok : SpdmConn → Bool} {note : SpdmConn → Spdm → SpdmConn} {f : State → Spdm} {c : SpdmConn} {s : State} {e : Nat}
    (h : ok c = true) (hError : f s = .error e) : reply ok note f c s = ((c, .error e), s) := by
  simp [reply, h, hError]

theorem reply_of_ok {ok : SpdmConn → Bool} {note : SpdmConn → Spdm → SpdmConn} {f : State → Spdm} {c : SpdmConn} {s : State}
    (h : ok c = true) (hAnswer : ∀ e, f s ≠ .error e) : reply ok note f c s = ((note c (f s), f s), s) := by
  rw [reply, h, if_neg (by decide)]
  split
  · exact absurd ‹_› (hAnswer _)
  · rfl

theorem exec_unsupportedRequest {code : Byte} (h : code.toNat ∉ [0x81, 0x82, 0x83, 0x84, 0xE0, 0xE1, 0xE3]) (p : PPort) (s : State) :
    exec (.unsupportedRequest p code) s = effect (answer p (fun c s => ((c, .error 7), s))) s := by
  change effect (onlyIf (!listedRequests.contains code.toNat) _) s = _
  rw [effect_onlyIf_of_true (by simpa [listedRequests] using h)]
  rfl

/-- Every request but the discovery and the abort is an answer of the responder. -/
theorem exec_request {p : PPort} {slot off len : Nat} {sel : MeasSel} {signed h e : Bool} {nonce : List Byte} {code : Byte}
    (hCode : code.toNat ∉ [0x81, 0x82, 0x83, 0x84, 0xE0, 0xE1, 0xE3]) :
    ∀ x ∈ [Instr.getVersion p, .getCapabilities p, .negotiateAlgorithms p h e, .getDigests p, .getCertificate p slot off len,
      .getMeasurements p sel signed nonce, .challenge p slot nonce, .unsupportedRequest p code], ∃ f, ∀ s, exec x s = effect (answer p f) s := by
  simp only [List.forall_mem_cons, List.not_mem_nil, false_implies, implies_true, and_true]
  exact ⟨⟨_, fun _ => rfl⟩, ⟨_, fun _ => rfl⟩, ⟨_, fun _ => rfl⟩, ⟨_, fun _ => rfl⟩, ⟨_, fun _ => rfl⟩, ⟨_, fun _ => rfl⟩, ⟨_, fun _ => rfl⟩,
    ⟨_, exec_unsupportedRequest hCode p⟩⟩

/-! ### The connection (R433) -/

section Runs

variable {p : PPort} {s : State} (hUp : doeUp p s = true) (hAlive : responderDead s = false) (hRuns : responderRuns s = true)
include hUp hAlive hRuns

theorem exec_getVersion : exec (.getVersion p) s = .next (setConn p { SpdmConn.reset with
    versionDone := true, last := some (.version 1 3), start := Config.spdmMessage 0x84 [] ++ Spdm.bytes (.version 1 3) } s) :=
  exec_of_answer hUp hAlive hRuns rfl rfl rfl rfl

theorem exec_getCapabilities : exec (.getCapabilities p) s = .next (setConn p (if (connOf p s).versionDone then
    { connOf p s with capsDone := true, last := some (.capabilities responderCaps 17 65536 65536), meas := [],
                      start := (connOf p s).start ++ Config.spdmMessage 0xE1 [] ++ Spdm.bytes (.capabilities responderCaps 17 65536 65536) }
    else { connOf p s with last := some (.error 4) }) s) := by
  cases hDone : (connOf p s).versionDone with
  | true => exact exec_of_answer hUp hAlive hRuns rfl (if_pos hDone) rfl rfl
  | false => exact exec_of_answer hUp hAlive hRuns rfl (if_neg (ne_true_of_eq_false hDone)) rfl rfl

theorem exec_negotiateAlgorithms (h e : Bool) : exec (.negotiateAlgorithms p h e) s = .next (setConn p (if (connOf p s).capsDone then
    (if h && e then
      let r : Spdm := .algorithms 2 1 none [{ registry := 3, vendor := 0x1E5B, algorithm := 0x0128 }]
      { connOf p s with algsDone := true, last := some r, meas := [],
                        start := (connOf p s).start ++ Config.spdmMessage 0xE3 [[BitVec.ofNat 8 3]] ++ r.bytes }
      else { connOf p s with last := some (.error 1) })
    else { connOf p s with last := some (.error 4) }) s) := by
  cases hDone : (connOf p s).capsDone with
  | false => exact exec_of_answer hUp hAlive hRuns rfl (if_pos (by rw [hDone]; rfl)) rfl rfl
  | true =>
    have hGo : ¬(!(connOf p s).capsDone) = true := by rw [hDone]; decide
    cases hOffered : h && e with
    | false => exact exec_of_answer hUp hAlive hRuns rfl ((if_neg hGo).trans (if_neg (ne_true_of_eq_false hOffered))) rfl rfl
    | true =>
      obtain ⟨rfl, rfl⟩ := Bool.and_eq_true_iff.mp hOffered
      exact exec_of_answer hUp hAlive hRuns rfl (if_neg hGo) rfl rfl

theorem exec_unsupportedRequest_of_runs {code : Byte} (h : code.toNat ∉ [0x81, 0x82, 0x83, 0x84, 0xE0, 0xE1, 0xE3]) :
    exec (.unsupportedRequest p code) s = .next (setConn p { connOf p s with last := some (.error 7) } s) :=
  exec_of_answer hUp hAlive hRuns (exec_unsupportedRequest h p s) rfl rfl rfl

theorem exec_before_algorithms (hDone : (connOf p s).algsDone = false) (slot off len : Nat) (sel : MeasSel) (signed : Bool) (nonce : List Byte) :
    ∀ x ∈ [Instr.getDigests p, .getCertificate p slot off len, .getMeasurements p sel signed nonce, .challenge p slot nonce],
      exec x s = .next (setConn p { connOf p s with last := some (.error 4) } s) := by
  have hGo : (!(connOf p s).algsDone) = true := by rw [hDone]; rfl
  simp only [List.forall_mem_cons, List.not_mem_nil, false_implies, implies_true, and_true]
  exact ⟨exec_of_answer hUp hAlive hRuns rfl (reply_of_not_ok hDone) rfl rfl, exec_of_answer hUp hAlive hRuns rfl (reply_of_not_ok hDone) rfl rfl,
    exec_of_answer hUp hAlive hRuns rfl (congrArg (·, s) (if_pos hGo)) rfl rfl, exec_of_answer hUp hAlive hRuns rfl (if_pos hGo) rfl rfl⟩

/-! ### Certificates (R432, R433) -/

variable (hDone : (connOf p s).algsDone = true)
include hDone

theorem exec_getDigests : exec (.getDigests p) s
    = .next (setConn p (let r : Spdm := .digests (if s.ident.certOk then [sha256 Config.certChain] else [])
      { connOf p s with last := some r, meas := [], certs := (connOf p s).certs ++ Config.spdmMessage 0x81 [] ++ r.bytes }) s) :=
  exec_of_answer hUp hAlive hRuns rfl (reply_of_ok hDone nofun) rfl rfl

theorem exec_getCertificate_of_populated (off len : Nat) (hCert : s.ident.certOk = true) : exec (.getCertificate p 0 off len) s
    = .next (setConn p (if Config.certChain.length ≤ off then { connOf p s with last := some (.error 1) }
        else
          let r : Spdm := .certificate ((Config.certChain.drop off).take len)
            (Config.certChain.length - off - ((Config.certChain.drop off).take len).length)
          { connOf p s with last := some r, meas := [],
                            certs := (connOf p s).certs ++ Config.spdmMessage 0x82 [leBytes 1 0, leBytes 4 off, leBytes 4 len] ++ r.bytes }) s) := by
  by_cases hEnd : Config.certChain.length ≤ off
  · rw [if_pos hEnd]
    exact exec_of_answer hUp hAlive hRuns rfl (reply_of_error hDone (by simp [certPortion, hEnd, errInvalid])) rfl rfl
  · rw [if_neg hEnd]
    have hPortion : certPortion 0 off len s = .certificate ((Config.certChain.drop off).take len)
        (Config.certChain.length - off - ((Config.certChain.drop off).take len).length) := by
      simp only [certPortion, slotPopulated, hCert, hEnd]
      rfl
    exact exec_of_answer hUp hAlive hRuns rfl ((reply_of_ok hDone (hPortion ▸ nofun)).trans (by rw [hPortion])) rfl rfl

theorem exec_getCertificate_of_empty {slot : Nat} (hEmpty : s.ident.certOk = false ∨ slot ≠ 0) (off len : Nat) :
    exec (.getCertificate p slot off len) s = .next (setConn p { connOf p s with last := some (.error 1) } s) :=
  exec_of_answer hUp hAlive hRuns rfl
    (reply_of_error hDone (by obtain hNone | hOther := hEmpty <;> simp [certPortion, slotPopulated, errInvalid, *])) rfl rfl

/-! ### Measurements (R434, R435) -/

theorem exec_getMeasurements_of_some {sel : MeasSel} {l : List Meas} (hBlocks : selectBlocks sel s = some l) (signed : Bool) (nonce : List Byte) :
    exec (.getMeasurements p sel signed nonce) s = .next (setConn p
      { connOf p s with meas := if signed then [] else measTranscript sel signed nonce (connOf p s) l,
                        last := some (.measurements 6 l (if signed then some (signTranscript s "responder-measurements signing"
                          ((connOf p s).start ++ measTranscript sel signed nonce (connOf p s) l)) else none)) } s) := by
  have hMeasured : measure sel signed nonce (connOf p s) s
      = ({ connOf p s with meas := if signed then [] else measTranscript sel signed nonce (connOf p s) l },
        .measurements 6 l (if signed then some (signTranscript s "responder-measurements signing"
          ((connOf p s).start ++ measTranscript sel signed nonce (connOf p s) l)) else none)) := by
    rw [measure, if_neg (by rw [hDone]; decide), hBlocks]
    cases signed <;> rfl
  exact exec_of_answer hUp hAlive hRuns rfl (congrArg (·, s) hMeasured) rfl rfl

theorem exec_getMeasurements_of_none {sel : MeasSel} (hBlocks : selectBlocks sel s = none) (signed : Bool) (nonce : List Byte) :
    exec (.getMeasurements p sel signed nonce) s = .next (setConn p { connOf p s with last := some (.error 1) } s) := by
  have hMeasured : measure sel signed nonce (connOf p s) s = (connOf p s, .error 1) := by
    rw [measure, hDone, hBlocks]
    rfl
  exact exec_of_answer hUp hAlive hRuns rfl (congrArg (·, s) hMeasured) rfl rfl

/-! ### Challenges (R433, R434) -/

theorem exec_challenge_of_empty {slot : Nat} (hEmpty : s.ident.certOk = false ∨ slot ≠ 0) (nonce : List Byte) :
    exec (.challenge p slot nonce) s = .next (setConn p { connOf p s with last := some (.error 1) } s) := by
  refine exec_of_answer hUp hAlive hRuns (c := connOf p s) (r := .error 1) rfl ?_ rfl rfl
  obtain hNone | hOther := hEmpty <;> simp [challengeReply, slotPopulated, errInvalid, *]

/-- The responder's own nonce is the next 32 free bytes (log entry 6). -/
theorem exec_challenge_of_populated (nonce : List Byte) (hCert : s.ident.certOk = true) : exec (.challenge p 0 nonce) s
    = .next (setConn p { connOf p s with certs := [], meas := [], last := some (.challengeAuth chainDigest (measurementsDigest s) (drawBytes 8 s).1
        (signTranscript s "responder-challenge_auth signing" (challengeTranscript 0 nonce (connOf p s) (measurementsDigest s) (drawBytes 8 s).1))) }
      (drawBytes 8 s).2) := by
  have hGo : ¬(!(connOf p s).algsDone) = true := by rw [hDone]; decide
  have hSlot : ¬(!slotPopulated 0 s) = true := by rw [slotPopulated, hCert]; decide
  exact exec_of_answer hUp hAlive hRuns (c := { connOf p s with certs := [], meas := [] }) rfl ((if_neg hGo).trans (if_neg hSlot)) rfl
    (drawBytes_does 8 s).pending_eq

end Runs

theorem length_drawBytes (n : Nat) (s : State) : (drawBytes n s).1.length = 4 * n := by
  induction n generalizing s with
  | zero => rfl
  | succ n ih =>
    simp only [drawBytes, List.length_append, length_leBytes, ih]
    omega

theorem drawBytes_freeIdx (n : Nat) (s : State) : (drawBytes n s).2.freeIdx = s.freeIdx + n := by
  induction n generalizing s with
  | zero => rfl
  | succ n ih =>
    rw [drawBytes, ih]
    simp only [drawFree]
    omega

theorem connOf_setConn (p : PPort) (c : SpdmConn) (s : State) : connOf p (setConn p c s) = c := by
  cases p with
  | a => rfl
  | b => rfl

theorem length_allBlocks (s : State) : (allBlocks s).length = 6 := rfl

/-! ### The obligation -/

theorem exec_doeAbort_of_up {p : PPort} {s : State} (h : doeUp p s = true) : exec (.doeAbort p) s = .next (setConn p SpdmConn.reset s) :=
  (effect_onlyIf_of_true h).trans (effect_eq_next rfl rfl)

theorem exec_doeDiscovery_of_up {p : PPort} {s : State} (h : doeUp p s = true) (i : Nat) : exec (.doeDiscovery p i) s
    = .next (setConn p { connOf p s with last := some (
        if i = 0 then .doe 1 0 1 else if i = 1 then .doe 1 1 0 else .doe 0xFFFF 0xFF 0) } s) := by
  have hRow : discovery i = if i = 0 then .doe 1 0 1 else if i = 1 then .doe 1 1 0 else .doe 0xFFFF 0xFF 0 := by
    match i with
    | 0 => rfl
    | 1 => rfl
    | n + 2 => rfl
  rw [← hRow]
  exact (effect_onlyIf_of_true h).trans (effect_eq_next rfl rfl)

/-- Settles O48: request by request, with the connection as it stands; outside them by whether the responder is up, dead or silent. -/
theorem spdmResponder : Obligations.SpdmResponder := by
  refine ⟨fun s p hUp hAlive hRuns => ⟨exec_getVersion hUp hAlive hRuns, exec_getCapabilities hUp hAlive hRuns, by decide,
      exec_negotiateAlgorithms hUp hAlive hRuns, fun code hCode => exec_unsupportedRequest_of_runs hUp hAlive hRuns hCode,
      exec_before_algorithms hUp hAlive hRuns⟩,
    fun s p => ⟨fun hUp => ⟨exec_doeAbort_of_up hUp, exec_doeDiscovery_of_up hUp⟩,
      fun hDown => ⟨effect_onlyIf_of_false hDown, fun i => effect_onlyIf_of_false hDown⟩⟩,
    fun s p slot off len sel signed nonce h e code hCode x hx => ?_,
    fun s p hUp hAlive hRuns hDone => ⟨exec_getDigests hUp hAlive hRuns hDone, exec_getCertificate_of_populated hUp hAlive hRuns hDone,
      fun slot hEmpty => ⟨exec_getCertificate_of_empty hUp hAlive hRuns hDone hEmpty, exec_challenge_of_empty hUp hAlive hRuns hDone hEmpty⟩,
      fun sel signed nonce => ⟨?_, rfl, length_allBlocks s⟩, fun nonce hCert => ?_⟩⟩
  · obtain ⟨f, hf⟩ := exec_request hCode x hx
    rw [hf s]
    exact ⟨effect_answer_of_silent, effect_answer_of_dead⟩
  · cases hBlocks : selectBlocks sel s with
    | some l => exact exec_getMeasurements_of_some hUp hAlive hRuns hDone hBlocks signed nonce
    | none => exact exec_getMeasurements_of_none hUp hAlive hRuns hDone hBlocks signed nonce
  · refine ⟨_, exec_challenge_of_populated hUp hAlive hRuns hDone nonce hCert, drawBytes_freeIdx 8 s, _, length_drawBytes 8 s, ?_⟩
    rw [connOf_setConn]
    exact ⟨rfl, rfl, rfl⟩

end Sys2Proof.Machine
end

section
/-! PROOFS. What a tick makes of the frame that it ends: its outcome, the counters, case memory, statistics and the forme index: the obligation on
commits and withheld ticks (R39, R40, R43, R44, R50, R347, R407, R408). -/

namespace Sys2Proof.Machine
open Sys2Proof

/-! ### The counters and the fabric, where an operation leaves them -/

/-- The slip counter and TICK_LAST_COMMIT. -/
def marksOf (s : State) : W64 × W64 := (s.tick.slips, s.tick.lastCommit)

theorem Does.marksOf_eq {l : List Comp} {s t : State} (h : Does l s t) (hk : Comp.tick ∉ l) : marksOf t = marksOf s := by
  simp only [marksOf, h.tick_eq hk]

theorem TrafficOnly.of_does {l : List Comp} {s t : State} (h : Does l s t) (hk : Comp.fabric ∉ l) : TrafficOnly s t :=
  .of_eq (h.fabric_eq hk)

/-! ### Events leave the forme index (R361 to R370) -/

/-- The chip stands at the same forme index. -/
structure SameForme (s t : State) : Prop where
  formeIdx : t.frame.formeIdx = s.frame.formeIdx

namespace SameForme

theorem of_does {l : List Comp} {s t : State} (h : Does l s t) (hk : Comp.frame ∉ l) : SameForme s t :=
  ⟨congrArg FrameSt.formeIdx (h.frame_eq hk)⟩

theorem refl (s : State) : SameForme s s := ⟨rfl⟩

theorem trans {s t u : State} (h : SameForme s t) (h' : SameForme t u) : SameForme s u := ⟨h'.formeIdx.trans h.formeIdx⟩

theorem foldl {β : Type} {f : State → β → State} (hf : ∀ x b, SameForme x (f x b)) (xs : List β) (s : State) : SameForme s (xs.foldl f s) :=
  List.foldlRecOn (motive := SameForme s) xs f (.refl s) fun _ h b _ => h.trans (hf _ b)

end SameForme

theorem inDoubt_sameForme (s : State) : SameForme s (inDoubt s) := by
  unfold inDoubt
  split
  · exact ⟨by rw [raiseHold_frame]⟩
  · exact .refl s

theorem severeAction_sameForme (unit source : Nat) (forced : Bool) (action : Nat) (s : State) :
    SameForme s (severeAction unit source forced action s) := by
  unfold severeAction
  split
  · extract_lets dev u
    have hStop : SameForme s (stopCell unit u) := ⟨rfl⟩
    split
    · exact hStop.trans (inDoubt_sameForme _)
    · exact hStop
  · exact .of_does (askRetrain_does _ s) (by decide)
  · exact .of_does (retirePc_does _ _ s) (by decide)
  · exact ⟨rfl⟩
  · exact ⟨rfl⟩
  · exact .refl s

theorem sameForme_eventSteps : EventSteps SameForme where
  refl := .refl
  trans := .trans
  elsewhere h hk _ _ := .of_does h hk
  stop _ _ := ⟨rfl⟩
  doubt := inDoubt_sameForme
  retrain p s := .of_does (askRetrain_does p s) (by decide)
  stand l unit source forced s := .of_does (standFault_does l unit source forced s) (by decide)
  severe := severeAction_sameForme

theorem countDoubt_sameForme {s u : State} (h : u.frame = s.frame) (l : Level) (unit source : Nat) :
    SameForme s (countEvent l unit source (inDoubt u)) :=
  (SameForme.trans ⟨congrArg FrameSt.formeIdx h⟩ (inDoubt_sameForme u)).trans (sameForme_eventSteps.countEvent l unit source _)

theorem stagingOverflow_sameForme (stack : Nat) (s : State) : SameForme s (stagingOverflow stack s) := by
  unfold stagingOverflow
  split
  · exact .refl s
  · refine countDoubt_sameForme ?_ _ _ _
    rfl

theorem stageLocal_sameForme (k : Nat) (s : State) : SameForme s (stageLocal k s).1 := by
  unfold stageLocal
  split_ifs
  · exact .refl s
  · exact ⟨congrArg FrameSt.formeIdx (takePage_does (pageStack k) none s).frame_eq⟩
  · exact stagingOverflow_sameForme _ s

theorem hbmWrite_sameForme (a : Nat) (bytes : List Byte) (s : State) : SameForme s (hbmWrite a bytes s) := by
  refine .foldl (fun x k => ?_) _ s
  have hStage := stageLocal_sameForme k x
  split
  · exact .refl x
  · split
    next hLocal =>
      rw [hLocal] at hStage
      exact hStage
    next hLocal =>
      rw [hLocal] at hStage
      exact hStage.trans ⟨rfl⟩

theorem mirrorWrite_sameForme (cell page off : Nat) (bytes : List Byte) (s : State) : SameForme s (mirrorWrite cell page off bytes s) := by
  unfold mirrorWrite
  split
  · exact hbmWrite_sameForme _ _ s
  · exact .refl s

theorem mirrorCarried_sameForme (s : State) : SameForme s (mirrorCarried s) := .foldl (fun x _ => mirrorWrite_sameForme _ _ _ _ x) _ s

theorem mirrorCarried_traffic (s : State) : TrafficOnly s (mirrorCarried s) := .foldl (fun x _ => mirrorWrite_traffic _ _ _ _ x) _ s

/-! ### What the tick settles, component by component (R40, R43, R44) -/

/-- The state in which the memories are settled. -/
def memoriesSettled (k : FrameEnd) (s : State) : State := mirrorCarried (settleHbm k (settleCase k s))

theorem settle_caseMem (k : FrameEnd) (s : State) : (settle k s).caseMem = (settleCase k s).caseMem := by
  unfold settle
  rw [(does_foldl writeStatArea_does _ (does_refl [.hbm] _)).caseMem_eq]
  simp only [onTick_caseMem, onFrame_caseMem, onStep_caseMem, onStats_caseMem, onFabric_caseMem, (mirrorCarried_does _).caseMem_eq,
    (settleHbm_does k _).caseMem_eq]

theorem settle_frame (k : FrameEnd) (s : State) : (settle k s).frame
    = settleFrame k (formesRun s) (ownTargets s || k = .replayFail) (closingTick s) (memoriesSettled k s).frame := by
  unfold settle
  rw [(does_foldl writeStatArea_does _ (does_refl [.hbm] _)).frame_eq]
  rfl

theorem settle_fabric (k : FrameEnd) (s : State) :
    (settle k s).fabric = settleContrib (inboundCommits k) (exchangeStage s) (memoriesSettled k s).fabric := by
  unfold settle
  rw [(does_foldl writeStatArea_does _ (does_refl [.hbm] _)).fabric_eq]
  rfl

theorem settle_stats (k : FrameEnd) (s : State) : (settle k s).stats = settleStats k s.step.table (memoriesSettled k s).stats := by
  unfold settle
  rw [(does_foldl writeStatArea_does _ (does_refl [.hbm] _)).stats_eq]
  rfl

/-- A withheld tick clears what the memories have staged, and leaves statistics and fabric to the rest of the tick (R43). -/
theorem memoriesSettled_withhold (s : State) : (memoriesSettled .withhold s).stats = s.stats ∧ TrafficOnly s (memoriesSettled .withhold s)
    ∧ SameForme s (memoriesSettled .withhold s) := by
  have hCase := settleCase_does .withhold s
  have hHbm : Does [.hbm] (settleCase .withhold s) (settleHbm .withhold (settleCase .withhold s)) := hbmWithhold_does _
  refine ⟨(mirrorCarried_does _).stats_eq.trans (hHbm.stats_eq.trans hCase.stats_eq), ?_, ?_⟩
  · exact (TrafficOnly.of_eq (hHbm.fabric_eq.trans hCase.fabric_eq)).trans (mirrorCarried_traffic _)
  · exact ((SameForme.of_does hCase (by decide)).trans (.of_does hHbm (by decide))).trans (mirrorCarried_sameForme _)

/-! ### The outcome of the frame (R40 to R47, R54) -/

section FrameEnd

variable {b : State}

theorem frameEnd_of_unaligned (h : b.tick.aligned = false) : frameEnd b = .commit := by
  simp [frameEnd, h]

theorem frameEnd_of_stopped (hAligned : b.tick.aligned = true) (hStopped : b.dev.unaligned = true) : frameEnd b = .stopped := by
  simp [frameEnd, hAligned, hStopped]

variable (hAligned : b.tick.aligned = true) (hUp : b.dev.unaligned = false)
include hAligned hUp

theorem frameEnd_of_replay (hReplay : b.frame.replaying = true) (hDoubt : b.frame.doubt = false) (hLate : b.frame.late = false) :
    frameEnd b = .replay := by
  simp [frameEnd, hAligned, hUp, hReplay, hDoubt, hLate]

theorem frameEnd_of_replay_fails (hReplay : b.frame.replaying = true) (hBad : b.frame.doubt = true ∨ b.frame.late = true) :
    frameEnd b = .replayFail := by
  simp [frameEnd, hAligned, hUp, hReplay, hBad]

theorem frameEnd_of_targeted (hReplay : b.frame.replaying = false) (hHold : targeted b = true) : frameEnd b = .withhold := by
  simp [frameEnd, hAligned, hUp, hReplay, hHold]

theorem frameEnd_of_ownLate (hReplay : b.frame.replaying = false) (hHold : targeted b = false) (hOwn : b.frame.ownLate = some b.tick.domain) :
    frameEnd b = .localHold := by
  simp [frameEnd, hAligned, hUp, hReplay, hHold, hOwn]

theorem frameEnd_of_clean (hReplay : b.frame.replaying = false) (hHold : targeted b = false) (hOwn : ¬b.frame.ownLate = some b.tick.domain) :
    frameEnd b = .commit := by
  simp [frameEnd, hAligned, hUp, hReplay, hHold, hOwn]

end FrameEnd

/-- The waits of the fabric have no say in it. -/
theorem frameEnd_endWaits (s : State) : frameEnd (endWaits s) = frameEnd s := by
  have hDoes := endWaits_does s
  have hTargeted : targeted (endWaits s) = targeted s := by
    simp only [targeted, closingTick, holdVoid, hDoes.tick_eq, hDoes.frame_eq]
  rw [frameEnd, hTargeted, hDoes.tick_eq, hDoes.dev_eq, hDoes.frame_eq, ← frameEnd]

/-! ### The frame ends -/

/-- A frame of which nothing of this chip's own commits neither unsticks it nor moves its forme index on. -/
theorem endFrame_of_not_own {s : State} {k : FrameEnd} (hEnd : frameEnd (lateAtTick s) = k) (hOwn : ownCommits k = false) :
    (endFrame s).1 = passTime (settle k (endWaits (lateAtTick s))) := by
  have hEnd' := (frameEnd_endWaits (lateAtTick s)).trans hEnd
  simp only [endFrame, hEnd', hOwn, Bool.false_and, onlyIf, Bool.false_eq_true, if_false]

theorem unstick_replaying (s : State) : (unstick s).frame.replaying = s.frame.replaying := by
  unfold unstick
  split
  · rw [(setState_does _ _).frame_eq]
    rfl
  · rfl

theorem proofCheck_replaying (s : State) : (proofCheck s).frame.replaying = s.frame.replaying := by
  unfold proofCheck
  split
  · rfl
  · split_ifs
    · rfl
    · split
      · rfl
      · extract_lets bad
        have hBad : bad.frame = s.frame := by
          unfold bad
          split
          · exact (addTail_does _ _).frame_eq
          · rfl
        exact (congrArg FrameSt.replaying hBad :)
      · rw [(finishCmd_does _ _ _ _ _).frame_eq]
      · rw [onSnap_frame, (finishCmd_does _ _ _ _ _).frame_eq]

theorem endRegen_replaying (s : State) : (endRegen s).frame.replaying = s.frame.replaying := by
  rw [endRegen, (clearRegenerated_does _).frame_eq]
  rfl

theorem closeStep_replaying (s : State) : (closeStep s).frame.replaying = s.frame.replaying := by
  have hClosed : (clearRegenerated (retireBatch (proofRecord s))).frame = s.frame :=
    (clearRegenerated_does _).frame_eq.trans ((retireBatch_does _).frame_eq.trans (proofRecord_does s).frame_eq)
  exact (congrArg FrameSt.replaying hClosed :)

theorem moveOn_replaying (dec : Bool) (s : State) : (moveOn dec s).frame.replaying = s.frame.replaying := by
  unfold moveOn
  extract_lets s1 s3
  split_ifs
  · exact endRegen_replaying s1
  · exact closeStep_replaying s1
  · exact proofCheck_replaying _
  · rfl

/-- The next frame replays behind a local withhold and a replay that fails (R44). -/
theorem endFrame_replaying {s : State} {k : FrameEnd} (hEnd : frameEnd (lateAtTick s) = k) :
    (endFrame s).1.frame.replaying = decide (k = .localHold ∨ k = .replayFail) := by
  unfold endFrame
  extract_lets s0 k' moves closing dec s1
  have hKind : k' = k := (frameEnd_endWaits _).trans hEnd
  have hMoved : (if moves then moveOn dec s1 else s1).frame.replaying = s1.frame.replaying := by
    split
    · exact moveOn_replaying dec s1
    · rfl
  have hStuck : s1.frame.replaying = (passTime (settle k' s0)).frame.replaying := by
    unfold s1 onlyIf
    split
    · exact unstick_replaying _
    · rfl
  rw [hMoved, hStuck, (passTime_does _).frame_eq, settle_frame, hKind]
  cases k <;> rfl

/-! ### The counters (R11, R40, R43) -/

theorem countMarkers_marks (t : TickSt) : (countMarkers t).slips = t.slips ∧ (countMarkers t).lastCommit = t.lastCommit := by
  unfold countMarkers
  split
  · exact ⟨rfl, rfl⟩
  · split
    · exact ⟨rfl, rfl⟩
    · exact ⟨rfl, rfl⟩

theorem passTime_marksOf (s : State) : marksOf (passTime s) = marksOf s := by
  simp [marksOf, passTime, countMarkers_marks]

theorem changeRate_marksOf (r : TickRate) (s : State) : marksOf (changeRate r s) = marksOf s := by
  have hWindow : (if 0 < s.power.winElapsed then closeWindow s else s).tick = s.tick :=
    (does_ite (closeWindow_does s) (does_refl _ _)).tick_eq
  unfold changeRate
  split
  · rfl
  · simp only [marksOf, onPower_tick, onTick_tick, (recordEvent_does _ _ _).tick_eq, openSteady, (steadySample_does _).tick_eq, hWindow]

theorem takeDomain_marksOf (s : State) : marksOf (takeDomain s) = marksOf s := by
  unfold takeDomain
  split
  · rfl
  · exact changeRate_marksOf _ s

theorem takeAlignment_marksOf (s : State) : marksOf (takeAlignment s) = marksOf s := by
  unfold takeAlignment
  split
  · rfl
  · exact (countEvent_does _ _ _ _).marksOf_eq (by decide)
  · rfl

theorem betweenFrames_marksOf (k : FrameEnd) (closing : Bool) (s : State) : marksOf (betweenFrames k closing s) = marksOf s := by
  unfold betweenFrames
  extract_lets s1 s2 s3
  have h1 : marksOf s1 = marksOf s := by
    rw [takeAlignment_marksOf, takeDomain_marksOf, (powerTick_does _).marksOf_eq (by decide), (tickLaneCounts_does _).marksOf_eq (by decide), (tickConfigs_does _).marksOf_eq (by decide)]
  have h2 : marksOf s2 = marksOf s1 := by
    rw [(tickCells_does _ _).marksOf_eq (by decide), (takeWaiting_does _).marksOf_eq (by decide), (endStop_does _).marksOf_eq (by decide)]
  have h3 : marksOf s3 = marksOf s2 :=
    ((does_onlyIf (does_refl _ _) enterReady_does).marksOf_eq (by decide)).trans ((cutSnapshot_does closing s2).marksOf_eq (by decide))
  rw [(tickRepairs_does _).marksOf_eq (by decide), (barrier_does _ _ _).marksOf_eq (by decide), h3, h2, h1]

/-- What the outcome of a frame makes of the counters and of case memory, up to the frame that opens. -/
theorem endFrame_settled {s : State} {k : FrameEnd} (hEnd : frameEnd (lateAtTick s) = k) :
    marksOf (endFrame s).1 = (if slips k then s.tick.slips + 1 else s.tick.slips,
      if ownCommits k || inboundCommits k then s.tick.count + 1 else s.tick.lastCommit)
    ∧ (endFrame s).1.caseMem = (settleCase k s).caseMem := by
  unfold endFrame
  extract_lets s0 k' moves closing dec s1
  have hKind : k' = k := (frameEnd_endWaits _).trans hEnd
  have hTick : s0.tick = s.tick := (endWaits_does _).tick_eq.trans (lateAtTick_does s).tick_eq
  have hCase : s0.caseMem = s.caseMem := (endWaits_does _).caseMem_eq.trans (lateAtTick_does s).caseMem_eq
  have hPassed : Does [.frame, .portA, .portB, .dev, .flash, .life] (passTime (settle k' s0)) s1 := does_onlyIf (does_refl _ _) unstick_does
  have hMoved := does_ite (c := moves) (moveOn_does dec s1) (does_refl _ s1)
  constructor
  · rw [hMoved.marksOf_eq (by decide), hPassed.marksOf_eq (by decide), passTime_marksOf, marksOf, settle_tick, hTick, hKind]
  · rw [hMoved.caseMem_eq, hPassed.caseMem_eq, (passTime_does _).caseMem_eq, settle_caseMem, hKind, settleCase, onCase_caseMem, hCase]
    rfl

theorem exec_tick_eq_next {s : State} (hRuns : coreRuns s = true) : exec .tick s = .next (runTick s) := by
  rw [exec_tick_of_coreRuns hRuns, ← (runTick_does s).pending_eq]

/-- What a tick with one outcome leaves (R40, R43, R44). -/
theorem tick_leaves {s : State} {k : FrameEnd} (hEnd : frameEnd (lateAtTick (beforeTick s)) = k) :
    ((runTick s).tick.count = s.tick.count + 1 ∧ (runTick s).tick.slips = (if slips k then s.tick.slips + 1 else s.tick.slips)
      ∧ (runTick s).tick.lastCommit = (if ownCommits k || inboundCommits k then s.tick.count + 1 else s.tick.lastCommit))
    ∧ (runTick s).caseMem = (settleCase k s).caseMem := by
  obtain ⟨hMarks, hCase⟩ := endFrame_settled hEnd
  have hBefore := beforeTick_does s
  have hRun : marksOf (runTick s) = marksOf (endFrame (beforeTick s)).1 := by
    rw [runTick, (openFrame_does _ _).marksOf_eq (by decide), betweenFrames_marksOf]
  rw [hMarks, hBefore.tick_eq] at hRun
  obtain ⟨hSlips, hLast⟩ := Prod.mk.inj hRun
  obtain ⟨hCount, -⟩ := Prod.mk.inj (runTick_clockOf s)
  refine ⟨⟨hCount, hSlips, hLast⟩, ?_⟩
  rw [runTick, (openFrame_does _ _).caseMem_eq, (betweenFrames_does _ _ _).caseMem_eq, hCase, settleCase, onCase_caseMem, hBefore.caseMem_eq]
  rfl

/-! ### Case memory reads as it did from staging (R36, R40) -/

/-- Folding an overlay with rising keys shows each of its bytes, and elsewhere the memory. -/
theorem read_fold {a : Nat} : ∀ {ov m : List Host.Cell}, Memory.wf m = true → keysRise ov →
    Memory.read (Memory.fold m ov) a = (SMap.get? ov a).getD (Memory.read m a)
  | [], _, _, _ => rfl
  | (k, v) :: rest, m, hWf, hRise => by
    obtain ⟨hAbove, hRest⟩ := List.pairwise_cons.mp hRise
    have hFold : Memory.read (Memory.fold m ((k, v) :: rest)) a = (SMap.get? rest a).getD (Memory.read (Memory.write m k v) a) :=
      read_fold (wf_write hWf) hRest
    rw [hFold, SMap.get?]
    by_cases hKey : k = a
    · subst hKey
      rw [get?_below hAbove, if_pos rfl, Option.getD_none, read_write_same hWf, Option.getD_some]
    · rw [if_neg hKey, read_write_other (Ne.symm hKey) hWf]
      split
      next hBelow => rw [get?_below fun p hp => hBelow.trans (hAbove p hp)]
      · rfl

theorem caseByte_of_committed {s t : State} (h : t.caseMem = (settleCase .commit s).caseMem) (hWf : Memory.wf s.caseMem.mem = true)
    (hRise : keysRise s.caseMem.staged) (cell off : Nat) : caseByte t cell off = caseByte s cell off := by
  have hRead : caseByte t cell off = Memory.read (Memory.fold s.caseMem.mem s.caseMem.staged) (caseKey cell off) := by
    rw [caseByte, h]
    rfl
  rw [hRead, read_fold hWf hRise, caseByte]
  cases SMap.get? s.caseMem.staged (caseKey cell off) with
  | none => rfl
  | some b => rfl

/-! ### What leaves the fabric but its traffic (R289) -/

theorem TrafficOnly.groupsNext {s t : State} (h : TrafficOnly s t) : t.fabric.groupsNext = s.fabric.groupsNext := by rw [h]

theorem countEventWith_traffic (l : Level) (unit source : Nat) (forced early act : Bool) (s : State) :
    TrafficOnly s (countEventWith l unit source forced early act s) := by
  have hLatch := latchEvent_keeps l unit source forced early s
  unfold countEventWith
  dsimp only
  split_ifs
  · exact (hLatch.trans (dropNow_keeps l unit source _ early _)).traffic
  · exact hLatch.traffic
  · exact ((standFault_keeps l unit source forced s).trans (countSimple_keeps l unit source forced early act _)).traffic

theorem uncorrectable_traffic (phys word : Nat) (confirmed : Bool) (s : State) : TrafficOnly s (uncorrectable phys word confirmed s) := by
  unfold uncorrectable
  extract_lets u
  have hCount : TrafficOnly s u := (countEvent_keeps _ _ _ s).traffic.trans (TrafficOnly.trans (t := onLife _ _) rfl (.of_does (weaken_does _ _ _) (by decide)))
  split
  · exact hCount.trans (.of_does (enterPoison_does _ _ _) (by decide))
  · exact hCount.trans (TrafficOnly.trans (t := { u with hbm := _ }) rfl (inDoubt_keeps _).traffic)

theorem readWord_traffic (u : HbmUpset) (s : State) : TrafficOnly s (readWord u s) := by
  unfold readWord
  split
  · exact .refl s
  · split
    · exact .refl s
    · exact (countEvent_keeps _ _ _ s).traffic.trans (TrafficOnly.trans (t := onLife _ _) rfl (.of_does (xorWord_does _ _ _ _) (by decide)))
    · exact uncorrectable_traffic _ _ _ s

theorem bar2Word_traffic (u : HbmUpset) (s : State) : TrafficOnly s (bar2Word u s) := by
  unfold bar2Word
  split
  · exact .refl s
  · split
    · exact (countEventWith_traffic _ _ _ _ _ _ s).trans (TrafficOnly.trans (t := onLife _ _) rfl (.of_does (weaken_does _ _ _) (by decide)))
    · exact readWord_traffic u s

theorem countListed_traffic (phys : Nat) (s : State) : TrafficOnly s (countListed phys s) :=
  (countEventWith_traffic _ _ _ _ _ _ s).trans rfl

theorem serveRead_traffic (p : PPort) (a len : Nat) (reads : List HbmUpset) (s : State) : TrafficOnly s (serveRead p a len reads s) := by
  unfold serveRead
  exact ((TrafficOnly.foldl (fun x _ => countListed_traffic _ x) _ s).trans (.foldl (fun x u => bar2Word_traffic u x) _ _)).trans
    (.of_does (setRead_does p _ _) (by decide))

theorem stageCarried_traffic (k : Nat) (s : State) : TrafficOnly s (stageCarried k s).1 := by
  unfold stageCarried
  split_ifs
  · exact .refl s
  · exact .of_eq (takePage_does (pageStack k) none s).fabric_eq
  · exact stagingOverflow_traffic _ _

theorem hbmCarry_traffic (host : Bool) (a : Nat) (bytes : List Byte) (s : State) : TrafficOnly s (hbmCarry host a bytes s) := by
  unfold hbmCarry
  refine .foldl (fun x k => ?_) _ s
  have hStage := stageCarried_traffic k x
  split
  · exact .refl x
  · split
    next hTaken =>
      rw [hTaken] at hStage
      exact hStage
    next hTaken =>
      rw [hTaken] at hStage
      exact hStage.trans (.of_eq rfl)

theorem hostCarry_traffic (a : Nat) (bytes : List Byte) (s : State) : TrafficOnly s (hostCarry a bytes s) := by
  unfold hostCarry
  refine .foldl (fun x k => ?_) _ s
  split
  · exact .refl x
  · exact hbmCarry_traffic _ _ _ x

theorem serveWait_traffic (w : Bar2Wait) (s : State) : TrafficOnly s (serveWait w s) := by
  unfold serveWait
  extract_lets s1
  have hPort : TrafficOnly s s1 := .of_does (onPort_does w.port _ s) (by decide)
  split
  · exact hPort.trans (hostCarry_traffic _ _ s1)
  · exact hPort.trans (serveRead_traffic _ _ _ _ s1)

theorem beforeTick_traffic (s : State) : TrafficOnly s (beforeTick s) := by
  have hServed : TrafficOnly s (serveWaits (fun _ => true) s) :=
    TrafficOnly.trans (t := onHbm _ s) rfl (.foldl (fun x w => serveWait_traffic w x) _ _)
  exact hServed.trans (.of_does (settleXfers_does _) (by decide))

theorem lateAtTick_traffic (s : State) : TrafficOnly s (lateAtTick s) := by
  unfold lateAtTick
  extract_lets s1
  split
  · rw [chipLate_eq]
    split
    · rfl
    · exact TrafficOnly.trans (t := onFrame _ s1) rfl (raiseHold_keeps _ _).traffic
  · rfl

theorem endWaits_groupsNext (s : State) : (endWaits s).fabric.groupsNext = s.fabric.groupsNext := by
  unfold endWaits
  split
  · rfl
  · rfl

theorem severeLate_traffic (s : State) (w : Nat × Nat) : TrafficOnly s (severeLate s w) := by
  unfold severeLate
  dsimp only
  split
  · exact (dropWorstLane_keeps _ _ s).traffic
  · exact (severeAction_keeps _ _ _ _ s).traffic

theorem takeWaiting_traffic (s : State) : TrafficOnly s (takeWaiting s) := by
  unfold takeWaiting
  split
  · exact .refl s
  · exact TrafficOnly.trans (t := { s with faults := _ }) rfl (.foldl severeLate_traffic _ _)

theorem tickLaneCounts_traffic (s : State) : TrafficOnly s (tickLaneCounts s) := by
  unfold tickLaneCounts
  refine .foldl (fun x p => ?_) _ s
  dsimp only
  split
  · exact onClasp_traffic _ _ x
  · exact .refl x

theorem takeAlignment_traffic (s : State) : TrafficOnly s (takeAlignment s) := by
  unfold takeAlignment
  split
  · exact .refl s
  · exact TrafficOnly.trans (t := onDev _ (onTick _ s)) rfl (countEvent_keeps _ _ _ _).traffic
  · rfl

theorem tickRepairs_traffic (s : State) : TrafficOnly s (tickRepairs s) := by
  unfold tickRepairs
  extract_lets s1 s2
  have hTrains : TrafficOnly s1 s2 := by
    unfold s2 startRetrain
    split
    · exact TrafficOnly.trans (t := onDev _ s1) rfl (.foldl (fun x p => trainPort_traffic p x) _ _)
    · exact .refl s1
  have hEnds : Does [.portA, .portB, .dev, .flash, .life] s2
      (endRepair (if standsStill s2 && (s2.dev.state = .held || s2.dev.state = .loaded) then startReimp s2 else s2)) :=
    does_step (endRepair_does _) (by decide) (does_ite (does_mono (startReimp_does s2) (by decide)) (does_refl _ s2))
  exact ((TrafficOnly.of_does (endRetrain_does s) (by decide)).trans hTrains).trans (.of_does hEnds (by decide))

/-- Between two frames ports train and events are sent, and nothing else of the fabric changes. -/
theorem betweenFrames_traffic (k : FrameEnd) (closing : Bool) (s : State) : TrafficOnly s (betweenFrames k closing s) := by
  unfold betweenFrames
  extract_lets s1 s2 s3
  have h1 : TrafficOnly s s1 :=
    ((((TrafficOnly.of_does (tickConfigs_does s) (by decide)).trans (tickLaneCounts_traffic _)).trans (.of_does (powerTick_does _) (by decide))).trans
      (.of_does (takeDomain_does _) (by decide))).trans (takeAlignment_traffic _)
  have h2 : TrafficOnly s1 s2 := ((TrafficOnly.of_does (endStop_does s1) (by decide)).trans (takeWaiting_traffic _)).trans (.of_does (tickCells_does _ _) (by decide))
  have h3 : TrafficOnly s2 s3 := (TrafficOnly.of_does (cutSnapshot_does closing s2) (by decide)).trans (.of_does (does_onlyIf (does_refl _ _) enterReady_does) (by decide))
  exact ((h1.trans h2).trans h3).trans ((TrafficOnly.of_does (barrier_does closing _ s3) (by decide)).trans (tickRepairs_traffic _))

/-! ### Statistics as a frame opens (R215, R336) -/

theorem installTables_stats (s : State) : (installTables s).stats.own = s.stats.own ∧ (installTables s).stats.inbound = s.stats.inbound
    ∧ (s.fabric.groupsNext = none → (installTables s).stats.committed = s.stats.committed) := by
  unfold installTables
  extract_lets s1
  have hRoutes : s1.stats = s.stats ∧ s1.fabric.groupsNext = s.fabric.groupsNext := by
    unfold s1
    split
    · rw [(finishCmd_does _ _ _ _ _).stats_eq, (finishCmd_does _ _ _ _ _).fabric_eq]
      exact ⟨rfl, rfl⟩
    · exact ⟨rfl, rfl⟩
  obtain ⟨hStats, hGroups⟩ := hRoutes
  split
  · rw [hStats]
    exact ⟨rfl, rfl, fun _ => rfl⟩
  next hSome =>
    extract_lets s2 s3
    rw [(finishCmd_does _ _ _ _ s3).stats_eq]
    have hOwn : s3.stats.own = s.stats.own ∧ s3.stats.inbound = s.stats.inbound := by
      rw [← hStats]
      unfold s3
      split
      · exact ⟨rfl, rfl⟩
      · exact ⟨rfl, rfl⟩
    exact ⟨hOwn.1, hOwn.2, fun hNone => by rw [hGroups, hNone] at hSome; cases hSome⟩

theorem orphanFrame_of_none {s : State} (h : s.image.orphans = []) : orphanFrame s = s := by
  unfold orphanFrame
  split
  · exact if_pos (by rw [h]; rfl)
  · rfl

/-- A frame that opens, before the loss of its orphans stands in. -/
def openedFrame (k : FrameEnd) (s : State) : State :=
  tickServes (resendXfers (markDamaged (tickForced (sendStepItems (sampleItems (openingHolds k (checkBatch (sendMarkers
    (openStep (startProof (takeRun (freshFrame (installTables s)))))))))))))

theorem openFrame_eq (k : FrameEnd) (s : State) : openFrame k s = orphanFrame (openedFrame k s) := rfl

theorem openedFrame_does (k : FrameEnd) (s : State) :
    Does [.frame, .step, .cells, .hbm, .portA, .portB, .mbx, .dev, .power, .faults, .fabric, .snap, .flash, .life, .freeIdx] (installTables s)
      (openedFrame k s) := by
  unfold openedFrame
  refine does_step (tickServes_does _) (by decide) (does_step (resendXfers_does _) (by decide) ?_)
  refine does_step (markDamaged_does _) (by decide) (does_step (tickForced_does _) (by decide) ?_)
  refine does_step (sendStepItems_does _) (by decide) (does_step (sampleItems_does _) (by decide) ?_)
  refine does_step (openingHolds_does _ _) (by decide) (does_step (checkBatch_does _) (by decide) (does_step (sendMarkers_does _) (by decide) ?_))
  refine does_step (openStep_does _) (by decide) (does_step (startProof_does _) (by decide) (does_step (takeRun_does _) (by decide) ?_))
  exact does_mono (freshFrame_does _) (by decide)

/-- Where no orphan's loss stands in, the statistics are those that the installation of tables leaves. -/
theorem openFrame_stats {k : FrameEnd} {s : State} (h : (openFrame k s).image.orphans = []) : (openFrame k s).stats = (installTables s).stats := by
  rw [openFrame_eq] at h ⊢
  rw [(orphanFrame_does _).image_eq] at h
  rw [orphanFrame_of_none h, (openedFrame_does k s).stats_eq]

/-! ### A withheld tick (R43) -/

theorem settleFrame_formeIdx (k : FrameEnd) (worked own : Bool) (t : W64) (f : FrameSt) : (settleFrame k worked own t f).formeIdx = f.formeIdx := rfl

theorem settleContrib_groupsNext (inbound : Bool) (stage : Option Nat) (f : FabricSt) :
    (settleContrib inbound stage f).groupsNext = f.groupsNext := rfl

theorem passTime_groupsNext (s : State) : (passTime s).fabric.groupsNext = s.fabric.groupsNext := rfl

section Withheld

variable {s : State} (hEnd : frameEnd (lateAtTick (beforeTick s)) = .withhold)
include hEnd

theorem endFrame_of_withheld : (endFrame (beforeTick s)).1 = passTime (settle .withhold (endWaits (lateAtTick (beforeTick s)))) :=
  endFrame_of_not_own hEnd rfl

theorem formeIdx_of_withheld : (endFrame (beforeTick s)).1.frame.formeIdx = (lateAtTick (beforeTick s)).frame.formeIdx := by
  obtain ⟨-, -, hForme⟩ := memoriesSettled_withhold (endWaits (lateAtTick (beforeTick s)))
  rw [endFrame_of_withheld hEnd, (passTime_does _).frame_eq, settle_frame, settleFrame_formeIdx, hForme.formeIdx, (endWaits_does _).frame_eq]

theorem stats_of_withheld : (endFrame (beforeTick s)).1.stats.own = [] ∧ (endFrame (beforeTick s)).1.stats.inbound = []
    ∧ (endFrame (beforeTick s)).1.stats.committed = s.stats.committed := by
  obtain ⟨hStats, -, -⟩ := memoriesSettled_withhold (endWaits (lateAtTick (beforeTick s)))
  rw [endFrame_of_withheld hEnd, (passTime_does _).stats_eq, settle_stats, hStats, (endWaits_does _).stats_eq, (lateAtTick_does _).stats_eq,
    (beforeTick_does s).stats_eq]
  exact ⟨rfl, rfl, rfl⟩

theorem groupsNext_of_withheld : (endFrame (beforeTick s)).1.fabric.groupsNext = s.fabric.groupsNext := by
  obtain ⟨-, hTraffic, -⟩ := memoriesSettled_withhold (endWaits (lateAtTick (beforeTick s)))
  rw [endFrame_of_withheld hEnd, passTime_groupsNext, settle_fabric, settleContrib_groupsNext, hTraffic.groupsNext, endWaits_groupsNext,
    (lateAtTick_traffic _).groupsNext, (beforeTick_traffic s).groupsNext]

theorem tick_stats_of_withheld (hOrphans : (runTick s).image.orphans = []) : (runTick s).stats.own = [] ∧ (runTick s).stats.inbound = []
    ∧ (s.fabric.groupsNext = none → (runTick s).stats.committed = s.stats.committed) := by
  obtain ⟨hOwn, hInbound, hCommitted⟩ := stats_of_withheld hEnd
  obtain ⟨hOwn', hInbound', hCommitted'⟩ := installTables_stats
    (betweenFrames (endFrame (beforeTick s)).2.1 (endFrame (beforeTick s)).2.2 (endFrame (beforeTick s)).1)
  rw [(betweenFrames_does _ _ _).stats_eq] at hOwn' hInbound' hCommitted'
  rw [runTick] at hOrphans ⊢
  rw [openFrame_stats hOrphans]
  exact ⟨hOwn'.trans hOwn, hInbound'.trans hInbound, fun hNone =>
    (hCommitted' ((betweenFrames_traffic _ _ _).groupsNext.trans ((groupsNext_of_withheld hEnd).trans hNone))).trans hCommitted⟩

end Withheld

/-! ### The obligation -/

/-- Settles O8: the outcome of the frame in each case, and what the tick leaves with that outcome (`tick_leaves`). -/
theorem ticksWithholdOrCommit : Obligations.TicksWithholdOrCommit := by
  unfold Obligations.TicksWithholdOrCommit
  intro s hRuns b e m ownLate left counts
  have hExec := exec_tick_eq_next hRuns
  refine ⟨hExec, fun hAligned hUp => ⟨fun hReplay hHold => ?_, fun hReplay hHold hOwn => ?_, fun hReplay hHold hOwn => ?_,
    fun hReplay hDoubt hLate => ?_, fun hReplay hBad => ?_⟩, fun hAligned hStopped => ?_, fun hAligned => ?_⟩
  · have hEnd := frameEnd_of_targeted hAligned hUp hReplay hHold
    obtain ⟨hCounts, hCase⟩ := tick_leaves hEnd
    exact ⟨formeIdx_of_withheld hEnd, _, hExec, hCounts, hCase, tick_stats_of_withheld hEnd⟩
  · obtain ⟨hCounts, hCase⟩ := tick_leaves (frameEnd_of_clean hAligned hUp hReplay hHold hOwn)
    exact ⟨_, hExec, hCounts, hCase, fun hOk hRise => caseByte_of_committed hCase hOk.cases.mem hRise⟩
  · have hEnd := frameEnd_of_ownLate hAligned hUp hReplay hHold hOwn
    exact ⟨endFrame_replaying hEnd, _, hExec, tick_leaves hEnd⟩
  · have hEnd := frameEnd_of_replay hAligned hUp hReplay hDoubt hLate
    exact ⟨endFrame_replaying hEnd, _, hExec, tick_leaves hEnd⟩
  · have hEnd := frameEnd_of_replay_fails hAligned hUp hReplay hBad
    exact ⟨endFrame_replaying hEnd, _, hExec, tick_leaves hEnd⟩
  · exact ⟨_, hExec, tick_leaves (frameEnd_of_stopped hAligned hStopped)⟩
  · exact ⟨_, hExec, tick_leaves (frameEnd_of_unaligned hAligned)⟩

end Sys2Proof.Machine
end
